-- ==== Sys2Proof/Word.lean ====
section
/-! DEFINITION. The word types of the Aedim S8, the names of its elements, and the plain-data containers the state
is built from. -/

namespace Sys2Proof

/-- One byte of a memory space. -/
abbrev Byte := BitVec 8

/-- One 64-bit word: a scalar register, a control register, a header word (R77, R92, R46). -/
abbrev Word := BitVec 64

/-- One vector register of 1,024 bits (R77). -/
abbrev Vec := BitVec 1024

/-- A table from keys to items: an association list in which a key stands at most once. A key that is not listed
has the item its reader names (the reset value of the element). -/
abbrev Tbl (κ α : Type) := List (κ × α)

/-- A die: the physical position of its package in the domain (hall × 32 + index, R406) and its number 0–7. -/
structure DieId where
  pkg : Nat
  die : Nat
  deriving DecidableEq, Repr

/-- A cluster 0–3 of a die. -/
structure CluId where
  die : DieId
  clu : Nat
  deriving DecidableEq, Repr

/-- A core 0–95 of a cluster. -/
structure CoreId where
  die : DieId
  clu : Nat
  core : Nat
  deriving DecidableEq, Repr

/-- A stage slot 0–15 of a core (R39). -/
structure SlotId where
  core : CoreId
  slot : Nat
  deriving DecidableEq, Repr

/-- A supervisor core 0–3 of a die (R341). -/
structure SupId where
  die : DieId
  k : Nat
  deriving DecidableEq, Repr

/-- What can issue bundles: the firing of a slot, or a supervisor core. -/
inductive Agent where
  | stage (s : SlotId)
  | sup (v : SupId)
  deriving DecidableEq, Repr

/-- One port of a slot, and for a merge port the channel that feeds it (R41, R264). -/
structure PortId where
  slot : SlotId
  port : Nat
  chan : Nat
  deriving DecidableEq, Repr

/-- A packet: the four header words of R46 and the payload bytes. -/
structure Packet where
  w0 : Word
  w1 : Word
  w2 : Word
  w3 : Word
  payload : List Byte
  deriving DecidableEq, Repr

/-- A flit on a package ring (R378–R381): the stops that it comes from and is for, its ring, the class, the 80 bytes, and its
refusal count. -/
structure RingFlit where
  src : Nat
  dst : Nat
  ring : Nat
  cls : Nat
  data : BitVec 640
  refused : Nat
  deriving DecidableEq, Repr

/-- A failure notice (R419): its origin and number, and the package, port and peer it names. -/
structure Notice where
  origin : Nat
  num : Nat
  failed : Nat
  port : Nat
  peer : Nat
  deriving DecidableEq, Repr

/-- A negotiation message (R408): the sender's port mode and identity, and its attestation report with its signature. -/
structure NegMsg where
  hostMode : Bool
  serial : Word
  lpkg : Nat
  hall : Nat
  idx : Nat
  port : Nat
  pkey : BitVec 16
  report : List Byte
  sig : BitVec 768
  deriving DecidableEq, Repr

/-- One chunk of `FW_LOAD` (R389): its 16-byte header and its data. -/
structure FwChunk where
  h0 : Word
  h1 : Word
  data : List Byte
  deriving DecidableEq, Repr

/-- One block of the boot manifest (R430): its number, the digest of its bytes, its destination (the logical number of a package,
0x3FFF for every package; the die; the core, as cluster and number, where it is a scratchpad; the address), its length, and
whether it is an image block. -/
structure BootBlock where
  num : Nat
  sha : BitVec 384
  dst : Nat
  die : Nat
  core : Option (Nat × Nat)
  addr : Nat
  len : Nat
  image : Bool
  deriving DecidableEq, Repr, Inhabited

/-- The boot manifest (R430): its blocks, the spanning tree as (parent, child) logical numbers, and the logical numbers of
the active packages. -/
structure Manifest where
  blocks : List BootBlock
  tree : List (Nat × Nat)
  actives : List Nat
  deriving DecidableEq, Repr, Inhabited

/-- What management does with a part of a boot block that it has verified (R341, R399, R400): an image for a die's code store, from a
page on; the same as the image of a supervisor core; or bytes of the stair, for an address of the gallery. -/
inductive BootMove where
  | code (die page : Nat) (data : List Byte)
  | sup (die k page : Nat) (data : List Byte)
  | stair (die addr : Nat) (data : List Byte)
  deriving DecidableEq, Repr, Inhabited

/-- What a signature covers, the key that made it, and its two numbers (R399). -/
structure Signed where
  bytes : List Byte
  key : Nat × Nat
  r : Nat
  t : Nat
  deriving DecidableEq, Repr, Inhabited

/-- The header of a management firmware image (R399): the security version number, the length and the SHA-384 of the body, the
signature over the header; and the body that follows. -/
structure ImageHead where
  svn : BitVec 32
  len : Nat
  sha : BitVec 384
  signed : Signed
  body : List Byte
  deriving DecidableEq, Repr, Inhabited

/-- What a mirrored slot's die forwards (R433): a sequence request or a store into a frame. -/
inductive MirrorOp where
  | store (h : Nat) (slotIx : Nat) (off : Nat) (data : List Byte)
  | create (h : Nat) (size : Nat) (kv : Bool) (id : Nat)
  | reserve (h : Nat) (n : Nat) (id : Nat)
  | commit (h : Nat) (f : Nat) (n : Nat) (id : Nat)
  | fork (h : Nat) (child : Nat) (id : Nat)
  | drop (h : Nat) (id : Nat)
  deriving DecidableEq, Repr

/-- A message to a mirror: the die that forwards, and what it forwards (R433). -/
structure MirrorMsg where
  src : DieId
  op : MirrorOp
  deriving DecidableEq, Repr

end Sys2Proof
end

