-- ==== Sys2Proof/Machine/Bits.lean ====
section
/-! DEFINITION. Bits and bytes: the byte order of R2, fields, sign extension, and lanes. -/

namespace Sys2Proof.Machine

/-- The low `n` bytes of a number, the least significant first (R2). -/
def leBytes : Nat → Nat → List Byte
  | 0, _ => []
  | n + 1, v => BitVec.ofNat 8 v :: leBytes n (v / 256)

/-- The number that bytes stand for, the least significant first (R2). -/
def leNat : List Byte → Nat
  | [] => 0
  | b :: bs => b.toNat + 256 * leNat bs

/-- The field of `k` bits of `n` at bit `lo`. -/
def bitsAt (n lo k : Nat) : Nat := n / 2 ^ lo % 2 ^ k

/-- A field of a word. -/
def wbits (w : Word) (lo k : Nat) : Nat := bitsAt w.toNat lo k

/-- `n` with the field of `k` bits at bit `lo` replaced by `v`. -/
def putBits (n lo k v : Nat) : Nat := n - bitsAt n lo k * 2 ^ lo + v % 2 ^ k * 2 ^ lo

/-- A word with one field replaced. -/
def wput (w : Word) (lo k v : Nat) : Word := BitVec.ofNat 64 (putBits w.toNat lo k v)

/-- The low `k` bits of `n` as a two's-complement number. -/
def signedOf (k n : Nat) : Int := if n % 2 ^ k < 2 ^ (k - 1) then (n % 2 ^ k : Nat) else ((n % 2 ^ k : Nat) : Int) - 2 ^ k

/-- A number as a 64-bit word, modulo 2^64. -/
def toWord (n : Nat) : Word := BitVec.ofNat 64 n

/-- An integer as a 64-bit word, modulo 2^64. -/
def intWord (n : Int) : Word := BitVec.ofInt 64 n

/-- One bit as a number. -/
def bit (b : Bool) : Nat := if b then 1 else 0

/-- The lane of `w` bits at index `i` of a vector register (R78). -/
def lane (w : Nat) (v : Vec) (i : Nat) : Nat := bitsAt v.toNat (w * i) w

/-- The vector register whose lanes of `w` bits are given, lane 0 first; lanes that are not given are zero (R78). -/
def packLanes (w : Nat) : List Nat → Nat
  | [] => 0
  | x :: xs => x % 2 ^ w + 2 ^ w * packLanes w xs

/-- A vector register from its lanes. -/
def ofLanes (w : Nat) (xs : List Nat) : Vec := BitVec.ofNat 1024 (packLanes w xs)

/-- The lanes of a vector register, lane 0 first. -/
def lanes (w : Nat) (v : Vec) : List Nat := (List.range (1024 / w)).map (lane w v)

/-- The 128 bytes of a vector register in memory order (R78). -/
def vecBytes (v : Vec) : List Byte := leBytes 128 v.toNat

/-- A vector register from its bytes. -/
def bytesVec (bs : List Byte) : Vec := BitVec.ofNat 1024 (leNat bs)

/-- Division rounded up. -/
def ceilDiv (a b : Nat) : Nat := (a + b - 1) / b

/-- The number of one bits among the low `k` of `n`. -/
def popCount : Nat → Nat → Nat
  | 0, _ => 0
  | k + 1, n => n % 2 + popCount k (n / 2)

/-- The table's item under a key, or the item that stands for an absent one. -/
def tget {κ α : Type} [DecidableEq κ] (t : Tbl κ α) (k : κ) (d : α) : α :=
  match t with
  | [] => d
  | (k', a) :: r => if k' = k then a else tget r k d

/-- The table with the item under a key replaced, or added at the end. -/
def tset {κ α : Type} [DecidableEq κ] (t : Tbl κ α) (k : κ) (a : α) : Tbl κ α :=
  match t with
  | [] => [(k, a)]
  | (k', a') :: r => if k' = k then (k, a) :: r else (k', a') :: tset r k a

/-- The item under a key, if one is listed. -/
def tfind {κ α : Type} [DecidableEq κ] (t : Tbl κ α) (k : κ) : Option α :=
  match t with
  | [] => none
  | (k', a) :: r => if k' = k then some a else tfind r k

/-- The table without a key. -/
def tdel {κ α : Type} [DecidableEq κ] (t : Tbl κ α) (k : κ) : Tbl κ α := t.filter (fun e => e.1 ≠ k)

/-- The number inserted in an ascending list without repeats. -/
def insertNat (n : Nat) : List Nat → List Nat
  | [] => [n]
  | m :: r => if n < m then n :: m :: r else if n = m then m :: r else m :: insertNat n r

/-- Bytes XORed. -/
def xorBytes (a b : List Byte) : List Byte := (a.zip b).map (fun p => p.1 ^^^ p.2)

end Sys2Proof.Machine
end

