-- ==== Sys2Proof/Machine/Flags.lean ====
section
/-! DEFINITION. The sticky flags of `FSTAT` (R93) and the results that set them. -/

namespace Sys2Proof.Machine

/-- `IV`: a NaN was created, or a value had no representation (R93). -/
def flIV : BitVec 6 := 1
/-- `OF`: overflow (R93). -/
def flOF : BitVec 6 := 2
/-- `UF`: tiny after rounding and inexact (R93). -/
def flUF : BitVec 6 := 4
/-- `NX`: inexact (R93). -/
def flNX : BitVec 6 := 8
/-- `DZ`: division by zero (R93). -/
def flDZ : BitVec 6 := 16
/-- `SN`: an E8M0 NaN scale was applied (R93). -/
def flSN : BitVec 6 := 32

/-- The flags of several results, by OR (R93). -/
def orFlags (fs : List (BitVec 6)) : BitVec 6 := fs.foldl (· ||| ·) 0

/-- The values and the flags of several results. -/
def gatherResults (rs : List (Nat × BitVec 6)) : List Nat × BitVec 6 := (rs.map (·.1), orFlags (rs.map (·.2)))

end Sys2Proof.Machine
end

