-- ==== Sys2Proof/Machine/Memory.lean ====
section
/-! DEFINITION. A memory space as a list of (address, byte) pairs in one canonical form: addresses strictly rising and
no byte zero; a byte that is not listed reads zero (R172, R273; log 7). -/

namespace Sys2Proof.Machine

/-- The contents of a memory space. -/
abbrev Mem := List Host.Cell

/-- What an address reads as when nothing is listed there. -/
def unlisted : Byte := 0

/-- The byte at an address. -/
def memByte (m : Mem) (a : Nat) : Byte :=
  match m with
  | [] => unlisted
  | (a', b) :: r => if a' = a then b else memByte r a

/-- One byte written, keeping the canonical form. -/
def memPut (m : Mem) (a : Nat) (b : Byte) : Mem :=
  match m with
  | [] => if b = unlisted then [] else [(a, b)]
  | (a', b') :: r =>
    if a < a' then (if b = unlisted then (a', b') :: r.filter (fun e => e.1 ≠ a) else (a, b) :: (a', b') :: r)
    else if a = a' then (if b = unlisted then r.filter (fun e => e.1 ≠ a) else (a, b) :: r)
    else (a', b') :: memPut r a b

/-- Bytes read in ascending address order. -/
def memRead (m : Mem) (a n : Nat) : List Byte := (List.range n).map (fun i => memByte m (a + i))

/-- Bytes written at ascending addresses. -/
def memWrite (m : Mem) (a : Nat) : List Byte → Mem
  | [] => m
  | b :: bs => memWrite (memPut m a b) (a + 1) bs

/-- A number of `n` bytes read in the byte order of R2. -/
def memNat (m : Mem) (a n : Nat) : Nat := leNat (memRead m a n)

/-- Every address of a space at or above `lo`, in canonical form. -/
def memWfFrom (lo : Nat) : Mem → Bool
  | [] => true
  | (a, b) :: r => decide (lo ≤ a) && b != unlisted && memWfFrom (a + 1) r

/-- The canonical form: strictly rising addresses, and no listed byte equal to an unlisted one. -/
def memWf (m : Mem) : Bool := memWfFrom 0 m

end Sys2Proof.Machine
end

