-- ==== Sys2Proof/Syntax.lean ====
section
/-! DEFINITION. The operations and events of the Aedim S8: one constructor per row of spec/opcode_table.json. -/

namespace Sys2Proof

/-- An operand that an EXT syllable can carry in place of the syllable's own field (R27): the field of `n` bits,
the imm28 of one EXT syllable, or the imm28 of the first and of the second. -/
inductive Opnd (n : Nat) where
  | fld (v : BitVec n)
  | ext1 (e : BitVec 28)
  | ext2 (e f : BitVec 28)
  deriving DecidableEq, Repr

/-- One constructor per row of the table of operations and events. The rows with an encoding hold the
guard `p` and the operand fields of their form (R18); the others name the element and the item they act on. -/
inductive Instr where
  /-- `NOP` (R129): Spends one issue cycle and has no other effect. -/
  | nop (p : BitVec 4)
  /-- `END` (R76): Ends the firing once the other syllables of its bundle have taken effect, and starts the END completion. -/
  | endFiring (p : BitVec 4)
  /-- `BR` (R121): Branches to the bundle start plus 4 times the sign-extended disp18. -/
  | br (p : BitVec 4) (d : BitVec 18)
  /-- `BR.R` (R121): Branches to the address in xa and traps on a misaligned target. -/
  | brR (p : BitVec 4) (a : BitVec 6)
  /-- `BR.T` (R122): Tests up to four predicates and branches to the first target whose predicate is 1; the displacements are held in two EXT syllables. -/
  | brT (p q1 q2 q3 q4 : BitVec 4) (n : BitVec 2) (t1 t2 t3 t4 : BitVec 14)
  /-- `CALL` (R123): Pushes the return address onto the return store and branches by disp18. -/
  | call (p : BitVec 4) (d : BitVec 18)
  /-- `CALL.R` (R123): Pushes the return address and branches to the address in xa. -/
  | callR (p : BitVec 4) (a : BitVec 6)
  /-- `RET` (R123): Pops the return store and branches to the popped address. -/
  | ret (p : BitVec 4)
  /-- `LOOP` (R125): Decrements the counter register and branches by disp12 while the counter is nonzero. -/
  | loop (p : BitVec 4) (c : BitVec 6) (d : BitVec 12)
  /-- `LOOP.R` (R127): Closes one kernel execution: counts LC or EC down, shifts the stage predicates, rotates VRB and branches. -/
  | loopR (p : BitVec 4) (d : BitVec 18)
  /-- `SETLC` (R126): Sets LC and EC and initialises the stage predicates for a software-pipelined loop. -/
  | setlc (p : BitVec 4) (e a : BitVec 6) (i : Opnd 6)
  /-- `TAKE` (R71): Returns the next untaken packet of an input port and marks data packets taken, waiting if none has arrived. -/
  | take (p : BitVec 4) (d h : BitVec 6) (n : BitVec 3)
  /-- `EMIT` (R72): Builds a data packet from a scratchpad header image and payload, spends one credit, retains the packet and sends it. -/
  | emit (p : BitVec 4) (d a : BitVec 6) (n : BitVec 3) (k w : BitVec 1)
  /-- `MARK` (R73): Sends a ROUND or EOS marker on one output port or on all of them, waiting for credits. -/
  | mark (p : BitVec 4) (n : BitVec 3) (l e : BitVec 1)
  /-- `PEEK` (R74): Reads a packet address, the pending count, the credits or the status word of a port without waiting. -/
  | peek (p : BitVec 4) (d a : BitVec 6) (n m : BitVec 3)
  /-- `WTAG` (R75): Waits until a ready tag is ready, and acquires when the tag was set by an engine response. -/
  | wtag (p t : BitVec 4)
  /-- `TRAP` (R130): Raises a software trap with the immediate as TRAPV; on a supervisor core it raises event 0x39. -/
  | trap (p : BitVec 4) (i : Opnd 6)
  /-- `MFCR` (R133): Reads a control register into xd. -/
  | mfcr (p : BitVec 4) (d x : BitVec 6)
  /-- `MTCR` (R134): Writes xa into a control register field by field, with the special timing of the register. -/
  | mtcr (p : BitVec 4) (x a : BitVec 6)
  /-- `RFT` (R347): Applies the SVACT action (resume, park, kill the firing or kill the stage) to the trap held by the supervisor core, then clears TRAPC. -/
  | rft (p : BitVec 4)
  /-- `HALT` (R131): Stops issue on a supervisor core until a trap or an event is pending. -/
  | halt (p : BitVec 4)
  /-- `CFG.NEXT` (R358): Loads the next stair record, checks its number and starts the configuration switch. -/
  | cfgNext (p : BitVec 4) (a : BitVec 6)
  /-- `ADD` (R137): Writes xa + xb modulo 2^64. -/
  | add (p : BitVec 4) (d a b : BitVec 6)
  /-- `SUB` (R137): Writes xa - xb modulo 2^64. -/
  | sub (p : BitVec 4) (d a b : BitVec 6)
  /-- `MUL` (R137): Writes the low 64 bits of the product. -/
  | mul (p : BitVec 4) (d a b : BitVec 6)
  /-- `MULH` (R137): Writes the high 64 bits of the signed product. -/
  | mulh (p : BitVec 4) (d a b : BitVec 6)
  /-- `DIV` (R139): Signed division, truncating toward zero, with no trap on division by zero. -/
  | div (p : BitVec 4) (d a b : BitVec 6)
  /-- `DIV.N` (R139): Unsigned division. -/
  | divN (p : BitVec 4) (d a b : BitVec 6)
  /-- `REM` (R139): Signed remainder, taking the sign of xa. -/
  | rem (p : BitVec 4) (d a b : BitVec 6)
  /-- `AND` (R137): Bitwise AND. -/
  | and (p : BitVec 4) (d a b : BitVec 6)
  /-- `OR` (R137): Bitwise OR. -/
  | or (p : BitVec 4) (d a b : BitVec 6)
  /-- `XOR` (R137): Bitwise XOR. -/
  | xor (p : BitVec 4) (d a b : BitVec 6)
  /-- `ANDN` (R137): Writes xa AND NOT xb. -/
  | andn (p : BitVec 4) (d a b : BitVec 6)
  /-- `SHL` (R138): Shifts left by xb, giving 0 for amounts of 64 or more. -/
  | shl (p : BitVec 4) (d a b : BitVec 6)
  /-- `SHR` (R138): Logical right shift by xb. -/
  | shr (p : BitVec 4) (d a b : BitVec 6)
  /-- `SAR` (R138): Arithmetic right shift by xb. -/
  | sar (p : BitVec 4) (d a b : BitVec 6)
  /-- `MIN` (R137): Signed minimum. -/
  | min (p : BitVec 4) (d a b : BitVec 6)
  /-- `MAX` (R137): Signed maximum. -/
  | max (p : BitVec 4) (d a b : BitVec 6)
  /-- `MIN.N` (R137): Unsigned minimum. -/
  | minN (p : BitVec 4) (d a b : BitVec 6)
  /-- `MAX.N` (R137): Unsigned maximum. -/
  | maxN (p : BitVec 4) (d a b : BitVec 6)
  /-- `ADDI` (R140): Adds the sign-extended immediate. -/
  | addi (p : BitVec 4) (d a : BitVec 6) (i : Opnd 6)
  /-- `ANDI` (R140): ANDs with the zero-extended immediate. -/
  | andi (p : BitVec 4) (d a : BitVec 6) (i : Opnd 6)
  /-- `ORI` (R140): ORs with the zero-extended immediate. -/
  | ori (p : BitVec 4) (d a : BitVec 6) (i : Opnd 6)
  /-- `XORI` (R140): XORs with the zero-extended immediate. -/
  | xori (p : BitVec 4) (d a : BitVec 6) (i : Opnd 6)
  /-- `SHLI` (R140): Shifts left by imm6. -/
  | shli (p : BitVec 4) (d a i : BitVec 6)
  /-- `SHRI` (R140): Logical right shift by imm6. -/
  | shri (p : BitVec 4) (d a i : BitVec 6)
  /-- `SARI` (R140): Arithmetic right shift by imm6. -/
  | sari (p : BitVec 4) (d a i : BitVec 6)
  /-- `LI` (R140): Loads the sign-extended immediate into xd. -/
  | li (p : BitVec 4) (d : BitVec 6) (i : Opnd 6)
  /-- `SEL` (R141): Writes xa if the select predicate is 1, else xb, with no guard. -/
  | sel (q : BitVec 4) (d a b : BitVec 6)
  /-- `CLZ` (R142): Counts leading zero bits. -/
  | clz (p : BitVec 4) (d a : BitVec 6)
  /-- `CTZ` (R142): Counts trailing zero bits. -/
  | ctz (p : BitVec 4) (d a : BitVec 6)
  /-- `POPC` (R142): Counts one bits. -/
  | popc (p : BitVec 4) (d a : BitVec 6)
  /-- `EXT` (R143): Extracts a bit field, sign-extended. -/
  | extract (p : BitVec 4) (d a b : BitVec 6)
  /-- `EXT.N` (R143): Extracts a bit field, zero-extended. -/
  | extractN (p : BitVec 4) (d a b : BitVec 6)
  /-- `INS` (R143): Inserts the low bits of xa into a field of xd. -/
  | insert (p : BitVec 4) (d a b : BitVec 6)
  /-- `UNPK` (R148): Unpacks narrow elements from a 128-bit register pair into bytes. -/
  | unpk (p : BitVec 4) (d a b : BitVec 6)
  /-- `PACKB` (R149): Packs the low bits of bytes into a bit stream. -/
  | packb (p : BitVec 4) (d a b : BitVec 6)
  /-- `LUT` (R147): Evaluates the island cells and writes the outputs of cells 64 to 127. -/
  | lut (p : BitVec 4) (d a b : BitVec 6)
  /-- `CMP.EQ` (R144): Compares for equality and writes the predicate by mode. -/
  | cmpEq (p q : BitVec 4) (m : BitVec 2) (a b : BitVec 6)
  /-- `CMP.NE` (R144): Compares for inequality. -/
  | cmpNe (p q : BitVec 4) (m : BitVec 2) (a b : BitVec 6)
  /-- `CMP.LT` (R144): Signed less-than compare. -/
  | cmpLt (p q : BitVec 4) (m : BitVec 2) (a b : BitVec 6)
  /-- `CMP.GE` (R144): Signed greater-or-equal compare. -/
  | cmpGe (p q : BitVec 4) (m : BitVec 2) (a b : BitVec 6)
  /-- `CMP.LTN` (R144): Unsigned less-than compare. -/
  | cmpLtn (p q : BitVec 4) (m : BitVec 2) (a b : BitVec 6)
  /-- `CMP.GEN` (R144): Unsigned greater-or-equal compare. -/
  | cmpGen (p q : BitVec 4) (m : BitVec 2) (a b : BitVec 6)
  /-- `CMPI.EQ` (R144): Compares with a sign-extended immediate for equality. -/
  | cmpiEq (p q : BitVec 4) (m : BitVec 2) (a : BitVec 6) (i : Opnd 6)
  /-- `CMPI.LT` (R144): Signed less-than compare with an immediate. -/
  | cmpiLt (p q : BitVec 4) (m : BitVec 2) (a : BitVec 6) (i : Opnd 6)
  /-- `CMPI.GE` (R144): Signed greater-or-equal compare with an immediate. -/
  | cmpiGe (p q : BitVec 4) (m : BitVec 2) (a : BitVec 6) (i : Opnd 6)
  /-- `PAND` (R145): ANDs two optionally negated predicates. -/
  | pand (p q : BitVec 4) (m : BitVec 2) (n : BitVec 1) (a : BitVec 4) (k : BitVec 1) (b : BitVec 4)
  /-- `POR` (R145): ORs two optionally negated predicates. -/
  | por (p q : BitVec 4) (m : BitVec 2) (n : BitVec 1) (a : BitVec 4) (k : BitVec 1) (b : BitVec 4)
  /-- `PXOR` (R145): XORs two optionally negated predicates. -/
  | pxor (p q : BitVec 4) (m : BitVec 2) (n : BitVec 1) (a : BitVec 4) (k : BitVec 1) (b : BitVec 4)
  /-- `FADD.S` (R150): FP32 addition rounded with RNE. -/
  | faddS (p : BitVec 4) (d a : BitVec 6) (b : Opnd 6)
  /-- `FADD.D` (R150): FP64 addition. -/
  | faddD (p : BitVec 4) (d a : BitVec 6) (b : Opnd 6)
  /-- `FMUL.S` (R150): FP32 multiplication. -/
  | fmulS (p : BitVec 4) (d a : BitVec 6) (b : Opnd 6)
  /-- `FMUL.D` (R150): FP64 multiplication. -/
  | fmulD (p : BitVec 4) (d a : BitVec 6) (b : Opnd 6)
  /-- `FFMA.S` (R150): FP32 fused multiply-add into xd. -/
  | ffmaS (p : BitVec 4) (d a : BitVec 6) (b : Opnd 6)
  /-- `FFMA.D` (R150): FP64 fused multiply-add into xd. -/
  | ffmaD (p : BitVec 4) (d a : BitVec 6) (b : Opnd 6)
  /-- `FMIN.S` (R150): FP32 minimum, with -0 below +0. -/
  | fminS (p : BitVec 4) (d a : BitVec 6) (b : Opnd 6)
  /-- `FMAX.S` (R150): FP32 maximum. -/
  | fmaxS (p : BitVec 4) (d a : BitVec 6) (b : Opnd 6)
  /-- `FCMP.LT` (R152): FP32 less-than compare into a predicate. -/
  | fcmpLt (p q : BitVec 4) (m : BitVec 2) (a : BitVec 6) (b : Opnd 6)
  /-- `FCMP.EQ` (R152): FP32 equality compare into a predicate. -/
  | fcmpEq (p q : BitVec 4) (m : BitVec 2) (a : BitVec 6) (b : Opnd 6)
  /-- `FCVT` (R153): Converts between scalar formats with the selected rounding. -/
  | fcvt (p : BitVec 4) (d a c : BitVec 6)
  /-- `FDIV.S` (R150): FP32 division. -/
  | fdivS (p : BitVec 4) (d a b : BitVec 6)
  /-- `FSQRT.S` (R150): FP32 square root. -/
  | fsqrtS (p : BitVec 4) (d a : BitVec 6)
  /-- `RNG` (R155): Writes G(SEED, CTRBASE) and advances CTRBASE by 1. -/
  | rng (p : BitVec 4) (d : BitVec 6)
  /-- `MULH.N` (R137): Writes the high 64 bits of the unsigned product. -/
  | mulhN (p : BitVec 4) (d a b : BitVec 6)
  /-- `LD.L` (R178): Loads from the local scratchpad, zero-extended. -/
  | ldL (p : BitVec 4) (d a : BitVec 6) (z : BitVec 2) (i : Opnd 4)
  /-- `LDS.L` (R178): Loads from the local scratchpad, sign-extended. -/
  | ldsL (p : BitVec 4) (d a : BitVec 6) (z : BitVec 2) (i : Opnd 4)
  /-- `ST.L` (R178): Stores to the local scratchpad. -/
  | stL (p : BitVec 4) (d a : BitVec 6) (z : BitVec 2) (i : Opnd 4)
  /-- `VLD.L` (R178): Loads 128 bytes from the local scratchpad into a vector. -/
  | vldL (p : BitVec 4) (v : BitVec 5) (a : BitVec 6) (i : Opnd 4)
  /-- `VST.L` (R178): Stores a vector to the local scratchpad. -/
  | vstL (p : BitVec 4) (v : BitVec 5) (a : BitVec 6) (i : Opnd 4)
  /-- `LD.LF` (R179): Waits for the granule's bit to be full and loads, leaving it full. -/
  | ldLf (p : BitVec 4) (d a : BitVec 6) (z : BitVec 2) (i : Opnd 4)
  /-- `LD.LFC` (R179): Waits for the bit to be full, loads and clears it to empty. -/
  | ldLfc (p : BitVec 4) (d a : BitVec 6) (z : BitVec 2) (i : Opnd 4)
  /-- `ST.LF` (R179): Stores and sets the bit full without waiting. -/
  | stLf (p : BitVec 4) (d a : BitVec 6) (z : BitVec 2) (i : Opnd 4)
  /-- `ST.LE` (R179): Waits for the bit to be empty, stores and sets it full. -/
  | stLe (p : BitVec 4) (d a : BitVec 6) (z : BitVec 2) (i : Opnd 4)
  /-- `AMO.L` (R180): Local atomic read-modify-write in the bank. -/
  | amoL (p : BitVec 4) (d a : BitVec 6) (o : BitVec 4) (z : BitVec 2)
  /-- `LD.C` (R238): Cluster-space load, zero-extended. -/
  | ldC (p : BitVec 4) (d a : BitVec 6) (z : BitVec 2) (i : Opnd 4)
  /-- `LDS.C` (R238): Cluster-space load, sign-extended. -/
  | ldsC (p : BitVec 4) (d a : BitVec 6) (z : BitVec 2) (i : Opnd 4)
  /-- `ST.C` (R238): Cluster-space store, setting the target granule full. -/
  | stC (p : BitVec 4) (d a : BitVec 6) (z : BitVec 2) (i : Opnd 4)
  /-- `VLD.C` (R238): Cluster-space vector load. -/
  | vldC (p : BitVec 4) (v : BitVec 5) (a : BitVec 6) (i : Opnd 4)
  /-- `VST.C` (R238): Cluster-space vector store. -/
  | vstC (p : BitVec 4) (v : BitVec 5) (a : BitVec 6) (i : Opnd 4)
  /-- `MCST` (R241): Multicast store of a vector through a window to every target scratchpad. -/
  | mcst (p : BitVec 4) (v : BitVec 5) (a : BitVec 6) (i : Opnd 4)
  /-- `LD.G` (R278): Gallery load, zero-extended. -/
  | ldG (p : BitVec 4) (d a : BitVec 6) (z : BitVec 2) (i : Opnd 4)
  /-- `LDS.G` (R278): Gallery load, sign-extended. -/
  | ldsG (p : BitVec 4) (d a : BitVec 6) (z : BitVec 2) (i : Opnd 4)
  /-- `ST.G` (R278): Gallery store. -/
  | stG (p : BitVec 4) (d a : BitVec 6) (z : BitVec 2) (i : Opnd 4)
  /-- `VLD.G` (R278): Gallery vector load. -/
  | vldG (p : BitVec 4) (v : BitVec 5) (a : BitVec 6) (i : Opnd 4)
  /-- `VST.G` (R278): Gallery vector store. -/
  | vstG (p : BitVec 4) (v : BitVec 5) (a : BitVec 6) (i : Opnd 4)
  /-- `AMO.G` (R281): Gallery atomic, executed at the home port. -/
  | amoG (p : BitVec 4) (d a : BitVec 6) (o : BitVec 4) (z : BitVec 2)
  /-- `CAS.G` (R282): Gallery compare-and-swap on a doubleword. -/
  | casG (p : BitVec 4) (d a b : BitVec 6)
  /-- `LD.N` (R422): Fabric load, zero-extended. -/
  | ldN (p : BitVec 4) (d a : BitVec 6) (z : BitVec 2) (i : Opnd 4)
  /-- `LDS.N` (R422): Fabric load, sign-extended. -/
  | ldsN (p : BitVec 4) (d a : BitVec 6) (z : BitVec 2) (i : Opnd 4)
  /-- `ST.N` (R422): Fabric store. -/
  | stN (p : BitVec 4) (d a : BitVec 6) (z : BitVec 2) (i : Opnd 4)
  /-- `VLD.N` (R422): Fabric vector load. -/
  | vldN (p : BitVec 4) (v : BitVec 5) (a : BitVec 6) (i : Opnd 4)
  /-- `VST.N` (R422): Fabric vector store. -/
  | vstN (p : BitVec 4) (v : BitVec 5) (a : BitVec 6) (i : Opnd 4)
  /-- `AMO.N` (R422): Fabric atomic, possibly merged on its way to the home. -/
  | amoN (p : BitVec 4) (d a : BitVec 6) (o : BitVec 4) (z : BitVec 2)
  /-- `CAS.N` (R422): Fabric compare-and-swap. -/
  | casN (p : BitVec 4) (d a b : BitVec 6)
  /-- `GATH` (R318): Gathers a plain tensor into a vector and binds a ready tag. -/
  | gathVector (p : BitVec 4) (v d : BitVec 5) (t : BitVec 4)
  /-- `GATH` (R318): Gathers a plain tensor into a tile. -/
  | gathTile (p : BitVec 4) (k : BitVec 3) (d : BitVec 5)
  /-- `SQ.NEW` (R309): Creates an OPEN sequence and returns the lowest FREE handle. -/
  | sqNew (p : BitVec 4) (d a : BitVec 6)
  /-- `SQ.RES` (R310): Reserves n consecutive slots, or is refused. -/
  | sqRes (p : BitVec 4) (d h n : BitVec 6)
  /-- `SQ.COM` (R311): Commits reserved slots as a release and advances C. -/
  | sqCom (p : BitVec 4) (f h n : BitVec 6)
  /-- `SQ.LEN` (R312): Queries C, RES, a slot address or the entry information, as an acquire. -/
  | sqLen (p : BitVec 4) (d h q : BitVec 6)
  /-- `SQ.FORK` (R313): Creates a child sequence that shares the committed prefix. -/
  | sqFork (p : BitVec 4) (d h : BitVec 6)
  /-- `SQ.DROP` (R314): Frees the entry and releases its frames and table pages. -/
  | sqDrop (p : BitVec 4) (h : BitVec 6)
  /-- `SQ.GATH` (R319): Fills a tile from a sequence in raw, keys or values mode. -/
  | sqGath (p : BitVec 4) (m : BitVec 2) (t : BitVec 3) (d : BitVec 5) (b : BitVec 6)
  /-- `SQ.PRE` (R325): Requests stage-ahead copies of far blocks until a deadline round. -/
  | sqPre (p : BitVec 4) (r h b : BitVec 6)
  /-- `PL.REQ` (R337): Submits a posting query and takes a query context, or is refused. -/
  | plReq (p : BitVec 4) (d a : BitVec 6)
  /-- `PL.RSP` (R338): Requests the next response chunk of a query into a tagged vector. -/
  | plRsp (p : BitVec 4) (v : BitVec 5) (q : BitVec 6) (t : BitVec 4)
  /-- `PH.REG` (R254): Registers the stage with a phaser, or is refused. -/
  | phReg (p : BitVec 4) (d : BitVec 6) (m : BitVec 2) (h : BitVec 4)
  /-- `PH.DROP` (R255): Removes the stage's membership as a release. -/
  | phDrop (p h : BitVec 4)
  /-- `PH.SIG` (R256): Signals the member's next phase as a release. -/
  | phSig (p h : BitVec 4)
  /-- `PH.WAIT` (R257): Waits for the member's phase to complete, as an acquire. -/
  | phWait (p : BitVec 4) (d : BitVec 6) (h : BitVec 4)
  /-- `PH.ADV` (R258): Signals if not yet signalled, then waits, in sw mode. -/
  | phAdv (p : BitVec 4) (d : BitVec 6) (h : BitVec 4)
  /-- `CL.BAR` (R260): Arrives at the cluster barrier and waits for the generation to complete. -/
  | clBar (p : BitVec 4) (d : BitVec 6)
  /-- `WCNT` (R296): Waits until CNTL or CNTS is no more than xb. -/
  | wcnt (p : BitVec 4) (c : BitVec 1) (b : BitVec 6)
  /-- `FENCE` (R295): Waits for earlier accesses of the scope, as a release, an acquire or both. -/
  | fence (p : BitVec 4) (g : BitVec 3) (q r : BitVec 1)
  /-- `WAITA` (R297): Polls a word until it differs from xb, then acquires at system scope. -/
  | waita (p : BitVec 4) (d : BitVec 6) (f : BitVec 1) (a : BitVec 5) (b : BitVec 6)
  /-- `OWN.ACQ` (R426): Requests an ownership token for a remote page. -/
  | ownAcq (p : BitVec 4) (d a : BitVec 6) (x : BitVec 1)
  /-- `OWN.REL` (R427): Drops the page's token and invalidates its cached lines. -/
  | ownRel (p : BitVec 4) (a : BitVec 6)
  /-- `DIG` (R360): Reads the die's current digest or a final digest from the history. -/
  | dig (p : BitVec 4) (d a : BitVec 6)
  /-- `VADD` (R159): Lane-wise addition. -/
  | vadd (p : BitVec 4) (t : BitVec 3) (d a : BitVec 5) (b : Opnd 5)
  /-- `VSUB` (R159): Lane-wise subtraction. -/
  | vsub (p : BitVec 4) (t : BitVec 3) (d a : BitVec 5) (b : Opnd 5)
  /-- `VMUL` (R159): Lane-wise multiplication. -/
  | vmul (p : BitVec 4) (t : BitVec 3) (d a : BitVec 5) (b : Opnd 5)
  /-- `VFMA` (R159): Lane-wise fused multiply-add into vd. -/
  | vfma (p : BitVec 4) (t : BitVec 3) (d a : BitVec 5) (b : Opnd 5)
  /-- `VMIN` (R159): Lane-wise minimum. -/
  | vmin (p : BitVec 4) (t : BitVec 3) (d a : BitVec 5) (b : Opnd 5)
  /-- `VMAX` (R159): Lane-wise maximum. -/
  | vmax (p : BitVec 4) (t : BitVec 3) (d a : BitVec 5) (b : Opnd 5)
  /-- `VAND` (R159): Lane-wise AND. -/
  | vand (p : BitVec 4) (t : BitVec 3) (d a : BitVec 5) (b : Opnd 5)
  /-- `VOR` (R159): Lane-wise OR. -/
  | vor (p : BitVec 4) (t : BitVec 3) (d a : BitVec 5) (b : Opnd 5)
  /-- `VXOR` (R159): Lane-wise XOR. -/
  | vxor (p : BitVec 4) (t : BitVec 3) (d a : BitVec 5) (b : Opnd 5)
  /-- `VSHL` (R159): Lane-wise left shift. -/
  | vshl (p : BitVec 4) (t : BitVec 3) (d a : BitVec 5) (b : Opnd 5)
  /-- `VSHR` (R159): Lane-wise logical right shift. -/
  | vshr (p : BitVec 4) (t : BitVec 3) (d a : BitVec 5) (b : Opnd 5)
  /-- `VSAR` (R159): Lane-wise arithmetic right shift. -/
  | vsar (p : BitVec 4) (t : BitVec 3) (d a : BitVec 5) (b : Opnd 5)
  /-- `VABS` (R159): Lane-wise absolute value. -/
  | vabs (p : BitVec 4) (t : BitVec 3) (d a : BitVec 5)
  /-- `VNEG` (R159): Lane-wise negation. -/
  | vneg (p : BitVec 4) (t : BitVec 3) (d a : BitVec 5)
  /-- `VCVT` (R165): Converts between vector types across register groups. -/
  | vcvt (p : BitVec 4) (t : BitVec 3) (d a : BitVec 5) (k : BitVec 2) (g : BitVec 3)
  /-- `VCMP.EQ` (R160): Lane-wise equality mask. -/
  | vcmpEq (p : BitVec 4) (t : BitVec 3) (d a : BitVec 5) (b : Opnd 5)
  /-- `VCMP.LT` (R160): Lane-wise signed less-than mask. -/
  | vcmpLt (p : BitVec 4) (t : BitVec 3) (d a : BitVec 5) (b : Opnd 5)
  /-- `VCMP.LE` (R160): Lane-wise less-or-equal mask. -/
  | vcmpLe (p : BitVec 4) (t : BitVec 3) (d a : BitVec 5) (b : Opnd 5)
  /-- `VSEL` (R160): Selects lanes of va or vb by the top bit of vd's lanes. -/
  | vsel (p : BitVec 4) (t : BitVec 3) (d a b : BitVec 5)
  /-- `VBCAST` (R161): Broadcasts a scalar into every lane. -/
  | vbcast (p : BitVec 4) (t : BitVec 3) (d a : BitVec 5)
  /-- `VPERM` (R162): Permutes lanes by index lanes. -/
  | vperm (p : BitVec 4) (t : BitVec 3) (d a b : BitVec 5)
  /-- `VROT` (R162): Rotates lanes. -/
  | vrot (p : BitVec 4) (t : BitVec 3) (d a b : BitVec 5)
  /-- `VRSUM` (R163): Sums the lanes in a fixed pairwise tree. -/
  | vrsum (p : BitVec 4) (t : BitVec 3) (d a : BitVec 5)
  /-- `VRMAX` (R163): Maximum over the lanes. -/
  | vrmax (p : BitVec 4) (t : BitVec 3) (d a : BitVec 5)
  /-- `VRMIN` (R163): Minimum over the lanes. -/
  | vrmin (p : BitVec 4) (t : BitVec 3) (d a : BitVec 5)
  /-- `VSCAN` (R164): Inclusive prefix sums in lane order. -/
  | vscan (p : BitVec 4) (t : BitVec 3) (d a : BitVec 5)
  /-- `VEXP2` (R168): Table-based 2^x per lane. -/
  | vexp2 (p : BitVec 4) (t : BitVec 3) (d a : BitVec 5)
  /-- `VLOG2` (R168): Table-based log2 per lane. -/
  | vlog2 (p : BitVec 4) (t : BitVec 3) (d a : BitVec 5)
  /-- `VRCP` (R168): Table-based reciprocal per lane. -/
  | vrcp (p : BitVec 4) (t : BitVec 3) (d a : BitVec 5)
  /-- `VRSQ` (R168): Table-based reciprocal square root per lane. -/
  | vrsq (p : BitVec 4) (t : BitVec 3) (d a : BitVec 5)
  /-- `VTANH` (R168): Table-based tanh per lane. -/
  | vtanh (p : BitVec 4) (t : BitVec 3) (d a : BitVec 5)
  /-- `VEXTR` (R161): Extracts a lane into a scalar register. -/
  | vextr (p : BitVec 4) (t : BitVec 3) (d a b : BitVec 5)
  /-- `VINSR` (R161): Inserts a scalar into one lane. -/
  | vinsr (p : BitVec 4) (t : BitVec 3) (d a b : BitVec 5)
  /-- `VDOT4` (R170): Adds four-way INT8 dot products into INT32 lanes. -/
  | vdot4 (p : BitVec 4) (t : BitVec 3) (d a b : BitVec 5)
  /-- `VMULH` (R159): High half of the signed lane products. -/
  | vmulh (p : BitVec 4) (t : BitVec 3) (d a : BitVec 5) (b : Opnd 5)
  /-- `VQSC` (R166): Computes one E8M0 scale per 32-element block. -/
  | vqsc (p : BitVec 4) (t : BitVec 3) (d a : BitVec 5) (g : BitVec 3)
  /-- `VQNT` (R167): Quantises va with the block scales that vd holds. -/
  | vqnt (p : BitVec 4) (t : BitVec 3) (d a : BitVec 5) (k : BitVec 2) (g : BitVec 3)
  /-- `VRNG` (R171): Fills lanes with generator draws. -/
  | vrng (p : BitVec 4) (t : BitVec 3) (d : BitVec 5)
  /-- `VPOPC` (R159): Lane-wise population count. -/
  | vpopc (p : BitVec 4) (t : BitVec 3) (d a : BitVec 5)
  /-- `VCX` (R162): Compresses the selected lanes to the bottom of vd. -/
  | vcx (p : BitVec 4) (t : BitVec 3) (d a b : BitVec 5)
  /-- `VADDS` (R159): Saturating lane-wise addition. -/
  | vadds (p : BitVec 4) (t : BitVec 3) (d a : BitVec 5) (b : Opnd 5)
  /-- `VSUBS` (R159): Saturating lane-wise subtraction. -/
  | vsubs (p : BitVec 4) (t : BitVec 3) (d a : BitVec 5) (b : Opnd 5)
  /-- `VMIN.N` (R159): Unsigned lane-wise minimum. -/
  | vminN (p : BitVec 4) (t : BitVec 3) (d a : BitVec 5) (b : Opnd 5)
  /-- `VMAX.N` (R159): Unsigned lane-wise maximum. -/
  | vmaxN (p : BitVec 4) (t : BitVec 3) (d a : BitVec 5) (b : Opnd 5)
  /-- `VCMP.LTN` (R160): Unsigned lane-wise less-than mask. -/
  | vcmpLtn (p : BitVec 4) (t : BitVec 3) (d a : BitVec 5) (b : Opnd 5)
  /-- `MM` (R194): Enqueues a multiply of the A block by the tile into an accumulator. -/
  | mm (p : BitVec 4) (a : BitVec 2) (t : BitVec 3) (d : BitVec 5) (c k : BitVec 1) (n : BitVec 6)
  /-- `MM.D` (R198): Drains an accumulator to the output port of a route entry named in the syllable. -/
  | mmDRoute (p : BitVec 4) (a : BitVec 2) (d : BitVec 5) (e : BitVec 4)
  /-- `MM.D` (R198): Drains an accumulator to the route entry selected by a steering register. -/
  | mmDSteer (p : BitVec 4) (a : BitVec 2) (g : BitVec 3) (d : BitVec 5)
  /-- `MM.Z` (R195): Zeroes an accumulator and clears its type tag. -/
  | mmZ (p : BitVec 4) (a : BitVec 2)
  /-- `MM.W` (R196): Fills a tile over the weight path, expanding the source format. -/
  | mmW (p : BitVec 4) (t : BitVec 3) (d : BitVec 5) (k : BitVec 1)
  /-- `MM.AR` (R201): Converts an accumulator and writes it to the scratchpad. -/
  | mmAr (p : BitVec 4) (a : BitVec 2) (d : BitVec 5)
  /-- `MM.AW` (R201): Loads an accumulator from the scratchpad. -/
  | mmAw (p : BitVec 4) (a : BitVec 2) (d : BitVec 5)
  /-- `TD.SET` (R202): Writes a descriptor word in MAT-queue order. -/
  | tdSet (p : BitVec 4) (x : Opnd 6) (d : BitVec 5) (w : BitVec 4)
  /-- `TD.GET` (R202): Reads a descriptor word. -/
  | tdGet (p : BitVec 4) (x : BitVec 6) (d : BitVec 5) (w : BitVec 4)
  /-- `TD.STEP` (R203): Steps a descriptor along one dimension. -/
  | tdStep (p : BitVec 4) (x : Opnd 6) (d : BitVec 5) (m : BitVec 2)
  /-- `XP.TBL` (R210): Loads a table group into the fill decode bank, optionally committing it. -/
  | xpTbl (p : BitVec 4) (a : BitVec 5) (g : BitVec 2) (c : BitVec 1)
  /-- `XP.EXP` (R211): Expands index bytes through a decode-table slot into BF16 lanes. -/
  | xpExp (p : BitVec 4) (d a : BitVec 5) (t : BitVec 4) (h : BitVec 1)
  /-- `XP.CVT` (R212): Converts 64 elements between narrow formats and BF16. -/
  | xpCvt (p : BitVec 4) (d a : BitVec 5) (q : BitVec 2) (k : BitVec 3)
  /-- `XP.TRN` (R215): Transposes 8 rows of 16 bytes. -/
  | xpTrn (p : BitVec 4) (d a : BitVec 5) (w : BitVec 2)
  /-- `XP.PACK` (R216): Builds one packed block from 32 lanes. -/
  | xpPack (p : BitVec 4) (d a : BitVec 5) (h : BitVec 2) (w : BitVec 1)
  /-- `XP.PLN` (R214): Converts between INT8 lanes and plane-stored groups. -/
  | xpPln (p : BitVec 4) (d a : BitVec 5) (n : BitVec 4) (r : BitVec 1)
  /-- `XP.UNP` (R213): Extracts unsigned fields of width w into bytes. -/
  | xpUnp (p : BitVec 4) (d a e : BitVec 5) (w : BitVec 3)
  /-- `FIRING_START` (R59): The core chooses the next READY stage by priority, stamp and slot, and performs the start transfer of R42 and R45. -/
  | firingStart (c : CoreId)
  /-- `PARKED_FIRING_RESTORE` (R227): A resumable parked firing is chosen, its context is restored and the bundle at PC is issued. -/
  | parkedFiringRestore (c : CoreId)
  /-- `BUNDLE_WAIT_ENDS` (R65): The condition of a waiting bundle is met, and the bundle issues in the next cycle. -/
  | bundleWaitEnds (a : Agent)
  /-- `END_COMPLETION` (R76): Once earlier results have landed, END sends the automatic markers, returns credits, stores the carried registers, advances RND and sets the firing state. -/
  | endCompletion (s : SlotId)
  /-- `CHECKPOINT_WRITE_DONE` (R433): The checkpoint write is performed and the held credit messages are released. -/
  | checkpointWriteDone (s : SlotId)
  /-- `BUDGET_EXHAUSTED` (R60): A cycle must be charged while BUDGET is 0, and trap 0x08 is raised at the bundle. -/
  | budgetExhausted (s : SlotId)
  /-- `PARK_COMPLETE` (R227): Once the park conditions hold, the decode banks and matrix registers are saved and the core is freed. -/
  | parkComplete (s : SlotId)
  /-- `HELD_SYLLABLE_EXECUTES` (R85): A syllable held in its class queue executes once its tag is ready. -/
  | heldSyllableExecutes (a : Agent)
  /-- `SCALAR_RESULT_LAND` (R135): An SCA result lands after its latency. -/
  | scalarResultLand (a : Agent) (id : Nat)
  /-- `VECTOR_RESULT_LAND` (R158): A VEC result lands after its latency. -/
  | vectorResultLand (a : Agent) (id : Nat)
  /-- `XFM_RESULT_LAND` (R204): An XFM result, or a pending write, lands after its count of issue cycles. -/
  | xfmResultLand (a : Agent) (id : Nat)
  /-- `LOCAL_LOAD_LAND` (R178): A local load result lands once the access has won its banks. -/
  | localLoadLand (a : Agent) (id : Nat)
  /-- `LOCAL_STORE_WRITTEN` (R178): A local store is written in the banks and leaves CNTS. -/
  | localStoreWritten (a : Agent) (id : Nat)
  /-- `EMIT_COPY_DONE` (R72): The EMIT copy finishes and leaves CNTS, and the packet leaves. -/
  | emitCopyDone (s : SlotId) (id : Nat)
  /-- `PACKET_ARRIVAL` (R48): A packet reaches an input port and is discarded or written to the ring by CFG, KIND, SEQ and LEN. -/
  | packetArrival (dst : PortId) (pkt : Packet)
  /-- `CREDIT_MESSAGE` (R50): A credit message reaches the producer, which releases retained packets and adds credits. -/
  | creditMessage (dst : PortId) (num : BitVec 32)
  /-- `DRAIN_ACTION` (R54): With DRAIN at every head and no firing, the core returns the DRAIN credits and begins sending DRAIN. -/
  | drainAction (s : SlotId)
  /-- `DRAIN_SEND` (R54): An output port that now holds a credit sends its DRAIN, and the slot becomes DRAINED after the last port. -/
  | drainSend (s : SlotId) (port : Nat)
  /-- `CLUSTER_LOAD_LAND` (R236): A cluster-space load result lands. -/
  | clusterLoadLand (id : Nat)
  /-- `CLUSTER_STORE_PERFORMED` (R236): A cluster-space store is performed at the target bank. -/
  | clusterStorePerformed (id : Nat)
  /-- `MULTICAST_LANDING` (R242): An MCST lands in every target in its scheduled cycle. -/
  | multicastLanding (id : Nat)
  /-- `GALLERY_LOAD_LAND` (R279): A gallery load result lands. -/
  | galleryLoadLand (id : Nat)
  /-- `GALLERY_STORE_PERFORMED` (R279): A gallery store is performed at its bank. -/
  | galleryStorePerformed (id : Nat)
  /-- `HOME_PORT_ATOMIC` (R280): An atomic executes at the home port as one bank access. -/
  | homePortAtomic (id : Nat)
  /-- `ATOMIC_OLD_VALUE_LAND` (R279): The old value of an atomic lands at the issuer, and the FADD flags are ORed in. -/
  | atomicOldValueLand (id : Nat)
  /-- `FABRIC_LOAD_LAND` (R423): A fabric load result lands. -/
  | fabricLoadLand (id : Nat)
  /-- `FABRIC_STORE_PERFORMED` (R423): A fabric store is performed at its home. -/
  | fabricStorePerformed (id : Nat)
  /-- `FABRIC_REJECT` (R423): A reject arrives and raises 0x07 at the next bundle boundary, or event 0x47. -/
  | fabricReject (id : Nat)
  /-- `TRANSLATION_WALK_DONE` (R363): A translation walk completes and installs the cache entry, or faults. -/
  | translationWalkDone (d : DieId) (vpn : Nat)
  /-- `MAT_DISPATCH` (R190): The head of the MAT queue dispatches once its resource is free. -/
  | matDispatch (s : SlotId)
  /-- `ACCUMULATOR_LANDED` (R190): An accumulator result lands 8 cycles after its MM leaves the MAC array. -/
  | accumulatorLanded (c : CoreId) (acc : Nat)
  /-- `TILE_FILL_DONE` (R197): An MM.W fill completes, its tag becomes ready and the bank reference is released. -/
  | tileFillDone (s : SlotId) (tile : Nat)
  /-- `MM_DRAIN_SEND` (R200): The drained packet is sent once the port holds a credit. -/
  | mmDrainSend (s : SlotId) (id : Nat)
  /-- `MM_AR_WRITE_DONE` (R191): An MM.AR finishes writing the scratchpad. -/
  | mmArWriteDone (s : SlotId) (id : Nat)
  /-- `SEQ_REQUEST_SERVE` (R315): The sequence engine carries out the next request of a sequence in arrival order. -/
  | seqRequestServe (d : DieId)
  /-- `CONTROL_ANSWER_LAND` (R307): The answer of a control request lands and its bundle issues. -/
  | controlAnswerLand (a : Agent)
  /-- `MIRROR_FORWARD` (R433): The mirror package applies a forwarded sequence store or request to its shadow. -/
  | mirrorForward (d : DieId) (m : MirrorMsg)
  /-- `GATHER_FILL_DONE` (R317): The gather engine has delivered every byte of a fill and sets its tag ready. -/
  | gatherFillDone (d : DieId) (id : Nat)
  /-- `FAR_READ_BUCKET_REFILL` (R324): RATE units are added to the far-read bucket every 1,024 cycles. -/
  | farReadBucketRefill (d : DieId)
  /-- `STAGE_AHEAD_COPY_LAND` (R325): A stage-ahead copy lands; it serves gathers, or it is discarded as late. -/
  | stageAheadCopyLand (d : DieId) (id : Nat)
  /-- `PL_BLOCK_DECODE` (R339): The posting engine decodes one block every 8 cycles, round-robin over the contexts. -/
  | plBlockDecode (d : DieId)
  /-- `PL_CHUNK_TAG_READY` (R338): A response chunk is written and its tag becomes ready. -/
  | plChunkTagReady (d : DieId) (id : Nat)
  /-- `PHASER_SIGNAL_ARRIVAL` (R246): A signal reaches the engine and is counted for PHASE or PHASE + 1. -/
  | phaserSignalArrival (s : SlotId) (ph : Nat)
  /-- `PHASER_ADVANCE_DELIVERY` (R247): The advance reaches the waiting cores 4 cycles later and completes their waits. -/
  | phaserAdvanceDelivery (s : SlotId) (ph : Nat)
  /-- `BARRIER_ARRIVAL` (R259): An arrival reaches the synchronisation engine. -/
  | barrierArrival (s : SlotId)
  /-- `CLOSING_BARRIER_COMPLETE` (R261): Every participant is finished and its stores are performed, so the configuration retires in the cluster. -/
  | closingBarrierComplete (c : CluId)
  /-- `HALT_WAKE` (R131): A pending trap or event ends HALT, and the supervisor core takes it. -/
  | haltWake (v : SupId)
  /-- `EVPOP_READ` (R342): A load of EVPOP removes and returns the oldest event record. -/
  | evpopRead (reader : Option SupId) (v : SupId) (xd : Nat)
  /-- `SLOTCTL_CLEAR_EVENT` (R345): Clears a stage event, taking the slot from FAULTED to ACTIVE. -/
  | slotctlClearEvent (s : SlotId)
  /-- `SLOTCTL_KILL_STAGE` (R345): Kills the stage of the slot. -/
  | slotctlKillStage (s : SlotId)
  /-- `SLOTCTL_KILL_FIRING` (R345): Kills a TRAPPED or PARKED firing. -/
  | slotctlKillFiring (s : SlotId)
  /-- `SVFAULT_RESTART` (R348): Writing 1 to STOP restarts a stopped supervisor core at PC. -/
  | svfaultRestart (v : SupId)
  /-- `SWITCH_NOTICE` (R354): A peer's switch notice makes the die load its next record and check the number. -/
  | switchNotice (d : DieId) (n : Nat)
  /-- `CONFIG_DRAIN_COMPLETE` (R355): The die's part of the configuration has drained, and activation starts. -/
  | configDrainComplete (d : DieId)
  /-- `ACTIVATION_COMPLETE` (R353): Activation ends and the sequencer goes to RUNNING. -/
  | activationComplete (d : DieId)
  /-- `SQRMT_INSTALL` (R357): Installs a REMOTE sequence entry. -/
  | sqrmtInstall (d : DieId) (v : BitVec 64)
  /-- `SQRMT_REMOVE` (R357): Removes a REMOTE sequence entry. -/
  | sqrmtRemove (d : DieId) (v : BitVec 64)
  /-- `FTINV_ALL` (R365): Invalidates every translation-cache entry. -/
  | ftinvAll (d : DieId)
  /-- `FTINV_PAGE` (R364): Invalidates the translation of one page. -/
  | ftinvPage (d : DieId) (vpn : Nat)
  /-- `CODEMAP_MAP_PAGE` (R231): Writing 1 to a bit copies the backing code-store page into the window. -/
  | codemapMapPage (c : CoreId) (page : Nat)
  /-- `CODEMAP_UNMAP_PAGE` (R231): Writing 0 to a bit unmaps the window page. -/
  | codemapUnmapPage (c : CoreId) (page : Nat)
  /-- `REGISTER_WRITE` (R4): A write to a register or control-space register that has no row of its own sets its writable fields. -/
  | registerWrite (d : DieId) (addr : Nat) (v : BitVec 64)
  /-- `SCRUB_READ` (R370): The scrubber reads one line or granule per bank per interval. -/
  | scrubRead (d : DieId) (core : Option CoreId) (addr : Nat)
  /-- `DIE_RESET` (R273): A die reset zeroes the gallery and resets the die's state. -/
  | dieReset (d : DieId)
  /-- `CORE_RESET` (R172): A core reset zeroes the scratchpad and sets every full/empty bit full. -/
  | coreReset (c : CoreId)
  /-- `RING_FLIT_ARRIVAL` (R380): A ring flit reaches its destination stop. -/
  | ringFlitArrival (pkg : Nat) (f : RingFlit)
  /-- `RING_FLIT_REOFFER` (R381): A recirculated flit is offered again after a lap. -/
  | ringFlitReoffer (pkg : Nat) (f : RingFlit)
  /-- `RING_SEGMENT_FAILED` (R382): A segment that fails replay for 1 us is declared failed, and traffic moves to the other ring. -/
  | ringSegmentFailed (pkg ring seg : Nat)
  /-- `HLINK_PMASK_WRITE` (R386): Writing PMASK starts training of the host link. -/
  | hlinkPmaskWrite (pkg : Nat) (mask : BitVec 8)
  /-- `HOST_LINK_TRAINED` (R386): Training completes, UP is set and the HDM size E is fixed. -/
  | hostLinkTrained (pkg : Nat)
  /-- `HOST_LINK_DOWN` (R386): The host link goes down, clears UP and retrains. -/
  | hostLinkDown (pkg : Nat)
  /-- `CXL_IDENTIFY` (R388): Mailbox command Identify. -/
  | cxlIdentify (pkg : Nat)
  /-- `GET_SUPPORTED_LOGS` (R388): Mailbox command Get Supported Logs. -/
  | getSupportedLogs (pkg : Nat)
  /-- `GET_LOG` (R388): Mailbox command Get Log. -/
  | getLog (pkg log off len : Nat)
  /-- `GET_EVENT_RECORDS` (R388): Mailbox command Get Event Records. -/
  | getEventRecords (pkg : Nat)
  /-- `CLEAR_EVENT_RECORDS` (R388): Mailbox command Clear Event Records. -/
  | clearEventRecords (pkg n : Nat)
  /-- `ATTEST` (R401): Returns a signed report of the selected measurement registers over a nonce. -/
  | attest (pkg : Nat) (nonce : BitVec 384) (mask : BitVec 16)
  /-- `GETCERT` (R388): Returns a certificate of the attestation key. -/
  | getcert (pkg idx : Nat)
  /-- `MEXTEND` (R400): Extends measurement register 8 to 15 with a digest. -/
  | mextend (pkg reg : Nat) (digest : BitVec 384)
  /-- `RING_SETUP` (R388): Enables a command ring with a generation. -/
  | ringSetup (pkg ring : Nat) (gen : BitVec 32)
  /-- `RING_TEARDOWN` (R398): Sets a new ring generation and completes once the completions checked earlier are performed. -/
  | ringTeardown (pkg ring : Nat) (gen : BitVec 32)
  /-- `ORPHAN_READ` (R388): Returns up to 8 orphan-log entries. -/
  | orphanRead (pkg first count : Nat)
  /-- `MGMT_READ` (R388): Reads a die control-space register. -/
  | mgmtRead (pkg die addr : Nat)
  /-- `MGMT_WRITE` (R388): Writes a die control-space register. -/
  | mgmtWrite (pkg die addr : Nat) (v : BitVec 64)
  /-- `FW_LOAD_FIRMWARE` (R389): Carries a chunk of a management firmware image and verifies the image at LAST. -/
  | fwLoadFirmware (pkg : Nat) (h : FwChunk)
  /-- `FW_LOAD_BOOT_STREAM` (R389): Carries a chunk of the boot stream, verifying blocks and sending them down the tree. -/
  | fwLoadBootStream (pkg : Nat) (h : FwChunk)
  /-- `MAILBOX_UNSUPPORTED` (R388): Any other mailbox opcode completes with Unsupported. -/
  | mailboxUnsupported (pkg opcode : Nat)
  /-- `HOST_HDM_READ` (R391): The host reads an HDM line at its home bank. -/
  | hostHdmRead (pkg off : Nat)
  /-- `HOST_HDM_WRITE` (R391): The host writes an HDM line, performed in arrival order. -/
  | hostHdmWrite (pkg off : Nat) (data : BitVec 512) (mask : BitVec 64)
  /-- `BACK_INVALIDATION_DONE` (R392): A back-invalidation snoop completes, and the waiting device access is performed. -/
  | backInvalidationDone (pkg line : Nat) (dirty : Option (BitVec 512))
  /-- `COMPLETION_WRITE_CHECK` (R397): A write to a CPL page is checked at the landing and sent to the host or diverted. -/
  | completionWriteCheck (id : Nat)
  /-- `HOST_GLOBAL_OBSERVATION` (R393): The host grants global observation, and the CXL.cache write is performed. -/
  | hostGlobalObservation (id : Nat)
  /-- `PACKAGE_RESET` (R399): The ROM verifies and measures the management firmware, or the package stays in recovery. -/
  | packageReset (pkg : Nat)
  /-- `THERMAL_THROTTLE` (R403): Above the throttle temperature, the die clock is lowered in 50 MHz steps. -/
  | thermalThrottle (d : DieId)
  /-- `THERMAL_CLOCK_RAISE` (R403): After 10 ms at least 5 degrees below the throttle temperature, the clock is raised again. -/
  | thermalClockRaise (d : DieId)
  /-- `THERMAL_TRIP` (R403): At the trip temperature the die is reset, and the package reports itself failed. -/
  | thermalTrip (d : DieId)
  /-- `LINK_ENABLE` (R407): Writing EN of LINKST moves the port from DOWN to TRAIN, or from QUARANTINED to DOWN. -/
  | linkEnable (pkg port : Nat)
  /-- `LINK_TRAIN_LOCK` (R407): All four lanes lock, and the port enters NEGOTIATE. -/
  | linkTrainLock (pkg port : Nat)
  /-- `LINK_TRAIN_TIMEOUT` (R407): 100 ms without lock returns the port to DOWN, or to FAILED after three failures. -/
  | linkTrainTimeout (pkg port : Nat)
  /-- `NEGOTIATION_MESSAGE` (R408): The peer's negotiation message and attestation are checked, and the port goes to UP or QUARANTINED. -/
  | negotiationMessage (pkg port : Nat) (m : NegMsg)
  /-- `NEGOTIATE_TIMEOUT` (R407): No exchange within 10 ms returns the port to DOWN. -/
  | negotiateTimeout (pkg port : Nat)
  /-- `LINK_REPLAY_FAILURE` (R407): Replay failing for 1 us, or loss of lock, sends the port to FAILED and floods a failure notice. -/
  | linkReplayFailure (pkg port : Nat)
  /-- `LINK_FAILED_TIMER` (R407): 1 ms after FAILED the port returns to DOWN if enabled. -/
  | linkFailedTimer (pkg port : Nat)
  /-- `FLIT_RECEIVE` (R410): A flit arrives at a port, and its CRC and sequence are checked. -/
  | flitReceive (pkg port : Nat) (f : BitVec 640)
  /-- `ROUTING_FLIP` (R417): Writing FLIP exchanges every routing bank and holds re-routed ordered flits. -/
  | routingFlip (pkg : Nat)
  /-- `FLIP_HOLD_RELEASE` (R417): The hold ends 7.2 us after the last flit left on its old port, and BUSY clears. -/
  | flipHoldRelease (pkg port : Nat)
  /-- `FAILURE_NOTICE` (R419): A failure notice is forwarded once and raises event 0x43. -/
  | failureNotice (pkg : Nat) (n : Notice)
  /-- `TOKEN_REQUEST` (R425): The home directory handles a token request, recalling conflicting holders. -/
  | tokenRequest (home src : DieId) (page : Nat) (excl : Bool)
  /-- `OWNERSHIP_RECALL` (R425): A recalled die drops its copies of the page and answers. -/
  | ownershipRecall (d home : DieId) (page : Nat)
  /-- `RECALL_DONE` (R425): A recall-done answer reaches the home. -/
  | recallDone (home src : DieId) (page : Nat)
  /-- `TOKEN_GRANT` (R426): The grant reaches the die and the OWN.ACQ answer lands 40 cycles later. -/
  | tokenGrant (d home : DieId) (page : Nat) (excl : Bool)
  /-- `BOOT_PACKET` (R430): A BOOT packet is forwarded to the children and kept when its hash matches. -/
  | bootPacket (pkg : Nat) (pkt : Packet)
  /-- `HEARTBEAT` (R434): An active package's heartbeat reaches the migration controller. -/
  | heartbeat (ctl src : Nat)
  /-- `HEARTBEAT_TIMEOUT` (R434): 8 missing heartbeats in a row declare a package failed. -/
  | heartbeatTimeout (ctl src : Nat)
  /-- `FREEZE_ACKNOWLEDGED` (R434): Every package has acknowledged the freeze, and REBUILD begins. -/
  | freezeAcknowledged (ctl src : Nat)
  /-- `REDUCTION_LINE` (R435): A reduction line arrives and is combined, or XORed into the spare's parity. -/
  | reductionLine (pkg die addr : Nat) (data : BitVec 512)
  /-- `REBUILD_COMPLETE` (R435): The failed image is rebuilt, and REMAP begins. -/
  | rebuildComplete (ctl : Nat)
  /-- `REMAP_COMPLETE` (R436): Every package has flipped to the new position, and REPLAY begins. -/
  | remapComplete (ctl : Nat)
  /-- `REPLAY_COMPLETE` (R437): The replay has been sent, injection resumes and event 0x46 is raised. -/
  | replayComplete (ctl : Nat)
  /-- `WAITA_REREAD` (R297): A WAITA in fabric mode, or on an HDM line, reads its word again 512 cycles after the previous read completed. -/
  | waitaReread (a : Agent)
  /-- `BARRIER_COMPLETION_DELIVERY` (R260): A barrier completion reaches the waiting cores 4 cycles after the engine receives the completing arrival and ends their waits. -/
  | barrierCompletionDelivery (s : SlotId)
  /-- `HOST_SNOOP` (R387): A host snoop on CXL.cache arrives at the landing and is answered as a miss. -/
  | hostSnoop (pkg line : Nat)
  /-- `MIRROR_ACKNOWLEDGEMENT` (R433): The mirror's acknowledgement or refusal of a forwarded sequence request reaches the originating die, which then answers the held SQ.COM or refuses SQ.RES or SQ.FORK. -/
  | mirrorAcknowledgement (d : DieId) (id : Nat) (ok : Bool)
  /-- `BOOT_BLOCK_REQUEST` (R430): A child's renewed request for a boot block that failed its hash reaches the parent, which sends the block again, at most 3 times. -/
  | bootBlockRequest (pkg child block : Nat)
  /-- `SUPERVISOR_FREES_ENTRY` (R299): The supervisor frees a FAILED sequence entry, which returns it to FREE. -/
  | supervisorFreesEntry (d : DieId) (h : Nat)
  deriving DecidableEq, Repr

end Sys2Proof
end

