-- ==== Sys2Proof/WellFormed.lean ====
section
/-! DEFINITION. Which instructions have an encoding: the conditions on operands that the fields' widths do not already
enforce. Each is a cause of illegal bundle (0x01) in the scan of R13. -/

namespace Sys2Proof

namespace Opnd

/-- At most one EXT syllable. -/
def upto1 {n : Nat} : Opnd n → Bool
  | .ext2 _ _ => false
  | _ => true

/-- No EXT syllable. -/
def isFld {n : Nat} : Opnd n → Bool
  | .fld _ => true
  | _ => false

/-- The floating immediates that R30 admits. -/
def fpOk {n : Nat} : Opnd n → Bool
  | .fld _ => true
  | .ext1 e => e.toNat / 2 ^ 16 == 0 || (e.toNat / 2 ^ 16 == 1 && e.toNat % 2 ^ 16 / 2 ^ 6 == 0)
  | .ext2 _ f => f.toNat / 2 ^ 4 == 0

/-- The EXT syllables that a VEC syllable of the opcodes marked i/f admits, by its type code (R29, R30). -/
def vecOk (t : BitVec 3) {n : Nat} (b : Opnd n) : Bool :=
  if t.toNat < 3 then b.upto1 else if t.toNat < 6 then b.fpOk else true

end Opnd

/-- The write mode of Form C: mode 01 with `p15` is illegal (R19). -/
def modeOk (q : BitVec 4) (m : BitVec 2) : Bool := !(m == 1 && q == 15)

/-- The sizes and operations of the atomic form (R21). -/
def amoOk (o : BitVec 4) (z : BitVec 2) : Bool :=
  2 ≤ z.toNat && o.toNat ≤ 9 && !(o == 9 && z == 3)

/-- The control-register indices of R26. -/
def crOk (x : BitVec 6) : Bool := x.toNat ≤ 16 || (32 ≤ x.toNat && x.toNat ≤ 37)

/-- A tree branch leaves the fields beyond its last test zero (R20, R31). -/
def treeOk (q2 q3 q4 : BitVec 4) (n : BitVec 2) (t2 t3 t4 : BitVec 14) : Bool :=
  (1 ≤ n.toNat || (q2 == 0 && t2 == 0)) && (2 ≤ n.toNat || (q3 == 0 && t3 == 0)) &&
    (3 ≤ n.toNat || (q4 == 0 && t4 == 0))

/-- The instruction has an encoding, or is a row without one. -/
def Instr.wf : Instr → Bool
  | .brT _ _ q2 q3 q4 n _ t2 t3 t4 => treeOk q2 q3 q4 n t2 t3 t4
  | .loop _ c _ => c != 0
  | .setlc _ _ _ i => i.upto1
  | .mark _ n l _ => !(l == 1 && n != 0)
  | .peek _ _ a _ m => m.toNat < 4 && (m == 0 || a == 0)
  | .trap _ i => i.upto1
  | .mfcr _ _ x => crOk x
  | .mtcr _ x _ => crOk x
  | .cmpEq _ q m _ _ | .cmpNe _ q m _ _ | .cmpLt _ q m _ _ | .cmpGe _ q m _ _ | .cmpLtn _ q m _ _
  | .cmpGen _ q m _ _ | .cmpiEq _ q m _ _ | .cmpiLt _ q m _ _ | .cmpiGe _ q m _ _ => modeOk q m
  | .pand _ q m _ _ _ _ | .por _ q m _ _ _ _ | .pxor _ q m _ _ _ _ => modeOk q m
  | .faddS _ _ _ b | .faddD _ _ _ b | .fmulS _ _ _ b | .fmulD _ _ _ b | .ffmaS _ _ _ b | .ffmaD _ _ _ b
  | .fminS _ _ _ b | .fmaxS _ _ _ b => b.fpOk
  | .fcmpLt _ q m _ b | .fcmpEq _ q m _ b => modeOk q m && b.fpOk
  | .fcvt _ _ _ c => c.toNat % 16 < 14
  | .ldL _ _ _ _ i | .stL _ _ _ _ i | .ldLf _ _ _ _ i | .ldLfc _ _ _ _ i | .stLf _ _ _ _ i | .stLe _ _ _ _ i
  | .ldC _ _ _ _ i | .stC _ _ _ _ i | .ldG _ _ _ _ i | .stG _ _ _ _ i | .ldN _ _ _ _ i | .stN _ _ _ _ i => i.upto1
  | .ldsL _ _ _ z i | .ldsC _ _ _ z i | .ldsG _ _ _ z i | .ldsN _ _ _ z i => z != 3 && i.upto1
  | .vldL _ _ _ i | .vstL _ _ _ i | .vldC _ _ _ i | .vstC _ _ _ i | .mcst _ _ _ i | .vldG _ _ _ i | .vstG _ _ _ i
  | .vldN _ _ _ i | .vstN _ _ _ i => i.upto1
  | .amoL _ _ _ o z | .amoG _ _ _ o z | .amoN _ _ _ o z => amoOk o z
  | .sqGath _ m _ _ _ => m != 3
  | .phReg _ _ m _ => m != 0
  | .fence _ g q r => g.toNat < 6 && !(q == 0 && r == 0)
  | .vadd _ t _ _ b | .vsub _ t _ _ b | .vmul _ t _ _ b | .vfma _ t _ _ b | .vmin _ t _ _ b | .vmax _ t _ _ b
  | .vand _ t _ _ b | .vor _ t _ _ b | .vxor _ t _ _ b | .vshl _ t _ _ b | .vshr _ t _ _ b | .vsar _ t _ _ b
  | .vcmpEq _ t _ _ b | .vcmpLt _ t _ _ b | .vcmpLe _ t _ _ b | .vmulh _ t _ _ b | .vadds _ t _ _ b
  | .vsubs _ t _ _ b | .vminN _ t _ _ b | .vmaxN _ t _ _ b | .vcmpLtn _ t _ _ b => b.vecOk t
  | .tdSet _ _ _ w => w.toNat < 8
  | .tdGet _ _ _ w => w.toNat < 8
  | .tdStep _ x _ _ => x.upto1
  | .xpTrn _ _ _ w => w != 3
  | .xpPln _ _ _ n r => !(r == 0 && n != 0)
  | _ => true

end Sys2Proof
end

