-- ==== Sys2Proof/Decode.lean ====
section
/-! DEFINITION. Decoding and encoding of syllables (R10–R32): total on any words, rejecting by name. Words are natural
numbers below 2^32, an EXT immediate a natural number below 2^28. -/

namespace Sys2Proof

/-- The field of `n` bits at bit `lo` of a word. -/
def fld (w lo n : Nat) : Nat := w / 2 ^ lo % 2 ^ n

/-- The same field as a bit vector. -/
def bv (n w lo : Nat) : BitVec n := BitVec.ofNat n (fld w lo n)

/-- The operand of R27: the field where the syllable has no EXT, else its EXT immediates. -/
def opnd (n v : Nat) (es : List Nat) : Opnd n :=
  match es with
  | [] => .fld (BitVec.ofNat n v)
  | [e] => .ext1 (BitVec.ofNat 28 e)
  | e :: f :: _ => .ext2 (BitVec.ofNat 28 e) (BitVec.ofNat 28 f)

/-- What stands in the syllable's own field: zero where EXT syllables carry the operand (R27). -/
def Opnd.field {n : Nat} : Opnd n → Nat
  | .fld v => v.toNat
  | .ext1 _ => 0
  | .ext2 _ _ => 0

/-- The imm28 values of the EXT syllables that carry an operand. -/
def Opnd.exts {n : Nat} : Opnd n → List Nat
  | .fld _ => []
  | .ext1 e => [e.toNat]
  | .ext2 e f => [e.toNat, f.toNat]

/-- The field of a syllable that must be zero where it carries an EXT (R27), as (low bit, width), and the least and
greatest number of EXT syllables of its opcode (R32, R29); none for an opcode that admits no EXT. -/
def extRule (w : Nat) : Option (Nat × Nat × Nat × Nat) :=
  let op := fld w 22 6
  match fld w 28 3 with
  | 0 =>
    if op == 4 then some (0, 0, 2, 2)
    else if op == 10 || op == 16 then some (0, 6, 0, 1) else none
  | 1 =>
    if (18 ≤ op && op ≤ 21) || op == 25 || (42 ≤ op && op ≤ 44) then some (0, 6, 0, 2)
    else if (48 ≤ op && op ≤ 57) then some (0, 6, 0, 2) else none
  | 2 =>
    if op ≤ 8 || (10 ≤ op && op ≤ 20) || (23 ≤ op && op ≤ 27) then some (0, 4, 0, 1) else none
  | 3 =>
    if op ≤ 11 || (15 ≤ op && op ≤ 17) || op == 34 || (40 ≤ op && op ≤ 44) then
      some (0, 5, 0, if fld w 15 3 < 3 then 1 else 2)
    else none
  | 4 =>
    if op == 6 then some (12, 6, 0, 2) else if op == 8 then some (12, 6, 0, 1) else none
  | _ => none

/-- The assigned opcodes of class 0 (R32): the syllable's fields, read by its form (R18). -/
def decodeCtl (w : Nat) (es : List Nat) : Option Instr :=
  match fld w 22 6 with
  | 0 => if fld w 0 18 == 0 then some (.nop (bv 4 w 18)) else none
  | 1 => if fld w 0 18 == 0 then some (.endFiring (bv 4 w 18)) else none
  | 2 => some (.br (bv 4 w 18) (bv 18 w 0))
  | 3 => if fld w 0 6 == 0 && fld w 12 6 == 0 then some (.brR (bv 4 w 18) (bv 6 w 6)) else none
  | 4 => some (.brT (bv 4 w 18) (bv 4 w 14) (bv 4 w 10) (bv 4 w 6) (bv 4 w 2) (bv 2 w 0) (bv 14 (es.getD 0 0) 0) (bv 14 (es.getD 0 0) 14) (bv 14 (es.getD 1 0) 0) (bv 14 (es.getD 1 0) 14))
  | 5 => some (.call (bv 4 w 18) (bv 18 w 0))
  | 6 => if fld w 0 6 == 0 && fld w 12 6 == 0 then some (.callR (bv 4 w 18) (bv 6 w 6)) else none
  | 7 => if fld w 0 18 == 0 then some (.ret (bv 4 w 18)) else none
  | 8 => some (.loop (bv 4 w 18) (bv 6 w 12) (bv 12 w 0))
  | 9 => some (.loopR (bv 4 w 18) (bv 18 w 0))
  | 10 => some (.setlc (bv 4 w 18) (bv 6 w 12) (bv 6 w 6) (opnd 6 (fld w 0 6) es))
  | 11 => if fld w 0 3 == 0 then some (.take (bv 4 w 18) (bv 6 w 12) (bv 6 w 6) (bv 3 w 3)) else none
  | 12 => if fld w 2 1 == 0 then some (.emit (bv 4 w 18) (bv 6 w 12) (bv 6 w 6) (bv 3 w 3) (bv 1 w 1) (bv 1 w 0)) else none
  | 13 => if fld w 1 1 == 0 && fld w 6 12 == 0 then some (.mark (bv 4 w 18) (bv 3 w 3) (bv 1 w 2) (bv 1 w 0)) else none
  | 14 => some (.peek (bv 4 w 18) (bv 6 w 12) (bv 6 w 6) (bv 3 w 3) (bv 3 w 0))
  | 15 => if fld w 4 14 == 0 then some (.wtag (bv 4 w 18) (bv 4 w 0)) else none
  | 16 => if fld w 6 12 == 0 then some (.trap (bv 4 w 18) (opnd 6 (fld w 0 6) es)) else none
  | 17 => if fld w 0 6 == 0 then some (.mfcr (bv 4 w 18) (bv 6 w 12) (bv 6 w 6)) else none
  | 18 => if fld w 0 6 == 0 then some (.mtcr (bv 4 w 18) (bv 6 w 12) (bv 6 w 6)) else none
  | 19 => if fld w 0 18 == 0 then some (.rft (bv 4 w 18)) else none
  | 20 => if fld w 0 18 == 0 then some (.halt (bv 4 w 18)) else none
  | 21 => if fld w 0 6 == 0 && fld w 12 6 == 0 then some (.cfgNext (bv 4 w 18) (bv 6 w 6)) else none
  | _ => none

/-- The assigned opcodes of class 1 (R32): the syllable's fields, read by its form (R18). -/
def decodeSca (w : Nat) (es : List Nat) : Option Instr :=
  match fld w 22 6 with
  | 0 => some (.add (bv 4 w 18) (bv 6 w 12) (bv 6 w 6) (bv 6 w 0))
  | 1 => some (.sub (bv 4 w 18) (bv 6 w 12) (bv 6 w 6) (bv 6 w 0))
  | 2 => some (.mul (bv 4 w 18) (bv 6 w 12) (bv 6 w 6) (bv 6 w 0))
  | 3 => some (.mulh (bv 4 w 18) (bv 6 w 12) (bv 6 w 6) (bv 6 w 0))
  | 4 => some (.div (bv 4 w 18) (bv 6 w 12) (bv 6 w 6) (bv 6 w 0))
  | 5 => some (.divN (bv 4 w 18) (bv 6 w 12) (bv 6 w 6) (bv 6 w 0))
  | 6 => some (.rem (bv 4 w 18) (bv 6 w 12) (bv 6 w 6) (bv 6 w 0))
  | 7 => some (.and (bv 4 w 18) (bv 6 w 12) (bv 6 w 6) (bv 6 w 0))
  | 8 => some (.or (bv 4 w 18) (bv 6 w 12) (bv 6 w 6) (bv 6 w 0))
  | 9 => some (.xor (bv 4 w 18) (bv 6 w 12) (bv 6 w 6) (bv 6 w 0))
  | 10 => some (.andn (bv 4 w 18) (bv 6 w 12) (bv 6 w 6) (bv 6 w 0))
  | 11 => some (.shl (bv 4 w 18) (bv 6 w 12) (bv 6 w 6) (bv 6 w 0))
  | 12 => some (.shr (bv 4 w 18) (bv 6 w 12) (bv 6 w 6) (bv 6 w 0))
  | 13 => some (.sar (bv 4 w 18) (bv 6 w 12) (bv 6 w 6) (bv 6 w 0))
  | 14 => some (.min (bv 4 w 18) (bv 6 w 12) (bv 6 w 6) (bv 6 w 0))
  | 15 => some (.max (bv 4 w 18) (bv 6 w 12) (bv 6 w 6) (bv 6 w 0))
  | 16 => some (.minN (bv 4 w 18) (bv 6 w 12) (bv 6 w 6) (bv 6 w 0))
  | 17 => some (.maxN (bv 4 w 18) (bv 6 w 12) (bv 6 w 6) (bv 6 w 0))
  | 18 => some (.addi (bv 4 w 18) (bv 6 w 12) (bv 6 w 6) (opnd 6 (fld w 0 6) es))
  | 19 => some (.andi (bv 4 w 18) (bv 6 w 12) (bv 6 w 6) (opnd 6 (fld w 0 6) es))
  | 20 => some (.ori (bv 4 w 18) (bv 6 w 12) (bv 6 w 6) (opnd 6 (fld w 0 6) es))
  | 21 => some (.xori (bv 4 w 18) (bv 6 w 12) (bv 6 w 6) (opnd 6 (fld w 0 6) es))
  | 22 => some (.shli (bv 4 w 18) (bv 6 w 12) (bv 6 w 6) (bv 6 w 0))
  | 23 => some (.shri (bv 4 w 18) (bv 6 w 12) (bv 6 w 6) (bv 6 w 0))
  | 24 => some (.sari (bv 4 w 18) (bv 6 w 12) (bv 6 w 6) (bv 6 w 0))
  | 25 => if fld w 6 6 == 0 then some (.li (bv 4 w 18) (bv 6 w 12) (opnd 6 (fld w 0 6) es)) else none
  | 26 => some (.sel (bv 4 w 18) (bv 6 w 12) (bv 6 w 6) (bv 6 w 0))
  | 27 => if fld w 0 6 == 0 then some (.clz (bv 4 w 18) (bv 6 w 12) (bv 6 w 6)) else none
  | 28 => if fld w 0 6 == 0 then some (.ctz (bv 4 w 18) (bv 6 w 12) (bv 6 w 6)) else none
  | 29 => if fld w 0 6 == 0 then some (.popc (bv 4 w 18) (bv 6 w 12) (bv 6 w 6)) else none
  | 30 => some (.extract (bv 4 w 18) (bv 6 w 12) (bv 6 w 6) (bv 6 w 0))
  | 31 => some (.extractN (bv 4 w 18) (bv 6 w 12) (bv 6 w 6) (bv 6 w 0))
  | 32 => some (.insert (bv 4 w 18) (bv 6 w 12) (bv 6 w 6) (bv 6 w 0))
  | 33 => some (.unpk (bv 4 w 18) (bv 6 w 12) (bv 6 w 6) (bv 6 w 0))
  | 34 => some (.packb (bv 4 w 18) (bv 6 w 12) (bv 6 w 6) (bv 6 w 0))
  | 35 => some (.lut (bv 4 w 18) (bv 6 w 12) (bv 6 w 6) (bv 6 w 0))
  | 36 => some (.cmpEq (bv 4 w 18) (bv 4 w 14) (bv 2 w 12) (bv 6 w 6) (bv 6 w 0))
  | 37 => some (.cmpNe (bv 4 w 18) (bv 4 w 14) (bv 2 w 12) (bv 6 w 6) (bv 6 w 0))
  | 38 => some (.cmpLt (bv 4 w 18) (bv 4 w 14) (bv 2 w 12) (bv 6 w 6) (bv 6 w 0))
  | 39 => some (.cmpGe (bv 4 w 18) (bv 4 w 14) (bv 2 w 12) (bv 6 w 6) (bv 6 w 0))
  | 40 => some (.cmpLtn (bv 4 w 18) (bv 4 w 14) (bv 2 w 12) (bv 6 w 6) (bv 6 w 0))
  | 41 => some (.cmpGen (bv 4 w 18) (bv 4 w 14) (bv 2 w 12) (bv 6 w 6) (bv 6 w 0))
  | 42 => some (.cmpiEq (bv 4 w 18) (bv 4 w 14) (bv 2 w 12) (bv 6 w 6) (opnd 6 (fld w 0 6) es))
  | 43 => some (.cmpiLt (bv 4 w 18) (bv 4 w 14) (bv 2 w 12) (bv 6 w 6) (opnd 6 (fld w 0 6) es))
  | 44 => some (.cmpiGe (bv 4 w 18) (bv 4 w 14) (bv 2 w 12) (bv 6 w 6) (opnd 6 (fld w 0 6) es))
  | 45 => if fld w 5 1 == 0 && fld w 11 1 == 0 then some (.pand (bv 4 w 18) (bv 4 w 14) (bv 2 w 12) (bv 1 w 10) (bv 4 w 6) (bv 1 w 4) (bv 4 w 0)) else none
  | 46 => if fld w 5 1 == 0 && fld w 11 1 == 0 then some (.por (bv 4 w 18) (bv 4 w 14) (bv 2 w 12) (bv 1 w 10) (bv 4 w 6) (bv 1 w 4) (bv 4 w 0)) else none
  | 47 => if fld w 5 1 == 0 && fld w 11 1 == 0 then some (.pxor (bv 4 w 18) (bv 4 w 14) (bv 2 w 12) (bv 1 w 10) (bv 4 w 6) (bv 1 w 4) (bv 4 w 0)) else none
  | 48 => some (.faddS (bv 4 w 18) (bv 6 w 12) (bv 6 w 6) (opnd 6 (fld w 0 6) es))
  | 49 => some (.faddD (bv 4 w 18) (bv 6 w 12) (bv 6 w 6) (opnd 6 (fld w 0 6) es))
  | 50 => some (.fmulS (bv 4 w 18) (bv 6 w 12) (bv 6 w 6) (opnd 6 (fld w 0 6) es))
  | 51 => some (.fmulD (bv 4 w 18) (bv 6 w 12) (bv 6 w 6) (opnd 6 (fld w 0 6) es))
  | 52 => some (.ffmaS (bv 4 w 18) (bv 6 w 12) (bv 6 w 6) (opnd 6 (fld w 0 6) es))
  | 53 => some (.ffmaD (bv 4 w 18) (bv 6 w 12) (bv 6 w 6) (opnd 6 (fld w 0 6) es))
  | 54 => some (.fminS (bv 4 w 18) (bv 6 w 12) (bv 6 w 6) (opnd 6 (fld w 0 6) es))
  | 55 => some (.fmaxS (bv 4 w 18) (bv 6 w 12) (bv 6 w 6) (opnd 6 (fld w 0 6) es))
  | 56 => some (.fcmpLt (bv 4 w 18) (bv 4 w 14) (bv 2 w 12) (bv 6 w 6) (opnd 6 (fld w 0 6) es))
  | 57 => some (.fcmpEq (bv 4 w 18) (bv 4 w 14) (bv 2 w 12) (bv 6 w 6) (opnd 6 (fld w 0 6) es))
  | 58 => some (.fcvt (bv 4 w 18) (bv 6 w 12) (bv 6 w 6) (bv 6 w 0))
  | 59 => some (.fdivS (bv 4 w 18) (bv 6 w 12) (bv 6 w 6) (bv 6 w 0))
  | 60 => if fld w 0 6 == 0 then some (.fsqrtS (bv 4 w 18) (bv 6 w 12) (bv 6 w 6)) else none
  | 61 => if fld w 0 12 == 0 then some (.rng (bv 4 w 18) (bv 6 w 12)) else none
  | 62 => some (.mulhN (bv 4 w 18) (bv 6 w 12) (bv 6 w 6) (bv 6 w 0))
  | _ => none

/-- The assigned opcodes of class 2 (R32): the syllable's fields, read by its form (R18). -/
def decodeMem (w : Nat) (es : List Nat) : Option Instr :=
  match fld w 22 6 with
  | 0 => some (.ldL (bv 4 w 18) (bv 6 w 12) (bv 6 w 6) (bv 2 w 4) (opnd 4 (fld w 0 4) es))
  | 1 => some (.ldsL (bv 4 w 18) (bv 6 w 12) (bv 6 w 6) (bv 2 w 4) (opnd 4 (fld w 0 4) es))
  | 2 => some (.stL (bv 4 w 18) (bv 6 w 12) (bv 6 w 6) (bv 2 w 4) (opnd 4 (fld w 0 4) es))
  | 3 => if fld w 4 2 == 3 && fld w 17 1 == 0 then some (.vldL (bv 4 w 18) (bv 5 w 12) (bv 6 w 6) (opnd 4 (fld w 0 4) es)) else none
  | 4 => if fld w 4 2 == 3 && fld w 17 1 == 0 then some (.vstL (bv 4 w 18) (bv 5 w 12) (bv 6 w 6) (opnd 4 (fld w 0 4) es)) else none
  | 5 => some (.ldLf (bv 4 w 18) (bv 6 w 12) (bv 6 w 6) (bv 2 w 4) (opnd 4 (fld w 0 4) es))
  | 6 => some (.ldLfc (bv 4 w 18) (bv 6 w 12) (bv 6 w 6) (bv 2 w 4) (opnd 4 (fld w 0 4) es))
  | 7 => some (.stLf (bv 4 w 18) (bv 6 w 12) (bv 6 w 6) (bv 2 w 4) (opnd 4 (fld w 0 4) es))
  | 8 => some (.stLe (bv 4 w 18) (bv 6 w 12) (bv 6 w 6) (bv 2 w 4) (opnd 4 (fld w 0 4) es))
  | 9 => some (.amoL (bv 4 w 18) (bv 6 w 12) (bv 6 w 6) (bv 4 w 2) (bv 2 w 0))
  | 10 => some (.ldC (bv 4 w 18) (bv 6 w 12) (bv 6 w 6) (bv 2 w 4) (opnd 4 (fld w 0 4) es))
  | 11 => some (.ldsC (bv 4 w 18) (bv 6 w 12) (bv 6 w 6) (bv 2 w 4) (opnd 4 (fld w 0 4) es))
  | 12 => some (.stC (bv 4 w 18) (bv 6 w 12) (bv 6 w 6) (bv 2 w 4) (opnd 4 (fld w 0 4) es))
  | 13 => if fld w 4 2 == 3 && fld w 17 1 == 0 then some (.vldC (bv 4 w 18) (bv 5 w 12) (bv 6 w 6) (opnd 4 (fld w 0 4) es)) else none
  | 14 => if fld w 4 2 == 3 && fld w 17 1 == 0 then some (.vstC (bv 4 w 18) (bv 5 w 12) (bv 6 w 6) (opnd 4 (fld w 0 4) es)) else none
  | 15 => if fld w 4 2 == 3 && fld w 17 1 == 0 then some (.mcst (bv 4 w 18) (bv 5 w 12) (bv 6 w 6) (opnd 4 (fld w 0 4) es)) else none
  | 16 => some (.ldG (bv 4 w 18) (bv 6 w 12) (bv 6 w 6) (bv 2 w 4) (opnd 4 (fld w 0 4) es))
  | 17 => some (.ldsG (bv 4 w 18) (bv 6 w 12) (bv 6 w 6) (bv 2 w 4) (opnd 4 (fld w 0 4) es))
  | 18 => some (.stG (bv 4 w 18) (bv 6 w 12) (bv 6 w 6) (bv 2 w 4) (opnd 4 (fld w 0 4) es))
  | 19 => if fld w 4 2 == 3 && fld w 17 1 == 0 then some (.vldG (bv 4 w 18) (bv 5 w 12) (bv 6 w 6) (opnd 4 (fld w 0 4) es)) else none
  | 20 => if fld w 4 2 == 3 && fld w 17 1 == 0 then some (.vstG (bv 4 w 18) (bv 5 w 12) (bv 6 w 6) (opnd 4 (fld w 0 4) es)) else none
  | 21 => some (.amoG (bv 4 w 18) (bv 6 w 12) (bv 6 w 6) (bv 4 w 2) (bv 2 w 0))
  | 22 => some (.casG (bv 4 w 18) (bv 6 w 12) (bv 6 w 6) (bv 6 w 0))
  | 23 => some (.ldN (bv 4 w 18) (bv 6 w 12) (bv 6 w 6) (bv 2 w 4) (opnd 4 (fld w 0 4) es))
  | 24 => some (.ldsN (bv 4 w 18) (bv 6 w 12) (bv 6 w 6) (bv 2 w 4) (opnd 4 (fld w 0 4) es))
  | 25 => some (.stN (bv 4 w 18) (bv 6 w 12) (bv 6 w 6) (bv 2 w 4) (opnd 4 (fld w 0 4) es))
  | 26 => if fld w 4 2 == 3 && fld w 17 1 == 0 then some (.vldN (bv 4 w 18) (bv 5 w 12) (bv 6 w 6) (opnd 4 (fld w 0 4) es)) else none
  | 27 => if fld w 4 2 == 3 && fld w 17 1 == 0 then some (.vstN (bv 4 w 18) (bv 5 w 12) (bv 6 w 6) (opnd 4 (fld w 0 4) es)) else none
  | 28 => some (.amoN (bv 4 w 18) (bv 6 w 12) (bv 6 w 6) (bv 4 w 2) (bv 2 w 0))
  | 29 => some (.casN (bv 4 w 18) (bv 6 w 12) (bv 6 w 6) (bv 6 w 0))
  | 30 => if fld w 4 2 == 0 && fld w 11 1 == 0 && fld w 17 1 == 0 then some (.gathVector (bv 4 w 18) (bv 5 w 12) (bv 5 w 6) (bv 4 w 0)) else if fld w 0 6 == 0 && fld w 11 1 == 0 && fld w 15 3 == 4 then some (.gathTile (bv 4 w 18) (bv 3 w 12) (bv 5 w 6)) else none
  | 31 => if fld w 0 6 == 0 then some (.sqNew (bv 4 w 18) (bv 6 w 12) (bv 6 w 6)) else none
  | 32 => some (.sqRes (bv 4 w 18) (bv 6 w 12) (bv 6 w 6) (bv 6 w 0))
  | 33 => some (.sqCom (bv 4 w 18) (bv 6 w 12) (bv 6 w 6) (bv 6 w 0))
  | 34 => some (.sqLen (bv 4 w 18) (bv 6 w 12) (bv 6 w 6) (bv 6 w 0))
  | 35 => if fld w 0 6 == 0 then some (.sqFork (bv 4 w 18) (bv 6 w 12) (bv 6 w 6)) else none
  | 36 => if fld w 0 6 == 0 && fld w 12 6 == 0 then some (.sqDrop (bv 4 w 18) (bv 6 w 6)) else none
  | 37 => if fld w 11 1 == 0 && fld w 15 1 == 0 then some (.sqGath (bv 4 w 18) (bv 2 w 16) (bv 3 w 12) (bv 5 w 6) (bv 6 w 0)) else none
  | 38 => some (.sqPre (bv 4 w 18) (bv 6 w 12) (bv 6 w 6) (bv 6 w 0))
  | 39 => if fld w 0 6 == 0 then some (.plReq (bv 4 w 18) (bv 6 w 12) (bv 6 w 6)) else none
  | 40 => if fld w 4 2 == 0 && fld w 17 1 == 0 then some (.plRsp (bv 4 w 18) (bv 5 w 12) (bv 6 w 6) (bv 4 w 0)) else none
  | 41 => if fld w 4 2 == 0 && fld w 8 4 == 0 then some (.phReg (bv 4 w 18) (bv 6 w 12) (bv 2 w 6) (bv 4 w 0)) else none
  | 42 => if fld w 4 14 == 0 then some (.phDrop (bv 4 w 18) (bv 4 w 0)) else none
  | 43 => if fld w 4 14 == 0 then some (.phSig (bv 4 w 18) (bv 4 w 0)) else none
  | 44 => if fld w 4 8 == 0 then some (.phWait (bv 4 w 18) (bv 6 w 12) (bv 4 w 0)) else none
  | 45 => if fld w 4 8 == 0 then some (.phAdv (bv 4 w 18) (bv 6 w 12) (bv 4 w 0)) else none
  | 46 => if fld w 0 12 == 0 then some (.clBar (bv 4 w 18) (bv 6 w 12)) else none
  | 47 => if fld w 6 6 == 0 && fld w 13 5 == 0 then some (.wcnt (bv 4 w 18) (bv 1 w 12) (bv 6 w 0)) else none
  | 48 => if fld w 5 13 == 0 then some (.fence (bv 4 w 18) (bv 3 w 2) (bv 1 w 1) (bv 1 w 0)) else none
  | 49 => some (.waita (bv 4 w 18) (bv 6 w 12) (bv 1 w 11) (bv 5 w 6) (bv 6 w 0))
  | 50 => if fld w 1 5 == 0 then some (.ownAcq (bv 4 w 18) (bv 6 w 12) (bv 6 w 6) (bv 1 w 0)) else none
  | 51 => if fld w 0 6 == 0 && fld w 12 6 == 0 then some (.ownRel (bv 4 w 18) (bv 6 w 6)) else none
  | 52 => if fld w 0 6 == 0 then some (.dig (bv 4 w 18) (bv 6 w 12) (bv 6 w 6)) else none
  | _ => none

/-- The assigned opcodes of class 3 (R32): the syllable's fields, read by its form (R18). -/
def decodeVec (w : Nat) (es : List Nat) : Option Instr :=
  match fld w 22 6 with
  | 0 => some (.vadd (bv 4 w 18) (bv 3 w 15) (bv 5 w 10) (bv 5 w 5) (opnd 5 (fld w 0 5) es))
  | 1 => some (.vsub (bv 4 w 18) (bv 3 w 15) (bv 5 w 10) (bv 5 w 5) (opnd 5 (fld w 0 5) es))
  | 2 => some (.vmul (bv 4 w 18) (bv 3 w 15) (bv 5 w 10) (bv 5 w 5) (opnd 5 (fld w 0 5) es))
  | 3 => some (.vfma (bv 4 w 18) (bv 3 w 15) (bv 5 w 10) (bv 5 w 5) (opnd 5 (fld w 0 5) es))
  | 4 => some (.vmin (bv 4 w 18) (bv 3 w 15) (bv 5 w 10) (bv 5 w 5) (opnd 5 (fld w 0 5) es))
  | 5 => some (.vmax (bv 4 w 18) (bv 3 w 15) (bv 5 w 10) (bv 5 w 5) (opnd 5 (fld w 0 5) es))
  | 6 => some (.vand (bv 4 w 18) (bv 3 w 15) (bv 5 w 10) (bv 5 w 5) (opnd 5 (fld w 0 5) es))
  | 7 => some (.vor (bv 4 w 18) (bv 3 w 15) (bv 5 w 10) (bv 5 w 5) (opnd 5 (fld w 0 5) es))
  | 8 => some (.vxor (bv 4 w 18) (bv 3 w 15) (bv 5 w 10) (bv 5 w 5) (opnd 5 (fld w 0 5) es))
  | 9 => some (.vshl (bv 4 w 18) (bv 3 w 15) (bv 5 w 10) (bv 5 w 5) (opnd 5 (fld w 0 5) es))
  | 10 => some (.vshr (bv 4 w 18) (bv 3 w 15) (bv 5 w 10) (bv 5 w 5) (opnd 5 (fld w 0 5) es))
  | 11 => some (.vsar (bv 4 w 18) (bv 3 w 15) (bv 5 w 10) (bv 5 w 5) (opnd 5 (fld w 0 5) es))
  | 12 => if fld w 0 5 == 0 then some (.vabs (bv 4 w 18) (bv 3 w 15) (bv 5 w 10) (bv 5 w 5)) else none
  | 13 => if fld w 0 5 == 0 then some (.vneg (bv 4 w 18) (bv 3 w 15) (bv 5 w 10) (bv 5 w 5)) else none
  | 14 => some (.vcvt (bv 4 w 18) (bv 3 w 15) (bv 5 w 10) (bv 5 w 5) (bv 2 w 3) (bv 3 w 0))
  | 15 => some (.vcmpEq (bv 4 w 18) (bv 3 w 15) (bv 5 w 10) (bv 5 w 5) (opnd 5 (fld w 0 5) es))
  | 16 => some (.vcmpLt (bv 4 w 18) (bv 3 w 15) (bv 5 w 10) (bv 5 w 5) (opnd 5 (fld w 0 5) es))
  | 17 => some (.vcmpLe (bv 4 w 18) (bv 3 w 15) (bv 5 w 10) (bv 5 w 5) (opnd 5 (fld w 0 5) es))
  | 18 => some (.vsel (bv 4 w 18) (bv 3 w 15) (bv 5 w 10) (bv 5 w 5) (bv 5 w 0))
  | 19 => if fld w 0 5 == 0 then some (.vbcast (bv 4 w 18) (bv 3 w 15) (bv 5 w 10) (bv 5 w 5)) else none
  | 20 => some (.vperm (bv 4 w 18) (bv 3 w 15) (bv 5 w 10) (bv 5 w 5) (bv 5 w 0))
  | 21 => some (.vrot (bv 4 w 18) (bv 3 w 15) (bv 5 w 10) (bv 5 w 5) (bv 5 w 0))
  | 22 => if fld w 0 5 == 0 then some (.vrsum (bv 4 w 18) (bv 3 w 15) (bv 5 w 10) (bv 5 w 5)) else none
  | 23 => if fld w 0 5 == 0 then some (.vrmax (bv 4 w 18) (bv 3 w 15) (bv 5 w 10) (bv 5 w 5)) else none
  | 24 => if fld w 0 5 == 0 then some (.vrmin (bv 4 w 18) (bv 3 w 15) (bv 5 w 10) (bv 5 w 5)) else none
  | 25 => if fld w 0 5 == 0 then some (.vscan (bv 4 w 18) (bv 3 w 15) (bv 5 w 10) (bv 5 w 5)) else none
  | 26 => if fld w 0 5 == 0 then some (.vexp2 (bv 4 w 18) (bv 3 w 15) (bv 5 w 10) (bv 5 w 5)) else none
  | 27 => if fld w 0 5 == 0 then some (.vlog2 (bv 4 w 18) (bv 3 w 15) (bv 5 w 10) (bv 5 w 5)) else none
  | 28 => if fld w 0 5 == 0 then some (.vrcp (bv 4 w 18) (bv 3 w 15) (bv 5 w 10) (bv 5 w 5)) else none
  | 29 => if fld w 0 5 == 0 then some (.vrsq (bv 4 w 18) (bv 3 w 15) (bv 5 w 10) (bv 5 w 5)) else none
  | 30 => if fld w 0 5 == 0 then some (.vtanh (bv 4 w 18) (bv 3 w 15) (bv 5 w 10) (bv 5 w 5)) else none
  | 31 => some (.vextr (bv 4 w 18) (bv 3 w 15) (bv 5 w 10) (bv 5 w 5) (bv 5 w 0))
  | 32 => some (.vinsr (bv 4 w 18) (bv 3 w 15) (bv 5 w 10) (bv 5 w 5) (bv 5 w 0))
  | 33 => some (.vdot4 (bv 4 w 18) (bv 3 w 15) (bv 5 w 10) (bv 5 w 5) (bv 5 w 0))
  | 34 => some (.vmulh (bv 4 w 18) (bv 3 w 15) (bv 5 w 10) (bv 5 w 5) (opnd 5 (fld w 0 5) es))
  | 35 => if fld w 3 2 == 0 then some (.vqsc (bv 4 w 18) (bv 3 w 15) (bv 5 w 10) (bv 5 w 5) (bv 3 w 0)) else none
  | 36 => some (.vqnt (bv 4 w 18) (bv 3 w 15) (bv 5 w 10) (bv 5 w 5) (bv 2 w 3) (bv 3 w 0))
  | 37 => if fld w 0 10 == 0 then some (.vrng (bv 4 w 18) (bv 3 w 15) (bv 5 w 10)) else none
  | 38 => if fld w 0 5 == 0 then some (.vpopc (bv 4 w 18) (bv 3 w 15) (bv 5 w 10) (bv 5 w 5)) else none
  | 39 => some (.vcx (bv 4 w 18) (bv 3 w 15) (bv 5 w 10) (bv 5 w 5) (bv 5 w 0))
  | 40 => some (.vadds (bv 4 w 18) (bv 3 w 15) (bv 5 w 10) (bv 5 w 5) (opnd 5 (fld w 0 5) es))
  | 41 => some (.vsubs (bv 4 w 18) (bv 3 w 15) (bv 5 w 10) (bv 5 w 5) (opnd 5 (fld w 0 5) es))
  | 42 => some (.vminN (bv 4 w 18) (bv 3 w 15) (bv 5 w 10) (bv 5 w 5) (opnd 5 (fld w 0 5) es))
  | 43 => some (.vmaxN (bv 4 w 18) (bv 3 w 15) (bv 5 w 10) (bv 5 w 5) (opnd 5 (fld w 0 5) es))
  | 44 => some (.vcmpLtn (bv 4 w 18) (bv 3 w 15) (bv 5 w 10) (bv 5 w 5) (opnd 5 (fld w 0 5) es))
  | _ => none

/-- The assigned opcodes of class 4 (R32): the syllable's fields, read by its form (R18). -/
def decodeMat (w : Nat) (es : List Nat) : Option Instr :=
  match fld w 22 6 with
  | 0 => some (.mm (bv 4 w 18) (bv 2 w 16) (bv 3 w 13) (bv 5 w 8) (bv 1 w 7) (bv 1 w 6) (bv 6 w 0))
  | 1 => if fld w 4 4 == 0 && fld w 13 3 == 0 then some (.mmDRoute (bv 4 w 18) (bv 2 w 16) (bv 5 w 8) (bv 4 w 0)) else if fld w 0 8 == 64 then some (.mmDSteer (bv 4 w 18) (bv 2 w 16) (bv 3 w 13) (bv 5 w 8)) else none
  | 2 => if fld w 0 16 == 0 then some (.mmZ (bv 4 w 18) (bv 2 w 16)) else none
  | 3 => if fld w 0 6 == 0 && fld w 7 1 == 0 && fld w 16 2 == 0 then some (.mmW (bv 4 w 18) (bv 3 w 13) (bv 5 w 8) (bv 1 w 6)) else none
  | 4 => if fld w 0 8 == 0 && fld w 13 3 == 0 then some (.mmAr (bv 4 w 18) (bv 2 w 16) (bv 5 w 8)) else none
  | 5 => if fld w 0 8 == 0 && fld w 13 3 == 0 then some (.mmAw (bv 4 w 18) (bv 2 w 16) (bv 5 w 8)) else none
  | 6 => if fld w 0 3 == 0 then some (.tdSet (bv 4 w 18) (opnd 6 (fld w 12 6) es) (bv 5 w 7) (bv 4 w 3)) else none
  | 7 => if fld w 0 3 == 0 then some (.tdGet (bv 4 w 18) (bv 6 w 12) (bv 5 w 7) (bv 4 w 3)) else none
  | 8 => if fld w 0 3 == 0 && fld w 5 2 == 0 then some (.tdStep (bv 4 w 18) (opnd 6 (fld w 12 6) es) (bv 5 w 7) (bv 2 w 3)) else none
  | _ => none

/-- The assigned opcodes of class 5 (R32): the syllable's fields, read by its form (R18). -/
def decodeXfm (w : Nat) (_ : List Nat) : Option Instr :=
  match fld w 22 6 with
  | 0 => if fld w 1 2 == 0 && fld w 5 3 == 0 && fld w 13 5 == 0 then some (.xpTbl (bv 4 w 18) (bv 5 w 8) (bv 2 w 3) (bv 1 w 0)) else none
  | 1 => if fld w 1 2 == 0 && fld w 7 1 == 0 then some (.xpExp (bv 4 w 18) (bv 5 w 13) (bv 5 w 8) (bv 4 w 3) (bv 1 w 0)) else none
  | 2 => if fld w 5 3 == 0 then some (.xpCvt (bv 4 w 18) (bv 5 w 13) (bv 5 w 8) (bv 2 w 3) (bv 3 w 0)) else none
  | 3 => if fld w 2 6 == 0 then some (.xpTrn (bv 4 w 18) (bv 5 w 13) (bv 5 w 8) (bv 2 w 0)) else none
  | 4 => if fld w 1 2 == 0 && fld w 5 3 == 0 then some (.xpPack (bv 4 w 18) (bv 5 w 13) (bv 5 w 8) (bv 2 w 3) (bv 1 w 0)) else none
  | 5 => if fld w 1 2 == 0 && fld w 7 1 == 0 then some (.xpPln (bv 4 w 18) (bv 5 w 13) (bv 5 w 8) (bv 4 w 3) (bv 1 w 0)) else none
  | 6 => some (.xpUnp (bv 4 w 18) (bv 5 w 13) (bv 5 w 8) (bv 5 w 3) (bv 3 w 0))
  | _ => none

/-- A syllable: its constant bits and its fields, each with the bit it starts at. -/
def syl (m : Nat) : List (Nat × Nat) → Nat
  | [] => m
  | (v, lo) :: fs => syl (m + v * 2 ^ lo) fs

/-- The syllable of an instruction with its `S` bit zero, then the imm28 of each EXT syllable; the empty list
for a row that has no encoding. Written from the form tables of R18 to R32. -/
def Instr.fieldsOf : Instr → List Nat
  | .nop p => syl 0x0 [(p.toNat, 18)] :: []
  | .endFiring p => syl 0x400000 [(p.toNat, 18)] :: []
  | .br p d => syl 0x800000 [(p.toNat, 18), (d.toNat, 0)] :: []
  | .brR p a => syl 0xc00000 [(p.toNat, 18), (a.toNat, 6)] :: []
  | .brT p q1 q2 q3 q4 n t1 t2 t3 t4 => syl 0x1000000 [(p.toNat, 18), (q1.toNat, 14), (q2.toNat, 10), (q3.toNat, 6), (q4.toNat, 2), (n.toNat, 0)] :: [t1.toNat + t2.toNat * 2^14, t3.toNat + t4.toNat * 2^14]
  | .call p d => syl 0x1400000 [(p.toNat, 18), (d.toNat, 0)] :: []
  | .callR p a => syl 0x1800000 [(p.toNat, 18), (a.toNat, 6)] :: []
  | .ret p => syl 0x1c00000 [(p.toNat, 18)] :: []
  | .loop p c d => syl 0x2000000 [(p.toNat, 18), (c.toNat, 12), (d.toNat, 0)] :: []
  | .loopR p d => syl 0x2400000 [(p.toNat, 18), (d.toNat, 0)] :: []
  | .setlc p e a i => syl 0x2800000 [(p.toNat, 18), (e.toNat, 12), (a.toNat, 6), (i.field, 0)] :: i.exts
  | .take p d h n => syl 0x2c00000 [(p.toNat, 18), (d.toNat, 12), (h.toNat, 6), (n.toNat, 3)] :: []
  | .emit p d a n k w => syl 0x3000000 [(p.toNat, 18), (d.toNat, 12), (a.toNat, 6), (n.toNat, 3), (k.toNat, 1), (w.toNat, 0)] :: []
  | .mark p n l e => syl 0x3400000 [(p.toNat, 18), (n.toNat, 3), (l.toNat, 2), (e.toNat, 0)] :: []
  | .peek p d a n m => syl 0x3800000 [(p.toNat, 18), (d.toNat, 12), (a.toNat, 6), (n.toNat, 3), (m.toNat, 0)] :: []
  | .wtag p t => syl 0x3c00000 [(p.toNat, 18), (t.toNat, 0)] :: []
  | .trap p i => syl 0x4000000 [(p.toNat, 18), (i.field, 0)] :: i.exts
  | .mfcr p d x => syl 0x4400000 [(p.toNat, 18), (d.toNat, 12), (x.toNat, 6)] :: []
  | .mtcr p x a => syl 0x4800000 [(p.toNat, 18), (x.toNat, 12), (a.toNat, 6)] :: []
  | .rft p => syl 0x4c00000 [(p.toNat, 18)] :: []
  | .halt p => syl 0x5000000 [(p.toNat, 18)] :: []
  | .cfgNext p a => syl 0x5400000 [(p.toNat, 18), (a.toNat, 6)] :: []
  | .add p d a b => syl 0x10000000 [(p.toNat, 18), (d.toNat, 12), (a.toNat, 6), (b.toNat, 0)] :: []
  | .sub p d a b => syl 0x10400000 [(p.toNat, 18), (d.toNat, 12), (a.toNat, 6), (b.toNat, 0)] :: []
  | .mul p d a b => syl 0x10800000 [(p.toNat, 18), (d.toNat, 12), (a.toNat, 6), (b.toNat, 0)] :: []
  | .mulh p d a b => syl 0x10c00000 [(p.toNat, 18), (d.toNat, 12), (a.toNat, 6), (b.toNat, 0)] :: []
  | .div p d a b => syl 0x11000000 [(p.toNat, 18), (d.toNat, 12), (a.toNat, 6), (b.toNat, 0)] :: []
  | .divN p d a b => syl 0x11400000 [(p.toNat, 18), (d.toNat, 12), (a.toNat, 6), (b.toNat, 0)] :: []
  | .rem p d a b => syl 0x11800000 [(p.toNat, 18), (d.toNat, 12), (a.toNat, 6), (b.toNat, 0)] :: []
  | .and p d a b => syl 0x11c00000 [(p.toNat, 18), (d.toNat, 12), (a.toNat, 6), (b.toNat, 0)] :: []
  | .or p d a b => syl 0x12000000 [(p.toNat, 18), (d.toNat, 12), (a.toNat, 6), (b.toNat, 0)] :: []
  | .xor p d a b => syl 0x12400000 [(p.toNat, 18), (d.toNat, 12), (a.toNat, 6), (b.toNat, 0)] :: []
  | .andn p d a b => syl 0x12800000 [(p.toNat, 18), (d.toNat, 12), (a.toNat, 6), (b.toNat, 0)] :: []
  | .shl p d a b => syl 0x12c00000 [(p.toNat, 18), (d.toNat, 12), (a.toNat, 6), (b.toNat, 0)] :: []
  | .shr p d a b => syl 0x13000000 [(p.toNat, 18), (d.toNat, 12), (a.toNat, 6), (b.toNat, 0)] :: []
  | .sar p d a b => syl 0x13400000 [(p.toNat, 18), (d.toNat, 12), (a.toNat, 6), (b.toNat, 0)] :: []
  | .min p d a b => syl 0x13800000 [(p.toNat, 18), (d.toNat, 12), (a.toNat, 6), (b.toNat, 0)] :: []
  | .max p d a b => syl 0x13c00000 [(p.toNat, 18), (d.toNat, 12), (a.toNat, 6), (b.toNat, 0)] :: []
  | .minN p d a b => syl 0x14000000 [(p.toNat, 18), (d.toNat, 12), (a.toNat, 6), (b.toNat, 0)] :: []
  | .maxN p d a b => syl 0x14400000 [(p.toNat, 18), (d.toNat, 12), (a.toNat, 6), (b.toNat, 0)] :: []
  | .addi p d a i => syl 0x14800000 [(p.toNat, 18), (d.toNat, 12), (a.toNat, 6), (i.field, 0)] :: i.exts
  | .andi p d a i => syl 0x14c00000 [(p.toNat, 18), (d.toNat, 12), (a.toNat, 6), (i.field, 0)] :: i.exts
  | .ori p d a i => syl 0x15000000 [(p.toNat, 18), (d.toNat, 12), (a.toNat, 6), (i.field, 0)] :: i.exts
  | .xori p d a i => syl 0x15400000 [(p.toNat, 18), (d.toNat, 12), (a.toNat, 6), (i.field, 0)] :: i.exts
  | .shli p d a i => syl 0x15800000 [(p.toNat, 18), (d.toNat, 12), (a.toNat, 6), (i.toNat, 0)] :: []
  | .shri p d a i => syl 0x15c00000 [(p.toNat, 18), (d.toNat, 12), (a.toNat, 6), (i.toNat, 0)] :: []
  | .sari p d a i => syl 0x16000000 [(p.toNat, 18), (d.toNat, 12), (a.toNat, 6), (i.toNat, 0)] :: []
  | .li p d i => syl 0x16400000 [(p.toNat, 18), (d.toNat, 12), (i.field, 0)] :: i.exts
  | .sel q d a b => syl 0x16800000 [(q.toNat, 18), (d.toNat, 12), (a.toNat, 6), (b.toNat, 0)] :: []
  | .clz p d a => syl 0x16c00000 [(p.toNat, 18), (d.toNat, 12), (a.toNat, 6)] :: []
  | .ctz p d a => syl 0x17000000 [(p.toNat, 18), (d.toNat, 12), (a.toNat, 6)] :: []
  | .popc p d a => syl 0x17400000 [(p.toNat, 18), (d.toNat, 12), (a.toNat, 6)] :: []
  | .extract p d a b => syl 0x17800000 [(p.toNat, 18), (d.toNat, 12), (a.toNat, 6), (b.toNat, 0)] :: []
  | .extractN p d a b => syl 0x17c00000 [(p.toNat, 18), (d.toNat, 12), (a.toNat, 6), (b.toNat, 0)] :: []
  | .insert p d a b => syl 0x18000000 [(p.toNat, 18), (d.toNat, 12), (a.toNat, 6), (b.toNat, 0)] :: []
  | .unpk p d a b => syl 0x18400000 [(p.toNat, 18), (d.toNat, 12), (a.toNat, 6), (b.toNat, 0)] :: []
  | .packb p d a b => syl 0x18800000 [(p.toNat, 18), (d.toNat, 12), (a.toNat, 6), (b.toNat, 0)] :: []
  | .lut p d a b => syl 0x18c00000 [(p.toNat, 18), (d.toNat, 12), (a.toNat, 6), (b.toNat, 0)] :: []
  | .cmpEq p q m a b => syl 0x19000000 [(p.toNat, 18), (q.toNat, 14), (m.toNat, 12), (a.toNat, 6), (b.toNat, 0)] :: []
  | .cmpNe p q m a b => syl 0x19400000 [(p.toNat, 18), (q.toNat, 14), (m.toNat, 12), (a.toNat, 6), (b.toNat, 0)] :: []
  | .cmpLt p q m a b => syl 0x19800000 [(p.toNat, 18), (q.toNat, 14), (m.toNat, 12), (a.toNat, 6), (b.toNat, 0)] :: []
  | .cmpGe p q m a b => syl 0x19c00000 [(p.toNat, 18), (q.toNat, 14), (m.toNat, 12), (a.toNat, 6), (b.toNat, 0)] :: []
  | .cmpLtn p q m a b => syl 0x1a000000 [(p.toNat, 18), (q.toNat, 14), (m.toNat, 12), (a.toNat, 6), (b.toNat, 0)] :: []
  | .cmpGen p q m a b => syl 0x1a400000 [(p.toNat, 18), (q.toNat, 14), (m.toNat, 12), (a.toNat, 6), (b.toNat, 0)] :: []
  | .cmpiEq p q m a i => syl 0x1a800000 [(p.toNat, 18), (q.toNat, 14), (m.toNat, 12), (a.toNat, 6), (i.field, 0)] :: i.exts
  | .cmpiLt p q m a i => syl 0x1ac00000 [(p.toNat, 18), (q.toNat, 14), (m.toNat, 12), (a.toNat, 6), (i.field, 0)] :: i.exts
  | .cmpiGe p q m a i => syl 0x1b000000 [(p.toNat, 18), (q.toNat, 14), (m.toNat, 12), (a.toNat, 6), (i.field, 0)] :: i.exts
  | .pand p q m n a k b => syl 0x1b400000 [(p.toNat, 18), (q.toNat, 14), (m.toNat, 12), (n.toNat, 10), (a.toNat, 6), (k.toNat, 4), (b.toNat, 0)] :: []
  | .por p q m n a k b => syl 0x1b800000 [(p.toNat, 18), (q.toNat, 14), (m.toNat, 12), (n.toNat, 10), (a.toNat, 6), (k.toNat, 4), (b.toNat, 0)] :: []
  | .pxor p q m n a k b => syl 0x1bc00000 [(p.toNat, 18), (q.toNat, 14), (m.toNat, 12), (n.toNat, 10), (a.toNat, 6), (k.toNat, 4), (b.toNat, 0)] :: []
  | .faddS p d a b => syl 0x1c000000 [(p.toNat, 18), (d.toNat, 12), (a.toNat, 6), (b.field, 0)] :: b.exts
  | .faddD p d a b => syl 0x1c400000 [(p.toNat, 18), (d.toNat, 12), (a.toNat, 6), (b.field, 0)] :: b.exts
  | .fmulS p d a b => syl 0x1c800000 [(p.toNat, 18), (d.toNat, 12), (a.toNat, 6), (b.field, 0)] :: b.exts
  | .fmulD p d a b => syl 0x1cc00000 [(p.toNat, 18), (d.toNat, 12), (a.toNat, 6), (b.field, 0)] :: b.exts
  | .ffmaS p d a b => syl 0x1d000000 [(p.toNat, 18), (d.toNat, 12), (a.toNat, 6), (b.field, 0)] :: b.exts
  | .ffmaD p d a b => syl 0x1d400000 [(p.toNat, 18), (d.toNat, 12), (a.toNat, 6), (b.field, 0)] :: b.exts
  | .fminS p d a b => syl 0x1d800000 [(p.toNat, 18), (d.toNat, 12), (a.toNat, 6), (b.field, 0)] :: b.exts
  | .fmaxS p d a b => syl 0x1dc00000 [(p.toNat, 18), (d.toNat, 12), (a.toNat, 6), (b.field, 0)] :: b.exts
  | .fcmpLt p q m a b => syl 0x1e000000 [(p.toNat, 18), (q.toNat, 14), (m.toNat, 12), (a.toNat, 6), (b.field, 0)] :: b.exts
  | .fcmpEq p q m a b => syl 0x1e400000 [(p.toNat, 18), (q.toNat, 14), (m.toNat, 12), (a.toNat, 6), (b.field, 0)] :: b.exts
  | .fcvt p d a c => syl 0x1e800000 [(p.toNat, 18), (d.toNat, 12), (a.toNat, 6), (c.toNat, 0)] :: []
  | .fdivS p d a b => syl 0x1ec00000 [(p.toNat, 18), (d.toNat, 12), (a.toNat, 6), (b.toNat, 0)] :: []
  | .fsqrtS p d a => syl 0x1f000000 [(p.toNat, 18), (d.toNat, 12), (a.toNat, 6)] :: []
  | .rng p d => syl 0x1f400000 [(p.toNat, 18), (d.toNat, 12)] :: []
  | .mulhN p d a b => syl 0x1f800000 [(p.toNat, 18), (d.toNat, 12), (a.toNat, 6), (b.toNat, 0)] :: []
  | .ldL p d a z i => syl 0x20000000 [(p.toNat, 18), (d.toNat, 12), (a.toNat, 6), (z.toNat, 4), (i.field, 0)] :: i.exts
  | .ldsL p d a z i => syl 0x20400000 [(p.toNat, 18), (d.toNat, 12), (a.toNat, 6), (z.toNat, 4), (i.field, 0)] :: i.exts
  | .stL p d a z i => syl 0x20800000 [(p.toNat, 18), (d.toNat, 12), (a.toNat, 6), (z.toNat, 4), (i.field, 0)] :: i.exts
  | .vldL p v a i => syl 0x20c00030 [(p.toNat, 18), (v.toNat, 12), (a.toNat, 6), (i.field, 0)] :: i.exts
  | .vstL p v a i => syl 0x21000030 [(p.toNat, 18), (v.toNat, 12), (a.toNat, 6), (i.field, 0)] :: i.exts
  | .ldLf p d a z i => syl 0x21400000 [(p.toNat, 18), (d.toNat, 12), (a.toNat, 6), (z.toNat, 4), (i.field, 0)] :: i.exts
  | .ldLfc p d a z i => syl 0x21800000 [(p.toNat, 18), (d.toNat, 12), (a.toNat, 6), (z.toNat, 4), (i.field, 0)] :: i.exts
  | .stLf p d a z i => syl 0x21c00000 [(p.toNat, 18), (d.toNat, 12), (a.toNat, 6), (z.toNat, 4), (i.field, 0)] :: i.exts
  | .stLe p d a z i => syl 0x22000000 [(p.toNat, 18), (d.toNat, 12), (a.toNat, 6), (z.toNat, 4), (i.field, 0)] :: i.exts
  | .amoL p d a o z => syl 0x22400000 [(p.toNat, 18), (d.toNat, 12), (a.toNat, 6), (o.toNat, 2), (z.toNat, 0)] :: []
  | .ldC p d a z i => syl 0x22800000 [(p.toNat, 18), (d.toNat, 12), (a.toNat, 6), (z.toNat, 4), (i.field, 0)] :: i.exts
  | .ldsC p d a z i => syl 0x22c00000 [(p.toNat, 18), (d.toNat, 12), (a.toNat, 6), (z.toNat, 4), (i.field, 0)] :: i.exts
  | .stC p d a z i => syl 0x23000000 [(p.toNat, 18), (d.toNat, 12), (a.toNat, 6), (z.toNat, 4), (i.field, 0)] :: i.exts
  | .vldC p v a i => syl 0x23400030 [(p.toNat, 18), (v.toNat, 12), (a.toNat, 6), (i.field, 0)] :: i.exts
  | .vstC p v a i => syl 0x23800030 [(p.toNat, 18), (v.toNat, 12), (a.toNat, 6), (i.field, 0)] :: i.exts
  | .mcst p v a i => syl 0x23c00030 [(p.toNat, 18), (v.toNat, 12), (a.toNat, 6), (i.field, 0)] :: i.exts
  | .ldG p d a z i => syl 0x24000000 [(p.toNat, 18), (d.toNat, 12), (a.toNat, 6), (z.toNat, 4), (i.field, 0)] :: i.exts
  | .ldsG p d a z i => syl 0x24400000 [(p.toNat, 18), (d.toNat, 12), (a.toNat, 6), (z.toNat, 4), (i.field, 0)] :: i.exts
  | .stG p d a z i => syl 0x24800000 [(p.toNat, 18), (d.toNat, 12), (a.toNat, 6), (z.toNat, 4), (i.field, 0)] :: i.exts
  | .vldG p v a i => syl 0x24c00030 [(p.toNat, 18), (v.toNat, 12), (a.toNat, 6), (i.field, 0)] :: i.exts
  | .vstG p v a i => syl 0x25000030 [(p.toNat, 18), (v.toNat, 12), (a.toNat, 6), (i.field, 0)] :: i.exts
  | .amoG p d a o z => syl 0x25400000 [(p.toNat, 18), (d.toNat, 12), (a.toNat, 6), (o.toNat, 2), (z.toNat, 0)] :: []
  | .casG p d a b => syl 0x25800000 [(p.toNat, 18), (d.toNat, 12), (a.toNat, 6), (b.toNat, 0)] :: []
  | .ldN p d a z i => syl 0x25c00000 [(p.toNat, 18), (d.toNat, 12), (a.toNat, 6), (z.toNat, 4), (i.field, 0)] :: i.exts
  | .ldsN p d a z i => syl 0x26000000 [(p.toNat, 18), (d.toNat, 12), (a.toNat, 6), (z.toNat, 4), (i.field, 0)] :: i.exts
  | .stN p d a z i => syl 0x26400000 [(p.toNat, 18), (d.toNat, 12), (a.toNat, 6), (z.toNat, 4), (i.field, 0)] :: i.exts
  | .vldN p v a i => syl 0x26800030 [(p.toNat, 18), (v.toNat, 12), (a.toNat, 6), (i.field, 0)] :: i.exts
  | .vstN p v a i => syl 0x26c00030 [(p.toNat, 18), (v.toNat, 12), (a.toNat, 6), (i.field, 0)] :: i.exts
  | .amoN p d a o z => syl 0x27000000 [(p.toNat, 18), (d.toNat, 12), (a.toNat, 6), (o.toNat, 2), (z.toNat, 0)] :: []
  | .casN p d a b => syl 0x27400000 [(p.toNat, 18), (d.toNat, 12), (a.toNat, 6), (b.toNat, 0)] :: []
  | .gathVector p v d t => syl 0x27800000 [(p.toNat, 18), (v.toNat, 12), (d.toNat, 6), (t.toNat, 0)] :: []
  | .gathTile p k d => syl 0x27820000 [(p.toNat, 18), (k.toNat, 12), (d.toNat, 6)] :: []
  | .sqNew p d a => syl 0x27c00000 [(p.toNat, 18), (d.toNat, 12), (a.toNat, 6)] :: []
  | .sqRes p d h n => syl 0x28000000 [(p.toNat, 18), (d.toNat, 12), (h.toNat, 6), (n.toNat, 0)] :: []
  | .sqCom p f h n => syl 0x28400000 [(p.toNat, 18), (f.toNat, 12), (h.toNat, 6), (n.toNat, 0)] :: []
  | .sqLen p d h q => syl 0x28800000 [(p.toNat, 18), (d.toNat, 12), (h.toNat, 6), (q.toNat, 0)] :: []
  | .sqFork p d h => syl 0x28c00000 [(p.toNat, 18), (d.toNat, 12), (h.toNat, 6)] :: []
  | .sqDrop p h => syl 0x29000000 [(p.toNat, 18), (h.toNat, 6)] :: []
  | .sqGath p m t d b => syl 0x29400000 [(p.toNat, 18), (m.toNat, 16), (t.toNat, 12), (d.toNat, 6), (b.toNat, 0)] :: []
  | .sqPre p r h b => syl 0x29800000 [(p.toNat, 18), (r.toNat, 12), (h.toNat, 6), (b.toNat, 0)] :: []
  | .plReq p d a => syl 0x29c00000 [(p.toNat, 18), (d.toNat, 12), (a.toNat, 6)] :: []
  | .plRsp p v q t => syl 0x2a000000 [(p.toNat, 18), (v.toNat, 12), (q.toNat, 6), (t.toNat, 0)] :: []
  | .phReg p d m h => syl 0x2a400000 [(p.toNat, 18), (d.toNat, 12), (m.toNat, 6), (h.toNat, 0)] :: []
  | .phDrop p h => syl 0x2a800000 [(p.toNat, 18), (h.toNat, 0)] :: []
  | .phSig p h => syl 0x2ac00000 [(p.toNat, 18), (h.toNat, 0)] :: []
  | .phWait p d h => syl 0x2b000000 [(p.toNat, 18), (d.toNat, 12), (h.toNat, 0)] :: []
  | .phAdv p d h => syl 0x2b400000 [(p.toNat, 18), (d.toNat, 12), (h.toNat, 0)] :: []
  | .clBar p d => syl 0x2b800000 [(p.toNat, 18), (d.toNat, 12)] :: []
  | .wcnt p c b => syl 0x2bc00000 [(p.toNat, 18), (c.toNat, 12), (b.toNat, 0)] :: []
  | .fence p g q r => syl 0x2c000000 [(p.toNat, 18), (g.toNat, 2), (q.toNat, 1), (r.toNat, 0)] :: []
  | .waita p d f a b => syl 0x2c400000 [(p.toNat, 18), (d.toNat, 12), (f.toNat, 11), (a.toNat, 6), (b.toNat, 0)] :: []
  | .ownAcq p d a x => syl 0x2c800000 [(p.toNat, 18), (d.toNat, 12), (a.toNat, 6), (x.toNat, 0)] :: []
  | .ownRel p a => syl 0x2cc00000 [(p.toNat, 18), (a.toNat, 6)] :: []
  | .dig p d a => syl 0x2d000000 [(p.toNat, 18), (d.toNat, 12), (a.toNat, 6)] :: []
  | .vadd p t d a b => syl 0x30000000 [(p.toNat, 18), (t.toNat, 15), (d.toNat, 10), (a.toNat, 5), (b.field, 0)] :: b.exts
  | .vsub p t d a b => syl 0x30400000 [(p.toNat, 18), (t.toNat, 15), (d.toNat, 10), (a.toNat, 5), (b.field, 0)] :: b.exts
  | .vmul p t d a b => syl 0x30800000 [(p.toNat, 18), (t.toNat, 15), (d.toNat, 10), (a.toNat, 5), (b.field, 0)] :: b.exts
  | .vfma p t d a b => syl 0x30c00000 [(p.toNat, 18), (t.toNat, 15), (d.toNat, 10), (a.toNat, 5), (b.field, 0)] :: b.exts
  | .vmin p t d a b => syl 0x31000000 [(p.toNat, 18), (t.toNat, 15), (d.toNat, 10), (a.toNat, 5), (b.field, 0)] :: b.exts
  | .vmax p t d a b => syl 0x31400000 [(p.toNat, 18), (t.toNat, 15), (d.toNat, 10), (a.toNat, 5), (b.field, 0)] :: b.exts
  | .vand p t d a b => syl 0x31800000 [(p.toNat, 18), (t.toNat, 15), (d.toNat, 10), (a.toNat, 5), (b.field, 0)] :: b.exts
  | .vor p t d a b => syl 0x31c00000 [(p.toNat, 18), (t.toNat, 15), (d.toNat, 10), (a.toNat, 5), (b.field, 0)] :: b.exts
  | .vxor p t d a b => syl 0x32000000 [(p.toNat, 18), (t.toNat, 15), (d.toNat, 10), (a.toNat, 5), (b.field, 0)] :: b.exts
  | .vshl p t d a b => syl 0x32400000 [(p.toNat, 18), (t.toNat, 15), (d.toNat, 10), (a.toNat, 5), (b.field, 0)] :: b.exts
  | .vshr p t d a b => syl 0x32800000 [(p.toNat, 18), (t.toNat, 15), (d.toNat, 10), (a.toNat, 5), (b.field, 0)] :: b.exts
  | .vsar p t d a b => syl 0x32c00000 [(p.toNat, 18), (t.toNat, 15), (d.toNat, 10), (a.toNat, 5), (b.field, 0)] :: b.exts
  | .vabs p t d a => syl 0x33000000 [(p.toNat, 18), (t.toNat, 15), (d.toNat, 10), (a.toNat, 5)] :: []
  | .vneg p t d a => syl 0x33400000 [(p.toNat, 18), (t.toNat, 15), (d.toNat, 10), (a.toNat, 5)] :: []
  | .vcvt p t d a k g => syl 0x33800000 [(p.toNat, 18), (t.toNat, 15), (d.toNat, 10), (a.toNat, 5), (k.toNat, 3), (g.toNat, 0)] :: []
  | .vcmpEq p t d a b => syl 0x33c00000 [(p.toNat, 18), (t.toNat, 15), (d.toNat, 10), (a.toNat, 5), (b.field, 0)] :: b.exts
  | .vcmpLt p t d a b => syl 0x34000000 [(p.toNat, 18), (t.toNat, 15), (d.toNat, 10), (a.toNat, 5), (b.field, 0)] :: b.exts
  | .vcmpLe p t d a b => syl 0x34400000 [(p.toNat, 18), (t.toNat, 15), (d.toNat, 10), (a.toNat, 5), (b.field, 0)] :: b.exts
  | .vsel p t d a b => syl 0x34800000 [(p.toNat, 18), (t.toNat, 15), (d.toNat, 10), (a.toNat, 5), (b.toNat, 0)] :: []
  | .vbcast p t d a => syl 0x34c00000 [(p.toNat, 18), (t.toNat, 15), (d.toNat, 10), (a.toNat, 5)] :: []
  | .vperm p t d a b => syl 0x35000000 [(p.toNat, 18), (t.toNat, 15), (d.toNat, 10), (a.toNat, 5), (b.toNat, 0)] :: []
  | .vrot p t d a b => syl 0x35400000 [(p.toNat, 18), (t.toNat, 15), (d.toNat, 10), (a.toNat, 5), (b.toNat, 0)] :: []
  | .vrsum p t d a => syl 0x35800000 [(p.toNat, 18), (t.toNat, 15), (d.toNat, 10), (a.toNat, 5)] :: []
  | .vrmax p t d a => syl 0x35c00000 [(p.toNat, 18), (t.toNat, 15), (d.toNat, 10), (a.toNat, 5)] :: []
  | .vrmin p t d a => syl 0x36000000 [(p.toNat, 18), (t.toNat, 15), (d.toNat, 10), (a.toNat, 5)] :: []
  | .vscan p t d a => syl 0x36400000 [(p.toNat, 18), (t.toNat, 15), (d.toNat, 10), (a.toNat, 5)] :: []
  | .vexp2 p t d a => syl 0x36800000 [(p.toNat, 18), (t.toNat, 15), (d.toNat, 10), (a.toNat, 5)] :: []
  | .vlog2 p t d a => syl 0x36c00000 [(p.toNat, 18), (t.toNat, 15), (d.toNat, 10), (a.toNat, 5)] :: []
  | .vrcp p t d a => syl 0x37000000 [(p.toNat, 18), (t.toNat, 15), (d.toNat, 10), (a.toNat, 5)] :: []
  | .vrsq p t d a => syl 0x37400000 [(p.toNat, 18), (t.toNat, 15), (d.toNat, 10), (a.toNat, 5)] :: []
  | .vtanh p t d a => syl 0x37800000 [(p.toNat, 18), (t.toNat, 15), (d.toNat, 10), (a.toNat, 5)] :: []
  | .vextr p t d a b => syl 0x37c00000 [(p.toNat, 18), (t.toNat, 15), (d.toNat, 10), (a.toNat, 5), (b.toNat, 0)] :: []
  | .vinsr p t d a b => syl 0x38000000 [(p.toNat, 18), (t.toNat, 15), (d.toNat, 10), (a.toNat, 5), (b.toNat, 0)] :: []
  | .vdot4 p t d a b => syl 0x38400000 [(p.toNat, 18), (t.toNat, 15), (d.toNat, 10), (a.toNat, 5), (b.toNat, 0)] :: []
  | .vmulh p t d a b => syl 0x38800000 [(p.toNat, 18), (t.toNat, 15), (d.toNat, 10), (a.toNat, 5), (b.field, 0)] :: b.exts
  | .vqsc p t d a g => syl 0x38c00000 [(p.toNat, 18), (t.toNat, 15), (d.toNat, 10), (a.toNat, 5), (g.toNat, 0)] :: []
  | .vqnt p t d a k g => syl 0x39000000 [(p.toNat, 18), (t.toNat, 15), (d.toNat, 10), (a.toNat, 5), (k.toNat, 3), (g.toNat, 0)] :: []
  | .vrng p t d => syl 0x39400000 [(p.toNat, 18), (t.toNat, 15), (d.toNat, 10)] :: []
  | .vpopc p t d a => syl 0x39800000 [(p.toNat, 18), (t.toNat, 15), (d.toNat, 10), (a.toNat, 5)] :: []
  | .vcx p t d a b => syl 0x39c00000 [(p.toNat, 18), (t.toNat, 15), (d.toNat, 10), (a.toNat, 5), (b.toNat, 0)] :: []
  | .vadds p t d a b => syl 0x3a000000 [(p.toNat, 18), (t.toNat, 15), (d.toNat, 10), (a.toNat, 5), (b.field, 0)] :: b.exts
  | .vsubs p t d a b => syl 0x3a400000 [(p.toNat, 18), (t.toNat, 15), (d.toNat, 10), (a.toNat, 5), (b.field, 0)] :: b.exts
  | .vminN p t d a b => syl 0x3a800000 [(p.toNat, 18), (t.toNat, 15), (d.toNat, 10), (a.toNat, 5), (b.field, 0)] :: b.exts
  | .vmaxN p t d a b => syl 0x3ac00000 [(p.toNat, 18), (t.toNat, 15), (d.toNat, 10), (a.toNat, 5), (b.field, 0)] :: b.exts
  | .vcmpLtn p t d a b => syl 0x3b000000 [(p.toNat, 18), (t.toNat, 15), (d.toNat, 10), (a.toNat, 5), (b.field, 0)] :: b.exts
  | .mm p a t d c k n => syl 0x40000000 [(p.toNat, 18), (a.toNat, 16), (t.toNat, 13), (d.toNat, 8), (c.toNat, 7), (k.toNat, 6), (n.toNat, 0)] :: []
  | .mmDRoute p a d e => syl 0x40400000 [(p.toNat, 18), (a.toNat, 16), (d.toNat, 8), (e.toNat, 0)] :: []
  | .mmDSteer p a g d => syl 0x40400040 [(p.toNat, 18), (a.toNat, 16), (g.toNat, 13), (d.toNat, 8)] :: []
  | .mmZ p a => syl 0x40800000 [(p.toNat, 18), (a.toNat, 16)] :: []
  | .mmW p t d k => syl 0x40c00000 [(p.toNat, 18), (t.toNat, 13), (d.toNat, 8), (k.toNat, 6)] :: []
  | .mmAr p a d => syl 0x41000000 [(p.toNat, 18), (a.toNat, 16), (d.toNat, 8)] :: []
  | .mmAw p a d => syl 0x41400000 [(p.toNat, 18), (a.toNat, 16), (d.toNat, 8)] :: []
  | .tdSet p x d w => syl 0x41800000 [(p.toNat, 18), (x.field, 12), (d.toNat, 7), (w.toNat, 3)] :: x.exts
  | .tdGet p x d w => syl 0x41c00000 [(p.toNat, 18), (x.toNat, 12), (d.toNat, 7), (w.toNat, 3)] :: []
  | .tdStep p x d m => syl 0x42000000 [(p.toNat, 18), (x.field, 12), (d.toNat, 7), (m.toNat, 3)] :: x.exts
  | .xpTbl p a g c => syl 0x50000000 [(p.toNat, 18), (a.toNat, 8), (g.toNat, 3), (c.toNat, 0)] :: []
  | .xpExp p d a t h => syl 0x50400000 [(p.toNat, 18), (d.toNat, 13), (a.toNat, 8), (t.toNat, 3), (h.toNat, 0)] :: []
  | .xpCvt p d a q k => syl 0x50800000 [(p.toNat, 18), (d.toNat, 13), (a.toNat, 8), (q.toNat, 3), (k.toNat, 0)] :: []
  | .xpTrn p d a w => syl 0x50c00000 [(p.toNat, 18), (d.toNat, 13), (a.toNat, 8), (w.toNat, 0)] :: []
  | .xpPack p d a h w => syl 0x51000000 [(p.toNat, 18), (d.toNat, 13), (a.toNat, 8), (h.toNat, 3), (w.toNat, 0)] :: []
  | .xpPln p d a n r => syl 0x51400000 [(p.toNat, 18), (d.toNat, 13), (a.toNat, 8), (n.toNat, 3), (r.toNat, 0)] :: []
  | .xpUnp p d a e w => syl 0x51800000 [(p.toNat, 18), (d.toNat, 13), (a.toNat, 8), (e.toNat, 3), (w.toNat, 0)] :: []
  | .firingStart _ => []
  | .parkedFiringRestore _ => []
  | .bundleWaitEnds _ => []
  | .endCompletion _ => []
  | .checkpointWriteDone _ => []
  | .budgetExhausted _ => []
  | .parkComplete _ => []
  | .heldSyllableExecutes _ => []
  | .scalarResultLand _ _ => []
  | .vectorResultLand _ _ => []
  | .xfmResultLand _ _ => []
  | .localLoadLand _ _ => []
  | .localStoreWritten _ _ => []
  | .emitCopyDone _ _ => []
  | .packetArrival _ _ => []
  | .creditMessage _ _ => []
  | .drainAction _ => []
  | .drainSend _ _ => []
  | .clusterLoadLand _ => []
  | .clusterStorePerformed _ => []
  | .multicastLanding _ => []
  | .galleryLoadLand _ => []
  | .galleryStorePerformed _ => []
  | .homePortAtomic _ => []
  | .atomicOldValueLand _ => []
  | .fabricLoadLand _ => []
  | .fabricStorePerformed _ => []
  | .fabricReject _ => []
  | .translationWalkDone _ _ => []
  | .matDispatch _ => []
  | .accumulatorLanded _ _ => []
  | .tileFillDone _ _ => []
  | .mmDrainSend _ _ => []
  | .mmArWriteDone _ _ => []
  | .seqRequestServe _ => []
  | .controlAnswerLand _ => []
  | .mirrorForward _ _ => []
  | .gatherFillDone _ _ => []
  | .farReadBucketRefill _ => []
  | .stageAheadCopyLand _ _ => []
  | .plBlockDecode _ => []
  | .plChunkTagReady _ _ => []
  | .phaserSignalArrival _ _ => []
  | .phaserAdvanceDelivery _ _ => []
  | .barrierArrival _ => []
  | .closingBarrierComplete _ => []
  | .haltWake _ => []
  | .evpopRead _ _ _ => []
  | .slotctlClearEvent _ => []
  | .slotctlKillStage _ => []
  | .slotctlKillFiring _ => []
  | .svfaultRestart _ => []
  | .switchNotice _ _ => []
  | .configDrainComplete _ => []
  | .activationComplete _ => []
  | .sqrmtInstall _ _ => []
  | .sqrmtRemove _ _ => []
  | .ftinvAll _ => []
  | .ftinvPage _ _ => []
  | .codemapMapPage _ _ => []
  | .codemapUnmapPage _ _ => []
  | .registerWrite _ _ _ => []
  | .scrubRead _ _ _ => []
  | .dieReset _ => []
  | .coreReset _ => []
  | .ringFlitArrival _ _ => []
  | .ringFlitReoffer _ _ => []
  | .ringSegmentFailed _ _ _ => []
  | .hlinkPmaskWrite _ _ => []
  | .hostLinkTrained _ => []
  | .hostLinkDown _ => []
  | .cxlIdentify _ => []
  | .getSupportedLogs _ => []
  | .getLog _ _ _ _ => []
  | .getEventRecords _ => []
  | .clearEventRecords _ _ => []
  | .attest _ _ _ => []
  | .getcert _ _ => []
  | .mextend _ _ _ => []
  | .ringSetup _ _ _ => []
  | .ringTeardown _ _ _ => []
  | .orphanRead _ _ _ => []
  | .mgmtRead _ _ _ => []
  | .mgmtWrite _ _ _ _ => []
  | .fwLoadFirmware _ _ => []
  | .fwLoadBootStream _ _ => []
  | .mailboxUnsupported _ _ => []
  | .hostHdmRead _ _ => []
  | .hostHdmWrite _ _ _ _ => []
  | .backInvalidationDone _ _ _ => []
  | .completionWriteCheck _ => []
  | .hostGlobalObservation _ => []
  | .packageReset _ => []
  | .thermalThrottle _ => []
  | .thermalClockRaise _ => []
  | .thermalTrip _ => []
  | .linkEnable _ _ => []
  | .linkTrainLock _ _ => []
  | .linkTrainTimeout _ _ => []
  | .negotiationMessage _ _ _ => []
  | .negotiateTimeout _ _ => []
  | .linkReplayFailure _ _ => []
  | .linkFailedTimer _ _ => []
  | .flitReceive _ _ _ => []
  | .routingFlip _ => []
  | .flipHoldRelease _ _ => []
  | .failureNotice _ _ => []
  | .tokenRequest _ _ _ _ => []
  | .ownershipRecall _ _ _ => []
  | .recallDone _ _ _ => []
  | .tokenGrant _ _ _ _ => []
  | .bootPacket _ _ => []
  | .heartbeat _ _ => []
  | .heartbeatTimeout _ _ => []
  | .freezeAcknowledged _ _ => []
  | .reductionLine _ _ _ _ => []
  | .rebuildComplete _ => []
  | .remapComplete _ => []
  | .replayComplete _ => []
  | .waitaReread _ => []
  | .barrierCompletionDelivery _ => []
  | .hostSnoop _ _ => []
  | .mirrorAcknowledgement _ _ _ => []
  | .bootBlockRequest _ _ _ => []
  | .supervisorFreesEntry _ _ => []

/-- A syllable of classes 0 to 5 with its EXT immediates, before the checks of `Instr.wf`. -/
def decodeFields (w : Nat) (es : List Nat) : Option Instr :=
  match fld w 28 3 with
  | 0 => decodeCtl w es
  | 1 => decodeSca w es
  | 2 => decodeMem w es
  | 3 => decodeVec w es
  | 4 => decodeMat w es
  | 5 => decodeXfm w es
  | _ => none

/-- A syllable with the EXT immediates that follow it: the instruction, or none where the encoding is illegal (R12
conditions 4 to 6). -/
def decodeSyl (w : Nat) (es : List Nat) : Option Instr :=
  let countOk := match extRule w with
    | none => es.isEmpty
    | some (lo, n, least, most) =>
      least ≤ es.length && es.length ≤ most && (es.isEmpty || fld w lo n == 0)
  if countOk then
    match decodeFields w es with
    | some i => if i.wf then some i else none
    | none => none
  else none

/-- The words of an instruction in a bundle: its syllable, then its EXT syllables; `S` is set on the last of them
where `stop` says that the bundle ends here (R10, R12). -/
def encode (stop : Bool) (i : Instr) : List Nat :=
  match i.fieldsOf with
  | [] => []
  | [w] => [w + if stop then 2 ^ 31 else 0]
  | [w, e] => [w, e + 6 * 2 ^ 28 + if stop then 2 ^ 31 else 0]
  | w :: e :: f :: _ => [w, e + 6 * 2 ^ 28, f + 6 * 2 ^ 28 + if stop then 2 ^ 31 else 0]

/-- Why a run of words is no instruction. -/
inductive DecodeError where
  /-- No word is left to decode. -/
  | noWord
  /-- An EXT syllable that extends nothing (R12 condition 4). -/
  | orphanExt
  /-- Class 7 (R11). -/
  | illegalClass
  /-- The bundle ended inside the EXT run that the opcode requires, or the run is too long (R12 condition 5). -/
  | extCount
  /-- A field beside an EXT that is not zero (R27). -/
  | extField
  /-- A reserved opcode, a reserved field that is not zero, or a value that is not admitted (R12 condition 6, R30). -/
  | reserved
  deriving DecidableEq, Repr

/-- The EXT immediates at the head of a run of words, whether `S` ended the bundle within them, and the rest. -/
def takeExts : List Nat → List Nat × Bool × List Nat
  | [] => ([], false, [])
  | w :: ws =>
    if fld w 28 3 == 6 then
      if fld w 31 1 == 1 then ([fld w 0 28], true, ws)
      else
        let r := takeExts ws
        (fld w 0 28 :: r.1, r.2.1, r.2.2)
    else ([], false, w :: ws)

/-- The first instruction of a run of words: the instruction, whether its bundle ends with it, and the words after. -/
def decode : List Nat → Except DecodeError (Instr × Bool × List Nat)
  | [] => .error .noWord
  | w :: ws =>
    let run := if fld w 31 1 == 1 then ([], true, ws) else takeExts ws
    match decodeSyl w run.1 with
    | some i => .ok (i, run.2.1, run.2.2)
    | none =>
      if fld w 28 3 == 6 then .error .orphanExt
      else if fld w 28 3 == 7 then .error .illegalClass
      else match extRule w with
        | none => if run.1.isEmpty then .error .reserved else .error .extCount
        | some (lo, n, least, most) =>
          if run.1.length < least || most < run.1.length then .error .extCount
          else if !run.1.isEmpty && fld w lo n != 0 then .error .extField
          else .error .reserved

/-- A word from its four bytes, the lowest address first (R2). -/
def wordOfBytes (b0 b1 b2 b3 : Byte) : Nat :=
  b0.toNat + b1.toNat * 2 ^ 8 + b2.toNat * 2 ^ 16 + b3.toNat * 2 ^ 24

/-- The four bytes of a word, the lowest address first (R2). -/
def bytesOfWord (w : Nat) : List Byte :=
  [BitVec.ofNat 8 w, BitVec.ofNat 8 (w / 2 ^ 8), BitVec.ofNat 8 (w / 2 ^ 16), BitVec.ofNat 8 (w / 2 ^ 24)]

/-- The words of a run of bytes; bytes that fill no word are left out. -/
def wordsOfBytes : List Byte → List Nat
  | b0 :: b1 :: b2 :: b3 :: bs => wordOfBytes b0 b1 b2 b3 :: wordsOfBytes bs
  | _ => []

/-- Decoding from bytes in memory order. -/
def decodeBytes (bs : List Byte) : Except DecodeError (Instr × Bool × List Nat) := decode (wordsOfBytes bs)

/-- The words of a one-instruction bundle whose first syllable has the bits `w`: the syllable ends its bundle, but for
`BR.T`, which takes two EXT syllables of zeros (log 16). -/
def tableWords (w : Nat) : List Nat :=
  let w31 := w % 2 ^ 31
  if fld w 22 9 % 512 == 4 then [w31, 6 * 2 ^ 28, 6 * 2 ^ 28 + 2 ^ 31] else [w31 + 2 ^ 31]

/-- The instruction the decoder reads from the bits `w` of a row of the opcode table. -/
def decodeTableWord (nbits w : Nat) : Option Instr :=
  if nbits == 0 then none
  else match decodeBytes ((tableWords w).flatMap bytesOfWord) with
    | .ok (i, _, _) => some i
    | .error _ => none

end Sys2Proof
end

