-- ==== Sys2Proof/Config.lean ====
section
/-! DEFINITION. What an implementation fixes, and the values the spec leaves open. A constant without a body is a free
value: nothing constrains it (assumption log 5, 6, 8, 11, 12, 14, 18, 25, 79). -/

namespace Sys2Proof.Config

/-- The rate that a stage declares for an input port, and for an output port: the configuration record of R350 does not
carry it (log 6). -/
opaque inRate (stage : BitVec 24) (port : Nat) : Nat
@[inherit_doc inRate] opaque outRate (stage : BitVec 24) (port : Nat) : Nat

/-- The stage id of a consumer on another die, and the number and size of its buffers: the producer's record does not carry
them (log 8). -/
opaque farStage (stage : BitVec 24) (port : Nat) : BitVec 24
@[inherit_doc farStage] opaque farBufs (stage : BitVec 24) (port : Nat) : Nat
@[inherit_doc farStage] opaque farSize (stage : BitVec 24) (port : Nat) : Nat

/-- Whether the ingress buffer of a ring stop is full when a management or bulk flit is offered (R381, log 18): a free value
for each offer. -/
opaque ringFull (n : Nat) : Bool

/-- `CODE` and `AUX` of the package event of a failed ring segment, which R382 asks for and no table lists (log 79). -/
opaque segmentCode : Nat
@[inherit_doc segmentCode] opaque segmentAux (ring seg : Nat) : Nat

/-- The attestation key that the certificate chain of the package with a serial number certifies, where the chain ends in a
Herrath root (R401, R408, log 12). -/
opaque chainKey (serial : Word) : Option (Nat × Nat)

/-- The measurement values `MEAS0`–`MEAS4` that a package's management expects of a peer (R408, log 12). -/
opaque expectedMeas (pkg : Nat) : List (BitVec 384)

/-- A nonce that a package's management supplies to a peer (R408, log 12): a free value each time. -/
opaque linkNonce (n : Nat) : BitVec 384

/-- The package and the port at the other end of a strait port, as the hall builder wired it (R406, log 12). -/
opaque strait (pkg port : Nat) : Nat × Nat

/-- The serial number of a package, its certificates, its attestation key, and the secret number that each of its signatures
takes (R401, log 11). -/
opaque serial (pkg : Nat) : Word
@[inherit_doc serial] opaque cert (pkg idx : Nat) : List Byte
@[inherit_doc serial] opaque attestKey (pkg : Nat) : Nat
@[inherit_doc serial] opaque signSecret (pkg : Nat) (digest : BitVec 384) : Nat

/-- How the header of a management firmware image lies in its bytes; the four key hashes in a package's fuses, which of them the
fuses revoke, and the minimum security version number; and how a public key is hashed (R399, log 12). -/
opaque imageHead (image : List Byte) : Option ImageHead
@[inherit_doc imageHead] opaque fusedKey (pkg n : Nat) : BitVec 384
@[inherit_doc imageHead] opaque fusedRevoked (pkg n : Nat) : Bool
@[inherit_doc imageHead] opaque fusedSvn (pkg : Nat) : BitVec 32
@[inherit_doc imageHead] opaque keyBytes (key : Nat × Nat) : List Byte

/-- The landing mask in a package's fuses (R386, log 11). -/
opaque landingMask (pkg : Nat) : BitVec 8

/-- How the boot manifest lies in its bytes: whether they are all there, what its signature covers, and what it lists (R430,
log 14). -/
opaque manifestWhole (bytes : List Byte) : Bool
@[inherit_doc manifestWhole] opaque manifestSigned (bytes : List Byte) : Signed
@[inherit_doc manifestWhole] opaque manifestOf (bytes : List Byte) : Manifest

/-- What the bytes of a block hold for the package of a logical number: the images that management verifies and moves (R399, R430,
R441, log 14). -/
opaque bootMoves (lpkg : Nat) (bytes : List Byte) : List BootMove

/-- What CXL itself gives: the outputs of Identify, of Get Supported Logs and of Get Log, and the bytes of an event record
(R388, log 25). -/
opaque cxlIdentify (pkg : Nat) : List Byte
@[inherit_doc cxlIdentify] opaque cxlLogs (pkg : Nat) : List Byte
@[inherit_doc cxlIdentify] opaque cxlLogData (pkg log off len : Nat) : List Byte
@[inherit_doc cxlIdentify] opaque cxlRecord (event : Word) : List Byte

end Sys2Proof.Config
end

