-- ==== Sys2Proof/Machine/State.lean ====
section
/-! DEFINITION. The state of the machine as plain data: every piece of state the spec names, the reasons a step can
stop, and the state after reset. Elements stand in tables keyed by their names; an element that no step has touched is
at reset. -/

namespace Sys2Proof.Machine

/-- Why the machine stops with a fault. -/
inductive Fault where
  /-- Raised by an event whose row names an item (a request, a packet, a link) that the machine does not hold. Safe: the
  hardware has no such event. -/
  | noSuchItem
  deriving DecidableEq, Repr

/-- Why an instruction has no meaning. -/
inductive Refusal where
  /-- Raised by an arm of `exec` whose instruction is not modelled. Safe. -/
  | notModelled (mnemonic : String)
  deriving DecidableEq, Repr

/-- A row of the table without an encoding, as the agenda holds it: the same names and operands as those rows of `Instr`
(log 3). -/
inductive Event where
  | firingStart (c : CoreId)
  | parkedFiringRestore (c : CoreId)
  | bundleWaitEnds (a : Agent)
  | endCompletion (s : SlotId)
  | checkpointWriteDone (s : SlotId)
  | budgetExhausted (s : SlotId)
  | parkComplete (s : SlotId)
  | heldSyllableExecutes (a : Agent)
  | scalarResultLand (a : Agent) (id : Nat)
  | vectorResultLand (a : Agent) (id : Nat)
  | xfmResultLand (a : Agent) (id : Nat)
  | localLoadLand (a : Agent) (id : Nat)
  | localStoreWritten (a : Agent) (id : Nat)
  | emitCopyDone (s : SlotId) (id : Nat)
  | packetArrival (dst : PortId) (pkt : Packet)
  | creditMessage (dst : PortId) (num : BitVec 32)
  | drainAction (s : SlotId)
  | drainSend (s : SlotId) (port : Nat)
  | clusterLoadLand (id : Nat)
  | clusterStorePerformed (id : Nat)
  | multicastLanding (id : Nat)
  | galleryLoadLand (id : Nat)
  | galleryStorePerformed (id : Nat)
  | homePortAtomic (id : Nat)
  | atomicOldValueLand (id : Nat)
  | fabricLoadLand (id : Nat)
  | fabricStorePerformed (id : Nat)
  | fabricReject (id : Nat)
  | translationWalkDone (d : DieId) (vpn : Nat)
  | matDispatch (s : SlotId)
  | accumulatorLanded (c : CoreId) (acc : Nat)
  | tileFillDone (s : SlotId) (tile : Nat)
  | mmDrainSend (s : SlotId) (id : Nat)
  | mmArWriteDone (s : SlotId) (id : Nat)
  | seqRequestServe (d : DieId)
  | controlAnswerLand (a : Agent)
  | mirrorForward (d : DieId) (m : MirrorMsg)
  | gatherFillDone (d : DieId) (id : Nat)
  | farReadBucketRefill (d : DieId)
  | stageAheadCopyLand (d : DieId) (id : Nat)
  | plBlockDecode (d : DieId)
  | plChunkTagReady (d : DieId) (id : Nat)
  | phaserSignalArrival (s : SlotId) (ph : Nat)
  | phaserAdvanceDelivery (s : SlotId) (ph : Nat)
  | barrierArrival (s : SlotId)
  | closingBarrierComplete (c : CluId)
  | haltWake (v : SupId)
  | evpopRead (reader : Option SupId) (v : SupId) (xd : Nat)
  | slotctlClearEvent (s : SlotId)
  | slotctlKillStage (s : SlotId)
  | slotctlKillFiring (s : SlotId)
  | svfaultRestart (v : SupId)
  | switchNotice (d : DieId) (n : Nat)
  | configDrainComplete (d : DieId)
  | activationComplete (d : DieId)
  | sqrmtInstall (d : DieId) (v : BitVec 64)
  | sqrmtRemove (d : DieId) (v : BitVec 64)
  | ftinvAll (d : DieId)
  | ftinvPage (d : DieId) (vpn : Nat)
  | codemapMapPage (c : CoreId) (page : Nat)
  | codemapUnmapPage (c : CoreId) (page : Nat)
  | registerWrite (d : DieId) (addr : Nat) (v : BitVec 64)
  | scrubRead (d : DieId) (core : Option CoreId) (addr : Nat)
  | dieReset (d : DieId)
  | coreReset (c : CoreId)
  | ringFlitArrival (pkg : Nat) (f : RingFlit)
  | ringFlitReoffer (pkg : Nat) (f : RingFlit)
  | ringSegmentFailed (pkg ring seg : Nat)
  | hlinkPmaskWrite (pkg : Nat) (mask : BitVec 8)
  | hostLinkTrained (pkg : Nat)
  | hostLinkDown (pkg : Nat)
  | cxlIdentify (pkg : Nat)
  | getSupportedLogs (pkg : Nat)
  | getLog (pkg log off len : Nat)
  | getEventRecords (pkg : Nat)
  | clearEventRecords (pkg n : Nat)
  | attest (pkg : Nat) (nonce : BitVec 384) (mask : BitVec 16)
  | getcert (pkg idx : Nat)
  | mextend (pkg reg : Nat) (digest : BitVec 384)
  | ringSetup (pkg ring : Nat) (gen : BitVec 32)
  | ringTeardown (pkg ring : Nat) (gen : BitVec 32)
  | orphanRead (pkg first count : Nat)
  | mgmtRead (pkg die addr : Nat)
  | mgmtWrite (pkg die addr : Nat) (v : BitVec 64)
  | fwLoadFirmware (pkg : Nat) (h : FwChunk)
  | fwLoadBootStream (pkg : Nat) (h : FwChunk)
  | mailboxUnsupported (pkg opcode : Nat)
  | hostHdmRead (pkg off : Nat)
  | hostHdmWrite (pkg off : Nat) (data : BitVec 512) (mask : BitVec 64)
  | backInvalidationDone (pkg line : Nat) (dirty : Option (BitVec 512))
  | completionWriteCheck (id : Nat)
  | hostGlobalObservation (id : Nat)
  | packageReset (pkg : Nat)
  | thermalThrottle (d : DieId)
  | thermalClockRaise (d : DieId)
  | thermalTrip (d : DieId)
  | linkEnable (pkg port : Nat)
  | linkTrainLock (pkg port : Nat)
  | linkTrainTimeout (pkg port : Nat)
  | negotiationMessage (pkg port : Nat) (m : NegMsg)
  | negotiateTimeout (pkg port : Nat)
  | linkReplayFailure (pkg port : Nat)
  | linkFailedTimer (pkg port : Nat)
  | flitReceive (pkg port : Nat) (f : BitVec 640)
  | routingFlip (pkg : Nat)
  | flipHoldRelease (pkg port : Nat)
  | failureNotice (pkg : Nat) (n : Notice)
  | tokenRequest (home src : DieId) (page : Nat) (excl : Bool)
  | ownershipRecall (d home : DieId) (page : Nat)
  | recallDone (home src : DieId) (page : Nat)
  | tokenGrant (d home : DieId) (page : Nat) (excl : Bool)
  | bootPacket (pkg : Nat) (pkt : Packet)
  | heartbeat (ctl src : Nat)
  | heartbeatTimeout (ctl src : Nat)
  | freezeAcknowledged (ctl src : Nat)
  | reductionLine (pkg die addr : Nat) (data : BitVec 512)
  | rebuildComplete (ctl : Nat)
  | remapComplete (ctl : Nat)
  | replayComplete (ctl : Nat)
  | waitaReread (a : Agent)
  | barrierCompletionDelivery (s : SlotId)
  | hostSnoop (pkg line : Nat)
  | mirrorAcknowledgement (d : DieId) (id : Nat) (ok : Bool)
  | bootBlockRequest (pkg child block : Nat)
  | supervisorFreesEntry (d : DieId) (h : Nat)
  deriving DecidableEq, Repr

/-- A register write that a result makes when it lands. Vector registers are physical (R81). -/
inductive RegWrite where
  | x (d : BitVec 6) (w : Word)
  | p (d : BitVec 4) (b : Bool)
  | v (d : BitVec 5) (w : Vec)
  deriving DecidableEq, Repr

/-- The unit a result in flight comes from: the CTL class, the groups of R135 that are one at a time, the answers
of MEM syllables that are no loads, and the rest. -/
inductive Src where
  | control
  | scalar
  | divide
  | fdivide
  | vector
  | answer
  | load
  | matrix
  deriving DecidableEq, Repr

/-- Where the value of a load or an atomic goes: nowhere, a scalar register with its extension to 64 bits (the size in
bytes, signed or not), or a physical vector register. -/
inductive Dest where
  | none
  | x (d : BitVec 6) (size : Nat) (signed : Bool)
  | v (d : BitVec 5)
  deriving DecidableEq, Repr

/-- A bank access that a load or an atomic of the core's memory port has still to make, since its banks were served to others
when it issued (R173): its bytes, where its value goes, the latency from the access, and an atomic's operation and operand. -/
structure PortAccess where
  addr : Nat
  len : Nat
  dest : Dest
  lat : Nat
  amo : Option (BitVec 4 × Word)
  deriving DecidableEq, Repr

/-- A scalar, vector or local load result in flight (R135, R158, R178); `access` is there while its bank access is to be made. -/
structure Flight where
  id : Nat
  due : Nat
  src : Src
  writes : List RegWrite
  flags : BitVec 6
  access : Option PortAccess
  deriving DecidableEq, Repr

/-- Where an XFM result goes: a physical vector register, or a group of a decode bank with its commit bit (R206, R225). -/
inductive XfmTarget where
  | v (d : BitVec 5)
  | bank (b : Bool) (g : BitVec 2) (commit : Bool)
  deriving DecidableEq, Repr

/-- An XFM result in flight: the issue cycles left until it is visible (R204, R206). -/
structure XfmRes where
  id : Nat
  rem : Nat
  target : XfmTarget
  value : Vec
  flags : BitVec 6
  deriving DecidableEq, Repr

/-- What a syllable in a class queue took with it at issue: the syllable, the rotating base (R81), the generator's key and
counter and the rounding for its draws (R116, R200), a scalar operand, and the issue number of its bundle (R85). -/
structure Held where
  id : Nat
  instr : Instr
  word : BitVec 32
  /-- Its EXT syllables. -/
  exts : List (BitVec 32)
  vrb : BitVec 4
  seed : Word
  ctr : Word
  cvrnd : BitVec 2
  xval : Word
  /-- Bundles issued before its own. -/
  bundle : Nat
  bank : Bool
  /-- The tags, not ready when it issued, that it waits for, and whether one of them is an engine's: its execution is then an
  acquire (R288). -/
  tags : List Nat
  acquire : Bool := false
  /-- The tile's format tag and the accumulator's type tag as they stood when it issued (R184). -/
  tileTag : BitVec 8
  accTag : BitVec 8
  /-- The scalar and physical vector registers that it read at issue: those that no tag and no earlier held syllable keeps from it
  (R7, R85). -/
  xs : List (BitVec 6 × Word) := []
  vs : List (BitVec 5 × Vec) := []
  deriving DecidableEq, Repr

/-- A failed engine response attached to a tag: the value its trap reports (R321). -/
structure TagFail where
  tag : Nat
  value : Word
  deriving DecidableEq, Repr

/-- The tag file (R83, R84). -/
structure Tags where
  ready : BitVec 16
  bound : BitVec 8
  vreg : Vector (BitVec 5) 8
  fail : List TagFail
  /-- Registers an engine fill wrote while the firing was suspended (R228). -/
  filled : List (BitVec 5)
  deriving DecidableEq, Repr

/-- One cell of the island (R146). -/
structure Cell where
  truth : BitVec 16
  sel : Vector (BitVec 8) 4
  deriving DecidableEq, Repr

/-- The loop, generator, flag and mode registers (R80, R92–R95, R53). -/
structure CtlRegs where
  lc : Word
  ec : BitVec 6
  vrb : BitVec 4
  seed : Word
  ctrbase : Word
  fstat : BitVec 6
  tlate : BitVec 16
  lm : Bool
  rnd : BitVec 32
  mf : Bool
  eosf : Bool
  cvrnd : BitVec 2
  det : Bool
  deriving DecidableEq, Repr

/-- A control request that a bundle has sent and waits for (R307), and its answer. -/
structure CtlReq where
  answer : Option Word
  trap : Option (Nat × Word)
  landed : Bool
  /-- The token that an `OWN.ACQ` asks for: its home, its page, and whether exclusive (R426). -/
  token : Option (DieId × Nat × Bool)
  /-- The address of an `OWN.ACQ` (R422). -/
  virt : Nat := 0
  deriving DecidableEq, Repr

/-- A wait that a phaser or barrier instruction began: the cycle its bundle first reached issue, and what it sent. -/
structure SyncWait where
  word : BitVec 32
  since : Nat
  notified : Option Nat
  /-- The word that a `WAITA` read last, and the cause that its read met (R297). -/
  value : Option Word := none
  fail : Option (Nat × Word) := none
  deriving DecidableEq, Repr

/-- The register context of a slot or of a supervisor core (R77, R341). -/
structure Ctx where
  x : Vector Word 64
  v : Vector Vec 32
  p : BitVec 16
  td : Vector (Vector Word 8) 32
  rte : Vector (BitVec 8) 16
  rs : List (BitVec 17)
  cr : CtlRegs
  tags : Tags
  island : Vector Cell 128
  /-- The address of the next bundle, exact (R120). -/
  pc : Int
  stageId : BitVec 24
  firing : BitVec 32
  budget : BitVec 24
  /-- The decode banks: entry `e` of slot `t` of bank `b` is bits [16(16t+e)+15 : 16(16t+e)] (R207). -/
  bank0 : BitVec 4096
  bank1 : BitVec 4096
  cur : Bool
  refs0 : Nat
  refs1 : Nat
  flights : List Flight
  xfm : List XfmRes
  /-- Vector registers that a result landed in during the current cycle, with the result's identity and the cycle (R205). -/
  vlanded : List (BitVec 5 × Nat × Nat)
  vecq : List Held
  /-- The first cycle in which the next held VEC syllable may execute. -/
  vecFree : Nat
  matq : List Held
  /-- The first cycle in which the next head of the MAT queue may dispatch (R190). -/
  matFree : Nat := 0
  /-- Bundles issued since the firing began, for the lead count (R85, R221). -/
  issued : Nat
  /-- A tag that a table load already counted in `TLATE` (R208). -/
  late : Bool
  /-- Tags that the bundle at `pc` has waited on and not yet consumed (R84, R321). -/
  waited : List Nat
  req : Option CtlReq
  sync : Option SyncWait
  /-- The first cycle in which the next bundle may issue (R119, R17, R45). -/
  notBefore : Nat
  /-- The bundle waits under R65. -/
  holding : Bool
  /-- Causes met after issue, to be raised at the next bundle boundary (R218). -/
  after : List (Nat × Word)
  /-- The firing issued a syllable that reads or fills a tile or accumulator (R224 `MU`). -/
  mu : Bool
  /-- The page whose translation the bundle in issue walks for, and whether the walk is done (R363). -/
  walk : Option (Nat × Bool)
  /-- Words of the register files with a single-bit error (R366): 0 to 63 the scalar registers, 64 + 16r + w doubleword w of the
  physical vector register r, 576 the predicates, 577 + 8d + w word w of the tensor descriptor d, 833 and 834 the halves of the route
  table, 835 the ready tags, 836 + k level k of the return store. -/
  regOnce : List Nat := []
  deriving DecidableEq, Repr

/-- A tile register: its bytes, its scale row and its format tag (R82, R184). The tag is the format code plus one, and
zero where the tile reads as zero. -/
structure Tile where
  bytes : BitVec 32768
  scale : BitVec 2048
  fmt : BitVec 8
  deriving DecidableEq, Repr

/-- An accumulator: its elements and its type tag: zero, or the format code of FP64, FP32 or INT32 plus one (R82, R184). -/
structure Acc where
  bytes : BitVec 32768
  type : BitVec 8
  deriving DecidableEq, Repr

/-- Slot states (R64). -/
inductive SlotState where
  | empty
  | loaded
  | active
  | drained
  | faulted
  deriving DecidableEq, Repr

/-- Firing states (R65). -/
inductive FiringState where
  | none
  | ready
  | running
  | waiting
  | trapped
  | parked
  | done
  deriving DecidableEq, Repr

/-- Stage events (R67, R267). -/
inductive StageEvent where
  | wrongPacket
  | sequenceGap
  | length
  | markerMismatch
  | mergeOverflow
  deriving DecidableEq, Repr

/-- A packet in a ring: where it stands, the fields a port reads, the channel it came on, and whether `TAKE` took it. -/
structure Buf where
  kind : BitVec 4
  round : BitVec 32
  seq : BitVec 32
  src : BitVec 24
  sport : BitVec 3
  chan : Nat
  addr : Nat
  word0 : Word
  taken : Bool
  /-- The other channels' markers that a merged marker stands for, and the cycle in which the packet arrived (R265). -/
  also : List (Nat × BitVec 32)
  at_ : Nat
  deriving DecidableEq, Repr

/-- A channel into an input port: its producer, the sequence number expected, the next buffer, and the packets counted
under R48 and R68. -/
structure Chan where
  src : SlotId
  port : Nat
  expected : BitVec 32
  next : Nat
  bad : Nat
  dup : Nat
  /-- The last sequence number whose buffer was freed (R50). -/
  freed : Option (BitVec 32)
  deriving DecidableEq, Repr

/-- An input port (R40, R49, R264). `ring` is the committed order; `held` what a merge port has not committed. -/
structure InPort where
  rate : Nat
  bufs : Nat
  size : Nat
  base : Nat
  merge : Bool
  chans : List Chan
  ring : List Buf
  held : List Buf
  deriving DecidableEq, Repr

/-- An output port (R40, R41, R50). -/
structure OutPort where
  rate : Nat
  dst : SlotId
  dport : Nat
  chan : Nat
  dstStage : BitVec 24
  bufs : Nat
  size : Nat
  credits : Nat
  nextSeq : BitVec 32
  retained : List Packet
  credited : Option (BitVec 32)
  /-- A ROUND marker, an EOS marker, was sent by `MARK` in this firing (R57). -/
  sentRound : Bool
  sentEos : Bool
  drainSent : Bool
  /-- The cycle in which the last packet sent arrives: packets of one channel arrive in order (R413). -/
  lastArr : Nat
  /-- The packages that the ways of the retained packets left or passed as they were sent (R437). -/
  via : List Nat := []
  deriving DecidableEq, Repr

/-- What a trap of a firing records (R96, R220, R224). -/
structure TrapRec where
  cause : Nat
  value : Word
  addr : Nat
  waiting : Bool
  oow : Bool
  parked : Bool
  lead : Nat
  /-- A parked firing may be chosen: it was not waiting, or the condition of its bundle holds (R227). -/
  resumable : Bool
  deriving DecidableEq, Repr

/-- How far the `END` of a firing has come (R76). -/
structure EndRec where
  began : Nat
  markersSent : Bool
  /-- The firing was killed (R62). -/
  kill : Bool
  deriving DecidableEq, Repr

/-- A packet whose copy or drain has not finished (R72, R200): a copy reads its bytes from `addr` on, 128 in each cycle from
`start` on in which it has its banks; `left` are the cycles of reading that are left, and it is done in the cycle `due` (R173). -/
structure Emission where
  id : Nat
  port : Nat
  pkt : Packet
  addr : Nat := 0
  start : Nat := 0
  left : Nat := 0
  due : Nat := 0
  /-- A copy, or a marker that leaves behind one (R73). -/
  copy : Bool
  deriving DecidableEq, Repr

/-- A matrix drain under way (R200, R201). -/
structure Drain where
  id : Nat
  acc : Nat
  port : Option Nat
  pkt : Packet
  store : List (Nat × List Byte)
  flags : BitVec 6
  readDone : Nat
  /-- The identity of its syllable (R85). -/
  held : Nat := 0
  deriving DecidableEq, Repr

/-- A dispatched `MM`, `MM.AW` or `MM.W` that has not finished (R190, R197): the accumulator that lands or the tile that
fills, when, the flags and `LM` it sets then, and the decode bank it refers to (R207). -/
structure MatRun where
  id : Nat
  slot : SlotId
  acc : Option Nat
  tile : Option Nat
  due : Nat
  flags : BitVec 6
  lm : Bool
  bank : Option Bool
  deriving DecidableEq, Repr

/-- Carry masks of a stage (R42). -/
structure Carry where
  x : BitVec 64
  v : BitVec 32
  p : BitVec 16
  t : BitVec 8
  acc : BitVec 4
  deriving DecidableEq, Repr

/-- A checkpoint being written on the spare, and the credit messages that wait for it (R433). -/
structure CkptOut where
  spare : Nat
  addr : Nat
  image : List Byte
  credits : List (Chan × BitVec 32)
  deriving DecidableEq, Repr

/-- A stage slot (R39, R40, R43, R64, R65). -/
structure Slot where
  sst : SlotState
  fst : FiringState
  stamp : Nat
  cfgNum : BitVec 16
  det : Bool
  prio : Nat
  budget : BitVec 24
  entry : Nat
  stateClass : Nat
  carry : Carry
  carried : Vector Word 64 × Vector Vec 32 × BitVec 16
  saveBase : Nat
  ins : Tbl Nat InPort
  outs : Tbl Nat OutPort
  trap : Option TrapRec
  ending : Option EndRec
  emissions : List Emission
  drains : List Drain
  events : List StageEvent
  /-- Checkpoints being written, the oldest first (R433). -/
  ckpts : List CkptOut
  /-- `TAKE`, `EMIT`, `MARK` of this firing sent a ROUND marker (R56). -/
  sentRound : Bool
  /-- The drain of R54 has begun. -/
  draining : Bool
  /-- The drain token of the configuration sequencer has reached a source (R54, R354). -/
  drainToken : Bool
  /-- Commands of `SLOTCTL` that wait, in the order in which they were given (R66, R345). -/
  commands : List Nat
  /-- The address to resume at of a trapped firing whose context has still to be captured (R219). -/
  capture : Option Nat
  parkPending : Bool
  killed : Bool
  /-- The barrier generation at which the stage next arrives, and whether it waits for one at which it arrived (R259). -/
  barrierGen : BitVec 32
  barrierWait : Bool
  deriving DecidableEq, Repr

/-- A local store on its way to the banks, and the cycle in which it first wants them (R178). -/
structure LocalStore where
  id : Nat
  by_ : Agent
  due : Nat
  addr : Nat
  data : List Byte
  setFull : Bool
  deriving DecidableEq, Repr

/-- The bank accesses that the matrix unit has still to make (R173, R191): for which path (0 the MAC array, 1 the weight path, 2 the
drain path), for which run or drain, from which cycle on, the banks of each step, and for an `MM.AR` how many of its elements each
step writes. -/
structure MatSteps where
  id : Nat
  path : Nat
  start : Nat
  banks : List (List Nat)
  writes : List Nat := []
  deriving DecidableEq, Repr

/-- A core's own state (R172–R174, R190, R231, R234). -/
structure Core where
  mem : List Host.Cell
  emptyBits : List Nat
  window : List Host.Cell
  mapped : BitVec 32
  backing : Tbl Nat (BitVec 16)
  tiles : Vector Tile 8
  accs : Vector Acc 4
  macFree : Nat
  weightFree : Nat
  drainFree : Nat
  accLanded : Vector Nat 4
  /-- The cycle from which an accumulator's contents are an `MM.AW`'s (R190), and until when a drain reads it. -/
  accLoaded : Vector Nat 4
  accRead : Vector Nat 4
  matReads : Nat
  /-- The tile that the `MM` in the MAC array reads (R197). -/
  macTile : Nat
  mats : List MatRun
  matSteps : List MatSteps
  running : Option Nat
  /-- The first cycle in which the local path of the memory port is free of `EMIT` copies (R72). -/
  portFree : Nat
  reach : BitVec 96
  stores : List LocalStore
  bad : List Nat
  badOnce : List Nat
  /-- Words of the code window, and of the matrix registers, with an uncorrectable and with a single-bit error (R366, R367). -/
  windowBad : List Nat
  windowOnce : List Nat
  matBad : List Nat
  matOnce : List Nat
  deriving DecidableEq, Repr

/-- The arbitration of the banks of a scratchpad, a core's or a supervisor core's (R173): the banks served in `cycle` to multicast landings, to any agent other than
the core's memory port, and to that port; for each bank since when it has been served in every cycle, and when last (R370); and the incoming accesses that wait for a bank, the oldest first, with the cycle in which each first wanted
it. -/
structure Arb where
  cycle : Nat
  landed : List Nat
  taken : List Nat
  ported : List Nat
  runs : Tbl Nat (Nat × Nat)
  waits : List (Event × Nat)
  deriving DecidableEq, Repr

/-- A multicast window (R239). -/
structure Window where
  w0 : Word
  w1 : Word
  w2 : Word
  deriving DecidableEq, Repr

/-- A phaser (R243). -/
structure Phaser where
  valid : Bool
  failed : Bool
  phase : BitVec 32
  npend : BitVec 10
  arrn : BitVec 10
  arr : BitVec 10
  nsig : BitVec 10
  deriving DecidableEq, Repr

/-- A member entry (R244); `mst` holds the state codes of R250. -/
structure Member where
  wph : BitVec 32
  sph : BitVec 32
  phn : BitVec 4
  mode : BitVec 2
  mst : BitVec 3
  rsv : Bool
  core : BitVec 7
  slot : BitVec 4
  deriving DecidableEq, Repr

/-- A multicast landing that is scheduled (R242). -/
structure Landing where
  id : Nat
  sender : SlotId
  window : Nat
  cycle : Nat
  targets : List Nat
  addr : Nat
  data : List Byte
  deriving DecidableEq, Repr

/-- A signal or an arrival on its way to the synchronisation engine (R246, R255, R259): it waits for the stores
issued before it, whose highest request number it holds. -/
structure Signal where
  slot : SlotId
  ph : Option Nat
  upto : Nat
  deriving DecidableEq, Repr

/-- A cluster (R239–R261). -/
structure Cluster where
  windows : Vector Window 16
  phasers : Vector Phaser 16
  members : Tbl Nat Member
  landings : List Landing
  signals : List Signal
  barrierG : BitVec 32
  /-- Participants that have arrived at `barrierG`. -/
  arrived : List SlotId
  stopped : Bool
  windowsBad : List Nat
  /-- Uncorrectable errors that the engine has not met yet (R268): phasers with one in their state or member entries, the
  barrier, and windows. -/
  phaserErr : List Nat
  barrierErr : Bool
  windowErr : List Nat
  /-- Words of the engine's state with a single-bit error (R366). -/
  engineOnce : Nat
  active : Bool
  deriving DecidableEq, Repr

/-- Where a location is homed (R283): a core's scratchpad, a die's gallery, its control space, the memory of a landing's
host. -/
inductive Home where
  | core (c : CoreId)
  | die (d : DieId)
  | ctrl (d : DieId)
  /-- The landing's package and its host-window page (R393). -/
  | host (pkg win : Nat)
  deriving DecidableEq, Repr

/-- Where an access goes: the home, the address there, and the length in bytes. -/
structure Piece where
  home : Home
  addr : Nat
  len : Nat
  deriving DecidableEq, Repr

/-- What a memory request does at its home. -/
inductive ReqOp where
  | load
  | store (data : List Byte)
  | amo (op : BitVec 4) (operand : Word)
  | cas (old new : Word)
  deriving DecidableEq, Repr

/-- An outstanding access to cluster, gallery, fabric or control space (R283, R285). -/
structure MemReq where
  id : Nat
  own : Agent
  /-- The firing that issued it, and the address as computed (R422). -/
  firing : BitVec 32
  virt : Nat
  space : Nat
  place : Piece
  op : ReqOp
  dest : Dest
  scope : Nat
  performed : Bool
  value : List Byte
  flags : BitVec 6
  /-- The machine check or rejection that the access met, as (cause, value). -/
  failed : Option (Nat × Word)
  deriving DecidableEq, Repr

/-- How the syllable in issue came out: it acts, it waits for a register or a queue, it waits for a register that its guard or its
cause reads, it waits under R65, it trapped under the check of the given rank of R218. -/
inductive IssStat where
  | ok
  | stall
  | unjudged
  | waits
  | trapped (rank : Nat)
  deriving DecidableEq, Repr

/-- The bundle in issue: its address and length, the syllable in hand and its position, the identity counter before it,
where issue goes on, the tags that its syllables have taken, and how the syllable came out. -/
structure Issue where
  start : Int
  len : Nat
  word : BitVec 32
  exts : List (BitVec 32)
  pos : Nat
  mark : Nat
  next : Int
  taken : Nat
  took : List Nat := []
  stat : IssStat
  deriving DecidableEq, Repr

/-- An entry of the agenda: the cycle it is due, its place among the events of the cycle, and the event. -/
structure Due where
  cycle : Nat
  pri : Nat
  ev : Event
  deriving DecidableEq, Repr

/-- A sequence entry (R299): state 0 FREE, 1 OPEN, 2 REMOTE, 3 FAILED; slot size, `KV`, `RES`, `C`, the committed slots
beyond C, the block table, its table pages, the home of a REMOTE entry, and the slot whose stage created it (R433). -/
structure SeqEntry where
  st : Nat
  size : Nat
  kv : Bool
  res : Nat
  c : Nat
  marks : List Nat
  table : List Nat
  pages : List Nat
  home : Option (DieId × Nat)
  owner : Option SlotId
  /-- The entry or its commit marks have an uncorrectable error that the engine has not met yet (R326). -/
  bad : Bool
  /-- The identity of the sequence that the entry holds: that of the request which made it (the model's own; log 94). -/
  gen : Nat := 0
  deriving DecidableEq, Repr

/-- What an engine request asks (R306, R336), with the operands read at issue. -/
inductive EngOp where
  | new (a : Word)
  | res (h n : Word)
  | com (f h n : Word)
  | len (h q : Word)
  | fork (h : Word)
  | drop (h : Word)
  | pre (r h b : Word)
  | query (a : Word)
  | gathV (desc : Vector Word 8) (v : BitVec 5) (tag : BitVec 4)
  | gathT (desc : Vector Word 8) (tile : BitVec 3)
  | sqGath (desc : Vector Word 8) (tile : BitVec 3) (mode : BitVec 2) (b : Word)
  | rsp (q : Word) (v : BitVec 5) (tag : BitVec 4)
  deriving DecidableEq, Repr

/-- A request on its way to an engine or in its queue (R292): the request number up to which the firing's gallery stores
must be performed, and when it was sent. -/
structure EngReq where
  id : Nat
  own : Agent
  op : EngOp
  upto : Nat
  sent : Option Nat
  /-- The firing that asked still takes the answer (R62). -/
  live : Bool
  deriving DecidableEq, Repr

/-- A fill that an engine makes: its request, its tag, where it goes, its bytes, and the failure it carries (R321). -/
structure Fill where
  id : Nat
  own : Agent
  tag : BitVec 4
  vreg : Option (BitVec 5)
  tile : Option (BitVec 3)
  data : List Byte
  fail : Option Word
  /-- The query context whose own `LAST` chunk this is (R334). -/
  last : Option Nat
  landed : Bool
  deriving DecidableEq, Repr

/-- A response of the posting engine that is still to be given, in the order of its firing's requests (R292): a chunk (R338), the
rejection of a bad id, or the answer of a `PL.REQ` with the cycle from which it can land. -/
structure ChunkReq where
  id : Nat
  own : Agent
  ctx : Nat
  chunk : Nat
  v : BitVec 5
  tag : BitVec 4
  rejected : Bool
  reply : Option (Word × Nat)
  deriving DecidableEq, Repr

/-- A cursor into a posting list (R330): the next block, and the postings of the present one that are left, the document and
the term frequency of each. -/
structure Cursor where
  next : Nat
  posts : List (Nat × Nat)
  deriving DecidableEq, Repr

/-- A query context (R334): the words of its descriptor and term table, the committed lengths read at acceptance, a cursor
for each list, the document that an intersection moves to, the results (document and score), whether a vector score was
missing, the failure (status, block, handle), when the query ended, and how many chunks have been requested. -/
structure Query where
  gen : BitVec 24
  owner : Option SlotId
  desc : List Word
  terms : List Word
  lens : List Nat
  scoreLen : Nat
  cursors : List Cursor
  target : Option Nat
  results : List (Nat × Nat)
  vmiss : Bool
  fail : Option (Nat × Nat × Nat)
  ended : Option Nat
  requested : Nat
  deriving DecidableEq, Repr

/-- A stage-ahead copy (R325). -/
structure AheadCopy where
  id : Nat
  slot : SlotId
  handle : Nat
  block : Nat
  frame : Nat
  deadline : BitVec 32
  landed : Bool
  /-- The identity of the sequence that the block belongs to (log 94). -/
  gen : Nat := 0
  deriving DecidableEq, Repr

/-- An ownership token that a die holds (R424): the home, the page, exclusive or shared, and whether it is being given up. -/
structure Token where
  home : DieId
  page : Nat
  excl : Bool
  recalled : Bool
  deriving DecidableEq, Repr

/-- The directory's record of an own page (R425): its holders and the requests that wait. -/
structure DirEntry where
  page : Nat
  shared : List DieId
  excl : Option DieId
  recalling : List DieId
  waiting : List (DieId × Bool)
  deriving DecidableEq, Repr

/-- A mirror message sent and not yet acknowledged (R433). -/
structure MirrorOut where
  id : Nat
  own : Agent
  deriving DecidableEq, Repr

/-- A shadow entry that a mirror's die keeps: its home and handle there, and its entry, with frames and table pages in the
mirror area (R432, R433). -/
structure Shadow where
  home : DieId
  handle : Nat
  entry : SeqEntry
  deriving DecidableEq, Repr

/-- What the sequencer does (R353). -/
inductive SeqState where
  | idle
  | loading
  | running
  | draining
  | activating
  deriving DecidableEq, Repr

/-- A configuration record (R350): the header's fields, and the items of its sections as (section type, fields). -/
structure CfgRec where
  cfgn : BitVec 16
  det : Bool
  auto : Bool
  gwin : Word
  sqpool : Word
  ftroot : Word
  expdig : Word
  sqtpool : Word
  items : List (Nat × List Nat)
  deriving DecidableEq, Repr

/-- No record. -/
def CfgRec.none : CfgRec :=
  { cfgn := 0, det := false, auto := false, gwin := 0, sqpool := 0, ftroot := 0, expdig := 0, sqtpool := 0, items := [] }

/-- A die (R273–R371). -/
structure Die where
  gallery : List Host.Cell
  bad : List Nat
  badOnce : List Nat
  gwin : Word
  sqpool : Word
  sqtpool : Word
  farrate : Word
  sqlate : Word
  seqs : Tbl Nat SeqEntry
  /-- The frames in use: their lengths, and how many block tables or copies list them (R300, R325). -/
  frames : Tbl Nat (Nat × Nat)
  blockMap : List (Nat × Nat)
  ahead : List AheadCopy
  /-- Frames marked for scrubbing, with their lengths (R326). -/
  scrubMarks : List (Nat × Nat)
  bucket : Nat
  bucketStamp : Nat
  engine : List EngReq
  engineFree : Nat
  fills : List Fill
  queries : Vector Query 8
  chunkReqs : List ChunkReq
  plTurn : Nat
  plFree : Nat
  sqrmt : Word
  ftroot : Word
  ftinv : Word
  ftmiss : Word
  tlb : Tbl Nat (Nat × Word)
  walks : List Nat
  cfgstair : Word
  actn : BitVec 16
  ldn : BitVec 16
  actv : Bool
  ldv : Bool
  seqState : SeqState
  /-- The load under way (R353): the number expected, none for any; whether this die starts the switch; and the cycle in which
  it began. -/
  loading : Option (Option Nat × Bool × Nat)
  /-- A sink has completed and the sequencer has not yet looked at `AUTO` (R354). -/
  sinkPending : Bool
  status : BitVec 8
  loadedRec : CfgRec
  activeRec : CfgRec
  digest : Word
  counted : List (Home × Nat)
  dign : Word
  digh : Vector Word 4
  ecccnt : Word
  scrub : Word
  /-- The next line of each gallery bank and granule of each scratchpad bank that the scrubber reads, and when it read the
  ones before (R370). -/
  scrubG : Nat × Nat
  scrubL : Nat × Nat
  codeStore : List Host.Cell
  /-- Pages of the code store with an uncorrectable error, and words with a single-bit error; handles whose entry or commit marks have
  a single-bit error (R366). -/
  codeBad : List Nat
  codeOnce : List Nat
  seqOnce : List Nat
  tokens : List Token
  directory : List DirEntry
  cachedLines : List (DieId × Nat)
  clockMHz : Nat
  mirrorOut : List MirrorOut
  shadows : List Shadow
  /-- Forwarded requests that wait at this mirror for the host's copies, the oldest first (R392, R433). -/
  mirrorIn : List MirrorMsg := []
  deriving DecidableEq, Repr

/-- A trap in a supervisor core's queue (R217). -/
structure TrapEntry where
  slot : SlotId
  deriving DecidableEq, Repr

/-- A supervisor core (R341, R342, R346, R348). -/
structure Sup where
  mem : List Host.Cell
  emptyBits : List Nat
  window : List Host.Cell
  /-- Words of the code window with an uncorrectable and with a single-bit error (R366, R367). -/
  windowBad : List Nat
  windowOnce : List Nat
  trapc : BitVec 8
  trapa : BitVec 17
  trapv : Word
  savebase : Word
  slotstate : Word
  codemap : BitVec 32
  held : Option SlotId
  traps : List SlotId
  events : List Word
  act : BitVec 2
  stop : Bool
  faultCause : BitVec 8
  faultPc : BitVec 17
  halted : Bool
  serves : List Nat
  stores : List LocalStore
  bad : List Nat
  badOnce : List Nat
  deriving DecidableEq, Repr

/-- Port states (R407). -/
inductive PortState where
  | down
  | train
  | negotiate
  | up
  | failed
  | quarantined
  deriving DecidableEq, Repr

/-- A buffer of an input port that a flit takes up (R410): of the shared pool, or of the reserve of its class and hop index. -/
structure InBuf where
  port : Nat
  pool : Bool
  cls : Nat
  vc : Nat
  deriving DecidableEq, Repr

/-- A flit that waits for an output, and the buffer that it takes up until it leaves. -/
structure QFlit where
  flit : BitVec 640
  input : Option InBuf
  deriving DecidableEq, Repr

/-- A fabric port of a package (R407–R412). -/
structure Port where
  state : PortState
  en : Bool
  /-- The port is set to host mode, and it has trained in host mode (R386, R412). -/
  hostMode : Bool
  host : Bool
  /-- The peer's position, logical number and port. -/
  peer : Nat
  peerNo : Nat
  pport : Nat
  crcerr : Nat
  trainFails : Nat
  since : Nat
  expectSeq : BitVec 12
  sendSeq : BitVec 12
  ackSeq : BitVec 12
  askReplay : Bool
  /-- The nonce that the package supplied to the peer (R408). -/
  nonce : BitVec 384
  /-- The peer has asked for the replay buffer (R410). -/
  again : Bool
  /-- Buffers of the peer's input that are taken: of the shared pool, and of each virtual channel's reserve, by class and hop
  index (R410). -/
  poolUsed : Nat
  rsvUsed : Tbl (Nat × Nat) Nat
  /-- The link slot in which a class 0 flit last left, and for each class how many flits of higher classes have left in a row
  while it waited (R411). -/
  last0 : Option Nat
  starve : Tbl Nat Nat
  /-- Flits sent and not acknowledged, the oldest first (R410). -/
  replay : List (BitVec 640)
  /-- Flits of the output queue that wait for the port (R411). -/
  outq : List QFlit
  /-- Flits held by a flip, a link's failure or a freeze (R417, R418, R436). -/
  held : List QFlit
  deriving DecidableEq, Repr

/-- A firmware transfer (R389). -/
structure FwTransfer where
  tgt : Nat
  cseq : Nat
  total : Nat
  accepted : Nat
  data : List Byte
  /-- The manifest of this boot stream has been verified (R389). -/
  opened : Bool := false
  deriving DecidableEq, Repr

/-- What a package knows of the boot (R430, R431): the manifest's packets until it is whole, the manifest, the blocks that it
has kept, the packets of blocks that are not whole yet, the packets that a landing keeps for its children, how often each
block was asked for, and whether boot is complete. -/
structure Boot where
  raw : List Packet
  manifest : Option Manifest
  /-- The packets so far of a manifest that comes while one is held (R389). -/
  fresh : List Packet
  kept : List Nat
  parts : Tbl Nat (List Packet)
  sent : Tbl Nat (List Packet)
  asked : Tbl Nat Nat
  /-- The bytes of the weight image that were placed, or taken into the parity: die, address (log 40) and length (R431). -/
  extents : List (Nat × Nat × Nat)
  /-- What a spare keeps of its hall's active packages, by logical number: the images of the blocks for them (R430, R436). -/
  hallMoves : Tbl Nat (List BootMove)
  /-- The stair records of other packages in the blocks that this package keeps, by logical number and die, at their gallery
  addresses (log 8). -/
  stairs : Tbl (Nat × Nat) (List Host.Cell)
  /-- The images of the supervisor cores (R341): die, core, first page of the code store, and length. -/
  supImages : List (Nat × Nat × Nat × Nat)
  done : Bool
  deriving DecidableEq, Repr

/-- A CXL.cache write of the landing (R387, R393): the store that it is part of, its address and bytes, and whether the store was
checked as a completion write (R397). A write of a whole line is an `ItoMWr`, any other a `WrCur`. -/
structure CacheWrite where
  id : Nat
  addr : Nat
  data : List Byte
  completion : Bool
  deriving DecidableEq, Repr

/-- A host access to HDM on its way over the rings (R379, R391): its offset and die, the data and the mask of a write, and the cycle in
which it arrives. -/
structure HostOp where
  off : Nat
  die : Nat
  write : Option (BitVec 512 × BitVec 64)
  due : Nat
  deriving DecidableEq, Repr

/-- A completion write that has been checked and is to be diverted (R397): the store, its ring, the reason, its address and its data. -/
structure Divert where
  id : Nat
  ring : Nat
  reason : Nat
  addr : Nat
  data : List Byte
  deriving DecidableEq, Repr

/-- The migration states of R434. -/
inductive MigState where
  | normal
  | detected
  | freeze
  | rebuild
  | remap
  | replay
  | resumed
  | lost
  deriving DecidableEq, Repr

/-- The migration controller of a hall (R434–R437): its state, the position that it moves, the packages whose
acknowledgement it waits for, when each package's last heartbeat came, and the reduction lines that it has still to take. Also what
it knows of each die from its package's heartbeats, the number and the stair base of its active configuration, and the slots whose
checkpoint overflowed, with their configuration (R433; log 56). -/
structure Migration where
  state : MigState
  failedPkg : Nat
  waits : List Nat
  lastBeat : Tbl Nat Nat
  lines : Nat
  confs : Tbl DieId (BitVec 16 × Word) := []
  overflow : List (SlotId × BitVec 16) := []
  deriving DecidableEq, Repr

/-- A package (R378–R437). -/
structure Pkg where
  fabid : Word
  pkey : Word
  rtAct : Bool
  rtBusy : Bool
  hallrt : Tbl (Bool × Nat) Word
  strt : Tbl (Bool × Nat) Word
  posmap : Tbl (Bool × Nat) Word
  adapt : Tbl Nat Word
  pmemb : Tbl Nat Word
  redwin : Tbl Nat Word
  ports : Tbl Nat Port
  rejects : Nat
  dropStamp : Tbl Nat Nat
  notices : List (Nat × Nat)
  noticeNo : Nat
  ringFailed : List (Nat × Nat)
  /-- Flits for which a stop reserves the next buffer that it frees (R381). -/
  reserved : List RingFlit
  /-- Management has reported a degraded ring (R382). -/
  degraded : Bool
  /-- Flits that wait at their stop to be injected, with the input buffers that they take up, and the credits in use, by source,
  destination and class (R380, R381). -/
  ringOut : List (RingFlit × Option InBuf)
  ringUsed : Tbl (Nat × Nat × Nat) Nat
  /-- Flits delivered to a die, and the die (R413). -/
  inbox : List (Nat × BitVec 640)
  /-- The flits of stream packets that have come in part, by die and source package (R409). -/
  streams : Tbl (Nat × Nat) (List (BitVec 640))
  reported : Bool
  /-- The die that carries the host-mode ports, in a package that has one (R386). -/
  landing : Option Nat
  herr : BitVec 32
  pmask : BitVec 8
  width : BitVec 2
  hostUp : Bool
  hdmSize : Nat
  hdmmap : Tbl Nat Word
  hwin : Tbl Nat Word
  hring : Tbl Nat Word
  horph : Word
  horpn : BitVec 32
  /-- The HDM lines that the host may hold, the oldest first, and whether it may have written them (R392). -/
  snoop : List (Nat × Bool)
  /-- Back-invalidations sent, and whether they remove the host's copy (R392). -/
  backInval : List (Nat × Bool)
  cxlLog : List Word
  /-- The output payload and the return code of the last mailbox command; no code while a command waits for the
  completion writes named (R388, R398). -/
  mailbox : List Byte
  mailboxCode : Option Nat
  mailboxWaits : List Nat
  /-- The answers that management has sent on the fabric's management class (R400, R401). -/
  answers : List (List Byte)
  fw : Option FwTransfer
  image : List Byte
  imageReady : Bool
  hostMem : List Host.Cell
  cacheWrites : List CacheWrite
  /-- Host accesses to HDM on their way from the landing, in the order in which it received them (R293, R379, R380). -/
  hdmIn : List HostOp := []
  /-- Writes that their check has diverted, and whose orphan entry waits for the host's copies (R392, R397). -/
  diverts : List Divert := []
  /-- An `ORPHAN_READ` that waits for the host's copies: its first index and its count (R388, R392). -/
  orphanAsk : Option (Nat × Nat) := none
  /-- The output of a chunk whose blocks have not all been sent to the landing's children (R389). -/
  chunkWait : Option (List Byte) := none
  meas : Vector (BitVec 384) 16
  recovery : Bool
  firmware : List Byte
  svn : BitVec 32
  events : List (Nat × Word)
  boot : Boot
  mig : Migration
  /-- The failed package that the package sends nothing to (R434). -/
  frozen : Option Nat
  /-- The failed logical number whose flits in transit are held or dropped until this package flips (R436). -/
  heldNo : Option Nat
  /-- Destinations whose ordered flits a flip holds here, and until when (R417). -/
  holds : List (Nat × Nat)
  /-- Reduction lines that are combined, by die and address: how many, and their exclusive or (R435). -/
  redLines : Tbl (Nat × Nat) (Nat × BitVec 512)
  deriving DecidableEq, Repr

/-- An ordered message that waits for a link or for the end of a freeze (R418, R434): between which dies, what it takes
beyond the route's hops, how often it takes them, its place in a cycle, and the event that it brings about. -/
structure HeldFlit where
  cls : Nat
  src : DieId
  dst : DieId
  base : Nat
  trips : Nat
  pri : Nat
  ev : Event
  deriving DecidableEq, Repr

/-- The rate that a stage declares for an input or output port (R40). It is placed with the stage's program, for the configuration record
has no field of it (R350; log 6). -/
structure PortRate where
  stage : BitVec 24
  out : Bool
  port : Nat
  rate : Nat
  deriving DecidableEq, Repr

/-- The machine: every package of a domain, and the model's own record of what is in flight (log 3). -/
structure State where
  /-- The cycle (R438). -/
  cycle : Nat
  /-- The next identity of a request or result in flight. -/
  uid : Nat
  /-- The index of the next free value (log 5). -/
  freeNo : Nat
  /-- What is in flight and when it comes about, the earliest first (log 3). -/
  agenda : List Due
  /-- How far the cycle has come: incoming traffic, the bundles, outgoing traffic (log 3). -/
  phase : Nat
  /-- The agents that have still to issue in this cycle. -/
  turn : List Agent
  /-- The agent whose bundle is in issue, and that bundle. -/
  cur : Agent
  iss : Issue
  ctxs : Tbl Agent Ctx
  slots : Tbl SlotId Slot
  /-- Slots as the next configuration loads them while the present one is active (R355). -/
  nexts : Tbl SlotId Slot
  cores : Tbl CoreId Core
  arbs : Tbl CoreId Arb
  sups : Tbl SupId Sup
  clus : Tbl CluId Cluster
  dies : Tbl DieId Die
  pkgs : Tbl Nat Pkg
  reqs : List MemReq
  heldFlits : List HeldFlit
  /-- The declared rates that are known; of the others each is a free value (log 6). -/
  rates : List PortRate := []
  deriving DecidableEq, Repr

/-! ## The elements at reset -/

/-- The control registers at reset (R92–R95, R53). -/
def CtlRegs.reset : CtlRegs :=
  { lc := 0, ec := 0, vrb := 0, seed := 0, ctrbase := 0, fstat := 0, tlate := 0, lm := false, rnd := 0, mf := false,
    eosf := false, cvrnd := 0, det := false }

/-- The tags at reset: all ready, none bound (R83). -/
def Tags.reset : Tags :=
  { ready := 0xFFFF, bound := 0, vreg := Vector.replicate 8 0, fail := [], filled := [] }

/-- A register context at reset: the dash fields read zero (log 1). -/
def Ctx.reset : Ctx :=
  { x := Vector.replicate 64 0, v := Vector.replicate 32 0, p := 0,
    td := Vector.replicate 32 (Vector.replicate 8 0), rte := Vector.replicate 16 0, rs := [], cr := CtlRegs.reset,
    tags := Tags.reset, island := Vector.replicate 128 { truth := 0, sel := Vector.replicate 4 0 }, pc := 0, stageId := 0,
    firing := 0, budget := 0, bank0 := 0, bank1 := 0, cur := false, refs0 := 0, refs1 := 0, flights := [], xfm := [], vlanded := [],
    vecq := [], vecFree := 0, matq := [], issued := 0, late := false, waited := [], req := none, sync := none, notBefore := 0, holding := false, after := [],
    mu := false, walk := none }

/-- A slot at reset: EMPTY (R64). -/
def Slot.reset : Slot :=
  { sst := .empty, fst := .none, stamp := 0, cfgNum := 0, det := false, prio := 0, budget := 0, entry := 0,
    stateClass := 0, carry := { x := 0, v := 0, p := 0, t := 0, acc := 0 },
    carried := (Vector.replicate 64 0, Vector.replicate 32 0, 0), saveBase := 0, ins := [], outs := [], trap := none,
    ending := none, emissions := [], drains := [], events := [], ckpts := [], sentRound := false, draining := false,
    drainToken := false, commands := [], capture := none, parkPending := false, killed := false, barrierGen := 0, barrierWait := false }

/-- A core at reset: its scratchpad zero, every granule full (R172), its registers reading zero (R42). -/
def Core.reset : Core :=
  { mem := [], emptyBits := [], window := [], mapped := 0, backing := [],
    tiles := Vector.replicate 8 { bytes := 0, scale := 0, fmt := 0 },
    accs := Vector.replicate 4 { bytes := 0, type := 0 }, macFree := 0, weightFree := 0, drainFree := 0,
    accLanded := Vector.replicate 4 0, accLoaded := Vector.replicate 4 0, accRead := Vector.replicate 4 0, matReads := 0, macTile := 0, mats := [], matSteps := [],
    running := none, portFree := 0, reach := 0, stores := [], bad := [], badOnce := [], windowBad := [],
    windowOnce := [], matBad := [], matOnce := [] }

/-- No bank served, nothing waiting. -/
def Arb.reset : Arb := { cycle := 0, landed := [], taken := [], ported := [], runs := [], waits := [] }

/-- A cluster at reset (R239, R243, R244, R259). -/
def Cluster.reset : Cluster :=
  { windows := Vector.replicate 16 { w0 := 0, w1 := 0, w2 := 0 },
    phasers := Vector.replicate 16
      { valid := false, failed := false, phase := 0, npend := 0, arrn := 0, arr := 0, nsig := 0 },
    members := [], landings := [], signals := [], barrierG := 0, arrived := [], stopped := false, windowsBad := [],
    phaserErr := [], barrierErr := false, windowErr := [], engineOnce := 0, active := false }

/-- A free query context (R334). -/
def Query.reset : Query :=
  { gen := 0, owner := none, desc := [], terms := [], lens := [], scoreLen := 0, cursors := [], target := none, results := [],
    vmiss := false, fail := none, ended := none, requested := 0 }

/-- A FREE sequence entry (R299). -/
def SeqEntry.free : SeqEntry :=
  { st := 0, size := 0, kv := false, res := 0, c := 0, marks := [], table := [], pages := [], home := none, owner := none,
    bad := false }

/-- A die at reset: its lines zero (R273), the scrubber on (R369). -/
def Die.reset : Die :=
  { gallery := [], bad := [], badOnce := [], gwin := 0, sqpool := 0, sqtpool := 0,
    farrate := 0, sqlate := 0, seqs := [], frames := [], blockMap := [], ahead := [], scrubMarks := [], bucket := 0, bucketStamp := 0,
    engine := [], engineFree := 0, fills := [], queries := Vector.replicate 8 Query.reset, chunkReqs := [],
    plTurn := 0, plFree := 0, sqrmt := 0, ftroot := 0, ftinv := 0, ftmiss := 0, tlb := [], walks := [], cfgstair := 0,
    actn := 0, ldn := 0, actv := false, ldv := false, seqState := .idle, loading := none, sinkPending := false, status := 0, loadedRec := CfgRec.none, activeRec := CfgRec.none,
    digest := 0, counted := [], dign := 0, digh := Vector.replicate 4 0, ecccnt := 0,
    scrub := 0x8000000010001000, scrubG := (0, 0), scrubL := (0, 0), codeStore := [], codeBad := [], codeOnce := [], seqOnce := [], tokens := [], directory := [], cachedLines := [],
    clockMHz := 800, mirrorOut := [], shadows := [] }

/-- A supervisor core at reset; it is halted until management starts it (log 2). -/
def Sup.reset : Sup :=
  { mem := [], emptyBits := [], window := [], windowBad := [], windowOnce := [], trapc := 0, trapa := 0, trapv := 0, savebase := 0, slotstate := 0,
    codemap := 0, held := none, traps := [], events := [], act := 0, stop := false, faultCause := 0, faultPc := 0,
    halted := true, serves := [], stores := [], bad := [], badOnce := [] }

/-- A fabric port at reset: DOWN and enabled (R407, R412). -/
def Port.reset : Port :=
  { state := .down, en := true, hostMode := false, host := false, nonce := 0, again := false, poolUsed := 0, rsvUsed := [],
    last0 := none, starve := [], peer := 0, peerNo := 0, pport := 0, crcerr := 0, trainFails := 0, since := 0,
    expectSeq := 0, sendSeq := 0, ackSeq := 0, askReplay := false, replay := [], outq := [], held := [] }

/-- A package at reset: in recovery until the ROM has run (R399, log 2). -/
def Pkg.reset : Pkg :=
  { fabid := 0, pkey := 0, rtAct := false, rtBusy := false, hallrt := [], strt := [], posmap := [], adapt := [],
    pmemb := [], redwin := [], ports := [], rejects := 0, dropStamp := [], notices := [], noticeNo := 0,
    ringFailed := [], reserved := [], degraded := false, ringOut := [], ringUsed := [], inbox := [], streams := [], reported := false, landing := some 4, herr := 0, pmask := 0, width := 0,
    hostUp := false, hdmSize := 0, hdmmap := [], hwin := [], hring := [], horph := 0, horpn := 0, snoop := [],
    backInval := [], cxlLog := [], mailbox := [], mailboxCode := some 0, mailboxWaits := [], answers := [], fw := none, image := [], imageReady := false,
    hostMem := [], cacheWrites := [], meas := Vector.replicate 16 0, recovery := true, firmware := [], svn := 0,
    events := [],
    boot := { raw := [], manifest := none, fresh := [], kept := [], parts := [], sent := [], asked := [], extents := [], hallMoves := [],
              stairs := [], supImages := [], done := false },
    mig := { state := .normal, failedPkg := 0, waits := [], lastBeat := [], lines := 0 },
    frozen := none, heldNo := none, holds := [], redLines := [] }

/-- Slot 0 of core 0 of cluster 0 of die 0 of the package at position 0. -/
def slot0 : SlotId := { core := { die := { pkg := 0, die := 0 }, clu := 0, core := 0 }, slot := 0 }

/-- No bundle in issue. -/
def Issue.idle : Issue :=
  { start := 0, len := 0, word := 0, exts := [], pos := 0, mark := 0, next := 0, taken := 0, stat := .ok }

/-- The machine after reset: no element has been touched (log 1, 2, 7). -/
def State.reset : State :=
  { cycle := 0, uid := 0, freeNo := 0, agenda := [], phase := 0, turn := [], cur := .stage slot0, iss := Issue.idle, ctxs := [],
    slots := [], nexts := [], cores := [], arbs := [], sups := [], clus := [], dies := [], pkgs := [], reqs := [], heldFlits := [] }

end Sys2Proof.Machine
end

