-- ==== Sys2Proof/Machine/Ops.lean ====
section
/-! DEFINITION. The named operations over the state: elements, registers, memory spaces, results in flight, the agenda,
events to the supervisor cores, and taking a trap (R217–R226, R348). -/

namespace Sys2Proof.Machine

/-! ## Elements -/

/-- The register context of an agent. -/
def State.ctx (s : State) (a : Agent) : Ctx := tget s.ctxs a Ctx.reset
/-- The context replaced. -/
def State.setCtx (s : State) (a : Agent) (c : Ctx) : State := { s with ctxs := tset s.ctxs a c }
/-- The context changed. -/
def State.modCtx (s : State) (a : Agent) (f : Ctx → Ctx) : State := s.setCtx a (f (s.ctx a))
/-- The context of the agent in issue. -/
def State.me (s : State) : Ctx := s.ctx s.cur
/-- The context of the agent in issue changed. -/
def State.modMe (s : State) (f : Ctx → Ctx) : State := s.modCtx s.cur f

/-- A slot. -/
def State.slot (s : State) (i : SlotId) : Slot := tget s.slots i Slot.reset
/-- The slot replaced. -/
def State.setSlot (s : State) (i : SlotId) (v : Slot) : State := { s with slots := tset s.slots i v }
/-- The slot changed. -/
def State.modSlot (s : State) (i : SlotId) (f : Slot → Slot) : State := s.setSlot i (f (s.slot i))

/-- A core. -/
def State.core (s : State) (i : CoreId) : Core := tget s.cores i Core.reset
/-- The core replaced. -/
def State.setCore (s : State) (i : CoreId) (v : Core) : State := { s with cores := tset s.cores i v }
/-- The core changed. -/
def State.modCore (s : State) (i : CoreId) (f : Core → Core) : State := s.setCore i (f (s.core i))

/-- A supervisor core. -/
def State.sup (s : State) (i : SupId) : Sup := tget s.sups i Sup.reset
/-- The supervisor core replaced. -/
def State.setSup (s : State) (i : SupId) (v : Sup) : State := { s with sups := tset s.sups i v }
/-- The supervisor core changed. -/
def State.modSup (s : State) (i : SupId) (f : Sup → Sup) : State := s.setSup i (f (s.sup i))

/-- A cluster. -/
def State.clu (s : State) (i : CluId) : Cluster := tget s.clus i Cluster.reset
/-- The cluster replaced. -/
def State.setClu (s : State) (i : CluId) (v : Cluster) : State := { s with clus := tset s.clus i v }
/-- The cluster changed. -/
def State.modClu (s : State) (i : CluId) (f : Cluster → Cluster) : State := s.setClu i (f (s.clu i))

/-- A die. -/
def State.die (s : State) (i : DieId) : Die := tget s.dies i Die.reset
/-- The die replaced. -/
def State.setDie (s : State) (i : DieId) (v : Die) : State := { s with dies := tset s.dies i v }
/-- The die changed. -/
def State.modDie (s : State) (i : DieId) (f : Die → Die) : State := s.setDie i (f (s.die i))

/-- A package, by its position. -/
def State.pkg (s : State) (i : Nat) : Pkg := tget s.pkgs i Pkg.reset
/-- The package replaced. -/
def State.setPkg (s : State) (i : Nat) (v : Pkg) : State := { s with pkgs := tset s.pkgs i v }
/-- The package changed. -/
def State.modPkg (s : State) (i : Nat) (f : Pkg → Pkg) : State := s.setPkg i (f (s.pkg i))

/-- The cluster of a core. -/
def cluOf (c : CoreId) : CluId := { die := c.die, clu := c.clu }
/-- The die of an agent. -/
def dieOf : Agent → DieId
  | .stage i => i.core.die
  | .sup v => v.die
/-- The slot of a stage's agent. -/
def slotOf : Agent → Option SlotId
  | .stage i => some i
  | .sup _ => none
/-- Whether an agent is a supervisor core. -/
def isSup : Agent → Bool
  | .stage _ => false
  | .sup _ => true
/-- The supervisor core that serves a core's traps (R217). -/
def serverOf (c : CoreId) : SupId := { die := c.die, k := c.clu }

/-! ## The agenda -/

/-- The places of events among those of one cycle (R173; log 4): multicast landings, the matrix unit, incoming accesses that have
waited 8 cycles for a bank, the memory port, credits and answers, then results in ascending class; and after the bundles of the
cycle the other incoming traffic, the accesses that lost a bank in the cycle before first. -/
def priMulticast : Nat := 0
@[inherit_doc priMulticast] def priMatrix : Nat := 1
@[inherit_doc priMulticast] def priWaited : Nat := 2
@[inherit_doc priMulticast] def priPort : Nat := 3
@[inherit_doc priMulticast] def priArrive : Nat := 4
@[inherit_doc priMulticast] def priControl : Nat := 5
@[inherit_doc priMulticast] def priSca : Nat := 6
@[inherit_doc priMulticast] def priMem : Nat := 7
@[inherit_doc priMulticast] def priVec : Nat := 8
@[inherit_doc priMulticast] def priMat : Nat := 9
@[inherit_doc priMulticast] def priRetry : Nat := 10
@[inherit_doc priMulticast] def priLate : Nat := 11

/-- An entry put behind every entry that is due no later and has no later place. -/
def insertDue (e : Due) : List Due → List Due
  | [] => [e]
  | d :: r => if d.cycle < e.cycle ∨ (d.cycle = e.cycle ∧ d.pri ≤ e.pri) then d :: insertDue e r else e :: d :: r

/-- An event put on the agenda. -/
def State.schedule (s : State) (cycle pri : Nat) (ev : Event) : State :=
  { s with agenda := insertDue { cycle := cycle, pri := pri, ev := ev } s.agenda }

/-- The next identity taken. -/
def State.tick1 (s : State) : State := { s with uid := s.uid + 1 }

/-- The next free value taken (log 5). -/
def State.nextFree (s : State) : State := { s with freeNo := s.freeNo + 1 }

/-! ## Registers -/

/-- The words of a vector register among those of the register files. -/
def vecWords (d : BitVec 5) : List Nat := (List.range 16).map (fun k => 64 + 16 * d.toNat + k)
/-- The words of a tensor descriptor among those of the register files. -/
def descWords (d : Nat) : List Nat := (List.range 8).map (fun k => 577 + 8 * d + k)
/-- The words of the register files that belong to the slot and not to a firing: the descriptors and the route table (R77, R90). -/
def slotOwned (n : Nat) : Bool := 577 ≤ n && n ≤ 834
/-- A scalar register: `x0` reads zero (R77). -/
def Ctx.rx (c : Ctx) (d : BitVec 6) : Word := if d = 0 then 0 else c.x[d.toNat]
/-- A scalar register written; writes to `x0` are discarded (R77). -/
def Ctx.wx (c : Ctx) (d : BitVec 6) (w : Word) : Ctx := 
  if d = 0 then c else { c with x := c.x.set d.toNat w, regOnce := c.regOnce.filter (· ≠ d.toNat) }
/-- A predicate: `p0` reads 1 (R77). -/
def Ctx.rp (c : Ctx) (d : BitVec 4) : Bool := if d = 0 then true else c.p.getLsbD d.toNat
/-- A predicate written; writes to `p0` are discarded. -/
def Ctx.wp (c : Ctx) (d : BitVec 4) (b : Bool) : Ctx :=
  if d = 0 then c else { c with p := BitVec.ofNat 16 (putBits c.p.toNat d.toNat 1 (bit b)) }
/-- The physical register of a vector name (R80). -/
def physOf (vrb : BitVec 4) (n : BitVec 5) : BitVec 5 :=
  if n.toNat < 16 then n else BitVec.ofNat 5 (16 + (n.toNat + 16 - vrb.toNat) % 16)
/-- A physical vector register. -/
def Ctx.rv (c : Ctx) (d : BitVec 5) : Vec := c.v[d.toNat]
/-- A physical vector register written. -/
def Ctx.wv (c : Ctx) (d : BitVec 5) (w : Vec) : Ctx := 
  { c with v := c.v.set d.toNat w, regOnce := c.regOnce.filter (· ∉ vecWords d) }
/-- A vector register by its name, under the rotating base at issue. -/
def Ctx.rvn (c : Ctx) (n : BitVec 5) : Vec := c.rv (physOf c.cr.vrb n)
/-- The control registers changed. -/
def Ctx.modCr (c : Ctx) (f : CtlRegs → CtlRegs) : Ctx := { c with cr := f c.cr }
/-- Flags set by OR (R93). -/
def Ctx.flag (c : Ctx) (f : BitVec 6) : Ctx := c.modCr (fun r => { r with fstat := r.fstat ||| f })
/-- A tag's readiness set. -/
def Ctx.setReady (c : Ctx) (tag : Nat) (b : Bool) : Ctx :=
  { c with tags := { c.tags with ready := BitVec.ofNat 16 (putBits c.tags.ready.toNat tag 1 (bit b)) } }

/-- The scalar register of the agent in issue. -/
def State.rx (s : State) (d : BitVec 6) : Word := s.me.rx d
/-- The predicate of the agent in issue. -/
def State.rp (s : State) (d : BitVec 4) : Bool := s.me.rp d
/-- The vector register of the agent in issue, by name. -/
def State.rv (s : State) (n : BitVec 5) : Vec := s.me.rvn n

/-- One register write made. -/
def RegWrite.on (w : RegWrite) (c : Ctx) : Ctx :=
  match w with
  | .x d y => c.wx d y
  | .p d b => c.wp d b
  | .v d y => c.wv d y

/-- Register writes made in order. -/
def applyWrites (ws : List RegWrite) (c : Ctx) : Ctx := ws.foldl (fun c w => w.on c) c

/-- A result lands: its registers and flags. -/
def Flight.land (f : Flight) (c : Ctx) : Ctx := (applyWrites f.writes c).flag f.flags

/-- The event that lands a result of a unit. -/
def landEvent (src : Src) (a : Agent) (id : Nat) : Event :=
  match src with
  | .vector => .vectorResultLand a id
  | .load => .localLoadLand a id
  | .control | .scalar | .divide | .fdivide | .answer | .matrix => .scalarResultLand a id

/-- The place of a landing result among the events of its cycle: R15 gives the higher class the last word. -/
def landPri : Src → Nat
  | .control => priControl
  | .scalar | .divide | .fdivide => priSca
  | .answer | .load => priMem
  | .vector => priVec
  | .matrix => priMat

/-- A result put in flight under the identity `id`, to land `lat` cycles from now (R135, R158, R178). -/
def State.flyAs (s : State) (id : Nat) (a : Agent) (src : Src) (lat : Nat) (ws : List RegWrite) (flags : BitVec 6)
    (access : Option PortAccess) : State :=
  let f : Flight := { id := id, due := s.cycle + lat, src := src, writes := ws, flags := flags, access := access }
  (s.modCtx a (fun c => { c with flights := c.flights ++ [f] })).schedule (s.cycle + lat) (landPri src) (landEvent src a id)

/-- A result put in flight, to land `lat` cycles from now. -/
def State.fly (s : State) (a : Agent) (src : Src) (lat : Nat) (ws : List RegWrite) (flags : BitVec 6)
    (access : Option PortAccess) : State :=
  (s.flyAs s.uid a src lat ws flags access).tick1

/-- A result put behind those that land no later: by the cycle, then by the place among the landings of a cycle (R15, R135). -/
def insertFlight (f : Flight) : List Flight → List Flight
  | [] => [f]
  | g :: r => if g.due < f.due ∨ (g.due = f.due ∧ landPri g.src ≤ landPri f.src) then g :: insertFlight f r else f :: g :: r

/-- The results in flight in the order in which they land (R15, R135, R158). -/
def Ctx.landing (c : Ctx) : List Flight := c.flights.foldl (fun l f => insertFlight f l) []

/-- Every result of an agent lands, in the order in which the results would have landed (R219). -/
def State.landAll (s : State) (a : Agent) : State :=
  s.modCtx a (fun c => c.landing.foldl (fun c f => f.land c) { c with flights := [] })

/-! ## The local scratchpad -/

/-- The size of an agent's local scratchpad (R172, R341). -/
def localSize : Agent → Nat
  | .stage _ => 2 ^ 21
  | .sup _ => 2 ^ 18

/-- The scratchpad of an agent as its banks hold it. -/
def State.banks (s : State) : Agent → Mem
  | .stage i => (s.core i.core).mem
  | .sup v => (s.sup v).mem

/-- The stores of an agent's core that are on their way to the banks. -/
def State.pendingStores (s : State) : Agent → List LocalStore
  | .stage i => (s.core i.core).stores
  | .sup v => (s.sup v).stores

/-- The scratchpad as an access sees it that issued under an identity: program order holds among a core's own accesses (R181,
R285). -/
def State.localView (s : State) (a : Agent) (upto : Nat) : Mem :=
  ((s.pendingStores a).filter (·.id < upto)).foldl (fun m st => memWrite m st.addr st.data) (s.banks a)

/-- The scratchpad behind every access that the core has issued. -/
def State.localMem (s : State) (a : Agent) : Mem :=
  (s.pendingStores a).foldl (fun m st => memWrite m st.addr st.data) (s.banks a)

/-- Whether an access that an agent issued under an identity follows an acquire that is not complete: an earlier syllable that is held
for an engine's tag and has not executed (R288). A firing that has trapped brings its accesses to an end first (R219; log 77). -/
def State.behindAcquire (s : State) (a : Agent) (id : Nat) : Bool :=
  let c := s.ctx a
  (c.vecq ++ c.matq).any (fun h => h.acquire && h.id < id) && match a with
    | .stage i => (s.slot i).fst ≠ .trapped
    | .sup _ => true

/-- The granules that an access touches. -/
def granules (addr n : Nat) : List Nat :=
  if n = 0 then [] else (List.range ((addr + n - 1) / 16 + 1 - addr / 16)).map (· + addr / 16)

/-- Granules whose full/empty bit is set full (R174). -/
def setFull (empties : List Nat) (addr n : Nat) : List Nat := empties.filter (fun g => g ∉ granules addr n)

/-- The 8-byte words that an access touches. -/
def words8 (addr n : Nat) : List Nat :=
  if n = 0 then [] else (List.range ((addr + n - 1) / 8 + 1 - addr / 8)).map (fun i => 8 * (addr / 8 + i))

/-- The first word with an uncorrectable error that an access meets (R367). -/
def firstBad (bad : List Nat) (addr n : Nat) : Option Nat := (words8 addr n).find? (· ∈ bad)

/-- Whether a write of `n` bytes replaces a word whole. -/
def coversWord (addr n w : Nat) : Bool := addr ≤ w && w + 8 ≤ addr + n

/-- The erroneous words in which a write is not performed: those that it would change in part (R367). -/
def stuckWords (bad : List Nat) (addr n : Nat) : List Nat :=
  (words8 addr n).filter (fun w => w ∈ bad && !coversWord addr n w)

/-- The words of the scratchpad with an uncorrectable error, as an access meets them that issued under an identity: an earlier store
on its way that covers a word replaces it (R367). -/
def State.badView (s : State) (a : Agent) (upto : Nat) : List Nat :=
  let bad := match a with
    | .stage i => (s.core i.core).bad
    | .sup v => (s.sup v).bad
  ((s.pendingStores a).filter (·.id < upto)).foldl (fun bad st =>
    bad.filter (fun w => !coversWord st.addr st.data.length w)) bad

/-- The erroneous words behind every access that the core has issued. -/
def State.localBad (s : State) (a : Agent) : List Nat := s.badView a s.uid

/-- The words of a write that have no uncorrectable error, or that the write replaces whole (R367): the write without the
bytes that fall in another erroneous word, the erroneous words that are left, and the first in which a byte fell. -/
def writeAround (bad : List Nat) (m : Mem) (addr : Nat) (data : List Byte) : Mem × List Nat × Option Nat :=
  let n := data.length
  let stuck := stuckWords bad addr n
  let m' := (List.range n).foldl
    (fun m i => if 8 * ((addr + i) / 8) ∈ stuck then m else memPut m (addr + i) (data.getD i 0)) m
  (if stuck = [] then memWrite m addr data else m', bad.filter (fun w => !coversWord addr n w), stuck.head?)

/-- Granules whose full/empty bit a write sets full (R174): those in which a byte of it is performed. -/
def setFullBut (bad empties : List Nat) (addr n : Nat) : List Nat :=
  if stuckWords bad addr n = [] then setFull empties addr n
  else empties.filter (fun g => !(words8 addr n).any (fun w => w / 16 = g && w ∉ stuckWords bad addr n))

/-- Words with a single-bit error after a write: what it replaces, and what it read to change in part, is without error. -/
def mendOnce (once : List Nat) (addr n : Nat) : List Nat := once.filter (· ∉ words8 addr n)

/-- The value of a bounds or alignment trap (R220): the class and the address, truncated to 61 bits. -/
def addrValue (cls : Nat) (a : Int) : Word := toWord (cls % 8 * 2 ^ 61 + (a % 2 ^ 61).toNat)

/-- `ECCCNT` counts corrected and uncorrectable words (R366, R369). -/
def State.countErrors (s : State) (d : DieId) (cor unc : Nat) : State :=
  s.modDie d (fun dd => { dd with
    ecccnt := toWord ((wbits dd.ecccnt 32 32 + unc) % 2 ^ 32 * 2 ^ 32 + (wbits dd.ecccnt 0 32 + cor) % 2 ^ 32) })

/-- The words that a write changes in part are read for it: the errors of both kinds that it meets are counted (R366, R369). -/
def State.countPartial (s : State) (d : DieId) (bad once : List Nat) (addr n : Nat) : State :=
  let part := (words8 addr n).filter (fun w => !coversWord addr n w)
  let cor := (part.filter (· ∈ once)).length
  let unc := (part.filter (· ∈ bad)).length
  if cor = 0 ∧ unc = 0 then s else s.countErrors d cor unc

/-- The words of a read that are in a list. -/
def wordsIn (l : List Nat) (addr n : Nat) : Nat := ((words8 addr n).filter (· ∈ l)).length

/-- A read of a core's scratchpad: words with a single-bit error are corrected and written back, and both kinds of error are
counted (R366, R369). -/
def State.meetCore (s : State) (c : CoreId) (addr n : Nat) : State :=
  let k := s.core c
  if wordsIn k.bad addr n = 0 ∧ wordsIn k.badOnce addr n = 0 then s
  else (s.setCore c { k with badOnce := k.badOnce.filter (· ∉ words8 addr n) }).countErrors c.die
    (wordsIn k.badOnce addr n) (wordsIn k.bad addr n)

/-- A read of a die's gallery, likewise. -/
def State.meetDie (s : State) (d : DieId) (addr n : Nat) : State :=
  let k := s.die d
  if wordsIn k.bad addr n = 0 ∧ wordsIn k.badOnce addr n = 0 then s
  else (s.setDie d { k with badOnce := k.badOnce.filter (· ∉ words8 addr n) }).countErrors d
    (wordsIn k.badOnce addr n) (wordsIn k.bad addr n)

/-- A read of a supervisor core's scratchpad, likewise. -/
def State.meetSup (s : State) (v : SupId) (addr n : Nat) : State :=
  let k := s.sup v
  if wordsIn k.bad addr n = 0 ∧ wordsIn k.badOnce addr n = 0 then s
  else (s.setSup v { k with badOnce := k.badOnce.filter (· ∉ words8 addr n) }).countErrors v.die
    (wordsIn k.badOnce addr n) (wordsIn k.bad addr n)

/-- A read of an agent's own scratchpad, likewise. -/
def State.meetLocal (s : State) (a : Agent) (addr n : Nat) : State :=
  match a with
  | .stage i => s.meetCore i.core addr n
  | .sup v => s.meetSup v addr n

/-- Words of an agent's register files are read: single-bit errors are corrected and counted (R366, R369). -/
def State.meetRegs (s : State) (a : Agent) (ws : List Nat) : State :=
  let cor := ((s.ctx a).regOnce.filter (· ∈ ws)).length
  if cor = 0 then s
  else (s.modCtx a (fun c => { c with regOnce := c.regOnce.filter (· ∉ ws) })).countErrors (dieOf a) cor 0

/-- Every word of the register files. -/
def allRegs : List Nat := List.range 844

/-- What a firing's core reads of the gallery for it outside its own accesses: errors are corrected and counted, and the first
uncorrectable word raises machine check at the next bundle boundary (R366, R367; DEDUCED, log 74). -/
def State.readSaved (s : State) (i : SlotId) (addr n : Nat) : State :=
  let bad := firstBad (s.die i.core.die).bad addr n
  let s := s.meetDie i.core.die addr n
  match bad with
  | none => s
  | some w => s.modCtx (.stage i) (fun c => { c with after := c.after ++ [(0x0B, addrValue 2 (w : Nat))] })

/-! ## The banks of a scratchpad (R172, R173) -/

/-- The banks of the granules that an access touches. -/
def banksOf (addr n : Nat) : List Nat := ((granules addr n).map (· % 32)).dedup

/-- The arbitration of a core's banks in the present cycle. -/
def State.arb (s : State) (c : CoreId) : Arb :=
  let k := tget s.arbs c Arb.reset
  if k.cycle = s.cycle then k else { k with cycle := s.cycle, landed := [], taken := [], ported := [] }

/-- Banks that serve an access in a cycle: each has been served since its last idle cycle (R370). -/
def Arb.note (k : Arb) (bs : List Nat) : Arb :=
  { k with runs := bs.foldl (fun t b => tset t b (match tfind t b with
      | some (since, last) => if k.cycle ≤ last + 1 then (since, k.cycle) else (k.cycle, k.cycle)
      | none => (k.cycle, k.cycle))) k.runs }

/-- Banks served to another agent than the memory port; `first` where only a multicast landing or the scrubber comes before. -/
def Arb.serve (k : Arb) (bs : List Nat) (first : Bool) : Arb :=
  { k.note bs with taken := k.taken ++ bs, landed := if first then k.landed ++ bs else k.landed }

/-- It replaced. -/
def State.setArb (s : State) (c : CoreId) (k : Arb) : State := { s with arbs := tset s.arbs c k }

/-- The banks of an agent's scratchpad, as the arbitration knows them: those of a supervisor core stand behind the die's four clusters. -/
def arbKey : Agent → CoreId
  | .stage i => i.core
  | .sup v => { die := v.die, clu := 4, core := v.k }

/-- Whether the core's memory port has its banks in this cycle: no other agent was served by one (R173). The port is one agent:
its own accesses do not keep each other from a bank (log 10). -/
def State.portTurn (s : State) (a : Agent) (addr n : Nat) : Bool :=
  !(banksOf addr n).any (· ∈ (s.arb (arbKey a)).taken)

/-- The memory port is served by its banks. -/
def State.servePort (s : State) (a : Agent) (addr n : Nat) : State :=
  let k := s.arb (arbKey a)
  s.setArb (arbKey a) { k.note (banksOf addr n) with ported := k.ported ++ banksOf addr n }

/-- Two packets of one channel keep their order (R48, R413). -/
def sameWay : Event → Event → Bool
  | .packetArrival d _, .packetArrival e _ => d = e
  | _, _ => false

/-- Whether an incoming access has its banks in this cycle (R173): none of them was served to another agent, and no packet of
its own channel waits before it. -/
def State.bankTurn (s : State) (c : CoreId) (addr n : Nat) (ev : Event) : Bool :=
  let k := s.arb c
  !(banksOf addr n).any (fun b => b ∈ k.taken || b ∈ k.ported) && !(k.waits.takeWhile (fun w => w.1 ≠ ev)).any (fun w => sameWay w.1 ev)

/-- Banks are served to another agent than the memory port. -/
def State.serveOther (s : State) (c : CoreId) (addr n : Nat) : State :=
  s.setArb c ((s.arb c).serve (banksOf addr n) false)

/-- Banks are served to a multicast landing, before every other agent (R173). -/
def State.serveLanding (s : State) (c : CoreId) (addr n : Nat) : State :=
  s.setArb c ((s.arb c).serve (banksOf addr n) true)

/-- An incoming access waits for a bank no longer. -/
def State.leaveWaits (s : State) (c : CoreId) (ev : Event) : State :=
  let k := s.arb c
  if k.waits.any (fun w => w.1 = ev) then s.setArb c { k with waits := k.waits.filter (fun w => w.1 ≠ ev) } else s

/-- An incoming access is served by its banks. -/
def State.takeTurn (s : State) (c : CoreId) (addr n : Nat) (ev : Event) : State := (s.serveOther c addr n).leaveWaits c ev

/-- An incoming access that loses a bank tries again in the next cycle; once it has waited 8 cycles, before the memory port
(R173). -/
def State.loseTurn (s : State) (c : CoreId) (ev : Event) : State :=
  let k := s.arb c
  let since := ((k.waits.find? (fun w => w.1 = ev)).map (·.2)).getD s.cycle
  (s.setArb c { k with waits := if k.waits.any (fun w => w.1 = ev) then k.waits else k.waits ++ [(ev, s.cycle)] }).schedule
    (s.cycle + 1) (if since + 8 ≤ s.cycle + 1 then priWaited else priRetry) ev

/-! ## Events to the supervisor cores and management (R342, R343) -/

/-- An event record. -/
def eventRec (code unit : Nat) (slot : Option SlotId) (aux addr : Nat) : Word :=
  let place := match slot with
    | some i => i.core.clu * 2 ^ 11 + i.core.core * 2 ^ 4 + i.slot
    | none => 0
  toWord (code % 256 * 2 ^ 56 + unit % 8 * 2 ^ 53 + place % 2 ^ 13 * 2 ^ 40 + aux % 2 ^ 12 * 2 ^ 28 + addr % 2 ^ 28)

/-- A record put in a supervisor core's queue; it is dropped where the queue of 64 is full (R342). -/
def State.queueEvent (s : State) (v : SupId) (e : Word) : State :=
  s.modSup v (fun u => if u.events.length < 64 then { u with events := u.events ++ [e] } else u)

/-- A record copied to management (R342). -/
def State.tellManagement (s : State) (d : DieId) (e : Word) : State :=
  s.modPkg d.pkg (fun p => { p with events := p.events ++ [(d.die, e)] })

/-- A die event: to the supervisor core of the named slot's cluster, else to core 0, and to management (R342). -/
def State.dieEvent (s : State) (d : DieId) (code unit : Nat) (slot : Option SlotId) (aux addr : Nat) : State :=
  let e := eventRec code unit slot aux addr
  let k := match slot with
    | some i => i.core.clu
    | none => 0
  (s.queueEvent { die := d, k := k } e).tellManagement d e

/-- The dies of a package. -/
def diesOf (pkg : Nat) : List DieId := (List.range 8).map (fun d => { pkg := pkg, die := d })

/-- An event to supervisor core 0 of every die of a package, and to management (R382, R419). -/
def State.packageEvent (s : State) (pkg : Nat) (code aux addr : Nat) : State :=
  (diesOf pkg).foldl (fun s d => s.dieEvent d code 0 none aux addr) s

/-! ## Accesses of management and of the engines that are no agent (R366, R367; log 93) -/

/-- Bytes computed from what a write replaces: an erroneous word keeps its stored bits. -/
def writeSound (bad : List Nat) (m : Mem) (addr : Nat) (data : List Byte) : Mem :=
  if (firstBad bad addr data.length).isNone then memWrite m addr data
  else (List.range data.length).foldl
    (fun m i => if 8 * ((addr + i) / 8) ∈ bad then m else memPut m (addr + i) (data.getD i 0)) m

/-- A core's scratchpad or a die's gallery is read for the die itself: single-bit errors are corrected, both kinds are counted, and each
uncorrectable word raises event 0x15. -/
def State.meetOther (s : State) (d : DieId) (core : Option CoreId) (addr n : Nat) : State :=
  match core with
  | none => ((words8 addr n).filter (· ∈ (s.die d).bad)).foldl (fun s w => s.dieEvent d 0x15 2 none 0 w) (s.meetDie d addr n)
  | some c => ((words8 addr n).filter (· ∈ (s.core c).bad)).foldl (fun s w => s.dieEvent d 0x15 0 none 0 w) (s.meetCore c addr n)

/-- It is written for the die itself: a partial write of an erroneous word is not performed, and raises event 0x10. -/
def State.putOther (s : State) (d : DieId) (core : Option CoreId) (addr : Nat) (data : List Byte) : State :=
  match core with
  | none =>
    let k := s.die d
    let r := writeAround k.bad k.gallery addr data
    let s := (s.setDie d { k with gallery := r.1, bad := r.2.1, badOnce := mendOnce k.badOnce addr data.length }).countPartial d
      k.bad k.badOnce addr data.length
    match r.2.2 with
    | some w => s.dieEvent d 0x10 2 none 0 w
    | none => s
  | some c =>
    let k := s.core c
    let r := writeAround k.bad k.mem addr data
    let s := (s.setCore c { k with mem := r.1, bad := r.2.1, badOnce := mendOnce k.badOnce addr data.length }).countPartial d
      k.bad k.badOnce addr data.length
    match r.2.2 with
    | some w => s.dieEvent d 0x10 0 none 0 w
    | none => s

/-- Bytes XORed into it. -/
def State.xorOther (s : State) (d : DieId) (core : Option CoreId) (addr : Nat) (data : List Byte) : State :=
  let s := s.meetOther d core addr data.length
  match core with
  | none => s.modDie d (fun k => { k with
      gallery := writeSound k.bad k.gallery addr (xorBytes data (memRead k.gallery addr data.length)) })
  | some c => s.modCore c (fun k => { k with
      mem := writeSound k.bad k.mem addr (xorBytes data (memRead k.mem addr data.length)) })

/-! ## Codes -/

/-- The code of a slot state (R64). -/
def SlotState.code : SlotState → Nat
  | .empty => 0
  | .loaded => 1
  | .active => 2
  | .drained => 3
  | .faulted => 4

/-- The code of a firing state (R65). -/
def FiringState.code : FiringState → Nat
  | .none => 0
  | .ready => 1
  | .running => 2
  | .waiting => 3
  | .trapped => 4
  | .parked => 5
  | .done => 6

/-- The code of a sequencer state (R353). -/
def SeqState.code : SeqState → Nat
  | .idle => 0
  | .loading => 1
  | .running => 2
  | .draining => 3
  | .activating => 4

/-- `SLOTSTATE` of a slot (R96). -/
def Slot.stateWord (v : Slot) : Word := toWord (v.fst.code * 16 + v.sst.code)

/-! ## Control registers as words -/

/-- `XSTAT` (R94). -/
def CtlRegs.xstat (r : CtlRegs) : Word := toWord (r.tlate.toNat * 2 ^ 16 + bit r.lm)
/-- `ROUND` (R53). -/
def CtlRegs.round (r : CtlRegs) : Word := toWord (bit r.eosf * 2 ^ 33 + bit r.mf * 2 ^ 32 + r.rnd.toNat)
/-- `MODE` (R95). -/
def CtlRegs.mode (r : CtlRegs) : Word := toWord (r.cvrnd.toNat * 2 + bit r.det)
/-- `TAGS` (R83). -/
def Tags.word (t : Tags) : Word :=
  toWord ((List.range 8).foldl (fun n j => n + (t.vreg.toList.getD j 0).toNat * 2 ^ (5 * j + 24)) 0
    + t.bound.toNat * 2 ^ 16 + t.ready.toNat)

/-! ## XFM results (R204–R206, R210) -/

/-- A table group written in a decode bank (R210): its four slots are 1,024 consecutive bits. -/
def writeGroup (b : BitVec 4096) (g : BitVec 2) (v : Vec) : BitVec 4096 :=
  BitVec.ofNat 4096 (putBits b.toNat (1024 * g.toNat) 1024 v.toNat)

/-- An XFM result lands (R204, R205, R210): where a later-issued result landed in its register in this cycle, that one
stands. -/
def XfmRes.land (r : XfmRes) (now : Nat) (c : Ctx) : Ctx :=
  let c := c.flag r.flags
  match r.target with
  | .v d =>
    if c.vlanded.any (fun e => e.1 = d && r.id < e.2.1 && e.2.2 = now) then c else c.wv d r.value
  | .bank b g commit =>
    let c := if b then { c with bank1 := writeGroup c.bank1 g r.value } else { c with bank0 := writeGroup c.bank0 g r.value }
    if commit then { c with cur := b } else c

/-- The XFM results whose count has run out land, in order of issue (R205). -/
def Ctx.landXfm (c : Ctx) (now : Nat) : Ctx :=
  (c.xfm.filter (·.rem = 0)).foldl (fun c r => r.land now c) { c with xfm := c.xfm.filter (·.rem ≠ 0) }

/-! ## The save area (R223–R226) -/

/-- An XFM result as an entry of the pending-write list (R225). -/
def XfmRes.image (r : XfmRes) : List Byte :=
  let target := match r.target with
    | .v d => d.toNat * 2 ^ 5
    | .bank b g commit => 2 ^ 10 + bit b * 2 ^ 11 + g.toNat * 2 ^ 12 + bit commit * 2 ^ 14
  leBytes 16 (r.rem % 16 + 2 ^ 4 + target + r.flags.toNat * 2 ^ 16) ++ vecBytes r.value ++ leBytes 16 0

/-- The physical registers put in the vector fields of a VEC syllable; `fields` says which of d, a and b name one. -/
def physWord (vrb : BitVec 4) (w : Nat) (fields : Bool × Bool × Bool) : Nat :=
  let sub := fun (w lo : Nat) (on : Bool) =>
    if on then putBits w lo 5 (physOf vrb (BitVec.ofNat 5 (bitsAt w lo 5))).toNat else w
  sub (sub (sub w 10 fields.1) 5 fields.2.1) 0 fields.2.2

/-- Which fields of a VEC syllable name vector registers, by its opcode: all but `VBCAST`, `VEXTR`, `VINSR`, the forms with
an EXT, and the single-source forms, whose b is no register (R159–R171). -/
def vecFields (op : Nat) (ext : Bool) : Bool × Bool × Bool :=
  if op = 0x13 then (true, false, false)
  else if op = 0x1F then (false, true, false)
  else if op = 0x20 then (true, false, false)
  else if op = 0x25 then (true, false, false)
  else if op ∈ [0x0C, 0x0D, 0x0E, 0x16, 0x17, 0x18, 0x19, 0x1A, 0x1B, 0x1C, 0x1D, 0x1E, 0x23, 0x24, 0x26] then
    (true, true, false)
  else (true, true, !ext)

/-- A queue-image entry (R226). -/
def Held.image (h : Held) (cls : Nat) : List Byte :=
  let w := putBits h.word.toNat 18 4 0
  let w := if cls = 0 then physWord h.vrb w (vecFields (bitsAt w 22 6) (h.exts ≠ [])) else w
  leBytes 4 w ++ leBytes 4 ((h.exts.getD 0 0).toNat) ++ leBytes 4 ((h.exts.getD 1 0).toNat) ++ leBytes 4 (1 + 2 * cls)

/-- The bundle of the oldest held syllable (R85): the head of the VEC queue, or a queued MAT syllable whose tag is not ready. -/
def Ctx.heldBundle (c : Ctx) : Option Nat :=
  ((c.vecq.take 1 ++ (c.matq.filter (fun h => h.tags.any (fun t => !c.tags.ready.getLsbD t))).take 1).map (·.bundle)).min?

/-- The header of the save area (R224). -/
def saveHeader (c : Ctx) (t : TrapRec) (pc : Nat) : List Byte :=
  let w0 := bit t.oow * 2 ^ 36 + bit c.heldBundle.isSome * 2 ^ 35 + bit t.waiting * 2 ^ 34 + bit c.mu * 2 ^ 33
    + bit t.parked * 2 ^ 32 + t.cause % 256 * 2 ^ 24 + pc % 2 ^ 17
  let w15 := t.lead % 8 * 2 ^ 16 + c.matq.length % 16 * 2 ^ 8 + c.xfm.length % 16
  ([w0, t.value.toNat, c.budget.toNat, c.cr.lc.toNat, c.cr.ec.toNat, c.cr.vrb.toNat, c.cr.seed.toNat, c.cr.ctrbase.toNat,
    c.cr.fstat.toNat, c.cr.xstat.toNat, c.cr.round.toNat, c.cr.mode.toNat, c.tags.word.toNat,
    putBits c.p.toNat 0 1 1, c.rs.length, w15] ++ (List.range 8).map (fun i => (c.rs.getD i 0).toNat)
    ++ [c.vecq.length % 8 * 2 ^ 4 + bit c.cur] ++ List.replicate 7 0).flatMap (leBytes 8)

/-- What every trap writes to the save area, as (offset, bytes) (R223). -/
def saveImage (c : Ctx) (t : TrapRec) (pc : Nat) : List (Nat × List Byte) :=
  [(0x0000, saveHeader c t pc),
   (0x0100, (List.range 64).flatMap (fun i => leBytes 8 (c.rx (BitVec.ofNat 6 i)).toNat)),
   (0x0300, ((c.xfm.take 8).flatMap XfmRes.image) ++ List.replicate (160 * (8 - (c.xfm.take 8).length)) 0),
   (0x0800, ((c.vecq.take 8).flatMap (Held.image · 0)) ++ List.replicate (16 * (8 - (c.vecq.take 8).length)) 0
     ++ ((c.matq.take 4).flatMap (Held.image · 1)) ++ List.replicate (16 * (8 - (c.matq.take 4).length)) 0),
   (0x1000, c.v.toList.flatMap vecBytes)]

/-- Bytes written at a home's contents at several offsets. -/
def writePieces (m : Mem) (base : Nat) (ps : List (Nat × List Byte)) : Mem :=
  ps.foldl (fun m p => memWrite m (base + p.1) p.2) m

/-- Pieces of whole words written in a die's gallery: the errors of the words go (R367). -/
def State.putPieces (s : State) (d : DieId) (base : Nat) (ps : List (Nat × List Byte)) : State :=
  let hit := fun (w : Nat) => ps.any (fun p => coversWord (base + p.1) p.2.length w)
  s.modDie d (fun k => { k with
    gallery := writePieces k.gallery base ps, bad := k.bad.filter (fun w => !hit w),
    badOnce := k.badOnce.filter (fun w => !hit w) })

/-- The address of a slot's save area (R223). -/
def Slot.saveAddr (v : Slot) : Nat := v.saveBase * 4096

/-! ## Taking a trap -/

/-- A die event for a store that met an uncorrectable error (R172, R367): it names the writer's slot and the address. -/
def State.storeLost (s : State) (a : Agent) (code unit addr : Nat) : State :=
  s.dieEvent (dieOf a) code unit (slotOf a) 0 (addr % 2 ^ 28)

/-- Bytes written in the banks of an agent's scratchpad, with the full bits where `full` says so (R174). A partial write of an
erroneous word is not performed, and is reported (R172, R367). -/
def State.writeBanks (s : State) (a : Agent) (addr : Nat) (data : List Byte) (full : Bool) : State :=
  let n := data.length
  match a with
  | .stage i =>
    let k := s.core i.core
    let w := writeAround k.bad k.mem addr data
    let s := (s.setCore i.core { k with
      mem := w.1, bad := w.2.1, badOnce := mendOnce k.badOnce addr n,
      emptyBits := if full then setFullBut k.bad k.emptyBits addr n else k.emptyBits }).countPartial i.core.die k.bad k.badOnce
        addr n
    match w.2.2 with
    | some b => s.storeLost a 0x10 0 b
    | none => s
  | .sup v =>
    let u := s.sup v
    let w := writeAround u.bad u.mem addr data
    let s := (s.setSup v { u with
      mem := w.1, bad := w.2.1, badOnce := mendOnce u.badOnce addr n,
      emptyBits := if full then setFullBut u.bad u.emptyBits addr n else u.emptyBits }).countPartial v.die u.bad u.badOnce addr n
    match w.2.2 with
    | some b => s.storeLost a 0x10 0 b
    | none => s

/-- The stores of an agent's core that still wait are written (R219). -/
def State.flushStores (s : State) (a : Agent) : State :=
  let s' := (s.pendingStores a).foldl (fun s st => s.writeBanks a st.addr st.data st.setFull) s
  match a with
  | .stage i => s'.modCore i.core (fun k => { k with stores := [] })
  | .sup v => s'.modSup v (fun u => { u with stores := [] })

/-- The lead count (R221): bundles issued since that of the oldest held syllable, at most 4. -/
def Ctx.lead (c : Ctx) : Nat :=
  match c.heldBundle with
  | none => 0
  | some b => min 4 (c.issued - b - 1)

/-- A waiting phaser member is as it was before its wait (R250). -/
def unwaitMember (i : SlotId) (m : Member) : Member :=
  if m.core.toNat = i.core.core ∧ m.slot.toNat = i.slot ∧ m.mst = 3 then { m with mst := 2 } else m

/-- The lines of 64 bytes that a run of bytes touches. -/
def linesOf (addr n : Nat) : List Nat :=
  if n = 0 then [] else (List.range ((addr + n - 1) / 64 + 1 - addr / 64)).map (· + addr / 64)

/-- The HDM lines at a gallery address of a package: one for each entry of `HDMMAP` that maps its page (R391). -/
def Pkg.hdmLines (p : Pkg) (die addr : Nat) : List Nat :=
  ((List.range p.hdmSize).filter (fun e =>
    let w := tget p.hdmmap e 0
    wbits w 56 3 = die && wbits w 0 7 = addr / 2 ^ 21)).map (fun e => e * 2 ^ 15 + addr % 2 ^ 21 / 64)

/-- The lines of an access that the host's copies keep from it: a read waits for a copy that may be written, a write for
any (R392). -/
def State.snooped (s : State) (d : DieId) (addr n : Nat) (write : Bool) : List Nat :=
  let p := s.pkg d.pkg
  if p.snoop = [] then []
  else (linesOf addr n).flatMap (fun l =>
    (p.hdmLines d.die (64 * l)).filter (fun h => p.snoop.any (fun e => e.1 = h && (write || e.2))))

/-- Back-invalidations sent for lines that an access waits for. -/
def State.backInvalidate (s : State) (pkg : Nat) (lines : List Nat) (write : Bool) : State :=
  s.modPkg pkg (fun p => { p with backInval := p.backInval ++
    (lines.filter (fun l => !p.backInval.any (fun e => e.1 = l && (e.2 || !write)))).map (fun l => (l, write)) })

/-- What an agent has still to read or to return: loads and atomics of the remote spaces, and local ones that wait for a bank. -/
def State.readsOut (s : State) (a : Agent) : Bool :=
  (s.ctx a).flights.any (fun f => f.access.isSome) || s.reqs.any (fun q => q.own = a && q.dest ≠ .none)

/-- The lines of a slot's save area that the host may hold (R392). -/
def State.saveSnooped (s : State) (i : SlotId) : List Nat := s.snooped i.core.die (s.slot i).saveAddr 65536 true

/-- Whether a trapped firing's context can be captured (R219): its loads and atomics have landed, and the host holds no line of
the save area (log 21). -/
def State.canCapture (s : State) (i : SlotId) : Bool := !s.readsOut (.stage i) && s.saveSnooped i = []

/-- The context of a trapped firing is captured (R219, R223): results in flight land, local stores are written, the save area is
written with the bundle to resume at. -/
def State.captureNow (s : State) (i : SlotId) (t : TrapRec) (pc : Nat) : State :=
  let s := ((s.landAll (.stage i)).flushStores (.stage i)).meetRegs (.stage i) allRegs
  let s := s.putPieces i.core.die (s.slot i).saveAddr (saveImage (s.ctx (.stage i)) t pc)
  s.modSlot i (fun v => { v with capture := none })

/-- A trapped firing whose context has still to be captured: it is captured where it can be; else the lines of its save area are
asked of the host, and it waits (R219, R392). -/
def State.tryCapture (s : State) (i : SlotId) : State :=
  match (s.slot i).capture, (s.slot i).trap with
  | some pc, some t =>
    if s.canCapture i then s.captureNow i t pc
    else if s.saveSnooped i = [] then s
    else s.backInvalidate i.core.die.pkg (s.saveSnooped i) true
  | _, _ => s

/-- The oldest trap in a supervisor core's queue, once its context has been captured: then it is delivered (R217, R219; log 21). -/
def State.trapHead (s : State) (v : SupId) : Option SlotId :=
  match (s.sup v).traps with
  | [] => none
  | i :: _ => if (s.slot i).capture = none then some i else none

/-- Whether an engine request is one whose bundle waits for its answer (R307). -/
def EngOp.control : EngOp → Bool
  | .new _ | .res _ _ | .com _ _ _ | .len _ _ | .fork _ | .drop _ | .pre _ _ _ | .query _ => true
  | .gathV _ _ _ | .gathT _ _ | .sqGath _ _ _ _ | .rsp _ _ _ => false

/-- A control request that the bundle in issue has made and that has not been sent (R292, R307). -/
def EngReq.unsent (a : Agent) (q : EngReq) : Bool := q.own = a && q.sent.isNone && q.op.control

/-- Whether an agent has sent a control request whose answer it waits for (R60). -/
def State.reqSent (s : State) (a : Agent) : Bool :=
  (s.ctx a).req.isSome && !(s.die (dieOf a)).engine.any (EngReq.unsent a)

/-- A control request that was not sent is withdrawn: its bundle asks again when it is issued again. -/
def State.withdraw (s : State) (a : Agent) : State :=
  if (s.die (dieOf a)).engine.any (EngReq.unsent a) then
    s.modDie (dieOf a) (fun k => { k with engine := k.engine.filter (fun q => !q.unsent a) })
  else s

/-- What a trap takes from a context: its waits end, and the bundle to resume is fixed. -/
def Ctx.trapped (c : Ctx) (pc : Nat) (oow : Bool) : Ctx :=
  { c with sync := none, req := none, walk := none, holding := false, pc := if oow then c.pc else pc,
           tags := { c.tags with filled := [] } }

/-- A firing of slot `i` takes a trap (R217, R219): it is TRAPPED, its record is made, the trap joins the queue of the cluster's
supervisor core, behind those that arose before it, what its bundle waited for is let go, and its context is captured as soon as
that can be. -/
def State.trapStage (s : State) (i : SlotId) (cause : Nat) (value : Word) (addr pc : Nat) (waiting oow : Bool) : State :=
  let t : TrapRec := { cause := cause, value := value, addr := addr, waiting := waiting, oow := oow, parked := false,
                       lead := (s.ctx (.stage i)).lead, resumable := false }
  let s := s.modSlot i (fun v => { v with fst := .trapped, trap := some t, capture := some pc })
  let s := s.modSup (serverOf i.core) (fun u => { u with traps := u.traps ++ [i] })
  let s := s.modClu (cluOf i.core) (fun k => { k with members := k.members.map (fun e => (e.1, unwaitMember i e.2)) })
  let s := (s.withdraw (.stage i)).modCtx (.stage i) (fun c => c.trapped pc oow)
  s.tryCapture i

/-- A supervisor core raises a cause (R348): it stops, `SVFAULT` records the cause, and event 0x38 goes to the next
supervisor core, which takes over its queues, and to management. -/
def State.supFault (s : State) (v : SupId) (cause addr : Nat) : State :=
  let s := ((s.landAll (.sup v)).flushStores (.sup v)).withdraw (.sup v)
  let served := v.k :: (s.sup v).serves
  let s := s.modSup v (fun u =>
    { u with stop := true, faultCause := BitVec.ofNat 8 cause, faultPc := BitVec.ofNat 17 addr, serves := [] })
  let peer : SupId := { die := v.die, k := (v.k + 1) % 4 }
  let s := s.modSup peer (fun u => { u with serves := u.serves ++ served.filter (· ≠ peer.k) })
  let e := eventRec 0x38 0 none cause 0
  (s.queueEvent peer e).tellManagement v.die e

/-- The address field of a bundle's start. -/
def addr17 (n : Int) : Nat := (n % 2 ^ 17).toNat

/-- Whether an address lies outside the code window. -/
def outOfWindow (pc : Int) : Bool := pc < 0 || 2 ^ 17 ≤ pc

/-- The XFM results whose count has run out land before a context is captured, or before a supervisor core stops (R206, R219). -/
def State.landed (s : State) (a : Agent) : State := s.modCtx a (fun c => c.landXfm s.cycle)

/-- The agent traps before its next bundle has issued: with `W` where its firing state is WAITING (R224; DESIGN CHOICE, log 89). -/
def State.trapBefore (s : State) (a : Agent) (cause : Nat) (value : Word) : State :=
  let s := s.landed a
  let c := s.ctx a
  match a with
  | .stage i => s.trapStage i cause value (addr17 c.pc) (addr17 c.pc) ((s.slot i).fst = .waiting) (outOfWindow c.pc)
  | .sup v => s.supFault v cause (addr17 c.pc)

/-- The bundle in issue takes a trap: of the given rank among the checks of R218, with its cause and value, to resume at
the address `pc`. -/
def State.trapAt (s : State) (rank cause : Nat) (value : Word) (pc : Nat) (waiting : Bool) : State :=
  let s' := match s.cur with
    | .stage i => s.trapStage i cause value (addr17 s.iss.start) pc (waiting || decide ((s.slot i).fst = FiringState.waiting)) false
    | .sup v => s.supFault v cause (addr17 s.iss.start)
  { s' with iss := { s.iss with stat := .trapped rank } }

/-- The bundle in issue takes a trap and is the bundle to resume. -/
def State.raise (s : State) (rank cause : Nat) (value : Word) : State :=
  s.trapAt rank cause value (addr17 s.iss.start) false

/-- The syllable in issue as `TRAPV` names it (R220): its bits and its position. -/
def State.sylValue (s : State) : Word := toWord (s.iss.word.toNat + s.iss.pos % 32 * 2 ^ 32)

end Sys2Proof.Machine
end

