-- ==== Sys2Proof/Machine/Operands.lean ====
section
/-! DEFINITION. Operand forms: immediates (R27, R28), addresses of Form M (R21), and the registers that a syllable reads
and writes (R81, R85, R135, R158). -/

namespace Sys2Proof.Machine

/-- An integer immediate, sign-extended (R28). -/
def immSigned {n : Nat} : Opnd n → Int
  | .fld v => v.toInt
  | .ext1 e => e.toInt
  | .ext2 e f => signedOf 56 (f.toNat * 2 ^ 28 + e.toNat)

/-- An integer immediate, zero-extended (R28). -/
def immUnsigned {n : Nat} : Opnd n → Nat
  | .fld v => v.toNat
  | .ext1 e => e.toNat
  | .ext2 e f => f.toNat * 2 ^ 28 + e.toNat

/-- The bytes of a scalar size code (R21). -/
def sizeOf2 (z : BitVec 2) : Nat := 2 ^ z.toNat

/-- The offset of Form M: the field scaled by the access size, or the EXT's, in bytes (R21, R28). -/
def offsetOf (scale : Nat) : Opnd 4 → Int
  | .fld v => (v.toNat * scale : Nat)
  | .ext1 e => e.toInt
  | .ext2 e f => signedOf 56 (f.toNat * 2 ^ 28 + e.toNat)

/-- The address of a Form M access: base and offset, exact (R177, R238, R278, R422). -/
def addrOf (base : Word) (scale : Nat) (i : Opnd 4) : Int := (base.toNat : Int) + offsetOf scale i

/-- The registers a syllable reads and writes: scalar, predicate, and physical vector registers; tiles; whether it writes
the local scratchpad (R85, R135, R158). -/
structure Regs where
  xr : List (BitVec 6) := []
  xw : List (BitVec 6) := []
  pr : List (BitVec 4) := []
  pw : List (BitVec 4) := []
  vr : List (BitVec 5) := []
  vw : List (BitVec 5) := []
  tr : List (BitVec 3) := []
  tw : List (BitVec 3) := []
  localWrite : Bool := false
  deriving DecidableEq, Repr

/-- Lanes of a type code (R24). -/
def laneCount (t : Nat) : Nat :=
  match t with
  | 0 | 3 => 32
  | 1 | 4 | 5 => 64
  | _ => 128

/-- `n` register names from `a` upward. -/
def nameRun (a n : Nat) : List (BitVec 5) := (List.range n).map (fun i => BitVec.ofNat 5 (a + i))

/-- The registers that a VEC syllable names (R157, R159–R171): the fields that hold vector names; vd where it is read
(`VFMA`, `VSEL`, `VINSR`, `VDOT4`, `VQNT`); the groups of `VCVT`; the scalar operands of `VBCAST`, `VEXTR`, `VINSR`. -/
def vecNames (w : Nat) (ext : Bool) : Regs :=
  let op := bitsAt w 22 6
  let t := bitsAt w 15 3
  let d := bitsAt w 10 5
  let a := bitsAt w 5 5
  let b := bitsAt w 0 5
  if op = 0x0E then
    let ls := laneCount (b % 8)
    let ld := laneCount t
    { vr := nameRun a (max ls ld / ls), vw := nameRun d (max ls ld / ld) }
  else if op = 0x13 then { xr := [BitVec.ofNat 6 a], vw := nameRun d 1 }
  else if op = 0x1F then { xr := [BitVec.ofNat 6 b], vr := nameRun a 1, xw := [BitVec.ofNat 6 d] }
  else if op = 0x20 then { xr := [BitVec.ofNat 6 a, BitVec.ofNat 6 b], vr := nameRun d 1, vw := nameRun d 1 }
  else
    let f := vecFields op ext
    let old := if op ∈ [0x03, 0x12, 0x21, 0x24] then nameRun d 1 else []
    { vr := (if f.2.1 then nameRun a 1 else []) ++ (if f.2.2 then nameRun b 1 else []) ++ old, vw := nameRun d 1 }

/-- Vector names put as physical registers (R81). -/
def Regs.phys (r : Regs) (vrb : BitVec 4) : Regs :=
  { r with vr := r.vr.map (physOf vrb), vw := r.vw.map (physOf vrb) }

/-- The registers of a MAT syllable that matter to other classes (R85 rule 3): the tile that `MM` reads or `MM.W` fills and
the scalar register that `TD.GET` writes. Scalar operands are read at issue. -/
def matNames (w : Nat) : Regs :=
  let op := bitsAt w 22 6
  if op = 0 then { tr := [BitVec.ofNat 3 (bitsAt w 13 3)] }
  else if op = 3 then { tw := [BitVec.ofNat 3 (bitsAt w 13 3)] }
  else if op = 7 then { xw := [BitVec.ofNat 6 (bitsAt w 12 6)] }
  else {}

/-- The syllable of an instruction without its stop bit. -/
def wordOf (i : Instr) : BitVec 32 := BitVec.ofNat 32 (i.fieldsOf.headD 0)

/-- The EXT immediates of an instruction. -/
def extsOf (i : Instr) : List (BitVec 28) := (i.fieldsOf.drop 1).map (BitVec.ofNat 28)

/-- The registers of a held VEC syllable. -/
def Held.vecRegs (h : Held) : Regs := (vecNames h.word.toNat (h.exts ≠ [])).phys h.vrb

/-- The registers of a queued MAT syllable. -/
def Held.matRegs (h : Held) : Regs := matNames h.word.toNat

/-- The syllable in issue as it was fetched, with its stop bit, and its EXT syllables (R10, R27): class 6, the immediate, and the
stop bit of each. -/
def State.fetchedWord (s : State) (i : Instr) : BitVec 32 := wordOf i ||| (s.iss.word &&& 0x80000000)
@[inherit_doc State.fetchedWord] def State.fetchedExts (s : State) (i : Instr) : List (BitVec 32) :=
  (extsOf i).zipIdx.map (fun e => e.1.setWidth 32 ||| 0x60000000 ||| (s.iss.exts.getD e.2 0 &&& 0x80000000))

/-- A syllable as its class queue takes it at issue (R81, R116, R226). -/
def State.capture (s : State) (i : Instr) (xval : Word) (tags : List Nat) : Held :=
  let c := s.me
  { id := s.uid, instr := i, word := s.fetchedWord i, exts := s.fetchedExts i, vrb := c.cr.vrb, seed := c.cr.seed,
    ctr := c.cr.ctrbase, cvrnd := c.cr.cvrnd, xval := xval, bundle := c.issued, bank := c.cur, tags := tags,
    acquire := tags ≠ [], tileTag := 0, accTag := 0 }

/-- Whether two lists share an item. -/
def meets {α : Type} [DecidableEq α] (a b : List α) : Bool := a.any (· ∈ b)

/-- The scalar, predicate and vector registers a result in flight writes. -/
def RegWrite.hits (r : Regs) : RegWrite → Bool
  | .x d _ => d ≠ 0 && (d ∈ r.xr || d ∈ r.xw)
  | .p d _ => d ≠ 0 && (d ∈ r.pr || d ∈ r.pw)
  | .v d _ => d ∈ r.vr || d ∈ r.vw

/-- Whether a request's result is to land in one of the registers. -/
def Dest.hits (r : Regs) : Dest → Bool
  | .none => false
  | .x d _ _ => d ≠ 0 && (d ∈ r.xr || d ∈ r.xw)
  | .v d => d ∈ r.vr || d ∈ r.vw

/-- A syllable waits for an earlier result that has not landed in a register it names (R135, R158). Results of the
bundle's own syllables, whose identities are not below `mark`, do not count; a load whose bank access is still to be made does
(R173). -/
def State.resultBusy (s : State) (r : Regs) : Bool :=
  s.me.flights.any (fun f => f.id < s.iss.mark && (f.writes.any (RegWrite.hits r) || (f.access.any (fun p => p.dest.hits r)))) ||
  s.reqs.any (fun q => q.id < s.iss.mark && q.own = s.cur && q.dest.hits r)

/-- A syllable that is not held waits for a held syllable that writes a register it names, or that reads one it writes
(R85 rule 3). -/
def heldConflict (h r : Regs) : Bool :=
  meets h.xw (r.xr ++ r.xw) || meets h.vw (r.vr ++ r.vw) || meets h.tw (r.tr ++ r.tw) ||
  meets h.xr r.xw || meets h.vr r.vw || meets h.tr r.tw

/-- The wait of R85 rule 3 for a syllable of class `cls`. -/
def State.heldBusy (s : State) (cls : Nat) (r : Regs) : Bool :=
  (cls ≠ 3 && s.me.vecq.any (fun h => h.id < s.iss.mark && heldConflict h.vecRegs r)) ||
  (cls ≠ 4 && s.me.matq.any (fun h => h.id < s.iss.mark && heldConflict h.matRegs r))

/-- Whether a queued MAT syllable reads local memory: `MM`, `MM.W`, `MM.AW` (R191). -/
def Held.readsLocal (h : Held) : Bool := bitsAt h.word.toNat 22 6 ∈ [0, 3, 5]

/-- A local write waits until every earlier MAT syllable has finished reading local memory (R85 rule 3, R191). -/
def State.matReading (s : State) : Bool :=
  match s.cur with
  | .stage i => s.me.matq.any (fun h => h.id < s.iss.mark && h.readsLocal) || s.cycle < (s.core i.core).matReads
  | .sup _ => false

/-- A local write waits until every earlier load or atomic of the firing that reads its own core's scratchpad through another
space has been performed: it returns no later store of its firing (R290; log 46). -/
def State.ownReads (s : State) : Bool :=
  match s.cur with
  | .stage i => s.reqs.any (fun q => q.id < s.iss.mark && q.own = s.cur && q.dest ≠ .none && !q.performed &&
      q.place.home = .core i.core)
  | .sup _ => false

/-- Whether an earlier load or atomic of an agent has still to make its bank access (R173, R288). -/
def State.accessBefore (s : State) (a : Agent) (id : Nat) : Bool := (s.ctx a).flights.any (fun f => f.access.isSome && f.id < id)

/-- A MEM syllable waits behind an earlier local access of its firing that has lost its banks, a store too (R173). -/
def State.portHeld (s : State) (cls : Nat) : Bool :=
  cls = 2 && (s.me.flights.any (fun f => f.id < s.iss.mark && f.access.isSome && !s.behindAcquire s.cur f.id) ||
    (s.pendingStores s.cur).any (fun st => st.id < s.iss.mark && st.by_ = s.cur && st.due ≤ s.cycle &&
      !s.behindAcquire s.cur st.id))

/-- What keeps a syllable that is not held from acting, beside tags: a result it names that has not landed, a held syllable, the
reads that a local write must not overtake, and the memory port. -/
def State.busy (s : State) (cls : Nat) (r : Regs) : Bool :=
  s.resultBusy r || s.heldBusy cls r || (r.localWrite && (s.matReading || s.ownReads)) || s.portHeld cls

/-- The tag a physical vector register is bound to while that tag is not ready (R84). -/
def Ctx.pendingTag (c : Ctx) (v : BitVec 5) : Option Nat :=
  ((List.range 8).find? (fun j =>
    c.tags.bound.getLsbD j && c.tags.vreg.toList.getD j 0 = v && !c.tags.ready.getLsbD (8 + j))).map (· + 8)

/-- The tags not ready that the registers are bound to. -/
def Ctx.pendingTags (c : Ctx) (vs : List (BitVec 5)) : List Nat := vs.filterMap c.pendingTag

end Sys2Proof.Machine
end

