-- ==== Sys2Proof/Machine/Issue.lean ====
section
/-! DEFINITION. How a syllable comes to act: the checks of R13 and R14, the causes of R218, and the waits, in their order.
Every meaning of an encoded instruction goes through `issue`. -/

namespace Sys2Proof.Machine

/-- The outcome of a step of this machine. -/
abbrev Out := Host.Outcome State Fault Refusal

/-- What keeps a syllable that has no cause from acting: nothing; a register, queue or unit (the bundle tries again in each
cycle); tags that are to become ready (R84); or a wait of R65, with the effect that the syllable has before it waits. -/
inductive Wait where
  | go
  | stall
  | tag (ts : List Nat)
  | hold (pre : State → State)

/-- What a syllable is, for `issue`: its class and guard, whether it is a supervisor instruction, whether its operands
have types it admits, the registers it names, the cause it raises at issue, its wait, and its effect. -/
structure Syl where
  cls : Nat
  guard : BitVec 4
  priv : Bool := false
  typeOk : Bool := true
  regs : Regs := {}
  /-- The scalar registers, of those it reads, that its cause reads. -/
  early : List (BitVec 6) := []
  cause : State → Option (Nat × Word) := fun _ => none
  wait : State → Wait := fun _ => .go
  act : State → State

/-- A scalar register written by a CTL syllable of a bundle that issues now: the next bundle reads it (R7). -/
def State.nextX (s : State) (d : BitVec 6) (w : Word) : State := s.fly s.cur .control 1 [.x d w] 0 none

/-- A scalar register written by a MEM syllable with what it has waited for: the next bundle reads it (R7). -/
def State.nextM (s : State) (d : BitVec 6) (w : Word) : State := s.fly s.cur .answer 1 [.x d w] 0 none

/-- The bundle waits for a register, a queue or a unit. -/
def State.stall (s : State) : State := { s with iss := { s.iss with stat := .stall } }

/-- The bundle waits for a register that a syllable's guard or cause reads: whether the syllable has a cause is not known (R218). -/
def State.unjudged (s : State) : State := { s with iss := { s.iss with stat := .unjudged } }

/-- The firing is WAITING (R65). -/
def State.hold (s : State) : State :=
  let s := match s.cur with
    | .stage i => s.modSlot i (fun v => { v with fst := .waiting })
    | .sup _ => s
  let s := s.modMe (fun c => { c with holding := true })
  { s with iss := { s.iss with stat := .waits } }

/-- A tag is consumed: a failure attached to it waits for the next bundle boundary (R321). -/
def Ctx.consume (c : Ctx) (tag : Nat) : Ctx :=
  let fs := c.tags.fail.filter (·.tag = tag)
  { c with tags := { c.tags with fail := c.tags.fail.filter (·.tag ≠ tag) },
           after := c.after ++ fs.map (fun f => (0x11, f.value)) }

/-- The context whose own `LAST` chunk a tag holds is freed when the tag is consumed (R334). -/
def freeLast (own : Agent) (tag : Nat) (d : Die) : Die :=
  match d.fills.find? (fun f => f.own = own && f.tag.toNat = tag && f.last.isSome) with
  | none => d
  | some f =>
    match f.last with
    | none => d
    | some q =>
      { d with fills := d.fills.filter (fun g => g.id ≠ f.id),
               queries := if h : q < 8 then d.queries.set q { d.queries[q] with owner := none } else d.queries }

/-- A tag is consumed by an agent (R84, R288, R321, R334). -/
def State.consumeTag (s : State) (a : Agent) (tag : Nat) : State :=
  (s.modCtx a (fun c => c.consume tag)).modDie (dieOf a) (freeLast a tag)

/-- The tags that the bundle waited on are consumed as it issues (R84, R321). -/
def State.consumeWaited (s : State) : State :=
  let s' := s.me.waited.foldl (fun s t => s.consumeTag s.cur t) s
  if s.me.waited = [] then s else s'.modMe (fun c => { c with waited := [] })

/-- The words of the register files that a syllable reads: what it names, and its guard. -/
def Regs.words (r : Regs) (g : BitVec 4) : List Nat :=
  r.xr.map (·.toNat) ++ r.vr.flatMap vecWords ++ (if g = 0 ∧ r.pr = [] then [] else [576])

/-- A syllable begins to act: single-bit errors of the registers that it names are corrected (R366; log 69), and the tags that its
bundle waited on are consumed. -/
def State.enter (s : State) (g : BitVec 4) (r : Regs) : State := (s.meetRegs s.cur (r.words g)).consumeWaited

/-- The bundle waits on tags (R84, R85 rule 4), and remembers them. -/
def State.stallOn (s : State) (tags : List Nat) : State :=
  (s.modMe (fun c => { c with waited := c.waited ++ tags.filter (· ∉ c.waited) })).stall

/-- A tag is taken for a fill, bound to a vector register where it has one (R83, R84); a failure that nothing consumed stays, for
the end of the firing to report (R321). -/
def Ctx.takeTag (c : Ctx) (tag : Nat) (v : Option (BitVec 5)) : Ctx :=
  let c := c.setReady tag false
  let fails := c.tags.fail.map (fun f => if f.tag = tag then { f with tag := 16 } else f)
  match v with
  | none => { c with tags := { c.tags with fail := fails } }
  | some r => { c with tags := { c.tags with
      fail := fails, bound := BitVec.ofNat 8 (putBits c.tags.bound.toNat (tag - 8) 1 1),
      vreg := c.tags.vreg.setIfInBounds (tag - 8) r } }

/-- The agent in issue takes a tag: what else its bundle does still finds the tag as it stood before (R7, R84). -/
def State.takeTag (s : State) (tag : Nat) (v : Option (BitVec 5)) : State :=
  let s := s.modMe (fun c => c.takeTag tag v)
  { s with iss := { s.iss with took := tag :: s.iss.took } }

/-- Whether a tag that a syllable would take keeps its bundle: it is not ready, and no syllable of the bundle took it (R84). -/
def State.tagKept (s : State) (tag : Nat) : Bool := !s.me.tags.ready.getLsbD tag && tag ∉ s.iss.took

/-- A tag becomes ready, with the failure that its fill carries (R84, R321). -/
def Ctx.fillTag (c : Ctx) (tag : Nat) (fail : Option Word) : Ctx :=
  let c := c.setReady tag true
  { c with tags := { c.tags with fail := c.tags.fail ++ (fail.toList.map (fun w => { tag := tag, value := w })) } }

/-- Of the scalar registers read, those that a cause reads. -/
def Regs.early (r : Regs) (l : List (BitVec 6)) : Regs := { xr := r.xr.filter (· ∈ l) }

/-- A syllable comes to act. The operand types and the privilege are checked whatever the guard (R14); then a syllable whose
guard is 0 does nothing; then it waits for the registers that its cause is judged by, and raises its cause, whatever else it would
wait for (R218); then it waits for the other registers it names, and for the rest; then it acts. -/
def issue (y : Syl) (s : State) : Out :=
  if y.priv && !isSup s.cur then .next (s.raise 0 0x0F s.sylValue)
  else if !y.typeOk then .next (s.raise 1 0x02 s.sylValue)
  else if s.resultBusy { pr := [y.guard] } then .next s.unjudged
  else if !s.rp y.guard then .next (s.meetRegs s.cur [576])
  else if s.resultBusy (y.regs.early y.early) || s.heldBusy y.cls (y.regs.early y.early) then .next s.unjudged
  else
    match y.cause s with
    | some t => .next (s.raise 2 t.1 t.2)
    | none =>
      if s.busy y.cls y.regs then .next s.stall
      else if y.cls ≠ 3 && (s.me.pendingTags (y.regs.vr ++ y.regs.vw)) ≠ [] then
        .next (s.stallOn (s.me.pendingTags (y.regs.vr ++ y.regs.vw)))
      else
        match y.wait s with
        | .go => .next (y.act (s.enter y.guard y.regs))
        | .stall => .next s.stall
        | .tag ts => .next (s.stallOn ts)
        | .hold pre => .next (pre s).hold

/-- What lets a syllable act at once: its registers have landed, nothing it names is held, and no tag keeps it. -/
def State.free (s : State) (cls : Nat) (guard : BitVec 4) (r : Regs) : Bool :=
  !s.resultBusy { pr := [guard] } && s.rp guard && !s.busy cls r && (cls = 3 || s.me.pendingTags (r.vr ++ r.vw) = [])

end Sys2Proof.Machine
end

