-- ==== Sys2Proof/Machine/Desc.lean ====
section
/-! DEFINITION. Tensor descriptors (R86–R88, R175, R202, R203) and the spans of memory that a syllable names through one. -/

namespace Sys2Proof.Machine

/-- A tensor descriptor: its eight words (R86). -/
abbrev Desc := Vector Word 8

/-- `BASE`. -/
def Desc.base (d : Desc) : Nat := d[0].toNat
/-- `SPACE`. -/
def Desc.space (d : Desc) : Nat := wbits d[1] 0 3
/-- `FMT` (R87). -/
def Desc.fmt (d : Desc) : Nat := wbits d[1] 8 8
/-- `NDIM`: dimensions − 1. -/
def Desc.ndim (d : Desc) : Nat := wbits d[1] 16 2
/-- `SKEW`. -/
def Desc.skew (d : Desc) : Bool := d[1].getLsbD 18
/-- `PLANES`. -/
def Desc.planes (d : Desc) : Nat := wbits d[1] 19 4
/-- `ACCSAT`. -/
def Desc.accsat (d : Desc) : Bool := d[1].getLsbD 23
/-- `SIZEk`: the size of dimension k, minus 1. -/
def Desc.size (d : Desc) (k : Nat) : Nat := wbits d[2] (16 * k) 16
/-- `STRIDEk`. -/
def Desc.stride (d : Desc) (k : Nat) : Int :=
  if k < 2 then signedOf 32 (wbits d[3] (32 * k) 32) else signedOf 32 (wbits d[4] (32 * (k - 2)) 32)
/-- `UNF`. -/
def Desc.unf (d : Desc) : Bool := d[5].getLsbD 40
/-- A field of w5 of four bits. -/
def Desc.w5 (d : Desc) (lo : Nat) : Nat := wbits d[5] lo 4
/-- `COL0` and `ROW0` (R186). -/
def Desc.col0 (d : Desc) : Int := signedOf 16 (wbits d[6] 16 16)
@[inherit_doc Desc.col0] def Desc.row0 (d : Desc) : Int := signedOf 16 (wbits d[6] 0 16)
/-- `SCALE`. -/
def Desc.scale (d : Desc) : Nat := d[7].toNat
/-- The element format of a packed stream (R188). -/
def Desc.efmt (d : Desc) : Nat := wbits d[7] 0 8

/-- The format codes of R87. -/
def knownFmt (f : Nat) : Bool :=
  f ∈ [0x00, 0x01, 0x02, 0x03, 0x04, 0x05, 0x08, 0x09, 0x0A, 0x0B, 0x0C, 0x0D, 0x0E, 0x10, 0x11, 0x12, 0x13, 0x14, 0x18]

/-- The width of an element of a format in bits. -/
def fmtBits (f : Nat) : Nat :=
  match f with
  | 0x01 | 0x05 | 0x0E => 4
  | 0x02 | 0x09 | 0x0A => 16
  | 0x03 | 0x08 => 32
  | 0x0B => 64
  | _ => 8

/-- The bytes of an element of a format that is a byte or wider, and 1 for the 4-bit formats. -/
def fmtSize (f : Nat) : Nat := max (fmtBits f / 8) 1

/-- The dense formats: whole elements of 4 to 64 bits. -/
def denseFmt (f : Nat) : Bool := f ∈ [0x00, 0x01, 0x02, 0x03, 0x04, 0x05, 0x08, 0x09, 0x0A, 0x0B, 0x0C, 0x0D, 0x0E]

/-- The element formats of a packed stream (R188). -/
def packedElem (f : Nat) : Bool := f ∈ [0x00, 0x02, 0x09, 0x0A, 0x0C, 0x0D]

/-- The width in bits of a stored element, a codebook's indices included (R87, R175). Those of a packed block (0x14)
and a key–value block (0x18) count 8 bits (DESIGN CHOICE, log 100). -/
def storedBits (f : Nat) : Nat := if 0x11 ≤ f ∧ f ≤ 0x13 then f - 0x0F else fmtBits f

/-- What R88 and R175 check of every descriptor that a syllable names. -/
def Desc.ok (d : Desc) : Bool :=
  knownFmt d.fmt && d.space ≤ 4 && wbits d[1] 24 40 = 0 && wbits d[1] 3 5 = 0 && wbits d[5] 41 23 = 0 &&
  wbits d[6] 32 32 = 0 && (d.space ≠ 4 || wbits d[0] 16 48 = 0) && (d.fmt ≠ 0x14 || wbits d[7] 8 56 = 0) &&
  (d.fmt ≠ 0x10 || (2 ≤ d.planes && d.planes ≤ 8)) &&
  (!d.skew || (d.space = 0 && d.ndim ≠ 0 && d.base % 512 = 0 && d.stride 1 % 512 = 0 &&
    (d.size 0 + 1) * storedBits d.fmt ≤ 4096))

/-- What R88 checks of word 1 where only the format is used: no reserved space, no reserved bit, and a skew only in local memory
with more than one dimension (R175). -/
def Desc.word1Ok (d : Desc) : Bool :=
  d.space ≤ 4 && wbits d[1] 24 40 = 0 && wbits d[1] 3 5 = 0 && (!d.skew || (d.space = 0 && d.ndim ≠ 0))

/-- What R88 checks of word 7 where it holds the element format of a packed stream (R188). -/
def Desc.word7Ok (d : Desc) : Bool := wbits d[7] 8 56 = 0

/-- The address of byte `o` of the row that starts at `row`, in a skewed tile, for row index `j` (R175). -/
def skewAddr (row : Int) (o : Int) (j : Nat) : Int := row + 16 * ((o / 16 + (j : Int)) % (32 : Int)) + o % (16 : Int)

/-- A span of memory that a syllable reads or writes: its first byte, its length, and its alignment. -/
structure Span where
  addr : Int
  len : Nat
  al : Nat
  deriving DecidableEq, Repr

/-- The bounds cause of an access of class `cls` in a space of `lim` bytes: it names the first byte outside (R220). -/
def boundsCause (cls : Nat) (a : Int) (n lim : Nat) : Option (Nat × Word) :=
  if a < 0 ∨ a ≥ lim then some (0x04, addrValue cls a)
  else if a + n > lim then some (0x04, addrValue cls lim)
  else none

/-- The causes of a list of spans in the local scratchpad (R185): misalignment of any, then bounds. -/
def spansCause (cls lim : Nat) (ss : List Span) : Option (Nat × Word) :=
  match ss.find? (fun sp => sp.addr % (sp.al : Int) ≠ 0) with
  | some sp => some (0x10, addrValue cls sp.addr)
  | none => ss.findSome? (fun sp => boundsCause cls sp.addr sp.len lim)

/-! ## Descriptors as the MAT queue leaves them (R202) -/

/-- `TD.STEP` (R203). -/
def Desc.step (d : Desc) (dim : Nat) (count : Int) : Desc :=
  let move := fun (d : Desc) (k : Nat) => d.set 0 (d[0] + intWord (count * d.stride k))
  if d.unf && dim = 1 then d.set 6 (wput d[6] 16 16 ((signedOf 16 (wbits d[6] 16 16) + count) % 2 ^ 16).toNat)
  else if d.unf && dim = 2 then d.set 6 (wput d[6] 0 16 ((signedOf 16 (wbits d[6] 0 16) + count) % 2 ^ 16).toNat)
  else
    let d' := move d dim
    if d.unf || d.fmt = 0x14 then d'
    else if dim = 0 then d'.set 7 (d[7] + intWord (count / 32))
    else if dim = 1 then d'.set 7 (d[7] + intWord (count * ceilDiv (d.size 0 + 1) 32))
    else d'

/-- The descriptors after a queued MAT syllable: `TD.SET` and `TD.STEP` change one (R202, R203). -/
def Held.onTd (h : Held) (td : Vector Desc 32) : Vector Desc 32 :=
  let w := h.word.toNat
  let n : BitVec 5 := BitVec.ofNat 5 (bitsAt w 7 5)
  let m : BitVec 3 := BitVec.ofNat 3 (bitsAt w 3 4)
  if bitsAt w 22 6 = 6 then td.set n.toNat (td[n.toNat].set m.toNat h.xval)
  else if bitsAt w 22 6 = 8 then td.set n.toNat (td[n.toNat].step (bitsAt w 3 2) h.xval.toInt)
  else td

/-- The MAT syllables that are queued from earlier bundles: a bundle's own queue entry is none of what its other syllables read
(R7). -/
def State.matBefore (s : State) : List Held := s.me.matq.filter (fun h => h.id < s.iss.mark)

/-- A descriptor that a syllable of the bundle in issue names: as the MAT syllables of earlier bundles will leave it (R7, R202). -/
def State.desc (s : State) (n : BitVec 5) : Desc := (s.matBefore.foldl (fun td h => h.onTd td) s.me.td)[n.toNat]

/-- Whether a queued MAT syllable of an earlier bundle writes a descriptor: a MEM or XFM syllable that names it waits (R202). -/
def State.tdPending (s : State) (n : BitVec 5) : Bool :=
  s.matBefore.any (fun h => bitsAt h.word.toNat 22 6 ∈ [6, 8] && bitsAt h.word.toNat 7 5 = n.toNat)

/-- The address of the bytes at offset `o` of row `j` (R175, R185, R201). -/
def Desc.rowAddr (d : Desc) (j : Nat) (o : Int) : Int :=
  let row : Int := (d.base : Int) + j * d.stride 1
  if d.skew then skewAddr row o j else row + o

/-- The elements that `MM.AR` and `MM.AW` move, with their addresses (R175, R201): those with m > `SIZE1` or c > `SIZE0` are
skipped. -/
def Desc.accCells (d : Desc) : List (Nat × Nat × Int) :=
  (List.range (min 16 (d.size 1 + 1))).flatMap (fun m => (List.range (min 32 (d.size 0 + 1))).map (fun c =>
    (m, c, d.rowAddr m (c * d.stride 0))))

/-- Whether two runs of bytes meet. -/
def runsMeet (a : Int) (n : Nat) (b : Int) (m : Nat) : Bool := a < b + m && b < a + n

/-- Whether a queued `MM.AR` writes a byte of a run. -/
def arQueued (a : Int) (n : Nat) : List Held → Vector Desc 32 → Bool
  | [], _ => false
  | h :: r, td =>
    let d := td[(BitVec.ofNat 5 (bitsAt h.word.toNat 8 5)).toNat]
    (bitsAt h.word.toNat 22 6 = 4 && d.accCells.any (fun e => runsMeet a n e.2.2 (fmtSize d.fmt))) ||
      arQueued a n r (h.onTd td)

/-- Whether an `MM.AR` of this firing, queued or under way, writes a byte of a run of local memory (R191). -/
def State.arTouches (s : State) (a : Int) (n : Nat) : Bool :=
  match s.cur with
  | .stage i => arQueued a n s.matBefore s.me.td ||
      (s.slot i).drains.any (fun e => e.store.any (fun p => runsMeet a n p.1 p.2.length))
  | .sup _ => false

end Sys2Proof.Machine
end

