-- ==== Sys2Proof/Machine/Float.lean ====
section
/-! DEFINITION. Floating-point formats, rounding, conversion and arithmetic (R98–R107, R150–R152): every operation is
formed exactly and rounded once. -/

namespace Sys2Proof.Machine

/-- A floating format (R98): exponent and fraction bits, bias, the greatest finite magnitude pattern, and whether it has
infinities and NaNs. -/
structure Fmt where
  ebits : Nat
  mbits : Nat
  bias : Nat
  maxPat : Nat
  hasInf : Bool
  nanPat : Nat
  deriving DecidableEq, Repr

/-- FP64 (R98, R99). -/
def fp64 : Fmt := { ebits := 11, mbits := 52, bias := 1023, maxPat := 0x7FEFFFFFFFFFFFFF, hasInf := true, nanPat := 0x7FF8000000000000 }
/-- FP32. -/
def fp32 : Fmt := { ebits := 8, mbits := 23, bias := 127, maxPat := 0x7F7FFFFF, hasInf := true, nanPat := 0x7FC00000 }
/-- BF16. -/
def bf16 : Fmt := { ebits := 8, mbits := 7, bias := 127, maxPat := 0x7F7F, hasInf := true, nanPat := 0x7FC0 }
/-- FP16. -/
def fp16 : Fmt := { ebits := 5, mbits := 10, bias := 15, maxPat := 0x7BFF, hasInf := true, nanPat := 0x7E00 }
/-- E4M3: no infinity, one NaN pattern for each sign. -/
def e4m3 : Fmt := { ebits := 4, mbits := 3, bias := 7, maxPat := 0x7E, hasInf := false, nanPat := 0x7F }
/-- E5M2. -/
def e5m2 : Fmt := { ebits := 5, mbits := 2, bias := 15, maxPat := 0x7B, hasInf := true, nanPat := 0x7E }
/-- E2M1: neither infinity nor NaN. -/
def e2m1 : Fmt := { ebits := 2, mbits := 1, bias := 1, maxPat := 0x7, hasInf := false, nanPat := 0x8 }

/-- The width of a format in bits. -/
def Fmt.width (f : Fmt) : Nat := f.ebits + f.mbits + 1
/-- The weight of a format's sign bit. -/
def Fmt.signBit (f : Fmt) : Nat := 2 ^ (f.ebits + f.mbits)
/-- The magnitude pattern of infinity. -/
def Fmt.infPat (f : Fmt) : Nat := f.maxPat + 1

/-- The value of a pattern: NaN, an infinity, or ± m × 2^e (R98). -/
inductive FVal where
  | nan
  | inf (neg : Bool)
  | fin (neg : Bool) (m : Nat) (e : Int)
  deriving DecidableEq, Repr

/-- The value of a pattern (R98). -/
def fval (f : Fmt) (n : Nat) : FVal :=
  let neg := bitsAt n (f.ebits + f.mbits) 1 = 1
  let mag := n % f.signBit
  if mag > f.maxPat then
    if f.hasInf && mag = f.infPat then .inf neg else .nan
  else
    let ex := mag / 2 ^ f.mbits
    let fr := mag % 2 ^ f.mbits
    if ex = 0 then .fin neg fr (1 - (f.bias : Int) - f.mbits)
    else .fin neg (2 ^ f.mbits + fr) ((ex : Int) - f.bias - f.mbits)

/-- A rounding mode (R104, R105); stochastic rounding holds its 32-bit draw. -/
inductive Rnd where
  | rne
  | rtz
  | sr (u : Nat)
  deriving DecidableEq, Repr

/-- Whether a magnitude with integer part `q` and fraction `r / 2^k` is rounded away from zero (R104, R105). -/
def roundsUp (rnd : Rnd) (q r k : Nat) : Bool :=
  match rnd with
  | .rne => 2 * r > 2 ^ k || (2 * r = 2 ^ k && q % 2 = 1)
  | .rtz => false
  | .sr u => u < r * 2 ^ 32 / 2 ^ k

/-- The magnitude m × 2^e in units of 2^qe: the rounded number of units, and whether it is exact. -/
def roundUnits (rnd : Rnd) (m : Nat) (e qe : Int) : Nat × Bool :=
  if qe ≤ e then (m * 2 ^ (e - qe).toNat, true)
  else
    let k := (qe - e).toNat
    if k > Nat.log2 m + 40 then (0, m = 0)
    else
    let q := m / 2 ^ k
    let r := m % 2 ^ k
    if r = 0 then (q, true) else (if roundsUp rnd q r k then q + 1 else q, false)

/-- The pattern of a number of units of 2^qe, where `qe` is at least that of the subnormals. -/
def unitsPat (f : Fmt) (q : Nat) (qe : Int) : Nat :=
  if q < 2 ^ f.mbits then q
  else
    let ex := (qe + f.mbits + f.bias).toNat
    (ex - 1) * 2 ^ f.mbits + q

/-- The sign bit put on a magnitude pattern. -/
def withSign (f : Fmt) (neg : Bool) (mag : Nat) : Nat := if neg then f.signBit + mag else mag

/-- `RoundTo` of ± m × 2^e (R104–R107): the pattern and the flags `NX`, `OF`, `UF` (R93). -/
def roundTo (f : Fmt) (rnd : Rnd) (neg : Bool) (m : Nat) (e : Int) : Nat × BitVec 6 :=
  if m = 0 then (withSign f neg 0, 0)
  else
    let top : Int := (Nat.log2 m : Int) + e
    let emin : Int := 1 - (f.bias : Int)
    let grid : Int := (max top emin) - f.mbits
    let maxUnits := roundUnits .rtz m e (max top emin - f.mbits)
    let above := maxUnits.1 ≥ 2 ^ f.mbits && unitsPat f maxUnits.1 grid ≥ f.maxPat &&
      (unitsPat f maxUnits.1 grid > f.maxPat || !maxUnits.2)
    let rnd' := match rnd with
      | .sr u => if above then Rnd.rne else .sr u
      | r => r
    let r := roundUnits rnd' m e grid
    let pat := unitsPat f r.1 grid
    if pat > f.maxPat then
      let big := match rnd' with
        | .rtz => f.maxPat
        | _ => if f.hasInf then f.infPat else f.maxPat
      (withSign f neg big, flOF ||| flNX)
    else
      let free := roundUnits rnd' m e (top - f.mbits)
      let tiny := top < emin && (top < emin - 1 || free.1 < 2 ^ (f.mbits + 1))
      (withSign f neg pat, if r.2 then 0 else if tiny then flUF ||| flNX else flNX)

/-- The canonical NaN (R99). -/
def nanOf (f : Fmt) : Nat := f.nanPat

/-- A value put in a format by an arithmetic operation. -/
def encodeF (f : Fmt) (rnd : Rnd) : FVal → Nat × BitVec 6
  | .nan => (nanOf f, 0)
  | .inf neg => (withSign f neg f.infPat, 0)
  | .fin neg m e => roundTo f rnd neg m e

/-- The signed number that stands for ± m × 2^e in units of 2^x, x ≤ e. -/
def scaled (neg : Bool) (m : Nat) (e x : Int) : Int :=
  if neg then -((m * 2 ^ (e - x).toNat : Nat) : Int) else ((m * 2 ^ (e - x).toNat : Nat) : Int)

/-- The exact sum of two values, and the flags of its special cases (R151). -/
def fsum (a b : FVal) : FVal × BitVec 6 :=
  match a, b with
  | .nan, _ => (.nan, 0)
  | _, .nan => (.nan, 0)
  | .inf x, .inf y => if x = y then (.inf x, 0) else (.nan, flIV)
  | .inf x, .fin _ _ _ => (.inf x, 0)
  | .fin _ _ _, .inf y => (.inf y, 0)
  | .fin x m e, .fin y n g =>
    let q := min e g
    let t := scaled x m e q + scaled y n g q
    if t = 0 then (.fin (x && y) 0 q, 0) else (.fin (t < 0) t.natAbs q, 0)

/-- The exact product of two values, and the flags of its special cases (R151). -/
def fprod (a b : FVal) : FVal × BitVec 6 :=
  match a, b with
  | .nan, _ => (.nan, 0)
  | _, .nan => (.nan, 0)
  | .inf x, .inf y => (.inf (x != y), 0)
  | .inf x, .fin y n _ => if n = 0 then (.nan, flIV) else (.inf (x != y), 0)
  | .fin x m _, .inf y => if m = 0 then (.nan, flIV) else (.inf (x != y), 0)
  | .fin x m e, .fin y n g => (.fin (x != y) (m * n) (e + g), 0)

/-- A result rounded, with the flags of its special case. -/
def finish (f : Fmt) (v : FVal × BitVec 6) : Nat × BitVec 6 :=
  let r := encodeF f .rne v.1
  (r.1, r.2 ||| v.2)

/-- Addition (R150, R151). -/
def fAdd (f : Fmt) (a b : Nat) : Nat × BitVec 6 := finish f (fsum (fval f a) (fval f b))
/-- The value with its sign inverted. -/
def FVal.neg : FVal → FVal
  | .nan => .nan
  | .inf x => .inf (!x)
  | .fin x m e => .fin (!x) m e
/-- Subtraction. -/
def fSub (f : Fmt) (a b : Nat) : Nat × BitVec 6 := finish f (fsum (fval f a) (fval f b).neg)
/-- Multiplication. -/
def fMul (f : Fmt) (a b : Nat) : Nat × BitVec 6 := finish f (fprod (fval f a) (fval f b))
/-- d + a × b with one rounding; 0 × ∞ sets `IV` whatever the addend (R151). -/
def fFma (f : Fmt) (d a b : Nat) : Nat × BitVec 6 :=
  let p := fprod (fval f a) (fval f b)
  let r := fsum (fval f d) p.1
  finish f (r.1, r.2 ||| p.2)

/-- Division (R150, R151): the quotient to more bits than the format holds, with a sticky bit. -/
def fDiv (f : Fmt) (a b : Nat) : Nat × BitVec 6 :=
  match fval f a, fval f b with
  | .nan, _ => (nanOf f, 0)
  | _, .nan => (nanOf f, 0)
  | .inf _, .inf _ => (nanOf f, flIV)
  | .inf x, .fin y _ _ => (withSign f (x != y) f.infPat, 0)
  | .fin x _ _, .inf y => (withSign f (x != y) 0, 0)
  | .fin x m e, .fin y n g =>
    if n = 0 then (if m = 0 then (nanOf f, flIV) else (withSign f (x != y) f.infPat, flDZ))
    else if m = 0 then (withSign f (x != y) 0, 0)
    else
      let k := 2 * f.mbits + 8
      let q := m * 2 ^ k / n
      let q' := 2 * q + (if m * 2 ^ k % n = 0 then 0 else 1)
      roundTo f .rne (x != y) q' (e - g - k - 1)

/-- The square root (R150, R151). -/
def fSqrt (f : Fmt) (a : Nat) : Nat × BitVec 6 :=
  match fval f a with
  | .nan => (nanOf f, 0)
  | .inf true => (nanOf f, flIV)
  | .inf false => (f.infPat, 0)
  | .fin x m e =>
    if m = 0 then (withSign f x 0, 0)
    else if x then (nanOf f, flIV)
    else
      let k := 2 * f.mbits + 8
      let j := if (e % 2 = 0) then 2 * k else 2 * k + 1
      let n := m * 2 ^ j
      let q := Nat.sqrt n
      roundTo f .rne false (2 * q + (if q * q = n then 0 else 1)) ((e - j) / 2 - 1)

/-- The order of two values that are no NaN, −0 below +0 where `zeros` says so. -/
def fless (zeros : Bool) (a b : FVal) : Bool :=
  match a, b with
  | .nan, _ => false
  | _, .nan => false
  | .inf x, .inf y => x && !y
  | .inf x, .fin _ _ _ => x
  | .fin _ _ _, .inf y => !y
  | .fin x m e, .fin y n g =>
    let q := min e g
    let s := scaled x m e q
    let t := scaled y n g q
    s < t || (zeros && m = 0 && n = 0 && x && !y)

/-- Equality of values: +0 equals −0, and a NaN equals nothing (R152). -/
def feq (a b : FVal) : Bool := a ≠ .nan && b ≠ .nan && !fless false a b && !fless false b a

/-- Whether a value is NaN. -/
def FVal.isNan : FVal → Bool
  | .nan => true
  | .inf _ => false
  | .fin _ _ _ => false

/-- The smaller operand, −0 < +0; a NaN operand gives NaN (R150). -/
def fMin (f : Fmt) (a b : Nat) : Nat :=
  if (fval f a).isNan || (fval f b).isNan then nanOf f
  else if fless true (fval f b) (fval f a) then b % 2 ^ f.width else a % 2 ^ f.width
@[inherit_doc fMin] def fMax (f : Fmt) (a b : Nat) : Nat :=
  if (fval f a).isNan || (fval f b).isNan then nanOf f
  else if fless true (fval f a) (fval f b) then b % 2 ^ f.width else a % 2 ^ f.width

/-! ## Conversions (R106) -/

/-- A value converted to a floating format. -/
def toFloat (f : Fmt) (rnd : Rnd) (v : FVal) : Nat × BitVec 6 :=
  match v with
  | .nan => if f.ebits = 2 then (0, flIV) else (nanOf f, 0)
  | .inf neg => if f.hasInf then (withSign f neg f.infPat, 0) else (withSign f neg f.maxPat, flIV)
  | .fin neg m e => roundTo f rnd neg m e

/-- The bounds of a signed integer of `k` bits. -/
def intMax (k : Nat) : Int := 2 ^ (k - 1) - 1
@[inherit_doc intMax] def intMin (k : Nat) : Int := -(2 ^ (k - 1))

/-- A number brought within the signed range of `k` bits: beyond it, the nearest bound and `IV` (R106). -/
def clampInt (k : Nat) (n : Int) : Int × BitVec 6 :=
  if n > intMax k then (intMax k, flIV) else if n < intMin k then (intMin k, flIV) else (n, 0)

/-- A value converted to a signed integer of `k` bits (R106): it is rounded to an integer, stochastically too, and then brought within the
range (R105; DESIGN CHOICE for what lies just beyond a bound, log 99). -/
def toInt (k : Nat) (rnd : Rnd) (v : FVal) : Int × BitVec 6 :=
  match v with
  | .nan => (0, flIV)
  | .inf neg => (if neg then intMin k else intMax k, flIV)
  | .fin neg m e =>
    let r := roundUnits rnd m e 0
    let n : Int := if neg then -(r.1 : Int) else r.1
    let c := clampInt k n
    (c.1, if c.2 ≠ 0 then c.2 else if r.2 then 0 else flNX)

/-- The value of an integer. -/
def ofInt (n : Int) : FVal := .fin (n < 0) n.natAbs 0

/-- The floating format of a VEC type code (R24). -/
def fmtOfType (t : Nat) : Fmt :=
  match t with
  | 3 => fp32
  | 4 => bf16
  | 5 => fp16
  | 6 => e4m3
  | _ => e5m2

/-- The pattern of a floating immediate in a format (R30): a BF16 pattern, a small integer, or an FP32 pattern; narrowed
with RNE and saturating, an infinity kept, no flag. -/
def immFloat {n : Nat} (f : Fmt) (o : Opnd n) : Nat :=
  let v := match o with
    | .fld _ => FVal.fin false 0 0
    | .ext1 e =>
      if e.toNat / 2 ^ 16 = 0 then fval bf16 (e.toNat % 2 ^ 16) else ofInt (signedOf 6 e.toNat)
    | .ext2 e g => fval fp32 ((g.toNat * 2 ^ 28 + e.toNat) % 2 ^ 32)
  match v with
  | .nan => nanOf f
  | .inf neg => withSign f neg f.infPat
  | .fin neg m e =>
    let r := (roundTo f .rne neg m e).1
    if r % f.signBit = f.infPat then withSign f neg f.maxPat else r

/-- Whether an operand stands in the syllable's own field. -/
def isFieldOpnd {n : Nat} : Opnd n → Bool
  | .fld _ => true
  | .ext1 _ => false
  | .ext2 _ _ => false

end Sys2Proof.Machine
end

