-- ==== Sys2Proof/Machine/Scalar.lean ====
section
/-! DEFINITION. The scalar integer instructions, the predicates, the island and the generator (R135–R149, R155). -/

namespace Sys2Proof.Machine

/-- A scalar syllable that writes its results after its latency (R135). -/
def scalarSyl (p : BitVec 4) (r : Regs) (src : Src) (lat : Nat) (f : State → List RegWrite × BitVec 6) : Syl :=
  { cls := 1, guard := p, regs := r,
    wait := fun s =>
      if src ≠ .scalar && s.me.flights.any (fun g => g.id < s.iss.mark && g.src = src) then .stall else .go,
    act := fun s => s.fly s.cur src lat (f s).1 (f s).2 none }

/-- The registers of Form A: d written, a and b read. -/
def regsA (d a b : BitVec 6) : Regs := { xr := [a, b], xw := [d] }

/-- A three-register operation without flags (R137). -/
def aluSyl (p : BitVec 4) (d a b : BitVec 6) (lat : Nat) (f : Word → Word → Word) : Syl :=
  scalarSyl p (regsA d a b) .scalar lat (fun s => ([.x d (f (s.rx a) (s.rx b))], 0))

/-- A register-immediate operation without flags (R140). -/
def immSyl (p : BitVec 4) (d a : BitVec 6) (f : Word → Word) : Syl :=
  scalarSyl p { xr := [a], xw := [d] } .scalar 1 (fun s => ([.x d (f (s.rx a))], 0))

/-- The predicate writes of a comparison result by the mode of Form C (R19, R144). -/
def cmpWrites (s : State) (q : BitVec 4) (m : BitVec 2) (c : Bool) : List RegWrite :=
  match m.toNat with
  | 0 => [.p q c]
  | 1 => [.p q c, .p (q + 1) (!c)]
  | 2 => [.p q (s.rp q && c)]
  | _ => [.p q (s.rp q || c)]

/-- The predicates that Form C reads and writes. -/
def cmpRegs (q : BitVec 4) (m : BitVec 2) (xr : List (BitVec 6)) (pr : List (BitVec 4)) : Regs :=
  { xr := xr, pr := (if m.toNat < 2 then pr else q :: pr), pw := (if m = 1 then [q, q + 1] else [q]) }

/-- A compare of two registers (R144). -/
def cmpSyl (p q : BitVec 4) (m : BitVec 2) (a b : BitVec 6) (f : Word → Word → Bool) : Syl :=
  scalarSyl p (cmpRegs q m [a, b] []) .scalar 1 (fun s => (cmpWrites s q m (f (s.rx a) (s.rx b)), 0))

/-- A compare with an immediate (R144). -/
def cmpiSyl (p q : BitVec 4) (m : BitVec 2) (a : BitVec 6) (f : Word → Bool) : Syl :=
  scalarSyl p (cmpRegs q m [a] []) .scalar 1 (fun s => (cmpWrites s q m (f (s.rx a)), 0))

/-- A predicate operation (R145). -/
def predSyl (p q : BitVec 4) (m : BitVec 2) (na : BitVec 1) (a : BitVec 4) (nb : BitVec 1) (b : BitVec 4)
    (f : Bool → Bool → Bool) : Syl :=
  scalarSyl p (cmpRegs q m [] [a, b]) .scalar 1 (fun s =>
    (cmpWrites s q m (f (s.rp a ^^ na = 1) (s.rp b ^^ nb = 1)), 0))

/-- Shifts by a count read from all 64 bits, unsigned (R138). -/
def shl64 (a : Word) (n : Nat) : Word := if n < 64 then a <<< n else 0
@[inherit_doc shl64] def shr64 (a : Word) (n : Nat) : Word := if n < 64 then a >>> n else 0
@[inherit_doc shl64] def sar64 (a : Word) (n : Nat) : Word := a.sshiftRight (min n 63)

/-- The quotient and remainder of R139 with their flags. -/
def divS (a b : Word) : Word × BitVec 6 :=
  if b = 0 then (intWord (-1), flDZ)
  else if a.toInt = -(2 ^ 63) ∧ b.toInt = -1 then (a, flOF)
  else (intWord (a.toInt.tdiv b.toInt), 0)
@[inherit_doc divS] def divU (a b : Word) : Word × BitVec 6 :=
  if b = 0 then (intWord (-1), flDZ) else (toWord (a.toNat / b.toNat), 0)
@[inherit_doc divS] def remS (a b : Word) : Word × BitVec 6 :=
  if b = 0 then (a, flDZ)
  else if a.toInt = -(2 ^ 63) ∧ b.toInt = -1 then (0, 0)
  else (intWord (a.toInt.tmod b.toInt), 0)

/-- A division, one at a time as a group (R135, R139). -/
def divSyl (p : BitVec 4) (d a b : BitVec 6) (f : Word → Word → Word × BitVec 6) : Syl :=
  scalarSyl p (regsA d a b) .divide 20 (fun s =>
    ([.x d (f (s.rx a) (s.rx b)).1], (f (s.rx a) (s.rx b)).2))

/-- The field descriptor of R143: position and effective length. -/
def fieldOf (b : Word) : Nat × Nat := (wbits b 0 6, min (wbits b 6 6 + 1) (64 - wbits b 0 6))

/-- Leading and trailing zero bits of the low `k` bits (R142). -/
def leadingZeros : Nat → Nat → Nat
  | 0, _ => 0
  | k + 1, n => if n.testBit k then 0 else leadingZeros k n + 1
@[inherit_doc leadingZeros] def trailingZeros : Nat → Nat → Nat
  | 0, _ => 0
  | k + 1, n => if n % 2 = 1 then 0 else trailingZeros k (n / 2) + 1

/-- The outputs of the island's cells in ascending order (R146): `outs` holds those of the cells below. -/
def islandFrom (a b : Word) (outs : List Bool) : List Cell → List Bool
  | [] => outs
  | c :: cs =>
    let input := fun (sel : BitVec 8) =>
      if sel.toNat < 64 then a.getLsbD sel.toNat
      else if sel.toNat < 128 then b.getLsbD (sel.toNat - 64)
      else outs.getD (sel.toNat - 128) false
    let ix := (List.range 4).foldl (fun n k => n + bit (input (c.sel.toList.getD k 0)) * 2 ^ k) 0
    islandFrom a b (outs ++ [c.truth.getLsbD ix]) cs

/-- The result of `LUT` (R147): bit i is the output of cell 64 + i. -/
def islandResult (cells : List Cell) (a b : Word) : Word :=
  toWord (packLanes 1 ((islandFrom a b [] cells).drop 64 |>.map bit))

/-- The parameters of `UNPK` and `PACKB` (R148): start, width, count. -/
def unpkParams (b : Word) : Nat × Nat × Nat := (wbits b 0 7, wbits b 8 3 + 1, wbits b 12 3 + 1)

/-- `UNPK` (R148): `n` elements of `w` bits from bit `o` of the 128-bit stream, one to a byte. -/
def unpk (hi lo b : Word) : Word :=
  let q := unpkParams b
  let stream := hi.toNat * 2 ^ 64 + lo.toNat
  toWord (packLanes 8 ((List.range 8).map (fun i => if i < q.2.2 then bitsAt stream (q.1 + q.2.1 * i) q.2.1 else 0)))

/-- `PACKB` (R149). -/
def packb (a b : Word) : Word :=
  let q := unpkParams b
  toWord (packLanes q.2.1 ((List.range q.2.2).map (fun i => wbits a (8 * i) q.2.1)))

/-- The generator G of R115, all arithmetic modulo 2^64. -/
def genDraw (seed ctr : Word) : Word :=
  let z0 := (seed ^^^ 0x6A09E667F3BCC908) + ctr * 0x9E3779B97F4A7C15
  let z1 := (z0 ^^^ (z0 >>> 30)) * 0xBF58476D1CE4E5B9
  let z2 := (z1 ^^^ (z1 >>> 27)) * 0x94D049BB133111EB
  z2 ^^^ (z2 >>> 31)

/-- The counter advances by the number of draws (R116). -/
def State.advanceCtr (s : State) (n : Nat) : State :=
  s.modMe (fun c => c.modCr (fun r => { r with ctrbase := r.ctrbase + toWord n }))

/-- `ADD` (R137) -/
def execAdd (p : BitVec 4) (d a b : BitVec 6) (s : State) : Out :=
  issue (aluSyl p d a b 1 (fun x y => x + y)) s

/-- `SUB` (R137) -/
def execSub (p : BitVec 4) (d a b : BitVec 6) (s : State) : Out :=
  issue (aluSyl p d a b 1 (fun x y => x - y)) s

/-- `MUL` (R137) -/
def execMul (p : BitVec 4) (d a b : BitVec 6) (s : State) : Out :=
  issue (aluSyl p d a b 3 (fun x y => x * y)) s

/-- `MULH`: the upper half of the signed product (R137) -/
def execMulh (p : BitVec 4) (d a b : BitVec 6) (s : State) : Out :=
  issue (aluSyl p d a b 3 (fun x y => intWord ((x.toInt * y.toInt).fdiv (2 ^ 64)))) s

/-- `MULH.N`: the upper half of the unsigned product (R137) -/
def execMulhN (p : BitVec 4) (d a b : BitVec 6) (s : State) : Out :=
  issue (aluSyl p d a b 3 (fun x y => toWord (x.toNat * y.toNat / 2 ^ 64))) s

/-- `AND` (R137) -/
def execAnd (p : BitVec 4) (d a b : BitVec 6) (s : State) : Out :=
  issue (aluSyl p d a b 1 (fun x y => x &&& y)) s

/-- `OR` (R137) -/
def execOr (p : BitVec 4) (d a b : BitVec 6) (s : State) : Out :=
  issue (aluSyl p d a b 1 (fun x y => x ||| y)) s

/-- `XOR` (R137) -/
def execXor (p : BitVec 4) (d a b : BitVec 6) (s : State) : Out :=
  issue (aluSyl p d a b 1 (fun x y => x ^^^ y)) s

/-- `ANDN` (R137) -/
def execAndn (p : BitVec 4) (d a b : BitVec 6) (s : State) : Out :=
  issue (aluSyl p d a b 1 (fun x y => x &&& ~~~y)) s

/-- `SHL` (R138) -/
def execShl (p : BitVec 4) (d a b : BitVec 6) (s : State) : Out :=
  issue (aluSyl p d a b 1 (fun x y => shl64 x y.toNat)) s

/-- `SHR` (R138) -/
def execShr (p : BitVec 4) (d a b : BitVec 6) (s : State) : Out :=
  issue (aluSyl p d a b 1 (fun x y => shr64 x y.toNat)) s

/-- `SAR` (R138) -/
def execSar (p : BitVec 4) (d a b : BitVec 6) (s : State) : Out :=
  issue (aluSyl p d a b 1 (fun x y => sar64 x y.toNat)) s

/-- `MIN`, signed (R137) -/
def execMin (p : BitVec 4) (d a b : BitVec 6) (s : State) : Out :=
  issue (aluSyl p d a b 1 (fun x y => if x.toInt ≤ y.toInt then x else y)) s

/-- `MAX`, signed (R137) -/
def execMax (p : BitVec 4) (d a b : BitVec 6) (s : State) : Out :=
  issue (aluSyl p d a b 1 (fun x y => if x.toInt ≤ y.toInt then y else x)) s

/-- `MIN.N`, unsigned (R137) -/
def execMinN (p : BitVec 4) (d a b : BitVec 6) (s : State) : Out :=
  issue (aluSyl p d a b 1 (fun x y => if x.toNat ≤ y.toNat then x else y)) s

/-- `MAX.N`, unsigned (R137) -/
def execMaxN (p : BitVec 4) (d a b : BitVec 6) (s : State) : Out :=
  issue (aluSyl p d a b 1 (fun x y => if x.toNat ≤ y.toNat then y else x)) s

/-- `DIV` (R139) -/
def execDiv (p : BitVec 4) (d a b : BitVec 6) (s : State) : Out :=
  issue (divSyl p d a b divS) s

/-- `DIV.N` (R139) -/
def execDivN (p : BitVec 4) (d a b : BitVec 6) (s : State) : Out :=
  issue (divSyl p d a b divU) s

/-- `REM` (R139) -/
def execRem (p : BitVec 4) (d a b : BitVec 6) (s : State) : Out :=
  issue (divSyl p d a b remS) s

/-- `ADDI`, the immediate sign-extended (R140) -/
def execAddi (p : BitVec 4) (d a : BitVec 6) (i : Opnd 6) (s : State) : Out :=
  issue (immSyl p d a (fun x => x + intWord (immSigned i))) s

/-- `ANDI`, zero-extended (R140) -/
def execAndi (p : BitVec 4) (d a : BitVec 6) (i : Opnd 6) (s : State) : Out :=
  issue (immSyl p d a (fun x => x &&& toWord (immUnsigned i))) s

/-- `ORI`, zero-extended (R140) -/
def execOri (p : BitVec 4) (d a : BitVec 6) (i : Opnd 6) (s : State) : Out :=
  issue (immSyl p d a (fun x => x ||| toWord (immUnsigned i))) s

/-- `XORI`, zero-extended (R140) -/
def execXori (p : BitVec 4) (d a : BitVec 6) (i : Opnd 6) (s : State) : Out :=
  issue (immSyl p d a (fun x => x ^^^ toWord (immUnsigned i))) s

/-- `SHLI`, by 0 to 63 (R140) -/
def execShli (p : BitVec 4) (d a i : BitVec 6) (s : State) : Out :=
  issue (immSyl p d a (fun x => shl64 x i.toNat)) s

/-- `SHRI`, by 0 to 63 (R140) -/
def execShri (p : BitVec 4) (d a i : BitVec 6) (s : State) : Out :=
  issue (immSyl p d a (fun x => shr64 x i.toNat)) s

/-- `SARI`, by 0 to 63 (R140) -/
def execSari (p : BitVec 4) (d a i : BitVec 6) (s : State) : Out :=
  issue (immSyl p d a (fun x => sar64 x i.toNat)) s

/-- `LI` (R140) -/
def execLi (p : BitVec 4) (d : BitVec 6) (i : Opnd 6) (s : State) : Out :=
  issue (scalarSyl p { xw := [d] } .scalar 1 (fun _ => ([.x d (intWord (immSigned i))], 0))) s

/-- `SEL`: the `PRED` field selects and does not guard (R141) -/
def execSel (p : BitVec 4) (d a b : BitVec 6) (s : State) : Out :=
  issue (scalarSyl 0 { xr := [a, b], xw := [d], pr := [p] } .scalar 1
    (fun s => ([.x d (if s.rp p then s.rx a else s.rx b)], 0))) s

/-- `CLZ` (R142) -/
def execClz (p : BitVec 4) (d a : BitVec 6) (s : State) : Out :=
  issue (immSyl p d a (fun x => toWord (leadingZeros 64 x.toNat))) s

/-- `CTZ` (R142) -/
def execCtz (p : BitVec 4) (d a : BitVec 6) (s : State) : Out :=
  issue (immSyl p d a (fun x => toWord (trailingZeros 64 x.toNat))) s

/-- `POPC` (R142) -/
def execPopc (p : BitVec 4) (d a : BitVec 6) (s : State) : Out :=
  issue (immSyl p d a (fun x => toWord (popCount 64 x.toNat))) s

/-- `EXT`: a field, sign-extended (R143) -/
def execExtract (p : BitVec 4) (d a b : BitVec 6) (s : State) : Out :=
  issue (aluSyl p d a b 1 (fun x y =>
    intWord (signedOf (fieldOf y).2 (x.toNat / 2 ^ (fieldOf y).1)))) s

/-- `EXT.N`: a field, zero-extended (R143) -/
def execExtractN (p : BitVec 4) (d a b : BitVec 6) (s : State) : Out :=
  issue (aluSyl p d a b 1 (fun x y => toWord (wbits x (fieldOf y).1 (fieldOf y).2))) s

/-- `INS` (R143) -/
def execInsert (p : BitVec 4) (d a b : BitVec 6) (s : State) : Out :=
  issue (scalarSyl p { xr := [a, b, d], xw := [d] } .scalar 1 (fun s =>
    ([.x d (wput (s.rx d) (fieldOf (s.rx b)).1 (fieldOf (s.rx b)).2 (s.rx a).toNat)], 0))) s

/-- `UNPK` (R148): register 64 does not exist, so an a field of 63 raises illegal operand type. -/
def execUnpk (p : BitVec 4) (d a b : BitVec 6) (s : State) : Out :=
  issue { scalarSyl p { xr := [a, a + 1, b], xw := [d] } .scalar 1 (fun s =>
    ([.x d (unpk (s.rx (a + 1)) (s.rx a) (s.rx b))], 0)) with typeOk := a ≠ 63 } s

/-- `PACKB` (R149) -/
def execPackb (p : BitVec 4) (d a b : BitVec 6) (s : State) : Out :=
  issue (aluSyl p d a b 1 packb) s

/-- `LUT` (R147); a supervisor core has no island (R341). -/
def execLut (p : BitVec 4) (d a b : BitVec 6) (s : State) : Out :=
  issue { scalarSyl p (regsA d a b) .scalar 2 (fun s =>
    ([.x d (islandResult s.me.island.toList (s.rx a) (s.rx b))], 0)) with typeOk := !isSup s.cur } s

/-- `CMP.EQ` (R144) -/
def execCmpEq (p q : BitVec 4) (m : BitVec 2) (a b : BitVec 6) (s : State) : Out :=
  issue (cmpSyl p q m a b (fun x y => x = y)) s

/-- `CMP.NE` (R144) -/
def execCmpNe (p q : BitVec 4) (m : BitVec 2) (a b : BitVec 6) (s : State) : Out :=
  issue (cmpSyl p q m a b (fun x y => x ≠ y)) s

/-- `CMP.LT` (R144) -/
def execCmpLt (p q : BitVec 4) (m : BitVec 2) (a b : BitVec 6) (s : State) : Out :=
  issue (cmpSyl p q m a b (fun x y => x.toInt < y.toInt)) s

/-- `CMP.GE` (R144) -/
def execCmpGe (p q : BitVec 4) (m : BitVec 2) (a b : BitVec 6) (s : State) : Out :=
  issue (cmpSyl p q m a b (fun x y => y.toInt ≤ x.toInt)) s

/-- `CMP.LTN` (R144) -/
def execCmpLtn (p q : BitVec 4) (m : BitVec 2) (a b : BitVec 6) (s : State) : Out :=
  issue (cmpSyl p q m a b (fun x y => x.toNat < y.toNat)) s

/-- `CMP.GEN` (R144) -/
def execCmpGen (p q : BitVec 4) (m : BitVec 2) (a b : BitVec 6) (s : State) : Out :=
  issue (cmpSyl p q m a b (fun x y => y.toNat ≤ x.toNat)) s

/-- `CMPI.EQ`, the immediate sign-extended (R144) -/
def execCmpiEq (p q : BitVec 4) (m : BitVec 2) (a : BitVec 6) (i : Opnd 6) (s : State) : Out :=
  issue (cmpiSyl p q m a (fun x => x.toInt = (intWord (immSigned i)).toInt)) s

/-- `CMPI.LT`, the immediate sign-extended (R144) -/
def execCmpiLt (p q : BitVec 4) (m : BitVec 2) (a : BitVec 6) (i : Opnd 6) (s : State) : Out :=
  issue (cmpiSyl p q m a (fun x => x.toInt < (intWord (immSigned i)).toInt)) s

/-- `CMPI.GE`, the immediate sign-extended (R144) -/
def execCmpiGe (p q : BitVec 4) (m : BitVec 2) (a : BitVec 6) (i : Opnd 6) (s : State) : Out :=
  issue (cmpiSyl p q m a (fun x => (intWord (immSigned i)).toInt ≤ x.toInt)) s

/-- `PAND` (R145) -/
def execPand (p q : BitVec 4) (m : BitVec 2) (na : BitVec 1) (a : BitVec 4) (nb : BitVec 1) (b : BitVec 4) (s : State) : Out :=
  issue (predSyl p q m na a nb b (fun x y => x && y)) s

/-- `POR` (R145) -/
def execPor (p q : BitVec 4) (m : BitVec 2) (na : BitVec 1) (a : BitVec 4) (nb : BitVec 1) (b : BitVec 4) (s : State) : Out :=
  issue (predSyl p q m na a nb b (fun x y => x || y)) s

/-- `PXOR` (R145) -/
def execPxor (p q : BitVec 4) (m : BitVec 2) (na : BitVec 1) (a : BitVec 4) (nb : BitVec 1) (b : BitVec 4) (s : State) : Out :=
  issue (predSyl p q m na a nb b (fun x y => x ^^ y)) s

/-- `RNG` (R155): one draw, and the counter advances by one. -/
def execRng (p : BitVec 4) (d : BitVec 6) (s : State) : Out :=
  issue { cls := 1, guard := p, regs := { xw := [d] },
          act := fun s => (s.fly s.cur .scalar 2 [.x d (genDraw s.me.cr.seed s.me.cr.ctrbase)] 0 none).advanceCtr 1 } s

end Sys2Proof.Machine
end

