-- ==== Sys2Proof/Machine/ScalarFp.lean ====
section
/-! DEFINITION. The scalar floating-point instructions (R150–R154). -/

namespace Sys2Proof.Machine

/-- Operand b of a floating syllable: a register, or the immediate of R30 in the operation's format. -/
def fpOperand (s : State) (f : Fmt) (b : Opnd 6) : Nat :=
  match b with
  | .fld r => (s.rx r).toNat
  | .ext1 _ => immFloat f b
  | .ext2 _ _ => immFloat f b

/-- The register that operand b names, if it names one. -/
def fpReg : Opnd 6 → List (BitVec 6)
  | .fld r => [r]
  | .ext1 _ => []
  | .ext2 _ _ => []

/-- A floating operation of two operands in format `f` (R79, R150). -/
def fpSyl (f : Fmt) (p : BitVec 4) (d a : BitVec 6) (b : Opnd 6) (lat : Nat) (g : Nat → Nat → Nat × BitVec 6) : Syl :=
  scalarSyl p { xr := a :: fpReg b, xw := [d] } .scalar lat (fun s =>
    let r := g (s.rx a).toNat (fpOperand s f b)
    ([.x d (toWord r.1)], r.2))

/-- A fused multiply-add: the destination is the addend (R150). -/
def fmaSyl (f : Fmt) (p : BitVec 4) (d a : BitVec 6) (b : Opnd 6) (lat : Nat) : Syl :=
  scalarSyl p { xr := d :: a :: fpReg b, xw := [d] } .scalar lat (fun s =>
    let r := fFma f (s.rx d).toNat (s.rx a).toNat (fpOperand s f b)
    ([.x d (toWord r.1)], r.2))

/-- A floating compare (R152). -/
def fcmpSyl (p q : BitVec 4) (m : BitVec 2) (a : BitVec 6) (b : Opnd 6) (g : FVal → FVal → Bool) : Syl :=
  scalarSyl p (cmpRegs q m (a :: fpReg b) []) .scalar 2 (fun s =>
    (cmpWrites s q m (g (fval fp32 (s.rx a).toNat) (fval fp32 (fpOperand s fp32 b))), 0))

/-- The rounding that a two-bit rounding field chooses, and whether it draws (R104, R153): 0 is `MODE.CVRND`. -/
def rndCode (cvrnd : BitVec 2) (k : Nat) : Nat := if k = 0 then cvrnd.toNat else k - 1

/-- The rounding mode of a code 0 RNE, 1 RTZ, 2 SR, with the draw that SR uses (R105, R115). -/
def rndOf (code : Nat) (draw : Word) : Rnd :=
  match code with
  | 1 => .rtz
  | 2 => .sr (draw.toNat / 2 ^ 32)
  | _ => .rne

/-- `FCVT` (R153, R154): the result word and flags of a conversion selector. -/
def fcvtResult (c : Nat) (rnd : Rnd) (x : Word) : Word × BitVec 6 :=
  let n := x.toNat
  let ff := fun (a b : Fmt) => let r := toFloat b rnd (fval a n); (toWord r.1, r.2)
  let fi := fun (a : Fmt) (k : Nat) => let r := toInt k rnd (fval a n); (intWord r.1, r.2)
  let jf := fun (k : Nat) (b : Fmt) => let r := toFloat b rnd (ofInt (signedOf k n)); (toWord r.1, r.2)
  match c with
  | 0 => ff fp32 fp64
  | 1 => ff fp64 fp32
  | 2 => ff fp32 bf16
  | 3 => ff bf16 fp32
  | 4 => ff fp32 fp16
  | 5 => ff fp16 fp32
  | 6 => fi fp32 32
  | 7 => jf 32 fp32
  | 8 => fi fp64 64
  | 9 => jf 64 fp64
  | 10 => fi fp64 32
  | 11 => jf 32 fp64
  | 12 => fi fp32 64
  | _ => jf 64 fp32

/-- `FADD.S` (R150) -/
def execFaddS (p : BitVec 4) (d a : BitVec 6) (b : Opnd 6) (s : State) : Out :=
  issue (fpSyl fp32 p d a b 4 (fAdd fp32)) s

/-- `FADD.D` (R150) -/
def execFaddD (p : BitVec 4) (d a : BitVec 6) (b : Opnd 6) (s : State) : Out :=
  issue (fpSyl fp64 p d a b 5 (fAdd fp64)) s

/-- `FMUL.S` (R150) -/
def execFmulS (p : BitVec 4) (d a : BitVec 6) (b : Opnd 6) (s : State) : Out :=
  issue (fpSyl fp32 p d a b 4 (fMul fp32)) s

/-- `FMUL.D` (R150) -/
def execFmulD (p : BitVec 4) (d a : BitVec 6) (b : Opnd 6) (s : State) : Out :=
  issue (fpSyl fp64 p d a b 5 (fMul fp64)) s

/-- `FFMA.S` (R150) -/
def execFfmaS (p : BitVec 4) (d a : BitVec 6) (b : Opnd 6) (s : State) : Out :=
  issue (fmaSyl fp32 p d a b 4) s

/-- `FFMA.D` (R150) -/
def execFfmaD (p : BitVec 4) (d a : BitVec 6) (b : Opnd 6) (s : State) : Out :=
  issue (fmaSyl fp64 p d a b 5) s

/-- `FMIN.S` (R150) -/
def execFminS (p : BitVec 4) (d a : BitVec 6) (b : Opnd 6) (s : State) : Out :=
  issue (fpSyl fp32 p d a b 2 (fun x y => (fMin fp32 x y, 0))) s

/-- `FMAX.S` (R150) -/
def execFmaxS (p : BitVec 4) (d a : BitVec 6) (b : Opnd 6) (s : State) : Out :=
  issue (fpSyl fp32 p d a b 2 (fun x y => (fMax fp32 x y, 0))) s

/-- `FCMP.LT` (R152) -/
def execFcmpLt (p q : BitVec 4) (m : BitVec 2) (a : BitVec 6) (b : Opnd 6) (s : State) : Out :=
  issue (fcmpSyl p q m a b (fless false)) s

/-- `FCMP.EQ` (R152) -/
def execFcmpEq (p q : BitVec 4) (m : BitVec 2) (a : BitVec 6) (b : Opnd 6) (s : State) : Out :=
  issue (fcmpSyl p q m a b feq) s

/-- `FCVT` (R153, R154): a rounding that resolves to SR draws one value, whether or not the conversion is exact (R116). -/
def execFcvt (p : BitVec 4) (d a c : BitVec 6) (s : State) : Out :=
  issue { cls := 1, guard := p, regs := { xr := [a], xw := [d] }, act := fun s =>
    let code := rndCode s.me.cr.cvrnd (c.toNat / 16)
    let r := fcvtResult (c.toNat % 16) (rndOf code (genDraw s.me.cr.seed s.me.cr.ctrbase)) (s.rx a)
    let s' := s.fly s.cur .scalar 3 [.x d r.1] r.2 none
    if code = 2 then s'.advanceCtr 1 else s' } s

/-- `FDIV.S`, one at a time with `FSQRT.S` (R135, R150) -/
def execFdivS (p : BitVec 4) (d a b : BitVec 6) (s : State) : Out :=
  issue (scalarSyl p (regsA d a b) .fdivide 12 (fun s =>
    let r := fDiv fp32 (s.rx a).toNat (s.rx b).toNat
    ([.x d (toWord r.1)], r.2))) s

/-- `FSQRT.S` (R150) -/
def execFsqrtS (p : BitVec 4) (d a : BitVec 6) (s : State) : Out :=
  issue (scalarSyl p { xr := [a], xw := [d] } .fdivide 12 (fun s =>
    let r := fSqrt fp32 (s.rx a).toNat
    ([.x d (toWord r.1)], r.2))) s

end Sys2Proof.Machine
end

