-- ==== Sys2Proof/Machine/Special.lean ====
section
/-! DEFINITION. The special functions of the vector unit (R168, R169). The coefficient tables are the integers nearest to
exact real values; they are computed here in fixed point with 192 fractional bits. -/

namespace Sys2Proof.Machine

/-- The fractional bits of the fixed point. -/
def fxBits : Nat := 192
/-- One, in fixed point. -/
def fxOne : Int := 2 ^ fxBits
/-- A product in fixed point. -/
def fxMul (a b : Int) : Int := (a * b).fdiv (2 ^ fxBits)
/-- A quotient in fixed point. -/
def fxDiv (a b : Int) : Int := (a * 2 ^ fxBits).fdiv b

/-- Terms of a series: `n` terms from number `k` on, the next term made from the last. -/
def fxSeries (next : Nat → Int → Int) (value : Nat → Int → Int) : Nat → Nat → Int → Int
  | 0, _, _ => 0
  | n + 1, k, t => value k t + fxSeries next value n (k + 1) (next k t)

/-- The exponential of an argument of magnitude at most one. -/
def fxExp (x : Int) : Int :=
  fxSeries (fun k t => (fxMul t x).fdiv (k + 1)) (fun _ t => t) 60 0 fxOne

/-- The inverse hyperbolic tangent of an argument of magnitude at most one half. -/
def fxAtanh (x : Int) : Int :=
  fxSeries (fun _ t => fxMul t (fxMul x x)) (fun k t => t.fdiv (2 * k + 1)) 110 0 x

/-- The natural logarithm of two. -/
def fxLn2 : Int := 2 * fxAtanh (fxDiv 1 3)

/-- The natural logarithm of 1 + m. -/
def fxLn1p (m : Int) : Int := 2 * fxAtanh (fxDiv m (2 * fxOne + m))

/-- The square root. -/
def fxSqrt (a : Int) : Int := (Nat.sqrt (a.toNat * 2 ^ fxBits) : Nat)

/-- The 64th power. -/
def fxPow64 (x : Int) : Int :=
  (List.range 6).foldl (fun y _ => fxMul y y) x

/-- The hyperbolic tangent of an argument from 0 to 10. -/
def fxTanh (y : Int) : Int :=
  let e := fxPow64 (fxExp ((2 * y).fdiv 64))
  fxDiv (e - fxOne) (e + fxOne)

/-- Which table an instruction uses (R169). -/
inductive SpTable where
  | exp2
  | log2
  | rcp
  | rsqEven
  | rsqOdd
  | tanh (s : Nat)
  deriving DecidableEq, Repr

/-- The point m = (2i + 1) / 256 of a table's entry (R168). -/
def spPoint (i : Nat) : Int := (2 * (i : Int) + 1) * 2 ^ (fxBits - 8)

/-- The values g(m), g′(m) and g″(m) of a table's function (R169). -/
def spValues (t : SpTable) (i : Nat) : Int × Int × Int :=
  let m := spPoint i
  match t with
  | .exp2 =>
    let g := fxExp (fxMul m fxLn2)
    (g, fxMul g fxLn2, fxMul (fxMul g fxLn2) fxLn2)
  | .log2 =>
    let d := fxMul fxLn2 (fxOne + m)
    (fxDiv (fxLn1p m) fxLn2, fxDiv fxOne d, -(fxDiv fxOne (fxMul d (fxOne + m))))
  | .rcp =>
    let r := fxDiv fxOne (fxOne + m)
    (r, -(fxMul r r), 2 * fxMul (fxMul r r) r)
  | .rsqEven =>
    let x := fxOne + m
    let g := fxDiv fxOne (fxSqrt x)
    (g, -((fxDiv g x).fdiv 2), (3 * fxDiv (fxDiv g x) x).fdiv 4)
  | .rsqOdd =>
    let x := 2 * fxOne + 2 * m
    let g := fxDiv fxOne (fxSqrt x)
    (g, -(fxDiv g x), 3 * fxDiv (fxDiv g x) x)
  | .tanh s =>
    let g := fxTanh ((s : Int) * fxOne + m)
    let h := fxOne - fxMul g g
    (g, h, -(2 * fxMul g h))

/-- The integer nearest to 2^k times a value. -/
def fxNearest (k : Nat) (x : Int) : Int := (x * 2 ^ k * 2 + fxOne).fdiv (2 * fxOne)

/-- The coefficients C0, C1 and C2 of a table's entry (R168). -/
def spCoeffs (t : SpTable) (i : Nat) : Int × Int × Int :=
  let v := spValues t i
  (fxNearest 31 v.1, fxNearest 31 v.2.1, fxNearest 30 v.2.2)

/-- The evaluation Y of R168 at f = n / 2^k, 0 ≤ f < 1: exact but for the two floors. -/
def spEval (t : SpTable) (n k : Nat) : Int :=
  let i := n * 128 / 2 ^ k
  let c := spCoeffs t i
  let d : Int := (n : Int) * 256 - (2 * (i : Int) + 1) * 2 ^ k
  let w : Int := 2 ^ (k + 8)
  c.1 + (c.2.1 * d).fdiv w + (c.2.2 * d * d).fdiv (w * w)

/-- A result rounded into the lane format: `OF` and `UF` only (R168). -/
def spRound (f : Fmt) (neg : Bool) (m : Nat) (e : Int) : Nat × BitVec 6 :=
  let r := roundTo f .rne neg m e
  (r.1, r.2 &&& (flOF ||| flUF))

/-- A signed result rounded into the lane format. -/
def spRoundInt (f : Fmt) (n : Int) (e : Int) : Nat × BitVec 6 := spRound f (n < 0) n.natAbs e

/-- A magnitude m × 2^e as 2^x × (1 + n / 2^k): x, n and k. -/
def spNorm (m : Nat) (e : Int) : Int × Nat × Nat :=
  let k := Nat.log2 m
  ((k : Int) + e, m - 2 ^ k, k)

/-- A value's integer part and its fraction as n / 2^k. -/
def spFloor (neg : Bool) (m : Nat) (e : Int) : Int × Nat × Nat :=
  let k := (-e).toNat
  let v : Int := if neg then -((m * 2 ^ e.toNat : Nat) : Int) else (m * 2 ^ e.toNat : Nat)
  (v.fdiv (2 ^ k), (v.fmod (2 ^ k)).toNat, k)

/-- `VEXP2` of one lane (R168, R169). -/
def spExp2 (f : Fmt) (x : Nat) : Nat × BitVec 6 :=
  match fval f x with
  | .nan => (nanOf f, 0)
  | .inf true => (0, 0)
  | .inf false => (f.infPat, 0)
  | .fin neg m e =>
    let q := spFloor neg m e
    if q.2.1 = 0 then spRound f false (2 ^ 31) (q.1 - 31) else spRoundInt f (spEval .exp2 q.2.1 q.2.2) (q.1 - 31)

/-- `VLOG2` of one lane. -/
def spLog2 (f : Fmt) (x : Nat) : Nat × BitVec 6 :=
  match fval f x with
  | .nan => (nanOf f, 0)
  | .inf true => (nanOf f, flIV)
  | .inf false => (f.infPat, 0)
  | .fin neg m e =>
    if m = 0 then (withSign f true f.infPat, flDZ)
    else if neg then (nanOf f, flIV)
    else
      let q := spNorm m e
      let y := if q.2.1 = 0 then 0 else spEval .log2 q.2.1 q.2.2
      spRoundInt f (q.1 * 2 ^ 31 + y) (-31)

/-- `VRCP` of one lane. -/
def spRcp (f : Fmt) (x : Nat) : Nat × BitVec 6 :=
  match fval f x with
  | .nan => (nanOf f, 0)
  | .inf neg => (withSign f neg 0, 0)
  | .fin neg m e =>
    if m = 0 then (withSign f neg f.infPat, flDZ)
    else
      let q := spNorm m e
      let y := if q.2.1 = 0 then 2 ^ 31 else spEval .rcp q.2.1 q.2.2
      spRound f neg y.toNat (-q.1 - 31)

/-- `VRSQ` of one lane. -/
def spRsq (f : Fmt) (x : Nat) : Nat × BitVec 6 :=
  match fval f x with
  | .nan => (nanOf f, 0)
  | .inf true => (nanOf f, flIV)
  | .inf false => (0, 0)
  | .fin neg m e =>
    if m = 0 then (withSign f neg f.infPat, flDZ)
    else if neg then (nanOf f, flIV)
    else
      let q := spNorm m e
      if q.1 % 2 = 0 then
        let y := if q.2.1 = 0 then 2 ^ 31 else spEval .rsqEven q.2.1 q.2.2
        spRound f false y.toNat (-(q.1 / 2) - 31)
      else spRound f false (spEval .rsqOdd q.2.1 q.2.2).toNat (-((q.1 - 1) / 2) - 31)

/-- The short polynomial of `VTANH` below 1/8, rounded once: (315t − 105t³ + 42t⁵ − 17t⁷) / 315. -/
def spTanhSmall (f : Fmt) (neg : Bool) (m : Nat) (e : Int) : Nat × BitVec 6 :=
  let k := (-e).toNat
  let n := 315 * m * 2 ^ (6 * k) + 42 * m ^ 5 * 2 ^ (2 * k) - 105 * m ^ 3 * 2 ^ (4 * k) - 17 * m ^ 7
  let q := n * 2 ^ 80 / 315
  spRound f neg (2 * q + (if n * 2 ^ 80 % 315 = 0 then 0 else 1)) (-(7 * (k : Int)) - 81)

/-- `VTANH` of one lane. -/
def spTanh (f : Fmt) (x : Nat) : Nat × BitVec 6 :=
  match fval f x with
  | .nan => (nanOf f, 0)
  | .inf neg => spRound f neg 1 0
  | .fin neg m e =>
    if m = 0 then (withSign f neg 0, 0)
    else
      let q := spFloor false m e
      if q.1 ≥ 9 then spRound f neg 1 0
      else if q.1 = 0 ∧ q.2.1 * 8 < 2 ^ q.2.2 then spTanhSmall f neg m e
      else spRound f neg (spEval (.tanh q.1.toNat) q.2.1 q.2.2).toNat (-31)

end Sys2Proof.Machine
end

