-- ==== Sys2Proof/Machine/Vector.lean ====
section
/-! DEFINITION. The vector instructions (R156–R171) and the queue of held VEC syllables (R85). -/

namespace Sys2Proof.Machine

/-- What a VEC syllable reads when it executes: vector registers by name, scalar registers, the generator as assigned at
issue (R116), and `MODE.CVRND`. -/
structure VecEnv where
  rv : BitVec 5 → Vec
  rx : BitVec 6 → Word
  seed : Word
  ctr : Word
  cvrnd : BitVec 2

/-- What a VEC syllable is, apart from its registers: whether its type is admitted, its latency (R158), the values it draws
under a rounding mode, and its results. -/
structure VecSem where
  typeOk : Bool
  lat : Nat
  draws : BitVec 2 → Nat := fun _ => 0
  run : VecEnv → List RegWrite × BitVec 6

/-- The width of a lane of a type code (R24). -/
def laneWidth (t : Nat) : Nat := 1024 / laneCount t
/-- The integer types. -/
def isIntT (t : Nat) : Bool := t < 3
/-- The six types other than FP8. -/
def isSix (t : Nat) : Bool := t < 6

/-- A result in a vector register, named as the syllable names it. -/
def outV (d : BitVec 5) (w : Nat) (xs : List Nat) (f : BitVec 6) : List RegWrite × BitVec 6 := ([.v d (ofLanes w xs)], f)

/-- Operand b of lane i: a register's lane, or an immediate: an integer one sign- or zero-extended and truncated to the
lane (R28, R29), a floating one in the lane format (R30). -/
def vopnd (e : VecEnv) (t : Nat) (zext : Bool) (b : Opnd 5) (i : Nat) : Nat :=
  match b with
  | .fld r => lane (laneWidth t) (e.rv r) i
  | .ext1 _ =>
    if isIntT t then (if zext then immUnsigned b % 2 ^ laneWidth t else (intWord (immSigned b)).toNat % 2 ^ laneWidth t)
    else immFloat (fmtOfType t) b
  | .ext2 _ _ => immFloat (fmtOfType t) b

/-- A lane-wise operation on d, a and b: an integer function of the lane width, or a floating function of the format. -/
def lanewise (t : BitVec 3) (d a : BitVec 5) (b : Opnd 5) (zext : Bool) (fi : Nat → Nat → Nat → Nat → Nat)
    (ff : Fmt → Nat → Nat → Nat → Nat × BitVec 6) (e : VecEnv) : List RegWrite × BitVec 6 :=
  let w := laneWidth t.toNat
  let one := fun i =>
    let x := lane w (e.rv d) i
    let y := lane w (e.rv a) i
    let z := vopnd e t.toNat zext b i
    if isIntT t.toNat then (fi w x y z, 0) else ff (fmtOfType t.toNat) x y z
  let r := gatherResults ((List.range (laneCount t.toNat)).map one)
  outV d w r.1 r.2

/-- A floating function that no admitted type reaches. -/
def noFloat (_ : Fmt) (_ _ _ : Nat) : Nat × BitVec 6 := (0, 0)

/-- The all-ones or all-zeros lane of a comparison (R160). -/
def maskOf (w : Nat) (c : Bool) : Nat := if c then 2 ^ w - 1 else 0

/-- A number modulo the lane. -/
def laneInt (w : Nat) (n : Int) : Nat := (n % 2 ^ w).toNat

/-- A three-operand lane-wise instruction: with its latencies on integer and floating lanes. -/
def vecBin (t : BitVec 3) (d a : BitVec 5) (b : Opnd 5) (six zext : Bool) (li lf : Nat) (fi : Nat → Nat → Nat → Nat → Nat)
    (ff : Fmt → Nat → Nat → Nat → Nat × BitVec 6) : VecSem :=
  { typeOk := if six then isSix t.toNat else isIntT t.toNat, lat := if isIntT t.toNat then li else lf,
    run := lanewise t d a b zext fi ff }

/-- The pairwise tree of R163. -/
def pairUp {α : Type} (op : α → α → α) : List α → List α
  | x :: y :: r => op x y :: pairUp op r
  | l => l

/-- The tree over up to 2^n items. -/
def treeFold {α : Type} (op : α → α → α) : Nat → List α → List α
  | 0, l => l
  | n + 1, l => treeFold op n (pairUp op l)

/-- An operation on values that carry flags. -/
def withFlags (op : Nat → Nat → Nat × BitVec 6) (x y : Nat × BitVec 6) : Nat × BitVec 6 :=
  let r := op x.1 y.1
  (r.1, r.2 ||| x.2 ||| y.2)

/-- `VRSUM` (R163). -/
def semVrsum (t : BitVec 3) (d a : BitVec 5) : VecSem :=
  { typeOk := isSix t.toNat, lat := if isIntT t.toNat then 5 else 8, run := fun e =>
      let w := laneWidth t.toNat
      let xs := lanes w (e.rv a)
      if isIntT t.toNat then
        let sum := (xs.map (signedOf w)).foldl (· + ·) 0
        outV d 32 [laneInt 32 sum] (if sum > intMax 32 ∨ sum < intMin 32 then flOF else 0)
      else
        let wide := xs.map (fun x => ((toFloat fp32 .rne (fval (fmtOfType t.toNat) x)).1, (0 : BitVec 6)))
        let r := (treeFold (withFlags (fAdd fp32)) 7 wide).headD (0, 0)
        outV d 32 [r.1] r.2 }

/-- `VRMAX` and `VRMIN` (R163). -/
def semVredux (t : BitVec 3) (d a : BitVec 5) (fi : Int → Int → Bool) (ff : Fmt → Nat → Nat → Nat) : VecSem :=
  { typeOk := isSix t.toNat, lat := 5, run := fun e =>
      let w := laneWidth t.toNat
      let op := fun x y =>
        if isIntT t.toNat then (if fi (signedOf w x) (signedOf w y) then x else y) else ff (fmtOfType t.toNat) x y
      outV d w [(treeFold op 7 (lanes w (e.rv a))).headD 0] 0 }

/-- The inclusive prefix results of R164. -/
def scanFrom (op : Nat → Nat → Nat × BitVec 6) (acc : Nat) : List Nat → List (Nat × BitVec 6)
  | [] => []
  | x :: xs => let r := op acc x; r :: scanFrom op r.1 xs

/-- `VSCAN` (R164). -/
def semVscan (t : BitVec 3) (d a : BitVec 5) : VecSem :=
  { typeOk := isSix t.toNat, lat := if isIntT t.toNat then 5 else 8, run := fun e =>
      let w := laneWidth t.toNat
      let op := fun x y => if isIntT t.toNat then ((x + y) % 2 ^ w, (0 : BitVec 6)) else fAdd (fmtOfType t.toNat) x y
      match lanes w (e.rv a) with
      | [] => outV d w [] 0
      | x :: xs => let r := gatherResults ((x, 0) :: scanFrom op x xs); outV d w r.1 r.2 }

/-- The source code's value of an element and the conversion to the destination's element (R165). -/
def vconvert (src dst : Nat) (rnd : Rnd) (x : Nat) : Nat × BitVec 6 :=
  let ws := laneWidth src
  let wd := laneWidth dst
  if isIntT src then
    if isIntT dst then let r := clampInt wd (signedOf ws x); (laneInt wd r.1, r.2)
    else toFloat (fmtOfType dst) rnd (ofInt (signedOf ws x))
  else if isIntT dst then let r := toInt wd rnd (fval (fmtOfType src) x); (laneInt wd r.1, r.2)
  else toFloat (fmtOfType dst) rnd (fval (fmtOfType src) x)

/-- `VCVT` (R165): groups of registers, read before any is written. -/
def semVcvt (t : BitVec 3) (d a : BitVec 5) (k : BitVec 2) (g : BitVec 3) : VecSem :=
  let src := g.toNat
  let dst := t.toNat
  let ls := laneCount src
  let ld := laneCount dst
  let n := max ls ld
  { typeOk := src ≠ dst && a.toNat % (n / ls) = 0 && d.toNat % (n / ld) = 0, lat := 3,
    draws := fun cv => if rndCode cv k.toNat = 2 then n else 0,
    run := fun e =>
      let one := fun i =>
        vconvert src dst (rndOf (rndCode e.cvrnd k.toNat) (genDraw e.seed (e.ctr + toWord i)))
          (lane (laneWidth src) (e.rv (a + BitVec.ofNat 5 (i / ls))) (i % ls))
      let r := gatherResults ((List.range n).map one)
      ((List.range (n / ld)).map (fun j =>
        RegWrite.v (d + BitVec.ofNat 5 j) (ofLanes (laneWidth dst) ((r.1.drop (j * ld)).take ld))), r.2) }

/-- The exponent of the largest finite value of a quantisation target (R166): 0 E2M1, 2 INT8, 6 E4M3, 7 E5M2. -/
def qEmax (tgt : Nat) : Int := if tgt = 0 then 2 else if tgt = 2 then 6 else if tgt = 6 then 8 else 15
/-- The target codes that `VQSC` and `VQNT` admit. -/
def qTarget (tgt : Nat) : Bool := tgt = 0 || tgt = 2 || tgt = 6 || tgt = 7
/-- The source types that `VQSC` and `VQNT` admit. -/
def qSource (t : Nat) : Bool := 3 ≤ t

/-- The E8M0 scale of a block (R166). -/
def blockScale (tgt : Nat) (xs : List FVal) : Nat :=
  if xs.any (fun x => match x with | .fin _ _ _ => false | _ => true) then 0xFF
  else
    let tops := xs.filterMap (fun x => match x with
      | .fin _ m e => if m = 0 then none else some ((Nat.log2 m : Int) + e)
      | _ => none)
    match tops with
    | [] => 0x7F
    | y :: ys => (min 254 (max 0 (ys.foldl max y - qEmax tgt + 127))).toNat

/-- `VQSC` (R166). -/
def semVqsc (t : BitVec 3) (d a : BitVec 5) (g : BitVec 3) : VecSem :=
  { typeOk := qSource t.toNat && qTarget g.toNat, lat := 5, run := fun e =>
      let f := fmtOfType t.toNat
      let xs := (lanes (laneWidth t.toNat) (e.rv a)).map (fval f)
      outV d 8 ((List.range (laneCount t.toNat / 32)).map (fun j => blockScale g.toNat ((xs.drop (32 * j)).take 32))) 0 }

/-- One element quantised to a target with rounding (R106, R107, R167). -/
def quantize (tgt : Nat) (rnd : Rnd) (v : FVal) : Nat × BitVec 6 :=
  if tgt = 0 then toFloat e2m1 rnd v
  else if tgt = 2 then let r := toInt 8 rnd v; (laneInt 8 r.1, r.2)
  else toFloat (fmtOfType tgt) rnd v

/-- A value times 2^k. -/
def scaleVal (k : Int) : FVal → FVal
  | .nan => .nan
  | .inf x => .inf x
  | .fin x m e => .fin x m (e + k)

/-- `VQNT` (R167): the scales are those that vd holds. -/
def semVqnt (t : BitVec 3) (d a : BitVec 5) (k : BitVec 2) (g : BitVec 3) : VecSem :=
  { typeOk := qSource t.toNat && qTarget g.toNat, lat := 3,
    draws := fun cv => if rndCode cv k.toNat = 2 then laneCount t.toNat else 0,
    run := fun e =>
      let f := fmtOfType t.toNat
      let one := fun i =>
        let sc := lane 8 (e.rv d) (i / 32)
        let rnd := rndOf (rndCode e.cvrnd k.toNat) (genDraw e.seed (e.ctr + toWord i))
        if sc = 0xFF then let r := quantize g.toNat rnd .nan; (r.1, r.2 ||| flSN)
        else quantize g.toNat rnd (scaleVal (127 - (sc : Int)) (fval f (lane (laneWidth t.toNat) (e.rv a) i)))
      let r := gatherResults ((List.range (laneCount t.toNat)).map one)
      outV d (if g = 0 then 4 else 8) r.1 r.2 }

/-- `VRNG` (R171). -/
def semVrng (t : BitVec 3) (d : BitVec 5) : VecSem :=
  { typeOk := t.toNat < 4, lat := 3, draws := fun _ => laneCount t.toNat, run := fun e =>
      let one := fun i =>
        let g := (genDraw e.seed (e.ctr + toWord i)).toNat
        if t = 3 then (roundTo fp32 .rne false (g / 2 ^ 40) (-24)).1 else g / 2 ^ (64 - laneWidth t.toNat)
      outV d (laneWidth t.toNat) ((List.range (laneCount t.toNat)).map one) 0 }

/-- `VDOT4` (R170). -/
def semVdot4 (t : BitVec 3) (d a b : BitVec 5) : VecSem :=
  { typeOk := t = 2, lat := 3, run := fun e =>
      let one := fun i =>
        let sum := (List.range 4).foldl (fun (n : Int) j =>
          n + signedOf 8 (lane 8 (e.rv a) (4 * i + j)) * signedOf 8 (lane 8 (e.rv b) (4 * i + j)))
          (signedOf 32 (lane 32 (e.rv d) i))
        (laneInt 32 sum, if sum > intMax 32 ∨ sum < intMin 32 then flOF else (0 : BitVec 6))
      let r := gatherResults ((List.range 32).map one)
      outV d 32 r.1 r.2 }

/-- A special function on every lane (R168). -/
def semSpecial (t : BitVec 3) (d a : BitVec 5) (g : Fmt → Nat → Nat × BitVec 6) : VecSem :=
  { typeOk := 3 ≤ t.toNat && t.toNat ≤ 5, lat := 8, run := fun e =>
      let r := gatherResults ((lanes (laneWidth t.toNat) (e.rv a)).map (g (fmtOfType t.toNat)))
      outV d (laneWidth t.toNat) r.1 r.2 }

/-- A rearrangement of lanes from the lanes of two registers (R162). -/
def semMove (t : BitVec 3) (d a b : BitVec 5) (g : Nat → List Nat → List Nat → List Nat) : VecSem :=
  { typeOk := isSix t.toNat, lat := 2, run := fun e =>
      let w := laneWidth t.toNat
      outV d w (g w (lanes w (e.rv a)) (lanes w (e.rv b))) 0 }

/-- `VSEL` (R160). -/
def semVsel (t : BitVec 3) (d a b : BitVec 5) : VecSem :=
  { typeOk := isSix t.toNat, lat := 1,
    run := lanewise t d a (.fld b) false (fun w x y z => if x.testBit (w - 1) then y else z)
      (fun f x y z => (if x.testBit (f.width - 1) then y else z, 0)) }

/-- `VBCAST` (R161). -/
def semVbcast (t : BitVec 3) (d a : BitVec 5) : VecSem :=
  { typeOk := isSix t.toNat, lat := 1, run := fun e =>
      outV d (laneWidth t.toNat) (List.replicate (laneCount t.toNat) (e.rx (a.setWidth 6)).toNat) 0 }

/-- `VEXTR` (R161): integers sign-extended, a floating lane zero-extended. -/
def semVextr (t : BitVec 3) (d a b : BitVec 5) : VecSem :=
  { typeOk := isSix t.toNat, lat := 2, run := fun e =>
      let w := laneWidth t.toNat
      let x := lane w (e.rv a) ((e.rx (b.setWidth 6)).toNat % laneCount t.toNat)
      ([.x (d.setWidth 6) (if isIntT t.toNat then intWord (signedOf w x) else toWord x)], 0) }

/-- `VINSR` (R161). -/
def semVinsr (t : BitVec 3) (d a b : BitVec 5) : VecSem :=
  { typeOk := isSix t.toNat, lat := 1, run := fun e =>
      let w := laneWidth t.toNat
      outV d w ((lanes w (e.rv d)).set ((e.rx (b.setWidth 6)).toNat % laneCount t.toNat) (e.rx (a.setWidth 6)).toNat) 0 }

/-- The sign bit of a floating pattern cleared or inverted; a NaN gives the canonical NaN (R159). -/
def fAbs (f : Fmt) (x : Nat) : Nat := if (fval f x).isNan then nanOf f else x % f.signBit
@[inherit_doc fAbs] def fNeg (f : Fmt) (x : Nat) : Nat :=
  if (fval f x).isNan then nanOf f else (x + f.signBit) % 2 ^ f.width

/-- The lanes of `vadd` (R159). -/
def semVadd (t : BitVec 3) (d a : BitVec 5) (b : Opnd 5) : VecSem :=
  vecBin t d a b true false 1 4 (fun _ _ y z => y + z) (fun f _ y z => fAdd f y z)

/-- The lanes of `vsub` (R159). -/
def semVsub (t : BitVec 3) (d a : BitVec 5) (b : Opnd 5) : VecSem :=
  vecBin t d a b true false 1 4 (fun w _ y z => y + 2 ^ w - z) (fun f _ y z => fSub f y z)

/-- The lanes of `vmul` (R159). -/
def semVmul (t : BitVec 3) (d a : BitVec 5) (b : Opnd 5) : VecSem :=
  vecBin t d a b true false 3 4 (fun _ _ y z => y * z) (fun f _ y z => fMul f y z)

/-- The lanes of `vfma` (R159). -/
def semVfma (t : BitVec 3) (d a : BitVec 5) (b : Opnd 5) : VecSem :=
  vecBin t d a b true false 3 4 (fun _ x y z => x + y * z) (fun f x y z => fFma f x y z)

/-- The lanes of `vmin` (R159). -/
def semVmin (t : BitVec 3) (d a : BitVec 5) (b : Opnd 5) : VecSem :=
  vecBin t d a b true false 1 2 (fun w _ y z => if signedOf w z < signedOf w y then z else y) (fun f _ y z => (fMin f y z, 0))

/-- The lanes of `vmax` (R159). -/
def semVmax (t : BitVec 3) (d a : BitVec 5) (b : Opnd 5) : VecSem :=
  vecBin t d a b true false 1 2 (fun w _ y z => if signedOf w y < signedOf w z then z else y) (fun f _ y z => (fMax f y z, 0))

/-- The lanes of `vand` (R159). -/
def semVand (t : BitVec 3) (d a : BitVec 5) (b : Opnd 5) : VecSem :=
  vecBin t d a b false true 1 1 (fun _ _ y z => y &&& z) noFloat

/-- The lanes of `vor` (R159). -/
def semVor (t : BitVec 3) (d a : BitVec 5) (b : Opnd 5) : VecSem :=
  vecBin t d a b false true 1 1 (fun _ _ y z => y ||| z) noFloat

/-- The lanes of `vxor` (R159). -/
def semVxor (t : BitVec 3) (d a : BitVec 5) (b : Opnd 5) : VecSem :=
  vecBin t d a b false true 1 1 (fun _ _ y z => y ^^^ z) noFloat

/-- The lanes of `vshl` (R159). -/
def semVshl (t : BitVec 3) (d a : BitVec 5) (b : Opnd 5) : VecSem :=
  vecBin t d a b false false 1 1 (fun w _ y z => if z < w then y * 2 ^ z else 0) noFloat

/-- The lanes of `vshr` (R159). -/
def semVshr (t : BitVec 3) (d a : BitVec 5) (b : Opnd 5) : VecSem :=
  vecBin t d a b false false 1 1 (fun w _ y z => if z < w then y / 2 ^ z else 0) noFloat

/-- The lanes of `vsar` (R159). -/
def semVsar (t : BitVec 3) (d a : BitVec 5) (b : Opnd 5) : VecSem :=
  vecBin t d a b false false 1 1 (fun w _ y z => laneInt w (signedOf w y / 2 ^ min z w)) noFloat

/-- The lanes of `vcmpEq` (R160). -/
def semVcmpEq (t : BitVec 3) (d a : BitVec 5) (b : Opnd 5) : VecSem :=
  vecBin t d a b true false 1 1 (fun w _ y z => maskOf w (y == z)) (fun f _ y z => (maskOf f.width (feq (fval f y) (fval f z)), 0))

/-- The lanes of `vcmpLt` (R160). -/
def semVcmpLt (t : BitVec 3) (d a : BitVec 5) (b : Opnd 5) : VecSem :=
  vecBin t d a b true false 1 1 (fun w _ y z => maskOf w (signedOf w y < signedOf w z)) (fun f _ y z => (maskOf f.width (fless false (fval f y) (fval f z)), 0))

/-- The lanes of `vcmpLe` (R160). -/
def semVcmpLe (t : BitVec 3) (d a : BitVec 5) (b : Opnd 5) : VecSem :=
  vecBin t d a b true false 1 1 (fun w _ y z => maskOf w (signedOf w y ≤ signedOf w z)) (fun f _ y z =>
    (maskOf f.width (fless false (fval f y) (fval f z) || feq (fval f y) (fval f z)), 0))

/-- The lanes of `vmulh` (R159). -/
def semVmulh (t : BitVec 3) (d a : BitVec 5) (b : Opnd 5) : VecSem :=
  vecBin t d a b false false 3 3 (fun w _ y z => laneInt w (signedOf w y * signedOf w z / 2 ^ w)) noFloat

/-- The lanes of `vadds` (R159). -/
def semVadds (t : BitVec 3) (d a : BitVec 5) (b : Opnd 5) : VecSem :=
  vecBin t d a b false false 1 1 (fun w _ y z => laneInt w (clampInt w (signedOf w y + signedOf w z)).1) noFloat

/-- The lanes of `vsubs` (R159). -/
def semVsubs (t : BitVec 3) (d a : BitVec 5) (b : Opnd 5) : VecSem :=
  vecBin t d a b false false 1 1 (fun w _ y z => laneInt w (clampInt w (signedOf w y - signedOf w z)).1) noFloat

/-- The lanes of `vminN` (R159). -/
def semVminN (t : BitVec 3) (d a : BitVec 5) (b : Opnd 5) : VecSem :=
  vecBin t d a b false true 1 1 (fun _ _ y z => min y z) noFloat

/-- The lanes of `vmaxN` (R159). -/
def semVmaxN (t : BitVec 3) (d a : BitVec 5) (b : Opnd 5) : VecSem :=
  vecBin t d a b false true 1 1 (fun _ _ y z => max y z) noFloat

/-- The lanes of `vcmpLtn` (R160). -/
def semVcmpLtn (t : BitVec 3) (d a : BitVec 5) (b : Opnd 5) : VecSem :=
  vecBin t d a b false true 1 1 (fun w _ y z => maskOf w (y < z)) noFloat

/-- The lanes of `vabs` (R159). -/
def semVabs (t : BitVec 3) (d a : BitVec 5) : VecSem :=
  vecBin t d a (.fld a) true false 1 2 (fun w _ y _ => (signedOf w y).natAbs) (fun f _ y _ => (fAbs f y, 0))

/-- The lanes of `vneg` (R159). -/
def semVneg (t : BitVec 3) (d a : BitVec 5) : VecSem :=
  vecBin t d a (.fld a) true false 1 2 (fun w _ y _ => 2 ^ w - y) (fun f _ y _ => (fNeg f y, 0))

/-- The lanes of `vpopc` (R159). -/
def semVpopc (t : BitVec 3) (d a : BitVec 5) : VecSem :=
  vecBin t d a (.fld a) false false 1 1 (fun w _ y _ => popCount w y) noFloat

/-- `vperm`: each lane takes the lane its index names (R162). -/
def semVperm (t : BitVec 3) (d a b : BitVec 5) : VecSem := semMove t d a b (fun _ xs ys => ys.map (fun i => xs.getD (i % ys.length) 0))

/-- `vrot`: a rotation by lane 0 of vb (R162). -/
def semVrot (t : BitVec 3) (d a b : BitVec 5) : VecSem := semMove t d a b (fun _ xs ys => xs.rotate (ys.headD 0 % xs.length))

/-- `vcx`: the marked lanes, packed together (R162). -/
def semVcx (t : BitVec 3) (d a b : BitVec 5) : VecSem := semMove t d a b (fun w xs ys => ((xs.zip ys).filter (fun q => q.2.testBit (w - 1))).map (·.1))

/-- `vrmax` (R163). -/
def semVrmax (t : BitVec 3) (d a : BitVec 5) : VecSem := semVredux t d a (fun x y => y ≤ x) fMax

/-- `vrmin` (R163). -/
def semVrmin (t : BitVec 3) (d a : BitVec 5) : VecSem := semVredux t d a (fun x y => x ≤ y) fMin

/-- `vexp2` (R168, R169). -/
def semVexp2 (t : BitVec 3) (d a : BitVec 5) : VecSem := semSpecial t d a spExp2

/-- `vlog2` (R168, R169). -/
def semVlog2 (t : BitVec 3) (d a : BitVec 5) : VecSem := semSpecial t d a spLog2

/-- `vrcp` (R168, R169). -/
def semVrcp (t : BitVec 3) (d a : BitVec 5) : VecSem := semSpecial t d a spRcp

/-- `vrsq` (R168, R169). -/
def semVrsq (t : BitVec 3) (d a : BitVec 5) : VecSem := semSpecial t d a spRsq

/-- `vtanh` (R168, R169). -/
def semVtanh (t : BitVec 3) (d a : BitVec 5) : VecSem := semSpecial t d a spTanh

/-- What a VEC instruction does; none for any other instruction. -/
def vecSemOf : Instr → Option VecSem
  | .vadd _ t d a b => some (semVadd t d a b)
  | .vsub _ t d a b => some (semVsub t d a b)
  | .vmul _ t d a b => some (semVmul t d a b)
  | .vfma _ t d a b => some (semVfma t d a b)
  | .vmin _ t d a b => some (semVmin t d a b)
  | .vmax _ t d a b => some (semVmax t d a b)
  | .vand _ t d a b => some (semVand t d a b)
  | .vor _ t d a b => some (semVor t d a b)
  | .vxor _ t d a b => some (semVxor t d a b)
  | .vshl _ t d a b => some (semVshl t d a b)
  | .vshr _ t d a b => some (semVshr t d a b)
  | .vsar _ t d a b => some (semVsar t d a b)
  | .vabs _ t d a => some (semVabs t d a)
  | .vneg _ t d a => some (semVneg t d a)
  | .vcvt _ t d a k g => some (semVcvt t d a k g)
  | .vcmpEq _ t d a b => some (semVcmpEq t d a b)
  | .vcmpLt _ t d a b => some (semVcmpLt t d a b)
  | .vcmpLe _ t d a b => some (semVcmpLe t d a b)
  | .vsel _ t d a b => some (semVsel t d a b)
  | .vbcast _ t d a => some (semVbcast t d a)
  | .vperm _ t d a b => some (semVperm t d a b)
  | .vrot _ t d a b => some (semVrot t d a b)
  | .vrsum _ t d a => some (semVrsum t d a)
  | .vrmax _ t d a => some (semVrmax t d a)
  | .vrmin _ t d a => some (semVrmin t d a)
  | .vscan _ t d a => some (semVscan t d a)
  | .vexp2 _ t d a => some (semVexp2 t d a)
  | .vlog2 _ t d a => some (semVlog2 t d a)
  | .vrcp _ t d a => some (semVrcp t d a)
  | .vrsq _ t d a => some (semVrsq t d a)
  | .vtanh _ t d a => some (semVtanh t d a)
  | .vextr _ t d a b => some (semVextr t d a b)
  | .vinsr _ t d a b => some (semVinsr t d a b)
  | .vdot4 _ t d a b => some (semVdot4 t d a b)
  | .vmulh _ t d a b => some (semVmulh t d a b)
  | .vqsc _ t d a g => some (semVqsc t d a g)
  | .vqnt _ t d a k g => some (semVqnt t d a k g)
  | .vrng _ t d => some (semVrng t d)
  | .vpopc _ t d a => some (semVpopc t d a)
  | .vcx _ t d a b => some (semVcx t d a b)
  | .vadds _ t d a b => some (semVadds t d a b)
  | .vsubs _ t d a b => some (semVsubs t d a b)
  | .vminN _ t d a b => some (semVminN t d a b)
  | .vmaxN _ t d a b => some (semVmaxN t d a b)
  | .vcmpLtn _ t d a b => some (semVcmpLtn t d a b)
  | _ => none

/-- The registers that a VEC syllable reads as its bundle issues: the scalar ones, and the vectors that neither a tag nor an earlier held
syllable keeps from it. What its own bundle writes in them does not reach it (R7, R85, R119). -/
def Held.latch (h : Held) (c : Ctx) : Held :=
  { h with
    xs := h.vecRegs.xr.map (fun r => (r, c.rx r)),
    vs := (h.vecRegs.vr.filter (fun v => c.pendingTag v = none && !c.vecq.any (fun g => v ∈ g.vecRegs.vw))).map (fun v => (v, c.rv v)) }

/-- The registers that a held VEC syllable has still to read. -/
def Held.toRead (h : Held) : Regs :=
  let r := h.vecRegs
  { r with xr := r.xr.filter (fun d => !h.xs.any (·.1 = d)), vr := r.vr.filter (fun d => !h.vs.any (·.1 = d)) }

/-- A register that was read at issue, or as it stands. -/
def latched {α β : Type} [DecidableEq α] (l : List (α × β)) (d : α) (now : β) : β := ((l.find? (·.1 = d)).map (·.2)).getD now

/-- What a held or issuing VEC syllable reads when it executes now. The default rounding of R165 is `MODE.CVRND` as it stands then,
though the draws were counted at issue (R116; DESIGN CHOICE, log 64). -/
def Held.env (h : Held) (c : Ctx) : VecEnv :=
  { rv := fun n => latched h.vs (physOf h.vrb n) (c.rv (physOf h.vrb n)), rx := fun d => latched h.xs d (c.rx d), seed := h.seed, ctr := h.ctr, cvrnd := c.cr.cvrnd }

/-- A result's registers as the physical ones given at issue (R81). -/
def RegWrite.phys (vrb : BitVec 4) : RegWrite → RegWrite
  | .v d w => .v (physOf vrb d) w
  | .x d w => .x d w
  | .p d b => .p d b

/-- A VEC syllable executes: its results land after its latency (R158). -/
def State.vecExecute (s : State) (a : Agent) (h : Held) (y : VecSem) : State :=
  let r := y.run (h.env (s.ctx a))
  s.flyAs h.id a .vector y.lat (r.1.map (RegWrite.phys h.vrb)) r.2 none

/-- The registers of a VEC instruction, as physical registers now. -/
def vecRegsOf (s : State) (i : Instr) : Regs :=
  (vecNames (wordOf i).toNat (extsOf i ≠ [])).phys s.me.cr.vrb

/-- A VEC syllable issues: it is held where it names a vector bound to a tag that is not ready or where an earlier one is
held, else it executes (R85); it is held for a vector that it only writes too (DESIGN CHOICE, log 63). Its draws are assigned now
(R116). -/
def vecSyl (p : BitVec 4) (i : Instr) (y : VecSem) (s : State) : Syl :=
  { cls := 3, guard := p, typeOk := y.typeOk, regs := vecRegsOf s i, act := fun s =>
      let tags := s.me.pendingTags ((vecRegsOf s i).vr ++ (vecRegsOf s i).vw)
      let h := s.capture i 0 tags
      let s' := if tags ≠ [] ∨ s.me.vecq ≠ [] then s.modMe (fun c => { c with vecq := c.vecq ++ [h.latch c] })
                else s.vecExecute s.cur h y
      s'.tick1.advanceCtr (y.draws s.me.cr.cvrnd) }

/-- `VADD`. -/
def execVadd (p : BitVec 4) (t : BitVec 3) (d a : BitVec 5) (b : Opnd 5) (s : State) : Out :=
  issue (vecSyl p (.vadd p t d a b) (semVadd t d a b) s) s

/-- `VSUB`. -/
def execVsub (p : BitVec 4) (t : BitVec 3) (d a : BitVec 5) (b : Opnd 5) (s : State) : Out :=
  issue (vecSyl p (.vsub p t d a b) (semVsub t d a b) s) s

/-- `VMUL`. -/
def execVmul (p : BitVec 4) (t : BitVec 3) (d a : BitVec 5) (b : Opnd 5) (s : State) : Out :=
  issue (vecSyl p (.vmul p t d a b) (semVmul t d a b) s) s

/-- `VFMA`. -/
def execVfma (p : BitVec 4) (t : BitVec 3) (d a : BitVec 5) (b : Opnd 5) (s : State) : Out :=
  issue (vecSyl p (.vfma p t d a b) (semVfma t d a b) s) s

/-- `VMIN`. -/
def execVmin (p : BitVec 4) (t : BitVec 3) (d a : BitVec 5) (b : Opnd 5) (s : State) : Out :=
  issue (vecSyl p (.vmin p t d a b) (semVmin t d a b) s) s

/-- `VMAX`. -/
def execVmax (p : BitVec 4) (t : BitVec 3) (d a : BitVec 5) (b : Opnd 5) (s : State) : Out :=
  issue (vecSyl p (.vmax p t d a b) (semVmax t d a b) s) s

/-- `VAND`. -/
def execVand (p : BitVec 4) (t : BitVec 3) (d a : BitVec 5) (b : Opnd 5) (s : State) : Out :=
  issue (vecSyl p (.vand p t d a b) (semVand t d a b) s) s

/-- `VOR`. -/
def execVor (p : BitVec 4) (t : BitVec 3) (d a : BitVec 5) (b : Opnd 5) (s : State) : Out :=
  issue (vecSyl p (.vor p t d a b) (semVor t d a b) s) s

/-- `VXOR`. -/
def execVxor (p : BitVec 4) (t : BitVec 3) (d a : BitVec 5) (b : Opnd 5) (s : State) : Out :=
  issue (vecSyl p (.vxor p t d a b) (semVxor t d a b) s) s

/-- `VSHL`. -/
def execVshl (p : BitVec 4) (t : BitVec 3) (d a : BitVec 5) (b : Opnd 5) (s : State) : Out :=
  issue (vecSyl p (.vshl p t d a b) (semVshl t d a b) s) s

/-- `VSHR`. -/
def execVshr (p : BitVec 4) (t : BitVec 3) (d a : BitVec 5) (b : Opnd 5) (s : State) : Out :=
  issue (vecSyl p (.vshr p t d a b) (semVshr t d a b) s) s

/-- `VSAR`. -/
def execVsar (p : BitVec 4) (t : BitVec 3) (d a : BitVec 5) (b : Opnd 5) (s : State) : Out :=
  issue (vecSyl p (.vsar p t d a b) (semVsar t d a b) s) s

/-- `VABS`. -/
def execVabs (p : BitVec 4) (t : BitVec 3) (d a : BitVec 5) (s : State) : Out :=
  issue (vecSyl p (.vabs p t d a) (semVabs t d a) s) s

/-- `VNEG`. -/
def execVneg (p : BitVec 4) (t : BitVec 3) (d a : BitVec 5) (s : State) : Out :=
  issue (vecSyl p (.vneg p t d a) (semVneg t d a) s) s

/-- `VCVT`. -/
def execVcvt (p : BitVec 4) (t : BitVec 3) (d a : BitVec 5) (k : BitVec 2) (g : BitVec 3) (s : State) : Out :=
  issue (vecSyl p (.vcvt p t d a k g) (semVcvt t d a k g) s) s

/-- `VCMP.EQ`. -/
def execVcmpEq (p : BitVec 4) (t : BitVec 3) (d a : BitVec 5) (b : Opnd 5) (s : State) : Out :=
  issue (vecSyl p (.vcmpEq p t d a b) (semVcmpEq t d a b) s) s

/-- `VCMP.LT`. -/
def execVcmpLt (p : BitVec 4) (t : BitVec 3) (d a : BitVec 5) (b : Opnd 5) (s : State) : Out :=
  issue (vecSyl p (.vcmpLt p t d a b) (semVcmpLt t d a b) s) s

/-- `VCMP.LE`. -/
def execVcmpLe (p : BitVec 4) (t : BitVec 3) (d a : BitVec 5) (b : Opnd 5) (s : State) : Out :=
  issue (vecSyl p (.vcmpLe p t d a b) (semVcmpLe t d a b) s) s

/-- `VSEL`. -/
def execVsel (p : BitVec 4) (t : BitVec 3) (d a b : BitVec 5) (s : State) : Out :=
  issue (vecSyl p (.vsel p t d a b) (semVsel t d a b) s) s

/-- `VBCAST`. -/
def execVbcast (p : BitVec 4) (t : BitVec 3) (d a : BitVec 5) (s : State) : Out :=
  issue (vecSyl p (.vbcast p t d a) (semVbcast t d a) s) s

/-- `VPERM`. -/
def execVperm (p : BitVec 4) (t : BitVec 3) (d a b : BitVec 5) (s : State) : Out :=
  issue (vecSyl p (.vperm p t d a b) (semVperm t d a b) s) s

/-- `VROT`. -/
def execVrot (p : BitVec 4) (t : BitVec 3) (d a b : BitVec 5) (s : State) : Out :=
  issue (vecSyl p (.vrot p t d a b) (semVrot t d a b) s) s

/-- `VRSUM`. -/
def execVrsum (p : BitVec 4) (t : BitVec 3) (d a : BitVec 5) (s : State) : Out :=
  issue (vecSyl p (.vrsum p t d a) (semVrsum t d a) s) s

/-- `VRMAX`. -/
def execVrmax (p : BitVec 4) (t : BitVec 3) (d a : BitVec 5) (s : State) : Out :=
  issue (vecSyl p (.vrmax p t d a) (semVrmax t d a) s) s

/-- `VRMIN`. -/
def execVrmin (p : BitVec 4) (t : BitVec 3) (d a : BitVec 5) (s : State) : Out :=
  issue (vecSyl p (.vrmin p t d a) (semVrmin t d a) s) s

/-- `VSCAN`. -/
def execVscan (p : BitVec 4) (t : BitVec 3) (d a : BitVec 5) (s : State) : Out :=
  issue (vecSyl p (.vscan p t d a) (semVscan t d a) s) s

/-- `VEXP2`. -/
def execVexp2 (p : BitVec 4) (t : BitVec 3) (d a : BitVec 5) (s : State) : Out :=
  issue (vecSyl p (.vexp2 p t d a) (semVexp2 t d a) s) s

/-- `VLOG2`. -/
def execVlog2 (p : BitVec 4) (t : BitVec 3) (d a : BitVec 5) (s : State) : Out :=
  issue (vecSyl p (.vlog2 p t d a) (semVlog2 t d a) s) s

/-- `VRCP`. -/
def execVrcp (p : BitVec 4) (t : BitVec 3) (d a : BitVec 5) (s : State) : Out :=
  issue (vecSyl p (.vrcp p t d a) (semVrcp t d a) s) s

/-- `VRSQ`. -/
def execVrsq (p : BitVec 4) (t : BitVec 3) (d a : BitVec 5) (s : State) : Out :=
  issue (vecSyl p (.vrsq p t d a) (semVrsq t d a) s) s

/-- `VTANH`. -/
def execVtanh (p : BitVec 4) (t : BitVec 3) (d a : BitVec 5) (s : State) : Out :=
  issue (vecSyl p (.vtanh p t d a) (semVtanh t d a) s) s

/-- `VEXTR`. -/
def execVextr (p : BitVec 4) (t : BitVec 3) (d a b : BitVec 5) (s : State) : Out :=
  issue (vecSyl p (.vextr p t d a b) (semVextr t d a b) s) s

/-- `VINSR`. -/
def execVinsr (p : BitVec 4) (t : BitVec 3) (d a b : BitVec 5) (s : State) : Out :=
  issue (vecSyl p (.vinsr p t d a b) (semVinsr t d a b) s) s

/-- `VDOT4`. -/
def execVdot4 (p : BitVec 4) (t : BitVec 3) (d a b : BitVec 5) (s : State) : Out :=
  issue (vecSyl p (.vdot4 p t d a b) (semVdot4 t d a b) s) s

/-- `VMULH`. -/
def execVmulh (p : BitVec 4) (t : BitVec 3) (d a : BitVec 5) (b : Opnd 5) (s : State) : Out :=
  issue (vecSyl p (.vmulh p t d a b) (semVmulh t d a b) s) s

/-- `VQSC`. -/
def execVqsc (p : BitVec 4) (t : BitVec 3) (d a : BitVec 5) (g : BitVec 3) (s : State) : Out :=
  issue (vecSyl p (.vqsc p t d a g) (semVqsc t d a g) s) s

/-- `VQNT`. -/
def execVqnt (p : BitVec 4) (t : BitVec 3) (d a : BitVec 5) (k : BitVec 2) (g : BitVec 3) (s : State) : Out :=
  issue (vecSyl p (.vqnt p t d a k g) (semVqnt t d a k g) s) s

/-- `VRNG`. -/
def execVrng (p : BitVec 4) (t : BitVec 3) (d : BitVec 5) (s : State) : Out :=
  issue (vecSyl p (.vrng p t d) (semVrng t d) s) s

/-- `VPOPC`. -/
def execVpopc (p : BitVec 4) (t : BitVec 3) (d a : BitVec 5) (s : State) : Out :=
  issue (vecSyl p (.vpopc p t d a) (semVpopc t d a) s) s

/-- `VCX`. -/
def execVcx (p : BitVec 4) (t : BitVec 3) (d a b : BitVec 5) (s : State) : Out :=
  issue (vecSyl p (.vcx p t d a b) (semVcx t d a b) s) s

/-- `VADDS`. -/
def execVadds (p : BitVec 4) (t : BitVec 3) (d a : BitVec 5) (b : Opnd 5) (s : State) : Out :=
  issue (vecSyl p (.vadds p t d a b) (semVadds t d a b) s) s

/-- `VSUBS`. -/
def execVsubs (p : BitVec 4) (t : BitVec 3) (d a : BitVec 5) (b : Opnd 5) (s : State) : Out :=
  issue (vecSyl p (.vsubs p t d a b) (semVsubs t d a b) s) s

/-- `VMIN.N`. -/
def execVminN (p : BitVec 4) (t : BitVec 3) (d a : BitVec 5) (b : Opnd 5) (s : State) : Out :=
  issue (vecSyl p (.vminN p t d a b) (semVminN t d a b) s) s

/-- `VMAX.N`. -/
def execVmaxN (p : BitVec 4) (t : BitVec 3) (d a : BitVec 5) (b : Opnd 5) (s : State) : Out :=
  issue (vecSyl p (.vmaxN p t d a b) (semVmaxN t d a b) s) s

/-- `VCMP.LTN`. -/
def execVcmpLtn (p : BitVec 4) (t : BitVec 3) (d a : BitVec 5) (b : Opnd 5) (s : State) : Out :=
  issue (vecSyl p (.vcmpLtn p t d a b) (semVcmpLtn t d a b) s) s

/-- The oldest held VEC syllable of an agent executes (R85): its tags are ready, and the results it waits for have landed.
Its tags are consumed (R321). -/
def execHeldSyllableExecutes (a : Agent) (s : State) : Out :=
  match (s.ctx a).vecq with
  | [] => .fault .noSuchItem
  | h :: r =>
    match vecSemOf h.instr with
    | none => .fault .noSuchItem
    | some y =>
      let s' := (s.modCtx a (fun c => { c with vecq := r, vecFree := s.cycle + 1 })).vecExecute a h y
      .next (h.tags.foldl (fun s t => s.consumeTag a t) s')

/-- Whether the oldest held VEC syllable of an agent can execute. -/
def State.vecReady (s : State) (a : Agent) : Bool :=
  let c := s.ctx a
  match c.vecq with
  | [] => false
  | h :: _ => c.vecFree ≤ s.cycle && h.tags.all (fun t => c.tags.ready.getLsbD t) &&
      !c.flights.any (fun f => f.writes.any (RegWrite.hits h.toRead))

end Sys2Proof.Machine
end

