-- ==== Sys2Proof/Machine/Matrix.lean ====
section
/-! DEFINITION. The matrix unit (R182–R203): the MAT queue, the reads of operands, accumulation, fills, drains, and the
descriptor instructions. -/

namespace Sys2Proof.Machine

/-! ## Formats and operands -/

/-- The floating format of a format code (R87). -/
def fmtOfCode (f : Nat) : Fmt :=
  match f with
  | 0x0B => fp64
  | 0x09 => bf16
  | 0x0A => fp16
  | 0x0C => e4m3
  | 0x0D => e5m2
  | 0x0E => e2m1
  | _ => fp32

/-- Whether a format code is an integer format (R87). -/
def intCode (f : Nat) : Bool := f < 8

/-- The value of an integer element (R101). -/
def intElem (f n : Nat) : Int :=
  match f with
  | 0x04 => (n % 2 ^ 8 : Nat)
  | 0x05 => (n % 2 ^ 4 : Nat)
  | _ => signedOf (fmtBits f) n

/-- The pair family of a format (R182): k indices for each k-step, cycles for each k-step, accumulator type. -/
def famOf (f : Nat) : Option (Nat × Nat × Nat) :=
  match f with
  | 0x0B => some (1, 4, 0x0C)
  | 0x08 => some (1, 2, 0x09)
  | 0x09 | 0x0A => some (1, 1, 0x09)
  | 0x0C | 0x0D => some (2, 1, 0x09)
  | 0x00 | 0x04 => some (2, 1, 0x04)
  | 0x0E => some (4, 1, 0x09)
  | 0x01 | 0x05 => some (4, 1, 0x04)
  | _ => none

/-- The format of the elements that a descriptor delivers. -/
def Desc.elemFmt (d : Desc) : Nat := if d.fmt = 0x14 then d.efmt else d.fmt

/-- The address of element (m, k) in an unfolded view (R186), where it is read. -/
def Desc.unfAddr (d : Desc) (m k : Nat) : Option Int :=
  let c := d.size 0 + 1
  let w : Int := d.size 1 + 1
  let h : Int := d.size 2 + 1
  let kw := d.w5 4 + 1
  let kh := d.w5 0 + 1
  let sw := d.w5 12 + 1
  let sh := d.w5 8 + 1
  let dw := d.w5 20 + 1
  let dh := d.w5 16 + 1
  let pt := d.w5 24
  let pl := d.w5 28
  let pb := d.w5 32
  let pr := d.w5 36
  let ox := d.col0 + m
  let oy := d.row0
  let kx := k / c % kw
  let ky := k / c / kw
  let ow := (w + pl + pr - dw * (kw - 1 : Nat) - 1) / sw + 1
  let oh := (h + pt + pb - dh * (kh - 1 : Nat) - 1) / sh + 1
  let ix := ox * sw + kx * dw - pl
  let iy := oy * sh + ky * dh - pt
  if ky ≥ kh ∨ ox < 0 ∨ ox ≥ ow ∨ oy < 0 ∨ oy ≥ oh ∨ ix < 0 ∨ ix ≥ w ∨ iy < 0 ∨ iy ≥ h then none
  else some ((d.base : Int) + (k % c : Nat) * d.stride 0 + ix * d.stride 1 + iy * d.stride 2)

/-- The address of the bytes of element (m, k) of the A operand, where it is read (R175, R185, R186). -/
def Desc.aAddr (d : Desc) (m k : Nat) : Option Int :=
  if d.unf then d.unfAddr m k
  else if m > d.size 1 ∨ k > d.size 0 then none
  else
    some (d.rowAddr m (if fmtBits d.fmt = 4 then ((k / 2 : Nat) : Int) else k * d.stride 0))

/-- The address of row m's token for block b (R187). -/
def Desc.tokenAddr (d : Desc) (m b : Nat) : Int := (d.scale : Int) + (m * ceilDiv (d.size 0 + 1) 32 + b : Nat)

/-- The rows whose tokens are read (R187). -/
def Desc.tokenRows (d : Desc) : Nat := min 16 (d.size 1 + 1)

/-- Elements of `b` bits of a bit stream (R102). -/
def streamElems (b n : Nat) (stream : Nat) : List Nat := (List.range n).map (fun i => bitsAt stream (b * i) b)

/-! ## Packed streams (R188, R189) -/

/-- The 32 elements of a block, from its bitmap and its values. -/
def expandBlock (w : Nat) (map : Nat) : Nat → List Byte → List Nat
  | 0, _ => []
  | n + 1, vs =>
    if map % 2 = 1 then leNat (vs.take w) :: expandBlock w (map / 2) n (vs.drop w)
    else 0 :: expandBlock w (map / 2) n vs

/-- The elements of the blocks in a run of bytes, of `w` bytes each; a block cut off yields none. -/
def packedBlocks (w : Nat) : Nat → List Byte → List Nat
  | 0, _ => []
  | fuel + 1, bs =>
    let map := leNat (bs.take 4)
    let size := 4 + ceilDiv (popCount 32 map * w) 4 * 4
    if bs.length < 4 ∨ bs.length < size then []
    else expandBlock w map 32 (bs.drop 4) ++ packedBlocks w fuel (bs.drop size)

/-- A decoded stream: its elements, its declared length, and whether the two lengths differ (R189). -/
structure Stream where
  elems : List Nat
  ndecl : Nat
  differs : Bool
  deriving DecidableEq, Repr

/-- A packed stream read from memory (R188, R189). -/
def readStream (m : Mem) (d : Desc) : Stream :=
  let h0 := memNat m d.base 8
  let n := bitsAt h0 40 24
  let ndecl := bitsAt h0 0 32
  let all :=
    if bitsAt h0 32 8 ≠ d.efmt ∨ memNat m (d.base + 8) 8 ≠ 0 then []
    else packedBlocks (fmtSize d.efmt) (n / 4 + 1) (memRead m (d.base + 16) n)
  { elems := all.take ndecl, ndecl := ndecl, differs := all.length ≠ ndecl }

/-- The span of a packed stream (R189): the header, then the bytes it names. -/
def streamSpans (m : Mem) (d : Desc) : List Span :=
  if d.base + 16 ≤ 2 ^ 21 then [{ addr := d.base, len := 16 + bitsAt (memNat m d.base 8) 40 24, al := 1 }]
  else [{ addr := d.base, len := 16, al := 1 }]

/-! ## The spans that a syllable reads or writes (R185, R187, R189, R196, R201) -/

/-- The spans of the A operand of `MM` with `nk` k indices. -/
def Desc.aSpans (d : Desc) (m : Mem) (nk : Nat) (sc : Bool) : List Span :=
  let size := fmtSize d.fmt
  let cells := if d.fmt = 0x14 then streamSpans m d
    else (List.range 16).flatMap (fun r => (List.range nk).filterMap (fun k =>
      (d.aAddr r k).map (fun a => { addr := a, len := size, al := size })))
  let tokens := if sc then (List.range d.tokenRows).flatMap (fun r => (List.range (ceilDiv nk 32)).map (fun b =>
      { addr := d.tokenAddr r b, len := 1, al := 1 })) else []
  cells ++ tokens

/-- The bytes of a row of a dense fill (R196). -/
def rowBytes (f : Nat) : Nat := if fmtBits f = 4 then 16 else 32 * fmtSize f

/-- The spans of a fill's data (R196), in the order of the tile's bytes. -/
def Desc.fillSpans (d : Desc) (m : Mem) : List Span :=
  if d.fmt = 0x14 then streamSpans m d
  else if d.fmt = 0x10 then (List.range 32).map (fun g =>
    { addr := (d.base : Int) + (128 * g : Nat), len := 16 * d.planes, al := 1 })
  else if 0x11 ≤ d.fmt then [{ addr := d.base, len := 256 * (d.fmt - 0x0F), al := 1 }]
  else
    let rb := rowBytes d.fmt
    (List.range (4096 / rb)).flatMap (fun (j : Nat) =>
      let row : Int := (d.base : Int) + (j : Int) * d.stride 1
      if d.skew then (List.range (rb / 16)).map (fun o =>
        { addr := skewAddr row (16 * o : Nat) j, len := 16, al := fmtSize d.fmt })
      else [{ addr := row, len := rb, al := fmtSize d.fmt }])

/-- The spans of `MM.AR` and `MM.AW` (R201). -/
def Desc.accSpans (d : Desc) : List Span :=
  d.accCells.map (fun e => { addr := e.2.2, len := fmtSize d.fmt, al := fmtSize d.fmt })

/-- The first word with an uncorrectable error that spans meet. -/
def spansBad (bad : List Nat) (ss : List Span) : Option Nat := ss.findSome? (fun sp => firstBad bad sp.addr.toNat sp.len)

/-- The bytes of spans, in order. -/
def spansRead (m : Mem) (ss : List Span) : List Byte := ss.flatMap (fun sp => memRead m sp.addr.toNat sp.len)

/-! ## Accumulation (R108–R111) -/

/-- The exact product of two values; a zero times an infinity is a NaN (R108). -/
def prodVal : FVal → FVal → FVal
  | .nan, _ => .nan
  | _, .nan => .nan
  | .inf s, .inf t => .inf (s ^^ t)
  | .inf s, .fin t m _ => if m = 0 then .nan else .inf (s ^^ t)
  | .fin s m _, .inf t => if m = 0 then .nan else .inf (s ^^ t)
  | .fin s m e, .fin t n g => .fin (s ^^ t) (m * n) (e + g)

/-- The exponent of the highest bit of a nonzero finite value. -/
def topExp : FVal → Option Int
  | .fin _ m e => if m = 0 then none else some ((Nat.log2 m : Nat) + e)
  | _ => none

/-- A finite value in units of 2^u, truncated toward zero (R108). -/
def inUnits (u : Int) : FVal → Int
  | .fin s m e =>
    let q : Nat := if u ≤ e then m * 2 ^ (e - u).toNat else m / 2 ^ (u - e).toNat
    if s then -(q : Int) else q
  | _ => 0

/-- The greater of two exponents. -/
def maxExp : Option Int → Option Int → Option Int
  | none, b => b
  | a, none => a
  | some a, some b => some (max a b)

/-- The value of one group of at most 16 products, with its flags (R108). -/
def groupValue (as bs : List FVal) (ea eb : Nat) : FVal × BitVec 6 :=
  if ea = 0xFF ∨ eb = 0xFF then (.nan, flSN)
  else if as.any FVal.isNan || bs.any FVal.isNan then (.nan, 0)
  else
    let ps := List.zipWith prodVal as bs
    if ps.any FVal.isNan || (FVal.inf true ∈ ps && FVal.inf false ∈ ps) then (.nan, flIV)
    else if FVal.inf true ∈ ps then (.inf true, 0)
    else if FVal.inf false ∈ ps then (.inf false, 0)
    else
      match (ps.map topExp).foldl maxExp none with
      | none => (.fin false 0 0, 0)
      | some top =>
        let sum := (ps.map (inUnits (top - 34))).foldl (· + ·) 0
        (.fin (sum < 0) sum.natAbs (top - 34 + ((ea : Int) - 127) + ((eb : Int) - 127)), 0)

/-- One group added to an FP32 accumulator (R109). -/
def accStep (sat : Bool) (acc : Nat) (v : FVal × BitVec 6) : Nat × BitVec 6 :=
  let r := finish fp32 (fsum (fval fp32 acc) v.1)
  let sum := (fsum (fval fp32 acc) v.1).1
  let capped := match sum with
    | .fin neg _ _ => if sat ∧ r.2 &&& flOF ≠ 0 then withSign fp32 neg fp32.maxPat else r.1
    | _ => r.1
  (capped, r.2 ||| v.2)

/-- The groups of an accumulation (R109): 16 k at a time, each with its scales. -/
def accGroups (sat : Bool) (ea eb : Nat → Nat) : Nat → Nat → Nat × BitVec 6 → List FVal → List FVal → Nat × BitVec 6
  | 0, _, acc, _, _ => acc
  | fuel + 1, g, acc, as, bs =>
    if as = [] then acc
    else
      let r := accStep sat acc.1 (groupValue (as.take 16) (bs.take 16) (ea (g / 2)) (eb (g / 2)))
      accGroups sat ea eb fuel (g + 1) (r.1, r.2 ||| acc.2) (as.drop 16) (bs.drop 16)

/-- An FP64 accumulation: one fused multiply-add for each k (R110). -/
def accDouble (acc : Nat × BitVec 6) : List Nat → List Nat → Nat × BitVec 6
  | a :: as, b :: bs => let r := fFma fp64 acc.1 a b; accDouble (r.1, r.2 ||| acc.2) as bs
  | _, _ => acc

/-- An integer accumulation, modulo 2^32 with `OF` where it wraps (R111). -/
def accInt (acc : Int × BitVec 6) : List Int → List Int → Int × BitVec 6
  | a :: as, b :: bs =>
    let s := acc.1 + a * b
    let w := signedOf 32 (s % 2 ^ 32).toNat
    accInt (w, if w = s then acc.2 else acc.2 ||| flOF) as bs
  | _, _ => acc

/-- One element of an accumulation by the accumulator's type: its initial pattern, the operands' patterns, and the scales. `ACCSAT`
governs R109 alone (R194), and not the FP64 family (DEDUCED, log 65). -/
def accElem (type : Nat) (sat : Bool) (fa ft : Nat) (init : Nat) (as bs : List Nat) (ea eb : Nat → Nat) :
    Nat × BitVec 6 :=
  if type = 0x0C then accDouble (init, 0) as bs
  else if type = 0x04 then
    let r := accInt (signedOf 32 init, 0) (as.map (intElem fa)) (bs.map (intElem ft))
    ((r.1 % 2 ^ 32).toNat, r.2)
  else accGroups sat ea eb 64 0 (init % 2 ^ 32, 0) (as.map (fval (fmtOfCode fa))) (bs.map (fval (fmtOfCode ft)))

/-- Element e of a tile, as the pattern of its format; a tile whose tag is zero reads as zero (R184). -/
def tileElem (t : Tile) (tag : Nat) (e : Nat) : Nat :=
  if tag = 0 then 0 else bitsAt t.bytes.toNat (e * fmtBits (tag - 1)) (fmtBits (tag - 1))

/-- The scale of k rows 32g to 32g + 31 of a column of a tile (R82). -/
def tileScale (t : Tile) (tag g c : Nat) : Nat := if tag = 0 then 0x7F else bitsAt t.scale.toNat ((g * 32 + c) * 8) 8

/-- Element e of an accumulator (R82). -/
def accAt (a : Acc) (e : Nat) : Nat := bitsAt a.bytes.toNat (64 * e) 64

/-- An accumulator's bytes from its 512 elements. -/
def accBytes (es : List Nat) : BitVec 32768 := BitVec.ofNat 32768 (packLanes 64 es)

/-- The A operand of an `MM` as it reads it (R185–R189): patterns by row, tokens by row and block, and `LM`. -/
structure AOperand where
  elem : Nat → Nat → Nat
  token : Nat → Nat → Nat
  lm : Bool

/-- The A operand read from local memory. -/
def readA (m : Mem) (d : Desc) (sc : Bool) : AOperand :=
  let st := if d.fmt = 0x14 then readStream m d else { elems := [], ndecl := 0, differs := false }
  let elem := fun r k =>
    if d.fmt = 0x14 then (if r > d.size 1 ∨ k > d.size 0 then 0 else st.elems.getD (r * (d.size 0 + 1) + k) 0)
    else match d.aAddr r k with
      | none => 0
      | some a =>
        if fmtBits d.fmt = 4 then bitsAt (memByte m a.toNat).toNat (4 * (k % 2)) 4
        else leNat (memRead m a.toNat (fmtSize d.fmt))
  let token := fun r b =>
    if sc && r < d.tokenRows then (memByte m (d.tokenAddr r b).toNat).toNat else 0x7F
  { elem := elem, token := token, lm := st.differs }

/-- The 512 elements of an `MM` with their flags, row-major (R194). -/
def mmElems (type : Nat) (sat : Bool) (fa : Nat) (a : AOperand) (t : Tile) (tag nk : Nat) (init : Nat → Nat) :
    List (Nat × BitVec 6) :=
  let ft := if tag = 0 then fa else tag - 1
  let ks := List.range nk
  (List.range 16).flatMap (fun m =>
    let row := ks.map (a.elem m)
    (List.range 32).map (fun c =>
      accElem type sat fa ft (init (m * 32 + c)) row (ks.map (fun k => tileElem t tag (k * 32 + c)))
        (a.token m) (fun g => tileScale t tag g c)))

/-! ## Conversion of accumulator elements (R200, R201) -/

/-- An element of an accumulator of the given type tag put in an output format, with its flags. -/
def convAcc (tag f : Nat) (rnd : Rnd) (x : Nat) : Nat × BitVec 6 :=
  let v := if tag = 0 then FVal.fin false 0 0
    else if tag = 0x04 then ofInt (signedOf 32 x)
    else if tag = 0x0C then fval fp64 x else fval fp32 (x % 2 ^ 32)
  if intCode f then
    if tag = 0x04 ∨ tag = 0 then
      let r := clampInt (fmtBits f) (if tag = 0 then 0 else signedOf 32 x)
      ((r.1 % 2 ^ fmtBits f).toNat, r.2)
    else
      let r := toInt (fmtBits f) rnd v
      ((r.1 % 2 ^ fmtBits f).toNat, r.2)
  else toFloat (fmtOfCode f) rnd v

/-- The 512 elements of a drain, row-major, with the rounding and the draws taken at issue (R116, R200). -/
def drainElems (a : Acc) (tag f : Nat) (h : Held) : List (Nat × BitVec 6) :=
  (List.range 512).map (fun i =>
    convAcc tag f (rndOf h.cvrnd.toNat (genDraw h.seed (h.ctr + toWord i))) (accAt a i))

/-- Elements of `b` bits as bytes (R102). -/
def elemBytes (b : Nat) (es : List Nat) : List Byte := leBytes (es.length * b / 8) (packLanes b es)

/-- One packed block of up to 32 elements of `w` bytes, padded to a multiple of 4 bytes (R188, R216). -/
def packBlock (w : Nat) (es : List Nat) : List Byte :=
  let map := packLanes 1 (es.map (fun e => bit (e ≠ 0)))
  let vs := (es.filter (· ≠ 0)).flatMap (leBytes w)
  leBytes 4 map ++ vs ++ List.replicate (ceilDiv vs.length 4 * 4 - vs.length) 0

/-- A list cut in runs of `n`. -/
def chunksOf {α : Type} (n : Nat) : Nat → List α → List (List α)
  | 0, _ => []
  | fuel + 1, l => if l = [] then [] else l.take n :: chunksOf n fuel (l.drop n)

/-- A drain's payload (R200): dense, or a packed stream of 16 blocks. -/
def drainPayload (d : Desc) (es : List Nat) : List Byte :=
  if d.fmt = 0x14 then
    let blocks := (chunksOf 32 16 es).flatMap (packBlock (fmtSize d.efmt))
    leBytes 8 (blocks.length % 2 ^ 24 * 2 ^ 40 + d.efmt * 2 ^ 32 + 512) ++ leBytes 8 0 ++ blocks
  else elemBytes (fmtBits d.fmt) es

/-! ## Checks of the scan and of issue -/

/-- A stage's core; the supervisor cores have no matrix unit (R341). -/
def State.myCore (s : State) : Core :=
  match s.cur with
  | .stage i => s.core i.core
  | .sup _ => Core.reset

/-- The agent's core changed. -/
def State.modMyCore (s : State) (f : Core → Core) : State :=
  match s.cur with
  | .stage i => s.modCore i.core f
  | .sup _ => s

/-- The operand types of `MM` (R183, R185–R187, R194). A packed A operand holds no `SCALE`, so `SC` = 1 is not admitted with it
(DESIGN CHOICE, log 71). -/
def mmOk (d : Desc) (tag accTag n : Nat) (acc sc : Bool) : Bool :=
  let fa := d.elemFmt
  let ft := if tag = 0 then fa else tag - 1
  match famOf fa with
  | none => false
  | some (ks, _, type) =>
    d.ok && d.space = 0 && (denseFmt d.fmt || (d.fmt = 0x14 && packedElem d.efmt)) && famOf ft = famOf fa &&
    n * ks ≤ 1024 / fmtBits ft &&
    (!d.unf || (d.ndim = 2 && fmtBits d.fmt ≠ 4 && d.fmt ≠ 0x14 && !d.skew && !sc)) &&
    (!sc || d.fmt ∈ [0x09, 0x0A, 0x0C, 0x0D, 0x0E]) && (!acc || accTag = 0 || accTag = type)

/-- The operand types of `MM.W` (R196). A packed source holds no `SCALE`, so `SC` = 1 is not admitted with it (DESIGN CHOICE, log 71). -/
def mmwOk (d : Desc) (sc : Bool) : Bool :=
  d.ok && d.space = 0 && (denseFmt d.fmt || (0x10 ≤ d.fmt && d.fmt ≤ 0x13) || (d.fmt = 0x14 && packedElem d.efmt)) &&
    (!sc || (denseFmt d.fmt && !intCode d.fmt))

/-- The tile format that a fill leaves (R196). -/
def Desc.tileFmt (d : Desc) : Nat :=
  if d.fmt = 0x10 then 0x00 else if d.fmt = 0x14 then d.efmt else if 0x11 ≤ d.fmt then 0x09 else d.fmt

/-- The output formats of a drain (R198). -/
def drainFmt (d : Desc) : Bool :=
  d.fmt ∈ [0x0B, 0x08, 0x09, 0x0A, 0x0C, 0x0D, 0x0E, 0x03, 0x02, 0x00] || (d.fmt = 0x14 && packedElem d.efmt)

/-- The operand types of `MM.D` (R88, R198): its format; and of the fields it uses none that is reserved, so the space and the
reserved bits of word 1, and with a packed output those of word 7 (DEDUCED, log 68). -/
def drainOk (d : Desc) : Bool :=
  drainFmt d && d.word1Ok && (d.fmt ≠ 0x14 || d.word7Ok)

/-- The operand types of `MM.AR` and `MM.AW` (R201). -/
def accMemOk (d : Desc) (fs : List Nat) : Bool := d.ok && d.space = 0 && 1 ≤ d.ndim && d.fmt ∈ fs

/-- The formats of `MM.AR` and of `MM.AW` (R201). -/
def arFmts : List Nat := [0x0B, 0x08, 0x09, 0x0A, 0x0C, 0x0D, 0x03, 0x02, 0x00]
@[inherit_doc arFmts] def awFmts : List Nat := [0x0B, 0x08, 0x09, 0x0A, 0x03, 0x00]

/-- The payload length that a drain is checked with (R199). -/
def drainLen (d : Desc) : Nat :=
  if d.fmt = 0x14 then 16 + 16 * (4 + 32 * fmtSize d.efmt) else 512 * fmtBits d.fmt / 8

/-- A route entry: whether it is valid, and its port (R90). -/
def Ctx.route (c : Ctx) (e : Nat) : Bool × Nat :=
  let w := (c.rte.toList.getD (e % 16) 0).toNat
  (bitsAt w 3 1 = 1, bitsAt w 0 3)

/-- An output port of the slot in issue. -/
def State.myOut (s : State) (n : Nat) : Option OutPort :=
  match s.cur with
  | .stage i => tfind (s.slot i).outs n
  | .sup _ => none

/-- The causes of a drain at issue (R199): a payload longer than the consumer's buffers. -/
def drainCause (d : Desc) (token : Nat) (s : State) : Option (Nat × Word) :=
  match s.me.route token, s.myOut (s.me.route token).2 with
  | (true, _), some o => if drainLen d > o.size then some (0x04, addrValue 4 (drainLen d)) else none
  | _, _ => none

/-- A MAT syllable waits for a `TD.GET` in the queue that writes a register it reads (R202). -/
def getPending (xr : List (BitVec 6)) (s : State) : Bool := s.me.matq.any (fun h => meets h.matRegs.xw xr)

/-- A MAT syllable: it waits while the queue is full (R190); it joins the queue with what `cap` captures. -/
def matSyl (p : BitVec 4) (i : Instr) (r : Regs) (ok : Bool) (xval : State → Word) (s : State)
    (after : State → Held → State) : Syl :=
  { cls := 4, guard := p, typeOk := ok && !isSup s.cur, regs := r,
    wait := fun s => if s.me.matq.length ≥ 4 ∨ getPending (r.xr ++ r.xw) s then .stall else .go,
    act := fun s =>
      let h := s.capture i (xval s) []
      after s.tick1 h }

/-- A syllable put at the end of the MAT queue. -/
def State.enqueueMat (s : State) (h : Held) : State := s.modMe (fun c => { c with matq := c.matq ++ [h] })

/-- The firing has used the matrix registers (R224). -/
def State.markUsed (s : State) : State := s.modMe (fun c => { c with mu := true })

/-- The format tag of a tile, and the type tag of an accumulator, of the core in issue. -/
def State.tileTag (s : State) (t : BitVec 3) : BitVec 8 := s.myCore.tiles[t.toNat].fmt
@[inherit_doc State.tileTag] def State.accTag (s : State) (a : BitVec 2) : BitVec 8 := s.myCore.accs[a.toNat].type

/-- The type tag of an accumulator set. -/
def State.setAccTag (s : State) (a : BitVec 2) (n : Nat) : State :=
  s.modMyCore (fun k => { k with accs := k.accs.set a.toNat { k.accs[a.toNat] with type := BitVec.ofNat 8 n } })

/-- The format tag of a tile set. -/
def State.setTileTag (s : State) (t : BitVec 3) (n : Nat) : State :=
  s.modMyCore (fun k => { k with tiles := k.tiles.set t.toNat { k.tiles[t.toNat] with fmt := BitVec.ofNat 8 n } })

/-- The tag of a tile where it is not ready. -/
def State.tileWait (s : State) (t : BitVec 3) : List Nat := if s.tagKept t.toNat then [t.toNat] else []

/-- Whether a tile's tag that is not ready waits for an engine's fill and not for an `MM.W` of the firing (R84, R288). -/
def State.engineTile (s : State) (t : BitVec 3) : Bool :=
  !s.me.tags.ready.getLsbD t.toNat && !s.me.matq.any (fun h => bitsAt h.word.toNat 22 6 = 3 && bitsAt h.word.toNat 13 3 = t.toNat) &&
    !s.myCore.mats.any (fun r => r.tile = some t.toNat)

/-! ## The instructions -/

/-- `MM` (R194). -/
def execMm (p : BitVec 4) (a : BitVec 2) (t : BitVec 3) (d : BitVec 5) (c k : BitVec 1) (n : BitVec 6) (s : State) :
    Out :=
  let td := s.desc d
  let nk := (n.toNat + 1) * ((famOf td.elemFmt).getD (1, 1, 0)).1
  issue { matSyl p (.mm p a t d c k n) {} (mmOk td (s.tileTag t).toNat (s.accTag a).toNat (n.toNat + 1) (c = 1) (k = 1))
      (fun _ => 0) s (fun s h =>
        (s.enqueueMat { h with tags := s.tileWait t, acquire := s.engineTile t, tileTag := s.tileTag t,
                               accTag := if c = 1 then s.accTag a else 0 }).markUsed.setAccTag a
          ((famOf td.elemFmt).getD (1, 1, 0)).2.2) with
    cause := fun s => spansCause 4 (2 ^ 21) (td.aSpans (s.localMem s.cur) nk (k = 1)) } s

/-- `MM.D` by a route entry (R198). -/
def execMmDRoute (p : BitVec 4) (a : BitVec 2) (d : BitVec 5) (e : BitVec 4) (s : State) : Out :=
  let td := s.desc d
  issue { matSyl p (.mmDRoute p a d e) {} (drainOk td) (fun _ => toWord e.toNat) s (fun s h =>
      let s' := (s.enqueueMat { h with accTag := s.accTag a }).markUsed
      if (s.me.route e.toNat).1 ∧ h.cvrnd = 2 then s'.advanceCtr 512 else s') with
    cause := drainCause td e.toNat } s

/-- The steering register of a field (R198). -/
def steerReg (g : BitVec 3) : BitVec 6 := BitVec.ofNat 6 (8 + g.toNat)

/-- `MM.D` by a steering register (R198). -/
def execMmDSteer (p : BitVec 4) (a : BitVec 2) (g : BitVec 3) (d : BitVec 5) (s : State) : Out :=
  let td := s.desc d
  let token := fun (s : State) => (s.rx (steerReg g)).toNat % 16
  issue { matSyl p (.mmDSteer p a g d) { xr := [steerReg g] } (drainOk td) (fun s => toWord (token s)) s (fun s h =>
      let s' := (s.enqueueMat { h with accTag := s.accTag a }).markUsed
      if (s.me.route (token s)).1 ∧ h.cvrnd = 2 then s'.advanceCtr 512 else s') with
    early := [steerReg g],
    cause := fun s => drainCause td (token s) s } s

/-- `MM.Z` (R195). -/
def execMmZ (p : BitVec 4) (a : BitVec 2) (s : State) : Out :=
  issue (matSyl p (.mmZ p a) {} true (fun _ => 0) s (fun s h => ((s.enqueueMat h).markUsed.setAccTag a 0))) s

/-- `MM.W` (R196, R197): its tag becomes not ready, and a codebook source takes a reference to the current bank. -/
def execMmW (p : BitVec 4) (t : BitVec 3) (d : BitVec 5) (k : BitVec 1) (s : State) : Out :=
  let td := s.desc d
  let y := matSyl p (.mmW p t d k) {} (mmwOk td (k = 1)) (fun _ => 0) s (fun s h =>
      let s := (((s.enqueueMat h).markUsed).setTileTag t (td.tileFmt + 1)).takeTag t.toNat none
      if 0x11 ≤ td.fmt ∧ td.fmt ≤ 0x13 then
        s.modMe (fun c => if h.bank then { c with refs1 := c.refs1 + 1 } else { c with refs0 := c.refs0 + 1 })
      else s)
  issue { y with
    cause := fun s => spansCause 4 (2 ^ 21) (td.fillSpans (s.localMem s.cur) ++
      if k = 1 then [{ addr := td.scale, len := 256, al := 1 }] else []),
    wait := fun s => if s.tileWait t ≠ [] then .tag (s.tileWait t) else y.wait s } s

/-- `MM.AR` (R201). -/
def execMmAr (p : BitVec 4) (a : BitVec 2) (d : BitVec 5) (s : State) : Out :=
  let td := s.desc d
  issue { matSyl p (.mmAr p a d) {}
      (accMemOk td arFmts) (fun _ => 0) s (fun s h =>
        let s' := (s.enqueueMat { h with accTag := s.accTag a }).markUsed
        if h.cvrnd = 2 then s'.advanceCtr 512 else s') with
    cause := fun _ => spansCause 4 (2 ^ 21) td.accSpans } s

/-- The accumulator type that `MM.AW` loads (R201). -/
def awType (f : Nat) : Nat := if f = 0x0B then 0x0C else if intCode f then 0x04 else 0x09

/-- `MM.AW` (R201). -/
def execMmAw (p : BitVec 4) (a : BitVec 2) (d : BitVec 5) (s : State) : Out :=
  let td := s.desc d
  issue { matSyl p (.mmAw p a d) {} (accMemOk td awFmts) (fun _ => 0) s (fun s h =>
      ((s.enqueueMat h).markUsed).setAccTag a (awType td.fmt)) with
    cause := fun _ => spansCause 4 (2 ^ 21) td.accSpans } s

/-- The register that an operand names. -/
def opndReg : Opnd 6 → List (BitVec 6)
  | .fld r => [r]
  | .ext1 _ => []
  | .ext2 _ _ => []

/-- `TD.SET` (R202): the word from a register, or an immediate zero-extended. -/
def execTdSet (p : BitVec 4) (x : Opnd 6) (d : BitVec 5) (w : BitVec 4) (s : State) : Out :=
  issue (matSyl p (.tdSet p x d w) { xr := opndReg x } true (fun s => match x with
    | .fld r => s.rx r
    | .ext1 _ => toWord (immUnsigned x)
    | .ext2 _ _ => toWord (immUnsigned x)) s (fun s h => s.enqueueMat h)) s

/-- `TD.GET` (R202). -/
def execTdGet (p : BitVec 4) (x : BitVec 6) (d : BitVec 5) (w : BitVec 4) (s : State) : Out :=
  issue (matSyl p (.tdGet p x d w) { xw := [x] } (s.desc d).ok (fun _ => 0) s (fun s h => s.enqueueMat h)) s

/-- `TD.STEP` (R203): the count from a register, or an immediate sign-extended. It writes its descriptor, and the checks of R88 are not
made of it (DEDUCED, log 68). -/
def execTdStep (p : BitVec 4) (x : Opnd 6) (d : BitVec 5) (m : BitVec 2) (s : State) : Out :=
  issue (matSyl p (.tdStep p x d m) { xr := opndReg x } true (fun s => match x with
    | .fld r => s.rx r
    | .ext1 _ => intWord (immSigned x)
    | .ext2 _ _ => intWord (immSigned x)) s (fun s h => s.enqueueMat h)) s

/-! ## Dispatch (R190) -/

/-- Whether an earlier access of a firing to its own scratchpad has still to be made before an `MM.AR` may write there: a local load or
atomic that waits, a store that is not written, or a load or an atomic through another space (R285, R290; log 46). -/
def State.arWaits (s : State) (i : SlotId) (h : Held) : Bool :=
  s.accessBefore (.stage i) h.id ||
  (s.pendingStores (.stage i)).any (fun st => st.id < h.id && st.by_ = .stage i) ||
  s.reqs.any (fun q => q.id < h.id && q.own = .stage i && !q.performed && q.place.home = .core i.core)

/-- Whether a MAT syllable may access local memory now: no held syllable before it is an acquire that has not completed (R288), and an
`MM.AR` writes behind the earlier accesses of its firing. -/
def State.matMemory (s : State) (i : SlotId) (h : Held) : Bool :=
  (bitsAt h.word.toNat 22 6 ∉ [0, 3, 4, 5] || !s.behindAcquire (.stage i) h.id) &&
  (bitsAt h.word.toNat 22 6 ≠ 4 || !s.arWaits i h)

/-- Whether the head of a slot's MAT queue can dispatch: at most one does in a cycle. -/
def State.matReady (s : State) (i : SlotId) : Bool :=
  let c := s.ctx (.stage i)
  let k := s.core i.core
  match c.matq with
  | [] => false
  | h :: _ =>
    let w := h.word.toNat
    let a : BitVec 2 := BitVec.ofNat 2 (bitsAt w 16 2)
    let path := k.drainFree ≤ s.cycle && (s.slot i).drains = []
    c.matFree ≤ s.cycle && s.matMemory i h &&
    match bitsAt w 22 6 with
    | 0 => h.tags.all (fun t => c.tags.ready.getLsbD t) && k.macFree ≤ s.cycle && k.accRead[a.toNat] ≤ s.cycle &&
        k.accLoaded[a.toNat] ≤ s.cycle
    | 1 => path
    | 2 => k.accRead[a.toNat] ≤ s.cycle
    | 3 => k.weightFree ≤ s.cycle && !(s.cycle < k.macFree && k.macTile = bitsAt w 13 3)
    | 4 => path
    | 5 => path && k.accLanded[a.toNat] ≤ s.cycle
    | _ => true

/-- A run of the matrix unit recorded, with the event that ends it. -/
def State.startRun (s : State) (i : SlotId) (acc tile : Option Nat) (due : Nat) (flags : BitVec 6) (lm : Bool)
    (bank : Option Bool) : State :=
  let r : MatRun := { id := s.uid, slot := i, acc := acc, tile := tile, due := due, flags := flags, lm := lm, bank := bank }
  let s' := (s.modCore i.core (fun k => { k with mats := k.mats ++ [r] })).tick1
  let s' := match acc with
    | some a => s'.schedule due priMatrix (.accumulatorLanded i.core a)
    | none => s'
  match tile with
  | some t => s'.schedule due priMatrix (.tileFillDone i t)
  | none => s'

/-- A machine check that the matrix unit met (R191): raised at the next bundle boundary. -/
def State.matCheck (s : State) (i : SlotId) (bad : Option Nat) : State :=
  match bad with
  | none => s
  | some w => s.modCtx (.stage i) (fun c => { c with after := c.after ++ [(0x0B, addrValue 0 w)] })

/-- The words of a tile's bytes, of its scale row, and of an accumulator, in the unit of the matrix registers (R220): they lie as
in the save area from 0x2000 on (log 47). -/
def tileWords (t : Nat) : List Nat := words8 (4096 * t) 4096
@[inherit_doc tileWords] def scaleWords (t : Nat) : List Nat := words8 (0x8000 + 256 * t) 256
@[inherit_doc tileWords] def accWords (a : Nat) : List Nat := words8 (0x9000 + 4096 * a) 4096

/-- Matrix registers read by the matrix unit: single-bit errors are corrected, both kinds are counted (R366, R369), and the first
uncorrectable word raises machine check at the next bundle boundary (R191, R220). -/
def State.meetMat (s : State) (i : SlotId) (ws : List Nat) : State × Bool :=
  let k := s.core i.core
  if k.matBad = [] ∧ k.matOnce = [] then (s, false)
  else
    let unc := ws.filter (· ∈ k.matBad)
    let cor := ws.filter (· ∈ k.matOnce)
    let t := (s.setCore i.core { k with matOnce := k.matOnce.filter (· ∉ cor) }).countErrors i.core.die cor.length unc.length
    match unc.head? with
    | some w => (t.modCtx (.stage i) (fun c => { c with after := c.after ++ [(0x0B, addrValue 4 w)] }), true)
    | none => (t, false)

/-- Matrix registers written whole: their errors go (R367). -/
def Core.mendMat (k : Core) (ws : List Nat) : Core :=
  if k.matBad = [] ∧ k.matOnce = [] then k
  else { k with matBad := k.matBad.filter (· ∉ ws), matOnce := k.matOnce.filter (· ∉ ws) }

/-- Local memory read by the matrix unit: its single-bit errors are corrected, and both kinds are counted (R366, R369). -/
def State.meetSpans (s : State) (c : CoreId) (ss : List Span) : State :=
  if (s.core c).bad = [] ∧ (s.core c).badOnce = [] then s else ss.foldl (fun s sp => s.meetCore c sp.addr.toNat sp.len) s

/-! ## The bank accesses of the matrix unit (R173, R191) -/

/-- The banks of spans. -/
def spansBanks (ss : List Span) : List Nat := (ss.flatMap (fun sp => banksOf sp.addr.toNat sp.len)).dedup

/-- The spans of the elements of the A operand of k indices from `k` on, with the tokens of the blocks that begin there (R185,
R187). -/
def Desc.stepSpans (d : Desc) (k ks : Nat) (sc : Bool) : List Span :=
  let n := fmtSize d.fmt
  (List.range 16).flatMap (fun r => (List.range ks).filterMap (fun j => (d.aAddr r (k + j)).map (fun a =>
    { addr := a, len := n, al := n }))) ++
  if sc && k % 32 = 0 then (List.range d.tokenRows).map (fun r => { addr := d.tokenAddr r (k / 32), len := 1, al := 1 }) else []

/-- A span cut in `n` parts. -/
def cutSpan (sp : Span) (n : Nat) : List (List Span) :=
  (List.range n).map (fun j =>
    let lo := sp.len * j / n
    [{ addr := sp.addr + lo, len := sp.len * (j + 1) / n - lo, al := 1 }])

/-- The banks of each cycle of an `MM`: a k-step reads in its first cycle; a packed stream is read evenly over the cycles (log 72). -/
def Desc.mmSteps (d : Desc) (m : Mem) (n ks c : Nat) (sc : Bool) : List (List Nat) :=
  if d.fmt = 0x14 then
    ((streamSpans m d).take 1).flatMap (fun sp => (cutSpan sp (n * c)).map spansBanks)
  else (List.range n).flatMap (fun i => spansBanks (d.stepSpans (ks * i) ks sc) :: List.replicate (c - 1) [])

/-- The banks of each 512 bytes that the weight path reads (R197); the scale row is read with the first (log 72). -/
def fillSteps (ss scale : List Span) (n : Nat) : List (List Nat) :=
  let bytes := ss.flatMap (fun sp => (List.range sp.len).map (fun o => (sp.addr.toNat + o) / 16 % 32))
  (chunksOf 512 n bytes).zipIdx.map (fun e => if e.2 = 0 then (e.1 ++ spansBanks scale).dedup else e.1.dedup)

/-- The banks of the 8 cycles of `MM.AR` and `MM.AW`, two rows in each (log 72). -/
def Desc.accSteps (d : Desc) : List (List Nat) :=
  (List.range 8).map (fun j => spansBanks ((d.accCells.filter (fun e => e.1 / 2 = j)).map (fun e =>
    { addr := e.2.2, len := fmtSize d.fmt, al := 1 })))

/-- How many elements each of the 8 steps of an `MM.AR` writes. -/
def Desc.accCounts (d : Desc) : List Nat := (List.range 8).map (fun j => (d.accCells.filter (fun e => e.1 / 2 = j)).length)

/-- A core whose path has lost a cycle: what it does there ends a cycle later (R173, R191). -/
def Core.slip (k : Core) (m : MatSteps) : Core :=
  let acc := (k.mats.find? (fun (r : MatRun) => r.id = m.id)).bind (fun r => r.acc)
  let k : Core := { k with mats := k.mats.map (fun r => if r.id = m.id then { r with due := r.due + 1 } else r) }
  let k : Core := match acc with
    | none => k
    | some a => { k with
        accLanded := k.accLanded.setIfInBounds a (k.accLanded.toList.getD a 0 + 1),
        accLoaded := if m.path = 2 then k.accLoaded.setIfInBounds a (k.accLoaded.toList.getD a 0 + 1) else k.accLoaded }
  match m.path with
  | 0 => { k with macFree := k.macFree + 1, matReads := max k.matReads (k.macFree + 1) }
  | 1 => { k with weightFree := k.weightFree + 1, matReads := max k.matReads (k.weightFree + 1) }
  | _ => { k with drainFree := k.drainFree + 1, matReads := if acc.isSome then max k.matReads (k.drainFree + 1) else k.matReads }

/-- A core whose drain of an accumulator ends a cycle later. -/
def Core.slipRead (k : Core) (acc : Nat) : Core :=
  { k with accRead := k.accRead.setIfInBounds acc (k.accRead.toList.getD acc 0 + 1) }

/-- A core whose drain path begins a cycle later. -/
def Core.slipDrain (k : Core) (e : Drain) : Core :=
  { k.slipRead e.acc with
    drainFree := k.drainFree + 1,
    matSteps := k.matSteps.map (fun m => if m.id = e.id then { m with start := m.start + 1 } else m) }

/-- A step that has lost a bank (R173): its path ends a cycle later, and so does a drain that waits for the
accumulator that the path is to land. -/
def State.slipMat (s : State) (c : CoreId) (m : MatSteps) : State :=
  let k := s.core c
  let acc := ((k.mats.find? (fun (r : MatRun) => r.id = m.id)).bind (fun r => r.acc)).getD 4
  let waiting : Drain → Bool := fun e => m.path = 0 && e.acc = acc && e.readDone = k.accLanded.toList.getD acc 0 + 8
  let own : Drain → Bool := fun e => e.id = m.id
  let drains := (s.slots.filter (fun e => e.1.core = c)).flatMap (fun e => e.2.drains)
  let k := (drains.filter waiting).foldl (fun k e => k.slipDrain e) (k.slip m)
  let k := (drains.filter own).foldl (fun k e => k.slipRead e.acc) k
  let s := s.setCore c k
  { s with slots := s.slots.map (fun e => if e.1.core = c then (e.1, { e.2 with drains := e.2.drains.map (fun d =>
      if waiting d || own d then { d with readDone := d.readDone + 1 } else d) }) else e) }

/-- The next elements that a step of an `MM.AR` writes, with the full bits of their granules (R174, R201); those of its last step are
written as it ends. -/
def State.stepWrite (s : State) (c : CoreId) (m : MatSteps) : State :=
  match m.writes, s.slots.find? (fun e => e.1.core = c && e.2.drains.any (fun d => d.id = m.id)) with
  | n :: _ :: _, some e =>
    let out := (e.2.drains.filter (fun d => d.id = m.id)).flatMap (fun d => d.store.take n)
    let s := out.foldl (fun s p => s.writeBanks (.stage e.1) p.1 p.2 true) s
    s.modSlot e.1 (fun v => { v with drains := v.drains.map (fun d => if d.id = m.id then { d with store := d.store.drop n } else d) })
  | _, _ => s

/-- A path of the matrix unit has a cycle (R173, R191): it takes the banks of its next step where they have served no other agent in the
cycle. -/
def State.stepMat (s : State) (c : CoreId) (id : Nat) : State :=
  match (s.core c).matSteps.find? (fun m => m.id = id) with
  | none => s
  | some m =>
    let put := fun (s : State) (l : List MatSteps) => s.modCore c (fun k => { k with
      matSteps := k.matSteps.flatMap (fun x => if x.id = id then l else [x]) })
    match m.banks with
    | [] => put s []
    | b :: r =>
      if s.cycle < m.start then s
      else if meets b (s.arb c).taken || meets b (s.arb c).ported then s.slipMat c m
      else
        put ((s.setArb c ((s.arb c).serve b false)).stepWrite c m) [{ m with banks := r, writes := m.writes.drop 1 }]

/-- The bank accesses of the runs and drains of a core in a cycle, of those that have begun since `from_`: the weight path, the MAC array,
the drain path (R173; log 72). -/
def State.stepCore (s : State) (c : CoreId) (from_ : Nat) : State :=
  [1, 0, 2].foldl (fun s p =>
    ((s.core c).matSteps.filter (fun m => m.path = p && decide (from_ ≤ m.id))).foldl (fun s m => s.stepMat c m.id) s) s

/-- The bank accesses of a run or a drain that begins. -/
def State.startSteps (s : State) (c : CoreId) (m : MatSteps) : State :=
  s.modCore c (fun k => { k with matSteps := k.matSteps ++ [m] })

/-- `MM` dispatches (R190, R194): the accumulator takes its result, which lands 8 cycles after it leaves the MAC array. Local memory is
read as it stands at the dispatch, though the banks are taken step by step (DESIGN CHOICE, log 72). Where
an operand met an uncorrectable error the accumulator keeps its old value (R229). -/
def State.runMm (s : State) (i : SlotId) (h : Held) (d : Desc) : State :=
  let w := h.word.toNat
  let a : BitVec 2 := BitVec.ofNat 2 (bitsAt w 16 2)
  let t : BitVec 3 := BitVec.ofNat 3 (bitsAt w 13 3)
  let n := bitsAt w 0 6 + 1
  let sc := bitsAt w 6 1 = 1
  let fam := (famOf d.elemFmt).getD (1, 1, 0x09)
  let m := s.localMem (.stage i)
  let spans := d.aSpans m (n * fam.1) sc
  let bad := spansBad (s.localBad (.stage i)) spans
  let (s, lost) := (s.meetSpans i.core spans).meetMat i
    ((if h.tileTag = 0 then [] else tileWords t.toNat ++ scaleWords t.toNat) ++ if h.accTag = 0 then [] else accWords a.toNat)
  let k := s.core i.core
  let op := readA m d sc
  let old := k.accs[a.toNat]
  let init := fun e => if h.accTag = 0 then 0 else accAt old e
  let es := mmElems fam.2.2 d.accsat d.elemFmt op k.tiles[t.toNat] h.tileTag.toNat (n * fam.1) init
  let dur := n * fam.2.1
  let keep := bad.isSome || lost
  let s := s.setCore i.core { (if keep then k else k.mendMat (accWords a.toNat)) with
    accs := if keep then k.accs else k.accs.set a.toNat { old with bytes := accBytes (es.map (·.1)) },
    macFree := s.cycle + dur, macTile := t.toNat, matReads := max k.matReads (s.cycle + dur),
    accLanded := k.accLanded.set a.toNat (s.cycle + dur + 8) }
  let run := s.uid
  let s := ((s.matCheck i bad).startRun i (some a.toNat) none (s.cycle + dur + 8)
    (if keep then 0 else orFlags (es.map (·.2))) op.lm none).startSteps i.core
      { id := run, path := 0, start := s.cycle, banks := d.mmSteps m n fam.1 fam.2.1 sc }
  h.tags.foldl (fun s t => s.consumeTag (.stage i) t) s

/-- The bytes of a filled tile and whether `LM` is set (R112, R188, R196, R207). -/
def fillBytes (m : Mem) (d : Desc) (bank : BitVec 4096) : BitVec 32768 × Bool :=
  if d.fmt = 0x14 then
    let st := readStream m d
    let b := fmtBits d.efmt
    (BitVec.ofNat 32768 (packLanes b (st.elems.take (32768 / b))), st.differs || st.ndecl ≠ 32768 / b)
  else
    let bs := spansRead m (d.fillSpans m)
    if d.fmt = 0x10 then
      let p := d.planes
      let group := fun g => (bs.drop (16 * p * g)).take (16 * p)
      let value := fun (raw : List Byte) (i : Nat) =>
        let q := (List.range p).foldl (fun q pl => 2 * q + bitsAt (raw.getD (16 * pl + i / 8) 0).toNat (i % 8) 1) 0
        signedOf p q * 2 ^ (8 - p) + (if p < 8 then 2 ^ (7 - p) else 0)
      let es := (List.range 32).flatMap (fun g => (List.range 128).map (fun i => laneInt 8 (value (group g) i)))
      (BitVec.ofNat 32768 (packLanes 8 es), false)
    else if 0x11 ≤ d.fmt then
      let b := d.fmt - 0x0F
      let es := (streamElems b 2048 (leNat bs)).zipIdx.map (fun e => bitsAt bank.toNat (16 * (16 * (e.2 / 128) + e.1)) 16)
      (BitVec.ofNat 32768 (packLanes 16 es), false)
    else (BitVec.ofNat 32768 (leNat bs), false)

/-- The bytes of a fill that the weight path carries (R196). -/
def Desc.fillLen (d : Desc) (m : Mem) : Nat :=
  if d.fmt = 0x10 then 512 * d.planes else ((d.fillSpans m).map (·.len)).foldl (· + ·) 0

/-- `MM.W` dispatches (R197). -/
def State.runMmW (s : State) (i : SlotId) (h : Held) (d : Desc) : State :=
  let w := h.word.toNat
  let t : BitVec 3 := BitVec.ofNat 3 (bitsAt w 13 3)
  let sc := bitsAt w 6 1 = 1
  let c := s.ctx (.stage i)
  let m := s.localMem (.stage i)
  let scaleSpan : List Span := if sc then [{ addr := d.scale, len := 256, al := 1 }] else []
  let bad := spansBad (s.localBad (.stage i)) (d.fillSpans m ++ scaleSpan)
  let s := s.meetSpans i.core (d.fillSpans m ++ scaleSpan)
  let k := s.core i.core
  let f := fillBytes m d (if h.bank then c.bank1 else c.bank0)
  let scale : BitVec 2048 := if sc then BitVec.ofNat 2048 (leNat (memRead m d.scale 256))
    else BitVec.ofNat 2048 (packLanes 8 (List.replicate 256 0x7F))
  let reads := ceilDiv (d.fillLen m) 512
  let old := k.tiles[t.toNat]
  let s := s.setCore i.core { (if bad.isSome then k else k.mendMat (tileWords t.toNat ++ scaleWords t.toNat)) with
    tiles := if bad.isSome then k.tiles else k.tiles.set t.toNat { old with bytes := f.1, scale := scale },
    weightFree := s.cycle + reads, matReads := max k.matReads (s.cycle + reads) }
  ((s.matCheck i bad).startRun i none (some t.toNat) (s.cycle + reads + 4) 0 f.2
    (if 0x11 ≤ d.fmt ∧ d.fmt ≤ 0x13 then some h.bank else none)).startSteps i.core
      { id := s.uid, path := 1, start := s.cycle, banks := fillSteps (d.fillSpans m) scaleSpan reads }

/-- The cycle at which the drain path has read an accumulator (R190). -/
def Core.readDone (k : Core) (now : Nat) (a : BitVec 2) : Nat := max now k.accLanded[a.toNat] + 8

/-- A drain of a slot recorded. -/
def State.startDrain (s : State) (i : SlotId) (e : Drain) : State :=
  (s.modSlot i (fun v => { v with drains := v.drains ++ [e] })).tick1

/-- `MM.D` dispatches (R199, R200): it reads the accumulator; where its entry is valid its packet leaves once the port holds a
credit, and else the drain ends when it has read, and raises no flag of a conversion (DESIGN CHOICE, log 102). A drain whose accumulator
has an uncorrectable error sends nothing (log 47). -/
def State.runMmD (s : State) (i : SlotId) (h : Held) (d : Desc) : State :=
  let a : BitVec 2 := BitVec.ofNat 2 (bitsAt h.word.toNat 16 2)
  let (s, lost) := s.meetMat i (if h.accTag = 0 then [] else accWords a.toNat)
  let k := s.core i.core
  let c := s.ctx (.stage i)
  let read := k.readDone s.cycle a
  let es := drainElems k.accs[a.toNat] h.accTag.toNat d.elemFmt h
  let pay := drainPayload d (es.map (·.1))
  let route := c.route h.xval.toNat
  let s := s.setCore i.core { k with accRead := k.accRead.set a.toNat read, drainFree := read }
  let none_ : Packet := { w0 := 0, w1 := 0, w2 := 0, w3 := 0, payload := [] }
  if !route.1 || lost then
    (s.startDrain i { id := s.uid, acc := a.toNat, port := none, pkt := none_, store := [], flags := 0,
                      readDone := read }).schedule read priWaited (.mmArWriteDone i s.uid)
  else
    let pkt : Packet := { w0 := toWord (bit (d.fmt = 0x14)), w1 := toWord pay.length, w2 := toWord c.cr.rnd.toNat,
                          w3 := h.xval, payload := pay }
    (s.startDrain i { id := s.uid, acc := a.toNat, port := some route.2, pkt := pkt, store := [],
                      flags := orFlags (es.map (·.2)), readDone := read }).schedule read priMatrix (.mmDrainSend i s.uid)

/-- `MM.AR` dispatches (R201): it writes the elements that are not skipped when the drain path has read the accumulator. -/
def State.runMmAr (s : State) (i : SlotId) (h : Held) (d : Desc) : State :=
  let a : BitVec 2 := BitVec.ofNat 2 (bitsAt h.word.toNat 16 2)
  let (s, lost) := s.meetMat i (if h.accTag = 0 then [] else accWords a.toNat)
  let k := s.core i.core
  let read := k.readDone s.cycle a
  let es := drainElems k.accs[a.toNat] h.accTag.toNat d.fmt h
  let moved := if lost then [] else d.accCells.map (fun e => (e.2.2.toNat, es.getD (e.1 * 32 + e.2.1) (0, 0)))
  let s := s.setCore i.core { k with accRead := k.accRead.set a.toNat read, drainFree := read }
  ((s.startDrain i { id := s.uid, acc := a.toNat, port := none, pkt := { w0 := 0, w1 := 0, w2 := 0, w3 := 0, payload := [] },
                     store := moved.map (fun e => (e.1, leBytes (fmtSize d.fmt) e.2.1)), flags := orFlags (moved.map (·.2.2)),
                     readDone := read, held := h.id }).schedule read priWaited (.mmArWriteDone i s.uid)).startSteps i.core
    { id := s.uid, path := 2, start := read - 7, banks := if lost then [] else d.accSteps, writes := if lost then [] else d.accCounts }

/-- An element that `MM.AW` loads, as the accumulator holds it (R201): a NaN of FP32 becomes the canonical one, as in every conversion, and
an FP64 element is taken bit by bit (DESIGN CHOICE, log 87). -/
def awElem (f n : Nat) : Nat :=
  if f = 0x0B then n
  else if intCode f then (signedOf (fmtBits f) n % 2 ^ 32).toNat
  else (toFloat fp32 .rne (fval (fmtOfCode f) n)).1

/-- `MM.AW` dispatches (R201). -/
def State.runMmAw (s : State) (i : SlotId) (h : Held) (d : Desc) : State :=
  let a : BitVec 2 := BitVec.ofNat 2 (bitsAt h.word.toNat 16 2)
  let m := s.localMem (.stage i)
  let bad := spansBad (s.localBad (.stage i)) d.accSpans
  let s := s.meetSpans i.core d.accSpans
  let k := s.core i.core
  let elem := fun (e : Nat) =>
    if e / 32 ≤ d.size 1 ∧ e % 32 ≤ d.size 0 then
      awElem d.fmt (leNat (memRead m (d.rowAddr (e / 32) ((e % 32 : Nat) * d.stride 0)).toNat (fmtSize d.fmt)))
    else 0
  let old := k.accs[a.toNat]
  let done := s.cycle + 8
  let s := s.setCore i.core { (if bad.isSome then k else k.mendMat (accWords a.toNat)) with
    accs := if bad.isSome then k.accs else k.accs.set a.toNat { old with bytes := accBytes ((List.range 512).map elem) },
    drainFree := done, matReads := max k.matReads done, accLanded := k.accLanded.set a.toNat done,
    accLoaded := k.accLoaded.set a.toNat done }
  ((s.matCheck i bad).startRun i (some a.toNat) none done 0 false none).startSteps i.core
    { id := s.uid, path := 2, start := s.cycle, banks := d.accSteps }

/-- The words of the descriptors that a MAT syllable reads as it dispatches, and the one that it writes whole (R202, R203). -/
def Held.tdWords (h : Held) : List Nat × List Nat :=
  let w := h.word.toNat
  match bitsAt w 22 6 with
  | 2 => ([], [])
  | 6 => ([], [577 + 8 * bitsAt w 7 5 + bitsAt w 3 4 % 8])
  | 7 => ([577 + 8 * bitsAt w 7 5 + bitsAt w 3 4 % 8], [])
  | 8 => (descWords (bitsAt w 7 5), [])
  | _ => (descWords (bitsAt w 8 5), [])

/-- Single-bit errors of the descriptor words that a dispatching syllable reads are corrected; one in the word that it writes goes
(R366; log 69). -/
def State.meetDesc (s : State) (i : SlotId) (h : Held) : State :=
  let s := s.meetRegs (.stage i) h.tdWords.1
  if h.tdWords.2 = [] then s
  else s.modCtx (.stage i) (fun c => { c with regOnce := c.regOnce.filter (· ∉ h.tdWords.2) })

/-- A MAT syllable dispatches. -/
def State.dispatchMat (s : State) (i : SlotId) (h : Held) : State :=
  let w := h.word.toNat
  let s := s.meetDesc i h
  let c := s.ctx (.stage i)
  let d : Desc := c.td[(BitVec.ofNat 5 (bitsAt w 8 5)).toNat]
  match bitsAt w 22 6 with
  | 0 => s.runMm i h d
  | 1 => s.runMmD i h d
  | 2 =>
    let a : BitVec 2 := BitVec.ofNat 2 (bitsAt w 16 2)
    s.modCore i.core (fun k => { k.mendMat (accWords a.toNat) with accs := k.accs.set a.toNat { k.accs[a.toNat] with bytes := 0 } })
  | 3 => s.runMmW i h d
  | 4 => s.runMmAr i h d
  | 5 => s.runMmAw i h d
  | 7 =>
    let td : Desc := c.td[(BitVec.ofNat 5 (bitsAt w 7 5)).toNat]
    s.fly (.stage i) .matrix 2 [.x (BitVec.ofNat 6 (bitsAt w 12 6)) (td.toList.getD (bitsAt w 3 4) 0)] 0 none
  | _ => s.modCtx (.stage i) (fun c => { c with td := h.onTd c.td })

/-- `MAT_DISPATCH` (R190): the head of the queue dispatches once its resource is free; until then the event does nothing. -/
def execMatDispatch (i : SlotId) (s : State) : Out :=
  match (s.ctx (.stage i)).matq with
  | [] => .fault .noSuchItem
  | h :: r =>
    if s.matReady i then
      .next ((s.modCtx (.stage i) (fun c => { c with matq := r, matFree := s.cycle + 1 })).dispatchMat i h)
    else .next s

/-! ## Completion -/

/-- A run that has ended taken out, and its flags set (R192). -/
def State.endRun (s : State) (c : CoreId) (r : MatRun) : State :=
  (s.modCore c (fun k => { k with mats := k.mats.filter (fun q => q.id ≠ r.id) })).modCtx (.stage r.slot) (fun x =>
    (x.flag r.flags).modCr (fun cr => if r.lm then { cr with lm := true } else cr))

/-- `ACCUMULATOR_LANDED` (R190, R192); a run that has lost banks lands later (R173). -/
def execAccumulatorLanded (c : CoreId) (acc : Nat) (s : State) : Out :=
  match (s.core c).mats.find? (fun r => r.acc = some acc) with
  | some r =>
    if s.cycle < r.due then .next (s.schedule r.due priMatrix (.accumulatorLanded c acc)) else .next (s.endRun c r)
  | none => .fault .noSuchItem

/-- Whether a held syllable is an `MM.W` into a tile. -/
def Held.fills (h : Held) (tile : Nat) : Bool := bitsAt h.word.toNat 22 6 = 3 && bitsAt h.word.toNat 13 3 = tile

/-- The MAT queue after a fill of a tile: what stands before the next `MM.W` into that tile waits for it no longer (R197). -/
def releaseTile (tile : Nat) : List Held → List Held
  | [] => []
  | h :: r => if h.fills tile then h :: r else { h with tags := h.tags.filter (· ≠ tile) } :: releaseTile tile r

/-- A fill of a tile by `MM.W` has ended: its tag becomes ready, unless a later `MM.W` into the tile has been issued (R85,
R197). -/
def Ctx.endFill (c : Ctx) (tile : Nat) (another : Bool) : Ctx :=
  if another then c
  else ({ c with matq := releaseTile tile c.matq }).setReady tile (!c.matq.any (fun h => h.fills tile))

/-- `TILE_FILL_DONE` (R197): the tag becomes ready and the bank reference is released; a fill that has lost banks ends later
(R173). -/
def execTileFillDone (i : SlotId) (tile : Nat) (s : State) : Out :=
  match (s.core i.core).mats.find? (fun r => r.tile = some tile && r.slot = i) with
  | some r =>
    if s.cycle < r.due then .next (s.schedule r.due priMatrix (.tileFillDone i tile))
    else
    let s' := s.endRun i.core r
    let another := (s'.core i.core).mats.any (fun q => q.tile = some tile && q.slot = i)
    .next (s'.modCtx (.stage i) (fun c =>
      let c := c.endFill tile another
      match r.bank with
      | some true => { c with refs1 := c.refs1 - 1 }
      | some false => { c with refs0 := c.refs0 - 1 }
      | none => c))
  | none => .fault .noSuchItem

/-- `MM_AR_WRITE_DONE` (R191, R201): the elements that have not been written are, with the full bits of their granules (R174); a drain
that has lost banks ends later (R173). -/
def execMmArWriteDone (i : SlotId) (id : Nat) (s : State) : Out :=
  match (s.slot i).drains.find? (fun e => e.id = id && e.port.isNone) with
  | some e =>
    if s.cycle < e.readDone then .next (s.schedule e.readDone priWaited (.mmArWriteDone i id))
    else
    let s' := e.store.foldl (fun s p => s.writeBanks (.stage i) p.1 p.2 true) s
    .next ((s'.modSlot i (fun v => { v with drains := v.drains.filter (fun g => g.id ≠ id) })).modCtx (.stage i)
      (fun c => c.flag e.flags))
  | none => .fault .noSuchItem

end Sys2Proof.Machine
end

