-- ==== Sys2Proof/Machine/Control.lean ====
section
/-! DEFINITION. The control instructions of the CTL class (R118–R134) and the code pages (R231). -/

namespace Sys2Proof.Machine

/-- A CTL syllable. -/
def ctlSyl (p : BitVec 4) (r : Regs) (act : State → State) : Syl :=
  { cls := 0, guard := p, regs := r, act := act }

/-- The next bundle is the target's, `delay` cycles from now (R119). -/
def State.branch (s : State) (target : Int) (delay : Nat) : State :=
  { s with iss := { s.iss with next := target, taken := delay } }

/-- A target relative to the bundle's start (R20). -/
def State.relTarget (s : State) (disp : Int) : Int := s.iss.start + 4 * disp

/-- `NOP` (R129). -/
def execNop (p : BitVec 4) (s : State) : Out := issue (ctlSyl p {} (fun s => s)) s

/-- `BR` (R121). -/
def execBr (p : BitVec 4) (d : BitVec 18) (s : State) : Out :=
  issue (ctlSyl p {} (fun s => s.branch (s.relTarget d.toInt) 1)) s

/-- The alignment cause of a register-held target (R121). -/
def targetCause (a : BitVec 6) (s : State) : Option (Nat × Word) :=
  if (s.rx a).toNat % 4 = 0 then none else some (0x10, addrValue 0 (s.rx a).toNat)

/-- `BR.R` (R121): its target issues two cycles after it (R119). -/
def execBrR (p : BitVec 4) (a : BitVec 6) (s : State) : Out :=
  issue { ctlSyl p { xr := [a] } (fun s => s.branch (s.rx a).toNat 2) with early := [a], cause := targetCause a } s

/-- The first displacement whose predicate is 1 (R122). -/
def treeTarget (rp : BitVec 4 → Bool) : List (BitVec 4 × BitVec 14) → Option Int
  | [] => none
  | (q, t) :: r => if rp q then some t.toInt else treeTarget rp r

/-- `BR.T` (R122): tests n + 1 predicates and takes the first target whose predicate is 1. -/
def execBrT (p q1 q2 q3 q4 : BitVec 4) (n : BitVec 2) (t1 t2 t3 t4 : BitVec 14) (s : State) : Out :=
  let tests := [(q1, t1), (q2, t2), (q3, t3), (q4, t4)].take (n.toNat + 1)
  issue (ctlSyl p { pr := tests.map (·.1) } (fun s =>
    match treeTarget s.rp tests with
    | some t => s.branch (s.relTarget t) 1
    | none => s)) s

/-- The address of the next sequential bundle, pushed on the return store (R123): 0 behind the end of the code window (DESIGN
CHOICE, log 67). -/
def State.push (s : State) : State :=
  s.modMe (fun c => { c with rs := c.rs ++ [BitVec.ofInt 17 (s.iss.start + s.iss.len)] })

/-- `CALL` (R123): return-store overflow reports the target that it would have taken (R220). -/
def execCall (p : BitVec 4) (d : BitVec 18) (s : State) : Out :=
  issue { ctlSyl p {} (fun s => s.push.branch (s.relTarget d.toInt) 1) with
    cause := fun s => if s.me.rs.length ≥ 8 then some (0x09, intWord (s.relTarget d.toInt)) else none } s

/-- `CALL.R` (R123): overflow is checked before misalignment. -/
def execCallR (p : BitVec 4) (a : BitVec 6) (s : State) : Out :=
  issue { ctlSyl p { xr := [a] } (fun s => s.push.branch (s.rx a).toNat 2) with
    early := [a],
    cause := fun s => if s.me.rs.length ≥ 8 then some (0x09, s.rx a) else targetCause a s } s

/-- `RET` (R123). -/
def execRet (p : BitVec 4) (s : State) : Out :=
  issue { ctlSyl p {} (fun s =>
      (s.modMe (fun c => { c with rs := c.rs.dropLast })).branch ((s.me.rs.getLastD 0).toNat) 1) with
    cause := fun s => if s.me.rs = [] then some (0x0A, 0) else none } s

/-- `LOOP` (R125): the counter goes down by one, and the branch is taken while it is not zero. -/
def execLoop (p : BitVec 4) (c : BitVec 6) (d : BitVec 12) (s : State) : Out :=
  issue (ctlSyl p { xr := [c], xw := [c] } (fun s =>
    let n := s.rx c - 1
    let s' := s.modMe (fun k => k.wx c n)
    if n ≠ 0 then s'.branch (s.relTarget d.toInt) 1 else s')) s

/-- The stage predicates `p8`–`p15` (R80). -/
def stagePreds : List (BitVec 4) := [8, 9, 10, 11, 12, 13, 14, 15]

/-- `SETLC` (R126). -/
def execSetlc (p : BitVec 4) (e a : BitVec 6) (i : Opnd 6) (s : State) : Out :=
  issue (ctlSyl p { xr := [a], pw := stagePreds } (fun s => s.modMe (fun c =>
    { c with cr := { c.cr with lc := c.rx a + toWord (immUnsigned i), ec := e },
             p := BitVec.ofNat 16 (c.p.toNat % 2 ^ 8 + 2 ^ 8) }))) s

/-- The stage predicates move up one place, and `ins` enters at `p8` (R127). -/
def shiftPreds (p : BitVec 16) (ins : Bool) : BitVec 16 :=
  BitVec.ofNat 16 (p.toNat % 2 ^ 8 + bit ins * 2 ^ 8 + bitsAt p.toNat 8 7 * 2 ^ 9)

/-- `LOOP.R` (R127). -/
def execLoopR (p : BitVec 4) (d : BitVec 18) (s : State) : Out :=
  issue (ctlSyl p { pr := stagePreds, pw := stagePreds } (fun s =>
    let r := s.me.cr
    if r.lc = 0 ∧ r.ec = 0 then s
    else
      (s.modMe (fun c =>
        { c with p := shiftPreds c.p (r.lc ≠ 0),
                 cr := { c.cr with lc := if r.lc ≠ 0 then r.lc - 1 else r.lc,
                                   ec := if r.lc ≠ 0 then r.ec else r.ec - 1, vrb := r.vrb + 1 } })).branch
        (s.relTarget d.toInt) 1)) s

/-- `TRAP` (R130): on resume execution goes on behind the bundle, at address 0 where the bundle ends the code window (DESIGN CHOICE,
log 67). On a supervisor core it raises event 0x39 and goes on (R348), and the bundle's other syllables take effect (DESIGN CHOICE,
log 66). -/
def execTrap (p : BitVec 4) (i : Opnd 6) (s : State) : Out :=
  issue (ctlSyl p {} (fun s =>
    match s.cur with
    | .stage _ => s.trapAt 2 0x0C (toWord (immUnsigned i)) (addr17 (s.iss.start + s.iss.len)) false
    | .sup v => s.dieEvent v.die 0x39 0 none (immUnsigned i % 2 ^ 12) 0)) s

/-- Whether a supervisor core has a trap or an event to take, its own or one of a core it serves (R342, R348). -/
def State.supPending (s : State) (v : SupId) : Bool :=
  (v.k :: (s.sup v).serves).any (fun k =>
    (s.trapHead { v with k := k }).isSome || (s.sup { v with k := k }).events ≠ [])

/-- `HALT` (R131): issue stops until an event for the core is pending. -/
def execHalt (p : BitVec 4) (s : State) : Out :=
  issue { ctlSyl p {} (fun s =>
    match s.cur with
    | .sup v => s.modSup v (fun u => { u with halted := true })
    | .stage _ => s) with priv := true } s

/-! ## Control registers -/

/-- `SLOT` (R92, R341): the package's logical number and the place of the slot, or of the supervisor core. -/
def State.slotWord (s : State) : Agent → Word
  | .stage i => toWord (wbits (s.pkg i.core.die.pkg).fabid 50 14 * 2 ^ 16 + i.core.die.die % 8 * 2 ^ 13
      + i.core.clu % 4 * 2 ^ 11 + i.core.core % 128 * 2 ^ 4 + i.slot % 16)
  | .sup v => toWord (wbits (s.pkg v.die.pkg).fabid 50 14 * 2 ^ 16 + v.die.die % 8 * 2 ^ 13 + v.k % 4 * 2 ^ 11)

/-- Whether a request is a load, and whether it is a store; an atomic is both (R279). -/
def ReqOp.isLoad : ReqOp → Bool
  | .store _ => false
  | .load => true
  | .amo _ _ => true
  | .cas _ _ => true
@[inherit_doc ReqOp.isLoad] def ReqOp.isStore : ReqOp → Bool
  | .store _ => true
  | .load => false
  | .amo _ _ => true
  | .cas _ _ => true

/-- `CNTL`: the loads of an agent whose results have not landed (R92); an atomic of a killed firing, whose result nobody takes, is none
of the next firing's (R42, R296). -/
def State.cntl (s : State) (a : Agent) : Nat :=
  ((s.ctx a).flights.filter (·.src = .load)).length + (s.reqs.filter (fun q => q.own = a && q.op.isLoad && q.dest ≠ .none)).length

/-- The `MM.AR`s of an agent that were issued before an identity and have not written the scratchpad: in the MAT queue, and on the
drain path (R201; DEDUCED, log 76). -/
def State.arQueue (s : State) (a : Agent) (upto : Nat) : Nat :=
  ((s.ctx a).matq.filter (fun h => bitsAt h.word.toNat 22 6 = 4 && h.id < upto)).length
@[inherit_doc State.arQueue] def State.arStores (s : State) (a : Agent) (upto : Nat) : Nat :=
  s.arQueue a upto + match a with
    | .stage i => ((s.slot i).drains.filter (fun e => e.store ≠ [] && e.held < upto)).length
    | .sup _ => 0

/-- The stores of an agent that were issued before an identity and have not been performed: local stores, `MM.AR`s, requests, `EMIT`
copies and multicast stores, those of the slot's earlier firings among them (R76, R92). -/
def State.storeCount (s : State) (a : Agent) (upto : Nat) : Nat :=
  ((s.pendingStores a).filter (fun st => st.by_ = a && st.id < upto)).length + s.arStores a upto
    + (s.reqs.filter (fun q => q.own = a && q.op.isStore && !q.performed && q.id < upto)).length
    + match a with
      | .stage i => ((s.slot i).emissions.filter (fun e => e.copy && e.id < upto)).length +
          ((s.clu (cluOf i.core)).landings.filter (fun l => l.sender = i && l.id < upto)).length
      | .sup _ => 0

/-- `CNTS` (R92). -/
def State.cnts (s : State) (a : Agent) : Nat := s.storeCount a s.uid

/-- A control register as `MFCR` reads it (R26, R92, R133). -/
def State.readCr (s : State) (x : Nat) : Word :=
  let c := s.me
  match x with
  | 0 => toWord c.stageId.toNat
  | 1 => s.slotWord s.cur
  | 2 => toWord c.firing.toNat
  | 3 => toWord c.budget.toNat
  | 4 => c.cr.lc
  | 5 => toWord c.cr.ec.toNat
  | 6 => toWord c.cr.vrb.toNat
  | 7 => c.cr.seed
  | 8 => c.cr.ctrbase
  | 9 => toWord c.cr.fstat.toNat
  | 10 => c.cr.xstat
  | 11 => c.cr.round
  | 12 => toWord (s.cntl s.cur % 2 ^ 16)
  | 13 => toWord (s.cnts s.cur % 2 ^ 16)
  | 14 => c.cr.mode
  | 15 => c.tags.word
  | 16 => toWord c.rs.length
  | _ =>
    match s.cur with
    | .stage _ => 0
    | .sup v =>
      let u := s.sup v
      match x with
      | 32 => toWord u.trapc.toNat
      | 33 => toWord u.trapa.toNat
      | 34 => u.trapv
      | 35 => u.savebase
      | 36 => u.slotstate
      | _ => toWord u.codemap.toNat

/-- `MFCR` (R133): the value from before the bundle. An index from 0x20 upward belongs to the supervisor cores (R96). -/
def execMfcr (p : BitVec 4) (d x : BitVec 6) (s : State) : Out :=
  issue { ctlSyl p { xw := [d] } (fun s => s.nextX d (s.readCr x.toNat)) with
    priv := 32 ≤ x.toNat } s

/-- A stage control register with a written word (R134): fields without write access keep their value. On a supervisor core
`ROUND` takes the round (R53). -/
def CtlRegs.write (r : CtlRegs) (sup : Bool) (x : Nat) (w : Word) : CtlRegs :=
  match x with
  | 4 => { r with lc := w }
  | 5 => { r with ec := BitVec.ofNat 6 w.toNat }
  | 6 => { r with vrb := BitVec.ofNat 4 w.toNat }
  | 7 => { r with seed := w }
  | 8 => { r with ctrbase := w }
  | 9 => { r with fstat := BitVec.ofNat 6 w.toNat }
  | 10 => { r with tlate := BitVec.ofNat 16 (wbits w 16 16), lm := w.getLsbD 0 }
  | 11 => if sup then { r with rnd := BitVec.ofNat 32 w.toNat } else r
  | 14 => { r with cvrnd := if wbits w 1 2 = 3 then 0 else BitVec.ofNat 2 (wbits w 1 2) }
  | _ => r

/-- A page of a core's window is unmapped (R231). -/
def State.unmapPage (s : State) (c : CoreId) (page : Nat) : State :=
  s.modCore c (fun k => { k with mapped := BitVec.ofNat 32 (putBits k.mapped.toNat page 1 0) })

/-- A page of the code store is read: single-bit errors in it are corrected and counted (R366). -/
def State.meetStore (s : State) (d : DieId) (addr : Nat) : State :=
  let n := wordsIn (s.die d).codeOnce addr 4096
  if n = 0 then s else (s.modDie d (fun k => { k with codeOnce := mendOnce k.codeOnce addr 4096 })).countErrors d n 0

/-- A page of a core's window takes the code-store page recorded for it and becomes mapped; a page without backing stays
unmapped, and an uncorrectable error in the code store raises event 0x14 and leaves it so (R231). -/
def State.mapPage (s : State) (c : CoreId) (page : Nat) : State :=
  match tfind (s.core c).backing page with
  | none => s
  | some src =>
    if src.toNat ∈ (s.die c.die).codeBad then (s.countErrors c.die 0 1).dieEvent c.die 0x14 3 none (src.toNat % 2 ^ 12) 0
    else
      (s.meetStore c.die (src.toNat * 4096)).modCore c (fun k =>
        { k with window := memWrite k.window (page * 4096) (memRead (s.die c.die).codeStore (src.toNat * 4096) 4096),
                 windowBad := mendOnce k.windowBad (page * 4096) 4096, windowOnce := mendOnce k.windowOnce (page * 4096) 4096,
                 mapped := BitVec.ofNat 32 (putBits k.mapped.toNat page 1 1) })

/-- Every supervisor core of the die that holds a trap of the core sees its mapping, whichever of them serves it (R231, R348). -/
def State.showMap (s : State) (c : CoreId) : State :=
  (List.range 4).foldl (fun s k => s.modSup { die := c.die, k := k } (fun u =>
    match u.held with
    | some i => if i.core = c then { u with codemap := (s.core c).mapped } else u
    | none => u)) s

/-- `CODEMAP_MAP_PAGE` (R231). -/
def execCodemapMapPage (c : CoreId) (page : Nat) (s : State) : Out := .next ((s.mapPage c page).showMap c)

/-- `CODEMAP_UNMAP_PAGE` (R231). -/
def execCodemapUnmapPage (c : CoreId) (page : Nat) (s : State) : Out := .next ((s.unmapPage c page).showMap c)

/-- The pages whose bit differs between two maps, with the written bit. -/
def pageChanges (old : BitVec 32) (w : Word) : List (Nat × Bool) :=
  (List.range 32).filterMap (fun n => if old.getLsbD n = w.getLsbD n then none else some (n, w.getLsbD n))

/-- `MTCR` to `CODEMAP` (R231): each page to be mapped is copied at 64 bytes a cycle, one after another, and the next
bundle issues once every copy is complete. -/
def State.writeCodemap (s : State) (v : SupId) (w : Word) : State :=
  match (s.sup v).held with
  | none => s
  | some i =>
    let changes := pageChanges (s.core i.core).mapped w
    let maps := changes.filter (fun q => q.2 && (tfind (s.core i.core).backing q.1).isSome)
    let s := (changes.filter (fun q => !q.2)).foldl
      (fun s q => s.schedule (s.cycle + 1) priPort (.codemapUnmapPage i.core q.1)) s
    let s := (List.zipIdx maps).foldl
      (fun s q => s.schedule (s.cycle + 64 * (q.2 + 1)) priPort (.codemapMapPage i.core q.1.1)) s
    s.modCtx (.sup v) (fun c => { c with notBefore := max c.notBefore (s.cycle + 1 + 64 * maps.length) })

/-- A supervisor register with a written word (R96). -/
def State.writeSupCr (s : State) (v : SupId) (x : Nat) (w : Word) : State :=
  match x with
  | 32 => s.modSup v (fun u => { u with trapc := BitVec.ofNat 8 w.toNat })
  | 33 => s.modSup v (fun u => { u with trapa := BitVec.ofNat 17 w.toNat })
  | 34 => s.modSup v (fun u => { u with trapv := w })
  | 35 => s.modSup v (fun u => { u with savebase := toWord (w.toNat / 4096 * 4096) })
  | 36 => s.modSup v (fun u => { u with slotstate := toWord (wbits w 4 3 * 16 + wbits w 0 3) })
  | _ => s.writeCodemap v w

/-- `MTCR` (R134): the new value takes effect from the next bundle. A write of `CODEMAP` while no trap is held raises
illegal operand type at execution (R231). -/
def execMtcr (p : BitVec 4) (x a : BitVec 6) (s : State) : Out :=
  issue { ctlSyl p { xr := [a] } (fun s =>
      match s.cur with
      | .stage _ => s.modMe (fun c => c.modCr (fun r => r.write false x.toNat (s.rx a)))
      | .sup v =>
        if x.toNat < 32 then s.modMe (fun c => c.modCr (fun r => r.write true x.toNat (s.rx a)))
        else s.writeSupCr v x.toNat (s.rx a)) with
    priv := 32 ≤ x.toNat,
    cause := fun s =>
      match s.cur with
      | .stage _ => none
      | .sup v => if x = 0x25 ∧ (s.sup v).trapc = 0 then some (0x02, s.sylValue) else none } s

end Sys2Proof.Machine
end

