-- ==== Sys2Proof/Machine/Local.lean ====
section
/-! DEFINITION. The local memory instructions (R172–R181), the atomic operations (R21, R180), and the landing of scalar,
vector and local load results (R135, R158, R178). -/

namespace Sys2Proof.Machine

/-- A MEM syllable. -/
def memSyl (p : BitVec 4) (r : Regs) (act : State → State) : Syl := { cls := 2, guard := p, regs := r, act := act }

/-! ## The scratchpad of an agent -/

/-- The empty granules of an agent's scratchpad (R174). -/
def State.empties (s : State) : Agent → List Nat
  | .stage i => (s.core i.core).emptyBits
  | .sup v => (s.sup v).emptyBits

/-- The empty granules replaced. -/
def State.setEmpties (s : State) (a : Agent) (l : List Nat) : State :=
  match a with
  | .stage i => s.modCore i.core (fun k => { k with emptyBits := l })
  | .sup v => s.modSup v (fun u => { u with emptyBits := l })

/-- A store on its way to the banks, where it is written two cycles later (R178). -/
def State.sendStore (s : State) (a : Agent) (addr : Nat) (data : List Byte) (full : Bool) : State :=
  let st : LocalStore := { id := s.uid, by_ := a, due := s.cycle + 2, addr := addr, data := data, setFull := full }
  let s' := match a with
    | .stage i => s.modCore i.core (fun k => { k with stores := k.stores ++ [st] })
    | .sup v => s.modSup v (fun u => { u with stores := u.stores ++ [st] })
  (s'.schedule (s.cycle + 2) priPort (.localStoreWritten a s.uid)).tick1

/-- Whether a core's stores that were issued before an identity are written. -/
def State.storesWritten (s : State) (a : Agent) (upto : Nat) : Bool := !(s.pendingStores a).any (·.id < upto)

/-- Whether an access of the memory port can be made in this cycle (R173, R181, R288): it has its banks, it follows no acquire that is
not complete and no access that is still to be made, and an atomic waits until the core's earlier stores are written, so that no
other agent sees it before them. -/
def State.accessTurn (s : State) (a : Agent) (id : Nat) (p : PortAccess) : Bool :=
  s.portTurn a p.addr p.len && !s.behindAcquire a id && !s.accessBefore a id && (p.amo.isNone || s.storesWritten a id)

/-! ## Checks -/

/-- The causes of an access to the local scratchpad of size `n` with the alignment `al` at the address `a` (R177). -/
def localCause (a : Int) (n al : Nat) (s : State) : Option (Nat × Word) :=
  if a % al ≠ 0 then some (0x10, addrValue 2 a)
  else boundsCause 2 a n (localSize s.cur)

/-- Whether `EMIT` copies of earlier bundles hold the local path of the core's memory port (R72). -/
def State.portBusy (s : State) : Bool :=
  match s.cur with
  | .stage i =>
    match (s.slot i).emissions.find? (fun e => e.copy && s.iss.mark ≤ e.id) with
    | some e => s.cycle < e.start
    | none => s.cycle < (s.core i.core).portFree
  | .sup _ => false

/-- A local access waits for an earlier `MM.AR` that writes a byte of it (R191), and for `EMIT` copies (R72). -/
def arWait (a : State → Int) (n : Nat) (s : State) : Wait := if s.portBusy || s.arTouches (a s) n then .stall else .go

/-- A loaded value put in a 64-bit register, zero- or sign-extended (R178). -/
def extendBytes (signed : Bool) (bs : List Byte) : Word :=
  if signed then intWord (signedOf (8 * bs.length) (leNat bs)) else toWord (leNat bs)

/-- The register write of a value. -/
def Dest.write (d : Dest) (bs : List Byte) : List RegWrite :=
  match d with
  | .none => []
  | .x r size signed => [.x r (extendBytes signed (bs.take size))]
  | .v r => [.v r (bytesVec bs)]

/-- The new value of an atomic of `k` bits (R21): the operand's low bits and the old value. -/
def amoNew (op k old x : Nat) : Nat :=
  match op with
  | 0 => (old + x) % 2 ^ k
  | 1 => if signedOf k x < signedOf k old then x else old
  | 2 => if signedOf k old < signedOf k x then x else old
  | 3 => min old x
  | 4 => max old x
  | 5 => old &&& x
  | 6 => old ||| x
  | 7 => old ^^^ x
  | 8 => x
  | _ => (fAdd fp32 old x).1

/-- The flags of an atomic: those of `FADD` (R180). -/
def amoFlags (op old x : Nat) : BitVec 6 := if op = 9 then (fAdd fp32 old x).2 else 0

/-- The operand of an atomic of `k` bits. -/
def amoOperand (k : Nat) (w : Word) : Nat := w.toNat % 2 ^ k

/-- An access of the memory port in the cycle in which it has its banks (R172, R173, R178, R180): the machine after it, and what
is to land. An uncorrectable error raises machine check at the access, and nothing lands. -/
def State.portAccess (s : State) (a : Agent) (id : Nat) (p : PortAccess) : State × Option (List RegWrite × BitVec 6) :=
  let s := s.servePort a p.addr p.len
  let s := s.meetLocal a p.addr p.len
  match firstBad (s.badView a id) p.addr p.len with
  | some bad => (s.modCtx a (fun c => { c with after := c.after ++ [(0x0B, addrValue 0 bad)] }), none)
  | none =>
    let old := memRead (s.localView a id) p.addr p.len
    match p.amo with
    | none => (s, some (p.dest.write old, 0))
    | some (op, w) =>
      let x := amoOperand (8 * p.len) w
      (s.writeBanks a p.addr (leBytes p.len (amoNew op.toNat (8 * p.len) (leNat old) x)) false,
        some (p.dest.write old, amoFlags op.toNat (leNat old) x))

/-- A load or an atomic of the memory port issues (R173): it is made at once where it has its banks; else it tries again in the
next cycle. -/
def State.startAccess (s : State) (p : PortAccess) : State :=
  let a := s.cur
  if s.accessTurn a s.uid p then
    match s.portAccess a s.uid p with
    | (t, some (ws, fl)) => t.fly a .load p.lat ws fl none
    | (t, none) => t
  else
    let f : Flight := { id := s.uid, due := s.cycle + 1 + p.lat, src := .load, writes := [], flags := 0, access := some p }
    ((s.modCtx a (fun c => { c with flights := c.flights ++ [f] })).schedule (s.cycle + 1) priPort (.localLoadLand a s.uid)).tick1

/-- What a load from the local scratchpad puts in flight. -/
def State.loadLocal (s : State) (addr n lat : Nat) (d : Dest) : State :=
  s.startAccess { addr := addr, len := n, dest := d, lat := lat, amo := none }

/-! ## The plain loads and stores -/

/-- A scalar load (R178). -/
def loadSyl (p : BitVec 4) (d a : BitVec 6) (z : BitVec 2) (i : Opnd 4) (signed : Bool) : Syl :=
  let n := sizeOf2 z
  { memSyl p { xr := [a], xw := [d] } (fun s =>
      s.loadLocal (addrOf (s.rx a) n i).toNat n 3 (.x d n signed)) with
    early := [a],
    cause := fun s => localCause (addrOf (s.rx a) n i) n n s,
    wait := arWait (fun s => addrOf (s.rx a) n i) n }

/-- `LD.L` (R178). -/
def execLdL (p : BitVec 4) (d a : BitVec 6) (z : BitVec 2) (i : Opnd 4) (s : State) : Out :=
  issue (loadSyl p d a z i false) s

/-- `LDS.L` (R178). -/
def execLdsL (p : BitVec 4) (d a : BitVec 6) (z : BitVec 2) (i : Opnd 4) (s : State) : Out :=
  issue (loadSyl p d a z i true) s

/-- `ST.L` (R178). -/
def execStL (p : BitVec 4) (d a : BitVec 6) (z : BitVec 2) (i : Opnd 4) (s : State) : Out :=
  let n := sizeOf2 z
  issue { memSyl p { xr := [d, a], localWrite := true } (fun s =>
      s.sendStore s.cur (addrOf (s.rx a) n i).toNat (leBytes n (s.rx d).toNat) false) with
    early := [a],
    cause := fun s => localCause (addrOf (s.rx a) n i) n n s,
    wait := arWait (fun s => addrOf (s.rx a) n i) n } s

/-- `VLD.L` (R178). -/
def execVldL (p : BitVec 4) (v : BitVec 5) (a : BitVec 6) (i : Opnd 4) (s : State) : Out :=
  issue { memSyl p { xr := [a], vw := [physOf s.me.cr.vrb v] } (fun s =>
      s.loadLocal (addrOf (s.rx a) 128 i).toNat 128 4 (.v (physOf s.me.cr.vrb v))) with
    early := [a],
    cause := fun s => localCause (addrOf (s.rx a) 128 i) 128 16 s,
    wait := arWait (fun s => addrOf (s.rx a) 128 i) 128 } s

/-- `VST.L` (R178). -/
def execVstL (p : BitVec 4) (v : BitVec 5) (a : BitVec 6) (i : Opnd 4) (s : State) : Out :=
  issue { memSyl p { xr := [a], vr := [physOf s.me.cr.vrb v], localWrite := true } (fun s =>
      s.sendStore s.cur (addrOf (s.rx a) 128 i).toNat (vecBytes (s.rv v)) false) with
    early := [a],
    cause := fun s => localCause (addrOf (s.rx a) 128 i) 128 16 s,
    wait := arWait (fun s => addrOf (s.rx a) 128 i) 128 } s

/-! ## Full/empty instructions (R179) -/

/-- The granule of an access. -/
def granuleOf (a : Int) : Nat := a.toNat / 16

/-- The empty granules as the core's own accesses see them: a store on its way that sets a bit full has set it (R179, R181). -/
def State.localEmpties (s : State) (a : Agent) : List Nat :=
  (s.pendingStores a).foldl (fun l st => if st.setFull then setFullBut (s.localBad a) l st.addr st.data.length else l) (s.empties a)

/-- The wait for a granule to be full, or empty; the access is made when its bank serves it (R173), and one that changes the granule
once the core's earlier stores are written (R181); none before an earlier acquire is complete (R288). -/
def bitWait (a : State → Int) (n : Nat) (full changes : Bool) (s : State) : Wait :=
  if s.portBusy || s.arTouches (a s) n || !s.portTurn s.cur (a s).toNat n || (changes && s.pendingStores s.cur ≠ []) ||
      s.behindAcquire s.cur s.uid || s.accessBefore s.cur s.uid then .stall
  else if (granuleOf (a s) ∈ s.localEmpties s.cur) = full then .hold (fun s => s) else .go

/-- `LD.LF` (R179). -/
def execLdLf (p : BitVec 4) (d a : BitVec 6) (z : BitVec 2) (i : Opnd 4) (s : State) : Out :=
  issue { loadSyl p d a z i false with wait := bitWait (fun s => addrOf (s.rx a) (sizeOf2 z) i) (sizeOf2 z) true false } s

/-- `LD.LFC` (R179): the load and the clearing of the bit are one bank access. The bit is cleared also where the word has an uncorrectable
error (DESIGN CHOICE, log 101). -/
def execLdLfc (p : BitVec 4) (d a : BitVec 6) (z : BitVec 2) (i : Opnd 4) (s : State) : Out :=
  let n := sizeOf2 z
  issue { loadSyl p d a z i false with
    wait := bitWait (fun s => addrOf (s.rx a) n i) n true true,
    act := fun s =>
      let addr := (addrOf (s.rx a) n i).toNat
      (s.loadLocal addr n 3 (.x d n false)).setEmpties s.cur
        (insertNat (addr / 16) (s.empties s.cur)) } s

/-- `ST.LF` (R179). -/
def execStLf (p : BitVec 4) (d a : BitVec 6) (z : BitVec 2) (i : Opnd 4) (s : State) : Out :=
  let n := sizeOf2 z
  issue { memSyl p { xr := [d, a], localWrite := true } (fun s =>
      s.sendStore s.cur (addrOf (s.rx a) n i).toNat (leBytes n (s.rx d).toNat) true) with
    early := [a],
    cause := fun s => localCause (addrOf (s.rx a) n i) n n s,
    wait := arWait (fun s => addrOf (s.rx a) n i) n } s

/-- `ST.LE` (R179): the test and the store are one bank access. -/
def execStLe (p : BitVec 4) (d a : BitVec 6) (z : BitVec 2) (i : Opnd 4) (s : State) : Out :=
  let n := sizeOf2 z
  issue { memSyl p { xr := [d, a], localWrite := true } (fun s =>
      let addr := (addrOf (s.rx a) n i).toNat
      (s.servePort s.cur addr n).writeBanks s.cur addr (leBytes n (s.rx d).toNat) true) with
    early := [a],
    cause := fun s => localCause (addrOf (s.rx a) n i) n n s,
    wait := bitWait (fun s => addrOf (s.rx a) n i) n false true } s

/-! ## Atomics (R21, R180) -/

/-- `FADD` in deterministic mode (R180). -/
def faddCause (o : BitVec 4) (s : State) : Option (Nat × Word) :=
  if o = 9 ∧ s.me.cr.det then some (0x12, s.sylValue) else none

/-- The first of two causes. -/
def orCause (a b : Option (Nat × Word)) : Option (Nat × Word) :=
  match a with
  | some t => some t
  | none => b

/-- Where the old value of an atomic goes (R180): a word is sign-extended, but for `FADD`, which is written under R79. -/
def amoDest (d : BitVec 6) (o : BitVec 4) (n : Nat) : Dest := .x d n (n = 4 && o ≠ 9)

/-- `AMO.L` (R180): one read-modify-write in the bank. -/
def execAmoL (p : BitVec 4) (d a : BitVec 6) (o : BitVec 4) (z : BitVec 2) (s : State) : Out :=
  let n := sizeOf2 z
  issue { memSyl p { xr := [d, a], xw := [d], localWrite := true } (fun s =>
      s.startAccess { addr := (s.rx a).toNat, len := n, dest := amoDest d o n, lat := 4, amo := some (o, s.rx d) }) with
    early := [a],
    cause := fun s => orCause (localCause (s.rx a).toNat n n s) (faddCause o s),
    wait := arWait (fun s => ((s.rx a).toNat : Int)) n } s

/-! ## Results land -/

/-- A result in flight taken out of the list. -/
def Ctx.dropFlight (c : Ctx) (id : Nat) : Ctx := { c with flights := c.flights.filter (fun f => f.id ≠ id) }

/-- The vector registers that landing writes name, recorded with the result's identity and the cycle (R205). -/
def Ctx.noteLanded (c : Ctx) (id now : Nat) (ws : List RegWrite) : Ctx :=
  { c with vlanded := c.vlanded.filter (fun e => e.2.2 = now) ++ ws.filterMap (fun w => match w with
      | .v d _ => some (d, id, now)
      | .x _ _ => none
      | .p _ _ => none) }

/-- A result lands, or the model holds no such result. -/
def State.landFlight (s : State) (a : Agent) (id : Nat) : Out :=
  match (s.ctx a).flights.find? (fun f => f.id = id) with
  | some f => .next (s.modCtx a (fun c => (f.land (c.dropFlight id)).noteLanded id s.cycle f.writes))
  | none => .fault .noSuchItem

/-- `SCALAR_RESULT_LAND` (R135). -/
def execScalarResultLand (a : Agent) (id : Nat) (s : State) : Out := s.landFlight a id

/-- `VECTOR_RESULT_LAND` (R158). -/
def execVectorResultLand (a : Agent) (id : Nat) (s : State) : Out := s.landFlight a id

/-- Whether a load of an agent that issued earlier has still to land: load results land in program order (R158, R236). -/
def State.earlierLoad (s : State) (a : Agent) (id : Nat) : Bool :=
  (s.ctx a).flights.any (fun f => f.src = .load && f.id < id) ||
  s.reqs.any (fun q => q.own = a && q.id < id && q.dest ≠ .none)

/-- A result in flight replaced. -/
def Ctx.setFlight (c : Ctx) (f : Flight) : Ctx := { c with flights := c.flights.map (fun g => if g.id = f.id then f else g) }

/-- An access that lost its banks tries again (R173): it is made where it has them, and its result is in flight from then on. -/
def State.retryAccess (s : State) (a : Agent) (f : Flight) (p : PortAccess) : State :=
  if s.accessTurn a f.id p then
    match s.portAccess a f.id p with
    | (t, some (ws, fl)) =>
      (t.modCtx a (fun c => c.setFlight { f with access := none, writes := ws, flags := fl, due := s.cycle + p.lat })).schedule
        (s.cycle + p.lat) priMem (.localLoadLand a f.id)
    | (t, none) => t.modCtx a (fun c => c.dropFlight f.id)
  else s.schedule (s.cycle + 1) priPort (.localLoadLand a f.id)

/-- `LOCAL_LOAD_LAND` (R173, R178): an access that has still to be made tries again; a result lands behind every earlier load of
the firing. -/
def execLocalLoadLand (a : Agent) (id : Nat) (s : State) : Out :=
  match (s.ctx a).flights.find? (fun f => f.id = id) with
  | none => .fault .noSuchItem
  | some f =>
    match f.access with
    | some p => .next (s.retryAccess a f p)
    | none => if s.earlierLoad a id then .next (s.schedule (s.cycle + 1) priMem (.localLoadLand a id)) else s.landFlight a id

/-- A local store taken out of those on their way. -/
def State.dropStore (s : State) (a : Agent) (id : Nat) : State :=
  match a with
  | .stage i => s.modCore i.core (fun k => { k with stores := k.stores.filter (fun st => st.id ≠ id) })
  | .sup v => s.modSup v (fun u => { u with stores := u.stores.filter (fun st => st.id ≠ id) })

/-- Whether a store on its way can be written in this cycle (R173, R181, R288): it has its banks, no access of the core that issued
earlier waits for its own, and it follows no acquire that is not complete. -/
def State.storeTurn (s : State) (a : Agent) (st : LocalStore) : Bool :=
  s.portTurn a st.addr st.data.length && s.storesWritten a st.id && !s.accessBefore st.by_ st.id && !s.behindAcquire st.by_ st.id

/-- `LOCAL_STORE_WRITTEN` (R173, R178): the store is written in the banks, or tries again in the next cycle. -/
def execLocalStoreWritten (a : Agent) (id : Nat) (s : State) : Out :=
  match (s.pendingStores a).find? (fun st => st.id = id) with
  | some st =>
    if s.storeTurn a st then
      .next (((s.dropStore a id).servePort a st.addr st.data.length).writeBanks a st.addr st.data st.setFull)
    else .next (s.schedule (s.cycle + 1) priPort (.localStoreWritten a id))
  | none => .fault .noSuchItem

end Sys2Proof.Machine
end

