-- ==== Sys2Proof/Machine/Phaser.lean ====
section
/-! DEFINITION. The synchronisation engine of a cluster: phasers (R243–R258), the cluster barrier (R259, R260), and what a
release waits for (R246, R287). -/

namespace Sys2Proof.Machine

/-! ## What a release waits for -/

/-- Whether every store that an agent issued under an identity below `upto` has been performed or has landed, to any space
(R246), and no acquire before it is still held (R289). -/
def State.storesDone (s : State) (a : Agent) (upto : Nat) : Bool := s.storeCount a upto = 0 && !s.behindAcquire a upto

/-! ## The engine -/

/-- Phase `q` is before phase `r` (R243). -/
def phaseBefore (q r : BitVec 32) : Bool := 0 < (r - q).toInt

/-- The member entry of a slot on a phaser, NONE entries left out. -/
def Cluster.member (k : Cluster) (i : SlotId) (n : Nat) : Option (Nat × Member) :=
  k.members.find? (fun e =>
    e.2.phn.toNat = n && e.2.core.toNat = i.core.core && e.2.slot.toNat = i.slot && e.2.mst ≠ 0)

/-- A phaser. -/
def Cluster.phaser (k : Cluster) (n : Nat) : Phaser :=
  k.phasers.toList.getD n { valid := false, failed := false, phase := 0, npend := 0, arrn := 0, arr := 0, nsig := 0 }

/-- A phaser replaced. -/
def Cluster.setPhaser (k : Cluster) (n : Nat) (f : Phaser) : Cluster :=
  { k with phasers := k.phasers.setIfInBounds n f }

/-- One advance, where every counted member has signalled (R247). -/
def Cluster.advance1 (k : Cluster) (n : Nat) : Cluster :=
  let f := k.phaser n
  if 1 ≤ f.nsig.toNat ∧ f.arr = f.nsig then
    { k.setPhaser n { f with phase := f.phase + 1, nsig := f.nsig + f.npend, npend := 0, arr := f.arrn, arrn := 0 } with
      members := k.members.map (fun e =>
        if e.2.phn.toNat = n ∧ e.2.mst = 1 then (e.1, { e.2 with mst := 2 }) else e) }
  else k

/-- Advance (R247): at most twice. -/
def Cluster.advance (k : Cluster) (n : Nat) : Cluster := (k.advance1 n).advance1 n

/-- A slot of a cluster, by the fields of a member entry. -/
def Member.slotId (m : Member) (c : CluId) : SlotId :=
  { core := { die := c.die, clu := c.clu, core := m.core.toNat }, slot := m.slot.toNat }

/-- Whether the slot's bundle waits on a phaser in `PH.WAIT` or `PH.ADV` (R257, R258). -/
def State.waitsOn (s : State) (i : SlotId) (n : Nat) : Bool :=
  match (s.ctx (.stage i)).sync with
  | none => false
  | some w => (bitsAt w.word.toNat 22 6 = 0x2C || bitsAt w.word.toNat 22 6 = 0x2D) && bitsAt w.word.toNat 0 4 = n

/-- The engine advances a phaser, and an advance reaches the waiting cores four cycles later (R247). A stage that waited
while it was PENDING waits as a member from then on (R250). -/
def State.advancePhaser (s : State) (c : CluId) (n : Nat) : State :=
  let old := s.clu c
  let k := old.advance n
  if (k.phaser n).phase = (old.phaser n).phase then s.setClu c k
  else
    let waiting := fun (m : Member) => m.phn.toNat = n && (m.mst = 2 || m.mst = 3) && s.waitsOn (m.slotId c) n
    let s := s.setClu c { k with
      members := k.members.map (fun e => if waiting e.2 then (e.1, { e.2 with mst := 3 }) else e) }
    (k.members.filter (fun e => waiting e.2 && phaseBefore e.2.wph (k.phaser n).phase)).foldl
      (fun s e => s.schedule (s.cycle + 4) priArrive (.phaserAdvanceDelivery (e.2.slotId c) n)) s

/-- A signal takes effect at the engine (R246). -/
def State.takeSignal (s : State) (i : SlotId) (n : Nat) : State :=
  let c := cluOf i.core
  let k := s.clu c
  match k.member i n with
  | none => s
  | some (e, m) =>
    let f := k.phaser n
    let f' := if m.sph = f.phase then { f with arr := f.arr + 1 }
      else if m.sph = f.phase + 1 then { f with arrn := f.arrn + 1 }
      else f
    (s.setClu c { k.setPhaser n f' with members := tset k.members e { m with sph := m.sph + 1 } }).advancePhaser c n

/-- A phaser without the counts of a member (R249). -/
def Phaser.uncount (f : Phaser) (m : Member) : Phaser :=
  if m.mode = 2 then f
  else if m.mst = 1 then
    { f with npend := f.npend - 1, arrn := if m.sph = f.phase + 2 then f.arrn - 1 else f.arrn }
  else
    { f with nsig := f.nsig - 1,
             arr := if m.sph = f.phase + 1 ∨ m.sph = f.phase + 2 then f.arr - 1 else f.arr,
             arrn := if m.sph = f.phase + 2 then f.arrn - 1 else f.arrn }

/-- A membership is removed (R249). -/
def State.dropMember (s : State) (i : SlotId) (n : Nat) : State :=
  let c := cluOf i.core
  let k := s.clu c
  match k.member i n with
  | none => s
  | some (e, m) =>
    let k' := { k.setPhaser n ((k.phaser n).uncount m) with
      members := if m.rsv then tset k.members e { m with mst := 0 } else tdel k.members e }
    (s.setClu c k').advancePhaser c n

/-- The entry that a registration takes (R251): the stage's reserved one, else a free one of the 512. -/
def Cluster.entryFor (k : Cluster) (i : SlotId) (n : Nat) : Option (Nat × Bool) :=
  match k.members.find? (fun e =>
      e.2.phn.toNat = n && e.2.core.toNat = i.core.core && e.2.slot.toNat = i.slot && e.2.mst = 0 && e.2.rsv) with
  | some (e, _) => some (e, true)
  | none => ((List.range 512).find? (fun e => (tfind k.members e).isNone)).map (fun e => (e, false))

/-- A registration (R249): whether it joined. -/
def Cluster.register (k : Cluster) (i : SlotId) (n : Nat) (mode : BitVec 2) : Cluster × Bool :=
  match k.entryFor i n with
  | none => (k, false)
  | some (e, rsv) =>
    let f := k.phaser n
    let sig := mode ≠ 2
    let m : Member := { wph := f.phase + 1, sph := f.phase + 1, phn := BitVec.ofNat 4 n, mode := mode,
                        mst := if sig then 1 else 2, rsv := rsv, core := BitVec.ofNat 7 i.core.core,
                        slot := BitVec.ofNat 4 i.slot }
    ({ k.setPhaser n (if sig then { f with npend := f.npend + 1 } else f) with members := tset k.members e m }, true)

/-! ## The barrier -/

/-- The participants that must still arrive (R259): stages placed in the cluster that are not DRAINED, DONE or EMPTY; one whose
slot has left ACTIVE for FAULTED counts as arrived too (R268; log 41). -/
def State.barrierNeeds (s : State) (c : CluId) : List SlotId :=
  (s.slots.filter (fun e => cluOf e.1.core = c && e.2.sst = .active && e.2.fst ≠ .done)).map (·.1)

/-- The generation completes where every participant that counts has arrived (R259), and the waiting cores learn it four
cycles later (R260). -/
def State.checkBarrier (s : State) (c : CluId) : State :=
  let k := s.clu c
  if !k.stopped ∧ k.arrived ≠ [] ∧ (s.barrierNeeds c).all (· ∈ k.arrived) then
    k.arrived.foldl (fun s i => s.schedule (s.cycle + 4) priArrive (.barrierCompletionDelivery i))
      (s.setClu c { k with barrierG := k.barrierG + 1, arrived := [] })
  else s

/-- A slot leaves ACTIVE, or its stage is killed (R249, R259): its memberships are dropped, and the barrier no longer waits
for it. A signal of its that is still on its way finds no member and has no effect (DESIGN CHOICE, log 92). -/
def State.leaveSync (s : State) (i : SlotId) : State :=
  ((List.range 16).foldl (fun s n => s.dropMember i n) s).checkBarrier (cluOf i.core)

/-! ## Errors in the engine's own state (R268, R343) -/

/-- The engine reads its state in every cycle, and meets the errors in it: a phaser with one is FAILED, so that every firing that
waits on it traps at its waiting bundle (R253); the barrier with one stops, and so does a window. A die event names each (log 48).
Single-bit errors are corrected and counted. -/
def State.meetEngine (s : State) (c : CluId) : State :=
  let k := s.clu c
  if k.phaserErr = [] ∧ !k.barrierErr ∧ k.windowErr = [] ∧ k.engineOnce = 0 then s
  else
    let s := s.setClu c { k.phaserErr.foldl (fun k n => k.setPhaser n { k.phaser n with failed := true }) k with
      phaserErr := [], barrierErr := false, windowErr := [], engineOnce := 0, stopped := k.stopped || k.barrierErr,
      windowsBad := k.windowsBad ++ k.windowErr.filter (· ∉ k.windowsBad) }
    let told := k.phaserErr.map (fun n => (0x12, n)) ++ (if k.barrierErr then [(0x13, 16)] else []) ++
      k.windowErr.map (fun n => (0x13, n))
    told.foldl (fun s e => s.dieEvent c.die e.1 1 none e.2 0) (s.countErrors c.die k.engineOnce told.length)

/-! ## Waiting bundles -/

/-- The wait of the bundle in issue begins, once. -/
def State.beginSync (s : State) (notified : Option Nat) : State :=
  match s.me.sync with
  | some _ => s
  | none => s.modMe (fun c => { c with sync := some { word := s.iss.word, since := s.cycle, notified := notified } })

/-- Whether the wait began, and a bundle that issues in the next cycle issues at least `n` cycles after it. -/
def State.waitedFor (s : State) (n : Nat) : Bool :=
  match s.me.sync with
  | some w => w.since + n ≤ s.cycle + 1
  | none => false

/-- Whether the engine's answer has reached the waiting core. -/
def State.notified (s : State) : Bool :=
  match s.me.sync with
  | some w => w.notified.isSome
  | none => false

/-- The wait of the bundle in issue has ended. -/
def State.endSync (s : State) : State := s.modMe (fun c => { c with sync := none })

/-! ## The instructions -/

/-- The slot in issue; the reset slot for a supervisor core, which has none. -/
def State.mySlot (s : State) : SlotId :=
  match s.cur with
  | .stage i => i
  | .sup _ => slot0

/-- The engine of the agent in issue. -/
def State.myClu (s : State) : Cluster := s.clu (cluOf s.mySlot.core)

/-- The membership of the slot in issue. -/
def State.myMember (s : State) (n : Nat) : Option (Nat × Member) := s.myClu.member s.mySlot n

/-- The signals of a slot on a phaser that are still in flight. -/
def Cluster.inFlight (k : Cluster) (i : SlotId) (n : Nat) : Nat :=
  (k.signals.filter (fun g => g.slot = i && g.ph = some n)).length

/-- The phase that the slot's next signal is for, its signals in flight counted (R256). -/
def State.nextSph (s : State) (m : Member) (n : Nat) : BitVec 32 :=
  m.sph + BitVec.ofNat 32 (s.myClu.inFlight s.mySlot n)

/-- The value of a phaser protocol error (R253). -/
def phValue (phase : BitVec 32) (why : Nat) (bar : Bool) (n : Nat) : Word :=
  toWord (phase.toNat * 2 ^ 32 + why % 16 * 2 ^ 12 + bit bar * 2 ^ 8 + n % 16)

/-- The cause of a phaser instruction: the first reason that applies, in R253's order. `needs` gives the reasons of
membership. -/
def phCause (n : Nat) (member : Bool) (needs : State → Member → List (Nat × Bool)) (s : State) : Option (Nat × Word) :=
  let f := s.myClu.phaser n
  let reasons : List (Nat × Bool) := [(7, !f.valid), (8, f.failed)] ++
    if member then
      match s.myMember n with
      | none => [(1, true)]
      | some (_, m) => needs s m
    else [(6, (s.myMember n).isSome)]
  match reasons.find? (·.2) with
  | some r => some (0x0E, phValue f.phase r.1 false n)
  | none => none

/-- Mode bits: whether a member signals, and whether it waits (R244). -/
def Member.signals (m : Member) : Bool := m.mode.getLsbD 0
@[inherit_doc Member.signals] def Member.waits (m : Member) : Bool := m.mode.getLsbD 1

/-- A syllable of the synchronisation engine: illegal on a supervisor core (R252). -/
def syncSyl (p : BitVec 4) (r : Regs) (s : State) (act : State → State) : Syl :=
  { memSyl p r act with typeOk := !isSup s.cur }

/-- A signal sent to the engine, which it reaches four cycles later at the earliest (R246, R256). -/
def State.sendSignal (s : State) (ph : Option Nat) : State :=
  let i := s.mySlot
  let g : Signal := { slot := i, ph := ph, upto := s.uid }
  let s := s.modClu (cluOf i.core) (fun k => { k with signals := k.signals ++ [g] })
  s.schedule (s.cycle + 4) priArrive (match ph with
    | some n => .phaserSignalArrival i n
    | none => .barrierArrival i)

/-- `PH.REG` (R254): the bundle waits four cycles. -/
def execPhReg (p : BitVec 4) (d : BitVec 6) (m : BitVec 2) (h : BitVec 4) (s : State) : Out :=
  issue { syncSyl p { xw := [d] } s (fun s =>
      let r := s.myClu.register s.mySlot h.toNat m
      ((s.setClu (cluOf s.mySlot.core) r.1).endSync).nextM d (toWord (bit (!r.2)))) with
    cause := phCause h.toNat false (fun _ _ => []),
    wait := fun s => if s.waitedFor 4 then .go else .hold (fun s => s.beginSync none) } s

/-- `PH.DROP` (R255): a release; it completes four cycles after issue, once the firing's earlier stores are performed. -/
def execPhDrop (p : BitVec 4) (h : BitVec 4) (s : State) : Out :=
  issue { syncSyl p {} s (fun s => (s.dropMember s.mySlot h.toNat).endSync) with
    cause := phCause h.toNat true (fun _ _ => []),
    wait := fun s =>
      if s.waitedFor 4 && s.storesDone s.cur s.iss.mark && s.myClu.inFlight s.mySlot h.toNat = 0 then .go
      else .hold (fun s => s.beginSync none) } s

/-- Whether a signal for phase `q` lies beyond the phaser's next phase (R246). -/
def signalBeyond (f : Phaser) (q : BitVec 32) : Bool := q ≠ f.phase && q ≠ f.phase + 1

/-- `PH.SIG` (R256). -/
def execPhSig (p : BitVec 4) (h : BitVec 4) (s : State) : Out :=
  issue { syncSyl p {} s (fun s => s.sendSignal (some h.toNat)) with
    cause := phCause h.toNat true (fun s m =>
      [(2, !m.signals), (4, signalBeyond (s.myClu.phaser h.toNat) (s.nextSph m h.toNat))]) } s

/-- Whether the phase that a member waits for is complete. -/
def State.phaseDone (s : State) (n : Nat) : Bool :=
  match s.myMember n with
  | some (_, m) => phaseBefore m.wph (s.myClu.phaser n).phase
  | none => false

/-- The member waits, unless its phase is complete already (R250). -/
def State.enterWait (s : State) (n : Nat) : State :=
  if s.phaseDone n then s.beginSync (some s.cycle)
  else
    match s.myMember n with
    | some (e, m) => (s.modClu (cluOf s.mySlot.core) (fun k =>
        { k with members := tset k.members e { m with mst := if m.mst = 2 then 3 else m.mst } })).beginSync none
    | none => s

/-- A member's wait completes (R248): `WPH` rises by one, and the completed phase is returned. -/
def State.endWait (s : State) (d : BitVec 6) (n : Nat) : State :=
  match s.myMember n with
  | some (e, m) => ((s.modClu (cluOf s.mySlot.core) (fun k =>
      { k with members := tset k.members e { m with wph := m.wph + 1, mst := if m.mst = 3 then 2 else m.mst } })).endSync).nextM
        d (toWord m.wph.toNat)
  | none => s

/-- The wait of `PH.WAIT` and `PH.ADV` (R257): at least eight cycles, and until the phase is known to be complete. A member
that registered while pending learns of its phase when the engine has advanced. -/
def phWaitFor (n : Nat) (pre : State → State) (s : State) : Wait :=
  if s.waitedFor 8 && (s.notified && s.phaseDone n) then .go
  else .hold (fun s => if s.me.sync.isSome then s else (pre s).enterWait n)

/-- `PH.WAIT` (R257). -/
def execPhWait (p : BitVec 4) (d : BitVec 6) (h : BitVec 4) (s : State) : Out :=
  issue { syncSyl p { xw := [d] } s (fun s => s.endWait d h.toNat) with
    cause := phCause h.toNat true (fun s m =>
      [(3, !m.waits), (5, m.mode = 3 && !phaseBefore m.wph (s.nextSph m h.toNat))]),
    wait := phWaitFor h.toNat (fun s => s) } s

/-- Whether `PH.ADV` signals: `SPH` = `WPH`, its signals in flight counted (R258). -/
def State.advSignals (s : State) (n : Nat) : Bool :=
  match s.myMember n with
  | some (_, m) => s.nextSph m n = m.wph
  | none => false

/-- `PH.ADV` (R258): it signals when its bundle first reaches issue, then waits. -/
def execPhAdv (p : BitVec 4) (d : BitVec 6) (h : BitVec 4) (s : State) : Out :=
  issue { syncSyl p { xw := [d] } s (fun s => s.endWait d h.toNat) with
    cause := phCause h.toNat true (fun s m =>
      [(2, !m.signals), (3, !m.waits),
       (4, s.me.sync.isNone && s.advSignals h.toNat && signalBeyond (s.myClu.phaser h.toNat) m.wph)]),
    wait := phWaitFor h.toNat (fun s => if s.advSignals h.toNat then s.sendSignal (some h.toNat) else s) } s

/-- The slot in issue changed. -/
def State.modMySlot (s : State) (f : Slot → Slot) : State :=
  match s.cur with
  | .stage i => s.modSlot i f
  | .sup _ => s

/-- A participant of the barrier (R259): a stage of the active configuration. -/
def Slot.participant (v : Slot) : Bool := v.sst = .active || v.sst = .faulted

/-- Whether the generation that the slot arrived at last, `AG` − 1, has completed (R260). -/
def State.generationDone (s : State) : Bool := phaseBefore ((s.slot s.mySlot).barrierGen - 1) s.myClu.barrierG

/-- A bundle of an agent has issued: a `CL.BAR` that it left by an edit of its context is executed no further, so that the next one
arrives anew (R224, R260). -/
def State.leaveBarrier (s : State) (a : Agent) : State :=
  match a with
  | .stage i => if (s.slot i).barrierWait then s.modSlot i (fun v => { v with barrierWait := false }) else s
  | .sup _ => s

/-- The arrival of `CL.BAR` (R260): at `AG` = `G` it arrives; a re-executed one, or one whose participant has arrived already, does
not arrive twice, and waits for generation `AG` − 1, which may have completed. -/
def State.arrive (s : State) : State :=
  let v := s.slot s.mySlot
  let g := s.myClu.barrierG
  if !v.barrierWait ∧ v.barrierGen = g then
    ((s.modMySlot (fun v => { v with barrierGen := g + 1, barrierWait := true })).sendSignal none).beginSync none
  else (s.modMySlot (fun v => { v with barrierWait := true })).beginSync (if s.generationDone then some s.cycle else none)

/-- `CL.BAR` (R260). -/
def execClBar (p : BitVec 4) (d : BitVec 6) (s : State) : Out :=
  issue { syncSyl p { xw := [d] } s (fun s =>
      let g := (s.slot s.mySlot).barrierGen
      ((s.modMySlot (fun v => { v with barrierWait := false })).endSync).nextM d (toWord (g - 1).toNat)) with
    cause := fun s => if (s.slot s.mySlot).participant then none
      else some (0x0E, phValue s.myClu.barrierG 1 true 0),
    wait := fun s => if s.waitedFor 8 && (s.notified && (s.slot s.mySlot).barrierWait && s.generationDone) then .go
      else .hold (fun s => if s.me.sync.isSome then s else s.arrive) } s

/-! ## Events -/

/-- A list without its first item that satisfies a test. -/
def eraseFirst {α : Type} (f : α → Bool) : List α → List α
  | [] => []
  | x :: r => if f x then r else x :: eraseFirst f r

/-- A signal or an arrival reaches the engine once the stores before it are performed (R246); until then it stays on its
way. -/
def State.engineTakes (s : State) (i : SlotId) (ph : Option Nat) (again : Event) (take : State → State) : Out :=
  let mine : Signal → Bool := fun g => g.slot = i && g.ph = ph
  match (s.clu (cluOf i.core)).signals.find? mine with
  | none => .fault .noSuchItem
  | some g =>
    if s.storesDone (.stage i) g.upto then
      .next (take (s.modClu (cluOf i.core) (fun k => { k with signals := eraseFirst mine k.signals })))
    else .next (s.schedule (s.cycle + 1) priArrive again)

/-- `PHASER_SIGNAL_ARRIVAL` (R246). -/
def execPhaserSignalArrival (i : SlotId) (n : Nat) (s : State) : Out :=
  s.engineTakes i (some n) (.phaserSignalArrival i n) (fun s => s.takeSignal i n)

/-- `BARRIER_ARRIVAL` (R259). -/
def execBarrierArrival (i : SlotId) (s : State) : Out :=
  s.engineTakes i none (.barrierArrival i) (fun s =>
    (s.modClu (cluOf i.core) (fun k => { k with arrived := k.arrived ++ [i] })).checkBarrier (cluOf i.core))

/-- The engine's answer reaches a waiting core. -/
def State.notify (s : State) (i : SlotId) : Out :=
  match (s.ctx (.stage i)).sync with
  | none => .fault .noSuchItem
  | some w => .next (s.modCtx (.stage i) (fun c => { c with sync := some { w with notified := some s.cycle } }))

/-- `PHASER_ADVANCE_DELIVERY` (R247). -/
def execPhaserAdvanceDelivery (i : SlotId) (n : Nat) (s : State) : Out :=
  if s.waitsOn i n then s.notify i else .fault .noSuchItem

/-- `BARRIER_COMPLETION_DELIVERY` (R260). -/
def execBarrierCompletionDelivery (i : SlotId) (s : State) : Out :=
  if (s.slot i).barrierWait then s.notify i else .fault .noSuchItem

end Sys2Proof.Machine
end

