-- ==== Sys2Proof/Machine/Route.lean ====
section
/-! DEFINITION. Ways between dies: the package rings (R379, R382), the routing tables and the package hops (R406, R413), and
the messages that take them. -/

namespace Sys2Proof.Machine

/-- The segments, each named by its lower die, that a flit passes on a ring: ring 0 ascends, ring 1 descends (R378). -/
def ringPath (ring a b : Nat) : List Nat :=
  if ring = 0 then (List.range ((b + 8 - a) % 8)).map (fun j => (a + j) % 8)
  else (List.range ((a + 8 - b) % 8)).map (fun j => (a + 15 - j) % 8)

/-- Whether a ring's path is whole (R382). -/
def Pkg.ringOk (p : Pkg) (ring a b : Nat) : Bool := (ringPath ring a b).all (fun g => (ring, g) ∉ p.ringFailed)

/-- The ring of an ordered-control or stream flit from die `a` to die `b` (R379), the other one where a segment of its path
has failed (R382). -/
def Pkg.ringFor (p : Pkg) (a b : Nat) : Nat :=
  let first := if (b + 8 - a) % 8 ≤ 4 then 0 else 1
  if p.ringOk first a b then first else 1 - first

/-- The ring hops between two dies of a package. -/
def Pkg.ringHops (p : Pkg) (a b : Nat) : Nat := (ringPath (p.ringFor a b) a b).length

/-- A microsecond and a millisecond in cycles (R438; log 10). -/
def usec : Nat := 800
@[inherit_doc usec] def msec : Nat := 800000

/-- A port of a package. -/
def Pkg.port (p : Pkg) (n : Nat) : Port := tget p.ports n Port.reset

/-- The own logical number of a package (R412). -/
def Pkg.lpkg (p : Pkg) : Nat := wbits p.fabid 50 14

/-- The position of a logical package by the routing tables; none where the entry is not valid (R413). -/
def Pkg.resolve (p : Pkg) (logical : Nat) : Option Nat :=
  let e := tget p.posmap (p.rtAct, logical) 0
  if e.getLsbD 63 then some (wbits e 54 9 * 32 + wbits e 49 5) else none

/-- The package port of the entry's place 0, where the entry is valid (R412). -/
def port0 (w : Word) : Option Nat := if w.getLsbD 63 then some (wbits w 0 6) else none

/-- The ports that an entry lists (R412). -/
def entryPorts (w : Word) : List Nat :=
  if w.getLsbD 63 then (List.range (wbits w 60 2 + 1)).map (fun k => wbits w (6 * k) 6) else []

/-- The credits that a port has free: 256 of the shared pool and 4 of each of the 20 reserves, less those in use (R410); a link that
is not UP has none. -/
def Port.freeCredits (q : Port) : Nat :=
  if q.state = .up then 336 - q.poolUsed - (q.rsvUsed.map (·.2)).foldl (· + ·) 0 else 0

/-- Of the listed ports the one with the most free credits, the first of equals (R414). -/
def Pkg.freest (p : Pkg) : List Nat → Option Nat
  | [] => none
  | n :: r => match p.freest r with
    | none => some n
    | some m => if (p.port m).freeCredits ≤ (p.port n).freeCredits then some n else some m

/-- The port that a flit of a class takes of a strait entry (R413, R414). -/
def Pkg.entryPort (p : Pkg) (cls : Nat) (w : Word) : Option Nat := if cls = 3 then p.freest (entryPorts w) else port0 w

/-- The output port of a package for a flit of a class to a position: `HALLRT` within the hall, else `STRT` (R413). -/
def Pkg.outPortOf (p : Pkg) (cls here dst : Nat) : Option Nat :=
  if here / 32 = dst / 32 then port0 (tget p.hallrt (p.rtAct, dst % 32) 0)
  else p.entryPort cls (tget p.strt (p.rtAct, dst / 32) 0)

/-- The output port of an ordered flit. -/
def Pkg.outPort (p : Pkg) (here dst : Nat) : Option Nat := p.outPortOf 1 here dst

/-- The package and the port at the other end of a port: the mesh is wired as R406 gives, the straits as they trained. -/
def State.peerOf (s : State) (here port : Nat) : Nat × Nat :=
  if port < 31 then
    let i := here % 32
    let j := (i + port + 1) % 32
    (here / 32 * 32 + j, (i + 32 - j + 31) % 32)
  else
    let e := tget (s.pkg here).ports port Port.reset
    (e.peer, e.pport)

/-- The packages that the ordered way from one package to another leaves and passes, as the tables lead it now. -/
def State.pathVia (s : State) (dst : Nat) : Nat → Nat → List Nat
  | 0, _ => []
  | n + 1, here =>
    if here = dst then []
    else here :: (match (s.pkg here).outPort here dst with
      | some port => s.pathVia dst n (s.peerOf here port).1
      | none => [])

/-- What a route gives: the cycles of its hops, a wait for a link or a freeze, or no entry. -/
inductive Route where
  | cost (n : Nat)
  | wait
  | none
  deriving DecidableEq, Repr

/-- The rest of a flip's hold for a destination at a package (R417). -/
def Pkg.holdFor (p : Pkg) (now dst : Nat) : Nat :=
  (p.holds.filter (·.1 = dst)).foldl (fun n e => max n (e.2 - now)) 0

/-- A logical number by which a package names a position: one that its tables lead there. -/
def Pkg.numberOf (p : Pkg) (pos other : Nat) : Nat :=
  (((p.posmap.filter (fun e => e.1.1 = p.rtAct)).map (·.1.2)).find? (fun n => p.resolve n = some pos)).getD other

/-- The way of a flit of a class from a die of a package (R413): every package on it, the first and the last too, resolves the number
of the destination by its own table; 16 cycles for a ring hop, 144 for a package hop (R423). Flits of classes 1 and 2 also wait for the
hold of a flip (R417). -/
def State.routeFrom (s : State) (cls no : Nat) (dst : DieId) : Nat → Nat → Nat → Nat → Route
  | 0, _, _, _ => .none
  | fuel + 1, here, die, acc =>
    let p := s.pkg here
    match p.resolve no with
    | none => .none
    | some pos =>
      if pos = here then (if here = dst.pkg then .cost (acc + 16 * p.ringHops die dst.die) else .none)
      else
        match p.outPortOf cls here pos with
        | none => .none
        | some port =>
          if (p.port port).state ≠ .up then .wait
          else
            let peer := s.peerOf here port
            let hold := if cls = 1 ∨ cls = 2 then p.holdFor s.cycle pos else 0
            s.routeFrom cls no dst fuel peer.1 (peer.2 / 8) (acc + 16 * p.ringHops die (port / 8) + 144 + hold)

/-- The way of a class between two dies, whatever is frozen: within a package its rings; to another by the routing tables. -/
def State.wayOf (s : State) (cls : Nat) (src dst : DieId) : Route :=
  if src.pkg = dst.pkg then .cost (16 * (s.pkg src.pkg).ringHops src.die dst.die)
  else s.routeFrom cls ((s.pkg src.pkg).numberOf dst.pkg (s.pkg dst.pkg).lpkg) dst 6 src.pkg src.die 0

/-- The ordered way between two dies. A package that is frozen sends nothing to the failed one, and the failed one nothing to it
(R434). -/
def State.route (s : State) (src dst : DieId) : Route :=
  if src.pkg ≠ dst.pkg ∧ ((s.pkg src.pkg).frozen = some dst.pkg ∨ (s.pkg dst.pkg).frozen = some src.pkg) then .wait
  else s.wayOf 1 src dst

/-! ## The partition key (R416) -/

/-- The port by which a flit from a die's package enters its destination package. -/
def State.ingress (s : State) (dst : Nat) : Nat → Nat → Nat
  | 0, _ => 0
  | k + 1, here =>
    match (s.pkg here).outPort here dst with
    | none => 0
    | some n => if (s.peerOf here n).1 = dst then (s.peerOf here n).2 else s.ingress dst k (s.peerOf here n).1

/-- Whether a package's ingress check drops what another package sends (R416). -/
def State.keyBad (s : State) (src dst : Nat) : Bool :=
  src ≠ dst && (s.pkg dst).pkey.getLsbD 16 && wbits (s.pkg dst).pkey 0 16 ≠ wbits (s.pkg src).pkey 0 16

/-- A flit from the package with a logical number, dropped at an ingress port, is counted; event 0x42 reports it, at most once per
source and microsecond (R416). -/
def State.dropAt (s : State) (pkg port src : Nat) : State :=
  let report := match tfind (s.pkg pkg).dropStamp src with
    | some t => decide (t + usec ≤ s.cycle)
    | none => true
  let s := s.modPkg pkg (fun p => { p with
    rejects := p.rejects + 1, dropStamp := if report then tset p.dropStamp src s.cycle else p.dropStamp })
  if report then s.dieEvent { pkg := pkg, die := port / 8 } 0x42 0 none port src else s

/-- What one package sends another is dropped at the other's ingress. -/
def State.dropMsg (s : State) (src dst : Nat) : State := s.dropAt dst (s.ingress dst 6 src) (s.pkg src).lpkg

/-- Whether the key check applies to the message that brings an event: boot and failure notices are free of it (R416); a request of
fabric space is checked where it is performed, which also answers it. -/
def Event.keyed : Event → Bool
  | .bootPacket _ _ => false
  | .bootBlockRequest _ _ _ => false
  | .failureNotice _ _ => false
  | .fabricLoadLand _ => false
  | .fabricStorePerformed _ => false
  | .homePortAtomic _ => false
  | _ => true

/-! ## Messages -/

/-- The request that an event concerns, where it is one of fabric space on its way. -/
def Event.asks : Event → Option Nat
  | .fabricLoadLand id => some id
  | .fabricStorePerformed id => some id
  | .homePortAtomic id => some id
  | _ => none

/-- `TRAPV` of a translation fault, a partition-key violation or an ownership fault (R422). -/
def fabricValue (reason : Nat) (a : Int) : Word := toWord (reason % 16 * 2 ^ 60 + (a % 2 ^ 57).toNat)

/-- The answer of an agent's control request is known; it lands `n` cycles from now. -/
def State.answer (s : State) (a : Agent) (n : Nat) (w : Word) (trap : Option (Nat × Word)) : State :=
  (s.modCtx a (fun c => { c with req := c.req.map (fun r => { r with answer := some w, trap := trap }) })).schedule
    (s.cycle + n) priArrive (.controlAnswerLand a)

/-- A token request is answered with reject, which comes back `n` cycles from now: each `OWN.ACQ` that sent it raises the cause
(R413, R416, R423, R426). Any other message is only lost. -/
def State.rejectToken (s : State) (ev : Event) (n cause reason : Nat) : State :=
  match ev with
  | .tokenRequest home src page excl =>
    s.ctxs.foldl (fun s e => match e.2.req with
      | some r => if dieOf e.1 = src ∧ r.token = some (home, page, excl) ∧ r.answer.isNone then
          s.answer e.1 n 0 (some (cause, fabricValue reason r.virt)) else s
      | none => s) s
  | _ => s

/-- A message without a valid entry on its way is dropped; a request is answered with reject, and the access raises 0x05 with reason 6
(R413). -/
def State.noWay (s : State) (base pri : Nat) (ev : Event) : State :=
  match ev.asks with
  | none => s.rejectToken ev base 0x05 6
  | some id =>
    let lose := fun (q : MemReq) => if q.id = id then { q with failed := some (0x05, fabricValue 6 q.virt) } else q
    { s with reqs := s.reqs.map lose }.schedule (s.cycle + base) pri (.fabricReject id)

/-- When a message arrives that would arrive in a cycle: no earlier than those of its channel that are on their way (R48, R413). -/
def State.behind (s : State) (ev : Event) (due : Nat) : Nat :=
  ((s.agenda.filter (fun e => sameWay e.ev ev)).map (·.cycle)).foldl max due

/-- Whether a message of its channel is held before a message (R48, R413). -/
def State.heldBefore (s : State) (ev : Event) : Bool := s.heldFlits.any (fun f => sameWay f.ev ev)

/-- When the host's accesses that the landing has sent to a die before a message of ordered control arrive there: the ring keeps their
order (R379, R380). -/
def State.hostBefore (s : State) (cls : Nat) (src dst : DieId) : Nat :=
  let p := s.pkg src.pkg
  if cls = 1 ∧ src.pkg = dst.pkg ∧ p.landing = some src.die then
    ((p.hdmIn.filter (fun o => o.die = dst.die)).map (·.due)).foldl max 0
  else 0

/-- A message of a class sent between dies that takes the route's hops a number of times: it brings its event about `base`
cycles and the hops from now, behind those of its channel; it waits for a link, and in classes 1 and 2 for the end of a freeze; it is
dropped where no entry stands, and at the destination where the partition keys differ. -/
def State.sendClass (s : State) (cls : Nat) (src dst : DieId) (base trips pri : Nat) (ev : Event) : State :=
  let hold := { s with heldFlits := s.heldFlits ++
    [{ cls := cls, src := src, dst := dst, base := base, trips := trips, pri := pri, ev := ev }] }
  match if cls = 1 ∨ cls = 2 then s.route src dst else s.wayOf cls src dst with
  | .cost n =>
    if ev.keyed && s.keyBad src.pkg dst.pkg then (s.dropMsg src.pkg dst.pkg).rejectToken ev (base + 2 * n) 0x07 2
    else if s.heldBefore ev then hold
    else s.schedule (max (s.behind ev (s.cycle + base + trips * n)) (s.hostBefore cls src dst)) pri ev
  | .wait => hold
  | .none => s.noWay base pri ev

/-- An ordered message (class 1 or 2). -/
def State.sendTrips (s : State) (src dst : DieId) (base trips pri : Nat) (ev : Event) : State := s.sendClass 1 src dst base trips pri ev

/-- A message of the management class (class 0): no freeze and no flip holds it (R354, R417, R430, R434). -/
def State.sendManage (s : State) (src dst : DieId) (ev : Event) : State := s.sendClass 0 src dst 30 1 priLate ev

/-- An ordered message sent one way between dies. -/
def State.sendFlit (s : State) (src dst : DieId) (base pri : Nat) (ev : Event) : State := s.sendTrips src dst base 1 pri ev

/-- The messages that waited are sent again, after a link came up, a flip, or the end of a freeze. -/
def State.retryFlits (s : State) : State :=
  s.heldFlits.foldl (fun s f => s.sendClass f.cls f.src f.dst f.base f.trips f.pri f.ev) { s with heldFlits := [] }

/-- A message of class 0 or 3 between packages that is lost where there is no way (log 33): no freeze holds it. -/
def State.sendFree (s : State) (cls a b : Nat) (ev : Event) : State :=
  match s.wayOf cls { pkg := a, die := 0 } { pkg := b, die := 0 } with
  | .cost n => if ev.keyed && s.keyBad a b then s.dropMsg a b else s.schedule (s.cycle + 30 + n) priLate ev
  | .wait => s
  | .none => s

end Sys2Proof.Machine
end

