-- ==== Sys2Proof/Machine/Ports.lean ====
section
/-! DEFINITION. Packets and ports (R46–R58, R67–R76), merge ports (R264–R267), and the drain of a stage (R54). -/

namespace Sys2Proof

/-! ## Packets (R46) -/

/-- `KIND` (R47): 0 DATA, 1 ROW, 2 EOS, 3 ROUND, 4 DRAIN, 5 BOOT. -/
def Packet.kind (k : Packet) : Nat := Machine.wbits k.w0 0 4
/-- `LEN`. -/
def Packet.len (k : Packet) : Nat := Machine.wbits k.w0 12 13
/-- `SEQ`. -/
def Packet.seq (k : Packet) : BitVec 32 := BitVec.ofNat 32 (Machine.wbits k.w1 32 32)
/-- `CFG`. -/
def Packet.cfg (k : Packet) : BitVec 16 := BitVec.ofNat 16 (Machine.wbits k.w2 32 16)
/-- `ROUND`. -/
def Packet.round (k : Packet) : BitVec 32 := BitVec.ofNat 32 (Machine.wbits k.w2 0 32)

/-- The 32-byte header. -/
def Packet.header (k : Packet) : List Byte :=
  Machine.leBytes 8 k.w0.toNat ++ Machine.leBytes 8 k.w1.toNat ++ Machine.leBytes 8 k.w2.toNat ++ Machine.leBytes 8 k.w3.toNat

end Sys2Proof

namespace Sys2Proof.Machine

/-- A data packet counts towards rates. -/
def isData (kind : Nat) : Bool := kind < 2
/-- A marker is EOS or ROUND (R47). -/
def isMarker (kind : Nat) : Bool := kind = 2 || kind = 3

/-! ## Times (R448) -/

/-- What a message between two slots takes, beyond the dies' hops: in the same core, the same cluster, the same die, or
beyond it. -/
def slotDelay (a b : SlotId) (same clu die far : Nat) : Nat :=
  if a.core = b.core then same
  else if cluOf a.core = cluOf b.core then clu
  else if a.core.die = b.core.die then die
  else far

/-- A packet on its way: visible in its consumer's ring after R448's time, behind the packets of its channel. -/
def State.launchPacket (s : State) (i : SlotId) (n : Nat) (k : Packet) : State :=
  match tfind (s.slot i).outs n with
  | none => s
  | some o =>
    let len := 32 + k.len
    let base := slotDelay i o.dst 2 (8 + ceilDiv len 128) (20 + ceilDiv len 64) (30 + ceilDiv len 64)
    let hop := match s.route i.core.die o.dst.core.die with
      | .cost c => c
      | .wait => 0
      | .none => 0
    let due := max (s.cycle + base + hop - 1) o.lastArr
    let path := s.pathVia o.dst.core.die.pkg 6 i.core.die.pkg
    let via := if o.retained.length ≤ 1 then path else (o.via ++ path).dedup
    let s := s.modSlot i (fun v => { v with outs := tset v.outs n { o with lastArr := due, via := via } })
    s.sendFlit i.core.die o.dst.core.die (due - s.cycle - hop) priLate
      (.packetArrival { slot := o.dst, port := o.dport, chan := o.chan } k)

/-- A credit message from the consumer's slot to a channel's producer (R50). -/
def State.sendCredit (s : State) (i : SlotId) (ch : Chan) (num : BitVec 32) : State :=
  s.sendFlit i.core.die ch.src.core.die (slotDelay i ch.src 2 8 20 30) priArrive
    (.creditMessage { slot := ch.src, port := ch.port, chan := 0 } num)

/-! ## Sending (R50, R72, R73) -/

/-- The place of a slot among those of its die. -/
def SlotId.order (i : SlotId) : Nat := i.core.clu * 2 ^ 11 + i.core.core * 2 ^ 4 + i.slot

/-- The buffer of the retention area that holds a retained packet of an output port (R432): the buffers of a die's ports lie one behind
another from `0xF00_0000`, by cluster, core, slot and port, and a packet lies in that of its number modulo B (DESIGN CHOICE, log 70). -/
def State.retentionBuf (s : State) (i : SlotId) (n : Nat) (seq : BitVec 32) : Nat :=
  let ports := (s.slots.filter (fun e => e.1.core.die = i.core.die)).flatMap (fun e => e.2.outs.map (fun o => (SlotId.order e.1 * 8 + o.1, o.2)))
  let before := (ports.filter (fun o => o.1 < SlotId.order i * 8 + n)).map (fun o => o.2.bufs * (32 + o.2.size))
  let mine := match tfind (s.slot i).outs n with
    | some o => seq.toNat % o.bufs * (32 + o.size)
    | none => 0
  0xF000000 + before.sum + mine

/-- A packet is put in its retention buffer (R50, R432). -/
def State.retain (s : State) (i : SlotId) (n : Nat) (k : Packet) : State :=
  s.putPieces i.core.die (s.retentionBuf i n k.seq) [(0, k.header ++ k.payload)]

/-- A packet made for an output port: numbered, retained, and paid for with one credit (R50). -/
def State.makePacket (s : State) (i : SlotId) (n kind : Nat) (packed : Bool) (round : BitVec 32) (user : Word)
    (payload : List Byte) : State × Packet :=
  match tfind (s.slot i).outs n with
  | none => (s, { w0 := 0, w1 := 0, w2 := 0, w3 := 0, payload := [] })
  | some o =>
    let v := s.slot i
    let src := (s.ctx (.stage i)).stageId
    let k : Packet :=
      { w0 := toWord (src.toNat * 2 ^ 32 + n % 8 * 2 ^ 25 + payload.length % 2 ^ 13 * 2 ^ 12 + bit packed * 2 ^ 5 + kind % 16),
        w1 := toWord (o.nextSeq.toNat * 2 ^ 32 + o.dport % 8 * 2 ^ 24 + o.dstStage.toNat),
        w2 := toWord (v.cfgNum.toNat * 2 ^ 32 + round.toNat),
        w3 := user, payload := payload }
    let o' : OutPort := { o with credits := o.credits - 1, nextSeq := o.nextSeq + 1, retained := o.retained ++ [k] }
    ((s.setSlot i { v with outs := tset v.outs n o' }).retain i n k, k)

/-- A marker, or DRAIN, sent on a port: it leaves behind the copies of the port that have not finished (R57, R73). Its `USER` word
is 0 (DESIGN CHOICE, log 57). -/
def State.sendMarker (s : State) (i : SlotId) (n kind : Nat) : State :=
  let r := s.makePacket i n kind false (s.ctx (.stage i)).cr.rnd 0 []
  let s := r.1.modSlot i (fun v => { v with outs := v.outs.map (fun o =>
    if o.1 = n then (o.1, { o.2 with sentRound := o.2.sentRound || kind = 3, sentEos := o.2.sentEos || kind = 2,
                                     drainSent := o.2.drainSent || kind = 4 }) else o) })
  if (s.slot i).emissions.any (fun e => e.port = n) then
    (s.modSlot i (fun v => { v with emissions := v.emissions ++ [{ id := s.uid, port := n, pkt := r.2, copy := false }] })).tick1
  else s.launchPacket i n r.2

/-- The emissions of a port that can leave once the first has: markers up to the next copy. -/
def freedMarkers (n : Nat) : List Emission → List Emission
  | [] => []
  | e :: r => if e.port ≠ n then freedMarkers n r else if e.copy then [] else e :: freedMarkers n r

/-- The bytes that a copy reads next: 128 of its header image and payload (R72). -/
def Emission.chunk (e : Emission) : Nat × Nat :=
  let size := 32 + e.pkt.len
  let done := 128 * (ceilDiv size 128 - e.left)
  (e.addr + done, min 128 (size - done))

/-- The first copy of a slot that still reads, changed. -/
def stepCopy (f : Emission → Emission) : List Emission → List Emission
  | [] => []
  | e :: r => if e.copy && 0 < e.left then f e :: r else e :: stepCopy f r

/-- A copy of a slot has a cycle of the memory port (R72, R173): it reads on where it has its banks and no acquire before it is
held (R288), and else ends a cycle later. -/
def State.copyTurn (s : State) (i : SlotId) : State :=
  match (s.slot i).emissions.find? (fun e => e.copy && 0 < e.left) with
  | none => s
  | some e =>
    let put := fun (s : State) (f : Emission → Emission) => s.modSlot i (fun v => { v with emissions := stepCopy f v.emissions })
    if s.cycle < e.start then s
    else if !s.behindAcquire (.stage i) e.id && s.portTurn (.stage i) e.chunk.1 e.chunk.2 then
      put (s.servePort (.stage i) e.chunk.1 e.chunk.2) (fun e => { e with left := e.left - 1 })
    else (put s (fun e => { e with due := e.due + 1 })).modCore i.core (fun k => { k with portFree := k.portFree + 1 })

/-- The copies have their cycle of the memory ports (R173). -/
def State.copyTurns (s : State) : State := (s.slots.map (·.1)).foldl (fun s i => s.copyTurn i) s

/-- `EMIT_COPY_DONE` (R72, R173): the packet leaves, and the markers behind it; a copy that has lost banks ends later. -/
def execEmitCopyDone (i : SlotId) (id : Nat) (s : State) : Out :=
  match (s.slot i).emissions.find? (fun e => e.id = id && e.copy) with
  | none => .fault .noSuchItem
  | some e =>
    if s.cycle < e.due then .next (s.schedule e.due priPort (.emitCopyDone i id))
    else
    let behind := freedMarkers e.port ((s.slot i).emissions.dropWhile (fun x => x.id ≠ id)).tail
    let go := e :: behind
    let s := s.modSlot i (fun v => { v with emissions := v.emissions.filter (fun x => x.id ∉ go.map (·.id)) })
    .next (go.foldl (fun s x => s.launchPacket i x.port x.pkt) s)

/-- Whether an earlier drain of the matrix unit has still to send on a port (R200); the drain that the bundle in issue itself queues is
none of those (R7). -/
def State.drainsOn (s : State) (i : SlotId) (n : Nat) : Bool :=
  (s.slot i).drains.any (fun e => e.port = some n) ||
  (s.ctx (.stage i)).matq.any (fun h => h.id < s.iss.mark && bitsAt h.word.toNat 22 6 = 1 && (s.ctx (.stage i)).route h.xval.toNat = (true, n))

/-- Whether a port of a slot can send now: a credit, and no earlier drain. -/
def State.canSend (s : State) (i : SlotId) (n : Nat) : Bool :=
  match tfind (s.slot i).outs n with
  | some o => 1 ≤ o.credits && !s.drainsOn i n
  | none => false

/-- Whether the slot in issue declares an input, or an output, port. -/
def State.hasIn (s : State) (n : Nat) : Bool := !isSup s.cur && (tfind (s.slot s.mySlot).ins n).isSome
@[inherit_doc State.hasIn] def State.hasOut (s : State) (n : Nat) : Bool :=
  !isSup s.cur && (tfind (s.slot s.mySlot).outs n).isSome

/-- The local scratchpad as it stood before the bundle in issue (R7, R72). -/
def State.bundleMem (s : State) : Mem :=
  ((s.pendingStores s.cur).filter (·.id < s.iss.mark)).foldl (fun m st => memWrite m st.addr st.data) (s.banks s.cur)

/-- The length that `EMIT` reads from its header image. -/
def State.emitLen (s : State) (xa : Nat) : Nat := bitsAt (memNat s.bundleMem xa 8) 12 13

/-- The causes of `EMIT` (R72). -/
def emitCause (a : BitVec 6) (n : Nat) (s : State) : Option (Nat × Word) :=
  let xa := (s.rx a).toNat
  let size := match tfind (s.slot s.mySlot).outs n with
    | some o => o.size
    | none => 0
  if xa % 16 ≠ 0 then some (0x10, addrValue 0 xa)
  else if xa + 32 > 2 ^ 21 then some (0x04, addrValue 0 xa)
  else if s.emitLen xa > 4096 ∨ s.emitLen xa > size ∨ xa + 32 + s.emitLen xa > 2 ^ 21 then some (0x04, addrValue 0 xa)
  else none

/-- `EMIT` takes effect (R72): the packet is made of the scratchpad as it stands, and its copy uses the local path. Where a word of it has
an uncorrectable error the packet is sent with the stored bits, and 0x0B follows (DESIGN CHOICE, log 103). -/
def State.doEmit (s : State) (d a : BitVec 6) (n : Nat) (packed row : Bool) : State :=
  let i := s.mySlot
  let xa := (s.rx a).toNat
  let len := s.emitLen xa
  let m := s.bundleMem
  let s := s.meetLocal s.cur xa (32 + len)
  let s := match firstBad (s.localBad s.cur) xa (32 + len) with
    | some w => s.modMe (fun c => { c with after := c.after ++ [(0x0B, addrValue 0 w)] })
    | none => s
  let r := s.makePacket i n (bit row) packed s.me.cr.rnd (toWord (memNat m (xa + 24) 8)) (memRead m (xa + 32) len)
  let start := max s.cycle (s.core i.core).portFree
  let done := start + ceilDiv (32 + len) 128
  let s := (r.1.modCore i.core (fun k => { k with portFree := done })).modSlot i (fun v =>
    { v with emissions := v.emissions ++ [{ id := s.uid, port := n, pkt := r.2, addr := xa, start := start, copy := true,
                                            left := ceilDiv (32 + len) 128, due := done }] })
  let s := if start = s.cycle then s.copyTurn i else s
  ((s.schedule done priPort (.emitCopyDone i s.uid)).tick1).nextX d (toWord r.2.seq.toNat)

/-- `EMIT` (R72). -/
def execEmit (p : BitVec 4) (d a : BitVec 6) (n : BitVec 3) (k w : BitVec 1) (s : State) : Out :=
  issue { ctlSyl p { xr := [a], xw := [d] } (fun s => s.doEmit d a n.toNat (k = 1) (w = 1)) with
    typeOk := s.hasOut n.toNat,
    early := [a],
    cause := emitCause a n.toNat,
    wait := fun s => if s.portHeld 2 then .stall else if s.canSend s.mySlot n.toNat then .go else .hold (fun s => s) } s

/-- The output ports of a slot, in ascending order. -/
def Slot.outPorts (v : Slot) : List Nat := (List.range 8).filter (fun n => (tfind v.outs n).isSome)

/-- `MARK` (R73). -/
def execMark (p : BitVec 4) (n : BitVec 3) (l e : BitVec 1) (s : State) : Out :=
  let ports := fun (s : State) => if l = 1 then (s.slot s.mySlot).outPorts else [n.toNat]
  let kind := if e = 1 then 2 else 3
  issue { ctlSyl p {} (fun s =>
      let t := (ports s).foldl (fun t q => t.sendMarker s.mySlot q kind) s
      if e = 0 ∧ ports s ≠ [] then t.modMySlot (fun v => { v with sentRound := true }) else t) with
    typeOk := !isSup s.cur && (l = 1 || s.hasOut n.toNat),
    wait := fun s => if (ports s).all (s.canSend s.mySlot) then .go else .hold (fun s => s) } s

/-! ## Taking (R71, R74, R75) -/

/-- The untaken packets of a port in ring order. -/
def InPort.untaken (q : InPort) : List Buf := q.ring.filter (fun b => !b.taken)
/-- The pending data: the untaken packets up to the first marker or DRAIN. -/
def InPort.pending (q : InPort) : List Buf := q.untaken.takeWhile (fun b => isData b.kind.toNat)
/-- The head: the first marker or DRAIN behind the pending data. -/
def InPort.head (q : InPort) : Option Buf := (q.untaken.dropWhile (fun b => isData b.kind.toNat)).head?

/-- The first packet of a port marked taken, if it is a data packet (R71). -/
def takeFirst : List Buf → List Buf
  | [] => []
  | b :: r => if b.taken then b :: takeFirst r
    else if isData b.kind.toNat then { b with taken := true } :: r
    else b :: r

/-- An input port of the slot in issue. -/
def State.myIn (s : State) (n : Nat) : Option InPort := tfind (s.slot s.mySlot).ins n

/-- `TAKE` (R71). At a marker whose header was overwritten, `xh` is the word 0 that arrived (DESIGN CHOICE, log 59). -/
def execTake (p : BitVec 4) (d h : BitVec 6) (n : BitVec 3) (s : State) : Out :=
  let first := fun (s : State) => ((s.myIn n.toNat).map (fun q => q.untaken)).getD []
  issue { ctlSyl p { xw := [d, h] } (fun s =>
      match s.myIn n.toNat, first s with
      | some q, b :: _ =>
        ((s.modMySlot (fun v => { v with ins := tset v.ins n.toNat { q with ring := takeFirst q.ring } })).nextX
          d (toWord b.addr)).nextX h b.word0
      | _, _ => s) with
    typeOk := s.hasIn n.toNat,
    wait := fun s => if first s = [] then .hold (fun s => s) else .go } s

/-- The status word of a port (R68, R267). -/
def InPort.status (q : InPort) : Word :=
  let next := ((q.chans.head?).map (fun c => c.expected.toNat)).getD 0
  toWord (next * 2 ^ 32 + min 255 ((q.chans.map (·.bad)).foldl (· + ·) 0) * 2 ^ 16
    + min 65535 ((q.chans.map (·.dup)).foldl (· + ·) 0))

/-- What `PEEK` returns (R74). -/
def State.peekValue (s : State) (m : Nat) (a : BitVec 6) (n : Nat) : Word :=
  match s.myIn n, tfind (s.slot s.mySlot).outs n with
  | some q, _ =>
    if m = 0 then ((q.untaken[(s.rx a).toNat]?).map (fun b => toWord b.addr)).getD (BitVec.allOnes 64)
    else if m = 1 then toWord q.pending.length
    else if m = 3 then q.status
    else ((tfind (s.slot s.mySlot).outs n).map (fun o => toWord o.credits)).getD 0
  | none, some o => toWord o.credits
  | none, none => 0

/-- `PEEK` (R74). -/
def execPeek (p : BitVec 4) (d a : BitVec 6) (n m : BitVec 3) (s : State) : Out :=
  issue { ctlSyl p { xr := if m = 0 then [a] else [], xw := [d] } (fun s =>
      s.nextX d (s.peekValue m.toNat a n.toNat)) with
    typeOk := if m = 2 then s.hasOut n.toNat else s.hasIn n.toNat } s

/-- `WTAG` (R75). -/
def execWtag (p : BitVec 4) (t : BitVec 4) (s : State) : Out :=
  issue { ctlSyl p {} (fun s => s.consumeTag s.cur t.toNat) with
    wait := fun s => if s.me.tags.ready.getLsbD t.toNat then .go else .hold (fun s => s) } s

/-- `END` (R76): the completion begins with the next cycle. -/
def execEndFiring (p : BitVec 4) (s : State) : Out :=
  issue { ctlSyl p {} (fun s => s.modMySlot (fun v => { v with ending := some { began := s.cycle, markersSent := false, kill := false } })) with
    typeOk := !isSup s.cur } s

/-! ## Stage events (R67) -/

/-- The code of a stage event (R343). -/
def StageEvent.code : StageEvent → Nat
  | .wrongPacket => 1
  | .sequenceGap => 2
  | .length => 3
  | .markerMismatch => 4
  | .mergeOverflow => 5

/-- Whether a slot has no firing. -/
def Slot.idle (v : Slot) : Bool := v.fst = .none || v.fst = .ready || v.fst = .done

/-- A slot leaves ACTIVE: its memberships and its query contexts are freed (R249, R259, R334). -/
def State.leaveActive (s : State) (i : SlotId) : State :=
  (s.leaveSync i).modDie i.core.die (fun d =>
    { d with queries := d.queries.map (fun q => if q.owner = some i then { q with owner := none } else q),
             chunkReqs := d.chunkReqs.filter (fun r => r.own ≠ .stage i) })

/-- An active slot with a stage event and no firing becomes FAULTED, and leaves its phasers (R64, R249). -/
def State.settleFaults (s : State) (i : SlotId) : State :=
  let v := s.slot i
  if v.events ≠ [] ∧ v.idle ∧ v.sst = .active then
    (s.setSlot i { v with sst := .faulted, fst := if v.fst = .ready then .none else v.fst }).leaveActive i
  else s

/-- A stage event (R64, R67): recorded at once. -/
def State.stageEvent (s : State) (i : SlotId) (e : StageEvent) (port : Nat) : State :=
  ((s.dieEvent i.core.die e.code 0 (some i) port 0).modSlot i (fun v => { v with events := v.events ++ [e] })).settleFaults i

/-! ## Arrival (R48, R49, R264–R267) -/

/-- The bytes from one buffer to the next. -/
def InPort.stride (q : InPort) : Nat := ceilDiv (32 + q.size) 16 * 16

/-- A number counted up to a limit. -/
def satAdd (lim n : Nat) : Nat := min lim (n + 1)

/-- The first uncommitted marker or DRAIN of a channel. -/
def InPort.front (q : InPort) (c : Nat) : Option Buf := q.held.find? (fun b => b.chan = c && !isData b.kind.toNat)

/-- The channels of a port by number. -/
def InPort.chanNos (q : InPort) : List Nat := List.range q.chans.length

/-- Whether the channels' closing markers contradict each other (R265). -/
def InPort.mismatch (q : InPort) : Bool :=
  let fs := q.chanNos.filterMap q.front
  let rounds := (fs.filter (fun b => b.kind = 3)).map (·.round)
  (fs.any (fun b => b.kind = 2) && fs.any (fun b => b.kind = 4)) || rounds.any (fun r => rounds.any (· ≠ r))

/-- The order of a deterministic commit (R266). -/
def bufBefore (a b : Buf) : Bool :=
  a.src < b.src || (a.src = b.src && (a.sport < b.sport || (a.sport = b.sport && a.seq < b.seq)))

/-- A buffer put in its place among sorted ones. -/
def insertBuf (le : Buf → Buf → Bool) (b : Buf) : List Buf → List Buf
  | [] => [b]
  | x :: r => if le x b then x :: insertBuf le b r else b :: x :: r

/-- Buffers in an order, stable. -/
def sortBufs (le : Buf → Buf → Bool) (l : List Buf) : List Buf := l.foldl (fun acc b => insertBuf le b acc) []

/-- Whether data of a channel stands ahead of the channel's first marker among the held arrivals. -/
def dataAhead (held : List Buf) (b : Buf) : Bool :=
  isData b.kind.toNat &&
    !((held.takeWhile (fun x => x ≠ b)).any (fun x => x.chan = b.chan && !isData x.kind.toNat))

/-- The order of arrival, ascending channels within a cycle (R266). -/
def arrivedBefore (a b : Buf) : Bool := a.at_ < b.at_ || (a.at_ = b.at_ && a.chan ≤ b.chan)

/-- One step of the committed order (R265, R266): where every channel has closed a round, its data and its merged marker are
appended. -/
def InPort.commit1 (q : InPort) (det : Bool) : Option InPort :=
  let fs := q.chanNos.map q.front
  if q.mismatch || fs.any (·.isNone) then none
  else
    let fronts := fs.filterMap (fun b => b)
    let rounds := fronts.filter (fun b => b.kind = 3)
    let closing := if rounds = [] then fronts else rounds
    match closing with
    | [] => none
    | m :: others =>
      let merged := { m with also := others.map (fun b => (b.chan, b.seq)) }
      let data := q.held.filter (dataAhead q.held)
      let rest := q.held.filter (fun b => !dataAhead q.held b && b ∉ closing)
      let now := if det then [] else rest.filter (dataAhead rest)
      some { q with ring := q.ring ++ (if det then sortBufs (fun x y => !bufBefore y x) data else data) ++ [merged] ++
                      sortBufs arrivedBefore now,
                    held := rest.filter (· ∉ now) }

/-- The committed order brought up to date. -/
def InPort.commit (det : Bool) : Nat → InPort → InPort
  | 0, q => q
  | fuel + 1, q =>
    match q.commit1 det with
    | some q' => q'.commit det fuel
    | none => q

/-- A buffer that arrives: in a plain port's ring; in a merge port's committed order, or held (R265, R266). Data that arrives
in one cycle enters in ascending channel number. -/
def InPort.accept (q : InPort) (det : Bool) (b : Buf) : InPort :=
  if !q.merge then { q with ring := q.ring ++ [b] }
  else if !det && isData b.kind.toNat && (q.front b.chan).isNone then
    let later := fun (x : Buf) => x.at_ = b.at_ && b.chan < x.chan && isData x.kind.toNat
    let tail := (q.ring.reverse.takeWhile later).reverse
    { q with ring := q.ring.take (q.ring.length - tail.length) ++ [b] ++ tail }
  else
    let q := { q with held := q.held ++ [b] }
    q.commit det (q.held.length)

/-- A channel whose buffers all hold uncommitted data cannot close its round (R267). -/
def InPort.overflow (q : InPort) (det : Bool) (c : Nat) : Bool :=
  q.merge && det && (q.front c).isNone && q.bufs ≤ (q.held.filter (fun b => b.chan = c)).length

/-- What an arrival does: the slot after it, bytes written in the scratchpad, a credit returned at once, a stage event. -/
structure Arrival where
  slot : Slot
  write : Option (Nat × List Byte)
  credit : Option (BitVec 32)
  event : Option StageEvent
  deriving DecidableEq, Repr

/-- A channel of a port replaced. -/
def InPort.setChan (q : InPort) (c : Nat) (ch : Chan) : InPort := { q with chans := q.chans.set c ch }

/-- A packet as a buffer. -/
def bufOf (k : Packet) (chan addr now : Nat) : Buf :=
  { kind := BitVec.ofNat 4 k.kind, round := k.round, seq := k.seq, src := BitVec.ofNat 24 (wbits k.w0 32 24),
    sport := BitVec.ofNat 3 (wbits k.w0 25 3), chan := chan, addr := addr, word0 := k.w0, taken := false, also := [],
    at_ := now }

/-- The fate of a packet at a port (R48). `frozen` says that a migration is under way (R437). A duplicate that comes before any
buffer of its channel was freed resends nothing (DESIGN CHOICE, log 58). -/
def Slot.arrival (v : Slot) (q : InPort) (port c : Nat) (ch : Chan) (k : Packet) (frozen : Bool) (now : Nat) : Arrival :=
  let put := fun (q : InPort) => { v with ins := tset v.ins port q }
  let d := (k.seq - ch.expected).toInt
  let bad := put (q.setChan c { ch with bad := satAdd 255 ch.bad })
  if k.cfg ≠ v.cfgNum ∨ k.kind ≥ 5 then { slot := bad, write := none, credit := none, event := some .wrongPacket }
  else if d < 0 then
    { slot := put (q.setChan c { ch with dup := satAdd 65535 ch.dup }), write := none, credit := ch.freed, event := none }
  else if d > 0 then
    if frozen then { slot := bad, write := none, credit := none, event := none }
    else { slot := v, write := none, credit := none, event := some .sequenceGap }
  else if k.len > q.size then { slot := v, write := none, credit := none, event := some .length }
  else
    let addr := q.base + (c * q.bufs + ch.next) * q.stride
    let q := q.setChan c { ch with expected := ch.expected + 1, next := (ch.next + 1) % max q.bufs 1 }
    let q := q.accept v.det (bufOf k c addr now)
    let pad := ceilDiv k.len 16 * 16 - k.len
    { slot := put q, write := some (addr, k.header ++ k.payload ++ List.replicate pad 0), credit := none,
      event := if q.merge && q.mismatch && .markerMismatch ∉ v.events then some .markerMismatch
        else if q.overflow v.det c && .mergeOverflow ∉ v.events then some .mergeOverflow else none }

/-- The slot whose rings a packet joins: the next configuration's while that is loaded and the packet is its (R355). -/
def State.arrivalSlot (s : State) (i : SlotId) (k : Packet) : Slot × Bool :=
  match tfind s.nexts i with
  | some v => if v.cfgNum = k.cfg ∧ (s.slot i).cfgNum ≠ k.cfg then (v, true) else (s.slot i, false)
  | none => (s.slot i, false)

/-- A packet reaches an input port (R48). A killed stage discards it and returns its credit at once (R61). While the next
configuration's slot is loaded, its packets join its own rings (R355). -/
def State.receive (s : State) (dst : PortId) (k : Packet) : State :=
  let i := dst.slot
  let (v, isNext) := s.arrivalSlot i k
  match tfind v.ins dst.port with
  | none => s.stageEvent i .wrongPacket dst.port
  | some q =>
    match q.chans[dst.chan]? with
    | none => s.stageEvent i .wrongPacket dst.port
    | some ch =>
      if v.killed then s.sendCredit i ch k.seq
      else
        let r := v.arrival q dst.port dst.chan ch k (s.pkg i.core.die.pkg).frozen.isSome s.cycle
        let s := if isNext then { s with nexts := tset s.nexts i r.slot } else s.setSlot i r.slot
        let s := match r.write with
          | some w => s.writeBanks (.stage i) w.1 w.2 true
          | none => s
        let s := match r.credit with
          | some n => s.sendCredit i ch n
          | none => s
        match r.event with
        | some e => s.stageEvent i e dst.port
        | none => s

/-- The bytes of the scratchpad that a packet is to be written in: its buffer, where its port takes it (R48). -/
def State.arrivalSpan (s : State) (dst : PortId) (k : Packet) : Option (Nat × Nat) :=
  let (v, _) := s.arrivalSlot dst.slot k
  match (tfind v.ins dst.port).bind (fun q => (q.chans[dst.chan]?).map (fun ch => (q, ch))) with
  | none => none
  | some (q, ch) =>
    if v.killed then none
    else (v.arrival q dst.port dst.chan ch k (s.pkg dst.slot.core.die.pkg).frozen.isSome s.cycle).write.map (fun w => (w.1, w.2.length))

/-- `PACKET_ARRIVAL` (R48): where its buffer's banks are served to others, the packet waits (R173); so does one behind a packet of
its channel that waits. A packet that writes nothing needs no bank, and waits no longer (R61). -/
def execPacketArrival (dst : PortId) (pkt : Packet) (s : State) : Out :=
  let c := dst.slot.core
  let w := (s.arrivalSpan dst pkt).getD (0, 0)
  if s.bankTurn c w.1 w.2 (.packetArrival dst pkt) then
    .next ((if w.2 = 0 then s.leaveWaits c (.packetArrival dst pkt) else s.takeTurn c w.1 w.2 (.packetArrival dst pkt)).receive dst pkt)
  else .next (s.loseTurn c (.packetArrival dst pkt))

/-! ## Credits (R50) -/

/-- A credit message at its producer: retained packets up to its number are released and counted (R50). -/
def OutPort.credit (o : OutPort) (num : BitVec 32) : OutPort :=
  let ahead := match o.credited with
    | none => true
    | some c => 0 < (num - c).toInt
  if !ahead then o
  else
    let kept := o.retained.filter (fun k => 0 < (k.seq - num).toInt)
    { o with credited := some num, retained := kept, credits := o.credits + (o.retained.length - kept.length) }

/-- `CREDIT_MESSAGE` (R50). -/
def execCreditMessage (dst : PortId) (num : BitVec 32) (s : State) : Out :=
  match tfind (s.slot dst.slot).outs dst.port with
  | none => .fault .noSuchItem
  | some o => .next (s.modSlot dst.slot (fun v => { v with outs := tset v.outs dst.port (o.credit num) }))

/-- The later of two sequence numbers. -/
def laterSeq (a : Option (BitVec 32)) (b : BitVec 32) : BitVec 32 :=
  match a with
  | none => b
  | some a => if 0 < (b - a).toInt then b else a

/-- Buffers freed from a port: the port after it, and the channels to credit with the highest number freed (R50). -/
def InPort.free (q : InPort) (test : Buf → Bool) : InPort × List (Chan × BitVec 32) :=
  let gone := (q.ring.filter test).flatMap (fun b => (b.chan, b.seq) :: b.also)
  let q := { q with ring := q.ring.filter (fun b => !test b) }
  let chans := q.chans.zipIdx.map (fun e =>
    ((gone.filter (fun g => g.1 = e.2)).foldl (fun (c : Chan) g => { c with freed := some (laterSeq c.freed g.2) }) e.1, e.2))
  ({ q with chans := chans.map (·.1) },
   (chans.filter (fun e => gone.any (fun g => g.1 = e.2))).filterMap (fun e => e.1.freed.map (fun n => (e.1, n))))

/-- Buffers freed from every input port of a slot. -/
def State.freeBufs (s : State) (i : SlotId) (test : Buf → Bool) : State × List (Chan × BitVec 32) :=
  (s.slot i).ins.foldl (fun (acc : State × List (Chan × BitVec 32)) e =>
    let r := e.2.free test
    (acc.1.modSlot i (fun v => { v with ins := tset v.ins e.1 r.1 }), acc.2 ++ r.2)) (s, [])

/-- Credit messages sent. -/
def State.sendCredits (s : State) (i : SlotId) (cs : List (Chan × BitVec 32)) : State :=
  cs.foldl (fun s c => s.sendCredit i c.1 c.2) s

/-! ## The drain of a stage (R54) -/

/-- Whether the drain of R54 can begin. -/
def Slot.canDrain (v : Slot) : Bool :=
  v.sst = .active && (v.fst = .none || v.fst = .ready || v.fst = .done) && !v.draining &&
  (if v.ins = [] then v.drainToken
   else v.ins.all (fun e => e.2.pending = [] && (e.2.head.map (·.kind)) = some 4))

/-- A slot whose every output port has sent its DRAIN is DRAINED (R54), and leaves its phasers and the barrier; a source that
is DONE stays so (R355). -/
def State.settleDrain (s : State) (i : SlotId) : State :=
  let v := s.slot i
  if v.draining ∧ v.outs.all (fun o => o.2.drainSent) ∧ v.sst = .active ∧ v.fst ≠ .done then
    (s.setSlot i { v with sst := .drained, fst := .none }).leaveActive i
  else s

/-- `DRAIN_ACTION` (R54): the DRAIN buffers' credits are returned at once; until it can begin the event does nothing. -/
def execDrainAction (i : SlotId) (s : State) : Out :=
  if (s.slot i).canDrain then
    let r := s.freeBufs i (fun b => b.kind = 4)
    .next (((r.1.sendCredits i r.2).modSlot i (fun v =>
      { v with draining := true, fst := if v.fst = .done then .done else .none })).settleDrain i)
  else .next s

/-- Whether a port of a draining slot can send its DRAIN. -/
def Slot.canDrainPort (v : Slot) (n : Nat) : Bool :=
  v.draining && match tfind v.outs n with
    | some o => !o.drainSent && 1 ≤ o.credits
    | none => false

/-- `DRAIN_SEND` (R54). -/
def execDrainSend (i : SlotId) (port : Nat) (s : State) : Out :=
  if (s.slot i).canDrainPort port then .next ((s.sendMarker i port 4).settleDrain i) else .next s

/-- `MM_DRAIN_SEND` (R200): the packet leaves once the port holds a credit, behind the port's earlier packets. -/
def execMmDrainSend (i : SlotId) (id : Nat) (s : State) : Out :=
  match (s.slot i).drains.find? (fun e => e.id = id && e.port.isSome) with
  | none => .fault .noSuchItem
  | some e =>
    if s.cycle < e.readDone then .next (s.schedule e.readDone priMatrix (.mmDrainSend i id))
    else
    let n := e.port.getD 0
    let free := match tfind (s.slot i).outs n with
      | some o => 1 ≤ o.credits
      | none => false
    if !free || (s.slot i).emissions.any (fun x => x.port = n) then
      .next (s.schedule (s.cycle + 1) priMatrix (.mmDrainSend i id))
    else
      let r := s.makePacket i n 0 (e.pkt.w0 = 1) (BitVec.ofNat 32 e.pkt.w2.toNat) e.pkt.w3 e.pkt.payload
      .next (((r.1.modSlot i (fun v => { v with drains := v.drains.filter (fun x => x.id ≠ id) })).modCtx (.stage i)
        (fun c => c.flag e.flags)).launchPacket i n r.2)

end Sys2Proof.Machine
end

