-- ==== Sys2Proof/Machine/Firing.lean ====
section
/-! DEFINITION. Firings: readiness and scheduling (R51–R59), the start transfer (R42, R45), the end (R76, R433), kills
(R61, R62), parks and resumes (R227, R228), the return from a trap (R347), and the queues of the supervisor cores
(R342, R345, R348). -/

namespace Sys2Proof.Machine

/-! ## Readiness (R51, R52) -/

/-- Every output port holds its rate, and `extra` more, in credits. -/
def Slot.outsHold (v : Slot) (extra : Nat) : Bool := v.outs.all (fun o => o.2.rate + extra ≤ o.2.credits)

/-- Ready for a data firing (R51, R55). -/
def Slot.dataReady (v : Slot) : Bool :=
  v.outsHold 0 &&
  (v.ins.all (fun q => q.2.rate ≤ q.2.pending.length) ||
   (v.ins.all (fun q => q.2.rate ≤ q.2.pending.length || q.2.head.isSome) && v.ins.any (fun q => q.2.pending ≠ [])))

/-- The heads of the input ports, where no port has pending data and every port has a head. -/
def Slot.heads (v : Slot) : Option (List Buf) :=
  if v.ins = [] ∨ v.ins.any (fun q => q.2.pending ≠ [] || q.2.head.isNone) then none
  else some (v.ins.filterMap (fun q => q.2.head))

/-- Whether two heads agree: one kind, and for ROUND markers one round (R52). -/
def headsAgree (a b : Buf) : Bool := a.kind = b.kind && (a.kind ≠ 3 || a.round = b.round)

/-- Whether heads contradict each other (R52, R54). -/
def Slot.headsMismatch (v : Slot) : Bool :=
  match v.heads with
  | some (b :: r) => r.any (fun x => !headsAgree b x)
  | some [] => false
  | none => false

/-- The first port whose head disagrees with that of the slot's first port: the port that the event of a mismatch names (R343;
log 45). -/
def Slot.oddPort (v : Slot) : Nat :=
  match v.ins.filterMap (fun q => q.2.head.map (fun b => (q.1, b))) with
  | [] => 0
  | e :: r => ((r.filter (fun x => !headsAgree e.2 x.2)).map (·.1)).headD e.1

/-- The head marker of a marker firing that is ready (R52). -/
def Slot.markerReady (v : Slot) : Option Buf :=
  match v.heads with
  | some (b :: r) => if isMarker b.kind.toNat && r.all (headsAgree b) && v.outsHold 1 then some b else none
  | some [] => none
  | none => none

/-- Whether a slot may start a firing at all: ACTIVE, without a firing, and not draining (R51, R54). -/
def Slot.mayFire (v : Slot) : Bool :=
  v.sst = .active && v.fst = .none && !v.draining && !(v.ins = [] && v.drainToken)

/-- The readiness of a slot brought up to date: READY with its stamp (R59, R65), or the stage event marker mismatch. -/
def State.refreshSlot (s : State) (i : SlotId) : State :=
  let v := s.slot i
  if !v.mayFire then s
  else if v.headsMismatch then
    if v.events = [] then s.stageEvent i .markerMismatch v.oddPort else s
  else if v.dataReady || v.markerReady.isSome then s.setSlot i { v with fst := .ready, stamp := s.cycle }
  else s

/-- The readiness of every slot brought up to date. -/
def State.refreshReady (s : State) : State := s.slots.foldl (fun s e => s.refreshSlot e.1) s

/-! ## The scheduler (R59) -/

/-- The slots of a core. -/
def slotsOf (c : CoreId) : List SlotId := (List.range 16).map (fun n => { core := c, slot := n })

/-- The resume address in a slot's save area. -/
def State.savedPc (s : State) (i : SlotId) : Nat :=
  memNat (s.die i.core.die).gallery (s.slot i).saveAddr 8 % 2 ^ 17

/-- Whether the supervisor has edited the resume address (R224). -/
def State.pcEdited (s : State) (i : SlotId) : Bool := s.savedPc i ≠ addr17 (s.ctx (.stage i)).pc

/-- Whether a parked firing may be chosen (R227). -/
def State.resumable (s : State) (i : SlotId) : Bool :=
  match (s.slot i).trap with
  | some t => t.resumable || s.pcEdited i
  | none => false

/-- Whether a slot can be chosen. -/
def State.candidate (s : State) (i : SlotId) : Bool :=
  let v := s.slot i
  (v.fst = .ready && v.sst = .active) || (v.fst = .parked && s.resumable i)

/-- Whether slot `a` is chosen ahead of slot `b` of its core: priority, then ready stamp, then slot number. -/
def State.ahead (s : State) (a b : SlotId) : Bool :=
  let v := s.slot a
  let w := s.slot b
  v.prio < w.prio || (v.prio = w.prio && (v.stamp < w.stamp || (v.stamp = w.stamp && a.slot < b.slot)))

/-- The slot that the core chooses next, where it holds no firing. -/
def State.nextFiring (s : State) (c : CoreId) : Option SlotId :=
  if (s.core c).running.isSome then none
  else ((slotsOf c).filter s.candidate).foldl (fun best i => match best with
    | none => some i
    | some b => if s.ahead i b then some i else some b) none

/-! ## The start of a firing (R42, R45) -/

/-- A register file with the registers of a mask kept and the rest zero. -/
def keepRegs {w n : Nat} (v : Vector (BitVec w) n) (mask : Nat) : Vector (BitVec w) n :=
  v.mapFinIdx (fun j x _ => if mask.testBit j then x else 0)

/-- The vector registers that a mask carries. -/
def carriedCount (mask : Nat) : Nat := popCount 32 mask

/-- The words of the register files that a slot carries. -/
def Carry.words (k : Machine.Carry) : List Nat :=
  ((List.range 64).filter (fun n => k.x.toNat.testBit n)) ++
    ((List.range 32).filter (fun n => k.v.toNat.testBit n)).flatMap (fun n => vecWords (BitVec.ofNat 5 n)) ++
    (if k.p = 0 then [] else [576])

/-- The context at the start of a firing (R42). -/
def Ctx.start (c : Ctx) (v : Slot) (marker : Option Buf) (now : Nat) : Ctx :=
  { c with
    regOnce := c.regOnce.filter slotOwned, x := keepRegs v.carried.1 v.carry.x.toNat, v := keepRegs v.carried.2.1 v.carry.v.toNat,
    p := v.carried.2.2 &&& v.carry.p, rs := [],
    cr := { c.cr with lc := 0, ec := 0, vrb := 0, mf := marker.isSome, eosf := (marker.map (·.kind)) = some 2, det := v.det,
                      rnd := match marker with
                        | some b => if b.kind = 3 then b.round else c.cr.rnd
                        | none => c.cr.rnd },
    tags := Tags.reset, pc := v.entry, firing := c.firing + 1, budget := v.budget, flights := [], xfm := [], vlanded := [],
    vecq := [], vecFree := 0, matq := [], issued := 0, late := false, waited := [], req := none, sync := none,
    notBefore := now + 2 + carriedCount v.carry.v.toNat, holding := false, after := [], mu := false }

/-- What the stages of a core carry, those of the active configuration: a stage that is LOADED for the next one holds zeros until it is
activated (R42, R44). -/
def State.carries (s : State) (l : List SlotId) : List Carry :=
  (l.filter (fun i => (s.slot i).sst ≠ .empty && (s.slot i).sst ≠ .loaded)).map (fun i => (s.slot i).carry)

/-- The tiles and accumulators that no stage of the core carries read as zero until the firing writes them (R42, R44). -/
def State.clearMatrix (s : State) (c : CoreId) : State :=
  let carry := s.carries (slotsOf c)
  s.modCore c (fun k => { k with
    tiles := k.tiles.mapFinIdx (fun j t _ =>
      if carry.any (fun m => m.t.getLsbD j) then t else { bytes := 0, scale := 0, fmt := 0 }),
    accs := k.accs.mapFinIdx (fun j a _ => if carry.any (fun m => m.acc.getLsbD j) then a else { bytes := 0, type := 0 }) })

/-- A firing starts (R42, R45, R53). -/
def State.startFiring (s : State) (i : SlotId) : State :=
  let v := s.slot i
  let marker := if v.dataReady then none else v.markerReady
  let s := s.modCtx (.stage i) (fun c => c.start v marker s.cycle)
  let s := (s.clearMatrix i.core).modCore i.core (fun k => { k with running := some i.slot })
  s.setSlot i { v with fst := .running, sentRound := false, trap := none, ending := none,
                       outs := v.outs.map (fun o => (o.1, { o.2 with sentRound := false, sentEos := false })) }

/-- `FIRING_START` (R59): where the core is free and chooses a READY stage; else the event does nothing. -/
def execFiringStart (c : CoreId) (s : State) : Out :=
  match s.nextFiring c with
  | some i => if (s.slot i).fst = .ready then .next (s.startFiring i) else .next s
  | none => .next s

/-- `BUNDLE_WAIT_ENDS` (R65): the bundle issues in the next cycle. -/
def execBundleWaitEnds (a : Agent) (s : State) : Out :=
  if (s.ctx a).holding then
    let s := s.modCtx a (fun c => { c with holding := false, notBefore := max c.notBefore (s.cycle + 1) })
    .next (match a with
      | .stage i => s.modSlot i (fun v => { v with fst := if v.fst = .waiting then .running else v.fst })
      | .sup _ => s)
  else .next s

/-- `BUDGET_EXHAUSTED` (R60): a cycle must be charged while the budget is 0. -/
def execBudgetExhausted (i : SlotId) (s : State) : Out :=
  let v := s.slot i
  let c := s.ctx (.stage i)
  if (v.fst = .running ∨ v.fst = .waiting) ∧ v.ending = none ∧ c.budget = 0 then
    .next (s.trapBefore (.stage i) 0x08 (toWord (bit (v.fst = .waiting))))
  else .next s

/-! ## Checkpoints (R432, R433) -/

/-- Whether a slot has a checkpoint entry: state class `none` or `mirror`, and a carried register. -/
def Slot.hasEntry (v : Slot) : Bool := v.stateClass < 2 && (v.carry.x ≠ 0 || v.carry.v ≠ 0 || v.carry.p ≠ 0)

/-- The items of a section. -/
def CfgRec.sec (r : CfgRec) (type : Nat) : List (List Nat) := (r.items.filter (·.1 = type)).map (·.2)

/-- A field of an item. -/
def fieldAt (f : List Nat) (k : Nat) : Nat := f.getD k 0

/-- The slot that three consecutive fields of an item name on a die. -/
def slotAt (d : DieId) (f : List Nat) (k : Nat) : SlotId :=
  { core := { die := d, clu := fieldAt f k, core := fieldAt f (k + 1) }, slot := fieldAt f (k + 2) }

/-- The state class of a slot item, and what it carries, for status 12. -/
def entryItem (f : List Nat) : Bool := fieldAt f 5 < 2 && (fieldAt f 10 ≠ 0 || fieldAt f 11 ≠ 0 || fieldAt f 12 ≠ 0)

/-- The number of a slot's checkpoint entry: its place among the slots of its die's configuration that have one (log 39). -/
def CfgRec.entryNo (r : CfgRec) (d : DieId) (i : SlotId) : Nat :=
  ((r.sec 1).filter (fun f => entryItem f && SlotId.order (slotAt d f 0) < SlotId.order i)).length
@[inherit_doc CfgRec.entryNo] def State.entryNo (s : State) (i : SlotId) : Nat := (s.die i.core.die).activeRec.entryNo i.core.die i

/-- The position of the hall's spare, where the hall has one (R412 `ROLE` 1). -/
def State.spareOf (s : State) (pos : Nat) : Option Nat :=
  ((List.range 32).map (fun j => pos / 32 * 32 + j)).find? (fun q => wbits (s.pkg q).fabid 34 2 = 1)

/-- The address of a checkpoint entry on the spare (R432). -/
def entryAddr (idx e : Nat) : Nat := 0xE000000 + (32 * idx + e) * 16384

/-- Bytes padded with zeros to a length. -/
def padTo (n : Nat) (bs : List Byte) : List Byte := bs ++ List.replicate (n - bs.length) 0

/-- A slot's checkpoint (R433): an input port's `NEXTSEQ` is one past the highest number that its credits cover (R442). -/
def checkpointImage (c : Ctx) (v : Slot) : List Byte :=
  let seqs := (List.range 8).flatMap (fun n => (List.range 8).flatMap (fun k =>
    leBytes 4 (((tfind v.ins n).bind (fun q => (q.chans[k]?).map (fun ch => ((ch.freed.map (· + 1)).getD 0).toNat))).getD 0)))
  let outs := (List.range 8).flatMap (fun n => match tfind v.outs n with
    | some o => leBytes 4 o.nextSeq.toNat ++ leBytes 4 o.credits
    | none => leBytes 8 0)
  let retained := (List.range 8).flatMap (fun n => match tfind v.outs n with
    | some o => o.retained
    | none => [])
  padTo 0x80 ([c.stageId.toNat, c.firing.toNat, c.cr.round.toNat, c.cr.fstat.toNat, c.cr.xstat.toNat, c.cr.mode.toNat,
    c.cr.seed.toNat, c.cr.ctrbase.toNat, bit c.cur].flatMap (leBytes 8)) ++
  seqs ++ padTo 0x80 outs ++ (v.carried.1.toList.flatMap (fun w => leBytes 8 w.toNat)) ++
  padTo 0x100 (leBytes 8 v.carried.2.2.toNat) ++
  (c.td.toList.flatMap (fun d => d.toList.flatMap (fun w => leBytes 8 w.toNat))) ++
  leBytes 512 c.bank0.toNat ++ leBytes 512 c.bank1.toNat ++ v.carried.2.1.toList.flatMap vecBytes ++
  leBytes 8 retained.length ++ retained.flatMap (fun k => k.header ++ k.payload)

/-- The credit messages of a firing that ends: at once, or once the slot's checkpoint is written (R433). Where the retained
packets pass the entry's end nothing is written, and the slot is of class `host` from then on. -/
def State.releaseCredits (s : State) (i : SlotId) (cs : List (Chan × BitVec 32)) : State :=
  let v := s.slot i
  match if v.hasEntry then s.spareOf i.core.die.pkg else none with
  | none => s.sendCredits i cs
  | some spare =>
    let image := checkpointImage (s.ctx (.stage i)) v
    if image.length > 16384 then
      let s := s.modPkg spare (fun p => { p with mig := { p.mig with overflow := p.mig.overflow ++ [(i, v.cfgNum)] } })
      ((s.modSlot i (fun v => { v with stateClass := 2 })).dieEvent i.core.die 0x4B 0 (some i) 1 0).sendCredits i cs
    else
      let out : CkptOut :=
        { spare := spare, addr := entryAddr (i.core.die.pkg % 32) (s.entryNo i), image := image, credits := cs }
      (s.modSlot i (fun v => { v with ckpts := v.ckpts ++ [out] })).sendFlit i.core.die
        { pkg := spare, die := i.core.die.die } 30 priLate (.checkpointWriteDone i)

/-- `CHECKPOINT_WRITE_DONE` (R433). -/
def execCheckpointWriteDone (i : SlotId) (s : State) : Out :=
  match (s.slot i).ckpts with
  | [] => .fault .noSuchItem
  | k :: r =>
    let s := s.modSlot i (fun v => { v with ckpts := r })
    let s := s.modPkg k.spare (fun p => { p with mig := { p.mig with overflow := p.mig.overflow.filter (·.1 ≠ i) } })
    .next ((s.putPieces { pkg := k.spare, die := i.core.die.die } k.addr [(0, k.image)]).sendCredits i k.credits)

/-! ## The end of a firing (R76) -/

/-- Whether engine work of an agent is still under way. -/
def State.engineBusy (s : State) (a : Agent) : Bool :=
  let d := s.die (dieOf a)
  d.engine.any (fun q => q.own = a && q.live) || d.fills.any (fun f => f.own = a && !f.landed) || d.chunkReqs.any (fun q => q.own = a)

/-- Whether every result scheduled by the firing has landed (R76 step 1, R85 rule 5). A local store on its way to its banks goes on, as the
other stores do (DESIGN CHOICE, log 96). -/
def State.quiet (s : State) (i : SlotId) : Bool :=
  let c := s.ctx (.stage i)
  let v := s.slot i
  c.flights = [] && c.xfm = [] && c.vecq = [] && c.matq = [] && v.drains = [] && v.emissions = [] &&
  !(s.core i.core).mats.any (fun r => r.slot = i) && !s.reqs.any (fun q => q.own = .stage i && q.dest ≠ .none) &&
  !s.engineBusy (.stage i)

/-- The kind of marker that the ending firing forwards (R57). -/
def Ctx.markerKind (c : Ctx) : Option Nat := if c.cr.mf then some (if c.cr.eosf then 2 else 3) else none

/-- Whether a port has still to send the marker of a kind. -/
def OutPort.owes (o : OutPort) (kind : Nat) : Bool := if kind = 2 then !o.sentEos else !o.sentRound

/-- The automatic markers of a marker firing, on every port that holds a credit (R57). -/
def State.sendOwed (s : State) (i : SlotId) : State :=
  match (s.ctx (.stage i)).markerKind with
  | none => s
  | some kind => (s.slot i).outPorts.foldl (fun s n => match tfind (s.slot i).outs n with
      | some o => if o.owes kind && 1 ≤ o.credits then
          let s := s.sendMarker i n kind
          if kind = 3 then s.modSlot i (fun v => { v with sentRound := true }) else s
        else s
      | none => s) s

/-- Whether every automatic marker has been sent. -/
def State.owesNone (s : State) (i : SlotId) : Bool :=
  match (s.ctx (.stage i)).markerKind with
  | none => true
  | some kind => (s.slot i).outs.all (fun o => !o.2.owes kind)

/-- Causes left over at the end of a firing are reported as die events (R222, R321, R423). -/
def State.reportLate (s : State) (i : SlotId) (t : Nat × Word) : State :=
  if t.1 = 0x0B then s.dieEvent i.core.die 0x16 (wbits t.2 61 3) (some i) 0 (wbits t.2 0 28)
  else if t.1 = 0x05 ∨ t.1 = 0x07 then s.dieEvent i.core.die 0x47 0 (some i) (wbits t.2 60 4) (wbits t.2 0 28)
  else s.dieEvent i.core.die 0x20 0 (some i) (wbits t.2 48 8) (wbits t.2 0 16)

/-- A firing is gone: its core is free, its trap leaves the queues, and what its engines delivered is forgotten. -/
def State.dropFiring (s : State) (i : SlotId) : State :=
  let s := s.modDie i.core.die (fun d => { d with fills := d.fills.filter (fun f => !(f.own = .stage i && f.landed)) })
  let s := s.modCore i.core (fun k => { k with running := if k.running = some i.slot then none else k.running })
  let s := (List.range 4).foldl (fun s k => s.modSup { die := i.core.die, k := k } (fun u =>
    { u with traps := u.traps.filter (· ≠ i) })) s
  s.modSlot i (fun v => { v with fst := .none, trap := none, ending := none, parkPending := false, capture := none })

/-- What the firing had in flight is discarded, but for stores, for syllables that the matrix unit has begun, and for
requests that the engines have taken (R62). A bank that a discarded `MM.W` refers to stays referred to (DESIGN CHOICE, log 86). -/
def State.dropWork (s : State) (i : SlotId) : State :=
  let a : Agent := .stage i
  let s := s.modCtx a (fun c => { c with flights := [], xfm := [], vecq := [], matq := [], req := none, sync := none,
                                          holding := false, after := [], waited := [] })
  let s := s.modSlot i (fun v => { v with drains := v.drains.filter (fun e => e.port.isNone) })
  let s := s.modDie i.core.die (fun d => { d with fills := d.fills.filter (fun f => f.own ≠ a || (f.landed && f.last.isSome)),
                                                  engine := (d.engine.filter (fun q => q.own ≠ a || q.sent.isSome)).map (fun q =>
                                                    if q.own = a then { q with live := false } else q),
                                                  mirrorOut := d.mirrorOut.filter (fun m =>
                                                    m.own ≠ a || d.engine.any (fun q => q.id = m.id)),
                                                  chunkReqs := d.chunkReqs.filter (fun q => q.own ≠ a) })
  { s with reqs := (s.reqs.filter (fun q => q.own ≠ a || q.op ≠ .load)).map (fun q =>
      if q.own = a then { q with dest := .none } else q) }

/-- The end of a firing takes effect (R76 steps 3, 4 and 5): the packets it took are freed and credited, and in a marker
firing the head markers; the carried registers are stored, but by a killed firing; `RND` advances, after a killed data firing
that sent a ROUND marker too (DESIGN CHOICE, log 60). -/
def State.closeFiring (s : State) (i : SlotId) (kill : Bool) : State :=
  let a : Agent := .stage i
  let marker := (s.ctx a).cr.mf
  let heads := (s.slot i).ins.filterMap (fun q => if marker then (q.2.head.map (fun b => (b.chan, b.seq, b.addr))) else none)
  let r := s.freeBufs i (fun b => b.taken || (b.chan, b.seq, b.addr) ∈ heads)
  let c := r.1.ctx a
  let s := if kill then r.1 else (r.1.meetRegs a (r.1.slot i).carry.words).modSlot i (fun v => { v with carried :=
    (keepRegs c.x v.carry.x.toNat, keepRegs c.v v.carry.v.toNat, c.p &&& v.carry.p) })
  let s := if (s.slot i).sentRound then s.modCtx a (fun c => c.modCr (fun k => { k with rnd := k.rnd + 1 })) else s
  s.releaseCredits i r.2

/-- The sink's EOS marker firing has ended (R58, R354). -/
def State.sinkDone (s : State) (i : SlotId) : State :=
  if (s.slot i).outs = [] ∧ (s.ctx (.stage i)).markerKind = some 2 then
    (s.dieEvent i.core.die 0x32 0 (some i) ((s.slot i).cfgNum.toNat % 2 ^ 12) 0).modDie i.core.die (fun d =>
      { d with sinkPending := true })
  else s

/-- The firing state after the end (R55, R65). -/
def Slot.isDone (v : Slot) : Bool := v.ins = [] && v.outs ≠ [] && v.outs.all (fun o => o.2.sentEos)

/-- The last step of `END` (R76 step 6), and of a kill (R62): what it left is reported, and the slot is NONE or DONE. A killed EOS marker
firing of a sink reports completion as one that ends does (R58; DESIGN CHOICE, log 95). -/
def State.finishFiring (s : State) (i : SlotId) : State :=
  let a : Agent := .stage i
  let c := s.ctx a
  let late : List (Nat × Word) := c.after ++ c.tags.fail.map (fun f => (0x11, f.value))
  let s := late.foldl (fun (s : State) t => s.reportLate i t) s
  let s := s.sinkDone i
  let done := (s.slot i).isDone
  let s := s.modDie i.core.die (fun d =>
    let mine := d.fills.filter (fun f => f.own = a && f.landed)
    { d with fills := d.fills.filter (fun f => !(f.own = a && f.landed)),
             queries := d.queries.mapFinIdx (fun j q _ =>
               if mine.any (fun f => f.last = some j) then { q with owner := none } else q) })
  let s := s.modCtx a (fun c => { c with after := [], tags := { c.tags with fail := [] } })
  let s := s.dropFiring i
  let s := if done then s.modSlot i (fun v => { v with fst := .done }) else s
  (s.settleFaults i).checkBarrier (cluOf i.core)

/-- The firing state of an `END` (R65): WAITING while earlier results or markers hold it, RUNNING while the carried registers are
transferred. -/
def State.endState (s : State) (i : SlotId) (f : FiringState) : State := s.modSlot i (fun v => { v with fst := f })

/-- `END_COMPLETION` (R45, R65, R76, R222): once the earlier results have landed, the markers are sent as credits allow; then the
credits, the carried registers and `RND`; and the firing ends one cycle for each carried vector register later. -/
def execEndCompletion (i : SlotId) (s : State) : Out :=
  match (s.slot i).ending with
  | none => .fault .noSuchItem
  | some e =>
    if e.markersSent then
      if (s.ctx (.stage i)).notBefore ≤ s.cycle then .next (s.finishFiring i) else .next s
    else if !e.kill && !s.quiet i then .next (s.endState i .waiting)
    else
      let s := s.sendOwed i
      if !s.owesNone i then .next (s.endState i .waiting)
      else
        let s := s.closeFiring i e.kill
        let wait := if e.kill then 0 else carriedCount (s.slot i).carry.v.toNat
        if wait = 0 then .next (s.finishFiring i)
        else .next (((s.modSlot i (fun v => { v with ending := some { e with markersSent := true } })).endState i .running).modCtx
          (.stage i) (fun c => { c with notBefore := s.cycle + wait }))

/-! ## Kills (R61, R62, R345) -/

/-- A firing is killed (R62): its work in flight is discarded and it ends, forwarding a marker firing's markers. Until then it shows
WAITING (DESIGN CHOICE, log 61). -/
def State.killFiring (s : State) (i : SlotId) : State :=
  let v := s.slot i
  if v.fst = .none ∨ v.fst = .ready ∨ v.fst = .done then s
  else
    let s := (s.landAll (.stage i)).flushStores (.stage i)
    let s := s.dropWork i
    let s := s.modSlot i (fun v => { v with fst := .waiting, trap := none, parkPending := false, capture := none, barrierWait := false,
                                            ending := some { began := s.cycle, markersSent := false, kill := true } })
    (List.range 4).foldl (fun s k => s.modSup { die := i.core.die, k := k } (fun u =>
      { u with traps := u.traps.filter (· ≠ i) })) s

/-- A stage is killed (R61): its firing is gone, the packets in its rings are discarded and credited, and its slot is
EMPTY. -/
def State.killStage (s : State) (i : SlotId) : State :=
  let v := s.slot i
  if v.sst = .empty then s
  else
    let s := if v.fst = .none ∨ v.fst = .ready ∨ v.fst = .done then s else (s.dropWork i).dropFiring i
    let held := (s.slot i).ins.flatMap (fun q => q.2.held.map (fun b => (q.2, b)))
    let r := s.freeBufs i (fun _ => true)
    let s := r.1.sendCredits i r.2
    let s := held.foldl (fun s h => match h.1.chans[h.2.chan]? with
      | some ch => s.sendCredit i ch h.2.seq
      | none => s) s
    let s := s.modSlot i (fun v => { v with
      sst := .empty, fst := .none, capture := none, killed := true, events := [], drains := [], draining := false,
      ins := v.ins.map (fun q => (q.1, { q.2 with held := [] })) })
    s.leaveActive i

/-- Whether a command to a slot has to wait for its firing (R66, R347). -/
def Slot.commandWaits (v : Slot) : Bool := v.fst = .running || v.fst = .waiting || v.parkPending

/-- A command of `SLOTCTL` takes effect (R345). A stage whose event is cleared arrives next at the barrier's present generation, where it
has counted as arrived at those before (DEDUCED, log 41). -/
def State.slotCommand (s : State) (i : SlotId) (cmd : Nat) : State :=
  let v := s.slot i
  match cmd with
  | 1 =>
    let g := (s.clu (cluOf i.core)).barrierG
    if v.sst = .faulted then s.setSlot i { v with
      sst := .active, events := [], barrierGen := if phaseBefore v.barrierGen g then g else v.barrierGen }
    else s
  | 2 => s.killStage i
  | 3 => if v.fst = .trapped ∨ v.fst = .parked then s.killFiring i else s
  | _ => s

/-- A command given: at once, or when the firing traps or ends (R66, R345); several take effect in the order given (DESIGN CHOICE,
log 62). -/
def State.giveCommand (s : State) (i : SlotId) (cmd : Nat) : State :=
  if (s.slot i).commandWaits then s.modSlot i (fun v => { v with commands := v.commands ++ [cmd] }) else s.slotCommand i cmd

/-- The commands of a slot that waited take effect in the order given, as far as its firing allows. -/
def State.runSlotCommands (s : State) (i : SlotId) : Nat → State
  | 0 => s
  | fuel + 1 =>
    match (s.slot i).commands with
    | [] => s
    | cmd :: rest =>
      if (s.slot i).commandWaits then s
      else ((s.modSlot i (fun v => { v with commands := rest })).slotCommand i cmd).runSlotCommands i fuel

/-- Commands that waited take effect. -/
def State.runCommands (s : State) : State :=
  s.slots.foldl (fun s e => if e.2.commands = [] then s else s.runSlotCommands e.1 e.2.commands.length) s

/-- `SLOTCTL_CLEAR_EVENT` (R345). -/
def execSlotctlClearEvent (i : SlotId) (s : State) : Out := .next (s.giveCommand i 1)
/-- `SLOTCTL_KILL_STAGE` (R345). -/
def execSlotctlKillStage (i : SlotId) (s : State) : Out := .next (s.giveCommand i 2)
/-- `SLOTCTL_KILL_FIRING` (R345): ignored while the firing neither is TRAPPED nor PARKED nor will be. -/
def execSlotctlKillFiring (i : SlotId) (s : State) : Out := .next (s.giveCommand i 3)

/-! ## Resuming (R224, R228) -/

/-- A word of the save area. -/
def State.saveWord (s : State) (i : SlotId) (off : Nat) : Nat :=
  memNat (s.die i.core.die).gallery ((s.slot i).saveAddr + off) 8

/-- The vector registers that an engine fill wrote while the firing was suspended, or will still write (R228). -/
def State.filledRegs (s : State) (i : SlotId) : List (BitVec 5) :=
  let c := s.ctx (.stage i)
  c.tags.filled ++ ((List.range 8).filterMap (fun j =>
    if c.tags.bound.getLsbD j && !c.tags.ready.getLsbD (8 + j) then c.tags.vreg.toList[j]? else none))

/-- The control registers with the edited header fields (R224). -/
def CtlRegs.reload (r : CtlRegs) (w : Nat → Nat) : CtlRegs :=
  let put := fun (r : CtlRegs) (e : Nat × Nat) => r.write true e.2 (toWord (w (0x18 + 8 * e.1)))
  [(0, 4), (1, 5), (2, 6), (3, 7), (4, 8), (5, 9), (6, 10), (7, 11), (8, 14)].foldl put r

/-- The address that a firing resumes at (R120, R224): `PC` of the save area, but the exact target while `OOW` stands and `PC` has
not been edited. After a park `OOW` is the save area's, and the target of a fetch that failed is `VALUE`. -/
def State.resumePc (s : State) (i : SlotId) : Int :=
  let w := s.saveWord i 0
  let exact := (s.ctx (.stage i)).pc
  match (s.slot i).trap with
  | none => ((w % 2 ^ 17 : Nat) : Int)
  | some t =>
    let oow := if t.parked then bitsAt w 36 1 = 1 else t.oow
    if !oow || s.pcEdited i then ((w % 2 ^ 17 : Nat) : Int)
    else if t.parked && bitsAt w 24 8 = 0x03 then signedOf 64 (s.saveWord i 0x08)
    else exact

/-- The parts of the save area that every resume reads, and those that a resume after a park reads too (R223). -/
def State.meetSaved (s : State) (i : SlotId) (parts : List (Nat × Nat)) : State :=
  parts.foldl (fun s p => s.readSaved i ((s.slot i).saveAddr + p.1) p.2) s

/-- What every resume reloads: the edited header fields, the scalar, vector and predicate registers (R223, R224, R228). -/
def State.reload (s : State) (i : SlotId) : State :=
  let s := s.meetSaved i [(0x0000, 0x300), (0x1000, 0x1000)]
  let w := s.saveWord i
  let keep := s.filledRegs i
  let pc := s.resumePc i
  s.modCtx (.stage i) (fun c => { c with
    pc := pc,
    budget := BitVec.ofNat 24 (w 0x10),
    cr := c.cr.reload w, regOnce := c.regOnce.filter (fun n => slotOwned n || n ∈ keep.flatMap vecWords),
    p := BitVec.ofNat 16 (w 0x68),
    rs := (List.range (min 8 (w 0x70 % 16))).map (fun k => BitVec.ofNat 17 (w (0x80 + 8 * k))),
    x := c.x.mapFinIdx (fun k _ _ => if k = 0 then 0 else toWord (w (0x100 + 8 * k))),
    v := c.v.mapFinIdx (fun k old _ => if BitVec.ofNat 5 k ∈ keep then old
      else bytesVec (memRead (s.die i.core.die).gallery ((s.slot i).saveAddr + 0x1000 + 128 * k) 128)),
    tags := { c.tags with filled := [] } })

/-- The firing runs on from the address it resumes at. -/
def State.resume (s : State) (i : SlotId) : State :=
  (s.modSlot i (fun v => { v with fst := .running, trap := none })).modCtx (.stage i) (fun c =>
    { c with notBefore := s.cycle + 1, holding := false, sync := none })

/-! ## Parking (R227) -/

/-- Whether a park can complete: no store is outstanding, but for an `MM.AR` that stays in its queue (R219, R227; log 76). -/
def State.parkReady (s : State) (i : SlotId) : Bool :=
  (s.slot i).drains = [] && !(s.core i.core).mats.any (fun r => r.slot = i) && !s.engineBusy (.stage i) &&
  s.cnts (.stage i) = s.arQueue (.stage i) s.uid && s.saveSnooped i = []

/-- The matrix registers as the save area holds them (R223): a tag byte is the format code and one, 0 where there is none (DESIGN CHOICE,
log 85). -/
def matrixImage (k : Core) : List (Nat × List Byte) :=
  [(0x2000, k.tiles.toList.flatMap (fun t => leBytes 4096 t.bytes.toNat)),
   (0xA000, k.tiles.toList.flatMap (fun t => leBytes 256 t.scale.toNat)),
   (0xA800, (k.tiles.toList.map (·.fmt)) ++ (k.accs.toList.map (·.type))),
   (0xB000, k.accs.toList.flatMap (fun a => leBytes 4096 a.bytes.toNat))]

/-- The words of every tile, scale row and accumulator (log 47). -/
def matrixWords : List Nat := words8 0 0xD000

/-- The park completes: the decode banks and, with `MU`, the matrix registers are written, `PARKED` is set, and the core is
free. Matrix registers and a header word with an error are read with what R367 says of it, and such a word of the header stays as
it is (log 74). -/
def State.park (s : State) (i : SlotId) : State :=
  let s := if (s.ctx (.stage i)).mu then (s.meetMat i matrixWords).1 else s
  let c := s.ctx (.stage i)
  let v := s.slot i
  match v.trap with
  | none => s
  | some t =>
    let t := { t with parked := true, resumable := !t.waiting }
    let lost := v.saveAddr ∈ (s.die i.core.die).bad
    let s := s.readSaved i v.saveAddr 8
    let pieces := (if lost then [] else [(0, leBytes 8 (putBits (s.saveWord i 0) 32 1 1))]) ++ [(0x60, leBytes 8 c.tags.word.toNat),
        (0x900, leBytes 512 c.bank0.toNat ++ leBytes 512 c.bank1.toNat)]
      ++ c.tags.filled.map (fun r => (0x1000 + 128 * r.toNat, vecBytes (c.rv r)))
      ++ if c.mu then matrixImage (s.core i.core) else []
    let s := s.putPieces i.core.die v.saveAddr pieces
    let s := s.modCore i.core (fun k => { k with running := none })
    let s := s.modCtx (.stage i) (fun c => { c with tags := { c.tags with filled := [] } })
    s.setSlot i { v with fst := .parked, trap := some t, parkPending := false, stamp := s.cycle }

/-- `PARK_COMPLETE` (R227): once the conditions hold; until then the event does nothing. -/
def execParkComplete (i : SlotId) (s : State) : Out :=
  if (s.slot i).parkPending && s.parkReady i then .next (s.park i) else .next s

/-- The pending-write list read back from the save area (R225). -/
def State.savedXfm (s : State) (i : SlotId) : List XfmRes :=
  (List.range 8).filterMap (fun k =>
    let w := s.saveWord i (0x300 + 160 * k)
    let rem := w % 16
    if bitsAt w 4 1 = 0 ∨ rem = 0 ∨ rem > 8 then none
    else some { id := s.uid + k, rem := rem,
                target := if bitsAt w 10 1 = 1 then .bank (bitsAt w 11 1 = 1) (BitVec.ofNat 2 (bitsAt w 12 2)) (bitsAt w 14 1 = 1)
                  else .v (BitVec.ofNat 5 (bitsAt w 5 5)),
                value := bytesVec (memRead (s.die i.core.die).gallery ((s.slot i).saveAddr + 0x300 + 160 * k + 16) 128),
                flags := BitVec.ofNat 6 (bitsAt w 16 6) })

/-- The EXT words of a queue entry as R13 takes them (R30, R226): each of class 6, none behind a missing one; none where the check
fails. -/
def savedExts (e0 e1 : Nat) : Option (List Nat) :=
  if e0 = 0 then (if e1 = 0 then some [] else none)
  else if bitsAt e0 28 3 ≠ 6 then none
  else if e1 = 0 then some [e0]
  else if bitsAt e1 28 3 ≠ 6 then none
  else some [e0, e1]

/-- What a queue read back finds before an entry: the descriptors, the format tags of the tiles and the type tags of the accumulators as
the entries before it leave them, and the tiles that those entries fill (R184, R202). -/
structure Queued where
  td : Vector Desc 32
  tile : Vector (BitVec 8) 8
  acc : Vector (BitVec 8) 4
  fills : List (BitVec 3)

/-- The tags after an entry (R194, R195, R196, R201). -/
def Queued.after (q : Queued) (h : Held) : Queued :=
  let d : Desc := q.td[(BitVec.ofNat 5 (bitsAt h.word.toNat 8 5)).toNat]
  match h.instr with
  | .mm _ a _ _ _ _ _ => { q with acc := q.acc.set a.toNat (BitVec.ofNat 8 ((famOf d.elemFmt).getD (1, 1, 0)).2.2) }
  | .mmZ _ a => { q with acc := q.acc.set a.toNat 0 }
  | .mmAw _ a _ => { q with acc := q.acc.set a.toNat (BitVec.ofNat 8 (awType d.fmt)) }
  | .mmW _ t _ _ => { q with tile := q.tile.set t.toNat (BitVec.ofNat 8 (d.tileFmt + 1)), fills := t :: q.fills }
  | _ => { q with td := h.onTd q.td }

/-- Whether the operand types of a queued instruction are admitted (R13, R202, R226). -/
def Queued.ok (q : Queued) (h : Held) : Bool :=
  let d : Desc := q.td[(BitVec.ofNat 5 (bitsAt h.word.toNat 8 5)).toNat]
  match h.instr with
  | .mm _ a t _ c sc n => mmOk d q.tile[t.toNat].toNat q.acc[a.toNat].toNat (n.toNat + 1) (c = 1) (sc = 1)
  | .mmDRoute _ _ _ _ | .mmDSteer _ _ _ _ => drainOk d
  | .mmW _ _ _ sc => mmwOk d (sc = 1)
  | .mmAr _ _ _ => accMemOk d arFmts
  | .mmAw _ _ _ => accMemOk d awFmts
  | .tdGet _ _ t _ => Desc.ok q.td[t.toNat]
  | j => match vecSemOf j with
    | some y => y.typeOk
    | none => true

/-- The tags that a queued syllable works with: those before it in the queue; and an `MM` waits for an `MM.W` into its tile that stands
before it (R197). -/
def Queued.tagged (q : Queued) (h : Held) : Held :=
  match h.instr with
  | .mm _ a t _ c _ _ => { h with
      tileTag := q.tile[t.toNat], accTag := if c = 1 then q.acc[a.toNat] else 0, tags := if t ∈ q.fills then [t.toNat] else [] }
  | .mmDRoute _ a _ _ | .mmDSteer _ a _ _ | .mmAr _ a _ => { h with accTag := q.acc[a.toNat] }
  | _ => h

/-- The tags before a queue: those that its first reader found at issue, and else the core's. -/
def State.queuedAt (s : State) (i : SlotId) (l : List Held) : Queued :=
  let k := s.core i.core
  { td := (s.ctx (.stage i)).td, fills := [],
    tile := k.tiles.mapFinIdx (fun j t _ => (l.findSome? (fun h => match h.instr with
      | .mm _ _ u _ _ _ _ => if u.toNat = j then some h.tileTag else none
      | _ => none)).getD t.fmt),
    acc := k.accs.mapFinIdx (fun j a _ => (l.findSome? (fun h => match h.instr with
      | .mm _ b _ _ c _ _ => if b.toNat = j ∧ c = 1 then some h.accTag else none
      | .mmDRoute _ b _ _ | .mmDSteer _ b _ _ | .mmAr _ b _ => if b.toNat = j then some h.accTag else none
      | _ => none)).getD a.type) }

/-- The scalar registers that a queued MAT syllable read at issue. -/
def matSource : Instr → List (BitVec 6)
  | .tdSet _ x _ _ | .tdStep _ x _ _ => opndReg x
  | .mmDSteer _ _ g _ => [steerReg g]
  | _ => []

/-- The scalar operand of a queued MAT syllable, with the registers as they stand (R198, R202, R203). -/
def matOperand (c : Ctx) : Instr → Word
  | .tdSet _ x _ _ => (match x with
    | .fld r => c.rx r
    | .ext1 _ | .ext2 _ _ => toWord (immUnsigned x))
  | .tdStep _ x _ _ => (match x with
    | .fld r => c.rx r
    | .ext1 _ | .ext2 _ _ => intWord (immSigned x))
  | .mmDRoute _ _ _ e => toWord e.toNat
  | .mmDSteer _ _ g _ => toWord ((c.rx (steerReg g)).toNat % 16)
  | _ => 0

/-- One queue entry read back and checked again (R226): the syllable that the slot held there, where the image is as it was saved; an
edited one is decoded again; the cause where the check fails. -/
def State.savedHeld (s : State) (i : SlotId) (q : Queued) (held : Option Held) (cls k : Nat) :
    Option (Held ⊕ (Nat × Word)) :=
  let at_ := (s.slot i).saveAddr + 0x800 + 16 * k
  let bs := memRead (s.die i.core.die).gallery at_ 16
  let w := leNat (bs.take 4)
  if bitsAt (leNat (bs.drop 12)) 0 1 = 0 then none
  else match held with
    | some h => if h.image cls = bs then some (judged w h) else some (recheck w bs (some h))
    | none => some (recheck w bs none)
where
  /-- An entry whose operand types are admitted, with the tags that it works with. -/
  judged (w : Nat) (h : Held) : Held ⊕ (Nat × Word) :=
    if q.ok h then .inl (q.tagged h) else .inr (0x02, toWord (w + (8 + k) * 2 ^ 32))
  /-- An edited entry (R13, R226): legal and of its class. It keeps the scalar operand that the syllable took at issue where it names the
  same register, and has that of its own words else (log 32). -/
  recheck (w : Nat) (bs : List Byte) (held : Option Held) : Held ⊕ (Nat × Word) :=
    let value := toWord (w + (8 + k) * 2 ^ 32)
    match savedExts (leNat ((bs.drop 4).take 4)) (leNat ((bs.drop 8).take 4)) with
    | none => .inr (0x01, value)
    | some exts =>
      match decodeSyl (w % 2 ^ 31) (exts.map (fun e => bitsAt e 0 28)) with
      | none => .inr (0x01, value)
      | some j =>
        if bitsAt w 28 3 ≠ (if k < 8 then 3 else 4) then .inr (0x01, value)
        else
          let c := s.ctx (.stage i)
          let base : Held := held.getD {
            id := s.uid, instr := j, word := 0, exts := [], vrb := 0, seed := c.cr.seed, ctr := c.cr.ctrbase,
            cvrnd := c.cr.cvrnd, xval := 0, bundle := c.issued, bank := c.cur, tags := [], tileTag := 0, accTag := 0 }
          let same := held.any (fun g => matSource j ≠ [] && matSource j = matSource g.instr &&
            bitsAt g.word.toNat 22 6 = bitsAt w 22 6)
          let h : Held := { base with
            instr := j, word := BitVec.ofNat 32 w, exts := exts.map (BitVec.ofNat 32), vrb := 0, xs := [], vs := [],
            xval := if same then base.xval else matOperand c j }
          judged w { h with tags := c.pendingTags (h.vecRegs.vr ++ h.vecRegs.vw) }

/-- A queue read back: its syllables, the causes of the entries whose check fails, which are left out of the queue (R226;
DESIGN CHOICE, log 75), and what it leaves. Each entry is judged with what the entries before it leave. -/
def State.savedQueue (s : State) (i : SlotId) (l : List Held) (cls base n : Nat) : Queued × List Held × List (Nat × Word) :=
  (List.range n).foldl (fun (r : Queued × List Held × List (Nat × Word)) k =>
    match s.savedHeld i r.1 (l[k]?) cls (base + k) with
    | none => r
    | some (.inl h) => (if cls = 1 then r.1.after h else r.1, r.2.1 ++ [h], r.2.2)
    | some (.inr t) => (r.1, r.2.1, r.2.2 ++ [t])) (s.queuedAt i l, [], [])

/-- The tags of the matrix registers as the restored queue leaves them. -/
def State.putTags (s : State) (i : SlotId) (q : Queued) : State :=
  s.modCore i.core (fun k => { k with
    tiles := k.tiles.mapFinIdx (fun j t h => { t with fmt := q.tile[j] }),
    accs := k.accs.mapFinIdx (fun j a h => { a with type := q.acc[j] }) })

/-- The matrix registers read back, but for those that another stage of the core carries (R223): their errors go (R367). -/
def State.restoreMatrix (s : State) (i : SlotId) : State :=
  let s := s.meetSaved i [(0x2000, 0x880C), (0xB000, 0x4000)]
  let g := (s.die i.core.die).gallery
  let base := (s.slot i).saveAddr
  let others := s.carries ((slotsOf i.core).filter (· ≠ i))
  let written := (List.range 8).flatMap (fun j => if others.any (fun m => m.t.getLsbD j) then [] else tileWords j ++ scaleWords j) ++
    (List.range 4).flatMap (fun j => if others.any (fun m => m.acc.getLsbD j) then [] else accWords j)
  s.modCore i.core (fun k => { k.mendMat written with
    tiles := k.tiles.mapFinIdx (fun j t _ => if others.any (fun m => m.t.getLsbD j) then t else
      { bytes := BitVec.ofNat 32768 (leNat (memRead g (base + 0x2000 + 4096 * j) 4096)),
        scale := BitVec.ofNat 2048 (leNat (memRead g (base + 0xA000 + 256 * j) 256)), fmt := memByte g (base + 0xA800 + j) }),
    accs := k.accs.mapFinIdx (fun j a _ => if others.any (fun m => m.acc.getLsbD j) then a else
      { bytes := BitVec.ofNat 32768 (leNat (memRead g (base + 0xB000 + 4096 * j) 4096)),
        type := memByte g (base + 0xA808 + j) }) })

/-- The tag word read back (R83). -/
def Tags.ofWord (t : Tags) (w : Nat) : Tags :=
  { t with ready := BitVec.ofNat 16 w, bound := BitVec.ofNat 8 (w / 2 ^ 16),
           vreg := t.vreg.mapFinIdx (fun j _ _ => BitVec.ofNat 5 (bitsAt w (24 + 5 * j) 5)) }

/-- A parked firing is restored (R227): everything that the save area marks for reload after a park; its queues and pending
writes are entered again, the queues checked against the restored registers (R226). After a park with `MU` = 0, the tiles and accumulators
that nobody carries hold what was left in them (DESIGN CHOICE, log 104). -/
def State.restore (s : State) (i : SlotId) : State :=
  let c := s.ctx (.stage i)
  let s := (s.reload i).meetSaved i [(0x0300, 0xA00)]
  let mu := bitsAt (s.saveWord i 0) 33 1 = 1
  let lead := bitsAt (s.saveWord i 0x78) 16 3
  let round := s.saveWord i 0x50
  let s := if mu then s.restoreMatrix i else s
  let vq := s.savedQueue i c.vecq 0 0 8
  let mq := s.savedQueue i c.matq 1 8 4
  let xfm := s.savedXfm i
  let s := if mq.2.1 = [] then s else s.putTags i mq.1
  let s := s.modCtx (.stage i) (fun c => { c with
    cr := { c.cr with mf := bitsAt round 32 1 = 1, eosf := bitsAt round 33 1 = 1, det := bitsAt (s.saveWord i 0x58) 0 1 = 1 },
    xfm := xfm, vecq := vq.2.1, matq := mq.2.1, after := c.after ++ vq.2.2 ++ mq.2.2, mu := mu,
    cur := bitsAt (s.saveWord i 0xC0) 0 1 = 1,
    tags := mq.1.fills.foldl (fun t f => { t with ready := BitVec.ofNat 16 (putBits t.ready.toNat f.toNat 1 0) })
      (c.tags.ofWord (s.saveWord i 0x60)),
    bank0 := BitVec.ofNat 4096 (leNat (memRead (s.die i.core.die).gallery ((s.slot i).saveAddr + 0x900) 512)),
    bank1 := BitVec.ofNat 4096 (leNat (memRead (s.die i.core.die).gallery ((s.slot i).saveAddr + 0xB00) 512)) })
  let s := s.modCtx (.stage i) (fun c => { c with issued := (c.heldBundle.map (· + 1 + lead)).getD c.issued })
  let s := { s with uid := s.uid + 9 }
  ((s.modCore i.core (fun k => { k with running := some i.slot })).resume i).modCtx (.stage i)
    (fun c => { c with notBefore := s.cycle })

/-- `PARKED_FIRING_RESTORE` (R227): where the core is free and chooses a parked firing; else the event does nothing. -/
def execParkedFiringRestore (c : CoreId) (s : State) : Out :=
  match s.nextFiring c with
  | some i => if (s.slot i).fst = .parked then .next (s.restore i) else .next s
  | none => .next s

/-! ## The supervisor cores (R217, R342, R346–R348) -/

/-- The action of `RFT` on the trap that a supervisor core holds (R347); a slot whose firing is no longer TRAPPED is left
alone. -/
def State.applyAct (s : State) (act : Nat) (i : SlotId) : State :=
  if (s.slot i).fst ≠ .trapped then s
  else
    match act with
    | 0 => (s.reload i).resume i
    | 1 => s.modSlot i (fun v => { v with parkPending := true })
    | 2 => s.killFiring i
    | _ => s.killStage i

/-- `RFT` (R347): it completes in 8 cycles. -/
def execRft (p : BitVec 4) (s : State) : Out :=
  issue { ctlSyl p {} (fun s =>
      match s.cur with
      | .stage _ => s
      | .sup v =>
        let u := s.sup v
        let s := match u.held with
          | some i => s.applyAct u.act.toNat i
          | none => s
        ((s.modSup v (fun u => { u with trapc := 0, held := none })).modMe (fun c =>
          { c with notBefore := max c.notBefore (s.cycle + 8) }))) with
    priv := true,
    cause := fun s => match s.cur with
      | .stage _ => none
      | .sup v => if (s.sup v).trapc = 0 then some (0x02, s.sylValue) else none } s

/-- The supervisor cores whose queues a core serves: its own, then those of stopped peers (R348). -/
def State.served (s : State) (v : SupId) : List SupId :=
  v :: (s.sup v).serves.map (fun k => { v with k := k })

/-- A supervisor core takes a trap: its registers take that trap's values (R217), and `SVACT` becomes 0 (R346). -/
def State.takeTrap (s : State) (v q : SupId) (i : SlotId) : State :=
  let s := s.modSup q (fun u => { u with traps := u.traps.drop 1 })
  let w := s.slot i
  match w.trap with
  | none => s
  | some t => s.modSup v (fun u => { u with
      trapc := BitVec.ofNat 8 t.cause, trapa := BitVec.ofNat 17 t.addr, trapv := t.value, savebase := toWord w.saveAddr,
      slotstate := w.stateWord, codemap := (s.core i.core).mapped, held := some i, act := 0 })

/-- `HALT_WAKE` (R131, R342): the oldest trap is taken, and where there is none, an event; the core issues on. -/
def execHaltWake (v : SupId) (s : State) : Out :=
  if !(s.sup v).halted || (s.sup v).stop || !s.supPending v then .next s
  else
    let s := s.modSup v (fun u => { u with halted := false })
    match (s.served v).find? (fun q => (s.trapHead q).isSome) with
    | some q =>
      match s.trapHead q with
      | some i => .next (s.takeTrap v q i)
      | none => .next s
    | none => .next (s.modSup v (fun u => { u with trapc := 0, held := none }))

/-- `EVPOP_READ` (R342): the oldest record is removed and returned, or 0. -/
def execEvpopRead (reader : Option SupId) (v : SupId) (xd : Nat) (s : State) : Out :=
  let w := (s.sup v).events.headD 0
  let s := s.modSup v (fun u => { u with events := u.events.drop 1 })
  .next (match reader with
    | some r => s.modCtx (.sup r) (fun c => c.wx (BitVec.ofNat 6 xd) w)
    | none => s)

/-- `SVFAULT_RESTART` (R348): the core issues again at `PC`, and its queues are its own again. -/
def execSvfaultRestart (v : SupId) (s : State) : Out :=
  let s := (s.modSup v (fun u => { u with stop := false, halted := false })).modCtx (.sup v) (fun c =>
    { c with pc := ((s.sup v).faultPc.toNat : Int), after := [], waited := [], req := none, sync := none, holding := false,
             notBefore := s.cycle + 1 })
  .next ((List.range 4).foldl (fun s k => s.modSup { v with k := k } (fun u =>
    { u with serves := u.serves.filter (· ≠ v.k) })) s)

end Sys2Proof.Machine
end

