-- ==== Sys2Proof/Machine/Ecdsa.lean ====
section
/-! DEFINITION. ECDSA over brainpoolP384r1 (R1, R399, R401; the parameters of RFC 5639, log 13). -/

namespace Sys2Proof.Machine

/-- The curve y² = x³ + ax + b over the field of this prime. -/
def ecP : Nat := 0x8CB91E82A3386D280F5D6F7E50E641DF152F7109ED5456B412B1DA197FB71123ACD3A729901D1A71874700133107EC53
@[inherit_doc ecP] def ecA : Nat := 0x7BC382C63D8C150C3C72080ACE05AFA0C2BEA28E4FB22787139165EFBA91F90F8AA5814A503AD4EB04A8C7DD22CE2826
@[inherit_doc ecP] def ecB : Nat := 0x04A8C7DD22CE28268B39B55416F0447C2FB77DE107DCD2A62E880EA53EEB62D57CB4390295DBC9943AB78696FA504C11

/-- The order of the base point. -/
def ecQ : Nat := 0x8CB91E82A3386D280F5D6F7E50E641DF152F7109ED5456B31F166E6CAC0425A7CF3AB6AF6B7FC3103B883202E9046565

/-- The base point. -/
def ecG : Nat × Nat :=
  (0x1D1C64F068CF45FFA2A63A81B7C13F6B8847A3E77EF14FE3DB7FCAFE0CBD10E8E826E03436D646AAEF87B2E247D4AF1E,
   0x8ABE1D7520F9C2A45CB1EB8E95CFD55262B70B29FEEC5864E19C054FF99129280E4646217791811142820341263C5315)

/-- `x ^ e mod m`, with at least as much fuel as `e` has bits. -/
def powMod (m : Nat) : Nat → Nat → Nat → Nat
  | 0, _, _ => 1
  | n + 1, x, e =>
    let r := powMod m n (x * x % m) (e / 2)
    if e % 2 = 1 then r * x % m else r

/-- The inverse modulo a prime of 384 bits. -/
def invMod (m x : Nat) : Nat := powMod m 384 (x % m) (m - 2)

/-- A difference modulo the field's prime. -/
def subP (x y : Nat) : Nat := (x % ecP + ecP - y % ecP) % ecP

/-- The sum of two points; none is the point at infinity. -/
def ecAdd : Option (Nat × Nat) → Option (Nat × Nat) → Option (Nat × Nat)
  | none, b => b
  | some a, none => some a
  | some a, some b =>
    if a.1 = b.1 ∧ (a.2 + b.2) % ecP = 0 then none
    else
      let slope := if a.1 = b.1 then (3 * a.1 * a.1 + ecA) * invMod ecP (2 * a.2) % ecP
        else subP b.2 a.2 * invMod ecP (subP b.1 a.1) % ecP
      let x := subP (slope * slope) (a.1 + b.1)
      some (x, subP (slope * subP a.1 x) a.2)

/-- A multiple of a point, with at least as much fuel as the factor has bits. -/
def ecMul : Nat → Nat → Option (Nat × Nat) → Option (Nat × Nat)
  | 0, _, _ => none
  | n + 1, k, a =>
    let r := ecMul n (k / 2) (ecAdd a a)
    if k % 2 = 1 then ecAdd r a else r

/-- Whether a pair is a point of the curve. -/
def onCurve (a : Nat × Nat) : Bool :=
  a.1 < ecP && a.2 < ecP && a.2 * a.2 % ecP = (a.1 * a.1 * a.1 + ecA * a.1 + ecB) % ecP

/-- Whether `(r, t)` is the signature of the digest `h` under the public key `key`. -/
def ecVerify (key : Nat × Nat) (h r t : Nat) : Bool :=
  onCurve key && 0 < r && r < ecQ && 0 < t && t < ecQ &&
    let w := invMod ecQ t
    match ecAdd (ecMul 384 (h * w % ecQ) (some ecG)) (ecMul 384 (r * w % ecQ) (some key)) with
    | some a => a.1 % ecQ = r
    | none => false

/-- The signature of the digest `h` under the private key `d` with the secret number `k`. -/
def ecSign (d h k : Nat) : Nat × Nat :=
  let r := ((ecMul 384 k (some ecG)).getD (0, 0)).1 % ecQ
  (r, invMod ecQ k * (h + r * d) % ecQ)

end Sys2Proof.Machine
end

