-- ==== Sys2Proof/Machine/Sequencer.lean ====
section
/-! DEFINITION. The configuration sequencer (R349–R358): records, their checks, the switch, the drain, activation; and the
digest (R359–R361). -/

namespace Sys2Proof.Machine

/-! ## Records (R350) -/

/-- The widths of a section's item fields, in order; a slot location is its cluster, core and slot. -/
def itemWidths (type : Nat) : Option (List Nat) :=
  match type with
  | 1 => some [2, 7, 4, 1, 2, 2, 24, 24, 17, 16, 64, 32, 16, 8, 4, 32, 2, 64, 64]
  | 2 => some [2, 7, 4, 3, 4, 16, 13, 21]
  | 3 => some [14, 3, 2, 7, 4, 3, 14, 3, 2, 7, 4, 3, 3]
  | 4 => some [2, 7, 4, 4, 3, 1]
  | 5 => some [2, 7, 4, 5, 64, 64, 64, 64, 64, 64, 64, 64]
  | 6 => some [2, 7, 4, 7, 16, 8, 8, 8, 8]
  | 7 => some [2, 4, 64, 64, 64]
  | 8 => some [2, 4, 32, 7, 4, 2, 1]
  | 9 => some [2, 7, 64, 32]
  | 10 => some [9, 5, 16]
  | 11 => some [64]
  | 12 => some [14, 3]
  | 13 => some [8, 8]
  | _ => none

/-- Fields unpacked from word `w`, bit `lo` on (R350): the fields, the word after the item, and whether the bits between
them are zero. -/
def unpack (rd : Nat → Nat) : List Nat → Nat → Nat → List Nat × Nat × Bool
  | [], w, lo => ([], if lo = 0 then w else w + 1, lo = 0 || rd w / 2 ^ lo = 0)
  | k :: ks, w, lo =>
    if lo + k > 64 then
      let r := unpack rd ks (w + 1) k
      (bitsAt (rd (w + 1)) 0 k :: r.1, r.2.1, rd w / 2 ^ lo = 0 && r.2.2)
    else
      let r := unpack rd ks w (lo + k)
      (bitsAt (rd w) lo k :: r.1, r.2.1, r.2.2)

/-- The items of a section, each within the record's words. -/
def readItems (rd : Nat → Nat) (type : Nat) (widths : List Nat) (lim : Nat) : Nat → Nat → Option (List (Nat × List Nat) × Nat)
  | 0, w => some ([], w)
  | n + 1, w =>
    let r := unpack rd widths w 0
    if r.2.1 > lim ∨ !r.2.2 then none
    else match readItems rd type widths lim n r.2.1 with
      | some (l, w') => some ((type, r.1) :: l, w')
      | none => none

/-- The sections of a record: none where it is malformed (status 8). -/
def readSections (rd : Nat → Nat) (lim : Nat) : Nat → Nat → Option (List (Nat × List Nat))
  | 0, _ => some []
  | n + 1, w =>
    if w ≥ lim then none
    else
      let type := bitsAt (rd w) 0 8
      let count := bitsAt (rd w) 32 32
      match itemWidths type with
      | none => none
      | some widths =>
        if bitsAt (rd w) 8 24 ≠ 0 ∨ count > lim - w then none
        else match readItems rd type widths lim count (w + 1) with
          | none => none
          | some (l, w') => match readSections rd lim n w' with
            | some r => some (l ++ r)
            | none => none

/-- The bits of a word that a mask leaves out are zero. -/
def within (w mask : Nat) : Bool := w &&& mask = w

/-- Whether a register image in an item holds no reserved bit (R3, R352): a window's words (R239), an `SQRMT` image (R357). -/
def itemOk (e : Nat × List Nat) : Bool :=
  if e.1 = 7 then within (e.2.getD 2 0) 0x807F000FFFFFFF80 && within (e.2.getD 4 0) 0xFFFFFFFF
  else if e.1 = 11 then within (e.2.getD 0 0) 0xFFFFE000FFFFFFFF
  else true

/-- A record read at a gallery address: none where it is malformed. A reserved bit of a register image makes it so (R352): those of
`GWIN`, `SQPOOL` and `SQTPOOL` (R274, R302) and of `FTROOT` (R365). -/
def readRec (g : Mem) (addr : Nat) : Option CfgRec :=
  let rd := fun w => memNat g (addr + 8 * w) 8
  let len := bitsAt (rd 1) 0 32
  if rd 0 / 2 ^ 18 ≠ 0 ∨ rd 1 / 2 ^ 48 ≠ 0 ∨ rd 7 ≠ 0 ∨ len % 64 ≠ 0 ∨ len < 64 ∨ addr + len > 2 ^ 28 then none
  else if !([2, 3, 6].all (fun k => within (rd k) 0x1FFF00000FFF) && within (rd 4) 0xFFF8001) then none
  else match readSections rd (len / 8) (bitsAt (rd 1) 32 16) 8 with
    | none => none
    | some items => if !items.all itemOk then none else some {
        cfgn := BitVec.ofNat 16 (rd 0), det := (rd 0).testBit 16, auto := (rd 0).testBit 17, gwin := toWord (rd 2),
        sqpool := toWord (rd 3), ftroot := toWord (rd 4), expdig := toWord (rd 5), sqtpool := toWord (rd 6), items := items }

/-- `LEN` of the record at an address. -/
def recLen (g : Mem) (addr : Nat) : Nat := memNat g (addr + 8) 4

/-- The address of record `n` of the stair that begins at an address (R349): none where the stair ends before it. -/
def recAddr (g : Mem) (addr : Nat) : Nat → Option Nat
  | 0 => if recLen g addr = 0 then none else some addr
  | n + 1 => if recLen g addr = 0 then none else recAddr g (addr + recLen g addr) n

/-- The records whose headers are read on the way to record `n`. -/
def recHeads (g : Mem) (addr : Nat) : Nat → List Nat
  | 0 => [addr]
  | n + 1 => addr :: if recLen g addr = 0 then [] else recHeads g (addr + recLen g addr) n

/-- The end of the stair: the end of its end record's header, within `fuel` records. -/
def stairEnd (g : Mem) (addr : Nat) : Nat → Nat
  | 0 => addr + 64
  | n + 1 => if recLen g addr = 0 then addr + 64 else stairEnd g (addr + recLen g addr) n

/-! ## Checks (R351, R352) -/

/-- A range register's range in bytes (R274, R302). -/
def rangeOf (w : Word) : Nat × Nat := (wbits w 0 12 * 65536, wbits w 32 13 * 65536)

/-- Whether two ranges of bytes meet. -/
def rangesMeet (a b : Nat × Nat) : Bool := max a.1 b.1 < min a.2 b.2

/-- The table that `FTROOT` names (R365). -/
def rootRange (w : Word) : Nat × Nat := (wbits w 15 13 * 32768, wbits w 15 13 * 32768 + 32768)

/-- The orphan log (R397). -/
def orphanRange (p : Pkg) : Nat × Nat :=
  (wbits p.horph 7 21 * 128, wbits p.horph 7 21 * 128 + 256 * wbits p.horph 48 16)

/-- A pool or window range as it is stored: an end above 4,096 stores 4,096 (R274; log 19 for the pools). -/
def rangeWord (v : Word) : Word := toWord (min 4096 (wbits v 32 13) * 2 ^ 32 + wbits v 0 12)

/-- Whether a record's window is unusable (status 10). -/
def State.windowBad (s : State) (d : DieId) (r : CfgRec) : Bool :=
  let win := rangeOf r.gwin
  let pool := rangeOf r.sqpool
  let base := wbits (s.die d).cfgstair 0 28
  let regions := (r.sec 1).map (fun f => (fieldAt f 9 * 4096, fieldAt f 9 * 4096 + 65536)) ++
    [(base, stairEnd (s.die d).gallery base 65536), rangeOf r.sqtpool] ++
    (if (s.pkg d.pkg).landing = some d.die then [orphanRange (s.pkg d.pkg)] else []) ++
    if r.ftroot.getLsbD 0 then [rootRange r.ftroot] else []
  (pool.1 < pool.2 && !(win.1 ≤ pool.1 && pool.2 ≤ win.2)) || win.2 ≤ win.1 || wbits r.gwin 32 13 > 3584 ||
    regions.any (rangesMeet win)

/-- The position of a logical package (R406, R413); a number without an entry is no position. -/
def State.posOf (s : State) (pkg logical : Nat) : Nat :=
  let p := s.pkg pkg
  let e := tget p.posmap (p.rtAct, logical) 0
  if logical = p.lpkg then pkg
  else if e.getLsbD 63 then wbits e 54 9 * 32 + wbits e 49 5
  else 2 ^ 20 + logical

/-- The producer and the consumer of a channel item. -/
def State.chanEnds (s : State) (d : DieId) (f : List Nat) : (SlotId × Nat) × (SlotId × Nat) :=
  ((slotAt { pkg := s.posOf d.pkg (fieldAt f 0), die := fieldAt f 1 } f 2, fieldAt f 5),
   (slotAt { pkg := s.posOf d.pkg (fieldAt f 6), die := fieldAt f 7 } f 8, fieldAt f 11))

/-- Whether a list holds an item twice. -/
def twice {α : Type} [DecidableEq α] : List α → Bool
  | [] => false
  | x :: r => x ∈ r || twice r

/-- How many stages a record puts into a slot. -/
def CfgRec.stagesIn (r : CfgRec) (d : DieId) (i : SlotId) : Nat := ((r.sec 1).filter (fun f => slotAt d f 0 = i)).length

/-- Input ports on a die that are not bound as they must be: plain ports for status 1, merge ports for status 5. Where a slot
holds two stages, the ports of one number are counted together. -/
def State.badInputs (s : State) (d : DieId) (r : CfgRec) (merge : Bool) : Bool :=
  let ends := (r.sec 3).map (s.chanEnds d)
  (r.sec 2).any (fun f =>
    let same := (r.sec 2).filter (fun g => slotAt d g 0 = slotAt d f 0 && fieldAt g 3 = fieldAt f 3)
    (fieldAt f 4 ≠ 0) = merge &&
      (ends.filter (fun e => e.2 = (slotAt d f 0, fieldAt f 3))).length ≠ (same.map (fun g => max (fieldAt g 4) 1)).foldl (· + ·) 0)

/-- Whether a record leaves a port unbound or binds one twice (status 1). -/
def State.portsBad (s : State) (d : DieId) (r : CfgRec) : Bool :=
  let ends := (r.sec 3).map (s.chanEnds d)
  let declared := (r.sec 2).map (fun f => (slotAt d f 0, fieldAt f 3))
  s.badInputs d r false ||
    ends.any (fun e => max 1 (r.stagesIn d e.1.1) < (ends.map (·.1)).count e.1) ||
    declared.any (fun e => max 1 (r.stagesIn d e.1) < declared.count e) ||
    ends.any (fun e => e.2.1.core.die = d && e.2 ∉ declared)

/-- The code pages that a core's window takes from the record (R231). -/
def recBacking (r : CfgRec) (c : CoreId) : Tbl Nat (BitVec 16) :=
  ((r.sec 10).filter (fun f => fieldAt f 0 = 96 * c.clu + c.core)).map (fun f => (fieldAt f 1, BitVec.ofNat 16 (fieldAt f 2)))

/-- The tiles and the accumulators that a syllable names, as masks (R44). -/
def matrixRegs : Instr → Nat × Nat
  | .gathTile _ k _ => (2 ^ k.toNat, 0)
  | .sqGath _ _ t _ _ => (2 ^ t.toNat, 0)
  | .mm _ a t _ _ _ _ => (2 ^ t.toNat, 2 ^ a.toNat)
  | .mmDRoute _ a _ _ => (0, 2 ^ a.toNat)
  | .mmDSteer _ a _ _ => (0, 2 ^ a.toNat)
  | .mmZ _ a => (0, 2 ^ a.toNat)
  | .mmW _ t _ _ => (2 ^ t.toNat, 0)
  | .mmAr _ a _ => (0, 2 ^ a.toNat)
  | .mmAw _ a _ => (0, 2 ^ a.toNat)
  | _ => (0, 0)

/-- The code of a slot item as the code store holds it, from its entry to the next entry of its core (log 49): the syllables on the
pages that the record backs. -/
def Die.stageCode (dd : Die) (d : DieId) (r : CfgRec) (f : List Nat) : List Nat :=
  let c := (slotAt d f 0).core
  let pages := recBacking r c
  let ends := ((r.sec 1).filter (fun g => (slotAt d g 0).core = c && fieldAt f 8 < fieldAt g 8)).map (fun g => fieldAt g 8)
  let last := ends.foldl min 0x20000
  (List.range ((last - fieldAt f 8) / 4)).filterMap (fun k =>
    let a := fieldAt f 8 + 4 * k
    (tfind pages (a / 4096)).map (fun page => memNat dd.codeStore (page.toNat * 4096 + a % 4096) 4))

/-- The tiles and accumulators that a stage names, as masks: in its `.carry`, or in a syllable of its code (R44). -/
def Die.stageNames (dd : Die) (d : DieId) (r : CfgRec) (f : List Nat) : Nat × Nat :=
  (dd.stageCode d r f).foldl (fun m w =>
    match decodeSyl (w % 2 ^ 31) [] with
    | some i => (m.1 ||| (matrixRegs i).1, m.2 ||| (matrixRegs i).2)
    | none => m) (fieldAt f 13, fieldAt f 14)

/-- Whether another stage of a core names a tile or an accumulator that a stage carries (status 2). -/
def Die.carryBad (dd : Die) (d : DieId) (r : CfgRec) : Bool :=
  (r.sec 1).any (fun f => (fieldAt f 13 ≠ 0 || fieldAt f 14 ≠ 0) && (r.sec 1).any (fun g =>
    slotAt d f 0 ≠ slotAt d g 0 && (slotAt d f 0).core = (slotAt d g 0).core &&
      (fieldAt f 13 &&& (dd.stageNames d r g).1 ≠ 0 || fieldAt f 14 &&& (dd.stageNames d r g).2 ≠ 0)))

/-- Whether a window runs past 2 MiB, or has no target (status 3). -/
def windowItemBad (f : List Nat) : Bool :=
  let w0 := fieldAt f 2
  bitsAt w0 63 1 = 1 &&
    (bitsAt w0 7 14 * 128 + bitsAt w0 21 15 * 128 > 2 ^ 21 || (fieldAt f 3 = 0 && fieldAt f 4 % 2 ^ 32 = 0))

/-- The record at `STEP` of a stair in a memory, where it carries a number. -/
def Die.recStep (dd : Die) (g : Mem) (n : BitVec 16) : Option CfgRec :=
  ((recAddr g (wbits dd.cfgstair 0 28) (wbits dd.cfgstair 32 16)).bind (readRec g)).filter (fun r => r.cfgn = n)

/-- The record that a die has for a configuration (log 8): the one it has loaded, the one that is active, or the one at `STEP`,
whichever carries the number. -/
def Die.recFor (dd : Die) (n : BitVec 16) : Option CfgRec :=
  if dd.ldv ∧ dd.ldn = n then some dd.loadedRec
  else if dd.actv ∧ dd.actn = n then some dd.activeRec
  else dd.recStep dd.gallery n

/-- The record that lists a slot's own items: `r` on its die, else the one that the slot's die has for the same configuration, or that
the boot image holds for it (log 8). -/
def State.recOf (s : State) (d : DieId) (r : CfgRec) (i : SlotId) : Option CfgRec :=
  let e := i.core.die
  if e = d then some r
  else ((s.die e).recFor r.cfgn).orElse (fun _ =>
    (s.die e).recStep (tget (s.pkg d.pkg).boot.stairs ((s.pkg e.pkg).lpkg, e.die) []) r.cfgn)

/-- The number and the size of a consumer's buffers (R41, R50): as its own item declares them, in the record of its die. -/
def State.consumerBufs (s : State) (d : DieId) (r : CfgRec) (stage : BitVec 24) (f : List Nat) : Nat × Nat :=
  let e := s.chanEnds d f
  match (s.recOf d r e.2.1).bind (fun r =>
      (r.sec 2).find? (fun g => slotAt e.2.1.core.die g 0 = e.2.1 && fieldAt g 3 = e.2.2)) with
  | some g => (fieldAt g 5, fieldAt g 6)
  | none => (Config.farBufs stage e.1.2, Config.farSize stage e.1.2)

/-- The stage id that the record gives a slot. -/
def CfgRec.stageOf (r : CfgRec) (d : DieId) (i : SlotId) : Option (BitVec 24) :=
  ((r.sec 1).find? (fun f => slotAt d f 0 = i)).map (fun f => BitVec.ofNat 24 (fieldAt f 6))

/-- The stage id of a consumer (R47): from the record of its die. -/
def State.consumerStage (s : State) (d : DieId) (r : CfgRec) (stage : BitVec 24) (e : (SlotId × Nat) × (SlotId × Nat)) :
    BitVec 24 :=
  ((s.recOf d r e.2.1).bind (fun r => r.stageOf e.2.1.core.die e.2.1)).getD
    (if e.2.1.core.die = d then 0 else Config.farStage stage e.1.2)

/-- The retention buffers that a record's output ports need on a die (status 13). -/
def State.retention (s : State) (d : DieId) (r : CfgRec) : Nat :=
  ((r.sec 3).map (fun f =>
    let e := s.chanEnds d f
    if e.1.1.core.die = d then
      let b := s.consumerBufs d r ((r.stageOf d e.1.1).getD 0) f
      b.1 * (32 + b.2)
    else 0)).foldl (· + ·) 0

/-- The status that a well-formed record with a right number gets: 10 first, then the rest in ascending number (R351). -/
def State.recStatus (s : State) (d : DieId) (r : CfgRec) : Nat :=
  let dd := s.die d
  let checks : List (Nat × Bool) := [
    (10, s.windowBad d r),
    (1, s.portsBad d r),
    (2, dd.carryBad d r),
    (3, (r.sec 7).any windowItemBad),
    (4, (List.range 4).any (fun c => ((r.sec 8).filter (fun f => fieldAt f 0 = c)).length > 512)),
    (5, s.badInputs d r true),
    (6, (r.sec 6).any (fun f => (List.range 4).any (fun k => 128 + fieldAt f 3 ≤ fieldAt f (5 + k)))),
    (7, r.det && (r.sec 13).any (fun f => !intCode (fieldAt f 0))),
    (9, twice ((r.sec 1).map (fun f => slotAt d f 0)) || (r.sec 1).any (fun f =>
      fieldAt f 3 = 1 && (s.ctx (.stage (slotAt d f 0))).stageId ≠ BitVec.ofNat 24 (fieldAt f 6))),
    (11, (r.sec 11).any (fun f => (tget dd.seqs (bitsAt (fieldAt f 0) 0 16) SeqEntry.free).st ≠ 0) ||
      twice ((r.sec 11).map (fun f => bitsAt (fieldAt f 0) 0 16))),
    (12, (r.sec 1).any (fun f => fieldAt f 5 < 2 && (fieldAt f 13 ≠ 0 || fieldAt f 14 ≠ 0)) ||
      ((r.sec 1).filter entryItem).length > 32),
    (13, s.retention d r > 2 ^ 23)]
  ((checks.find? (·.2)).map (·.1)).getD 0

/-! ## Loading (R351) -/

/-- The rate that a stage declares for a port (R40): a free value where it was not placed with the program (log 6). -/
def State.rateOf (s : State) (stage : BitVec 24) (out : Bool) (port : Nat) : Nat :=
  match s.rates.find? (fun r => r.stage = stage && r.out = out && r.port = port) with
  | some r => r.rate
  | none => if out then Config.outRate stage port else Config.inRate stage port

/-- The input ports that a record gives a slot: its channels expect number 0. -/
def State.recIns (s : State) (d : DieId) (r : CfgRec) (i : SlotId) (stage : BitVec 24) : Tbl Nat InPort :=
  ((r.sec 2).filter (fun f => slotAt d f 0 = i)).map (fun f =>
    let n := fieldAt f 3
    let ends := (r.sec 3).filter (fun g => (s.chanEnds d g).2 = (i, n))
    let k := fieldAt f 4
    let chans := (List.range (max k 1)).filterMap (fun c =>
      (ends.find? (fun g => k = 0 || fieldAt g 12 = c)).map (fun g =>
        let e := (s.chanEnds d g).1
        ({ src := e.1, port := e.2, expected := 0, next := 0, bad := 0, dup := 0, freed := none } : Chan)))
    (n, { rate := max 1 (min (fieldAt f 5) (s.rateOf stage false n)), bufs := fieldAt f 5, size := fieldAt f 6, base := fieldAt f 7,
          merge := k ≠ 0, chans := chans, ring := [], held := [] }))

/-- The output ports that a record gives a slot, with the consumers' buffers as credits (R41, R50). -/
def State.recOuts (s : State) (d : DieId) (r : CfgRec) (i : SlotId) (stage : BitVec 24) : Tbl Nat OutPort :=
  ((r.sec 3).filter (fun f => (s.chanEnds d f).1.1 = i)).map (fun f =>
    let e := s.chanEnds d f
    let b := s.consumerBufs d r stage f
    (e.1.2, { rate := max 1 (min b.1 (s.rateOf stage true e.1.2)), dst := e.2.1, dport := e.2.2, chan := fieldAt f 12,
              dstStage := s.consumerStage d r stage e,
              bufs := b.1, size := b.2, credits := b.1, nextSeq := 0, retained := [], credited := none, sentRound := false,
              sentEos := false, drainSent := false, lastArr := 0 }))

/-- A slot as a record loads it (R42, R350). -/
def State.recSlot (s : State) (d : DieId) (r : CfgRec) (f : List Nat) : Slot :=
  let i := slotAt d f 0
  let stage := BitVec.ofNat 24 (fieldAt f 6)
  { Slot.reset with
    sst := .loaded, cfgNum := r.cfgn, det := r.det, prio := fieldAt f 4, stateClass := fieldAt f 5,
    budget := BitVec.ofNat 24 (fieldAt f 7), entry := fieldAt f 8, saveBase := fieldAt f 9,
    carry := {
      x := BitVec.ofNat 64 (fieldAt f 10), v := BitVec.ofNat 32 (fieldAt f 11), p := BitVec.ofNat 16 (fieldAt f 12),
      t := BitVec.ofNat 8 (fieldAt f 13), acc := BitVec.ofNat 4 (fieldAt f 14) },
    ins := s.recIns d r i stage, outs := s.recOuts d r i stage }

/-- The register context of a slot as a record loads it (R43): what no directive names is zero. A reserved `CVRND` of 11 is loaded as it
stands (R95; DESIGN CHOICE, log 98). -/
def recCtx (d : DieId) (r : CfgRec) (f : List Nat) : Ctx :=
  let i := slotAt d f 0
  let mine := fun type => (r.sec type).filter (fun g => slotAt d g 0 = i)
  { Ctx.reset with
    stageId := BitVec.ofNat 24 (fieldAt f 6),
    cr := { CtlRegs.reset with
      rnd := BitVec.ofNat 32 (fieldAt f 15), cvrnd := BitVec.ofNat 2 (fieldAt f 16), seed := toWord (fieldAt f 17),
      ctrbase := toWord (fieldAt f 18) },
    rte := (mine 4).foldl (fun v g => v.setIfInBounds (fieldAt g 3) (BitVec.ofNat 8 (fieldAt g 5 * 8 + fieldAt g 4))) Ctx.reset.rte,
    td := (mine 5).foldl (fun v g => v.setIfInBounds (fieldAt g 3) (Vector.ofFn (fun k => toWord (fieldAt g (4 + k.val)))))
      Ctx.reset.td,
    island := (mine 6).foldl (fun v g => v.setIfInBounds (fieldAt g 3)
      { truth := BitVec.ofNat 16 (fieldAt g 4), sel := Vector.ofFn (fun k => BitVec.ofNat 8 (fieldAt g (5 + k.val))) })
      Ctx.reset.island }

/-- Whether the active configuration uses a slot, so that the next one is loaded apart. -/
def Slot.inUse (v : Slot) : Bool := (v.sst ≠ .empty && v.sst ≠ .loaded) || v.killed

/-- A remote sequence installed (R357). -/
def State.installRemote (s : State) (d : DieId) (w : Nat) : State :=
  s.modDie d (fun dd => { dd with seqs := tset dd.seqs (bitsAt w 0 16) { SeqEntry.free with
    st := 2, home := some ({ pkg := s.posOf d.pkg (bitsAt w 49 14), die := bitsAt w 46 3 }, bitsAt w 16 16) } })

/-- A cluster's windows, phasers and members take the record's values (R239, R243–R245, R259). -/
def recCluster (r : CfgRec) (c : Nat) : Cluster :=
  let windows := ((r.sec 7).filter (fun f => fieldAt f 0 = c)).foldl (fun (v : Vector Window 16) f =>
    v.setIfInBounds (fieldAt f 1) { w0 := toWord (fieldAt f 2), w1 := toWord (fieldAt f 3), w2 := toWord (fieldAt f 4) })
    Cluster.reset.windows
  let items := (r.sec 8).filter (fun f => fieldAt f 0 = c)
  let phasers := items.foldl (fun (v : Vector Phaser 16) f =>
    let n := fieldAt f 1
    let old := v.toList.getD n { valid := false, failed := false, phase := 0, npend := 0, arrn := 0, arr := 0, nsig := 0 }
    v.setIfInBounds n { old with
      valid := true, phase := BitVec.ofNat 32 (fieldAt f 2),
      nsig := if fieldAt f 5 % 2 = 1 then old.nsig + 1 else old.nsig }) Cluster.reset.phasers
  let members := items.zipIdx.map (fun e =>
    let f := e.1
    (e.2, ({ wph := BitVec.ofNat 32 (fieldAt f 2), sph := BitVec.ofNat 32 (fieldAt f 2), phn := BitVec.ofNat 4 (fieldAt f 1),
             mode := BitVec.ofNat 2 (fieldAt f 5), mst := if fieldAt f 5 = 0 then 0 else 2, rsv := true,
             core := BitVec.ofNat 7 (fieldAt f 3), slot := BitVec.ofNat 4 (fieldAt f 4) } : Member)))
  { Cluster.reset with windows := windows, phasers := phasers, members := members,
                       active := (r.sec 1).any (fun f => fieldAt f 0 = c) }

/-- What the active configuration of a die uses, by its own record (R351). -/
def Die.inForce (dd : Die) : CfgRec := if dd.actv then dd.activeRec else CfgRec.none

/-- A cluster takes the windows and phasers of a record that the active one does not use: their values and, as far as there are
free entries, the phasers' members (R351). -/
def Cluster.takeUnused (k : Cluster) (act r : CfgRec) (c : Nat) : Cluster :=
  let new := recCluster r c
  let declares := fun (r : CfgRec) (type n : Nat) => (r.sec type).any (fun f => fieldAt f 0 = c && fieldAt f 1 = n)
  let fresh := fun (type n : Nat) => declares r type n && !declares act type n
  let k := { k with
    windows := k.windows.mapFinIdx (fun n w h => if fresh 7 n then new.windows[n] else w),
    phasers := k.phasers.mapFinIdx (fun n f h => if fresh 8 n then new.phasers[n] else f),
    members := k.members.filter (fun e => !fresh 8 e.2.phn.toNat) }
  (new.members.filter (fun e => fresh 8 e.2.phn.toNat)).foldl (fun k e =>
    match (List.range 512).find? (fun n => (tfind k.members n).isNone) with
    | some n => { k with members := tset k.members n e.2 }
    | none => k) k

/-- The sections that the active configuration does not use are applied at once (R351): windows, phasers, reach sets and code
pages; slots that it does not use are loaded by their own items. A core's reach set is in use where a stage stands on the core. -/
def State.applyUnused (s : State) (d : DieId) (r : CfgRec) : State :=
  let act := (s.die d).inForce
  let s := (List.range 4).foldl (fun (s : State) c =>
    if (r.sec 7 ++ r.sec 8).any (fun f => fieldAt f 0 = c) then
      s.modClu { die := d, clu := c } (fun k => k.takeUnused act r c)
    else s) s
  let s := (r.sec 9).foldl (fun (s : State) f =>
    if (act.sec 9 ++ act.sec 1).any (fun g => fieldAt g 0 = fieldAt f 0 && fieldAt g 1 = fieldAt f 1) then s
    else s.modCore { die := d, clu := fieldAt f 0, core := fieldAt f 1 } (fun k =>
      { k with reach := BitVec.ofNat 96 (fieldAt f 2 + fieldAt f 3 * 2 ^ 64) })) s
  (r.sec 10).foldl (fun (s : State) f =>
    if (act.sec 10).any (fun g => fieldAt g 0 = fieldAt f 0 && fieldAt g 1 = fieldAt f 1) then s
    else s.modCore { die := d, clu := fieldAt f 0 / 96, core := fieldAt f 0 % 96 } (fun k =>
      { k with backing := tset k.backing (fieldAt f 1) (BitVec.ofNat 16 (fieldAt f 2)) })) s

/-- The record at `STEP`: where it stands, and how much of it the sequencer reads. -/
def Die.recRun (dd : Die) : Option (Nat × Nat) :=
  (recAddr dd.gallery (wbits dd.cfgstair 0 28) (wbits dd.cfgstair 32 16)).map (fun a =>
    (a, if (readRec dd.gallery a).isSome then max 64 (recLen dd.gallery a) else 64))

/-- The host's copies that a load waits for: those of the record, and of the headers before it (R392). -/
def State.recLines (s : State) (d : DieId) : List Nat :=
  let dd := s.die d
  (recHeads dd.gallery (wbits dd.cfgstair 0 28) (wbits dd.cfgstair 32 16)).flatMap (fun a => s.snooped d (a + 8) 4 false) ++
    dd.recRun.toList.flatMap (fun r => s.snooped d r.1 r.2 false)

/-- The record at `STEP` loaded (R351): `want` is the number expected, none for any. The result is the status. What the sequencer reads
of the record is corrected and counted (R366, R369); one with an uncorrectable word is malformed (DESIGN CHOICE, log 91). -/
def State.loadRec (s : State) (d : DieId) (want : Option Nat) : State × Nat :=
  let dd := s.die d
  let at_ := dd.recRun
  let s := match at_ with
    | some r => s.meetDie d r.1 r.2
    | none => s
  let refuse := fun (st : Nat) =>
    ((s.modDie d (fun dd => { dd with status := BitVec.ofNat 8 st })).dieEvent d 0x30 0 none st 0, st)
  match at_ with
  | none => refuse 15
  | some (addr, len) =>
    match if wordsIn dd.bad addr len = 0 then readRec dd.gallery addr else none with
    | none => refuse 8
    | some r =>
      if want.isSome ∧ want ≠ some r.cfgn.toNat then refuse 14
      else if s.recStatus d r ≠ 0 then refuse (s.recStatus d r)
      else
        let s := s.modDie d (fun dd => { dd with status := 0, ldv := true, ldn := r.cfgn, loadedRec := r })
        let s := (r.sec 1).foldl (fun (s : State) f =>
          let i := slotAt d f 0
          if (s.slot i).inUse then { s with nexts := tset s.nexts i (s.recSlot d r f) } else s.setSlot i (s.recSlot d r f)) s
        ((r.sec 11).foldl (fun s f => s.installRemote d (fieldAt f 0)) (s.applyUnused d r), 0)

/-! ## The drain (R354, R355) -/

/-- The slots of a die. -/
def State.dieSlots (s : State) (d : DieId) : Tbl SlotId Slot := s.slots.filter (fun e => e.1.core.die = d)

/-- The sources of a draining die get their DRAIN, and the ports of killed stages send it in their place (R61, R355). -/
def State.drainSources (s : State) (d : DieId) : State :=
  (s.dieSlots d).foldl (fun s e =>
    let v := s.slot e.1
    if v.killed then s.setSlot e.1 { v with draining := true }
    else if v.ins = [] ∧ v.inUse then s.setSlot e.1 { v with drainToken := true }
    else s) s

/-- Activation begins on a die: it ends within the bound of R353, after the code copies (log 10). -/
def State.beginActivation (s : State) (d : DieId) : State :=
  let pages := ((s.die d).loadedRec.sec 1).length
  (s.modDie d (fun dd => { dd with seqState := .activating })).schedule (s.cycle + 1 + 64 * pages) priLate
    (.activationComplete d)

/-- A record has been accepted: the drain begins, or, with no configuration active, activation (R353). -/
def State.beginSwitch (s : State) (d : DieId) : State :=
  if (s.die d).actv then (s.modDie d (fun dd => { dd with seqState := .draining })).drainSources d
  else s.beginActivation d

/-- The peers of the active record hear of a switch, on the management class (R354). -/
def State.tellPeers (s : State) (d : DieId) : State :=
  ((s.die d).activeRec.sec 12).foldl (fun s f =>
    s.sendManage d { pkg := s.posOf d.pkg (fieldAt f 0), die := fieldAt f 1 }
      (.switchNotice { pkg := s.posOf d.pkg (fieldAt f 0), die := fieldAt f 1 } (s.die d).ldn.toNat)) s

/-- Whether a die is switching already. -/
def Die.switching (d : Die) : Bool := d.seqState = .loading || d.seqState = .draining || d.seqState = .activating

/-- A load begins (R353): `want` is the number expected, none for any; `own` where this die starts the switch. -/
def State.beginLoad (s : State) (d : DieId) (want : Option Nat) (own : Bool) : State :=
  s.modDie d (fun dd => { dd with seqState := .loading, loading := some (want, own, s.cycle) })

/-- The load ends (R353, R354): a refused record leaves the sequencer in its earlier state; with an accepted one the switch starts,
and a die that starts it itself tells its peers. -/
def State.endLoad (s : State) (d : DieId) (want : Option Nat) (own : Bool) : State :=
  let s := s.modDie d (fun dd => { dd with seqState := if dd.actv then .running else .idle, loading := none })
  let r := s.loadRec d want
  if r.2 ≠ 0 then r.1 else (if own then r.1.tellPeers d else r.1).beginSwitch d

/-- A load that began in an earlier cycle ends with the cycle (log 50), once the host holds no line that it reads (R392). -/
def State.settleLoad (s : State) (d : DieId) : State :=
  match (s.die d).loading with
  | some l =>
    if s.cycle ≤ l.2.2 then s
    else if s.recLines d ≠ [] then s.backInvalidate d.pkg (s.recLines d) false
    else s.endLoad d l.1 l.2.1
  | none => s

/-- The wait of `CFG.NEXT` (R358): its bundle issues once the load that it began has been accepted or refused; while the die is
switching already it begins none. -/
def cfgNextWait (a : BitVec 6) (s : State) : Wait :=
  let d := dieOf s.cur
  match s.me.sync with
  | some w => if (s.die d).loading.isSome && w.since = (((s.die d).loading.map (·.2.2)).getD 0) then .hold (fun s => s) else .go
  | none => if (s.die d).switching then .go else .hold (fun s =>
      (s.beginLoad (dieOf s.cur) (if (s.rx a).getLsbD 16 then none else some (wbits (s.rx a) 0 16)) true).beginSync none)

/-- `CFG.NEXT` (R358). -/
def execCfgNext (p : BitVec 4) (a : BitVec 6) (s : State) : Out :=
  issue { ctlSyl p { xr := [a] } (fun s => match s.me.sync with
      | some _ => s.endSync
      | none => s.modDie (dieOf s.cur) (fun dd => { dd with status := 0 })) with
    priv := true, wait := cfgNextWait a } s

/-- `SWITCH_NOTICE` (R354): a die that is switching already ignores it. -/
def execSwitchNotice (d : DieId) (n : Nat) (s : State) : Out :=
  if (s.die d).switching then .next s else .next (s.beginLoad d (some n) false)

/-- A sink completion starts the switch where the active record says so (R354). -/
def State.autoSwitch (s : State) (d : DieId) : State :=
  if !(s.die d).sinkPending then s
  else
    let s := s.modDie d (fun dd => { dd with sinkPending := false })
    if (s.die d).activeRec.auto ∧ (s.die d).actv ∧ !(s.die d).switching then s.beginLoad d none true else s

/-- Whether a slot takes no further part in its configuration (R261, R355). -/
def Slot.finished (v : Slot) : Bool := v.sst = .drained || v.sst = .empty || v.sst = .loaded || v.fst = .done

/-- Whether the closing barrier of a cluster is complete (R261). -/
def State.closing (s : State) (c : CluId) : Bool :=
  (s.die c.die).seqState = .draining && (s.clu c).active &&
  s.slots.all (fun e => cluOf e.1.core ≠ c || (e.2.finished && s.storesDone (.stage e.1) s.uid))

/-- `CLOSING_BARRIER_COMPLETE` (R261): the phasers and windows become invalid and every member entry is freed. -/
def execClosingBarrierComplete (c : CluId) (s : State) : Out :=
  if s.closing c then .next (s.modClu c (fun k => { k with
    active := false, phasers := k.phasers.map (fun f => { f with valid := false }),
    windows := k.windows.map (fun w => { w with w0 := w.w0 &&& (BitVec.allOnes 64 >>> 1) }), members := [], signals := [],
    arrived := [] }))
  else .next s

/-- Whether the die's part of the active configuration has drained (R355). -/
def State.drained (s : State) (d : DieId) : Bool :=
  (s.die d).seqState = .draining &&
  (s.dieSlots d).all (fun e => e.2.finished && e.2.outs.all (fun o => o.2.retained = []) &&
    (!(e.2.killed || e.2.fst = .done) || e.2.outs.all (fun o => o.2.drainSent))) &&
  (List.range 4).all (fun k => !(s.clu { die := d, clu := k }).active)

/-- Whether a remote entry is one that the loaded record has installed, which stays when its predecessor retires (R351, R357). -/
def Die.newRemote (dd : Die) (h : Nat) : Bool := dd.ldv && (dd.loadedRec.sec 11).any (fun f => bitsAt (fieldAt f 0) 0 16 = h)

/-- A configuration retires: its final digest enters the history (R361). -/
def State.retire (s : State) (d : DieId) : State :=
  let dd := s.die d
  let n := dd.actn
  let s := s.modDie d (fun dd => { dd with
    dign := toWord (dd.dign.toNat * 2 ^ 16 % 2 ^ 64 + n.toNat),
    digh := Vector.ofFn (fun k => if k.val = 0 then dd.digest else dd.digh.toList.getD (k.val - 1) 0),
    seqs := dd.seqs.map (fun e => if e.2.st = 2 ∧ !dd.newRemote e.1 then (e.1, SeqEntry.free) else e), actv := false,
    frames := dd.frames.filter (fun f => !dd.ahead.any (fun c => c.frame = f.1)), ahead := [],
    blockMap := dd.blockMap.filter (fun b => (tget dd.seqs b.1 SeqEntry.free).st ≠ 2 || dd.newRemote b.1),
    tokens := [], cachedLines := [] })
  let s := s.dieEvent d 0x33 0 none (n.toNat % 2 ^ 12) 0
  if dd.activeRec.expdig ≠ 0 ∧ dd.activeRec.expdig ≠ dd.digest then s.dieEvent d 0x34 0 none (n.toNat % 2 ^ 12) 0 else s

/-- `CONFIG_DRAIN_COMPLETE` (R355): activation starts; until the drain is complete the event does nothing. -/
def execConfigDrainComplete (d : DieId) (s : State) : Out :=
  if s.drained d then .next ((s.retire d).beginActivation d) else .next s

/-! ## Activation (R356) -/

/-- A slot and its context take their place in the configuration that is activated. A kept slot keeps its slot state, its
carried registers and `FIRING`; its ports start anew. -/
def State.activateSlot (s : State) (d : DieId) (r : CfgRec) (f : List Nat) : State :=
  let i := slotAt d f 0
  let new := match tfind s.nexts i with
    | some v => v
    | none => s.slot i
  let old := s.slot i
  let s := { s with nexts := tdel s.nexts i }
  if fieldAt f 3 = 1 ∧ old.inUse then
    if old.killed then s.setSlot i { new with sst := .empty, killed := true }
    else s.setSlot i { new with sst := .active, carried := old.carried }
  else
    let s := (s.setSlot i { new with sst := .active }).setCtx (.stage i) (recCtx d r f)
    s.modCore i.core (fun k => { k with
      tiles := k.tiles.mapFinIdx (fun j t _ => if (fieldAt f 13).testBit j then { bytes := 0, scale := 0, fmt := 0 } else t),
      accs := k.accs.mapFinIdx (fun j a _ => if (fieldAt f 14).testBit j then { bytes := 0, type := 0 } else a) })

/-- The length of the bundle at an address of a code window, in syllables. -/
def bundleSyls (m : Mem) (a : Nat) : Nat → Nat
  | 0 => 0
  | n + 1 => if (memNat m a 4).testBit 31 then 1 else 1 + bundleSyls m (a + 4) n

/-- The pages that hold a stage's entry bundle are mapped (R231). -/
def State.mapEntry (s : State) (i : SlotId) (entry : Nat) : State :=
  let s := s.mapPage i.core (entry / 4096)
  let last := (entry + 4 * (bundleSyls (s.core i.core).window entry 8 - 1)) / 4096
  if last = entry / 4096 then s else s.mapPage i.core last

/-- Activation (R356). A core for which the record gives no reach set keeps the one it has (R234; DESIGN CHOICE, log 90). -/
def State.activate (s : State) (d : DieId) : State :=
  let r := (s.die d).loadedRec
  let kept := ((r.sec 1).filter (fun f => fieldAt f 3 = 1)).map (fun f => slotAt d f 0)
  let named := (r.sec 1).map (fun f => slotAt d f 0)
  let s := (s.dieSlots d).foldl (fun s e => if e.1 ∈ kept ∨ e.2.sst = .loaded then s else s.leaveActive e.1) s
  let s := (s.dieSlots d).foldl (fun s e =>
    if e.1 ∈ kept ∨ (e.1 ∈ named ∧ e.2.sst = .loaded) then s
    else { s with slots := tset s.slots e.1 { Slot.reset with saveBase := e.2.saveBase } }) s
  let s := (List.range 4).foldl (fun (s : State) k => s.setClu { die := d, clu := k } (recCluster r k)) s
  let cores := (r.sec 1).map (fun f => (slotAt d f 0).core)
  let s := { s with cores := s.cores.map (fun e =>
    if e.1.die = d then (e.1, { e.2 with mapped := 0, backing := recBacking r e.1 }) else e) }
  let s := cores.foldl (fun (s : State) c => s.modCore c (fun k => { k with mapped := 0, backing := recBacking r c })) s
  let s := (r.sec 9).foldl (fun (s : State) f => s.modCore { die := d, clu := fieldAt f 0, core := fieldAt f 1 } (fun k =>
    { k with reach := BitVec.ofNat 96 (fieldAt f 2 + fieldAt f 3 * 2 ^ 64) })) s
  let s := { s with agenda := s.agenda.filter (fun e => match e.ev with
    | .creditMessage dst _ => dst.slot.core.die ≠ d
    | _ => true) }
  let s := (r.sec 1).foldl (fun s f => s.activateSlot d r f) s
  let s := (r.sec 1).foldl (fun s f => s.mapEntry (slotAt d f 0) (fieldAt f 8)) s
  let s := s.modDie d (fun dd => { dd with
    gwin := rangeWord r.gwin, sqpool := rangeWord r.sqpool, ftroot := r.ftroot, sqtpool := rangeWord r.sqtpool, tlb := [],
    actn := r.cfgn, actv := true, ldv := false, ldn := 0, activeRec := r, seqState := .running, digest := 0, counted := [],
    cfgstair := wput dd.cfgstair 32 16 (wbits dd.cfgstair 32 16 + 1) })
  s.dieEvent d 0x31 0 none (r.cfgn.toNat % 2 ^ 12) 0

/-- `ACTIVATION_COMPLETE` (R353, R356). -/
def execActivationComplete (d : DieId) (s : State) : Out :=
  if (s.die d).seqState = .activating then .next (s.activate d) else .fault .noSuchItem

/-! ## Remote entries by register (R357) -/

/-- A command of `SQRMT` done or refused: `OK` says which. -/
def State.sqrmtDone (s : State) (d : DieId) (v : BitVec 64) (ok : Bool) : State :=
  s.modDie d (fun dd => { dd with sqrmt := wput (wput v 32 14 (bit ok * 2 ^ 13)) 63 1 0 })

/-- `SQRMT_INSTALL` (R357): it succeeds only where the local handle is FREE. -/
def execSqrmtInstall (d : DieId) (v : BitVec 64) (s : State) : Out :=
  if (tget (s.die d).seqs (wbits v 0 16) SeqEntry.free).st = 0 then .next ((s.installRemote d v.toNat).sqrmtDone d v true)
  else .next (s.sqrmtDone d v false)

/-- The stage-ahead copies of a handle freed: its sequence is no longer there (R325). -/
def Die.forgetCopies (k : Die) (h : Nat) : Die :=
  { k with frames := k.frames.filter (fun f => !k.ahead.any (fun c => c.handle = h && c.frame = f.1)),
           ahead := k.ahead.filter (fun c => c.handle ≠ h), blockMap := k.blockMap.filter (fun b => b.1 ≠ h) }

/-- `SQRMT_REMOVE` (R357): it succeeds only where the local handle is REMOTE. The handle's copies and block-map entries go with it, so
that neither serves a sequence installed there later (R317, R325: they change no result). -/
def execSqrmtRemove (d : DieId) (v : BitVec 64) (s : State) : Out :=
  if (tget (s.die d).seqs (wbits v 0 16) SeqEntry.free).st = 2 then
    .next ((s.modDie d (fun dd => { dd.forgetCopies (wbits v 0 16) with seqs := tdel dd.seqs (wbits v 0 16) })).sqrmtDone d v true)
  else .next (s.sqrmtDone d v false)

/-! ## The digest (R359) -/

/-- The digest function of a line: its address and its eight words. -/
def lineHash (addr : Nat) (words : List Nat) : Word :=
  words.foldl (fun x w =>
    let y := (x ^^^ toWord w) * 0xBF58476D1CE4E5B9
    y ^^^ (y >>> 31)) (toWord addr * 0x9E3779B97F4A7C15)

/-- The words of the 64-byte line that holds an address. -/
def lineWords (m : Mem) (line : Nat) : List Nat := (List.range 8).map (fun k => memNat m (64 * line + 8 * k) 8)

/-- The address that the digest gives a line's home and line (R359). -/
def digestAddr (h : Home) (line : Nat) : Nat :=
  match h with
  | .core c => 2 ^ 32 + (c.clu * 96 + c.core) * 2 ^ 21 + 64 * line
  | _ => 64 * line

/-- A counted write of one line: its contents before and after (R359). -/
def Die.count (d : Die) (h : Home) (line : Nat) (before after : Mem) : Die :=
  if !d.actv then d
  else
    let old := if (h, line) ∈ d.counted then lineHash (digestAddr h line) (lineWords before line) else 0
    { d with digest := d.digest - old + lineHash (digestAddr h line) (lineWords after line),
             counted := if (h, line) ∈ d.counted then d.counted else (h, line) :: d.counted }

/-- A counted write of a run of bytes (R359). -/
def Die.countRun (d : Die) (h : Home) (addr n : Nat) (before after : Mem) : Die :=
  (linesOf addr n).foldl (fun d l => d.count h l before after) d

end Sys2Proof.Machine
end

