-- ==== Sys2Proof/Machine/Pool.lean ====
section
/-! DEFINITION. The pools of the sequence engine (R300–R302), the mirror of a sequence (R432, R433), and the lines that the
host may hold (R391, R392). -/

namespace Sys2Proof.Machine

/-! ## Frames and table pages -/

/-- The lowest of the candidates that `ok` admits. -/
def lowest (ok : Nat → Bool) (l : List Nat) : Option Nat :=
  (l.filter ok).foldl (fun b a => match b with
    | none => some a
    | some x => some (min x a)) none

/-- The free frame of `n` bytes with the lowest address in a range (R301): it begins the range, or follows a frame. -/
def freeFrame (lo hi n : Nat) (frames : Tbl Nat (Nat × Nat)) : Option Nat :=
  lowest (fun a => lo ≤ a && a + n ≤ hi && !frames.any (fun f => f.1 < a + n && a < f.1 + f.2.1))
    (lo :: frames.map (fun f => f.1 + f.2.1))

/-- `k` frames of `n` bytes taken in turn from a range, or none where the range cannot supply them. -/
def takeFrames (lo hi n : Nat) : Nat → Tbl Nat (Nat × Nat) → Option (List Nat × Tbl Nat (Nat × Nat))
  | 0, frames => some ([], frames)
  | k + 1, frames =>
    match freeFrame lo hi n frames with
    | none => none
    | some a =>
      match takeFrames lo hi n k (tset frames a (n, 1)) with
      | none => none
      | some (l, frames) => some (a :: l, frames)

/-- A frame listed once less; it is free where nothing lists it any more (R301, R314). -/
def dropFrame (frames : Tbl Nat (Nat × Nat)) (a : Nat) : Tbl Nat (Nat × Nat) :=
  match tfind frames a with
  | none => frames
  | some (n, refs) => if refs ≤ 1 then tdel frames a else tset frames a (n, refs - 1)

/-- A frame listed once more. -/
def shareFrame (frames : Tbl Nat (Nat × Nat)) (a : Nat) : Tbl Nat (Nat × Nat) :=
  match tfind frames a with
  | none => frames
  | some (n, refs) => tset frames a (n, refs + 1)

/-- `k` table pages taken from a range, the lowest first, beside those in use (R301). -/
def takePages (lo hi : Nat) : Nat → List Nat → Option (List Nat)
  | 0, _ => some []
  | k + 1, used =>
    match lowest (fun a => lo ≤ a && a + 4096 ≤ hi && a ∉ used) (lo :: used.map (· + 4096)) with
    | none => none
    | some a => (takePages lo hi k (a :: used)).map (a :: ·)

/-- The table pages that a block table of `n` blocks needs: 512 frame addresses a page (log 17). -/
def pagesFor (n : Nat) : Nat := ceilDiv n 512

/-- A run of zeros written in a memory space, in canonical form. -/
def memClear (m : Mem) (a n : Nat) : Mem := m.filter (fun c => c.1 < a || a + n ≤ c.1)

/-- The blocks that `n` slots fill or begin. -/
def blocksFor (n : Nat) : Nat := ceilDiv n 16

/-- The bytes of a frame of a sequence. -/
def SeqEntry.frameLen (e : SeqEntry) : Nat := 16 * e.size

/-- An entry of a die. -/
def Die.seq (d : Die) (h : Nat) : SeqEntry := tget d.seqs h SeqEntry.free

/-- The table pages in use on a die: those of its entries and of its shadows. -/
def Die.pagesUsed (d : Die) : List Nat := d.seqs.flatMap (·.2.pages) ++ d.shadows.flatMap (·.entry.pages)

/-- The block pool's free space in 256-byte units, for `SQFREE` (R302). -/
def Die.freeUnits (d : Die) : Nat :=
  let r := rangeOf d.sqpool
  (r.2 - r.1 - ((d.frames.filter (fun f => r.1 ≤ f.1 && f.1 < r.2)).map (·.2.1)).foldl (· + ·) 0) / 256

/-- The entries in state OPEN or REMOTE, for `SQOPEN` (R302). -/
def Die.openEntries (d : Die) : Nat := (d.seqs.filter (fun e => e.2.st = 1 || e.2.st = 2)).length

/-! ## The mirror (R433) -/

/-- The mirror of a die: the same die of the next package of its hall, by hall index modulo 31. -/
def mirrorOf (d : DieId) : DieId := { d with pkg := d.pkg / 32 * 32 + (d.pkg % 32 + 1) % 31 }

/-- Whether a sequence was created by a slot of class `mirror`. -/
def State.hasMirror (s : State) (e : SeqEntry) : Bool :=
  match e.owner with
  | some i => (s.slot i).stateClass = 1
  | none => false

/-- A message forwarded to a die's mirror. -/
def State.forward (s : State) (d : DieId) (m : MirrorOp) : State :=
  s.sendFlit d (mirrorOf d) 30 priLate (.mirrorForward (mirrorOf d) { src := d, op := m })

/-- The part of a run of bytes that falls in a frame: its offset there and the bytes. -/
def clipRun (addr : Nat) (data : List Byte) (frame len : Nat) : Option (Nat × List Byte) :=
  let lo := max addr frame
  let hi := min (addr + data.length) (frame + len)
  if lo < hi then some (lo - frame, (data.drop (lo - addr)).take (hi - lo)) else none

/-- A store into the gallery: its parts that fall in frames of mirrored sequences are forwarded. -/
def State.mirrorStore (s : State) (d : DieId) (addr : Nat) (data : List Byte) : State :=
  ((s.die d).seqs.filter (fun e => e.2.st = 1 && s.hasMirror e.2)).foldl (fun s e =>
    e.2.table.zipIdx.foldl (fun s b =>
      match clipRun addr data b.1 e.2.frameLen with
      | some (off, bs) => s.forward d (.store e.1 (16 * b.2 + off / e.2.size) (off % e.2.size) bs)
      | none => s) s) s

/-! ## Lines that the host may hold (R391, R392) -/

/-- The gallery address of an HDM line: its die and the address there. -/
def Pkg.hdmAddr (p : Pkg) (line : Nat) : Nat × Nat :=
  let w := tget p.hdmmap (line / 2 ^ 15) 0
  (wbits w 56 3, wbits w 0 7 * 2 ^ 21 + line % 2 ^ 15 * 64)

end Sys2Proof.Machine
end

