-- ==== Sys2Proof/Machine/Link.lean ====
section
/-! DEFINITION. The package rings (R378–R382), the fabric links (R407–R411), routing and its flip (R413–R418), failure
notices (R419), and attestation reports (R401). -/

namespace Sys2Proof.Machine

/-! ## Flits (R409) -/

/-- A flit. -/
abbrev Flit := BitVec 640

/-- The header word. -/
def Flit.header (f : Flit) : Word := BitVec.ofNat 64 f.toNat
/-- The trailer word. -/
def Flit.trailer (f : Flit) : Word := BitVec.ofNat 64 (f.toNat / 2 ^ 576)
/-- Destination package and die. -/
def Flit.dpkg (f : Flit) : Nat := wbits f.header 50 14
@[inherit_doc Flit.dpkg] def Flit.ddie (f : Flit) : Nat := wbits f.header 47 3
/-- The traffic class. -/
def Flit.cls (f : Flit) : Nat := wbits f.header 45 2
/-- The hop index. -/
def Flit.vc (f : Flit) : Nat := wbits f.header 42 3
/-- Whether it is the last flit of its message or packet. -/
def Flit.last (f : Flit) : Bool := f.header.getLsbD 40
/-- The source package. -/
def Flit.spkg (f : Flit) : Nat := wbits f.header 10 14
/-- The 64 bytes of payload. -/
def Flit.payload (f : Flit) : List Byte := (leBytes 72 f.toNat).drop 8
/-- The message type of a flit that is no part of a stream packet. -/
def Flit.msgType (f : Flit) : Nat := bitsAt f.toNat 64 8
/-- Whether the order of a flit's class is kept (R413). -/
def Flit.ordered (f : Flit) : Bool := f.cls = 1 || f.cls = 2

/-- One byte taken into a CRC-32C (PRESUMED: the Castagnoli polynomial, reflected, as the name says; log 13). -/
def crcByte (crc : Nat) (b : Byte) : Nat :=
  (List.range 8).foldl (fun c _ => if c % 2 = 1 then c / 2 ^^^ 0x82F63B78 else c / 2) (crc ^^^ b.toNat)

/-- CRC-32C. -/
def crc32c (bs : List Byte) : Nat := (bs.foldl crcByte 0xFFFFFFFF) ^^^ 0xFFFFFFFF

/-- The CRC that a flit's trailer holds. -/
def Flit.crc (f : Flit) : Nat := crc32c (leBytes 72 f.toNat)

/-- A flit with a header field replaced. -/
def Flit.put (f : Flit) (lo k v : Nat) : Flit := BitVec.ofNat 640 (putBits f.toNat lo k v)

/-- A flit made ready for a link: its sequence number, the acknowledgement and its CRC. -/
def Flit.seal (f : Flit) (sq ack : BitVec 12) : Flit :=
  BitVec.ofNat 640 (f.toNat % 2 ^ 576 + (ack.toNat * 2 ^ 8 + sq.toNat * 2 ^ 20 + f.crc * 2 ^ 32) * 2 ^ 576)

/-- The buffer that a flit takes up at the port it came in by (R410, R415). -/
def Flit.buf (f : Flit) (port : Nat) : InBuf := { port := port, pool := f.header.getLsbD 41, cls := f.cls, vc := f.vc }

/-- The bytes of a packet cut into the payloads of its flits, the last one padded with zeros. -/
def flitPayloads : Nat → List Byte → List (List Byte)
  | 0, _ => []
  | n + 1, bs => padTo 64 (bs.take 64) :: flitPayloads n (bs.drop 64)

/-- The ceil((32 + `LEN`) / 64) flits of class 2 that carry a stream packet; `head` holds the other fields of their headers. -/
def packetFlits (head : Nat) (k : Packet) : List Flit :=
  let bytes := k.header ++ k.payload.take k.len
  let n := ceilDiv bytes.length 64
  (flitPayloads n bytes).zipIdx.map (fun b =>
    BitVec.ofNat 640 (putBits (putBits head 45 2 2) 40 1 (bit (b.2 + 1 = n)) + leNat b.1 * 2 ^ 64))

/-- The packet that a run of flits carries. -/
def flitsPacket (fs : List Flit) : Packet :=
  let bytes := fs.flatMap Flit.payload
  let w := fun i => toWord (leNat ((bytes.drop (8 * i)).take 8))
  { w0 := w 0, w1 := w 1, w2 := w 2, w3 := w 3, payload := (bytes.drop 32).take (wbits (w 0) 12 13) }

/-! ## Ports -/

/-- A port changed. -/
def State.modPort (s : State) (pkg n : Nat) (f : Port → Port) : State :=
  s.modPkg pkg (fun p => { p with ports := tset p.ports n (f (p.port n)) })

/-- A counter that stops at 65,535 (R412). -/
def bump16 (n : Nat) : Nat := min 65535 (n + 1)

/-- A flit that a port discards is counted in `CRCERR` (R415, R436). -/
def State.countLost (s : State) (pkg n : Nat) : State := s.modPort pkg n (fun q => { q with crcerr := bump16 q.crcerr })

/-- A port enters a state. -/
def State.portTo (s : State) (pkg n : Nat) (st : PortState) : State :=
  s.modPort pkg n (fun p => { p with state := st, since := s.cycle })

/-- A credit comes back to the place that it was spent from (R410). -/
def Port.creditBack (q : Port) (b : InBuf) : Port :=
  if b.pool then { q with poolUsed := q.poolUsed - 1 }
  else { q with rsvUsed := tset q.rsvUsed (b.cls, b.vc) (tget q.rsvUsed (b.cls, b.vc) 0 - 1) }

/-- The buffer that a flit took up is free: its credit goes back to the port at the other end of the link (log 54). -/
def State.freeInput (s : State) (pkg : Nat) (b : Option InBuf) : State :=
  match b with
  | none => s
  | some b => s.modPort (s.peerOf pkg b.port).1 (s.peerOf pkg b.port).2 (fun q => q.creditBack b)

/-! ## Output arbitration (R410, R411) -/

/-- Whether a credit for a flit is there: of the shared pool, else of its virtual channel's reserve. -/
def Port.hasCredit (q : Port) (f : Flit) : Bool := q.poolUsed < 256 || tget q.rsvUsed (f.cls, f.vc) 0 < 4

/-- Whether a flit is a management-class message of attestation: of class 0, and of no type that R409 names for another use (R401;
log 80). -/
def Flit.attests (f : Flit) : Bool := f.cls = 0 && f.msgType ∉ [12, 13, 16]

/-- Whether a port carries a flit: an UP one every flit, a QUARANTINED one only those of attestation (R407). -/
def Port.carries (q : Port) (f : Flit) : Bool := q.state = .up || q.state = .quarantined && f.attests

/-- The flit of a class that the output can send: the first that waits, where its credit is there. -/
def Port.ready (q : Port) (c : Nat) : Option QFlit :=
  (q.outq.find? (fun x => Flit.cls x.flit = c && q.carries x.flit)).filter (fun x => q.hasCredit x.flit)

/-- The flit that leaves in a link slot (R411): of the highest class, but class 0 takes at most 1 slot in 8, and a class that has waited
while 255 flits of higher classes left goes first. -/
def Port.choose (q : Port) (slot : Nat) : Option QFlit :=
  if 256 ≤ q.replay.length then none
  else
    let free := match q.last0 with
      | none => true
      | some t => decide (t + 8 ≤ slot)
    let can := (List.range 4).filter (fun c => (q.ready c).isSome && (c ≠ 0 || free))
    ((can.find? (fun c => 255 ≤ tget q.starve c 0)).orElse (fun _ => can.head?)).bind q.ready

/-- A flit leaves: it spends a credit and is kept in the replay buffer (R410). -/
def Port.launch (q : Port) (x : QFlit) (slot : Nat) : Port × Flit :=
  let pool := decide (q.poolUsed < 256)
  let f : Flit := x.flit
  let g := (f.put 41 1 (bit pool)).seal q.sendSeq q.ackSeq
  let rest := q.outq.erase x
  let key := (f.cls, f.vc)
  ({ q with
      outq := rest, replay := q.replay ++ [g], sendSeq := q.sendSeq + 1,
      poolUsed := if pool then q.poolUsed + 1 else q.poolUsed,
      rsvUsed := if pool then q.rsvUsed else tset q.rsvUsed key (tget q.rsvUsed key 0 + 1),
      last0 := if f.cls = 0 then some slot else q.last0,
      starve := (List.range 4).map (fun c =>
        (c, if f.cls < c && rest.any (fun y => Flit.cls y.flit = c) then tget q.starve c 0 + 1 else 0)) }, g)

/-- The longest time that ordered flits wait in a package, and the time after which those sent on an old way have left the fabric
(R411, R417). -/
def residency : Nat := 24 * usec / 10
@[inherit_doc residency] def flushed : Nat := 72 * usec / 10

/-- An ordered flit has left on the old port of a destination whose flits are held: the hold lasts 7.2 µs more (R417). -/
def State.leftOld (s : State) (pkg : Nat) (f : Flit) : State :=
  match (s.pkg pkg).resolve f.dpkg with
  | none => s
  | some dst =>
    if f.ordered && (s.pkg pkg).holds.any (fun h => h.1 = dst) then
      let s := s.modPkg pkg (fun p => { p with holds := p.holds.map (fun h => if h.1 = dst then (dst, s.cycle + flushed) else h) })
      match (s.pkg pkg).outPort pkg dst with
      | some n => s.schedule (s.cycle + flushed) priLate (.flipHoldRelease pkg n)
      | none => s
    else s

/-- One link slot of a port. -/
def State.linkSlot (s : State) (pkg n slot : Nat) : State :=
  let q := (s.pkg pkg).port n
  match q.choose slot with
  | none => s
  | some x =>
    let r := q.launch x slot
    let peer := s.peerOf pkg n
    (((s.modPort pkg n (fun _ => r.1)).schedule (s.cycle + 144) priLate (.flitReceive peer.1 peer.2 r.2)).freeInput pkg x.input).leftOld
      pkg x.flit

/-- The link slots of a cycle: a flit takes 0.4 ns of a link (R438), so 25 slots make 8 cycles. -/
def linkSlots (cycle : Nat) : List Nat :=
  (List.range (25 * (cycle + 1) / 8 - 25 * cycle / 8)).map (fun j => 25 * cycle / 8 + j)

/-- A port sends: first what the peer has asked for again (R410), then what waits. -/
def State.sendPort (s : State) (pkg n : Nat) : State :=
  let q := (s.pkg pkg).port n
  let peer := s.peerOf pkg n
  let s := if q.again then
      q.replay.foldl (fun s f => s.schedule (s.cycle + 144) priLate (.flitReceive peer.1 peer.2 f))
        (s.modPort pkg n (fun q => { q with again := false }))
    else s
  (linkSlots s.cycle).foldl (fun s slot => s.linkSlot pkg n slot) s

/-! ## The package rings (R378–R381) -/

/-- The lap of a ring from a stop, as its segments. -/
def ringLap (ring a : Nat) : List Nat := (List.range 8).map (fun j => if ring = 0 then (a + j) % 8 else (a + 15 - j) % 8)

/-- Whether a flit that ends its path at the cycle `due` is on a segment in a cycle: it crosses each in 16. -/
def onSegment (path : List Nat) (due now seg : Nat) : Bool :=
  path.zipIdx.any (fun g => g.1 = seg && due ≤ now + 16 * (path.length - g.2) && now + 16 * (path.length - g.2 - 1) < due)

/-- The path that a flit of the agenda is on, where it is one of a ring of the package. -/
def Event.onRing (pkg ring : Nat) : Event → Option (RingFlit × List Nat)
  | .ringFlitArrival p f => if p = pkg ∧ f.ring = ring then some (f, ringPath ring f.src f.dst) else none
  | .ringFlitReoffer p f => if p = pkg ∧ f.ring = ring then some (f, ringLap ring f.dst) else none
  | _ => none

/-- The flits on a segment of a ring. -/
def State.segmentLoad (s : State) (pkg ring seg : Nat) : Nat :=
  (s.agenda.filter (fun e => match e.ev.onRing pkg ring with
    | some g => onSegment g.2 e.cycle s.cycle seg
    | none => false)).length

/-- The flit slots of a segment: 20 ns at 1.6 TB/s of flit payload, of which a flit holds 64 bytes (R378, R409). -/
def segmentSlots : Nat := 500

/-- The ring of a flit (R379): a management or bulk flit for the opposite die takes the ring whose first segment has more free
slots. -/
def State.ringPick (s : State) (pkg cls a b : Nat) : Nat :=
  let p := s.pkg pkg
  if (cls = 0 ∨ cls = 3) ∧ (b + 8 - a) % 8 = 4 ∧ p.ringOk 0 a b ∧ p.ringOk 1 a b then
    if s.segmentLoad pkg 1 ((ringPath 1 a b).headD 0) < s.segmentLoad pkg 0 ((ringPath 0 a b).headD 0) then 1 else 0
  else p.ringFor a b

/-- A waiting flit injected where its ring has a free slot and, in an ordered or stream class, a credit of the destination stop (R380,
R381); else it waits on. -/
def State.injectRing (s : State) (pkg : Nat) (w : RingFlit × Option InBuf) : State :=
  let f := w.1
  let ring := s.ringPick pkg f.cls f.src f.dst
  let g := { f with ring := ring }
  let key := (f.src, f.dst, f.cls)
  let paid := f.cls = 1 || f.cls = 2
  let used := tget (s.pkg pkg).ringUsed key 0
  if (paid && 16 ≤ used) || segmentSlots ≤ s.segmentLoad pkg ring ((ringPath ring f.src f.dst).headD 0) then
    s.modPkg pkg (fun p => { p with ringOut := p.ringOut ++ [w] })
  else
    let s := if paid then s.modPkg pkg (fun p => { p with ringUsed := tset p.ringUsed key (used + 1) }) else s
    (s.schedule (s.cycle + 16 * (ringPath ring f.src f.dst).length) priLate (.ringFlitArrival pkg g)).freeInput pkg w.2

/-- The stops of a package inject what waits, in class order and within a class in the order received. -/
def State.pumpRing (s : State) (pkg : Nat) : State :=
  let out := (s.pkg pkg).ringOut
  ((List.range 4).flatMap (fun c => out.filter (fun w => w.1.cls = c))).foldl (fun s w => s.injectRing pkg w)
    (s.modPkg pkg (fun p => { p with ringOut := [] }))

/-- A flit handed to the ring at a stop. -/
def State.ringSend (s : State) (pkg a b : Nat) (f : Flit) (buf : Option InBuf) : State :=
  let w : RingFlit := { src := a, dst := b, ring := 0, cls := f.cls, data := f, refused := 0 }
  (s.modPkg pkg (fun p => { p with ringOut := p.ringOut ++ [(w, buf)] })).pumpRing pkg

/-- The links and the rings of every package send what waits. -/
def State.pumpLinks (s : State) : State :=
  s.pkgs.foldl (fun s e =>
    let s := if e.2.ringOut = [] then s else s.pumpRing e.1
    (e.2.ports.filter (fun q => q.2.again || q.2.outq ≠ [])).foldl (fun s q => s.sendPort e.1 q.1) s) s

/-! ## Routing (R413–R418) -/

/-- Whether a package is frozen towards a position, so that nothing is injected to it (R434, R436). -/
def Pkg.holdsTo (p : Pkg) (dst : Nat) : Bool := p.frozen = some dst

/-- A message type that asks for an answer: a read, a write, an atomic, a token request. -/
def isRequest (t : Nat) : Bool := t = 1 || t = 3 || t = 5 || t = 8

/-- Whether a flit is a request. -/
def Flit.asks (f : Flit) : Bool := f.cls ≠ 2 && isRequest f.msgType

/-- The reject that answers a request (R409 type 16): back to its source, with the request's tag. -/
def Flit.reject (f : Flit) (p : Pkg) : Flit :=
  let h := wbits f.header 10 14 * 2 ^ 50 + 1 * 2 ^ 45 + 2 ^ 41 + 2 ^ 40 + wbits p.pkey 0 16 * 2 ^ 24
    + wbits p.fabid 50 14 * 2 ^ 10
  BitVec.ofNat 640 (h + (16 + bitsAt f.toNat 80 16 * 2 ^ 16) * 2 ^ 64)

/-- The output for a flit at a package: its port, `none` where it is delivered here, or no way. -/
inductive FlitWay where
  | deliver
  | out (port dst : Nat)
  | drop
  deriving DecidableEq, Repr

/-- The way of a flit, and the flit with `ADPT` cleared where its intermediate hall is reached (R413, R414). -/
def Pkg.way (p : Pkg) (here : Nat) (f : Flit) : FlitWay × Flit :=
  let f := if wbits f.header 9 1 = 1 ∧ wbits f.header 0 9 = here / 32 then f.put 9 1 0 else f
  match p.resolve f.dpkg with
  | none => (.drop, f)
  | some dst =>
    if dst = here then (.deliver, f)
    else
      match (if wbits f.header 9 1 = 1 then p.entryPort f.cls (tget p.strt (p.rtAct, wbits f.header 0 9) 0)
             else p.outPortOf f.cls here dst) with
      | some n => (.out n dst, f)
      | none => (.drop, f)

/-- The port of a stage that a packet at a die is for (R40, R46): the slot of its `DST` and the input `DPORT`; at a merge port the
channel of its `SRC` and `SPORT`. -/
def State.portFor (s : State) (d : DieId) (k : Packet) : Option PortId :=
  let stage := fun (i : SlotId) => (s.ctx (.stage i)).stageId.toNat
  (((s.slots.map (·.1)).find? (fun i => i.core.die = d && stage i = wbits k.w1 0 24))).map (fun i =>
    let port := wbits k.w1 24 3
    let chans := match tfind (s.slot i).ins port with
      | some q => q.chans
      | none => []
    { slot := i, port := port,
      chan := (chans.findIdx? (fun c => stage c.src = wbits k.w0 32 24 && c.port = wbits k.w0 25 3)).getD 0 })

/-- A flit of a stream packet at its die: with the last one the packet is whole, and arrives at its port (R409). -/
def State.streamFlit (s : State) (pkg die : Nat) (f : Flit) : State :=
  let fs := tget (s.pkg pkg).streams (die, f.spkg) [] ++ [f]
  if !f.last then s.modPkg pkg (fun p => { p with streams := tset p.streams (die, f.spkg) fs })
  else
    let s := s.modPkg pkg (fun p => { p with streams := tdel p.streams (die, f.spkg) })
    match s.portFor { pkg := pkg, die := die } (flitsPacket fs) with
    | some dst => s.schedule s.cycle priLate (.packetArrival dst (flitsPacket fs))
    | none => s

/-- The request of a die that a reject names by its tag (R409). -/
def State.taggedReq (s : State) (d : DieId) (tag : Nat) : Option MemReq :=
  s.reqs.find? (fun q => q.space = 3 && !q.performed && dieOf q.own = d && q.id % 2 ^ 16 = tag)

/-- A flit at the die that it is for: part of a stream packet, a reject, or a message whose layout the spec does not give, which the
die's inbox keeps (log 52). -/
def State.deliver (s : State) (pkg die : Nat) (f : Flit) : State :=
  if f.cls = 2 then s.streamFlit pkg die f
  else
    let keep := s.modPkg pkg (fun p => { p with inbox := p.inbox ++ [(die, f)] })
    if f.msgType ≠ 16 then keep
    else match s.taggedReq { pkg := pkg, die := die } (bitsAt f.toNat 80 16) with
      | some q => s.schedule s.cycle priLate (.fabricReject q.id)
      | none => keep

/-- A flit held at a port. -/
def State.holdFlit (s : State) (pkg n : Nat) (x : QFlit) : State := s.modPort pkg n (fun q => { q with held := q.held ++ [x] })

/-- Whether ordered flits for a destination are held at a package (R417, R418). -/
def Pkg.isHeld (p : Pkg) (now dst : Nat) : Bool := p.holds.any (fun h => h.1 = dst && now < h.2)

/-- A flit at a die of a package goes on: over the ring to its die or to the die of its port, and into that port's queue. Until the
package has flipped, a flit for the failed number is held, or dropped and counted (R436); an ordered flit for a destination that a flip
or a failure holds is held (R417, R418). One that has no way is dropped. -/
def State.goFlit (s : State) (pkg die : Nat) (x : QFlit) : State :=
  let p := s.pkg pkg
  match p.way pkg x.flit with
  | (.deliver, f) =>
    if f.ddie = die then (s.deliver pkg die f).freeInput pkg x.input else s.ringSend pkg die f.ddie f x.input
  | (.drop, _) => s.freeInput pkg x.input
  | (.out n dst, f) =>
    let y : QFlit := { flit := f, input := x.input }
    if p.heldNo = some f.dpkg then
      (if f.ordered then s.holdFlit pkg n y else (s.countLost pkg n).freeInput pkg x.input)
    else if f.ordered && p.isHeld s.cycle dst then s.holdFlit pkg n y
    else if n / 8 = die then s.modPort pkg n (fun q => { q with outq := q.outq ++ [y] })
    else s.ringSend pkg die (n / 8) f x.input

/-- A flit goes on; a request that has no way is answered with a reject (R413). -/
def State.moveFlit (s : State) (pkg die : Nat) (x : QFlit) : State :=
  let p := s.pkg pkg
  let t := s.goFlit pkg die x
  if (p.way pkg x.flit).1 = .drop ∧ Flit.asks x.flit then
    t.goFlit pkg die { flit := (Flit.reject x.flit p).put 42 3 0, input := none }
  else t

/-- The ordered flits for some destinations that are on the package ring, or wait for it, on the way to their old port: they are held
with the others, before any that comes later (R417, R418, R436). -/
def State.pullRing (s : State) (pkg : Nat) (sel : Flit → Bool) : State :=
  let mine := fun (f : RingFlit) => Flit.ordered f.data && sel f.data && match ((s.pkg pkg).way pkg f.data).1 with
    | .out _ _ => true
    | .deliver => false
    | .drop => false
  let onRing := s.agenda.filterMap (fun e => match e.ev with
    | .ringFlitArrival p f => if p = pkg ∧ mine f then some f else none
    | _ => none)
  let waits := (s.pkg pkg).ringOut.filter (fun w => mine w.1)
  let s := { s with agenda := s.agenda.filter (fun e => match e.ev with
    | .ringFlitArrival p f => !(p = pkg && mine f)
    | _ => true) }
  let s := s.modPkg pkg (fun p => { p with
    ringOut := p.ringOut.filter (fun w => !mine w.1),
    ringUsed := onRing.foldl (fun t f => tset t (f.src, f.dst, f.cls) (tget t (f.src, f.dst, f.cls) 0 - 1)) p.ringUsed })
  let s := onRing.foldl (fun s f => s.moveFlit pkg f.src { flit := f.data, input := none }) s
  waits.foldl (fun s w => s.moveFlit pkg w.1.src { flit := w.1.data, input := w.2 }) s

/-- A flit made at a die of a package: its hop index is 0 (R415). -/
def State.routeFlit (s : State) (pkg die : Nat) (f : Flit) : State := s.moveFlit pkg die { flit := f.put 42 3 0, input := none }

/-- The flits held at a port go on by the tables; those still to be held are held again. -/
def State.releasePort (s : State) (pkg n : Nat) : State :=
  let held := ((s.pkg pkg).port n).held
  held.foldl (fun s x => s.moveFlit pkg (n / 8) x) (s.modPort pkg n (fun q => { q with held := [] }))

/-- The positions that some entry of a package's tables names. -/
def Pkg.places (p : Pkg) (here : Nat) : List Nat :=
  let halls := p.hallrt.map (fun e => here / 32 * 32 + e.1.2)
  let straits := p.strt.flatMap (fun e => (List.range 32).map (fun j => e.1.2 * 32 + j))
  let named := p.posmap.filterMap (fun e => if e.2.getLsbD 63 then some (wbits e.2 54 9 * 32 + wbits e.2 49 5) else none)
  (halls ++ straits ++ named).dedup

/-- The destinations whose output port a flip changes (R417): by a route entry, or by the position of a logical number. -/
def Pkg.moved (p : Pkg) (here : Nat) : List Nat :=
  let q := { p with rtAct := !p.rtAct }
  let shifted := (p.posmap.map (·.1.2)).filterMap (fun n =>
    if (p.resolve n).bind (p.outPort here) ≠ (q.resolve n).bind (q.outPort here) then q.resolve n else none)
  ((p.places here).filter (fun dst => p.outPort here dst ≠ q.outPort here dst) ++ shifted).dedup

/-- Whether ordered flits for a position wait in a port's queue. -/
def Pkg.queues (p : Pkg) (dst n : Nat) : Bool :=
  (p.port n).outq.any (fun x => Flit.ordered x.flit && p.resolve (Flit.dpkg x.flit) = some dst)

/-- Until when a flip or a link's failure holds the ordered flits for a destination (R417): 7.2 µs, and as much longer as flits for it
may still wait for their old port. -/
def Pkg.holdEnd (p : Pkg) (now here dst : Nat) : Nat :=
  match p.outPort here dst with
  | some n => if (p.port n).state = .up && p.queues dst n then now + residency + flushed else now + flushed
  | none => now + flushed

/-- The flits that wait for a port which is not UP, and those that are held, are routed again. -/
def State.reroute (s : State) (pkg : Nat) : State :=
  (s.pkg pkg).ports.foldl (fun (s : State) (e : Nat × Port) =>
    let s := s.releasePort pkg e.1
    if e.2.state = .up then s
    else e.2.outq.foldl (fun s x => s.moveFlit pkg (e.1 / 8) x) (s.modPort pkg e.1 (fun q => { q with outq := [] }))) s

/-- A flip (R417): every bank is exchanged, the ordered flits for destinations whose port has changed are held, and what was held for
the failed number goes on (R436). -/
def State.flip (s : State) (pkg : Nat) : State :=
  let p := s.pkg pkg
  let moved := p.moved pkg
  let q := { p with rtAct := !p.rtAct }
  let s := s.modPkg pkg (fun p => { p with
    rtAct := !p.rtAct, heldNo := none, rtBusy := moved ≠ [] || p.holds ≠ [],
    holds := p.holds.filter (fun h => h.1 ∉ moved) ++ moved.map (fun d => (d, p.holdEnd s.cycle pkg d)) })
  let s := s.packageEvent pkg 0x44 (bit (s.pkg pkg).rtAct) 0
  let s := moved.foldl (fun s d => match q.outPort pkg d with
    | some n => s.schedule (p.holdEnd s.cycle pkg d) priLate (.flipHoldRelease pkg n)
    | none => s) s
  let goes := fun (f : Flit) => match (s.pkg pkg).resolve f.dpkg with
    | some dst => dst ∈ moved
    | none => false
  ((s.pullRing pkg goes).reroute pkg).retryFlits

/-- `ROUTING_FLIP` (R417). -/
def execRoutingFlip (pkg : Nat) (s : State) : Out := .next (s.flip pkg)

/-- `FLIP_HOLD_RELEASE` (R417): the holds that are over end, and `BUSY` falls with the last one; the held flits of the port go
on. -/
def execFlipHoldRelease (pkg port : Nat) (s : State) : Out :=
  let s := s.modPkg pkg (fun p =>
    let holds := p.holds.filter (fun h => s.cycle < h.2)
    { p with holds := holds, rtBusy := holds ≠ [] })
  .next (s.releasePort pkg port).retryFlits

/-! ## Failure notices (R419) -/

/-- A failure notice: forwarded once on every UP port, raised as event 0x43, and recorded for the host at a landing (R419). -/
def State.notice (s : State) (pkg : Nat) (n : Notice) (own : Bool) : State :=
  let p := s.pkg pkg
  if (n.origin, n.num) ∈ p.notices then s
  else
    let s := s.modPkg pkg (fun p => { p with
      notices := p.notices ++ [(n.origin, n.num)],
      cxlLog := if wbits p.fabid 34 2 = 2 then p.cxlLog ++ [eventRec 0x43 0 none n.port (s.pkg n.failed).lpkg] else p.cxlLog })
    let s := (p.ports.filter (fun e => e.2.state = .up && !e.2.host)).foldl (fun s e =>
      s.schedule (s.cycle + 144) priLate (.failureNotice (s.peerOf pkg e.1).1 n)) s
    if own then s else s.packageEvent pkg 0x43 n.port (s.pkg n.failed).lpkg

/-- `FAILURE_NOTICE` (R419). -/
def execFailureNotice (pkg : Nat) (n : Notice) (s : State) : Out := .next (s.notice pkg n false)

/-- A package floods a notice about a port, or about a failed package (R419, R434). -/
def State.flood (s : State) (pkg failed port peer : Nat) : State :=
  let num := (s.pkg pkg).noticeNo + 1
  (s.modPkg pkg (fun p => { p with noticeNo := num })).notice pkg
    { origin := pkg, num := num, failed := failed, port := port, peer := peer } true

/-! ## Attestation (R401) -/

/-- The bytes of a report that are signed. -/
def Pkg.reportBody (p : Pkg) (pkg : Nat) (nonce : BitVec 384) (mask : BitVec 16) : List Byte :=
  leBytes 4 0x31524141 ++ leBytes 2 1 ++ leBytes 2 mask.toNat ++ leBytes 8 (Config.serial pkg).toNat
    ++ leBytes 4 p.svn.toNat ++ leBytes 12 0 ++ beBytes 48 nonce.toNat
    ++ ((List.range 16).filter mask.getLsbD).flatMap (fun n => beBytes 48 (p.meas.toList.getD n 0).toNat)

/-- The signature of a package's attestation key over the SHA-384 of some bytes: r, then s (log 11). -/
def signBytes (pkg : Nat) (bs : List Byte) : BitVec 768 :=
  let h := sha384 bs
  let g := ecSign (Config.attestKey pkg) h.toNat (Config.signSecret pkg h)
  BitVec.ofNat 768 (g.1 * 2 ^ 384 + g.2)

/-- An attestation report. -/
def Pkg.report (p : Pkg) (pkg : Nat) (nonce : BitVec 384) (mask : BitVec 16) : List Byte :=
  let body := p.reportBody pkg nonce mask
  body ++ beBytes 96 (signBytes pkg body).toNat

/-! ## Link states (R407, R408) -/

/-- A port in fabric mode that is DOWN and enabled trains; in recovery none does (R386, R399, R407). -/
def State.train (s : State) (pkg port : Nat) : State :=
  let q := (s.pkg pkg).port port
  if q.state = .down ∧ q.en ∧ !q.hostMode ∧ !(s.pkg pkg).recovery then
    (s.portTo pkg port .train).schedule (s.cycle + 100 * msec) priLate (.linkTrainTimeout pkg port)
  else s

/-- Whether a port has been in a state for a time. -/
def Port.stayed (q : Port) (st : PortState) (now n : Nat) : Bool := q.state = st && q.since + n ≤ now

/-- A port goes DOWN, and on to TRAIN where `EN` is 1: `EN` changes only as it is written (R407). -/
def State.portDown (s : State) (pkg port : Nat) : State := (s.portTo pkg port .down).train pkg port

/-- `LINK_ENABLE` (R407): `EN` written 1; a quarantined port, or one that has been FAILED for its time, goes to DOWN. -/
def execLinkEnable (pkg port : Nat) (s : State) : Out :=
  let q := (s.pkg pkg).port port
  let s := s.modPort pkg port (fun q => { q with en := true })
  .next (if !q.en ∧ (q.state = .quarantined ∨ q.stayed .failed s.cycle msec) then s.portDown pkg port else s.train pkg port)

/-- The port at the other end of a port's wires (R406). -/
def wiredTo (pkg port : Nat) : Nat × Nat :=
  if port < 31 then
    let i := pkg % 32
    let j := (i + port + 1) % 32
    (pkg / 32 * 32 + j, (i + 32 - j + 31) % 32)
  else Config.strait pkg port

/-- The negotiation message of a port: its report is made over the nonce that the peer supplied (R408). -/
def State.negMsg (s : State) (pkg port : Nat) (nonce : BitVec 384) : NegMsg :=
  let p := s.pkg pkg
  let body := p.reportBody pkg nonce 0x1F
  { hostMode := (p.port port).hostMode, serial := Config.serial pkg, lpkg := p.lpkg, hall := wbits p.fabid 41 9,
    idx := wbits p.fabid 36 5, port := port, pkey := BitVec.ofNat 16 p.pkey.toNat, report := body, sig := signBytes pkg body }

/-- A port sends its negotiation message to the other end of the link. -/
def State.sendNeg (s : State) (pkg port : Nat) : State :=
  let w := wiredTo pkg port
  s.schedule (s.cycle + 144) priLate (.negotiationMessage w.1 w.2 (s.negMsg pkg port ((s.pkg w.1).port w.2).nonce))

/-- `LINK_TRAIN_LOCK` (R407, R408): the port supplies a nonce; once both ends negotiate, each sends its message. -/
def execLinkTrainLock (pkg port : Nat) (s : State) : Out :=
  if ((s.pkg pkg).port port).state ≠ .train then .fault .noSuchItem
  else
    let s' := (s.portTo pkg port .negotiate).modPort pkg port (fun q =>
      { q with trainFails := 0, nonce := Config.linkNonce s.freeNo })
    let s' := (s'.schedule (s.cycle + 10 * msec) priLate (.negotiateTimeout pkg port)).nextFree
    let w := wiredTo pkg port
    .next (if ((s'.pkg w.1).port w.2).state = .negotiate then (s'.sendNeg pkg port).sendNeg w.1 w.2 else s')

/-- `LINK_TRAIN_TIMEOUT` (R407): the third failure in a row sends the port to FAILED with `EN` 0. -/
def execLinkTrainTimeout (pkg port : Nat) (s : State) : Out :=
  let q := (s.pkg pkg).port port
  if !q.stayed .train s.cycle (100 * msec) then .next s
  else if 2 ≤ q.trainFails then
    .next (((s.portTo pkg port .failed).modPort pkg port (fun q => { q with en := false, trainFails := 0 })).schedule
      (s.cycle + msec) priLate (.linkFailedTimer pkg port))
  else .next ((s.modPort pkg port (fun q => { q with trainFails := q.trainFails + 1 })).portDown pkg port)

/-- The registers that the report of a negotiation message holds. -/
def negMeas (m : NegMsg) : List (BitVec 384) :=
  (List.range 5).map (fun n => BitVec.ofNat 384 (beNat ((m.report.drop (80 + 48 * n)).take 48)))

/-- Whether the report of a message has its layout: of that serial number, over that nonce, of `MEAS0` to `MEAS4` (R401, R408). -/
def negMade (m : NegMsg) (nonce : BitVec 384) : Bool :=
  m.report.length = 320 && m.report.take 8 = leBytes 4 0x31524141 ++ leBytes 2 1 ++ leBytes 2 0x1F &&
    (m.report.drop 8).take 8 = leBytes 8 m.serial.toNat && (m.report.drop 32).take 48 = beBytes 48 nonce.toNat

/-- Whether the signature of a message's report verifies with the key that the sender's chain certifies. -/
def negChain (m : NegMsg) : Bool :=
  match Config.chainKey m.serial with
  | none => false
  | some key => ecVerify key (sha384 m.report).toNat (m.sig.toNat / 2 ^ 384) (m.sig.toNat % 2 ^ 384)

/-- The attestation of a negotiation message holds: its report is made over the nonce supplied, its chain verifies, and its registers are
the expected ones (R408). -/
def attested (pkg : Nat) (nonce : BitVec 384) (m : NegMsg) : Bool :=
  negMade m nonce && negChain m && negMeas m = Config.expectedMeas pkg

/-- The link of a port as its exchange leaves it: nothing has been sent or received, so that no number is acknowledged (R410). -/
def Port.opened (q : Port) (m : NegMsg) : Port :=
  { q with peer := m.hall * 32 + m.idx, peerNo := m.lpkg, pport := m.port, expectSeq := 0, sendSeq := 0, ackSeq := 0xFFF,
           askReplay := false, again := false, poolUsed := 0, rsvUsed := [], last0 := none, starve := [], replay := [] }

/-- `NEGOTIATION_MESSAGE` (R408): the same mode and a good attestation bring the link UP; else it is quarantined. -/
def execNegotiationMessage (pkg port : Nat) (m : NegMsg) (s : State) : Out :=
  let q := (s.pkg pkg).port port
  if q.state ≠ .negotiate then .fault .noSuchItem
  else if m.hostMode = q.hostMode ∧ attested pkg q.nonce m then
    let s := (s.portTo pkg port .up).modPort pkg port (fun q => q.opened m)
    .next (s.packageEvent pkg 0x41 port m.lpkg).retryFlits
  else .next (((s.portTo pkg port .quarantined).modPort pkg port (fun q => q.opened m)).packageEvent pkg 0x4A port m.lpkg)

/-- `NEGOTIATE_TIMEOUT` (R407). -/
def execNegotiateTimeout (pkg port : Nat) (s : State) : Out :=
  if ((s.pkg pkg).port port).stayed .negotiate s.cycle (10 * msec) then
    .next (s.portDown pkg port)
  else .next s

/-- The flits that a link carried towards a port are lost with it (R418). -/
def State.cutLink (s : State) (pkg port : Nat) : State :=
  { s with agenda := s.agenda.filter (fun e => match e.ev with
      | .flitReceive p n _ => !(p = pkg && n = port)
      | _ => true) }

/-- The destinations that a failed port was the way to (R418). -/
def Pkg.via (p : Pkg) (here port : Nat) : List Nat :=
  (p.places here).filter (fun dst => dst ≠ here && p.outPort here dst = some port)

/-- A link leaves UP (R407, R418, R419): the port is FAILED, a notice is flooded, the ordered flits for the destinations that it led to
are held as by a flip, and the flits that were not acknowledged are sent again on the way that the tables give, in their order. -/
def State.linkFails (s : State) (pkg port : Nat) : State :=
  let p := s.pkg pkg
  let q := p.port port
  let again := q.replay.map (fun f => ({ flit := f, input := none } : QFlit)) ++ q.outq
  let stop := s.cycle + residency + flushed
  let lost := p.via pkg port
  let s := (s.portTo pkg port .failed).modPort pkg port (fun q =>
    { q with replay := [], outq := [], poolUsed := 0, rsvUsed := [], again := false })
  let s := s.cutLink (s.peerOf pkg port).1 (s.peerOf pkg port).2
  let s := (s.packageEvent pkg 0x40 port q.peerNo).flood pkg pkg port (s.peerOf pkg port).1
  let s := s.modPkg pkg (fun p => { p with
    rtBusy := p.rtBusy || lost ≠ [], holds := p.holds.filter (fun h => h.1 ∉ lost) ++ lost.map (fun d => (d, stop)) })
  let s := again.foldl (fun s x => s.moveFlit pkg (port / 8) x) s
  let goes := fun (f : Flit) => match (s.pkg pkg).resolve f.dpkg with
    | some dst => dst ∈ lost
    | none => false
  let s := s.pullRing pkg goes
  (s.schedule stop priLate (.flipHoldRelease pkg port)).schedule (s.cycle + msec) priLate (.linkFailedTimer pkg port)

/-- `LINK_FAILED_TIMER` (R407). -/
def execLinkFailedTimer (pkg port : Nat) (s : State) : Out :=
  let q := (s.pkg pkg).port port
  if q.stayed .failed s.cycle msec && q.en then
    .next (s.portDown pkg port)
  else .next s

/-! ## Receiving (R410, R416) -/

/-- What an acknowledgement frees: every flit up to the number it names. -/
def Port.acked (q : Port) (ack : BitVec 12) : Port :=
  let done := fun (f : Flit) => (ack - BitVec.ofNat 12 (wbits f.trailer 20 12)).toNat < 2048
  { q with replay := q.replay.dropWhile done }

/-- Whether a delivered flit is checked against the partition key: boot flits and failure notices are not (R416). -/
def Flit.keyed (f : Flit) : Bool := f.cls = 2 || !(f.msgType = 12 || f.msgType = 13)

/-- A flit of another partition is dropped, counted and reported, and a request is answered with a reject (R416). -/
def State.keyDrop (s : State) (pkg port : Nat) (f : Flit) : State :=
  let t := s.dropAt pkg port f.spkg
  if f.asks then t.routeFlit pkg (port / 8) (f.reject (s.pkg pkg)) else t

/-- A flit that a link has delivered goes on its way (R413, R416). A flit without a valid entry is dropped, and a request is
answered with a reject. A hop raises `VC`, and a flit that would pass 4 is dropped and counted (R415). -/
def State.takeFlit (s : State) (pkg port : Nat) (f : Flit) : State :=
  let p := s.pkg pkg
  let buf := some (f.buf port)
  match p.way pkg f with
  | (.deliver, g) =>
    if p.pkey.getLsbD 16 && f.keyed && wbits f.header 24 16 ≠ wbits p.pkey 0 16 then (s.keyDrop pkg port f).freeInput pkg buf
    else s.moveFlit pkg (port / 8) { flit := g, input := buf }
  | (.drop, _) => s.moveFlit pkg (port / 8) { flit := f, input := buf }
  | (.out n _, g) =>
    if 4 ≤ f.vc then (s.countLost pkg n).freeInput pkg buf
    else s.moveFlit pkg (port / 8) { flit := g.put 42 3 (f.vc + 1), input := buf }

/-- The receiver asks the sender for its replay buffer (R410). -/
def State.askAgain (s : State) (pkg port : Nat) : State :=
  let peer := s.peerOf pkg port
  (s.modPort pkg port (fun q => { q with askReplay := true })).modPort peer.1 peer.2 (fun q => { q with again := q.state = .up || q.state = .quarantined })

/-- A flit with another number than the one expected is discarded: one that follows it asks for replay, once until the expected flit
comes; one that came before has been replayed twice (R410). -/
def State.outOfTurn (s : State) (pkg port : Nat) (sq : BitVec 12) : State :=
  let q := (s.pkg pkg).port port
  if q.askReplay || 2048 ≤ (sq - q.expectSeq).toNat then s else s.askAgain pkg port

/-- `FLIT_RECEIVE` (R407, R410): a flit that fails its CRC, a replayed one too, is discarded and replay is asked for; so it is where a flit was
skipped; the flit
expected is acknowledged (log 54) and goes on. -/
def execFlitReceive (pkg port : Nat) (f : BitVec 640) (s : State) : Out :=
  let q := (s.pkg pkg).port port
  let sq := wbits (Flit.trailer f) 20 12
  if !q.carries f then .fault .noSuchItem
  else if wbits (Flit.trailer f) 32 32 ≠ Flit.crc f then .next ((s.countLost pkg port).askAgain pkg port)
  else if sq ≠ q.expectSeq.toNat then .next (s.outOfTurn pkg port (BitVec.ofNat 12 sq))
  else
    let peer := s.peerOf pkg port
    let s := (s.modPort peer.1 peer.2 (fun q => q.acked (BitVec.ofNat 12 sq))).modPort pkg port (fun q => ({ q with
      expectSeq := q.expectSeq + 1, ackSeq := q.expectSeq, askReplay := false }).acked
        (BitVec.ofNat 12 (wbits (Flit.trailer f) 8 12)))
    .next (s.takeFlit pkg port f)

/-! ## Ring stops (R380–R382) -/

/-- A flit that its stop has taken: its credit goes back (R380), and it goes on from there: into the queue of a port of this die, over the
ring again, or to the die. -/
def State.ringTake (s : State) (pkg : Nat) (f : RingFlit) : State :=
  let key := (f.src, f.dst, f.cls)
  let s := s.modPkg pkg (fun p => { p with
    reserved := p.reserved.filter (· ≠ f),
    ringUsed := if f.cls = 1 ∨ f.cls = 2 then tset p.ringUsed key (tget p.ringUsed key 0 - 1) else p.ringUsed })
  match ((s.pkg pkg).way pkg f.data).1 with
  | .deliver => s.deliver pkg f.dst f.data
  | .out _ _ => s.moveFlit pkg f.dst { flit := f.data, input := none }
  | .drop => s.moveFlit pkg f.dst { flit := f.data, input := none }

/-- `RING_FLIT_ARRIVAL` (R380, R381): ordered flits are never refused; a management or bulk flit that finds its buffer full
laps the ring, and the stop reserves a buffer for one refused four times. -/
def execRingFlitArrival (pkg : Nat) (f : RingFlit) (s : State) : Out :=
  if f.cls = 1 ∨ f.cls = 2 ∨ f ∈ (s.pkg pkg).reserved then .next (s.ringTake pkg f)
  else
    let s' := s.nextFree
    if !Config.ringFull s.freeNo then .next (s'.ringTake pkg f)
    else
      let g := { f with refused := min 3 (f.refused + 1) }
      let s' := if f.refused = 3 then s'.modPkg pkg (fun p => { p with reserved := p.reserved ++ [g] }) else s'
      .next (s'.schedule (s.cycle + 128) priLate (.ringFlitReoffer pkg g))

/-- `RING_FLIT_REOFFER` (R381): the flit is offered again after its lap. -/
def execRingFlitReoffer (pkg : Nat) (f : RingFlit) (s : State) : Out := execRingFlitArrival pkg f s

/-- Whether the failed segments of a package leave a pair of dies without a way (R382): rings that fail between different
pairs of neighbours. -/
def Pkg.ringSplit (p : Pkg) : Bool := p.ringFailed.any (fun a => p.ringFailed.any (fun b => a.1 ≠ b.1 && a.2 ≠ b.2))

/-- Whether a flit of the agenda has still to pass a segment of a ring. -/
def Event.beforeSegment (pkg ring seg now due : Nat) (e : Event) : Option RingFlit :=
  match e.onRing pkg ring with
  | some (f, path) => if path.zipIdx.any (fun g => g.1 = seg && now + 16 * (path.length - g.2 - 1) < due) then some f else none
  | none => none

/-- The flits that had not passed a failed segment are replayed over the other ring, in their order, before any later flit of their source
(R382); a buffer that is reserved for one stays so (R381). -/
def State.replayRing (s : State) (pkg ring seg : Nat) : State :=
  let lost := s.agenda.filterMap (fun e => e.ev.beforeSegment pkg ring seg s.cycle e.cycle)
  let s := { s with agenda := s.agenda.filter (fun e => (e.ev.beforeSegment pkg ring seg s.cycle e.cycle).isNone) }
  let s := s.modPkg pkg (fun p => { p with
    reserved := p.reserved.map (fun f => if f ∈ lost then { f with ring := 1 - ring } else f) })
  lost.foldl (fun s f => s.schedule (s.cycle + 16 * (ringPath (1 - ring) f.src f.dst).length) priLate
    (.ringFlitArrival pkg { f with ring := 1 - ring })) s

/-- `RING_SEGMENT_FAILED` (R382): a package event, whose code no table gives (log 79); the traffic of the segment takes the other ring. Where some pair of dies has
no way left, the package reports itself failed; else management reports the degraded ring. -/
def execRingSegmentFailed (pkg ring seg : Nat) (s : State) : Out :=
  let s := s.modPkg pkg (fun p => { p with
    ringFailed := if (ring, seg) ∈ p.ringFailed then p.ringFailed else p.ringFailed ++ [(ring, seg)] })
  let s := s.packageEvent pkg Config.segmentCode (Config.segmentAux ring seg) 0
  let s := s.modPkg pkg (fun p => { p with reported := p.reported || p.ringSplit, degraded := !p.ringSplit })
  .next (s.replayRing pkg ring seg)

end Sys2Proof.Machine
end

