-- ==== Sys2Proof/Machine/Registers.lean ====
section
/-! DEFINITION. The control space of a die (R340, R390, R412): which register stands at an address, reading and writing it,
and the host link's port mask (R386). -/

namespace Sys2Proof.Machine

/-- A step's next state, or the state as it was. -/
def orStay (s : State) (o : Out) : State :=
  match o with
  | .next t => t
  | .fault _ => s
  | .refused _ => s

/-- A register of the control space. -/
inductive CtlReg where
  | gwin
  | sqpool
  | sqfree
  | sqopen
  | farrate
  | sqlate
  | sqrmt
  | sqtpool
  | ftroot
  | ftinv
  | ftmiss
  | cfgstair
  | cfgstat
  | dign
  | digh (e : Nat)
  | ecccnt
  | scrub
  | svact (k : Nat)
  | svfault (k : Nat)
  | evpop (k : Nat)
  | window (c n w : Nat)
  | phaser (c n w : Nat)
  | member (c e w : Nat)
  | slotctl (c core slot : Nat)
  | hlink
  | horph
  | horpn
  | hring (n : Nat)
  | hdmmap (e : Nat)
  | hwin (h : Nat)
  | fabid
  | pkey
  | rtctl
  | hallrt (b : Bool) (i : Nat)
  | strt (b : Bool) (h : Nat)
  | adapt (j : Nat)
  | pmemb (w : Nat)
  | redwin (n : Nat)
  | linkst (p : Nat)
  | posmap (b : Bool) (n : Nat)
  deriving DecidableEq, Repr

/-- The registers at fixed addresses (R340, R390, R412). -/
def fixedRegs (landing : Bool) : List (Nat × CtlReg) :=
  [(0x10000000, .gwin), (0x10000008, .sqpool), (0x10000010, .sqfree), (0x10000018, .sqopen), (0x10000020, .farrate),
   (0x10000028, .sqlate), (0x10000030, .sqrmt), (0x10000038, .sqtpool), (0x10000040, .ftroot), (0x10000048, .ftinv),
   (0x10000050, .ftmiss), (0x10000080, .cfgstair), (0x10000088, .cfgstat), (0x10000090, .dign), (0x100000C0, .ecccnt),
   (0x100000C8, .scrub), (0x10200000, .fabid), (0x10200008, .pkey), (0x10200010, .rtctl)]
  ++ if landing then [(0x10100000, .hlink), (0x10100008, .horph), (0x10100010, .horpn)] else []

/-- The index of a doubleword in an array of `n` at `base`. -/
def arrayIx (a base n : Nat) : Option Nat :=
  if base ≤ a ∧ a < base + 8 * n ∧ a % 8 = 0 then some ((a - base) / 8) else none

/-- The registers that stand in arrays (R340, R390, R412). -/
def arrayReg (landing : Bool) (a : Nat) : Option CtlReg :=
  (arrayIx a 0x10000098 4).map CtlReg.digh <|>
  (arrayIx a 0x10000100 4).map CtlReg.svact <|>
  (arrayIx a 0x10000120 4).map CtlReg.svfault <|>
  (arrayIx a 0x10000140 4).map CtlReg.evpop <|>
  (arrayIx a 0x10010000 512).bind (fun i =>
    if i % 4 < 3 ∧ i % 128 < 64 then some (.window (i / 128) (i % 128 / 4) (i % 4)) else none) <|>
  (arrayIx a 0x10020000 128).map (fun i => .phaser (i / 32) (i % 32 / 2) (i % 2)) <|>
  (arrayIx a 0x10040000 4096).map (fun i => .member (i / 1024) (i % 1024 / 2) (i % 2)) <|>
  (arrayIx a 0x10080000 6144).map (fun i => .slotctl (i / 16 / 96) (i / 16 % 96) (i % 16)) <|>
  (arrayIx a 0x10210000 512).bind (fun i => if i % 256 < 32 then some (.hallrt (i / 256 = 1) (i % 256)) else none) <|>
  (arrayIx a 0x10220000 1024).map (fun i => .strt (i / 512 = 1) (i % 512)) <|>
  (arrayIx a 0x10230000 8).map CtlReg.adapt <|>
  (arrayIx a 0x10240000 256).map CtlReg.pmemb <|>
  (arrayIx a 0x10250000 16).map CtlReg.redwin <|>
  (arrayIx a 0x10260000 64).map CtlReg.linkst <|>
  (arrayIx a 0x10300000 32768).map (fun i => .posmap (i / 16384 = 1) (i % 16384)) <|>
  if landing then
    (arrayIx a 0x10100100 8).map CtlReg.hring <|>
    (arrayIx a 0x10101000 256).map CtlReg.hdmmap <|>
    (arrayIx a 0x10102000 64).map CtlReg.hwin
  else none

/-- The register at an address of the control space of a die. -/
def State.ctlReg (s : State) (d : DieId) (a : Nat) : Option CtlReg :=
  let landing := (s.pkg d.pkg).landing = some d.die
  match (fixedRegs landing).find? (fun e => e.1 = a) with
  | some e => some e.2
  | none => arrayReg landing a

/-! ## Reading -/

/-- A window's words (R239). -/
def Window.word (w : Window) (n : Nat) : Word := if n = 0 then w.w0 else if n = 1 then w.w1 else w.w2

/-- A phaser's words (R243). -/
def Phaser.word (f : Phaser) (n : Nat) : Word :=
  if n = 0 then toWord (bit f.valid * 2 ^ 63 + bit f.failed * 2 ^ 62 + f.phase.toNat)
  else toWord (f.npend.toNat * 2 ^ 48 + f.arrn.toNat * 2 ^ 32 + f.arr.toNat * 2 ^ 16 + f.nsig.toNat)

/-- A member entry's words (R244). -/
def Member.word (m : Member) (n : Nat) : Word :=
  if n = 0 then toWord (m.wph.toNat * 2 ^ 32 + m.sph.toNat)
  else toWord (m.phn.toNat * 2 ^ 24 + m.mode.toNat * 2 ^ 21 + m.mst.toNat * 2 ^ 18 + bit m.rsv * 2 ^ 17
    + m.core.toNat * 2 ^ 4 + m.slot.toNat)

/-- A member entry that holds nothing. -/
def Member.blank : Member := { wph := 0, sph := 0, phn := 0, mode := 0, mst := 0, rsv := false, core := 0, slot := 0 }

/-- The code of a port state (R407). -/
def PortState.code : PortState → Nat
  | .down => 0
  | .train => 1
  | .negotiate => 2
  | .up => 3
  | .failed => 4
  | .quarantined => 5

/-- `LINKST` of a port (R412). -/
def Port.word (q : Port) : Word :=
  toWord (q.crcerr * 2 ^ 48 + q.peerNo % 2 ^ 14 * 2 ^ 34 + q.pport % 64 * 2 ^ 28 + bit q.host * 16 + bit q.en * 8
    + q.state.code)

/-- A supervisor core of a die. -/
def supOf (d : DieId) (k : Nat) : SupId := { die := d, k := k }

/-- A register as it reads; `EVPOP` shows the oldest record, which the load then removes (R342). -/
def State.readReg (s : State) (d : DieId) (r : CtlReg) : Word :=
  let k := s.die d
  let p := s.pkg d.pkg
  match r with
  | .gwin => k.gwin
  | .sqpool => k.sqpool
  | .sqfree => toWord (k.freeUnits % 2 ^ 20)
  | .sqopen => toWord (k.openEntries % 2 ^ 17)
  | .farrate => k.farrate
  | .sqlate => k.sqlate
  | .sqrmt => wput k.sqrmt 63 1 0
  | .sqtpool => k.sqtpool
  | .ftroot => k.ftroot
  | .ftinv => 0
  | .ftmiss => k.ftmiss
  | .cfgstair => k.cfgstair
  | .cfgstat => toWord (k.actn.toNat * 2 ^ 48 + k.ldn.toNat * 2 ^ 32 + bit k.actv * 2 ^ 31 + bit k.ldv * 2 ^ 30
      + k.seqState.code * 2 ^ 27 + k.status.toNat)
  | .dign => k.dign
  | .digh e => k.digh.toList.getD e 0
  | .ecccnt => k.ecccnt
  | .scrub => k.scrub
  | .svact n => toWord (s.sup (supOf d n)).act.toNat
  | .svfault n =>
    let u := s.sup (supOf d n)
    toWord (bit u.stop * 2 ^ 63 + u.faultCause.toNat * 2 ^ 48 + u.faultPc.toNat)
  | .evpop n => (s.sup (supOf d n)).events.headD 0
  | .window c n w => ((s.clu { die := d, clu := c }).windows.toList.getD n { w0 := 0, w1 := 0, w2 := 0 }).word w
  | .phaser c n w => ((s.clu { die := d, clu := c }).phaser n).word w
  | .member c e w => (tget (s.clu { die := d, clu := c }).members e Member.blank).word w
  | .slotctl c core n =>
    let v := s.slot { core := { die := d, clu := c, core := core }, slot := n }
    toWord (v.fst.code * 16 + v.sst.code)
  | .hlink => toWord (p.herr.toNat * 2 ^ 32 + p.pmask.toNat * 2 ^ 16 + p.width.toNat * 16 + bit p.hostUp)
  | .horph => p.horph
  | .horpn => toWord p.horpn.toNat
  | .hring n => tget p.hring n 0
  | .hdmmap e => tget p.hdmmap e 0
  | .hwin h => tget p.hwin h 0
  | .fabid => p.fabid
  | .pkey => p.pkey
  | .rtctl => toWord (bit p.rtBusy * 4 + bit p.rtAct)
  | .hallrt b i => tget p.hallrt (b, i) 0
  | .strt b h => tget p.strt (b, h) 0
  | .adapt j => tget p.adapt j 0
  | .pmemb w => tget p.pmemb w 0
  | .redwin n => tget p.redwin n 0
  | .linkst n => (p.port n).word
  | .posmap b n => tget p.posmap (b, n) 0

/-! ## Writing -/

/-- A word with only the bits of a mask. -/
def masked (v mask : Word) : Word := v &&& mask

/-- A phaser with a word written. -/
def Phaser.put (f : Phaser) (w : Nat) (v : Word) : Phaser :=
  if w = 0 then { f with valid := v.getLsbD 63, failed := v.getLsbD 62, phase := BitVec.ofNat 32 v.toNat }
  else { f with npend := BitVec.ofNat 10 (wbits v 48 10), arrn := BitVec.ofNat 10 (wbits v 32 10),
                arr := BitVec.ofNat 10 (wbits v 16 10), nsig := BitVec.ofNat 10 (wbits v 0 10) }

/-- A member entry with a word written. -/
def Member.put (m : Member) (w : Nat) (v : Word) : Member :=
  if w = 0 then { m with wph := BitVec.ofNat 32 (wbits v 32 32), sph := BitVec.ofNat 32 v.toNat }
  else { m with phn := BitVec.ofNat 4 (wbits v 24 4), mode := BitVec.ofNat 2 (wbits v 21 2),
                mst := BitVec.ofNat 3 (wbits v 18 3), rsv := v.getLsbD 17, core := BitVec.ofNat 7 (wbits v 4 7),
                slot := BitVec.ofNat 4 v.toNat }

/-- A window with a word written. -/
def Window.put (x : Window) (w : Nat) (v : Word) : Window :=
  if w = 0 then { x with w0 := masked v 0x807F000FFFFFFF80 } else if w = 1 then { x with w1 := v }
  else { x with w2 := masked v 0xFFFFFFFF }

/-- A cluster's configuration registers are written while no configuration is active in it, and are ignored otherwise
(R340). -/
def State.putCluster (s : State) (d : DieId) (c : Nat) (f : Cluster → Cluster) : State :=
  if (s.clu { die := d, clu := c }).active then s else s.modClu { die := d, clu := c } f

/-- `PMASK` written (R386, R390): ignored while `UP` is 1. A mask of the table starts training, which ends at most 100 ms
later. -/
def okMask (m : Nat) : Bool := m ∈ [1, 2, 4, 8, 16, 32, 64, 128, 0x03, 0x0C, 0x30, 0xC0, 0x0F, 0xF0]

/-- The ports of the landing die set to host mode or to fabric mode, as a mask gives, before they train (R386): a change of mode takes a
port DOWN, and one in fabric mode trains from there where it is enabled (R407). -/
def State.hostModes (s : State) (pkg : Nat) (m : BitVec 8) : State :=
  match (s.pkg pkg).landing with
  | none => s
  | some die => ((List.range 8).filter (fun n => ((s.pkg pkg).port (8 * die + n)).hostMode ≠ m.getLsbD n)).foldl (fun s n =>
      (s.modPort pkg (8 * die + n) (fun q => { q with hostMode := m.getLsbD n, state := .down, since := s.cycle })).train pkg
        (8 * die + n)) s

@[inherit_doc okMask] def State.writePmask (s : State) (pkg : Nat) (m : BitVec 8) : State :=
  if (s.pkg pkg).hostUp then s
  else
    let s := (s.modPkg pkg (fun p => { p with pmask := m })).hostModes pkg m
    if okMask m.toNat then s.schedule (s.cycle + 100 * msec) priLate (.hostLinkTrained pkg) else s

/-- `HLINK_PMASK_WRITE` (R386). -/
def execHlinkPmaskWrite (pkg : Nat) (mask : BitVec 8) (s : State) : Out := .next (s.writePmask pkg mask)

/-- A remote-entry command written to `SQRMT` (R357). -/
def State.writeSqrmt (s : State) (d : DieId) (v : Word) : State :=
  orStay s (if v.getLsbD 63 then execSqrmtInstall d v s else execSqrmtRemove d v s)

/-- `FTINV_ALL` (R365). -/
def execFtinvAll (d : DieId) (s : State) : Out := .next (s.modDie d (fun k => { k with tlb := [] }))

/-- `FTINV_PAGE` (R364, R365): the cache entry goes where it is that page's. -/
def execFtinvPage (d : DieId) (vpn : Nat) (s : State) : Out :=
  .next (s.modDie d (fun k => { k with tlb := k.tlb.filter (fun e => e.2.1 ≠ vpn) }))

/-- `LINKST` written: the count, and `EN` (R407, R412). -/
def State.writeLinkst (s : State) (pkg n : Nat) (v : Word) : State :=
  let s := s.modPort pkg n (fun q => { q with crcerr := wbits v 48 16 })
  if v.getLsbD 3 then orStay s (execLinkEnable pkg n s) else s.modPort pkg n (fun q => { q with en := false })

/-- A table of two banks: writes reach the inactive one (R412). -/
def bankPut {κ : Type} [DecidableEq κ] (act b : Bool) (t : Tbl (Bool × κ) Word) (k : κ) (v : Word) : Tbl (Bool × κ) Word :=
  if b = act then t else tset t (b, k) v

/-- A register written: its writable fields are set, and the action it starts is taken (R4, R340). -/
def State.writeReg (s : State) (d : DieId) (r : CtlReg) (v : Word) : State :=
  let die := s.modDie d
  let pkg := s.modPkg d.pkg
  match r with
  | .gwin => die (fun k => { k with gwin := rangeWord v })
  | .sqpool => die (fun k => { k with sqpool := rangeWord v })
  | .sqfree => s
  | .sqopen => s
  | .farrate => die (fun k => { k with farrate := masked v 0xFFFFFFFF, bucket := wbits v 16 16, bucketStamp := s.cycle })
  | .sqlate => die (fun k => { k with sqlate := masked v 0xFFFFFFFF })
  | .sqrmt => s.writeSqrmt d v
  | .sqtpool => die (fun k => { k with sqtpool := rangeWord v })
  | .ftroot => die (fun k => { k with ftroot := masked v 0xFFF8001 })
  | .ftinv => orStay s (if v.getLsbD 63 then execFtinvAll d s else execFtinvPage d (wbits v 0 36) s)
  | .ftmiss => die (fun k => { k with ftmiss := v })
  | .cfgstair => die (fun k => { k with cfgstair := masked v 0x0000FFFF0FFFFFC0 })
  | .cfgstat => s
  | .dign => s
  | .digh _ => s
  | .ecccnt => die (fun k => { k with ecccnt := v })
  | .scrub => die (fun k => { k with scrub := masked v 0x80000000FFFFFFFF })
  | .svact n => s.modSup (supOf d n) (fun u => { u with act := BitVec.ofNat 2 v.toNat })
  | .svfault n =>
    let s := s.modSup (supOf d n) (fun u => { u with faultPc := BitVec.ofNat 17 v.toNat })
    if v.getLsbD 63 && (s.sup (supOf d n)).stop then orStay s (execSvfaultRestart (supOf d n) s) else s
  | .evpop _ => s
  | .window c n w => s.putCluster d c (fun k => { k with
      windows := k.windows.setIfInBounds n ((k.windows.toList.getD n { w0 := 0, w1 := 0, w2 := 0 }).put w v) })
  | .phaser c n w => s.putCluster d c (fun k => k.setPhaser n ((k.phaser n).put w v))
  | .member c e w => s.putCluster d c (fun k => { k with
      members := tset k.members e ((tget k.members e Member.blank).put w v) })
  | .slotctl c core n =>
    let cmd := wbits v 8 4
    if cmd = 1 ∨ cmd = 2 ∨ cmd = 3 then s.giveCommand { core := { die := d, clu := c, core := core }, slot := n } cmd else s
  | .hlink => (s.modPkg d.pkg (fun p => { p with herr := BitVec.ofNat 32 (wbits v 32 32) })).writePmask d.pkg
      (BitVec.ofNat 8 (wbits v 16 8))
  | .horph => pkg (fun p => { p with horph := masked v 0xFFFF00000FFFFF80 })
  | .horpn => pkg (fun p => { p with horpn := BitVec.ofNat 32 v.toNat })
  | .hring n => pkg (fun p => { p with hring := tset p.hring n (masked v 0x80000000FFFFFFFF) })
  | .hdmmap e => pkg (fun p => if p.hostUp then p else { p with hdmmap := tset p.hdmmap e (masked v 0x870000000000007F) })
  | .hwin h => pkg (fun p => { p with hwin := tset p.hwin h (masked v 0xF80FFFFFFFE00000) })
  | .fabid => pkg (fun p => { p with fabid := masked v 0xFFFFFFFC00000000 })
  | .pkey => pkg (fun p => { p with pkey := masked v 0x1FFFF })
  | .rtctl => if v.getLsbD 1 then s.flip d.pkg else s
  | .hallrt b i => pkg (fun p => { p with hallrt := bankPut p.rtAct b p.hallrt i (masked v 0xB000000000FFFFFF) })
  | .strt b h => pkg (fun p => { p with strt := bankPut p.rtAct b p.strt h (masked v 0xB000000000FFFFFF) })
  | .adapt j => pkg (fun p => { p with adapt := tset p.adapt j (masked v 0x80000000000001FF) })
  | .pmemb w => pkg (fun p => { p with pmemb := tset p.pmemb w v })
  | .redwin n => pkg (fun p => { p with redwin := tset p.redwin n (masked v 0xFFFFFFFFFFE00000) })
  | .linkst n => s.writeLinkst d.pkg n v
  | .posmap b n => pkg (fun p => { p with posmap := bankPut p.rtAct b p.posmap n (masked v 0xFFFE000000000000) })

/-- `REGISTER_WRITE` (R4, R340). -/
def execRegisterWrite (d : DieId) (addr : Nat) (v : BitVec 64) (s : State) : Out :=
  match s.ctlReg d addr with
  | some r => .next (s.writeReg d r v)
  | none => .fault .noSuchItem

/-! ## The host link (R386) -/

/-- The width code of a port mask (R386, R390). -/
def maskWidth (m : Nat) : Nat :=
  let n := popCount 8 m
  if n = 1 then 1 else if n = 2 then 2 else if n = 4 then 3 else 0

/-- The number of valid `HDMMAP` entries from entry 0 (R391). -/
def Pkg.hdmCount (p : Pkg) : Nat := ((List.range 256).takeWhile (fun e => (tget p.hdmmap e 0).getLsbD 63)).length

/-- The ports of a mask in host mode, or back from it. -/
def State.hostPorts (s : State) (pkg : Nat) (on : Bool) : State :=
  let p := s.pkg pkg
  match p.landing with
  | none => s
  | some die => ((List.range 8).filter p.pmask.getLsbD).foldl (fun s n => s.modPort pkg (8 * die + n) (fun q =>
      { q with host := on, state := if on then .up else .down, since := s.cycle })) s

/-- `HOST_LINK_TRAINED` (R386, R391). -/
def execHostLinkTrained (pkg : Nat) (s : State) : Out :=
  let p := s.pkg pkg
  if p.hostUp || !okMask p.pmask.toNat || p.landing.isNone then .next s
  else .next ((s.modPkg pkg (fun p => { p with
      hostUp := true, width := BitVec.ofNat 2 (maskWidth p.pmask.toNat), hdmSize := p.hdmCount })).hostPorts pkg true)

/-- `HOST_LINK_DOWN` (R386): the link retrains with the mask it holds. -/
def execHostLinkDown (pkg : Nat) (s : State) : Out :=
  let s := (s.modPkg pkg (fun p => { p with hostUp := false, width := 0 })).hostPorts pkg false
  .next (s.schedule (s.cycle + 100 * msec) priLate (.hostLinkTrained pkg))

end Sys2Proof.Machine
end

