-- ==== Sys2Proof/Machine/Access.lean ====
section
/-! DEFINITION. Accesses to cluster, gallery, fabric and control space: performing one at its home (R283–R285, R359, R367),
landing its result (R229, R236, R279, R423), and the order among the accesses of a core (R285). -/

namespace Sys2Proof.Machine

/-! ## Homes -/

/-- The contents at a home. -/
def State.homeMem (s : State) (h : Home) : Mem :=
  match h with
  | .core c => (s.core c).mem
  | .die d => (s.die d).gallery
  | .ctrl _ => []
  | .host _ _ => []

/-- The words at a home with an uncorrectable error. -/
def State.homeBad (s : State) (h : Home) : List Nat :=
  match h with
  | .core c => (s.core c).bad
  | .die d => (s.die d).bad
  | .ctrl _ => []
  | .host _ _ => []

/-- Errors that a read meets at a home are corrected and counted (R366, R369). -/
def State.meetHome (s : State) (h : Home) (addr n : Nat) : State :=
  match h with
  | .core c => s.meetCore c addr n
  | .die d => s.meetDie d addr n
  | .ctrl _ => s
  | .host _ _ => s

/-- The value of the machine check that an access meets at a word of its home (R220, R238, R278; log 20). -/
def checkValue (h : Home) (w : Nat) : Word :=
  match h with
  | .core c => addrValue 1 ((c.core * 2 ^ 21 + w : Nat) : Int)
  | .die _ => addrValue 2 (w : Nat)
  | .ctrl _ => addrValue 2 (w : Nat)
  | .host _ _ => addrValue 2 (w : Nat)

/-- A write by an agent's access is counted in the digest of its home's die (R359): a stage's write of a gallery line, or of a
scratchpad line through fabric space. -/
def State.countWrite (s : State) (own : Agent) (fabric : Bool) (h : Home) (addr n : Nat) (before after : Mem) : State :=
  if isSup own then s
  else match h with
    | .die d => s.modDie d (fun k => k.countRun h addr n before after)
    | .core c => if fabric then s.modDie c.die (fun k => k.countRun h addr n before after) else s
    | .ctrl _ => s
    | .host _ _ => s

/-- The contents and the erroneous words of a home replaced; a scratchpad's full bits are set where `full` says so. -/
def State.putHome (s : State) (h : Home) (m : Mem) (bad : List Nat) (addr n : Nat) (full : Bool) : State :=
  match h with
  | .core c => s.modCore c (fun k => { k with
      mem := m, bad := bad, badOnce := mendOnce k.badOnce addr n,
      emptyBits := if full then setFullBut k.bad k.emptyBits addr n else k.emptyBits })
  | .die d => s.modDie d (fun k => { k with gallery := m, bad := bad, badOnce := mendOnce k.badOnce addr n })
  | .ctrl _ => s
  | .host _ _ => s

/-- The line of a home as the remote caches know it: its die, and a number that no other line of the die has (R424). -/
def lineKey (h : Home) (addr : Nat) : Option (DieId × Nat) :=
  match h with
  | .die d => some (d, addr / 64)
  | .core c => some (c.die, 2 ^ 22 + (c.clu * 96 + c.core) * 2 ^ 15 + addr / 64)
  | .ctrl _ => none
  | .host _ _ => none

/-- The copies of a written line in the remote caches go, but for the writer's own die's (R425). -/
def State.dropCopies (s : State) (own : Agent) (h : Home) (addr n : Nat) : State :=
  let keys := (linesOf addr n).filterMap (fun l => lineKey h (64 * l))
  if s.dies.any (fun e => meets e.2.cachedLines keys) then
    { s with dies := s.dies.map (fun e =>
        if e.1 = dieOf own then e else (e.1, { e.2 with cachedLines := e.2.cachedLines.filter (· ∉ keys) })) }
  else s

/-- What a write at a home means to others: copies in remote caches go, and a mirrored sequence's frame is forwarded (R425,
R433). -/
def State.noteWrite (s : State) (own : Agent) (h : Home) (addr : Nat) (data : List Byte) : State :=
  let s := s.dropCopies own h addr data.length
  match h with
  | .die d => s.mirrorStore d addr data
  | .core _ => s
  | .ctrl _ => s
  | .host _ _ => s

/-- The unit of a home's event records (R220). -/
def homeUnit (h : Home) : Nat :=
  match h with
  | .core _ => 1
  | .die _ => 2
  | .ctrl _ => 2
  | .host _ _ => 2

/-- The address of a word within the unit of its home: in cluster space with the target core (R233, R268). -/
def homeAddr (h : Home) (w : Nat) : Nat :=
  match h with
  | .core c => c.core * 2 ^ 21 + w
  | .die _ => w
  | .ctrl _ => w
  | .host _ _ => w

/-- The words that a store changes in part are read for it: the errors that it meets are counted (R366, R369). -/
def State.meetPartial (s : State) (h : Home) (addr n : Nat) : State :=
  match h with
  | .core c => s.countPartial c.die (s.core c).bad (s.core c).badOnce addr n
  | .die d => s.countPartial d (s.die d).bad (s.die d).badOnce addr n
  | .ctrl _ => s
  | .host _ _ => s

/-- A store at a home (R238, R278, R284): a partial write of an erroneous word is not performed, and is reported (R367); the digest
counts what was written (R359). -/
def State.storeHome (s : State) (own : Agent) (fabric : Bool) (h : Home) (addr : Nat) (data : List Byte) (full : Bool) :
    State :=
  let m := s.homeMem h
  let r := writeAround (s.homeBad h) m addr data
  let s := (s.meetPartial h addr data.length).putHome h r.1 r.2.1 addr data.length full
  match r.2.2 with
  | some w => s.storeLost own 0x10 (homeUnit h) (homeAddr h w)
  | none => (s.countWrite own fabric h addr data.length m r.1).noteWrite own h addr data

/-! ## Performing (R283) -/

/-- A request replaced. -/
def State.setReq (s : State) (q : MemReq) : State :=
  { s with reqs := s.reqs.map (fun r => if r.id = q.id then q else r) }

/-- A request taken away. -/
def State.dropReq (s : State) (id : Nat) : State := { s with reqs := s.reqs.filter (fun r => r.id ≠ id) }

/-- A request by its identity. -/
def State.req (s : State) (id : Nat) : Option MemReq := s.reqs.find? (fun r => r.id = id)

/-- The new value and the flags of an atomic on `k` bits. -/
def ReqOp.apply (o : ReqOp) (k old : Nat) : Nat × BitVec 6 :=
  match o with
  | .amo op x => (amoNew op.toNat k old (amoOperand k x), amoFlags op.toNat old (amoOperand k x))
  | .cas cmp new => (if old = cmp.toNat then new.toNat else old, 0)
  | .load => (old, 0)
  | .store _ => (old, 0)

/-- Whether an operation on an old value writes: a compare that fails does not (R282). -/
def ReqOp.writes (o : ReqOp) (old : Nat) : Bool :=
  match o with
  | .cas cmp _ => old = cmp.toNat
  | .amo _ _ => true
  | .load => false
  | .store _ => true

/-- A read at a home: the value, or the machine check that it meets. -/
def State.readHome (s : State) (q : MemReq) : State × List Byte × Option (Nat × Word) :=
  let h := q.place.home
  let bytes := memRead (s.homeMem h) q.place.addr q.place.len
  match firstBad (s.homeBad h) q.place.addr q.place.len with
  | some w => (s.meetHome h q.place.addr q.place.len, bytes, some (0x0B, checkValue h w))
  | none => (s.meetHome h q.place.addr q.place.len, bytes, none)

/-- A request is performed at its home as one access (R280, R283). -/
def State.perform (s : State) (q : MemReq) : State :=
  let h := q.place.home
  match h, q.op with
  | .ctrl d, .load => (match s.ctlReg d q.place.addr with
      | some r =>
        let s' := match r with
          | .evpop n => s.modSup (supOf d n) (fun u => { u with events := u.events.drop 1 })
          | _ => s
        s'.setReq { q with performed := true, value := leBytes 8 (s.readReg d r).toNat }
      | none => s.setReq { q with performed := true, value := List.replicate 8 0 })
  | .ctrl d, .store data => (match s.ctlReg d q.place.addr with
      | some r => (s.writeReg d r (toWord (leNat data))).setReq { q with performed := true }
      | none => s.setReq { q with performed := true })
  | _, .load =>
    let r := s.readHome q
    r.1.setReq { q with performed := true, value := r.2.1, failed := r.2.2 }
  | _, .store data => (s.storeHome q.own (q.space = 3) h q.place.addr data true).setReq { q with performed := true }
  | _, o =>
    let r := s.readHome q
    match r.2.2 with
    | some f => r.1.setReq { q with performed := true, value := r.2.1, failed := some f }
    | none =>
      let w := o.apply (8 * q.place.len) (leNat r.2.1)
      (if o.writes (leNat r.2.1) then r.1.storeHome q.own (q.space = 3) h q.place.addr (leBytes q.place.len w.1) false else r.1).setReq
        { q with performed := true, value := r.2.1, flags := w.2 }

/-! ## The order among a core's accesses (R285) -/

/-- Whether two agents run on one core. -/
def sameCore (a b : Agent) : Bool :=
  match a, b with
  | .stage i, .stage j => i.core = j.core
  | .sup v, .sup w => v = w
  | .stage _, .sup _ => false
  | .sup _, .stage _ => false

/-- Whether two accesses of one core, `q` the later and `r` the earlier, are performed in issue order: to one granule in one space, to one target core
of the cluster, or to the control space (R235, R285, R340); and a load or an atomic to one granule of a home by whatever spaces,
since it returns no later store of its own firing (R290; log 46). -/
def MemReq.ordered (q r : MemReq) : Bool :=
  sameCore q.own r.own && q.place.home = r.place.home &&
  ((q.space = r.space && (q.space = 1 || q.space = 4)) ||
    ((q.space = r.space || r.dest ≠ .none) && meets (granules q.place.addr q.place.len) (granules r.place.addr r.place.len)))

/-- The requests that are to be performed before one: earlier ones of its core to the same place. -/
def State.before (s : State) (q : MemReq) : List MemReq :=
  s.reqs.filter (fun r => r.id < q.id && !r.performed && q.ordered r)

/-- Whether an earlier multicast store of the core has still to land where a request goes: on the same target core for an access in
cluster space, and on its granules for any other (R235, R285, R290). -/
def State.landsBefore (s : State) (q : MemReq) : Bool :=
  match q.place.home, q.own with
  | .core c, .stage i => (s.clu (cluOf i.core)).landings.any (fun l => l.id < q.id && l.sender.core = i.core && cluOf c = cluOf i.core &&
      c.core ∈ l.targets && (q.space = 1 || meets (granules q.place.addr q.place.len) (granules l.addr l.data.length)))
  | _, _ => false

/-- Whether an earlier local access of the firing that has still to be made reads bytes that a request writes (R290; log 46). -/
def State.readBefore (s : State) (q : MemReq) : Bool :=
  match q.place.home, q.own with
  | .core c, .stage i => q.op.isStore && c = i.core && (s.ctx q.own).flights.any (fun f => f.id < q.id && (f.access.any (fun p =>
      meets (granules p.addr p.len) (granules q.place.addr q.place.len))))
  | _, _ => false

/-- Whether the host's copies, an acquire, a landing or a local read before it keep a request itself from being performed (R285, R288,
R290, R392). -/
def State.blocked (s : State) (q : MemReq) : Bool :=
  s.behindAcquire q.own q.id || s.landsBefore q || s.readBefore q ||
  match q.place.home with
  | .die d => s.snooped d q.place.addr q.place.len q.op.isStore ≠ []
  | .core _ => false
  | .ctrl _ => false
  | .host _ _ => false

/-- Whether a load can be performed with a later access that it precedes: nothing keeps it, and what precedes it has been performed, or
is among the loads performed with it. -/
def State.loadFree (s : State) (with_ : List MemReq) (r : MemReq) : Bool :=
  r.op = .load && !s.blocked r && (s.before r).all (fun x => with_.any (fun y => y.id = x.id))

/-- Whether a request cannot be performed yet (R285, R288, R392): something keeps it, or an earlier access that precedes it. -/
def State.mustWait (s : State) (q : MemReq) : Bool := s.blocked q || !(s.before q).all (s.loadFree (s.before q))

/-- The back-invalidations that a request waits for are sent (R392). -/
def State.askHost (s : State) (q : MemReq) : State :=
  match q.place.home with
  | .die d => s.backInvalidate d.pkg (s.snooped d q.place.addr q.place.len q.op.isStore) q.op.isStore
  | .core _ => s
  | .ctrl _ => s
  | .host _ _ => s

/-- Whether the banks of a scratchpad serve a request in this cycle (R173). -/
def State.turnOf (s : State) (q : MemReq) (ev : Event) : Bool :=
  match q.place.home with
  | .core c => s.bankTurn c q.place.addr q.place.len ev
  | .die _ => true
  | .ctrl _ => true
  | .host _ _ => true

/-- They serve it. -/
def State.useTurn (s : State) (q : MemReq) (ev : Event) : State :=
  match q.place.home with
  | .core c => s.takeTurn c q.place.addr q.place.len ev
  | .die _ => s
  | .ctrl _ => s
  | .host _ _ => s

/-- A request that its banks do not serve tries again in the next cycle. -/
def State.missTurn (s : State) (q : MemReq) (ev : Event) : State :=
  match q.place.home with
  | .core c => s.loseTurn c ev
  | .die _ => s
  | .ctrl _ => s
  | .host _ _ => s

/-- A request is performed now, behind the loads that precede it; or it waits a cycle under its event; once performed it is not
performed again (R284). -/
def State.tryPerform (s : State) (q : MemReq) (pri : Nat) (ev : Event) : State :=
  if q.performed then s
  else if s.mustWait q then (s.askHost q).schedule (s.cycle + 1) pri ev
  else if !s.turnOf q ev then s.missTurn q ev
  else ((s.before q).foldl (fun s r => s.perform r) (s.useTurn q ev)).perform q

/-- Where a load of a scratchpad begins to land `lat` cycles from now: it reads at the end of the cycle before, behind the core's own
accesses (R173); any other load reads as it lands. -/
def loadSpot (h : Home) (lat : Nat) : Nat × Nat :=
  match h with
  | .core _ => (lat - 1, priLate)
  | .die _ => (lat, priMem)
  | .ctrl _ => (lat, priMem)
  | .host _ _ => (lat, priMem)

/-- Whether a home is a scratchpad. -/
def Home.isCore : Home → Bool
  | .core _ => true
  | .die _ => false
  | .ctrl _ => false
  | .host _ _ => false

/-! ## Landing -/

/-- A performed request's result lands: its register and flags; or, where it failed, the cause waits for the next bundle
boundary and the destination keeps its value (R218, R229, R423). -/
def State.landReq (s : State) (q : MemReq) : State :=
  let s := s.dropReq q.id
  match q.failed with
  | some t => s.modCtx q.own (fun c => { c with after := c.after ++ [t] })
  | none =>
    let ws := q.dest.write q.value
    s.modCtx q.own (fun c => ((applyWrites ws c).flag q.flags).noteLanded q.id s.cycle ws)

/-- The current contents of a request. -/
def State.reqNow (s : State) (q : MemReq) : MemReq := (s.req q.id).getD q

/-- A load that lands: behind the earlier loads of the firing, performed if it has not been (R236, R279). A load of a scratchpad is
performed first, and lands in the next cycle (R173). -/
def State.loadLands (s : State) (q : MemReq) (ev : Event) : State :=
  if q.performed then (if s.earlierLoad q.own q.id then s.schedule (s.cycle + 1) priMem ev else s.landReq q)
  else if q.place.home.isCore then
    let t := s.tryPerform q priLate ev
    if (t.reqNow q).performed then t.schedule (s.cycle + 1) priMem ev else t
  else if s.earlierLoad q.own q.id then s.schedule (s.cycle + 1) priMem ev
  else
    let t := s.tryPerform q priMem ev
    if (t.reqNow q).performed then t.landReq (t.reqNow q) else t

/-- A store that is performed leaves `CNTS`. -/
def State.storeDone (s : State) (q : MemReq) (ev : Event) : State :=
  let t := s.tryPerform q priLate ev
  if (t.reqNow q).performed then t.dropReq q.id else t

/-- Whether the host may hold a line of a gallery access (R286). -/
def State.hostReads (s : State) (d : DieId) (addr n : Nat) : Bool := s.snooped d addr n true ≠ []

/-- The scope of a place seen from a die (R286): a gallery by its distance, but system for a line that the host has read; any other
fabric address has the scope domain, and the memory of a host system. A scratchpad of another die of the package is homed in that die;
one of the writer's own die is not its gallery, so it is any other fabric address. -/
def State.scopeOf (s : State) (d : DieId) (p : Piece) : Nat :=
  match p.home with
  | .die e => if s.hostReads e p.addr p.len then 5 else if e = d then 2 else if e.pkg = d.pkg then 3 else 4
  | .core c => if c.die ≠ d ∧ c.die.pkg = d.pkg then 3 else 4
  | .ctrl _ => 4
  | .host _ _ => 5

/-- A request issued by the agent in issue. -/
def State.request (s : State) (space : Nat) (virt : Nat) (place : Piece) (op : ReqOp) (dest : Dest) (scope : Nat) : State :=
  let q : MemReq := { id := s.uid, own := s.cur, firing := s.me.firing, virt := virt, space := space, place := place, op := op,
                      dest := dest, scope := scope, performed := false, value := [], flags := 0, failed := none }
  ({ s with reqs := s.reqs ++ [q] }).tick1

/-- The outstanding stores of an agent. -/
def State.storesOut (s : State) (a : Agent) : List MemReq := s.reqs.filter (fun q => q.own = a && q.op.isStore && !q.performed)

end Sys2Proof.Machine
end

