-- ==== Sys2Proof/Machine/ClusterMem.lean ====
section
/-! DEFINITION. Cluster space (R233–R238) and the multicast store (R239–R242). -/

namespace Sys2Proof.Machine

/-- The core that a cluster-space address names, beside the issuing one. -/
def clusterCore (me : CoreId) (a : Int) : CoreId := { me with core := bitsAt a.toNat 21 7 }

/-- The first byte of an access that cluster space does not admit (R233, R234, R238): all of an address that names no core of
the reach set, or the byte behind the target's scratchpad. A supervisor core has no reach set (log 22). -/
def State.clusterOut (s : State) (a : Int) (n : Nat) : Option Int :=
  match s.cur with
  | .sup _ => some a
  | .stage i =>
    if a < 0 ∨ 2 ^ 28 ≤ a ∨ 96 ≤ bitsAt a.toNat 21 7 ∨ !(s.core i.core).reach.getLsbD (bitsAt a.toNat 21 7) then some a
    else if 2 ^ 21 < bitsAt a.toNat 0 21 + n then some (a - bitsAt a.toNat 0 21 + 2 ^ 21)
    else none

/-- The causes of a cluster-space access (R238): alignment, then bounds. -/
def clusterCause (a : Int) (n al : Nat) (s : State) : Option (Nat × Word) :=
  if a % al ≠ 0 then some (0x10, addrValue 2 a) else (s.clusterOut a n).map (fun b => (0x04, addrValue 2 b))

/-- The home of a cluster-space access of the agent in issue. -/
def State.clusterPlace (s : State) (a : Int) (n : Nat) : Piece :=
  { home := .core (clusterCore s.mySlot.core a), addr := bitsAt a.toNat 0 21, len := n }

/-- A cluster-space load issued, to land `lat` cycles later (R236). -/
def State.loadCluster (s : State) (a : Int) (n lat : Nat) (dest : Dest) : State :=
  let w := loadSpot (s.clusterPlace a n).home lat
  (s.request 1 a.toNat (s.clusterPlace a n) .load dest 1).schedule (s.cycle + w.1) w.2 (.clusterLoadLand s.uid)

/-- A cluster-space store issued, to be performed eight cycles later (R236). -/
def State.storeCluster (s : State) (a : Int) (data : List Byte) : State :=
  (s.request 1 a.toNat (s.clusterPlace a data.length) (.store data) .none 1).schedule (s.cycle + 8) priLate
    (.clusterStorePerformed s.uid)

/-- A scalar load from cluster space (R238). -/
def ldcSyl (p : BitVec 4) (d a : BitVec 6) (z : BitVec 2) (i : Opnd 4) (signed : Bool) : Syl :=
  let n := sizeOf2 z
  { memSyl p { xr := [a], xw := [d] } (fun s => s.loadCluster (addrOf (s.rx a) n i) n 10 (.x d n signed)) with
    early := [a],
    cause := fun s => clusterCause (addrOf (s.rx a) n i) n n s }

/-- `LD.C` (R238). -/
def execLdC (p : BitVec 4) (d a : BitVec 6) (z : BitVec 2) (i : Opnd 4) (s : State) : Out := issue (ldcSyl p d a z i false) s

/-- `LDS.C` (R238). -/
def execLdsC (p : BitVec 4) (d a : BitVec 6) (z : BitVec 2) (i : Opnd 4) (s : State) : Out := issue (ldcSyl p d a z i true) s

/-- `ST.C` (R238). -/
def execStC (p : BitVec 4) (d a : BitVec 6) (z : BitVec 2) (i : Opnd 4) (s : State) : Out :=
  let n := sizeOf2 z
  issue { memSyl p { xr := [d, a] } (fun s => s.storeCluster (addrOf (s.rx a) n i) (leBytes n (s.rx d).toNat)) with
    early := [a],
    cause := fun s => clusterCause (addrOf (s.rx a) n i) n n s } s

/-- `VLD.C` (R238). -/
def execVldC (p : BitVec 4) (v : BitVec 5) (a : BitVec 6) (i : Opnd 4) (s : State) : Out :=
  issue { memSyl p { xr := [a], vw := [physOf s.me.cr.vrb v] } (fun s =>
      s.loadCluster (addrOf (s.rx a) 128 i) 128 12 (.v (physOf s.me.cr.vrb v))) with
    early := [a],
    cause := fun s => clusterCause (addrOf (s.rx a) 128 i) 128 16 s } s

/-- `VST.C` (R238). -/
def execVstC (p : BitVec 4) (v : BitVec 5) (a : BitVec 6) (i : Opnd 4) (s : State) : Out :=
  issue { memSyl p { xr := [a], vr := [physOf s.me.cr.vrb v] } (fun s =>
      s.storeCluster (addrOf (s.rx a) 128 i) (vecBytes (s.rv v))) with
    early := [a],
    cause := fun s => clusterCause (addrOf (s.rx a) 128 i) 128 16 s } s

/-- `CLUSTER_LOAD_LAND` (R236). -/
def execClusterLoadLand (id : Nat) (s : State) : Out :=
  match s.req id with
  | some q => .next (s.loadLands q (.clusterLoadLand id))
  | none => .fault .noSuchItem

/-- `CLUSTER_STORE_PERFORMED` (R236, R238). -/
def execClusterStorePerformed (id : Nat) (s : State) : Out :=
  match s.req id with
  | some q => .next (s.storeDone q (.clusterStorePerformed id))
  | none => .fault .noSuchItem

/-! ## Multicast (R239–R242) -/

/-- The window that an address names, and its fields (R239). -/
def State.mcWindow (s : State) (a : Int) : Window :=
  (s.myClu).windows.toList.getD (bitsAt a.toNat 21 4) { w0 := 0, w1 := 0, w2 := 0 }

/-- The target cores of a window. -/
def Window.targets (w : Window) : List Nat :=
  (List.range 96).filter (fun n => if n < 64 then w.w1.getLsbD n else w.w2.getLsbD (n - 64))

/-- The causes of `MCST` (R241). -/
def mcstCause (a : Int) (s : State) : Option (Nat × Word) :=
  let w := s.mcWindow a
  let off := bitsAt a.toNat 0 21
  let limit := wbits w.w0 21 15 * 128
  if a % 16 ≠ 0 then some (0x10, addrValue 2 a)
  else if isSup s.cur ∨ a < 0 ∨ 2 ^ 25 ≤ a ∨ !w.w0.getLsbD 63 ∨ wbits w.w0 48 7 ≠ s.mySlot.core.core ∨ limit ≤ off then
    some (0x04, addrValue 2 a)
  else if limit < off + 128 then some (0x04, addrValue 2 (a - off + limit))
  else none

/-- The first cycle from `c` on in which no scheduled landing shares a target (R242). -/
def freeLanding (ls : List Landing) (targets : List Nat) : Nat → Nat → Nat
  | 0, c => c
  | k + 1, c => if ls.any (fun l => l.cycle = c && meets l.targets targets) then freeLanding ls targets k (c + 1) else c

/-- `MCST` is scheduled (R242): its landing is fixed when it issues, no earlier than 16 cycles later. -/
def State.sendMcst (s : State) (a : Int) (data : List Byte) : State :=
  let i := s.mySlot
  let w := s.mcWindow a
  let ls := s.myClu.landings
  let due := freeLanding ls w.targets (ls.length + 1) (s.cycle + 16)
  let l : Landing := { id := s.uid, sender := i, window := bitsAt a.toNat 21 4, cycle := due, targets := w.targets,
                       addr := wbits w.w0 7 14 * 128 + bitsAt a.toNat 0 21, data := data }
  ((s.modClu (cluOf i.core) (fun k => { k with landings := k.landings ++ [l] })).schedule due priMulticast
    (.multicastLanding s.uid)).tick1

/-- Whether a multicast store has to wait with its bundle, since its landing is fixed as it issues (R242): an acquire before it is held
(R288), or an earlier load or atomic of the firing has still to read bytes that it writes (R290; log 46). -/
def State.mcstWaits (s : State) (a : Int) : Bool :=
  let i := s.mySlot
  let w := s.mcWindow a
  let g := granules (wbits w.w0 7 14 * 128 + bitsAt a.toNat 0 21) 128
  s.behindAcquire s.cur s.iss.mark ||
  s.reqs.any (fun q => q.id < s.iss.mark && q.own = s.cur && q.dest ≠ .none && !q.performed && meets g (granules q.place.addr q.place.len) &&
    match q.place.home with
    | .core c => cluOf c = cluOf i.core && c.core ∈ w.targets
    | .die _ => false
    | .ctrl _ => false
    | .host _ _ => false) ||
  (i.core.core ∈ w.targets && s.me.flights.any (fun f => f.id < s.iss.mark && (f.access.any (fun p => meets g (granules p.addr p.len)))))

/-- `MCST` (R241). A window that has stopped holds its sender (R268). -/
def execMcst (p : BitVec 4) (v : BitVec 5) (a : BitVec 6) (i : Opnd 4) (s : State) : Out :=
  issue { memSyl p { xr := [a], vr := [physOf s.me.cr.vrb v] } (fun s =>
      s.sendMcst (addrOf (s.rx a) 128 i) (vecBytes (s.rv v))) with
    early := [a],
    cause := mcstCause (addrOf (s.rx a) 128 i),
    wait := fun s => if bitsAt (addrOf (s.rx a) 128 i).toNat 21 4 ∈ s.myClu.windowsBad then .hold (fun s => s)
      else if s.mcstWaits (addrOf (s.rx a) 128 i) then .stall else .go } s

/-- A landing in one target (R173, R241, R268): the bytes and the full bits. A landing that meets a word with an uncorrectable error is
not performed there, and is reported with the window and the word's cluster-space address (R343, R344; DEDUCED, log 73). -/
def State.landAt (s : State) (c : CoreId) (l : Landing) : State :=
  let n := l.data.length
  let s := s.serveLanding c l.addr n
  let k := s.core c
  match firstBad k.bad l.addr n with
  | some w => (s.countErrors c.die 0 (wordsIn k.bad l.addr n)).dieEvent c.die 0x11 1 none l.window (c.core * 2 ^ 21 + w)
  | none => s.setCore c { k with
      mem := memWrite k.mem l.addr l.data, badOnce := mendOnce k.badOnce l.addr n, emptyBits := setFull k.emptyBits l.addr n }

/-- The cluster-space accesses of the sender's core to a target that it issued before a multicast store are performed before its landing
there (R235, R285). -/
def State.performFirst (s : State) (c : CoreId) (l : Landing) : State :=
  (s.reqs.filter (fun q => q.id < l.id && !q.performed && q.space = 1 && q.place.home = .core c && match q.own with
    | .stage j => j.core = l.sender.core
    | .sup _ => false)).foldl (fun s q => s.perform q) s

/-- `MULTICAST_LANDING` (R241, R242): every target in one cycle. -/
def execMulticastLanding (id : Nat) (s : State) : Out :=
  match s.clus.findSome? (fun e => (e.2.landings.find? (fun l => l.id = id)).map (fun l => (e.1, l))) with
  | none => .fault .noSuchItem
  | some (c, l) =>
    let s := s.modClu c (fun k => { k with landings := k.landings.filter (fun x => x.id ≠ id) })
    .next (l.targets.foldl (fun s n => (s.performFirst { die := c.die, clu := c.clu, core := n } l).landAt
      { die := c.die, clu := c.clu, core := n } l) s)

end Sys2Proof.Machine
end

