-- ==== Sys2Proof/Machine/Gallery.lean ====
section
/-! DEFINITION. The gallery (R273–R282) and, from a supervisor core, the control space (R340). -/

namespace Sys2Proof.Machine

/-- Where the control space begins and ends (R340). -/
def ctlLo : Nat := 0x10000000
@[inherit_doc ctlLo] def ctlHi : Nat := 0x20000000

/-- The part of the gallery that an agent may address (R274): the stage window, or for a supervisor core all of it. -/
def State.window (s : State) (a : Agent) : Nat × Nat :=
  match a with
  | .stage i => rangeOf (s.die i.core.die).gwin
  | .sup _ => (0, ctlLo)

/-- The first byte of an access that lies outside a range of gallery addresses. -/
def outside (lo hi : Nat) (a : Int) (n : Nat) : Option Int :=
  if a < lo ∨ (hi : Int) ≤ a then some a else if (hi : Int) < a + n then some hi else none

/-- The causes of a gallery access (R278, R340): alignment, then the window. In the control space only the doubleword forms of
`LD.G` and `ST.G` are admitted (`ctl`), at addresses of the map. A supervisor core's access that runs from the gallery into the control
space is out of bounds there (DESIGN CHOICE, log 105). -/
def galleryCause (a : Int) (n al : Nat) (ctl : Bool) (s : State) : Option (Nat × Word) :=
  let inCtl := isSup s.cur && decide ((ctlLo : Int) ≤ a) && decide (a < (ctlHi : Int))
  if a % al ≠ 0 ∨ (inCtl && !ctl) then some (0x10, addrValue 2 a)
  else if inCtl then
    if (s.ctlReg (dieOf s.cur) a.toNat).isSome then none else some (0x04, addrValue 2 a)
  else (outside (s.window s.cur).1 (s.window s.cur).2 a n).map (fun b => (0x04, addrValue 2 b))

/-- The home of a gallery address of the agent in issue, and the space: the gallery, or the control space. -/
def State.galleryPlace (s : State) (a n : Nat) : Nat × Piece :=
  if ctlLo ≤ a then (4, { home := .ctrl (dieOf s.cur), addr := a, len := n })
  else (2, { home := .die (dieOf s.cur), addr := a, len := n })

/-- The scope of an access to the own gallery or, with the scope die as well, to the control space (R286; log 4). -/
def State.galleryScope (s : State) (p : Piece) : Nat :=
  match p.home with
  | .die d => if s.hostReads d p.addr p.len then 5 else 2
  | .core _ => 2
  | .ctrl _ => 2
  | .host _ _ => 2

/-- A gallery load issued, to land `lat` cycles later, or 16 in the control space (R279, R340). -/
def State.loadGallery (s : State) (a n lat : Nat) (dest : Dest) : State :=
  let w := s.galleryPlace a n
  (s.request w.1 a w.2 .load dest (s.galleryScope w.2)).schedule (s.cycle + if w.1 = 4 then 16 else lat) priMem (.galleryLoadLand s.uid)

/-- A gallery store issued, to be performed 20 cycles later, or 12 in the control space (R279, R340). -/
def State.storeGallery (s : State) (a : Nat) (data : List Byte) : State :=
  let w := s.galleryPlace a data.length
  (s.request w.1 a w.2 (.store data) .none (s.galleryScope w.2)).schedule (s.cycle + if w.1 = 4 then 12 else 20) priLate
    (.galleryStorePerformed s.uid)

/-- A scalar load from the gallery (R278). -/
def ldgSyl (p : BitVec 4) (d a : BitVec 6) (z : BitVec 2) (i : Opnd 4) (signed : Bool) : Syl :=
  let n := sizeOf2 z
  { memSyl p { xr := [a], xw := [d] } (fun s => s.loadGallery (addrOf (s.rx a) n i).toNat n 24 (.x d n signed)) with
    early := [a],
    cause := fun s => galleryCause (addrOf (s.rx a) n i) n n (z = 3 && !signed) s }

/-- `LD.G` (R278). -/
def execLdG (p : BitVec 4) (d a : BitVec 6) (z : BitVec 2) (i : Opnd 4) (s : State) : Out := issue (ldgSyl p d a z i false) s

/-- `LDS.G` (R278). -/
def execLdsG (p : BitVec 4) (d a : BitVec 6) (z : BitVec 2) (i : Opnd 4) (s : State) : Out := issue (ldgSyl p d a z i true) s

/-- `ST.G` (R278). -/
def execStG (p : BitVec 4) (d a : BitVec 6) (z : BitVec 2) (i : Opnd 4) (s : State) : Out :=
  let n := sizeOf2 z
  issue { memSyl p { xr := [d, a] } (fun s =>
      s.storeGallery (addrOf (s.rx a) n i).toNat (leBytes n (s.rx d).toNat)) with
    early := [a],
    cause := fun s => galleryCause (addrOf (s.rx a) n i) n n (z = 3) s } s

/-- `VLD.G` (R278). -/
def execVldG (p : BitVec 4) (v : BitVec 5) (a : BitVec 6) (i : Opnd 4) (s : State) : Out :=
  issue { memSyl p { xr := [a], vw := [physOf s.me.cr.vrb v] } (fun s =>
      s.loadGallery (addrOf (s.rx a) 128 i).toNat 128 28 (.v (physOf s.me.cr.vrb v))) with
    early := [a],
    cause := fun s => galleryCause (addrOf (s.rx a) 128 i) 128 16 false s } s

/-- `VST.G` (R278). -/
def execVstG (p : BitVec 4) (v : BitVec 5) (a : BitVec 6) (i : Opnd 4) (s : State) : Out :=
  issue { memSyl p { xr := [a], vr := [physOf s.me.cr.vrb v] } (fun s =>
      s.storeGallery (addrOf (s.rx a) 128 i).toNat (vecBytes (s.rv v))) with
    early := [a],
    cause := fun s => galleryCause (addrOf (s.rx a) 128 i) 128 16 false s } s

/-- An atomic sent to a gallery bank: performed 22 cycles after issue (R279). -/
def State.atomicGallery (s : State) (a n : Nat) (op : ReqOp) (dest : Dest) : State :=
  let p : Piece := { home := .die (dieOf s.cur), addr := a, len := n }
  (s.request 2 a p op dest (s.galleryScope p)).schedule (s.cycle + 22) priLate (.homePortAtomic s.uid)

/-- `AMO.G` (R281). -/
def execAmoG (p : BitVec 4) (d a : BitVec 6) (o : BitVec 4) (z : BitVec 2) (s : State) : Out :=
  let n := sizeOf2 z
  issue { memSyl p { xr := [d, a], xw := [d] } (fun s =>
      s.atomicGallery (s.rx a).toNat n (.amo o (s.rx d)) (.x d n (n = 4 && o ≠ 9))) with
    early := [a],
    cause := fun s => orCause (galleryCause (s.rx a).toNat n n false s) (faddCause o s) } s

/-- `CAS.G` (R282). -/
def execCasG (p : BitVec 4) (d a b : BitVec 6) (s : State) : Out :=
  issue { memSyl p { xr := [d, a, b], xw := [d] } (fun s =>
      s.atomicGallery (s.rx a).toNat 8 (.cas (s.rx d) (s.rx b)) (.x d 8 false)) with
    early := [a],
    cause := fun s => galleryCause (s.rx a).toNat 8 8 false s } s

/-- `GALLERY_LOAD_LAND` (R279). -/
def execGalleryLoadLand (id : Nat) (s : State) : Out :=
  match s.req id with
  | some q => .next (s.loadLands q (.galleryLoadLand id))
  | none => .fault .noSuchItem

/-- Whether a store to `FTINV` must wait: an access translated through an entry that it names has not been performed (R364). -/
def State.ftinvWaits (s : State) (q : MemReq) : Bool :=
  match q.place.home, q.op with
  | .ctrl d, .store data =>
    let v := toWord (leNat data)
    s.ctlReg d q.place.addr = some .ftinv &&
    s.reqs.any (fun r => r.space = 3 && dieOf r.own = d && !r.performed &&
      (v.getLsbD 63 || r.virt / 2 ^ 21 = wbits v 0 36))
  | _, _ => false

/-- `GALLERY_STORE_PERFORMED` (R279, R340). -/
def execGalleryStorePerformed (id : Nat) (s : State) : Out :=
  match s.req id with
  | some q =>
    if s.ftinvWaits q then .next (s.schedule (s.cycle + 1) priLate (.galleryStorePerformed id))
    else .next (s.storeDone q (.galleryStorePerformed id))
  | none => .fault .noSuchItem

/-- `ATOMIC_OLD_VALUE_LAND` (R279, R280): behind the earlier loads of the firing. -/
def execAtomicOldValueLand (id : Nat) (s : State) : Out :=
  match s.req id with
  | none => .fault .noSuchItem
  | some q =>
    if s.earlierLoad q.own id || !q.performed then .next (s.schedule (s.cycle + 1) priMem (.atomicOldValueLand id))
    else .next (s.landReq q)

end Sys2Proof.Machine
end

