-- ==== Sys2Proof/Machine/Fabric.lean ====
section
/-! DEFINITION. Fabric space: translation (R362–R365), loads, stores and atomics (R421–R423), the host window (R393), ownership
tokens (R424–R427). -/

namespace Sys2Proof.Machine

/-! ## Translation (R362, R363) -/

/-- What a translation gives: a level-3 entry, a fault with its reason, or the word at which a walk met an uncorrectable
error. -/
inductive Trans where
  | ok (entry : Word)
  | fault (reason : Nat)
  | check (word : Nat)
  deriving DecidableEq, Repr

/-- The entry of a table at an address. -/
def Die.tableEntry (k : Die) (table ix : Nat) : Nat × Word := (table + 8 * ix, toWord (memNat k.gallery (table + 8 * ix) 8))

/-- The three levels walked (R362, R363). -/
def Die.walk (k : Die) (a : Nat) : Trans :=
  let e1 := k.tableEntry (wbits k.ftroot 15 13 * 2 ^ 15) (bitsAt a 45 12)
  let e2 := k.tableEntry (wbits e1.2 15 13 * 2 ^ 15) (bitsAt a 33 12)
  let e3 := k.tableEntry (wbits e2.2 15 13 * 2 ^ 15) (bitsAt a 21 12)
  if e1.1 ∈ k.bad then .check e1.1
  else if !e1.2.getLsbD 63 then .fault 2
  else if e2.1 ∈ k.bad then .check e2.1
  else if !e2.2.getLsbD 63 then .fault 3
  else if e3.1 ∈ k.bad then .check e3.1
  else if !e3.2.getLsbD 63 then .fault 4
  else .ok e3.2

/-- The words that a walk reads, up to the one that stops it (R363). -/
def Die.walkWords (k : Die) (a : Nat) : List Nat :=
  let e1 := k.tableEntry (wbits k.ftroot 15 13 * 2 ^ 15) (bitsAt a 45 12)
  let e2 := k.tableEntry (wbits e1.2 15 13 * 2 ^ 15) (bitsAt a 33 12)
  let e3 := k.tableEntry (wbits e2.2 15 13 * 2 ^ 15) (bitsAt a 21 12)
  let ends := fun (e : Nat × Word) => e.1 ∈ k.bad ∨ !e.2.getLsbD 63
  e1.1 :: if ends e1 then [] else e2.1 :: if ends e2 then [] else [e3.1]

/-- A walk meets the errors of the words that it reads (R366, R369, R371). -/
def State.meetWalk (s : State) (d : DieId) (a : Nat) : State :=
  ((s.die d).walkWords a).foldl (fun s w => s.meetDie d w 8) s

/-- The page number of a fabric address (R362). -/
def vpnOf (a : Nat) : Nat := bitsAt a 21 36

/-- The entry that the translation cache holds for a page (R363). -/
def Die.cached (k : Die) (vpn : Nat) : Option Word :=
  match tfind k.tlb (vpn % 262144) with
  | some e => if e.1 = vpn then some e.2 else none
  | none => none

/-- The translation of an address by the cache, or by a walk that is done (`walked`); none where a walk is needed. -/
def Die.translate (k : Die) (a : Int) (walked : Bool) : Option Trans :=
  if a < 0 ∨ 2 ^ 57 ≤ a then some (.fault 1)
  else if !k.ftroot.getLsbD 0 then some (.fault 2)
  else
    match k.cached (vpnOf a.toNat) with
    | some e => some (.ok e)
    | none => if walked then some (k.walk a.toNat) else none

/-- What an access does with a page. -/
inductive PageUse where
  | load
  | store
  | atomic
  deriving DecidableEq, Repr

/-- Whether an entry names a host-window page (R393). -/
def isHostPage (e : Word) : Bool := !e.getLsbD 20 && wbits e 6 3 = 4

/-- The place that an entry gives an address, by the position of its home package (R362, R393, R422). -/
def State.entryPlace (s : State) (pos : Nat) (e : Word) (a n : Nat) : Piece :=
  let die : DieId := { pkg := pos, die := wbits e 21 3 }
  let off := a % 2 ^ 21
  if isHostPage e then
    { home := .host pos (wbits e 0 6), addr := wbits (tget (s.pkg pos).hwin (wbits e 0 6) 0) 21 31 * 2 ^ 21 + off, len := n }
  else if e.getLsbD 20 then { home := .core { die := die, clu := wbits e 7 2, core := wbits e 0 7 }, addr := off, len := n }
  else { home := .die die, addr := wbits e 0 7 * 2 ^ 21 + off, len := n }

/-- The reason of the fault that a valid entry gives an access (R363, R393), if any. -/
def State.entryFault (s : State) (d : DieId) (e : Word) (use : PageUse) : Option Nat :=
  let host := isHostPage e
  let idxOk := if e.getLsbD 20 then wbits e 0 7 < 96 else wbits e 7 2 = 0 || host
  if use ≠ .load ∧ !e.getLsbD 62 then some 5
  else
    match (s.pkg d.pkg).resolve (wbits e 24 14) with
    | none => some 6
    | some pos =>
      let p := s.pkg pos
      if !idxOk then some 6
      else if host ∧ (use ≠ .store ∨ p.landing ≠ some (wbits e 21 3) ∨ !(tget p.hwin (wbits e 0 6) 0).getLsbD 63) then some 6
      else none

/-- Whether a package is in the own partition (R412). -/
def Pkg.member (p : Pkg) (logical : Nat) : Bool := (tget p.pmemb (logical / 64) 0).getLsbD (logical % 64)

/-- Whether the walk that the bundle in issue waits for is done. -/
def State.walked (s : State) (a : Int) : Bool := s.me.walk = some (vpnOf a.toNat, true)

/-- The translation of an address for the agent in issue. -/
def State.translate (s : State) (a : Int) : Option Trans := (s.die (dieOf s.cur)).translate a (s.walked a)

/-- The translation and partition causes of an access (R422). -/
def transCause (a : Int) (use : PageUse) (s : State) : Option (Nat × Word) :=
  match s.translate a with
  | none => none
  | some (.fault r) => some (0x05, fabricValue r a)
  | some (.check w) => some (0x0B, addrValue 2 (w : Nat))
  | some (.ok e) =>
    match s.entryFault (dieOf s.cur) e use with
    | some r => some (0x05, fabricValue r a)
    | none =>
      if (s.pkg (dieOf s.cur).pkg).member (wbits e 24 14) then none else some (0x07, fabricValue 1 a)

/-- The causes of a fabric access (R422): alignment, and a vector access across a page; then translation. -/
def fabricCause (a : Int) (n al : Nat) (use : PageUse) (s : State) : Option (Nat × Word) :=
  if a % al ≠ 0 ∨ 2 ^ 21 < a % 2 ^ 21 + n then some (0x10, addrValue 2 a) else transCause a use s

/-- A walk begins for the page of an address: it keeps the bundle for 80 cycles (R363). -/
def State.beginWalk (s : State) (a : Int) : State :=
  let d := dieOf s.cur
  let vpn := vpnOf a.toNat
  if (s.me.walk.map (·.1)) = some vpn then s
  else
    let s := s.modMe (fun c => { c with walk := some (vpn, false) })
    if vpn ∈ (s.die d).walks then s
    else (s.modDie d (fun k => { k with walks := vpn :: k.walks })).schedule (s.cycle + 79) priLate (.translationWalkDone d vpn)

/-- The wait for a walk (R422). -/
def walkWait (a : State → Int) (s : State) : Wait :=
  if (s.translate (a s)).isSome then .go else .hold (fun s => s.beginWalk (a s))

/-- The host's copies that a walk waits for (R392). -/
def State.walkLines (s : State) (d : DieId) (vpn : Nat) : List Nat :=
  ((s.die d).walkWords (vpn * 2 ^ 21)).flatMap (fun w => s.snooped d w 8 false)

/-- `TRANSLATION_WALK_DONE` (R363): the entry is installed, or the waiting bundles find the fault. A walk waits for the host's copies of
the lines that it reads (R392). -/
def execTranslationWalkDone (d : DieId) (vpn : Nat) (s : State) : Out :=
  if s.walkLines d vpn ≠ [] then
    .next ((s.backInvalidate d.pkg (s.walkLines d vpn) false).schedule (s.cycle + 1) priLate (.translationWalkDone d vpn))
  else
  let s := s.meetWalk d (vpn * 2 ^ 21)
  let k := s.die d
  let s := s.setDie d { k with
    walks := k.walks.filter (· ≠ vpn), ftmiss := k.ftmiss + 1,
    tlb := match k.walk (vpn * 2 ^ 21) with
      | .ok e => tset k.tlb (vpn % 262144) (vpn, e)
      | .fault _ => k.tlb
      | .check _ => k.tlb }
  .next { s with ctxs := s.ctxs.map (fun e =>
    if dieOf e.1 = d ∧ e.2.walk = some (vpn, false) then (e.1, { e.2 with walk := some (vpn, true) }) else e) }

/-! ## Sending -/

/-- The place of a fabric access of the agent in issue, once its translation stands. -/
def State.fabricPlace (s : State) (a : Int) (n : Nat) : Piece :=
  match s.translate a with
  | some (.ok e) =>
    s.entryPlace (((s.pkg (dieOf s.cur).pkg).resolve (wbits e 24 14)).getD 0) e a.toNat n
  | _ => { home := .die (dieOf s.cur), addr := 0, len := n }

/-- Whether the page of an address admits copies (R424). -/
def State.cacheable (s : State) (a : Int) : Bool :=
  match s.translate a with
  | some (.ok e) => e.getLsbD 61
  | _ => false

/-- The die of a home. -/
def State.homeDie (s : State) (h : Home) : DieId :=
  match h with
  | .core c => c.die
  | .die d => d
  | .ctrl d => d
  | .host pkg _ => { pkg := pkg, die := ((s.pkg pkg).landing).getD 0 }

/-- The page of a place as the tokens know it (R424). -/
def placePage (p : Piece) : Option (DieId × Nat) := (lineKey p.home p.addr).map (fun e => (e.1, e.2 / 2 ^ 15))

/-- Whether a die holds a token for a page that is not being given up, an exclusive one where `excl` says so. -/
def Die.holds (k : Die) (page : DieId × Nat) (excl : Bool) : Bool :=
  k.tokens.any (fun t => t.home = page.1 && t.page = page.2 && !t.recalled && (t.excl || !excl))

/-- The lines of a set, and the ways of a set, of the remote cache (R424): 16 MiB of 64-byte lines, 8 ways (log 53). -/
def cacheSets : Nat := 2 ^ 15
@[inherit_doc cacheSets] def cacheWays : Nat := 8

/-- A line put into a remote cache that does not hold it: a full set gives up its oldest line. -/
def cacheLine (lines : List (DieId × Nat)) (key : DieId × Nat) : List (DieId × Nat) :=
  if key ∈ lines then lines
  else
    let set := lines.filter (fun l => l.2 % cacheSets = key.2 % cacheSets)
    (if cacheWays ≤ set.length then lines.erase (set.headD key) else lines) ++ [key]

/-- Whether the dies of a package keep remote caches: a hall spare does not (R424). -/
def Pkg.caches (p : Pkg) : Bool := wbits p.fabid 34 2 ≠ 1

/-- The lines of a place in the remote caches. -/
def placeKeys (p : Piece) : List (DieId × Nat) := (linesOf p.addr p.len).filterMap (fun l => lineKey p.home (64 * l))

/-- Whether a load finds its lines in the die's remote cache (R424). -/
def State.cacheHit (s : State) (d : DieId) (p : Piece) : Bool :=
  match placePage p with
  | some pg => (s.pkg d.pkg).caches && (s.die d).holds pg false && placeKeys p ≠ [] && (placeKeys p).all (· ∈ (s.die d).cachedLines)
  | none => false

/-- The walk that a bundle waited for is over as it issues. -/
def State.endWalk (s : State) : State := s.modMe (fun c => { c with walk := none })

/-- A fabric load issued (R423): a hit in the remote cache lands after 28 cycles. -/
def State.loadFabric (s : State) (a : Int) (n : Nat) (dest : Dest) : State :=
  let d := dieOf s.cur
  let p := s.fabricPlace a n
  let t := (s.request 3 a.toNat p .load dest (s.scopeOf d p)).endWalk
  let hit := loadSpot p.home 28
  let far := loadSpot p.home 40
  if s.cacheable a && s.cacheHit d p then t.schedule (s.cycle + hit.1) hit.2 (.fabricLoadLand s.uid)
  else t.sendTrips d (s.homeDie p.home) far.1 2 far.2 (.fabricLoadLand s.uid)

/-- A fabric store issued (R423). -/
def State.storeFabric (s : State) (a : Int) (data : List Byte) : State :=
  let d := dieOf s.cur
  let p := s.fabricPlace a data.length
  ((s.request 3 a.toNat p (.store data) .none (s.scopeOf d p)).endWalk).sendFlit d (s.homeDie p.home) 30 priLate
    (.fabricStorePerformed s.uid)

/-- A fabric atomic issued: it reaches its home 30 cycles and the hops later (R423; log 23). -/
def State.atomicFabric (s : State) (a : Int) (n : Nat) (op : ReqOp) (dest : Dest) : State :=
  let d := dieOf s.cur
  let p := s.fabricPlace a n
  ((s.request 3 a.toNat p op dest (s.scopeOf d p)).endWalk).sendFlit d (s.homeDie p.home) 30 priLate
    (.homePortAtomic s.uid)

/-! ## The instructions (R421, R422) -/

/-- A scalar load from fabric space. -/
def ldnSyl (p : BitVec 4) (d a : BitVec 6) (z : BitVec 2) (i : Opnd 4) (signed : Bool) : Syl :=
  let n := sizeOf2 z
  { memSyl p { xr := [a], xw := [d] } (fun s => s.loadFabric (addrOf (s.rx a) n i) n (.x d n signed)) with
    early := [a],
    cause := fun s => fabricCause (addrOf (s.rx a) n i) n n .load s,
    wait := walkWait (fun s => addrOf (s.rx a) n i) }

/-- `LD.N` (R422). -/
def execLdN (p : BitVec 4) (d a : BitVec 6) (z : BitVec 2) (i : Opnd 4) (s : State) : Out := issue (ldnSyl p d a z i false) s

/-- `LDS.N` (R422). -/
def execLdsN (p : BitVec 4) (d a : BitVec 6) (z : BitVec 2) (i : Opnd 4) (s : State) : Out := issue (ldnSyl p d a z i true) s

/-- `ST.N` (R422). -/
def execStN (p : BitVec 4) (d a : BitVec 6) (z : BitVec 2) (i : Opnd 4) (s : State) : Out :=
  let n := sizeOf2 z
  issue { memSyl p { xr := [d, a] } (fun s => s.storeFabric (addrOf (s.rx a) n i) (leBytes n (s.rx d).toNat)) with
    early := [a],
    cause := fun s => fabricCause (addrOf (s.rx a) n i) n n .store s,
    wait := walkWait (fun s => addrOf (s.rx a) n i) } s

/-- `VLD.N` (R422). -/
def execVldN (p : BitVec 4) (v : BitVec 5) (a : BitVec 6) (i : Opnd 4) (s : State) : Out :=
  issue { memSyl p { xr := [a], vw := [physOf s.me.cr.vrb v] } (fun s =>
      s.loadFabric (addrOf (s.rx a) 128 i) 128 (.v (physOf s.me.cr.vrb v))) with
    early := [a],
    cause := fun s => fabricCause (addrOf (s.rx a) 128 i) 128 16 .load s,
    wait := walkWait (fun s => addrOf (s.rx a) 128 i) } s

/-- `VST.N` (R422). -/
def execVstN (p : BitVec 4) (v : BitVec 5) (a : BitVec 6) (i : Opnd 4) (s : State) : Out :=
  issue { memSyl p { xr := [a], vr := [physOf s.me.cr.vrb v] } (fun s =>
      s.storeFabric (addrOf (s.rx a) 128 i) (vecBytes (s.rv v))) with
    early := [a],
    cause := fun s => fabricCause (addrOf (s.rx a) 128 i) 128 16 .store s,
    wait := walkWait (fun s => addrOf (s.rx a) 128 i) } s

/-- `AMO.N` (R422). -/
def execAmoN (p : BitVec 4) (d a : BitVec 6) (o : BitVec 4) (z : BitVec 2) (s : State) : Out :=
  let n := sizeOf2 z
  issue { memSyl p { xr := [d, a], xw := [d] } (fun s =>
      s.atomicFabric (s.rx a).toNat n (.amo o (s.rx d)) (.x d n (n = 4 && o ≠ 9))) with
    early := [a],
    cause := fun s => orCause (fabricCause (s.rx a).toNat n n .atomic s) (faddCause o s),
    wait := walkWait (fun s => ((s.rx a).toNat : Int)) } s

/-- `CAS.N` (R422). -/
def execCasN (p : BitVec 4) (d a b : BitVec 6) (s : State) : Out :=
  issue { memSyl p { xr := [d, a, b], xw := [d] } (fun s =>
      s.atomicFabric (s.rx a).toNat 8 (.cas (s.rx d) (s.rx b)) (.x d 8 false)) with
    early := [a],
    cause := fun s => fabricCause (s.rx a).toNat 8 8 .atomic s,
    wait := walkWait (fun s => ((s.rx a).toNat : Int)) } s

/-! ## Rejects (R416, R423) -/

/-- Whether the destination of a request rejects it (R416). -/
def State.rejects (s : State) (q : MemReq) : Bool :=
  q.space = 3 && s.keyBad (dieOf q.own).pkg (s.homeDie q.place.home).pkg

/-- A rejected request is counted and reported where it was dropped, at most once per source and microsecond (R416). -/
def State.dropped (s : State) (q : MemReq) : State := s.dropMsg (dieOf q.own).pkg (s.homeDie q.place.home).pkg

/-- `FABRIC_REJECT` (R413, R423): the cause waits for the issuer's next bundle boundary; where the firing has ended, event 0x47 is
raised instead. It is a partition-key violation with reason 2, unless the request found no valid entry on its way. -/
def execFabricReject (id : Nat) (s : State) : Out :=
  match s.req id with
  | none => .fault .noSuchItem
  | some q =>
    let s := s.dropReq id
    let t := q.failed.getD (0x07, fabricValue 2 q.virt)
    match q.own with
    | .sup _ => .next (s.modCtx q.own (fun c => { c with after := c.after ++ [t] }))
    | .stage i =>
      if (s.slot i).idle || (s.ctx q.own).firing ≠ q.firing then
        .next (s.dieEvent i.core.die 0x47 0 (some i) (wbits t.2 60 4) (q.virt % 2 ^ 28))
      else .next (s.modCtx q.own (fun c => { c with after := c.after ++ [t] }))

/-- Whether the response of a request is dropped at its issuer's ingress (R416). -/
def State.answerLost (s : State) (q : MemReq) : Bool :=
  q.space = 3 && s.keyBad (s.homeDie q.place.home).pkg (dieOf q.own).pkg

/-- A response dropped there is counted and reported; nothing lands, and the request stays outstanding (R416). -/
def State.loseAnswer (s : State) (q : MemReq) : State := s.dropMsg (s.homeDie q.place.home).pkg (dieOf q.own).pkg

/-- A load whose response is dropped: it is read at its home, and never lands. -/
def State.loadLost (s : State) (q : MemReq) (ev : Event) : State :=
  let t := s.tryPerform q priMem ev
  if !q.performed && (t.reqNow q).performed then t.loseAnswer q else t

/-- `FABRIC_LOAD_LAND` (R423). A line read under a token is kept in the remote cache (R424). -/
def execFabricLoadLand (id : Nat) (s : State) : Out :=
  match s.req id with
  | none => .fault .noSuchItem
  | some q =>
    if s.rejects q then execFabricReject id (s.dropped q)
    else if s.answerLost q then .next (s.loadLost q (.fabricLoadLand id))
    else
      let d := dieOf q.own
      let keep := match placePage q.place with
        | some pg => pg.1 ≠ d && (s.pkg d.pkg).caches && (s.die d).holds pg false
        | none => false
      let t := s.loadLands q (.fabricLoadLand id)
      .next (if keep && (t.req id).isNone then t.modDie d (fun k => { k with
          cachedLines := (placeKeys q.place).foldl cacheLine k.cachedLines }) else t)

/-- The hops from a request's die to its home, in cycles. -/
def State.hopsTo (s : State) (q : MemReq) : Nat :=
  match s.route (dieOf q.own) (s.homeDie q.place.home) with
  | .cost n => n
  | .wait => 0
  | .none => 0

/-- A store to the memory of a landing's host (R393): on a completion page it is checked first (R397); else it becomes a
CXL.cache write, performed when the host grants observation. -/
def State.toHost (s : State) (q : MemReq) : State := s.schedule s.cycle priLate (.completionWriteCheck q.id)

/-- A fabric store performed at its home: its acknowledgement is checked at the issuer's ingress (R416). -/
def State.fabricStored (s : State) (q : MemReq) : State :=
  let t := s.storeDone q (.fabricStorePerformed q.id)
  if (t.req q.id).isNone && s.answerLost q then t.loseAnswer q else t

/-- `FABRIC_STORE_PERFORMED` (R423). -/
def execFabricStorePerformed (id : Nat) (s : State) : Out :=
  match s.req id with
  | none => .fault .noSuchItem
  | some q =>
    if s.rejects q then .next ((s.dropped q).schedule (s.cycle + s.hopsTo q) priLate (.fabricReject id))
    else
      match q.place.home with
      | .host _ _ => .next (s.toHost q)
      | .die _ => .next (s.fabricStored q)
      | .core _ => .next (s.fabricStored q)
      | .ctrl _ => .next (s.fabricStored q)

/-- `HOME_PORT_ATOMIC` (R279, R280, R423): the old value lands 10 cycles later from the own gallery, and 16 cycles and the hops
later through fabric space. -/
def execHomePortAtomic (id : Nat) (s : State) : Out :=
  match s.req id with
  | none => .fault .noSuchItem
  | some q =>
    if s.rejects q then .next ((s.dropped q).schedule (s.cycle + 16 + s.hopsTo q) priMem (.fabricReject id))
    else
      let t := s.tryPerform q priLate (.homePortAtomic id)
      .next (if (t.reqNow q).performed && s.answerLost q then t.loseAnswer q
        else if (t.reqNow q).performed then
        t.schedule (s.cycle + if q.space = 3 then 16 + s.hopsTo q else 10) priMem (.atomicOldValueLand id) else t)

/-! ## Ownership tokens (R424–R427) -/

/-- The page of a fabric address of the agent in issue. -/
def State.tokenPage (s : State) (a : Int) : DieId × Nat := (placePage (s.fabricPlace a 1)).getD (dieOf s.cur, 0)

/-- Whether the page of an address admits writes (R362). -/
def State.writable (s : State) (a : Int) : Bool :=
  match s.translate a with
  | some (.ok e) => e.getLsbD 62
  | _ => false

/-- The causes of `OWN.ACQ` (R426): those of R422, with a store's write check for an exclusive token; then those of the page.
The write check comes first and masks reason 2 (log 24). -/
def ownCause (a : Int) (x : Bool) (s : State) : Option (Nat × Word) :=
  match transCause a (if x then .store else .load) s with
  | some t => some t
  | none =>
    if (s.translate a).isNone then none
    else if !s.cacheable a then some (0x06, fabricValue 1 a)
    else if x && !s.writable a then some (0x06, fabricValue 2 a)
    else none

/-- A control request sent: the bundle waits for its answer (R307). -/
def State.beginReq (s : State) (token : Option (DieId × Nat × Bool)) : State :=
  s.modMe (fun c => { c with req := some { answer := none, trap := none, landed := false, token := token } })

/-- `CONTROL_ANSWER_LAND` (R307). -/
def execControlAnswerLand (a : Agent) (s : State) : Out :=
  match (s.ctx a).req with
  | some r =>
    if r.answer.isSome || r.trap.isSome then .next (s.modCtx a (fun c => { c with req := some { r with landed := true } }))
    else .fault .noSuchItem
  | none => .fault .noSuchItem

/-- The answer that the bundle in issue has, once it has landed. -/
def State.landedAnswer (s : State) : Option Word :=
  match s.me.req with
  | some r => if r.landed then some (r.answer.getD 0) else none
  | none => none

/-- The trap that the answer reports. -/
def State.answerTrap (s : State) : Option (Nat × Word) :=
  match s.me.req with
  | some r => if r.landed then r.trap else none
  | none => none

/-- The wait for an answer: the request is sent once. -/
def answerWait (send : State → State) (s : State) : Wait :=
  match s.me.req with
  | none => .hold send
  | some r => if r.landed then .go else .hold (fun s => s)

/-- The bundle issues with its answer. -/
def State.takeAnswer (s : State) (d : BitVec 6) : State :=
  let w := (s.landedAnswer).getD 0
  (s.modMe (fun c => { c with req := none })).nextM d w

/-- The pages whose tokens a die has asked for and not yet got; they count towards the 64 that it can hold (R424). -/
def State.pagesAsked (s : State) (d : DieId) : List (DieId × Nat) :=
  (s.ctxs.filterMap (fun e => if dieOf e.1 ≠ d then none else match e.2.req with
    | some r => if r.answer.isSome then none else r.token.map (fun t => (t.1, t.2.1))
    | none => none)).dedup.filter (fun pg => !(s.die d).tokens.any (fun t => t.home = pg.1 && t.page = pg.2))

/-- `OWN.ACQ` is sent (R426): it is answered here, refused where the die holds 64 tokens, or a token is asked of the home. -/
def State.askToken (s : State) (a : Int) (x : Bool) : State :=
  let d := dieOf s.cur
  let page := s.tokenPage a
  let k := s.die d
  if page.1 = d ∨ k.holds page x then (s.beginReq none).answer s.cur 40 0 none
  else if 64 ≤ k.tokens.length + (s.pagesAsked d).length ∧ !k.tokens.any (fun t => t.home = page.1 && t.page = page.2) ∧
      page ∉ s.pagesAsked d then (s.beginReq none).answer s.cur 40 1 none
  else if s.route d page.1 = .none then (s.beginReq none).answer s.cur 40 0 (some (0x05, fabricValue 6 a))
  else ((s.beginReq (some (page.1, page.2, x))).modMe (fun c => { c with req := c.req.map (fun r => { r with virt := a.toNat }) })).sendFlit d page.1 30 priLate (.tokenRequest page.1 d page.2 x)

/-- `OWN.ACQ` (R426). -/
def execOwnAcq (p : BitVec 4) (d a : BitVec 6) (x : BitVec 1) (s : State) : Out :=
  let addr := fun (s : State) => ((s.rx a).toNat : Int)
  issue { memSyl p { xr := [a], xw := [d] } (fun s => (s.takeAnswer d).endWalk) with
    early := [a],
    cause := fun s => orCause (ownCause (addr s) (x = 1) s) s.answerTrap,
    wait := fun s => match walkWait addr s with
      | .go => answerWait (fun s => s.askToken (addr s) (x = 1)) s
      | w => w } s

/-- `OWN.REL` (R427): its bundle issues after 8 cycles. -/
def execOwnRel (p : BitVec 4) (a : BitVec 6) (s : State) : Out :=
  let addr := fun (s : State) => ((s.rx a).toNat : Int)
  issue { memSyl p { xr := [a] } (fun s =>
      let page := s.tokenPage (addr s)
      ((s.modDie (dieOf s.cur) (fun k => { k with
        tokens := k.tokens.filter (fun t => !(t.home = page.1 && t.page = page.2)),
        cachedLines := k.cachedLines.filter (fun l => !(l.1 = page.1 && l.2 / 2 ^ 15 = page.2)) })).endSync).endWalk) with
    early := [a],
    cause := fun s => transCause (addr s) .load s,
    wait := fun s => match walkWait addr s with
      | .go => if s.waitedFor 8 then .go else .hold (fun s => s.beginSync none)
      | w => w } s

/-- The directory's record of a page. -/
def Die.dir (k : Die) (page : Nat) : DirEntry :=
  (k.directory.find? (fun e => e.page = page)).getD { page := page, shared := [], excl := none, recalling := [], waiting := [] }

/-- The directory's record replaced. -/
def Die.setDir (k : Die) (e : DirEntry) : Die := { k with directory := e :: k.directory.filter (fun f => f.page ≠ e.page) }

/-- The holders that a request recalls (R425). -/
def DirEntry.conflicts (e : DirEntry) (src : DieId) (excl : Bool) : List DieId :=
  if excl then (e.shared ++ e.excl.toList).filter (· ≠ src)
  else if e.excl.isSome then e.excl.toList.filter (· ≠ src)
  else if src ∉ e.shared ∧ 16 ≤ e.shared.length then e.shared.take 1 else []

/-- The directory grants a token (R425). -/
def DirEntry.grant (e : DirEntry) (src : DieId) (excl : Bool) : DirEntry :=
  if excl then { e with shared := [], excl := some src }
  else { e with excl := none, shared := e.shared.filter (· ≠ src) ++ [src] }

/-- The requests that wait at the directory are handled in order, until one has to recall (R425). -/
def State.serveDir (s : State) (home : DieId) (page : Nat) : Nat → State
  | 0 => s
  | n + 1 =>
    let e := (s.die home).dir page
    match e.waiting with
    | [] => s
    | (src, excl) :: rest =>
      if e.recalling ≠ [] then s
      else
        let c := e.conflicts src excl
        if c = [] then
          let s := s.modDie home (fun k => k.setDir { (e.grant src excl) with waiting := rest })
          (s.sendFlit home src 30 priLate (.tokenGrant src home page excl)).serveDir home page n
        else
          c.foldl (fun s d => s.sendFlit home d 30 priLate (.ownershipRecall d home page))
            (s.modDie home (fun k => k.setDir { e with recalling := c }))

/-- `TOKEN_REQUEST` (R425). -/
def execTokenRequest (home src : DieId) (page : Nat) (excl : Bool) (s : State) : Out :=
  let s := s.modDie home (fun k =>
    let e := k.dir page
    k.setDir { e with waiting := e.waiting ++ [(src, excl)] })
  .next (s.serveDir home page (((s.die home).dir page).waiting.length + 1))

/-- `OWNERSHIP_RECALL` (R424, R425): the token is RECALLED, the copies go, and the die answers once a cached read in flight can have
landed. -/
def execOwnershipRecall (d home : DieId) (page : Nat) (s : State) : Out :=
  .next ((s.modDie d (fun k => { k with
    tokens := k.tokens.map (fun t => if t.home = home ∧ t.page = page then { t with recalled := true } else t),
    cachedLines := k.cachedLines.filter (fun l => !(l.1 = home && l.2 / 2 ^ 15 = page)) })).sendFlit d home 58 priLate
      (.recallDone home d page))

/-- `RECALL_DONE` (R425): the token is given up. -/
def execRecallDone (home src : DieId) (page : Nat) (s : State) : Out :=
  let s := s.modDie src (fun k => { k with
    tokens := k.tokens.filter (fun t => !(t.home = home && t.page = page && t.recalled)) })
  let s := s.modDie home (fun k =>
    let e := k.dir page
    k.setDir { e with recalling := e.recalling.filter (· ≠ src), shared := e.shared.filter (· ≠ src),
                      excl := if e.excl = some src then none else e.excl })
  .next (s.serveDir home page (((s.die home).dir page).waiting.length + 1))

/-- `TOKEN_GRANT` (R426): the die holds the token, and the answers that it gives land 40 cycles later. -/
def execTokenGrant (d home : DieId) (page : Nat) (excl : Bool) (s : State) : Out :=
  let s := s.modDie d (fun k => { k with
    tokens := k.tokens.filter (fun t => !(t.home = home && t.page = page)) ++ [{ home := home, page := page, excl := excl, recalled := false }] })
  .next (s.ctxs.foldl (fun s e =>
    match e.2.req with
    | some r => (match r.token with
      | some t => if dieOf e.1 = d ∧ t.1 = home ∧ t.2.1 = page ∧ (excl ∨ !t.2.2) ∧ r.answer.isNone then s.answer e.1 40 0 none
          else s
      | none => s)
    | none => s) s)

end Sys2Proof.Machine
end

