-- ==== Sys2Proof/Machine/Order.lean ====
section
/-! DEFINITION. The ordering instructions (R294–R297) and the digest (R360). -/

namespace Sys2Proof.Machine

/-- Whether the counter of a `WCNT` has come down to its bound (R296); with a bound of 0 on `CNTS` it is a release, which waits for an
acquire before it too (R287, R289). -/
def State.countedDown (s : State) (c : BitVec 1) (n : Word) : Bool :=
  (if c = 1 then s.storeCount s.cur s.iss.mark else s.cntl s.cur) ≤ n.toNat &&
  !(c = 1 && n = 0 && s.behindAcquire s.cur s.iss.mark)

/-- `WCNT` (R296): it waits for what was issued before its bundle (R7). -/
def execWcnt (p : BitVec 4) (c : BitVec 1) (b : BitVec 6) (s : State) : Out :=
  issue { memSyl p { xr := [b] } (fun s => s) with
    wait := fun s => if s.countedDown c (s.rx b) then .go else .hold (fun s => s) } s

/-- Whether everything that a `FENCE` release of a scope waits for has been performed (R295): local accesses, those of `MM.AR` too,
`EMIT` copies and the MAT queue's local reads at every scope; multicast stores from the cluster on; the requests of the scope; and an
acquire before it, since what happens before that happens before the release (R289).
What the bundle itself begins is none of it (R7). -/
def State.relDone (s : State) (scope : Nat) : Bool :=
  !(s.pendingStores s.cur).any (fun st => st.by_ = s.cur) && !s.accessBefore s.cur s.iss.mark && !s.matReading &&
  s.arStores s.cur s.iss.mark = 0 && !s.behindAcquire s.cur s.iss.mark &&
  !s.reqs.any (fun q => q.own = s.cur && q.scope ≤ scope && !q.performed) &&
  match s.cur with
  | .stage i => !(s.slot i).emissions.any (fun e => e.copy && e.id < s.iss.mark) &&
      (scope = 0 || !(s.clu (cluOf i.core)).landings.any (fun l => l.sender = i))
  | .sup _ => true

/-- Whether every earlier load of a scope has landed (R295). -/
def State.acqDone (s : State) (scope : Nat) : Bool :=
  !s.me.flights.any (fun f => f.src = .load) &&
  !s.reqs.any (fun q => q.own = s.cur && q.scope ≤ scope && q.op.isLoad && q.dest ≠ .none)

/-- `FENCE` (R295). -/
def execFence (p : BitVec 4) (g : BitVec 3) (q r : BitVec 1) (s : State) : Out :=
  issue { memSyl p {} (fun s => s) with
    wait := fun s =>
      if (r = 0 || s.relDone g.toNat) && (q = 0 || s.acqDone g.toNat) then .go else .hold (fun s => s) } s

/-! ## WAITA (R297) -/

/-- The address of a `WAITA`, from `x0`–`x31`. -/
def State.waitaAddr (s : State) (a : BitVec 5) : Int := ((s.rx (a.zeroExtend 6)).toNat : Int)

/-- The cause that a read of the waiting `WAITA` met. -/
def State.readFail (s : State) : Option (Nat × Word) :=
  match s.me.sync with
  | some w => w.fail
  | none => none

/-- The causes of `WAITA` (R297): at each read, those of its space, and a machine check or a reject that a read met. -/
def waitaCause (f : BitVec 1) (a : BitVec 5) (s : State) : Option (Nat × Word) :=
  let addr := s.waitaAddr a
  orCause (if f = 1 then fabricCause addr 4 4 .load s else galleryCause addr 4 4 false s) s.readFail

/-- The home of a `WAITA`'s word. -/
def State.waitaPlace (s : State) (f : Bool) (addr : Int) : Piece :=
  if f then s.fabricPlace addr 4 else { home := .die (dieOf s.cur), addr := addr.toNat, len := 4 }

/-- Whether a `WAITA` reads every 512 cycles: in fabric mode, and on an HDM line (R297, R392). -/
def State.waitaPolls (s : State) (f : Bool) (addr : Int) : Bool :=
  f || match (s.waitaPlace f addr).home with
    | .die d => (s.pkg d.pkg).hdmLines d.die addr.toNat ≠ []
    | .core _ => false
    | .ctrl _ => false
    | .host _ _ => false

/-- How long one read of a `WAITA` takes. -/
def State.waitaTime (s : State) (f : Bool) (addr : Int) : Nat :=
  if f then
    match s.route (dieOf s.cur) (s.homeDie (s.waitaPlace f addr).home) with
    | .cost n => 40 + 2 * n
    | .wait => 40
    | .none => 40
  else 24

/-- A `WAITA` begins to wait: its first read completes after the time of a load. -/
def State.beginWaita (s : State) (f : Bool) (addr : Int) : State :=
  match s.me.sync with
  | some _ => s
  | none =>
    let t := s.cycle + s.waitaTime f addr
    (s.modMe (fun c => { c with sync := some { word := s.iss.word, since := s.cycle, notified := some t } })).schedule t priArrive
      (.waitaReread s.cur)

/-- The word that the last read of the waiting `WAITA` returned. -/
def State.waitaValue (s : State) : Option Word :=
  match s.me.sync with
  | some w => w.value
  | none => none

/-- `WAITA` (R297): the bundle waits until a read returns a word that differs from xb. -/
def execWaita (p : BitVec 4) (d : BitVec 6) (f : BitVec 1) (a : BitVec 5) (b : BitVec 6) (s : State) : Out :=
  issue { memSyl p { xr := [a.zeroExtend 6, b], xw := [d] } (fun s =>
      let w := (s.waitaValue).getD 0
      (s.endSync.endWalk).nextM d w) with
    early := [a.zeroExtend 6],
    cause := waitaCause f a,
    wait := fun s =>
      match (if f = 1 then walkWait (fun s => s.waitaAddr a) s else .go) with
      | .go =>
        (match s.waitaValue with
        | some w => if wbits w 0 32 ≠ wbits (s.rx b) 0 32 then .go else .hold (fun s => s.beginWaita (f = 1) (s.waitaAddr a))
        | none => .hold (fun s => s.beginWaita (f = 1) (s.waitaAddr a)))
      | w => w } s

/-- The waiting `WAITA` of an agent: whether in fabric mode, and its address. -/
def Ctx.waita (c : Ctx) : Option (Bool × BitVec 5) :=
  match c.sync with
  | some w => if bitsAt w.word.toNat 28 3 = 2 ∧ bitsAt w.word.toNat 22 6 = 0x31 then
      some (w.word.getLsbD 11, BitVec.ofNat 5 (bitsAt w.word.toNat 6 5)) else none
  | none => none

/-- A read of a `WAITA` as a request. -/
def State.waitaReq (s : State) (f : Bool) (addr : Int) (place : Piece) : MemReq :=
  { id := s.uid, own := s.cur, firing := s.me.firing, virt := addr.toNat, space := if f then 3 else 2, place := place, op := .load,
    dest := .none, scope := 0, performed := false, value := [], flags := 0, failed := none }

/-- A read of a `WAITA` completes: the value, or the cause that it met; and the next read, 512 cycles and the time of a load
later where the `WAITA` polls, else 28 cycles later (R297, R392). -/
def State.waitaRead (s : State) (f : Bool) (addr : Int) : State :=
  let place := s.waitaPlace f addr
  let q := s.waitaReq f addr place
  let next := s.cycle + if s.waitaPolls f addr then 512 + s.waitaTime f addr else 28
  let r := s.readHome q
  let lost := f && match s.route (dieOf s.cur) (s.homeDie q.place.home) with
    | .cost _ => false
    | .wait => false
    | .none => true
  let fail := if lost then some (0x05, fabricValue 6 addr) else if s.rejects q then some (0x07, fabricValue 2 addr) else r.2.2
  let s' := if s.rejects q then s.dropped q else r.1
  (s'.modMe (fun c => { c with sync := c.sync.map (fun w =>
    { w with value := some (toWord (leNat r.2.1)), fail := fail, notified := some next }) })).schedule next priArrive
      (.waitaReread s.cur)

/-- The gallery lines that the host's copies keep a `WAITA` from reading (R392). -/
def State.waitaSnooped (s : State) (f : Bool) (addr : Int) : List Nat :=
  match (s.waitaPlace f addr).home with
  | .die d => s.snooped d (s.waitaPlace f addr).addr 4 false
  | .core _ => []
  | .ctrl _ => []
  | .host _ _ => []

/-- What a read of a `WAITA` waits for, as any load (R285, R288, R418, R434): a link that is not UP, the end of a freeze, an earlier
access of its core to the same place, or an acquire before it. -/
def State.waitaKept (s : State) (f : Bool) (addr : Int) : Bool :=
  let place := s.waitaPlace f addr
  let q := s.waitaReq f addr place
  s.before q ≠ [] || s.behindAcquire s.cur q.id ||
  (f && match s.route (dieOf s.cur) (s.homeDie place.home) with
    | .cost _ => false
    | .wait => true
    | .none => false)

/-- `WAITA_REREAD` (R297): a read of the waiting `WAITA` completes; a read of a line that the host may have written waits for
the back-invalidation (R392). -/
def execWaitaReread (a : Agent) (s : State) : Out :=
  match (s.ctx a).waita, (s.ctx a).sync with
  | some (f, x), some w =>
    if w.notified ≠ some s.cycle then .fault .noSuchItem
    else
      let t := { s with cur := a }
      let addr := t.waitaAddr x
      let lines := t.waitaSnooped f addr
      if lines ≠ [] then
        let t := (t.backInvalidate (t.homeDie (t.waitaPlace f addr).home).pkg lines false).modMe (fun c =>
          { c with sync := some { w with notified := some (s.cycle + 1) } })
        .next { t.schedule (s.cycle + 1) priArrive (.waitaReread a) with cur := s.cur }
      else if t.waitaKept f addr then
        let t := t.modMe (fun c => { c with sync := some { w with notified := some (s.cycle + 1) } })
        .next { t.schedule (s.cycle + 1) priArrive (.waitaReread a) with cur := s.cur }
      else .next { t.waitaRead f addr with cur := s.cur }
  | _, _ => .fault .noSuchItem

/-! ## The digest (R360) -/

/-- Whether a counted write of the agent in issue has still to be performed (R359, R360). -/
def State.countsLeft (s : State) : Bool := s.reqs.any (fun q => q.own = s.cur && q.op.isStore && !q.performed && q.space ≠ 1)

/-- What `DIG` reads (R360): the current digest, or the final one of a configuration in the history. -/
def Die.digValue (k : Die) (w : Word) : Word :=
  if !w.getLsbD 16 then k.digest
  else
    match (List.range 4).find? (fun e => wbits k.dign (16 * e) 16 = wbits w 0 16) with
    | some e => k.digh.toList.getD e 0
    | none => 0

/-- `DIG` (R360): the result lands 24 cycles after the bundle issues. -/
def execDig (p : BitVec 4) (d a : BitVec 6) (s : State) : Out :=
  issue { memSyl p { xr := [a], xw := [d] } (fun s =>
      s.fly s.cur .answer 24 [.x d ((s.die (dieOf s.cur)).digValue (s.rx a))] 0 none) with
    wait := fun s => if s.countsLeft then .hold (fun s => s) else .go } s

end Sys2Proof.Machine
end

