-- ==== Sys2Proof/Machine/Seq.lean ====
section
/-! DEFINITION. The sequence engine and the gather engine (R299–R326): the instructions, the engine's queue, what serving a
request does, and the mirror of a sequence (R433). -/

namespace Sys2Proof.Machine

/-! ## The instructions (R306) -/

/-- A request put in the queue of the own die's engine (R292). -/
def State.askEngine (s : State) (op : EngOp) : State :=
  let q : EngReq := { id := s.uid, own := s.cur, op := op, upto := s.uid, sent := none, live := true }
  (s.modDie (dieOf s.cur) (fun k => { k with engine := k.engine ++ [q] })).tick1

/-- A control request (R307): its bundle waits for the answer, and issues with it. -/
def controlSyl (p : BitVec 4) (d : BitVec 6) (rd : List (BitVec 6)) (op : State → EngOp) : Syl :=
  { memSyl p { xr := rd, xw := [d] } (fun s => s.takeAnswer d) with
    cause := State.answerTrap,
    wait := answerWait (fun s => (s.askEngine (op s)).beginReq none) }

/-- `SQ.NEW` (R309). -/
def execSqNew (p : BitVec 4) (d a : BitVec 6) (s : State) : Out := issue (controlSyl p d [a] (fun s => .new (s.rx a))) s

/-- `SQ.RES` (R310). -/
def execSqRes (p : BitVec 4) (d h n : BitVec 6) (s : State) : Out :=
  issue (controlSyl p d [h, n] (fun s => .res (s.rx h) (s.rx n))) s

/-- `SQ.COM` (R311). -/
def execSqCom (p : BitVec 4) (f h n : BitVec 6) (s : State) : Out :=
  issue (controlSyl p 0 [f, h, n] (fun s => .com (s.rx f) (s.rx h) (s.rx n))) s

/-- `SQ.LEN` (R312). -/
def execSqLen (p : BitVec 4) (d h q : BitVec 6) (s : State) : Out :=
  issue (controlSyl p d [h, q] (fun s => .len (s.rx h) (s.rx q))) s

/-- `SQ.FORK` (R313). -/
def execSqFork (p : BitVec 4) (d h : BitVec 6) (s : State) : Out := issue (controlSyl p d [h] (fun s => .fork (s.rx h))) s

/-- `SQ.DROP` (R314). -/
def execSqDrop (p : BitVec 4) (h : BitVec 6) (s : State) : Out := issue (controlSyl p 0 [h] (fun s => .drop (s.rx h))) s

/-- `SQ.PRE` (R325): illegal on a supervisor core. -/
def execSqPre (p : BitVec 4) (r h b : BitVec 6) (s : State) : Out :=
  issue { controlSyl p 0 [r, h, b] (fun s => .pre (s.rx r) (s.rx h) (s.rx b)) with typeOk := !isSup s.cur } s

/-- The spans that a vector-form `GATH` reads (R318). -/
def Desc.gatherLanes (d : Desc) : List Span :=
  let z := fmtSize d.fmt
  (List.range (min (d.size 0) (128 / z - 1) + 1)).map (fun (e : Nat) => { addr := (d.base : Int) + e * d.stride 0, len := z, al := z })

/-- The spans that a tile-form `GATH` reads, a row each (R318). -/
def Desc.gatherRows (d : Desc) : List Span :=
  let rb := rowBytes d.fmt
  (List.range (min (d.size 1) (4096 / rb - 1) + 1)).map (fun (j : Nat) =>
    { addr := (d.base : Int) + (j : Int) * d.stride 1, len := rb, al := fmtSize d.fmt })

/-- The causes of a `GATH` from the gallery (R278, R318): misalignment of any element, then the stage window. -/
def gatherCause (space : Nat) (ss : List Span) (s : State) : Option (Nat × Word) :=
  if space ≠ 2 then none
  else match ss.find? (fun sp => sp.addr % (sp.al : Int) ≠ 0) with
    | some sp => some (0x10, addrValue 2 sp.addr)
    | none => ss.findSome? (fun sp =>
        (outside (s.window s.cur).1 (s.window s.cur).2 sp.addr sp.len).map (fun b => (0x04, addrValue 2 b)))

/-- The waits of a gather: for a queued syllable that changes its descriptor (R202), and for its tag (R84). -/
def State.gatherWait (s : State) (d : BitVec 5) (tag : Nat) : Wait :=
  if s.tdPending d then .stall
  else if s.tagKept tag then .tag [tag] else .go

/-- `GATH`, vector form (R318). -/
def execGathVector (p : BitVec 4) (v d : BitVec 5) (t : BitVec 4) (s : State) : Out :=
  let td := s.desc d
  issue { memSyl p { vw := [physOf s.me.cr.vrb v] } (fun s =>
      let r := physOf s.me.cr.vrb v
      (s.askEngine (.gathV td r t)).takeTag t.toNat (some r)) with
    typeOk := td.ok && (td.space = 2 || td.space = 3) && td.fmt ∈ [0x00, 0x02, 0x03, 0x04, 0x08, 0x09, 0x0A, 0x0B, 0x0C, 0x0D]
      && 8 ≤ t.toNat,
    cause := gatherCause td.space td.gatherLanes,
    wait := fun s => s.gatherWait d t.toNat } s

/-- A fill of a tile that the gather engine makes: its tag is taken and the tile's format tag set (R84, R318, R319). -/
def State.askTile (s : State) (t : BitVec 3) (fmt : Nat) (op : EngOp) : State :=
  (((s.askEngine op).setTileTag t (fmt + 1)).markUsed).takeTag t.toNat none

/-- `GATH`, tile form (R318). -/
def execGathTile (p : BitVec 4) (k : BitVec 3) (d : BitVec 5) (s : State) : Out :=
  let td := s.desc d
  issue { memSyl p { tw := [k] } (fun s => s.askTile k td.fmt (.gathT td k)) with
    typeOk := td.ok && (td.space = 2 || td.space = 3) && denseFmt td.fmt && !isSup s.cur,
    cause := gatherCause td.space td.gatherRows,
    wait := fun s => s.gatherWait d k.toNat } s

/-- `SQ.GATH` (R319): mode 0 `raw`, 1 `keys`, 2 `values`. -/
def execSqGath (p : BitVec 4) (m : BitVec 2) (t : BitVec 3) (d : BitVec 5) (b : BitVec 6) (s : State) : Out :=
  let td := s.desc d
  issue { memSyl p { xr := [b], tw := [t] } (fun s =>
      s.askTile t (if m = 0 then td.fmt else 0x09) (.sqGath td t m (s.rx b))) with
    typeOk := td.ok && td.space = 4 && (if m = 0 then denseFmt td.fmt else td.fmt = 0x18) && !isSup s.cur,
    wait := fun s => s.gatherWait d t.toNat } s

/-! ## The queue (R292, R315) -/

/-- Whether a request is the posting engine's. -/
def EngOp.posting : EngOp → Bool
  | .query _ => true
  | .rsp _ _ _ => true
  | .new _ => false
  | .res _ _ => false
  | .com _ _ _ => false
  | .len _ _ => false
  | .fork _ => false
  | .drop _ => false
  | .pre _ _ _ => false
  | .gathV _ _ _ => false
  | .gathT _ _ => false
  | .sqGath _ _ _ _ => false

/-- The tile that a request fills. -/
def EngOp.tile : EngOp → Option (BitVec 3)
  | .gathT _ t => some t
  | .sqGath _ t _ _ => some t
  | .gathV _ _ _ | .rsp _ _ _ | .new _ | .res _ _ | .com _ _ _ | .len _ _ | .fork _ | .drop _ | .pre _ _ _ | .query _ => none

/-- Whether a request may read the scratchpad of its own core: a `GATH` whose pages may name it (R318, R362). -/
def EngOp.readsLocal : EngOp → Bool
  | .gathV td _ _ => Desc.space td = 3
  | .gathT td _ => Desc.space td = 3
  | .query _ => false
  | .rsp _ _ _ => false
  | .new _ => false
  | .res _ _ => false
  | .com _ _ _ => false
  | .len _ _ => false
  | .fork _ => false
  | .drop _ => false
  | .pre _ _ _ => false
  | .sqGath _ _ _ _ => false

/-- Whether a queued `MM` issued before a request has still to read the tile that the request fills (R7, R85). -/
def State.fillsEarly (s : State) (q : EngReq) : Bool :=
  match q.op.tile with
  | some t => (s.ctx q.own).matq.any (fun h => h.id < q.id && t ∈ h.matRegs.tr)
  | none => false

/-- Whether a request can be sent: those before it in its stream have been, the firing's earlier gallery stores are performed, and
so are the earlier local stores that it may read, those of `MM.AR` too (R292; log 76); no earlier `MM` has still to read the tile that
it fills; and a control request, being a release, waits for an acquire before it (R287, R289). -/
def State.canSendReq (s : State) (k : Die) (q : EngReq) : Bool :=
  q.sent.isNone && !k.engine.any (fun r => r.own = q.own && r.id < q.id && r.sent.isNone && r.op.posting = q.op.posting) &&
  !s.reqs.any (fun r => r.own = q.own && r.space = 2 && r.op.isStore && r.id < q.upto && !r.performed) &&
  !(q.op.readsLocal && ((s.pendingStores q.own).any (fun st => st.by_ = q.own && st.id < q.upto) || s.arStores q.own q.upto ≠ 0)) &&
  !s.fillsEarly q && !(q.op.control && s.behindAcquire q.own q.id)

/-- The requests of a die that can be sent are sent. -/
def State.sendRequests (s : State) (d : DieId) : State :=
  (s.die d).engine.foldl (fun s q =>
    if s.canSendReq (s.die d) q then s.modDie d (fun k => { k with
      engine := k.engine.map (fun r => if r.id = q.id then { r with sent := some s.cycle } else r) })
    else s) s

/-- The earlier of two requests: by arrival, and by identity within a cycle. -/
def EngReq.first (a b : EngReq) : EngReq := if (a.sent, a.id) = (b.sent, b.id) then a else
  match a.sent, b.sent with
  | some x, some y => if x < y ∨ (x = y ∧ a.id < b.id) then a else b
  | some _, none => a
  | none, _ => b

/-- The request that an engine serves next. -/
def Die.head (k : Die) (posting : Bool) : Option EngReq :=
  (k.engine.filter (fun q => q.op.posting = posting && q.sent.isSome)).foldl (fun b q => match b with
    | none => some q
    | some r => some (r.first q)) none

/-- A request leaves the queue, and the engine is taken for its time. -/
def State.leaveEngine (s : State) (d : DieId) (q : EngReq) (cost : Nat) : State :=
  s.modDie d (fun k => { k with engine := k.engine.filter (fun r => r.id ≠ q.id), engineFree := s.cycle + cost })

/-- The answer of a control request, where the firing that asked still takes it. -/
def State.reply (s : State) (q : EngReq) (cost : Nat) (w : Word) (trap : Option (Nat × Word)) : State :=
  if q.live then s.answer q.own cost w trap else s

/-! ## Entries -/

/-- Whether a die reaches another to read a sequence there (R323). -/
inductive Reach where
  | ok (hops : Nat)
  | wait
  | fail (why : Nat)
  deriving DecidableEq, Repr

/-- The way of an engine to a home and back (R321, R323, R416): another package must be of the own partition, and of its key. -/
def State.reach (s : State) (d home : DieId) : Reach :=
  if home = d then .ok 0
  else if home.pkg ≠ d.pkg ∧ (!(s.pkg d.pkg).member (s.pkg home.pkg).lpkg ∨ s.keyBad d.pkg home.pkg ∨ s.keyBad home.pkg d.pkg) then .fail 5
  else match s.route d home with
    | .cost n => .ok n
    | .wait => .wait
    | .none => .fail 4

/-- What an engine sends to a home of another partition key, or what such a home answers, is dropped at the ingress that checks it, and
counted there (R416). -/
def State.keyLost (s : State) (d home : DieId) : State :=
  if home.pkg = d.pkg ∨ !(s.pkg d.pkg).member (s.pkg home.pkg).lpkg then s
  else if s.keyBad d.pkg home.pkg then s.dropMsg d.pkg home.pkg
  else if s.keyBad home.pkg d.pkg then s.dropMsg home.pkg d.pkg
  else s

/-- `WHY` of the checks 1, 2 and 3 of R308; `remote` says whether a REMOTE entry is admitted. -/
def Die.seqWhy (k : Die) (h : Word) (remote : Bool) : Option Nat :=
  let e := k.seq (wbits h 0 16)
  if wbits h 16 48 ≠ 0 ∨ e.st = 0 then some 1
  else if e.st = 2 ∧ !remote then some 2
  else if e.st = 3 then some 3 else none

/-- `TRAPV` of a sequence protocol error (R308). -/
def seqError (c : Nat) (h : Word) (why : Nat) : Option (Nat × Word) :=
  some (0x0D, toWord (c % 2 ^ 32 * 2 ^ 32 + wbits h 0 16 * 2 ^ 16 + why))

/-- The word of a refusal (R308). -/
def refusal : Word := BitVec.allOnes 64

/-- Where the word of a block stands in an entry's table pages (log 17). -/
def SeqEntry.tableWord (e : SeqEntry) (b : Nat) : Nat := e.pages.getD (b / 512) 0 + 8 * (b % 512)

/-- Whether the table words of some blocks have an uncorrectable error. -/
def Die.tableBad (k : Die) (e : SeqEntry) (blocks : List Nat) : Bool := blocks.any (fun b => e.tableWord b ∈ k.bad)

/-- An entry fails (R326): it is FAILED, its block-map entries go, and event 0x17 names the handle. -/
def State.failEntry (s : State) (d : DieId) (h : Nat) (own : Agent) : State :=
  (s.modDie d (fun k => { k with seqs := tset k.seqs h { k.seq h with st := 3, bad := false },
                                 blockMap := k.blockMap.filter (fun b => b.1 ≠ h) })).dieEvent d 0x17 2 (slotOf own) 0 h

/-- An entry is read: an uncorrectable error in it or in its commit marks is met, and the entry fails; a single-bit error is corrected
and counted (R299, R326, R366, R369). -/
def State.meetOwnEntry (s : State) (d : DieId) (h : Nat) (own : Agent) : State :=
  if ((s.die d).seq h).bad then (s.failEntry d h own).countErrors d 0 1
  else if h ∈ (s.die d).seqOnce then
    (s.modDie d (fun k => { k with seqOnce := k.seqOnce.filter (· ≠ h) })).countErrors d 1 0
  else s

/-- An entry is read for a request, and behind a REMOTE one that it reaches the entry at its home (R323). -/
def State.meetEntry (s : State) (d : DieId) (h : Nat) (own : Agent) : State :=
  let s := s.meetOwnEntry d h own
  match ((s.die d).seq h).home with
  | none => s
  | some (home, hh) =>
    match s.reach d home with
    | .ok _ => if ((s.die d).seq h).st = 2 then s.meetOwnEntry home hh own else s
    | .wait => s
    | .fail _ => if ((s.die d).seq h).st = 2 then s.keyLost d home else s

/-- Table words are read: an uncorrectable one makes the entry FAILED (R326), and both kinds of error are counted. -/
def State.meetTable (s : State) (d : DieId) (h : Nat) (e : SeqEntry) (blocks : List Nat) (own : Agent) : State :=
  let t := blocks.foldl (fun s b => s.meetDie d (e.tableWord b) 8) s
  if (s.die d).tableBad e blocks then t.failEntry d h own else t

/-- The host's copies that reads of table words wait for (R392). -/
def State.tableLines (s : State) (d : DieId) (e : SeqEntry) (blocks : List Nat) : List Nat :=
  (blocks.flatMap (fun b => s.snooped d (e.tableWord b) 8 false)).dedup

/-- The ranges that the frames and table pages of an entry, or of a shadow, come from (R301, R432). -/
def Die.pools (k : Die) (shadow : Bool) : (Nat × Nat) × (Nat × Nat) :=
  if shadow then ((0xF800000, 0x10000000), (0xF800000, 0x10000000)) else (rangeOf k.sqpool, rangeOf k.sqtpool)

/-- What an entry of `slots` slots takes beyond what it has: the frames, the table pages and the frame list with them, or
none where a pool cannot supply them (R301, R310). The table pages of a shadow are kept among the frames of its area. -/
def Die.take (k : Die) (shadow : Bool) (e : SeqEntry) (slots : Nat) : Option (List Nat × List Nat × Tbl Nat (Nat × Nat)) :=
  let r := k.pools shadow
  let nb := blocksFor slots - e.table.length
  let np := pagesFor (blocksFor slots) - e.pages.length
  match takeFrames r.1.1 r.1.2 e.frameLen nb k.frames with
  | none => none
  | some (fs, frames) =>
    if shadow then (takeFrames r.2.1 r.2.2 4096 np frames).map (fun p => (fs, p.1, p.2))
    else (takePages r.2.1 r.2.2 np k.pagesUsed).map (fun p => (fs, p, frames))

/-- A run of a die's gallery written whole by an engine; counted in the digest where `count` says so (R359). -/
def State.engineWrite (s : State) (d : DieId) (own : Agent) (addr : Nat) (data : List Byte) (count : Bool) : State :=
  let k := s.die d
  let m := memWrite k.gallery addr data
  let bad := k.bad.filter (fun w => !(addr ≤ w && w + 8 ≤ addr + data.length))
  let k' := { k with gallery := m, bad := bad, badOnce := mendOnce k.badOnce addr data.length }
  (s.setDie d (if count then k'.countRun (.die d) addr data.length k.gallery m else k')).dropCopies own (.die d) addr data.length

/-- A frame zeroed (R301). -/
def State.zeroFrame (s : State) (d : DieId) (own : Agent) (addr n : Nat) (count : Bool) : State :=
  let k := s.die d
  let m := memClear k.gallery addr n
  let k' := { k with gallery := m, bad := k.bad.filter (fun w => !(addr ≤ w && w + 8 ≤ addr + n)), badOnce := mendOnce k.badOnce addr n }
  (s.setDie d (if count then k'.countRun (.die d) addr n k.gallery m else k')).dropCopies own (.die d) addr n

/-- The block table's words from block `b` on written in its table pages (R300, log 17). -/
def State.writeTable (s : State) (d : DieId) (own : Agent) (e : SeqEntry) (b : Nat) : State :=
  ((e.table.drop b).zipIdx).foldl (fun s a => s.engineWrite d own (e.tableWord (b + a.2)) (leBytes 8 a.1) false) s

/-- A reservation of `n` slots (R310). -/
def SeqEntry.reserve (e : SeqEntry) (n : Nat) (frames pages : List Nat) : SeqEntry :=
  { e with res := e.res + n, table := e.table ++ frames, pages := e.pages ++ pages }

/-- C advances over committed slots (R304). -/
def advanceC : Nat → Nat → List Nat → Nat × List Nat
  | 0, c, marks => (c, marks)
  | n + 1, c, marks => if c ∈ marks then advanceC n (c + 1) (marks.filter (· ≠ c)) else (c, marks)

/-- A commit of slots `f` to `f + n − 1` (R304, R311); none where they are not all RESERVED. -/
def SeqEntry.commit (e : SeqEntry) (f n : Nat) : Option SeqEntry :=
  if n = 0 ∨ e.res < f + n ∨ f < e.c ∨ (List.range n).any (fun i => f + i ∈ e.marks) then none
  else
    let r := advanceC (e.marks.length + n) e.c (e.marks ++ (List.range n).map (f + ·))
    some { e with c := r.1, marks := r.2 }

/-- The dimension of a key–value sequence (R300). -/
def SeqEntry.dim (e : SeqEntry) : Nat := if e.size = 80 then 64 else if e.size = 160 then 128 else 256

/-- Bytes with a run put to zero. -/
def zeroRun (bs : List Byte) (lo n : Nat) : List Byte := bs.take lo ++ List.replicate (min n (bs.length - lo)) 0 ++ bs.drop (lo + n)

/-- The copy of a tail block, with its slots from `k` upward cleared (R313). -/
def SeqEntry.clearTail (e : SeqEntry) (k : Nat) (bs : List Byte) : List Byte :=
  if !e.kv then zeroRun bs (k * e.size) (bs.length - k * e.size)
  else
    let dim := e.dim
    let bs := zeroRun bs (48 + 2 * k) (2 * (16 - k))
    let bs := zeroRun bs (80 + 2 * dim + k * (dim / 2)) ((16 - k) * (dim / 2))
    let bs := zeroRun bs (80 + 10 * dim + k * (dim / 2)) ((16 - k) * (dim / 2))
    bs.zipIdx.map (fun p =>
      if 16 ≤ p.2 ∧ p.2 < 48 ∧ p.2 % 4 = 1 ∧ k ≤ bitsAt (bs.getD (p.2 - 1) 0).toNat 0 4 then p.1 &&& 0xEF else p.1)

/-- A fork (R313): the child's entry, its tail frame and the frame list; none where a pool or a count refuses it. -/
def Die.forked (k : Die) (shadow : Bool) (e : SeqEntry) (owner : Option SlotId) :
    Option (SeqEntry × Option Nat × Tbl Nat (Nat × Nat)) :=
  let shared := e.table.take (e.c / 16)
  let base := { e with res := e.c, marks := [], table := shared, pages := [], owner := owner }
  if shared.any (fun f => match tfind k.frames f with
      | some r => 65535 ≤ r.2
      | none => false) then none
  else
    match k.take shadow base e.c with
    | none => none
    | some (fs, ps, frames) =>
      some ({ base with table := shared ++ fs, pages := ps }, fs.head?, shared.foldl shareFrame frames)

/-- Whether the clearing of a tail block covers the whole word at an offset. -/
def SeqEntry.clearsWord (e : SeqEntry) (k off : Nat) : Bool :=
  ((e.clearTail k (List.replicate e.frameLen 0xFF)).drop off).take 8 = List.replicate 8 0

/-- The tail of a fork copied and cleared: the words of the copy of an erroneous word are erroneous too, but for those that the clearing
replaces whole (R313, R367). -/
def State.copyTail (s : State) (d : DieId) (own : Agent) (e : SeqEntry) (new : Nat) (count : Bool) : State :=
  let k := s.die d
  let old := e.table.getD (e.c / 16) 0
  let t := (s.meetDie d old e.frameLen).engineWrite d own new (e.clearTail (e.c % 16) (memRead k.gallery old e.frameLen)) count
  t.modDie d (fun k' => { k' with
    bad := k'.bad ++ ((words8 old e.frameLen).filter (fun w => w ∈ k.bad && !e.clearsWord (e.c % 16) (w - old))).map
      (fun w => w - old + new) })

/-- The frames of an entry released, with its block-map entries (R314). -/
def Die.release (k : Die) (h : Nat) : Die :=
  { k with frames := (k.seq h).table.foldl dropFrame k.frames, seqs := tdel k.seqs h,
           blockMap := k.blockMap.filter (fun b => b.1 ≠ h) }

/-- The lowest FREE handle (R309). -/
def Die.freeHandle (k : Die) : Option Nat := (List.range 65536).find? (fun h => (k.seq h).st = 0)

/-! ## Serving control requests (R307–R314) -/

/-- What serving a request comes to: it waits at the head of the queue, or it is done in a number of cycles. -/
inductive Serve where
  | wait (s : State)
  | done (s : State) (cost : Nat) (word : Word) (trap : Option (Nat × Word))

/-- `SQ.NEW` served (R309). -/
def State.serveNew (s : State) (d : DieId) (q : EngReq) (a : Word) : Serve :=
  let size := wbits a 0 17
  let kv := a.getLsbD 24
  if size % 16 ≠ 0 ∨ size < 16 ∨ 65536 < size ∨ (kv ∧ size ∉ [80, 160, 304]) ∨ a.toNat ≠ size + bit kv * 2 ^ 24 then
    .done s 32 0 (seqError 0 0 4)
  else
    match (s.die d).freeHandle with
    | none => .done s 32 refusal none
    | some h =>
      let e : SeqEntry := { SeqEntry.free with st := 1, size := size, kv := kv, owner := slotOf q.own, gen := q.id }
      let s := s.modDie d (fun k => { k with seqs := tset k.seqs h e })
      .done (if s.hasMirror e then s.forward d (.create h size kv q.id) else s) 32 (toWord h) none

/-- A request on a mirrored sequence is forwarded once, and waits for the mirror (R433). -/
def State.askMirror (s : State) (d : DieId) (q : EngReq) (m : MirrorOp) : State :=
  (s.forward d m).modDie d (fun k => { k with mirrorOut := k.mirrorOut ++ [{ id := q.id, own := q.own }] })

/-- `SQ.RES` served (R310); `asked` says that the mirror has accepted it. -/
def State.serveRes (s : State) (d : DieId) (q : EngReq) (hw nw : Word) (asked : Bool) : Serve :=
  let k := s.die d
  let h := wbits hw 0 16
  let e := k.seq h
  let n := nw.toNat
  match k.seqWhy hw false with
  | some why => .done s 28 0 (seqError e.c hw why)
  | none =>
    if n < 1 ∨ 4096 < n then .done s 28 0 (seqError e.c hw 5)
    else if 4194304 < e.res + n then .done s 28 0 (seqError e.c hw 7)
    else if 4096 < e.res + n - e.c then .done s 28 refusal none
    else
      match k.take false e (e.res + n) with
      | none => .done s 28 refusal none
      | some (fs, ps, frames) =>
        let e' := e.reserve n fs ps
        let lines := fs.flatMap (fun f => s.snooped d f e.frameLen true) ++
          ((List.range fs.length).flatMap (fun j => s.snooped d (e'.tableWord (e.table.length + j)) 8 true)).dedup
        if lines ≠ [] then .wait (s.backInvalidate d.pkg lines true)
        else if s.hasMirror e ∧ !asked then .wait (s.askMirror d q (.reserve h n q.id))
        else
          let s := s.setDie d { k with seqs := tset k.seqs h e', frames := frames }
          .done ((fs.foldl (fun s f => s.zeroFrame d q.own f e.frameLen true) s).writeTable d q.own e' e.table.length)
            (28 + fs.length * (8 + ceilDiv e.frameLen 1024)) (toWord e.res) none

/-- `SQ.COM` served (R311). -/
def State.serveCom (s : State) (d : DieId) (q : EngReq) (fw hw nw : Word) : Serve :=
  let k := s.die d
  let h := wbits hw 0 16
  let e := k.seq h
  match k.seqWhy hw false with
  | some why => .done s 24 0 (seqError e.c hw why)
  | none =>
    match e.commit fw.toNat nw.toNat with
    | none => .done s 24 0 (seqError e.c hw 6)
    | some e' =>
      let s := s.setDie d { k with seqs := tset k.seqs h e' }
      .done (if s.hasMirror e then s.askMirror d q (.commit h fw.toNat nw.toNat q.id) else s) 24 0 none

/-- `SQ.LEN` served (R312): a REMOTE entry is read at its home (R323). -/
def State.serveLen (s : State) (d : DieId) (q : EngReq) (hw qw : Word) : Serve :=
  let k := s.die d
  let e := k.seq (wbits hw 0 16)
  match k.seqWhy hw true with
  | some why => .done s 24 0 (seqError e.c hw why)
  | none =>
    let give := fun (v : SeqEntry) (hops : Nat) =>
      let i := wbits qw 0 22
      let cost := 24 + 2 * hops
      match wbits qw 60 4 with
      | 0 => Serve.done s cost (toWord v.c) none
      | 1 => .done s cost (toWord v.res) none
      | 2 => if e.st = 1 ∧ i < e.res then
            if s.tableLines d e [i / 16] ≠ [] then .wait (s.backInvalidate d.pkg (s.tableLines d e [i / 16]) false)
            else
            let t := s.meetTable d (wbits hw 0 16) e [i / 16] q.own
            if k.tableBad e [i / 16] then .done t cost 0 (seqError e.c hw 3)
            else .done t cost (toWord (e.table.getD (i / 16) 0 + i % 16 * e.size)) none
          else .done s cost 0 (seqError v.c hw 8)
      | 3 => .done s cost (toWord (v.size + bit v.kv * 2 ^ 17 + e.st * 2 ^ 18 + v.table.length * 2 ^ 32)) none
      | _ => .done s cost 0 (seqError v.c hw 8)
    match e.home with
    | none => give e 0
    | some (home, hh) =>
      match s.reach d home with
      | .wait => .wait s
      | .fail _ => .done s 24 0 (seqError 0 hw 3)
      | .ok hops =>
        let v := (s.die home).seq hh
        if v.st = 0 then .done s (24 + 2 * hops) 0 (seqError 0 hw 1)
        else if v.st = 3 then .done s (24 + 2 * hops) 0 (seqError v.c hw 3)
        else give v hops

/-- The cycles of a fork (R307). -/
def SeqEntry.forkCost (e : SeqEntry) : Nat :=
  40 + 2 * (e.c / 16) + if e.c % 16 = 0 then 0 else ceilDiv e.frameLen 1024

/-- `SQ.FORK` served (R313). The child of a mirrored sequence is mirrored with it. -/
def State.serveFork (s : State) (d : DieId) (q : EngReq) (hw : Word) (asked : Bool) : Serve :=
  let k := s.die d
  let h := wbits hw 0 16
  let e := k.seq h
  match k.seqWhy hw false with
  | some why => .done s 40 0 (seqError e.c hw why)
  | none =>
    if s.tableLines d e (List.range (blocksFor e.c)) ≠ [] then
      .wait (s.backInvalidate d.pkg (s.tableLines d e (List.range (blocksFor e.c))) false)
    else
    let s := s.meetTable d h e (List.range (blocksFor e.c)) q.own
    if k.tableBad e (List.range (blocksFor e.c)) then .done s 40 0 (seqError e.c hw 3)
    else
      let k := s.die d
      match k.freeHandle, k.forked false e (if s.hasMirror e then e.owner else slotOf q.own) with
      | some child, some (ce, tail, frames) =>
        let lines := tail.toList.flatMap (fun f => s.snooped d f e.frameLen true) ++
          ((List.range ce.table.length).flatMap (fun j => s.snooped d (ce.tableWord j) 8 true)).dedup
        let tailLines := tail.toList.flatMap (fun _ => s.snooped d (e.table.getD (e.c / 16) 0) e.frameLen false)
        if lines ≠ [] ∨ tailLines ≠ [] then .wait ((s.backInvalidate d.pkg lines true).backInvalidate d.pkg tailLines false)
        else if s.hasMirror e ∧ !asked then .wait (s.askMirror d q (.fork h child q.id))
        else
          let t := (s.setDie d { k with seqs := tset k.seqs child { ce with gen := q.id }, frames := frames }).writeTable d q.own ce 0
          .done (match tail with
            | some f => t.copyTail d q.own e f true
            | none => t) e.forkCost (toWord child) none
      | _, _ => .done s 40 refusal none

/-- `SQ.DROP` served (R314). -/
def State.serveDrop (s : State) (d : DieId) (q : EngReq) (hw : Word) : Serve :=
  let k := s.die d
  let h := wbits hw 0 16
  let e := k.seq h
  match k.seqWhy hw false with
  | some why => .done s 28 0 (seqError e.c hw why)
  | none =>
    if s.tableLines d e (List.range e.table.length) ≠ [] then
      .wait (s.backInvalidate d.pkg (s.tableLines d e (List.range e.table.length)) false)
    else
    let s := s.meetTable d h e (List.range e.table.length) q.own
    if k.tableBad e (List.range e.table.length) then .done s 28 0 (seqError e.c hw 3)
    else
      let s := s.modDie d (·.release h)
      .done (if s.hasMirror e then s.forward d (.drop h q.id) else s) (28 + 2 * e.table.length) 0 none

/-! ## The far tier (R323–R325) -/

/-- The cycle from which the far-read bucket has supplied `n` lines, the bucket then, and its last refill (R324); none where it never
will. The bucket holds at most `BURST` and gains `RATE` every 1,024 cycles; a read that waits takes what each refill brings, and what is
left of a refill still to come can be taken only once it has come. -/
def Die.draw (k : Die) (now n : Nat) : Option (Nat × Nat × Nat) :=
  let rate := wbits k.farrate 0 16
  let gain := min rate (wbits k.farrate 16 16)
  if rate = 0 then some (now, k.bucket, k.bucketStamp)
  else if n ≤ k.bucket then some (max now k.bucketStamp, k.bucket - n, k.bucketStamp)
  else if gain = 0 then none
  else
    let periods := ceilDiv (n - k.bucket) gain
    some (max now (k.bucketStamp + 1024 * periods), k.bucket + periods * gain - n, k.bucketStamp + 1024 * periods)

/-- Whether far lines can be read at all. -/
def State.farReads (s : State) (d : DieId) (n : Nat) : Bool := n = 0 || ((s.die d).draw s.cycle n).isSome

/-- Far lines read: the cycles that the engine waits for them. -/
def State.drawLines (s : State) (d : DieId) (n : Nat) : State × Nat :=
  if n = 0 then (s, 0)
  else match (s.die d).draw s.cycle n with
    | some r => (s.modDie d (fun k => { k with bucket := r.2.1, bucketStamp := r.2.2 }), r.1 - s.cycle)
    | none => (s, 0)

/-- `FAR_READ_BUCKET_REFILL` (R324). -/
def execFarReadBucketRefill (d : DieId) (s : State) : Out :=
  let k := s.die d
  let rate := wbits k.farrate 0 16
  if rate = 0 ∨ s.cycle < k.bucketStamp + 1024 then .fault .noSuchItem
  else .next (s.setDie d { k with
    bucket := max k.bucket (min (wbits k.farrate 16 16) (k.bucket + rate)), bucketStamp := k.bucketStamp + 1024 })

/-- Stage-ahead copies begun, one behind the other (R325). -/
def State.beginCopies (s : State) (d : DieId) (i : SlotId) (h : Nat) (v : SeqEntry) (hops : Nat)
    (deadline : BitVec 32) (blocks : List Nat) : State :=
  (blocks.foldl (fun (acc : State × Nat) b =>
    let s := acc.1
    let k := s.die d
    let r := rangeOf k.sqpool
    match freeFrame r.1 r.2 v.frameLen k.frames with
    | none => acc
    | some f =>
      let w := s.drawLines d (ceilDiv v.frameLen 64)
      let due := max acc.2 (s.cycle + w.2) + 2 * hops + 8 * ceilDiv v.frameLen 512
      let c : AheadCopy := { id := s.uid, slot := i, handle := h, block := b, frame := f, deadline := deadline, landed := false,
                              gen := v.gen }
      ((w.1.modDie d (fun k => { k with frames := tset k.frames f (v.frameLen, 1), ahead := k.ahead ++ [c] })).schedule due priLate
        (.stageAheadCopyLand d s.uid)).tick1 |> fun t => (t, due)) (s, s.cycle + 24)).1

/-- `SQ.PRE` served (R325). -/
def State.servePre (s : State) (d : DieId) (q : EngReq) (rw hw bw : Word) : Serve :=
  let k := s.die d
  let h := wbits hw 0 16
  let e := k.seq h
  let b := wbits bw 0 18
  let n := wbits bw 20 8 + 1
  match k.seqWhy hw true with
  | some why => .done s 24 0 (seqError e.c hw why)
  | none =>
    let why9 := fun (c : Nat) => if 262144 < b + n then seqError c hw 9 else none
    match e.home, slotOf q.own with
    | some (home, hh), some i =>
      (match s.reach d home with
      | .wait => .wait s
      | .fail _ => .done s 24 0 (why9 0)
      | .ok hops =>
        let v := (s.die home).seq hh
        if v.st = 3 then .done s (24 + 2 * hops) 0 (seqError v.c hw 3)
        else if why9 v.c ≠ none then .done s (24 + 2 * hops) 0 (why9 v.c)
        else if v.st ≠ 1 then .done s (24 + 2 * hops) 0 none
        else
          let blocks := ((List.range n).map (b + ·)).filter (fun b => 16 * (b + 1) ≤ v.c)
          if s.tableLines home v blocks ≠ [] then .wait (s.backInvalidate home.pkg (s.tableLines home v blocks) false)
          else if (s.die home).tableBad v blocks then
            .done (s.meetTable home hh v blocks q.own) (24 + 2 * hops) 0 (seqError v.c hw 3)
          else if blocks ≠ [] ∧ !s.farReads d (blocks.length * ceilDiv v.frameLen 64) then .wait s
          else
          let s := s.meetTable home hh v blocks q.own
          .done (s.beginCopies d i h v hops (BitVec.ofNat 32 (wbits rw 0 32)) blocks) (24 + 2 * hops) 0 none)
    | _, _ => .done s 24 0 (why9 e.c)

/-- A copy gone, and its frame back in the pool. -/
def Die.dropAhead (k : Die) (id frame : Nat) : Die :=
  { k with ahead := k.ahead.filter (fun c => c.id ≠ id), frames := dropFrame k.frames frame }

/-- Whether the round of a copy's slot is past its deadline (R325). -/
def State.copyLate (s : State) (c : AheadCopy) : Bool := phaseBefore c.deadline (s.ctx (.stage c.slot)).cr.rnd

/-- `STAGE_AHEAD_COPY_LAND` (R325, R326): late copies, copies that met an error, and copies of a sequence that is gone are discarded. The copy waits for a line of either
frame that the host holds (R392). -/
def execStageAheadCopyLand (d : DieId) (id : Nat) (s : State) : Out :=
  let k := s.die d
  match k.ahead.find? (fun c => c.id = id) with
  | none => .fault .noSuchItem
  | some c =>
    match (k.seq c.handle).home with
    | none => .next (s.setDie d (k.dropAhead id c.frame))
    | some (home, hh) =>
      if s.copyLate c then
        .next (s.setDie d { k.dropAhead id c.frame with sqlate := toWord ((k.sqlate.toNat + 1) % 2 ^ 32) })
      else
        let s := s.meetEntry d c.handle (.stage c.slot)
        let v := (s.die home).seq hh
        let src := v.table.getD c.block 0
        let lines := s.tableLines home v [c.block] ++ s.snooped home src v.frameLen false
        let own := s.snooped d c.frame v.frameLen true
        if v.st ≠ 1 ∨ v.gen ≠ c.gen then .next (s.modDie d (·.dropAhead id c.frame))
        else if lines ≠ [] ∨ own ≠ [] then
          .next (((s.backInvalidate home.pkg lines false).backInvalidate d.pkg own true).schedule (s.cycle + 1) priLate
            (.stageAheadCopyLand d id))
        else if (s.die home).tableBad v [c.block] then
          .next ((s.meetTable home hh v [c.block] (.stage c.slot)).modDie d (·.dropAhead id c.frame))
        else
        let s := (s.meetTable home hh v [c.block] (.stage c.slot)).meetDie home src v.frameLen
        if (firstBad (s.die home).bad src v.frameLen).isSome then
          .next ((s.modDie d (·.dropAhead id c.frame)).dieEvent d 0x19 2 (some c.slot) 0 c.handle)
        else
          let s := s.engineWrite d (.stage c.slot) c.frame (memRead (s.die home).gallery src v.frameLen) false
          .next (s.modDie d (fun k => { k with
            ahead := k.ahead.map (fun e => if e.id = id then { e with landed := true } else e) }))

/-- The copies whose slot's round is past their deadline are freed (R325). -/
def State.expireCopies (s : State) (d : DieId) : State :=
  ((s.die d).ahead.filter (fun c => c.landed && s.copyLate c)).foldl (fun s c => s.modDie d (·.dropAhead c.id c.frame)) s

/-! ## Serving gathers (R317–R322) -/

/-- A read that a gather makes: where, how many bytes, for which block, and whether it counts as a far read (R324). -/
structure GRead where
  home : Home
  addr : Nat
  len : Nat
  blk : Nat
  far : Bool
  deriving DecidableEq, Repr

/-- A byte at a home; bytes of an erroneous word are delivered as zero (R326). -/
def State.goodByte (s : State) (h : Home) (a : Nat) : Byte :=
  if 8 * (a / 8) ∈ s.homeBad h then 0 else memByte (s.homeMem h) a

/-- The bytes of a read. -/
def State.gbytes (s : State) (r : GRead) : List Byte := (List.range r.len).map (fun i => s.goodByte r.home (r.addr + i))

/-- A number of `n` bytes read so. -/
def State.goodNat (s : State) (h : Home) (a n : Nat) : Nat := leNat ((List.range n).map (fun i => s.goodByte h (a + i)))

/-- The failures of reads that meet erroneous words. -/
def State.readFails (s : State) (rs : List GRead) : List (Nat × Nat) :=
  rs.filterMap (fun r => if (firstBad (s.homeBad r.home) r.addr r.len).isSome then some (6, r.blk) else none)

/-- The failure reported: of the lowest `WHY`, the first. -/
def worst (fs : List (Nat × Nat)) : Option (Nat × Nat) :=
  fs.foldl (fun b f => match b with
    | none => some f
    | some g => if f.1 < g.1 then some f else some g) none

/-- `TRAPV` of an engine response error (R321, R338). -/
def engineError (eng why tag blk h : Nat) : Word :=
  toWord (eng * 2 ^ 56 + why * 2 ^ 48 + tag % 16 * 2 ^ 44 + blk % 2 ^ 18 * 2 ^ 22 + h % 2 ^ 16)

/-- What a gather found: the state with its marks, the bytes it delivers, its failures, the cycles that it takes. -/
structure Gathered where
  st : State
  data : List Byte
  fails : List (Nat × Nat)
  cost : Nat

/-- What a gather comes to: a failure before any read, a wait, or what it gathered. -/
inductive GatherOut where
  | fails (s : State) (why : Nat)
  | waits (s : State)
  | snoops (ls : List (Nat × Nat))
  | done (g : Gathered)

/-- The host's copies that reads wait for (R392). -/
def State.readSnoops (s : State) (rs : List GRead) : List (Nat × Nat) :=
  rs.flatMap (fun r => match r.home with
    | .die d => (s.snooped d r.addr r.len false).map (fun l => (d.pkg, l))
    | .core _ => []
    | .ctrl _ => []
    | .host _ _ => [])

/-- A frame is marked for scrubbing, where a word of it was found erroneous (R326, log 78). -/
def Die.markFrame (k : Die) (w : Nat) : Die :=
  match k.frames.find? (fun f => decide (f.1 ≤ w) && decide (w < f.1 + f.2.1)) with
  | some f => if (f.1, f.2.1) ∈ k.scrubMarks then k else { k with scrubMarks := k.scrubMarks ++ [(f.1, f.2.1)] }
  | none => k

/-- The frame of an erroneous word that a gather met is marked. -/
def State.markFrame (s : State) (h : Home) (w : Nat) : State :=
  match h with
  | .die d => s.modDie d (·.markFrame w)
  | .core _ => s
  | .ctrl _ => s
  | .host _ _ => s

/-- Whether a word lies in a frame of its die's pool (R301, R326). -/
def State.inFrame (s : State) (h : Home) (w : Nat) : Bool :=
  match h with
  | .die d => (s.die d).frames.any (fun f => decide (f.1 ≤ w) && decide (w < f.1 + f.2.1))
  | .core _ => false
  | .ctrl _ => false
  | .host _ _ => false

/-- Reads made: errors are corrected and counted, and each erroneous word of a frame is reported, with the slot that gathers, to its
own die, and the frame marked for scrubbing (R326, R344, log 51). -/
def State.meetReads (s : State) (own : Agent) (rs : List GRead) : State :=
  rs.foldl (fun s r =>
    ((words8 r.addr r.len).filter (fun w => w ∈ s.homeBad r.home && s.inFrame r.home w)).foldl
      (fun s w => (s.markFrame r.home w).dieEvent (dieOf own) 0x18 (homeUnit r.home) (slotOf own) 0 (homeAddr r.home w)) (s.meetHome r.home r.addr r.len)) s

/-- A `GATH` request's runs put as reads (R318): in fabric space every page of a run is translated, and a fault takes its
place, and 0 says that the way to a home waits for a link. Also the pages that had to be walked for, the longest way, and the home that a
partition key keeps it from. -/
def State.fabricRun (s : State) (d : DieId) (sp : Span) : List (Nat × (GRead ⊕ Nat) × Option Nat × Nat × Option DieId) :=
  let cut := ((2 ^ 21 : Int) - sp.addr % 2 ^ 21).toNat
  let parts : List (Int × Nat) := if cut < sp.len then [(sp.addr, cut), (sp.addr + cut, sp.len - cut)] else [(sp.addr, sp.len)]
  parts.map (fun p =>
    let k := s.die d
    let miss := if (k.translate p.1 false).isNone then some (vpnOf p.1.toNat) else none
    match k.translate p.1 true with
    | none => (p.2, .inr 4, miss, 0, none)
    | some (.fault _) => (p.2, .inr 4, miss, 0, none)
    | some (.check _) => (p.2, .inr 6, miss, 0, none)
    | some (.ok e) =>
      match s.entryFault d e .load, (s.pkg d.pkg).resolve (wbits e 24 14) with
      | none, some pos =>
        let place := s.entryPlace pos e p.1.toNat p.2
        if !(s.pkg d.pkg).member (wbits e 24 14) then (p.2, .inr 5, miss, 0, none)
        else
          match s.reach d (s.homeDie place.home) with
          | .ok hops => (p.2, .inl { home := place.home, addr := place.addr, len := p.2, blk := 0, far := false }, miss, hops, none)
          | .wait => (p.2, .inr 0, miss, 0, none)
          | .fail w => (p.2, .inr w, miss, 0, if w = 5 then some (s.homeDie place.home) else none)
      | _, _ => (p.2, .inr 4, miss, 0, none))

/-- The pages that a gather walked for are installed (R363). -/
def State.walkPages (s : State) (d : DieId) (vpns : List Nat) : State :=
  vpns.foldl (fun s vpn => (s.meetWalk d (vpn * 2 ^ 21)).modDie d (fun k => { k with
    ftmiss := k.ftmiss + 1,
    tlb := match k.walk (vpn * 2 ^ 21) with
      | .ok e => tset k.tlb (vpn % 262144) (vpn, e)
      | .fault _ => k.tlb
      | .check _ => k.tlb })) s

/-- A `GATH` served (R318, R321): the runs in order, each padded to `stride` bytes of the result. -/
def State.gatherRuns (s : State) (d : DieId) (own : Agent) (space : Nat) (runs : List Span) (base : Nat) :
    GatherOut :=
  let parts : List (Nat × (GRead ⊕ Nat) × Option Nat × Nat × Option DieId) :=
    if space = 2 then runs.map (fun sp =>
      (sp.len, .inl { home := .die d, addr := sp.addr.toNat, len := sp.len, blk := 0, far := false }, none, 0, none))
    else runs.flatMap (fun sp => s.fabricRun d sp)
  let reads := parts.filterMap (fun p => match p.2.1 with
    | .inl r => some r
    | .inr _ => none)
  let vpns := (parts.filterMap (·.2.2.1)).dedup
  let snoops := s.readSnoops reads ++ (vpns.flatMap (s.walkLines d)).map (fun l => (d.pkg, l))
  let waits := parts.any (fun p => match p.2.1 with
    | .inl _ => false
    | .inr w => w = 0)
  if waits then .waits s
  else if snoops ≠ [] then .snoops snoops
  else
    let data := parts.flatMap (fun p => match p.2.1 with
      | .inl r => s.gbytes r
      | .inr _ => List.replicate p.1 0)
    let fails := (parts.filterMap (fun p => match p.2.1 with
      | .inl _ => none
      | .inr w => some (w, 0))) ++ s.readFails reads
    let hops := (parts.map (·.2.2.2.1)).foldl max 0
    let bytes := (reads.map (·.len)).foldl (· + ·) 0
    let lost := (parts.filterMap (·.2.2.2.2)).dedup
    .done { st := lost.foldl (fun t h => t.keyLost d h) ((s.walkPages d vpns).meetReads own reads), data := data, fails := fails,
            cost := base + (if base = 40 then 8 * ceilDiv bytes 512 else 0) + 80 * vpns.length + 2 * hops }

/-- A block of a sequence as a gather reads it: its frame's home and address, whether it is a far read, and whether the
block map missed it. -/
structure BlockAt where
  home : DieId
  addr : Nat
  far : Bool
  miss : Bool

/-- Where a gather of an agent finds a block (R317, R325): a landed stage-ahead copy of its slot comes first, where the sequence
is the one that it was made from: a copy changes no result. -/
def State.blockAt (s : State) (d : DieId) (own : Agent) (h : Nat) (home : DieId) (v : SeqEntry) (b : Nat) : BlockAt :=
  let k := s.die d
  let miss := (h, b) ∉ k.blockMap
  match k.ahead.find? (fun c => slotOf own = some c.slot && c.handle = h && c.block = b && c.landed && c.gen = v.gen && !s.copyLate c) with
  | some c => { home := d, addr := c.frame, far := false, miss := miss }
  | none => { home := home, addr := v.table.getD b 0, far := home ≠ d, miss := miss }

/-- The block map takes the blocks that missed (R317). -/
def mapBlocks (m : List (Nat × Nat)) (h : Nat) (bs : List Nat) : List (Nat × Nat) :=
  let m' := m ++ (bs.map (fun b => (h, b))).filter (· ∉ m)
  m'.drop (m'.length - 4096)

/-- What `SQ.GATH` covers (R319): the first slot, and the slot behind the last covered one. -/
def coverOf (b : Word) (span c : Nat) : Nat × Nat :=
  let t0 := wbits b 0 22
  let l := wbits b 22 22
  (t0, min (min (t0 + span) (if l = 0 then t0 + span else l)) c)

/-- The runs of a `raw` gather (R320): each covered slot's bytes that fall in the tile, in order. -/
def rawRuns (v : SeqEntry) (cover : Nat × Nat) (at_ : Nat → BlockAt) : List GRead :=
  (List.range (cover.2 - cover.1)).map (fun i =>
    let slot := cover.1 + i
    let b := at_ (slot / 16)
    { home := .die b.home, addr := b.addr + slot % 16 * v.size, len := min v.size (4096 - i * v.size),
      blk := slot / 16, far := b.far })

/-- The reads of a `keys` or `values` gather in one block (R113): its header, outliers or value scales, key scales, and the
nibbles of the covered tokens. -/
def kvReads (keys : Bool) (v : SeqEntry) (cover : Nat × Nat) (ch n : Nat) (blk : Nat) (b : BlockAt) : List GRead :=
  let at_ := fun (off len : Nat) => ({ home := .die b.home, addr := b.addr + off, len := len, blk := blk, far := b.far } : GRead)
  let lo := max cover.1 (16 * blk) - 16 * blk
  let hi := min cover.2 (16 * blk + 16) - 16 * blk
  let dim := v.dim
  at_ 0 16 :: (if keys then [at_ 16 32, at_ (80 + 2 * ch) (2 * n)] else [at_ (48 + 2 * lo) (2 * (hi - lo))]) ++
    ((List.range (hi - lo)).map (fun t =>
      at_ (80 + (if keys then 2 else 10) * dim + ((lo + t) * dim + ch) / 2) (n / 2)))

/-- Whether a block is malformed (R114, R320). -/
def State.blockBad (s : State) (b : BlockAt) (dim : Nat) : Bool :=
  let w := s.goodNat (.die b.home) b.addr 16
  w ≠ (if dim = 64 then 0 else if dim = 128 then 1 else 2)

/-- The outlier that governs a key (R114): the last valid entry that names it. -/
def State.outlier (s : State) (b : BlockAt) (tok ch : Nat) : Option Nat :=
  (((List.range 8).map (fun j => s.goodNat (.die b.home) (b.addr + 16 + 4 * j) 4)).filter (fun w =>
    bitsAt w 12 1 = 1 && bitsAt w 4 8 = ch && bitsAt w 0 4 = tok)).getLast?.map (fun w => bitsAt w 16 16)

/-- An element of a block, dequantised and rounded to BF16 (R114). -/
def State.dequant (s : State) (keys : Bool) (b : BlockAt) (dim tok ch : Nat) : Nat :=
  let h : Home := .die b.home
  let e := tok * dim + ch
  let q := bitsAt (s.goodByte h (b.addr + 80 + (if keys then 2 else 10) * dim + e / 2)).toNat (4 * (e % 2)) 4
  let scale := s.goodNat h (b.addr + if keys then 80 + 2 * ch else 48 + 2 * tok) 2
  let plain := (encodeF bf16 .rne (fprod (ofInt (signedOf 4 q)) (fval fp16 scale)).1).1
  if keys then
    match s.outlier b tok ch with
    | some w => (encodeF bf16 .rne (fval fp16 w)).1
    | none => plain
  else plain

/-- The blocks that slots from `lo` up to `hi` lie in. -/
def blocksIn (lo hi : Nat) : List Nat := if lo < hi then (List.range ((hi - 1) / 16 + 1 - lo / 16)).map (lo / 16 + ·) else []

/-- The sequence that a gather reads (R321, R323): its home and its entry there, the way, or the failure. -/
def State.gatherSeq (s : State) (d : DieId) (h : Nat) : (DieId × SeqEntry × Nat) ⊕ Option Nat :=
  let e := (s.die d).seq h
  match e.home with
  | none => if e.st = 1 then .inl (d, e, 0) else .inr (some 1)
  | some (home, hh) =>
    if e.st ≠ 2 then .inr (some 1)
    else
      match s.reach d home with
      | .wait => .inr none
      | .fail w => .inr (some w)
      | .ok hops => if ((s.die home).seq hh).st = 1 then .inl (home, (s.die home).seq hh, hops) else .inr (some 1)

/-- `SQ.GATH` served (R319–R322). A block whose table word cannot be read is delivered as zeros, and the entry fails (R326). -/
def State.gatherSlots (s : State) (d : DieId) (own : Agent) (td : Desc) (mode : BitVec 2) (bw : Word) : GatherOut :=
  let h := wbits td[0] 0 16
  let s := s.meetEntry d h own
  match s.gatherSeq d h with
  | .inr (some why) => .fails s why
  | .inr none => .waits s
  | .inl (home, v, hops) =>
    if mode ≠ 0 ∧ !v.kv then .fails s 2
    else
      let keys := decide (mode = 1)
      let span := if mode = 0 then ceilDiv 4096 v.size else if keys then 32 else 64
      let cover := coverOf bw span v.c
      let at_ := fun b => s.blockAt d own h home v b
      let blocks := blocksIn cover.1 cover.2
      let missed := blocks.filter (fun b => (at_ b).miss)
      let lost := missed.filter (fun b => (s.die home).tableBad v [b])
      let ch := 32 * wbits bw 44 4
      let n := min (if keys then 64 else 32) (v.dim - ch)
      let raw := rawRuns v cover at_
      let reads := (if mode = 0 then raw else blocks.flatMap (fun b => kvReads keys v cover ch n b (at_ b))).filter
        (fun r => r.blk ∉ lost)
      let snoops := s.readSnoops reads ++ (s.tableLines home v missed).map (fun l => (home.pkg, l))
      let far := ((reads.filter (·.far)).flatMap (fun r => linesOf r.addr r.len)).dedup.length
      if snoops ≠ [] then .snoops snoops
      else if !s.farReads d far then .waits s
      else
        let badBlocks := if mode = 0 then [] else blocks.filter (fun b => b ∉ lost && s.blockBad (at_ b) v.dim)
        let elem := fun (tok c : Nat) =>
          if tok < cover.2 ∧ c < v.dim ∧ tok / 16 ∉ badBlocks ∧ tok / 16 ∉ lost then
            s.dequant keys (at_ (tok / 16)) v.dim (tok % 16) c
          else 0
        let data : List Byte :=
          if mode = 0 then raw.flatMap (fun r => if r.blk ∈ lost then List.replicate r.len 0 else s.gbytes r)
          else if keys then (List.range 64).flatMap (fun j => (List.range 32).flatMap (fun c =>
            leBytes 2 (elem (cover.1 + c) (ch + j))))
          else (List.range 64).flatMap (fun j => (List.range 32).flatMap (fun c => leBytes 2 (elem (cover.1 + j) (ch + c))))
        let bytes := (reads.map (·.len)).foldl (· + ·) 0
        let w := s.drawLines d far
        let hh := match ((s.die d).seq h).home with
          | some (_, x) => x
          | none => h
        let t := (w.1.modDie d (fun k => { k with blockMap := mapBlocks k.blockMap h (missed.filter (· ∉ lost)) })).meetTable
          home hh v missed own
        .done { st := t.meetReads own reads, data := data,
                fails := lost.map (fun b => (1, b)) ++ badBlocks.map (fun b => (3, b)) ++ s.readFails reads,
                cost := 48 + 4 * blocks.length + 16 * missed.length + 8 * ceilDiv bytes 512 + w.2 +
                  (if home = d then 0 else 2 * hops) }

/-- A fill put under way (R317, R321): it is done in the cycle before its tag is seen ready. -/
def State.startFill (s : State) (d : DieId) (q : EngReq) (tag : BitVec 4) (v : Option (BitVec 5)) (t : Option (BitVec 3))
    (data : List Byte) (fail : Option (Nat × Nat)) (h cost : Nat) : State :=
  if !q.live then s
  else
    let f : Fill := { id := q.id, own := q.own, tag := tag, vreg := v, tile := t, data := data,
                      fail := fail.map (fun w => engineError 1 w.1 tag.toNat w.2 h), last := none, landed := false }
    (s.modDie d (fun k => { k with fills := k.fills ++ [f] })).schedule (s.cycle + cost - 1) priLate (.gatherFillDone d q.id)

/-- A gather of the engine's served: `wait` leaves it at the head of the queue. -/
def State.serveGather (s : State) (d : DieId) (q : EngReq) (tag : BitVec 4) (v : Option (BitVec 5)) (t : Option (BitVec 3))
    (n h : Nat) (g : GatherOut) : State :=
  match g with
  | .fails s' why => (s'.startFill d q tag v t (List.replicate n 0) (some (why, 0)) h 48).leaveEngine d q 48
  | .waits s' => s'
  | .snoops ls => ls.foldl (fun s l => s.backInvalidate l.1 [l.2] false) s
  | .done g => (g.st.startFill d q tag v t (padTo n g.data) (worst g.fails) h g.cost).leaveEngine d q g.cost

/-- A control request's outcome: the answer is given, but that of a mirrored `SQ.COM` waits for the mirror (R433). -/
def finishServe (d : DieId) (q : EngReq) : Serve → State
  | .wait t => t
  | .done t cost w trap =>
    let held := (t.die d).mirrorOut.any (fun m => m.id = q.id)
    (if held then t else t.reply q cost w trap).leaveEngine d q cost

/-- The handle that a control request names. -/
def EngOp.handle : EngOp → Option Word
  | .res h _ => some h
  | .com _ h _ => some h
  | .len h _ => some h
  | .fork h => some h
  | .drop h => some h
  | .pre _ h _ => some h
  | .new _ => none
  | .query _ => none
  | .rsp _ _ _ => none
  | .gathV _ _ _ => none
  | .gathT _ _ => none
  | .sqGath _ _ _ _ => none

/-- Whether a control request on a REMOTE handle goes to the sequence's home (R312, R325): the others are refused at its own die. -/
def EngOp.reachesHome : EngOp → Bool
  | .len _ _ | .pre _ _ _ => true
  | .res _ _ | .com _ _ _ | .fork _ | .drop _ | .new _ | .query _ | .rsp _ _ _ | .gathV _ _ _ | .gathT _ _ | .sqGath _ _ _ _ => false

/-- The head of a sequence engine's queue served. -/
def State.serveSeq (s : State) (d : DieId) (q : EngReq) (asked : Bool) : State :=
  let s := match q.op.handle with
    | some h => if wbits h 16 48 ≠ 0 then s
      else if q.op.reachesHome then s.meetEntry d (wbits h 0 16) q.own else s.meetOwnEntry d (wbits h 0 16) q.own
    | none => s
  match q.op with
  | .new a => finishServe d q (s.serveNew d q a)
  | .res h n => finishServe d q (s.serveRes d q h n asked)
  | .com f h n => finishServe d q (s.serveCom d q f h n)
  | .len h x => finishServe d q (s.serveLen d q h x)
  | .fork h => finishServe d q (s.serveFork d q h asked)
  | .drop h => finishServe d q (s.serveDrop d q h)
  | .pre r h b => finishServe d q (s.servePre d q r h b)
  | .gathV td v tag => s.serveGather d q tag (some v) none 128 0 (s.gatherRuns d q.own (Desc.space td) (Desc.gatherLanes td) 36)
  | .gathT td t => s.serveGather d q (t.zeroExtend 4) none (some t) 4096 0
      (s.gatherRuns d q.own (Desc.space td) (Desc.gatherRows td) 40)
  | .sqGath td t mode b => s.serveGather d q (t.zeroExtend 4) none (some t) 4096 (wbits td[0] 0 16)
      (s.gatherSlots d q.own td mode b)
  | .query _ => s
  | .rsp _ _ _ => s

/-- Whether the sequence engine of a die can serve: a request stands at the head, the engine is free, and the head does not
wait for the mirror. -/
def State.seqServable (s : State) (d : DieId) : Option EngReq :=
  let k := s.die d
  match k.head false with
  | none => none
  | some q => if k.engineFree ≤ s.cycle && !k.mirrorOut.any (fun m => m.id = q.id) then some q else none

/-- `SEQ_REQUEST_SERVE` (R292, R315). -/
def execSeqRequestServe (d : DieId) (s : State) : Out :=
  match s.seqServable d with
  | some q => .next (s.serveSeq d q false)
  | none => .fault .noSuchItem

/-- `GATHER_FILL_DONE` (R317, R318, R321): the bytes are delivered, then the tag becomes ready. -/
def execGatherFillDone (d : DieId) (id : Nat) (s : State) : Out :=
  match (s.die d).fills.find? (fun f => f.id = id) with
  | none => .fault .noSuchItem
  | some f =>
    let s := s.modDie d (fun k => { k with fills := k.fills.filter (fun g => g.id ≠ id) })
    let s := match f.vreg with
      | some r => s.modCtx f.own (fun c => { (c.wv r (bytesVec f.data)) with tags := { c.tags with filled := c.tags.filled ++
          (match f.own with
          | .stage i => if (s.slot i).fst = FiringState.trapped ∨ (s.slot i).fst = FiringState.parked then [r] else []
          | .sup _ => []) } })
      | none => s
    let s := match f.tile, f.own with
      | some t, .stage i => s.modCore i.core (fun k => { k.mendMat (tileWords t.toNat ++ scaleWords t.toNat) with tiles := k.tiles.set t.toNat { k.tiles[t.toNat] with
          bytes := BitVec.ofNat 32768 (leNat f.data), scale := BitVec.ofNat 2048 (leNat (List.replicate 256 0x7F)) } })
      | _, _ => s
    .next (s.modCtx f.own (fun c => c.fillTag f.tag.toNat f.fail))

/-! ## The mirror (R433) -/

/-- A shadow entry of a die. -/
def Die.shadow (k : Die) (home : DieId) (h : Nat) : Option Shadow := k.shadows.find? (fun e => e.home = home && e.handle = h)

/-- A shadow entry put in place of an older one. -/
def Die.setShadow (k : Die) (e : Shadow) : Die :=
  { k with shadows := k.shadows.filter (fun x => !(x.home = e.home && x.handle = e.handle)) ++ [e] }

/-- A shadow entry gone, with its frames and table pages. -/
def Die.dropShadow (k : Die) (home : DieId) (h : Nat) : Die :=
  match k.shadow home h with
  | none => k
  | some e => { k with frames := (e.entry.table ++ e.entry.pages).foldl dropFrame k.frames,
                       shadows := k.shadows.filter (fun x => !(x.home = home && x.handle = h)) }

/-- The agent that the writes of a mirror are made for. -/
def mirrorAgent (d : DieId) : Agent := .sup { die := d, k := 0 }

/-- A forwarded request applied to the shadows of a die: the state, and whether the mirror holds it. -/
def State.applyMirror (s : State) (d home : DieId) (m : MirrorOp) : State × Bool :=
  let k := s.die d
  match m with
  | .create h size kv _ =>
    let k := k.dropShadow home h
    (s.setDie d (k.setShadow { home := home, handle := h, entry := { SeqEntry.free with st := 1, size := size, kv := kv } }), true)
  | .reserve h n _ => (match k.shadow home h with
    | none => (s, false)
    | some e => match k.take true e.entry (e.entry.res + n) with
      | none => (s, false)
      | some (fs, ps, frames) =>
        let s := s.setDie d ({ k with frames := frames }.setShadow { e with entry := e.entry.reserve n fs ps })
        ((fs.foldl (fun s f => s.zeroFrame d (mirrorAgent d) f e.entry.frameLen false) s).writeTable d (mirrorAgent d)
          (e.entry.reserve n fs ps) e.entry.table.length, true))
  | .commit h f n _ => (match k.shadow home h with
    | none => (s, true)
    | some e => match e.entry.commit f n with
      | none => (s, true)
      | some e' => (s.setDie d (k.setShadow { e with entry := e' }), true))
  | .fork h child _ => (match k.shadow home h with
    | none => (s, false)
    | some e => match k.forked true e.entry none with
      | none => (s, false)
      | some (ce, tail, frames) =>
        let s := s.setDie d ({ (k.dropShadow home child) with frames := frames }.setShadow
          { home := home, handle := child, entry := ce })
        let s := s.writeTable d (mirrorAgent d) ce 0
        (match tail with
        | some f => s.copyTail d (mirrorAgent d) e.entry f false
        | none => s, true))
  | .drop h _ => (s.setDie d (k.dropShadow home h), true)
  | .store h slotIx off data => (match k.shadow home h with
    | none => (s, true)
    | some e => match e.entry.table[slotIx / 16]? with
      | none => (s, true)
      | some f =>
        let addr := f + slotIx % 16 * e.entry.size + off
        let r := writeAround k.bad k.gallery addr data
        (s.setDie d { k with gallery := r.1, bad := r.2.1, badOnce := mendOnce k.badOnce addr data.length }, true))

/-- The host's copies that a forwarded request waits for at the mirror: those of what it writes, and of what it reads (R392). -/
def State.mirrorLines (s : State) (d home : DieId) (m : MirrorOp) : List Nat × List Nat :=
  let k := s.die d
  let words := fun (e : SeqEntry) (b : Nat) =>
    ((List.range (e.table.length - b)).flatMap (fun j => s.snooped d (e.tableWord (b + j)) 8 true)).dedup
  match m with
  | .create _ _ _ _ => ([], [])
  | .commit _ _ _ _ => ([], [])
  | .drop _ _ => ([], [])
  | .reserve h n _ => (match k.shadow home h with
    | none => ([], [])
    | some e => match k.take true e.entry (e.entry.res + n) with
      | none => ([], [])
      | some (fs, ps, _) => (fs.flatMap (fun f => s.snooped d f e.entry.frameLen true) ++
          words (e.entry.reserve n fs ps) e.entry.table.length, []))
  | .fork h _ _ => (match k.shadow home h with
    | none => ([], [])
    | some e => match k.forked true e.entry none with
      | none => ([], [])
      | some (ce, tail, _) => (tail.toList.flatMap (fun f => s.snooped d f e.entry.frameLen true) ++ words ce 0,
          tail.toList.flatMap (fun _ => s.snooped d (e.entry.table.getD (e.entry.c / 16) 0) e.entry.frameLen false)))
  | .store h slotIx off data => (match k.shadow home h with
    | none => ([], [])
    | some e => match e.entry.table[slotIx / 16]? with
      | none => ([], [])
      | some f => (s.snooped d (f + slotIx % 16 * e.entry.size + off) data.length true, []))

/-- The identity of a forwarded request that the originating die waits for. -/
def ackOf : MirrorOp → Option Nat
  | .reserve _ _ id => some id
  | .commit _ _ _ id => some id
  | .fork _ _ id => some id
  | .store _ _ _ _ => none
  | .create _ _ _ _ => none
  | .drop _ _ => none

/-- A forwarded request carried out, and answered where the originating die waits for it. -/
def State.doMirror (s : State) (d : DieId) (m : MirrorMsg) : State :=
  let r := s.applyMirror d m.src m.op
  match ackOf m.op with
  | some id => r.1.sendFlit d m.src 30 priLate (.mirrorAcknowledgement m.src id r.2)
  | none => r.1

/-- The oldest forwarded request that waits at a mirror is carried out, and those behind it, up to the first for which the host still
holds a line: that one's lines are asked of the host (R392). -/
def State.settleMirror (s : State) (d : DieId) : Nat → State
  | 0 => s
  | n + 1 =>
    match (s.die d).mirrorIn with
    | [] => s
    | m :: r =>
      let l := s.mirrorLines d m.src m.op
      if l = ([], []) then ((s.modDie d (fun k => { k with mirrorIn := r })).doMirror d m).settleMirror d n
      else (s.backInvalidate d.pkg l.1 true).backInvalidate d.pkg l.2 false

/-- `MIRROR_FORWARD` (R433): it waits behind one that waits for the host (R392). -/
def execMirrorForward (d : DieId) (m : MirrorMsg) (s : State) : Out :=
  if (s.die d).mirrorIn = [] ∧ s.mirrorLines d m.src m.op = ([], []) then .next (s.doMirror d m)
  else .next (s.modDie d (fun k => { k with mirrorIn := k.mirrorIn ++ [m] }))

/-- `MIRROR_ACKNOWLEDGEMENT` (R433): the held answer of an `SQ.COM` is given; an `SQ.RES` or `SQ.FORK` is carried out, or
refused. -/
def execMirrorAcknowledgement (d : DieId) (id : Nat) (ok : Bool) (s : State) : Out :=
  let k := s.die d
  match k.mirrorOut.find? (fun m => m.id = id) with
  | none => .fault .noSuchItem
  | some m =>
    let s := s.setDie d { k with mirrorOut := k.mirrorOut.filter (fun e => e.id ≠ id) }
    match k.engine.find? (fun q => q.id = id) with
    | some q => .next (if ok then s.serveSeq d q true else finishServe d q (.done s 28 refusal none))
    | none => .next (s.answer m.own 0 0 none)

/-- `SUPERVISOR_FREES_ENTRY` (R299): a FAILED entry is FREE, and its frames and table pages are free. -/
def execSupervisorFreesEntry (d : DieId) (h : Nat) (s : State) : Out :=
  if ((s.die d).seq h).st = 3 then .next (s.setDie d ((s.die d).release h)) else .fault .noSuchItem

end Sys2Proof.Machine
end

