-- ==== Sys2Proof/Machine/Posting.lean ====
section
/-! DEFINITION. The posting engine (R327–R339). -/

namespace Sys2Proof.Machine

/-! ## The instructions (R336) -/

/-- `PL.REQ` (R337): a control request; illegal on a supervisor core. -/
def execPlReq (p : BitVec 4) (d a : BitVec 6) (s : State) : Out :=
  issue { controlSyl p d [a] (fun s => .query (s.rx a)) with typeOk := !isSup s.cur } s

/-- `PL.RSP` (R338). -/
def execPlRsp (p : BitVec 4) (v : BitVec 5) (q : BitVec 6) (t : BitVec 4) (s : State) : Out :=
  issue { memSyl p { xr := [q], vw := [physOf s.me.cr.vrb v] } (fun s =>
      let r := physOf s.me.cr.vrb v
      (s.askEngine (.rsp (s.rx q) r t)).takeTag t.toNat (some r)) with
    typeOk := !isSup s.cur && 8 ≤ t.toNat,
    wait := fun s => if s.tagKept t.toNat then .tag [t.toNat] else .go } s

/-! ## Blocks (R327, R328) -/

/-- The documents that deltas give, from the first on (R328). -/
def docsFrom : Nat → List Nat → List Nat
  | doc, [] => [doc]
  | doc, x :: r => doc :: docsFrom (doc + x + 1) r

/-- The postings of a block; none where it is malformed (R327, R328). -/
def decodeBlock (bs : List Byte) : Option (List (Nat × Nat)) :=
  let at_ := fun i => (bs.getD i 0).toNat
  let count := at_ 4
  let dw := at_ 5
  let fw := at_ 6
  let bits := (count - 1) * dw + count * fw
  if count < 1 ∨ 128 < count ∨ dw < 1 ∨ 24 < dw ∨ 12 < fw ∨ at_ 7 ≠ 0 ∨ 256 < 12 + ceilDiv bits 8 then none
  else
    let pay := leNat (bs.drop 12)
    let docs := docsFrom (leNat (bs.take 4)) ((List.range (count - 1)).map (fun i => bitsAt pay (i * dw) dw))
    let tfs := (List.range count).map (fun i => bitsAt pay ((count - 1) * dw + i * fw) fw + 1)
    if docs.any (2 ^ 32 ≤ ·) then none else some (docs.zip tfs)

/-! ## A query (R329–R333) -/

/-- A word of a query's descriptor. -/
def Query.word (q : Query) (n : Nat) : Word := q.desc.getD n 0
/-- `UNI`, `SCORE`, `FUSE` and `TOPK`. -/
def Query.uni (q : Query) : Bool := (q.word 0).getLsbD 0
@[inherit_doc Query.uni] def Query.score (q : Query) : Bool := (q.word 0).getLsbD 1
@[inherit_doc Query.uni] def Query.fuse (q : Query) : Bool := (q.word 0).getLsbD 2
@[inherit_doc Query.uni] def Query.topk (q : Query) : Bool := (q.word 0).getLsbD 3
/-- Whether scores read document lengths: `B` is not +0 (R331). -/
def Query.usesLens (q : Query) : Bool := q.score && wbits (q.word 1) 32 32 ≠ 0
/-- The address of a document's length. -/
def Query.lenAddr (q : Query) (doc : Nat) : Nat := wbits (q.word 4) 0 28 + 4 * doc
/-- The handle of a list. -/
def Query.handle (q : Query) (t : Nat) : Nat := wbits (q.terms.getD t 0) 0 16

/-- The fields that are reserved in a descriptor (R329), word by word. -/
def queryReserved (ws : List Word) : Bool :=
  let r := fun (n lo k : Nat) => wbits (ws.getD n 0) lo k ≠ 0
  r 0 4 4 || r 0 14 18 || r 0 42 22 || r 2 32 32 || r 4 28 36 || r 5 16 16 || r 6 32 32 || r 7 28 36

/-- What accepting a query finds (R335): the way to a list waits, a failure, or the words and the committed lengths. -/
inductive Accepted where
  | wait
  | fail (status blk h : Nat)
  | ok (q : Query)

/-- Whether a run of bytes lies in the stage window of an agent (R274). -/
def State.inWindow (s : State) (a : Agent) (addr n : Nat) : Bool := (s.window a).1 ≤ addr && addr + n ≤ (s.window a).2

/-- Words of a die's gallery. -/
def Die.words (k : Die) (addr n : Nat) : List Word := (List.range n).map (fun i => toWord (memNat k.gallery (addr + 8 * i) 8))

/-- A list or the score sequence checked (R335): its committed length, a failure, or none for a wait. -/
def State.listLen (s : State) (d : DieId) (h size : Nat) : Option (Nat ⊕ Nat) :=
  match s.gatherSeq d h with
  | .inl (_, v, _) => some (if v.bad then .inr 7 else if v.size = size ∧ !v.kv then .inl v.c else .inr 2)
  | .inr none => none
  | .inr (some w) => some (.inr (if w = 4 then 5 else if w = 5 then 6 else 2))

/-- The lists of a query checked in order. -/
def State.listLens (s : State) (d : DieId) : List Nat → Option (List Nat ⊕ (Nat × Nat))
  | [] => some (.inl [])
  | h :: r =>
    match s.listLen d h 256 with
    | none => none
    | some (.inr st) => some (.inr (st, h))
    | some (.inl c) =>
      match s.listLens d r with
      | some (.inl cs) => some (.inl (c :: cs))
      | x => x

/-- The descriptor and the term table read and checked, then the lists and the score sequence (R329, R332, R335, R339). -/
def State.accept (s : State) (d : DieId) (own : Agent) (xa : Word) : Accepted :=
  let k := s.die d
  let a := xa.toNat
  if a % 64 ≠ 0 ∨ !s.inWindow own a 64 then .fail 1 0 0
  else if (firstBad k.bad a 64).isSome then .fail 7 0 0
  else
    let q : Query := { Query.reset with desc := k.words a 8 }
    let nt := wbits (q.word 0) 8 6
    let terms := wbits (q.word 7) 0 28
    if queryReserved q.desc ∨ nt < 1 ∨ (if q.uni then 32 else 8) < nt ∨ terms % 8 ≠ 0 ∨ !s.inWindow own terms (8 * nt) then .fail 1 0 0
    else if (firstBad k.bad terms (8 * nt)).isSome then .fail 7 0 0
    else
      let q := { q with terms := k.words terms nt }
      if q.terms.any (fun w => wbits w 16 16 ≠ 0) then .fail 1 0 0
      else if q.usesLens ∧ (q.lenAddr 0 % 4 ≠ 0 ∨ (wbits (q.word 6) 0 32 ≠ 0 ∧ !s.inWindow own (q.lenAddr 0) (4 * wbits (q.word 6) 0 32)))
        then .fail 1 0 0
      else
        match s.listLens d ((List.range nt).map q.handle) with
        | none => .wait
        | some (.inr (st, h)) => .fail st 0 h
        | some (.inl cs) =>
          let q := { q with lens := cs, cursors := List.replicate nt { next := 0, posts := [] } }
          if !q.fuse then .ok q
          else
            match s.listLen d (wbits (q.word 5) 0 16) 16 with
            | none => .wait
            | some (.inr st) => .fail st 0 (wbits (q.word 5) 0 16)
            | some (.inl c) => .ok { q with scoreLen := c }

/-- The runs that accepting a query reads: the descriptor, and the term table behind it (R329). -/
def State.acceptReads (s : State) (d : DieId) (own : Agent) (xa : Word) : List (Nat × Nat) :=
  let k := s.die d
  let a := xa.toNat
  if a % 64 ≠ 0 ∨ !s.inWindow own a 64 then []
  else
    let nt := wbits ((k.words a 8).getD 0 0) 8 6
    let terms := wbits ((k.words a 8).getD 7 0) 0 28
    (a, 64) :: if (firstBad k.bad a 64).isSome ∨ queryReserved (k.words a 8) ∨ nt < 1 ∨ 32 < nt ∨ terms % 8 ≠ 0 ∨
      !s.inWindow own terms (8 * nt) then [] else [(terms, 8 * nt)]

/-- The host's copies that these reads wait for (R392). -/
def State.acceptLines (s : State) (d : DieId) (own : Agent) (xa : Word) : List Nat :=
  (s.acceptReads d own xa).flatMap (fun x => s.snooped d x.1 x.2 false)

/-- A pattern as FP32 after one rounding. -/
def toF32 (v : FVal) : Nat := (encodeF fp32 .rne v).1

/-- The lexical score (R331) of a document with the length `len` and the frequencies of the terms present. -/
def Query.lex (q : Query) (len : Nat) (tfs : List (Nat × Nat)) : Nat :=
  if !q.score then 0
  else
    let k1 := wbits (q.word 1) 0 32
    let b := wbits (q.word 1) 32 32
    let u := if b = 0 then 0x3F800000
      else toF32 (fsum (fsum (ofInt 1) (fval fp32 b).neg).1
        (fprod (fval fp32 b) (fval fp32 (fMul fp32 (toF32 (ofInt len)) (wbits (q.word 2) 0 32)).1)).1).1
    let kk := (fMul fp32 k1 u).1
    tfs.foldl (fun lex t =>
      let x := toF32 (ofInt t.2)
      (fAdd fp32 lex (fDiv fp32 (fMul fp32 x (wbits (q.terms.getD t.1 0) 32 32)).1 (fAdd fp32 x kk).1).1).1) 0

/-- The score with a vector score (R332). -/
def Query.fused (q : Query) (lex v : Nat) : Nat :=
  let alpha := wbits (q.word 3) 0 32
  let beta := wbits (q.word 3) 32 32
  (fFma fp32 (fMul fp32 beta v).1 alpha lex).1

/-- Whether a score ranks below another (R333): a NaN below every number, +0 equal to −0. -/
def scoreBelow (x y : Nat) : Bool :=
  let a := fval fp32 x
  let b := fval fp32 y
  if a.isNan then !b.isNan else !b.isNan && fless false a b

/-- Whether a candidate ranks ahead of a later one (R333). -/
def ranksAhead (a b : Nat × Nat) : Bool := scoreBelow b.2 a.2 || (!scoreBelow a.2 b.2 && a.1 ≤ b.1)

/-- A candidate put in its rank behind those that rank ahead of it. -/
def rankIn (c : Nat × Nat) : List (Nat × Nat) → List (Nat × Nat)
  | [] => [c]
  | a :: r => if ranksAhead a c then a :: rankIn c r else c :: a :: r

/-- A result added (R333): in order of emission, or among the best k. -/
def Query.addResult (q : Query) (doc score : Nat) : Query :=
  { q with results := if q.topk then (rankIn (doc, score) q.results).take (wbits (q.word 0) 32 10 + 1)
                      else q.results ++ [(doc, score)] }

/-- A query ends, with a failure where there is one: results that no chunk holds whole are lost (R335). -/
def Query.stop (q : Query) (now : Nat) (fail : Option (Nat × Nat × Nat)) : Query :=
  { q with ended := some now, fail := fail,
           results := if fail.isNone then q.results else if q.topk then [] else q.results.take (q.results.length / 15 * 15) }

/-- The list that needs a block next, by its term index. -/
def Query.need (q : Query) : Option Nat :=
  (List.range q.cursors.length).find? (fun t =>
    match q.cursors[t]? with
    | some c => c.posts = [] && c.next < q.lens.getD t 0
    | none => false)

/-- What a candidate's scoring comes to: a wait for the host's copies, a failure, or the query with the result. -/
inductive Scored where
  | wait (pkg : Nat) (lines : List Nat)
  | fail (status blk h : Nat)
  | ok (q : Query)

/-- A read that scoring makes: of 4 bytes, a document's length or a score (R331, R332), or of 8 bytes, a table word. -/
structure ScoreRead where
  home : DieId
  addr : Nat
  len : Nat

/-- A candidate scored (R331, R332, R335). -/
def State.scoreDoc (s : State) (d : DieId) (q : Query) (doc : Nat) (tfs : List (Nat × Nat)) : Scored :=
  let k := s.die d
  let t := ((tfs.map (·.1)).head?).getD 0
  let blk := ((q.cursors.map (·.next)).getD t 1) - 1
  let la := q.lenAddr doc
  let i := doc - wbits (q.word 5) 32 32
  let sh := wbits (q.word 5) 0 16
  let has := q.fuse && wbits (q.word 5) 32 32 ≤ doc && i / 4 < q.scoreLen
  if q.usesLens ∧ wbits (q.word 6) 0 32 ≤ doc then .fail 4 blk (q.handle t)
  else if q.usesLens ∧ s.snooped d la 4 false ≠ [] then .wait d.pkg (s.snooped d la 4 false)
  else if q.usesLens ∧ (firstBad k.bad la 4).isSome then .fail 7 blk (q.handle t)
  else
    let lex := q.lex (memNat k.gallery la 4) tfs
    if !q.fuse then .ok (q.addResult doc lex)
    else if !has then .ok { q.addResult doc (q.fused lex 0) with vmiss := true }
    else
      match s.gatherSeq d sh with
      | .inr none => .wait d.pkg []
      | .inr (some w) => .fail (if w = 4 then 5 else if w = 5 then 6 else 2) (i / 64) sh
      | .inl (home, v, _) =>
        let a := v.table.getD (i / 64) 0 + i / 4 % 16 * 16 + 4 * (i % 4)
        if v.bad ∨ (s.die home).tableBad v [i / 64] then .fail 7 (i / 64) sh
        else if s.tableLines home v [i / 64] ++ s.snooped home a 4 false ≠ [] then
          .wait home.pkg (s.tableLines home v [i / 64] ++ s.snooped home a 4 false)
        else if (firstBad (s.die home).bad a 4).isSome then .fail 7 (i / 64) sh
        else .ok (q.addResult doc (q.fused lex (memNat (s.die home).gallery a 4)))

/-- The reads that scoring a candidate makes (R331, R332). -/
def State.scoreReads (s : State) (d : DieId) (q : Query) (doc : Nat) : List ScoreRead :=
  let i := doc - wbits (q.word 5) 32 32
  (if q.usesLens ∧ doc < wbits (q.word 6) 0 32 then [{ home := d, addr := q.lenAddr doc, len := 4 }] else []) ++
  if q.fuse && wbits (q.word 5) 32 32 ≤ doc && i / 4 < q.scoreLen then
    match s.gatherSeq d (wbits (q.word 5) 0 16) with
    | .inl (home, v, _) =>
      if v.bad ∨ (s.die home).tableBad v [i / 64] then []
      else [{ home := home, addr := v.tableWord (i / 64), len := 8 },
            { home := home, addr := v.table.getD (i / 64) 0 + i / 4 % 16 * 16 + 4 * (i % 4), len := 4 }]
    | .inr _ => []
  else []

/-- The document at a cursor. -/
def Cursor.doc (c : Cursor) : Nat := ((c.posts.map (·.1)).head?).getD 0

/-- Cursors moved to a document in ascending term index, up to the first that needs a block (R330, R339). -/
def moveTo (m : Nat) : List Nat → List Cursor → List Cursor
  | len :: ls, c :: cs =>
    let c' := { c with posts := c.posts.dropWhile (fun p => p.1 < m) }
    c' :: if c'.posts = [] ∧ c'.next < len then cs else moveTo m ls cs
  | [], cs => cs
  | _ :: _, [] => []

/-- The terms whose cursors stand at a document, with their frequencies. -/
def Query.atDoc (q : Query) (doc : Nat) : List (Nat × Nat) :=
  q.cursors.zipIdx.filterMap (fun c => match c.1.posts with
    | p :: _ => if p.1 = doc then some (c.2, p.2) else none
    | [] => none)

/-- The cursors at a document advanced. -/
def Query.passDoc (q : Query) (doc : Nat) : Query :=
  { q with target := none, cursors := q.cursors.map (fun c => match c.posts with
    | p :: r => if p.1 = doc then { c with posts := r } else c
    | [] => c) }

/-- What running a query comes to: the query, the lines that it waits for, and the reads that its scores made. -/
structure Ran where
  q : Query
  wait : Option (Nat × List Nat)
  reads : List ScoreRead

/-- A run that made some reads first. -/
def Ran.after (r : Ran) (reads : List ScoreRead) : Ran := { r with reads := reads ++ r.reads }

/-- A candidate emitted and scored, and then the rest. -/
def State.emitDoc (s : State) (d : DieId) (q : Query) (doc : Nat) (rest : Query → Ran) : Ran :=
  match s.scoreDoc d q doc (q.atDoc doc) with
  | .wait pkg ls => { q := q, wait := some (pkg, ls), reads := [] }
  | .fail st blk h => { q := q.stop s.cycle (some (st, blk, h)), wait := none, reads := s.scoreReads d q doc }
  | .ok q' => (rest (q'.passDoc doc)).after (s.scoreReads d q doc)

/-- A query runs until it needs a block, waits, or ends (R330). -/
def State.runQuery (s : State) (d : DieId) : Nat → Query → Ran
  | 0, q => { q := q, wait := none, reads := [] }
  | n + 1, q =>
    match q.target with
    | some m =>
      let q := { q with cursors := moveTo m q.lens q.cursors }
      if q.need.isSome then { q := q, wait := none, reads := [] }
      else if q.cursors.all (fun c => c.posts ≠ [] && c.doc = m) then s.emitDoc d q m (s.runQuery d n)
      else s.runQuery d n { q with target := none }
    | none =>
      if q.need.isSome then { q := q, wait := none, reads := [] }
      else
        let live := q.cursors.filter (fun c => c.posts ≠ [])
        if q.uni then
          (if live = [] then { q := q.stop s.cycle none, wait := none, reads := [] }
           else s.emitDoc d q ((live.map (·.doc)).foldl min (2 ^ 32)) (s.runQuery d n))
        else if live.length < q.cursors.length then { q := q.stop s.cycle none, wait := none, reads := [] }
        else s.runQuery d n { q with target := some ((live.map (·.doc)).foldl max 0) }

/-- How often a query can go round before it needs a block or ends. -/
def Query.fuel (q : Query) : Nat := 2 * ((q.cursors.map (fun c => c.posts.length)).foldl (· + ·) 0) + 4

/-- A context replaced. -/
def Die.setQuery (k : Die) (n : Nat) (q : Query) : Die := { k with queries := k.queries.setIfInBounds n q }

/-- A context. -/
def Die.query (k : Die) (n : Nat) : Query := k.queries.toList.getD n Query.reset

/-- A query failed at a block of a sequence: an error in its entry or in the block's table word makes the entry FAILED (R326). -/
def State.loseBlock (s : State) (d : DieId) (h blk : Nat) (own : Agent) : State :=
  let s := s.meetEntry d h own
  match s.gatherSeq d h with
  | .inl (home, v, _) => s.meetTable home (match ((s.die d).seq h).home with
      | some (_, x) => x
      | none => h) v [blk] own
  | .inr _ => s

/-- A query failed by the partition key of a sequence's home (R416). -/
def State.loseList (s : State) (d : DieId) (h : Nat) : State :=
  match ((s.die d).seq h).home with
  | some (home, _) => s.keyLost d home
  | none => s

/-- A context runs on, and what it waits for is asked of the host. A score that a far die holds is a far read (R324). -/
def State.runContext (s : State) (d : DieId) (n : Nat) (q : Query) : State :=
  let r := s.runQuery d q.fuel q
  let far := (((r.reads.filter (fun x => x.home ≠ d && x.len = 4)).map (fun x => (x.home, x.addr / 64))).dedup).length
  let w := s.drawLines d far
  let s := w.1.modDie d (fun k => { k.setQuery n r.q with plFree := max k.plFree (if far = 0 then 0 else s.cycle + w.2) })
  let s := r.reads.foldl (fun s x => s.meetDie x.home x.addr x.len) s
  let own : Agent := match q.owner with
    | some i => .stage i
    | none => .sup { die := d, k := 0 }
  let s := match r.q.fail with
    | some (st, blk, h) =>
      if q.fail.isSome then s
      else if st = 7 then s.loseBlock d h blk own
      else if st = 6 then s.loseList d h else s
    | none => s
  match r.wait with
  | some (pkg, ls) => s.backInvalidate pkg ls false
  | none => s

/-! ## Chunks (R334, R338) -/

/-- The number of chunks of a query that has ended: results fill them 15 at a time; a failure adds one. -/
def Query.chunks (q : Query) : Nat :=
  if q.fail.isSome then q.results.length / 15 + 1 else max 1 (ceilDiv q.results.length 15)

/-- The cycle from which a chunk exists, where that is known (R339): without `TOPK` it is known to be the last or not once
the result behind it exists or the query has ended. -/
def Query.chunkAt (q : Query) (c now : Nat) : Option Nat :=
  match q.ended with
  | some t => if q.topk && q.fail.isNone then some (max now (t + 32 + 4 * c)) else some now
  | none => if !q.topk && 15 * (c + 1) < q.results.length then some now else none

/-- The bytes of a chunk (R334). -/
def Query.chunk (q : Query) (c : Nat) : List Byte :=
  let last := q.ended.isSome && c + 1 = q.chunks
  let rs := (q.results.drop (15 * c)).take 15
  let st := match q.fail with
    | some f => f.1
    | none => 0
  leBytes 8 (rs.length + if last then 2 ^ 8 + bit q.vmiss * 2 ^ 9 + st * 2 ^ 16 else 0) ++
    rs.flatMap (fun r => leBytes 8 (r.1 % 2 ^ 32 + r.2 % 2 ^ 32 * 2 ^ 32)) ++ List.replicate (8 * (15 - rs.length)) 0

/-- The last cycle in which a fill that the posting engine has under way for a firing becomes ready, 0 for none. -/
def State.lastChunk (s : State) (d : DieId) (own : Agent) : Nat :=
  (s.agenda.filterMap (fun e => match e.ev with
    | .plChunkTagReady d' id => if d' = d ∧ (s.die d).fills.any (fun f => f.id = id && f.own = own) then some e.cycle else none
    | _ => none)).foldl max 0

/-- A chunk request answered: its fill is under way, and becomes ready no earlier than those of its firing's earlier requests (R292). -/
def State.answerChunk (s : State) (d : DieId) (r : ChunkReq) (at_ : Nat) (data : List Byte) (fail : Option (Nat × Nat × Nat))
    (last : Option Nat) : State :=
  let f : Fill := { id := r.id, own := r.own, tag := r.tag, vreg := some r.v, tile := none, data := data,
                    fail := fail.map (fun w => engineError 2 w.1 r.tag.toNat w.2.1 w.2.2), last := last, landed := false }
  (s.modDie d (fun k => { k with fills := k.fills ++ [f], chunkReqs := k.chunkReqs.filter (fun c => c.id ≠ r.id) })).schedule
    (max (at_ + 23) (s.lastChunk d r.own)) priLate (.plChunkTagReady d r.id)

/-- A zero chunk with `LAST` set (R338). -/
def zeroChunk : List Byte := leBytes 128 (2 ^ 8)

/-- One response of the posting engine given, where it is known. -/
def State.settleChunk (s : State) (d : DieId) (r : ChunkReq) : State :=
  match r.reply with
  | some (w, due) =>
    (s.modDie d (fun k => { k with chunkReqs := k.chunkReqs.filter (fun c => c.id ≠ r.id) })).answer r.own
      (max due (s.lastChunk d r.own + 1) - s.cycle) w none
  | none =>
    let q := (s.die d).query r.ctx
    if r.rejected then s.answerChunk d r s.cycle zeroChunk (some (8, 0, 0)) none
    else
      match q.chunkAt r.chunk s.cycle with
      | none => s
      | some t =>
        if q.ended.isSome ∧ q.chunks ≤ r.chunk then s.answerChunk d r s.cycle zeroChunk (some (9, 0, 0)) none
        else
          let last := q.ended.isSome && r.chunk + 1 = q.chunks
          s.answerChunk d r t (q.chunk r.chunk) (if last then q.fail else none) (if last then some r.ctx else none)

/-- The responses that are known are given, those of one firing in the order of its requests (R292). -/
def State.settleChunks (s : State) (d : DieId) : State :=
  (s.die d).chunkReqs.foldl (fun s r =>
    if (s.die d).chunkReqs.any (fun c => c.own = r.own && c.id < r.id) then s else s.settleChunk d r) s

/-- `PL_CHUNK_TAG_READY` (R338). -/
def execPlChunkTagReady (d : DieId) (id : Nat) (s : State) : Out :=
  match (s.die d).fills.find? (fun f => f.id = id) with
  | none => .fault .noSuchItem
  | some f =>
    let s := s.modDie d (fun k => { k with
      fills := if f.last.isSome then k.fills.map (fun g => if g.id = id then { g with landed := true } else g)
               else k.fills.filter (fun g => g.id ≠ id) })
    let s := match f.vreg with
      | some r => s.modCtx f.own (fun c => { (c.wv r (bytesVec f.data)) with tags := { c.tags with filled := c.tags.filled ++
          (match f.own with
          | .stage i => if (s.slot i).fst = FiringState.trapped ∨ (s.slot i).fst = FiringState.parked then [r] else []
          | .sup _ => []) } })
      | none => s
    .next (s.modCtx f.own (fun c => c.fillTag f.tag.toNat f.fail))

/-! ## Serving (R337, R338) -/

/-- The answer of a `PL.REQ`: it lands 32 cycles after the send, and behind the chunks that its firing asked for earlier (R292). -/
def State.plReply (s : State) (d : DieId) (r : EngReq) (w : Word) : State :=
  if r.live ∧ ((s.die d).chunkReqs.any (fun c => c.own = r.own) ∨ s.cycle + 32 ≤ s.lastChunk d r.own) then
    s.modDie d (fun k => { k with chunkReqs := k.chunkReqs ++
      [{ id := r.id, own := r.own, ctx := 0, chunk := 0, v := 0, tag := 0, rejected := false, reply := some (w, s.cycle + 32) }] })
  else s.reply r 32 w none

/-- `PL.REQ` served (R337): the lowest free context is taken, or the request is refused; none for a wait. -/
def State.serveQuery (s : State) (d : DieId) (r : EngReq) (xa : Word) : Option State :=
  let k := s.die d
  match (List.range 8).find? (fun n => (k.query n).owner.isNone) with
  | none => some (s.plReply d r refusal)
  | some n =>
    let gen := (k.query n).gen + 1
    let begin_ := fun (q : Query) =>
      let q := { q with gen := gen, owner := slotOf r.own }
      let t := s.modDie d (fun k => { k.setQuery n q with plFree := max k.plFree (s.cycle + 8) })
      (if q.ended.isSome then t else t.runContext d n q).plReply d r (toWord (gen.toNat * 2 ^ 8 + n))
    let met := fun (t : State) => (s.acceptReads d r.own xa).foldl (fun t x => t.meetDie d x.1 x.2) t
    if s.acceptLines d r.own xa ≠ [] then none
    else match s.accept d r.own xa with
    | .wait => none
    | .fail st blk h =>
      let t := met (begin_ (Query.reset.stop s.cycle (some (st, blk, h))))
      some (if st = 6 then t.loseList d h else if st = 7 ∧ (s.acceptReads d r.own xa).all (fun x => (firstBad (s.die d).bad x.1 x.2).isNone) then t.meetEntry d h r.own else t)
    | .ok q => some (met (begin_ q))

/-- `PL.RSP` served (R338): it takes the next chunk of its context, or is rejected. -/
def State.serveRsp (s : State) (d : DieId) (r : EngReq) (qw : Word) (v : BitVec 5) (tag : BitVec 4) : State :=
  let k := s.die d
  let n := wbits qw 0 3
  let q := k.query n
  let c : ChunkReq := { id := r.id, own := r.own, ctx := n, chunk := q.requested, v := v, tag := tag, rejected := false, reply := none }
  if !r.live then s
  else if q.owner.isSome ∧ q.owner = slotOf r.own ∧ qw.toNat = q.gen.toNat * 2 ^ 8 + n then
    s.setDie d { k.setQuery n { q with requested := q.requested + 1 } with chunkReqs := k.chunkReqs ++ [c] }
  else s.setDie d { k with chunkReqs := k.chunkReqs ++ [{ c with rejected := true }] }

/-- The posting engine takes the requests that have reached it, in order, and answers for the chunks that exist. -/
def State.servePosting (s : State) (d : DieId) : Nat → State
  | 0 => s
  | n + 1 =>
    match (s.die d).head true with
    | none => s
    | some r =>
      let gone := fun (s : State) => s.modDie d (fun k => { k with engine := k.engine.filter (fun e => e.id ≠ r.id) })
      match r.op with
      | .query xa => (match s.serveQuery d r xa with
          | some t => (gone t).servePosting d n
          | none => s.backInvalidate d.pkg (s.acceptLines d r.own xa) false)
      | .rsp q v tag => (gone (s.serveRsp d r q v tag)).servePosting d n
      | _ => s

/-! ## Decoding (R339) -/

/-- The context that decodes next, in turn (R339). -/
def Die.nextContext (k : Die) : Option Nat :=
  ((List.range 8).map (fun j => (k.plTurn + 1 + j) % 8)).find? (fun n => (k.query n).owner.isSome && (k.query n).ended.isNone)

/-- A block decoded for a list of a context (R335, R339). -/
def State.decodeFor (s : State) (d : DieId) (n t : Nat) : State :=
  let q := (s.die d).query n
  let h := q.handle t
  let c := q.cursors.getD t { next := 0, posts := [] }
  let fails := fun (s : State) (st : Nat) => s.modDie d (·.setQuery n (q.stop s.cycle (some (st, c.next, h))))
  match s.gatherSeq d h with
  | .inr none => s
  | .inr (some w) => fails (if w = 5 then s.loseList d h else s) (if w = 4 then 5 else if w = 5 then 6 else 2)
  | .inl (home, v, _) =>
    let a := v.table.getD (c.next / 16) 0 + c.next % 16 * 256
    let snoops := s.tableLines home v [c.next / 16] ++ s.snooped home a 256 false
    if snoops ≠ [] then s.backInvalidate home.pkg snoops false
    else if v.bad ∨ (s.die home).tableBad v [c.next / 16] then
      fails (s.loseBlock d h (c.next / 16) (match q.owner with
        | some i => .stage i
        | none => .sup { die := d, k := 0 })) 7
    else if home ≠ d ∧ !s.farReads d 4 then s
    else
      let w := s.drawLines d (if home = d then 0 else 4)
      let s := (w.1.modDie d (fun k => { k with plTurn := n, plFree := s.cycle + 8 + w.2 }))
      let s := (s.meetDie home (v.tableWord (c.next / 16)) 8).meetDie home a 256
      if (firstBad (s.die home).bad a 256).isSome then fails s 7
      else
        match decodeBlock (memRead (s.die home).gallery a 256) with
        | none => fails s 3
        | some ps => s.runContext d n { q with cursors := q.cursors.set t { next := c.next + 1, posts := ps } }

/-- `PL_BLOCK_DECODE` (R339): a context that waited for the host's copies runs on without a block. -/
def execPlBlockDecode (d : DieId) (s : State) : Out :=
  let k := s.die d
  if s.cycle < k.plFree then .fault .noSuchItem
  else
    match k.nextContext with
    | none => .fault .noSuchItem
    | some n =>
      match (k.query n).need with
      | some t => .next (s.decodeFor d n t)
      | none => .next (s.runContext d n (k.query n))

end Sys2Proof.Machine
end

