-- ==== Sys2Proof/Machine/Reset.lean ====
section
/-! DEFINITION. The scrubber (R366, R370), resets of a core and of a die (R5, R172, R268, R273), and the thermal limits
(R403). -/

namespace Sys2Proof.Machine

/-! ## The scrubber (R370) -/

/-- The mark of a frame goes once the scrubber has read the frame's last line (R326, log 78). -/
def Die.frameScrubbed (k : Die) (addr : Nat) : Die :=
  if k.scrubMarks = [] then k
  else { k with scrubMarks := k.scrubMarks.filter (fun f => !(decide (addr < f.1 + f.2) && decide (f.1 + f.2 ≤ addr + 64))) }

/-- `SCRUB_READ` (R366, R370): a line of the gallery, or a granule of a core's scratchpad, is read; each uncorrectable word
raises event 0x15. -/
def execScrubRead (d : DieId) (core : Option CoreId) (addr : Nat) (s : State) : Out :=
  match core with
  | none =>
    .next ((s.meetOther d none addr 64).modDie d (·.frameScrubbed addr))
  | some c => .next (s.meetOther d (some c) addr 16)

/-- A granule of a supervisor core's scratchpad scrubbed (R366, R370). -/
def State.scrubSup (s : State) (v : SupId) (addr : Nat) : State :=
  ((words8 addr 16).filter (· ∈ (s.sup v).bad)).foldl (fun s w => s.dieEvent v.die 0x15 0 none 0 w) (s.meetSup v addr 16)

/-- A scrub interval: values below 64 act as 64 (R369). -/
def scrubInterval (n : Nat) : Nat := max 64 n

/-- The banks of a core's scratchpad that had no idle cycle since the scrub interval began, in the interval's last cycle, and that no
multicast landing takes now (R370). -/
def State.scrubWants (s : State) (c : CoreId) : List Nat :=
  let k := s.die c.die
  if !k.scrub.getLsbD 63 ∨ s.cycle < k.scrubL.2 + scrubInterval (wbits k.scrub 0 16) then []
  else ((s.arb c).runs.filter (fun e => e.2.1 ≤ k.scrubL.2 + 1 && s.cycle ≤ e.2.2 + 1 && e.1 ∉ (s.arb c).landed)).map (·.1)

/-- In the last cycle of its interval the scrubber takes the banks that had no idle cycle, ahead of every agent but a multicast
landing (R370). A read that an idle cycle could make takes no cycle from anyone (log 10). -/
def State.scrubTurns (s : State) : State :=
  (s.arbs.map (·.1)).foldl (fun s c =>
    if s.scrubWants c = [] then s else s.setArb c ((s.arb c).serve (s.scrubWants c) true)) s

/-- The scrubber of a die reads what is due: the next line of every gallery bank, and the next granule of every scratchpad
bank (R370). -/
def State.scrub (s : State) (d : DieId) : State :=
  let k := s.die d
  if !k.scrub.getLsbD 63 then s
  else
    let s := if k.scrubG.2 + scrubInterval (wbits k.scrub 16 16) ≤ s.cycle then
        let s := s.modDie d (fun k => { k with scrubG := ((k.scrubG.1 + 1) % 65536, s.cycle) })
        if k.bad = [] ∧ k.badOnce = [] ∧ k.scrubMarks = [] then s
        else (List.range 64).foldl (fun s b => orStay s (execScrubRead d none (64 * (64 * k.scrubG.1 + b)) s)) s
      else s
    if k.scrubL.2 + scrubInterval (wbits k.scrub 0 16) ≤ s.cycle then
      let s := s.modDie d (fun k => { k with scrubL := ((k.scrubL.1 + 1) % 4096, s.cycle) })
      let s := (s.cores.filter (fun e => e.1.die = d && (e.2.bad ≠ [] || e.2.badOnce ≠ []))).foldl (fun s e =>
        (List.range 32).foldl (fun s b => orStay s (execScrubRead d (some e.1) (16 * (32 * k.scrubL.1 + b)) s)) s) s
      (s.sups.filter (fun e => e.1.die = d && (e.2.bad ≠ [] || e.2.badOnce ≠ []))).foldl (fun s e =>
        (List.range 32).foldl (fun s b => s.scrubSup e.1 (16 * (32 * (k.scrubL.1 % 512) + b))) s) s
    else s

/-! ## Resets -/

/-- The memory requests outstanding to a core's scratchpad when it is reset (R268): a load or an atomic raises a machine check of
unit 1 at its issuer's next bundle boundary; a store is discarded. -/
def State.loseRequests (s : State) (c : CoreId) : State :=
  (s.reqs.filter (fun q => q.space = 1 && q.place.home = .core c && !q.performed)).foldl (fun s q =>
    let s := s.dropReq q.id
    if q.dest = .none then s
    else s.modCtx q.own (fun x => { x with after := x.after ++ [(0x0B, checkValue q.place.home q.place.addr)] })) s

/-- A core's slots go: their stages leave the synchronisation engine and the query contexts (R249, R259, R334). -/
def State.emptySlots (s : State) (c : CoreId) : State :=
  let mine := (s.slots.map (·.1)).filter (fun i => i.core = c)
  let s := mine.foldl (fun s i => s.modSlot i (fun v => { v with sst := .empty })) s
  let s := mine.foldl (fun s i => (((s.leaveActive i).dropWork i).dropFiring i)) s
  { s with slots := s.slots.filter (fun e => e.1.core ≠ c), nexts := s.nexts.filter (fun e => e.1.core ≠ c),
           ctxs := s.ctxs.filter (fun e => match e.1 with
             | .stage i => i.core ≠ c
             | .sup _ => true),
           reqs := s.reqs.filter (fun q => match q.own with
             | .stage i => i.core ≠ c
             | .sup _ => true) }

/-- `CORE_RESET` (R5, R172, R268). -/
def execCoreReset (c : CoreId) (s : State) : Out :=
  let s := ((s.loseRequests c).emptySlots c).setCore c Core.reset
  .next (s.modClu (cluOf c) (fun k => { k with landings := k.landings.map (fun l =>
    { l with targets := l.targets.filter (· ≠ c.core) }) }))

/-- The landing registers, whose element is the landing die, at reset (R5, R390, R397): the host link is down. -/
def State.resetLanding (s : State) (d : DieId) : State :=
  if (s.pkg d.pkg).landing ≠ some d.die then s
  else
    let s := if (s.pkg d.pkg).hostUp then s.hostPorts d.pkg false else s
    s.modPkg d.pkg (fun p => { p with
      herr := 0, pmask := 0, width := 0, hostUp := false, hdmSize := 0, hdmmap := [], hwin := [], hring := [], horph := 0, horpn := 0,
      snoop := [], backInval := [] })

/-- `DIE_RESET` (R5, R273, R276, R299, R353): the die with its clusters, cores, slots and supervisor cores. Accesses that its
agents have under way are gone. -/
def execDieReset (d : DieId) (s : State) : Out :=
  let s := s.resetLanding d
  .next { s with
    dies := tdel s.dies d, clus := s.clus.filter (fun e => e.1.die ≠ d), cores := s.cores.filter (fun e => e.1.die ≠ d),
    sups := s.sups.filter (fun e => e.1.die ≠ d), slots := s.slots.filter (fun e => e.1.core.die ≠ d),
    nexts := s.nexts.filter (fun e => e.1.core.die ≠ d), ctxs := s.ctxs.filter (fun e => dieOf e.1 ≠ d),
    reqs := s.reqs.filter (fun q => dieOf q.own ≠ d), turn := s.turn.filter (fun a => dieOf a ≠ d) }

/-! ## Temperature (R403) -/

/-- `THERMAL_THROTTLE` (R403): the arithmetic clock falls by 50 MHz, to 400 MHz at least. -/
def execThermalThrottle (d : DieId) (s : State) : Out := .next (s.modDie d (fun k => { k with clockMHz := max 400 (k.clockMHz - 50) }))

/-- `THERMAL_CLOCK_RAISE` (R403). -/
def execThermalClockRaise (d : DieId) (s : State) : Out := .next (s.modDie d (fun k => { k with clockMHz := min 800 (k.clockMHz + 50) }))

/-- `THERMAL_TRIP` (R403): the die is reset, and the package reports itself failed (R434). -/
def execThermalTrip (d : DieId) (s : State) : Out :=
  .next ((orStay s (execDieReset d s)).modPkg d.pkg (fun p => { p with reported := true }))

end Sys2Proof.Machine
end

