-- ==== Sys2Proof/Machine/Boot.lean ====
section
/-! DEFINITION. Broadcast boot (R430, R431) and what a package reset verifies and measures (R386, R399, R400). -/

namespace Sys2Proof.Machine

/-! ## The tree -/

/-- The children of a package in the spanning tree, by their positions (R430). -/
def Pkg.children (p : Pkg) : List Nat :=
  match p.boot.manifest with
  | some m => ((m.tree.filter (fun e => e.1 = p.lpkg)).map (·.2)).filterMap p.resolve
  | none => []

/-- The parent of a package. -/
def Pkg.parent (p : Pkg) : Option Nat :=
  match p.boot.manifest with
  | some m => (m.tree.find? (fun e => e.2 = p.lpkg)).bind (fun e => p.resolve e.1)
  | none => none

/-- What a package knows of the boot, changed. -/
def State.modBoot (s : State) (pkg : Nat) (f : Boot → Boot) : State := s.modPkg pkg (fun p => { p with boot := f p.boot })

/-- A message between the managements of two packages, on class 0. -/
def State.manage (s : State) (a b : Nat) (ev : Event) : State := s.sendManage { pkg := a, die := 0 } { pkg := b, die := 0 } ev

/-- A BOOT packet forwarded to every child (R430). -/
def State.toChildren (s : State) (pkg : Nat) (k : Packet) : State :=
  (s.pkg pkg).children.foldl (fun s c => s.manage pkg c (.bootPacket c k)) s

/-! ## BOOT packets (R430) -/

end Sys2Proof.Machine

namespace Sys2Proof

/-- The fields of a BOOT packet: the destination's logical number and die, the address, whether it is an image block, and for
a scratchpad its core. -/
def Packet.bootDst (k : Packet) : Nat := Machine.wbits k.w1 0 14
@[inherit_doc Packet.bootDst] def Packet.bootDie (k : Packet) : Nat := Machine.wbits k.w1 14 3
@[inherit_doc Packet.bootDst] def Packet.bootAddr (k : Packet) : Nat := Machine.wbits k.w2 0 28
@[inherit_doc Packet.bootDst] def Packet.bootImage (k : Packet) : Bool := k.w3.getLsbD 16
@[inherit_doc Packet.bootDst] def Packet.bootCore (k : Packet) (d : DieId) : Option CoreId :=
  if k.w3.getLsbD 17 then some { die := d, clu := Machine.wbits k.w3 18 2, core := Machine.wbits k.w3 20 7 } else none

end Sys2Proof

namespace Sys2Proof.Machine

/-- The bytes of a block's packets. -/
def blockBytes (ks : List Packet) : List Byte := ks.flatMap (fun k => k.payload.take k.len)

/-- One address for the galleries and the scratchpads of a die, as the digest numbers them (R359, log 40). -/
def imageAddr (core : Option CoreId) (addr : Nat) : Nat :=
  match core with
  | some c => 2 ^ 32 + (c.clu * 96 + c.core) * 2 ^ 21 + addr % 2 ^ 21
  | none => addr

/-! ## Signatures (R399) -/

/-- Whether a signature holds: its key's hash is one of the four in the fuses that is not revoked, and it verifies (R399). -/
def signedOk (pkg : Nat) (x : Signed) : Bool :=
  (List.range 4).any (fun n => Config.fusedKey pkg n = sha384 (Config.keyBytes x.key) && !Config.fusedRevoked pkg n) &&
    ecVerify x.key (sha384 x.bytes).toNat x.r x.t

/-- Whether the ROM accepts a management firmware image (R399): its signature holds, the body has the length and the hash that the
header gives, and the security version is not below the fused minimum. -/
def imageOk (pkg : Nat) (image : List Byte) : Bool :=
  match Config.imageHead image with
  | none => false
  | some h => signedOk pkg h.signed && h.body.length = h.len && sha384 h.body = h.sha && (Config.fusedSvn pkg).toNat ≤ h.svn.toNat

/-- The digest that an image extends `MEAS0` with (R400): of its header and its body's hash (log 12). -/
def imageDigest (image : List Byte) : BitVec 384 :=
  match Config.imageHead image with
  | none => 0
  | some h => sha384 (h.signed.bytes ++ beBytes 48 (sha384 h.body).toNat)

/-- The security version number of an image. -/
def imageSvn (image : List Byte) : BitVec 32 :=
  match Config.imageHead image with
  | none => 0
  | some h => h.svn

/-- Whether the manifest's signature holds (R399, R430). -/
def manifestOk (pkg : Nat) (bytes : List Byte) : Bool := signedOk pkg (Config.manifestSigned bytes)

/-! ## Blocks -/

/-- A BOOT packet's bytes placed in a package, or XORed into it as parity (R431). -/
def State.placeBoot (s : State) (pkg : Nat) (parity : Bool) (k : Packet) : State :=
  let d : DieId := { pkg := pkg, die := k.bootDie }
  let bs := k.payload.take k.len
  let s := if k.bootImage then s.modBoot pkg (fun b => { b with
      extents := b.extents ++ [(k.bootDie, imageAddr (k.bootCore d) k.bootAddr, bs.length)] }) else s
  let c := k.bootCore d
  let addr := if c.isSome then k.bootAddr % 2 ^ 21 else k.bootAddr
  if parity then s.xorOther d c addr bs else s.putOther d c addr bs

/-- Whether a block is for a package: addressed to it, or to every package. -/
def Pkg.wants (p : Pkg) (b : BootBlock) : Bool := b.dst = 0x3FFF || b.dst = p.lpkg

/-- Whether a block is one that a hall's spare XORs into its parity: an image block of an active package of the hall (R431). -/
def Pkg.parityOf (p : Pkg) (pos : Nat) (b : BootBlock) : Bool :=
  wbits p.fabid 34 2 = 1 && b.image && b.dst ≠ p.lpkg &&
  match p.resolve b.dst with
  | some q => q / 32 = pos / 32
  | none => false

/-- Whether a block is one of an active package of a spare's hall that may hold its stair records and slot sections (R430). -/
def Pkg.hallBlock (p : Pkg) (pos : Nat) (b : BootBlock) : Bool :=
  wbits p.fabid 34 2 = 1 && !b.image && b.dst ≠ p.lpkg && b.dst ≠ 0x3FFF &&
  match p.resolve b.dst with
  | some q => q / 32 = pos / 32
  | none => false

/-- The blocks of the manifest that a package keeps or takes into its parity. -/
def Pkg.duties (p : Pkg) (pos : Nat) : List BootBlock :=
  match p.boot.manifest with
  | some m => m.blocks.filter (fun b => b.num ≠ 0 && (p.wants b || p.parityOf pos b || p.hallBlock pos b))
  | none => []

/-- An image put into the code store: a page that it replaces whole is without error (R367). -/
def Die.loadCode (k : Die) (page : Nat) (data : List Byte) : Die :=
  { k with
    codeStore := memWrite k.codeStore (page * 4096) data,
    codeBad := k.codeBad.filter (fun p => !(page ≤ p && (p + 1) * 4096 ≤ page * 4096 + data.length)),
    codeOnce := mendOnce k.codeOnce (page * 4096) data.length }

/-- A measurement register extended with the digest of an image. -/
def State.measure (s : State) (pkg n : Nat) (data : List Byte) : State :=
  s.modPkg pkg (fun p => { p with meas := p.meas.setIfInBounds n (extendMeas (p.meas.toList.getD n 0) (sha384 data)) })

/-- An image of a block that management has verified is measured and moved (R399, R400, R441); the stair is measured once it is
whole. -/
def State.applyMove (s : State) (pkg : Nat) (m : BootMove) : State :=
  match m with
  | .code die page data => (s.measure pkg 3 data).modDie { pkg := pkg, die := die } (fun k => k.loadCode page data)
  | .sup die k page data => ((s.measure pkg 1 data).modDie { pkg := pkg, die := die } (fun x => x.loadCode page data)).modBoot pkg
      (fun b => { b with supImages := b.supImages ++ [(die, k, page, data.length)] })
  | .stair die addr data => s.putOther { pkg := pkg, die := die } none addr data

/-- A spare keeps what a block holds for an active package of its hall (R430). -/
def Boot.keepMove (b : Boot) (lpkg : Nat) (m : BootMove) : Boot :=
  { b with hallMoves := tset b.hallMoves lpkg (tget b.hallMoves lpkg [] ++ [m]) }

/-- A package knows the stair that a block holds for another (log 8). -/
def Boot.knowMove (b : Boot) (lpkg : Nat) (m : BootMove) : Boot :=
  match m with
  | .stair die addr data => { b with stairs := tset b.stairs (lpkg, die) (memWrite (tget b.stairs (lpkg, die) []) addr data) }
  | .code _ _ _ => b
  | .sup _ _ _ _ => b

/-- Whether a move puts an image into the code store. -/
def BootMove.isCode : BootMove → Bool
  | .code _ _ _ => true
  | .sup _ _ _ _ => false
  | .stair _ _ _ => false

/-- The active packages of a spare's hall that a block concerns. -/
def Pkg.hallCopies (p : Pkg) (pos : Nat) (b : BootBlock) : List Nat :=
  if wbits p.fabid 34 2 ≠ 1 then []
  else match p.boot.manifest with
    | none => []
    | some m => m.actives.filter (fun n => (b.dst = 0x3FFF || b.dst = n) && match p.resolve n with
        | some q => q / 32 = pos / 32 && q ≠ pos
        | none => false)

/-- The code images that a block addressed to every package holds for the active packages of a spare's hall, and not for the spare itself:
they go into its code store too (R441). -/
def Pkg.hallImages (p : Pkg) (pos : Nat) (b : BootBlock) (bytes : List Byte) : List BootMove :=
  if b.dst ≠ 0x3FFF then []
  else (((p.hallCopies pos b).flatMap (fun n => Config.bootMoves n bytes)).filter BootMove.isCode).dedup.filter
    (fun m => m ∉ Config.bootMoves p.lpkg bytes)

/-- The images of a block that is kept: those for this package are moved, a spare keeps those of its hall, and the stairs of the others are
known. -/
def State.moveImages (s : State) (pkg : Nat) (b : BootBlock) (bytes : List Byte) : State :=
  if b.image then s
  else
    let p := s.pkg pkg
    let s := (p.hallImages pkg b bytes).foldl (fun s m => s.applyMove pkg m) s
    let s := if p.wants b then (Config.bootMoves p.lpkg bytes).foldl (fun s m => s.applyMove pkg m) s else s
    let others := match p.boot.manifest with
      | some m => if p.wants b then m.actives.filter (fun n => b.dst = 0x3FFF && n ≠ p.lpkg) else []
      | none => []
    let s := others.foldl (fun s n => s.modBoot pkg (fun x => (Config.bootMoves n bytes).foldl (fun x m => x.knowMove n m) x)) s
    (p.hallCopies pkg b).foldl (fun s n => s.modBoot pkg (fun x => (Config.bootMoves n bytes).foldl (fun x m => x.keepMove n m) x)) s

/-- A supervisor core starts (R341): management loads its code window from the code store, page by page; a page with an uncorrectable error
raises event 0x14, and the words of the window that it was to fill are erroneous (R231, R366, R367; log 91). -/
def State.startSup (s : State) (pkg : Nat) (e : Nat × Nat × Nat × Nat) : State :=
  let d : DieId := { pkg := pkg, die := e.1 }
  let v : SupId := { die := d, k := e.2.1 }
  let pages := (List.range (ceilDiv e.2.2.2 4096)).map (fun j => (j, min 4096 (e.2.2.2 - 4096 * j)))
  let s := pages.foldl (fun s p =>
    let src := e.2.2.1 + p.1
    if src ∈ (s.die d).codeBad then
      ((s.countErrors d 0 1).dieEvent d 0x14 3 none (src % 2 ^ 12) 0).modSup v (fun u => { u with
        windowBad := (u.windowBad.filter (· ∉ words8 (4096 * p.1) p.2)) ++ words8 (4096 * p.1) p.2 })
    else
      (s.meetStore d (src * 4096)).modSup v (fun u => { u with
        window := memWrite u.window (4096 * p.1) (memRead (s.die d).codeStore (src * 4096) p.2),
        windowBad := u.windowBad.filter (fun w => !coversWord (4096 * p.1) p.2 w), windowOnce := mendOnce u.windowOnce (4096 * p.1) p.2 })) s
  s.modSup v (fun u => { u with halted := false })

/-- The records of a stair in `STEP` order, by their addresses and lengths, within `fuel` records (R349). -/
def stairRecs (g : Mem) (addr : Nat) : Nat → List (Nat × Nat)
  | 0 => []
  | n + 1 => if recLen g addr = 0 then [] else (addr, recLen g addr) :: stairRecs g (addr + recLen g addr) n

/-- The stair records of a package measured in `MEAS2` in `STEP` order, die by die (R400; log 12). -/
def State.measureStair (s : State) (pkg : Nat) : State :=
  (diesOf pkg).foldl (fun s d =>
    let k := s.die d
    if k.gallery = [] then s
    else (stairRecs k.gallery (wbits k.cfgstair 0 28) 65536).foldl (fun s r =>
      (s.meetOther d none r.1 r.2).measure pkg 2 (memRead k.gallery r.1 r.2)) s) s

/-- Boot is complete once every block has been kept: event 0x49, and management starts the supervisor cores and the stair (R341,
R431). -/
def State.bootDone (s : State) (pkg : Nat) : State :=
  let p := s.pkg pkg
  if p.boot.done ∨ p.boot.manifest.isNone ∨ (p.duties pkg).any (fun b => b.num ∉ p.boot.kept) then s
  else
    let s := (s.modBoot pkg (fun b => { b with done := true })).packageEvent pkg 0x49 0 0
    let s := p.boot.supImages.foldl (fun s e => s.startSup pkg e) (s.measureStair pkg)
    (diesOf pkg).foldl (fun s d =>
      let k := s.die d
      if (recAddr k.gallery (wbits k.cfgstair 0 28) (wbits k.cfgstair 32 16)).isSome then s.beginLoad d none true else s) s

/-- A block that failed its check: dropped, event 0x48, and asked for again from the parent up to three times (R430). Management that
cannot verify a block with images for its package is in recovery (R399). -/
def State.rejectBlock (s : State) (pkg : Nat) (b : BootBlock) : State :=
  let p := s.pkg pkg
  let n := tget p.boot.asked b.num 0
  let s := (s.modBoot pkg (fun x => { x with parts := tdel x.parts b.num })).packageEvent pkg 0x48 (b.num % 2 ^ 12) 0
  match p.parent with
  | some q =>
    if n < 3 then (s.modBoot pkg (fun x => { x with asked := tset x.asked b.num (n + 1) })).manage pkg q (.bootBlockRequest q pkg b.num)
    else if p.wants b && !b.image then s.modPkg pkg (fun p => { p with recovery := true }) else s
  | none => if p.wants b && !b.image then s.modPkg pkg (fun p => { p with recovery := true }) else s

/-- Whether a packet's header names the destination that the manifest gives its block, at the address that follows `n` bytes of it
(R430). -/
def sameDst (b : BootBlock) (k : Packet) (n : Nat) : Bool :=
  let c := k.bootCore { pkg := 0, die := 0 }
  k.bootDst = b.dst && k.bootDie = b.die && k.bootImage = b.image && c.map (fun c => (c.clu, c.core)) = b.core && k.bootAddr = b.addr + n

/-- A packet of a block that concerns the package: with the last one the block is checked and kept (R430). -/
def State.keepBlock (s : State) (pkg : Nat) (b : BootBlock) (k : Packet) : State :=
  let p := s.pkg pkg
  let had := tget p.boot.parts b.num []
  let ks := had ++ [k]
  let bytes := blockBytes ks
  if !sameDst b k (blockBytes had).length then s.rejectBlock pkg b
  else if bytes.length < b.len then s.modBoot pkg (fun x => { x with parts := tset x.parts b.num ks })
  else if bytes.length = b.len ∧ sha384 bytes = b.sha then
    let s := if p.wants b || p.parityOf pkg b then ks.foldl (fun s k => s.placeBoot pkg (!p.wants b) k) s else s
    ((s.modBoot pkg (fun x => { x with parts := tdel x.parts b.num, kept := x.kept ++ [b.num] })).moveImages pkg b bytes).bootDone pkg
  else s.rejectBlock pkg b

/-- A verified manifest taken: measured in `MEAS4` and forwarded; with it a boot begins (R400, R430). -/
def State.beginBoot (s : State) (pkg : Nat) (raw : List Packet) : State :=
  let bytes := blockBytes raw
  let s := s.modPkg pkg (fun p => { p with
    meas := p.meas.set 4 (extendMeas p.meas[4] (sha384 bytes)),
    boot := { Pkg.reset.boot with raw := raw, manifest := some (Config.manifestOf bytes) } })
  (raw.foldl (fun s k => s.toChildren pkg k) s).bootDone pkg

/-- A packet of a manifest that comes while one is held: the same manifest again changes nothing; another one, once it is whole, is verified
as the first was, and takes its place (R389; log 81). -/
def State.takeAgain (s : State) (pkg : Nat) (k : Packet) : State :=
  let b := (s.pkg pkg).boot
  let raw := b.fresh ++ [k]
  if raw = b.raw then s.modBoot pkg (fun b => { b with fresh := [] })
  else if !Config.manifestWhole (blockBytes raw) then s.modBoot pkg (fun b => { b with fresh := raw })
  else if !manifestOk pkg (blockBytes raw) then (s.modBoot pkg (fun b => { b with fresh := [] })).packageEvent pkg 0x48 0 0
  else s.beginBoot pkg raw

/-- A packet of the manifest: whole, it is verified, measured in `MEAS4` and forwarded (R399, R400, R430). -/
def State.takeManifest (s : State) (pkg : Nat) (k : Packet) : State :=
  let p := s.pkg pkg
  if p.boot.manifest.isSome then s.takeAgain pkg k
  else
    let raw := p.boot.raw ++ [k]
    let bytes := blockBytes raw
    if !Config.manifestWhole bytes then s.modBoot pkg (fun b => { b with raw := raw })
    else if !manifestOk pkg bytes then (s.modBoot pkg (fun b => { b with raw := [] })).packageEvent pkg 0x48 0 0
    else s.beginBoot pkg raw

/-- A BOOT packet at a package. -/
def State.bootPacket (s : State) (pkg : Nat) (k : Packet) : State :=
  let num := k.seq.toNat
  if num = 0 then s.takeManifest pkg k
  else
    let s := s.toChildren pkg k
    match ((s.pkg pkg).duties pkg).find? (fun b => b.num = num) with
    | none => s
    | some b => if num ∈ (s.pkg pkg).boot.kept then s else s.keepBlock pkg b k

/-- `BOOT_PACKET` (R430, R431). -/
def execBootPacket (pkg : Nat) (pkt : Packet) (s : State) : Out := .next (s.bootPacket pkg pkt)

/-- `BOOT_BLOCK_REQUEST` (R430): a landing sends the block again; another package passes the request to its own parent. -/
def execBootBlockRequest (pkg child block : Nat) (s : State) : Out :=
  let p := s.pkg pkg
  match tfind p.boot.sent block with
  | some ks => .next (ks.foldl (fun s k => s.manage pkg child (.bootPacket child k)) s)
  | none =>
    match p.parent with
    | some q => .next (s.manage pkg q (.bootBlockRequest q child block))
    | none => .fault .noSuchItem

/-! ## Package reset (R386, R399, R400) -/

/-- The ROM runs a firmware image: it is measured in `MEAS0`, recovery ends, and the fabric ports that are DOWN and enabled train (R399,
R400, R407). -/
def State.runFirmware (s : State) (pkg : Nat) (image : List Byte) : State :=
  let s := s.modPkg pkg (fun p => { p with
    recovery := false, firmware := image, svn := imageSvn image, image := [], imageReady := false,
    meas := p.meas.set 0 (extendMeas p.meas[0] (imageDigest image)) })
  (List.range 64).foldl (fun s n => s.train pkg n) s

/-- A package and its dies as a reset leaves them: the firmware, the host's memory, and on a landing the landing die stay. -/
def State.clearPackage (s : State) (pkg : Nat) : State :=
  let p := s.pkg pkg
  ((diesOf pkg).foldl (fun s d => orStay s (execDieReset d s)) s).setPkg pkg { Pkg.reset with
    landing := p.landing, hostMem := p.hostMem, firmware := if p.imageReady then p.image else p.firmware }

/-- `PACKAGE_RESET` (R399): the ROM verifies and measures the firmware and runs it; else the package is in recovery, and on a
landing the ROM writes `PMASK` from the fuses (R386). -/
def execPackageReset (pkg : Nat) (s : State) : Out :=
  let s := s.clearPackage pkg
  let image := (s.pkg pkg).firmware
  .next (if imageOk pkg image then s.runFirmware pkg image
         else if (s.pkg pkg).landing.isSome then s.writePmask pkg (Config.landingMask pkg) else s)

end Sys2Proof.Machine
end

