-- ==== Sys2Proof/Machine/Host.lean ====
section
/-! DEFINITION. The landing and the host: the mailbox (R388, R389, R398, R401), host-managed device memory (R391, R392), and
the host window with its command rings (R393, R397). -/

namespace Sys2Proof.Machine

/-! ## The mailbox (R388) -/

/-- The CXL return codes that the mailbox gives (log 25). -/
def cxlSuccess : Nat := 0
@[inherit_doc cxlSuccess] def cxlInvalid : Nat := 2
@[inherit_doc cxlSuccess] def cxlUnsupported : Nat := 3

/-- Whether a host can give the mailbox a command: the package is a landing, its link is up, and no command runs. -/
def Pkg.mailboxFree (p : Pkg) : Bool := p.landing.isSome && p.hostUp && p.mailboxCode.isSome

/-- A mailbox command completes. -/
def State.complete (s : State) (pkg code : Nat) (out : List Byte) : State :=
  s.modPkg pkg (fun p => { p with mailbox := out, mailboxCode := some code })

/-- A mailbox command: none where the host can give none; in recovery only those of R399 are accepted. -/
def mailboxCmd (pkg : Nat) (inRecovery : Bool) (s : State) (run : State → State) : Out :=
  let p := s.pkg pkg
  if !p.mailboxFree then .fault .noSuchItem
  else if p.recovery && !inRecovery then .next (s.complete pkg cxlUnsupported [])
  else .next (run s)

/-- `CXL_IDENTIFY` (R388). -/
def execCxlIdentify (pkg : Nat) (s : State) : Out :=
  mailboxCmd pkg false s (fun s => s.complete pkg cxlSuccess (Config.cxlIdentify pkg))

/-- `GET_SUPPORTED_LOGS` (R388). -/
def execGetSupportedLogs (pkg : Nat) (s : State) : Out :=
  mailboxCmd pkg false s (fun s => s.complete pkg cxlSuccess (Config.cxlLogs pkg))

/-- `GET_LOG` (R388). -/
def execGetLog (pkg log off len : Nat) (s : State) : Out :=
  mailboxCmd pkg false s (fun s => s.complete pkg cxlSuccess (Config.cxlLogData pkg log off len))

/-- `GET_EVENT_RECORDS` (R388). -/
def execGetEventRecords (pkg : Nat) (s : State) : Out :=
  mailboxCmd pkg false s (fun s => s.complete pkg cxlSuccess ((s.pkg pkg).cxlLog.flatMap Config.cxlRecord))

/-- `CLEAR_EVENT_RECORDS` (R388): the oldest `n` records go. -/
def execClearEventRecords (pkg n : Nat) (s : State) : Out :=
  mailboxCmd pkg false s (fun s =>
    (s.modPkg pkg (fun p => { p with cxlLog := p.cxlLog.drop n })).complete pkg cxlSuccess [])

/-- A message of the management class that the fabric has brought and that waits at its die: of no type that R409 names for another use. -/
def Pkg.manageFlit (p : Pkg) : Option (Nat × BitVec 640) :=
  p.inbox.find? (fun e => Flit.attests e.2)

/-- A command that management also takes on the fabric's management class (R400, R401): by the fabric where a message of that class waits
(log 80), else by the mailbox where the host can give it, else by the fabric too. A package that is not in recovery sends its answer
there. -/
def manageCmd (pkg : Nat) (inRecovery : Bool) (s : State) (run : State → State) (send : State → State × List Byte) : Out :=
  let p := s.pkg pkg
  if p.mailboxFree && (p.recovery || p.manageFlit.isNone) then mailboxCmd pkg inRecovery s run
  else if p.recovery then .fault .noSuchItem
  else
    let r := send s
    .next (r.1.modPkg pkg (fun q => { q with
      answers := q.answers ++ [r.2], inbox := q.inbox.filter (fun e => some e ≠ p.manageFlit) }))

/-- `ATTEST` (R401). -/
def execAttest (pkg : Nat) (nonce : BitVec 384) (mask : BitVec 16) (s : State) : Out :=
  let report := (s.pkg pkg).report pkg nonce mask
  manageCmd pkg true s (fun s => s.complete pkg cxlSuccess report) (fun s => (s, report))

/-- `GETCERT` (R388, R401). -/
def execGetcert (pkg idx : Nat) (s : State) : Out :=
  mailboxCmd pkg true s (fun s => s.complete pkg cxlSuccess (Config.cert pkg idx))

/-- `MEXTEND` (R400): registers 8 to 15. -/
def execMextend (pkg reg : Nat) (digest : BitVec 384) (s : State) : Out :=
  let ok := decide (8 ≤ reg ∧ reg < 16)
  let run := fun (s : State) => if ok then s.modPkg pkg (fun p => { p with
      meas := p.meas.setIfInBounds reg (extendMeas (p.meas.toList.getD reg 0) digest) }) else s
  manageCmd pkg false s (fun s => (run s).complete pkg (if ok then cxlSuccess else cxlInvalid) []) (fun s => (run s, []))

/-- `RING_SETUP` (R388). -/
def execRingSetup (pkg ring : Nat) (gen : BitVec 32) (s : State) : Out :=
  mailboxCmd pkg false s (fun s =>
    if ring < 8 then
      (s.modPkg pkg (fun p => { p with hring := tset p.hring ring (toWord (2 ^ 63 + gen.toNat)) })).complete pkg cxlSuccess []
    else s.complete pkg cxlInvalid [])

/-- The stores that were checked as completion writes and have not been performed: on their way to the host, or to the orphan log. -/
def Pkg.completions (p : Pkg) : List Nat := ((p.cacheWrites.filter (·.completion)).map (·.id) ++ p.diverts.map (·.id)).dedup

/-- A mailbox command that waits for completion writes completes with the last of them (R398). -/
def State.settleMailbox (s : State) (pkg id : Nat) : State :=
  let p := s.pkg pkg
  if id ∉ p.mailboxWaits then s
  else
    let waits := p.mailboxWaits.filter (· ≠ id)
    let s := s.modPkg pkg (fun p => { p with mailboxWaits := waits })
    if p.mailboxCode.isNone ∧ waits = [] then s.complete pkg cxlSuccess [] else s

/-- `RING_TEARDOWN` (R398): `GEN` is set at once; the command completes once every completion write checked before has been
performed. -/
def execRingTeardown (pkg ring : Nat) (gen : BitVec 32) (s : State) : Out :=
  mailboxCmd pkg false s (fun s =>
    if ring < 8 then
      let waits := (s.pkg pkg).completions
      let s := s.modPkg pkg (fun p => { p with hring := tset p.hring ring (wput (tget p.hring ring 0) 0 32 gen.toNat) })
      if waits = [] then s.complete pkg cxlSuccess []
      else s.modPkg pkg (fun p => { p with mailbox := [], mailboxCode := none, mailboxWaits := waits })
    else s.complete pkg cxlInvalid [])

/-- The address of an entry of the orphan log (R397): entries lie in the gallery of the landing die. -/
def Pkg.orphanAddr (p : Pkg) (n : Nat) : Nat := p.horph.toNat % 2 ^ 28 / 128 * 128 + 256 * (n % wbits p.horph 48 16)

/-- The places of some entries of the orphan log. -/
def Pkg.orphanRuns (p : Pkg) (first count : Nat) : List Nat := (List.range count).map (fun i => p.orphanAddr (first + i))

/-- The host's copies that a read of orphan entries waits for (R392). -/
def State.orphanReadLines (s : State) (pkg first count : Nat) : List Nat :=
  let p := s.pkg pkg
  (p.orphanRuns first count).flatMap (fun a => s.snooped { pkg := pkg, die := p.landing.getD 0 } a 256 false)

/-- Orphan entries read and returned: errors of their words are met (R366, R367; log 93). -/
def State.readOrphans (s : State) (pkg first count : Nat) : State :=
  let p := s.pkg pkg
  let d : DieId := { pkg := pkg, die := p.landing.getD 0 }
  ((p.orphanRuns first count).foldl (fun s a => s.meetOther d none a 256) s).complete pkg cxlSuccess
    ((p.orphanRuns first count).flatMap (fun a => memRead (s.die d).gallery a 256))

/-- `ORPHAN_READ` (R388): at most eight entries; an empty log has none. The command waits for the host's copies of the lines (R392). -/
def execOrphanRead (pkg first count : Nat) (s : State) : Out :=
  mailboxCmd pkg false s (fun s =>
    let p := s.pkg pkg
    if 8 < count then s.complete pkg cxlInvalid []
    else if wbits p.horph 48 16 = 0 then s.complete pkg cxlSuccess []
    else if s.orphanReadLines pkg first count = [] then s.readOrphans pkg first count
    else s.modPkg pkg (fun p => { p with mailbox := [], mailboxCode := none, orphanAsk := some (first, count) }))

/-- An `ORPHAN_READ` that waits asks the host for the lines that it still holds, or is carried out (R392). -/
def State.settleOrphan (s : State) (pkg : Nat) : State :=
  match (s.pkg pkg).orphanAsk with
  | none => s
  | some a =>
    let ls := s.orphanReadLines pkg a.1 a.2
    if ls ≠ [] then s.backInvalidate pkg ls false
    else (s.modPkg pkg (fun p => { p with orphanAsk := none })).readOrphans pkg a.1 a.2

/-- `MGMT_READ` (R388): as a supervisor core's `LD.G.d` on the control space. -/
def execMgmtRead (pkg die addr : Nat) (s : State) : Out :=
  mailboxCmd pkg false s (fun s =>
    let d : DieId := { pkg := pkg, die := die }
    match (if die < 8 ∧ addr % 8 = 0 then s.ctlReg d addr else none) with
    | none => s.complete pkg cxlInvalid []
    | some r =>
      let s' := match r with
        | .evpop n => s.modSup (supOf d n) (fun u => { u with events := u.events.drop 1 })
        | _ => s
      s'.complete pkg cxlSuccess (leBytes 8 (s.readReg d r).toNat))

/-- `MGMT_WRITE` (R388): as a supervisor core's `ST.G.d` on the control space. -/
def execMgmtWrite (pkg die addr : Nat) (v : BitVec 64) (s : State) : Out :=
  mailboxCmd pkg false s (fun s =>
    let d : DieId := { pkg := pkg, die := die }
    match (if die < 8 ∧ addr % 8 = 0 then s.ctlReg d addr else none) with
    | none => s.complete pkg cxlInvalid []
    | some r => (s.writeReg d r v).complete pkg cxlSuccess [])

/-- `MAILBOX_UNSUPPORTED` (R388). -/
def execMailboxUnsupported (pkg opcode : Nat) (s : State) : Out :=
  if opcode ∈ [0xC001, 0xC002, 0xC003, 0xC010, 0xC011, 0xC012, 0xC020, 0xC021, 0xC030] then .fault .noSuchItem
  else mailboxCmd pkg true s (fun s => s.complete pkg cxlUnsupported [])

/-! ## FW_LOAD (R389) -/

end Sys2Proof.Machine

namespace Sys2Proof

/-- The fields of a chunk's header. -/
def FwChunk.tgt (h : FwChunk) : Nat := Machine.wbits h.h0 0 8
@[inherit_doc FwChunk.tgt] def FwChunk.first (h : FwChunk) : Bool := h.h0.getLsbD 8
@[inherit_doc FwChunk.tgt] def FwChunk.last (h : FwChunk) : Bool := h.h0.getLsbD 9
@[inherit_doc FwChunk.tgt] def FwChunk.cseq (h : FwChunk) : Nat := Machine.wbits h.h0 32 32
@[inherit_doc FwChunk.tgt] def FwChunk.off (h : FwChunk) : Nat := Machine.wbits h.h1 0 32
@[inherit_doc FwChunk.tgt] def FwChunk.total (h : FwChunk) : Nat := Machine.wbits h.h1 32 32

end Sys2Proof

namespace Sys2Proof.Machine

/-- The transfer that a chunk continues, or starts (R389). -/
def Pkg.transfer (p : Pkg) (h : FwChunk) : Option FwTransfer :=
  if h.first then some { tgt := h.tgt, cseq := 0, total := h.total, accepted := 0, data := [] }
  else p.fw.filter (fun t => t.tgt = h.tgt)

/-- The status of a chunk that is not accepted (R389); 0 where it is. -/
def chunkStatus (recovery : Bool) (t : Option FwTransfer) (h : FwChunk) : Nat :=
  if wbits h.h0 10 22 ≠ 0 ∨ 1 < h.tgt then 2
  else if h.tgt = 1 ∧ recovery then 5
  else
    match t with
    | none => 6
    | some t =>
      if h.total ≠ t.total ∨ h.total < h.off + h.data.length ∨ h.data = [] ∨ 4080 < h.data.length then 2
      else if h.cseq ≠ t.cseq ∨ h.off ≠ t.accepted then 1
      else if (h.tgt = 0 ∧ 2 ^ 23 < h.total) ∨ (h.last ∧ t.accepted + h.data.length ≠ h.total) then 3
      else 0

/-- The output of a chunk: its status and the bytes accepted so far. -/
def State.chunkDone (s : State) (pkg status accepted : Nat) : State :=
  s.complete pkg cxlSuccess (leBytes 8 (status + accepted % 2 ^ 32 * 2 ^ 32))

/-- The transfer of a package replaced. -/
def State.setTransfer (s : State) (pkg : Nat) (t : Option FwTransfer) : State := s.modPkg pkg (fun p => { p with fw := t })

/-- The BOOT packets that stand whole at the head of a stream, and the rest of it (R389, R430). -/
def splitStream : Nat → List Byte → List Packet × List Byte
  | 0, bs => ([], bs)
  | n + 1, bs =>
    let w := fun i => toWord (leNat ((bs.drop (8 * i)).take 8))
    let len := wbits (w 0) 12 13
    if bs.length < 32 ∨ bs.length < 32 + len then ([], bs)
    else
      let k : Packet := { w0 := w 0, w1 := w 1, w2 := w 2, w3 := w 3, payload := (bs.drop 32).take len }
      let r := splitStream n (bs.drop (32 + len))
      (k :: r.1, r.2)

/-- What the landing does with a packet of the boot stream: none where its check fails (R389). It keeps the packets of a block
that is not whole, and sends a block once it is. No block comes before the stream's manifest has been verified (`opened`). -/
def State.streamPacket (s : State) (pkg : Nat) (k : Packet) (opened : Bool) : Option State :=
  let b := (s.pkg pkg).boot
  if k.seq = 0 then
    let t := s.bootPacket pkg k
    let x := (t.pkg pkg).boot
    if (b.manifest.isNone ∧ x.raw = []) ∨ (b.manifest.isSome ∧ x.fresh = [] ∧ x.raw = b.raw ∧ b.fresh ++ [k] ≠ b.raw) then none
    else some (t.modBoot pkg (fun x => { x with sent := tset x.sent 0 x.raw }))
  else if !opened then none
  else
    match b.manifest with
    | none => none
    | some m =>
      match m.blocks.find? (fun e => e.num = k.seq.toNat) with
      | none => none
      | some e =>
        let key := 2 ^ 32 + e.num
        let ks := tget b.sent key [] ++ [k]
        if (blockBytes ks).length < e.len then some (s.modBoot pkg (fun x => { x with sent := tset x.sent key ks }))
        else if (blockBytes ks).length = e.len ∧ sha384 (blockBytes ks) = e.sha then
          some (ks.foldl (fun s k => s.bootPacket pkg k)
            (s.modBoot pkg (fun x => { x with sent := tset (tdel x.sent key) e.num ks })))
        else none

/-- Whether the landing holds a whole manifest, and none that is still coming. -/
def Pkg.manifestHeld (p : Pkg) : Bool := p.boot.manifest.isSome && p.boot.fresh = []

/-- The packets of a chunk, up to the first that fails; whether none does; and whether the manifest has then been verified. -/
def State.streamPackets (s : State) (pkg : Nat) (opened : Bool) : List Packet → State × Bool × Bool
  | [] => (s, true, opened)
  | k :: r =>
    match s.streamPacket pkg k opened with
    | some t => t.streamPackets pkg (opened || (k.seq = 0 && (t.pkg pkg).manifestHeld)) r
    | none => (s, false, opened)

/-- Whether every block of the manifest has been sent down the tree, and none is still coming. -/
def Pkg.allSent (p : Pkg) : Bool :=
  match p.boot.manifest with
  | none => false
  | some m => p.boot.sent.all (fun e => e.1 < 2 ^ 32) && m.blocks.all (fun b => b.num = 0 || (tfind p.boot.sent b.num).isSome)

/-- A transfer is abandoned: what came with a boot stream of a block or of the manifest that is not whole is gone (R389). -/
def State.abandon (s : State) (pkg : Nat) : State :=
  let t := s.setTransfer pkg none
  if !(s.pkg pkg).fw.any (fun x => x.tgt = 1) then t
  else t.modBoot pkg (fun b => { b with
    raw := if b.manifest.isNone then [] else b.raw, fresh := [], sent := b.sent.filter (fun e => e.1 < 2 ^ 32) })

/-- A firmware chunk taken: with the last one the ROM checks the image; in recovery it runs at once, else at the next package reset. -/
def State.firmwareChunk (s : State) (pkg : Nat) (last : Bool) (next : FwTransfer) : State :=
  if !last then (s.setTransfer pkg (some next)).chunkDone pkg 0 next.accepted
  else if !imageOk pkg next.data then (s.abandon pkg).chunkDone pkg 4 next.accepted
  else
    let t := (s.setTransfer pkg none).chunkDone pkg 0 next.accepted
    if (s.pkg pkg).recovery then t.runFirmware pkg next.data
    else t.modPkg pkg (fun p => { p with image := next.data, imageReady := true })

/-- Whether a BOOT packet of a package has not been sent to a child: it waits for a link. -/
def State.bootHeld (s : State) (pkg : Nat) : Bool :=
  s.heldFlits.any (fun f => f.src.pkg = pkg && match f.ev with
    | .bootPacket _ _ => true
    | _ => false)

/-- A chunk that waits completes once its blocks have been sent (R389). -/
def State.settleChunkWait (s : State) (pkg : Nat) : State :=
  match (s.pkg pkg).chunkWait with
  | none => s
  | some out =>
    if s.bootHeld pkg then s else (s.modPkg pkg (fun p => { p with chunkWait := none })).complete pkg cxlSuccess out

/-- A chunk of the boot stream taken: the blocks that it completes are sent, and it completes once they are; the transfer ends at the first that fails, and fails with its
last chunk where a block is not whole or has not come: status 0 there says that every block has been sent. -/
def State.bootChunk (s : State) (pkg : Nat) (last : Bool) (next : FwTransfer) : State :=
  let r := splitStream next.data.length next.data
  let u := s.streamPackets pkg next.opened r.1
  if !u.2.1 ∨ (last ∧ (r.2 ≠ [] ∨ !u.2.2 ∨ !(u.1.pkg pkg).allSent)) then
    ((u.1.setTransfer pkg (some next)).abandon pkg).chunkDone pkg 4 next.accepted
  else
    let t := u.1.setTransfer pkg (if last then none else some { next with data := r.2, opened := u.2.2 })
    if r.1 = [] ∨ !u.1.bootHeld pkg then t.chunkDone pkg 0 next.accepted
    else t.modPkg pkg (fun p => { p with
      mailbox := [], mailboxCode := none, chunkWait := some (leBytes 8 (next.accepted % 2 ^ 32 * 2 ^ 32)) })

/-- A chunk taken (R389); one with `FIRST` abandons an unfinished transfer, whatever becomes of it (log 55). -/
def State.fwLoad (s : State) (pkg : Nat) (h : FwChunk) : State :=
  let s := if h.first then s.abandon pkg else s
  let p := s.pkg pkg
  let t := p.transfer h
  let st := chunkStatus p.recovery t h
  if st ≠ 0 then s.chunkDone pkg st ((p.fw.map (·.accepted)).getD 0)
  else
    match t with
    | none => s
    | some t =>
      let next : FwTransfer := { t with cseq := t.cseq + 1, accepted := t.accepted + h.data.length, data := t.data ++ h.data }
      if h.tgt = 0 then s.firmwareChunk pkg h.last next else s.bootChunk pkg h.last next

/-- `FW_LOAD_FIRMWARE` (R389): a chunk, whose target is the management firmware image. -/
def execFwLoadFirmware (pkg : Nat) (h : FwChunk) (s : State) : Out :=
  if h.tgt = 1 then .fault .noSuchItem else mailboxCmd pkg true s (fun s => s.fwLoad pkg h)

/-- `FW_LOAD_BOOT_STREAM` (R389): a chunk of the boot stream. -/
def execFwLoadBootStream (pkg : Nat) (h : FwChunk) (s : State) : Out :=
  if h.tgt = 1 then mailboxCmd pkg true s (fun s => s.fwLoad pkg h) else .fault .noSuchItem

/-! ## Host-managed device memory (R391, R392) -/

/-- The die and the gallery address of a byte of HDM, where the landing reports it. -/
def Pkg.hdmPlace (p : Pkg) (off : Nat) : Option (Nat × Nat) := if off / 2 ^ 21 < p.hdmSize then some (p.hdmAddr (off / 64)) else none

/-- A host access that the landing cannot serve (R391). -/
def State.hostError (s : State) (pkg off : Nat) : State :=
  s.modPkg pkg (fun p => { p with herr := p.herr + 1, cxlLog := p.cxlLog ++ [eventRec 0 2 none 0 off] })

/-- The line that a host read returns (R391): all ones where the landing cannot serve it. -/
def State.hdmLineValue (s : State) (pkg off : Nat) : BitVec 512 :=
  match (s.pkg pkg).hdmPlace off with
  | none => BitVec.allOnes 512
  | some (die, addr) =>
    let k := s.die { pkg := pkg, die := die }
    if (firstBad k.bad addr 64).isSome then BitVec.allOnes 512 else BitVec.ofNat 512 (memNat k.gallery addr 64)

/-- A host read at its die (R391, R392): the host is granted the line, and may write its copy (log 26). With the snoop filter full, the
oldest line is back-invalidated first. -/
def State.hdmRead (s : State) (pkg off die addr : Nat) : State :=
  let p := s.pkg pkg
  let d : DieId := { pkg := pkg, die := die }
  let line := off / 64
  if (firstBad (s.die d).bad addr 64).isSome then (s.meetDie d addr 64).hostError pkg off
  else if p.snoop.any (fun e => e.1 = line) then s.meetDie d addr 64
  else if 65536 ≤ p.snoop.length then s.backInvalidate pkg ((p.snoop.map (·.1)).take 1) true
  else (s.meetDie d addr 64).modPkg pkg (fun p => { p with snoop := p.snoop ++ [(line, true)] })

/-- The runs of bytes of a line that a mask selects: offset and bytes. -/
def maskRuns (data : BitVec 512) (mask : BitVec 64) : List (Nat × Byte) :=
  ((List.range 64).filter mask.getLsbD).map (fun i => (i, BitVec.ofNat 8 (bitsAt data.toNat (8 * i) 8)))

/-- The agent that the landing's writes are made for. -/
def landingAgent (d : DieId) : Agent := .sup { die := d, k := 0 }

/-- Bytes of a line written in the gallery for the host: a word that the mask covers is replaced whole (R367). -/
def State.hostWrite (s : State) (d : DieId) (addr : Nat) (data : BitVec 512) (mask : BitVec 64) : State :=
  let bs := leBytes 64 data.toNat
  if mask = BitVec.allOnes 64 then s.storeHome (landingAgent d) false (.die d) addr bs false
  else (List.range 8).foldl (fun s k =>
    if bitsAt mask.toNat (8 * k) 8 = 255 then s.storeHome (landingAgent d) false (.die d) (addr + 8 * k) ((bs.drop (8 * k)).take 8) false
    else ((maskRuns data mask).filter (fun p => p.1 / 8 = k)).foldl (fun s p =>
      s.storeHome (landingAgent d) false (.die d) (addr + p.1) [p.2] false) s) s

/-- The erroneous words that a masked write meets and does not replace whole (R367, R391). -/
def hostWriteMeets (bad : List Nat) (addr : Nat) (mask : BitVec 64) : List Nat :=
  (List.range 8).filter (fun k => addr + 8 * k ∈ bad && bitsAt mask.toNat (8 * k) 8 ≠ 0 && bitsAt mask.toNat (8 * k) 8 ≠ 255)

/-- Whether it meets one. -/
def hostWriteBad (bad : List Nat) (addr : Nat) (mask : BitVec 64) : Bool := hostWriteMeets bad addr mask ≠ []

/-- A host write at its die (R391). -/
def State.hdmWrite (s : State) (pkg off die addr : Nat) (data : BitVec 512) (mask : BitVec 64) : State :=
  let d : DieId := { pkg := pkg, die := die }
  if hostWriteBad (s.die d).bad addr mask then
    (s.countErrors d 0 (hostWriteMeets (s.die d).bad addr mask).length).hostError pkg off
  else s.hostWrite d addr data mask

/-- A host access at its die. -/
def State.hdmDo (s : State) (pkg off die addr : Nat) (write : Option (BitVec 512 × BitVec 64)) : State :=
  match write with
  | none => s.hdmRead pkg off die addr
  | some w => s.hdmWrite pkg off die addr w.1 w.2

/-- The cycle behind the arrival of the last request that the landing die has sent to another die of its package (R380). -/
def State.behindRequests (s : State) (src dst : DieId) : Nat :=
  ((s.agenda.filter (fun e => match e.ev.asks.bind s.req with
    | some q => dieOf q.own = src && s.homeDie q.place.home = dst
    | none => false)).map (fun e => e.cycle + 1)).foldl max 0

/-- A host access that the landing has received (R293, R379, R380, R391): at its own die it is performed at once, where none waits before
it; to another die it takes the ring behind what the landing has sent there, and accesses are performed in the order received. -/
def State.hdmAccess (s : State) (pkg off : Nat) (write : Option (BitVec 512 × BitVec 64)) : Out :=
  let p := s.pkg pkg
  if !p.hostUp then .fault .noSuchItem
  else
    match p.hdmPlace off with
    | none => .next (s.hostError pkg off)
    | some (die, addr) =>
      let home := p.landing.getD die
      if home = die ∧ p.hdmIn = [] then .next (s.hdmDo pkg off die addr write)
      else
        let due := max (max (s.cycle + 16 * p.ringHops home die) ((p.hdmIn.map (·.due)).foldl max 0))
          (if home = die then 0 else s.behindRequests { pkg := pkg, die := home } { pkg := pkg, die := die })
        .next (s.modPkg pkg (fun p => { p with hdmIn := p.hdmIn ++ [{ off := off, die := die, write := write, due := due }] }))

/-- The host accesses that have arrived at their dies are performed, in order. -/
def State.settleHdm (s : State) (pkg : Nat) : Nat → State
  | 0 => s
  | n + 1 =>
    match (s.pkg pkg).hdmIn with
    | [] => s
    | o :: r =>
      if s.cycle < o.due then s
      else
        let t := s.modPkg pkg (fun p => { p with hdmIn := r })
        (match (s.pkg pkg).hdmPlace o.off with
        | some x => t.hdmDo pkg o.off x.1 x.2 o.write
        | none => t.hostError pkg o.off).settleHdm pkg n

/-- `HOST_HDM_READ` (R391, R392). -/
def execHostHdmRead (pkg off : Nat) (s : State) : Out := s.hdmAccess pkg off none

/-- `HOST_HDM_WRITE` (R391, R392). -/
def execHostHdmWrite (pkg off : Nat) (data : BitVec 512) (mask : BitVec 64) (s : State) : Out := s.hdmAccess pkg off (some (data, mask))

/-- `BACK_INVALIDATION_DONE` (R392): dirty data are written; the host keeps a shared copy at most, or none. -/
def execBackInvalidationDone (pkg line : Nat) (dirty : Option (BitVec 512)) (s : State) : Out :=
  let p := s.pkg pkg
  if !p.backInval.any (fun e => e.1 = line) then .fault .noSuchItem
  else
    let gone := p.backInval.any (fun e => e.1 = line && e.2)
    let s := match dirty with
      | some w => s.hostWrite { pkg := pkg, die := (p.hdmAddr line).1 } (p.hdmAddr line).2 w (BitVec.allOnes 64)
      | none => s
    .next (s.modPkg pkg (fun p => { p with
      backInval := p.backInval.filter (fun e => e.1 ≠ line),
      snoop := if gone then p.snoop.filter (fun e => e.1 ≠ line)
               else p.snoop.map (fun e => if e.1 = line then (line, false) else e) }))

/-- `HOST_SNOOP` (R387): the device holds no host line, and every snoop is a miss. -/
def execHostSnoop (pkg _line : Nat) (s : State) : Out :=
  if (s.pkg pkg).hostUp then .next s else .fault .noSuchItem

/-! ## The host window (R393, R397) -/

/-- A store cut at the 64-byte lines of host memory (R393). -/
def hostLines (addr : Nat) (data : List Byte) : List (Nat × List Byte) :=
  (linesOf addr data.length).map (fun l =>
    let lo := max addr (64 * l)
    (lo, (data.drop (lo - addr)).take (64 * l + 64 - lo)))

/-- A store becomes CXL.cache writes, one for each line that it touches (R387, R393). -/
def State.toCache (s : State) (pkg id addr : Nat) (data : List Byte) (completion : Bool) : State :=
  s.modPkg pkg (fun p => { p with cacheWrites := p.cacheWrites ++ (hostLines addr data).map (fun l =>
    { id := id, addr := l.1, data := l.2, completion := completion }) })

/-- The kinds of CXL.cache write that the landing makes (R387). -/
inductive CacheOp where
  | itoMWr
  | wrCur
  deriving DecidableEq, Repr

/-- The kind of a write: `ItoMWr` for a whole line of 64 bytes, `WrCur` for part of one (R387). -/
def cacheOp (w : CacheWrite) : CacheOp := if w.data.length = 64 then .itoMWr else .wrCur

/-- A completion write diverted to the orphan log: the store is performed once its entry is written (R397). -/
def State.divert (s : State) (pkg : Nat) (e : Divert) : State :=
  let p := s.pkg pkg
  let d : DieId := { pkg := pkg, die := p.landing.getD 0 }
  let image := padTo 128 e.data ++ leBytes 8 e.addr ++ leBytes 1 e.reason ++ leBytes 1 e.ring ++ List.replicate 118 0
  let s := if wbits p.horph 48 16 = 0 then s else s.engineWrite d (landingAgent d) (p.orphanAddr p.horpn.toNat) image false
  ((s.modPkg pkg (fun p => { p with horpn := p.horpn + 1, diverts := p.diverts.filter (fun x => x.id ≠ e.id) })).dropReq e.id).settleMailbox
    pkg e.id

/-- The host's copies of an orphan entry's place, which its write waits for (R392). -/
def State.orphanLines (s : State) (pkg : Nat) : List Nat :=
  let p := s.pkg pkg
  if wbits p.horph 48 16 = 0 then [] else s.snooped { pkg := pkg, die := p.landing.getD 0 } (p.orphanAddr p.horpn.toNat) 256 true

/-- A write that its check has diverted is diverted, or waits for the host's copies; what the check found stands (R397). -/
def State.tryDivert (s : State) (pkg : Nat) (e : Divert) : State :=
  if s.orphanLines pkg = [] then s.divert pkg e
  else ((s.modPkg pkg (fun p => { p with diverts := p.diverts.filter (fun x => x.id ≠ e.id) ++ [e] })).backInvalidate pkg
    (s.orphanLines pkg) true).schedule (s.cycle + 1) priLate (.completionWriteCheck e.id)

/-- A write that has been checked and waits to be diverted, with its landing. -/
def State.diverted (s : State) (id : Nat) : Option (Nat × Divert) :=
  s.pkgs.findSome? (fun e => (e.2.diverts.find? (fun x => x.id = id)).map (fun x => (e.1, x)))

/-- `COMPLETION_WRITE_CHECK` (R393, R397): a write is checked once, as it arrives; one that follows an acquire which is not complete waits
for it (R288). -/
def execCompletionWriteCheck (id : Nat) (s : State) : Out :=
  match s.diverted id with
  | some e => .next (s.tryDivert e.1 e.2)
  | none =>
  match s.req id with
  | none => .fault .noSuchItem
  | some q =>
    match q.place.home, q.op with
    | .host pkg win, .store data =>
      if s.behindAcquire q.own id then .next (s.schedule (s.cycle + 1) priLate (.completionWriteCheck id))
      else
        let p := s.pkg pkg
        let w := tget p.hwin win 0
        let ring := wbits w 59 3
        let hr := tget p.hring ring 0
        let e := fun (reason : Nat) => ({ id := id, ring := ring, reason := reason, addr := q.place.addr, data := data } : Divert)
        if !w.getLsbD 62 then .next (s.toCache pkg id q.place.addr data false)
        else if data.length ≠ 128 ∨ q.place.addr % 128 ≠ 0 then .next (s.tryDivert pkg (e 2))
        else if !hr.getLsbD 63 ∨ leNat ((data.drop 8).take 4) ≠ wbits hr 0 32 then .next (s.tryDivert pkg (e 1))
        else .next (s.toCache pkg id q.place.addr data true)
    | _, _ => .fault .noSuchItem

/-- The package whose landing has a store's CXL.cache writes under way. -/
def State.cacheOf (s : State) (id : Nat) : Option Nat :=
  (s.pkgs.find? (fun e => e.2.cacheWrites.any (fun w => w.id = id))).map (·.1)

/-- `HOST_GLOBAL_OBSERVATION` (R283, R393): the host grants observation of a store's writes, and the store is performed; not
before an earlier store of the same core to the same line (R285). The writes are performed too where a reset has taken their issuer. -/
def execHostGlobalObservation (id : Nat) (s : State) : Out :=
  match s.cacheOf id with
  | none => .fault .noSuchItem
  | some pkg =>
    let early := match s.req id with
      | none => false
      | some q => (s.before q).any (fun (r : MemReq) => r.op ≠ ReqOp.load)
    if early then .fault .noSuchItem
    else
      let s := s.modPkg pkg (fun p => { p with
        cacheWrites := p.cacheWrites.filter (fun (w : CacheWrite) => w.id ≠ id),
        hostMem := (p.cacheWrites.filter (fun (w : CacheWrite) => w.id = id)).foldl (fun m (w : CacheWrite) => memWrite m w.addr w.data) p.hostMem })
      .next ((s.dropReq id).settleMailbox pkg id)

end Sys2Proof.Machine
end

