-- ==== Sys2Proof/Machine/Migration.lean ====
section
/-! DEFINITION. Migration of a failed package to the hall's spare (R432–R437, R442, R443, R449). -/

namespace Sys2Proof.Machine

/-! ## The controller (R434) -/

/-- The code of a migration state. -/
def MigState.code : MigState → Nat
  | .normal => 0
  | .detected => 1
  | .freeze => 2
  | .rebuild => 3
  | .remap => 4
  | .replay => 5
  | .resumed => 6
  | .lost => 7

/-- The positions of a hall. -/
def hallOf (pos : Nat) : List Nat := (List.range 32).map (fun j => pos / 32 * 32 + j)

/-- `ROLE` of a package (R412). -/
def Pkg.role (p : Pkg) : Nat := wbits p.fabid 34 2

/-- The migration controller of a hall: its spare, and after a migration the spare in use until a new one is named. -/
def State.controllerOf (s : State) (pos : Nat) : Option Nat :=
  (s.spareOf pos).orElse (fun _ =>
    (hallOf pos).find? (fun q => (s.pkg q).role = 3 && (s.pkg q).mig.state ≠ .normal))

/-- The packages of a package's partition, by their positions: itself and those that `PMEMB` names (R412). -/
def State.partition (s : State) (pos : Nat) : List Nat :=
  (s.pkgs.map (·.1)).filter (fun q =>
    q = pos || (tget (s.pkg pos).pmemb ((s.pkg q).lpkg / 64) 0).getLsbD ((s.pkg q).lpkg % 64))

/-- The controller's record changed. -/
def State.modMig (s : State) (ctl : Nat) (f : Migration → Migration) : State :=
  s.modPkg ctl (fun p => { p with mig := f p.mig })

/-- The controller enters a state, which event 0x45 reports. -/
def State.toMig (s : State) (ctl : Nat) (st : MigState) : State :=
  (s.modMig ctl (fun g => { g with state := st })).packageEvent ctl 0x45 st.code 0

/-- The port of package `a` on its mesh link to package `b` (R406). -/
def meshPort (a b : Nat) : Nat := (b % 32 + 31 - a % 32) % 32

/-- Whether every mesh link to a package has gone to FAILED. -/
def State.linksDead (s : State) (pos : Nat) : Bool :=
  (hallOf pos).all (fun q => q = pos || ((s.pkg q).port (meshPort q pos)).state = .failed ||
    ((s.pkg pos).port (meshPort pos q)).state = .failed)

/-- The packages of the partition that a migration freezes: all but the failed one. -/
def State.members (s : State) (ctl : Nat) : List Nat := (s.partition ctl).filter (· ≠ (s.pkg ctl).mig.failedPkg)

/-- Every member freezes towards a position, or no longer; what is in transit for the number `no` is held or dropped until the member's
flip (R434, R436). -/
def State.freezeAll (s : State) (ctl : Nat) (at_ no : Option Nat) : State :=
  (s.members ctl).foldl (fun s q =>
    let s := match no with
      | some n => s.pullRing q (fun f => f.dpkg = n)
      | none => s
    s.modPkg q (fun p => { p with frozen := at_, heldNo := no })) s

/-- The logical number of a package of the hall, by the controller's own table (R413, R436). -/
def State.hallNo (s : State) (ctl pos : Nat) : Nat := (s.pkg ctl).numberOf pos (s.pkg pos).lpkg

/-- A package is declared failed: DETECTED with its notice, then FREEZE; a second failure, or that of the spare, is LOST. -/
def State.declareFailed (s : State) (ctl pos : Nat) : State :=
  let g := (s.pkg ctl).mig
  if g.state = .normal ∧ pos ≠ ctl then
    let s := ((s.toMig ctl .detected).modMig ctl (fun g => { g with failedPkg := pos })).flood ctl pos 63 ctl
    let ms := s.members ctl
    let s := ((s.freezeAll ctl (some pos) (some (s.hallNo ctl pos))).toMig ctl .freeze).modMig ctl (fun g => { g with waits := ms })
    ms.foldl (fun s q => s.sendFree 0 q ctl (.freezeAcknowledged ctl q)) s
  else if g.state = .lost ∨ (g.state ≠ .normal ∧ g.failedPkg = pos) then s
  else s.toMig ctl .lost

/-- The failures that the controller can see now: a package reports itself failed, or its links are dead. -/
def State.checkHall (s : State) (ctl : Nat) : State :=
  (hallOf ctl).foldl (fun s q => if (s.pkg q).reported || s.linksDead q then s.declareFailed ctl q else s) s

/-- Eight heartbeats, and a little more: the time after which a package is declared failed. -/
def beatLimit : Nat := 64000 + usec

/-- Every active package sends its heartbeat, every 10 µs. -/
def State.heartbeats (s : State) : State :=
  if s.cycle % 8000 ≠ 0 then s
  else s.pkgs.foldl (fun s e =>
    if e.2.role = 1 ∨ e.2.recovery then s
    else match s.controllerOf e.1 with
      | some ctl => if ctl = e.1 then s else s.sendFree 0 e.1 ctl (.heartbeat ctl e.1)
      | none => s) s

/-- `LINK_REPLAY_FAILURE` (R407, R418, R419): a link fails; the controller sees at once where every mesh link to a package has failed
(R434, R443). -/
def execLinkReplayFailure (pkg port : Nat) (s : State) : Out :=
  if ((s.pkg pkg).port port).state ≠ .up then .fault .noSuchItem
  else
    let t := s.linkFails pkg port
    .next (match t.controllerOf pkg with
      | some ctl => t.checkHall ctl
      | none => t)

/-- The controller notes which configurations are active on the dies of a package whose heartbeat has come (log 56). -/
def State.noteConfs (s : State) (ctl src : Nat) : State :=
  (List.range 8).foldl (fun s n =>
    let d : DieId := { pkg := src, die := n }
    let k := s.die d
    s.modMig ctl (fun g => { g with confs := if k.actv then tset g.confs d (k.actn, k.cfgstair) else tdel g.confs d })) s

/-- `HEARTBEAT` (R434). -/
def execHeartbeat (ctl src : Nat) (s : State) : Out :=
  if s.controllerOf src ≠ some ctl then .fault .noSuchItem
  else
    let s := (s.modMig ctl (fun g => { g with lastBeat := tset g.lastBeat src s.cycle })).noteConfs ctl src
    .next ((s.schedule (s.cycle + beatLimit) priLate (.heartbeatTimeout ctl src)).checkHall ctl)

/-- `HEARTBEAT_TIMEOUT` (R434): where no heartbeat came since. -/
def execHeartbeatTimeout (ctl src : Nat) (s : State) : Out :=
  match tfind (s.pkg ctl).mig.lastBeat src with
  | none => .fault .noSuchItem
  | some t => if t + beatLimit ≤ s.cycle then .next (s.declareFailed ctl src) else .next s

/-! ## REBUILD (R435) -/

/-- The memory that an image address names, and the address there (log 40). -/
def imagePlace (d : DieId) (addr : Nat) : Option CoreId × Nat :=
  if addr < 2 ^ 32 then (none, addr)
  else
    let n := (addr - 2 ^ 32) / 2 ^ 21
    (some { die := d, clu := n / 96, core := n % 96 }, addr % 2 ^ 21)

/-- The line of memory at an image address. -/
def State.imageLine (s : State) (d : DieId) (addr : Nat) : List Byte :=
  match imagePlace d addr with
  | (some c, a) => memRead (s.core c).mem a 64
  | (none, a) => memRead (s.die d).gallery a 64

/-- The image lines of a package's die: the addresses of the lines that hold its weight image. -/
def Pkg.imageLines (p : Pkg) (die : Nat) : List Nat :=
  ((p.boot.extents.filter (·.1 = die)).flatMap (fun e => (linesOf e.2.1 e.2.2).map (64 * ·))).dedup

/-- A package's image bytes of a line; a byte that is no part of its image is zero (R431). -/
def State.imageBytes (s : State) (d : DieId) (addr : Nat) : BitVec 512 :=
  let mine := (s.pkg d.pkg).boot.extents.filter (·.1 = d.die)
  BitVec.ofNat 512 (leNat ((s.imageLine d addr).zipIdx.map (fun b =>
    if mine.any (fun e => e.2.1 ≤ addr + b.2 && addr + b.2 < e.2.1 + e.2.2) then b.1 else 0)))

/-- A line XORed into the spare's memory. -/
def State.xorLine (s : State) (d : DieId) (addr : Nat) (data : BitVec 512) : State :=
  s.xorOther d (imagePlace d addr).1 (imagePlace d addr).2 (leBytes 64 data.toNat)

/-- The survivors of a hall that hold image lines on a die, and all those lines in ascending order. -/
def State.imageOf (s : State) (ctl die : Nat) : List Nat × List Nat :=
  let holders := (hallOf ctl).filter (fun q =>
    q ≠ ctl && q ≠ (s.pkg ctl).mig.failedPkg && (s.pkg q).imageLines die ≠ [])
  (holders, (holders.flatMap (fun q => (s.pkg q).imageLines die)).foldl (fun l n => insertNat n l) [])

/-- Node `n` of the merge tree, whose node 0 is the spare: every node has at most four children. -/
def treeNode (ctl : Nat) (holders : List Nat) (n : Nat) : Nat := if n = 0 then ctl else holders.getD (n - 1) ctl

/-- The children of a node among `count` nodes. -/
def treeFan (count n : Nat) : Nat := ((List.range (count + 1)).filter (fun j => j ≠ 0 && (j - 1) / 4 = n)).length

/-- A `REDWIN` entry for reduction lines (R428, R443). -/
def lineEntry (home die fan : Nat) (lines : List Nat) : Word :=
  let pages := (lines.filter (· < 2 ^ 28)).map (· / 2 ^ 21)
  let pg := pages.foldl min (pages.headD 0)
  toWord (2 ^ 63 + 2 ^ 57 + fan % 32 * 2 ^ 52 + home % 2 ^ 14 * 2 ^ 38 + die % 8 * 2 ^ 35 + pg % 128 * 2 ^ 28
    + (pages.foldl max pg - pg) % 128 * 2 ^ 21)

/-- One die's image is sent through the merge tree: the entries of the packages in it, and each survivor's lines. -/
def State.streamDie (s : State) (ctl die : Nat) : State :=
  let (holders, lines) := s.imageOf ctl die
  if holders = [] then s
  else
    let put := fun (s : State) (q : Nat) (w : Word) => s.modPkg q (fun p => { p with redwin := tset p.redwin (8 + die) w })
    let s := put s ctl (lineEntry (s.pkg ctl).lpkg die (treeFan holders.length 0) lines)
    let s := holders.zipIdx.foldl (fun s h =>
      put s h.1 (lineEntry (s.pkg (treeNode ctl holders (h.2 / 4))).lpkg die (1 + treeFan holders.length (h.2 + 1)) lines)) s
    let s := s.modMig ctl (fun g => { g with lines := g.lines + lines.length })
    lines.zipIdx.foldl (fun s l => holders.foldl (fun s q =>
      let d : DieId := { pkg := q, die := die }
      (s.meetOther d (imagePlace d l.1).1 (imagePlace d l.1).2 64).schedule (s.cycle + 1 + l.2) priLate
        (.reductionLine q die l.1 (s.imageBytes d l.1))) s) s

/-- REBUILD begins. -/
def State.beginRebuild (s : State) (ctl : Nat) : State :=
  let s := (s.toMig ctl .rebuild).modMig ctl (fun g => { g with lines := 0 })
  let s := (List.range 8).foldl (fun s n => s.streamDie ctl n) s
  if (s.pkg ctl).mig.lines = 0 then s.schedule (s.cycle + 1) priLate (.rebuildComplete ctl) else s

/-- `FREEZE_ACKNOWLEDGED` (R434). -/
def execFreezeAcknowledged (ctl src : Nat) (s : State) : Out :=
  let g := (s.pkg ctl).mig
  if g.state ≠ .freeze ∨ src ∉ g.waits then .fault .noSuchItem
  else
    let s := (s.modMig ctl (fun g => { g with waits := g.waits.filter (· ≠ src) })).checkHall ctl
    .next (if (s.pkg ctl).mig.state = .freeze ∧ (s.pkg ctl).mig.waits = [] then s.beginRebuild ctl else s)

/-- The entry that merges a reduction line: of the die, and for a line of the gallery of its page (R428). -/
def Pkg.lineWindow (p : Pkg) (die addr : Nat) : Option Word :=
  (p.redwin.map (·.2)).find? (fun w => w.getLsbD 63 && w.getLsbD 57 && wbits w 35 3 = die &&
    (2 ^ 28 ≤ addr || (wbits w 28 7 ≤ addr / 2 ^ 21 && addr / 2 ^ 21 ≤ wbits w 28 7 + wbits w 21 7)))

/-- `REDUCTION_LINE` (R428, R435): lines of one address are combined until `FAN` have come; the spare takes the result into its
parity, another package sends it on. -/
def execReductionLine (pkg die addr : Nat) (data : BitVec 512) (s : State) : Out :=
  let p := s.pkg pkg
  match p.lineWindow die addr with
  | none => .fault .noSuchItem
  | some w =>
    let had := tget p.redLines (die, addr) (0, 0)
    let acc := had.2 ^^^ data
    if had.1 + 1 < wbits w 52 5 then .next (s.setPkg pkg { p with redLines := tset p.redLines (die, addr) (had.1 + 1, acc) })
    else
      let s := s.setPkg pkg { p with redLines := tdel p.redLines (die, addr) }
      if p.mig.state = .rebuild then
        let s := (s.xorLine { pkg := pkg, die := die } addr acc).modMig pkg (fun g => { g with lines := g.lines - 1 })
        .next (if (s.pkg pkg).mig.lines = 0 then s.schedule (s.cycle + 1) priLate (.rebuildComplete pkg) else s)
      else
        let next := s.posOf pkg (wbits w 38 14)
        .next (s.sendFree 3 pkg next (.reductionLine next die addr acc))

/-! ## REMAP (R436) -/

/-- A position in place of another. -/
def DieId.moved (a b : Nat) (d : DieId) : DieId := if d.pkg = a then { d with pkg := b } else d
@[inherit_doc DieId.moved] def CoreId.moved (a b : Nat) (c : CoreId) : CoreId := { c with die := DieId.moved a b c.die }
@[inherit_doc DieId.moved] def SlotId.moved (a b : Nat) (i : SlotId) : SlotId := { i with core := CoreId.moved a b i.core }
@[inherit_doc DieId.moved] def PortId.moved (a b : Nat) (p : PortId) : PortId := { p with slot := SlotId.moved a b p.slot }
@[inherit_doc DieId.moved] def Home.moved (a b : Nat) : Home → Home
  | .core c => .core (CoreId.moved a b c)
  | .die d => .die (DieId.moved a b d)
  | .ctrl d => .ctrl (DieId.moved a b d)
  | .host p w => .host p w

/-- An ordered message that a package holds for the failed number, as it goes on to the spare. -/
def Event.moved (a b : Nat) (e : Event) : Event :=
  match e with
  | .creditMessage dst n => .creditMessage (PortId.moved a b dst) n
  | .switchNotice d n => .switchNotice (DieId.moved a b d) n
  | .mirrorForward d m => .mirrorForward (DieId.moved a b d) m
  | .mirrorAcknowledgement d id ok => .mirrorAcknowledgement (DieId.moved a b d) id ok
  | .tokenRequest home src page excl => .tokenRequest (DieId.moved a b home) src page excl
  | .ownershipRecall d home page => .ownershipRecall (DieId.moved a b d) home page
  | .recallDone home src page => .recallDone (DieId.moved a b home) src page
  | .tokenGrant d home page excl => .tokenGrant (DieId.moved a b d) home page excl
  | other => other

/-- Whether an event is a packet's arrival. -/
def Event.isPacket : Event → Bool
  | .packetArrival _ _ => true
  | _ => false

/-- A slot's neighbours at their new position. -/
def Slot.moved (a b : Nat) (v : Slot) : Slot :=
  { v with
    outs := v.outs.map (fun o => (o.1, { o.2 with dst := SlotId.moved a b o.2.dst })),
    ins := v.ins.map (fun q => (q.1, { q.2 with chans := q.2.chans.map (fun c => { c with src := SlotId.moved a b c.src }) })) }

/-- What names the failed position names the spare's from now on. A message that the failed package sent, and a packet to it, is
lost; a request that it made is gone. -/
def State.renamePos (s : State) (a b : Nat) : State :=
  { s with
    slots := s.slots.map (fun e => (e.1, e.2.moved a b)),
    nexts := s.nexts.map (fun e => (e.1, e.2.moved a b)),
    dies := s.dies.map (fun e => (e.1, { e.2 with
      seqs := e.2.seqs.map (fun q => (q.1, { q.2 with home := q.2.home.map (fun h => (DieId.moved a b h.1, h.2)) })),
      tokens := e.2.tokens.map (fun t => { t with home := DieId.moved a b t.home }) })),
    reqs := (s.reqs.filter (fun q => (dieOf q.own).pkg ≠ a)).map (fun q =>
      { q with place := { q.place with home := q.place.home.moved a b } }),
    heldFlits := (s.heldFlits.filter (fun f => f.src.pkg ≠ a && !(f.dst.pkg = a && f.ev.isPacket))).map (fun f =>
      { f with dst := DieId.moved a b f.dst, ev := f.ev.moved a b }) }

/-- A bank of a table copied over the other. -/
def copyBank (act : Bool) (t : Tbl (Bool × Nat) Word) : Tbl (Bool × Nat) Word :=
  let mine := t.filter (fun e => e.1.1 = act)
  mine ++ mine.map (fun e => ((!act, e.1.2), e.2))

/-- `POSMAP` of a position. -/
def posEntry (pos : Nat) : Word := toWord (2 ^ 63 + pos / 32 * 2 ^ 54 + pos % 32 * 2 ^ 49)

/-- A package writes its inactive bank and flips (R417, R436). -/
def State.remapPkg (s : State) (pkg failedNo formerNo spare : Nat) : State :=
  (s.modPkg pkg (fun p =>
    let pm := copyBank p.rtAct p.posmap
    let old := tget pm (!p.rtAct, formerNo) 0
    { p with
      hallrt := copyBank p.rtAct p.hallrt, strt := copyBank p.rtAct p.strt,
      posmap := tset (tset pm (!p.rtAct, formerNo) (wput old 63 1 0)) (!p.rtAct, failedNo) (posEntry spare) })).flip pkg

/-- Words of a checkpoint. -/
def ckptWord (g : Mem) (a off n : Nat) : Nat := memNat g (a + off) n

/-- Whether an entry holds a checkpoint of a stage: one that has not ended a firing has written none (log 39). -/
def ckptOf (g : Mem) (a : Nat) (stage : BitVec 24) : Bool := ckptWord g a 0 8 = stage.toNat && ckptWord g a 8 8 ≠ 0

/-- A slot's ports and carried registers as its checkpoint gives them (R433, R442). -/
def Slot.fromCkpt (v : Slot) (g : Mem) (a : Nat) : Slot :=
  let packets := (splitStream (ckptWord g a 0x2100 8) (memRead g (a + 0x2108) (16384 - 0x2108))).1
  { v with
    carried := (Vector.ofFn (fun k => toWord (ckptWord g a (0x200 + 8 * k.val) 8)),
                Vector.ofFn (fun k => bytesVec (memRead g (a + 0x1100 + 128 * k.val) 128)),
                BitVec.ofNat 16 (ckptWord g a 0x400 8)),
    ins := v.ins.map (fun q => (q.1, { q.2 with chans := q.2.chans.zipIdx.map (fun c =>
      let n := BitVec.ofNat 32 (ckptWord g a (0x80 + 32 * q.1 + 4 * c.2) 4)
      { c.1 with expected := n, freed := if n = 0 then none else some (n - 1) }) })),
    outs := v.outs.map (fun o =>
      let next := BitVec.ofNat 32 (ckptWord g a (0x180 + 8 * o.1) 4)
      let kept := packets.filter (fun k => wbits k.w0 25 3 = o.1)
      let oldest := ((kept.map (·.seq)).head?).getD next
      (o.1, { o.2 with nextSeq := next, credits := ckptWord g a (0x184 + 8 * o.1) 4, retained := kept,
                       credited := if oldest = 0 then none else some (oldest - 1) })) }

/-- A register context as its checkpoint gives it. -/
def Ctx.fromCkpt (c : Ctx) (g : Mem) (a : Nat) : Ctx :=
  let w := fun n => ckptWord g a (8 * n) 8
  { c with
    firing := BitVec.ofNat 32 (w 1), cur := w 8 % 2 = 1,
    cr := { c.cr with
      rnd := BitVec.ofNat 32 (w 2), mf := (w 2).testBit 32, eosf := (w 2).testBit 33, fstat := BitVec.ofNat 6 (w 3),
      lm := (w 4).testBit 0, tlate := BitVec.ofNat 16 (w 4 / 2 ^ 16), det := (w 5).testBit 0,
      cvrnd := BitVec.ofNat 2 (w 5 / 2), seed := toWord (w 6), ctrbase := toWord (w 7) },
    td := Vector.ofFn (fun j => Vector.ofFn (fun k => toWord (ckptWord g a (0x500 + 64 * j.val + 8 * k.val) 8))),
    bank0 := BitVec.ofNat 4096 (ckptWord g a 0xD00 512), bank1 := BitVec.ofNat 4096 (ckptWord g a 0xF00 512) }

/-- The checkpoint of a slot item on the spare, where it has one. -/
def State.ckptAt (s : State) (d fd : DieId) (r : CfgRec) (f : List Nat) : Option Nat :=
  let a := entryAddr (fd.pkg % 32) (r.entryNo fd (slotAt fd f 0))
  if entryItem f ∧ ckptOf (s.die d).gallery a (BitVec.ofNat 24 (fieldAt f 6)) then some a else none

/-- Whether a slot is left to the host's software: its class is `host`, or its checkpoint overflowed (R433, R436). -/
def State.forHost (s : State) (ctl : Nat) (fd : DieId) (r : CfgRec) (f : List Nat) : Option Nat :=
  if 2 ≤ fieldAt f 5 then some 0 else if (slotAt fd f 0, r.cfgn) ∈ (s.pkg ctl).mig.overflow then some 1 else none

/-- The landings of a partition record an event for their hosts. -/
def State.tellHosts (s : State) (ctl : Nat) (e : Word) : State :=
  (s.partition ctl).foldl (fun s q =>
    if (s.pkg q).role = 2 then s.modPkg q (fun p => { p with cxlLog := p.cxlLog ++ [e] }) else s) s

/-- The spare restores one slot of a die (R436, R449). One with a checkpoint is ACTIVE from then on; another takes its counters from its
neighbours first, in REPLAY. -/
def State.restoreSlot (s : State) (d fd : DieId) (r : CfgRec) (f : List Nat) : State :=
  let i := slotAt d f 0
  match s.forHost d.pkg fd r f with
  | some aux => ((s.setSlot i Slot.reset).dieEvent d 0x4B 0 (some i) aux 0).tellHosts d.pkg (eventRec 0x4B 0 (some i) aux 0)
  | none =>
    let v := s.recSlot d r f
    let c := recCtx d r f
    let s := match s.ckptAt d fd r f with
      | some a =>
        let g := (s.die d).gallery
        let s := s.meetOther d none a 16384
        (s.setSlot i { v.fromCkpt g a with sst := .active }).setCtx (.stage i) (c.fromCkpt g a)
      | none => (s.setSlot i v).setCtx (.stage i) c
    s.mapEntry i (fieldAt f 8)

/-- A frame of a mirror copied into the spare's own pool, its erroneous words with it: the state, and the frames copied so far. -/
def State.copyFrame (d m : DieId) (len : Nat) (acc : State × List (Nat × Nat) × List Nat) (f : Nat) :
    State × List (Nat × Nat) × List Nat :=
  let (s, map, table) := acc
  match tfind map f with
  | some g => (s.modDie d (fun k => { k with frames := shareFrame k.frames g }), map, table ++ [g])
  | none =>
    let pool := rangeOf (s.die d).sqpool
    match takeFrames pool.1 pool.2 len 1 (s.die d).frames with
    | some ([g], frames) =>
      let k := s.die m
      let s := (s.modDie d (fun k => { k with frames := frames })).meetOther m none f len
      let s := s.engineWrite d (mirrorAgent d) g (memRead k.gallery f len) false
      (s.modDie d (fun x => { x with bad := x.bad ++ ((words8 f len).filter (· ∈ k.bad)).map (fun w => w - f + g) }),
       tset map f g, table ++ [g])
    | _ => acc

/-- The mirror's shadows become sequences of the spare, under the same handles (R436). -/
def State.copyShadows (s : State) (d fd : DieId) : State :=
  let m := mirrorOf fd
  (((s.die m).shadows.filter (fun e => e.home = fd)).foldl (fun (acc : State × List (Nat × Nat)) e =>
    let r := e.entry.table.foldl (fun a f => State.copyFrame d m e.entry.frameLen a f) (acc.1, acc.2, [])
    let s := r.1
    let pool := rangeOf (s.die d).sqtpool
    let pages := (takePages pool.1 pool.2 (pagesFor r.2.2.length) (s.die d).pagesUsed).getD []
    let e' := { e.entry with table := r.2.2, pages := pages, owner := e.entry.owner.map (SlotId.moved fd.pkg d.pkg) }
    (s.modDie d (fun k => { k with seqs := tset k.seqs e.handle e' }), r.2.1)) (s, [])).1

/-- The first record of a stair with a configuration number. -/
def recNumbered (g : Mem) (cfgn : BitVec 16) : Nat → Nat → Option CfgRec
  | 0, _ => none
  | n + 1, addr =>
    if recLen g addr = 0 then none
    else match (readRec g addr).filter (fun r => r.cfgn = cfgn) with
      | some r => some r
      | none => recNumbered g cfgn n (addr + recLen g addr)

/-- The active configuration of the failed die: what it has, or, where it has been reset, what its last heartbeat said (log 56). -/
def State.confOf (s : State) (ctl : Nat) (fd : DieId) : Option (BitVec 16 × Word) :=
  let k := s.die fd
  if k.actv then some (k.actn, k.cfgstair) else tfind (s.pkg ctl).mig.confs fd

/-- The stair that a hall copy holds for a die, at its gallery addresses. -/
def hallStair (ms : List BootMove) (die : Nat) : Mem :=
  ms.foldl (fun g m => match m with
    | .stair n addr data => if n = die then memWrite g addr data else g
    | .code _ _ _ => g
    | .sup _ _ _ _ => g) []

/-- What a hall copy holds for a die is put into a die of the spare: the stair into its gallery, the code into its code store (R436). -/
def State.putHall (s : State) (d : DieId) (ms : List BootMove) (die : Nat) : State :=
  ms.foldl (fun s m => match m with
    | .stair n addr data => if n = die then s.putOther d none addr data else s
    | .code n page data => if n = die then s.modDie d (fun k => k.loadCode page data) else s
    | .sup _ _ _ _ => s) s

/-- The spare takes over one die of the failed package, whose logical number was `no`: its configuration, its slots, and its
mirrored sequences. -/
def State.restoreDie (s : State) (no : Nat) (d fd : DieId) : State :=
  let ms := tget (s.pkg d.pkg).boot.hallMoves no []
  match s.confOf d.pkg fd with
  | none => s
  | some (cfgn, base) =>
  match recNumbered (hallStair ms fd.die) cfgn 65536 (wbits base 0 28) with
  | none => s
  | some r =>
    let s := (s.putHall d ms fd.die).modDie d (fun x => { x with
      gwin := r.gwin, sqpool := r.sqpool, ftroot := r.ftroot, sqtpool := r.sqtpool, tlb := [], cfgstair := base,
      actn := r.cfgn, actv := true, activeRec := r, seqState := .running, digest := 0, counted := [] })
    let s := (List.range 4).foldl (fun (s : State) n => s.setClu { die := d, clu := n } (recCluster r n)) s
    let s := (r.sec 1).foldl (fun s f => s.modCore (slotAt d f 0).core (fun c =>
      { c with mapped := 0, backing := recBacking r (slotAt d f 0).core })) s
    let s := (r.sec 9).foldl (fun s f => s.modCore { die := d, clu := fieldAt f 0, core := fieldAt f 1 } (fun c =>
      { c with reach := BitVec.ofNat 96 (fieldAt f 2 + fieldAt f 3 * 2 ^ 64) })) s
    let s := (r.sec 11).foldl (fun s f => s.installRemote d (fieldAt f 0)) s
    let s := (r.sec 1).foldl (fun s f => s.restoreSlot d fd r f) s
    let s := (r.sec 1).foldl (fun s f => (s.slot (slotAt d f 0)).outs.foldl (fun s o =>
      o.2.retained.foldl (fun s k => s.retain (slotAt d f 0) o.1 k) s) s) s
    s.copyShadows d fd

/-- `REBUILD_COMPLETE` (R435, R436): REMAP: the routing tables, the spare's identity, and its slots. -/
def execRebuildComplete (ctl : Nat) (s : State) : Out :=
  let g := (s.pkg ctl).mig
  if g.state ≠ .rebuild ∨ g.lines ≠ 0 then .fault .noSuchItem
  else
    let s := s.checkHall ctl
    if (s.pkg ctl).mig.state ≠ .rebuild then .next s
    else
      let failedNo := s.hallNo ctl g.failedPkg
      let formerNo := (s.pkg ctl).lpkg
      let s := (s.members ctl).foldl (fun s q => s.remapPkg q failedNo formerNo ctl) (s.toMig ctl .remap)
      let s := (s.freezeAll ctl (some ctl) none).modPkg ctl (fun p => { p with fabid := wput (wput p.fabid 50 14 failedNo) 34 2 3 })
      let s := s.renamePos g.failedPkg ctl
      let s := (List.range 8).foldl (fun s n => s.restoreDie failedNo { pkg := ctl, die := n } { pkg := g.failedPkg, die := n }) s
      .next (s.schedule (s.cycle + 10 * usec) priLate (.remapComplete ctl))

/-! ## REPLAY (R437, R449) -/

/-- The cycles of the way between two dies, whatever is frozen; none where there is no way now. -/
def State.wayCost (s : State) (a b : DieId) : Option Nat :=
  match s.wayOf 1 a b with
  | .cost n => some n
  | .wait => none
  | .none => none

/-- A message of REPLAY, sent whatever is frozen; where there is no way now it waits with the others that do (R418, R437). -/
def State.sendReplay (s : State) (a b : DieId) (base pri : Nat) (ev : Event) : State :=
  match s.wayCost a b with
  | some n => s.schedule (s.cycle + base + n) pri ev
  | none => { s with heldFlits := s.heldFlits ++ [{ cls := 1, src := a, dst := b, base := base, trips := 1, pri := pri, ev := ev }] }

/-- A restored slot without a checkpoint takes what its inputs expect from their producers (R449). -/
def State.joinProducers (s : State) (i : SlotId) : State :=
  s.modSlot i (fun v => { v with ins := v.ins.map (fun q => (q.1, { q.2 with chans := q.2.chans.map (fun c =>
    let n := (tfind (s.slot c.src).outs c.port).bind (·.credited)
    { c with expected := (n.map (· + 1)).getD 0, freed := n }) })) })

/-- It takes its outputs' numbers and credits from their consumers (R449). -/
def State.joinConsumers (s : State) (i : SlotId) : State :=
  s.modSlot i (fun v => { v with outs := v.outs.map (fun o =>
    match (tfind (s.slot o.2.dst).ins o.2.dport).bind (fun q => q.chans[o.2.chan]?) with
    | some c =>
      let credited := (c.freed.map (· + 1)).getD 0
      (o.1, { o.2 with nextSeq := c.expected, credits := o.2.bufs - (c.expected - credited).toNat, credited := c.freed })
    | none => o) })

/-- The slots of the spare that are restored without a checkpoint. -/
def State.freshSlots (s : State) (ctl : Nat) : List SlotId :=
  (diesOf ctl).flatMap (fun d =>
    let fd : DieId := { d with pkg := (s.pkg ctl).mig.failedPkg }
    (((s.die d).activeRec.sec 1).filter (fun f =>
      (s.forHost ctl fd (s.die d).activeRec f).isNone && (s.ckptAt d fd (s.die d).activeRec f).isNone)).map (fun f =>
      slotAt d f 0))

/-- A retained packet is sent again with `REPLAY` 1, behind the earlier packets of its channel. -/
def State.replayPacket (s : State) (i : SlotId) (n : Nat) (k : Packet) : State :=
  match tfind (s.slot i).outs n with
  | none => s
  | some o =>
    let hops := (s.wayCost i.core.die o.dst.core.die).getD 0
    let due := max (s.cycle + 30 + ceilDiv (32 + k.len) 64 + hops) o.lastArr
    (s.modSlot i (fun v => { v with outs := tset v.outs n { o with lastArr := due } })).sendReplay i.core.die o.dst.core.die
      (due - s.cycle - hops) priLate (.packetArrival { slot := o.dst, port := o.dport, chan := o.chan } { k with w0 := k.w0 ||| 16 })

/-- The retained packets of a slot that are replayed: all of a restored slot; those whose consumer is on the spare, or whose way,
as it was when they were sent or as it is now, passes the failed package (R437). -/
def State.replaySlot (s : State) (ctl : Nat) (i : SlotId) : State :=
  let x := (s.pkg ctl).mig.failedPkg
  (s.slot i).outs.foldl (fun s o =>
    let dst := o.2.dst.core.die.pkg
    if i.core.die.pkg = ctl ∨ dst = ctl ∨ x ∈ o.2.via ∨ x ∈ s.pathVia dst 6 i.core.die.pkg then
      o.2.retained.foldl (fun s k => s.replayPacket i o.1 k) s
    else s) s

/-- A consumer of restored slots sends its cumulative credits again. -/
def State.recredit (s : State) (ctl : Nat) (i : SlotId) : State :=
  (s.slot i).ins.foldl (fun s q => q.2.chans.foldl (fun s c =>
    if c.src.core.die.pkg ≠ ctl then s
    else match c.freed with
      | some n => s.sendReplay i.core.die c.src.core.die 30 priLate (.creditMessage { slot := c.src, port := c.port, chan := 0 } n)
      | none => s) s) s

/-- A slot that has taken its counters becomes ACTIVE (R449). -/
def State.activateFresh (s : State) (i : SlotId) : State := s.modSlot i (fun v => { v with sst := .active })

/-- `REMAP_COMPLETE` (R436, R437): REPLAY. -/
def execRemapComplete (ctl : Nat) (s : State) : Out :=
  if (s.pkg ctl).mig.state ≠ .remap then .fault .noSuchItem
  else
    let s := s.checkHall ctl
    let pos := (s.pkg ctl).mig.failedPkg
    if (s.pkg ctl).mig.state ≠ .remap then .next s
    else
      let s := s.toMig ctl .replay
      let fresh := s.freshSlots ctl
      let s := fresh.foldl (fun s i => s.joinProducers i) s
      let s := fresh.foldl (fun s i => s.joinConsumers i) s
      let s := fresh.foldl (fun s i => s.activateFresh i) s
      let s := { s with heldFlits := s.heldFlits.filter (fun f =>
        !(f.ev.isPacket && (f.src.pkg = ctl || f.dst.pkg = ctl))) }
      let live := (s.slots.map (·.1)).filter (fun i => i.core.die.pkg ≠ pos)
      let s := live.foldl (fun s i => s.recredit ctl i) s
      let s := live.foldl (fun s i => s.replaySlot ctl i) s
      .next (s.schedule (s.cycle + 1) priLate (.replayComplete ctl))

/-- `REPLAY_COMPLETE` (R434, R437): RESUMED: injection resumes, and event 0x46 names the hall. -/
def execReplayComplete (ctl : Nat) (s : State) : Out :=
  if (s.pkg ctl).mig.state ≠ .replay then .fault .noSuchItem
  else
    let s := s.checkHall ctl
    if (s.pkg ctl).mig.state ≠ .replay then .next s
    else .next (((s.toMig ctl .resumed).packageEvent ctl 0x46 (ctl / 32) 0).freezeAll ctl none none).retryFlits

end Sys2Proof.Machine
end

