-- ==== Sys2Proof/Machine/Xfm.lean ====
section
/-! DEFINITION. The transform slot and the decode banks (R204–R216). -/

namespace Sys2Proof.Machine

/-- An XFM result put in flight with its latency in issue cycles, counted from the bundle in issue (R204). -/
def State.launch (s : State) (lat : Nat) (target : XfmTarget) (value : Vec) (flags : BitVec 6) : State :=
  (s.modMe (fun c => { c with
    xfm := c.xfm ++ [({ id := s.uid, rem := lat, target := target, value := value, flags := flags } : XfmRes)] })).tick1

/-- An XFM syllable: it waits for its operands' results (R158, R204), for a held syllable that names vd (R85), and writes vd
`lat` issue cycles later. `old` says that it keeps bits of vd. A vd bound to a tag that is not ready does not hold it (DESIGN CHOICE,
log 97). -/
def xfmSyl (p : BitVec 4) (d a : BitVec 5) (old ok : Bool) (lat : Nat) (s : State) (draws : State → Nat)
    (f : State → Nat × BitVec 6) : Syl :=
  let phys := physOf s.me.cr.vrb
  { cls := 5, guard := p, typeOk := ok && !isSup s.cur, regs := { vr := phys a :: if old then [phys d] else [] },
    wait := fun s => if s.heldBusy 5 { vw := [phys d] } then .stall else .go,
    act := fun s => (s.launch lat (.v (phys d)) (BitVec.ofNat 1024 (f s).1) (f s).2).advanceCtr (draws s) }

/-- No draws. -/
def noDraws (_ : State) : Nat := 0

/-- Entry `e` of slot `t` of a decode bank (R207). -/
def bankEntry (b : BitVec 4096) (t e : Nat) : Nat := bitsAt b.toNat (16 * (16 * t + e)) 16

/-- The bank that codebook expansions use, and the references of the fill bank (R207). -/
def Ctx.curBank (c : Ctx) : BitVec 4096 := if c.cur then c.bank1 else c.bank0
@[inherit_doc Ctx.curBank] def Ctx.fillRefs (c : Ctx) : Nat := if c.cur then c.refs0 else c.refs1

/-- `TLATE` counts a table load that meets a source not ready, once (R94, R208). -/
def State.countLate (s : State) : State :=
  s.modMe (fun c => { c with
    late := true,
    cr := { c.cr with tlate := if c.cr.tlate = 0xFFFF then c.cr.tlate else c.cr.tlate + 1 } })

/-- `XP.TBL` (R208, R210): the fill bank is chosen at issue. -/
def execXpTbl (p : BitVec 4) (a : BitVec 5) (g : BitVec 2) (c : BitVec 1) (s : State) : Out :=
  let va := physOf s.me.cr.vrb a
  let r := issue {
      cls := 5, guard := p, typeOk := !isSup s.cur, regs := { vr := [va] },
      wait := fun s => if s.me.fillRefs ≠ 0 then .stall else .go,
      act := fun s => (s.launch 3 (.bank (!s.me.cur) g (c = 1)) (s.me.rv va) 0).modMe (fun x => { x with late := false }) } s
  match r with
  | .next s' =>
    if s'.iss.stat = .stall ∧ s.me.pendingTags [va] ≠ [] ∧ s.rp p ∧ !s.me.late then .next s'.countLate else .next s'
  | .fault e => .fault e
  | .refused e => .refused e

/-- `XP.EXP` (R211). -/
def execXpExp (p : BitVec 4) (d a : BitVec 5) (t : BitVec 4) (h : BitVec 1) (s : State) : Out :=
  issue (xfmSyl p d a false true 6 s noDraws (fun s =>
    (packLanes 16 ((List.range 64).map (fun i =>
      bankEntry s.me.curBank t.toNat (lane 8 (s.rv a) (64 * h.toNat + i) % 16))), 0))) s

/-- The source or target of a conversion code (R212): its format code, and whether it narrows. -/
def cvtFmt (k : Nat) : Nat × Bool :=
  match k with
  | 0 => (0x0E, false)
  | 1 => (0x01, false)
  | 2 => (0x0C, false)
  | 3 => (0x0D, false)
  | 4 => (0x0C, true)
  | 5 => (0x0D, true)
  | 6 => (0x0E, true)
  | _ => (0x00, false)

/-- `vd` after a narrowing conversion: the elements of `b` bits from element 64q on are replaced (R212). -/
def spliceElems (old : Vec) (b q : Nat) (es : List Nat) : Nat := putBits old.toNat (b * 64 * q) (b * 64) (packLanes b es)

/-- `XP.CVT` (R212). -/
def execXpCvt (p : BitVec 4) (d a : BitVec 5) (q : BitVec 2) (k : BitVec 3) (s : State) : Out :=
  let f := cvtFmt k.toNat
  let b := fmtBits f.1
  issue (xfmSyl p d a f.2 (b = 4 || q.toNat < 2) 4 s (fun s => if s.me.cr.cvrnd = 2 then 64 else 0) (fun s =>
    let rnd := fun i => rndOf s.me.cr.cvrnd.toNat (genDraw s.me.cr.seed (s.me.cr.ctrbase + toWord i))
    if f.2 then
      let r := gatherResults ((List.range 64).map (fun i =>
        toFloat (fmtOfCode f.1) (rnd i) (fval bf16 (lane 16 (s.rv a) i))))
      (spliceElems (s.rv d) b q.toNat r.1, r.2)
    else
      let es := (List.range 64).map (fun i =>
        let n := bitsAt (s.rv a).toNat (b * (64 * q.toNat + i)) b
        (toFloat bf16 .rne (if intCode f.1 then ofInt (intElem f.1 n) else fval (fmtOfCode f.1) n)).1)
      (packLanes 16 es, 0))) s

/-- `XP.UNP` (R213). -/
def execXpUnp (p : BitVec 4) (d a : BitVec 5) (e : BitVec 5) (w : BitVec 3) (s : State) : Out :=
  let k := w.toNat + 1
  issue (xfmSyl p d a false true 4 s noDraws (fun s =>
    (packLanes 8 ((List.range 128).map (fun i => bitsAt (s.rv a).toNat (k * (16 * e.toNat + i)) k)), 0))) s

/-- The byte lanes of a vector as plane-stored bytes (R112, R214). -/
def toPlanes (v : Vec) : List Nat :=
  (List.range 8).flatMap (fun pl => (List.range 16).map (fun k =>
    packLanes 1 ((List.range 8).map (fun j => bitsAt (lane 8 v (8 * k + j)) (7 - pl) 1))))

/-- A plane-stored group read with `n` planes (R112). -/
def fromPlanes (v : Vec) (n : Nat) : List Nat :=
  (List.range 128).map (fun i =>
    let q := (List.range n).foldl (fun q pl => 2 * q + bitsAt (lane 8 v (16 * pl + i / 8)) (i % 8) 1) 0
    laneInt 8 (signedOf n q * 2 ^ (8 - n) + (if n < 8 then 2 ^ (7 - n) else 0)))

/-- `XP.PLN` (R214). -/
def execXpPln (p : BitVec 4) (d a : BitVec 5) (n : BitVec 4) (r : BitVec 1) (s : State) : Out :=
  issue (xfmSyl p d a false (r = 0 || (2 ≤ n.toNat && n.toNat ≤ 8)) 5 s noDraws (fun s =>
    (packLanes 8 (if r = 0 then toPlanes (s.rv a) else fromPlanes (s.rv a) n.toNat), 0))) s

/-- The element size of a width code (R215). -/
def trnSize (w : Nat) : Nat :=
  match w with
  | 0 => 2
  | 1 => 1
  | _ => 4

/-- `XP.TRN` (R215): the element at index r × C + c moves to index c × 8 + r. -/
def execXpTrn (p : BitVec 4) (d a : BitVec 5) (w : BitVec 2) (s : State) : Out :=
  let z := trnSize w.toNat
  let c := 16 / z
  issue (xfmSyl p d a false true 8 s noDraws (fun s =>
    (packLanes (8 * z) ((List.range (8 * c)).map (fun j => lane (8 * z) (s.rv a) (j % 8 * c + j / 8))), 0))) s

/-- `XP.PACK` (R216). -/
def execXpPack (p : BitVec 4) (d a : BitVec 5) (h : BitVec 2) (w : BitVec 1) (s : State) : Out :=
  let b := if w = 1 then 16 else 8
  issue (xfmSyl p d a false (w = 0 || h.toNat < 2) 6 s noDraws (fun s =>
    let es := (List.range 32).map (fun i => lane b (s.rv a) (32 * h.toNat + i))
    (packLanes 1 (es.map (fun e => bit (e ≠ 0))) + 2 ^ 32 * packLanes b (es.filter (· ≠ 0)), 0))) s

/-- One issue cycle counted for the XFM results in flight (R204). -/
def Ctx.countXfm (c : Ctx) : Ctx := { c with xfm := c.xfm.map (fun r => { r with rem := r.rem - 1 }) }

/-- `XFM_RESULT_LAND` (R204): the named result lands once its count has run out; until then it stays in flight. -/
def execXfmResultLand (a : Agent) (id : Nat) (s : State) : Out :=
  match (s.ctx a).xfm.find? (fun r => r.id = id) with
  | none => .fault .noSuchItem
  | some r =>
    if r.rem ≠ 0 then .next s
    else .next (s.modCtx a (fun c => r.land s.cycle { c with xfm := c.xfm.filter (fun q => q.id ≠ id) }))

end Sys2Proof.Machine
end

