-- ==== Sys2Proof/Machine/Dispatch.lean ====
section
/-! DEFINITION. The meaning of every row of the table: one arm per constructor of Instr. -/

namespace Sys2Proof.Machine

/-- The meaning of one row. -/
def exec (i : Instr) (s : State) : Host.Outcome State Fault Refusal :=
  match i with
  | .nop p => Sys2Proof.Machine.execNop p s
  | .endFiring p => Sys2Proof.Machine.execEndFiring p s
  | .br p d => Sys2Proof.Machine.execBr p d s
  | .brR p a => Sys2Proof.Machine.execBrR p a s
  | .brT p q1 q2 q3 q4 n t1 t2 t3 t4 => Sys2Proof.Machine.execBrT p q1 q2 q3 q4 n t1 t2 t3 t4 s
  | .call p d => Sys2Proof.Machine.execCall p d s
  | .callR p a => Sys2Proof.Machine.execCallR p a s
  | .ret p => Sys2Proof.Machine.execRet p s
  | .loop p c d => Sys2Proof.Machine.execLoop p c d s
  | .loopR p d => Sys2Proof.Machine.execLoopR p d s
  | .setlc p e a im => Sys2Proof.Machine.execSetlc p e a im s
  | .take p d h n => Sys2Proof.Machine.execTake p d h n s
  | .emit p d a n k w => Sys2Proof.Machine.execEmit p d a n k w s
  | .mark p n l e => Sys2Proof.Machine.execMark p n l e s
  | .peek p d a n m => Sys2Proof.Machine.execPeek p d a n m s
  | .wtag p t => Sys2Proof.Machine.execWtag p t s
  | .trap p im => Sys2Proof.Machine.execTrap p im s
  | .mfcr p d x => Sys2Proof.Machine.execMfcr p d x s
  | .mtcr p x a => Sys2Proof.Machine.execMtcr p x a s
  | .rft p => Sys2Proof.Machine.execRft p s
  | .halt p => Sys2Proof.Machine.execHalt p s
  | .cfgNext p a => Sys2Proof.Machine.execCfgNext p a s
  | .add p d a b => Sys2Proof.Machine.execAdd p d a b s
  | .sub p d a b => Sys2Proof.Machine.execSub p d a b s
  | .mul p d a b => Sys2Proof.Machine.execMul p d a b s
  | .mulh p d a b => Sys2Proof.Machine.execMulh p d a b s
  | .div p d a b => Sys2Proof.Machine.execDiv p d a b s
  | .divN p d a b => Sys2Proof.Machine.execDivN p d a b s
  | .rem p d a b => Sys2Proof.Machine.execRem p d a b s
  | .and p d a b => Sys2Proof.Machine.execAnd p d a b s
  | .or p d a b => Sys2Proof.Machine.execOr p d a b s
  | .xor p d a b => Sys2Proof.Machine.execXor p d a b s
  | .andn p d a b => Sys2Proof.Machine.execAndn p d a b s
  | .shl p d a b => Sys2Proof.Machine.execShl p d a b s
  | .shr p d a b => Sys2Proof.Machine.execShr p d a b s
  | .sar p d a b => Sys2Proof.Machine.execSar p d a b s
  | .min p d a b => Sys2Proof.Machine.execMin p d a b s
  | .max p d a b => Sys2Proof.Machine.execMax p d a b s
  | .minN p d a b => Sys2Proof.Machine.execMinN p d a b s
  | .maxN p d a b => Sys2Proof.Machine.execMaxN p d a b s
  | .addi p d a im => Sys2Proof.Machine.execAddi p d a im s
  | .andi p d a im => Sys2Proof.Machine.execAndi p d a im s
  | .ori p d a im => Sys2Proof.Machine.execOri p d a im s
  | .xori p d a im => Sys2Proof.Machine.execXori p d a im s
  | .shli p d a im => Sys2Proof.Machine.execShli p d a im s
  | .shri p d a im => Sys2Proof.Machine.execShri p d a im s
  | .sari p d a im => Sys2Proof.Machine.execSari p d a im s
  | .li p d im => Sys2Proof.Machine.execLi p d im s
  | .sel q d a b => Sys2Proof.Machine.execSel q d a b s
  | .clz p d a => Sys2Proof.Machine.execClz p d a s
  | .ctz p d a => Sys2Proof.Machine.execCtz p d a s
  | .popc p d a => Sys2Proof.Machine.execPopc p d a s
  | .extract p d a b => Sys2Proof.Machine.execExtract p d a b s
  | .extractN p d a b => Sys2Proof.Machine.execExtractN p d a b s
  | .insert p d a b => Sys2Proof.Machine.execInsert p d a b s
  | .unpk p d a b => Sys2Proof.Machine.execUnpk p d a b s
  | .packb p d a b => Sys2Proof.Machine.execPackb p d a b s
  | .lut p d a b => Sys2Proof.Machine.execLut p d a b s
  | .cmpEq p q m a b => Sys2Proof.Machine.execCmpEq p q m a b s
  | .cmpNe p q m a b => Sys2Proof.Machine.execCmpNe p q m a b s
  | .cmpLt p q m a b => Sys2Proof.Machine.execCmpLt p q m a b s
  | .cmpGe p q m a b => Sys2Proof.Machine.execCmpGe p q m a b s
  | .cmpLtn p q m a b => Sys2Proof.Machine.execCmpLtn p q m a b s
  | .cmpGen p q m a b => Sys2Proof.Machine.execCmpGen p q m a b s
  | .cmpiEq p q m a im => Sys2Proof.Machine.execCmpiEq p q m a im s
  | .cmpiLt p q m a im => Sys2Proof.Machine.execCmpiLt p q m a im s
  | .cmpiGe p q m a im => Sys2Proof.Machine.execCmpiGe p q m a im s
  | .pand p q m n a k b => Sys2Proof.Machine.execPand p q m n a k b s
  | .por p q m n a k b => Sys2Proof.Machine.execPor p q m n a k b s
  | .pxor p q m n a k b => Sys2Proof.Machine.execPxor p q m n a k b s
  | .faddS p d a b => Sys2Proof.Machine.execFaddS p d a b s
  | .faddD p d a b => Sys2Proof.Machine.execFaddD p d a b s
  | .fmulS p d a b => Sys2Proof.Machine.execFmulS p d a b s
  | .fmulD p d a b => Sys2Proof.Machine.execFmulD p d a b s
  | .ffmaS p d a b => Sys2Proof.Machine.execFfmaS p d a b s
  | .ffmaD p d a b => Sys2Proof.Machine.execFfmaD p d a b s
  | .fminS p d a b => Sys2Proof.Machine.execFminS p d a b s
  | .fmaxS p d a b => Sys2Proof.Machine.execFmaxS p d a b s
  | .fcmpLt p q m a b => Sys2Proof.Machine.execFcmpLt p q m a b s
  | .fcmpEq p q m a b => Sys2Proof.Machine.execFcmpEq p q m a b s
  | .fcvt p d a c => Sys2Proof.Machine.execFcvt p d a c s
  | .fdivS p d a b => Sys2Proof.Machine.execFdivS p d a b s
  | .fsqrtS p d a => Sys2Proof.Machine.execFsqrtS p d a s
  | .rng p d => Sys2Proof.Machine.execRng p d s
  | .mulhN p d a b => Sys2Proof.Machine.execMulhN p d a b s
  | .ldL p d a z im => Sys2Proof.Machine.execLdL p d a z im s
  | .ldsL p d a z im => Sys2Proof.Machine.execLdsL p d a z im s
  | .stL p d a z im => Sys2Proof.Machine.execStL p d a z im s
  | .vldL p v a im => Sys2Proof.Machine.execVldL p v a im s
  | .vstL p v a im => Sys2Proof.Machine.execVstL p v a im s
  | .ldLf p d a z im => Sys2Proof.Machine.execLdLf p d a z im s
  | .ldLfc p d a z im => Sys2Proof.Machine.execLdLfc p d a z im s
  | .stLf p d a z im => Sys2Proof.Machine.execStLf p d a z im s
  | .stLe p d a z im => Sys2Proof.Machine.execStLe p d a z im s
  | .amoL p d a o z => Sys2Proof.Machine.execAmoL p d a o z s
  | .ldC p d a z im => Sys2Proof.Machine.execLdC p d a z im s
  | .ldsC p d a z im => Sys2Proof.Machine.execLdsC p d a z im s
  | .stC p d a z im => Sys2Proof.Machine.execStC p d a z im s
  | .vldC p v a im => Sys2Proof.Machine.execVldC p v a im s
  | .vstC p v a im => Sys2Proof.Machine.execVstC p v a im s
  | .mcst p v a im => Sys2Proof.Machine.execMcst p v a im s
  | .ldG p d a z im => Sys2Proof.Machine.execLdG p d a z im s
  | .ldsG p d a z im => Sys2Proof.Machine.execLdsG p d a z im s
  | .stG p d a z im => Sys2Proof.Machine.execStG p d a z im s
  | .vldG p v a im => Sys2Proof.Machine.execVldG p v a im s
  | .vstG p v a im => Sys2Proof.Machine.execVstG p v a im s
  | .amoG p d a o z => Sys2Proof.Machine.execAmoG p d a o z s
  | .casG p d a b => Sys2Proof.Machine.execCasG p d a b s
  | .ldN p d a z im => Sys2Proof.Machine.execLdN p d a z im s
  | .ldsN p d a z im => Sys2Proof.Machine.execLdsN p d a z im s
  | .stN p d a z im => Sys2Proof.Machine.execStN p d a z im s
  | .vldN p v a im => Sys2Proof.Machine.execVldN p v a im s
  | .vstN p v a im => Sys2Proof.Machine.execVstN p v a im s
  | .amoN p d a o z => Sys2Proof.Machine.execAmoN p d a o z s
  | .casN p d a b => Sys2Proof.Machine.execCasN p d a b s
  | .gathVector p v d t => Sys2Proof.Machine.execGathVector p v d t s
  | .gathTile p k d => Sys2Proof.Machine.execGathTile p k d s
  | .sqNew p d a => Sys2Proof.Machine.execSqNew p d a s
  | .sqRes p d h n => Sys2Proof.Machine.execSqRes p d h n s
  | .sqCom p f h n => Sys2Proof.Machine.execSqCom p f h n s
  | .sqLen p d h q => Sys2Proof.Machine.execSqLen p d h q s
  | .sqFork p d h => Sys2Proof.Machine.execSqFork p d h s
  | .sqDrop p h => Sys2Proof.Machine.execSqDrop p h s
  | .sqGath p m t d b => Sys2Proof.Machine.execSqGath p m t d b s
  | .sqPre p r h b => Sys2Proof.Machine.execSqPre p r h b s
  | .plReq p d a => Sys2Proof.Machine.execPlReq p d a s
  | .plRsp p v q t => Sys2Proof.Machine.execPlRsp p v q t s
  | .phReg p d m h => Sys2Proof.Machine.execPhReg p d m h s
  | .phDrop p h => Sys2Proof.Machine.execPhDrop p h s
  | .phSig p h => Sys2Proof.Machine.execPhSig p h s
  | .phWait p d h => Sys2Proof.Machine.execPhWait p d h s
  | .phAdv p d h => Sys2Proof.Machine.execPhAdv p d h s
  | .clBar p d => Sys2Proof.Machine.execClBar p d s
  | .wcnt p c b => Sys2Proof.Machine.execWcnt p c b s
  | .fence p g q r => Sys2Proof.Machine.execFence p g q r s
  | .waita p d f a b => Sys2Proof.Machine.execWaita p d f a b s
  | .ownAcq p d a x => Sys2Proof.Machine.execOwnAcq p d a x s
  | .ownRel p a => Sys2Proof.Machine.execOwnRel p a s
  | .dig p d a => Sys2Proof.Machine.execDig p d a s
  | .vadd p t d a b => Sys2Proof.Machine.execVadd p t d a b s
  | .vsub p t d a b => Sys2Proof.Machine.execVsub p t d a b s
  | .vmul p t d a b => Sys2Proof.Machine.execVmul p t d a b s
  | .vfma p t d a b => Sys2Proof.Machine.execVfma p t d a b s
  | .vmin p t d a b => Sys2Proof.Machine.execVmin p t d a b s
  | .vmax p t d a b => Sys2Proof.Machine.execVmax p t d a b s
  | .vand p t d a b => Sys2Proof.Machine.execVand p t d a b s
  | .vor p t d a b => Sys2Proof.Machine.execVor p t d a b s
  | .vxor p t d a b => Sys2Proof.Machine.execVxor p t d a b s
  | .vshl p t d a b => Sys2Proof.Machine.execVshl p t d a b s
  | .vshr p t d a b => Sys2Proof.Machine.execVshr p t d a b s
  | .vsar p t d a b => Sys2Proof.Machine.execVsar p t d a b s
  | .vabs p t d a => Sys2Proof.Machine.execVabs p t d a s
  | .vneg p t d a => Sys2Proof.Machine.execVneg p t d a s
  | .vcvt p t d a k g => Sys2Proof.Machine.execVcvt p t d a k g s
  | .vcmpEq p t d a b => Sys2Proof.Machine.execVcmpEq p t d a b s
  | .vcmpLt p t d a b => Sys2Proof.Machine.execVcmpLt p t d a b s
  | .vcmpLe p t d a b => Sys2Proof.Machine.execVcmpLe p t d a b s
  | .vsel p t d a b => Sys2Proof.Machine.execVsel p t d a b s
  | .vbcast p t d a => Sys2Proof.Machine.execVbcast p t d a s
  | .vperm p t d a b => Sys2Proof.Machine.execVperm p t d a b s
  | .vrot p t d a b => Sys2Proof.Machine.execVrot p t d a b s
  | .vrsum p t d a => Sys2Proof.Machine.execVrsum p t d a s
  | .vrmax p t d a => Sys2Proof.Machine.execVrmax p t d a s
  | .vrmin p t d a => Sys2Proof.Machine.execVrmin p t d a s
  | .vscan p t d a => Sys2Proof.Machine.execVscan p t d a s
  | .vexp2 p t d a => Sys2Proof.Machine.execVexp2 p t d a s
  | .vlog2 p t d a => Sys2Proof.Machine.execVlog2 p t d a s
  | .vrcp p t d a => Sys2Proof.Machine.execVrcp p t d a s
  | .vrsq p t d a => Sys2Proof.Machine.execVrsq p t d a s
  | .vtanh p t d a => Sys2Proof.Machine.execVtanh p t d a s
  | .vextr p t d a b => Sys2Proof.Machine.execVextr p t d a b s
  | .vinsr p t d a b => Sys2Proof.Machine.execVinsr p t d a b s
  | .vdot4 p t d a b => Sys2Proof.Machine.execVdot4 p t d a b s
  | .vmulh p t d a b => Sys2Proof.Machine.execVmulh p t d a b s
  | .vqsc p t d a g => Sys2Proof.Machine.execVqsc p t d a g s
  | .vqnt p t d a k g => Sys2Proof.Machine.execVqnt p t d a k g s
  | .vrng p t d => Sys2Proof.Machine.execVrng p t d s
  | .vpopc p t d a => Sys2Proof.Machine.execVpopc p t d a s
  | .vcx p t d a b => Sys2Proof.Machine.execVcx p t d a b s
  | .vadds p t d a b => Sys2Proof.Machine.execVadds p t d a b s
  | .vsubs p t d a b => Sys2Proof.Machine.execVsubs p t d a b s
  | .vminN p t d a b => Sys2Proof.Machine.execVminN p t d a b s
  | .vmaxN p t d a b => Sys2Proof.Machine.execVmaxN p t d a b s
  | .vcmpLtn p t d a b => Sys2Proof.Machine.execVcmpLtn p t d a b s
  | .mm p a t d c k n => Sys2Proof.Machine.execMm p a t d c k n s
  | .mmDRoute p a d e => Sys2Proof.Machine.execMmDRoute p a d e s
  | .mmDSteer p a g d => Sys2Proof.Machine.execMmDSteer p a g d s
  | .mmZ p a => Sys2Proof.Machine.execMmZ p a s
  | .mmW p t d k => Sys2Proof.Machine.execMmW p t d k s
  | .mmAr p a d => Sys2Proof.Machine.execMmAr p a d s
  | .mmAw p a d => Sys2Proof.Machine.execMmAw p a d s
  | .tdSet p x d w => Sys2Proof.Machine.execTdSet p x d w s
  | .tdGet p x d w => Sys2Proof.Machine.execTdGet p x d w s
  | .tdStep p x d m => Sys2Proof.Machine.execTdStep p x d m s
  | .xpTbl p a g c => Sys2Proof.Machine.execXpTbl p a g c s
  | .xpExp p d a t h => Sys2Proof.Machine.execXpExp p d a t h s
  | .xpCvt p d a q k => Sys2Proof.Machine.execXpCvt p d a q k s
  | .xpTrn p d a w => Sys2Proof.Machine.execXpTrn p d a w s
  | .xpPack p d a h w => Sys2Proof.Machine.execXpPack p d a h w s
  | .xpPln p d a n r => Sys2Proof.Machine.execXpPln p d a n r s
  | .xpUnp p d a e w => Sys2Proof.Machine.execXpUnp p d a e w s
  | .firingStart c => Sys2Proof.Machine.execFiringStart c s
  | .parkedFiringRestore c => Sys2Proof.Machine.execParkedFiringRestore c s
  | .bundleWaitEnds a => Sys2Proof.Machine.execBundleWaitEnds a s
  | .endCompletion sl => Sys2Proof.Machine.execEndCompletion sl s
  | .checkpointWriteDone sl => Sys2Proof.Machine.execCheckpointWriteDone sl s
  | .budgetExhausted sl => Sys2Proof.Machine.execBudgetExhausted sl s
  | .parkComplete sl => Sys2Proof.Machine.execParkComplete sl s
  | .heldSyllableExecutes a => Sys2Proof.Machine.execHeldSyllableExecutes a s
  | .scalarResultLand a id => Sys2Proof.Machine.execScalarResultLand a id s
  | .vectorResultLand a id => Sys2Proof.Machine.execVectorResultLand a id s
  | .xfmResultLand a id => Sys2Proof.Machine.execXfmResultLand a id s
  | .localLoadLand a id => Sys2Proof.Machine.execLocalLoadLand a id s
  | .localStoreWritten a id => Sys2Proof.Machine.execLocalStoreWritten a id s
  | .emitCopyDone sl id => Sys2Proof.Machine.execEmitCopyDone sl id s
  | .packetArrival dst pkt => Sys2Proof.Machine.execPacketArrival dst pkt s
  | .creditMessage dst num => Sys2Proof.Machine.execCreditMessage dst num s
  | .drainAction sl => Sys2Proof.Machine.execDrainAction sl s
  | .drainSend sl port => Sys2Proof.Machine.execDrainSend sl port s
  | .clusterLoadLand id => Sys2Proof.Machine.execClusterLoadLand id s
  | .clusterStorePerformed id => Sys2Proof.Machine.execClusterStorePerformed id s
  | .multicastLanding id => Sys2Proof.Machine.execMulticastLanding id s
  | .galleryLoadLand id => Sys2Proof.Machine.execGalleryLoadLand id s
  | .galleryStorePerformed id => Sys2Proof.Machine.execGalleryStorePerformed id s
  | .homePortAtomic id => Sys2Proof.Machine.execHomePortAtomic id s
  | .atomicOldValueLand id => Sys2Proof.Machine.execAtomicOldValueLand id s
  | .fabricLoadLand id => Sys2Proof.Machine.execFabricLoadLand id s
  | .fabricStorePerformed id => Sys2Proof.Machine.execFabricStorePerformed id s
  | .fabricReject id => Sys2Proof.Machine.execFabricReject id s
  | .translationWalkDone d vpn => Sys2Proof.Machine.execTranslationWalkDone d vpn s
  | .matDispatch sl => Sys2Proof.Machine.execMatDispatch sl s
  | .accumulatorLanded c acc => Sys2Proof.Machine.execAccumulatorLanded c acc s
  | .tileFillDone sl tile => Sys2Proof.Machine.execTileFillDone sl tile s
  | .mmDrainSend sl id => Sys2Proof.Machine.execMmDrainSend sl id s
  | .mmArWriteDone sl id => Sys2Proof.Machine.execMmArWriteDone sl id s
  | .seqRequestServe d => Sys2Proof.Machine.execSeqRequestServe d s
  | .controlAnswerLand a => Sys2Proof.Machine.execControlAnswerLand a s
  | .mirrorForward d m => Sys2Proof.Machine.execMirrorForward d m s
  | .gatherFillDone d id => Sys2Proof.Machine.execGatherFillDone d id s
  | .farReadBucketRefill d => Sys2Proof.Machine.execFarReadBucketRefill d s
  | .stageAheadCopyLand d id => Sys2Proof.Machine.execStageAheadCopyLand d id s
  | .plBlockDecode d => Sys2Proof.Machine.execPlBlockDecode d s
  | .plChunkTagReady d id => Sys2Proof.Machine.execPlChunkTagReady d id s
  | .phaserSignalArrival sl ph => Sys2Proof.Machine.execPhaserSignalArrival sl ph s
  | .phaserAdvanceDelivery sl ph => Sys2Proof.Machine.execPhaserAdvanceDelivery sl ph s
  | .barrierArrival sl => Sys2Proof.Machine.execBarrierArrival sl s
  | .closingBarrierComplete c => Sys2Proof.Machine.execClosingBarrierComplete c s
  | .haltWake v => Sys2Proof.Machine.execHaltWake v s
  | .evpopRead reader v xd => Sys2Proof.Machine.execEvpopRead reader v xd s
  | .slotctlClearEvent sl => Sys2Proof.Machine.execSlotctlClearEvent sl s
  | .slotctlKillStage sl => Sys2Proof.Machine.execSlotctlKillStage sl s
  | .slotctlKillFiring sl => Sys2Proof.Machine.execSlotctlKillFiring sl s
  | .svfaultRestart v => Sys2Proof.Machine.execSvfaultRestart v s
  | .switchNotice d n => Sys2Proof.Machine.execSwitchNotice d n s
  | .configDrainComplete d => Sys2Proof.Machine.execConfigDrainComplete d s
  | .activationComplete d => Sys2Proof.Machine.execActivationComplete d s
  | .sqrmtInstall d v => Sys2Proof.Machine.execSqrmtInstall d v s
  | .sqrmtRemove d v => Sys2Proof.Machine.execSqrmtRemove d v s
  | .ftinvAll d => Sys2Proof.Machine.execFtinvAll d s
  | .ftinvPage d vpn => Sys2Proof.Machine.execFtinvPage d vpn s
  | .codemapMapPage c page => Sys2Proof.Machine.execCodemapMapPage c page s
  | .codemapUnmapPage c page => Sys2Proof.Machine.execCodemapUnmapPage c page s
  | .registerWrite d addr v => Sys2Proof.Machine.execRegisterWrite d addr v s
  | .scrubRead d core addr => Sys2Proof.Machine.execScrubRead d core addr s
  | .dieReset d => Sys2Proof.Machine.execDieReset d s
  | .coreReset c => Sys2Proof.Machine.execCoreReset c s
  | .ringFlitArrival pkg f => Sys2Proof.Machine.execRingFlitArrival pkg f s
  | .ringFlitReoffer pkg f => Sys2Proof.Machine.execRingFlitReoffer pkg f s
  | .ringSegmentFailed pkg ring seg => Sys2Proof.Machine.execRingSegmentFailed pkg ring seg s
  | .hlinkPmaskWrite pkg mask => Sys2Proof.Machine.execHlinkPmaskWrite pkg mask s
  | .hostLinkTrained pkg => Sys2Proof.Machine.execHostLinkTrained pkg s
  | .hostLinkDown pkg => Sys2Proof.Machine.execHostLinkDown pkg s
  | .cxlIdentify pkg => Sys2Proof.Machine.execCxlIdentify pkg s
  | .getSupportedLogs pkg => Sys2Proof.Machine.execGetSupportedLogs pkg s
  | .getLog pkg log off len => Sys2Proof.Machine.execGetLog pkg log off len s
  | .getEventRecords pkg => Sys2Proof.Machine.execGetEventRecords pkg s
  | .clearEventRecords pkg n => Sys2Proof.Machine.execClearEventRecords pkg n s
  | .attest pkg nonce mask => Sys2Proof.Machine.execAttest pkg nonce mask s
  | .getcert pkg idx => Sys2Proof.Machine.execGetcert pkg idx s
  | .mextend pkg reg digest => Sys2Proof.Machine.execMextend pkg reg digest s
  | .ringSetup pkg ring gen => Sys2Proof.Machine.execRingSetup pkg ring gen s
  | .ringTeardown pkg ring gen => Sys2Proof.Machine.execRingTeardown pkg ring gen s
  | .orphanRead pkg first count => Sys2Proof.Machine.execOrphanRead pkg first count s
  | .mgmtRead pkg die addr => Sys2Proof.Machine.execMgmtRead pkg die addr s
  | .mgmtWrite pkg die addr v => Sys2Proof.Machine.execMgmtWrite pkg die addr v s
  | .fwLoadFirmware pkg h => Sys2Proof.Machine.execFwLoadFirmware pkg h s
  | .fwLoadBootStream pkg h => Sys2Proof.Machine.execFwLoadBootStream pkg h s
  | .mailboxUnsupported pkg opcode => Sys2Proof.Machine.execMailboxUnsupported pkg opcode s
  | .hostHdmRead pkg off => Sys2Proof.Machine.execHostHdmRead pkg off s
  | .hostHdmWrite pkg off data mask => Sys2Proof.Machine.execHostHdmWrite pkg off data mask s
  | .backInvalidationDone pkg line dirty => Sys2Proof.Machine.execBackInvalidationDone pkg line dirty s
  | .completionWriteCheck id => Sys2Proof.Machine.execCompletionWriteCheck id s
  | .hostGlobalObservation id => Sys2Proof.Machine.execHostGlobalObservation id s
  | .packageReset pkg => Sys2Proof.Machine.execPackageReset pkg s
  | .thermalThrottle d => Sys2Proof.Machine.execThermalThrottle d s
  | .thermalClockRaise d => Sys2Proof.Machine.execThermalClockRaise d s
  | .thermalTrip d => Sys2Proof.Machine.execThermalTrip d s
  | .linkEnable pkg port => Sys2Proof.Machine.execLinkEnable pkg port s
  | .linkTrainLock pkg port => Sys2Proof.Machine.execLinkTrainLock pkg port s
  | .linkTrainTimeout pkg port => Sys2Proof.Machine.execLinkTrainTimeout pkg port s
  | .negotiationMessage pkg port m => Sys2Proof.Machine.execNegotiationMessage pkg port m s
  | .negotiateTimeout pkg port => Sys2Proof.Machine.execNegotiateTimeout pkg port s
  | .linkReplayFailure pkg port => Sys2Proof.Machine.execLinkReplayFailure pkg port s
  | .linkFailedTimer pkg port => Sys2Proof.Machine.execLinkFailedTimer pkg port s
  | .flitReceive pkg port f => Sys2Proof.Machine.execFlitReceive pkg port f s
  | .routingFlip pkg => Sys2Proof.Machine.execRoutingFlip pkg s
  | .flipHoldRelease pkg port => Sys2Proof.Machine.execFlipHoldRelease pkg port s
  | .failureNotice pkg n => Sys2Proof.Machine.execFailureNotice pkg n s
  | .tokenRequest home src page excl => Sys2Proof.Machine.execTokenRequest home src page excl s
  | .ownershipRecall d home page => Sys2Proof.Machine.execOwnershipRecall d home page s
  | .recallDone home src page => Sys2Proof.Machine.execRecallDone home src page s
  | .tokenGrant d home page excl => Sys2Proof.Machine.execTokenGrant d home page excl s
  | .bootPacket pkg pkt => Sys2Proof.Machine.execBootPacket pkg pkt s
  | .heartbeat ctl src => Sys2Proof.Machine.execHeartbeat ctl src s
  | .heartbeatTimeout ctl src => Sys2Proof.Machine.execHeartbeatTimeout ctl src s
  | .freezeAcknowledged ctl src => Sys2Proof.Machine.execFreezeAcknowledged ctl src s
  | .reductionLine pkg die addr data => Sys2Proof.Machine.execReductionLine pkg die addr data s
  | .rebuildComplete ctl => Sys2Proof.Machine.execRebuildComplete ctl s
  | .remapComplete ctl => Sys2Proof.Machine.execRemapComplete ctl s
  | .replayComplete ctl => Sys2Proof.Machine.execReplayComplete ctl s
  | .waitaReread a => Sys2Proof.Machine.execWaitaReread a s
  | .barrierCompletionDelivery sl => Sys2Proof.Machine.execBarrierCompletionDelivery sl s
  | .hostSnoop pkg line => Sys2Proof.Machine.execHostSnoop pkg line s
  | .mirrorAcknowledgement d id ok => Sys2Proof.Machine.execMirrorAcknowledgement d id ok s
  | .bootBlockRequest pkg child block => Sys2Proof.Machine.execBootBlockRequest pkg child block s
  | .supervisorFreesEntry d h => Sys2Proof.Machine.execSupervisorFreesEntry d h s

end Sys2Proof.Machine
end

