-- ==== Sys2Proof/Machine/Events.lean ====
section
/-! DEFINITION. The events of the table as the agenda runs them: each is the meaning of its row (log 3). -/

namespace Sys2Proof.Machine

/-- An event comes about. -/
def runEvent (e : Event) (s : State) : Out :=
  match e with
  | .firingStart c => execFiringStart c s
  | .parkedFiringRestore c => execParkedFiringRestore c s
  | .bundleWaitEnds a => execBundleWaitEnds a s
  | .endCompletion i => execEndCompletion i s
  | .checkpointWriteDone i => execCheckpointWriteDone i s
  | .budgetExhausted i => execBudgetExhausted i s
  | .parkComplete i => execParkComplete i s
  | .heldSyllableExecutes a => execHeldSyllableExecutes a s
  | .scalarResultLand a id => execScalarResultLand a id s
  | .vectorResultLand a id => execVectorResultLand a id s
  | .xfmResultLand a id => execXfmResultLand a id s
  | .localLoadLand a id => execLocalLoadLand a id s
  | .localStoreWritten a id => execLocalStoreWritten a id s
  | .emitCopyDone i id => execEmitCopyDone i id s
  | .packetArrival dst pkt => execPacketArrival dst pkt s
  | .creditMessage dst num => execCreditMessage dst num s
  | .drainAction i => execDrainAction i s
  | .drainSend i port => execDrainSend i port s
  | .clusterLoadLand id => execClusterLoadLand id s
  | .clusterStorePerformed id => execClusterStorePerformed id s
  | .multicastLanding id => execMulticastLanding id s
  | .galleryLoadLand id => execGalleryLoadLand id s
  | .galleryStorePerformed id => execGalleryStorePerformed id s
  | .homePortAtomic id => execHomePortAtomic id s
  | .atomicOldValueLand id => execAtomicOldValueLand id s
  | .fabricLoadLand id => execFabricLoadLand id s
  | .fabricStorePerformed id => execFabricStorePerformed id s
  | .fabricReject id => execFabricReject id s
  | .translationWalkDone d vpn => execTranslationWalkDone d vpn s
  | .matDispatch i => execMatDispatch i s
  | .accumulatorLanded c acc => execAccumulatorLanded c acc s
  | .tileFillDone i tile => execTileFillDone i tile s
  | .mmDrainSend i id => execMmDrainSend i id s
  | .mmArWriteDone i id => execMmArWriteDone i id s
  | .seqRequestServe d => execSeqRequestServe d s
  | .controlAnswerLand a => execControlAnswerLand a s
  | .mirrorForward d m => execMirrorForward d m s
  | .gatherFillDone d id => execGatherFillDone d id s
  | .farReadBucketRefill d => execFarReadBucketRefill d s
  | .stageAheadCopyLand d id => execStageAheadCopyLand d id s
  | .plBlockDecode d => execPlBlockDecode d s
  | .plChunkTagReady d id => execPlChunkTagReady d id s
  | .phaserSignalArrival i ph => execPhaserSignalArrival i ph s
  | .phaserAdvanceDelivery i ph => execPhaserAdvanceDelivery i ph s
  | .barrierArrival i => execBarrierArrival i s
  | .closingBarrierComplete c => execClosingBarrierComplete c s
  | .haltWake v => execHaltWake v s
  | .evpopRead reader v xd => execEvpopRead reader v xd s
  | .slotctlClearEvent i => execSlotctlClearEvent i s
  | .slotctlKillStage i => execSlotctlKillStage i s
  | .slotctlKillFiring i => execSlotctlKillFiring i s
  | .svfaultRestart v => execSvfaultRestart v s
  | .switchNotice d n => execSwitchNotice d n s
  | .configDrainComplete d => execConfigDrainComplete d s
  | .activationComplete d => execActivationComplete d s
  | .sqrmtInstall d v => execSqrmtInstall d v s
  | .sqrmtRemove d v => execSqrmtRemove d v s
  | .ftinvAll d => execFtinvAll d s
  | .ftinvPage d vpn => execFtinvPage d vpn s
  | .codemapMapPage c page => execCodemapMapPage c page s
  | .codemapUnmapPage c page => execCodemapUnmapPage c page s
  | .registerWrite d addr v => execRegisterWrite d addr v s
  | .scrubRead d core addr => execScrubRead d core addr s
  | .dieReset d => execDieReset d s
  | .coreReset c => execCoreReset c s
  | .ringFlitArrival pkg f => execRingFlitArrival pkg f s
  | .ringFlitReoffer pkg f => execRingFlitReoffer pkg f s
  | .ringSegmentFailed pkg ring seg => execRingSegmentFailed pkg ring seg s
  | .hlinkPmaskWrite pkg mask => execHlinkPmaskWrite pkg mask s
  | .hostLinkTrained pkg => execHostLinkTrained pkg s
  | .hostLinkDown pkg => execHostLinkDown pkg s
  | .cxlIdentify pkg => execCxlIdentify pkg s
  | .getSupportedLogs pkg => execGetSupportedLogs pkg s
  | .getLog pkg log off len => execGetLog pkg log off len s
  | .getEventRecords pkg => execGetEventRecords pkg s
  | .clearEventRecords pkg n => execClearEventRecords pkg n s
  | .attest pkg nonce mask => execAttest pkg nonce mask s
  | .getcert pkg idx => execGetcert pkg idx s
  | .mextend pkg reg digest => execMextend pkg reg digest s
  | .ringSetup pkg ring gen => execRingSetup pkg ring gen s
  | .ringTeardown pkg ring gen => execRingTeardown pkg ring gen s
  | .orphanRead pkg first count => execOrphanRead pkg first count s
  | .mgmtRead pkg die addr => execMgmtRead pkg die addr s
  | .mgmtWrite pkg die addr v => execMgmtWrite pkg die addr v s
  | .fwLoadFirmware pkg h => execFwLoadFirmware pkg h s
  | .fwLoadBootStream pkg h => execFwLoadBootStream pkg h s
  | .mailboxUnsupported pkg opcode => execMailboxUnsupported pkg opcode s
  | .hostHdmRead pkg off => execHostHdmRead pkg off s
  | .hostHdmWrite pkg off data mask => execHostHdmWrite pkg off data mask s
  | .backInvalidationDone pkg line dirty => execBackInvalidationDone pkg line dirty s
  | .completionWriteCheck id => execCompletionWriteCheck id s
  | .hostGlobalObservation id => execHostGlobalObservation id s
  | .packageReset pkg => execPackageReset pkg s
  | .thermalThrottle d => execThermalThrottle d s
  | .thermalClockRaise d => execThermalClockRaise d s
  | .thermalTrip d => execThermalTrip d s
  | .linkEnable pkg port => execLinkEnable pkg port s
  | .linkTrainLock pkg port => execLinkTrainLock pkg port s
  | .linkTrainTimeout pkg port => execLinkTrainTimeout pkg port s
  | .negotiationMessage pkg port m => execNegotiationMessage pkg port m s
  | .negotiateTimeout pkg port => execNegotiateTimeout pkg port s
  | .linkReplayFailure pkg port => execLinkReplayFailure pkg port s
  | .linkFailedTimer pkg port => execLinkFailedTimer pkg port s
  | .flitReceive pkg port f => execFlitReceive pkg port f s
  | .routingFlip pkg => execRoutingFlip pkg s
  | .flipHoldRelease pkg port => execFlipHoldRelease pkg port s
  | .failureNotice pkg n => execFailureNotice pkg n s
  | .tokenRequest home src page excl => execTokenRequest home src page excl s
  | .ownershipRecall d home page => execOwnershipRecall d home page s
  | .recallDone home src page => execRecallDone home src page s
  | .tokenGrant d home page excl => execTokenGrant d home page excl s
  | .bootPacket pkg pkt => execBootPacket pkg pkt s
  | .heartbeat ctl src => execHeartbeat ctl src s
  | .heartbeatTimeout ctl src => execHeartbeatTimeout ctl src s
  | .freezeAcknowledged ctl src => execFreezeAcknowledged ctl src s
  | .reductionLine pkg die addr data => execReductionLine pkg die addr data s
  | .rebuildComplete ctl => execRebuildComplete ctl s
  | .remapComplete ctl => execRemapComplete ctl s
  | .replayComplete ctl => execReplayComplete ctl s
  | .waitaReread a => execWaitaReread a s
  | .barrierCompletionDelivery i => execBarrierCompletionDelivery i s
  | .hostSnoop pkg line => execHostSnoop pkg line s
  | .mirrorAcknowledgement d id ok => execMirrorAcknowledgement d id ok s
  | .bootBlockRequest pkg child block => execBootBlockRequest pkg child block s
  | .supervisorFreesEntry d h => execSupervisorFreesEntry d h s

/-- What an event leaves: where the machine holds no such item any more, nothing changes (log 3). -/
def State.fire (s : State) (e : Event) : State := orStay s (runEvent e s)

end Sys2Proof.Machine
end

