-- ==== Sys2Proof/Machine/Bundle.lean ====
section
/-! DEFINITION. Bundles: fetching and scanning them (R12, R13), what one bundle of an agent does (R7, R15, R60, R85, R218), and
the order of the work of one cycle (log 3, log 4). -/

namespace Sys2Proof.Machine

/-! ## The scan (R12, R13) -/

/-- A syllable of a bundle: its place, its word, its EXT words, and the instruction they are. -/
structure Scanned where
  pos : Nat
  word : Nat
  exts : List Nat
  instr : Instr
  deriving DecidableEq, Repr

/-- What a scan gives: a bundle and its number of words, or the cause it meets. -/
inductive Scan where
  | bundle (len : Nat) (items : List Scanned)
  | trap (cause : Nat) (value : Word)
  deriving DecidableEq, Repr

/-- What a fetch gives: a code word; nothing, outside the window and on a page that is not mapped (R13); or an uncorrectable error
in the doubleword at an address of the window (R220, R367). -/
inductive Fetched where
  | word (w : Nat)
  | outside
  | check (addr : Nat)
  deriving DecidableEq, Repr

/-- The code word at an address of an agent's window. -/
def State.codeWord (s : State) (a : Agent) (addr : Int) : Fetched :=
  let at_ := addr.toNat
  let read := fun (bad : List Nat) (m : Mem) => if at_ / 8 * 8 ∈ bad then Fetched.check (at_ / 8 * 8) else .word (memNat m at_ 4)
  if outOfWindow addr then .outside
  else match a with
    | .stage i =>
      if (s.core i.core).mapped.getLsbD (at_ / 4096) then read (s.core i.core).windowBad (s.core i.core).window else .outside
    | .sup v => read (s.sup v).windowBad (s.sup v).window

/-- Illegal bundle at a syllable (R220). -/
def illegal (pos w : Nat) : Scan := .trap 0x01 (toWord (w % 2 ^ 32 + pos % 32 * 2 ^ 32))

/-- The EXT syllables that an opcode requires, and those that it admits (R32). -/
def extLeast (w : Nat) : Nat := match extRule w with
  | none => 0
  | some r => r.2.2.1
@[inherit_doc extLeast] def extMost (w : Nat) : Nat := match extRule w with
  | none => 0
  | some r => r.2.2.2

/-- Whether the field beside an EXT is not zero (R27). -/
def extField (w : Nat) : Bool := match extRule w with
  | none => false
  | some r => fld w r.1 r.2.1 ≠ 0

/-- A syllable with the EXT words after it, as an instruction. -/
def readSyl (w : Nat) (exts : List Nat) : Option Instr := decodeSyl w (exts.map (fun e => fld e 0 28))

/-- A syllable that may still take EXT syllables, and what came before it. -/
structure ScanRun where
  pos : Nat
  word : Nat
  exts : List Nat
  done : List Scanned

/-- The run closed: its instruction, or illegal bundle at its last EXT (R13, R30). -/
def ScanRun.close (r : ScanRun) : Scan ⊕ List Scanned :=
  match readSyl r.word r.exts with
  | some i => .inr (r.done ++ [{ pos := r.pos, word := r.word, exts := r.exts, instr := i }])
  | none => .inl (illegal (r.pos + r.exts.length) (r.exts.getLastD r.word))

/-- The scan ends with a run. -/
def ScanRun.finish (r : ScanRun) (len : Nat) : Scan :=
  match r.close with
  | .inl t => t
  | .inr items => .bundle len items

/-- The scan goes on behind syllable `k` with at most `fuel` further syllables (R13): `open_` is the syllable in hand. -/
def scanOn (read : Nat → Fetched) (pc : Int) : Nat → Nat → Option ScanRun → Scan
  | 0, _, _ => .trap 0x01 0
  | fuel + 1, k, open_ =>
    match read k with
    | .outside => .trap 0x03 (intWord (pc + 4 * k))
    | .check addr => .trap 0x0B (addrValue 3 addr)
    | .word w =>
      let stop := fld w 31 1 = 1
      let last := stop ∨ fuel = 0
      if k = 0 ∧ pc % 4 ≠ 0 then illegal k w
      else if fld w 28 3 = 6 then
        match open_ with
        | none => illegal k w
        | some r =>
          let r' := { r with exts := r.exts ++ [w] }
          if extMost r.word ≤ r.exts.length ∨ (r.exts = [] ∧ extField r.word) then illegal k w
          else if r'.exts.length < extLeast r.word ∧
              (readSyl r.word (r'.exts ++ List.replicate (extLeast r.word - r'.exts.length) 0)).isNone then illegal k w
          else if last ∧ (!stop ∨ r'.exts.length < extLeast r.word) then illegal k w
          else if stop then r'.finish (k + 1)
          else if r'.exts.length = extMost r.word ∧ (readSyl r.word r'.exts).isNone then illegal k w
          else scanOn read pc fuel (k + 1) (some r')
      else
        let before : Scan ⊕ List Scanned := match open_ with
          | none => .inr []
          | some r => if r.exts.length < extLeast r.word then .inl (illegal k w) else r.close
        match before with
        | .inl t => t
        | .inr done =>
          let order := match done.getLast? with
            | none => true
            | some x => fld x.word 28 3 < fld w 28 3
          let r : ScanRun := { pos := k, word := w, exts := [], done := done }
          if fld w 28 3 = 7 ∨ !order ∨ (readSyl w (List.replicate (extLeast w) 0)).isNone then illegal k w
          else if last ∧ (!stop ∨ extLeast w ≠ 0) then illegal k w
          else if stop then r.finish (k + 1)
          else scanOn read pc fuel (k + 1) (some r)

/-- The bundle at an address (R13). -/
def State.scanAt (s : State) (a : Agent) (pc : Int) : Scan := scanOn (fun k => s.codeWord a (pc + 4 * k)) pc 8 0 none

/-- The fetch of a bundle corrects single-bit errors in its code words and counts the errors of both kinds (R366, R369). -/
def State.meetCode (s : State) (a : Agent) (pc : Int) (len : Nat) : State :=
  let ws := words8 pc.toNat (4 * len)
  match a with
  | .stage i =>
    let k := s.core i.core
    if ws.all (fun w => w ∉ k.windowBad && w ∉ k.windowOnce) then s
    else (s.setCore i.core { k with windowOnce := k.windowOnce.filter (· ∉ ws) }).countErrors i.core.die
      ((ws.filter (· ∈ k.windowOnce)).length) ((ws.filter (· ∈ k.windowBad)).length)
  | .sup v =>
    let k := s.sup v
    if ws.all (fun w => w ∉ k.windowBad && w ∉ k.windowOnce) then s
    else (s.setSup v { k with windowOnce := k.windowOnce.filter (· ∉ ws) }).countErrors v.die
      ((ws.filter (· ∈ k.windowOnce)).length) ((ws.filter (· ∈ k.windowBad)).length)

/-! ## One syllable in its bundle -/

/-- The machine with a syllable of the bundle in issue; `base` is the bundle's own record. -/
def State.atSyl (s : State) (base : Issue) (x : Scanned) : State :=
  { s with iss := { base with
    word := BitVec.ofNat 32 x.word, exts := x.exts.map (BitVec.ofNat 32), pos := x.pos, next := s.iss.next,
    taken := s.iss.taken, took := s.iss.took, stat := .ok } }

/-- A syllable tried, or carried out. -/
def State.runSyl (s : State) (base : Issue) (x : Scanned) : State := let t := s.atSyl base x; orStay t (exec x.instr t)

/-- How a syllable comes out against the state before the bundle (R7). -/
def State.probe (s : State) (base : Issue) (x : Scanned) : IssStat := (s.runSyl base x).iss.stat

/-- Whether a bundle at an address takes two fetch lines (R17). -/
def straddles (pc : Int) (len : Nat) : Bool := (pc % 64).toNat + 4 * len > 64

/-- What goes before the rest: `MFCR` reads (R133), `WTAG`, and the writes of `FSTAT` and `CTRBASE` (R134); and `EMIT`, which
reads local memory as it stood before the bundle (R72); what comes after it: every other CTL syllable (R119). -/
def goesFirst : Instr → Bool
  | .emit _ _ _ _ _ _ => true
  | .mfcr _ _ _ => true
  | .wtag _ _ => true
  | .mtcr _ x _ => x = 8 || x = 9
  | _ => false

/-- The order in which the syllables of a bundle are carried out: each then reads what stood before the bundle (R7), and draws
come in ascending class (R116). -/
def bundleOrder (items : List Scanned) : List Scanned :=
  let cls := fun (x : Scanned) => fld x.word 28 3
  items.filter (fun x => goesFirst x.instr) ++ [1, 3, 4, 5, 2].flatMap (fun c => items.filter (fun x => cls x = c)) ++
    items.filter (fun x => cls x = 0 && !goesFirst x.instr)

/-! ## Charging (R60) -/

/-- A cycle charged to the firing that holds the core. -/
def State.charge (s : State) (i : SlotId) : State :=
  s.modCtx (.stage i) (fun c => { c with budget := if c.budget = 0 then 0 else c.budget - 1 })

/-! ## Traps at a boundary (R218) -/

/-- The cause that the next bundle boundary raises: a machine check first, else the oldest (R218 item 4); and those that are
left. -/
def firstAfter (l : List (Nat × Word)) : Option ((Nat × Word) × List (Nat × Word)) :=
  match l.find? (fun t => t.1 = 0x0B), l with
  | some t, _ => some (t, l.erase t)
  | none, t :: r => some (t, r)
  | none, [] => none

/-! ## Issue -/

/-- The XFM result of the bundle in issue is numbered behind the results of its other syllables: where both land in one register
in one cycle, the higher class has the last word (R15, R205). -/
def State.numberXfm (s : State) (a : Agent) (mark : Nat) : State :=
  if (s.ctx a).xfm.any (fun r => mark ≤ r.id) then
    (s.modCtx a (fun c => { c with xfm := c.xfm.map (fun r => if mark ≤ r.id then { r with id := s.uid } else r) })).tick1
  else s

/-- The words that an instruction reads of the register files whose words no syllable names as a register: the ready tags at every
issue (R85), the descriptor of a gather, the route table, the return store (R90, R123). -/
def fileWords (c : Ctx) : Instr → List Nat
  | .gathVector _ _ d _ => descWords d.toNat
  | .gathTile _ _ d => descWords d.toNat
  | .sqGath _ _ _ d _ => descWords d.toNat
  | .mmDRoute _ _ _ e => [833 + e.toNat / 8]
  | .mmDSteer _ _ _ _ => [833, 834]
  | .ret _ => [835 + c.rs.length]
  | _ => []

/-- The level of the return store that a call writes. -/
def pushWords (c : Ctx) : Instr → List Nat
  | .call p _ => if c.rp p then [836 + c.rs.length] else []
  | .callR p _ => if c.rp p then [836 + c.rs.length] else []
  | _ => []

/-- The register files meet the errors of the words that a bundle reads of them beside the registers it names (R366; log 69). -/
def State.meetFiles (s : State) (a : Agent) (items : List Scanned) : State :=
  let c := s.ctx a
  let s := s.meetRegs a (835 :: items.flatMap (fun x => fileWords c x.instr))
  let lost := items.flatMap (fun x => pushWords c x.instr)
  if (s.ctx a).regOnce.any (· ∈ lost) then s.modCtx a (fun c => { c with regOnce := c.regOnce.filter (· ∉ lost) }) else s

/-- The bundle issues: XFM results whose cycle has come land (R204), its syllables take effect, the issue cycle is counted, and
the next bundle is fixed (R17, R119). -/
def State.issueBundle (s : State) (a : Agent) (base : Issue) (items : List Scanned) : State :=
  let s : State := { (s.landed a).meetFiles a items with iss := base }
  let s : State := (bundleOrder items).foldl (fun s x => s.runSyl base x) s
  let next := s.iss.next
  let extra := match s.scanAt a next with
    | .bundle n _ => bit (straddles next n)
    | .trap _ _ => 0
  let lag := if s.iss.taken = 0 then 1 else s.iss.taken + extra
  if s.iss.stat = .ok then
    (((s.numberXfm a base.mark).leaveBarrier a).modCtx a (fun c => { c.countXfm with
      pc := next, issued := c.issued + 1, notBefore := max c.notBefore (s.cycle + lag), waited := [] }))
  else s

/-- A syllable that waits begins its wait. -/
def State.beginWait (s : State) (base : Issue) (stat : IssStat) (x : Scanned) : State :=
  let t := s.runSyl base x
  if t.iss.stat = stat then t else s

/-- A bundle that cannot issue waits: a wait of R65 begins only where nothing else keeps the bundle. -/
def State.waitBundle (s : State) (base : Issue) (items : List Scanned) (stats : List IssStat) : State :=
  let stat := if .stall ∈ stats ∨ .unjudged ∈ stats then IssStat.stall else .waits
  (items.zip stats).foldl (fun s e => if e.2 = stat then s.beginWait base stat e.1 else s) s

/-- Whether the lead over the oldest held syllable keeps the bundle from issuing (R85 rule 2). -/
def Ctx.leads (c : Ctx) : Bool := c.heldBundle.isSome && c.lead = 4

/-- The syllable of the lowest class that has a cause of its issue, where no syllable of a lower class has still to be judged
(R218). -/
def firstCause (l : List (Scanned × IssStat)) : Option (Scanned × IssStat) :=
  (l.takeWhile (fun e => e.2 ≠ .unjudged)).find? (fun e => e.2 = .trapped 2)

/-- Whether a syllable keeps its bundle from issuing. -/
def IssStat.keeps (x : IssStat) : Bool := x = .stall || x = .unjudged || x = .waits

/-- The bundle of an agent reaches issue: the causes in the order of R218, then the waits, then its effect. A bundle whose
conditions are met after a wait of R65 issues in the next cycle (R65, R75). The result says whether the cycle is charged. -/
def State.tryBundle (s : State) (a : Agent) (starved : Bool) : State × Bool :=
  let c := s.ctx a
  match s.scanAt a c.pc with
  | .trap cause value =>
    ((if cause = 0x0B then s.meetCode a (wbits value 0 61) 1 else s).trapBefore a cause value, false)
  | .bundle len items =>
    let s := s.meetCode a c.pc len
    let base : Issue := { start := c.pc, len := 4 * len, word := 0, exts := [], pos := 0, mark := s.uid, next := c.pc + 4 * len,
                          taken := 0, stat := .ok }
    let s := { s with iss := base }
    let stats := items.map ((s.landed a).probe base)
    let trapOf := fun (r : Nat) => (items.zip stats).find? (fun e => e.2 = .trapped r)
    match trapOf 0, trapOf 1 with
    | some e, _ => ((s.landed a).runSyl base e.1, false)
    | none, some e => ((s.landed a).runSyl base e.1, false)
    | none, none =>
      if starved then (s.trapBefore a 0x08 (toWord (bit (match a with
        | .stage i => (s.slot i).fst = .waiting
        | .sup _ => false))), false)
      else match firstCause (items.zip stats) with
        | some e => ((s.landed a).runSyl base e.1, false)
        | none =>
          if stats.any IssStat.keeps then (s.waitBundle base items stats, true)
          else if c.leads then (s, true)
          else if c.holding then (s.fire (.bundleWaitEnds a), true)
          else (s.issueBundle a base items, true)

/-! ## The turn of an agent -/

/-- The cycle of a firing (R60, R65, R218, R222): nothing traps once `END` has begun. A cause met after issue comes before the causes of the
next bundle (DESIGN CHOICE, log 88). -/
def State.runStage (s : State) (i : SlotId) : State :=
  let a : Agent := .stage i
  let v := s.slot i
  let c := s.ctx a
  if v.fst ≠ .running ∧ v.fst ≠ .waiting then s
  else if v.ending.isSome then s.charge i
  else
    let sent := s.reqSent a
    let starved := c.budget = 0 && !sent
    match (if sent then none else firstAfter c.after) with
    | some (t, rest) => (s.modCtx a (fun c => { c with after := rest })).trapBefore a t.1 t.2
    | none =>
      if s.cycle < c.notBefore then
        if starved then s.fire (.budgetExhausted i) else s.charge i
      else
        let r := s.tryBundle a starved
        if r.2 then r.1.charge i else r.1

/-- The cycle of a supervisor core (R341, R348). -/
def State.runSup (s : State) (v : SupId) : State :=
  let a : Agent := .sup v
  let c := s.ctx a
  if (s.sup v).stop ∨ (s.sup v).halted ∨ s.cycle < c.notBefore then s
  else match (if s.reqSent a then none else firstAfter c.after) with
    | some (t, rest) => (s.modCtx a (fun c => { c with after := rest })).trapBefore a t.1 t.2
    | none => (s.tryBundle a false).1

/-- The cycle of an agent. -/
def State.runAgent (s : State) (a : Agent) : State :=
  let s := { s with cur := a }
  match a with
  | .stage i => s.runStage i
  | .sup v => s.runSup v

/-! ## The work of a cycle (log 4) -/

/-- The cores that have slots, and the clusters and dies that have been touched. -/
def State.liveCores (s : State) : List CoreId := (s.slots.map (·.1.core)).dedup
@[inherit_doc State.liveCores] def State.liveDies (s : State) : List DieId :=
  (s.dies.map (·.1) ++ s.slots.map (·.1.core.die)).dedup

/-- Events that come about where something allows them. -/
def State.fireAll (s : State) (es : List Event) : State := es.foldl (fun s e => s.fire e) s

/-- An `END` completes at the end of its issue cycle, and later where it waits or transfers; each further cycle counts as an
issue cycle for the XFM results in flight (R45, R76, R204). -/
def State.openEnd (s : State) (i : SlotId) : State :=
  match (s.slot i).ending with
  | none => s
  | some e =>
    if s.cycle ≤ e.began then s
    else
      let s := (s.modCtx (.stage i) (fun c => c.landXfm s.cycle)).fire (.endCompletion i)
      if (s.slot i).ending.isSome then s.modCtx (.stage i) (fun c => c.countXfm) else s

/-- What a slot does of itself at the start of a cycle: the drain of R54, its `END`, the head of its VEC queue (R85), its trap's
capture (R219), its park (R227). -/
def State.openSlot (s : State) (i : SlotId) : State :=
  let s := s.fireAll (.drainAction i :: (List.range 8).map (fun n => .drainSend i n))
  let s := s.openEnd i
  let live := fun (s : State) => (s.slot i).fst = .running || (s.slot i).fst = .waiting
  let s := if live s && s.vecReady (.stage i) then s.fire (.heldSyllableExecutes (.stage i)) else s
  let s := s.tryCapture i
  if (s.slot i).parkPending then
    let s := if s.saveSnooped i = [] then s else s.backInvalidate i.core.die.pkg (s.saveSnooped i) true
    s.fire (.parkComplete i)
  else s

/-- What the machine does of itself at the start of a cycle, once its incoming traffic has been taken. -/
def State.openCycle (s : State) : State :=
  let s := (s.clus.map (·.1)).foldl (fun s c => s.meetEngine c) s
  let s := (s.slots.map (·.1)).foldl (fun s i => s.openSlot i) s
  let s := s.refreshReady
  let s := s.liveCores.foldl (fun s c => s.fireAll [.firingStart c, .parkedFiringRestore c]) s
  let s := (s.sups.map (·.1)).foldl (fun s v =>
    let s := s.fire (.haltWake v)
    if s.vecReady (.sup v) then s.fire (.heldSyllableExecutes (.sup v)) else s) s
  let s := (s.clus.map (·.1)).foldl (fun s c => s.fire (.closingBarrierComplete c)) s
  s.liveDies.foldl (fun s d => s.fire (.configDrainComplete d)) s

/-- The place of a slot among all slots: agents issue in this order (log 4). -/
def slotKey (i : SlotId) : Nat := ((i.core.die.pkg * 8 + i.core.die.die) * 4 + i.core.clu) * 2048 + i.core.core * 16 + i.slot

/-- An agent put in its place. -/
def insertSlot (i : SlotId) : List SlotId → List SlotId
  | [] => [i]
  | j :: r => if slotKey i < slotKey j then i :: j :: r else j :: insertSlot i r

/-- The agents that have a cycle: the firings that hold a core, then the supervisor cores that run. -/
def State.agents (s : State) : List Agent :=
  (((s.slots.filter (fun e => e.2.fst = .running || e.2.fst = .waiting)).map (·.1)).foldl (fun l i => insertSlot i l) []).map
    (fun i => .stage i) ++
  ((s.sups.filter (fun e => !e.2.halted && !e.2.stop)).map (fun e => .sup e.1))

/-- The head of a slot's queue dispatches where it can. -/
def State.fireMat (s : State) (i : SlotId) : State :=
  if (s.slot i).fst = .running ∨ (s.slot i).fst = .waiting then s.fire (.matDispatch i) else s

/-- The matrix units have their cycle, behind the multicast landings of the cycle and before every other agent (R173): heads that have
waited dispatch (R190), then each path makes its step. -/
def State.matTurns (s : State) : State :=
  let s := (s.slots.map (·.1)).foldl (fun s i => s.fireMat i) s
  (s.cores.map (·.1)).foldl (fun s c => s.stepCore c 0) s

/-- A head that was queued in this cycle dispatches with it, and makes its first step in banks that have served no other agent. -/
def State.lateMat (s : State) (i : SlotId) : State :=
  let t := s.fireMat i
  t.stepCore i.core s.uid

/-- What a slot does of itself at the end of a cycle: the head of its MAT queue dispatches, where none has in the cycle (R190). -/
def State.closeSlot (s : State) (i : SlotId) : State :=
  s.lateMat i

/-- The engines of a die at the end of a cycle. -/
def State.closeDie (s : State) (d : DieId) : State :=
  let s := (s.settleLoad d).autoSwitch d
  let s := if (s.die d).seqState = .draining then s.drainSources d else s
  let s := (s.settleMirror d (s.die d).mirrorIn.length).sendRequests d
  let s := if (s.seqServable d).isSome then s.fire (.seqRequestServe d) else s
  let s := s.servePosting d ((s.die d).engine.length + 1)
  let s := if (s.die d).plFree ≤ s.cycle ∧ (s.die d).nextContext.isSome then s.fire (.plBlockDecode d) else s
  let s := (s.settleChunks d).expireCopies d
  let s := s.fire (.farReadBucketRefill d)
  s.scrub d

/-- Whether the condition of a parked bundle holds (R227), judged with the registers as they stood at the trap: its waits are
begun on a copy of the machine, a walk that it waits for is done there, a read of `WAITA` is made, and the bundle is tried again
later. -/
def State.couldResume (s : State) (i : SlotId) : Bool :=
  let a : Agent := .stage i
  let s := { s.landed a with cur := a }
  let c := s.ctx a
  match s.scanAt a c.pc with
  | .trap _ _ => true
  | .bundle len items =>
    let base : Issue := { start := c.pc, len := 4 * len, word := 0, exts := [], pos := 0, mark := s.uid, next := c.pc + 4 * len,
                          taken := 0, stat := .ok }
    let s := { s with iss := base }
    let s := s.waitBundle base items (items.map (s.probe base))
    let s := s.modCtx a (fun c => { c with walk := c.walk.map (fun w => (w.1, true)) })
    let s := s.waitBundle base items (items.map (s.probe base))
    let s := match (s.ctx a).waita with
      | some (f, x) => s.waitaRead f (s.waitaAddr x)
      | none => s
    let s := { s with cycle := s.cycle + 1024 }
    (s.ctx a).req.isSome || !(items.map (s.probe base)).any IssStat.keeps

/-- Parked firings whose condition holds become resumable (R227). -/
def State.judgeParked (s : State) : State :=
  s.slots.foldl (fun s e => match e.2.trap with
    | some t =>
      if e.2.fst = .parked ∧ t.waiting ∧ !t.resumable ∧ s.couldResume e.1 then
        s.modSlot e.1 (fun v => { v with trap := some { t with resumable := true } })
      else s
    | none => s) s

/-- Whether the bundle that an agent waits with under R65 would issue. -/
def State.couldIssue (s : State) (a : Agent) : Bool :=
  let s := { s with cur := a }
  let c := s.ctx a
  match s.scanAt a c.pc with
  | .trap _ _ => false
  | .bundle len items =>
    let base : Issue := { start := c.pc, len := 4 * len, word := 0, exts := [], pos := 0, mark := s.uid, next := c.pc + 4 * len,
                          taken := 0, stat := .ok }
    let s := { s.landed a with iss := base }
    !c.leads && items.all (fun x => s.probe base x = .ok)

/-- Whether an agent is there to issue what it waits with. -/
def State.agentLive (s : State) : Agent → Bool
  | .stage i => (s.slot i).fst = .waiting && (s.slot i).ending = none
  | .sup v => !(s.sup v).stop && !(s.sup v).halted

/-- At the end of a cycle the waits end whose conditions the cycle's traffic has met: the bundle issues in the next cycle
(R65). -/
def State.endWaits (s : State) : State :=
  (s.ctxs.map (·.1)).foldl (fun s a =>
    if (s.ctx a).holding && s.agentLive a && s.couldIssue a then s.fire (.bundleWaitEnds a) else s) s

/-- What the machine does of itself at the end of a cycle, once the bundles of the cycle have issued. -/
def State.closeCycle (s : State) : State :=
  let s := (s.slots.map (·.1)).foldl (fun s i => s.closeSlot i) s
  let s := s.runCommands
  let s := s.liveDies.foldl (fun s d => s.closeDie d) s
  let s := (s.pkgs.map (·.1)).foldl (fun s n => ((s.settleHdm n (s.pkg n).hdmIn.length).settleOrphan n).settleChunkWait n) s
  s.judgeParked.heartbeats.pumpLinks

end Sys2Proof.Machine
end

