-- ==== Sys2Proof/Machine/Step.lean ====
section
/-! DEFINITION. One step of the machine: one event of the agenda, the bundle of one agent, or what the machine does of itself at
the start or at the end of a cycle (log 3). -/

namespace Sys2Proof.Machine

/-- The head of the agenda, where it is due in this cycle and its place has come: in phase 0 the multicast landings and the ends of the matrix unit's work, in phase 4 what
comes before the memory ports, in phase 5 what comes before the bundles (R173). -/
def State.dueNow (s : State) : Option (Due × List Due) :=
  match s.agenda with
  | [] => none
  | e :: r =>
    if e.cycle ≤ s.cycle ∧ (s.phase ≠ 0 ∨ e.pri < priWaited) ∧ (s.phase ≠ 4 ∨ e.pri < priPort) ∧ (s.phase ≠ 5 ∨ e.pri < priRetry) then
      some (e, r)
    else none

/-- One step. Phases 0, 4 and 5 take the traffic that comes in, with the cycle of the scrubber and of the matrix units between the first two and that of
the copies between the last two (R173); phase 1 gives each agent its cycle; phase 2 closes the cycle; phase 3 takes the rest of the
cycle's traffic, and the next cycle begins. -/
def advance (s : State) : State :=
  match s.phase with
  | 0 =>
    match s.dueNow with
    | some (e, r) => { s with agenda := r }.fire e.ev
    | none => { s.scrubTurns.matTurns with phase := 4 }
  | 4 =>
    match s.dueNow with
    | some (e, r) => { s with agenda := r }.fire e.ev
    | none => { s.copyTurns with phase := 5 }
  | 5 =>
    match s.dueNow with
    | some (e, r) => { s with agenda := r }.fire e.ev
    | none =>
      let s := s.openCycle
      { s with phase := 1, turn := s.agents }
  | 1 =>
    match s.turn with
    | a :: r => { s with turn := r }.runAgent a
    | [] => { s with phase := 2 }
  | 2 => { s.closeCycle with phase := 3 }
  | _ =>
    match s.dueNow with
    | some (e, r) => { s with agenda := r }.fire e.ev
    | none =>
      let s := s.endWaits
      { s with cycle := s.cycle + 1, phase := 0 }

/-- The step of the machine: it always goes on. -/
def step (s : State) : Host.Outcome State Fault Refusal := .next (advance s)

/-- The words of one instruction at the start of the code window of slot 0, whose firing is about to issue it (log 2). -/
def State.withFetchWord (s : State) (nbits w : Nat) : State :=
  let bytes := (tableWords (w % 2 ^ nbits)).flatMap bytesOfWord
  let s := s.modCore slot0.core (fun k =>
    { k with window := memWrite k.window 0 bytes, mapped := k.mapped ||| 1, running := some slot0.slot })
  let s := s.modSlot slot0 (fun v => { v with sst := .active, fst := .running, ending := none })
  let s := s.modCtx (.stage slot0) (fun c =>
    { c with pc := 0, budget := 1000000, notBefore := 0, after := [], holding := false, req := none })
  { s with phase := 1, turn := [.stage slot0] }

end Sys2Proof.Machine
end

