-- ==== Sys2Proof/Safety.lean ====
section
/-! DEFINITION. What a safe run is: the machine goes on for ever; the canonical form of every memory space; and the terms in which
the statements say what an instruction gives and what it leaves as it was. -/

namespace Sys2Proof.Machine

/-- The machine goes on, however many steps it takes. -/
def Safe (s : State) : Prop := ∀ n, ∃ t, Host.Core.run Sys2Proof.core n s = .next t

/-- Every memory space that a core holds is in canonical form. -/
def Core.memWf (k : Core) : Bool := Machine.memWf k.mem && Machine.memWf k.window

/-- Every memory space that a supervisor core holds is in canonical form. -/
def Sup.memWf (k : Sup) : Bool := Machine.memWf k.mem && Machine.memWf k.window

/-- Every memory space that a die holds is in canonical form. -/
def Die.memWf (k : Die) : Bool := Machine.memWf k.gallery && Machine.memWf k.codeStore

/-- The host memory that a package reaches is in canonical form. -/
def Pkg.memWf (k : Pkg) : Bool := Machine.memWf k.hostMem

/-- Every memory space of the machine is in canonical form. -/
def State.memWf (s : State) : Bool :=
  s.cores.all (fun e => e.2.memWf) && s.sups.all (fun e => e.2.memWf) && s.dies.all (fun e => e.2.memWf) &&
    s.pkgs.all (fun e => e.2.memWf)

/-! ## The terms of the statements -/

/-- What a program can name of a register context, and what its syllables use of it. -/
structure Visible where
  x : Vector Word 64
  v : Vector Vec 32
  p : BitVec 16
  td : Vector Desc 32
  rte : Vector (BitVec 8) 16
  rs : List (BitVec 17)
  cr : CtlRegs
  island : Vector Cell 128
  bank0 : BitVec 4096
  bank1 : BitVec 4096
  cur : Bool
  stageId : BitVec 24
  firing : BitVec 32
  budget : BitVec 24
  tags : Word
  deriving DecidableEq, Repr

/-- The visible part of a context. -/
def Ctx.visible (c : Ctx) : Visible :=
  { x := c.x, v := c.v, p := c.p, td := c.td, rte := c.rte, rs := c.rs, cr := c.cr, island := c.island, bank0 := c.bank0,
    bank1 := c.bank1, cur := c.cur, stageId := c.stageId, firing := c.firing, budget := c.budget,
    tags := c.tags.word }

/-- The context of an agent once every result that it has in flight has landed. -/
def State.settled (s : State) (a : Agent) : Ctx := (s.landAll a).ctx a

/-- Whether two writes are of one register. -/
def RegWrite.same : RegWrite → RegWrite → Bool
  | .x d _, .x e _ => d = e
  | .p d _, .p e _ => d = e
  | .v d _, .v e _ => d = e
  | .x _ _, .p _ _ | .x _ _, .v _ _ | .p _ _, .x _ _ | .p _ _, .v _ _ | .v _ _, .x _ _ | .v _ _, .p _ _ => false

/-- No result that the agent in issue has in flight is to land in a register of these writes. -/
def State.clear (s : State) (ws : List RegWrite) : Bool := s.me.flights.all (fun f => f.writes.all (fun w => ws.all (fun u => !w.same u)))

/-- Once results have landed, the visible registers of the agent in issue are those from before with the writes `ws` made and the
flags `fl` set. (Results land by their cycles, R135, and of one bundle by their classes, R15: where another result for a register
of `ws` is in flight, which of the two is the last is for those rules to say.) -/
def Yields (s t : State) (ws : List RegWrite) (fl : BitVec 6) : Prop :=
  s.clear ws = true → (t.settled s.cur).visible = ((applyWrites ws (s.settled s.cur)).flag fl).visible

/-- Every byte of every memory reads as before: at its home, in a supervisor core's scratchpad, in the code windows and the code
stores, and as each agent sees its own scratchpad. -/
structure SameBytes (s t : State) : Prop where
  homes : ∀ h a, memByte (t.homeMem h) a = memByte (s.homeMem h) a
  banks : ∀ g a, memByte (t.banks g) a = memByte (s.banks g) a
  own : ∀ g a, memByte (t.localMem g) a = memByte (s.localMem g) a
  windows : ∀ c a, memByte (t.core c).window a = memByte (s.core c).window a
  supWindows : ∀ v a, memByte (t.sup v).window a = memByte (s.sup v).window a
  codes : ∀ d a, memByte (t.die d).codeStore a = memByte (s.die d).codeStore a
  hosts : ∀ p a, memByte (t.pkg p).hostMem a = memByte (s.pkg p).hostMem a

/-- As `SameBytes`, but for the runs `rs` of addresses and lengths in the gallery of a die. -/
structure SameBut (s t : State) (d : DieId) (rs : List (Nat × Nat)) : Prop where
  gallery : ∀ a, (∀ r ∈ rs, a < r.1 ∨ r.1 + r.2 ≤ a) → memByte (t.homeMem (.die d)) a = memByte (s.homeMem (.die d)) a
  homes : ∀ h a, h ≠ .die d → memByte (t.homeMem h) a = memByte (s.homeMem h) a
  banks : ∀ g a, memByte (t.banks g) a = memByte (s.banks g) a
  own : ∀ g a, memByte (t.localMem g) a = memByte (s.localMem g) a
  windows : ∀ c a, memByte (t.core c).window a = memByte (s.core c).window a
  supWindows : ∀ v a, memByte (t.sup v).window a = memByte (s.sup v).window a
  codes : ∀ d a, memByte (t.die d).codeStore a = memByte (s.die d).codeStore a
  hosts : ∀ p a, memByte (t.pkg p).hostMem a = memByte (s.pkg p).hostMem a

/-- What an instruction keeps that acts on the registers of its own agent alone: every other agent's context, the slots with
their ports, the cores with their tiles, accumulators and full bits, the supervisor cores with their registers, the clusters with
their phasers and windows, the packages, the requests under way, and every byte of memory. -/
structure Kept (s t : State) : Prop where
  others : ∀ a, a ≠ s.cur → t.ctx a = s.ctx a
  slots : t.slots = s.slots
  cores : t.cores = s.cores
  sups : t.sups = s.sups
  clus : t.clus = s.clus
  pkgs : t.pkgs = s.pkgs
  reqs : t.reqs = s.reqs
  bytes : SameBytes s t

/-- The instruction answers a next state in which the writes `ws` and the flags `fl` land, and all else is kept. -/
def Writes (i : Instr) (s : State) (ws : List RegWrite) (fl : BitVec 6) : Prop :=
  ∃ t, exec i s = .next t ∧ Yields s t ws fl ∧ Kept s t

/-- As `Writes`, and the generator's counter has advanced by `n` draws (R116). -/
def Draws (i : Instr) (s : State) (ws : List RegWrite) (fl : BitVec 6) (n : Nat) : Prop :=
  ∃ t, exec i s = .next t ∧ Kept s t ∧
    (s.clear ws = true → (t.settled s.cur).visible = (((applyWrites ws (s.settled s.cur)).flag fl).modCr (fun r =>
      { r with ctrbase := r.ctrbase + BitVec.ofNat 64 n })).visible)

/-- The instruction answers a next state in which issue goes on at `next`, `taken` cycles later where that is not 0; the agent's
visible registers are `f` of those before; nothing has been put in flight, and all else is kept. -/
def Goes (i : Instr) (s : State) (next : Int) (taken : Nat) (f : Ctx → Ctx) : Prop :=
  ∃ t, exec i s = .next t ∧ t.iss = { s.iss with next := next, taken := taken } ∧
    (t.ctx s.cur).visible = (f s.me).visible ∧ (t.ctx s.cur).flights = s.me.flights ∧ Kept s t

/-- No word of an access to an agent's own scratchpad has an error. -/
def State.clean (s : State) (a : Agent) (addr n : Nat) : Bool :=
  match a with
  | .stage i => wordsIn (s.core i.core).bad addr n = 0 && wordsIn (s.core i.core).badOnce addr n = 0
  | .sup v => wordsIn (s.sup v).bad addr n = 0 && wordsIn (s.sup v).badOnce addr n = 0

/-- The instruction answers a next state with one request more, under the identity that was next; `due` is on the agenda; nothing
visible of the agent has changed, nothing has been put in flight, and all else is kept. -/
def Asks (i : Instr) (s : State) (space virt : Nat) (place : Piece) (op : ReqOp) (dest : Dest) (scope : Nat) (due : List Due) :
    Prop :=
  ∃ t, exec i s = .next t ∧
    t.reqs = s.reqs ++ [{ id := s.uid, own := s.cur, firing := s.me.firing, virt := virt, space := space, place := place,
                          op := op, dest := dest, scope := scope, performed := false, value := [], flags := 0,
                          failed := none }] ∧
    (∀ e ∈ due, e ∈ t.agenda) ∧ (t.ctx s.cur).visible = s.me.visible ∧ (t.ctx s.cur).flights = s.me.flights ∧
    Kept s { t with reqs := s.reqs }

/-- The instruction answers a next state with one local store more on its way: the agent's core sees its bytes at `addr`, every
other byte of its scratchpad reads as before, the banks hold what they held, and all else is kept. -/
def Stores (i : Instr) (s : State) (addr : Nat) (data : List Byte) (full : Bool) : Prop :=
  ∃ t, exec i s = .next t ∧ (t.ctx s.cur).visible = s.me.visible ∧ (t.ctx s.cur).flights = s.me.flights ∧
    (∀ x, memByte (t.localMem s.cur) x =
      if addr ≤ x ∧ x < addr + data.length then data.getD (x - addr) 0 else memByte (s.localMem s.cur) x) ∧
    t.pendingStores s.cur = s.pendingStores s.cur ++
      [{ id := s.uid, by_ := s.cur, addr := addr, data := data, due := s.cycle + 2, setFull := full }] ∧
    { cycle := s.cycle + 2, pri := priPort, ev := .localStoreWritten s.cur s.uid } ∈ t.agenda ∧
    (∀ g, t.banks g = s.banks g) ∧ (∀ c, t.core c = { s.core c with stores := (t.core c).stores }) ∧
    (∀ v, t.sup v = { s.sup v with stores := (t.sup v).stores }) ∧ Kept s { t with cores := s.cores, sups := s.sups }

/-- What sending one packet does to an output port (R50): it takes a credit and a number, and is retained. -/
def Sent (o o' : OutPort) (k : Packet) : Prop :=
  o'.credits = o.credits - 1 ∧ o'.nextSeq = o.nextSeq + 1 ∧ o'.retained = o.retained ++ [k] ∧ k.seq = o.nextSeq ∧
    o'.dst = o.dst ∧ o'.dport = o.dport ∧ o'.rate = o.rate

end Sys2Proof.Machine
end

