-- ==== Sys2Proof/Certificates/Slice0/Obligations.lean ====
section
/-! DEFINITION. The statements. In each, `s.free cls p r` says that a syllable of class `cls` with guard `p` that names the
registers `r` can act at once: its guard is 1, what it names has landed, and nothing held or bound keeps it. -/

open Sys2Proof Sys2Proof.Machine

/-! ## Scalar instructions -/

/-- R137: each instruction writes its function of two registers modulo 2^64 and sets no flag; the destination alone changes, and
a destination of `x0` discards the value (R77). -/
def Obligations.AluResults : Prop :=
  ∀ (s : State) (p : BitVec 4) (d a b : BitVec 6), s.free 1 p { xr := [a, b], xw := [d] } = true →
    Writes (.add p d a b) s [.x d (s.rx a + s.rx b)] 0 ∧
    Writes (.sub p d a b) s [.x d (s.rx a - s.rx b)] 0 ∧
    Writes (.mul p d a b) s [.x d (s.rx a * s.rx b)] 0 ∧
    Writes (.mulh p d a b) s [.x d (BitVec.ofInt 64 (((s.rx a).toInt * (s.rx b).toInt) / 2 ^ 64))] 0 ∧
    Writes (.mulhN p d a b) s [.x d (BitVec.ofNat 64 ((s.rx a).toNat * (s.rx b).toNat / 2 ^ 64))] 0 ∧
    Writes (.and p d a b) s [.x d (s.rx a &&& s.rx b)] 0 ∧
    Writes (.or p d a b) s [.x d (s.rx a ||| s.rx b)] 0 ∧
    Writes (.xor p d a b) s [.x d (s.rx a ^^^ s.rx b)] 0 ∧
    Writes (.andn p d a b) s [.x d (s.rx a &&& ~~~ s.rx b)] 0 ∧
    Writes (.min p d a b) s [.x d (if (s.rx b).slt (s.rx a) then s.rx b else s.rx a)] 0 ∧
    Writes (.max p d a b) s [.x d (if (s.rx a).slt (s.rx b) then s.rx b else s.rx a)] 0 ∧
    Writes (.minN p d a b) s [.x d (if (s.rx b).ult (s.rx a) then s.rx b else s.rx a)] 0 ∧
    Writes (.maxN p d a b) s [.x d (if (s.rx a).ult (s.rx b) then s.rx b else s.rx a)] 0

/-- R138: the shifts take their count from all 64 bits of xb, unsigned; a count of 64 or more gives 0, and for `SAR` 64 copies of
the sign. -/
def Obligations.ShiftResults : Prop :=
  ∀ (s : State) (p : BitVec 4) (d a b : BitVec 6), s.free 1 p { xr := [a, b], xw := [d] } = true →
    Writes (.shl p d a b) s [.x d (s.rx a <<< s.rx b)] 0 ∧
    Writes (.shr p d a b) s [.x d (s.rx a >>> s.rx b)] 0 ∧
    Writes (.sar p d a b) s [.x d ((s.rx a).sshiftRight (s.rx b).toNat)] 0

/-- R139: division truncates toward zero; a zero divisor gives all ones, or for `REM` the dividend, and sets `DZ`; the most
negative number divided by −1 gives itself and sets `OF`, and its remainder is 0. -/
def Obligations.DivideResults : Prop :=
  ∀ (s : State) (p : BitVec 4) (d a b : BitVec 6), s.free 1 p { xr := [a, b], xw := [d] } = true →
    (∀ f ∈ s.me.flights, f.src = .divide → s.iss.mark ≤ f.id) →
    (s.rx b = 0 →
      Writes (.div p d a b) s [.x d (BitVec.allOnes 64)] flDZ ∧ Writes (.divN p d a b) s [.x d (BitVec.allOnes 64)] flDZ ∧
      Writes (.rem p d a b) s [.x d (s.rx a)] flDZ) ∧
    (s.rx b ≠ 0 → Writes (.divN p d a b) s [.x d (s.rx a / s.rx b)] 0) ∧
    (s.rx b ≠ 0 → ¬ (s.rx a = BitVec.intMin 64 ∧ s.rx b = BitVec.allOnes 64) →
      Writes (.div p d a b) s [.x d ((s.rx a).sdiv (s.rx b))] 0 ∧
      Writes (.rem p d a b) s [.x d ((s.rx a).srem (s.rx b))] 0) ∧
    (s.rx a = BitVec.intMin 64 → s.rx b = BitVec.allOnes 64 →
      Writes (.div p d a b) s [.x d (BitVec.intMin 64)] flOF ∧ Writes (.rem p d a b) s [.x d 0] 0)

/-- R140: the immediate of `ADDI` and `LI` is sign-extended, that of `ANDI`, `ORI` and `XORI` zero-extended; the shifts take 0 to
63. -/
def Obligations.ImmediateResults : Prop :=
  ∀ (s : State) (p : BitVec 4) (d a n : BitVec 6) (i : Opnd 6), s.free 1 p { xr := [a], xw := [d] } = true →
    Writes (.addi p d a i) s [.x d (s.rx a + BitVec.ofInt 64 (immSigned i))] 0 ∧
    Writes (.andi p d a i) s [.x d (s.rx a &&& BitVec.ofNat 64 (immUnsigned i))] 0 ∧
    Writes (.ori p d a i) s [.x d (s.rx a ||| BitVec.ofNat 64 (immUnsigned i))] 0 ∧
    Writes (.xori p d a i) s [.x d (s.rx a ^^^ BitVec.ofNat 64 (immUnsigned i))] 0 ∧
    Writes (.shli p d a n) s [.x d (s.rx a <<< n.toNat)] 0 ∧
    Writes (.shri p d a n) s [.x d (s.rx a >>> n.toNat)] 0 ∧
    Writes (.sari p d a n) s [.x d ((s.rx a).sshiftRight n.toNat)] 0 ∧
    (s.free 1 p { xw := [d] } = true → Writes (.li p d i) s [.x d (BitVec.ofInt 64 (immSigned i))] 0)

/-- R141–R143: `SEL` chooses by its predicate; the counts of zero and one bits; the fields that `EXT`, `EXT.N` and `INS` name by
position xb[5:0] and length xb[11:6] + 1, cut off at bit 63. -/
def Obligations.BitFieldResults : Prop :=
  ∀ (s : State) (p q : BitVec 4) (d a b : BitVec 6),
    (s.free 1 0 { xr := [a, b], xw := [d], pr := [q] } = true →
      Writes (.sel q d a b) s [.x d (if s.rp q then s.rx a else s.rx b)] 0) ∧
    (s.free 1 p { xr := [a], xw := [d] } = true →
      Writes (.clz p d a) s [.x d (BitVec.ofNat 64 (if s.rx a = 0 then 64 else 63 - (s.rx a).toNat.log2))] 0 ∧
      (∃ n, Writes (.ctz p d a) s [.x d (BitVec.ofNat 64 n)] 0 ∧ n ≤ 64 ∧ (∀ k < n, (s.rx a).getLsbD k = false) ∧
        (n < 64 → (s.rx a).getLsbD n = true)) ∧
      Writes (.popc p d a) s [.x d (BitVec.ofNat 64 ((List.range 64).countP (fun k => (s.rx a).getLsbD k)))] 0) ∧
    (s.free 1 p { xr := [a, b], xw := [d] } = true →
      (∀ k < 64, ∀ pos len, pos = (s.rx b).toNat % 64 → len = min ((s.rx b).toNat / 64 % 64 + 1) (64 - pos) →
        ∃ w, Writes (.extractN p d a b) s [.x d w] 0 ∧ w.getLsbD k = (decide (k < len) && (s.rx a).getLsbD (pos + k))) ∧
      (∀ k < 64, ∀ pos len, pos = (s.rx b).toNat % 64 → len = min ((s.rx b).toNat / 64 % 64 + 1) (64 - pos) →
        ∃ w, Writes (.extract p d a b) s [.x d w] 0 ∧ w.getLsbD k = (s.rx a).getLsbD (pos + min k (len - 1)))) ∧
    (s.free 1 p { xr := [a, b, d], xw := [d] } = true →
      ∀ k < 64, ∀ pos len, pos = (s.rx b).toNat % 64 → len = min ((s.rx b).toNat / 64 % 64 + 1) (64 - pos) →
        ∃ w, Writes (.insert p d a b) s [.x d w] 0 ∧
          w.getLsbD k = if pos ≤ k ∧ k < pos + len then (s.rx a).getLsbD (k - pos) else (s.rx d).getLsbD k)

/-- R147–R149: the island's function, and the unpacking and packing of sub-byte elements. -/
def Obligations.PackResults : Prop :=
  ∀ (s : State) (p : BitVec 4) (d a b : BitVec 6),
    (a ≠ 63 → s.free 1 p { xr := [a, a + 1, b], xw := [d] } = true →
      Writes (.unpk p d a b) s [.x d (unpk (s.rx (a + 1)) (s.rx a) (s.rx b))] 0) ∧
    (s.free 1 p { xr := [a, b], xw := [d] } = true →
      Writes (.packb p d a b) s [.x d (packb (s.rx a) (s.rx b))] 0 ∧
      (∀ i, s.cur = .stage i →
        Writes (.lut p d a b) s [.x d (islandResult s.me.island.toList (s.rx a) (s.rx b))] 0)) ∧
    exec (.unpk p d 63 b) s = .next (s.raise 1 0x02 s.sylValue) ∧
    (∀ v, s.cur = .sup v → exec (.lut p d a b) s = .next (s.raise 1 0x02 s.sylValue))

/-- The predicate writes of a comparison with result `c` in the mode `m` (R19): plain, both senses, AND, OR. -/
def predWrites (s : State) (q : BitVec 4) (m : BitVec 2) (c : Bool) : List RegWrite :=
  if m = 0 then [.p q c] else if m = 1 then [.p q c, .p (q + 1) !c] else if m = 2 then [.p q (s.rp q && c)]
  else [.p q (s.rp q || c)]

/-- The predicates that Form C reads and writes in the mode `m`. -/
def predRegs (q : BitVec 4) (m : BitVec 2) (xr : List (BitVec 6)) (pr : List (BitVec 4)) : Regs :=
  { xr := xr, pr := (if m.toNat < 2 then pr else q :: pr), pw := (if m = 1 then [q, q + 1] else [q]) }

/-- R144: the compares write predicates by their mode, signed, unsigned (`.LTN`, `.GEN`) or with a sign-extended immediate, and
leave every other register alone. -/
def Obligations.CompareResults : Prop :=
  ∀ (s : State) (p q : BitVec 4) (m : BitVec 2) (a b : BitVec 6) (i : Opnd 6),
    (s.free 1 p (predRegs q m [a, b] []) = true →
      Writes (.cmpEq p q m a b) s (predWrites s q m (s.rx a == s.rx b)) 0 ∧
      Writes (.cmpNe p q m a b) s (predWrites s q m (s.rx a != s.rx b)) 0 ∧
      Writes (.cmpLt p q m a b) s (predWrites s q m ((s.rx a).slt (s.rx b))) 0 ∧
      Writes (.cmpGe p q m a b) s (predWrites s q m (!(s.rx a).slt (s.rx b))) 0 ∧
      Writes (.cmpLtn p q m a b) s (predWrites s q m ((s.rx a).ult (s.rx b))) 0 ∧
      Writes (.cmpGen p q m a b) s (predWrites s q m (!(s.rx a).ult (s.rx b))) 0) ∧
    (s.free 1 p (predRegs q m [a] []) = true →
      Writes (.cmpiEq p q m a i) s (predWrites s q m (s.rx a == BitVec.ofInt 64 (immSigned i))) 0 ∧
      Writes (.cmpiLt p q m a i) s (predWrites s q m ((s.rx a).slt (BitVec.ofInt 64 (immSigned i)))) 0 ∧
      Writes (.cmpiGe p q m a i) s (predWrites s q m (!(s.rx a).slt (BitVec.ofInt 64 (immSigned i)))) 0)

/-- R145: the predicate operations on two predicates, each inverted where its bit says so. -/
def Obligations.PredicateResults : Prop :=
  ∀ (s : State) (p q a b : BitVec 4) (m : BitVec 2) (na nb : BitVec 1), s.free 1 p (predRegs q m [] [a, b]) = true →
    Writes (.pand p q m na a nb b) s (predWrites s q m ((s.rp a != (na == 1)) && (s.rp b != (nb == 1)))) 0 ∧
    Writes (.por p q m na a nb b) s (predWrites s q m ((s.rp a != (na == 1)) || (s.rp b != (nb == 1)))) 0 ∧
    Writes (.pxor p q m na a nb b) s (predWrites s q m ((s.rp a != (na == 1)) != (s.rp b != (nb == 1)))) 0

/-- The format pattern of a floating operand: the low bits of a register, or the immediate of R30. -/
def fpOpnd (s : State) (f : Fmt) (b : Opnd 6) : Nat :=
  match b with
  | .fld r => (s.rx r).toNat
  | .ext1 _ => immFloat f b
  | .ext2 _ _ => immFloat f b

/-- R150–R154: the floating instructions write the result of their format's operation in the low bits, the rest zero, and set its
flags; the fused forms read the destination as the addend. -/
def Obligations.FloatResults : Prop :=
  ∀ (s : State) (p q : BitVec 4) (m : BitVec 2) (d a : BitVec 6) (b : Opnd 6) (c : BitVec 6),
    (s.free 1 p { xr := a :: fpReg b, xw := [d] } = true →
      Writes (.faddS p d a b) s [.x d (BitVec.ofNat 64 (fAdd fp32 (s.rx a).toNat (fpOpnd s fp32 b)).1)]
        (fAdd fp32 (s.rx a).toNat (fpOpnd s fp32 b)).2 ∧
      Writes (.faddD p d a b) s [.x d (BitVec.ofNat 64 (fAdd fp64 (s.rx a).toNat (fpOpnd s fp64 b)).1)]
        (fAdd fp64 (s.rx a).toNat (fpOpnd s fp64 b)).2 ∧
      Writes (.fmulS p d a b) s [.x d (BitVec.ofNat 64 (fMul fp32 (s.rx a).toNat (fpOpnd s fp32 b)).1)]
        (fMul fp32 (s.rx a).toNat (fpOpnd s fp32 b)).2 ∧
      Writes (.fmulD p d a b) s [.x d (BitVec.ofNat 64 (fMul fp64 (s.rx a).toNat (fpOpnd s fp64 b)).1)]
        (fMul fp64 (s.rx a).toNat (fpOpnd s fp64 b)).2 ∧
      Writes (.fminS p d a b) s [.x d (BitVec.ofNat 64 (fMin fp32 (s.rx a).toNat (fpOpnd s fp32 b)))] 0 ∧
      Writes (.fmaxS p d a b) s [.x d (BitVec.ofNat 64 (fMax fp32 (s.rx a).toNat (fpOpnd s fp32 b)))] 0) ∧
    (s.free 1 p { xr := d :: a :: fpReg b, xw := [d] } = true →
      Writes (.ffmaS p d a b) s [.x d (BitVec.ofNat 64 (fFma fp32 (s.rx d).toNat (s.rx a).toNat (fpOpnd s fp32 b)).1)]
        (fFma fp32 (s.rx d).toNat (s.rx a).toNat (fpOpnd s fp32 b)).2 ∧
      Writes (.ffmaD p d a b) s [.x d (BitVec.ofNat 64 (fFma fp64 (s.rx d).toNat (s.rx a).toNat (fpOpnd s fp64 b)).1)]
        (fFma fp64 (s.rx d).toNat (s.rx a).toNat (fpOpnd s fp64 b)).2) ∧
    (s.free 1 p (predRegs q m (a :: fpReg b) []) = true →
      Writes (.fcmpLt p q m a b) s
        (predWrites s q m (fless false (fval fp32 (s.rx a).toNat) (fval fp32 (fpOpnd s fp32 b)))) 0 ∧
      Writes (.fcmpEq p q m a b) s
        (predWrites s q m (feq (fval fp32 (s.rx a).toNat) (fval fp32 (fpOpnd s fp32 b)))) 0) ∧
    ((∀ f ∈ s.me.flights, f.src = .fdivide → s.iss.mark ≤ f.id) →
      (s.free 1 p { xr := [a, c], xw := [d] } = true →
        Writes (.fdivS p d a c) s [.x d (BitVec.ofNat 64 (fDiv fp32 (s.rx a).toNat (s.rx c).toNat).1)]
          (fDiv fp32 (s.rx a).toNat (s.rx c).toNat).2) ∧
      (s.free 1 p { xr := [a], xw := [d] } = true →
        Writes (.fsqrtS p d a) s [.x d (BitVec.ofNat 64 (fSqrt fp32 (s.rx a).toNat).1)] (fSqrt fp32 (s.rx a).toNat).2))

/-- R115, R116, R153–R155: `RNG` writes one draw of the generator G at `CTRBASE` and advances it by one; `FCVT` converts by its
selector, and draws one value exactly where its rounding is SR. -/
def Obligations.DrawResults : Prop :=
  ∀ (s : State) (p : BitVec 4) (d a c : BitVec 6),
    (s.free 1 p { xw := [d] } = true → Draws (.rng p d) s [.x d (genDraw s.me.cr.seed s.me.cr.ctrbase)] 0 1) ∧
    (s.free 1 p { xr := [a], xw := [d] } = true →
      ∀ code r, code = rndCode s.me.cr.cvrnd (c.toNat / 16) →
        r = fcvtResult (c.toNat % 16) (rndOf code (genDraw s.me.cr.seed s.me.cr.ctrbase)) (s.rx a) →
        Draws (.fcvt p d a c) s [.x d r.1] r.2 (if code = 2 then 1 else 0))

/-! ## Control instructions -/

/-- R119–R122, R129: `NOP` goes on behind the bundle; `BR` goes to its start plus four times the displacement, one cycle later;
`BR.R` to the register's address, two cycles later; `BR.T` to the first displacement whose predicate is 1. -/
def Obligations.BranchResults : Prop :=
  ∀ (s : State) (p q1 q2 q3 q4 : BitVec 4) (d : BitVec 18) (a : BitVec 6) (n : BitVec 2) (t1 t2 t3 t4 : BitVec 14),
    (s.free 0 p {} = true →
      Goes (.nop p) s s.iss.next s.iss.taken id ∧ Goes (.br p d) s (s.iss.start + 4 * d.toInt) 1 id) ∧
    (s.free 0 p { xr := [a] } = true → (s.rx a).toNat % 4 = 0 → Goes (.brR p a) s (s.rx a).toNat 2 id) ∧
    (∀ tests, tests = [(q1, t1), (q2, t2), (q3, t3), (q4, t4)].take (n.toNat + 1) →
      s.free 0 p { pr := tests.map (·.1) } = true →
      (∀ k (h : k < tests.length), s.rp tests[k].1 = true → (∀ j (hj : j < k), s.rp (tests[j]).1 = false) →
        Goes (.brT p q1 q2 q3 q4 n t1 t2 t3 t4) s (s.iss.start + 4 * tests[k].2.toInt) 1 id) ∧
      ((∀ e ∈ tests, s.rp e.1 = false) → Goes (.brT p q1 q2 q3 q4 n t1 t2 t3 t4) s s.iss.next s.iss.taken id))

/-- R123, R91: `CALL` and `CALL.R` push the address of the next sequential bundle and branch; `RET` pops the youngest address and
goes there. That a call in the bundle that ends the code window pushes 0 is the model's choice (log 67). -/
def Obligations.CallResults : Prop :=
  ∀ (s : State) (p : BitVec 4) (d : BitVec 18) (a : BitVec 6),
    (s.me.rs.length < 8 →
      (s.free 0 p {} = true → Goes (.call p d) s (s.iss.start + 4 * d.toInt) 1
        (fun c => { c with rs := c.rs ++ [BitVec.ofInt 17 (s.iss.start + s.iss.len)] })) ∧
      (s.free 0 p { xr := [a] } = true → (s.rx a).toNat % 4 = 0 → Goes (.callR p a) s (s.rx a).toNat 2
        (fun c => { c with rs := c.rs ++ [BitVec.ofInt 17 (s.iss.start + s.iss.len)] }))) ∧
    (∀ h : s.me.rs ≠ [], s.free 0 p {} = true →
      Goes (.ret p) s ((s.me.rs.getLast h).toNat : Int) 1 (fun c => { c with rs := c.rs.dropLast }))

/-- R125–R127: `LOOP` counts its register down and branches while it is not zero; `SETLC` sets `LC`, `EC` and the stage predicates
to `p8` alone; `LOOP.R` shifts the stage predicates, counts `LC` and then `EC` down, steps `RRB` and branches, and does nothing
where both are zero. -/
def Obligations.LoopResults : Prop :=
  ∀ (s : State) (p : BitVec 4) (c e a : BitVec 6) (d : BitVec 12) (d' : BitVec 18) (i : Opnd 6),
    (s.free 0 p { xr := [c], xw := [c] } = true →
      (s.rx c ≠ 1 → Goes (.loop p c d) s (s.iss.start + 4 * d.toInt) 1 (fun k => k.wx c (k.rx c - 1))) ∧
      (s.rx c = 1 → Goes (.loop p c d) s s.iss.next s.iss.taken (fun k => k.wx c 0))) ∧
    (s.free 0 p { xr := [a], pw := stagePreds } = true →
      Goes (.setlc p e a i) s s.iss.next s.iss.taken (fun k =>
        { k with cr := { k.cr with lc := s.rx a + BitVec.ofNat 64 (immUnsigned i), ec := e }, p := (k.p &&& 0x00FF) ||| 0x0100 })) ∧
    (s.free 0 p { pr := stagePreds, pw := stagePreds } = true →
      (s.me.cr.lc ≠ 0 → Goes (.loopR p d') s (s.iss.start + 4 * d'.toInt) 1 (fun k =>
        { k with cr := { k.cr with lc := k.cr.lc - 1, vrb := k.cr.vrb + 1 },
                 p := (k.p &&& 0x00FF) ||| ((k.p &&& 0x7F00) <<< 1) ||| 0x0100 })) ∧
      (s.me.cr.lc = 0 → s.me.cr.ec ≠ 0 → Goes (.loopR p d') s (s.iss.start + 4 * d'.toInt) 1 (fun k =>
        { k with cr := { k.cr with ec := k.cr.ec - 1, vrb := k.cr.vrb + 1 },
                 p := (k.p &&& 0x00FF) ||| ((k.p &&& 0x7F00) <<< 1) })) ∧
      (s.me.cr.lc = 0 → s.me.cr.ec = 0 → Goes (.loopR p d') s s.iss.next s.iss.taken id))

/-- R121, R123, R218, R220: a register-held target that is no multiple of 4 raises misaligned access with its address; a call with
eight addresses held raises return-store overflow with its target, before any misalignment; `RET` with none raises underflow. A
syllable whose guard is 0 does nothing (R14); the predicate file has been read for it, and a single-bit error there corrected (R366). -/
def Obligations.ControlTraps : Prop :=
  ∀ (s : State) (p : BitVec 4) (d : BitVec 18) (a x : BitVec 6),
    (s.free 0 p { xr := [a] } = true → (s.rx a).toNat % 4 ≠ 0 →
      exec (.brR p a) s = .next (s.raise 2 0x10 (BitVec.ofNat 64 ((s.rx a).toNat % 2 ^ 61))) ∧
      (s.me.rs.length < 8 → exec (.callR p a) s = .next (s.raise 2 0x10 (BitVec.ofNat 64 ((s.rx a).toNat % 2 ^ 61))))) ∧
    (8 ≤ s.me.rs.length →
      (s.free 0 p {} = true → exec (.call p d) s = .next (s.raise 2 0x09 (BitVec.ofInt 64 (s.iss.start + 4 * d.toInt)))) ∧
      (s.free 0 p { xr := [a] } = true → exec (.callR p a) s = .next (s.raise 2 0x09 (s.rx a)))) ∧
    (s.free 0 p {} = true → s.me.rs = [] → exec (.ret p) s = .next (s.raise 2 0x0A 0)) ∧
    (s.resultBusy { pr := [p] } = false → s.rp p = false →
      ∀ t, t = s.meetRegs s.cur [576] →
      exec (.br p d) s = .next t ∧ exec (.callR p a) s = .next t ∧ exec (.add p x a a) s = .next t ∧
      exec (.stL p x a 3 (.fld 0)) s = .next t ∧ exec (.amoN p x a 0 3) s = .next t ∧ exec (.fence p 0 1 1) s = .next t)

/-- R130, R217–R220, R348: `TRAP` of a firing takes cause 0x0C with its immediate and resumes behind the bundle: the results in
flight have landed, the firing is TRAPPED, its record holds cause, value and address, and its slot joins the trap queue of its
cluster's supervisor core. While a load or an atomic is on its way, or the host holds a line of the save area, the firing is TRAPPED
and queued, and the context is captured later. On a supervisor core `TRAP` raises event 0x39 and the core goes on. That the trap takes
no cycle of its own (log 31), that the capture waits for every load (log 21), and that a `TRAP` in the bundle that ends the code window
resumes at 0 (log 67) are the model's choices. -/
def Obligations.TrapResults : Prop :=
  ∀ (s : State) (p : BitVec 4) (i : Opnd 6), s.free 0 p {} = true →
    (∀ j, s.cur = .stage j → ∃ t, exec (.trap p i) s = .next t ∧ t.iss.stat = .trapped 2 ∧
      (t.slot j).fst = .trapped ∧
      (∃ r, (t.slot j).trap = some r ∧ r.cause = 0x0C ∧ r.value = BitVec.ofNat 64 (immUnsigned i) ∧
        r.addr = (s.iss.start % 2 ^ 17).toNat ∧ r.parked = false) ∧
      (t.ctx s.cur).pc = (s.iss.start + s.iss.len) % 2 ^ 17 ∧
      (∀ k, k ≠ j → t.slot k = s.slot k) ∧ (∀ b, b ≠ s.cur → t.ctx b = s.ctx b) ∧
      (s.canCapture j = true → (t.slot j).capture = none ∧
        (t.ctx s.cur).visible = (s.settled s.cur).visible ∧ (t.ctx s.cur).flights = []) ∧
      (∀ v, t.sup v = if v = { die := j.core.die, k := j.core.clu } then { s.sup v with traps := (s.sup v).traps ++ [j] } else s.sup v) ∧
      (s.canCapture j = false → (t.slot j).capture = some ((s.iss.start + s.iss.len) % 2 ^ 17).toNat ∧
        (t.ctx s.cur).visible = s.me.visible ∧ (t.ctx s.cur).flights = s.me.flights)) ∧
    (∀ v, s.cur = .sup v →
      exec (.trap p i) s = .next ((s.enter p {}).dieEvent v.die 0x39 0 none (immUnsigned i % 2 ^ 12) 0))

/-- R217, R219, R223: taking a trap, where the context can be captured at once, writes the save area in the gallery at the slot's base:
the header, the scalar registers, and the vector registers, each as they stand once the results in flight have landed, and the address
to resume at. When the capture can be made is the model's choice (log 21). -/
def Obligations.TrapSaves : Prop :=
  ∀ (s : State) (i : SlotId) (cause : Nat) (value : Word) (addr pc : Nat) (w o : Bool) (t : State),
    t = s.trapStage i cause value addr pc w o → pc < 2 ^ 17 → s.pendingStores (.stage i) = [] →
    s.canCapture i = true → ∀ base, base = (s.slot i).saveBase * 4096 →
    (∀ k < 64, memNat (t.die i.core.die).gallery (base + 0x100 + 8 * k) 8 = ((s.settled (.stage i)).rx (BitVec.ofNat 6 k)).toNat) ∧
    (∀ k (h : k < 32), bytesVec (memRead (t.die i.core.die).gallery (base + 0x1000 + 128 * k) 128) =
      (s.settled (.stage i)).v[k]) ∧
    memNat (t.die i.core.die).gallery base 8 % 2 ^ 32 = cause % 256 * 2 ^ 24 + pc ∧
    memNat (t.die i.core.die).gallery (base + 8) 8 = value.toNat ∧
    memNat (t.die i.core.die).gallery (base + 0x10) 8 = (s.settled (.stage i)).budget.toNat ∧
    memNat (t.die i.core.die).gallery (base + 0x40) 8 = (s.settled (.stage i)).cr.fstat.toNat

/-- R92, R96, R133: `MFCR` reads the control register of its index as it stood before the bundle.
That `CNTS` counts an `MM.AR` until its elements are written is the model's reading (log 76). -/
def Obligations.ControlReads : Prop :=
  ∀ (s : State) (p : BitVec 4) (d : BitVec 6), s.free 0 p { xw := [d] } = true →
    Writes (.mfcr p d 0) s [.x d (s.me.stageId.setWidth 64)] 0 ∧ Writes (.mfcr p d 1) s [.x d (s.slotWord s.cur)] 0 ∧
    Writes (.mfcr p d 2) s [.x d (s.me.firing.setWidth 64)] 0 ∧ Writes (.mfcr p d 3) s [.x d (s.me.budget.setWidth 64)] 0 ∧
    Writes (.mfcr p d 4) s [.x d s.me.cr.lc] 0 ∧ Writes (.mfcr p d 5) s [.x d (s.me.cr.ec.setWidth 64)] 0 ∧
    Writes (.mfcr p d 6) s [.x d (s.me.cr.vrb.setWidth 64)] 0 ∧ Writes (.mfcr p d 7) s [.x d s.me.cr.seed] 0 ∧
    Writes (.mfcr p d 8) s [.x d s.me.cr.ctrbase] 0 ∧ Writes (.mfcr p d 9) s [.x d (s.me.cr.fstat.setWidth 64)] 0 ∧
    Writes (.mfcr p d 10) s [.x d s.me.cr.xstat] 0 ∧ Writes (.mfcr p d 11) s [.x d s.me.cr.round] 0 ∧
    Writes (.mfcr p d 12) s [.x d (BitVec.ofNat 64 (s.cntl s.cur % 2 ^ 16))] 0 ∧
    Writes (.mfcr p d 13) s [.x d (BitVec.ofNat 64 (s.cnts s.cur % 2 ^ 16))] 0 ∧
    Writes (.mfcr p d 14) s [.x d s.me.cr.mode] 0 ∧ Writes (.mfcr p d 16) s [.x d (BitVec.ofNat 64 s.me.rs.length)] 0 ∧
    Writes (.mfcr p d 15) s [.x d s.me.tags.word] 0 ∧
    (∀ v, s.cur = .sup v →
      Writes (.mfcr p d 0x20) s [.x d ((s.sup v).trapc.setWidth 64)] 0 ∧
      Writes (.mfcr p d 0x21) s [.x d ((s.sup v).trapa.setWidth 64)] 0 ∧
      Writes (.mfcr p d 0x22) s [.x d (s.sup v).trapv] 0 ∧ Writes (.mfcr p d 0x23) s [.x d (s.sup v).savebase] 0 ∧
      Writes (.mfcr p d 0x24) s [.x d (s.sup v).slotstate] 0 ∧
      Writes (.mfcr p d 0x25) s [.x d ((s.sup v).codemap.setWidth 64)] 0)

/-- R92, R93, R95, R96, R134, R231: `MTCR` writes the fields of a register that have write access, and nothing else; a write of a
supervisor register goes to the supervisor core's own. A write of `CODEMAP` with a trap held copies each backed page that it maps into
the trapped core's window, 64 bytes a cycle, and unmaps those whose bit it clears; the core issues on once every copy is complete. With
no trap held it raises illegal operand type. -/
def Obligations.ControlWrites : Prop :=
  ∀ (s : State) (p : BitVec 4) (a : BitVec 6), s.free 0 p { xr := [a] } = true → ∀ w, w = s.rx a →
    Goes (.mtcr p 4 a) s s.iss.next s.iss.taken (fun c => { c with cr := { c.cr with lc := w } }) ∧
    Goes (.mtcr p 5 a) s s.iss.next s.iss.taken (fun c => { c with cr := { c.cr with ec := w.setWidth 6 } }) ∧
    Goes (.mtcr p 6 a) s s.iss.next s.iss.taken (fun c => { c with cr := { c.cr with vrb := w.setWidth 4 } }) ∧
    Goes (.mtcr p 7 a) s s.iss.next s.iss.taken (fun c => { c with cr := { c.cr with seed := w } }) ∧
    Goes (.mtcr p 8 a) s s.iss.next s.iss.taken (fun c => { c with cr := { c.cr with ctrbase := w } }) ∧
    Goes (.mtcr p 9 a) s s.iss.next s.iss.taken (fun c => { c with cr := { c.cr with fstat := w.setWidth 6 } }) ∧
    Goes (.mtcr p 10 a) s s.iss.next s.iss.taken (fun c =>
      { c with cr := { c.cr with tlate := (w >>> 16).setWidth 16, lm := w.getLsbD 0 } }) ∧
    Goes (.mtcr p 14 a) s s.iss.next s.iss.taken (fun c =>
      { c with cr := { c.cr with cvrnd := if (w >>> 1).setWidth 2 = (3 : BitVec 2) then 0 else (w >>> 1).setWidth 2 } }) ∧
    (∀ x : BitVec 6, x ∈ [0, 1, 2, 3, 12, 13, 15, 16] → Goes (.mtcr p x a) s s.iss.next s.iss.taken id) ∧
    (∀ i, s.cur = .stage i → Goes (.mtcr p 11 a) s s.iss.next s.iss.taken id) ∧
    (∀ v, s.cur = .sup v →
      Goes (.mtcr p 11 a) s s.iss.next s.iss.taken (fun c => { c with cr := { c.cr with rnd := w.setWidth 32 } }) ∧
      exec (.mtcr p 0x20 a) s = .next ((s.enter p { xr := [a] }).modSup v (fun u => { u with trapc := w.setWidth 8 })) ∧
      exec (.mtcr p 0x21 a) s = .next ((s.enter p { xr := [a] }).modSup v (fun u => { u with trapa := w.setWidth 17 })) ∧
      exec (.mtcr p 0x22 a) s = .next ((s.enter p { xr := [a] }).modSup v (fun u => { u with trapv := w })) ∧
      exec (.mtcr p 0x23 a) s = .next ((s.enter p { xr := [a] }).modSup v (fun u => { u with savebase := w >>> 12 <<< 12 })) ∧
      exec (.mtcr p 0x24 a) s = .next ((s.enter p { xr := [a] }).modSup v (fun u => { u with slotstate := w &&& 0x77 })) ∧
      ((s.sup v).trapc = 0 → exec (.mtcr p 0x25 a) s = .next (s.raise 2 0x02 s.sylValue)) ∧
      (∀ i, (s.sup v).held = some i → (s.sup v).trapc ≠ 0 → ∀ old maps, old = (s.core i.core).mapped →
        maps = (List.range 32).filter (fun n => !old.getLsbD n && w.getLsbD n && (tfind (s.core i.core).backing n).isSome) →
        ∃ t, exec (.mtcr p 0x25 a) s = .next t ∧ s.cycle + 64 * maps.length < (t.ctx s.cur).notBefore ∧
          (∀ k (h : k < maps.length),
            { cycle := s.cycle + 64 * (k + 1), pri := priPort, ev := .codemapMapPage i.core maps[k] } ∈ t.agenda) ∧
          (∀ n < 32, old.getLsbD n = true → w.getLsbD n = false →
            { cycle := s.cycle + 1, pri := priPort, ev := .codemapUnmapPage i.core n } ∈ t.agenda) ∧
          (∀ e ∈ t.agenda, e ∈ s.agenda ∨ (∃ n ∈ maps, e.ev = .codemapMapPage i.core n) ∨
            (∃ n < 32, old.getLsbD n = true ∧ w.getLsbD n = false ∧ e.ev = .codemapUnmapPage i.core n)) ∧
          (t.ctx s.cur).visible = s.me.visible ∧ Kept s t))

/-- R96, R131, R218, R345–R347, R358: the supervisor instructions raise privilege violation on a stage; `RFT` while no trap is held
raises illegal operand type. `HALT` halts the core. `RFT` applies `SVACT` to the trap held, ends it, and takes 8 cycles: act 0
resumes the firing with the registers of its save area, 1 asks for its park, 2 kills the firing, 3 kills the stage. `CFG.NEXT`
begins the load of the next configuration and waits; it issues once the load has been accepted or refused, and at once, with status 0,
where the die is switching already. That the load lasts to the end of the next cycle is the model's choice (log 50). -/
def Obligations.SupervisorResults : Prop :=
  ∀ (s : State) (p : BitVec 4) (d a : BitVec 6),
    (isSup s.cur = false →
      exec (.rft p) s = .next (s.raise 0 0x0F s.sylValue) ∧ exec (.halt p) s = .next (s.raise 0 0x0F s.sylValue) ∧
      exec (.cfgNext p a) s = .next (s.raise 0 0x0F s.sylValue) ∧
      (∀ x : BitVec 6, 32 ≤ x.toNat →
        exec (.mfcr p d x) s = .next (s.raise 0 0x0F s.sylValue) ∧ exec (.mtcr p x a) s = .next (s.raise 0 0x0F s.sylValue))) ∧
    (∀ v, s.cur = .sup v →
      (s.free 0 p {} = true →
        exec (.halt p) s = .next ((s.enter p {}).modSup v (fun u => { u with halted := true })) ∧
        ((s.sup v).trapc = 0 → exec (.rft p) s = .next (s.raise 2 0x02 s.sylValue)) ∧
        ((s.sup v).trapc ≠ 0 → ∃ t, exec (.rft p) s = .next t ∧ (t.sup v).trapc = 0 ∧ (t.sup v).held = none ∧
          s.cycle + 8 ≤ (t.ctx s.cur).notBefore ∧ (t.ctx s.cur).visible = s.me.visible ∧
          (∀ i, (s.sup v).held = some i → (s.slot i).fst = .trapped →
            ((s.sup v).act = 0 → (t.slot i).fst = .running ∧ (t.slot i).trap = none ∧
              (t.ctx (.stage i)).budget = BitVec.ofNat 24 (s.saveWord i 0x10) ∧
              (t.ctx (.stage i)).p = BitVec.ofNat 16 (s.saveWord i 0x68) ∧
              (∀ k (h : k < 64), k ≠ 0 → (t.ctx (.stage i)).x[k] = BitVec.ofNat 64 (s.saveWord i (0x100 + 8 * k)))) ∧
            ((s.sup v).act = 1 → (t.slot i).fst = .trapped ∧ (t.slot i).parkPending = true) ∧
            ((s.sup v).act = 2 → (t.slot i).trap = none ∧
              (t.slot i).ending = some { began := s.cycle, markersSent := false, kill := true }) ∧
            ((s.sup v).act = 3 → (s.slot i).sst ≠ .empty → (t.slot i).sst = .empty ∧ (t.slot i).fst = .none)))) ∧
      (s.free 0 p { xr := [a] } = true →
        (s.me.sync = none → (s.die v.die).switching = false → exec (.cfgNext p a) s = .next
          (((s.modDie v.die (fun k => { k with
            seqState := .loading,
            loading := some (if (s.rx a).getLsbD 16 then none else some ((s.rx a).toNat % 2 ^ 16), true, s.cycle) })).modMe (fun c =>
              { c with sync := some { word := s.iss.word, since := s.cycle, notified := none } })).hold)) ∧
        (∀ w l, s.me.sync = some w → (s.die v.die).loading = some l → l.2.2 = w.since → exec (.cfgNext p a) s = .next s.hold) ∧
        (∀ w, s.me.sync = some w → (∀ l, (s.die v.die).loading = some l → l.2.2 ≠ w.since) →
          exec (.cfgNext p a) s = .next ((s.enter p { xr := [a] }).modMe (fun c => { c with sync := none }))) ∧
        (s.me.sync = none → (s.die v.die).switching = true →
          exec (.cfgNext p a) s = .next ((s.enter p { xr := [a] }).modDie v.die (fun k => { k with status := 0 })))))

/-! ## Packets -/

/-- R71, R74–R76: `TAKE` returns the address and the first word of a port's first packet and takes it where it is data; `PEEK`
reads a packet's address, a port's count, its credits or its status; `WTAG` waits for its tag and consumes it; `END` begins the
end of the firing. A port that is not declared is an illegal operand type. That `xh` holds the first word as it arrived, at a marker
whose header the program has overwritten too, is the model's choice (log 59). -/
def Obligations.PacketReads : Prop :=
  ∀ (s : State) (p tag : BitVec 4) (d h a : BitVec 6) (n : BitVec 3) (i : SlotId), s.cur = .stage i →
    (∀ q, tfind (s.slot i).ins n.toNat = some q →
      (s.free 0 p { xw := [d, h] } = true →
        (∀ b r, q.untaken = b :: r → ∃ t q', exec (.take p d h n) s = .next t ∧
          Yields s t [.x d (BitVec.ofNat 64 b.addr), .x h b.word0] 0 ∧
          tfind (t.slot i).ins n.toNat = some q' ∧ q'.untaken = (if b.kind.toNat < 2 then r else b :: r) ∧
          q'.chans = q.chans ∧ q'.held = q.held ∧ (∀ m, m ≠ n.toNat → tfind (t.slot i).ins m = tfind (s.slot i).ins m) ∧
          (t.slot i).outs = (s.slot i).outs ∧ (∀ j, j ≠ i → t.slot j = s.slot j) ∧ Kept s { t with slots := s.slots }) ∧
        (q.untaken = [] → exec (.take p d h n) s = .next s.hold)) ∧
      (s.free 0 p { xr := [a], xw := [d] } = true →
        Writes (.peek p d a n 0) s
          [.x d (((q.untaken[(s.rx a).toNat]?).map (fun b => BitVec.ofNat 64 b.addr)).getD (BitVec.allOnes 64))] 0) ∧
      (s.free 0 p { xw := [d] } = true →
        Writes (.peek p d a n 1) s [.x d (BitVec.ofNat 64 q.pending.length)] 0 ∧
        Writes (.peek p d a n 3) s [.x d q.status] 0)) ∧
    (∀ o, tfind (s.slot i).outs n.toNat = some o → s.free 0 p { xw := [d] } = true →
      Writes (.peek p d a n 2) s [.x d (BitVec.ofNat 64 o.credits)] 0) ∧
    (tfind (s.slot i).ins n.toNat = none → exec (.take p d h n) s = .next (s.raise 1 0x02 s.sylValue)) ∧
    (s.free 0 p {} = true →
      (s.me.tags.ready.getLsbD tag.toNat = true → exec (.wtag p tag) s = .next ((s.enter p {}).consumeTag s.cur tag.toNat)) ∧
      (s.me.tags.ready.getLsbD tag.toNat = false → exec (.wtag p tag) s = .next s.hold) ∧
      exec (.endFiring p) s = .next ((s.enter p {}).modSlot i (fun v =>
        { v with ending := some { began := s.cycle, markersSent := false, kill := false } })))

/-- R50, R57, R72, R73: `EMIT` sends a packet with the payload that follows the header image at xa, and returns its number;
an image that is not aligned raises misaligned access, and one that leaves the scratchpad, or whose payload is longer than the port's
packets, raises bounds with xa. `MARK` sends a ROUND or EOS marker on one port or on all; both wait where a port holds no credit. An `EMIT` behind a local access that
waits for a bank waits with it (R173). A packet is held in its buffer of the retention area (R432); where that buffer lies is the
model's choice (log 70). -/
def Obligations.PacketSends : Prop :=
  ∀ (s : State) (p : BitVec 4) (d a : BitVec 6) (n : BitVec 3) (k w l e : BitVec 1) (i : SlotId), s.cur = .stage i →
    (∀ o, tfind (s.slot i).outs n.toNat = some o → s.free 0 p { xr := [a], xw := [d] } = true →
      ∀ xa len, xa = (s.rx a).toNat → len = bitsAt (memNat s.bundleMem xa 8) 12 13 →
      (xa % 16 ≠ 0 → exec (.emit p d a n k w) s = .next (s.raise 2 0x10 (BitVec.ofNat 64 (xa % 2 ^ 61)))) ∧
      (xa % 16 = 0 → 2 ^ 21 < xa + 32 ∨ 4096 < len ∨ o.size < len ∨ 2 ^ 21 < xa + 32 + len →
        exec (.emit p d a n k w) s = .next (s.raise 2 0x04 (BitVec.ofNat 64 (xa % 2 ^ 61)))) ∧
      (xa % 16 = 0 → xa + 32 + len ≤ 2 ^ 21 → len ≤ 4096 → len ≤ o.size → s.portHeld 2 = false →
        (o.credits = 0 → exec (.emit p d a n k w) s = .next s.hold) ∧
        (1 ≤ o.credits → s.drainsOn i n.toNat = false →
          ∃ t o' pk, exec (.emit p d a n k w) s = .next t ∧ tfind (t.slot i).outs n.toNat = some o' ∧ Sent o o' pk ∧
            pk.kind = w.toNat ∧ pk.len = len ∧ pk.payload = memRead s.bundleMem (xa + 32) len ∧
            pk.w3 = BitVec.ofNat 64 (memNat s.bundleMem (xa + 24) 8) ∧
            (t.slot i).emissions.map (fun x => (x.id, x.port, x.pkt, x.copy)) =
              (s.slot i).emissions.map (fun x => (x.id, x.port, x.pkt, x.copy)) ++ [(s.uid, n.toNat, pk, true)] ∧
            (∀ m, m ≠ n.toNat → tfind (t.slot i).outs m = tfind (s.slot i).outs m) ∧ (t.slot i).ins = (s.slot i).ins ∧
            Yields s t [.x d (o.nextSeq.setWidth 64)] 0 ∧
            SameBut s t i.core.die [(s.retentionBuf i n.toNat o.nextSeq, 32 + len)] ∧ (∀ j, j ≠ i → t.slot j = s.slot j) ∧ (∀ b, b ≠ s.cur → t.ctx b = s.ctx b)))) ∧
    (s.free 0 p {} = true → (l = 0 → (tfind (s.slot i).outs n.toNat).isSome) →
      (∀ m o, m < 8 → tfind (s.slot i).outs m = some o → (l = 1 ∨ m = n.toNat) → 1 ≤ o.credits ∧ s.drainsOn i m = false) →
      ∃ t, exec (.mark p n l e) s = .next t ∧ (t.ctx s.cur).visible = s.me.visible ∧
        SameBut s t i.core.die ((s.slot i).outs.map (fun o => (s.retentionBuf i o.1 o.2.nextSeq, 32))) ∧
        (t.slot i).ins = (s.slot i).ins ∧ (∀ j, j ≠ i → t.slot j = s.slot j) ∧ (∀ b, b ≠ s.cur → t.ctx b = s.ctx b) ∧
        (∀ m o, m < 8 → tfind (s.slot i).outs m = some o →
          ((l = 1 ∨ m = n.toNat) → ∃ o' pk, tfind (t.slot i).outs m = some o' ∧ Sent o o' pk ∧ pk.payload = [] ∧
            pk.kind = (if e = 1 then 2 else 3) ∧ (if e = 1 then o'.sentEos = true else o'.sentRound = true)) ∧
          (¬ (l = 1 ∨ m = n.toNat) → tfind (t.slot i).outs m = some o)))

/-! ## Local memory -/

/-- Whether a local access that issues now has its banks at once: they serve no other agent, and no earlier access of the firing and no
acquire has still to be completed (R173, R288). -/
def portGoes (s : State) (addr n : Nat) : Bool :=
  s.portTurn s.cur addr n && !s.behindAcquire s.cur s.uid && !s.accessBefore s.cur s.uid

/-- R173, R178, R179, R21: the loads from the local scratchpad. At an aligned address inside it, with no wait and no erroneous word, in a
cycle in which its banks serve the memory port, they write the bytes that stand there, zero-extended, or sign-extended for `LDS.L`;
`LD.LF` needs its granule full, and `LD.LFC` leaves it empty, once the core's earlier stores are written (R181). Where its banks serve
another agent, `LD.L` issues, and its access is made in a later cycle. -/
def Obligations.LocalLoads : Prop :=
  ∀ (s : State) (p : BitVec 4) (d a : BitVec 6) (v : BitVec 5) (z : BitVec 2) (i : Opnd 4),
    (s.free 2 p { xr := [a], xw := [d] } = true → ∀ n A, n = 2 ^ z.toNat → A = addrOf (s.rx a) n i →
      A % n = 0 → 0 ≤ A → A + n ≤ localSize s.cur → s.portBusy = false → s.arTouches A n = false →
      (portGoes s A.toNat n = false → ∃ t, exec (.ldL p d a z i) s = .next t ∧ (t.ctx s.cur).visible = s.me.visible ∧
        (∃ f, (t.ctx s.cur).flights = s.me.flights ++ [f] ∧ f.id = s.uid ∧ f.writes = [] ∧
          f.access = some { addr := A.toNat, len := n, dest := .x d n false, lat := 3, amo := none }) ∧
        { cycle := s.cycle + 1, pri := priPort, ev := .localLoadLand s.cur s.uid } ∈ t.agenda ∧ Kept s t) ∧
      (portGoes s A.toNat n = true → s.clean s.cur A.toNat n = true → ∀ bs, bs = memRead (s.localView s.cur s.uid) A.toNat n →
      Writes (.ldL p d a z i) s [.x d (BitVec.ofNat 64 (leNat bs))] 0 ∧
      Writes (.ldsL p d a z i) s [.x d (BitVec.ofInt 64 (signedOf (8 * n) (leNat bs)))] 0 ∧
      (A.toNat / 16 ∉ s.localEmpties s.cur →
        Writes (.ldLf p d a z i) s [.x d (BitVec.ofNat 64 (leNat bs))] 0 ∧
        (s.pendingStores s.cur = [] →
          ∃ t, exec (.ldLfc p d a z i) s = .next t ∧ Yields s t [.x d (BitVec.ofNat 64 (leNat bs))] 0 ∧
            (∀ g, g ∈ t.empties s.cur ↔ g = A.toNat / 16 ∨ g ∈ s.empties s.cur) ∧ SameBytes s t ∧
            Kept s { t with cores := s.cores, sups := s.sups })) ∧
      (A.toNat / 16 ∈ s.localEmpties s.cur →
        exec (.ldLf p d a z i) s = .next s.hold ∧
        (s.pendingStores s.cur = [] → exec (.ldLfc p d a z i) s = .next s.hold)))) ∧
    (∀ r, r = physOf s.me.cr.vrb v → s.free 2 p { xr := [a], vw := [r] } = true → ∀ A, A = addrOf (s.rx a) 128 i →
      A % 16 = 0 → 0 ≤ A → A + 128 ≤ localSize s.cur → s.portBusy = false → s.arTouches A 128 = false →
      portGoes s A.toNat 128 = true → s.clean s.cur A.toNat 128 = true →
      Writes (.vldL p v a i) s [.v r (bytesVec (memRead (s.localView s.cur s.uid) A.toNat 128))] 0)

/-- R178, R179, R181: the stores to the local scratchpad. They put the low bytes of the register, least significant first, at the
address; `ST.LF` sets the granule full as it is written; `ST.LE` needs it empty, writes the bank at once where it serves the memory port,
and leaves it full; it waits until the core's earlier stores are written, so that no other agent sees it before them. -/
def Obligations.LocalStores : Prop :=
  ∀ (s : State) (p : BitVec 4) (d a : BitVec 6) (v : BitVec 5) (z : BitVec 2) (i : Opnd 4),
    (s.free 2 p { xr := [d, a], localWrite := true } = true → ∀ n A, n = 2 ^ z.toNat → A = addrOf (s.rx a) n i →
      A % n = 0 → 0 ≤ A → A + n ≤ localSize s.cur → s.portBusy = false → s.arTouches A n = false →
      ∀ data, data = leBytes n (s.rx d).toNat →
      Stores (.stL p d a z i) s A.toNat data false ∧ Stores (.stLf p d a z i) s A.toNat data true ∧
      (s.pendingStores s.cur ≠ [] → exec (.stLe p d a z i) s = .next s.stall) ∧
      (portGoes s A.toNat n = true → s.pendingStores s.cur = [] → A.toNat / 16 ∉ s.empties s.cur →
        exec (.stLe p d a z i) s = .next s.hold) ∧
      (portGoes s A.toNat n = true → s.pendingStores s.cur = [] → A.toNat / 16 ∈ s.empties s.cur → s.clean s.cur A.toNat n = true →
        ∃ t, exec (.stLe p d a z i) s = .next t ∧ (t.ctx s.cur).visible = s.me.visible ∧
          (∀ x, memByte (t.banks s.cur) x =
            if A.toNat ≤ x ∧ x < A.toNat + n then data.getD (x - A.toNat) 0 else memByte (s.banks s.cur) x) ∧
          (∀ g, g ∈ t.empties s.cur ↔ g ≠ A.toNat / 16 ∧ g ∈ s.empties s.cur) ∧
          t.pendingStores s.cur = s.pendingStores s.cur ∧ Kept s { t with cores := s.cores, sups := s.sups })) ∧
    (∀ r, r = physOf s.me.cr.vrb v → s.free 2 p { xr := [a], vr := [r], localWrite := true } = true →
      ∀ A, A = addrOf (s.rx a) 128 i → A % 16 = 0 → 0 ≤ A → A + 128 ≤ localSize s.cur → s.portBusy = false →
      s.arTouches A 128 = false → Stores (.vstL p v a i) s A.toNat (vecBytes (s.rv v)) false)

/-- R21, R180: `AMO.L` on a word or a doubleword reads the old value, writes the operation's result in its place, and returns the old
value, a word sign-extended; `FADD` (operation 9) adds as FP32, sets its flags, and returns a word zero-extended. While a bank serves
another agent, or an earlier store of the core is not written (R181), it waits in the port. -/
def Obligations.LocalAtomics : Prop :=
  ∀ (s : State) (p : BitVec 4) (d a : BitVec 6) (o : BitVec 4) (z : BitVec 2),
    s.free 2 p { xr := [d, a], xw := [d], localWrite := true } = true → 2 ≤ z.toNat → o.toNat ≤ 9 → (o = 9 → z = 2 ∧ s.me.cr.det = false) →
    ∀ n A, n = 2 ^ z.toNat → A = (s.rx a).toNat → A % n = 0 → A + n ≤ localSize s.cur → s.portBusy = false →
    s.arTouches A n = false →
    (portGoes s A n = false ∨ (∃ st ∈ s.pendingStores s.cur, st.id < s.uid) →
      ∃ t, exec (.amoL p d a o z) s = .next t ∧ (t.ctx s.cur).visible = s.me.visible ∧
        (∃ f, (t.ctx s.cur).flights = s.me.flights ++ [f] ∧ f.id = s.uid ∧ f.writes = [] ∧
          f.access = some { addr := A, len := n, dest := .x d n (n = 4 && o ≠ 9), lat := 4, amo := some (o, s.rx d) }) ∧
        { cycle := s.cycle + 1, pri := priPort, ev := .localLoadLand s.cur s.uid } ∈ t.agenda ∧ Kept s t) ∧
    (portGoes s A n = true → s.pendingStores s.cur = [] → s.clean s.cur A n = true →
    ∀ old x new, old = memNat (s.banks s.cur) A n → x = (s.rx d).toNat % 2 ^ (8 * n) →
      (o = 0 → new = (old + x) % 2 ^ (8 * n)) → (o = 1 → new = if signedOf (8 * n) x < signedOf (8 * n) old then x else old) →
      (o = 2 → new = if signedOf (8 * n) old < signedOf (8 * n) x then x else old) → (o = 3 → new = min old x) →
      (o = 4 → new = max old x) → (o = 5 → new = old &&& x) → (o = 6 → new = old ||| x) → (o = 7 → new = old ^^^ x) →
      (o = 8 → new = x) → (o = 9 → new = (fAdd fp32 old x).1) →
      ∃ t, exec (.amoL p d a o z) s = .next t ∧
        Yields s t [.x d (if n = 4 ∧ o ≠ 9 then BitVec.ofInt 64 (signedOf 32 old) else BitVec.ofNat 64 old)]
          (if o = 9 then (fAdd fp32 old x).2 else 0) ∧
        (∀ y, memByte (t.localMem s.cur) y =
          if A ≤ y ∧ y < A + n then (leBytes n new).getD (y - A) 0 else memByte (s.localMem s.cur) y) ∧
        t.empties s.cur = s.empties s.cur ∧ t.pendingStores s.cur = s.pendingStores s.cur ∧
        Kept s { t with cores := s.cores, sups := s.sups })

/-- A form of an access to the local scratchpad, free to act: the address, the length and the alignment of its access (R177). -/
def localForm (s : State) (p : BitVec 4) (d a : BitVec 6) (v : BitVec 5) (z : BitVec 2) (i : Opnd 4) (o : BitVec 4) (f : Instr)
    (A : Int) (n al : Nat) : Prop :=
  (n = 2 ^ z.toNat ∧ al = n ∧ A = addrOf (s.rx a) n i ∧
    (s.free 2 p { xr := [a], xw := [d] } = true ∧ f ∈ [Instr.ldL p d a z i, .ldsL p d a z i, .ldLf p d a z i, .ldLfc p d a z i] ∨
      s.free 2 p { xr := [d, a], localWrite := true } = true ∧ f ∈ [Instr.stL p d a z i, .stLf p d a z i, .stLe p d a z i])) ∨
  (n = 128 ∧ al = 16 ∧ A = addrOf (s.rx a) 128 i ∧
    (s.free 2 p { xr := [a], vw := [physOf s.me.cr.vrb v] } = true ∧ f = .vldL p v a i ∨
      s.free 2 p { xr := [a], vr := [physOf s.me.cr.vrb v], localWrite := true } = true ∧ f = .vstL p v a i)) ∨
  (n = 2 ^ z.toNat ∧ al = n ∧ A = (s.rx a).toNat ∧ s.free 2 p { xr := [d, a], xw := [d], localWrite := true } = true ∧
    f = .amoL p d a o z)

/-- R177, R180, R220: a local access that is not aligned raises misaligned access, and else one that leaves the scratchpad raises
bounds, with the class 2 and the first byte outside; `FADD` in deterministic mode is an indeterminate operation. -/
def Obligations.LocalTraps : Prop :=
  ∀ (s : State) (p : BitVec 4) (d a : BitVec 6) (v : BitVec 5) (z : BitVec 2) (i : Opnd 4) (o : BitVec 4),
    (∀ f A n al, localForm s p d a v z i o f A n al →
      (A % al ≠ 0 → exec f s = .next (s.raise 2 0x10 (addrValue 2 A))) ∧
      (A % al = 0 → A < 0 ∨ localSize s.cur ≤ A → exec f s = .next (s.raise 2 0x04 (addrValue 2 A))) ∧
      (A % al = 0 → 0 ≤ A → A < localSize s.cur → localSize s.cur < A + n →
        exec f s = .next (s.raise 2 0x04 (addrValue 2 (localSize s.cur))))) ∧
    (s.free 2 p { xr := [d, a], xw := [d], localWrite := true } = true →
      (s.rx a).toNat % 4 = 0 → (s.rx a).toNat + 4 ≤ localSize s.cur → s.me.cr.det = true →
        exec (.amoL p d a 9 2) s = .next (s.raise 2 0x12 s.sylValue))

/-! ## Cluster, gallery and fabric -/

/-- R233–R236, R238: a cluster-space access at an aligned address of a core of the reach set, inside its scratchpad, sends one request
to that core: a load that reads the banks at the end of the ninth cycle and lands in the tenth (a vector's, in the eleventh and the
twelfth), a store that is performed 8 cycles later. The cycle of the read is the model's choice (log 10). -/
def Obligations.ClusterRequests : Prop :=
  ∀ (s : State) (p : BitVec 4) (d a : BitVec 6) (v : BitVec 5) (z : BitVec 2) (i : Opnd 4) (j : SlotId), s.cur = .stage j →
    ∀ n A, (n = 2 ^ z.toNat ∨ n = 128) → A = addrOf (s.rx a) n i → 0 ≤ A → A < 2 ^ 28 → A / 2 ^ 21 < 96 →
    (s.core j.core).reach.getLsbD (A.toNat / 2 ^ 21) = true → A % 2 ^ 21 + n ≤ 2 ^ 21 →
    ∀ pl, pl = { home := .core { j.core with core := A.toNat / 2 ^ 21 }, addr := A.toNat % 2 ^ 21, len := n } →
    (n = 2 ^ z.toNat → A % n = 0 →
      (s.free 2 p { xr := [a], xw := [d] } = true →
        Asks (.ldC p d a z i) s 1 A.toNat pl .load (.x d n false) 1
          [{ cycle := s.cycle + 9, pri := priLate, ev := .clusterLoadLand s.uid }] ∧
        Asks (.ldsC p d a z i) s 1 A.toNat pl .load (.x d n true) 1
          [{ cycle := s.cycle + 9, pri := priLate, ev := .clusterLoadLand s.uid }]) ∧
      (s.free 2 p { xr := [d, a] } = true →
        Asks (.stC p d a z i) s 1 A.toNat pl (.store (leBytes n (s.rx d).toNat)) .none 1
          [{ cycle := s.cycle + 8, pri := priLate, ev := .clusterStorePerformed s.uid }])) ∧
    (n = 128 → A % 16 = 0 → ∀ r, r = physOf s.me.cr.vrb v →
      (s.free 2 p { xr := [a], vw := [r] } = true →
        Asks (.vldC p v a i) s 1 A.toNat pl .load (.v r) 1
          [{ cycle := s.cycle + 11, pri := priLate, ev := .clusterLoadLand s.uid }]) ∧
      (s.free 2 p { xr := [a], vr := [r] } = true →
        Asks (.vstC p v a i) s 1 A.toNat pl (.store (vecBytes (s.rv v))) .none 1
          [{ cycle := s.cycle + 8, pri := priLate, ev := .clusterStorePerformed s.uid }]))

/-- R239–R242, R288, R290: `MCST` through a valid window that the core owns fixes one landing, no earlier than 16 cycles later, of the vector's
bytes at the window's local address plus the offset, in the window's targets; a window that has stopped holds its sender. Behind an acquire
that is held, and behind an earlier load of the firing that has still to read what it writes, it waits (R288, R290; log 46). -/
def Obligations.MulticastStore : Prop :=
  ∀ (s : State) (p : BitVec 4) (v : BitVec 5) (a : BitVec 6) (i : Opnd 4) (j : SlotId), s.cur = .stage j →
    s.free 2 p { xr := [a], vr := [physOf s.me.cr.vrb v] } = true →
    ∀ A w, A = addrOf (s.rx a) 128 i → A % 16 = 0 → 0 ≤ A → A < 2 ^ 25 →
    (s.clu (cluOf j.core)).windows[A.toNat / 2 ^ 21]? = some w → w.w0.getLsbD 63 = true → wbits w.w0 48 7 = j.core.core →
    A.toNat % 2 ^ 21 + 128 ≤ wbits w.w0 21 15 * 128 →
    (A.toNat / 2 ^ 21 ∈ (s.clu (cluOf j.core)).windowsBad → exec (.mcst p v a i) s = .next s.hold) ∧
    (A.toNat / 2 ^ 21 ∉ (s.clu (cluOf j.core)).windowsBad → s.mcstWaits A = true → exec (.mcst p v a i) s = .next s.stall) ∧
    (A.toNat / 2 ^ 21 ∉ (s.clu (cluOf j.core)).windowsBad → s.mcstWaits A = false → ∃ t l, exec (.mcst p v a i) s = .next t ∧
      (t.clu (cluOf j.core)).landings = (s.clu (cluOf j.core)).landings ++ [l] ∧ l.id = s.uid ∧ l.sender = j ∧
      s.cycle + 16 ≤ l.cycle ∧ l.addr = wbits w.w0 7 14 * 128 + A.toNat % 2 ^ 21 ∧ l.data = vecBytes (s.rv v) ∧
      (∀ n < 64, n ∈ l.targets ↔ w.w1.getLsbD n = true) ∧
      (∀ n, 64 ≤ n → n < 96 → (n ∈ l.targets ↔ w.w2.getLsbD (n - 64) = true)) ∧
      { cycle := l.cycle, pri := priMulticast, ev := .multicastLanding s.uid } ∈ t.agenda ∧
      (t.ctx s.cur).visible = s.me.visible ∧ Kept s { t with clus := s.clus })

/-- R274, R278–R282, R286, R340: a gallery access at an aligned address of the stage window sends one request to the own die's gallery,
with the scope die, or system on a line that the host has read: a load lands 24 cycles later (28 for a vector), a store is performed 20 cycles later, an atomic or `CAS.G` 22 cycles later. A supervisor
core's doubleword access to a register of the control space takes 16 and 12 cycles. -/
def Obligations.GalleryRequests : Prop :=
  ∀ (s : State) (p : BitVec 4) (d a b : BitVec 6) (v : BitVec 5) (z : BitVec 2) (i : Opnd 4) (o : BitVec 4),
    (∀ n A, (n = 2 ^ z.toNat ∨ n = 128) → A = addrOf (s.rx a) n i → A < ctlLo → (s.window s.cur).1 ≤ A →
      A + n ≤ (s.window s.cur).2 → ∀ pl, pl = { home := .die (dieOf s.cur), addr := A.toNat, len := n } →
      ∀ sc, sc = (if s.hostReads (dieOf s.cur) A.toNat n then 5 else 2) →
      (n = 2 ^ z.toNat → A % n = 0 →
        (s.free 2 p { xr := [a], xw := [d] } = true →
          Asks (.ldG p d a z i) s 2 A.toNat pl .load (.x d n false) sc
            [{ cycle := s.cycle + 24, pri := priMem, ev := .galleryLoadLand s.uid }] ∧
          Asks (.ldsG p d a z i) s 2 A.toNat pl .load (.x d n true) sc
            [{ cycle := s.cycle + 24, pri := priMem, ev := .galleryLoadLand s.uid }]) ∧
        (s.free 2 p { xr := [d, a] } = true →
          Asks (.stG p d a z i) s 2 A.toNat pl (.store (leBytes n (s.rx d).toNat)) .none sc
            [{ cycle := s.cycle + 20, pri := priLate, ev := .galleryStorePerformed s.uid }])) ∧
      (n = 128 → A % 16 = 0 → ∀ r, r = physOf s.me.cr.vrb v →
        (s.free 2 p { xr := [a], vw := [r] } = true →
          Asks (.vldG p v a i) s 2 A.toNat pl .load (.v r) sc
            [{ cycle := s.cycle + 28, pri := priMem, ev := .galleryLoadLand s.uid }]) ∧
        (s.free 2 p { xr := [a], vr := [r] } = true →
          Asks (.vstG p v a i) s 2 A.toNat pl (.store (vecBytes (s.rv v))) .none sc
            [{ cycle := s.cycle + 20, pri := priLate, ev := .galleryStorePerformed s.uid }]))) ∧
    (∀ n A, n = 2 ^ z.toNat → A = (s.rx a).toNat → A < ctlLo → (s.window s.cur).1 ≤ A → A + n ≤ (s.window s.cur).2 → A % n = 0 →
      (o = 9 → s.me.cr.det = false) → ∀ pl, pl = { home := .die (dieOf s.cur), addr := A, len := n } →
      ∀ sc, sc = (if s.hostReads (dieOf s.cur) A n then 5 else 2) →
      (s.free 2 p { xr := [d, a], xw := [d] } = true →
        Asks (.amoG p d a o z) s 2 A pl (.amo o (s.rx d)) (.x d n (n = 4 && o ≠ 9)) sc
          [{ cycle := s.cycle + 22, pri := priLate, ev := .homePortAtomic s.uid }]) ∧
      (z = 3 → s.free 2 p { xr := [d, a, b], xw := [d] } = true →
        Asks (.casG p d a b) s 2 A pl (.cas (s.rx d) (s.rx b)) (.x d 8 false) sc
          [{ cycle := s.cycle + 22, pri := priLate, ev := .homePortAtomic s.uid }])) ∧
    (∀ k A, s.cur = .sup k → A = addrOf (s.rx a) 8 i → A % 8 = 0 → ctlLo ≤ A → A < ctlHi →
      (s.ctlReg k.die A.toNat).isSome = true →
      ∀ pl, pl = { home := .ctrl k.die, addr := A.toNat, len := 8 } →
      (s.free 2 p { xr := [a], xw := [d] } = true → Asks (.ldG p d a 3 i) s 4 A.toNat pl .load (.x d 8 false) 2
        [{ cycle := s.cycle + 16, pri := priMem, ev := .galleryLoadLand s.uid }]) ∧
      (s.free 2 p { xr := [d, a] } = true → Asks (.stG p d a 3 i) s 4 A.toNat pl (.store (leBytes 8 (s.rx d).toNat)) .none 2
        [{ cycle := s.cycle + 12, pri := priLate, ev := .galleryStorePerformed s.uid }]))

/-- A fabric request is sent (R379, R413, R418, R423): over a route that takes `h` cycles one way it has its event `base` cycles and `trips`
times the route from now, but not before the host's accesses that its landing has sent on the same way; where a link of the route is not UP it waits; where no entry stands on its way it is rejected, and the cause
0x05 with reason 6 comes back. -/
def FabricAsks (i : Instr) (s : State) (virt : Nat) (place : Piece) (op : ReqOp) (dest : Dest) (scope base trips pri : Nat)
    (ev : Event) : Prop :=
  match s.route (dieOf s.cur) (s.homeDie place.home) with
  | .cost h => Asks i s 3 virt place op dest scope [{ cycle := max (s.cycle + base + trips * h) (s.hostBefore 1 (dieOf s.cur) (s.homeDie place.home)),
                                                       pri := pri, ev := ev }]
  | .wait => Asks i s 3 virt place op dest scope []
  | .none => ∃ t, exec i s = .next t ∧ { cycle := s.cycle + base, pri := pri, ev := .fabricReject s.uid } ∈ t.agenda ∧
      t.reqs.length = s.reqs.length + 1 ∧
      t.reqs.getLast? = some { id := s.uid, own := s.cur, firing := s.me.firing, virt := virt, space := 3, place := place, op := op,
                               dest := dest, scope := scope, performed := false, value := [], flags := 0, failed := some (0x05, fabricValue 6 virt) } ∧
      (t.ctx s.cur).visible = s.me.visible ∧ Kept s { t with reqs := s.reqs }

/-- A fabric load is sent: it takes 40 cycles and the route both ways, or 28 cycles where the die's remote cache holds its lines (R423);
of a scratchpad the banks are read at the end of the cycle before (log 10). -/
def FabricLoads (i : Instr) (s : State) (A : Int) (place : Piece) (dest : Dest) (scope : Nat) : Prop :=
  ∀ back pri, back = (if place.home.isCore then 1 else 0) → pri = (if place.home.isCore then priLate else priMem) →
    if s.cacheable A && s.cacheHit (dieOf s.cur) place then
      Asks i s 3 A.toNat place .load dest scope [{ cycle := s.cycle + (28 - back), pri := pri, ev := .fabricLoadLand s.uid }]
    else FabricAsks i s A.toNat place .load dest scope (40 - back) 2 pri (.fabricLoadLand s.uid)

/-- R362, R363, R421–R423: a fabric access whose page translates to an entry that admits it, of a package of the partition, sends one
request to the place that the entry gives, which reaches it, and for a load returns, after the times of R423. While the page's walk is
not done the bundle waits. The cycle in which a scratchpad is read (log 10), the capacity of the remote cache (log 53) and the time at
which an atomic reaches its home (log 23) are the model's choices. -/
def Obligations.FabricRequests : Prop :=
  ∀ (s : State) (p : BitVec 4) (d a b : BitVec 6) (v : BitVec 5) (z : BitVec 2) (i : Opnd 4) (o : BitVec 4) (e : Word),
    (∀ n A, (n = 2 ^ z.toNat ∨ n = 128) → A = addrOf (s.rx a) n i → A % 2 ^ 21 + n ≤ 2 ^ 21 → s.translate A = some (.ok e) →
      (s.pkg (dieOf s.cur).pkg).member (wbits e 24 14) = true → ∀ pl, pl = s.fabricPlace A n →
      ∀ sc, sc = s.scopeOf (dieOf s.cur) pl →
      (n = 2 ^ z.toNat → A % n = 0 →
        (s.entryFault (dieOf s.cur) e .load = none → s.free 2 p { xr := [a], xw := [d] } = true →
          FabricLoads (.ldN p d a z i) s A pl (.x d n false) sc ∧ FabricLoads (.ldsN p d a z i) s A pl (.x d n true) sc) ∧
        (s.entryFault (dieOf s.cur) e .store = none → s.free 2 p { xr := [d, a] } = true →
          FabricAsks (.stN p d a z i) s A.toNat pl (.store (leBytes n (s.rx d).toNat)) .none sc 30 1 priLate
            (.fabricStorePerformed s.uid))) ∧
      (n = 128 → A % 16 = 0 → ∀ r, r = physOf s.me.cr.vrb v →
        (s.entryFault (dieOf s.cur) e .load = none → s.free 2 p { xr := [a], vw := [r] } = true →
          FabricLoads (.vldN p v a i) s A pl (.v r) sc) ∧
        (s.entryFault (dieOf s.cur) e .store = none → s.free 2 p { xr := [a], vr := [r] } = true →
          FabricAsks (.vstN p v a i) s A.toNat pl (.store (vecBytes (s.rv v))) .none sc 30 1 priLate (.fabricStorePerformed s.uid)))) ∧
    (∀ n A, n = 2 ^ z.toNat → A = (s.rx a).toNat → A % n = 0 → s.translate A = some (.ok e) →
      (s.pkg (dieOf s.cur).pkg).member (wbits e 24 14) = true → s.entryFault (dieOf s.cur) e .atomic = none →
      ∀ pl, pl = s.fabricPlace A n → ∀ sc, sc = s.scopeOf (dieOf s.cur) pl →
      ((o = 9 → s.me.cr.det = false) → s.free 2 p { xr := [d, a], xw := [d] } = true →
        FabricAsks (.amoN p d a o z) s A pl (.amo o (s.rx d)) (.x d n (n = 4 && o ≠ 9)) sc 30 1 priLate (.homePortAtomic s.uid)) ∧
      (z = 3 → s.free 2 p { xr := [d, a, b], xw := [d] } = true →
        FabricAsks (.casN p d a b) s A pl (.cas (s.rx d) (s.rx b)) (.x d 8 false) sc 30 1 priLate (.homePortAtomic s.uid))) ∧
    (∀ A, A = addrOf (s.rx a) 8 i → A % 8 = 0 → A % 2 ^ 21 + 8 ≤ 2 ^ 21 → s.translate A = none →
      s.free 2 p { xr := [a], xw := [d] } = true → exec (.ldN p d a 3 i) s = .next (s.beginWalk A).hold)

/-- A form of an access beyond the local scratchpad, free to act: its space (1 cluster, 2 gallery, 3 fabric), the address, the length and the alignment of its access,
what it does there, and whether the control space admits it (R238, R278, R281, R282, R340, R422). -/
def farForm (s : State) (p : BitVec 4) (d a b : BitVec 6) (v : BitVec 5) (z : BitVec 2) (i : Opnd 4) (o : BitVec 4) (sp : Nat)
    (f : Instr) (A : Int) (n al : Nat) (use : PageUse) (ctl : Bool) : Prop :=
  (n = 2 ^ z.toNat ∧ al = n ∧ A = addrOf (s.rx a) n i ∧ use = .load ∧ s.free 2 p { xr := [a], xw := [d] } = true ∧
    (sp = 1 ∧ f ∈ [Instr.ldC p d a z i, .ldsC p d a z i] ∨ sp = 2 ∧ f = .ldG p d a z i ∧ ctl = decide (z = 3) ∨
      sp = 2 ∧ f = .ldsG p d a z i ∧ ctl = false ∨ sp = 3 ∧ f ∈ [Instr.ldN p d a z i, .ldsN p d a z i])) ∨
  (n = 2 ^ z.toNat ∧ al = n ∧ A = addrOf (s.rx a) n i ∧ use = .store ∧ s.free 2 p { xr := [d, a] } = true ∧
    (sp = 1 ∧ f = .stC p d a z i ∨ sp = 2 ∧ f = .stG p d a z i ∧ ctl = decide (z = 3) ∨
      sp = 3 ∧ f = .stN p d a z i)) ∨
  (n = 128 ∧ al = 16 ∧ A = addrOf (s.rx a) 128 i ∧ use = .load ∧ s.free 2 p { xr := [a], vw := [physOf s.me.cr.vrb v] } = true ∧
    (sp = 1 ∧ f = .vldC p v a i ∨ sp = 2 ∧ f = .vldG p v a i ∧ ctl = false ∨ sp = 3 ∧ f = .vldN p v a i)) ∨
  (n = 128 ∧ al = 16 ∧ A = addrOf (s.rx a) 128 i ∧ use = .store ∧ s.free 2 p { xr := [a], vr := [physOf s.me.cr.vrb v] } = true ∧
    (sp = 1 ∧ f = .vstC p v a i ∨ sp = 2 ∧ f = .vstG p v a i ∧ ctl = false ∨ sp = 3 ∧ f = .vstN p v a i)) ∨
  (n = 2 ^ z.toNat ∧ al = n ∧ A = (s.rx a).toNat ∧ use = .atomic ∧ s.free 2 p { xr := [d, a], xw := [d] } = true ∧
    (sp = 2 ∧ f = .amoG p d a o z ∧ ctl = false ∨ sp = 3 ∧ f = .amoN p d a o z)) ∨
  (n = 8 ∧ al = 8 ∧ A = (s.rx a).toNat ∧ use = .atomic ∧ s.free 2 p { xr := [d, a, b], xw := [d] } = true ∧
    (sp = 2 ∧ f = .casG p d a b ∧ ctl = false ∨ sp = 3 ∧ f = .casN p d a b))

/-- R220, R234, R238, R241, R274, R278, R281, R282, R340, R362, R363, R422: where accesses beyond the scratchpad trap: a misaligned one
first, or in fabric space one across a page; a cluster access outside the reach set or behind the target's scratchpad; a gallery access
outside the stage window, and of a supervisor core behind the control space or before the gallery; in the control space any but a
doubleword `LD.G` or `ST.G`, and an address without a register (one that runs from the gallery into the control space raises bounds there
by the model's choice, log 105); a fabric address of more than 57 bits (reason 1), without a root (2), of a page that admits no write (5), of a place that does not exist (6); a
page of a package outside the partition; `MCST` outside its window, or through one that is not valid or not the core's; and `FADD` in
deterministic mode. -/
def Obligations.AccessTraps : Prop :=
  ∀ (s : State) (p : BitVec 4) (d a b : BitVec 6) (v : BitVec 5) (z : BitVec 2) (i : Opnd 4) (o : BitVec 4),
    (∀ sp f A n al use ctl, farForm s p d a b v z i o sp f A n al use ctl →
      (A % al ≠ 0 → exec f s = .next (s.raise 2 0x10 (addrValue 2 A))) ∧
      (sp = 1 → A % al = 0 →
        (∀ k, s.cur = .sup k → exec f s = .next (s.raise 2 0x04 (addrValue 2 A))) ∧
        (∀ j, s.cur = .stage j →
          (A < 0 ∨ 2 ^ 28 ≤ A ∨ 96 ≤ A / 2 ^ 21 ∨ (s.core j.core).reach.getLsbD (A.toNat / 2 ^ 21) = false →
            exec f s = .next (s.raise 2 0x04 (addrValue 2 A))) ∧
          (0 ≤ A → A / 2 ^ 21 < 96 → (s.core j.core).reach.getLsbD (A.toNat / 2 ^ 21) = true → 2 ^ 21 < A % 2 ^ 21 + n →
            exec f s = .next (s.raise 2 0x04 (addrValue 2 (A - A % 2 ^ 21 + 2 ^ 21)))))) ∧
      (sp = 2 →
        (∀ j, s.cur = .stage j → A % al = 0 →
          (A < (s.window s.cur).1 ∨ (s.window s.cur).2 ≤ A → exec f s = .next (s.raise 2 0x04 (addrValue 2 A))) ∧
          ((s.window s.cur).1 ≤ A → A < (s.window s.cur).2 → (s.window s.cur).2 < A + n →
            exec f s = .next (s.raise 2 0x04 (addrValue 2 (s.window s.cur).2)))) ∧
        (∀ k, s.cur = .sup k →
          (ctlLo ≤ A → A < ctlHi →
            (ctl = false → exec f s = .next (s.raise 2 0x10 (addrValue 2 A))) ∧
            (ctl = true → A % al = 0 → (s.ctlReg k.die A.toNat).isSome = false →
              exec f s = .next (s.raise 2 0x04 (addrValue 2 A)))) ∧
          (A % al = 0 → A < 0 ∨ ctlHi ≤ A → exec f s = .next (s.raise 2 0x04 (addrValue 2 A))) ∧
          (A % al = 0 → 0 ≤ A → A < ctlLo → ctlLo < A + n → exec f s = .next (s.raise 2 0x04 (addrValue 2 ctlLo))))) ∧
      (sp = 3 → (2 ^ 21 < A % 2 ^ 21 + n → exec f s = .next (s.raise 2 0x10 (addrValue 2 A))) ∧
        (A % al = 0 → A % 2 ^ 21 + n ≤ 2 ^ 21 →
          (A < 0 ∨ 2 ^ 57 ≤ A → exec f s = .next (s.raise 2 0x05 (fabricValue 1 A))) ∧
          (0 ≤ A → A < 2 ^ 57 → (s.die (dieOf s.cur)).ftroot.getLsbD 0 = false →
            exec f s = .next (s.raise 2 0x05 (fabricValue 2 A))) ∧
          (∀ w, s.translate A = some (.check w) → exec f s = .next (s.raise 2 0x0B (addrValue 2 (w : Nat)))) ∧
          (∀ e, s.translate A = some (.ok e) →
            (use ≠ .load → e.getLsbD 62 = false → exec f s = .next (s.raise 2 0x05 (fabricValue 5 A))) ∧
            (∀ r, s.entryFault (dieOf s.cur) e use = some r → exec f s = .next (s.raise 2 0x05 (fabricValue r A))) ∧
            (s.entryFault (dieOf s.cur) e use = none → (s.pkg (dieOf s.cur).pkg).member (wbits e 24 14) = false →
              exec f s = .next (s.raise 2 0x07 (fabricValue 1 A))))))) ∧
    (∀ A, A = addrOf (s.rx a) 128 i → s.free 2 p { xr := [a], vr := [physOf s.me.cr.vrb v] } = true →
      (A % 16 ≠ 0 → exec (.mcst p v a i) s = .next (s.raise 2 0x10 (addrValue 2 A))) ∧
      (A % 16 = 0 → A < 0 ∨ 2 ^ 25 ≤ A ∨ isSup s.cur = true → exec (.mcst p v a i) s = .next (s.raise 2 0x04 (addrValue 2 A))) ∧
      (∀ j w limit, s.cur = .stage j → A % 16 = 0 → 0 ≤ A → A < 2 ^ 25 →
        (s.clu (cluOf j.core)).windows[A.toNat / 2 ^ 21]? = some w → limit = wbits w.w0 21 15 * 128 →
        (w.w0.getLsbD 63 = false ∨ wbits w.w0 48 7 ≠ j.core.core ∨ limit ≤ A.toNat % 2 ^ 21 →
          exec (.mcst p v a i) s = .next (s.raise 2 0x04 (addrValue 2 A))) ∧
        (w.w0.getLsbD 63 = true → wbits w.w0 48 7 = j.core.core → A.toNat % 2 ^ 21 < limit → limit < A.toNat % 2 ^ 21 + 128 →
          exec (.mcst p v a i) s = .next (s.raise 2 0x04 (addrValue 2 (A - A % 2 ^ 21 + limit)))))) ∧
    (∀ A, A = (s.rx a).toNat → A % 4 = 0 → s.me.cr.det = true → s.free 2 p { xr := [d, a], xw := [d] } = true →
      ((s.window s.cur).1 ≤ A → A + 4 ≤ (s.window s.cur).2 → exec (.amoG p d a 9 2) s = .next (s.raise 2 0x12 s.sylValue)) ∧
      (∀ e, s.translate A = some (.ok e) → s.entryFault (dieOf s.cur) e .atomic = none →
        (s.pkg (dieOf s.cur).pkg).member (wbits e 24 14) = true → exec (.amoN p d a 9 2) s = .next (s.raise 2 0x12 s.sylValue)))

/-! ## Vector instructions -/

/-- The vector whose lane `i` of `w` bits is `g i`, for `n` lanes; higher lanes are zero. -/
def vecOf (w n : Nat) (g : Nat → Nat) : Vec := ofLanes w ((List.range n).map g)

/-- The flags of `n` lanes together. -/
def lanesFlags (n : Nat) (g : Nat → BitVec 6) : BitVec 6 := orFlags ((List.range n).map g)

/-- A VEC instruction of the guard `p` that executes at once: it is free, and no tag or held syllable keeps it. -/
def vecNow (s : State) (p : BitVec 4) (i : Instr) : Prop :=
  s.free 3 p (vecRegsOf s i) = true ∧ s.me.pendingTags ((vecRegsOf s i).vr ++ (vecRegsOf s i).vw) = [] ∧ s.me.vecq = []

/-- The number that lane `i` of operand b gives an integer instruction: a register's lane, or an immediate truncated to it. -/
def intOpnd (s : State) (w : Nat) (zext : Bool) (b : Opnd 5) (i : Nat) : Nat :=
  match b with
  | .fld r => lane w (s.rv r) i
  | .ext1 _ => if zext then immUnsigned b % 2 ^ w else (immSigned b % 2 ^ w).toNat
  | .ext2 _ _ => 0

/-- R24, R29, R78, R156–R160: the lane-wise instructions on integer lanes, signed but for the `.N` forms, write vd lane by lane,
set no flag, and leave all else alone. -/
def Obligations.VecIntLanes : Prop :=
  ∀ (s : State) (p : BitVec 4) (t : BitVec 3) (d a : BitVec 5) (b : Opnd 5), t.toNat < 3 → (∀ e f, b ≠ .ext2 e f) →
    ∀ w n, w = laneWidth t.toNat → n = laneCount t.toNat → ∀ r, r = physOf s.me.cr.vrb d →
    ∀ x y z u : Nat → Nat, x = lane w (s.rv d) → y = lane w (s.rv a) → z = intOpnd s w false b → u = intOpnd s w true b →
    ∀ g : Nat → Int, g = signedOf w → ∀ all, all = 2 ^ w - 1 →
    (vecNow s p (.vadd p t d a b) → Writes (.vadd p t d a b) s [.v r (vecOf w n (fun i => y i + z i))] 0) ∧
    (vecNow s p (.vsub p t d a b) → Writes (.vsub p t d a b) s [.v r (vecOf w n (fun i => laneInt w ((y i : Int) - z i)))] 0) ∧
    (vecNow s p (.vmul p t d a b) → Writes (.vmul p t d a b) s [.v r (vecOf w n (fun i => y i * z i))] 0) ∧
    (vecNow s p (.vfma p t d a b) → Writes (.vfma p t d a b) s [.v r (vecOf w n (fun i => x i + y i * z i))] 0) ∧
    (vecNow s p (.vmin p t d a b) →
      Writes (.vmin p t d a b) s [.v r (vecOf w n (fun i => if g (y i) ≤ g (z i) then y i else z i))] 0) ∧
    (vecNow s p (.vmax p t d a b) →
      Writes (.vmax p t d a b) s [.v r (vecOf w n (fun i => if g (z i) ≤ g (y i) then y i else z i))] 0) ∧
    (vecNow s p (.vminN p t d a b) → Writes (.vminN p t d a b) s [.v r (vecOf w n (fun i => min (y i) (u i)))] 0) ∧
    (vecNow s p (.vmaxN p t d a b) → Writes (.vmaxN p t d a b) s [.v r (vecOf w n (fun i => max (y i) (u i)))] 0) ∧
    (vecNow s p (.vand p t d a b) → Writes (.vand p t d a b) s [.v r (vecOf w n (fun i => y i &&& u i))] 0) ∧
    (vecNow s p (.vor p t d a b) → Writes (.vor p t d a b) s [.v r (vecOf w n (fun i => y i ||| u i))] 0) ∧
    (vecNow s p (.vxor p t d a b) → Writes (.vxor p t d a b) s [.v r (vecOf w n (fun i => y i ^^^ u i))] 0) ∧
    (vecNow s p (.vshl p t d a b) →
      Writes (.vshl p t d a b) s [.v r (vecOf w n (fun i => if z i < w then y i * 2 ^ z i else 0))] 0) ∧
    (vecNow s p (.vshr p t d a b) →
      Writes (.vshr p t d a b) s [.v r (vecOf w n (fun i => if z i < w then y i / 2 ^ z i else 0))] 0) ∧
    (vecNow s p (.vsar p t d a b) →
      Writes (.vsar p t d a b) s [.v r (vecOf w n (fun i => laneInt w (if z i < w then g (y i) / 2 ^ z i else g (y i) / 2 ^ w)))] 0) ∧
    (vecNow s p (.vmulh p t d a b) →
      Writes (.vmulh p t d a b) s [.v r (vecOf w n (fun i => laneInt w (g (y i) * g (z i) / 2 ^ w)))] 0) ∧
    (vecNow s p (.vadds p t d a b) → Writes (.vadds p t d a b) s
      [.v r (vecOf w n (fun i => laneInt w (max (-2 ^ (w - 1)) (min (2 ^ (w - 1) - 1) (g (y i) + g (z i))))))] 0) ∧
    (vecNow s p (.vsubs p t d a b) → Writes (.vsubs p t d a b) s
      [.v r (vecOf w n (fun i => laneInt w (max (-2 ^ (w - 1)) (min (2 ^ (w - 1) - 1) (g (y i) - g (z i))))))] 0) ∧
    (vecNow s p (.vabs p t d a) → Writes (.vabs p t d a) s [.v r (vecOf w n (fun i => (g (y i)).natAbs))] 0) ∧
    (vecNow s p (.vneg p t d a) → Writes (.vneg p t d a) s [.v r (vecOf w n (fun i => laneInt w (-g (y i))))] 0) ∧
    (vecNow s p (.vpopc p t d a) →
      Writes (.vpopc p t d a) s [.v r (vecOf w n (fun i => (List.range w).countP (fun k => (y i).testBit k)))] 0) ∧
    (vecNow s p (.vcmpEq p t d a b) → Writes (.vcmpEq p t d a b) s [.v r (vecOf w n (fun i => if y i = z i then all else 0))] 0) ∧
    (vecNow s p (.vcmpLt p t d a b) →
      Writes (.vcmpLt p t d a b) s [.v r (vecOf w n (fun i => if g (y i) < g (z i) then all else 0))] 0) ∧
    (vecNow s p (.vcmpLe p t d a b) →
      Writes (.vcmpLe p t d a b) s [.v r (vecOf w n (fun i => if g (y i) ≤ g (z i) then all else 0))] 0) ∧
    (vecNow s p (.vcmpLtn p t d a b) →
      Writes (.vcmpLtn p t d a b) s [.v r (vecOf w n (fun i => if y i < u i then all else 0))] 0)

/-- The pattern that lane `i` of operand b gives a floating instruction: a register's lane, or the immediate of R30. -/
def floatOpnd (s : State) (t w : Nat) (b : Opnd 5) (i : Nat) : Nat :=
  match b with
  | .fld r => lane w (s.rv r) i
  | .ext1 _ => immFloat (fmtOfType t) b
  | .ext2 _ _ => immFloat (fmtOfType t) b

/-- R157, R159, R160, R168, R169: the lane-wise instructions and the special functions on floating lanes write the result of the
lane's format in every lane and set the flags of all lanes together. The coefficients of the special functions are computed as
log 27 says. -/
def Obligations.VecFloatLanes : Prop :=
  ∀ (s : State) (p : BitVec 4) (t : BitVec 3) (d a : BitVec 5) (b : Opnd 5), 3 ≤ t.toNat → t.toNat < 6 →
    ∀ w n, w = laneWidth t.toNat → n = laneCount t.toNat → ∀ r, r = physOf s.me.cr.vrb d → ∀ f, f = fmtOfType t.toNat →
    ∀ x y z : Nat → Nat, x = lane w (s.rv d) → y = lane w (s.rv a) → z = floatOpnd s t.toNat w b →
    (∀ i o, (i, o) ∈ [(Instr.vadd p t d a b, fun k => fAdd f (y k) (z k)), (.vsub p t d a b, fun k => fSub f (y k) (z k)),
        (.vmul p t d a b, fun k => fMul f (y k) (z k)), (.vfma p t d a b, fun k => fFma f (x k) (y k) (z k)),
        (.vmin p t d a b, fun k => (fMin f (y k) (z k), 0)), (.vmax p t d a b, fun k => (fMax f (y k) (z k), 0)),
        (.vabs p t d a, fun k => (if (fval f (y k)).isNan then nanOf f else y k % f.signBit, 0)),
        (.vneg p t d a, fun k => (if (fval f (y k)).isNan then nanOf f else (y k + f.signBit) % 2 ^ f.width, 0)),
        (.vcmpEq p t d a b, fun k => (if feq (fval f (y k)) (fval f (z k)) then 2 ^ w - 1 else 0, 0)),
        (.vcmpLt p t d a b, fun k => (if fless false (fval f (y k)) (fval f (z k)) then 2 ^ w - 1 else 0, 0)),
        (.vcmpLe p t d a b, fun k => (if fless false (fval f (y k)) (fval f (z k)) || feq (fval f (y k)) (fval f (z k))
          then 2 ^ w - 1 else 0, 0)),
        (.vexp2 p t d a, fun k => spExp2 f (y k)), (.vlog2 p t d a, fun k => spLog2 f (y k)),
        (.vrcp p t d a, fun k => spRcp f (y k)), (.vrsq p t d a, fun k => spRsq f (y k)),
        (.vtanh p t d a, fun k => spTanh f (y k))] →
      vecNow s p i → Writes i s [.v r (vecOf w n (fun k => (o k).1))] (lanesFlags n (fun k => (o k).2)))

/-- R160–R162, R170: the select, the moves between scalar registers and lanes, the rearrangements, and the dot product. -/
def Obligations.VecMoves : Prop :=
  ∀ (s : State) (p : BitVec 4) (t : BitVec 3) (d a b : BitVec 5), t.toNat < 6 →
    ∀ w n, w = laneWidth t.toNat → n = laneCount t.toNat → ∀ r, r = physOf s.me.cr.vrb d →
    ∀ x y z : Nat → Nat, x = lane w (s.rv d) → y = lane w (s.rv a) → z = lane w (s.rv b) →
    ∀ xa xb, xa = (s.rx (a.setWidth 6)).toNat → xb = (s.rx (b.setWidth 6)).toNat % n →
    (vecNow s p (.vsel p t d a b) →
      Writes (.vsel p t d a b) s [.v r (vecOf w n (fun i => if (x i).testBit (w - 1) then y i else z i))] 0) ∧
    (vecNow s p (.vbcast p t d a) → Writes (.vbcast p t d a) s [.v r (vecOf w n (fun _ => xa))] 0) ∧
    (vecNow s p (.vextr p t d a b) → Writes (.vextr p t d a b) s
      [.x (d.setWidth 6) (if t.toNat < 3 then BitVec.ofInt 64 (signedOf w (y xb)) else BitVec.ofNat 64 (y xb))] 0) ∧
    (vecNow s p (.vinsr p t d a b) → Writes (.vinsr p t d a b) s [.v r (vecOf w n (fun i => if i = xb then xa else x i))] 0) ∧
    (vecNow s p (.vperm p t d a b) → Writes (.vperm p t d a b) s [.v r (vecOf w n (fun i => y (z i % n)))] 0) ∧
    (vecNow s p (.vrot p t d a b) → Writes (.vrot p t d a b) s [.v r (vecOf w n (fun i => y ((i + z 0) % n)))] 0) ∧
    (vecNow s p (.vcx p t d a b) → Writes (.vcx p t d a b) s
      [.v r (ofLanes w (((List.range n).filter (fun i => (z i).testBit (w - 1))).map y))] 0) ∧
    (t = 2 → vecNow s p (.vdot4 p t d a b) → ∀ sum : Nat → Int,
      sum = (fun i => signedOf 32 (lane 32 (s.rv d) i) + signedOf 8 (y (4 * i)) * signedOf 8 (z (4 * i)) +
        signedOf 8 (y (4 * i + 1)) * signedOf 8 (z (4 * i + 1)) + signedOf 8 (y (4 * i + 2)) * signedOf 8 (z (4 * i + 2)) +
        signedOf 8 (y (4 * i + 3)) * signedOf 8 (z (4 * i + 3))) →
      Writes (.vdot4 p t d a b) s [.v r (vecOf 32 32 (fun i => laneInt 32 (sum i)))]
        (lanesFlags 32 (fun i => if 2 ^ 31 ≤ sum i ∨ sum i < -2 ^ 31 then flOF else 0)))

/-- The pairwise tree of R163 over the 2^k items from `lo` on. -/
def pairTree {α : Type} (op : α → α → α) (g : Nat → α) : Nat → Nat → α
  | 0, lo => g lo
  | k + 1, lo => op (pairTree op g k lo) (pairTree op g k (lo + 2 ^ k))

/-- The prefix results of R164 with their flags. -/
def prefixes (op : Nat → Nat → Nat × BitVec 6) (g : Nat → Nat) : Nat → Nat × BitVec 6
  | 0 => (g 0, 0)
  | i + 1 => op (prefixes op g i).1 (g (i + 1))

/-- R163, R164: the reductions write lane 0 and zero in the rest: the sum of integer lanes as INT32, with `OF` where it leaves
the range, and of floating lanes as FP32 in the pairwise tree; the maximum and the minimum; and the inclusive prefix sums. -/
def Obligations.VecReductions : Prop :=
  ∀ (s : State) (p : BitVec 4) (t : BitVec 3) (d a : BitVec 5), t.toNat < 6 →
    ∀ w n k, w = laneWidth t.toNat → n = laneCount t.toNat → n = 2 ^ k → ∀ r, r = physOf s.me.cr.vrb d →
    ∀ f, f = fmtOfType t.toNat → ∀ y : Nat → Nat, y = lane w (s.rv a) →
    (t.toNat < 3 →
      (vecNow s p (.vrsum p t d a) → ∀ sum : Int, sum = ((List.range n).map (fun i => signedOf w (y i))).sum →
        Writes (.vrsum p t d a) s [.v r (vecOf 32 1 (fun _ => laneInt 32 sum))]
          (if 2 ^ 31 ≤ sum ∨ sum < -2 ^ 31 then flOF else 0)) ∧
      (vecNow s p (.vrmax p t d a) → ∃ j < n, (∀ i < n, signedOf w (y i) ≤ signedOf w (y j)) ∧
        Writes (.vrmax p t d a) s [.v r (vecOf w 1 (fun _ => y j))] 0) ∧
      (vecNow s p (.vrmin p t d a) → ∃ j < n, (∀ i < n, signedOf w (y j) ≤ signedOf w (y i)) ∧
        Writes (.vrmin p t d a) s [.v r (vecOf w 1 (fun _ => y j))] 0) ∧
      (vecNow s p (.vscan p t d a) →
        Writes (.vscan p t d a) s [.v r (vecOf w n (fun i => ((List.range (i + 1)).map y).sum))] 0)) ∧
    (3 ≤ t.toNat →
      (vecNow s p (.vrsum p t d a) → ∀ q : Nat × BitVec 6,
        q = pairTree (fun x z => ((fAdd fp32 x.1 z.1).1, (fAdd fp32 x.1 z.1).2 ||| x.2 ||| z.2))
          (fun i => ((toFloat fp32 .rne (fval f (y i))).1, (0 : BitVec 6))) k 0 →
        Writes (.vrsum p t d a) s [.v r (vecOf 32 1 (fun _ => q.1))] q.2) ∧
      (vecNow s p (.vrmax p t d a) → Writes (.vrmax p t d a) s [.v r (vecOf w 1 (fun _ => pairTree (fMax f) y k 0))] 0) ∧
      (vecNow s p (.vrmin p t d a) → Writes (.vrmin p t d a) s [.v r (vecOf w 1 (fun _ => pairTree (fMin f) y k 0))] 0) ∧
      (vecNow s p (.vscan p t d a) → Writes (.vscan p t d a) s [.v r (vecOf w n (fun i => (prefixes (fAdd f) y i).1))]
        (lanesFlags n (fun i => (prefixes (fAdd f) y i).2))))

/-- R115, R116, R165–R167, R171: `VCVT` converts groups of registers, each read before any is written; `VQSC` writes the E8M0
scale of each block of 32; `VQNT` quantises with the scales in vd; `VRNG` writes one draw in each lane. Each advances the
generator by the values that it draws. -/
def Obligations.VecConversions : Prop :=
  ∀ (s : State) (p : BitVec 4) (t g : BitVec 3) (d a : BitVec 5) (k : BitVec 2),
    ∀ r, r = physOf s.me.cr.vrb → ∀ draw, draw = (fun i => genDraw s.me.cr.seed (s.me.cr.ctrbase + BitVec.ofNat 64 i)) →
    ∀ code, code = (if k = 0 then s.me.cr.cvrnd.toNat else k.toNat - 1) →
    (t ≠ g → ∀ ls ld n, ls = laneCount g.toNat → ld = laneCount t.toNat → n = max ls ld →
      a.toNat % (n / ls) = 0 → d.toNat % (n / ld) = 0 → vecNow s p (.vcvt p t d a k g) →
      ∀ c, c = (fun i => vconvert g.toNat t.toNat (rndOf code (draw i))
        (lane (laneWidth g.toNat) (s.rv (a + BitVec.ofNat 5 (i / ls))) (i % ls))) →
      Draws (.vcvt p t d a k g) s ((List.range (n / ld)).map (fun j =>
        .v (r (d + BitVec.ofNat 5 j)) (vecOf (laneWidth t.toNat) ld (fun i => (c (j * ld + i)).1))))
        (lanesFlags n (fun i => (c i).2)) (if code = 2 then n else 0)) ∧
    (3 ≤ t.toNat → g.toNat ∈ [0, 2, 6, 7] → ∀ w n f, w = laneWidth t.toNat → n = laneCount t.toNat → f = fmtOfType t.toNat →
      (vecNow s p (.vqsc p t d a g) → ∃ sc : Nat → Nat, Writes (.vqsc p t d a g) s [.v (r d) (vecOf 8 (n / 32) sc)] 0 ∧
        ∀ j < n / 32, ∀ y : Nat → FVal, y = (fun i => fval f (lane w (s.rv a) (32 * j + i))) →
          ((∃ i < 32, ∀ b m e, y i ≠ .fin b m e) → sc j = 0xFF) ∧
          ((∀ i < 32, ∃ b e, y i = .fin b 0 e) → sc j = 0x7F) ∧
          (∀ top : Int, (∀ i < 32, ∃ b m e, y i = .fin b m e ∧ (m = 0 ∨ (Nat.log2 m : Int) + e ≤ top)) →
            (∃ i < 32, ∃ b m e, y i = .fin b m e ∧ m ≠ 0 ∧ (Nat.log2 m : Int) + e = top) →
            (sc j : Int) = max 0 (min 254 (top - (if g = 0 then 2 else if g = 2 then 6 else if g = 6 then 8 else 15) + 127)))) ∧
      (vecNow s p (.vqnt p t d a k g) → ∀ c : Nat → Nat × BitVec 6,
        c = (fun i =>
          let sc := lane 8 (s.rv d) (i / 32)
          let q := quantize g.toNat (rndOf code (draw i))
          if sc = 0xFF then ((q .nan).1, (q .nan).2 ||| flSN) else q (scaleVal (127 - (sc : Int)) (fval f (lane w (s.rv a) i)))) →
        Draws (.vqnt p t d a k g) s [.v (r d) (vecOf (if g = 0 then 4 else 8) n (fun i => (c i).1))]
          (lanesFlags n (fun i => (c i).2)) (if code = 2 then n else 0))) ∧
    (t.toNat < 4 → vecNow s p (.vrng p t d) → ∀ w n, w = laneWidth t.toNat → n = laneCount t.toNat →
      (t ≠ 3 → Draws (.vrng p t d) s [.v (r d) (vecOf w n (fun i => (draw i).toNat / 2 ^ (64 - w)))] 0 n) ∧
      (t = 3 → Draws (.vrng p t d) s
        [.v (r d) (vecOf w n (fun i => (roundTo fp32 .rne false ((draw i).toNat / 2 ^ 40) (-24)).1))] 0 n))

/-- R13, R14, R84, R85, R116, R158, R159: a VEC instruction of a type that it does not admit raises illegal operand type; one that
names a register bound to a tag that is not ready, or that issues behind a held one, joins the VEC queue and changes no register;
its draws are assigned to it as it issues, and it keeps what it reads then: its scalar registers, and the vectors that neither a tag nor
an earlier held one keeps from it (R7). That one which only writes a bound register is held too (log 63), and that the number of
draws follows `CVRND` as it stands at issue (log 64), are the model's choices. -/
def Obligations.VecHeld : Prop :=
  ∀ (s : State) (i : Instr) (y : VecSem), vecSemOf i = some y →
    (y.typeOk = false → exec i s = .next (s.raise 1 0x02 s.sylValue)) ∧
    (y.typeOk = true → s.free 3 (BitVec.ofNat 4 (bitsAt (wordOf i).toNat 18 4)) (vecRegsOf s i) = true →
      ∀ tags, tags = s.me.pendingTags ((vecRegsOf s i).vr ++ (vecRegsOf s i).vw) → tags ≠ [] ∨ s.me.vecq ≠ [] →
      ∃ t h, exec i s = .next t ∧ (t.ctx s.cur).vecq = s.me.vecq ++ [h] ∧ h.id = s.uid ∧ h.instr = i ∧ h.tags = tags ∧
        h.vrb = s.me.cr.vrb ∧ h.seed = s.me.cr.seed ∧ h.ctr = s.me.cr.ctrbase ∧ (t.ctx s.cur).flights = s.me.flights ∧
        h.xs = (vecRegsOf s i).xr.map (fun r => (r, s.rx r)) ∧ (∀ r x, (r, x) ∈ h.vs → x = s.me.rv r) ∧
        (∀ r ∈ (vecRegsOf s i).vr, s.me.pendingTags [r] = [] → (∀ g ∈ s.me.vecq, r ∉ g.vecRegs.vw) → (r, s.me.rv r) ∈ h.vs) ∧
        (t.ctx s.cur).visible = (s.me.modCr (fun r =>
          { r with ctrbase := r.ctrbase + BitVec.ofNat 64 (y.draws s.me.cr.cvrnd) })).visible ∧ Kept s t)

/-! ## The transform slot -/

/-- The instruction puts one result in flight, visible `lat` issue cycles later, and draws `n` values; all else is kept. -/
def Launches (i : Instr) (s : State) (lat : Nat) (target : XfmTarget) (value : Vec) (fl : BitVec 6) (n : Nat) : Prop :=
  ∃ t, exec i s = .next t ∧
    (t.ctx s.cur).xfm = s.me.xfm ++ [{ id := s.uid, rem := lat, target := target, value := value, flags := fl }] ∧
    (t.ctx s.cur).flights = s.me.flights ∧
    (t.ctx s.cur).visible = (s.me.modCr (fun r => { r with ctrbase := r.ctrbase + BitVec.ofNat 64 n })).visible ∧ Kept s t

/-- R102, R112, R204, R207, R208, R210–R216: the transform instructions of a stage read their operands as they issue and write vd,
or a group of the fill bank, a fixed number of issue cycles later. -/
def Obligations.TransformResults : Prop :=
  ∀ (s : State) (p : BitVec 4) (d a : BitVec 5) (j : SlotId), s.cur = .stage j →
    ∀ pd pa, pd = physOf s.me.cr.vrb d → pa = physOf s.me.cr.vrb a → ∀ v, v = s.rv a →
    (s.free 5 p { vr := [pa] } = true →
      (∀ (g : BitVec 2) (c : BitVec 1), (if s.me.cur then s.me.refs0 else s.me.refs1) = 0 →
        Launches (.xpTbl p a g c) s 3 (.bank (!s.me.cur) g (c = 1)) v 0 0) ∧
      (s.heldBusy 5 { vw := [pd] } = false →
        (∀ (t : BitVec 4) (h : BitVec 1), Launches (.xpExp p d a t h) s 6 (.v pd) (vecOf 16 64 (fun i =>
          bitsAt (if s.me.cur then s.me.bank1 else s.me.bank0).toNat (16 * (16 * t.toNat + lane 8 v (64 * h.toNat + i) % 16)) 16)) 0 0) ∧
        (∀ (e : BitVec 5) (w : BitVec 3), Launches (.xpUnp p d a e w) s 4 (.v pd)
          (vecOf 8 128 (fun i => bitsAt v.toNat ((w.toNat + 1) * (16 * e.toNat + i)) (w.toNat + 1))) 0 0) ∧
        (∀ (w : BitVec 2) z, w ≠ 3 → z = (if w = 0 then 2 else if w = 1 then 1 else 4) → ∃ u,
          Launches (.xpTrn p d a w) s 8 (.v pd) u 0 0 ∧
          ∀ row < 8, ∀ c < 16 / z, lane (8 * z) u (c * 8 + row) = lane (8 * z) v (row * (16 / z) + c)) ∧
        (∀ (h : BitVec 2) (w : BitVec 1) b, b = (if w = 1 then 16 else 8) → (w = 1 → h.toNat < 2) → ∃ u,
          Launches (.xpPack p d a h w) s 6 (.v pd) u 0 0 ∧
          (∀ i < 32, u.getLsbD i = decide (lane b v (32 * h.toNat + i) ≠ 0)) ∧
          u.toNat / 2 ^ 32 = packLanes b (((List.range 32).map (fun i => lane b v (32 * h.toNat + i))).filter (· ≠ 0))) ∧
        (∃ u, Launches (.xpPln p d a 0 0) s 5 (.v pd) u 0 0 ∧
          ∀ pl < 8, ∀ i < 128, u.getLsbD (8 * (16 * pl + i / 8) + i % 8) = v.getLsbD (8 * i + (7 - pl))) ∧
        (∀ n : BitVec 4, 2 ≤ n.toNat → n.toNat ≤ 8 → ∃ u, Launches (.xpPln p d a n 1) s 5 (.v pd) u 0 0 ∧
          ∀ i < 128, ∀ q, (∀ pl < n.toNat, q.testBit (n.toNat - 1 - pl) = v.getLsbD (8 * (16 * pl + i / 8) + i % 8)) →
            q < 2 ^ n.toNat →
            lane 8 u i = laneInt 8 (signedOf n.toNat q * 2 ^ (8 - n.toNat) + (if n.toNat < 8 then 2 ^ (7 - n.toNat) else 0))) ∧
        (∀ (q : BitVec 2) (k : BitVec 3) f b, (k, f, b) ∈ [((0 : BitVec 3), (0x0E : Nat), (4 : Nat)), (2, 0x0C, 8), (3, 0x0D, 8)] →
          (b = 8 → q.toNat < 2) → Launches (.xpCvt p d a q k) s 4 (.v pd) (vecOf 16 64 (fun i =>
            (toFloat bf16 .rne (fval (fmtOfCode f) (bitsAt v.toNat (b * (64 * q.toNat + i)) b))).1)) 0
            (if s.me.cr.cvrnd = 2 then 64 else 0)) ∧
        (∀ (q : BitVec 2) (k : BitVec 3) b, (k, b) ∈ [((1 : BitVec 3), (4 : Nat)), (7, 8)] → (b = 8 → q.toNat < 2) →
          Launches (.xpCvt p d a q k) s 4 (.v pd) (vecOf 16 64 (fun i =>
            (toFloat bf16 .rne (ofInt (signedOf b (bitsAt v.toNat (b * (64 * q.toNat + i)) b)))).1)) 0
            (if s.me.cr.cvrnd = 2 then 64 else 0)))) ∧
    (s.free 5 p { vr := [pa, pd] } = true → s.heldBusy 5 { vw := [pd] } = false →
      ∀ (q : BitVec 2) (k : BitVec 3) f b, (k, f, b) ∈ [((4 : BitVec 3), (0x0C : Nat), (8 : Nat)), (5, 0x0D, 8), (6, 0x0E, 4)] →
        (b = 8 → q.toNat < 2) → ∀ c, c = (fun i => toFloat (fmtOfCode f)
          (rndOf s.me.cr.cvrnd.toNat (genDraw s.me.cr.seed (s.me.cr.ctrbase + BitVec.ofNat 64 i))) (fval bf16 (lane 16 v i))) →
        ∃ u, Launches (.xpCvt p d a q k) s 4 (.v pd) u (lanesFlags 64 (fun i => (c i).2)) (if s.me.cr.cvrnd = 2 then 64 else 0) ∧
          (∀ i < 64, lane b u (64 * q.toNat + i) = (c i).1 % 2 ^ b) ∧
          (∀ i < 1024 / b, (i < 64 * q.toNat ∨ 64 * q.toNat + 64 ≤ i) → lane b u i = lane b (s.rv d) i)) ∧
    (s.free 5 p { vr := [pa] } = true →
      (if s.me.cur then s.me.refs0 else s.me.refs1) ≠ 0 → ∀ (g : BitVec 2) (c : BitVec 1), exec (.xpTbl p a g c) s = .next s.stall)

/-! ## The matrix unit's queue -/

/-- The instruction joins the MAT queue with what it captures, and draws `n` values; the core's tags change by `f`; no register
changes, and all else is kept. -/
def Queues (i : Instr) (s : State) (xval : Word) (n : Nat) (f : Core → Core) : Prop :=
  ∃ t h, exec i s = .next t ∧ (t.ctx s.cur).matq = s.me.matq ++ [h] ∧ h.id = s.uid ∧ h.instr = i ∧ h.xval = xval ∧
    h.seed = s.me.cr.seed ∧ h.ctr = s.me.cr.ctrbase ∧ h.cvrnd = s.me.cr.cvrnd ∧ (t.ctx s.cur).flights = s.me.flights ∧
    (t.ctx s.cur).visible = (s.me.modCr (fun r => { r with ctrbase := r.ctrbase + BitVec.ofNat 64 n })).visible ∧
    (∀ j, s.cur = .stage j → ∀ c, t.core c = if c = j.core then f (s.core c) else s.core c) ∧ Kept s { t with cores := s.cores }

/-- A core with the type tag of an accumulator set. -/
def typeTag (a : BitVec 2) (n : Nat) (k : Core) : Core :=
  { k with accs := k.accs.set a.toNat { k.accs[a.toNat] with type := BitVec.ofNat 8 n } }

/-- A core with the format tag of a tile set. -/
def tileTagged (t : BitVec 3) (fmt : Nat) (k : Core) : Core :=
  { k with tiles := k.tiles.set t.toNat { k.tiles[t.toNat] with fmt := BitVec.ofNat 8 (fmt + 1) } }

/-- R184, R190, R194–R203: a MAT instruction of a stage whose operand types are admitted, whose spans are aligned and inside the
scratchpad, and that finds room in the queue and no `TD.GET` there that writes a register it reads, joins the queue; `MM.W` takes
its tile's tag. -/
def Obligations.MatrixQueue : Prop :=
  ∀ (s : State) (p : BitVec 4) (j : SlotId), s.cur = .stage j → s.me.matq.length < 4 →
    ∀ (a : BitVec 2) (t : BitVec 3) (d : BitVec 5), ∀ td, td = s.desc d →
    (s.free 4 p {} = true →
      (∀ (c k : BitVec 1) (n : BitVec 6) fam, famOf td.elemFmt = some fam →
        mmOk td (s.tileTag t).toNat (s.accTag a).toNat (n.toNat + 1) (c = 1) (k = 1) = true →
        spansCause 4 (2 ^ 21) (td.aSpans (s.localMem s.cur) ((n.toNat + 1) * fam.1) (k = 1)) = none →
        Queues (.mm p a t d c k n) s 0 0 (typeTag a fam.2.2)) ∧
      (∀ e : BitVec 4, drainOk td = true → drainCause td e.toNat s = none →
        Queues (.mmDRoute p a d e) s (BitVec.ofNat 64 e.toNat) (if (s.me.route e.toNat).1 ∧ s.me.cr.cvrnd = 2 then 512 else 0) id) ∧
      Queues (.mmZ p a) s 0 0 (typeTag a 0) ∧
      (accMemOk td [0x0B, 0x08, 0x09, 0x0A, 0x0C, 0x0D, 0x03, 0x02, 0x00] = true → spansCause 4 (2 ^ 21) td.accSpans = none →
        Queues (.mmAr p a d) s 0 (if s.me.cr.cvrnd = 2 then 512 else 0) id) ∧
      (accMemOk td [0x0B, 0x08, 0x09, 0x0A, 0x03, 0x00] = true → spansCause 4 (2 ^ 21) td.accSpans = none →
        Queues (.mmAw p a d) s 0 0 (typeTag a (if td.fmt = 0x0B then 0x0C else if td.fmt = 0x03 ∨ td.fmt = 0 then 4 else 9))) ∧
      (∀ k : BitVec 1, mmwOk td (k = 1) = true → s.me.tags.ready.getLsbD t.toNat = true →
        spansCause 4 (2 ^ 21) (td.fillSpans (s.localMem s.cur) ++ if k = 1 then [{ addr := td.scale, len := 256, al := 1 }] else [])
          = none →
        ∃ u h, exec (.mmW p t d k) s = .next u ∧ (u.ctx s.cur).matq = s.me.matq ++ [h] ∧ h.id = s.uid ∧ h.instr = .mmW p t d k ∧
          (∀ n < 16, (u.ctx s.cur).tags.ready.getLsbD n = (decide (n ≠ t.toNat) && s.me.tags.ready.getLsbD n)) ∧
          { (u.ctx s.cur).visible with tags := 0 } = { s.me.visible with tags := 0 } ∧
          u.core j.core = tileTagged t td.tileFmt (s.core j.core) ∧
          (∀ c, c ≠ j.core → u.core c = s.core c) ∧ Kept s { u with cores := s.cores })) ∧
    (∀ g : BitVec 3, s.free 4 p { xr := [8 + g.setWidth 6] } = true → getPending [8 + g.setWidth 6] s = false →
      drainOk td = true → ∀ token, token = (s.rx (8 + g.setWidth 6)).toNat % 16 → drainCause td token s = none →
      Queues (.mmDSteer p a g d) s (BitVec.ofNat 64 token) (if (s.me.route token).1 ∧ s.me.cr.cvrnd = 2 then 512 else 0) id) ∧
    (∀ (x : Opnd 6) (w : BitVec 4) (m : BitVec 2), s.free 4 p { xr := opndReg x } = true → getPending (opndReg x) s = false →
      Queues (.tdSet p x d w) s (match x with
        | .fld r => s.rx r
        | .ext1 _ => BitVec.ofNat 64 (immUnsigned x)
        | .ext2 _ _ => BitVec.ofNat 64 (immUnsigned x)) 0 id ∧
      Queues (.tdStep p x d m) s (match x with
        | .fld r => s.rx r
        | .ext1 _ => BitVec.ofInt 64 (immSigned x)
        | .ext2 _ _ => BitVec.ofInt 64 (immSigned x)) 0 id) ∧
    (∀ (x : BitVec 6) (w : BitVec 4), td.ok = true → s.free 4 p { xw := [x] } = true → getPending [x] s = false →
      Queues (.tdGet p x d w) s 0 0 id)

/-- The causes that a MAT instruction meets in the spans that it names (R185, R220): the first misaligned one raises misaligned access;
where all are aligned, the first that leaves the scratchpad raises bounds, with the first byte outside. -/
def spanTraps (s : State) (f : Instr) (ss : List Span) : Prop :=
  ∀ l sp r, ss = l ++ sp :: r →
    ((∀ x ∈ l, x.addr % (x.al : Int) = 0) → sp.addr % (sp.al : Int) ≠ 0 → exec f s = .next (s.raise 2 0x10 (addrValue 4 sp.addr))) ∧
    ((∀ x ∈ ss, x.addr % (x.al : Int) = 0) → (∀ x ∈ l, 0 ≤ x.addr ∧ x.addr < 2 ^ 21 ∧ x.addr + (x.len : Int) ≤ 2 ^ 21) →
      (sp.addr < 0 ∨ 2 ^ 21 ≤ sp.addr → exec f s = .next (s.raise 2 0x04 (addrValue 4 sp.addr))) ∧
      (0 ≤ sp.addr → sp.addr < 2 ^ 21 → 2 ^ 21 < sp.addr + (sp.len : Int) → exec f s = .next (s.raise 2 0x04 (addrValue 4 (2 ^ 21)))))

/-- A MAT form without a cause that waits for a place in the queue alone: its types are admitted, its spans are aligned and inside the
scratchpad, its packet fits the port, and what it names is at hand. -/
def matForm (s : State) (p : BitVec 4) (a : BitVec 2) (t : BitVec 3) (d : BitVec 5) (c k : BitVec 1) (n : BitVec 6) (e w : BitVec 4)
    (g : BitVec 3) (x : Opnd 6) (y : BitVec 6) (m : BitVec 2) (f : Instr) : Prop :=
  ∀ td, td = s.desc d →
    (s.free 4 p {} = true ∧
      ((∃ fam, famOf td.elemFmt = some fam ∧
          mmOk td (s.tileTag t).toNat (s.accTag a).toNat (n.toNat + 1) (c = 1) (k = 1) = true ∧
          spansCause 4 (2 ^ 21) (td.aSpans (s.localMem s.cur) ((n.toNat + 1) * fam.1) (k = 1)) = none ∧ f = .mm p a t d c k n) ∨
        (drainOk td = true ∧ drainCause td e.toNat s = none ∧ f = .mmDRoute p a d e) ∨ f = .mmZ p a ∨
        (accMemOk td [0x0B, 0x08, 0x09, 0x0A, 0x0C, 0x0D, 0x03, 0x02, 0x00] = true ∧
          spansCause 4 (2 ^ 21) td.accSpans = none ∧ f = .mmAr p a d) ∨
        (accMemOk td [0x0B, 0x08, 0x09, 0x0A, 0x03, 0x00] = true ∧ spansCause 4 (2 ^ 21) td.accSpans = none ∧ f = .mmAw p a d) ∨
        (mmwOk td (k = 1) = true ∧ s.me.tags.ready.getLsbD t.toNat = true ∧
          spansCause 4 (2 ^ 21) (td.fillSpans (s.localMem s.cur) ++ if k = 1 then [{ addr := td.scale, len := 256, al := 1 }] else [])
            = none ∧ f = .mmW p t d k))) ∨
    (s.free 4 p { xr := [8 + g.setWidth 6] } = true ∧ drainOk td = true ∧
      drainCause td ((s.rx (8 + g.setWidth 6)).toNat % 16) s = none ∧ f = .mmDSteer p a g d) ∨
    (s.free 4 p { xr := opndReg x } = true ∧ (f = .tdSet p x d w ∨ f = .tdStep p x d m)) ∨
    (td.ok = true ∧ s.free 4 p { xw := [y] } = true ∧ f = .tdGet p y d w)

/-- R14, R88, R177, R183, R185, R190, R194, R196, R198, R201, R220: where MAT instructions trap: a supervisor core, a type that is not
admitted or a reserved field of a descriptor raises illegal operand type; a misaligned element, or else one outside the scratchpad,
raises its cause with the class 4; a drain to a port whose packets are too small for it raises bounds; and a queue of four makes a form
without a cause wait. That `MM.D` and `TD.GET` make R88's checks of the whole descriptor is the model's reading (log 68). That a packed operand admits no
`SC` is its choice (log 71). -/
def Obligations.MatrixTraps : Prop :=
  ∀ (s : State) (p : BitVec 4) (a : BitVec 2) (t : BitVec 3) (d : BitVec 5) (c k : BitVec 1) (n : BitVec 6) (e w : BitVec 4)
    (g : BitVec 3) (x : Opnd 6) (y : BitVec 6) (m : BitVec 2), ∀ td, td = s.desc d →
    (isSup s.cur = true → ∀ i ∈ [Instr.mm p a t d c k n, .mmDRoute p a d e, .mmDSteer p a g d, .mmW p t d k, .mmZ p a, .mmAr p a d,
      .mmAw p a d, .tdGet p y d w, .tdSet p x d w, .tdStep p x d m], exec i s = .next (s.raise 1 0x02 s.sylValue)) ∧
    (mmOk td (s.tileTag t).toNat (s.accTag a).toNat (n.toNat + 1) (c = 1) (k = 1) = false →
      exec (.mm p a t d c k n) s = .next (s.raise 1 0x02 s.sylValue)) ∧
    (mmwOk td (k = 1) = false → exec (.mmW p t d k) s = .next (s.raise 1 0x02 s.sylValue)) ∧
    (drainOk td = false ∨ 4 < td.space ∨ wbits td[1] 24 40 ≠ 0 ∨ wbits td[1] 3 5 ≠ 0 →
      exec (.mmDRoute p a d e) s = .next (s.raise 1 0x02 s.sylValue) ∧ exec (.mmDSteer p a g d) s = .next (s.raise 1 0x02 s.sylValue)) ∧
    (td.ok = false ∨ td.space ≠ 0 ∨ td.ndim = 0 ∨ td.fmt ∉ [0x0B, 0x08, 0x09, 0x0A, 0x0C, 0x0D, 0x03, 0x02, 0x00] →
      exec (.mmAr p a d) s = .next (s.raise 1 0x02 s.sylValue)) ∧
    (td.ok = false ∨ td.space ≠ 0 ∨ td.ndim = 0 ∨ td.fmt ∉ [0x0B, 0x08, 0x09, 0x0A, 0x03, 0x00] →
      exec (.mmAw p a d) s = .next (s.raise 1 0x02 s.sylValue)) ∧
    (td.ok = false → exec (.tdGet p y d w) s = .next (s.raise 1 0x02 s.sylValue)) ∧
    (isSup s.cur = false → s.free 4 p {} = true →
      (∀ fam, famOf td.elemFmt = some fam → mmOk td (s.tileTag t).toNat (s.accTag a).toNat (n.toNat + 1) (c = 1) (k = 1) = true →
        spanTraps s (.mm p a t d c k n) (td.aSpans (s.localMem s.cur) ((n.toNat + 1) * fam.1) (k = 1))) ∧
      (mmwOk td (k = 1) = true → spanTraps s (.mmW p t d k)
        (td.fillSpans (s.localMem s.cur) ++ if k = 1 then [{ addr := td.scale, len := 256, al := 1 }] else [])) ∧
      (accMemOk td [0x0B, 0x08, 0x09, 0x0A, 0x0C, 0x0D, 0x03, 0x02, 0x00] = true → spanTraps s (.mmAr p a d) td.accSpans) ∧
      (accMemOk td [0x0B, 0x08, 0x09, 0x0A, 0x03, 0x00] = true → spanTraps s (.mmAw p a d) td.accSpans) ∧
      (∀ o, drainOk td = true → (s.me.route e.toNat).1 = true → s.myOut (s.me.route e.toNat).2 = some o →
        o.size < drainLen td → exec (.mmDRoute p a d e) s = .next (s.raise 2 0x04 (addrValue 4 (drainLen td))))) ∧
    (isSup s.cur = false → s.free 4 p { xr := [8 + g.setWidth 6] } = true →
      ∀ token, token = (s.rx (8 + g.setWidth 6)).toNat % 16 → ∀ o, drainOk td = true → (s.me.route token).1 = true →
        s.myOut (s.me.route token).2 = some o → o.size < drainLen td →
        exec (.mmDSteer p a g d) s = .next (s.raise 2 0x04 (addrValue 4 (drainLen td)))) ∧
    (isSup s.cur = false → 4 ≤ s.me.matq.length → ∀ f, matForm s p a t d c k n e w g x y m f → exec f s = .next s.stall)

/-! ## The engines of a die -/

/-- The request that an agent's instruction puts in its die's queue. -/
def asked (s : State) (op : EngOp) : EngReq :=
  { id := s.uid, own := s.cur, op := op, upto := s.uid, sent := none, live := true }

/-- A control instruction's request is put in the queue of the own die's engine, and its bundle waits for the answer. -/
def Requests (i : Instr) (s : State) (op : EngOp) : Prop :=
  ∃ t, exec i s = .next t ∧ (t.die (dieOf s.cur)).engine = (s.die (dieOf s.cur)).engine ++ [asked s op] ∧
    (t.ctx s.cur).req = some { answer := none, trap := none, landed := false, token := none } ∧ t.iss.stat = .waits ∧
    (t.ctx s.cur).visible = s.me.visible ∧ (t.ctx s.cur).flights = s.me.flights ∧
    (∀ j, s.cur = .stage j → (t.slot j).fst = .waiting) ∧ (∀ j, s.cur ≠ .stage j → t.slot j = s.slot j) ∧
    Kept s { t with slots := s.slots }

/-- R306, R307, R309–R314, R325, R336, R337: a control request is sent once, with its register operands, and waits; once its answer
has landed the bundle issues and the destination takes the answer, or the trap that the answer reports is raised. -/
def Obligations.ControlRequests : Prop :=
  ∀ (s : State) (p : BitVec 4) (d a b c : BitVec 6),
    ∀ ask : Instr → List (BitVec 6) → BitVec 6 → EngOp → Prop,
    ask = (fun i xr xw op => s.free 2 p { xr := xr, xw := [xw] } = true →
      (s.me.req = none → Requests i s op) ∧
      (∀ r, s.me.req = some r → (r.landed = false → exec i s = .next s.hold) ∧
        (r.landed = true → r.trap = none → Writes i s [.x xw (r.answer.getD 0)] 0) ∧
        (∀ t, r.landed = true → r.trap = some t → exec i s = .next (s.raise 2 t.1 t.2)))) →
    ask (.sqNew p d a) [a] d (.new (s.rx a)) ∧ ask (.sqRes p d a b) [a, b] d (.res (s.rx a) (s.rx b)) ∧
    ask (.sqCom p c a b) [c, a, b] 0 (.com (s.rx c) (s.rx a) (s.rx b)) ∧ ask (.sqLen p d a b) [a, b] d (.len (s.rx a) (s.rx b)) ∧
    ask (.sqFork p d a) [a] d (.fork (s.rx a)) ∧ ask (.sqDrop p a) [a] 0 (.drop (s.rx a)) ∧
    (isSup s.cur = false → ask (.sqPre p c a b) [c, a, b] 0 (.pre (s.rx c) (s.rx a) (s.rx b)) ∧
      ask (.plReq p d a) [a] d (.query (s.rx a))) ∧
    (isSup s.cur = true → exec (.sqPre p c a b) s = .next (s.raise 1 0x02 s.sylValue) ∧
      exec (.plReq p d a) s = .next (s.raise 1 0x02 s.sylValue))

/-- A fill is asked of the own die's engine, and its tag is taken: it is not ready any more. -/
def Fills (i : Instr) (s : State) (op : EngOp) (tag : Nat) (v : Option (BitVec 5)) (f : Core → Core) : Prop :=
  ∃ t, exec i s = .next t ∧ (t.die (dieOf s.cur)).engine = (s.die (dieOf s.cur)).engine ++ [asked s op] ∧
    (∀ n < 16, (t.ctx s.cur).tags.ready.getLsbD n = (decide (n ≠ tag) && s.me.tags.ready.getLsbD n)) ∧
    (∀ r, v = some r → (t.ctx s.cur).tags.bound.getLsbD (tag - 8) = true ∧ (t.ctx s.cur).tags.vreg.toList[tag - 8]? = some r) ∧
    { (t.ctx s.cur).visible with tags := 0 } = { s.me.visible with tags := 0 } ∧ (t.ctx s.cur).flights = s.me.flights ∧
    (∀ j, s.cur = .stage j → ∀ c, t.core c = if c = j.core then f (s.core c) else s.core c) ∧ Kept s { t with cores := s.cores }

/-- R84, R184, R202, R318, R319, R338: `GATH`, `SQ.GATH` and `PL.RSP` ask for a fill and go on: the tag is not ready until the fill
is done, and a vector form binds its register to the tag; a tag that is not ready makes the bundle wait for it. -/
def Obligations.GatherAsks : Prop :=
  ∀ (s : State) (p : BitVec 4) (v d : BitVec 5) (k : BitVec 3) (m : BitVec 2) (t : BitVec 4) (b : BitVec 6),
    ∀ td r, td = s.desc d → r = physOf s.me.cr.vrb v →
    (td.ok = true → td.space = 2 ∨ td.space = 3 → s.tdPending d = false →
      (td.fmt ∈ [0, 2, 3, 4, 8, 9, 10, 11, 12, 13] → 8 ≤ t.toNat → s.free 2 p { vw := [r] } = true →
        gatherCause td.space td.gatherLanes s = none →
        (s.me.tags.ready.getLsbD t.toNat = true → Fills (.gathVector p v d t) s (.gathV td r t) t.toNat (some r) id) ∧
        (s.me.tags.ready.getLsbD t.toNat = false → t.toNat ∉ s.iss.took → exec (.gathVector p v d t) s = .next (s.stallOn [t.toNat]))) ∧
      (denseFmt td.fmt = true → isSup s.cur = false → s.free 2 p { tw := [k] } = true →
        gatherCause td.space td.gatherRows s = none → s.me.tags.ready.getLsbD k.toNat = true →
        Fills (.gathTile p k d) s (.gathT td k) k.toNat none (tileTagged k td.fmt))) ∧
    (td.ok = true → td.space = 4 → (if m = 0 then denseFmt td.fmt = true else td.fmt = 0x18) → s.tdPending d = false →
      isSup s.cur = false → s.free 2 p { xr := [b], tw := [k] } = true → s.me.tags.ready.getLsbD k.toNat = true →
      Fills (.sqGath p m k d b) s (.sqGath td k m (s.rx b)) k.toNat none (tileTagged k (if m = 0 then td.fmt else 9))) ∧
    (isSup s.cur = false → 8 ≤ t.toNat → s.free 2 p { xr := [b], vw := [r] } = true → s.me.tags.ready.getLsbD t.toNat = true →
      Fills (.plRsp p v b t) s (.rsp (s.rx b) r t) t.toNat (some r) id) ∧
    (t.toNat < 8 → exec (.gathVector p v d t) s = .next (s.raise 1 0x02 s.sylValue) ∧
      exec (.plRsp p v b t) s = .next (s.raise 1 0x02 s.sylValue))

/-! ## Phasers and the barrier -/

/-- A wait of the synchronisation engine begins in this cycle. -/
def waitBegun (s : State) : SyncWait := { word := s.iss.word, since := s.cycle, notified := none }

/-- R246–R260: the phaser and barrier instructions of a stage whose protocol holds. `PH.REG` waits 4 cycles and then joins as
PENDING, or as MEMBER without signalling, with `WPH` and `SPH` at the next phase, and returns 0, or 1 with nothing changed where no
entry is free. `PH.DROP` waits 4 cycles and for the firing's stores, and takes the membership out. `PH.SIG` sends a signal that is
due 4 cycles later. `PH.WAIT` and `PH.ADV` wait until the engine has announced that the member's phase is complete, return it and
step `WPH`; `PH.ADV` signals as its wait begins. `CL.BAR` arrives once at its generation and returns it; where its slot has arrived
already it waits for the generation before its own, which may be complete. That an `MM.AR`
is one of the stores waited for is the model's reading (log 76). -/
def Obligations.PhaserResults : Prop :=
  ∀ (s : State) (p h : BitVec 4) (d : BitVec 6) (m : BitVec 2) (j : SlotId), s.cur = .stage j →
    ∀ k f, k = s.clu (cluOf j.core) → f = k.phaser h.toNat →
    (f.valid = true → f.failed = false → k.member j h.toNat = none → s.free 2 p { xw := [d] } = true →
      (s.me.sync = none → exec (.phReg p d m h) s = .next (s.modMe (fun c => { c with sync := some (waitBegun s) })).hold) ∧
      (∀ w, s.me.sync = some w → s.cycle + 1 < w.since + 4 → exec (.phReg p d m h) s = .next s.hold) ∧
      (∀ w, s.me.sync = some w → w.since + 4 ≤ s.cycle + 1 → ∃ t, exec (.phReg p d m h) s = .next t ∧
        Yields s t [.x d (if (k.entryFor j h.toNat).isSome then 0 else 1)] 0 ∧
        (t.ctx s.cur).sync = none ∧ Kept s { t with clus := s.clus } ∧ (∀ c, c ≠ cluOf j.core → t.clu c = s.clu c) ∧
        (k.entryFor j h.toNat = none → t.clu (cluOf j.core) = k) ∧
        (∀ e r, k.entryFor j h.toNat = some (e, r) →
          tfind (t.clu (cluOf j.core)).members e = some
            { wph := f.phase + 1, sph := f.phase + 1, phn := h, mode := m, mst := if m = 2 then 2 else 1, rsv := r,
              core := BitVec.ofNat 7 j.core.core, slot := BitVec.ofNat 4 j.slot } ∧
          (t.clu (cluOf j.core)).phaser h.toNat = { f with npend := if m = 2 then f.npend else f.npend + 1 }))) ∧
    (f.valid = true → f.failed = false → ∀ e q, k.member j h.toNat = some (e, q) →
      (s.free 2 p {} = true →
        (s.me.sync = none → exec (.phDrop p h) s = .next (s.modMe (fun c => { c with sync := some (waitBegun s) })).hold) ∧
        (∀ w, s.me.sync = some w → w.since + 4 ≤ s.cycle + 1 → s.storesDone s.cur s.iss.mark = true → k.inFlight j h.toNat = 0 →
          ∃ t, exec (.phDrop p h) s = .next t ∧ (t.ctx s.cur).visible = s.me.visible ∧ (t.ctx s.cur).sync = none ∧
            Kept s { t with clus := s.clus } ∧
            (t.clu (cluOf j.core)).phasers = (({ k.setPhaser h.toNat (f.uncount q) with
              members := if q.rsv then tset k.members e { q with mst := 0 } else tdel k.members e } : Cluster).advance h.toNat).phasers) ∧
        (q.mode.getLsbD 0 = true → (s.nextSph q h.toNat = f.phase ∨ s.nextSph q h.toNat = f.phase + 1) →
          ∃ t, exec (.phSig p h) s = .next t ∧ (t.ctx s.cur).visible = s.me.visible ∧ Kept s { t with clus := s.clus } ∧
            t.clu (cluOf j.core) = { k with signals := k.signals ++ [{ slot := j, ph := some h.toNat, upto := s.uid }] } ∧
            { cycle := s.cycle + 4, pri := priArrive, ev := .phaserSignalArrival j h.toNat } ∈ t.agenda)) ∧
      (s.free 2 p { xw := [d] } = true → q.mode.getLsbD 1 = true → ∀ i, (i = Instr.phWait p d h ∧
          (q.mode = 3 → phaseBefore q.wph (s.nextSph q h.toNat) = true)) ∨ (i = .phAdv p d h ∧ q.mode.getLsbD 0 = true) →
        (∀ w, s.me.sync = some w → w.since + 8 ≤ s.cycle + 1 → w.notified.isSome = true → phaseBefore q.wph f.phase = true →
          ∃ t, exec i s = .next t ∧
            Yields s t [.x d (BitVec.ofNat 64 q.wph.toNat)] 0 ∧
            (t.ctx s.cur).sync = none ∧ Kept s { t with clus := s.clus } ∧
            t.clu (cluOf j.core) = { k with
              members := tset k.members e { q with wph := q.wph + 1, mst := if q.mst = 3 then 2 else q.mst } }) ∧
        (∀ w, s.me.sync = some w → (s.cycle + 1 < w.since + 8 ∨ w.notified = none ∨ phaseBefore q.wph f.phase = false) →
          exec i s = .next s.hold) ∧
        (s.me.sync = none → i = .phWait p d h → phaseBefore q.wph f.phase = false → ∃ t, exec i s = .next t ∧ t.iss.stat = .waits ∧
          (t.slot j).fst = .waiting ∧ (t.ctx s.cur).sync = some (waitBegun s) ∧ (t.ctx s.cur).visible = s.me.visible ∧
          t.clu (cluOf j.core) = { k with members := tset k.members e { q with mst := if q.mst = 2 then 3 else q.mst } }) ∧
        (s.me.sync = none → i = .phAdv p d h → s.nextSph q h.toNat = q.wph → (q.wph = f.phase ∨ q.wph = f.phase + 1) →
          phaseBefore q.wph f.phase = false → ∃ t, exec i s = .next t ∧ t.iss.stat = .waits ∧ (t.ctx s.cur).sync = some (waitBegun s) ∧
            (t.clu (cluOf j.core)).signals = k.signals ++ [{ slot := j, ph := some h.toNat, upto := s.uid }] ∧
            { cycle := s.cycle + 4, pri := priArrive, ev := .phaserSignalArrival j h.toNat } ∈ t.agenda))) ∧
    ((s.slot j).sst = .active ∨ (s.slot j).sst = .faulted → s.free 2 p { xw := [d] } = true → ∀ g, g = (s.slot j).barrierGen →
      (∀ w, s.me.sync = some w → w.since + 8 ≤ s.cycle + 1 → w.notified.isSome = true → (s.slot j).barrierWait = true →
        phaseBefore (g - 1) k.barrierG = true → ∃ t, exec (.clBar p d) s = .next t ∧
          Yields s t [.x d (BitVec.ofNat 64 (g - 1).toNat)] 0 ∧
          (t.ctx s.cur).sync = none ∧ t.slot j = { s.slot j with barrierWait := false } ∧ (∀ i, i ≠ j → t.slot i = s.slot i) ∧
          Kept s { t with slots := s.slots }) ∧
      (s.me.sync = none → (s.slot j).barrierWait = false → k.barrierG = g → ∃ t, exec (.clBar p d) s = .next t ∧
        t.iss.stat = .waits ∧ (t.ctx s.cur).sync = some (waitBegun s) ∧
        t.slot j = { s.slot j with barrierGen := g + 1, barrierWait := true, fst := .waiting } ∧
        t.clu (cluOf j.core) = { k with signals := k.signals ++ [{ slot := j, ph := none, upto := s.uid }] } ∧
        { cycle := s.cycle + 4, pri := priArrive, ev := .barrierArrival j } ∈ t.agenda) ∧
      (s.me.sync = none → (s.slot j).barrierWait = true ∨ k.barrierG ≠ g → ∃ t, exec (.clBar p d) s = .next t ∧
        t.iss.stat = .waits ∧ t.slot j = { s.slot j with barrierWait := true, fst := .waiting } ∧ t.clu (cluOf j.core) = k ∧
        (t.ctx s.cur).sync = some { waitBegun s with
          notified := if phaseBefore (g - 1) k.barrierG then some s.cycle else none }))

/-- R252, R253: a phaser instruction that breaks the protocol raises phaser protocol error with the phase, the first reason that
applies in the order 7, 8, 1, 6, 2, 3, 4, 5, and the phaser's number; `CL.BAR` of a stage that is no participant reports reason 1
with the barrier's bit; all of them are illegal operand types on a supervisor core. -/
def Obligations.PhaserTraps : Prop :=
  ∀ (s : State) (p h : BitVec 4) (d : BitVec 6) (m : BitVec 2),
    (isSup s.cur = true → ∀ i ∈ [Instr.phReg p d m h, .phDrop p h, .phSig p h, .phWait p d h, .phAdv p d h, .clBar p d],
      exec i s = .next (s.raise 1 0x02 s.sylValue)) ∧
    (∀ j, s.cur = .stage j → ∀ k f, k = s.clu (cluOf j.core) → f = k.phaser h.toNat →
      ∀ err : Nat → State, err = (fun why => s.raise 2 0x0E (BitVec.ofNat 64 (f.phase.toNat * 2 ^ 32 + why * 2 ^ 12 + h.toNat))) →
      (∀ i ∈ [Instr.phDrop p h, .phSig p h, .phWait p d h, .phAdv p d h],
        s.free 2 p {} = true → s.free 2 p { xw := [d] } = true →
        (f.valid = false → exec i s = .next (err 7)) ∧
        (f.valid = true → f.failed = true → exec i s = .next (err 8)) ∧
        (f.valid = true → f.failed = false → k.member j h.toNat = none → exec i s = .next (err 1))) ∧
      (s.free 2 p { xw := [d] } = true →
        (f.valid = false → exec (.phReg p d m h) s = .next (err 7)) ∧
        (f.valid = true → f.failed = true → exec (.phReg p d m h) s = .next (err 8)) ∧
        (f.valid = true → f.failed = false → (k.member j h.toNat).isSome = true → exec (.phReg p d m h) s = .next (err 6)) ∧
        ((s.slot j).sst ≠ .active → (s.slot j).sst ≠ .faulted → exec (.clBar p d) s =
          .next (s.raise 2 0x0E (BitVec.ofNat 64 (k.barrierG.toNat * 2 ^ 32 + 2 ^ 12 + 2 ^ 8))))) ∧
      (f.valid = true → f.failed = false → ∀ e q, k.member j h.toNat = some (e, q) →
        s.free 2 p {} = true → s.free 2 p { xw := [d] } = true →
        (q.mode.getLsbD 0 = false → exec (.phSig p h) s = .next (err 2) ∧ exec (.phAdv p d h) s = .next (err 2)) ∧
        (q.mode.getLsbD 1 = false → exec (.phWait p d h) s = .next (err 3) ∧
          (q.mode.getLsbD 0 = true → exec (.phAdv p d h) s = .next (err 3))) ∧
        (q.mode.getLsbD 0 = true → s.nextSph q h.toNat ≠ f.phase → s.nextSph q h.toNat ≠ f.phase + 1 →
          exec (.phSig p h) s = .next (err 4)) ∧
        (q.mode = 3 → s.me.sync = none → s.nextSph q h.toNat = q.wph → q.wph ≠ f.phase → q.wph ≠ f.phase + 1 →
          exec (.phAdv p d h) s = .next (err 4)) ∧
        (q.mode = 3 → phaseBefore q.wph (s.nextSph q h.toNat) = false → exec (.phWait p d h) s = .next (err 5))))

/-! ## Ordering, the digest and ownership -/

/-- R294–R297, R360: each of the four completes, and when. `WCNT` completes where at most xb loads or stores of the agent are on their
way, and with a bound of 0 on the stores, which is a release, where no acquire before it is held (R287, R289), else it waits. `FENCE` completes, as a release, where everything that the agent stored or loads in its scope has been performed
and no acquire before it is held,
and, as an acquire, where its loads of the scope have landed, else it waits; its scope is 0 to 5, and it is a release, an acquire or
both. `WAITA` begins its first read and waits; it completes with the word of a read that differs from xb, and waits for the next read
while the word is equal. `DIG` completes with the current digest, or with the final digest that the history holds for a
configuration, or 0, where the agent's counted writes have been performed, else it waits. What completes changes no register but the
destination of `WAITA` and `DIG`. That an
`MM.AR` counts as a store until its elements are written is the model's reading (log 76). -/
def Obligations.OrderWaits : Prop :=
  ∀ (s : State) (p : BitVec 4) (d b : BitVec 6) (a : BitVec 5),
    (∀ c : BitVec 1, s.free 2 p { xr := [b] } = true → ∀ n, n = (if c = 1 then s.storeCount s.cur s.iss.mark else s.cntl s.cur) →
      ∀ held, held = (c = 1 ∧ (s.rx b).toNat = 0 ∧ s.behindAcquire s.cur s.iss.mark = true) →
      (n ≤ (s.rx b).toNat → ¬ held → ∃ t, exec (.wcnt p c b) s = .next t ∧ t.iss = s.iss ∧ (t.ctx s.cur).visible = s.me.visible ∧
        (t.ctx s.cur).flights = s.me.flights ∧ Kept s t) ∧
      ((s.rx b).toNat < n ∨ held → exec (.wcnt p c b) s = .next s.hold)) ∧
    (∀ (g : BitVec 3) (q r : BitVec 1), g.toNat ≤ 5 → r = 1 ∨ q = 1 → s.free 2 p {} = true → ∀ rel acq : Prop,
      rel = ((∀ st ∈ s.pendingStores s.cur, st.by_ ≠ s.cur) ∧ (∀ f ∈ s.me.flights, f.id < s.iss.mark → f.access = none) ∧
        s.matReading = false ∧ s.arStores s.cur s.iss.mark = 0 ∧ s.behindAcquire s.cur s.iss.mark = false ∧
        (∀ x ∈ s.reqs, x.own = s.cur → x.scope ≤ g.toNat → x.performed = true) ∧
        (∀ i, s.cur = .stage i → (∀ e ∈ (s.slot i).emissions, e.id < s.iss.mark → e.copy = false) ∧
          (g ≠ 0 → ∀ l ∈ (s.clu (cluOf i.core)).landings, l.sender ≠ i))) →
      acq = ((∀ f ∈ s.me.flights, f.src ≠ .load) ∧
        (∀ x ∈ s.reqs, x.own = s.cur → x.scope ≤ g.toNat → x.op.isLoad = true → x.dest = .none)) →
      ((r = 1 → rel) → (q = 1 → acq) → ∃ t, exec (.fence p g q r) s = .next t ∧ t.iss = s.iss ∧
        (t.ctx s.cur).visible = s.me.visible ∧ (t.ctx s.cur).flights = s.me.flights ∧ Kept s t) ∧
      ((r = 1 ∧ ¬ rel) ∨ (q = 1 ∧ ¬ acq) → exec (.fence p g q r) s = .next s.hold)) ∧
    (∀ f : BitVec 1, s.free 2 p { xr := [a.setWidth 6, b], xw := [d] } = true → waitaCause f a s = none →
      (f = 1 → (s.translate ((s.rx (a.setWidth 6)).toNat : Int)).isSome = true) →
      (s.me.sync = none → ∃ t n, exec (.waita p d f a b) s = .next t ∧ t.iss.stat = .waits ∧ (f = 0 → n = s.cycle + 24) ∧
        (t.ctx s.cur).sync = some { word := s.iss.word, since := s.cycle, notified := some n } ∧
        { cycle := n, pri := priArrive, ev := .waitaReread s.cur } ∈ t.agenda ∧ (t.ctx s.cur).visible = s.me.visible ∧
        Kept s { t with slots := s.slots }) ∧
      (∀ w v, s.me.sync = some w → w.value = some v →
        (v.toNat % 2 ^ 32 ≠ (s.rx b).toNat % 2 ^ 32 → ∃ t, exec (.waita p d f a b) s = .next t ∧
          Yields s t [.x d v] 0 ∧ (t.ctx s.cur).sync = none ∧ Kept s t) ∧
        (v.toNat % 2 ^ 32 = (s.rx b).toNat % 2 ^ 32 → exec (.waita p d f a b) s = .next s.hold)) ∧
      (∀ w, s.me.sync = some w → w.value = none → exec (.waita p d f a b) s = .next s.hold)) ∧
    (s.free 2 p { xr := [b], xw := [d] } = true → ∀ k w, k = s.die (dieOf s.cur) → w = s.rx b →
      ((∀ x ∈ s.reqs, x.own = s.cur → x.op.isStore = true → x.space ≠ 1 → x.performed = true) →
        ∃ t v, exec (.dig p d b) s = .next t ∧
          Yields s t [.x d v] 0 ∧ Kept s t ∧
          { cycle := s.cycle + 24, pri := priMem, ev := .scalarResultLand s.cur s.uid } ∈ t.agenda ∧
          (w.getLsbD 16 = false → v = k.digest) ∧
          (w.getLsbD 16 = true → ∀ e (h : e < 4), wbits k.dign (16 * e) 16 = wbits w 0 16 →
            (∀ i < e, wbits k.dign (16 * i) 16 ≠ wbits w 0 16) → v = k.digh[e]) ∧
          (w.getLsbD 16 = true → (∀ e < 4, wbits k.dign (16 * e) 16 ≠ wbits w 0 16) → v = 0)) ∧
      (∀ x ∈ s.reqs, x.own = s.cur → x.op.isStore = true → x.space ≠ 1 → x.performed = false →
        exec (.dig p d b) s = .next s.hold))

/-- R413, R416, R422, R423, R426, R427: `OWN.ACQ` is answered at once for a page of the own die or one whose token the die holds; it is
refused where the die's tokens and those that it has asked for are 64 and none is for the page; where no entry leads to the page's home it
traps with reason 6, and where the home's partition key differs with 0x07, reason 2; and else it asks the page's home; it returns its answer, or raises the trap that the answer reports. `OWN.REL` gives the token up after 8 cycles and drops
the page's cached lines. The order of the causes is the model's reading (log 24). -/
def Obligations.OwnershipResults : Prop :=
  ∀ (s : State) (p : BitVec 4) (d a : BitVec 6) (x : BitVec 1) (e : Word) A page, A = ((s.rx a).toNat : Int) →
    s.translate A = some (.ok e) → page = s.tokenPage A → ∀ D k, D = dieOf s.cur → k = s.die D →
    (s.free 2 p { xr := [a], xw := [d] } = true → ownCause A (x = 1) s = none →
      (s.me.req = none → ∃ t, exec (.ownAcq p d a x) s = .next t ∧ t.iss.stat = .waits ∧ (t.ctx s.cur).visible = s.me.visible ∧
        (page.1 = D ∨ k.holds page (x = 1) = true → (t.ctx s.cur).req = some { answer := some 0, trap := none, landed := false, token := none } ∧
          { cycle := s.cycle + 40, pri := priArrive, ev := .controlAnswerLand s.cur } ∈ t.agenda) ∧
        (page.1 ≠ D → k.holds page (x = 1) = false → s.route D page.1 = .none → k.tokens.length + (s.pagesAsked D).length < 64 ∨
            (∃ o ∈ k.tokens, o.home = page.1 ∧ o.page = page.2) ∨ page ∈ s.pagesAsked D →
          (t.ctx s.cur).req = some { answer := some 0, trap := some (0x05, fabricValue 6 A), landed := false, token := none } ∧
          { cycle := s.cycle + 40, pri := priArrive, ev := .controlAnswerLand s.cur } ∈ t.agenda) ∧
        (page.1 ≠ D → (∀ o ∈ k.tokens, ¬ (o.home = page.1 ∧ o.page = page.2)) → page ∉ s.pagesAsked D →
          64 ≤ k.tokens.length + (s.pagesAsked D).length →
          (t.ctx s.cur).req = some { answer := some 1, trap := none, landed := false, token := none } ∧
          { cycle := s.cycle + 40, pri := priArrive, ev := .controlAnswerLand s.cur } ∈ t.agenda) ∧
        (page.1 ≠ D → k.holds page (x = 1) = false → k.tokens.length + (s.pagesAsked D).length < 64 ∨
            (∃ o ∈ k.tokens, o.home = page.1 ∧ o.page = page.2) ∨ page ∈ s.pagesAsked D →
          (s.route D page.1 = .wait ∨ s.route D page.1 ≠ .none ∧ s.keyBad D.pkg page.1.pkg = false →
            (t.ctx s.cur).req = some { answer := none, trap := none, landed := false, token := some (page.1, page.2, x = 1),
                                       virt := A.toNat }) ∧
          (∀ n, s.route D page.1 = .cost n → s.keyBad D.pkg page.1.pkg = true →
            (t.ctx s.cur).req = some { answer := some 0, trap := some (0x07, fabricValue 2 A), landed := false,
                                       token := some (page.1, page.2, x = 1), virt := A.toNat } ∧
            { cycle := s.cycle + 30 + 2 * n, pri := priArrive, ev := .controlAnswerLand s.cur } ∈ t.agenda))) ∧
      (∀ r, s.me.req = some r → r.landed = true →
        (r.trap = none → Writes (.ownAcq p d a x) s [.x d (r.answer.getD 0)] 0) ∧
        (∀ w, r.trap = some w → exec (.ownAcq p d a x) s = .next (s.raise 2 w.1 w.2)))) ∧
    (s.free 2 p { xr := [a] } = true → transCause A .load s = none →
      (s.me.sync = none → exec (.ownRel p a) s = .next (s.modMe (fun c => { c with sync := some (waitBegun s) })).hold) ∧
      (∀ w, s.me.sync = some w → w.since + 8 ≤ s.cycle + 1 → ∃ t, exec (.ownRel p a) s = .next t ∧
        (t.ctx s.cur).visible = s.me.visible ∧ (t.ctx s.cur).sync = none ∧ Kept s t ∧
        (∀ o, o ∈ (t.die D).tokens ↔ o ∈ k.tokens ∧ ¬ (o.home = page.1 ∧ o.page = page.2)) ∧
        (∀ l, l ∈ (t.die D).cachedLines ↔ l ∈ k.cachedLines ∧ ¬ (l.1 = page.1 ∧ l.2 / 2 ^ 15 = page.2))))

/-! ## The whole machine -/

/-- Decoding what the encoder writes gives the instruction back: for every instruction that has an encoding, with every operand at
every value that its encoding admits, decoding its words gives it, whether its bundle ends with it, and the words behind. -/
def Obligations.DecodeEncode : Prop :=
  ∀ (i : Instr) (stop : Bool) (rest : List Nat), i.wf = true → i.fieldsOf ≠ [] →
    (stop = true ∨ ∀ w ∈ rest.head?, fld w 28 3 ≠ 6) → decode (encode stop i ++ rest) = .ok (i, stop, rest)

/-- The words of the examples of R13, R31 and R32, and others written out from R10, R11, R18, R21 and R31 field by field from bit 31
down, decode to the instructions that the rules give them; class 7, a reserved opcode, and a field that must be zero are refused. -/
def Obligations.DecodeWords : Prop :=
  decode [0b0_001_010010_1001_000101_000110_111101] = .ok (.addi 9 5 6 (.fld 0b111101), false, []) ∧
  decode [0x14A451BD] = .ok (.addi 9 5 6 (.fld 0b111101), false, []) ∧
  decode [0x20007223] = .ok (.ldL 0 7 8 2 (.fld 3), false, []) ∧
  decode [0xB0C18C85] = .ok (.vfma 0 3 3 4 (.fld 5), true, []) ∧
  decode [0x14805180, 0xE00186A0] = .ok (.addi 0 5 6 (.ext1 100000), true, []) ∧
  decode [0b1_000_000010_0011_111111111111111110] = .ok (.br 3 0b111111111111111110, true, []) ∧
  decode [0b1_010_001001_0000_000011_000100_1000_11] = .ok (.amoL 0 3 4 8 3, true, []) ∧
  decode [0b1_100_000010_0000_10_000_00000_0_0_000000] = .ok (.mmZ 0 2, true, []) ∧
  decode [0b1_101_000011_0000_00011_00100_00000_010] = .ok (.xpTrn 0 3 4 2, true, []) ∧
  decode [0b0_000_000100_0000_0001_0010_0000_0000_01, 0b0_110_00000000000011_00000000000010, 0b1_110_00000000000000_00000000000000]
    = .ok (.brT 0 1 2 0 0 1 2 3 0 0, true, []) ∧
  decode [0b1_111_000000_0000_000000_000000_000000] = .error .illegalClass ∧
  decode [0b1_001_111111_0000_000000_000000_000000] = .error .reserved ∧
  decode [0b1_000_000000_0000_000000_000000_000001] = .error .reserved ∧
  decode [0b1_110_0000000000000000000000000000] = .error .orphanExt

/-- The row of the table that an event is. -/
def EventRow (e : Event) (row : Instr) : Prop :=
  match e with
  | .firingStart c => row = .firingStart c
  | .parkedFiringRestore c => row = .parkedFiringRestore c
  | .bundleWaitEnds a => row = .bundleWaitEnds a
  | .endCompletion i => row = .endCompletion i
  | .checkpointWriteDone i => row = .checkpointWriteDone i
  | .budgetExhausted i => row = .budgetExhausted i
  | .parkComplete i => row = .parkComplete i
  | .heldSyllableExecutes a => row = .heldSyllableExecutes a
  | .scalarResultLand a id => row = .scalarResultLand a id
  | .vectorResultLand a id => row = .vectorResultLand a id
  | .xfmResultLand a id => row = .xfmResultLand a id
  | .localLoadLand a id => row = .localLoadLand a id
  | .localStoreWritten a id => row = .localStoreWritten a id
  | .emitCopyDone i id => row = .emitCopyDone i id
  | .packetArrival dst pkt => row = .packetArrival dst pkt
  | .creditMessage dst num => row = .creditMessage dst num
  | .drainAction i => row = .drainAction i
  | .drainSend i port => row = .drainSend i port
  | .clusterLoadLand id => row = .clusterLoadLand id
  | .clusterStorePerformed id => row = .clusterStorePerformed id
  | .multicastLanding id => row = .multicastLanding id
  | .galleryLoadLand id => row = .galleryLoadLand id
  | .galleryStorePerformed id => row = .galleryStorePerformed id
  | .homePortAtomic id => row = .homePortAtomic id
  | .atomicOldValueLand id => row = .atomicOldValueLand id
  | .fabricLoadLand id => row = .fabricLoadLand id
  | .fabricStorePerformed id => row = .fabricStorePerformed id
  | .fabricReject id => row = .fabricReject id
  | .translationWalkDone d vpn => row = .translationWalkDone d vpn
  | .matDispatch i => row = .matDispatch i
  | .accumulatorLanded c acc => row = .accumulatorLanded c acc
  | .tileFillDone i tile => row = .tileFillDone i tile
  | .mmDrainSend i id => row = .mmDrainSend i id
  | .mmArWriteDone i id => row = .mmArWriteDone i id
  | .seqRequestServe d => row = .seqRequestServe d
  | .controlAnswerLand a => row = .controlAnswerLand a
  | .mirrorForward d m => row = .mirrorForward d m
  | .gatherFillDone d id => row = .gatherFillDone d id
  | .farReadBucketRefill d => row = .farReadBucketRefill d
  | .stageAheadCopyLand d id => row = .stageAheadCopyLand d id
  | .plBlockDecode d => row = .plBlockDecode d
  | .plChunkTagReady d id => row = .plChunkTagReady d id
  | .phaserSignalArrival i ph => row = .phaserSignalArrival i ph
  | .phaserAdvanceDelivery i ph => row = .phaserAdvanceDelivery i ph
  | .barrierArrival i => row = .barrierArrival i
  | .closingBarrierComplete c => row = .closingBarrierComplete c
  | .haltWake v => row = .haltWake v
  | .evpopRead reader v xd => row = .evpopRead reader v xd
  | .slotctlClearEvent i => row = .slotctlClearEvent i
  | .slotctlKillStage i => row = .slotctlKillStage i
  | .slotctlKillFiring i => row = .slotctlKillFiring i
  | .svfaultRestart v => row = .svfaultRestart v
  | .switchNotice d n => row = .switchNotice d n
  | .configDrainComplete d => row = .configDrainComplete d
  | .activationComplete d => row = .activationComplete d
  | .sqrmtInstall d v => row = .sqrmtInstall d v
  | .sqrmtRemove d v => row = .sqrmtRemove d v
  | .ftinvAll d => row = .ftinvAll d
  | .ftinvPage d vpn => row = .ftinvPage d vpn
  | .codemapMapPage c page => row = .codemapMapPage c page
  | .codemapUnmapPage c page => row = .codemapUnmapPage c page
  | .registerWrite d addr v => row = .registerWrite d addr v
  | .scrubRead d core addr => row = .scrubRead d core addr
  | .dieReset d => row = .dieReset d
  | .coreReset c => row = .coreReset c
  | .ringFlitArrival pkg f => row = .ringFlitArrival pkg f
  | .ringFlitReoffer pkg f => row = .ringFlitReoffer pkg f
  | .ringSegmentFailed pkg ring seg => row = .ringSegmentFailed pkg ring seg
  | .hlinkPmaskWrite pkg mask => row = .hlinkPmaskWrite pkg mask
  | .hostLinkTrained pkg => row = .hostLinkTrained pkg
  | .hostLinkDown pkg => row = .hostLinkDown pkg
  | .cxlIdentify pkg => row = .cxlIdentify pkg
  | .getSupportedLogs pkg => row = .getSupportedLogs pkg
  | .getLog pkg log off len => row = .getLog pkg log off len
  | .getEventRecords pkg => row = .getEventRecords pkg
  | .clearEventRecords pkg n => row = .clearEventRecords pkg n
  | .attest pkg nonce mask => row = .attest pkg nonce mask
  | .getcert pkg idx => row = .getcert pkg idx
  | .mextend pkg reg digest => row = .mextend pkg reg digest
  | .ringSetup pkg ring gen => row = .ringSetup pkg ring gen
  | .ringTeardown pkg ring gen => row = .ringTeardown pkg ring gen
  | .orphanRead pkg first count => row = .orphanRead pkg first count
  | .mgmtRead pkg die addr => row = .mgmtRead pkg die addr
  | .mgmtWrite pkg die addr v => row = .mgmtWrite pkg die addr v
  | .fwLoadFirmware pkg h => row = .fwLoadFirmware pkg h
  | .fwLoadBootStream pkg h => row = .fwLoadBootStream pkg h
  | .mailboxUnsupported pkg opcode => row = .mailboxUnsupported pkg opcode
  | .hostHdmRead pkg off => row = .hostHdmRead pkg off
  | .hostHdmWrite pkg off data mask => row = .hostHdmWrite pkg off data mask
  | .backInvalidationDone pkg line dirty => row = .backInvalidationDone pkg line dirty
  | .completionWriteCheck id => row = .completionWriteCheck id
  | .hostGlobalObservation id => row = .hostGlobalObservation id
  | .packageReset pkg => row = .packageReset pkg
  | .thermalThrottle d => row = .thermalThrottle d
  | .thermalClockRaise d => row = .thermalClockRaise d
  | .thermalTrip d => row = .thermalTrip d
  | .linkEnable pkg port => row = .linkEnable pkg port
  | .linkTrainLock pkg port => row = .linkTrainLock pkg port
  | .linkTrainTimeout pkg port => row = .linkTrainTimeout pkg port
  | .negotiationMessage pkg port m => row = .negotiationMessage pkg port m
  | .negotiateTimeout pkg port => row = .negotiateTimeout pkg port
  | .linkReplayFailure pkg port => row = .linkReplayFailure pkg port
  | .linkFailedTimer pkg port => row = .linkFailedTimer pkg port
  | .flitReceive pkg port f => row = .flitReceive pkg port f
  | .routingFlip pkg => row = .routingFlip pkg
  | .flipHoldRelease pkg port => row = .flipHoldRelease pkg port
  | .failureNotice pkg n => row = .failureNotice pkg n
  | .tokenRequest home src page excl => row = .tokenRequest home src page excl
  | .ownershipRecall d home page => row = .ownershipRecall d home page
  | .recallDone home src page => row = .recallDone home src page
  | .tokenGrant d home page excl => row = .tokenGrant d home page excl
  | .bootPacket pkg pkt => row = .bootPacket pkg pkt
  | .heartbeat ctl src => row = .heartbeat ctl src
  | .heartbeatTimeout ctl src => row = .heartbeatTimeout ctl src
  | .freezeAcknowledged ctl src => row = .freezeAcknowledged ctl src
  | .reductionLine pkg die addr data => row = .reductionLine pkg die addr data
  | .rebuildComplete ctl => row = .rebuildComplete ctl
  | .remapComplete ctl => row = .remapComplete ctl
  | .replayComplete ctl => row = .replayComplete ctl
  | .waitaReread a => row = .waitaReread a
  | .barrierCompletionDelivery i => row = .barrierCompletionDelivery i
  | .hostSnoop pkg line => row = .hostSnoop pkg line
  | .mirrorAcknowledgement d id ok => row = .mirrorAcknowledgement d id ok
  | .bootBlockRequest pkg child block => row = .bootBlockRequest pkg child block
  | .supervisorFreesEntry d h => row = .supervisorFreesEntry d h

/-- What keeps an agent from its turn is absent: its firing holds the core and has not begun to end, or the supervisor core runs; no
control request is under way, no cause waits for the boundary, its cycle has come, and a stage has budget. -/
def InTurn (s : State) (a : Agent) : Prop :=
  (s.ctx a).req = none ∧ (s.ctx a).after = [] ∧ (s.ctx a).notBefore ≤ s.cycle ∧ (s.ctx a).holding = false ∧
  (s.ctx a).leads = false ∧
  (∀ i, a = .stage i → ((s.slot i).fst = .running ∨ (s.slot i).fst = .waiting) ∧ (s.slot i).ending = none ∧
    (s.ctx a).budget ≠ 0) ∧
  (∀ v, a = .sup v → (s.sup v).stop = false ∧ (s.sup v).halted = false)

/-- The record of the bundle that begins at `pc` and holds `len` words, as its syllables find it. -/
def bundleRecord (s : State) (pc : Int) (len : Nat) : Issue :=
  { start := pc, len := 4 * len, word := 0, exts := [], pos := 0, mark := s.uid, next := pc + 4 * len, taken := 0, stat := .ok }

/-- Where the words at an agent's next address are a bundle of one syllable that decodes to `i`, and its turn comes with nothing to
keep it, step runs `i`: on the machine in which the turn is taken, the fetch has corrected the word's single-bit error, the transform
results whose count has run out have landed, and the bundle is in issue. Around that it counts one issue cycle for the transform results that are left, goes on at the address that
`i` leaves (the next bundle, or a branch's target), in the next cycle or as many cycles later as the branch takes, and charges a
stage's budget by one. An event of the agenda that is due is carried out as the row of the table that it is; where the machine holds
no such item any more, nothing else changes. What one step is, and the agenda, are the model's own (log 3). -/
def Obligations.StepRuns : Prop :=
  (∀ (s : State) (a : Agent) (rest : List Agent) (w : Nat) (i : Instr) (s0 s1 u : State), s.phase = 1 → s.turn = a :: rest →
    InTurn s a → (s.ctx a).pc % 4 = 0 → s.codeWord a (s.ctx a).pc = .word w → fld w 31 1 = 1 → fld w 28 3 < 6 →
    decode [w] = .ok (i, true, []) →
    s0 = { ({ s with turn := rest, cur := a }.meetCode a (s.ctx a).pc 1).landed a with iss := bundleRecord s (s.ctx a).pc 1 } →
    s0.probe s0.iss { pos := 0, word := w, exts := [], instr := i } = .ok →
    s1 = { s0 with iss := { s0.iss with word := BitVec.ofNat 32 w } } →
    exec i s1 = .next u → u.iss.stat = .ok →
    ∃ t n, step s = .next t ∧ (t.ctx a).pc = u.iss.next ∧ (t.ctx a).issued = (u.ctx a).issued + 1 ∧
      (t.ctx a).notBefore = max (u.ctx a).notBefore (u.cycle + n) ∧ 1 ≤ n ∧ (u.iss.taken = 0 → n = 1) ∧
      (u.iss.taken ≠ 0 → u.iss.taken ≤ n ∧ n ≤ u.iss.taken + 1) ∧ (t.ctx a).x = (u.ctx a).x ∧ (t.ctx a).v = (u.ctx a).v ∧
      (t.ctx a).p = (u.ctx a).p ∧ (t.ctx a).cr = (u.ctx a).cr ∧ (t.ctx a).flights = (u.ctx a).flights ∧
      (t.ctx a).xfm = ((u.numberXfm a s.uid).ctx a).xfm.map (fun r => { r with rem := r.rem - 1 }) ∧
      (t.ctx a).budget = (if isSup a ∨ (u.ctx a).budget = 0 then (u.ctx a).budget else (u.ctx a).budget - 1) ∧
      t = (u.numberXfm a s.uid).setCtx a (t.ctx a)) ∧
  (∀ (s : State) (e : Due) (r : List Due) (row : Instr), s.phase ≠ 1 → s.phase ≠ 2 → s.dueNow = some (e, r) → EventRow e.ev row →
    (∀ t, exec row { s with agenda := r } = .next t → step s = .next t) ∧
    (∀ f, exec row { s with agenda := r } = .fault f → step s = .next { s with agenda := r }))

/-- A context in which every register reads zero, every tag is ready and bound to nothing, and nothing is under way. -/
def ZeroCtx (c : Ctx) : Prop :=
  (∀ r, c.rx r = 0) ∧ (∀ r, c.rv r = 0) ∧ (∀ r, r ≠ 0 → c.rp r = false) ∧ (∀ k : Fin 32, ∀ n : Fin 8, c.td[k][n] = 0) ∧
  (∀ k : Fin 16, c.rte[k] = 0) ∧ c.rs = [] ∧ (∀ k : Fin 128, c.island[k].truth = 0 ∧ ∀ n : Fin 4, c.island[k].sel[n] = 0) ∧
  c.pc = 0 ∧ c.stageId = 0 ∧ c.firing = 0 ∧ c.budget = 0 ∧ c.bank0 = 0 ∧ c.bank1 = 0 ∧ c.cur = false ∧ c.refs0 = 0 ∧ c.refs1 = 0 ∧
  c.cr.lc = 0 ∧ c.cr.ec = 0 ∧ c.cr.vrb = 0 ∧ c.cr.seed = 0 ∧ c.cr.ctrbase = 0 ∧ c.cr.fstat = 0 ∧ c.cr.tlate = 0 ∧ c.cr.lm = false ∧
  c.cr.rnd = 0 ∧ c.cr.mf = false ∧ c.cr.eosf = false ∧ c.cr.cvrnd = 0 ∧ c.cr.det = false ∧ c.tags.ready = 0xFFFF ∧ c.tags.bound = 0 ∧
  (∀ k : Fin 8, c.tags.vreg[k] = 0) ∧ c.tags.fail = [] ∧ c.tags.filled = [] ∧ c.flights = [] ∧ c.xfm = [] ∧ c.vlanded = [] ∧
  c.vecq = [] ∧ c.vecFree = 0 ∧ c.matq = [] ∧ c.matFree = 0 ∧ c.issued = 0 ∧ c.late = false ∧ c.waited = [] ∧ c.req = none ∧
  c.sync = none ∧ c.notBefore = 0 ∧ c.holding = false ∧ c.after = [] ∧ c.mu = false ∧ c.walk = none ∧ c.regOnce = []

/-- An EMPTY slot: no firing, no ports, no program, nothing carried, no event, no command. -/
def EmptySlot (v : Slot) : Prop :=
  v.sst = .empty ∧ v.fst = .none ∧ v.stamp = 0 ∧ v.cfgNum = 0 ∧ v.det = false ∧ v.prio = 0 ∧ v.budget = 0 ∧ v.entry = 0 ∧
  v.stateClass = 0 ∧ v.carry = { x := 0, v := 0, p := 0, t := 0, acc := 0 } ∧ (∀ k : Fin 64, v.carried.1[k] = 0) ∧
  (∀ k : Fin 32, v.carried.2.1[k] = 0) ∧ v.carried.2.2 = 0 ∧ v.saveBase = 0 ∧ v.ins = [] ∧ v.outs = [] ∧ v.trap = none ∧
  v.ending = none ∧ v.emissions = [] ∧ v.drains = [] ∧ v.events = [] ∧ v.ckpts = [] ∧ v.sentRound = false ∧ v.draining = false ∧
  v.drainToken = false ∧ v.commands = [] ∧ v.capture = none ∧ v.parkPending = false ∧ v.killed = false ∧ v.barrierGen = 0 ∧
  v.barrierWait = false

/-- A core whose memories and matrix registers are zero, whose granules are full, and in which nothing runs. -/
def ZeroCore (k : Core) : Prop :=
  (∀ a, memByte k.mem a = 0) ∧ (∀ a, memByte k.window a = 0) ∧ k.emptyBits = [] ∧ k.mapped = 0 ∧ k.backing = [] ∧
  (∀ t : Fin 8, k.tiles[t].bytes = 0 ∧ k.tiles[t].scale = 0 ∧ k.tiles[t].fmt = 0) ∧
  (∀ a : Fin 4, k.accs[a].bytes = 0 ∧ k.accs[a].type = 0 ∧ k.accLanded[a] = 0 ∧ k.accLoaded[a] = 0 ∧ k.accRead[a] = 0) ∧
  k.macFree = 0 ∧ k.weightFree = 0 ∧ k.drainFree = 0 ∧ k.matReads = 0 ∧ k.macTile = 0 ∧ k.mats = [] ∧ k.matSteps = [] ∧
  k.running = none ∧ k.portFree = 0 ∧ k.reach = 0 ∧ k.stores = [] ∧ k.bad = [] ∧ k.badOnce = [] ∧ k.windowBad = [] ∧
  k.windowOnce = [] ∧ k.matBad = [] ∧ k.matOnce = []

/-- A cluster whose windows and phasers are free, which no stage has joined, and whose barrier is at generation 0. -/
def ZeroCluster (k : Cluster) : Prop :=
  (∀ n : Fin 16, k.windows[n].w0 = 0 ∧ k.windows[n].w1 = 0 ∧ k.windows[n].w2 = 0) ∧
  (∀ n, (k.phaser n).valid = false ∧ (k.phaser n).failed = false ∧ (k.phaser n).phase = 0 ∧ (k.phaser n).npend = 0 ∧
    (k.phaser n).arrn = 0 ∧ (k.phaser n).arr = 0 ∧ (k.phaser n).nsig = 0) ∧
  k.members = [] ∧ k.landings = [] ∧ k.signals = [] ∧ k.barrierG = 0 ∧ k.arrived = [] ∧ k.stopped = false ∧ k.windowsBad = [] ∧
  k.phaserErr = [] ∧ k.barrierErr = false ∧ k.windowErr = [] ∧ k.engineOnce = 0 ∧ k.active = false

/-- A supervisor core that is halted, whose memories and registers are zero, and whose queues are empty. -/
def ZeroSup (u : Sup) : Prop :=
  (∀ a, memByte u.mem a = 0) ∧ (∀ a, memByte u.window a = 0) ∧ u.emptyBits = [] ∧ u.trapc = 0 ∧ u.trapa = 0 ∧ u.trapv = 0 ∧
  u.savebase = 0 ∧ u.slotstate = 0 ∧ u.codemap = 0 ∧ u.held = none ∧ u.traps = [] ∧ u.events = [] ∧ u.act = 0 ∧ u.stop = false ∧
  u.faultCause = 0 ∧ u.faultPc = 0 ∧ u.halted = true ∧ u.serves = [] ∧ u.stores = [] ∧ u.bad = [] ∧ u.badOnce = [] ∧
  u.windowBad = [] ∧ u.windowOnce = []

/-- A die whose memories and registers are zero but for the scrubber, which is on with its intervals at 4,096; its sequencer is IDLE, its
sequences, frames, query contexts and tokens are free, and its engines have nothing to do. -/
def ZeroDie (k : Die) : Prop :=
  (∀ a, memByte k.gallery a = 0) ∧ (∀ a, memByte k.codeStore a = 0) ∧ k.bad = [] ∧ k.badOnce = [] ∧ k.codeBad = [] ∧ k.codeOnce = [] ∧
  k.seqOnce = [] ∧ k.gwin = 0 ∧ k.sqpool = 0 ∧ k.sqtpool = 0 ∧ k.farrate = 0 ∧ k.sqlate = 0 ∧ k.sqrmt = 0 ∧ k.ftroot = 0 ∧ k.ftinv = 0 ∧
  k.ftmiss = 0 ∧ k.cfgstair = 0 ∧ k.actn = 0 ∧ k.ldn = 0 ∧ k.actv = false ∧ k.ldv = false ∧ k.status = 0 ∧ k.digest = 0 ∧ k.dign = 0 ∧
  (∀ n : Fin 4, k.digh[n] = 0) ∧ k.ecccnt = 0 ∧ k.scrub = 0x8000000010001000 ∧ k.scrubG = (0, 0) ∧ k.scrubL = (0, 0) ∧
  k.seqState = .idle ∧ k.loading = none ∧ k.sinkPending = false ∧ k.loadedRec = CfgRec.none ∧ k.activeRec = CfgRec.none ∧ k.counted = [] ∧
  (∀ h, k.seq h = SeqEntry.free) ∧ k.frames = [] ∧ k.blockMap = [] ∧ k.ahead = [] ∧ k.scrubMarks = [] ∧ k.bucket = 0 ∧ k.bucketStamp = 0 ∧
  k.engine = [] ∧ k.engineFree = 0 ∧ k.fills = [] ∧ (∀ n, k.query n = Query.reset) ∧ Query.reset.owner = none ∧ k.chunkReqs = [] ∧
  k.plTurn = 0 ∧ k.plFree = 0 ∧ k.tlb = [] ∧ k.walks = [] ∧ k.tokens = [] ∧ k.directory = [] ∧ k.cachedLines = [] ∧ k.clockMHz = 800 ∧
  k.mirrorOut = [] ∧ k.mirrorIn = [] ∧ k.shadows = []

/-- A package whose tables, registers and counters are zero, whose host is not there, whose memory of the host is zero, whose transfers,
commands, messages and flits are none, and which is in recovery. -/
def ZeroPkg (p : Pkg) : Prop :=
  p.fabid = 0 ∧ p.pkey = 0 ∧ p.rtAct = false ∧ p.rtBusy = false ∧ p.hallrt = [] ∧ p.strt = [] ∧ p.posmap = [] ∧ p.adapt = [] ∧ p.pmemb = [] ∧
  p.redwin = [] ∧ (∀ n, p.port n = Port.reset) ∧ Port.reset.state = .down ∧ Port.reset.en = true ∧ Port.reset.crcerr = 0 ∧ p.rejects = 0 ∧
  p.dropStamp = [] ∧ p.notices = [] ∧ p.noticeNo = 0 ∧ p.ringFailed = [] ∧ p.reserved = [] ∧ p.degraded = false ∧ p.ringOut = [] ∧
  p.ringUsed = [] ∧ p.inbox = [] ∧ p.streams = [] ∧ p.reported = false ∧ p.herr = 0 ∧ p.pmask = 0 ∧ p.width = 0 ∧ p.hostUp = false ∧
  p.hdmSize = 0 ∧ p.hdmmap = [] ∧ p.hwin = [] ∧ p.hring = [] ∧ p.horph = 0 ∧ p.horpn = 0 ∧ p.snoop = [] ∧ p.backInval = [] ∧ p.cxlLog = [] ∧
  p.mailbox = [] ∧ p.mailboxWaits = [] ∧ p.answers = [] ∧ p.fw = none ∧ p.image = [] ∧ p.imageReady = false ∧
  (∀ a, memByte p.hostMem a = 0) ∧ p.cacheWrites = [] ∧ p.hdmIn = [] ∧ p.diverts = [] ∧ p.orphanAsk = none ∧ p.chunkWait = none ∧
  (∀ n : Fin 16, p.meas[n] = 0) ∧ p.recovery = true ∧ p.firmware = [] ∧ p.svn = 0 ∧ p.events = [] ∧ p.boot.manifest = none ∧
  p.boot.raw = [] ∧ p.boot.fresh = [] ∧ p.boot.kept = [] ∧ p.boot.parts = [] ∧ p.boot.sent = [] ∧ p.boot.done = false ∧
  p.mig.state = .normal ∧ p.mig.waits = [] ∧ p.frozen = none ∧ p.heldNo = none ∧ p.holds = [] ∧ p.redLines = []

/-- After reset every byte of every memory reads zero; every granule is full; every slot is EMPTY and holds no firing; every tag is ready;
every register that the spec gives no reset value is zero (log 1); every sequencer is IDLE and every digest 0; the scrubber is on with its
intervals at 4,096; every phaser is free; every fabric port is DOWN and enabled (R407, R412); no result, request or message is in flight;
and every memory space is in canonical form. The model's own choices: the code windows and the memory of a host read zero (log 7); every
supervisor core is halted, and every package is in recovery until its reset event (log 2). -/
def Obligations.ResetState : Prop :=
  (∀ a, ZeroCtx (State.reset.ctx a)) ∧ (∀ i, EmptySlot (State.reset.slot i)) ∧ (∀ c, ZeroCore (State.reset.core c)) ∧
  (∀ c, ZeroCluster (State.reset.clu c)) ∧ (∀ v, ZeroSup (State.reset.sup v)) ∧ (∀ d, ZeroDie (State.reset.die d)) ∧
  (∀ p, ZeroPkg (State.reset.pkg p)) ∧ (∀ h a, memByte (State.reset.homeMem h) a = 0) ∧ (∀ g a, memByte (State.reset.localMem g) a = 0) ∧
  State.reset.cycle = 0 ∧ State.reset.nexts = [] ∧ State.reset.reqs = [] ∧ State.reset.agenda = [] ∧ State.reset.heldFlits = [] ∧
  State.reset.arbs = [] ∧ State.reset.memWf = true

/-- Every step keeps every memory space in canonical form: addresses strictly rise, and no byte that is listed is what an unlisted
one reads as, so that memories that read alike are equal (log 7). -/
def Obligations.MemoryKept : Prop := ∀ s t : State, s.memWf = true → step s = .next t → t.memWf = true

/-! ## Events: results, memory, the fabric -/

/-- Only the context of one agent has changed. -/
def OnlyCtx (s t : State) (a : Agent) : Prop := t = s.setCtx a (t.ctx a)
/-- Only one slot has changed. -/
def OnlySlot (s t : State) (i : SlotId) : Prop := t = s.setSlot i (t.slot i)
/-- Only one core has changed. -/
def OnlyCore (s t : State) (c : CoreId) : Prop := t = s.setCore c (t.core c)
/-- Only one die has changed. -/
def OnlyDie (s t : State) (d : DieId) : Prop := t = s.setDie d (t.die d)
/-- Only one package has changed. -/
def OnlyPkg (s t : State) (p : Nat) : Prop := t = s.setPkg p (t.pkg p)

/-- R135, R158, R172, R173, R178, R201, R204, R205, R210: a result in flight lands and writes its registers and flags; a local load
lands behind every earlier load; one whose access is still to be made makes it where the banks serve the memory port, no earlier access
of the core waits for its own and no earlier acquire is incomplete, and is in flight from then on, or its error waits as a machine check;
an atomic reads and writes its banks in one access; a run or a drain that has lost banks ends when it has had them all; a transform result lands once its count has run out, in a vector register unless a
later-issued result landed there in this cycle, or in a group of a decode bank; a local store is written in the banks where they serve
the port and no earlier store of the core waits; the head of the VEC queue executes; the head of the MAT queue dispatches once its
resource is free; a matrix run ends with its flags; a fill sets its tile's tag and frees its bank; `MM.AR`'s elements are written; a
drain's packet leaves with a credit behind the port's earlier packets.
The cycles in which the matrix unit has its banks (log 72), and that the accesses of a trapped firing do not wait for a held acquire (log 77),
are the model's choices. -/
def Obligations.ResultEvents : Prop :=
  ∀ (s : State) (a : Agent) (id : Nat) (i : SlotId) (c : CoreId),
    (∀ f, (s.ctx a).flights.find? (fun f => f.id = id) = some f →
      (∀ e, e = .scalarResultLand a id ∨ e = .vectorResultLand a id ∨
          (e = .localLoadLand a id ∧ s.earlierLoad a id = false ∧ f.access = none) →
        ∃ t, exec e s = .next t ∧ OnlyCtx s t a ∧ (t.ctx a).flights = (s.ctx a).flights.filter (fun g => g.id ≠ id) ∧
          (t.ctx a).visible = ((applyWrites f.writes (s.ctx a)).flag f.flags).visible ∧ (t.ctx a).after = (s.ctx a).after) ∧
      (f.access = none → s.earlierLoad a id = true →
        exec (.localLoadLand a id) s = .next (s.schedule (s.cycle + 1) priMem (.localLoadLand a id))) ∧
      (∀ p, f.access = some p →
        (s.accessTurn a id p = false →
          exec (.localLoadLand a id) s = .next (s.schedule (s.cycle + 1) priPort (.localLoadLand a id))) ∧
        (s.accessTurn a id p = true → p.amo = none → ∃ t, exec (.localLoadLand a id) s = .next t ∧
          (t.ctx a).visible = (s.ctx a).visible ∧ SameBytes s t ∧ (∀ b, b ≠ a → t.ctx b = s.ctx b) ∧
          (firstBad (s.badView a id) p.addr p.len = none →
            (t.ctx a).flights = (s.ctx a).flights.map (fun g => if g.id = id then
              { f with access := none, writes := p.dest.write (memRead (s.localView a id) p.addr p.len), flags := 0,
                       due := s.cycle + p.lat } else g) ∧
            (t.ctx a).after = (s.ctx a).after ∧
            { cycle := s.cycle + p.lat, pri := priMem, ev := .localLoadLand a id } ∈ t.agenda) ∧
          (∀ w, firstBad (s.badView a id) p.addr p.len = some w →
            (t.ctx a).flights = (s.ctx a).flights.filter (fun g => g.id ≠ id) ∧
            (t.ctx a).after = (s.ctx a).after ++ [(0x0B, addrValue 0 w)])) ∧
        (∀ o w old x, p.amo = some (o, w) → s.accessTurn a id p = true → s.localBad a = [] → s.badView a id = [] →
          s.pendingStores a = [] → old = memRead (s.banks a) p.addr p.len → x = amoOperand (8 * p.len) w →
          ∃ t, exec (.localLoadLand a id) s = .next t ∧
            t.banks a = memWrite (s.banks a) p.addr (leBytes p.len (amoNew o.toNat (8 * p.len) (leNat old) x)) ∧
            (t.ctx a).visible = (s.ctx a).visible ∧ (∀ b, b ≠ a → t.ctx b = s.ctx b) ∧ (∀ d, (t.die d).gallery = (s.die d).gallery) ∧
            (t.ctx a).flights = (s.ctx a).flights.map (fun g => if g.id = id then
              { f with access := none, writes := p.dest.write old, flags := amoFlags o.toNat (leNat old) x,
                       due := s.cycle + p.lat } else g) ∧
            { cycle := s.cycle + p.lat, pri := priMem, ev := .localLoadLand a id } ∈ t.agenda))) ∧
    (∀ r, (s.ctx a).xfm.find? (fun r => r.id = id) = some r →
      (r.rem ≠ 0 → exec (.xfmResultLand a id) s = .next s) ∧
      (r.rem = 0 → ∃ t, exec (.xfmResultLand a id) s = .next t ∧ OnlyCtx s t a ∧
        (t.ctx a).xfm = (s.ctx a).xfm.filter (fun q => q.id ≠ id) ∧ (t.ctx a).flights = (s.ctx a).flights ∧
        (∀ d, r.target = .v d → (∀ e ∈ (s.ctx a).vlanded, ¬ (e.1 = d ∧ r.id < e.2.1 ∧ e.2.2 = s.cycle)) →
          (t.ctx a).visible = (((s.ctx a).flag r.flags).wv d r.value).visible) ∧
        (∀ d, r.target = .v d → (∃ e ∈ (s.ctx a).vlanded, e.1 = d ∧ r.id < e.2.1 ∧ e.2.2 = s.cycle) →
          (t.ctx a).visible = ((s.ctx a).flag r.flags).visible) ∧
        (∀ b g m, r.target = .bank b g m → (t.ctx a).cur = (if m then b else (s.ctx a).cur) ∧
          (t.ctx a).bank1 = (if b then writeGroup (s.ctx a).bank1 g r.value else (s.ctx a).bank1) ∧
          (t.ctx a).bank0 = (if b then (s.ctx a).bank0 else writeGroup (s.ctx a).bank0 g r.value) ∧
          (t.ctx a).v = (s.ctx a).v ∧ (t.ctx a).x = (s.ctx a).x ∧ (t.ctx a).p = (s.ctx a).p))) ∧
    (∀ st w, (s.core i.core).stores.find? (fun st => st.id = id) = some st →
      w = writeAround (s.core i.core).bad (s.core i.core).mem st.addr st.data →
      (s.storeTurn (.stage i) st = false →
        exec (.localStoreWritten (.stage i) id) s = .next (s.schedule (s.cycle + 1) priPort (.localStoreWritten (.stage i) id))) ∧
      (s.storeTurn (.stage i) st = true → ∃ t, exec (.localStoreWritten (.stage i) id) s = .next t ∧
        (t.core i.core).mem = w.1 ∧ (t.core i.core).stores = (s.core i.core).stores.filter (fun g => g.id ≠ id) ∧
        ((s.core i.core).bad = [] → w.1 = memWrite (s.core i.core).mem st.addr st.data ∧
          (t.core i.core).emptyBits = (if st.setFull then setFull (s.core i.core).emptyBits st.addr st.data.length
            else (s.core i.core).emptyBits)) ∧
        t.ctxs = s.ctxs ∧ (∀ g, g ≠ i.core → t.core g = s.core g) ∧ (w.2.2 = none → t.sups = s.sups) ∧
        (∀ b v, w.2.2 = some b → v = serverOf i.core → (s.sup v).events.length < 64 →
          (t.sup v).events = (s.sup v).events ++ [eventRec 0x10 0 (some i) 0 (b % 2 ^ 28)]))) ∧
    (∀ v st, (s.sup v).stores.find? (fun st => st.id = id) = some st →
      (s.storeTurn (.sup v) st = false →
        exec (.localStoreWritten (.sup v) id) s = .next (s.schedule (s.cycle + 1) priPort (.localStoreWritten (.sup v) id))) ∧
      (s.storeTurn (.sup v) st = true → ∃ t, exec (.localStoreWritten (.sup v) id) s = .next t ∧
        (t.sup v).mem = (writeAround (s.sup v).bad (s.sup v).mem st.addr st.data).1 ∧
        (t.sup v).stores = (s.sup v).stores.filter (fun g => g.id ≠ id) ∧ t.ctxs = s.ctxs ∧ t.cores = s.cores ∧
        (∀ d, ∃ n, t.die d = { s.die d with ecccnt := n }))) ∧
    (∀ h r y, (s.ctx a).vecq = h :: r → vecSemOf h.instr = some y → ∃ t w, exec (.heldSyllableExecutes a) s = .next t ∧
      w = y.run (h.env (s.ctx a)) ∧ (t.ctx a).vecq = r ∧ (t.ctx a).vecFree = s.cycle + 1 ∧
      (t.ctx a).visible = (s.ctx a).visible ∧ (t.ctx a).flights = (s.ctx a).flights ++
        [{ id := h.id, due := s.cycle + y.lat, src := .vector, writes := w.1.map (RegWrite.phys h.vrb), flags := w.2,
           access := none }] ∧
      { cycle := s.cycle + y.lat, pri := priVec, ev := .vectorResultLand a h.id } ∈ t.agenda) ∧
    (∀ h r, (s.ctx (.stage i)).matq = h :: r →
      (s.matReady i = false → exec (.matDispatch i) s = .next s) ∧
      (s.matReady i = true → ∃ t, exec (.matDispatch i) s = .next t ∧ (t.ctx (.stage i)).matq = r ∧
        (bitsAt h.word.toNat 22 6 = 2 →
          t = (s.setCore i.core (t.core i.core)).setCtx (.stage i) { s.ctx (.stage i) with matq := r, matFree := s.cycle + 1 } ∧
          ((t.core i.core).accs[bitsAt h.word.toNat 16 2]?).map (·.bytes) = some 0) ∧
        (bitsAt h.word.toNat 22 6 = 3 → ∃ u ∈ (t.core i.core).mats, u.slot = i ∧ u.tile = some (bitsAt h.word.toNat 13 3)) ∧
        (bitsAt h.word.toNat 22 6 = 0 ∨ bitsAt h.word.toNat 22 6 = 5 →
          ∃ u ∈ (t.core i.core).mats, u.slot = i ∧ u.acc = some (bitsAt h.word.toNat 16 2)) ∧
        (bitsAt h.word.toNat 22 6 = 4 → ∃ u ∈ (t.slot i).drains, u.acc = bitsAt h.word.toNat 16 2 ∧ u.port = none))) ∧
    (∀ acc r, (s.core c).mats.find? (fun r => r.acc = some acc) = some r →
      (s.cycle < r.due → exec (.accumulatorLanded c acc) s =
        .next (s.schedule r.due priMatrix (.accumulatorLanded c acc))) ∧
      (r.due ≤ s.cycle → ∃ t, exec (.accumulatorLanded c acc) s = .next t ∧
      (t.core c) = { s.core c with mats := (s.core c).mats.filter (fun q => q.id ≠ r.id) } ∧
      (t.ctx (.stage r.slot)).cr = { (s.ctx (.stage r.slot)).cr with
        fstat := (s.ctx (.stage r.slot)).cr.fstat ||| r.flags, lm := (s.ctx (.stage r.slot)).cr.lm || r.lm } ∧
      t = (s.setCore c (t.core c)).setCtx (.stage r.slot) (t.ctx (.stage r.slot)))) ∧
    (∀ tile < 8, ∀ r, (s.core i.core).mats.find? (fun r => r.tile = some tile && r.slot = i) = some r →
      (s.cycle < r.due → exec (.tileFillDone i tile) s = .next (s.schedule r.due priMatrix (.tileFillDone i tile))) ∧
      (r.due ≤ s.cycle → (∀ q ∈ (s.core i.core).mats, q.tile = some tile → q.slot = i → q.id = r.id) →
      (∀ h ∈ (s.ctx (.stage i)).matq, h.fills tile = false) → ∃ t, exec (.tileFillDone i tile) s = .next t ∧
        (t.ctx (.stage i)).tags.ready.getLsbD tile = true ∧
        (t.ctx (.stage i)).refs1 = (if r.bank = some true then (s.ctx (.stage i)).refs1 - 1 else (s.ctx (.stage i)).refs1) ∧
        (t.ctx (.stage i)).refs0 = (if r.bank = some false then (s.ctx (.stage i)).refs0 - 1 else (s.ctx (.stage i)).refs0) ∧
        (t.core i.core).mats = (s.core i.core).mats.filter (fun q => q.id ≠ r.id) ∧
        t = (s.setCore i.core (t.core i.core)).setCtx (.stage i) (t.ctx (.stage i)))) ∧
    (∀ e, (s.slot i).drains.find? (fun e => e.id = id && e.port.isNone) = some e →
      (s.cycle < e.readDone → exec (.mmArWriteDone i id) s = .next (s.schedule e.readDone priWaited (.mmArWriteDone i id))) ∧
      (e.readDone ≤ s.cycle → (s.core i.core).bad = [] → (s.core i.core).badOnce = [] → ∃ t, exec (.mmArWriteDone i id) s = .next t ∧
        (t.core i.core).mem = e.store.foldl (fun m p => memWrite m p.1 p.2) (s.core i.core).mem ∧
        (t.slot i).drains = (s.slot i).drains.filter (fun g => g.id ≠ id) ∧
        (t.ctx (.stage i)).cr.fstat = (s.ctx (.stage i)).cr.fstat ||| e.flags ∧
        (∀ c', c' ≠ i.core → t.core c' = s.core c') ∧ (∀ b, b ≠ .stage i → t.ctx b = s.ctx b) ∧ t.dies = s.dies)) ∧
    (∀ e n o, (s.slot i).drains.find? (fun e => e.id = id && e.port.isSome) = some e → e.port = some n →
      tfind (s.slot i).outs n = some o →
      (s.cycle < e.readDone → exec (.mmDrainSend i id) s = .next (s.schedule e.readDone priMatrix (.mmDrainSend i id))) ∧
      (e.readDone ≤ s.cycle → o.credits = 0 ∨ (∃ x ∈ (s.slot i).emissions, x.port = n) →
        exec (.mmDrainSend i id) s = .next (s.schedule (s.cycle + 1) priMatrix (.mmDrainSend i id))) ∧
      (e.readDone ≤ s.cycle → 1 ≤ o.credits → (∀ x ∈ (s.slot i).emissions, x.port ≠ n) → ∃ t o' k, exec (.mmDrainSend i id) s = .next t ∧
        tfind (t.slot i).outs n = some o' ∧ Sent o o' k ∧ k.payload = e.pkt.payload ∧
        (t.slot i).drains = (s.slot i).drains.filter (fun x => x.id ≠ id) ∧
        (t.ctx (.stage i)).cr.fstat = (s.ctx (.stage i)).cr.fstat ||| e.flags ∧
        SameBut s t i.core.die [(s.retentionBuf i n o.nextSeq, 32 + e.pkt.payload.length)]))

/-- A request's result lands now: the request is gone and its register and flags are written, or where its access failed the cause
waits and they are kept. -/
def Lands (s t : State) (q : MemReq) : Prop :=
  t.reqs = s.reqs.filter (fun r => r.id ≠ q.id) ∧
  (q.failed = none → (t.ctx q.own).visible = ((applyWrites (q.dest.write q.value) (s.ctx q.own)).flag q.flags).visible ∧
    (t.ctx q.own).after = (s.ctx q.own).after) ∧
  (∀ f, q.failed = some f → (t.ctx q.own).visible = (s.ctx q.own).visible ∧ (t.ctx q.own).after = (s.ctx q.own).after ++ [f]) ∧
  ∀ b, b ≠ q.own → t.ctx b = s.ctx b

/-- A home in a scratchpad or a gallery. -/
def IsRam (h : Home) : Prop := (∃ c, h = .core c) ∨ ∃ d, h = .die d

/-- What a store at a home leaves: its bytes, and every other home as it was. -/
def StoredAt (s t : State) (h : Home) (addr : Nat) (data : List Byte) : Prop :=
  t.homeMem h = memWrite (s.homeMem h) addr data ∧ ∀ h', h' ≠ h → t.homeMem h' = s.homeMem h'

/-- R173, R236, R241, R242, R279, R280, R282–R285, R297: a cluster or gallery load lands behind every earlier load of its agent; a load
of a gallery reads it then, one of a scratchpad reads the banks where they serve it and lands from the next cycle on, unless an earlier
store to the place or a copy of the host keeps it back. A store writes its home and is gone, or is kept back likewise; one that has been
performed is not performed again. A multicast store, where no earlier cluster access is still to be performed, writes every target in one
cycle and sets its granules full; in a target where it meets an uncorrectable error it writes nothing and raises event 0x11 (R268). An atomic reads and
writes its home as one access, a `CAS` that fails writes nothing, and the old value lands later behind earlier loads. A `WAITA` reads
its word behind the earlier accesses of its core to it. The value of a machine check, the cycle of a fabric atomic's answer, the cycle
in which a load of a scratchpad reads and that a landing with an error writes nothing are the model's readings (log 10, log 20, log 23,
log 73). -/
def Obligations.MemoryEvents : Prop :=
  ∀ (s : State) (id : Nat),
    (∀ q ev row, s.req id = some q →
      (ev = .clusterLoadLand id ∧ row = .clusterLoadLand id) ∨ (ev = .galleryLoadLand id ∧ row = .galleryLoadLand id) →
      (q.performed = true →
        (s.earlierLoad q.own id = true → exec row s = .next (s.schedule (s.cycle + 1) priMem ev)) ∧
        (s.earlierLoad q.own id = false → ∃ t, exec row s = .next t ∧ Lands s t q ∧
          t = { s with reqs := t.reqs }.setCtx q.own (t.ctx q.own))) ∧
      (∀ d, q.place.home = .die d → q.performed = false →
        (s.earlierLoad q.own id = true → exec row s = .next (s.schedule (s.cycle + 1) priMem ev)) ∧
        (s.earlierLoad q.own id = false →
          (s.mustWait q = true → exec row s = .next ((s.askHost q).schedule (s.cycle + 1) priMem ev)) ∧
          (s.mustWait q = false → s.before q = [] → q.op = .load → q.failed = none →
            (firstBad (s.die d).bad q.place.addr q.place.len = none → ∃ t, exec row s = .next t ∧
              Lands s t { q with value := memRead (s.die d).gallery q.place.addr q.place.len } ∧ SameBytes s t) ∧
            (∀ w, firstBad (s.die d).bad q.place.addr q.place.len = some w → ∃ t, exec row s = .next t ∧
              Lands s t { q with failed := some (0x0B, checkValue q.place.home w) } ∧ SameBytes s t)))) ∧
      (∀ c, q.place.home = .core c → q.performed = false →
        (s.mustWait q = true → exec row s = .next (s.schedule (s.cycle + 1) priLate ev)) ∧
        (s.mustWait q = false → s.bankTurn c q.place.addr q.place.len ev = false → exec row s = .next (s.loseTurn c ev)) ∧
        (s.mustWait q = false → s.bankTurn c q.place.addr q.place.len ev = true → s.before q = [] → q.op = .load →
          ∃ t r, exec row s = .next t ∧ t.req id = some r ∧ r.performed = true ∧ r.dest = q.dest ∧ r.own = q.own ∧
            r.value = memRead (s.core c).mem q.place.addr q.place.len ∧
            r.failed = (firstBad (s.core c).bad q.place.addr q.place.len).map (fun w => (0x0B, checkValue q.place.home w)) ∧
            { cycle := s.cycle + 1, pri := priMem, ev := ev } ∈ t.agenda ∧ t.ctxs = s.ctxs ∧ SameBytes s t))) ∧
    (∀ q ev row data, s.req id = some q → q.op = .store data →
      (ev = .clusterStorePerformed id ∧ row = .clusterStorePerformed id) ∨
        (ev = .galleryStorePerformed id ∧ row = .galleryStorePerformed id) → IsRam q.place.home →
      (q.performed = true → exec row s = .next { s with reqs := s.reqs.filter (fun r => r.id ≠ id) }) ∧
      (q.performed = false → s.mustWait q = true → exec row s = .next ((s.askHost q).schedule (s.cycle + 1) priLate ev)) ∧
      (∀ c, q.performed = false → s.mustWait q = false → q.place.home = .core c →
        s.bankTurn c q.place.addr q.place.len ev = false → exec row s = .next (s.loseTurn c ev)) ∧
      (q.performed = false → s.mustWait q = false → s.turnOf q ev = true → s.before q = [] →
        (writeAround (s.homeBad q.place.home) (s.homeMem q.place.home) q.place.addr data).2.2 = none →
        ∃ t, exec row s = .next t ∧ t.reqs = s.reqs.filter (fun r => r.id ≠ id) ∧ t.ctxs = s.ctxs ∧
          StoredAt s t q.place.home q.place.addr data)) ∧
    (∀ q, s.req id = some q → s.ftinvWaits q = true →
      exec (.galleryStorePerformed id) s = .next (s.schedule (s.cycle + 1) priLate (.galleryStorePerformed id))) ∧
    (∀ c l, s.clus.findSome? (fun e => (e.2.landings.find? (fun l => l.id = id)).map (fun l => (e.1, l))) = some (c, l) →
      l.targets.Nodup → (∀ q ∈ s.reqs, q.id < id → q.space = 1 → q.performed = true) → ∃ t, exec (.multicastLanding id) s = .next t ∧
        (t.clu c).landings = (s.clu c).landings.filter (fun x => x.id ≠ id) ∧ t.ctxs = s.ctxs ∧
        (∀ d, ∃ n, t.die d = { s.die d with ecccnt := n }) ∧
        (∀ n ∈ l.targets, ∀ g : CoreId, g = { die := c.die, clu := c.clu, core := n } → (s.core g).bad = [] →
          (t.core g).mem = memWrite (s.core g).mem l.addr l.data ∧
          (t.core g).emptyBits = setFull (s.core g).emptyBits l.addr l.data.length) ∧
        (∀ n w, l.targets = [n] → ∀ g : CoreId, g = { die := c.die, clu := c.clu, core := n } →
          firstBad (s.core g).bad l.addr l.data.length = some w → ∀ v : SupId, v = { die := c.die, k := 0 } →
          t.core g = s.core g ∧ ((s.sup v).events.length < 64 →
          (t.sup v).events = (s.sup v).events ++ [eventRec 0x11 1 none l.window (n * 2 ^ 21 + w)])) ∧
        (∀ g : CoreId, (cluOf g ≠ c ∨ g.core ∉ l.targets) → t.core g = s.core g)) ∧
    (∀ q old w, s.req id = some q → s.rejects q = false → s.answerLost q = false → q.performed = false → s.mustWait q = false →
      s.before q = [] → IsRam q.place.home → s.turnOf q (.homePortAtomic id) = true → q.op.isLoad = true → q.op ≠ .load → q.failed = none →
      firstBad (s.homeBad q.place.home) q.place.addr q.place.len = none →
      old = memRead (s.homeMem q.place.home) q.place.addr q.place.len → w = q.op.apply (8 * q.place.len) (leNat old) →
      ∃ t, exec (.homePortAtomic id) s = .next t ∧ t.ctxs = s.ctxs ∧
        (q.op.writes (leNat old) = true → StoredAt s t q.place.home q.place.addr (leBytes q.place.len w.1)) ∧
        (q.op.writes (leNat old) = false → ∀ h, t.homeMem h = s.homeMem h) ∧
        t.req id = some { q with performed := true, flags := w.2, value := old } ∧
        (q.space ≠ 3 → { cycle := s.cycle + 10, pri := priMem, ev := .atomicOldValueLand id } ∈ t.agenda) ∧
        (q.space = 3 → { cycle := s.cycle + (16 + s.hopsTo q), pri := priMem, ev := .atomicOldValueLand id } ∈ t.agenda)) ∧
    (∀ q, s.req id = some q →
      (s.earlierLoad q.own id = true ∨ q.performed = false → exec (.atomicOldValueLand id) s =
        .next (s.schedule (s.cycle + 1) priMem (.atomicOldValueLand id))) ∧
      (s.earlierLoad q.own id = false → q.performed = true → ∃ t, exec (.atomicOldValueLand id) s = .next t ∧ Lands s t q)) ∧
    (∀ a x w, (s.ctx a).waita = some (false, x) → (s.ctx a).sync = some w → w.notified = some s.cycle →
      ∀ u d addr, u = { s with cur := a } → d = dieOf a → addr = ((s.ctx a).rx (x.zeroExtend 6)).toNat →
        u.waitaSnooped false (addr : Int) = [] →
        (u.waitaKept false (addr : Int) = true → ∃ t, exec (.waitaReread a) s = .next t ∧ (t.ctx a).visible = (s.ctx a).visible ∧
          (t.ctx a).sync = some { w with notified := some (s.cycle + 1) } ∧
          { cycle := s.cycle + 1, pri := priArrive, ev := .waitaReread a } ∈ t.agenda ∧ SameBytes s t) ∧
        (u.waitaKept false (addr : Int) = false → firstBad (s.die d).bad addr 4 = none →
        ∃ t n, exec (.waitaReread a) s = .next t ∧ (t.ctx a).visible = (s.ctx a).visible ∧
          (t.ctx a).sync = some { w with value := some (toWord (memNat (s.die d).gallery addr 4)), fail := none,
                                         notified := some n } ∧
          { cycle := n, pri := priArrive, ev := .waitaReread a } ∈ t.agenda ∧ s.cycle < n ∧ SameBytes s t))

/-- R173, R288, R363–R365, R392, R393, R397, R398, R413, R416, R423–R426: a fabric load of a gallery reads it as it lands, one of a scratchpad reads the
banks where they serve it and lands from the next cycle on; a line that is read under a token of another die is kept in the remote
cache; a fabric store writes its home; a request to another partition is dropped and counted, and its reject, or that of a request
that found no valid entry on its way, makes the cause wait, or raises event 0x47 where the firing has ended; a load whose response was
dropped at its issuer's ingress never lands. A walk waits for the host's copies of what it reads, and ends: it is counted,
its entry is installed, the bundles that waited for it find it. Invalidation empties the translation cache, or takes one page's entry. A
token is asked for, recalled where others hold it, no longer held from then on, given back and granted. A store to a host's memory is
checked once every earlier acquire is complete, becomes cache writes or goes to the orphan log, as what the check found says even where
the entry's line is waited for, and is performed as the host grants observation. Messages between dies are
events of the agenda (log 15, log 52), the order in which a full set of the remote cache gives up its lines is the model's (log 53), as
are the cycle in which a load of a scratchpad reads (log 10) and the bytes kept for the memory of a host (log 36); the value of a reject
is R422's. -/
def Obligations.FabricEvents : Prop :=
  ∀ (s : State) (id : Nat),
    (∀ q, s.req id = some q → s.rejects q = true →
      exec (.fabricLoadLand id) s = exec (.fabricReject id) (s.dropped q) ∧
      exec (.fabricStorePerformed id) s =
        .next ((s.dropped q).schedule (s.cycle + s.hopsTo q) priLate (.fabricReject id)) ∧
      ((s.dropped q).pkg (s.homeDie q.place.home).pkg).rejects = (s.pkg (s.homeDie q.place.home).pkg).rejects + 1) ∧
    (∀ q, s.req id = some q → s.rejects q = false → s.answerLost q = true → q.performed = true →
      exec (.fabricLoadLand id) s = .next s) ∧
    (∀ q, s.req id = some q → s.rejects q = false → s.answerLost q = false → s.earlierLoad q.own id = false → q.performed = true →
      ∃ t, exec (.fabricLoadLand id) s = .next t ∧ Lands s t q ∧
        ∀ page d, d = dieOf q.own → placePage q.place = some page → page.1 ≠ d → (s.pkg d.pkg).caches = true →
          ((s.die d).holds page false = true → (t.die d).cachedLines = (placeKeys q.place).foldl cacheLine (s.die d).cachedLines) ∧
          ((s.die d).holds page false = false → (t.die d).cachedLines = (s.die d).cachedLines)) ∧
    (∀ q, s.req id = some q → s.rejects q = false → s.answerLost q = false → q.performed = false → s.mustWait q = false →
      s.before q = [] → q.op = .load → q.failed = none →
      (∀ d, q.place.home = .die d → s.earlierLoad q.own id = false → firstBad (s.die d).bad q.place.addr q.place.len = none →
        ∃ t, exec (.fabricLoadLand id) s = .next t ∧
          Lands s t { q with value := memRead (s.die d).gallery q.place.addr q.place.len } ∧ SameBytes s t) ∧
      (∀ c, q.place.home = .core c →
        (s.bankTurn c q.place.addr q.place.len (.fabricLoadLand id) = false →
          exec (.fabricLoadLand id) s = .next (s.loseTurn c (.fabricLoadLand id))) ∧
        (s.bankTurn c q.place.addr q.place.len (.fabricLoadLand id) = true → ∃ t r, exec (.fabricLoadLand id) s = .next t ∧
          t.req id = some r ∧ r.performed = true ∧ r.value = memRead (s.core c).mem q.place.addr q.place.len ∧
          { cycle := s.cycle + 1, pri := priMem, ev := .fabricLoadLand id } ∈ t.agenda ∧ t.ctxs = s.ctxs ∧ SameBytes s t))) ∧
    (∀ q data, s.req id = some q → s.rejects q = false → s.answerLost q = false → q.performed = false → q.op = .store data →
      (IsRam q.place.home → s.mustWait q = false → s.before q = [] → s.turnOf q (.fabricStorePerformed id) = true →
        (writeAround (s.homeBad q.place.home) (s.homeMem q.place.home) q.place.addr data).2.2 = none →
        ∃ t, exec (.fabricStorePerformed id) s = .next t ∧ t.reqs = s.reqs.filter (fun r => r.id ≠ id) ∧
          StoredAt s t q.place.home q.place.addr data) ∧
      (∀ p n, q.place.home = .host p n → exec (.fabricStorePerformed id) s =
        .next (s.schedule s.cycle priLate (.completionWriteCheck q.id)))) ∧
    (∀ q w, s.req id = some q → w = q.failed.getD (0x07, fabricValue 2 q.virt) →
      (∀ v, q.own = .sup v → ∃ t, exec (.fabricReject id) s = .next t ∧ t.reqs = s.reqs.filter (fun r => r.id ≠ id) ∧
        (t.ctx q.own).after = (s.ctx q.own).after ++ [w]) ∧
      (∀ i, q.own = .stage i → (s.slot i).idle = false → (s.ctx q.own).firing = q.firing →
        ∃ t, exec (.fabricReject id) s = .next t ∧ t.reqs = s.reqs.filter (fun r => r.id ≠ id) ∧
          (t.ctx q.own).after = (s.ctx q.own).after ++ [w] ∧
          (t.ctx q.own).visible = (s.ctx q.own).visible) ∧
      (∀ i, q.own = .stage i → (s.slot i).idle = true ∨ (s.ctx q.own).firing ≠ q.firing → exec (.fabricReject id) s =
        .next ((s.dropReq id).dieEvent i.core.die 0x47 0 (some i) (wbits w.2 60 4) (q.virt % 2 ^ 28)))) ∧
    (∀ d vpn, s.walkLines d vpn ≠ [] → exec (.translationWalkDone d vpn) s =
      .next ((s.backInvalidate d.pkg (s.walkLines d vpn) false).schedule (s.cycle + 1) priLate (.translationWalkDone d vpn))) ∧
    (∀ d vpn, s.walkLines d vpn = [] → ∃ t, exec (.translationWalkDone d vpn) s = .next t ∧ (t.die d).ftmiss = (s.die d).ftmiss + 1 ∧
      vpn ∉ (t.die d).walks ∧ (∀ e, (s.die d).walk (vpn * 2 ^ 21) = .ok e → (t.die d).cached vpn = some e) ∧
      ((∀ e, (s.die d).walk (vpn * 2 ^ 21) ≠ .ok e) → (t.die d).tlb = (s.die d).tlb) ∧
      (∀ a, dieOf a = d → (s.ctx a).walk = some (vpn, false) → (t.ctx a).walk = some (vpn, true)) ∧
      (∀ a, dieOf a ≠ d → t.ctx a = s.ctx a)) ∧
    (∀ d vpn, ∃ t, exec (.ftinvPage d vpn) s = .next t ∧ OnlyDie s t d ∧
      ∀ e, e ∈ (t.die d).tlb ↔ e ∈ (s.die d).tlb ∧ e.2.1 ≠ vpn) ∧
    (∀ d, ∃ t, exec (.ftinvAll d) s = .next t ∧ OnlyDie s t d ∧ (t.die d).tlb = []) ∧
    (∀ home src page excl e, e = (s.die home).dir page →
      (e.recalling ≠ [] → ∃ t, exec (.tokenRequest home src page excl) s = .next t ∧ OnlyDie s t home ∧
        (t.die home).dir page = { e with waiting := e.waiting ++ [(src, excl)] }) ∧
      (e.recalling = [] → e.waiting = [] → e.conflicts src excl = [] → ∃ t u,
        exec (.tokenRequest home src page excl) s = .next t ∧ OnlyDie s u home ∧
        t = u.sendFlit home src 30 priLate (.tokenGrant src home page excl) ∧
        (u.die home).dir page = (if excl then { e with shared := [], excl := some src }
          else { e with excl := none, shared := e.shared.filter (· ≠ src) ++ [src] })) ∧
      (e.recalling = [] → e.waiting = [] → e.conflicts src excl ≠ [] → ∃ t,
        exec (.tokenRequest home src page excl) s = .next t ∧
        (t.die home).dir page = { e with waiting := [(src, excl)], recalling := e.conflicts src excl } ∧
        ∀ d ∈ e.conflicts src excl, ∀ n, s.route home d = .cost n → s.keyBad home.pkg d.pkg = false →
          { cycle := max (s.cycle + 30 + n) (s.hostBefore 1 home d), pri := priLate,
            ev := .ownershipRecall d home page } ∈ t.agenda)) ∧
    (∀ d home page, ∃ t u, exec (.ownershipRecall d home page) s = .next t ∧ OnlyDie s u d ∧
      t = u.sendFlit d home 58 priLate (.recallDone home d page) ∧
      (u.die d).tokens = (s.die d).tokens.map (fun o => { o with
        recalled := o.recalled || decide (o.home = home ∧ o.page = page) }) ∧
      (∀ x, (u.die d).holds (home, page) x = false) ∧
      (∀ l, l ∈ (u.die d).cachedLines ↔ l ∈ (s.die d).cachedLines ∧ ¬ (l.1 = home ∧ l.2 / 2 ^ 15 = page))) ∧
    (∀ home src page e, e = (s.die home).dir page → e.waiting = [] → ∃ t,
      exec (.recallDone home src page) s = .next t ∧ t = { s with dies := t.dies } ∧
      (∀ d, d ≠ home → d ≠ src → t.die d = s.die d) ∧
      (t.die src).tokens = (s.die src).tokens.filter (fun o => !(o.home = home && o.page = page && o.recalled)) ∧
      (t.die home).dir page = { e with recalling := e.recalling.filter (· ≠ src), shared := e.shared.filter (· ≠ src),
                                       excl := if e.excl = some src then none else e.excl }) ∧
    (∀ d home page excl, ∃ t, exec (.tokenGrant d home page excl) s = .next t ∧
      (t.die d).tokens = (s.die d).tokens.filter (fun o => !(o.home = home && o.page = page)) ++
        [{ home := home, page := page, excl := excl, recalled := false }] ∧
      (∀ a r x, dieOf a = d → (s.ctx a).req = some r → r.token = some (home, page, x) → r.answer = none →
        (excl = true ∨ x = false) → (t.ctx a).req = some { r with answer := some 0, trap := none } ∧
        { cycle := s.cycle + 40, pri := priArrive, ev := .controlAnswerLand a } ∈ t.agenda)) ∧
    (∀ q p n data w hr, s.req id = some q → q.place.home = .host p n → q.op = .store data → w = tget (s.pkg p).hwin n 0 →
      hr = tget (s.pkg p).hring (wbits w 59 3) 0 → s.diverted id = none →
      (s.behindAcquire q.own id = true → exec (.completionWriteCheck id) s =
        .next (s.schedule (s.cycle + 1) priLate (.completionWriteCheck id))) ∧
      (s.behindAcquire q.own id = false → (w.getLsbD 62 = false ∨ (data.length = 128 ∧ q.place.addr % 128 = 0 ∧ hr.getLsbD 63 = true ∧
          leNat ((data.drop 8).take 4) = wbits hr 0 32)) → ∃ t, exec (.completionWriteCheck id) s = .next t ∧ OnlyPkg s t p ∧
        (t.pkg p).cacheWrites = (s.pkg p).cacheWrites ++ (hostLines q.place.addr data).map (fun l =>
          { id := id, addr := l.1, data := l.2, completion := w.getLsbD 62 })) ∧
      (s.behindAcquire q.own id = false → w.getLsbD 62 = true → data.length ≠ 128 ∨ q.place.addr % 128 ≠ 0 ∨ hr.getLsbD 63 = false ∨
          leNat ((data.drop 8).take 4) ≠ wbits hr 0 32 → ∃ t, exec (.completionWriteCheck id) s = .next t ∧
        (s.orphanLines p = [] → (t.pkg p).horpn = (s.pkg p).horpn + 1 ∧ t.req id = none) ∧
        (s.orphanLines p ≠ [] → { cycle := s.cycle + 1, pri := priLate, ev := .completionWriteCheck id } ∈ t.agenda ∧
          t.reqs = s.reqs ∧ (t.pkg p).horpn = (s.pkg p).horpn ∧ id ∈ (t.pkg p).diverts.map (·.id)))) ∧
    (∀ p e, s.diverted id = some (p, e) → s.orphanLines p = [] → ∃ t, exec (.completionWriteCheck id) s = .next t ∧
      (t.pkg p).horpn = (s.pkg p).horpn + 1 ∧ t.req id = none ∧ (t.pkg p).hostMem = (s.pkg p).hostMem) ∧
    (∀ p mine, s.cacheOf id = some p → mine = (s.pkg p).cacheWrites.filter (fun w => w.id = id) →
      (∀ q, s.req id = some q → ∀ r ∈ s.before q, r.op = .load) → ∃ t, exec (.hostGlobalObservation id) s = .next t ∧
        (t.pkg p).hostMem = mine.foldl (fun m w => memWrite m w.addr w.data) (s.pkg p).hostMem ∧
        (t.pkg p).cacheWrites = (s.pkg p).cacheWrites.filter (fun w => w.id ≠ id) ∧ t.reqs = s.reqs.filter (fun r => r.id ≠ id) ∧
        ((s.pkg p).mailboxCode = none → id ∈ (s.pkg p).mailboxWaits → (s.pkg p).mailboxWaits.filter (· ≠ id) = [] → (t.pkg p).mailboxCode = some 0))

/-! ## Events: firings, ports, engines -/

/-- The registers of a context that the start of a firing leaves as they stand. -/
def StartKeeps (c d : Ctx) : Prop :=
  d.td = c.td ∧ d.rte = c.rte ∧ d.island = c.island ∧ d.bank0 = c.bank0 ∧ d.bank1 = c.bank1 ∧ d.cur = c.cur ∧
  d.stageId = c.stageId ∧ d.cr.seed = c.cr.seed ∧ d.cr.ctrbase = c.cr.ctrbase ∧ d.cr.fstat = c.cr.fstat ∧
  d.cr.cvrnd = c.cr.cvrnd

/-- What the next configuration, the other cores, clusters, dies and packages hold is as it was. -/
def ElsewhereSame (s t : State) (i : SlotId) : Prop :=
  (∀ b, b ≠ .stage i → t.ctx b = s.ctx b) ∧ (∀ j, j ≠ i → t.slot j = s.slot j) ∧ (∀ c, c ≠ i.core → t.core c = s.core c) ∧
  t.nexts = s.nexts

/-- R42, R45, R57, R59, R60, R62, R65, R76, R227, R345, R433: the core chooses the candidate that no other is ahead of, and its firing
starts with the carried registers or is restored from the save area; a wait ends; a firing ends by steps: once its results have landed
it sends what markers it owes, frees what it took, stores what it carries, and is gone as many cycles later as it carries vector
registers; a checkpoint is written and the credits that waited for it go out; a budget of 0 traps; a park completes once its
conditions hold; the commands of `SLOTCTL` wait for a running firing, clear a stage event, kill a stage or kill a firing. The model's choices: a
restore takes no cycle of its own (log 31), a killed firing shows WAITING until it has ended (log 61), several commands are kept in
order (log 62), and which buffer of the retention area a marker is kept in (log 70).
That a stage whose event is cleared arrives next at the barrier's present generation (log 41), and that a trap shows `W` where the firing state is WAITING (log 89) are its choices too; that a header with an error is left as it is (log 74), and that a park waits for a dispatched `MM.AR` and not for
a queued one are its readings (log 76). -/
def Obligations.FiringEvents : Prop :=
  ∀ (s : State) (c : CoreId) (a : Agent) (i : SlotId) (v : Slot), v = s.slot i →
    (s.nextFiring c = some i ↔ (s.core c).running = none ∧ i.core = c ∧ i.slot < 16 ∧ s.candidate i = true ∧
      ∀ j : SlotId, j.core = c → j.slot < 16 → j ≠ i → s.candidate j = true → s.ahead j i = false) ∧
    ((∀ j, s.nextFiring c = some j → (s.slot j).fst ≠ .ready) → exec (.firingStart c) s = .next s) ∧
    ((∀ j, s.nextFiring c = some j → (s.slot j).fst ≠ .parked) → exec (.parkedFiringRestore c) s = .next s) ∧
    (∀ m, s.nextFiring c = some i → v.fst = .ready → m = (if v.dataReady then none else v.markerReady) →
      ∃ t d, exec (.firingStart c) s = .next t ∧ d = t.ctx (.stage i) ∧ (t.core c).running = some i.slot ∧
        (t.core c).mem = (s.core c).mem ∧ (t.slot i).fst = .running ∧ (t.slot i).sst = v.sst ∧ (t.slot i).ins = v.ins ∧
        (t.slot i).trap = none ∧ (∀ k : Fin 64, d.x[k] = if v.carry.x.getLsbD k then v.carried.1[k] else 0) ∧
        (∀ k : Fin 32, d.v[k] = if v.carry.v.getLsbD k then v.carried.2.1[k] else 0) ∧ d.p = v.carried.2.2 &&& v.carry.p ∧
        d.rs = [] ∧ d.cr.lc = 0 ∧ d.cr.ec = 0 ∧ d.cr.vrb = 0 ∧ d.cr.mf = m.isSome ∧ (d.cr.eosf = true ↔ ∃ b, m = some b ∧ b.kind = 2) ∧
        (∀ b, m = some b → b.kind = 3 → d.cr.rnd = b.round) ∧ (m = none → d.cr.rnd = (s.ctx (.stage i)).cr.rnd) ∧
        d.cr.det = v.det ∧ d.tags.ready = 0xFFFF ∧ d.tags.bound = 0 ∧ d.pc = v.entry ∧
        d.firing = (s.ctx (.stage i)).firing + 1 ∧ d.budget = v.budget ∧ d.notBefore = s.cycle + 2 + popCount 32 v.carry.v.toNat ∧
        StartKeeps (s.ctx (.stage i)) d ∧ ElsewhereSame s t i ∧
        t = ((s.setCtx (.stage i) d).setCore c (t.core c)).setSlot i (t.slot i)) ∧
    (∀ r, s.nextFiring c = some i → v.fst = .parked → v.trap = some r →
      ∃ t d, exec (.parkedFiringRestore c) s = .next t ∧ d = t.ctx (.stage i) ∧ (t.core c).running = some i.slot ∧
        (t.core c).mem = (s.core c).mem ∧ (t.slot i).fst = .running ∧ (t.slot i).trap = none ∧ d.x[0] = 0 ∧
        (∀ k : Fin 64, k.val ≠ 0 → d.x[k] = toWord (s.saveWord i (0x100 + 8 * k))) ∧
        (∀ k : Fin 32, BitVec.ofNat 5 k ∉ s.filledRegs i →
          d.v[k] = bytesVec (memRead (s.die i.core.die).gallery (v.saveAddr + 0x1000 + 128 * k) 128)) ∧
        d.p = BitVec.ofNat 16 (s.saveWord i 0x68) ∧ d.budget = BitVec.ofNat 24 (s.saveWord i 0x10) ∧
        d.cr.lc = toWord (s.saveWord i 0x18) ∧ d.cr.mf = (s.saveWord i 0x50).testBit 32 ∧
        d.cr.eosf = (s.saveWord i 0x50).testBit 33 ∧
        ((s.saveWord i 0).testBit 36 = false ∨ s.pcEdited i = true → r.parked = true →
          d.pc = ((s.saveWord i 0 % 2 ^ 17 : Nat) : Int)) ∧
        ((s.saveWord i 0).testBit 36 = true → s.pcEdited i = false → r.parked = true → bitsAt (s.saveWord i 0) 24 8 = 0x03 →
          d.pc = signedOf 64 (s.saveWord i 0x08)) ∧
        d.notBefore = s.cycle ∧ (∀ n < 16, 8 ≤ n → d.tags.ready.getLsbD n = (s.saveWord i 0x60).testBit n) ∧
        (∀ n < 8, d.tags.ready.getLsbD n = true → (s.saveWord i 0x60).testBit n = true) ∧
        ((∀ k < 4, (s.saveWord i (0x888 + 16 * k)).testBit 32 = false) → d.tags.ready = BitVec.ofNat 16 (s.saveWord i 0x60)) ∧ d.td = (s.ctx (.stage i)).td ∧
        ElsewhereSame s t i ∧ (∀ e, (t.die e).gallery = (s.die e).gallery) ∧ t.reqs = s.reqs) ∧
    ((s.ctx a).holding = false → exec (.bundleWaitEnds a) s = .next s) ∧
    ((s.ctx a).holding = true → ∃ t u, exec (.bundleWaitEnds a) s = .next t ∧ OnlyCtx s u a ∧
      u.ctx a = { s.ctx a with holding := false, notBefore := max (s.ctx a).notBefore (s.cycle + 1) } ∧
      (isSup a = true → t = u) ∧ (∀ j, a = .stage j → OnlySlot u t j ∧
        t.slot j = { s.slot j with fst := if (s.slot j).fst = .waiting then .running else (s.slot j).fst })) ∧
    (∀ e, v.ending = some e → e.markersSent = true → s.cycle < (s.ctx (.stage i)).notBefore →
      exec (.endCompletion i) s = .next s) ∧
    (∀ e, v.ending = some e → e.markersSent = true → (s.ctx (.stage i)).notBefore ≤ s.cycle →
      ∃ t, exec (.endCompletion i) s = .next t ∧ (t.slot i).ending = none ∧
        (t.slot i).fst = (if v.isDone then .done else .none) ∧ (t.slot i).carried = v.carried ∧ (t.slot i).ins = v.ins ∧
        (t.slot i).outs = v.outs ∧ ((s.core i.core).running = some i.slot → (t.core i.core).running = none) ∧
        (t.ctx (.stage i)).visible = (s.ctx (.stage i)).visible ∧ SameBytes s t) ∧
    (∀ e, v.ending = some e → e.markersSent = false → e.kill = false → s.quiet i = false →
      exec (.endCompletion i) s = .next (s.setSlot i { v with fst := .waiting })) ∧
    (∀ e, v.ending = some e → e.markersSent = false → e.kill = false → s.quiet i = true → (s.ctx (.stage i)).cr.mf = false →
      (v.ins.map (·.1)).Nodup →
      ∃ t n, exec (.endCompletion i) s = .next t ∧ n = popCount 32 v.carry.v.toNat ∧
        (t.slot i).carried = (keepRegs (s.ctx (.stage i)).x v.carry.x.toNat, keepRegs (s.ctx (.stage i)).v v.carry.v.toNat,
          (s.ctx (.stage i)).p &&& v.carry.p) ∧
        (∀ k q, tfind v.ins k = some q → ∃ q', tfind (t.slot i).ins k = some q' ∧ q'.ring = q.ring.filter (fun b => !b.taken)) ∧
        (t.ctx (.stage i)).cr.rnd = (if v.sentRound then (s.ctx (.stage i)).cr.rnd + 1 else (s.ctx (.stage i)).cr.rnd) ∧
        (n = 0 → (t.slot i).ending = none ∧ (t.slot i).fst = (if v.isDone then .done else .none)) ∧
        (n ≠ 0 → (t.slot i).ending = some { e with markersSent := true } ∧ (t.slot i).fst = .running ∧
          (t.ctx (.stage i)).notBefore = s.cycle + n) ∧ SameBytes s t) ∧
    (∀ e k n o, v.ending = some e → e.markersSent = false → e.kill = true ∨ s.quiet i = true →
      (s.ctx (.stage i)).markerKind = some k → tfind v.outs n = some o → o.owes k = true →
      (o.credits = 0 → ∃ t, exec (.endCompletion i) s = .next t ∧ (t.slot i).ending = some e ∧ (t.slot i).fst = .waiting ∧
        (t.slot i).carried = v.carried ∧ (t.slot i).ins = v.ins ∧
        SameBut s t i.core.die (v.outs.map (fun x => (s.retentionBuf i x.1 x.2.nextSeq, 32)))) ∧
      (1 ≤ o.credits → n < 8 → ∃ t o' pkt, exec (.endCompletion i) s = .next t ∧ tfind (t.slot i).outs n = some o' ∧
        Sent o o' pkt ∧ pkt.kind = k ∧ SameBut s t i.core.die (v.outs.map (fun x => (s.retentionBuf i x.1 x.2.nextSeq, 32))))) ∧
    (∀ k r h, v.ckpts = k :: r → h = { pkg := k.spare, die := i.core.die.die : DieId } →
      ∃ t, exec (.checkpointWriteDone i) s = .next t ∧ (t.slot i).ckpts = r ∧
        (t.die h).gallery = memWrite (s.die h).gallery k.addr k.image ∧
        t = { (s.setSlot i (t.slot i)).setDie h (t.die h) with
          agenda := t.agenda, heldFlits := t.heldFlits, pkgs := t.pkgs, sups := t.sups } ∧
        ∀ e ∈ k.credits, e.1.src.core = i.core → Due.mk (s.cycle + 2) priArrive
          (.creditMessage { slot := e.1.src, port := e.1.port, chan := 0 } e.2) ∈ t.agenda) ∧
    ((v.fst = .running ∨ v.fst = .waiting) → v.ending = none → (s.ctx (.stage i)).budget = 0 →
      ∃ t r, exec (.budgetExhausted i) s = .next t ∧ (t.slot i).fst = .trapped ∧ (t.slot i).trap = some r ∧ r.cause = 0x08 ∧
        r.value = (if v.fst = .waiting then 1 else 0) ∧ r.addr = addr17 (s.ctx (.stage i)).pc ∧ r.waiting = decide (v.fst = .waiting) ∧
        r.oow = outOfWindow (s.ctx (.stage i)).pc ∧
        t = (s.landed (.stage i)).trapStage i 0x08 r.value r.addr r.addr r.waiting r.oow) ∧
    ((v.fst ≠ .running ∧ v.fst ≠ .waiting) ∨ v.ending ≠ none ∨ (s.ctx (.stage i)).budget ≠ 0 →
      exec (.budgetExhausted i) s = .next s) ∧
    (v.parkPending = false ∨ s.parkReady i = false → exec (.parkComplete i) s = .next s) ∧
    (∀ r, v.parkPending = true → s.parkReady i = true → v.trap = some r →
      ∃ t, exec (.parkComplete i) s = .next t ∧ (t.slot i).fst = .parked ∧ (t.slot i).parkPending = false ∧
        (t.slot i).trap = some { r with parked := true, resumable := !r.waiting } ∧ (t.core i.core).running = none ∧
        (v.saveAddr ∉ (s.die i.core.die).bad → (t.saveWord i 0).testBit 32 = true) ∧ ElsewhereSame s t i ∧
        (∀ x, x < v.saveAddr ∨ v.saveAddr + 65536 ≤ x → memByte (t.die i.core.die).gallery x = memByte (s.die i.core.die).gallery x) ∧
        (∀ d, d ≠ i.core.die → t.die d = s.die d)) ∧
    (v.commandWaits = true →
      exec (.slotctlClearEvent i) s = .next (s.setSlot i { v with commands := v.commands ++ [1] }) ∧
      exec (.slotctlKillStage i) s = .next (s.setSlot i { v with commands := v.commands ++ [2] }) ∧
      exec (.slotctlKillFiring i) s = .next (s.setSlot i { v with commands := v.commands ++ [3] })) ∧
    (v.commandWaits = false →
      (v.sst ≠ .faulted → exec (.slotctlClearEvent i) s = .next s) ∧
      (∀ g, g = (s.clu (cluOf i.core)).barrierG → v.sst = .faulted → ∃ t, exec (.slotctlClearEvent i) s = .next t ∧ OnlySlot s t i ∧
        t.slot i = { v with sst := .active, events := [], barrierGen := if phaseBefore v.barrierGen g then g else v.barrierGen }) ∧
      (v.sst = .empty → exec (.slotctlKillStage i) s = .next s) ∧
      (v.sst ≠ .empty → ∃ t, exec (.slotctlKillStage i) s = .next t ∧ (t.slot i).sst = .empty ∧ (t.slot i).fst = .none ∧
        (t.slot i).killed = true ∧ (t.slot i).events = [] ∧ (t.slot i).drains = [] ∧ (t.slot i).draining = false ∧
        (∀ n q, tfind (t.slot i).ins n = some q → q.ring = [] ∧ q.held = []) ∧ (t.slot i).outs = v.outs ∧
        (v.fst = .trapped ∨ v.fst = .parked → (s.core i.core).running = some i.slot → (t.core i.core).running = none) ∧
        SameBytes s t) ∧
      (v.fst ≠ .trapped → v.fst ≠ .parked → exec (.slotctlKillFiring i) s = .next s) ∧
      (v.fst = .trapped ∨ v.fst = .parked → ∃ t, exec (.slotctlKillFiring i) s = .next t ∧ (t.slot i).fst = .waiting ∧
        (t.slot i).trap = none ∧ (t.slot i).ending = some { began := s.cycle, markersSent := false, kill := true } ∧
        (t.ctx (.stage i)).visible = (s.settled (.stage i)).visible ∧ (t.ctx (.stage i)).flights = [] ∧
        (t.ctx (.stage i)).vecq = [] ∧ (t.ctx (.stage i)).matq = [] ∧ (t.ctx (.stage i)).xfm = [] ∧
        (∀ k < 4, i ∉ (t.sup { die := i.core.die, k := k }).traps) ∧ (∀ b, b ≠ .stage i → t.ctx b = s.ctx b) ∧
        (∀ j, j ≠ i → t.slot j = s.slot j)))

/-- Only one cluster has changed. -/
def OnlyClu (s t : State) (c : CluId) : Prop := t = s.setClu c (t.clu c)

/-- The input port of a slot, and the channel of it, that a packet reaches in the active configuration: the next one is not loaded
there, or the packet is not the next one's. -/
def Reaches (s : State) (dst : PortId) (pkt : Packet) (q : InPort) (ch : Chan) : Prop :=
  (∀ u, tfind s.nexts dst.slot = some u → u.cfgNum ≠ pkt.cfg ∨ (s.slot dst.slot).cfgNum = pkt.cfg) ∧
  tfind (s.slot dst.slot).ins dst.port = some q ∧ q.chans[dst.chan]? = some ch

/-- The bytes that an arriving packet leaves in its buffer: header, payload, and zeros up to 16 bytes. -/
def bufBytes (pkt : Packet) : List Byte :=
  pkt.header ++ pkt.payload ++ List.replicate (ceilDiv pkt.len 16 * 16 - pkt.len) 0

/-- R48–R50, R54, R57, R61, R72, R173, R246, R247, R259–R261, R264–R267, R355, R437: a copied packet leaves once it has been read, a
packet reaches its port, waits where its buffer's banks are served to others or a packet of its channel waits before it, and else is put
behind the others, dropped as a repetition whose credit is sent again, or counted as bad with its stage event; at a merge port it joins
the committed order at once, or is held until every channel has closed its round; a packet of the next configuration joins that one's
rings; a credit releases the retained packets up to its number; the drain of a stage begins, and DRAIN leaves each port that holds a credit; a signal or an arrival waits for
the stores before it, and is then counted; where all have signalled the phaser advances and its waiting members hear of it 4 cycles
later, and where all have arrived the barrier completes; the closing barrier of a cluster frees its phasers, windows and
members. That a FAULTED stage counts as arrived is the model's reading of R259 with R268 (log 41), and which buffer of the retention area a
packet is kept in is the model's choice (log 70).
That an `MM.AR` is one of the stores waited for is the model's reading (log 76). -/
def Obligations.PortEvents : Prop :=
  ∀ (s : State) (i : SlotId) (v : Slot) (c : CluId) (k : Cluster), v = s.slot i → c = cluOf i.core → k = s.clu c →
    (∀ id e o, (v.emissions.map (·.id)).Nodup → v.emissions.find? (fun e => e.id = id && e.copy) = some e →
      tfind v.outs e.port = some o → (s.cycle < e.due → exec (.emitCopyDone i id) s =
        .next (s.schedule e.due priPort (.emitCopyDone i id))) ∧
      (e.due ≤ s.cycle → ∃ t, exec (.emitCopyDone i id) s = .next t ∧
        (∀ x ∈ (t.slot i).emissions, x ∈ v.emissions ∧ x.id ≠ id) ∧
        (∀ x ∈ v.emissions, x.id ≠ id → x.copy = true ∨ x.port ≠ e.port → x ∈ (t.slot i).emissions) ∧
        (∀ arr, arr = .packetArrival { slot := o.dst, port := o.dport, chan := o.chan } e.pkt → o.dst.core = i.core →
          s.heldBefore arr = false → Due.mk (s.behind arr (max (s.cycle + 1) o.lastArr)) priLate arr ∈ t.agenda) ∧
        t.ctxs = s.ctxs ∧ t.cores = s.cores ∧ t.dies = s.dies ∧ ∀ j, j ≠ i → t.slot j = s.slot j)) ∧
    (∀ (dst : PortId) (pkt : Packet) w, dst.slot = i → w = (s.arrivalSpan dst pkt).getD (0, 0) →
      s.bankTurn i.core w.1 w.2 (.packetArrival dst pkt) = false →
      exec (.packetArrival dst pkt) s = .next (s.loseTurn i.core (.packetArrival dst pkt))) ∧
    (∀ (dst : PortId) (pkt : Packet) q ch w, dst.slot = i → Reaches s dst pkt q ch → v.killed = false →
      w = (s.arrivalSpan dst pkt).getD (0, 0) → s.bankTurn i.core w.1 w.2 (.packetArrival dst pkt) = true →
      (pkt.cfg = v.cfgNum → pkt.kind < 5 → pkt.seq = ch.expected → pkt.len ≤ q.size → q.merge = false → (s.core i.core).bad = [] →
        (s.core i.core).badOnce = [] → ∃ t addr q', exec (.packetArrival dst pkt) s = .next t ∧ addr = q.base + (dst.chan * q.bufs + ch.next) * q.stride ∧
          tfind (t.slot i).ins dst.port = some q' ∧ q'.ring = q.ring ++ [bufOf pkt dst.chan addr s.cycle] ∧
          q'.chans[dst.chan]? = some { ch with expected := ch.expected + 1, next := (ch.next + 1) % max q.bufs 1 } ∧
          (t.core i.core).mem = memWrite (s.core i.core).mem addr (bufBytes pkt) ∧
          t = { (s.setSlot i (t.slot i)).setCore i.core (t.core i.core) with arbs := t.arbs }) ∧
      (∀ b, pkt.cfg = v.cfgNum → pkt.kind < 5 → pkt.seq = ch.expected → pkt.len ≤ q.size → q.merge = true →
        (s.core i.core).bad = [] → (s.core i.core).badOnce = [] →
        b = bufOf pkt dst.chan (q.base + (dst.chan * q.bufs + ch.next) * q.stride) s.cycle →
        ∃ t q', exec (.packetArrival dst pkt) s = .next t ∧ tfind (t.slot i).ins dst.port = some q' ∧
          (t.core i.core).mem = memWrite (s.core i.core).mem b.addr (bufBytes pkt) ∧ t.ctxs = s.ctxs ∧
          q'.chans[dst.chan]? = some { ch with expected := ch.expected + 1, next := (ch.next + 1) % max q.bufs 1 } ∧
          (v.det = false → isData pkt.kind = true → q.front dst.chan = none → (∀ x ∈ q.ring, x.at_ ≠ s.cycle) →
            q'.ring = q.ring ++ [b] ∧ q'.held = q.held) ∧
          (v.det = true ∨ isData pkt.kind = false ∨ q.front dst.chan ≠ none →
            (∃ c < q.chans.length, ({ q with held := q.held ++ [b] } : InPort).front c = none) →
            q'.ring = q.ring ∧ q'.held = q.held ++ [b]) ∧
          (v.det = true ∨ isData pkt.kind = false ∨ q.front dst.chan ≠ none → ∀ q1, q1 = { q with held := q.held ++ [b] } →
            q'.ring = (q1.commit v.det q1.held.length).ring ∧ q'.held = (q1.commit v.det q1.held.length).held) ∧
          (q'.mismatch = true → .markerMismatch ∉ v.events → (t.slot i).events = v.events ++ [.markerMismatch]) ∧
          (q'.mismatch = false → q'.overflow v.det dst.chan = true → .mergeOverflow ∉ v.events →
            (t.slot i).events = v.events ++ [.mergeOverflow])) ∧
      (pkt.cfg = v.cfgNum → pkt.kind < 5 → (pkt.seq - ch.expected).toInt < 0 → ∃ t q',
        exec (.packetArrival dst pkt) s = .next t ∧ tfind (t.slot i).ins dst.port = some q' ∧ q'.ring = q.ring ∧
          q'.chans[dst.chan]? = some { ch with dup := min 65535 (ch.dup + 1) } ∧ t.ctxs = s.ctxs ∧ t.cores = s.cores ∧
          (∀ n, ch.freed = some n → ch.src.core = i.core → Due.mk (s.cycle + 2) priArrive
            (.creditMessage { slot := ch.src, port := ch.port, chan := 0 } n) ∈ t.agenda)) ∧
      (pkt.cfg ≠ v.cfgNum ∨ 5 ≤ pkt.kind → ∃ t q', exec (.packetArrival dst pkt) s = .next t ∧
        tfind (t.slot i).ins dst.port = some q' ∧ q'.ring = q.ring ∧
        q'.chans[dst.chan]? = some { ch with bad := min 255 (ch.bad + 1) } ∧ t.ctxs = s.ctxs ∧ t.cores = s.cores ∧
        (t.slot i).events = v.events ++ [.wrongPacket] ∧ (v.idle = true → v.sst = .active → (t.slot i).sst = .faulted)) ∧
      (pkt.cfg = v.cfgNum → pkt.kind < 5 → 0 < (pkt.seq - ch.expected).toInt →
        ((s.pkg i.core.die.pkg).frozen = none → ∃ t, exec (.packetArrival dst pkt) s = .next t ∧ (t.slot i).ins = v.ins ∧
          (t.slot i).events = v.events ++ [.sequenceGap] ∧ t.ctxs = s.ctxs ∧ t.cores = s.cores) ∧
        ((s.pkg i.core.die.pkg).frozen ≠ none → ∃ t q', exec (.packetArrival dst pkt) s = .next t ∧
          t = { s.setSlot i (t.slot i) with arbs := t.arbs } ∧ tfind (t.slot i).ins dst.port = some q' ∧ q'.ring = q.ring ∧
          q'.chans[dst.chan]? = some { ch with bad := min 255 (ch.bad + 1) } ∧ (t.slot i).events = v.events)) ∧
      (pkt.cfg = v.cfgNum → pkt.kind < 5 → pkt.seq = ch.expected → q.size < pkt.len → ∃ t,
        exec (.packetArrival dst pkt) s = .next t ∧ (t.slot i).ins = v.ins ∧ (t.slot i).events = v.events ++ [.length] ∧
          t.ctxs = s.ctxs ∧ t.cores = s.cores)) ∧
    (∀ (dst : PortId) (pkt : Packet) q ch, dst.slot = i → Reaches s dst pkt q ch → v.killed = true →
      s.bankTurn i.core 0 0 (.packetArrival dst pkt) = true → ∃ t, exec (.packetArrival dst pkt) s = .next t ∧
      t = { s with agenda := t.agenda, heldFlits := t.heldFlits, pkgs := t.pkgs, sups := t.sups, arbs := t.arbs } ∧
      (ch.src.core = i.core → Due.mk (s.cycle + 2) priArrive
        (.creditMessage { slot := ch.src, port := ch.port, chan := 0 } pkt.seq) ∈ t.agenda)) ∧
    (∀ (dst : PortId) (pkt : Packet) u q ch w, dst.slot = i → tfind s.nexts i = some u → u.cfgNum = pkt.cfg → v.cfgNum ≠ pkt.cfg →
      tfind u.ins dst.port = some q → q.chans[dst.chan]? = some ch → w = (s.arrivalSpan dst pkt).getD (0, 0) →
      s.bankTurn i.core w.1 w.2 (.packetArrival dst pkt) = true → u.killed = false → pkt.kind < 5 → pkt.seq = ch.expected →
      pkt.len ≤ q.size → q.merge = false → (s.core i.core).bad = [] → (s.core i.core).badOnce = [] →
      ∃ t u' q' addr, exec (.packetArrival dst pkt) s = .next t ∧ addr = q.base + (dst.chan * q.bufs + ch.next) * q.stride ∧
        tfind t.nexts i = some u' ∧ tfind u'.ins dst.port = some q' ∧ q'.ring = q.ring ++ [bufOf pkt dst.chan addr s.cycle] ∧
        q'.chans[dst.chan]? = some { ch with expected := ch.expected + 1, next := (ch.next + 1) % max q.bufs 1 } ∧
        (t.core i.core).mem = memWrite (s.core i.core).mem addr (bufBytes pkt) ∧
        t = { s.setCore i.core (t.core i.core) with arbs := t.arbs, nexts := tset s.nexts i u' }) ∧
    (∀ port num o, tfind v.outs port = some o → ∃ t o', exec (.creditMessage { slot := i, port := port, chan := 0 } num) s = .next t ∧
      OnlySlot s t i ∧ t.slot i = { v with outs := tset v.outs port o' } ∧
      ((∀ n, o.credited = some n → 0 < (num - n).toInt) → o'.credited = some num ∧
        o'.retained = o.retained.filter (fun x => 0 < (x.seq - num).toInt) ∧
        o'.credits = o.credits + (o.retained.length - o'.retained.length)) ∧
      (∀ n, o.credited = some n → (num - n).toInt ≤ 0 → o' = o)) ∧
    (v.canDrain = false → exec (.drainAction i) s = .next s) ∧
    (v.canDrain = true → ∃ t, exec (.drainAction i) s = .next t ∧ (t.slot i).draining = true ∧ (t.slot i).outs = v.outs ∧
      (t.slot i).sst = (if v.outs.all (fun o => o.2.drainSent) ∧ v.fst ≠ .done then .drained else v.sst) ∧
      ((v.ins.map (·.1)).Nodup → ∀ n q, tfind v.ins n = some q → ∃ q', tfind (t.slot i).ins n = some q' ∧
        q'.ring = q.ring.filter (fun b => !decide (b.kind = 4))) ∧ t.ctxs = s.ctxs ∧ t.cores = s.cores) ∧
    (∀ n, v.canDrainPort n = false → exec (.drainSend i n) s = .next s) ∧
    (∀ n o, v.canDrainPort n = true → tfind v.outs n = some o → ∃ t o' x, exec (.drainSend i n) s = .next t ∧
      tfind (t.slot i).outs n = some o' ∧ Sent o o' x ∧ x.kind = 4 ∧ o'.drainSent = true ∧ (t.slot i).ins = v.ins ∧
      t.ctxs = s.ctxs ∧ t.cores = s.cores ∧ SameBut s t i.core.die [(s.retentionBuf i n o.nextSeq, 32)]) ∧
    (∀ ph g, k.signals.find? (fun g => g.slot = i && g.ph = ph) = some g → s.storesDone (.stage i) g.upto = false →
      (∀ n, ph = some n → exec (.phaserSignalArrival i n) s = .next (s.schedule (s.cycle + 1) priArrive (.phaserSignalArrival i n))) ∧
      (ph = none → exec (.barrierArrival i) s = .next (s.schedule (s.cycle + 1) priArrive (.barrierArrival i)))) ∧
    (∀ n g e m f f', k.signals.find? (fun g => g.slot = i && g.ph = some n) = some g → s.storesDone (.stage i) g.upto = true →
      k.member i n = some (e, m) → f = k.phaser n →
      f' = (if m.sph = f.phase then { f with arr := f.arr + 1 } else if m.sph = f.phase + 1 then { f with arrn := f.arrn + 1 } else f) →
      (¬ (1 ≤ f'.nsig.toNat ∧ f'.arr = f'.nsig) → ∃ t, exec (.phaserSignalArrival i n) s = .next t ∧ OnlyClu s t c ∧
        (t.clu c).phaser n = f' ∧ (∀ j, j ≠ n → (t.clu c).phaser j = k.phaser j) ∧
        (t.clu c).members = tset k.members e { m with sph := m.sph + 1 } ∧
        (t.clu c).signals = eraseFirst (fun g => g.slot = i && g.ph = some n) k.signals) ∧
      (1 ≤ f'.nsig.toNat → f'.arr = f'.nsig → ¬ (1 ≤ (f'.nsig + f'.npend).toNat ∧ f'.arrn = f'.nsig + f'.npend) →
        ∃ t, exec (.phaserSignalArrival i n) s = .next t ∧ (t.clu c).phaser n =
          { f' with phase := f'.phase + 1, nsig := f'.nsig + f'.npend, npend := 0, arr := f'.arrn, arrn := 0 } ∧
          (∀ x ∈ (t.clu c).members, x.2.phn.toNat = n → x.2.mst ≠ 1) ∧
          (∀ x ∈ (t.clu c).members, x.2.phn.toNat = n → x.2.mst = 3 → s.waitsOn (x.2.slotId c) n = true →
            phaseBefore x.2.wph (f'.phase + 1) = true →
            Due.mk (s.cycle + 4) priArrive (.phaserAdvanceDelivery (x.2.slotId c) n) ∈ t.agenda) ∧
          t.ctxs = s.ctxs ∧ t.slots = s.slots)) ∧
    (∀ g, k.signals.find? (fun g => g.slot = i && g.ph = none) = some g → s.storesDone (.stage i) g.upto = true → k.stopped = false →
      ((s.barrierNeeds c).all (· ∈ k.arrived ++ [i]) = false → ∃ t, exec (.barrierArrival i) s = .next t ∧ OnlyClu s t c ∧
        (t.clu c).arrived = k.arrived ++ [i] ∧ (t.clu c).barrierG = k.barrierG) ∧
      ((s.barrierNeeds c).all (· ∈ k.arrived ++ [i]) = true → ∃ t, exec (.barrierArrival i) s = .next t ∧
        (t.clu c).arrived = [] ∧ (t.clu c).barrierG = k.barrierG + 1 ∧ t.slots = s.slots ∧ t.ctxs = s.ctxs ∧
        ∀ j ∈ k.arrived ++ [i], Due.mk (s.cycle + 4) priArrive (.barrierCompletionDelivery j) ∈ t.agenda)) ∧
    (∀ w row n, (s.ctx (.stage i)).sync = some w → (row = .phaserAdvanceDelivery i n ∧ s.waitsOn i n = true) ∨
        (row = .barrierCompletionDelivery i ∧ v.barrierWait = true) →
      ∃ t, exec row s = .next t ∧ OnlyCtx s t (.stage i) ∧
        t.ctx (.stage i) = { s.ctx (.stage i) with sync := some { w with notified := some s.cycle } }) ∧
    (s.closing c = false → exec (.closingBarrierComplete c) s = .next s) ∧
    (s.closing c = true → ∃ t, exec (.closingBarrierComplete c) s = .next t ∧ OnlyClu s t c ∧ (t.clu c).active = false ∧
      (∀ j < 16, ((t.clu c).phaser j).valid = false) ∧ (∀ j : Fin 16, (t.clu c).windows[j].w0.getLsbD 63 = false) ∧
      (t.clu c).members = [] ∧ (t.clu c).signals = [] ∧ (t.clu c).arrived = [])

/-- A request that an engine has served: it has left the queue, the engine is taken for `cost` cycles, and the firing that asked, where
it still takes the answer, learns the word or the trap then. -/
def Served (s t : State) (d : DieId) (q : EngReq) (cost : Nat) (w : Word) (trap : Option (Nat × Word)) : Prop :=
  (t.die d).engine = (s.die d).engine.filter (fun r => r.id ≠ q.id) ∧ (t.die d).engineFree = s.cycle + cost ∧
  (q.live = true → Due.mk (s.cycle + cost) priArrive (.controlAnswerLand q.own) ∈ t.agenda ∧
    t.ctx q.own = { s.ctx q.own with req := (s.ctx q.own).req.map (fun r => { r with answer := some w, trap := trap }) }) ∧
  (q.live = false → t.ctx q.own = s.ctx q.own) ∧ ∀ b, b ≠ q.own → t.ctx b = s.ctx b

/-- The engine answers a request in a number of cycles, and no sequence changes. -/
def Answers (s : State) (d : DieId) (q : EngReq) (cost : Nat) (w : Word) (trap : Option (Nat × Word)) : Prop :=
  ∃ t, exec (.seqRequestServe d) s = .next t ∧ Served s t d q cost w trap ∧ (t.die d).seqs = (s.die d).seqs ∧ SameBytes s t

/-- The engine answers a request in a number of cycles, one sequence becomes `e`, and the others stay. -/
def Makes (s : State) (d : DieId) (q : EngReq) (cost : Nat) (w : Word) (h : Nat) (e : SeqEntry) (f : State → Prop) : Prop :=
  ∃ t, exec (.seqRequestServe d) s = .next t ∧ Served s t d q cost w none ∧ (t.die d).seq h = e ∧
    (∀ j, j ≠ h → (t.die d).seq j = (s.die d).seq j) ∧ f t

/-- What `SQ.NEW` admits as its operand. -/
def NewOk (a : Word) : Prop :=
  wbits a 0 17 % 16 = 0 ∧ 16 ≤ wbits a 0 17 ∧ wbits a 0 17 ≤ 65536 ∧
  (a.getLsbD 24 = true → wbits a 0 17 ∈ [80, 160, 304]) ∧ a.toNat = wbits a 0 17 + bit (a.getLsbD 24) * 2 ^ 24

/-- A die without errors whose lines no host holds. -/
def Plain (s : State) (d : DieId) : Prop := (s.die d).bad = [] ∧ (s.die d).badOnce = [] ∧ (s.pkg d.pkg).snoop = []

/-- A fill that the engine has begun: it is among the fills, and is done one cycle before `n` cycles are over. -/
def Filling (s t : State) (d : DieId) (q : EngReq) (tag : BitVec 4) (v : Option (BitVec 5)) (k : Option (BitVec 3)) (data : List Byte)
    (n : Nat) : Prop :=
  (t.die d).fills = (s.die d).fills ++
    [{ id := q.id, own := q.own, tag := tag, vreg := v, tile := k, data := data, fail := none, last := none, landed := false }] ∧
  Due.mk (s.cycle + n - 1) priLate (.gatherFillDone d q.id) ∈ t.agenda ∧
  (t.die d).engine = (s.die d).engine.filter (fun r => r.id ≠ q.id) ∧ t.ctxs = s.ctxs ∧ SameBytes s t

/-- No error waits to be met in the entry of a handle, nor in the entry of its home behind a remote one. -/
def EntrySound (s : State) (d : DieId) (h : Nat) : Prop :=
  ((s.die d).seq h).bad = false ∧ h ∉ (s.die d).seqOnce ∧
    ∀ home hh, ((s.die d).seq h).home = some (home, hh) → ((s.die home).seq hh).bad = false ∧ hh ∉ (s.die home).seqOnce

/-- R299–R301, R304, R306–R315, R317–R320, R324–R326, R338, R339, R357, R433: the sequence engine serves the head of its queue: it
opens, extends, commits, measures, forks and frees sequences, or reports why not, each in its number of cycles; it gathers. What it
reserves is zeroed and stands in the block table; an entry, or a word of its block table, with an uncorrectable error makes the entry
FAILED, and the request is answered with 3. An answer lands; a mirror keeps shadow entries and acknowledges, behind what waits for the host's copies; a fill or a chunk is written and its tag is ready; the far-read bucket is
refilled; a stage-ahead copy lands, waits for the host's copies, is dropped as late or because its sequence is gone, or makes its home entry FAILED where the block's
word has an error; the posting engine decodes a block; a FAILED entry is freed, and remote
entries are installed and removed. That a request is served in one step, and where in its pages a block's word stands, is the model's
choice (log 9, log 17), and so is how a sequence is told from a later one of its handle (log 94). -/
def Obligations.EngineEvents : Prop :=
  ∀ (s : State) (d : DieId) (k : Die), k = s.die d →
    (∀ q, s.seqServable d = some q → s.seqServable d = k.head false ∧ k.engineFree ≤ s.cycle) ∧
    (∀ q a, s.seqServable d = some q → q.op = .new a →
      (¬ NewOk a → Answers s d q 32 0 (seqError 0 0 4)) ∧
      (NewOk a → k.freeHandle = none → Answers s d q 32 refusal none) ∧
      (∀ h, NewOk a → k.freeHandle = some h → Makes s d q 32 (toWord h) h
        { SeqEntry.free with st := 1, size := wbits a 0 17, kv := a.getLsbD 24, owner := slotOf q.own, gen := q.id } (SameBytes s))) ∧
    (∀ q hw e, s.seqServable d = some q → q.op.handle = some hw → wbits hw 16 48 = 0 → e = k.seq (wbits hw 0 16) → e.bad = true →
      e.st = 1 → e.home = none → ∃ t cost, exec (.seqRequestServe d) s = .next t ∧ Served s t d q cost 0 (seqError e.c hw 3) ∧
        (t.die d).seq (wbits hw 0 16) = { e with st := 3, bad := false } ∧ SameBytes s t) ∧
    (∀ h, k.freeHandle = some h ↔ h < 65536 ∧ (k.seq h).st = 0 ∧ ∀ j < h, (k.seq j).st ≠ 0) ∧
    (∀ q hw nw e n, s.seqServable d = some q → q.op = .res hw nw → e = k.seq (wbits hw 0 16) → n = nw.toNat →
      EntrySound s d (wbits hw 0 16) →
      (∀ why, k.seqWhy hw false = some why → Answers s d q 28 0 (seqError e.c hw why)) ∧
      (k.seqWhy hw false = none →
        (n < 1 ∨ 4096 < n → Answers s d q 28 0 (seqError e.c hw 5)) ∧
        (1 ≤ n → n ≤ 4096 → 4194304 < e.res + n → Answers s d q 28 0 (seqError e.c hw 7)) ∧
        (1 ≤ n → n ≤ 4096 → e.res + n ≤ 4194304 → 4096 < e.res + n - e.c ∨ k.take false e (e.res + n) = none →
          Answers s d q 28 refusal none) ∧
        (∀ fs ps frames e' at_, 1 ≤ n → n ≤ 4096 → e.res + n ≤ 4194304 → e.res + n - e.c ≤ 4096 →
          k.take false e (e.res + n) = some (fs, ps, frames) → (s.pkg d.pkg).snoop = [] → s.hasMirror e = false →
          e' = e.reserve n fs ps → at_ = (fun j => e'.tableWord (e.table.length + j)) →
          Makes s d q (28 + fs.length * (8 + ceilDiv e.frameLen 1024)) (toWord e.res) (wbits hw 0 16) e' (fun t =>
            (t.die d).frames = frames ∧
            (∀ x, (∀ j < fs.length, x < at_ j ∨ at_ j + 8 ≤ x) → memByte (t.die d).gallery x =
              if ∃ f ∈ fs, f ≤ x ∧ x < f + e.frameLen then 0 else memByte k.gallery x) ∧
            (∀ j < fs.length, (∀ i < fs.length, i ≠ j → at_ i + 8 ≤ at_ j ∨ at_ j + 8 ≤ at_ i) →
              memNat (t.die d).gallery (at_ j) 8 = fs.getD j 0 % 2 ^ 64))))) ∧
    (∀ q fw hw nw e, s.seqServable d = some q → q.op = .com fw hw nw → e = k.seq (wbits hw 0 16) →
      EntrySound s d (wbits hw 0 16) →
      (∀ why, k.seqWhy hw false = some why → Answers s d q 24 0 (seqError e.c hw why)) ∧
      (k.seqWhy hw false = none → e.commit fw.toNat nw.toNat = none → Answers s d q 24 0 (seqError e.c hw 6)) ∧
      (∀ e', k.seqWhy hw false = none → e.commit fw.toNat nw.toNat = some e' → s.hasMirror e = false →
        Makes s d q 24 0 (wbits hw 0 16) e' (SameBytes s))) ∧
    (∀ e e' f n, SeqEntry.commit e f n = some e' → e'.res = e.res ∧ e'.table = e.table ∧ e'.size = e.size ∧ e'.c ∉ e'.marks ∧
      ∀ j, j < e'.c ∨ j ∈ e'.marks ↔ j < e.c ∨ j ∈ e.marks ∨ (f ≤ j ∧ j < f + n)) ∧
    (∀ q hw qw e, s.seqServable d = some q → q.op = .len hw qw → e = k.seq (wbits hw 0 16) →
      EntrySound s d (wbits hw 0 16) →
      (∀ why, k.seqWhy hw true = some why → Answers s d q 24 0 (seqError e.c hw why)) ∧
      (k.seqWhy hw true = none → e.home = none → e.st = 1 → (s.pkg d.pkg).snoop = [] →
        (wbits qw 60 4 = 0 → Answers s d q 24 (toWord e.c) none) ∧ (wbits qw 60 4 = 1 → Answers s d q 24 (toWord e.res) none) ∧
        (wbits qw 60 4 = 2 → wbits qw 0 22 < e.res → k.tableBad e [wbits qw 0 22 / 16] = true → ∃ t,
          exec (.seqRequestServe d) s = .next t ∧ Served s t d q 24 0 (seqError e.c hw 3) ∧
          (t.die d).seq (wbits hw 0 16) = { e with st := 3, bad := false } ∧ SameBytes s t) ∧
        (wbits qw 60 4 = 2 → wbits qw 0 22 < e.res → k.tableBad e [wbits qw 0 22 / 16] = false →
          Answers s d q 24 (toWord (e.table.getD (wbits qw 0 22 / 16) 0 + wbits qw 0 22 % 16 * e.size)) none) ∧
        (wbits qw 60 4 = 2 → e.res ≤ wbits qw 0 22 → Answers s d q 24 0 (seqError e.c hw 8)) ∧
        (wbits qw 60 4 = 3 → Answers s d q 24 (toWord (e.size + bit e.kv * 2 ^ 17 + 2 ^ 18 + e.table.length * 2 ^ 32)) none) ∧
        (4 ≤ wbits qw 60 4 → Answers s d q 24 0 (seqError e.c hw 8)))) ∧
    (∀ q hw e, s.seqServable d = some q → q.op = .fork hw → e = k.seq (wbits hw 0 16) → EntrySound s d (wbits hw 0 16) →
      (∀ why, k.seqWhy hw false = some why → Answers s d q 40 0 (seqError e.c hw why)) ∧
      (∀ child ce tail frames, k.seqWhy hw false = none → k.bad = [] → k.freeHandle = some child →
        k.forked false e (slotOf q.own) = some (ce, tail, frames) → (s.pkg d.pkg).snoop = [] → s.hasMirror e = false →
        ce.res = e.c ∧ ce.c = e.c ∧ ce.marks = [] ∧ ce.size = e.size ∧
        Makes s d q e.forkCost (toWord child) child { ce with gen := q.id } (fun t => (t.die d).frames = frames))) ∧
    (∀ q hw e, s.seqServable d = some q → q.op = .drop hw → e = k.seq (wbits hw 0 16) → EntrySound s d (wbits hw 0 16) →
      (∀ why, k.seqWhy hw false = some why → Answers s d q 28 0 (seqError e.c hw why)) ∧
      (k.seqWhy hw false = none → k.bad = [] → (s.pkg d.pkg).snoop = [] → Makes s d q (28 + 2 * e.table.length) 0 (wbits hw 0 16) SeqEntry.free (fun t =>
        (t.die d).frames = e.table.foldl dropFrame k.frames ∧ SameBytes s t))) ∧
    (∀ q rw hw bw, s.seqServable d = some q → q.op = .pre rw hw bw → k.seqWhy hw true = none →
      EntrySound s d (wbits hw 0 16) → (k.seq (wbits hw 0 16)).home = none → wbits bw 0 18 + (wbits bw 20 8 + 1) ≤ 262144 → Answers s d q 24 0 none) ∧
    (∀ q td v tag, s.seqServable d = some q → q.op = .gathV td v tag → Desc.space td = 2 → q.live = true → Plain s d →
      ∃ t, exec (.seqRequestServe d) s = .next t ∧ Filling s t d q tag (some v) none
        (padTo 128 ((Desc.gatherLanes td).flatMap (fun sp => memRead k.gallery sp.addr.toNat sp.len))) 36) ∧
    (∀ q td tile b v lo hi, s.seqServable d = some q → q.op = .sqGath td tile 0 b → q.live = true → Plain s d → k.ahead = [] →
      EntrySound s d (wbits td[0] 0 16) → s.gatherSeq d (wbits td[0] 0 16) = .inl (d, v, 0) → (lo, hi) = coverOf b (ceilDiv 4096 v.size) v.c →
      ∃ t n, exec (.seqRequestServe d) s = .next t ∧ Filling s t d q (tile.zeroExtend 4) none (some tile)
        (padTo 4096 ((List.range (hi - lo)).flatMap (fun j => memRead k.gallery
          (v.table.getD ((lo + j) / 16) 0 + (lo + j) % 16 * v.size) (min v.size (4096 - j * v.size))))) n) ∧
    (∀ a r, (s.ctx a).req = some r → r.answer ≠ none ∨ r.trap ≠ none → ∃ t, exec (.controlAnswerLand a) s = .next t ∧ OnlyCtx s t a ∧
      t.ctx a = { s.ctx a with req := some { r with landed := true } }) ∧
    (∀ m : MirrorMsg, k.mirrorIn ≠ [] ∨ s.mirrorLines d m.src m.op ≠ ([], []) →
      exec (.mirrorForward d m) s = .next (s.modDie d (fun k => { k with mirrorIn := k.mirrorIn ++ [m] }))) ∧
    (∀ src h size kv id, k.mirrorIn = [] → ∃ t, exec (.mirrorForward d { src := src, op := .create h size kv id }) s = .next t ∧ OnlyDie s t d ∧
      (t.die d).shadow src h =
        some { home := src, handle := h, entry := { SeqEntry.free with st := 1, size := size, kv := kv } }) ∧
    (∀ src h id, k.mirrorIn = [] → ∃ t, exec (.mirrorForward d { src := src, op := .drop h id }) s = .next t ∧ OnlyDie s t d ∧
      (t.die d).shadow src h = none) ∧
    (∀ src h n id, k.mirrorIn = [] → k.shadow src h = none → exec (.mirrorForward d { src := src, op := .reserve h n id }) s =
      .next (s.sendFlit d src 30 priLate (.mirrorAcknowledgement src id false))) ∧
    (∀ src h f n id, k.mirrorIn = [] → ∃ t u, exec (.mirrorForward d { src := src, op := .commit h f n id }) s = .next t ∧
      t = u.sendFlit d src 30 priLate (.mirrorAcknowledgement src id true) ∧ (u = s ∨ OnlyDie s u d) ∧
      ∀ e e', k.shadow src h = some e → e.entry.commit f n = some e' →
        (u.die d).shadow src h = some { home := src, handle := h, entry := e' }) ∧
    (∀ id m, k.mirrorOut.find? (fun m => m.id = id) = some m →
      (∀ ok r, k.engine.find? (fun q => q.id = id) = none → (s.ctx m.own).req = some r → ∃ t,
        exec (.mirrorAcknowledgement d id ok) s = .next t ∧ (t.die d).mirrorOut = k.mirrorOut.filter (fun e => e.id ≠ id) ∧
        t.ctx m.own = { s.ctx m.own with req := some { r with answer := some 0, trap := none } } ∧
        Due.mk s.cycle priArrive (.controlAnswerLand m.own) ∈ t.agenda) ∧
      (∀ q, k.engine.find? (fun q => q.id = id) = some q → ∃ t, exec (.mirrorAcknowledgement d id false) s = .next t ∧
        Served s t d q 28 refusal none ∧ (t.die d).seqs = k.seqs)) ∧
    (∀ id f r row, k.fills.find? (fun f => f.id = id) = some f → f.vreg = some r → f.tile = none → f.last = none →
      row = .gatherFillDone d id ∨ row = .plChunkTagReady d id → ∃ t, exec row s = .next t ∧
        (t.ctx f.own).rv r = bytesVec f.data ∧ (∀ j, j ≠ r → (t.ctx f.own).rv j = (s.ctx f.own).rv j) ∧
        (t.ctx f.own).tags.ready.getLsbD f.tag.toNat = true ∧ (t.ctx f.own).x = (s.ctx f.own).x ∧
        (∀ w, f.fail = some w → { tag := f.tag.toNat, value := w } ∈ (t.ctx f.own).tags.fail) ∧
        (t.die d).fills = k.fills.filter (fun g => g.id ≠ id) ∧ (∀ b, b ≠ f.own → t.ctx b = s.ctx b) ∧ t.cores = s.cores) ∧
    (∀ id f j n, k.fills.find? (fun f => f.id = id) = some f → f.vreg = none → f.tile = some n → f.own = .stage j →
      ∃ t, exec (.gatherFillDone d id) s = .next t ∧ (t.core j.core).tiles[n.toNat].bytes = BitVec.ofNat 32768 (leNat f.data) ∧
        (t.ctx f.own).tags.ready.getLsbD f.tag.toNat = true ∧ (t.ctx f.own).v = (s.ctx f.own).v ∧ (t.ctx f.own).x = (s.ctx f.own).x ∧
        (t.core j.core).mem = (s.core j.core).mem ∧ (t.die d).fills = k.fills.filter (fun g => g.id ≠ id)) ∧
    (wbits k.farrate 0 16 ≠ 0 → k.bucketStamp + 1024 ≤ s.cycle → ∃ t, exec (.farReadBucketRefill d) s = .next t ∧ OnlyDie s t d ∧
      t.die d = { k with bucket := max k.bucket (min (wbits k.farrate 16 16) (k.bucket + wbits k.farrate 0 16)),
                         bucketStamp := k.bucketStamp + 1024 }) ∧
    (∀ id c home hh v, k.ahead.find? (fun c => c.id = id) = some c → (k.seq c.handle).home = some (home, hh) →
      v = (s.die home).seq hh →
      (s.copyLate c = true → ∃ t, exec (.stageAheadCopyLand d id) s = .next t ∧ OnlyDie s t d ∧
        (t.die d).ahead = k.ahead.filter (fun c => c.id ≠ id) ∧ (t.die d).frames = dropFrame k.frames c.frame ∧
        (t.die d).sqlate = toWord ((k.sqlate.toNat + 1) % 2 ^ 32)) ∧
      (s.copyLate c = false → EntrySound s d c.handle → v.st ≠ 1 ∨ v.gen ≠ c.gen → ∃ t, exec (.stageAheadCopyLand d id) s = .next t ∧
        OnlyDie s t d ∧ (t.die d).ahead = k.ahead.filter (fun c => c.id ≠ id) ∧ (t.die d).frames = dropFrame k.frames c.frame) ∧
      (s.copyLate c = false → EntrySound s d c.handle → v.st = 1 → v.gen = c.gen → (s.pkg home.pkg).snoop = [] → (s.pkg d.pkg).snoop = [] →
        (s.die home).tableBad v [c.block] = true → ∃ t, exec (.stageAheadCopyLand d id) s = .next t ∧
          (t.die home).seq hh = { v with st := 3, bad := false } ∧ (∀ e ∈ (t.die d).ahead, e.id ≠ id) ∧ t.ctxs = s.ctxs ∧
          SameBytes s t) ∧
      (∀ lines own, s.copyLate c = false → EntrySound s d c.handle → v.st = 1 → v.gen = c.gen →
        lines = s.tableLines home v [c.block] ++ s.snooped home (v.table.getD c.block 0) v.frameLen false →
        own = s.snooped d c.frame v.frameLen true → lines ≠ [] ∨ own ≠ [] → exec (.stageAheadCopyLand d id) s =
          .next (((s.backInvalidate home.pkg lines false).backInvalidate d.pkg own true).schedule (s.cycle + 1) priLate
            (.stageAheadCopyLand d id))) ∧
      (s.copyLate c = false → EntrySound s d c.handle → v.st = 1 → v.gen = c.gen → (s.pkg home.pkg).snoop = [] → (s.pkg d.pkg).snoop = [] →
        (s.die home).bad = [] → (s.die home).badOnce = [] → ∃ t,
        exec (.stageAheadCopyLand d id) s = .next t ∧ (∀ j < v.frameLen, memByte (t.die d).gallery (c.frame + j) =
          memByte (s.die home).gallery (v.table.getD c.block 0 + j)) ∧
        (∀ x, x < c.frame ∨ c.frame + v.frameLen ≤ x → memByte (t.die d).gallery x = memByte k.gallery x) ∧
        (∀ e ∈ (t.die d).ahead, e.id = id → e.landed = true) ∧ t.ctxs = s.ctxs)) ∧
    (∀ n x q h c v blk, k.plFree ≤ s.cycle → k.nextContext = some n → q = k.query n → q.need = some x → h = q.handle x →
      c = q.cursors.getD x { next := 0, posts := [] } → s.gatherSeq d h = .inl (d, v, 0) → Plain s d → v.bad = false →
      blk = memRead k.gallery (v.table.getD (c.next / 16) 0 + c.next % 16 * 256) 256 →
      ∃ t, exec (.plBlockDecode d) s = .next t ∧ s.cycle + 8 ≤ (t.die d).plFree ∧ (t.die d).plTurn = n ∧ t.ctxs = s.ctxs ∧
        SameBytes s t ∧ (q.fuse = false → (t.die d).plFree = s.cycle + 8) ∧ (decodeBlock blk = none → ((t.die d).query n).fail = some (3, c.next, h) ∧
          ((t.die d).query n).ended = some s.cycle)) ∧
    (∀ h, (k.seq h).st = 3 → ∃ t, exec (.supervisorFreesEntry d h) s = .next t ∧ OnlyDie s t d ∧ (t.die d).seq h = SeqEntry.free ∧
      (∀ j, j ≠ h → (t.die d).seq j = k.seq j) ∧ (t.die d).frames = (k.seq h).table.foldl dropFrame k.frames ∧
      (t.die d).gallery = k.gallery) ∧
    (∀ w h, h = wbits w 0 16 →
      ((k.seq h).st = 0 → ∃ t, exec (.sqrmtInstall d w) s = .next t ∧ OnlyDie s t d ∧ (t.die d).seq h = { SeqEntry.free with
          st := 2, home := some ({ pkg := s.posOf d.pkg (wbits w 49 14), die := wbits w 46 3 }, wbits w 16 16) } ∧
        (t.die d).sqrmt.getLsbD 45 = true ∧ (t.die d).sqrmt.getLsbD 63 = false) ∧
      ((k.seq h).st ≠ 0 → ∃ t, exec (.sqrmtInstall d w) s = .next t ∧ OnlyDie s t d ∧ (t.die d).seqs = k.seqs ∧
        (t.die d).sqrmt.getLsbD 45 = false ∧ (t.die d).sqrmt.getLsbD 63 = false) ∧
      ((k.seq h).st = 2 → ∃ t, exec (.sqrmtRemove d w) s = .next t ∧ OnlyDie s t d ∧ (t.die d).seq h = SeqEntry.free ∧
        (t.die d).sqrmt.getLsbD 45 = true ∧ (t.die d).sqrmt.getLsbD 63 = false) ∧
      ((k.seq h).st ≠ 2 → ∃ t, exec (.sqrmtRemove d w) s = .next t ∧ OnlyDie s t d ∧ (t.die d).seqs = k.seqs ∧
        (t.die d).sqrmt.getLsbD 45 = false ∧ (t.die d).sqrmt.getLsbD 63 = false))

/-! ## Events: configuration, registers, resets -/

/-- Only one supervisor core has changed. -/
def OnlySup (s t : State) (v : SupId) : Prop := t = s.setSup v (t.sup v)

/-- Nothing but the queues of supervisor cores and of management has changed. -/
def OnlyReports (s t : State) : Prop :=
  t.ctxs = s.ctxs ∧ t.slots = s.slots ∧ t.cores = s.cores ∧ t.clus = s.clus ∧ t.dies = s.dies ∧ t.reqs = s.reqs ∧ SameBytes s t

/-- A write of a register of the control space leaves the die as `f` gives it, and all else as it was. -/
def Puts (s : State) (d : DieId) (addr : Nat) (v : Word) (k : Die) : Prop :=
  exec (.registerWrite d addr v) s = .next (s.setDie d k)

/-- R4, R5, R172, R231, R239, R268, R273, R274, R302, R324, R340, R342, R345–R348, R351, R353–R356, R361, R366, R370, R403: a halted
supervisor core wakes on a trap whose context has been captured, whose registers it takes, or on an event; a record is popped; a stopped core runs on. A switch notice
begins a load; the load waits for the host's copies of what it reads, takes the next record, or reports why not; the drain retires the configuration, and activation takes the record's values. Code pages
are mapped and unmapped. Registers of the control space take the fields that can be written. The scrubber reads; a core, a die is
reset; the clock falls and rises by 50 MHz between 400 and 800, and a trip resets the die and reports the package failed. That
the ends of the pools stop at 4,096, as that of the window, is the model's reading (log 19), and so are how long a load lasts (log 50),
that a trap waits at the head of its queue until it has been captured (log 21), and that a record with an uncorrectable word is malformed
(log 91). -/
def Obligations.ConfigEvents : Prop :=
  ∀ (s : State) (d : DieId) (k : Die) (v : SupId) (c : CoreId), k = s.die d →
    ((s.sup v).halted = false ∨ (s.sup v).stop = true ∨ s.supPending v = false → exec (.haltWake v) s = .next s) ∧
    ((s.sup v).halted = true → (s.sup v).stop = false → s.supPending v = true →
      ((s.served v).find? (fun q => (s.trapHead q).isSome) = none → ∃ t, exec (.haltWake v) s = .next t ∧ OnlySup s t v ∧
        (t.sup v).halted = false ∧ (t.sup v).trapc = 0 ∧ (t.sup v).held = none ∧ (t.sup v).events = (s.sup v).events) ∧
      (∀ q i r e, (s.served v).find? (fun q => (s.trapHead q).isSome) = some q → (s.sup q).traps = i :: r → (s.slot i).trap = some e →
        ∃ t u, exec (.haltWake v) s = .next t ∧ u = t.sup v ∧ u.halted = false ∧ u.trapc = BitVec.ofNat 8 e.cause ∧
          u.trapa = BitVec.ofNat 17 e.addr ∧ u.trapv = e.value ∧ u.savebase = toWord (s.slot i).saveAddr ∧
          u.slotstate = (s.slot i).stateWord ∧ u.codemap = (s.core i.core).mapped ∧ u.held = some i ∧ u.act = 0 ∧
          (t.sup q).traps = r ∧ (∀ w, w ≠ v → w ≠ q → t.sup w = s.sup w) ∧ t = { s with sups := t.sups })) ∧
    (∀ xd, ∃ t, exec (.evpopRead none v xd) s = .next t ∧ OnlySup s t v ∧ (t.sup v).events = (s.sup v).events.drop 1) ∧
    (∀ r xd, ∃ t, exec (.evpopRead (some r) v xd) s = .next t ∧ (t.sup v).events = (s.sup v).events.drop 1 ∧
      t.ctx (.sup r) = (s.ctx (.sup r)).wx (BitVec.ofNat 6 xd) ((s.sup v).events.headD 0) ∧ ∀ b, b ≠ .sup r → t.ctx b = s.ctx b) ∧
    (∃ t, exec (.svfaultRestart v) s = .next t ∧ (t.sup v).stop = false ∧ (t.sup v).halted = false ∧
      (t.ctx (.sup v)).pc = ((s.sup v).faultPc.toNat : Int) ∧ (t.ctx (.sup v)).x = (s.ctx (.sup v)).x ∧ (t.ctx (.sup v)).after = [] ∧
      (∀ j < 4, v.k ∉ (t.sup { v with k := j }).serves) ∧ ∀ b, b ≠ .sup v → t.ctx b = s.ctx b) ∧
    (∀ n, k.switching = true → exec (.switchNotice d n) s = .next s) ∧
    (∀ n, k.switching = false → ∃ t, exec (.switchNotice d n) s = .next t ∧ OnlyDie s t d ∧
      t.die d = { k with seqState := .loading, loading := some (some n, false, s.cycle) }) ∧
    (∀ q i r, (s.sup q).traps = i :: r → s.trapHead q = if (s.slot i).capture = none then some i else none) ∧
    (∀ want own at_, k.loading = some (want, own, at_) → at_ < s.cycle → s.recLines d ≠ [] →
      s.settleLoad d = s.backInvalidate d.pkg (s.recLines d) false) ∧
    (∀ want own at_ a t, k.loading = some (want, own, at_) → at_ < s.cycle → s.recLines d = [] → t = s.settleLoad d →
      recAddr k.gallery (wbits k.cfgstair 0 28) (wbits k.cfgstair 32 16) = some a → wordsIn k.bad a 64 ≠ 0 →
      (t.die d).status = 8 ∧ (t.die d).seqState = (if k.actv then .running else .idle) ∧ t.slots = s.slots ∧ t.ctxs = s.ctxs) ∧
    (∀ want own at_ u t, k.loading = some (want, own, at_) → at_ < s.cycle → s.recLines d = [] → t = s.settleLoad d → k.bad = [] → k.badOnce = [] →
      u = { k with seqState := if k.actv then .running else .idle, loading := none } →
      (recAddr k.gallery (wbits k.cfgstair 0 28) (wbits k.cfgstair 32 16) = none →
        t.die d = { u with status := 15 } ∧ t.slots = s.slots ∧ t.ctxs = s.ctxs) ∧
      (∀ a, recAddr k.gallery (wbits k.cfgstair 0 28) (wbits k.cfgstair 32 16) = some a →
        (readRec k.gallery a = none → t.die d = { u with status := 8 } ∧ t.slots = s.slots ∧ t.ctxs = s.ctxs) ∧
        (∀ r n, readRec k.gallery a = some r → n = (s.setDie d u).recStatus d r →
          (want ≠ none → want ≠ some r.cfgn.toNat →
            t.die d = { u with status := 14 } ∧ t.slots = s.slots ∧ t.ctxs = s.ctxs) ∧
          (want = none ∨ want = some r.cfgn.toNat → n ≠ 0 →
            t.die d = { u with status := BitVec.ofNat 8 n } ∧ t.slots = s.slots ∧ t.ctxs = s.ctxs) ∧
          (want = none ∨ want = some r.cfgn.toNat → n = 0 → (t.die d).status = 0 ∧
            (t.die d).ldv = true ∧ (t.die d).ldn = r.cfgn ∧ (t.die d).loadedRec = r ∧ (t.die d).actv = k.actv ∧
            (t.die d).seqState = (if k.actv then .draining else .activating) ∧ t.ctxs = s.ctxs ∧ SameBytes s t)))) ∧
    (s.drained d = false → exec (.configDrainComplete d) s = .next s) ∧
    (s.drained d = true → ∃ t, exec (.configDrainComplete d) s = .next t ∧ (t.die d).seqState = .activating ∧ (t.die d).actv = false ∧
      (t.die d).digh[0] = k.digest ∧ (t.die d).digh[1] = k.digh[0] ∧ (t.die d).digh[2] = k.digh[1] ∧ (t.die d).digh[3] = k.digh[2] ∧
      wbits (t.die d).dign 0 16 = k.actn.toNat ∧ wbits (t.die d).dign 16 48 = wbits k.dign 0 48 ∧ (t.die d).tokens = [] ∧
      (∀ h, (k.seq h).st = 2 → k.newRemote h = false → (t.die d).seq h = SeqEntry.free) ∧
      (∀ h, (k.seq h).st ≠ 2 ∨ k.newRemote h = true → (t.die d).seq h = k.seq h) ∧
      (t.die d).gallery = k.gallery ∧ (∃ n, Due.mk (s.cycle + n) priLate (.activationComplete d) ∈ t.agenda) ∧
      t.slots = s.slots ∧ t.ctxs = s.ctxs) ∧
    (∀ r, k.seqState = .activating → r = k.loadedRec → ∃ t, exec (.activationComplete d) s = .next t ∧
      (t.die d).seqState = .running ∧ (t.die d).actn = r.cfgn ∧ (t.die d).actv = true ∧ (t.die d).ldv = false ∧ (t.die d).ldn = 0 ∧
      (t.die d).gwin = rangeWord r.gwin ∧ (t.die d).sqpool = rangeWord r.sqpool ∧ (t.die d).ftroot = r.ftroot ∧
      (t.die d).sqtpool = rangeWord r.sqtpool ∧
      (t.die d).tlb = [] ∧ (t.die d).digest = 0 ∧ (t.die d).activeRec = r ∧ (t.die d).gallery = k.gallery ∧
      (∀ j < 4, t.clu { die := d, clu := j } = recCluster r j) ∧
      (∀ f ∈ r.sec 1, fieldAt f 3 ≠ 1 → ((r.sec 1).map (fun f => slotAt d f 0)).Nodup →
        (t.slot (slotAt d f 0)).sst = .active ∧ t.ctx (.stage (slotAt d f 0)) = recCtx d r f)) ∧
    (∀ page, tfind (s.core c).backing page = none → ∃ t, exec (.codemapMapPage c page) s = .next t ∧ t.cores = s.cores) ∧
    (∀ page src, page < 32 → tfind (s.core c).backing page = some src →
      (src.toNat ∈ (s.die c.die).codeBad → ∃ t, exec (.codemapMapPage c page) s = .next t ∧ t.cores = s.cores ∧
        (c.die.die, eventRec 0x14 3 none (src.toNat % 2 ^ 12) 0) ∈ (t.pkg c.die.pkg).events) ∧
      (src.toNat ∉ (s.die c.die).codeBad → ∃ t, exec (.codemapMapPage c page) s = .next t ∧
        (∀ j < 32, (t.core c).mapped.getLsbD j = (decide (j = page) || (s.core c).mapped.getLsbD j)) ∧
        (∀ j < 4096, memByte (t.core c).window (page * 4096 + j) = memByte (s.die c.die).codeStore (src.toNat * 4096 + j)) ∧
        (∀ x, x / 4096 ≠ page → memByte (t.core c).window x = memByte (s.core c).window x) ∧
        (t.core c).mem = (s.core c).mem ∧ t.ctxs = s.ctxs)) ∧
    (∀ page j i, j < 4 → (s.sup { die := c.die, k := j }).held = some i → i.core = c → ∃ t, exec (.codemapMapPage c page) s = .next t ∧
      (t.sup { die := c.die, k := j }).codemap = (t.core c).mapped) ∧
    (∀ page < 32, ∃ t, exec (.codemapUnmapPage c page) s = .next t ∧ (t.core c).window = (s.core c).window ∧ t.ctxs = s.ctxs ∧
      ∀ j < 32, (t.core c).mapped.getLsbD j = (!decide (j = page) && (s.core c).mapped.getLsbD j)) ∧
    (∀ w, Puts s d 0x10000000 w { k with gwin := rangeWord w } ∧ Puts s d 0x10000008 w { k with sqpool := rangeWord w } ∧
      Puts s d 0x10000038 w { k with sqtpool := rangeWord w } ∧ Puts s d 0x10000028 w { k with sqlate := w &&& 0xFFFFFFFF } ∧
      Puts s d 0x10000020 w { k with farrate := w &&& 0xFFFFFFFF, bucket := wbits w 16 16, bucketStamp := s.cycle } ∧
      Puts s d 0x10000040 w { k with ftroot := w &&& 0xFFF8001 } ∧ Puts s d 0x10000080 w { k with cfgstair := w &&& 0x0000FFFF0FFFFFC0 } ∧
      Puts s d 0x10000050 w { k with ftmiss := w } ∧ Puts s d 0x100000C0 w { k with ecccnt := w } ∧
      Puts s d 0x100000C8 w { k with scrub := w &&& 0x80000000FFFFFFFF } ∧
      ∀ a ∈ [0x10000010, 0x10000018, 0x10000088, 0x10000090], exec (.registerWrite d a w) s = .next s) ∧
    (∀ a, ∃ t, exec (.scrubRead d none a) s = .next t ∧
      (t.die d).badOnce = k.badOnce.filter (· ∉ words8 a 64) ∧ (t.die d).gallery = k.gallery ∧ t.ctxs = s.ctxs ∧ t.cores = s.cores ∧
      ∀ x ∈ words8 a 64, x ∈ k.bad → (d.die, eventRec 0x15 2 none 0 x) ∈ (t.pkg d.pkg).events) ∧
    (∀ a, ∃ t, exec (.scrubRead d (some c) a) s = .next t ∧
      (t.core c).badOnce = (s.core c).badOnce.filter (· ∉ words8 a 16) ∧ (t.core c).mem = (s.core c).mem ∧ t.ctxs = s.ctxs ∧
      ∀ x ∈ words8 a 16, x ∈ (s.core c).bad → (d.die, eventRec 0x15 0 none 0 x) ∈ (t.pkg d.pkg).events) ∧
    (∃ t, exec (.dieReset d) s = .next t ∧ t.die d = Die.reset ∧ (∀ j, j ≠ d → t.die j = s.die j) ∧
      ((s.pkg d.pkg).landing ≠ some d.die → t.pkgs = s.pkgs) ∧ (∀ j, j ≠ d.pkg → t.pkg j = s.pkg j) ∧
      (∀ p, p = t.pkg d.pkg → (s.pkg d.pkg).landing = some d.die → p.herr = 0 ∧ p.pmask = 0 ∧ p.width = 0 ∧ p.hostUp = false ∧
        p.hdmSize = 0 ∧ p.hdmmap = [] ∧ p.hwin = [] ∧ p.hring = [] ∧ p.horph = 0 ∧ p.horpn = 0) ∧
      (∀ a, t.ctx a = if dieOf a = d then Ctx.reset else s.ctx a) ∧
      (∀ i : SlotId, t.slot i = if i.core.die = d then Slot.reset else s.slot i) ∧
      (∀ j : CoreId, t.core j = if j.die = d then Core.reset else s.core j) ∧
      (∀ j : SupId, t.sup j = if j.die = d then Sup.reset else s.sup j) ∧
      ∀ j : CluId, t.clu j = if j.die = d then Cluster.reset else s.clu j) ∧
    (∃ t, exec (.coreReset c) s = .next t ∧ t.core c = Core.reset ∧ (∀ j, j ≠ c → t.core j = s.core j) ∧
      (∀ i : SlotId, t.slot i = if i.core = c then Slot.reset else s.slot i) ∧
      (∀ i : SlotId, i.core = c → t.ctx (.stage i) = Ctx.reset) ∧
      (∀ l ∈ (t.clu (cluOf c)).landings, c.core ∉ l.targets) ∧
      (∀ q ∈ s.reqs, q.space = 1 → q.place.home = .core c → q.performed = false → q.dest ≠ .none →
        (∀ i, q.own = .stage i → i.core ≠ c) → (0x0B, checkValue (.core c) q.place.addr) ∈ (t.ctx q.own).after)) ∧
    (∃ t, exec (.thermalThrottle d) s = .next t ∧ OnlyDie s t d ∧ t.die d = { k with clockMHz := max 400 (k.clockMHz - 50) }) ∧
    (∃ t, exec (.thermalClockRaise d) s = .next t ∧ OnlyDie s t d ∧ t.die d = { k with clockMHz := min 800 (k.clockMHz + 50) }) ∧
    (∃ t, exec (.thermalTrip d) s = .next t ∧ t.die d = Die.reset ∧ (t.pkg d.pkg).reported = true ∧ (∀ j, j ≠ d → t.die j = s.die j))

/-! ## Events: rings and links -/

/-- A package event is in management's record for every die of the package. -/
def Reported (t : State) (pkg code aux addr : Nat) : Prop :=
  ∀ n < 8, (n, eventRec code 0 none aux addr) ∈ (t.pkg pkg).events

/-- A port goes DOWN: it is `q` in DOWN, and where it is enabled, in fabric mode, and its package not in recovery, it goes on to TRAIN. -/
def GoesDown (s t : State) (pkg port : Nat) (q : Port) : Prop :=
  (q.en = true ∧ q.hostMode = false ∧ (s.pkg pkg).recovery = false →
    (t.pkg pkg).port port = { q with state := .train, since := s.cycle } ∧
    Due.mk (s.cycle + 100 * 800000) priLate (.linkTrainTimeout pkg port) ∈ t.agenda) ∧
  (q.en = false ∨ q.hostMode = true ∨ (s.pkg pkg).recovery = true →
    (t.pkg pkg).port port = { q with state := .down, since := s.cycle })

/-- R380–R382, R407–R410, R413, R415–R419: a port trains, negotiates and comes up, or fails, and how long that takes; a message of the
same mode with a good attestation brings it up, and another quarantines it, so that it takes messages of attestation alone; a link
that fails holds the ordered flits of the destinations that it led to; a flit that fails its CRC or is not the one expected is discarded and asked for again, and the one expected
is taken: it is delivered, goes into the queue of its port with its hop counted, or is dropped after its fourth hop; a flip exchanges
the banks, holds the ordered flits for the destinations whose port has changed, and releases them when they may go on; a notice is
recorded once and flooded, and a landing keeps it for its host; a ring flit is taken, dropped where it has no way, or laps the ring, and a failed segment is kept and
reported. The length of a microsecond in cycles, when a ring stop is full, the bound of a hold, and that acknowledgements and replay
requests take no time, are the model's choices (log 10, log 18, log 54), and so are the link fields of a quarantined port (log 80); the code of a failed segment's event is a free value, for no table
gives one (log 79). -/
def Obligations.LinkEvents : Prop :=
  ∀ (s : State) (pkg port : Nat) (p : Pkg) (q : Port), p = s.pkg pkg → q = p.port port →
    (q.state = .quarantined ∨ (q.state = .failed ∧ q.since + 800000 ≤ s.cycle) → q.en = false → ∃ t,
      exec (.linkEnable pkg port) s = .next t ∧ GoesDown s t pkg port { q with en := true }) ∧
    (q.state = .down → q.hostMode = false → p.recovery = false → ∃ t, exec (.linkEnable pkg port) s = .next t ∧
      (t.pkg pkg).port port = { q with en := true, state := .train, since := s.cycle } ∧
      Due.mk (s.cycle + 100 * 800000) priLate (.linkTrainTimeout pkg port) ∈ t.agenda) ∧
    (q.en = true ∨ (q.state ≠ .quarantined ∧ (q.state ≠ .failed ∨ s.cycle < q.since + 800000)) →
      q.state ≠ .down ∨ q.hostMode = true ∨ p.recovery = true → ∃ t,
      exec (.linkEnable pkg port) s = .next t ∧ OnlyPkg s t pkg ∧ (t.pkg pkg).port port = { q with en := true }) ∧
    (∀ w : Nat × Nat, w = wiredTo pkg port → q.state = .train → ∃ t, exec (.linkTrainLock pkg port) s = .next t ∧
      (t.pkg pkg).port port = { q with state := .negotiate, since := s.cycle, trainFails := 0, nonce := Config.linkNonce s.freeNo } ∧
      Due.mk (s.cycle + 10 * 800000) priLate (.negotiateTimeout pkg port) ∈ t.agenda ∧ t.dies = s.dies ∧ t.ctxs = s.ctxs ∧
      (w ≠ (pkg, port) → ((s.pkg w.1).port w.2).state = .negotiate → Due.mk (s.cycle + 144) priLate
        (.negotiationMessage w.1 w.2 (t.negMsg pkg port ((s.pkg w.1).port w.2).nonce)) ∈ t.agenda)) ∧
    (q.state ≠ .train ∨ s.cycle < q.since + 100 * 800000 → exec (.linkTrainTimeout pkg port) s = .next s) ∧
    (q.state = .train → q.since + 100 * 800000 ≤ s.cycle →
      (2 ≤ q.trainFails → ∃ t, exec (.linkTrainTimeout pkg port) s = .next t ∧
        (t.pkg pkg).port port = { q with state := .failed, since := s.cycle, en := false, trainFails := 0 }) ∧
      (q.trainFails < 2 → ∃ t, exec (.linkTrainTimeout pkg port) s = .next t ∧
        GoesDown s t pkg port { q with trainFails := q.trainFails + 1 })) ∧
    (∀ m : NegMsg, q.state = .negotiate →
      (m.hostMode = q.hostMode → attested pkg q.nonce m = true → ∃ t q', exec (.negotiationMessage pkg port m) s = .next t ∧
        q' = (t.pkg pkg).port port ∧ q'.state = .up ∧ q'.since = s.cycle ∧ q'.peer = m.hall * 32 + m.idx ∧ q'.peerNo = m.lpkg ∧
        q'.pport = m.port ∧ q'.expectSeq = 0 ∧ q'.ackSeq = 0xFFF ∧ q'.askReplay = false ∧ Reported t pkg 0x41 port m.lpkg ∧
        t.dies = s.dies ∧ (s.heldFlits = [] → t.ctxs = s.ctxs)) ∧
      (m.hostMode ≠ q.hostMode ∨ attested pkg q.nonce m = false → ∃ t, exec (.negotiationMessage pkg port m) s = .next t ∧
        (t.pkg pkg).port port = ({ q with state := .quarantined, since := s.cycle } : Port).opened m ∧
        Reported t pkg 0x4A port m.lpkg)) ∧
    (q.state ≠ .negotiate ∨ s.cycle < q.since + 10 * 800000 → exec (.negotiateTimeout pkg port) s = .next s) ∧
    (q.state = .negotiate → q.since + 10 * 800000 ≤ s.cycle → ∃ t, exec (.negotiateTimeout pkg port) s = .next t ∧
      GoesDown s t pkg port q) ∧
    (q.state = .up → ∃ t q', exec (.linkReplayFailure pkg port) s = .next t ∧ q' = (t.pkg pkg).port port ∧ q'.state = .failed ∧
      q'.since = s.cycle ∧ q'.en = q.en ∧ q'.replay = [] ∧ Reported t pkg 0x40 port q.peerNo ∧ p.noticeNo + 1 ≤ (t.pkg pkg).noticeNo ∧
      (∀ dst ∈ p.via pkg port, (dst, s.cycle + 7680) ∈ (t.pkg pkg).holds) ∧
      Due.mk (s.cycle + 800000) priLate (.linkFailedTimer pkg port) ∈ t.agenda) ∧
    (q.state ≠ .failed ∨ s.cycle < q.since + 800000 ∨ q.en = false → exec (.linkFailedTimer pkg port) s = .next s) ∧
    (q.state = .failed → q.since + 800000 ≤ s.cycle → q.en = true → ∃ t, exec (.linkFailedTimer pkg port) s = .next t ∧
      GoesDown s t pkg port q) ∧
    (∀ f : BitVec 640, q.state ≠ .up → q.state ≠ .quarantined ∨ Flit.attests f = false →
      exec (.flitReceive pkg port f) s = .fault .noSuchItem) ∧
    (∀ (f : BitVec 640) (peer : Nat × Nat), q.state = .up ∨ (q.state = .quarantined ∧ Flit.attests f = true) →
      peer = s.peerOf pkg port → peer ≠ (pkg, port) →
      (wbits (Flit.trailer f) 32 32 ≠ Flit.crc f → ∃ t, exec (.flitReceive pkg port f) s = .next t ∧
        (t.pkg pkg).port port = { q with crcerr := min 65535 (q.crcerr + 1), askReplay := true } ∧ (t.pkg pkg).inbox = p.inbox ∧
        (((s.pkg peer.1).port peer.2).state = .up → ((t.pkg peer.1).port peer.2).again = true)) ∧
      (∀ sq, sq = wbits (Flit.trailer f) 20 12 → wbits (Flit.trailer f) 32 32 = Flit.crc f → sq ≠ q.expectSeq.toNat →
        (q.askReplay = true ∨ 2048 ≤ (BitVec.ofNat 12 sq - q.expectSeq).toNat → exec (.flitReceive pkg port f) s = .next s) ∧
        (q.askReplay = false → (BitVec.ofNat 12 sq - q.expectSeq).toNat < 2048 → ∃ t,
          exec (.flitReceive pkg port f) s = .next t ∧ (t.pkg pkg).port port = { q with askReplay := true } ∧
          (t.pkg pkg).inbox = p.inbox ∧
          (((s.pkg peer.1).port peer.2).state = .up → ((t.pkg peer.1).port peer.2).again = true))) ∧
      (∀ g way, wbits (Flit.trailer f) 32 32 = Flit.crc f → wbits (Flit.trailer f) 20 12 = q.expectSeq.toNat →
        p.way pkg f = (way, g) → ∃ t q',
        exec (.flitReceive pkg port f) s = .next t ∧ q' = (t.pkg pkg).port port ∧ q'.expectSeq = q.expectSeq + 1 ∧
        q'.ackSeq = q.expectSeq ∧ q'.askReplay = false ∧ q'.state = q.state ∧
        (way = .deliver → p.pkey.getLsbD 16 = false → g.ddie = port / 8 → g.cls ≠ 2 → g.msgType ≠ 16 →
          (t.pkg pkg).inbox = p.inbox ++ [(port / 8, g)]) ∧
        (∀ n dst, way = .out n dst → 4 ≤ Flit.vc f → ((t.pkg pkg).port n).crcerr = min 65535 ((p.port n).crcerr + 1)) ∧
        (∀ n dst, way = .out n dst → Flit.vc f < 4 → p.heldNo = none → p.holds = [] → n / 8 = port / 8 →
          ((t.pkg pkg).port n).outq = (p.port n).outq ++
            [{ flit := g.put 42 3 (Flit.vc f + 1), input := some (Flit.buf f port) }]))) ∧
    (∃ t, exec (.routingFlip pkg) s = .next t ∧ (t.pkg pkg).rtAct = !p.rtAct ∧ (t.pkg pkg).heldNo = none ∧
      (t.pkg pkg).rtBusy = decide (p.moved pkg ≠ [] ∨ p.holds ≠ []) ∧
      Reported t pkg 0x44 (bit (!p.rtAct)) 0 ∧ (t.pkg pkg).hallrt = p.hallrt ∧ (t.pkg pkg).strt = p.strt ∧ t.dies = s.dies ∧
      (∀ dst ∈ p.moved pkg, ∀ e, e = p.holdEnd s.cycle pkg dst → (dst, e) ∈ (t.pkg pkg).holds ∧ s.cycle + 5760 ≤ e ∧
        e ≤ s.cycle + 7680)) ∧
    (∃ t, exec (.flipHoldRelease pkg port) s = .next t ∧
      (p.heldNo = none → (∀ h ∈ p.holds, h.2 ≤ s.cycle) → ((t.pkg pkg).port port).held = []) ∧
      (t.pkg pkg).holds = p.holds.filter (fun h => s.cycle < h.2) ∧
      (t.pkg pkg).rtBusy = decide (p.holds.filter (fun h => s.cycle < h.2) ≠ []) ∧ t.dies = s.dies ∧
      (s.heldFlits = [] → t.ctxs = s.ctxs)) ∧
    (∀ n : Notice, ((n.origin, n.num) ∈ p.notices → exec (.failureNotice pkg n) s = .next s) ∧
      ((n.origin, n.num) ∉ p.notices → ∃ t, exec (.failureNotice pkg n) s = .next t ∧
        (t.pkg pkg).notices = p.notices ++ [(n.origin, n.num)] ∧ Reported t pkg 0x43 n.port (s.pkg n.failed).lpkg ∧
        (t.pkg pkg).cxlLog = (if p.role = 2 then p.cxlLog ++ [eventRec 0x43 0 none n.port (s.pkg n.failed).lpkg] else p.cxlLog) ∧
        (∀ e ∈ p.ports, e.2.state = .up → e.2.host = false → Due.mk (s.cycle + 144) priLate (.failureNotice (s.peerOf pkg e.1).1 n) ∈ t.agenda) ∧
        t.dies = s.dies ∧ t.ctxs = s.ctxs)) ∧
    (∀ (f : RingFlit) row, row = .ringFlitArrival pkg f ∨ row = .ringFlitReoffer pkg f →
      ((p.way pkg f.data).1 = .deliver → Flit.cls f.data ≠ 2 → Flit.msgType f.data ≠ 16 →
        f.cls = 1 ∨ f.cls = 2 ∨ f ∈ p.reserved → ∃ t, exec row s = .next t ∧ OnlyPkg s t pkg ∧
        (t.pkg pkg).inbox = p.inbox ++ [(f.dst, f.data)] ∧ f ∉ (t.pkg pkg).reserved ∧
        (f.cls = 1 ∨ f.cls = 2 → tget (t.pkg pkg).ringUsed (f.src, f.dst, f.cls) 0 = tget p.ringUsed (f.src, f.dst, f.cls) 0 - 1)) ∧
      ((p.way pkg f.data).1 = .drop → Flit.asks f.data = false → f.cls = 1 ∨ f.cls = 2 ∨ f ∈ p.reserved → ∃ t,
        exec row s = .next t ∧ (t.pkg pkg).inbox = p.inbox ∧ f ∉ (t.pkg pkg).reserved ∧ t.agenda = s.agenda) ∧
      (f.cls ≠ 1 → f.cls ≠ 2 → f ∉ p.reserved →
        ((p.way pkg f.data).1 = .deliver → Flit.cls f.data ≠ 2 → Flit.msgType f.data ≠ 16 →
          Config.ringFull s.freeNo = false → ∃ t, exec row s = .next t ∧ (t.pkg pkg).inbox = p.inbox ++ [(f.dst, f.data)]) ∧
        (∀ g, g = { f with refused := min 3 (f.refused + 1) } → Config.ringFull s.freeNo = true → ∃ t, exec row s = .next t ∧
          (t.pkg pkg).inbox = p.inbox ∧ Due.mk (s.cycle + 128) priLate (.ringFlitReoffer pkg g) ∈ t.agenda ∧
          (f.refused = 3 → g ∈ (t.pkg pkg).reserved)))) ∧
    (∀ ring seg, ∃ t, exec (.ringSegmentFailed pkg ring seg) s = .next t ∧ (ring, seg) ∈ (t.pkg pkg).ringFailed ∧
      (∀ e, e ∈ (t.pkg pkg).ringFailed ↔ e ∈ p.ringFailed ∨ e = (ring, seg)) ∧ Reported t pkg Config.segmentCode (Config.segmentAux ring seg) 0 ∧
      (t.pkg pkg).reported = (p.reported || (t.pkg pkg).ringSplit) ∧
      (t.pkg pkg).degraded = !(t.pkg pkg).ringSplit ∧ t.dies = s.dies ∧ t.ctxs = s.ctxs)

/-! ## Events: the host, the boot, migration -/

/-- A mailbox command that the host can give completes: the package is `q` with the code and the output in place. -/
def Completes (s : State) (pkg : Nat) (row : Instr) (code : Nat) (out : List Byte) (q : Pkg) : Prop :=
  (s.pkg pkg).mailboxFree = true → ((s.pkg pkg).recovery = false →
    exec row s = .next (s.setPkg pkg { q with mailbox := out, mailboxCode := some code })) ∧
  ((s.pkg pkg).recovery = true → exec row s = .next (s.setPkg pkg { s.pkg pkg with mailbox := [], mailboxCode := some 3 }))

/-- A mailbox command that is carried out in recovery too. -/
def Always (s : State) (pkg : Nat) (row : Instr) (code : Nat) (out : List Byte) (q : Pkg) : Prop :=
  (s.pkg pkg).mailboxFree = true → exec row s = .next (s.setPkg pkg { q with mailbox := out, mailboxCode := some code })

/-- R379, R380, R386–R389, R391, R392, R397–R401: the host link trains by a mask of the table, comes up with its width and its memory, and goes
down; each mailbox command completes with its output and its effect, in recovery only those admitted there; a chunk of a transfer is
taken or answered with its status, and completes once what it holds has been sent; the host reads and writes device memory, on its
landing's die at once and on another over the ring in order, and is granted lines that it gives back; a snoop misses;
a package reset leaves its dies as reset, and runs the firmware whose check holds, measured in `MEAS0`, or is in recovery. What management
takes on the fabric is answered there, and firmware that runs trains the enabled ports. The model's choices are the return codes (log
25), the copy that a host's read is granted (log 26), the length of a millisecond in cycles (log 10), that the host's memory stays
through a package reset (log 36), that a chunk with `FIRST` abandons the transfer before it even where it is rejected (log 55), what
`MEAS0` is extended with (log 12), that an error is met in orphan entries as in what management reads (log 93), and that a command is taken from the fabric where a message of class 0 waits there (log 80). -/
def Obligations.HostEvents : Prop :=
  ∀ (s : State) (pkg : Nat) (p : Pkg), p = s.pkg pkg →
    (∀ m : BitVec 8, (p.hostUp = true → exec (.hlinkPmaskWrite pkg m) s = .next s) ∧
      (p.hostUp = false → ∃ t, exec (.hlinkPmaskWrite pkg m) s = .next t ∧ (t.pkg pkg) = { p with pmask := m, ports := (t.pkg pkg).ports } ∧
        (okMask m.toNat = true → Due.mk (s.cycle + 100 * 800000) priLate (.hostLinkTrained pkg) ∈ t.agenda) ∧
        (okMask m.toNat = false → ∀ e ∈ t.agenda, e ∈ s.agenda ∨ ∃ n, e.ev = .linkTrainTimeout pkg n) ∧
        t = { s with pkgs := t.pkgs, agenda := t.agenda } ∧ (p.landing = none → (t.pkg pkg).ports = p.ports) ∧
        (∀ d, p.landing = some d → ∀ n < 8,
          ((p.port (8 * d + n)).hostMode = m.getLsbD n → (t.pkg pkg).port (8 * d + n) = p.port (8 * d + n)) ∧
          ((p.port (8 * d + n)).hostMode ≠ m.getLsbD n →
            GoesDown s t pkg (8 * d + n) { p.port (8 * d + n) with hostMode := m.getLsbD n })))) ∧
    (p.hostUp = true ∨ okMask p.pmask.toNat = false ∨ p.landing = none → exec (.hostLinkTrained pkg) s = .next s) ∧
    (∀ d, p.hostUp = false → okMask p.pmask.toNat = true → p.landing = some d → ∃ t, exec (.hostLinkTrained pkg) s = .next t ∧
      OnlyPkg s t pkg ∧ (t.pkg pkg).hostUp = true ∧ (t.pkg pkg).width = BitVec.ofNat 2 (maskWidth p.pmask.toNat) ∧
      (t.pkg pkg).hdmSize = p.hdmCount ∧ ∀ n < 8, (t.pkg pkg).port (8 * d + n) = if p.pmask.getLsbD n
        then { p.port (8 * d + n) with host := true, state := .up, since := s.cycle } else p.port (8 * d + n)) ∧
    (∃ t, exec (.hostLinkDown pkg) s = .next t ∧ (t.pkg pkg).hostUp = false ∧ (t.pkg pkg).width = 0 ∧ (t.pkg pkg).pmask = p.pmask ∧
      Due.mk (s.cycle + 100 * 800000) priLate (.hostLinkTrained pkg) ∈ t.agenda ∧ t.dies = s.dies) ∧
    Completes s pkg (.cxlIdentify pkg) 0 (Config.cxlIdentify pkg) p ∧ Completes s pkg (.getSupportedLogs pkg) 0 (Config.cxlLogs pkg) p ∧
    (∀ log off len, Completes s pkg (.getLog pkg log off len) 0 (Config.cxlLogData pkg log off len) p) ∧
    Completes s pkg (.getEventRecords pkg) 0 (p.cxlLog.flatMap Config.cxlRecord) p ∧
    (∀ n, Completes s pkg (.clearEventRecords pkg n) 0 [] { p with cxlLog := p.cxlLog.drop n }) ∧
    (∀ nonce mask, (p.recovery = true ∨ p.manageFlit = none → Always s pkg (.attest pkg nonce mask) 0 (p.report pkg nonce mask) p) ∧
      (p.mailboxFree = false ∨ p.manageFlit ≠ none → p.recovery = false →
        exec (.attest pkg nonce mask) s = .next (s.setPkg pkg { p with
          answers := p.answers ++ [p.report pkg nonce mask], inbox := p.inbox.filter (fun e => some e ≠ p.manageFlit) }))) ∧
    (∀ ix, Always s pkg (.getcert pkg ix) 0 (Config.cert pkg ix) p) ∧
    (∀ reg digest, (p.recovery = true ∨ p.manageFlit = none →
        (8 ≤ reg → reg < 16 → Completes s pkg (.mextend pkg reg digest) 0 []
          { p with meas := p.meas.setIfInBounds reg (extendMeas (p.meas.toList.getD reg 0) digest) }) ∧
        (reg < 8 ∨ 16 ≤ reg → Completes s pkg (.mextend pkg reg digest) 2 [] p)) ∧
      (8 ≤ reg → reg < 16 → p.mailboxFree = false ∨ p.manageFlit ≠ none → p.recovery = false →
        exec (.mextend pkg reg digest) s = .next (s.setPkg pkg { p with
          meas := p.meas.setIfInBounds reg (extendMeas (p.meas.toList.getD reg 0) digest), answers := p.answers ++ [[]],
          inbox := p.inbox.filter (fun e => some e ≠ p.manageFlit) }))) ∧
    (∀ ring gen, (ring < 8 → Completes s pkg (.ringSetup pkg ring gen) 0 []
        { p with hring := tset p.hring ring (toWord (2 ^ 63 + gen.toNat)) }) ∧
      (8 ≤ ring → Completes s pkg (.ringSetup pkg ring gen) 2 [] p ∧ Completes s pkg (.ringTeardown pkg ring gen) 2 [] p) ∧
      (ring < 8 → p.completions = [] → Completes s pkg (.ringTeardown pkg ring gen) 0 []
        { p with hring := tset p.hring ring (wput (tget p.hring ring 0) 0 32 gen.toNat) }) ∧
      (ring < 8 → p.completions ≠ [] → p.mailboxFree = true → p.recovery = false → ∃ t,
        exec (.ringTeardown pkg ring gen) s = .next t ∧ OnlyPkg s t pkg ∧ (t.pkg pkg).mailboxCode = none ∧
        (t.pkg pkg).mailboxWaits = p.completions ∧ wbits (tget (t.pkg pkg).hring ring 0) 0 32 = gen.toNat)) ∧
    (∀ first count, (8 < count → Completes s pkg (.orphanRead pkg first count) 2 [] p) ∧
      (count ≤ 8 → wbits p.horph 48 16 = 0 → Completes s pkg (.orphanRead pkg first count) 0 [] p) ∧
      (count ≤ 8 → wbits p.horph 48 16 ≠ 0 → s.orphanReadLines pkg first count ≠ [] → p.mailboxFree = true → p.recovery = false →
        exec (.orphanRead pkg first count) s =
          .next (s.setPkg pkg { p with mailbox := [], mailboxCode := none, orphanAsk := some (first, count) })) ∧
      (∀ d, count ≤ 8 → wbits p.horph 48 16 ≠ 0 → s.orphanReadLines pkg first count = [] → p.landing = some d →
        (s.die { pkg := pkg, die := d }).bad = [] → (s.die { pkg := pkg, die := d }).badOnce = [] → Completes s pkg (.orphanRead pkg first count) 0
        ((List.range count).flatMap (fun i => memRead (s.die { pkg := pkg, die := d }).gallery (p.orphanAddr (first + i)) 256)) p)) ∧
    (∀ die a w, (8 ≤ die ∨ a % 8 ≠ 0 ∨ s.ctlReg { pkg := pkg, die := die } a = none →
        Completes s pkg (.mgmtRead pkg die a) 2 [] p ∧ Completes s pkg (.mgmtWrite pkg die a w) 2 [] p) ∧
      (∀ r, die < 8 → a % 8 = 0 → s.ctlReg { pkg := pkg, die := die } a = some r →
        ((∀ n, r ≠ .evpop n) → Completes s pkg (.mgmtRead pkg die a) 0 (leBytes 8 (s.readReg { pkg := pkg, die := die } r).toNat) p) ∧
        (∀ t, p.mailboxFree = true → p.recovery = false → t = s.writeReg { pkg := pkg, die := die } r w →
          exec (.mgmtWrite pkg die a w) s = .next (t.setPkg pkg { t.pkg pkg with mailbox := [], mailboxCode := some 0 })))) ∧
    (∀ op, op ∉ [0xC001, 0xC002, 0xC003, 0xC010, 0xC011, 0xC012, 0xC020, 0xC021, 0xC030] →
      Always s pkg (.mailboxUnsupported pkg op) 3 [] p) ∧
    (∀ (h : FwChunk) row (u : State) (p : Pkg), (row = .fwLoadFirmware pkg h ∧ h.tgt ≠ 1) ∨ (row = .fwLoadBootStream pkg h ∧ h.tgt = 1) →
      (u = if h.first then s.abandon pkg else s) → p = u.pkg pkg →
      (h.first = true → p.fw = none ∧ ((s.pkg pkg).fw.any (fun x => x.tgt = 1) = true →
        p.boot.fresh = [] ∧ ∀ e ∈ p.boot.sent, e.1 < 2 ^ 32)) ∧
      (p.transfer h = none → Always s pkg row 0 (leBytes 8 (chunkStatus p.recovery none h + (p.fw.map (·.accepted)).getD 0 % 2 ^ 32 * 2 ^ 32)) p) ∧
      (∀ x n, p.transfer h = some x → chunkStatus p.recovery (some x) h ≠ 0 → n = (p.fw.map (·.accepted)).getD 0 →
        Always s pkg row 0 (leBytes 8 (chunkStatus p.recovery (some x) h + n % 2 ^ 32 * 2 ^ 32)) p) ∧
      (∀ x n, p.transfer h = some x → chunkStatus p.recovery (some x) h = 0 → n = x.accepted + h.data.length →
        (h.tgt = 0 → h.last = false → Always s pkg row 0 (leBytes 8 (n % 2 ^ 32 * 2 ^ 32))
          { p with fw := some { x with cseq := x.cseq + 1, accepted := n, data := x.data ++ h.data } }) ∧
        (h.tgt = 0 → h.last = true → imageOk pkg (x.data ++ h.data) = false →
          Always s pkg row 0 (leBytes 8 (4 + n % 2 ^ 32 * 2 ^ 32)) ((u.abandon pkg).pkg pkg)) ∧
        (h.tgt = 0 → h.last = true → imageOk pkg (x.data ++ h.data) = true → p.recovery = false →
          Always s pkg row 0 (leBytes 8 (n % 2 ^ 32 * 2 ^ 32)) { p with fw := none, image := x.data ++ h.data, imageReady := true }) ∧
        (h.tgt = 0 → h.last = true → imageOk pkg (x.data ++ h.data) = true → p.recovery = true → p.mailboxFree = true → ∃ t,
          exec row s = .next t ∧ t = { s with pkgs := t.pkgs, agenda := t.agenda } ∧ (∀ j, j ≠ pkg → t.pkg j = s.pkg j) ∧
          (t.pkg pkg).recovery = false ∧ (t.pkg pkg).firmware = x.data ++ h.data ∧
          (t.pkg pkg).meas[0] = extendMeas p.meas[0] (imageDigest (x.data ++ h.data)) ∧
          ∀ k < 64, (p.port k).state = .down → (p.port k).en = true → (p.port k).hostMode = false →
            ((t.pkg pkg).port k).state = .train ∧
            Due.mk (s.cycle + 100 * 800000) priLate (.linkTrainTimeout pkg k) ∈ t.agenda) ∧
        (∀ r v, h.tgt = 1 → r = splitStream (x.data ++ h.data).length (x.data ++ h.data) → v = u.streamPackets pkg x.opened r.1 →
          (h.last = false → r.1 = [] → Always s pkg row 0 (leBytes 8 (n % 2 ^ 32 * 2 ^ 32)) { p with
            fw := some { x with cseq := x.cseq + 1, accepted := n, data := r.2 } }) ∧
          (p.mailboxFree = true → v.2.1 = true → h.last = false ∨ (r.2 = [] ∧ v.2.2 = true ∧ (v.1.pkg pkg).allSent = true) →
              r.1 ≠ [] → v.1.bootHeld pkg = true → ∃ t, exec row s = .next t ∧ (t.pkg pkg).mailboxCode = none ∧
            (t.pkg pkg).chunkWait = some (leBytes 8 (n % 2 ^ 32 * 2 ^ 32))) ∧
          (p.mailboxFree = true → v.2.1 = true → h.last = false → r.1 = [] ∨ v.1.bootHeld pkg = false → ∃ t, exec row s = .next t ∧
            (t.pkg pkg).mailbox = leBytes 8 (n % 2 ^ 32 * 2 ^ 32) ∧
            (t.pkg pkg).fw = some { x with cseq := x.cseq + 1, accepted := n, data := r.2, opened := v.2.2 }) ∧
          (p.mailboxFree = true → v.2.1 = true → h.last = true → r.2 = [] → v.2.2 = true → (v.1.pkg pkg).allSent = true →
              r.1 = [] ∨ v.1.bootHeld pkg = false → ∃ t,
            exec row s = .next t ∧ (t.pkg pkg).mailbox = leBytes 8 (n % 2 ^ 32 * 2 ^ 32) ∧ (t.pkg pkg).fw = none) ∧
          (p.mailboxFree = true →
              v.2.1 = false ∨ (h.last = true ∧ (r.2 ≠ [] ∨ v.2.2 = false ∨ (v.1.pkg pkg).allSent = false)) → ∃ t,
            exec row s = .next t ∧ (t.pkg pkg).mailbox = leBytes 8 (4 + n % 2 ^ 32 * 2 ^ 32) ∧ (t.pkg pkg).fw = none ∧
            (t.pkg pkg).boot.fresh = [] ∧ ∀ e ∈ (t.pkg pkg).boot.sent, e.1 < 2 ^ 32)))) ∧
    (∀ off data mask, p.hostUp = true → p.hdmPlace off = none →
      exec (.hostHdmRead pkg off) s = .next (s.hostError pkg off) ∧ exec (.hostHdmWrite pkg off data mask) s = .next (s.hostError pkg off) ∧
      s.hdmLineValue pkg off = BitVec.allOnes 512 ∧ ((s.hostError pkg off).pkg pkg).herr = p.herr + 1) ∧
    (∀ off die addr data mask home, p.hostUp = true → p.hdmPlace off = some (die, addr) → home = p.landing.getD die →
        home ≠ die ∨ p.hdmIn ≠ [] → ∃ n, s.cycle + 16 * p.ringHops home die ≤ n ∧ (∀ o ∈ p.hdmIn, o.due ≤ n) ∧
      exec (.hostHdmRead pkg off) s =
        .next (s.setPkg pkg { p with hdmIn := p.hdmIn ++ [{ off := off, die := die, write := none, due := n }] }) ∧
      exec (.hostHdmWrite pkg off data mask) s =
        .next (s.setPkg pkg { p with hdmIn := p.hdmIn ++ [{ off := off, die := die, write := some (data, mask), due := n }] })) ∧
    (∀ off die addr (d : DieId), p.hostUp = true → p.hdmPlace off = some (die, addr) → d = { pkg := pkg, die := die } →
        p.landing.getD die = die → p.hdmIn = [] → (s.die d).bad = [] → (s.die d).badOnce = [] →
      s.hdmLineValue pkg off = BitVec.ofNat 512 (memNat (s.die d).gallery addr 64) ∧
      ((∃ e ∈ p.snoop, e.1 = off / 64) → exec (.hostHdmRead pkg off) s = .next s) ∧
      ((∀ e ∈ p.snoop, e.1 ≠ off / 64) → p.snoop.length < 65536 →
        exec (.hostHdmRead pkg off) s = .next (s.setPkg pkg { p with snoop := p.snoop ++ [(off / 64, true)] })) ∧
      (∀ e r, (∀ e ∈ p.snoop, e.1 ≠ off / 64) → 65536 ≤ p.snoop.length → p.snoop = e :: r → ∃ t,
        exec (.hostHdmRead pkg off) s = .next t ∧ OnlyPkg s t pkg ∧ (t.pkg pkg).snoop = p.snoop ∧ (e.1, true) ∈ (t.pkg pkg).backInval) ∧
      (∀ data, ∃ t, exec (.hostHdmWrite pkg off data (BitVec.allOnes 64)) s = .next t ∧
        (t.die d).gallery = memWrite (s.die d).gallery addr (leBytes 64 data.toNat) ∧ t.ctxs = s.ctxs ∧ t.cores = s.cores)) ∧
    (∀ off die addr (d : DieId), p.hostUp = true → p.hdmPlace off = some (die, addr) → d = { pkg := pkg, die := die } →
        p.landing.getD die = die → p.hdmIn = [] →
      (firstBad (s.die d).bad addr 64 ≠ none → s.hdmLineValue pkg off = BitVec.allOnes 512 ∧
        ∃ t, exec (.hostHdmRead pkg off) s = .next t ∧ (t.pkg pkg).herr = p.herr + 1 ∧ (t.pkg pkg).snoop = p.snoop ∧
          (t.die d).gallery = (s.die d).gallery) ∧
      (∀ data mask, hostWriteBad (s.die d).bad addr mask = true →
        exec (.hostHdmWrite pkg off data mask) s =
          .next ((s.countErrors d 0 (hostWriteMeets (s.die d).bad addr mask).length).hostError pkg off))) ∧
    (∀ line gone, (∃ e ∈ p.backInval, e.1 = line) → (gone = true ↔ (line, true) ∈ p.backInval) → ∃ t,
      exec (.backInvalidationDone pkg line none) s = .next t ∧ OnlyPkg s t pkg ∧
      (t.pkg pkg).backInval = p.backInval.filter (fun e => e.1 ≠ line) ∧
      (gone = true → ∀ e ∈ (t.pkg pkg).snoop, e ∈ p.snoop ∧ e.1 ≠ line) ∧
      (gone = false → (∀ e ∈ (t.pkg pkg).snoop, e.1 = line → e.2 = false) ∧ (t.pkg pkg).snoop.map (·.1) = p.snoop.map (·.1))) ∧
    (∀ line, p.hostUp = true → exec (.hostSnoop pkg line) s = .next s) ∧
    (∃ t, exec (.packageReset pkg) s = .next t ∧ (∀ n < 8, t.die { pkg := pkg, die := n } = Die.reset) ∧
      (t.pkg pkg).landing = p.landing ∧ (t.pkg pkg).hostMem = p.hostMem ∧ (t.pkg pkg).hostUp = false ∧
      (∀ img, img = (if p.imageReady then p.image else p.firmware) → (t.pkg pkg).firmware = img ∧
        (imageOk pkg img = true → (t.pkg pkg).recovery = false ∧ (t.pkg pkg).svn = imageSvn img ∧
          (t.pkg pkg).meas[0] = extendMeas 0 (imageDigest img)) ∧
        (imageOk pkg img = false → (t.pkg pkg).recovery = true ∧
          (p.landing ≠ none → (t.pkg pkg).pmask = Config.landingMask pkg))) ∧
      ∀ j, j ≠ pkg → t.pkg j = s.pkg j)

/-- No other package of the hall than the failed one shows a failure to the controller. -/
def Calm (s : State) (ctl : Nat) : Prop :=
  ∀ q ∈ hallOf ctl, q ≠ (s.pkg ctl).mig.failedPkg ∨ (s.pkg ctl).mig.state = .normal → (s.pkg q).reported = false ∧ s.linksDead q = false

/-- R399, R400, R428, R430, R431, R434–R437: a heartbeat is noted and its limit set, and a package that has sent none for that long is
declared failed: every member freezes towards it; a second failure is lost. The freeze is acknowledged, and with the last
acknowledgement REBUILD begins; reduction lines combine until all have come, and become parity or go on; REMAP renames the spare,
REPLAY follows, and at the end all are released. A BOOT packet of the manifest is collected, verified and measured; one of a block is
collected, and the block is kept or refused; a block is sent again, or asked for at the parent; a manifest
that comes again changes nothing, and another one begins a new boot (log 81); the spare keeps what a block holds for a package of its
hall. The limit of 64,800 cycles, the fields of a BOOT packet and the addresses of image lines are the model's choices (log 28, log 14,
log 40); so are the cycles of a microsecond, of which the remap takes ten (log 10), and that boot packets, block requests, heartbeats
and reduction lines are events with the time of their way (log 15, log 52). -/
def Obligations.MigrationEvents : Prop :=
  ∀ (s : State) (ctl src : Nat) (g : Migration), g = (s.pkg ctl).mig →
    (s.controllerOf src = some ctl → Calm s ctl → ∃ t, exec (.heartbeat ctl src) s = .next t ∧
      tfind (t.pkg ctl).mig.lastBeat src = some s.cycle ∧ (t.pkg ctl).mig.state = g.state ∧
      Due.mk (s.cycle + 64800) priLate (.heartbeatTimeout ctl src) ∈ t.agenda ∧ t.dies = s.dies ∧ t.ctxs = s.ctxs) ∧
    (∀ n, tfind g.lastBeat src = some n →
      (s.cycle < n + 64800 → exec (.heartbeatTimeout ctl src) s = .next s) ∧
      (n + 64800 ≤ s.cycle → g.state = .normal → src ≠ ctl → ∃ t, exec (.heartbeatTimeout ctl src) s = .next t ∧
        (t.pkg ctl).mig.state = .freeze ∧ (t.pkg ctl).mig.failedPkg = src ∧
        (∀ q, q ∈ s.partition ctl → q ≠ src → q ∈ (t.pkg ctl).mig.waits) ∧
        (∀ q ∈ (t.pkg ctl).mig.waits, q ≠ src ∧ (t.pkg q).frozen = some src ∧ (t.pkg q).heldNo = some (s.hallNo ctl src)) ∧ t.dies = s.dies ∧ t.ctxs = s.ctxs) ∧
      (n + 64800 ≤ s.cycle → g.state = .normal ∧ src = ctl ∨ (g.state ≠ .normal ∧ g.state ≠ .lost ∧ g.failedPkg ≠ src) → ∃ t,
        exec (.heartbeatTimeout ctl src) s = .next t ∧ (t.pkg ctl).mig.state = .lost ∧ t.dies = s.dies)) ∧
    (g.state = .freeze → src ∈ g.waits → Calm s ctl →
      (g.waits.filter (· ≠ src) ≠ [] → ∃ t, exec (.freezeAcknowledged ctl src) s = .next t ∧
        (t.pkg ctl).mig = { g with waits := g.waits.filter (· ≠ src) } ∧ t.dies = s.dies) ∧
      (g.waits.filter (· ≠ src) = [] → ∃ t, exec (.freezeAcknowledged ctl src) s = .next t ∧ (t.pkg ctl).mig.state = .rebuild ∧
        ((t.pkg ctl).mig.lines = 0 → Due.mk (s.cycle + 1) priLate (.rebuildComplete ctl) ∈ t.agenda) ∧ t.dies = s.dies)) ∧
    (∀ die a data w had, (s.pkg ctl).lineWindow die a = some w → had = tget (s.pkg ctl).redLines (die, a) (0, 0) →
      (had.1 + 1 < wbits w 52 5 → ∃ t, exec (.reductionLine ctl die a data) s = .next t ∧ OnlyPkg s t ctl ∧
        tget (t.pkg ctl).redLines (die, a) (0, 0) = (had.1 + 1, had.2 ^^^ data)) ∧
      (wbits w 52 5 ≤ had.1 + 1 → g.state = .rebuild → a < 2 ^ 32 → ∀ d : DieId, d = { pkg := ctl, die := die } →
          (s.die d).bad = [] → ∃ t,
        exec (.reductionLine ctl die a data) s = .next t ∧
        (t.die d).gallery = memWrite (s.die d).gallery a
          (xorBytes (leBytes 64 (had.2 ^^^ data).toNat) (memRead (s.die d).gallery a 64)) ∧
        (t.pkg ctl).mig.lines = g.lines - 1 ∧ tfind (t.pkg ctl).redLines (die, a) = none ∧
        (g.lines - 1 = 0 → Due.mk (s.cycle + 1) priLate (.rebuildComplete ctl) ∈ t.agenda)) ∧
      (wbits w 52 5 ≤ had.1 + 1 → g.state ≠ .rebuild → ∃ t, exec (.reductionLine ctl die a data) s = .next t ∧
        tfind (t.pkg ctl).redLines (die, a) = none ∧ t.dies = s.dies ∧ t.cores = s.cores ∧
        ∀ (u : State) next n, u = s.setPkg ctl { s.pkg ctl with redLines := tdel (s.pkg ctl).redLines (die, a) } →
          next = u.posOf ctl (wbits w 38 14) → u.wayOf 3 { pkg := ctl, die := 0 } { pkg := next, die := 0 } = .cost n →
          u.keyBad ctl next = false → Due.mk (s.cycle + 30 + n) priLate (.reductionLine next die a (had.2 ^^^ data)) ∈ t.agenda)) ∧
    (g.state = .rebuild → g.lines = 0 → Calm s ctl → g.failedPkg ≠ ctl → ∃ t, exec (.rebuildComplete ctl) s = .next t ∧
      (t.pkg ctl).mig.state = .remap ∧ (t.pkg ctl).lpkg = s.hallNo ctl g.failedPkg % 2 ^ 14 ∧ (t.pkg ctl).role = 3 ∧
      Due.mk (s.cycle + 8000) priLate (.remapComplete ctl) ∈ t.agenda ∧ (∀ q ∈ t.reqs, (dieOf q.own).pkg ≠ g.failedPkg)) ∧
    (g.state = .remap → Calm s ctl → ∃ t, exec (.remapComplete ctl) s = .next t ∧ (t.pkg ctl).mig.state = .replay ∧
      Due.mk (s.cycle + 1) priLate (.replayComplete ctl) ∈ t.agenda ∧ t.ctxs = s.ctxs ∧ t.cores = s.cores ∧
      ∀ i ∈ (s.toMig ctl .replay).freshSlots ctl, (t.slot i).sst = .active) ∧
    (g.state = .replay → Calm s ctl → ∃ t, exec (.replayComplete ctl) s = .next t ∧ (t.pkg ctl).mig.state = .resumed ∧
      (∀ q ∈ s.partition ctl, q ≠ g.failedPkg → (t.pkg q).frozen = none ∧ (t.pkg q).heldNo = none) ∧ Reported t ctl 0x46 (ctl / 32) 0 ∧ t.dies = s.dies ∧
      (s.heldFlits = [] → t.ctxs = s.ctxs)) ∧
    (∀ (k : Packet) (p : Pkg) raw, p = s.pkg ctl → raw = (if p.boot.manifest = none then p.boot.raw else p.boot.fresh) ++ [k] → k.seq = 0 →
      (p.boot.manifest ≠ none → raw = p.boot.raw →
        exec (.bootPacket ctl k) s = .next (s.setPkg ctl { p with boot := { p.boot with fresh := [] } })) ∧
      (p.boot.manifest = none ∨ raw ≠ p.boot.raw →
        (Config.manifestWhole (blockBytes raw) = false → exec (.bootPacket ctl k) s = .next (s.setPkg ctl { p with
          boot := if p.boot.manifest = none then { p.boot with raw := raw } else { p.boot with fresh := raw } })) ∧
        (Config.manifestWhole (blockBytes raw) = true → manifestOk ctl (blockBytes raw) = false → ∃ t,
          exec (.bootPacket ctl k) s = .next t ∧ Reported t ctl 0x48 0 0 ∧ t.dies = s.dies ∧
          (t.pkg ctl).boot = if p.boot.manifest = none then { p.boot with raw := [] } else { p.boot with fresh := [] }) ∧
        (Config.manifestWhole (blockBytes raw) = true → manifestOk ctl (blockBytes raw) = true → ∃ t,
          exec (.bootPacket ctl k) s = .next t ∧ (t.pkg ctl).boot.manifest = some (Config.manifestOf (blockBytes raw)) ∧
          (t.pkg ctl).boot.raw = raw ∧ (t.pkg ctl).boot.kept = [] ∧
          (t.pkg ctl).meas[4] = extendMeas p.meas[4] (sha384 (blockBytes raw)) ∧ SameBytes s t ∧
          (∀ q : Pkg, q = { p with boot := { Pkg.reset.boot with raw := raw, manifest := some (Config.manifestOf (blockBytes raw)) } } →
            (q.duties ctl ≠ [] → (t.pkg ctl).boot = q.boot) ∧
            (q.duties ctl = [] → (t.pkg ctl).boot = { q.boot with done := true } ∧ Reported t ctl 0x49 0 0))))) ∧
    (∀ (k : Packet) (p : Pkg) b had ks, p = s.pkg ctl → k.seq ≠ 0 →
      (p.duties ctl).find? (fun b => b.num = k.seq.toNat) = some b → k.seq.toNat ∉ p.boot.kept → had = tget p.boot.parts b.num [] →
      ks = had ++ [k] →
      (sameDst b k (blockBytes had).length = true → (blockBytes ks).length < b.len → ∃ t, exec (.bootPacket ctl k) s = .next t ∧
        (t.pkg ctl).boot = { p.boot with parts := tset p.boot.parts b.num ks } ∧ t.dies = s.dies ∧ t.cores = s.cores) ∧
      (sameDst b k (blockBytes had).length = false ∨
          (b.len ≤ (blockBytes ks).length ∧ ((blockBytes ks).length ≠ b.len ∨ sha384 (blockBytes ks) ≠ b.sha)) → ∃ t,
        exec (.bootPacket ctl k) s = .next t ∧ tfind (t.pkg ctl).boot.parts b.num = none ∧ (t.pkg ctl).boot.kept = p.boot.kept ∧
        Reported t ctl 0x48 (b.num % 2 ^ 12) 0 ∧ t.dies = s.dies ∧ t.cores = s.cores ∧
        ∀ n q, n = tget p.boot.asked b.num 0 → p.parent = some q →
          (n < 3 → tget (t.pkg ctl).boot.asked b.num 0 = n + 1 ∧ (t.pkg ctl).recovery = p.recovery) ∧
          (3 ≤ n → p.wants b = true → b.image = false → (t.pkg ctl).recovery = true)) ∧
      (sameDst b k (blockBytes had).length = true → (blockBytes ks).length = b.len → sha384 (blockBytes ks) = b.sha → ∃ t,
        exec (.bootPacket ctl k) s = .next t ∧ (t.pkg ctl).boot.kept = p.boot.kept ++ [b.num] ∧
        (∀ d : DieId, had = [] → b.image = true → p.wants b = true → d = { pkg := ctl, die := k.bootDie } → k.bootCore d = none →
          (s.die d).bad = [] → (t.die d).gallery = memWrite (s.die d).gallery k.bootAddr (k.payload.take k.len)) ∧
        (∀ die page data (d : DieId), b.image = false → p.wants b = true →
          p.hallImages ctl b (blockBytes ks) = [] → Config.bootMoves p.lpkg (blockBytes ks) = [.code die page data] →
          d = { pkg := ctl, die := die } → (t.die d).codeStore = memWrite (s.die d).codeStore (page * 4096) data ∧
          (t.pkg ctl).meas[3] = extendMeas p.meas[3] (sha384 data)) ∧
        (∀ n m, b.image = false → p.hallCopies ctl b = [m] → n = Config.bootMoves m (blockBytes ks) →
          tget (t.pkg ctl).boot.hallMoves m [] = tget p.boot.hallMoves m [] ++ n) ∧
        (p.boot.done = false → (∀ x ∈ p.duties ctl, x.num = b.num ∨ x.num ∈ p.boot.kept) →
          (t.pkg ctl).boot.done = true ∧ Reported t ctl 0x49 0 0 ∧
          ∀ e ∈ (t.pkg ctl).boot.supImages, (t.sup { die := { pkg := ctl, die := e.1 }, k := e.2.1 }).halted = false))) ∧
    (∀ child block ks, tfind (s.pkg ctl).boot.sent block = some ks → ∃ t, exec (.bootBlockRequest ctl child block) s = .next t ∧
      t = { s with agenda := t.agenda, heldFlits := t.heldFlits } ∧
      ∀ k ∈ ks, ∀ n, s.wayOf 0 { pkg := ctl, die := 0 } { pkg := child, die := 0 } = .cost n →
        Due.mk (s.cycle + 30 + n) priLate (.bootPacket child k) ∈ t.agenda) ∧
    (∀ child block q, tfind (s.pkg ctl).boot.sent block = none → (s.pkg ctl).parent = some q → ∃ t,
      exec (.bootBlockRequest ctl child block) s = .next t ∧ t = { s with agenda := t.agenda, heldFlits := t.heldFlits } ∧
      ∀ n, s.wayOf 0 { pkg := ctl, die := 0 } { pkg := q, die := 0 } = .cost n →
        Due.mk (s.cycle + 30 + n) priLate (.bootBlockRequest q child block) ∈ t.agenda)
end

