-- ==== Sys2Proof/Laws/Exec.lean ====
section
/-! SUPPORT. The arm of `exec` for every constructor. -/

namespace Sys2Proof.Machine

theorem exec_nop (p : BitVec 4) (s : State) :
    exec (.nop p) s = execNop p s := rfl
theorem exec_endFiring (p : BitVec 4) (s : State) :
    exec (.endFiring p) s = execEndFiring p s := rfl
theorem exec_br (p : BitVec 4) (d : BitVec 18) (s : State) :
    exec (.br p d) s = execBr p d s := rfl
theorem exec_brR (p : BitVec 4) (a : BitVec 6) (s : State) :
    exec (.brR p a) s = execBrR p a s := rfl
theorem exec_brT (p : BitVec 4) (q1 : BitVec 4) (q2 : BitVec 4) (q3 : BitVec 4) (q4 : BitVec 4) (n : BitVec 2) (t1 : BitVec 14) (t2 : BitVec 14) (t3 : BitVec 14) (t4 : BitVec 14) (s : State) :
    exec (.brT p q1 q2 q3 q4 n t1 t2 t3 t4) s = execBrT p q1 q2 q3 q4 n t1 t2 t3 t4 s := rfl
theorem exec_call (p : BitVec 4) (d : BitVec 18) (s : State) :
    exec (.call p d) s = execCall p d s := rfl
theorem exec_callR (p : BitVec 4) (a : BitVec 6) (s : State) :
    exec (.callR p a) s = execCallR p a s := rfl
theorem exec_ret (p : BitVec 4) (s : State) :
    exec (.ret p) s = execRet p s := rfl
theorem exec_loop (p : BitVec 4) (c : BitVec 6) (d : BitVec 12) (s : State) :
    exec (.loop p c d) s = execLoop p c d s := rfl
theorem exec_loopR (p : BitVec 4) (d : BitVec 18) (s : State) :
    exec (.loopR p d) s = execLoopR p d s := rfl
theorem exec_setlc (p : BitVec 4) (e : BitVec 6) (a : BitVec 6) (im : Opnd 6) (s : State) :
    exec (.setlc p e a im) s = execSetlc p e a im s := rfl
theorem exec_take (p : BitVec 4) (d : BitVec 6) (h : BitVec 6) (n : BitVec 3) (s : State) :
    exec (.take p d h n) s = execTake p d h n s := rfl
theorem exec_emit (p : BitVec 4) (d : BitVec 6) (a : BitVec 6) (n : BitVec 3) (k : BitVec 1) (w : BitVec 1) (s : State) :
    exec (.emit p d a n k w) s = execEmit p d a n k w s := rfl
theorem exec_mark (p : BitVec 4) (n : BitVec 3) (l : BitVec 1) (e : BitVec 1) (s : State) :
    exec (.mark p n l e) s = execMark p n l e s := rfl
theorem exec_peek (p : BitVec 4) (d : BitVec 6) (a : BitVec 6) (n : BitVec 3) (m : BitVec 3) (s : State) :
    exec (.peek p d a n m) s = execPeek p d a n m s := rfl
theorem exec_wtag (p : BitVec 4) (t : BitVec 4) (s : State) :
    exec (.wtag p t) s = execWtag p t s := rfl
theorem exec_trap (p : BitVec 4) (im : Opnd 6) (s : State) :
    exec (.trap p im) s = execTrap p im s := rfl
theorem exec_mfcr (p : BitVec 4) (d : BitVec 6) (x : BitVec 6) (s : State) :
    exec (.mfcr p d x) s = execMfcr p d x s := rfl
theorem exec_mtcr (p : BitVec 4) (x : BitVec 6) (a : BitVec 6) (s : State) :
    exec (.mtcr p x a) s = execMtcr p x a s := rfl
theorem exec_rft (p : BitVec 4) (s : State) :
    exec (.rft p) s = execRft p s := rfl
theorem exec_halt (p : BitVec 4) (s : State) :
    exec (.halt p) s = execHalt p s := rfl
theorem exec_cfgNext (p : BitVec 4) (a : BitVec 6) (s : State) :
    exec (.cfgNext p a) s = execCfgNext p a s := rfl
theorem exec_add (p : BitVec 4) (d : BitVec 6) (a : BitVec 6) (b : BitVec 6) (s : State) :
    exec (.add p d a b) s = execAdd p d a b s := rfl
theorem exec_sub (p : BitVec 4) (d : BitVec 6) (a : BitVec 6) (b : BitVec 6) (s : State) :
    exec (.sub p d a b) s = execSub p d a b s := rfl
theorem exec_mul (p : BitVec 4) (d : BitVec 6) (a : BitVec 6) (b : BitVec 6) (s : State) :
    exec (.mul p d a b) s = execMul p d a b s := rfl
theorem exec_mulh (p : BitVec 4) (d : BitVec 6) (a : BitVec 6) (b : BitVec 6) (s : State) :
    exec (.mulh p d a b) s = execMulh p d a b s := rfl
theorem exec_div (p : BitVec 4) (d : BitVec 6) (a : BitVec 6) (b : BitVec 6) (s : State) :
    exec (.div p d a b) s = execDiv p d a b s := rfl
theorem exec_divN (p : BitVec 4) (d : BitVec 6) (a : BitVec 6) (b : BitVec 6) (s : State) :
    exec (.divN p d a b) s = execDivN p d a b s := rfl
theorem exec_rem (p : BitVec 4) (d : BitVec 6) (a : BitVec 6) (b : BitVec 6) (s : State) :
    exec (.rem p d a b) s = execRem p d a b s := rfl
theorem exec_and (p : BitVec 4) (d : BitVec 6) (a : BitVec 6) (b : BitVec 6) (s : State) :
    exec (.and p d a b) s = execAnd p d a b s := rfl
theorem exec_or (p : BitVec 4) (d : BitVec 6) (a : BitVec 6) (b : BitVec 6) (s : State) :
    exec (.or p d a b) s = execOr p d a b s := rfl
theorem exec_xor (p : BitVec 4) (d : BitVec 6) (a : BitVec 6) (b : BitVec 6) (s : State) :
    exec (.xor p d a b) s = execXor p d a b s := rfl
theorem exec_andn (p : BitVec 4) (d : BitVec 6) (a : BitVec 6) (b : BitVec 6) (s : State) :
    exec (.andn p d a b) s = execAndn p d a b s := rfl
theorem exec_shl (p : BitVec 4) (d : BitVec 6) (a : BitVec 6) (b : BitVec 6) (s : State) :
    exec (.shl p d a b) s = execShl p d a b s := rfl
theorem exec_shr (p : BitVec 4) (d : BitVec 6) (a : BitVec 6) (b : BitVec 6) (s : State) :
    exec (.shr p d a b) s = execShr p d a b s := rfl
theorem exec_sar (p : BitVec 4) (d : BitVec 6) (a : BitVec 6) (b : BitVec 6) (s : State) :
    exec (.sar p d a b) s = execSar p d a b s := rfl
theorem exec_min (p : BitVec 4) (d : BitVec 6) (a : BitVec 6) (b : BitVec 6) (s : State) :
    exec (.min p d a b) s = execMin p d a b s := rfl
theorem exec_max (p : BitVec 4) (d : BitVec 6) (a : BitVec 6) (b : BitVec 6) (s : State) :
    exec (.max p d a b) s = execMax p d a b s := rfl
theorem exec_minN (p : BitVec 4) (d : BitVec 6) (a : BitVec 6) (b : BitVec 6) (s : State) :
    exec (.minN p d a b) s = execMinN p d a b s := rfl
theorem exec_maxN (p : BitVec 4) (d : BitVec 6) (a : BitVec 6) (b : BitVec 6) (s : State) :
    exec (.maxN p d a b) s = execMaxN p d a b s := rfl
theorem exec_addi (p : BitVec 4) (d : BitVec 6) (a : BitVec 6) (im : Opnd 6) (s : State) :
    exec (.addi p d a im) s = execAddi p d a im s := rfl
theorem exec_andi (p : BitVec 4) (d : BitVec 6) (a : BitVec 6) (im : Opnd 6) (s : State) :
    exec (.andi p d a im) s = execAndi p d a im s := rfl
theorem exec_ori (p : BitVec 4) (d : BitVec 6) (a : BitVec 6) (im : Opnd 6) (s : State) :
    exec (.ori p d a im) s = execOri p d a im s := rfl
theorem exec_xori (p : BitVec 4) (d : BitVec 6) (a : BitVec 6) (im : Opnd 6) (s : State) :
    exec (.xori p d a im) s = execXori p d a im s := rfl
theorem exec_shli (p : BitVec 4) (d : BitVec 6) (a : BitVec 6) (im : BitVec 6) (s : State) :
    exec (.shli p d a im) s = execShli p d a im s := rfl
theorem exec_shri (p : BitVec 4) (d : BitVec 6) (a : BitVec 6) (im : BitVec 6) (s : State) :
    exec (.shri p d a im) s = execShri p d a im s := rfl
theorem exec_sari (p : BitVec 4) (d : BitVec 6) (a : BitVec 6) (im : BitVec 6) (s : State) :
    exec (.sari p d a im) s = execSari p d a im s := rfl
theorem exec_li (p : BitVec 4) (d : BitVec 6) (im : Opnd 6) (s : State) :
    exec (.li p d im) s = execLi p d im s := rfl
theorem exec_sel (q : BitVec 4) (d : BitVec 6) (a : BitVec 6) (b : BitVec 6) (s : State) :
    exec (.sel q d a b) s = execSel q d a b s := rfl
theorem exec_clz (p : BitVec 4) (d : BitVec 6) (a : BitVec 6) (s : State) :
    exec (.clz p d a) s = execClz p d a s := rfl
theorem exec_ctz (p : BitVec 4) (d : BitVec 6) (a : BitVec 6) (s : State) :
    exec (.ctz p d a) s = execCtz p d a s := rfl
theorem exec_popc (p : BitVec 4) (d : BitVec 6) (a : BitVec 6) (s : State) :
    exec (.popc p d a) s = execPopc p d a s := rfl
theorem exec_extract (p : BitVec 4) (d : BitVec 6) (a : BitVec 6) (b : BitVec 6) (s : State) :
    exec (.extract p d a b) s = execExtract p d a b s := rfl
theorem exec_extractN (p : BitVec 4) (d : BitVec 6) (a : BitVec 6) (b : BitVec 6) (s : State) :
    exec (.extractN p d a b) s = execExtractN p d a b s := rfl
theorem exec_insert (p : BitVec 4) (d : BitVec 6) (a : BitVec 6) (b : BitVec 6) (s : State) :
    exec (.insert p d a b) s = execInsert p d a b s := rfl
theorem exec_unpk (p : BitVec 4) (d : BitVec 6) (a : BitVec 6) (b : BitVec 6) (s : State) :
    exec (.unpk p d a b) s = execUnpk p d a b s := rfl
theorem exec_packb (p : BitVec 4) (d : BitVec 6) (a : BitVec 6) (b : BitVec 6) (s : State) :
    exec (.packb p d a b) s = execPackb p d a b s := rfl
theorem exec_lut (p : BitVec 4) (d : BitVec 6) (a : BitVec 6) (b : BitVec 6) (s : State) :
    exec (.lut p d a b) s = execLut p d a b s := rfl
theorem exec_cmpEq (p : BitVec 4) (q : BitVec 4) (m : BitVec 2) (a : BitVec 6) (b : BitVec 6) (s : State) :
    exec (.cmpEq p q m a b) s = execCmpEq p q m a b s := rfl
theorem exec_cmpNe (p : BitVec 4) (q : BitVec 4) (m : BitVec 2) (a : BitVec 6) (b : BitVec 6) (s : State) :
    exec (.cmpNe p q m a b) s = execCmpNe p q m a b s := rfl
theorem exec_cmpLt (p : BitVec 4) (q : BitVec 4) (m : BitVec 2) (a : BitVec 6) (b : BitVec 6) (s : State) :
    exec (.cmpLt p q m a b) s = execCmpLt p q m a b s := rfl
theorem exec_cmpGe (p : BitVec 4) (q : BitVec 4) (m : BitVec 2) (a : BitVec 6) (b : BitVec 6) (s : State) :
    exec (.cmpGe p q m a b) s = execCmpGe p q m a b s := rfl
theorem exec_cmpLtn (p : BitVec 4) (q : BitVec 4) (m : BitVec 2) (a : BitVec 6) (b : BitVec 6) (s : State) :
    exec (.cmpLtn p q m a b) s = execCmpLtn p q m a b s := rfl
theorem exec_cmpGen (p : BitVec 4) (q : BitVec 4) (m : BitVec 2) (a : BitVec 6) (b : BitVec 6) (s : State) :
    exec (.cmpGen p q m a b) s = execCmpGen p q m a b s := rfl
theorem exec_cmpiEq (p : BitVec 4) (q : BitVec 4) (m : BitVec 2) (a : BitVec 6) (im : Opnd 6) (s : State) :
    exec (.cmpiEq p q m a im) s = execCmpiEq p q m a im s := rfl
theorem exec_cmpiLt (p : BitVec 4) (q : BitVec 4) (m : BitVec 2) (a : BitVec 6) (im : Opnd 6) (s : State) :
    exec (.cmpiLt p q m a im) s = execCmpiLt p q m a im s := rfl
theorem exec_cmpiGe (p : BitVec 4) (q : BitVec 4) (m : BitVec 2) (a : BitVec 6) (im : Opnd 6) (s : State) :
    exec (.cmpiGe p q m a im) s = execCmpiGe p q m a im s := rfl
theorem exec_pand (p : BitVec 4) (q : BitVec 4) (m : BitVec 2) (n : BitVec 1) (a : BitVec 4) (k : BitVec 1) (b : BitVec 4) (s : State) :
    exec (.pand p q m n a k b) s = execPand p q m n a k b s := rfl
theorem exec_por (p : BitVec 4) (q : BitVec 4) (m : BitVec 2) (n : BitVec 1) (a : BitVec 4) (k : BitVec 1) (b : BitVec 4) (s : State) :
    exec (.por p q m n a k b) s = execPor p q m n a k b s := rfl
theorem exec_pxor (p : BitVec 4) (q : BitVec 4) (m : BitVec 2) (n : BitVec 1) (a : BitVec 4) (k : BitVec 1) (b : BitVec 4) (s : State) :
    exec (.pxor p q m n a k b) s = execPxor p q m n a k b s := rfl
theorem exec_faddS (p : BitVec 4) (d : BitVec 6) (a : BitVec 6) (b : Opnd 6) (s : State) :
    exec (.faddS p d a b) s = execFaddS p d a b s := rfl
theorem exec_faddD (p : BitVec 4) (d : BitVec 6) (a : BitVec 6) (b : Opnd 6) (s : State) :
    exec (.faddD p d a b) s = execFaddD p d a b s := rfl
theorem exec_fmulS (p : BitVec 4) (d : BitVec 6) (a : BitVec 6) (b : Opnd 6) (s : State) :
    exec (.fmulS p d a b) s = execFmulS p d a b s := rfl
theorem exec_fmulD (p : BitVec 4) (d : BitVec 6) (a : BitVec 6) (b : Opnd 6) (s : State) :
    exec (.fmulD p d a b) s = execFmulD p d a b s := rfl
theorem exec_ffmaS (p : BitVec 4) (d : BitVec 6) (a : BitVec 6) (b : Opnd 6) (s : State) :
    exec (.ffmaS p d a b) s = execFfmaS p d a b s := rfl
theorem exec_ffmaD (p : BitVec 4) (d : BitVec 6) (a : BitVec 6) (b : Opnd 6) (s : State) :
    exec (.ffmaD p d a b) s = execFfmaD p d a b s := rfl
theorem exec_fminS (p : BitVec 4) (d : BitVec 6) (a : BitVec 6) (b : Opnd 6) (s : State) :
    exec (.fminS p d a b) s = execFminS p d a b s := rfl
theorem exec_fmaxS (p : BitVec 4) (d : BitVec 6) (a : BitVec 6) (b : Opnd 6) (s : State) :
    exec (.fmaxS p d a b) s = execFmaxS p d a b s := rfl
theorem exec_fcmpLt (p : BitVec 4) (q : BitVec 4) (m : BitVec 2) (a : BitVec 6) (b : Opnd 6) (s : State) :
    exec (.fcmpLt p q m a b) s = execFcmpLt p q m a b s := rfl
theorem exec_fcmpEq (p : BitVec 4) (q : BitVec 4) (m : BitVec 2) (a : BitVec 6) (b : Opnd 6) (s : State) :
    exec (.fcmpEq p q m a b) s = execFcmpEq p q m a b s := rfl
theorem exec_fcvt (p : BitVec 4) (d : BitVec 6) (a : BitVec 6) (c : BitVec 6) (s : State) :
    exec (.fcvt p d a c) s = execFcvt p d a c s := rfl
theorem exec_fdivS (p : BitVec 4) (d : BitVec 6) (a : BitVec 6) (b : BitVec 6) (s : State) :
    exec (.fdivS p d a b) s = execFdivS p d a b s := rfl
theorem exec_fsqrtS (p : BitVec 4) (d : BitVec 6) (a : BitVec 6) (s : State) :
    exec (.fsqrtS p d a) s = execFsqrtS p d a s := rfl
theorem exec_rng (p : BitVec 4) (d : BitVec 6) (s : State) :
    exec (.rng p d) s = execRng p d s := rfl
theorem exec_mulhN (p : BitVec 4) (d : BitVec 6) (a : BitVec 6) (b : BitVec 6) (s : State) :
    exec (.mulhN p d a b) s = execMulhN p d a b s := rfl
theorem exec_ldL (p : BitVec 4) (d : BitVec 6) (a : BitVec 6) (z : BitVec 2) (im : Opnd 4) (s : State) :
    exec (.ldL p d a z im) s = execLdL p d a z im s := rfl
theorem exec_ldsL (p : BitVec 4) (d : BitVec 6) (a : BitVec 6) (z : BitVec 2) (im : Opnd 4) (s : State) :
    exec (.ldsL p d a z im) s = execLdsL p d a z im s := rfl
theorem exec_stL (p : BitVec 4) (d : BitVec 6) (a : BitVec 6) (z : BitVec 2) (im : Opnd 4) (s : State) :
    exec (.stL p d a z im) s = execStL p d a z im s := rfl
theorem exec_vldL (p : BitVec 4) (v : BitVec 5) (a : BitVec 6) (im : Opnd 4) (s : State) :
    exec (.vldL p v a im) s = execVldL p v a im s := rfl
theorem exec_vstL (p : BitVec 4) (v : BitVec 5) (a : BitVec 6) (im : Opnd 4) (s : State) :
    exec (.vstL p v a im) s = execVstL p v a im s := rfl
theorem exec_ldLf (p : BitVec 4) (d : BitVec 6) (a : BitVec 6) (z : BitVec 2) (im : Opnd 4) (s : State) :
    exec (.ldLf p d a z im) s = execLdLf p d a z im s := rfl
theorem exec_ldLfc (p : BitVec 4) (d : BitVec 6) (a : BitVec 6) (z : BitVec 2) (im : Opnd 4) (s : State) :
    exec (.ldLfc p d a z im) s = execLdLfc p d a z im s := rfl
theorem exec_stLf (p : BitVec 4) (d : BitVec 6) (a : BitVec 6) (z : BitVec 2) (im : Opnd 4) (s : State) :
    exec (.stLf p d a z im) s = execStLf p d a z im s := rfl
theorem exec_stLe (p : BitVec 4) (d : BitVec 6) (a : BitVec 6) (z : BitVec 2) (im : Opnd 4) (s : State) :
    exec (.stLe p d a z im) s = execStLe p d a z im s := rfl
theorem exec_amoL (p : BitVec 4) (d : BitVec 6) (a : BitVec 6) (o : BitVec 4) (z : BitVec 2) (s : State) :
    exec (.amoL p d a o z) s = execAmoL p d a o z s := rfl
theorem exec_ldC (p : BitVec 4) (d : BitVec 6) (a : BitVec 6) (z : BitVec 2) (im : Opnd 4) (s : State) :
    exec (.ldC p d a z im) s = execLdC p d a z im s := rfl
theorem exec_ldsC (p : BitVec 4) (d : BitVec 6) (a : BitVec 6) (z : BitVec 2) (im : Opnd 4) (s : State) :
    exec (.ldsC p d a z im) s = execLdsC p d a z im s := rfl
theorem exec_stC (p : BitVec 4) (d : BitVec 6) (a : BitVec 6) (z : BitVec 2) (im : Opnd 4) (s : State) :
    exec (.stC p d a z im) s = execStC p d a z im s := rfl
theorem exec_vldC (p : BitVec 4) (v : BitVec 5) (a : BitVec 6) (im : Opnd 4) (s : State) :
    exec (.vldC p v a im) s = execVldC p v a im s := rfl
theorem exec_vstC (p : BitVec 4) (v : BitVec 5) (a : BitVec 6) (im : Opnd 4) (s : State) :
    exec (.vstC p v a im) s = execVstC p v a im s := rfl
theorem exec_mcst (p : BitVec 4) (v : BitVec 5) (a : BitVec 6) (im : Opnd 4) (s : State) :
    exec (.mcst p v a im) s = execMcst p v a im s := rfl
theorem exec_ldG (p : BitVec 4) (d : BitVec 6) (a : BitVec 6) (z : BitVec 2) (im : Opnd 4) (s : State) :
    exec (.ldG p d a z im) s = execLdG p d a z im s := rfl
theorem exec_ldsG (p : BitVec 4) (d : BitVec 6) (a : BitVec 6) (z : BitVec 2) (im : Opnd 4) (s : State) :
    exec (.ldsG p d a z im) s = execLdsG p d a z im s := rfl
theorem exec_stG (p : BitVec 4) (d : BitVec 6) (a : BitVec 6) (z : BitVec 2) (im : Opnd 4) (s : State) :
    exec (.stG p d a z im) s = execStG p d a z im s := rfl
theorem exec_vldG (p : BitVec 4) (v : BitVec 5) (a : BitVec 6) (im : Opnd 4) (s : State) :
    exec (.vldG p v a im) s = execVldG p v a im s := rfl
theorem exec_vstG (p : BitVec 4) (v : BitVec 5) (a : BitVec 6) (im : Opnd 4) (s : State) :
    exec (.vstG p v a im) s = execVstG p v a im s := rfl
theorem exec_amoG (p : BitVec 4) (d : BitVec 6) (a : BitVec 6) (o : BitVec 4) (z : BitVec 2) (s : State) :
    exec (.amoG p d a o z) s = execAmoG p d a o z s := rfl
theorem exec_casG (p : BitVec 4) (d : BitVec 6) (a : BitVec 6) (b : BitVec 6) (s : State) :
    exec (.casG p d a b) s = execCasG p d a b s := rfl
theorem exec_ldN (p : BitVec 4) (d : BitVec 6) (a : BitVec 6) (z : BitVec 2) (im : Opnd 4) (s : State) :
    exec (.ldN p d a z im) s = execLdN p d a z im s := rfl
theorem exec_ldsN (p : BitVec 4) (d : BitVec 6) (a : BitVec 6) (z : BitVec 2) (im : Opnd 4) (s : State) :
    exec (.ldsN p d a z im) s = execLdsN p d a z im s := rfl
theorem exec_stN (p : BitVec 4) (d : BitVec 6) (a : BitVec 6) (z : BitVec 2) (im : Opnd 4) (s : State) :
    exec (.stN p d a z im) s = execStN p d a z im s := rfl
theorem exec_vldN (p : BitVec 4) (v : BitVec 5) (a : BitVec 6) (im : Opnd 4) (s : State) :
    exec (.vldN p v a im) s = execVldN p v a im s := rfl
theorem exec_vstN (p : BitVec 4) (v : BitVec 5) (a : BitVec 6) (im : Opnd 4) (s : State) :
    exec (.vstN p v a im) s = execVstN p v a im s := rfl
theorem exec_amoN (p : BitVec 4) (d : BitVec 6) (a : BitVec 6) (o : BitVec 4) (z : BitVec 2) (s : State) :
    exec (.amoN p d a o z) s = execAmoN p d a o z s := rfl
theorem exec_casN (p : BitVec 4) (d : BitVec 6) (a : BitVec 6) (b : BitVec 6) (s : State) :
    exec (.casN p d a b) s = execCasN p d a b s := rfl
theorem exec_gathVector (p : BitVec 4) (v : BitVec 5) (d : BitVec 5) (t : BitVec 4) (s : State) :
    exec (.gathVector p v d t) s = execGathVector p v d t s := rfl
theorem exec_gathTile (p : BitVec 4) (k : BitVec 3) (d : BitVec 5) (s : State) :
    exec (.gathTile p k d) s = execGathTile p k d s := rfl
theorem exec_sqNew (p : BitVec 4) (d : BitVec 6) (a : BitVec 6) (s : State) :
    exec (.sqNew p d a) s = execSqNew p d a s := rfl
theorem exec_sqRes (p : BitVec 4) (d : BitVec 6) (h : BitVec 6) (n : BitVec 6) (s : State) :
    exec (.sqRes p d h n) s = execSqRes p d h n s := rfl
theorem exec_sqCom (p : BitVec 4) (f : BitVec 6) (h : BitVec 6) (n : BitVec 6) (s : State) :
    exec (.sqCom p f h n) s = execSqCom p f h n s := rfl
theorem exec_sqLen (p : BitVec 4) (d : BitVec 6) (h : BitVec 6) (q : BitVec 6) (s : State) :
    exec (.sqLen p d h q) s = execSqLen p d h q s := rfl
theorem exec_sqFork (p : BitVec 4) (d : BitVec 6) (h : BitVec 6) (s : State) :
    exec (.sqFork p d h) s = execSqFork p d h s := rfl
theorem exec_sqDrop (p : BitVec 4) (h : BitVec 6) (s : State) :
    exec (.sqDrop p h) s = execSqDrop p h s := rfl
theorem exec_sqGath (p : BitVec 4) (m : BitVec 2) (t : BitVec 3) (d : BitVec 5) (b : BitVec 6) (s : State) :
    exec (.sqGath p m t d b) s = execSqGath p m t d b s := rfl
theorem exec_sqPre (p : BitVec 4) (r : BitVec 6) (h : BitVec 6) (b : BitVec 6) (s : State) :
    exec (.sqPre p r h b) s = execSqPre p r h b s := rfl
theorem exec_plReq (p : BitVec 4) (d : BitVec 6) (a : BitVec 6) (s : State) :
    exec (.plReq p d a) s = execPlReq p d a s := rfl
theorem exec_plRsp (p : BitVec 4) (v : BitVec 5) (q : BitVec 6) (t : BitVec 4) (s : State) :
    exec (.plRsp p v q t) s = execPlRsp p v q t s := rfl
theorem exec_phReg (p : BitVec 4) (d : BitVec 6) (m : BitVec 2) (h : BitVec 4) (s : State) :
    exec (.phReg p d m h) s = execPhReg p d m h s := rfl
theorem exec_phDrop (p : BitVec 4) (h : BitVec 4) (s : State) :
    exec (.phDrop p h) s = execPhDrop p h s := rfl
theorem exec_phSig (p : BitVec 4) (h : BitVec 4) (s : State) :
    exec (.phSig p h) s = execPhSig p h s := rfl
theorem exec_phWait (p : BitVec 4) (d : BitVec 6) (h : BitVec 4) (s : State) :
    exec (.phWait p d h) s = execPhWait p d h s := rfl
theorem exec_phAdv (p : BitVec 4) (d : BitVec 6) (h : BitVec 4) (s : State) :
    exec (.phAdv p d h) s = execPhAdv p d h s := rfl
theorem exec_clBar (p : BitVec 4) (d : BitVec 6) (s : State) :
    exec (.clBar p d) s = execClBar p d s := rfl
theorem exec_wcnt (p : BitVec 4) (c : BitVec 1) (b : BitVec 6) (s : State) :
    exec (.wcnt p c b) s = execWcnt p c b s := rfl
theorem exec_fence (p : BitVec 4) (g : BitVec 3) (q : BitVec 1) (r : BitVec 1) (s : State) :
    exec (.fence p g q r) s = execFence p g q r s := rfl
theorem exec_waita (p : BitVec 4) (d : BitVec 6) (f : BitVec 1) (a : BitVec 5) (b : BitVec 6) (s : State) :
    exec (.waita p d f a b) s = execWaita p d f a b s := rfl
theorem exec_ownAcq (p : BitVec 4) (d : BitVec 6) (a : BitVec 6) (x : BitVec 1) (s : State) :
    exec (.ownAcq p d a x) s = execOwnAcq p d a x s := rfl
theorem exec_ownRel (p : BitVec 4) (a : BitVec 6) (s : State) :
    exec (.ownRel p a) s = execOwnRel p a s := rfl
theorem exec_dig (p : BitVec 4) (d : BitVec 6) (a : BitVec 6) (s : State) :
    exec (.dig p d a) s = execDig p d a s := rfl
theorem exec_vadd (p : BitVec 4) (t : BitVec 3) (d : BitVec 5) (a : BitVec 5) (b : Opnd 5) (s : State) :
    exec (.vadd p t d a b) s = execVadd p t d a b s := rfl
theorem exec_vsub (p : BitVec 4) (t : BitVec 3) (d : BitVec 5) (a : BitVec 5) (b : Opnd 5) (s : State) :
    exec (.vsub p t d a b) s = execVsub p t d a b s := rfl
theorem exec_vmul (p : BitVec 4) (t : BitVec 3) (d : BitVec 5) (a : BitVec 5) (b : Opnd 5) (s : State) :
    exec (.vmul p t d a b) s = execVmul p t d a b s := rfl
theorem exec_vfma (p : BitVec 4) (t : BitVec 3) (d : BitVec 5) (a : BitVec 5) (b : Opnd 5) (s : State) :
    exec (.vfma p t d a b) s = execVfma p t d a b s := rfl
theorem exec_vmin (p : BitVec 4) (t : BitVec 3) (d : BitVec 5) (a : BitVec 5) (b : Opnd 5) (s : State) :
    exec (.vmin p t d a b) s = execVmin p t d a b s := rfl
theorem exec_vmax (p : BitVec 4) (t : BitVec 3) (d : BitVec 5) (a : BitVec 5) (b : Opnd 5) (s : State) :
    exec (.vmax p t d a b) s = execVmax p t d a b s := rfl
theorem exec_vand (p : BitVec 4) (t : BitVec 3) (d : BitVec 5) (a : BitVec 5) (b : Opnd 5) (s : State) :
    exec (.vand p t d a b) s = execVand p t d a b s := rfl
theorem exec_vor (p : BitVec 4) (t : BitVec 3) (d : BitVec 5) (a : BitVec 5) (b : Opnd 5) (s : State) :
    exec (.vor p t d a b) s = execVor p t d a b s := rfl
theorem exec_vxor (p : BitVec 4) (t : BitVec 3) (d : BitVec 5) (a : BitVec 5) (b : Opnd 5) (s : State) :
    exec (.vxor p t d a b) s = execVxor p t d a b s := rfl
theorem exec_vshl (p : BitVec 4) (t : BitVec 3) (d : BitVec 5) (a : BitVec 5) (b : Opnd 5) (s : State) :
    exec (.vshl p t d a b) s = execVshl p t d a b s := rfl
theorem exec_vshr (p : BitVec 4) (t : BitVec 3) (d : BitVec 5) (a : BitVec 5) (b : Opnd 5) (s : State) :
    exec (.vshr p t d a b) s = execVshr p t d a b s := rfl
theorem exec_vsar (p : BitVec 4) (t : BitVec 3) (d : BitVec 5) (a : BitVec 5) (b : Opnd 5) (s : State) :
    exec (.vsar p t d a b) s = execVsar p t d a b s := rfl
theorem exec_vabs (p : BitVec 4) (t : BitVec 3) (d : BitVec 5) (a : BitVec 5) (s : State) :
    exec (.vabs p t d a) s = execVabs p t d a s := rfl
theorem exec_vneg (p : BitVec 4) (t : BitVec 3) (d : BitVec 5) (a : BitVec 5) (s : State) :
    exec (.vneg p t d a) s = execVneg p t d a s := rfl
theorem exec_vcvt (p : BitVec 4) (t : BitVec 3) (d : BitVec 5) (a : BitVec 5) (k : BitVec 2) (g : BitVec 3) (s : State) :
    exec (.vcvt p t d a k g) s = execVcvt p t d a k g s := rfl
theorem exec_vcmpEq (p : BitVec 4) (t : BitVec 3) (d : BitVec 5) (a : BitVec 5) (b : Opnd 5) (s : State) :
    exec (.vcmpEq p t d a b) s = execVcmpEq p t d a b s := rfl
theorem exec_vcmpLt (p : BitVec 4) (t : BitVec 3) (d : BitVec 5) (a : BitVec 5) (b : Opnd 5) (s : State) :
    exec (.vcmpLt p t d a b) s = execVcmpLt p t d a b s := rfl
theorem exec_vcmpLe (p : BitVec 4) (t : BitVec 3) (d : BitVec 5) (a : BitVec 5) (b : Opnd 5) (s : State) :
    exec (.vcmpLe p t d a b) s = execVcmpLe p t d a b s := rfl
theorem exec_vsel (p : BitVec 4) (t : BitVec 3) (d : BitVec 5) (a : BitVec 5) (b : BitVec 5) (s : State) :
    exec (.vsel p t d a b) s = execVsel p t d a b s := rfl
theorem exec_vbcast (p : BitVec 4) (t : BitVec 3) (d : BitVec 5) (a : BitVec 5) (s : State) :
    exec (.vbcast p t d a) s = execVbcast p t d a s := rfl
theorem exec_vperm (p : BitVec 4) (t : BitVec 3) (d : BitVec 5) (a : BitVec 5) (b : BitVec 5) (s : State) :
    exec (.vperm p t d a b) s = execVperm p t d a b s := rfl
theorem exec_vrot (p : BitVec 4) (t : BitVec 3) (d : BitVec 5) (a : BitVec 5) (b : BitVec 5) (s : State) :
    exec (.vrot p t d a b) s = execVrot p t d a b s := rfl
theorem exec_vrsum (p : BitVec 4) (t : BitVec 3) (d : BitVec 5) (a : BitVec 5) (s : State) :
    exec (.vrsum p t d a) s = execVrsum p t d a s := rfl
theorem exec_vrmax (p : BitVec 4) (t : BitVec 3) (d : BitVec 5) (a : BitVec 5) (s : State) :
    exec (.vrmax p t d a) s = execVrmax p t d a s := rfl
theorem exec_vrmin (p : BitVec 4) (t : BitVec 3) (d : BitVec 5) (a : BitVec 5) (s : State) :
    exec (.vrmin p t d a) s = execVrmin p t d a s := rfl
theorem exec_vscan (p : BitVec 4) (t : BitVec 3) (d : BitVec 5) (a : BitVec 5) (s : State) :
    exec (.vscan p t d a) s = execVscan p t d a s := rfl
theorem exec_vexp2 (p : BitVec 4) (t : BitVec 3) (d : BitVec 5) (a : BitVec 5) (s : State) :
    exec (.vexp2 p t d a) s = execVexp2 p t d a s := rfl
theorem exec_vlog2 (p : BitVec 4) (t : BitVec 3) (d : BitVec 5) (a : BitVec 5) (s : State) :
    exec (.vlog2 p t d a) s = execVlog2 p t d a s := rfl
theorem exec_vrcp (p : BitVec 4) (t : BitVec 3) (d : BitVec 5) (a : BitVec 5) (s : State) :
    exec (.vrcp p t d a) s = execVrcp p t d a s := rfl
theorem exec_vrsq (p : BitVec 4) (t : BitVec 3) (d : BitVec 5) (a : BitVec 5) (s : State) :
    exec (.vrsq p t d a) s = execVrsq p t d a s := rfl
theorem exec_vtanh (p : BitVec 4) (t : BitVec 3) (d : BitVec 5) (a : BitVec 5) (s : State) :
    exec (.vtanh p t d a) s = execVtanh p t d a s := rfl
theorem exec_vextr (p : BitVec 4) (t : BitVec 3) (d : BitVec 5) (a : BitVec 5) (b : BitVec 5) (s : State) :
    exec (.vextr p t d a b) s = execVextr p t d a b s := rfl
theorem exec_vinsr (p : BitVec 4) (t : BitVec 3) (d : BitVec 5) (a : BitVec 5) (b : BitVec 5) (s : State) :
    exec (.vinsr p t d a b) s = execVinsr p t d a b s := rfl
theorem exec_vdot4 (p : BitVec 4) (t : BitVec 3) (d : BitVec 5) (a : BitVec 5) (b : BitVec 5) (s : State) :
    exec (.vdot4 p t d a b) s = execVdot4 p t d a b s := rfl
theorem exec_vmulh (p : BitVec 4) (t : BitVec 3) (d : BitVec 5) (a : BitVec 5) (b : Opnd 5) (s : State) :
    exec (.vmulh p t d a b) s = execVmulh p t d a b s := rfl
theorem exec_vqsc (p : BitVec 4) (t : BitVec 3) (d : BitVec 5) (a : BitVec 5) (g : BitVec 3) (s : State) :
    exec (.vqsc p t d a g) s = execVqsc p t d a g s := rfl
theorem exec_vqnt (p : BitVec 4) (t : BitVec 3) (d : BitVec 5) (a : BitVec 5) (k : BitVec 2) (g : BitVec 3) (s : State) :
    exec (.vqnt p t d a k g) s = execVqnt p t d a k g s := rfl
theorem exec_vrng (p : BitVec 4) (t : BitVec 3) (d : BitVec 5) (s : State) :
    exec (.vrng p t d) s = execVrng p t d s := rfl
theorem exec_vpopc (p : BitVec 4) (t : BitVec 3) (d : BitVec 5) (a : BitVec 5) (s : State) :
    exec (.vpopc p t d a) s = execVpopc p t d a s := rfl
theorem exec_vcx (p : BitVec 4) (t : BitVec 3) (d : BitVec 5) (a : BitVec 5) (b : BitVec 5) (s : State) :
    exec (.vcx p t d a b) s = execVcx p t d a b s := rfl
theorem exec_vadds (p : BitVec 4) (t : BitVec 3) (d : BitVec 5) (a : BitVec 5) (b : Opnd 5) (s : State) :
    exec (.vadds p t d a b) s = execVadds p t d a b s := rfl
theorem exec_vsubs (p : BitVec 4) (t : BitVec 3) (d : BitVec 5) (a : BitVec 5) (b : Opnd 5) (s : State) :
    exec (.vsubs p t d a b) s = execVsubs p t d a b s := rfl
theorem exec_vminN (p : BitVec 4) (t : BitVec 3) (d : BitVec 5) (a : BitVec 5) (b : Opnd 5) (s : State) :
    exec (.vminN p t d a b) s = execVminN p t d a b s := rfl
theorem exec_vmaxN (p : BitVec 4) (t : BitVec 3) (d : BitVec 5) (a : BitVec 5) (b : Opnd 5) (s : State) :
    exec (.vmaxN p t d a b) s = execVmaxN p t d a b s := rfl
theorem exec_vcmpLtn (p : BitVec 4) (t : BitVec 3) (d : BitVec 5) (a : BitVec 5) (b : Opnd 5) (s : State) :
    exec (.vcmpLtn p t d a b) s = execVcmpLtn p t d a b s := rfl
theorem exec_mm (p : BitVec 4) (a : BitVec 2) (t : BitVec 3) (d : BitVec 5) (c : BitVec 1) (k : BitVec 1) (n : BitVec 6) (s : State) :
    exec (.mm p a t d c k n) s = execMm p a t d c k n s := rfl
theorem exec_mmDRoute (p : BitVec 4) (a : BitVec 2) (d : BitVec 5) (e : BitVec 4) (s : State) :
    exec (.mmDRoute p a d e) s = execMmDRoute p a d e s := rfl
theorem exec_mmDSteer (p : BitVec 4) (a : BitVec 2) (g : BitVec 3) (d : BitVec 5) (s : State) :
    exec (.mmDSteer p a g d) s = execMmDSteer p a g d s := rfl
theorem exec_mmZ (p : BitVec 4) (a : BitVec 2) (s : State) :
    exec (.mmZ p a) s = execMmZ p a s := rfl
theorem exec_mmW (p : BitVec 4) (t : BitVec 3) (d : BitVec 5) (k : BitVec 1) (s : State) :
    exec (.mmW p t d k) s = execMmW p t d k s := rfl
theorem exec_mmAr (p : BitVec 4) (a : BitVec 2) (d : BitVec 5) (s : State) :
    exec (.mmAr p a d) s = execMmAr p a d s := rfl
theorem exec_mmAw (p : BitVec 4) (a : BitVec 2) (d : BitVec 5) (s : State) :
    exec (.mmAw p a d) s = execMmAw p a d s := rfl
theorem exec_tdSet (p : BitVec 4) (x : Opnd 6) (d : BitVec 5) (w : BitVec 4) (s : State) :
    exec (.tdSet p x d w) s = execTdSet p x d w s := rfl
theorem exec_tdGet (p : BitVec 4) (x : BitVec 6) (d : BitVec 5) (w : BitVec 4) (s : State) :
    exec (.tdGet p x d w) s = execTdGet p x d w s := rfl
theorem exec_tdStep (p : BitVec 4) (x : Opnd 6) (d : BitVec 5) (m : BitVec 2) (s : State) :
    exec (.tdStep p x d m) s = execTdStep p x d m s := rfl
theorem exec_xpTbl (p : BitVec 4) (a : BitVec 5) (g : BitVec 2) (c : BitVec 1) (s : State) :
    exec (.xpTbl p a g c) s = execXpTbl p a g c s := rfl
theorem exec_xpExp (p : BitVec 4) (d : BitVec 5) (a : BitVec 5) (t : BitVec 4) (h : BitVec 1) (s : State) :
    exec (.xpExp p d a t h) s = execXpExp p d a t h s := rfl
theorem exec_xpCvt (p : BitVec 4) (d : BitVec 5) (a : BitVec 5) (q : BitVec 2) (k : BitVec 3) (s : State) :
    exec (.xpCvt p d a q k) s = execXpCvt p d a q k s := rfl
theorem exec_xpTrn (p : BitVec 4) (d : BitVec 5) (a : BitVec 5) (w : BitVec 2) (s : State) :
    exec (.xpTrn p d a w) s = execXpTrn p d a w s := rfl
theorem exec_xpPack (p : BitVec 4) (d : BitVec 5) (a : BitVec 5) (h : BitVec 2) (w : BitVec 1) (s : State) :
    exec (.xpPack p d a h w) s = execXpPack p d a h w s := rfl
theorem exec_xpPln (p : BitVec 4) (d : BitVec 5) (a : BitVec 5) (n : BitVec 4) (r : BitVec 1) (s : State) :
    exec (.xpPln p d a n r) s = execXpPln p d a n r s := rfl
theorem exec_xpUnp (p : BitVec 4) (d : BitVec 5) (a : BitVec 5) (e : BitVec 5) (w : BitVec 3) (s : State) :
    exec (.xpUnp p d a e w) s = execXpUnp p d a e w s := rfl
theorem exec_firingStart (c : CoreId) (s : State) :
    exec (.firingStart c) s = execFiringStart c s := rfl
theorem exec_parkedFiringRestore (c : CoreId) (s : State) :
    exec (.parkedFiringRestore c) s = execParkedFiringRestore c s := rfl
theorem exec_bundleWaitEnds (a : Agent) (s : State) :
    exec (.bundleWaitEnds a) s = execBundleWaitEnds a s := rfl
theorem exec_endCompletion (sl : SlotId) (s : State) :
    exec (.endCompletion sl) s = execEndCompletion sl s := rfl
theorem exec_checkpointWriteDone (sl : SlotId) (s : State) :
    exec (.checkpointWriteDone sl) s = execCheckpointWriteDone sl s := rfl
theorem exec_budgetExhausted (sl : SlotId) (s : State) :
    exec (.budgetExhausted sl) s = execBudgetExhausted sl s := rfl
theorem exec_parkComplete (sl : SlotId) (s : State) :
    exec (.parkComplete sl) s = execParkComplete sl s := rfl
theorem exec_heldSyllableExecutes (a : Agent) (s : State) :
    exec (.heldSyllableExecutes a) s = execHeldSyllableExecutes a s := rfl
theorem exec_scalarResultLand (a : Agent) (id : Nat) (s : State) :
    exec (.scalarResultLand a id) s = execScalarResultLand a id s := rfl
theorem exec_vectorResultLand (a : Agent) (id : Nat) (s : State) :
    exec (.vectorResultLand a id) s = execVectorResultLand a id s := rfl
theorem exec_xfmResultLand (a : Agent) (id : Nat) (s : State) :
    exec (.xfmResultLand a id) s = execXfmResultLand a id s := rfl
theorem exec_localLoadLand (a : Agent) (id : Nat) (s : State) :
    exec (.localLoadLand a id) s = execLocalLoadLand a id s := rfl
theorem exec_localStoreWritten (a : Agent) (id : Nat) (s : State) :
    exec (.localStoreWritten a id) s = execLocalStoreWritten a id s := rfl
theorem exec_emitCopyDone (sl : SlotId) (id : Nat) (s : State) :
    exec (.emitCopyDone sl id) s = execEmitCopyDone sl id s := rfl
theorem exec_packetArrival (dst : PortId) (pkt : Packet) (s : State) :
    exec (.packetArrival dst pkt) s = execPacketArrival dst pkt s := rfl
theorem exec_creditMessage (dst : PortId) (num : BitVec 32) (s : State) :
    exec (.creditMessage dst num) s = execCreditMessage dst num s := rfl
theorem exec_drainAction (sl : SlotId) (s : State) :
    exec (.drainAction sl) s = execDrainAction sl s := rfl
theorem exec_drainSend (sl : SlotId) (port : Nat) (s : State) :
    exec (.drainSend sl port) s = execDrainSend sl port s := rfl
theorem exec_clusterLoadLand (id : Nat) (s : State) :
    exec (.clusterLoadLand id) s = execClusterLoadLand id s := rfl
theorem exec_clusterStorePerformed (id : Nat) (s : State) :
    exec (.clusterStorePerformed id) s = execClusterStorePerformed id s := rfl
theorem exec_multicastLanding (id : Nat) (s : State) :
    exec (.multicastLanding id) s = execMulticastLanding id s := rfl
theorem exec_galleryLoadLand (id : Nat) (s : State) :
    exec (.galleryLoadLand id) s = execGalleryLoadLand id s := rfl
theorem exec_galleryStorePerformed (id : Nat) (s : State) :
    exec (.galleryStorePerformed id) s = execGalleryStorePerformed id s := rfl
theorem exec_homePortAtomic (id : Nat) (s : State) :
    exec (.homePortAtomic id) s = execHomePortAtomic id s := rfl
theorem exec_atomicOldValueLand (id : Nat) (s : State) :
    exec (.atomicOldValueLand id) s = execAtomicOldValueLand id s := rfl
theorem exec_fabricLoadLand (id : Nat) (s : State) :
    exec (.fabricLoadLand id) s = execFabricLoadLand id s := rfl
theorem exec_fabricStorePerformed (id : Nat) (s : State) :
    exec (.fabricStorePerformed id) s = execFabricStorePerformed id s := rfl
theorem exec_fabricReject (id : Nat) (s : State) :
    exec (.fabricReject id) s = execFabricReject id s := rfl
theorem exec_translationWalkDone (d : DieId) (vpn : Nat) (s : State) :
    exec (.translationWalkDone d vpn) s = execTranslationWalkDone d vpn s := rfl
theorem exec_matDispatch (sl : SlotId) (s : State) :
    exec (.matDispatch sl) s = execMatDispatch sl s := rfl
theorem exec_accumulatorLanded (c : CoreId) (acc : Nat) (s : State) :
    exec (.accumulatorLanded c acc) s = execAccumulatorLanded c acc s := rfl
theorem exec_tileFillDone (sl : SlotId) (tile : Nat) (s : State) :
    exec (.tileFillDone sl tile) s = execTileFillDone sl tile s := rfl
theorem exec_mmDrainSend (sl : SlotId) (id : Nat) (s : State) :
    exec (.mmDrainSend sl id) s = execMmDrainSend sl id s := rfl
theorem exec_mmArWriteDone (sl : SlotId) (id : Nat) (s : State) :
    exec (.mmArWriteDone sl id) s = execMmArWriteDone sl id s := rfl
theorem exec_seqRequestServe (d : DieId) (s : State) :
    exec (.seqRequestServe d) s = execSeqRequestServe d s := rfl
theorem exec_controlAnswerLand (a : Agent) (s : State) :
    exec (.controlAnswerLand a) s = execControlAnswerLand a s := rfl
theorem exec_mirrorForward (d : DieId) (m : MirrorMsg) (s : State) :
    exec (.mirrorForward d m) s = execMirrorForward d m s := rfl
theorem exec_gatherFillDone (d : DieId) (id : Nat) (s : State) :
    exec (.gatherFillDone d id) s = execGatherFillDone d id s := rfl
theorem exec_farReadBucketRefill (d : DieId) (s : State) :
    exec (.farReadBucketRefill d) s = execFarReadBucketRefill d s := rfl
theorem exec_stageAheadCopyLand (d : DieId) (id : Nat) (s : State) :
    exec (.stageAheadCopyLand d id) s = execStageAheadCopyLand d id s := rfl
theorem exec_plBlockDecode (d : DieId) (s : State) :
    exec (.plBlockDecode d) s = execPlBlockDecode d s := rfl
theorem exec_plChunkTagReady (d : DieId) (id : Nat) (s : State) :
    exec (.plChunkTagReady d id) s = execPlChunkTagReady d id s := rfl
theorem exec_phaserSignalArrival (sl : SlotId) (ph : Nat) (s : State) :
    exec (.phaserSignalArrival sl ph) s = execPhaserSignalArrival sl ph s := rfl
theorem exec_phaserAdvanceDelivery (sl : SlotId) (ph : Nat) (s : State) :
    exec (.phaserAdvanceDelivery sl ph) s = execPhaserAdvanceDelivery sl ph s := rfl
theorem exec_barrierArrival (sl : SlotId) (s : State) :
    exec (.barrierArrival sl) s = execBarrierArrival sl s := rfl
theorem exec_closingBarrierComplete (c : CluId) (s : State) :
    exec (.closingBarrierComplete c) s = execClosingBarrierComplete c s := rfl
theorem exec_haltWake (v : SupId) (s : State) :
    exec (.haltWake v) s = execHaltWake v s := rfl
theorem exec_evpopRead (reader : Option SupId) (v : SupId) (xd : Nat) (s : State) :
    exec (.evpopRead reader v xd) s = execEvpopRead reader v xd s := rfl
theorem exec_slotctlClearEvent (sl : SlotId) (s : State) :
    exec (.slotctlClearEvent sl) s = execSlotctlClearEvent sl s := rfl
theorem exec_slotctlKillStage (sl : SlotId) (s : State) :
    exec (.slotctlKillStage sl) s = execSlotctlKillStage sl s := rfl
theorem exec_slotctlKillFiring (sl : SlotId) (s : State) :
    exec (.slotctlKillFiring sl) s = execSlotctlKillFiring sl s := rfl
theorem exec_svfaultRestart (v : SupId) (s : State) :
    exec (.svfaultRestart v) s = execSvfaultRestart v s := rfl
theorem exec_switchNotice (d : DieId) (n : Nat) (s : State) :
    exec (.switchNotice d n) s = execSwitchNotice d n s := rfl
theorem exec_configDrainComplete (d : DieId) (s : State) :
    exec (.configDrainComplete d) s = execConfigDrainComplete d s := rfl
theorem exec_activationComplete (d : DieId) (s : State) :
    exec (.activationComplete d) s = execActivationComplete d s := rfl
theorem exec_sqrmtInstall (d : DieId) (v : BitVec 64) (s : State) :
    exec (.sqrmtInstall d v) s = execSqrmtInstall d v s := rfl
theorem exec_sqrmtRemove (d : DieId) (v : BitVec 64) (s : State) :
    exec (.sqrmtRemove d v) s = execSqrmtRemove d v s := rfl
theorem exec_ftinvAll (d : DieId) (s : State) :
    exec (.ftinvAll d) s = execFtinvAll d s := rfl
theorem exec_ftinvPage (d : DieId) (vpn : Nat) (s : State) :
    exec (.ftinvPage d vpn) s = execFtinvPage d vpn s := rfl
theorem exec_codemapMapPage (c : CoreId) (page : Nat) (s : State) :
    exec (.codemapMapPage c page) s = execCodemapMapPage c page s := rfl
theorem exec_codemapUnmapPage (c : CoreId) (page : Nat) (s : State) :
    exec (.codemapUnmapPage c page) s = execCodemapUnmapPage c page s := rfl
theorem exec_registerWrite (d : DieId) (addr : Nat) (v : BitVec 64) (s : State) :
    exec (.registerWrite d addr v) s = execRegisterWrite d addr v s := rfl
theorem exec_scrubRead (d : DieId) (core : Option CoreId) (addr : Nat) (s : State) :
    exec (.scrubRead d core addr) s = execScrubRead d core addr s := rfl
theorem exec_dieReset (d : DieId) (s : State) :
    exec (.dieReset d) s = execDieReset d s := rfl
theorem exec_coreReset (c : CoreId) (s : State) :
    exec (.coreReset c) s = execCoreReset c s := rfl
theorem exec_ringFlitArrival (pkg : Nat) (f : RingFlit) (s : State) :
    exec (.ringFlitArrival pkg f) s = execRingFlitArrival pkg f s := rfl
theorem exec_ringFlitReoffer (pkg : Nat) (f : RingFlit) (s : State) :
    exec (.ringFlitReoffer pkg f) s = execRingFlitReoffer pkg f s := rfl
theorem exec_ringSegmentFailed (pkg : Nat) (ring : Nat) (seg : Nat) (s : State) :
    exec (.ringSegmentFailed pkg ring seg) s = execRingSegmentFailed pkg ring seg s := rfl
theorem exec_hlinkPmaskWrite (pkg : Nat) (mask : BitVec 8) (s : State) :
    exec (.hlinkPmaskWrite pkg mask) s = execHlinkPmaskWrite pkg mask s := rfl
theorem exec_hostLinkTrained (pkg : Nat) (s : State) :
    exec (.hostLinkTrained pkg) s = execHostLinkTrained pkg s := rfl
theorem exec_hostLinkDown (pkg : Nat) (s : State) :
    exec (.hostLinkDown pkg) s = execHostLinkDown pkg s := rfl
theorem exec_cxlIdentify (pkg : Nat) (s : State) :
    exec (.cxlIdentify pkg) s = execCxlIdentify pkg s := rfl
theorem exec_getSupportedLogs (pkg : Nat) (s : State) :
    exec (.getSupportedLogs pkg) s = execGetSupportedLogs pkg s := rfl
theorem exec_getLog (pkg : Nat) (log : Nat) (off : Nat) (len : Nat) (s : State) :
    exec (.getLog pkg log off len) s = execGetLog pkg log off len s := rfl
theorem exec_getEventRecords (pkg : Nat) (s : State) :
    exec (.getEventRecords pkg) s = execGetEventRecords pkg s := rfl
theorem exec_clearEventRecords (pkg : Nat) (n : Nat) (s : State) :
    exec (.clearEventRecords pkg n) s = execClearEventRecords pkg n s := rfl
theorem exec_attest (pkg : Nat) (nonce : BitVec 384) (mask : BitVec 16) (s : State) :
    exec (.attest pkg nonce mask) s = execAttest pkg nonce mask s := rfl
theorem exec_getcert (pkg : Nat) (idx : Nat) (s : State) :
    exec (.getcert pkg idx) s = execGetcert pkg idx s := rfl
theorem exec_mextend (pkg : Nat) (reg : Nat) (digest : BitVec 384) (s : State) :
    exec (.mextend pkg reg digest) s = execMextend pkg reg digest s := rfl
theorem exec_ringSetup (pkg : Nat) (ring : Nat) (gen : BitVec 32) (s : State) :
    exec (.ringSetup pkg ring gen) s = execRingSetup pkg ring gen s := rfl
theorem exec_ringTeardown (pkg : Nat) (ring : Nat) (gen : BitVec 32) (s : State) :
    exec (.ringTeardown pkg ring gen) s = execRingTeardown pkg ring gen s := rfl
theorem exec_orphanRead (pkg : Nat) (first : Nat) (count : Nat) (s : State) :
    exec (.orphanRead pkg first count) s = execOrphanRead pkg first count s := rfl
theorem exec_mgmtRead (pkg : Nat) (die : Nat) (addr : Nat) (s : State) :
    exec (.mgmtRead pkg die addr) s = execMgmtRead pkg die addr s := rfl
theorem exec_mgmtWrite (pkg : Nat) (die : Nat) (addr : Nat) (v : BitVec 64) (s : State) :
    exec (.mgmtWrite pkg die addr v) s = execMgmtWrite pkg die addr v s := rfl
theorem exec_fwLoadFirmware (pkg : Nat) (h : FwChunk) (s : State) :
    exec (.fwLoadFirmware pkg h) s = execFwLoadFirmware pkg h s := rfl
theorem exec_fwLoadBootStream (pkg : Nat) (h : FwChunk) (s : State) :
    exec (.fwLoadBootStream pkg h) s = execFwLoadBootStream pkg h s := rfl
theorem exec_mailboxUnsupported (pkg : Nat) (opcode : Nat) (s : State) :
    exec (.mailboxUnsupported pkg opcode) s = execMailboxUnsupported pkg opcode s := rfl
theorem exec_hostHdmRead (pkg : Nat) (off : Nat) (s : State) :
    exec (.hostHdmRead pkg off) s = execHostHdmRead pkg off s := rfl
theorem exec_hostHdmWrite (pkg : Nat) (off : Nat) (data : BitVec 512) (mask : BitVec 64) (s : State) :
    exec (.hostHdmWrite pkg off data mask) s = execHostHdmWrite pkg off data mask s := rfl
theorem exec_backInvalidationDone (pkg : Nat) (line : Nat) (dirty : Option (BitVec 512)) (s : State) :
    exec (.backInvalidationDone pkg line dirty) s = execBackInvalidationDone pkg line dirty s := rfl
theorem exec_completionWriteCheck (id : Nat) (s : State) :
    exec (.completionWriteCheck id) s = execCompletionWriteCheck id s := rfl
theorem exec_hostGlobalObservation (id : Nat) (s : State) :
    exec (.hostGlobalObservation id) s = execHostGlobalObservation id s := rfl
theorem exec_packageReset (pkg : Nat) (s : State) :
    exec (.packageReset pkg) s = execPackageReset pkg s := rfl
theorem exec_thermalThrottle (d : DieId) (s : State) :
    exec (.thermalThrottle d) s = execThermalThrottle d s := rfl
theorem exec_thermalClockRaise (d : DieId) (s : State) :
    exec (.thermalClockRaise d) s = execThermalClockRaise d s := rfl
theorem exec_thermalTrip (d : DieId) (s : State) :
    exec (.thermalTrip d) s = execThermalTrip d s := rfl
theorem exec_linkEnable (pkg : Nat) (port : Nat) (s : State) :
    exec (.linkEnable pkg port) s = execLinkEnable pkg port s := rfl
theorem exec_linkTrainLock (pkg : Nat) (port : Nat) (s : State) :
    exec (.linkTrainLock pkg port) s = execLinkTrainLock pkg port s := rfl
theorem exec_linkTrainTimeout (pkg : Nat) (port : Nat) (s : State) :
    exec (.linkTrainTimeout pkg port) s = execLinkTrainTimeout pkg port s := rfl
theorem exec_negotiationMessage (pkg : Nat) (port : Nat) (m : NegMsg) (s : State) :
    exec (.negotiationMessage pkg port m) s = execNegotiationMessage pkg port m s := rfl
theorem exec_negotiateTimeout (pkg : Nat) (port : Nat) (s : State) :
    exec (.negotiateTimeout pkg port) s = execNegotiateTimeout pkg port s := rfl
theorem exec_linkReplayFailure (pkg : Nat) (port : Nat) (s : State) :
    exec (.linkReplayFailure pkg port) s = execLinkReplayFailure pkg port s := rfl
theorem exec_linkFailedTimer (pkg : Nat) (port : Nat) (s : State) :
    exec (.linkFailedTimer pkg port) s = execLinkFailedTimer pkg port s := rfl
theorem exec_flitReceive (pkg : Nat) (port : Nat) (f : BitVec 640) (s : State) :
    exec (.flitReceive pkg port f) s = execFlitReceive pkg port f s := rfl
theorem exec_routingFlip (pkg : Nat) (s : State) :
    exec (.routingFlip pkg) s = execRoutingFlip pkg s := rfl
theorem exec_flipHoldRelease (pkg : Nat) (port : Nat) (s : State) :
    exec (.flipHoldRelease pkg port) s = execFlipHoldRelease pkg port s := rfl
theorem exec_failureNotice (pkg : Nat) (n : Notice) (s : State) :
    exec (.failureNotice pkg n) s = execFailureNotice pkg n s := rfl
theorem exec_tokenRequest (home : DieId) (src : DieId) (page : Nat) (excl : Bool) (s : State) :
    exec (.tokenRequest home src page excl) s = execTokenRequest home src page excl s := rfl
theorem exec_ownershipRecall (d : DieId) (home : DieId) (page : Nat) (s : State) :
    exec (.ownershipRecall d home page) s = execOwnershipRecall d home page s := rfl
theorem exec_recallDone (home : DieId) (src : DieId) (page : Nat) (s : State) :
    exec (.recallDone home src page) s = execRecallDone home src page s := rfl
theorem exec_tokenGrant (d : DieId) (home : DieId) (page : Nat) (excl : Bool) (s : State) :
    exec (.tokenGrant d home page excl) s = execTokenGrant d home page excl s := rfl
theorem exec_bootPacket (pkg : Nat) (pkt : Packet) (s : State) :
    exec (.bootPacket pkg pkt) s = execBootPacket pkg pkt s := rfl
theorem exec_heartbeat (ctl : Nat) (src : Nat) (s : State) :
    exec (.heartbeat ctl src) s = execHeartbeat ctl src s := rfl
theorem exec_heartbeatTimeout (ctl : Nat) (src : Nat) (s : State) :
    exec (.heartbeatTimeout ctl src) s = execHeartbeatTimeout ctl src s := rfl
theorem exec_freezeAcknowledged (ctl : Nat) (src : Nat) (s : State) :
    exec (.freezeAcknowledged ctl src) s = execFreezeAcknowledged ctl src s := rfl
theorem exec_reductionLine (pkg : Nat) (die : Nat) (addr : Nat) (data : BitVec 512) (s : State) :
    exec (.reductionLine pkg die addr data) s = execReductionLine pkg die addr data s := rfl
theorem exec_rebuildComplete (ctl : Nat) (s : State) :
    exec (.rebuildComplete ctl) s = execRebuildComplete ctl s := rfl
theorem exec_remapComplete (ctl : Nat) (s : State) :
    exec (.remapComplete ctl) s = execRemapComplete ctl s := rfl
theorem exec_replayComplete (ctl : Nat) (s : State) :
    exec (.replayComplete ctl) s = execReplayComplete ctl s := rfl
theorem exec_waitaReread (a : Agent) (s : State) :
    exec (.waitaReread a) s = execWaitaReread a s := rfl
theorem exec_barrierCompletionDelivery (sl : SlotId) (s : State) :
    exec (.barrierCompletionDelivery sl) s = execBarrierCompletionDelivery sl s := rfl
theorem exec_hostSnoop (pkg : Nat) (line : Nat) (s : State) :
    exec (.hostSnoop pkg line) s = execHostSnoop pkg line s := rfl
theorem exec_mirrorAcknowledgement (d : DieId) (id : Nat) (ok : Bool) (s : State) :
    exec (.mirrorAcknowledgement d id ok) s = execMirrorAcknowledgement d id ok s := rfl
theorem exec_bootBlockRequest (pkg : Nat) (child : Nat) (block : Nat) (s : State) :
    exec (.bootBlockRequest pkg child block) s = execBootBlockRequest pkg child block s := rfl
theorem exec_supervisorFreesEntry (d : DieId) (h : Nat) (s : State) :
    exec (.supervisorFreesEntry d h) s = execSupervisorFreesEntry d h s := rfl

end Sys2Proof.Machine
end

