-- ==== Sys2Proof/Laws/Memory.lean ====
section
/-! SUPPORT. The laws of a memory space: a read after a write, what a write leaves alone, and its canonical form. -/

namespace Sys2Proof.Machine

theorem memWfFrom_mono {lo hi : Nat} {m : Mem} (hl : lo ≤ hi) (h : memWfFrom hi m = true) : memWfFrom lo m = true := by
  cases m with
  | nil => rfl
  | cons e r =>
    obtain ⟨a', b⟩ := e
    simp only [memWfFrom, Bool.and_eq_true, decide_eq_true_eq] at h ⊢
    exact ⟨⟨by omega, h.1.2⟩, h.2⟩

/-- In canonical form no address below the first is listed. -/
theorem filter_of_wf {lo : Nat} {m : Mem} {a : Nat} (h : memWfFrom lo m = true) (ha : a < lo) :
    m.filter (fun e => e.1 ≠ a) = m := by
  induction m generalizing lo with
  | nil => rfl
  | cons e r ih =>
    obtain ⟨a', b⟩ := e
    simp only [memWfFrom, Bool.and_eq_true, decide_eq_true_eq] at h
    rw [List.filter_cons, if_pos (by simp; omega), ih h.2 (by omega)]

theorem memWfFrom_memPut {lo : Nat} {m : Mem} (a : Nat) (b : Byte) (h : memWfFrom lo m = true) (ha : lo ≤ a) :
    memWfFrom lo (memPut m a b) = true := by
  induction m generalizing lo with
  | nil => by_cases hb : b = unlisted <;> simp [memPut, memWfFrom, hb, ha]
  | cons e r ih =>
    obtain ⟨a', b'⟩ := e
    simp only [memWfFrom, Bool.and_eq_true, decide_eq_true_eq] at h
    by_cases h1 : a < a'
    · by_cases hb : b = unlisted
      · simp only [memPut, h1, hb, if_true, filter_of_wf h.2 (show a < a' + 1 by omega), memWfFrom, h, Bool.and_eq_true,
          decide_eq_true_eq]
        exact ⟨⟨trivial, by simp⟩, trivial⟩
      · simp only [memPut, h1, hb, if_true, if_false, memWfFrom, Bool.and_eq_true, decide_eq_true_eq]
        exact ⟨⟨ha, by simp [hb]⟩, ⟨⟨by omega, h.1.2⟩, h.2⟩⟩
    · by_cases h2 : a = a'
      · subst h2
        by_cases hb : b = unlisted
        · simp only [memPut, hb, if_true, Nat.lt_irrefl, if_false, filter_of_wf h.2 (show a < a + 1 by omega)]
          exact memWfFrom_mono (by omega) h.2
        · simp [memPut, hb, memWfFrom, ha, h.2]
      · simp only [memPut, h1, h2, if_false, memWfFrom, Bool.and_eq_true, decide_eq_true_eq]
        exact ⟨h.1, ih h.2 (by omega)⟩

/-- A byte written keeps the canonical form. -/
theorem memWf_memPut {m : Mem} (a : Nat) (b : Byte) (h : memWf m = true) : memWf (memPut m a b) = true :=
  memWfFrom_memPut a b h (Nat.zero_le a)

/-- Bytes written keep the canonical form. -/
theorem memWf_memWrite {m : Mem} (a : Nat) (bs : List Byte) (h : memWf m = true) : memWf (memWrite m a bs) = true := by
  induction bs generalizing m a with
  | nil => exact h
  | cons b bs ih => exact ih (a + 1) (memWf_memPut a b h)

theorem memByte_filter (m : Mem) (a a' : Nat) :
    memByte (m.filter (fun e => e.1 ≠ a)) a' = if a' = a then unlisted else memByte m a' := by
  induction m with
  | nil => simp [memByte]
  | cons e r ih =>
    obtain ⟨c, b⟩ := e
    by_cases h1 : c = a
    · rw [List.filter_cons, if_neg (by simp [h1]), ih]
      by_cases h2 : a' = a
      · simp [h2]
      · simp [h2, memByte, h1, Ne.symm h2]
    · rw [List.filter_cons, if_pos (by simp [h1])]
      simp only [memByte, ih]
      by_cases h2 : c = a'
      · subst h2; simp [h1]
      · simp [h2]

/-- A byte read after one is written. -/
theorem memByte_memPut (m : Mem) (a a' : Nat) (b : Byte) :
    memByte (memPut m a b) a' = if a' = a then b else memByte m a' := by
  induction m with
  | nil =>
    by_cases hb : b = unlisted <;> by_cases ha : a = a' <;> simp [memPut, memByte, hb, ha, eq_comm]
  | cons e r ih =>
    obtain ⟨c, b'⟩ := e
    by_cases h1 : a < c
    · by_cases hb : b = unlisted
      · simp only [memPut, h1, hb, if_true, memByte, memByte_filter]
        by_cases h2 : c = a'
        · have : a' ≠ a := by omega
          simp [h2, this]
        · simp [h2]
      · by_cases ha : a' = a
        · subst ha; simp [memPut, h1, hb, memByte]
        · simp [memPut, h1, hb, memByte, ha, Ne.symm ha]
    · by_cases h2 : a = c
      · subst h2
        by_cases hb : b = unlisted
        · simp only [memPut, hb, if_true, Nat.lt_irrefl, if_false, memByte, memByte_filter]
          by_cases ha : a' = a
          · simp [ha]
          · simp [ha, Ne.symm ha]
        · by_cases ha : a' = a
          · subst ha; simp [memPut, hb, memByte]
          · simp [memPut, hb, memByte, ha, Ne.symm ha]
      · by_cases h3 : c = a'
        · subst h3; simp [memPut, h1, h2, memByte, Ne.symm h2]
        · simp [memPut, h1, h2, memByte, h3, ih]

/-- A byte read after bytes are written. -/
theorem memByte_memWrite (m : Mem) (a a' : Nat) (bs : List Byte) :
    memByte (memWrite m a bs) a' = if a ≤ a' ∧ a' < a + bs.length then bs.getD (a' - a) 0 else memByte m a' := by
  induction bs generalizing m a with
  | nil => simp [memWrite, show ¬ (a ≤ a' ∧ a' < a) by omega]
  | cons b bs ih =>
    rw [memWrite, ih, memByte_memPut]
    by_cases h1 : a' = a
    · subst h1; simp
    · by_cases h2 : a + 1 ≤ a' ∧ a' < a + 1 + bs.length
      · have e : a' - a = (a' - (a + 1)) + 1 := by omega
        have h3 : a ≤ a' ∧ a' < a + (b :: bs).length := by simp; omega
        rw [if_pos h2, if_pos h3, e]; rfl
      · have h3 : ¬ (a ≤ a' ∧ a' < a + (b :: bs).length) := by simp; omega
        rw [if_neg h2, if_neg h3, if_neg h1]

@[simp] theorem length_memRead (m : Mem) (a n : Nat) : (memRead m a n).length = n := by simp [memRead]

@[simp] theorem length_leBytes (n v : Nat) : (leBytes n v).length = n := by
  induction n generalizing v with
  | zero => rfl
  | succ n ih => simp [leBytes, ih]

/-- What has been written is read back. -/
theorem memRead_memWrite (m : Mem) (a : Nat) (bs : List Byte) : memRead (memWrite m a bs) a bs.length = bs := by
  apply List.ext_getElem (by simp)
  intro i h1 h2
  simp only [memRead, List.getElem_map, List.getElem_range, memByte_memWrite]
  simp [h2]

end Sys2Proof.Machine
end

