-- ==== Sys2Proof/Laws/Table.lean ====
section
/-! SUPPORT. What reading a table gives after a write. -/

namespace Sys2Proof.Machine

variable {κ α : Type} [DecidableEq κ]

@[simp] theorem tget_tset_same (t : Tbl κ α) (k : κ) (a d : α) : tget (tset t k a) k d = a := by
  induction t with
  | nil => simp [tset, tget]
  | cons e r ih => obtain ⟨k', a'⟩ := e; by_cases h : k' = k <;> simp [tset, tget, h, ih]

theorem tget_tset_ne (t : Tbl κ α) {k k' : κ} (a d : α) (h : k' ≠ k) : tget (tset t k a) k' d = tget t k' d := by
  induction t with
  | nil => simp [tset, tget, Ne.symm h]
  | cons e r ih =>
    obtain ⟨k₁, a₁⟩ := e
    by_cases h₁ : k₁ = k
    · subst h₁; simp [tset, tget, Ne.symm h]
    · by_cases h₂ : k₁ = k'
      · subst h₂; simp [tset, tget, h₁]
      · simp [tset, tget, h₁, h₂, ih]

theorem tget_tset (t : Tbl κ α) (k k' : κ) (a d : α) : tget (tset t k a) k' d = if k' = k then a else tget t k' d := by
  by_cases h : k' = k
  · subst h; simp
  · simp [h, tget_tset_ne]

theorem tfind_eq_tget (t : Tbl κ α) (k : κ) (d : α) : tget t k d = (tfind t k).getD d := by
  induction t with
  | nil => rfl
  | cons e r ih => obtain ⟨k', a⟩ := e; by_cases h : k' = k <;> simp [tget, tfind, h, ih]

@[simp] theorem tfind_tset_same (t : Tbl κ α) (k : κ) (a : α) : tfind (tset t k a) k = some a := by
  induction t with
  | nil => simp [tset, tfind]
  | cons e r ih => obtain ⟨k', a'⟩ := e; by_cases h : k' = k <;> simp [tset, tfind, h, ih]

theorem tfind_tset_ne (t : Tbl κ α) {k k' : κ} (a : α) (h : k' ≠ k) : tfind (tset t k a) k' = tfind t k' := by
  induction t with
  | nil => simp [tset, tfind, Ne.symm h]
  | cons e r ih =>
    obtain ⟨k₁, a₁⟩ := e
    by_cases h₁ : k₁ = k
    · subst h₁; simp [tset, tfind, Ne.symm h]
    · by_cases h₂ : k₁ = k'
      · subst h₂; simp [tset, tfind, h₁]
      · simp [tset, tfind, h₁, h₂, ih]

/-- An entry of a table after a write: the written one, or one that was there. -/
theorem mem_tset {t : Tbl κ α} {k : κ} {a : α} {e : κ × α} (h : e ∈ tset t k a) : e = (k, a) ∨ e ∈ t := by
  induction t with
  | nil => simpa [tset] using h
  | cons x r ih =>
    obtain ⟨k', a'⟩ := x
    by_cases hk : k' = k
    · simp [tset, hk] at h; rcases h with h | h <;> simp [h]
    · simp [tset, hk] at h
      rcases h with h | h
      · simp [h]
      · rcases ih h with h | h <;> simp [h]

/-- A property that holds of the default and of every entry holds of every item read. -/
theorem tget_all {P : α → Prop} {t : Tbl κ α} {d : α} (k : κ) (hd : P d) (h : ∀ e ∈ t, P e.2) : P (tget t k d) := by
  induction t with
  | nil => exact hd
  | cons x r ih =>
    obtain ⟨k', a'⟩ := x
    by_cases hk : k' = k
    · simpa [tget, hk] using h (k', a') (by simp)
    · simpa [tget, hk] using ih (fun e he => h e (by simp [he]))

end Sys2Proof.Machine
end

