-- ==== Sys2Proof/Laws/State.lean ====
section
/-! SUPPORT. What each update of an element leaves as it was, field by field, and what reading the element gives after it. -/

namespace Sys2Proof.Machine

@[simp] theorem State.setCtx_cycle (s : State) (a : Agent) (w : Ctx) : (s.setCtx a w).cycle = s.cycle := rfl
@[simp] theorem State.setCtx_uid (s : State) (a : Agent) (w : Ctx) : (s.setCtx a w).uid = s.uid := rfl
@[simp] theorem State.setCtx_freeNo (s : State) (a : Agent) (w : Ctx) : (s.setCtx a w).freeNo = s.freeNo := rfl
@[simp] theorem State.setCtx_agenda (s : State) (a : Agent) (w : Ctx) : (s.setCtx a w).agenda = s.agenda := rfl
@[simp] theorem State.setCtx_phase (s : State) (a : Agent) (w : Ctx) : (s.setCtx a w).phase = s.phase := rfl
@[simp] theorem State.setCtx_turn (s : State) (a : Agent) (w : Ctx) : (s.setCtx a w).turn = s.turn := rfl
@[simp] theorem State.setCtx_cur (s : State) (a : Agent) (w : Ctx) : (s.setCtx a w).cur = s.cur := rfl
@[simp] theorem State.setCtx_iss (s : State) (a : Agent) (w : Ctx) : (s.setCtx a w).iss = s.iss := rfl
@[simp] theorem State.setCtx_slots (s : State) (a : Agent) (w : Ctx) : (s.setCtx a w).slots = s.slots := rfl
@[simp] theorem State.setCtx_nexts (s : State) (a : Agent) (w : Ctx) : (s.setCtx a w).nexts = s.nexts := rfl
@[simp] theorem State.setCtx_cores (s : State) (a : Agent) (w : Ctx) : (s.setCtx a w).cores = s.cores := rfl
@[simp] theorem State.setCtx_sups (s : State) (a : Agent) (w : Ctx) : (s.setCtx a w).sups = s.sups := rfl
@[simp] theorem State.setCtx_clus (s : State) (a : Agent) (w : Ctx) : (s.setCtx a w).clus = s.clus := rfl
@[simp] theorem State.setCtx_dies (s : State) (a : Agent) (w : Ctx) : (s.setCtx a w).dies = s.dies := rfl
@[simp] theorem State.setCtx_pkgs (s : State) (a : Agent) (w : Ctx) : (s.setCtx a w).pkgs = s.pkgs := rfl
@[simp] theorem State.setCtx_reqs (s : State) (a : Agent) (w : Ctx) : (s.setCtx a w).reqs = s.reqs := rfl
@[simp] theorem State.setCtx_heldFlits (s : State) (a : Agent) (w : Ctx) : (s.setCtx a w).heldFlits = s.heldFlits := rfl
@[simp] theorem State.setCtx_rates (s : State) (a : Agent) (w : Ctx) : (s.setCtx a w).rates = s.rates := rfl
@[simp] theorem State.setCtx_arbs (s : State) (a : Agent) (w : Ctx) : (s.setCtx a w).arbs = s.arbs := rfl
@[simp] theorem State.modCtx_cycle (s : State) (a : Agent) (f : Ctx → Ctx) : (s.modCtx a f).cycle = s.cycle := rfl
@[simp] theorem State.modCtx_uid (s : State) (a : Agent) (f : Ctx → Ctx) : (s.modCtx a f).uid = s.uid := rfl
@[simp] theorem State.modCtx_freeNo (s : State) (a : Agent) (f : Ctx → Ctx) : (s.modCtx a f).freeNo = s.freeNo := rfl
@[simp] theorem State.modCtx_agenda (s : State) (a : Agent) (f : Ctx → Ctx) : (s.modCtx a f).agenda = s.agenda := rfl
@[simp] theorem State.modCtx_phase (s : State) (a : Agent) (f : Ctx → Ctx) : (s.modCtx a f).phase = s.phase := rfl
@[simp] theorem State.modCtx_turn (s : State) (a : Agent) (f : Ctx → Ctx) : (s.modCtx a f).turn = s.turn := rfl
@[simp] theorem State.modCtx_cur (s : State) (a : Agent) (f : Ctx → Ctx) : (s.modCtx a f).cur = s.cur := rfl
@[simp] theorem State.modCtx_iss (s : State) (a : Agent) (f : Ctx → Ctx) : (s.modCtx a f).iss = s.iss := rfl
@[simp] theorem State.modCtx_slots (s : State) (a : Agent) (f : Ctx → Ctx) : (s.modCtx a f).slots = s.slots := rfl
@[simp] theorem State.modCtx_nexts (s : State) (a : Agent) (f : Ctx → Ctx) : (s.modCtx a f).nexts = s.nexts := rfl
@[simp] theorem State.modCtx_cores (s : State) (a : Agent) (f : Ctx → Ctx) : (s.modCtx a f).cores = s.cores := rfl
@[simp] theorem State.modCtx_sups (s : State) (a : Agent) (f : Ctx → Ctx) : (s.modCtx a f).sups = s.sups := rfl
@[simp] theorem State.modCtx_clus (s : State) (a : Agent) (f : Ctx → Ctx) : (s.modCtx a f).clus = s.clus := rfl
@[simp] theorem State.modCtx_dies (s : State) (a : Agent) (f : Ctx → Ctx) : (s.modCtx a f).dies = s.dies := rfl
@[simp] theorem State.modCtx_pkgs (s : State) (a : Agent) (f : Ctx → Ctx) : (s.modCtx a f).pkgs = s.pkgs := rfl
@[simp] theorem State.modCtx_reqs (s : State) (a : Agent) (f : Ctx → Ctx) : (s.modCtx a f).reqs = s.reqs := rfl
@[simp] theorem State.modCtx_heldFlits (s : State) (a : Agent) (f : Ctx → Ctx) : (s.modCtx a f).heldFlits = s.heldFlits := rfl
@[simp] theorem State.modCtx_rates (s : State) (a : Agent) (f : Ctx → Ctx) : (s.modCtx a f).rates = s.rates := rfl
@[simp] theorem State.modCtx_arbs (s : State) (a : Agent) (f : Ctx → Ctx) : (s.modCtx a f).arbs = s.arbs := rfl

@[simp] theorem State.ctx_setCtx_same (s : State) (a : Agent) (w : Ctx) : (s.setCtx a w).ctx a = w := tget_tset_same _ _ _ _
theorem State.ctx_setCtx (s : State) (a a' : Agent) (w : Ctx) :
    (s.setCtx a w).ctx a' = if a' = a then w else s.ctx a' := tget_tset _ _ _ _ _
@[simp] theorem State.ctx_modCtx_same (s : State) (a : Agent) (f : Ctx → Ctx) : (s.modCtx a f).ctx a = f (s.ctx a) :=
  tget_tset_same _ _ _ _
theorem State.ctx_modCtx (s : State) (a a' : Agent) (f : Ctx → Ctx) :
    (s.modCtx a f).ctx a' = if a' = a then f (s.ctx a) else s.ctx a' := tget_tset _ _ _ _ _
@[simp] theorem State.slot_setCtx (s : State) (a : Agent) (w : Ctx) (i : SlotId) : (s.setCtx a w).slot i = s.slot i := rfl
@[simp] theorem State.slot_modCtx (s : State) (a : Agent) (f : Ctx → Ctx) (i : SlotId) : (s.modCtx a f).slot i = s.slot i := rfl
@[simp] theorem State.core_setCtx (s : State) (a : Agent) (w : Ctx) (c : CoreId) : (s.setCtx a w).core c = s.core c := rfl
@[simp] theorem State.core_modCtx (s : State) (a : Agent) (f : Ctx → Ctx) (c : CoreId) : (s.modCtx a f).core c = s.core c := rfl
@[simp] theorem State.sup_setCtx (s : State) (a : Agent) (w : Ctx) (v : SupId) : (s.setCtx a w).sup v = s.sup v := rfl
@[simp] theorem State.sup_modCtx (s : State) (a : Agent) (f : Ctx → Ctx) (v : SupId) : (s.modCtx a f).sup v = s.sup v := rfl
@[simp] theorem State.clu_setCtx (s : State) (a : Agent) (w : Ctx) (k : CluId) : (s.setCtx a w).clu k = s.clu k := rfl
@[simp] theorem State.clu_modCtx (s : State) (a : Agent) (f : Ctx → Ctx) (k : CluId) : (s.modCtx a f).clu k = s.clu k := rfl
@[simp] theorem State.die_setCtx (s : State) (a : Agent) (w : Ctx) (d : DieId) : (s.setCtx a w).die d = s.die d := rfl
@[simp] theorem State.die_modCtx (s : State) (a : Agent) (f : Ctx → Ctx) (d : DieId) : (s.modCtx a f).die d = s.die d := rfl
@[simp] theorem State.pkg_setCtx (s : State) (a : Agent) (w : Ctx) (n : Nat) : (s.setCtx a w).pkg n = s.pkg n := rfl
@[simp] theorem State.pkg_modCtx (s : State) (a : Agent) (f : Ctx → Ctx) (n : Nat) : (s.modCtx a f).pkg n = s.pkg n := rfl

@[simp] theorem State.setSlot_cycle (s : State) (i : SlotId) (w : Slot) : (s.setSlot i w).cycle = s.cycle := rfl
@[simp] theorem State.setSlot_uid (s : State) (i : SlotId) (w : Slot) : (s.setSlot i w).uid = s.uid := rfl
@[simp] theorem State.setSlot_freeNo (s : State) (i : SlotId) (w : Slot) : (s.setSlot i w).freeNo = s.freeNo := rfl
@[simp] theorem State.setSlot_agenda (s : State) (i : SlotId) (w : Slot) : (s.setSlot i w).agenda = s.agenda := rfl
@[simp] theorem State.setSlot_phase (s : State) (i : SlotId) (w : Slot) : (s.setSlot i w).phase = s.phase := rfl
@[simp] theorem State.setSlot_turn (s : State) (i : SlotId) (w : Slot) : (s.setSlot i w).turn = s.turn := rfl
@[simp] theorem State.setSlot_cur (s : State) (i : SlotId) (w : Slot) : (s.setSlot i w).cur = s.cur := rfl
@[simp] theorem State.setSlot_iss (s : State) (i : SlotId) (w : Slot) : (s.setSlot i w).iss = s.iss := rfl
@[simp] theorem State.setSlot_ctxs (s : State) (i : SlotId) (w : Slot) : (s.setSlot i w).ctxs = s.ctxs := rfl
@[simp] theorem State.setSlot_nexts (s : State) (i : SlotId) (w : Slot) : (s.setSlot i w).nexts = s.nexts := rfl
@[simp] theorem State.setSlot_cores (s : State) (i : SlotId) (w : Slot) : (s.setSlot i w).cores = s.cores := rfl
@[simp] theorem State.setSlot_sups (s : State) (i : SlotId) (w : Slot) : (s.setSlot i w).sups = s.sups := rfl
@[simp] theorem State.setSlot_clus (s : State) (i : SlotId) (w : Slot) : (s.setSlot i w).clus = s.clus := rfl
@[simp] theorem State.setSlot_dies (s : State) (i : SlotId) (w : Slot) : (s.setSlot i w).dies = s.dies := rfl
@[simp] theorem State.setSlot_pkgs (s : State) (i : SlotId) (w : Slot) : (s.setSlot i w).pkgs = s.pkgs := rfl
@[simp] theorem State.setSlot_reqs (s : State) (i : SlotId) (w : Slot) : (s.setSlot i w).reqs = s.reqs := rfl
@[simp] theorem State.setSlot_heldFlits (s : State) (i : SlotId) (w : Slot) : (s.setSlot i w).heldFlits = s.heldFlits := rfl
@[simp] theorem State.setSlot_rates (s : State) (i : SlotId) (w : Slot) : (s.setSlot i w).rates = s.rates := rfl
@[simp] theorem State.setSlot_arbs (s : State) (i : SlotId) (w : Slot) : (s.setSlot i w).arbs = s.arbs := rfl
@[simp] theorem State.modSlot_cycle (s : State) (i : SlotId) (f : Slot → Slot) : (s.modSlot i f).cycle = s.cycle := rfl
@[simp] theorem State.modSlot_uid (s : State) (i : SlotId) (f : Slot → Slot) : (s.modSlot i f).uid = s.uid := rfl
@[simp] theorem State.modSlot_freeNo (s : State) (i : SlotId) (f : Slot → Slot) : (s.modSlot i f).freeNo = s.freeNo := rfl
@[simp] theorem State.modSlot_agenda (s : State) (i : SlotId) (f : Slot → Slot) : (s.modSlot i f).agenda = s.agenda := rfl
@[simp] theorem State.modSlot_phase (s : State) (i : SlotId) (f : Slot → Slot) : (s.modSlot i f).phase = s.phase := rfl
@[simp] theorem State.modSlot_turn (s : State) (i : SlotId) (f : Slot → Slot) : (s.modSlot i f).turn = s.turn := rfl
@[simp] theorem State.modSlot_cur (s : State) (i : SlotId) (f : Slot → Slot) : (s.modSlot i f).cur = s.cur := rfl
@[simp] theorem State.modSlot_iss (s : State) (i : SlotId) (f : Slot → Slot) : (s.modSlot i f).iss = s.iss := rfl
@[simp] theorem State.modSlot_ctxs (s : State) (i : SlotId) (f : Slot → Slot) : (s.modSlot i f).ctxs = s.ctxs := rfl
@[simp] theorem State.modSlot_nexts (s : State) (i : SlotId) (f : Slot → Slot) : (s.modSlot i f).nexts = s.nexts := rfl
@[simp] theorem State.modSlot_cores (s : State) (i : SlotId) (f : Slot → Slot) : (s.modSlot i f).cores = s.cores := rfl
@[simp] theorem State.modSlot_sups (s : State) (i : SlotId) (f : Slot → Slot) : (s.modSlot i f).sups = s.sups := rfl
@[simp] theorem State.modSlot_clus (s : State) (i : SlotId) (f : Slot → Slot) : (s.modSlot i f).clus = s.clus := rfl
@[simp] theorem State.modSlot_dies (s : State) (i : SlotId) (f : Slot → Slot) : (s.modSlot i f).dies = s.dies := rfl
@[simp] theorem State.modSlot_pkgs (s : State) (i : SlotId) (f : Slot → Slot) : (s.modSlot i f).pkgs = s.pkgs := rfl
@[simp] theorem State.modSlot_reqs (s : State) (i : SlotId) (f : Slot → Slot) : (s.modSlot i f).reqs = s.reqs := rfl
@[simp] theorem State.modSlot_heldFlits (s : State) (i : SlotId) (f : Slot → Slot) : (s.modSlot i f).heldFlits = s.heldFlits := rfl
@[simp] theorem State.modSlot_rates (s : State) (i : SlotId) (f : Slot → Slot) : (s.modSlot i f).rates = s.rates := rfl
@[simp] theorem State.modSlot_arbs (s : State) (i : SlotId) (f : Slot → Slot) : (s.modSlot i f).arbs = s.arbs := rfl

@[simp] theorem State.slot_setSlot_same (s : State) (i : SlotId) (w : Slot) : (s.setSlot i w).slot i = w := tget_tset_same _ _ _ _
theorem State.slot_setSlot (s : State) (i i' : SlotId) (w : Slot) :
    (s.setSlot i w).slot i' = if i' = i then w else s.slot i' := tget_tset _ _ _ _ _
@[simp] theorem State.slot_modSlot_same (s : State) (i : SlotId) (f : Slot → Slot) : (s.modSlot i f).slot i = f (s.slot i) :=
  tget_tset_same _ _ _ _
theorem State.slot_modSlot (s : State) (i i' : SlotId) (f : Slot → Slot) :
    (s.modSlot i f).slot i' = if i' = i then f (s.slot i) else s.slot i' := tget_tset _ _ _ _ _
@[simp] theorem State.ctx_setSlot (s : State) (i : SlotId) (w : Slot) (a : Agent) : (s.setSlot i w).ctx a = s.ctx a := rfl
@[simp] theorem State.ctx_modSlot (s : State) (i : SlotId) (f : Slot → Slot) (a : Agent) : (s.modSlot i f).ctx a = s.ctx a := rfl
@[simp] theorem State.core_setSlot (s : State) (i : SlotId) (w : Slot) (c : CoreId) : (s.setSlot i w).core c = s.core c := rfl
@[simp] theorem State.core_modSlot (s : State) (i : SlotId) (f : Slot → Slot) (c : CoreId) : (s.modSlot i f).core c = s.core c := rfl
@[simp] theorem State.sup_setSlot (s : State) (i : SlotId) (w : Slot) (v : SupId) : (s.setSlot i w).sup v = s.sup v := rfl
@[simp] theorem State.sup_modSlot (s : State) (i : SlotId) (f : Slot → Slot) (v : SupId) : (s.modSlot i f).sup v = s.sup v := rfl
@[simp] theorem State.clu_setSlot (s : State) (i : SlotId) (w : Slot) (k : CluId) : (s.setSlot i w).clu k = s.clu k := rfl
@[simp] theorem State.clu_modSlot (s : State) (i : SlotId) (f : Slot → Slot) (k : CluId) : (s.modSlot i f).clu k = s.clu k := rfl
@[simp] theorem State.die_setSlot (s : State) (i : SlotId) (w : Slot) (d : DieId) : (s.setSlot i w).die d = s.die d := rfl
@[simp] theorem State.die_modSlot (s : State) (i : SlotId) (f : Slot → Slot) (d : DieId) : (s.modSlot i f).die d = s.die d := rfl
@[simp] theorem State.pkg_setSlot (s : State) (i : SlotId) (w : Slot) (n : Nat) : (s.setSlot i w).pkg n = s.pkg n := rfl
@[simp] theorem State.pkg_modSlot (s : State) (i : SlotId) (f : Slot → Slot) (n : Nat) : (s.modSlot i f).pkg n = s.pkg n := rfl

@[simp] theorem State.setCore_cycle (s : State) (c : CoreId) (w : Core) : (s.setCore c w).cycle = s.cycle := rfl
@[simp] theorem State.setCore_uid (s : State) (c : CoreId) (w : Core) : (s.setCore c w).uid = s.uid := rfl
@[simp] theorem State.setCore_freeNo (s : State) (c : CoreId) (w : Core) : (s.setCore c w).freeNo = s.freeNo := rfl
@[simp] theorem State.setCore_agenda (s : State) (c : CoreId) (w : Core) : (s.setCore c w).agenda = s.agenda := rfl
@[simp] theorem State.setCore_phase (s : State) (c : CoreId) (w : Core) : (s.setCore c w).phase = s.phase := rfl
@[simp] theorem State.setCore_turn (s : State) (c : CoreId) (w : Core) : (s.setCore c w).turn = s.turn := rfl
@[simp] theorem State.setCore_cur (s : State) (c : CoreId) (w : Core) : (s.setCore c w).cur = s.cur := rfl
@[simp] theorem State.setCore_iss (s : State) (c : CoreId) (w : Core) : (s.setCore c w).iss = s.iss := rfl
@[simp] theorem State.setCore_ctxs (s : State) (c : CoreId) (w : Core) : (s.setCore c w).ctxs = s.ctxs := rfl
@[simp] theorem State.setCore_slots (s : State) (c : CoreId) (w : Core) : (s.setCore c w).slots = s.slots := rfl
@[simp] theorem State.setCore_nexts (s : State) (c : CoreId) (w : Core) : (s.setCore c w).nexts = s.nexts := rfl
@[simp] theorem State.setCore_sups (s : State) (c : CoreId) (w : Core) : (s.setCore c w).sups = s.sups := rfl
@[simp] theorem State.setCore_clus (s : State) (c : CoreId) (w : Core) : (s.setCore c w).clus = s.clus := rfl
@[simp] theorem State.setCore_dies (s : State) (c : CoreId) (w : Core) : (s.setCore c w).dies = s.dies := rfl
@[simp] theorem State.setCore_pkgs (s : State) (c : CoreId) (w : Core) : (s.setCore c w).pkgs = s.pkgs := rfl
@[simp] theorem State.setCore_reqs (s : State) (c : CoreId) (w : Core) : (s.setCore c w).reqs = s.reqs := rfl
@[simp] theorem State.setCore_heldFlits (s : State) (c : CoreId) (w : Core) : (s.setCore c w).heldFlits = s.heldFlits := rfl
@[simp] theorem State.setCore_rates (s : State) (c : CoreId) (w : Core) : (s.setCore c w).rates = s.rates := rfl
@[simp] theorem State.setCore_arbs (s : State) (c : CoreId) (w : Core) : (s.setCore c w).arbs = s.arbs := rfl
@[simp] theorem State.modCore_cycle (s : State) (c : CoreId) (f : Core → Core) : (s.modCore c f).cycle = s.cycle := rfl
@[simp] theorem State.modCore_uid (s : State) (c : CoreId) (f : Core → Core) : (s.modCore c f).uid = s.uid := rfl
@[simp] theorem State.modCore_freeNo (s : State) (c : CoreId) (f : Core → Core) : (s.modCore c f).freeNo = s.freeNo := rfl
@[simp] theorem State.modCore_agenda (s : State) (c : CoreId) (f : Core → Core) : (s.modCore c f).agenda = s.agenda := rfl
@[simp] theorem State.modCore_phase (s : State) (c : CoreId) (f : Core → Core) : (s.modCore c f).phase = s.phase := rfl
@[simp] theorem State.modCore_turn (s : State) (c : CoreId) (f : Core → Core) : (s.modCore c f).turn = s.turn := rfl
@[simp] theorem State.modCore_cur (s : State) (c : CoreId) (f : Core → Core) : (s.modCore c f).cur = s.cur := rfl
@[simp] theorem State.modCore_iss (s : State) (c : CoreId) (f : Core → Core) : (s.modCore c f).iss = s.iss := rfl
@[simp] theorem State.modCore_ctxs (s : State) (c : CoreId) (f : Core → Core) : (s.modCore c f).ctxs = s.ctxs := rfl
@[simp] theorem State.modCore_slots (s : State) (c : CoreId) (f : Core → Core) : (s.modCore c f).slots = s.slots := rfl
@[simp] theorem State.modCore_nexts (s : State) (c : CoreId) (f : Core → Core) : (s.modCore c f).nexts = s.nexts := rfl
@[simp] theorem State.modCore_sups (s : State) (c : CoreId) (f : Core → Core) : (s.modCore c f).sups = s.sups := rfl
@[simp] theorem State.modCore_clus (s : State) (c : CoreId) (f : Core → Core) : (s.modCore c f).clus = s.clus := rfl
@[simp] theorem State.modCore_dies (s : State) (c : CoreId) (f : Core → Core) : (s.modCore c f).dies = s.dies := rfl
@[simp] theorem State.modCore_pkgs (s : State) (c : CoreId) (f : Core → Core) : (s.modCore c f).pkgs = s.pkgs := rfl
@[simp] theorem State.modCore_reqs (s : State) (c : CoreId) (f : Core → Core) : (s.modCore c f).reqs = s.reqs := rfl
@[simp] theorem State.modCore_heldFlits (s : State) (c : CoreId) (f : Core → Core) : (s.modCore c f).heldFlits = s.heldFlits := rfl
@[simp] theorem State.modCore_rates (s : State) (c : CoreId) (f : Core → Core) : (s.modCore c f).rates = s.rates := rfl
@[simp] theorem State.modCore_arbs (s : State) (c : CoreId) (f : Core → Core) : (s.modCore c f).arbs = s.arbs := rfl

@[simp] theorem State.core_setCore_same (s : State) (c : CoreId) (w : Core) : (s.setCore c w).core c = w := tget_tset_same _ _ _ _
theorem State.core_setCore (s : State) (c c' : CoreId) (w : Core) :
    (s.setCore c w).core c' = if c' = c then w else s.core c' := tget_tset _ _ _ _ _
@[simp] theorem State.core_modCore_same (s : State) (c : CoreId) (f : Core → Core) : (s.modCore c f).core c = f (s.core c) :=
  tget_tset_same _ _ _ _
theorem State.core_modCore (s : State) (c c' : CoreId) (f : Core → Core) :
    (s.modCore c f).core c' = if c' = c then f (s.core c) else s.core c' := tget_tset _ _ _ _ _
@[simp] theorem State.ctx_setCore (s : State) (c : CoreId) (w : Core) (a : Agent) : (s.setCore c w).ctx a = s.ctx a := rfl
@[simp] theorem State.ctx_modCore (s : State) (c : CoreId) (f : Core → Core) (a : Agent) : (s.modCore c f).ctx a = s.ctx a := rfl
@[simp] theorem State.slot_setCore (s : State) (c : CoreId) (w : Core) (i : SlotId) : (s.setCore c w).slot i = s.slot i := rfl
@[simp] theorem State.slot_modCore (s : State) (c : CoreId) (f : Core → Core) (i : SlotId) : (s.modCore c f).slot i = s.slot i := rfl
@[simp] theorem State.sup_setCore (s : State) (c : CoreId) (w : Core) (v : SupId) : (s.setCore c w).sup v = s.sup v := rfl
@[simp] theorem State.sup_modCore (s : State) (c : CoreId) (f : Core → Core) (v : SupId) : (s.modCore c f).sup v = s.sup v := rfl
@[simp] theorem State.clu_setCore (s : State) (c : CoreId) (w : Core) (k : CluId) : (s.setCore c w).clu k = s.clu k := rfl
@[simp] theorem State.clu_modCore (s : State) (c : CoreId) (f : Core → Core) (k : CluId) : (s.modCore c f).clu k = s.clu k := rfl
@[simp] theorem State.die_setCore (s : State) (c : CoreId) (w : Core) (d : DieId) : (s.setCore c w).die d = s.die d := rfl
@[simp] theorem State.die_modCore (s : State) (c : CoreId) (f : Core → Core) (d : DieId) : (s.modCore c f).die d = s.die d := rfl
@[simp] theorem State.pkg_setCore (s : State) (c : CoreId) (w : Core) (n : Nat) : (s.setCore c w).pkg n = s.pkg n := rfl
@[simp] theorem State.pkg_modCore (s : State) (c : CoreId) (f : Core → Core) (n : Nat) : (s.modCore c f).pkg n = s.pkg n := rfl

@[simp] theorem State.setSup_cycle (s : State) (v : SupId) (w : Sup) : (s.setSup v w).cycle = s.cycle := rfl
@[simp] theorem State.setSup_uid (s : State) (v : SupId) (w : Sup) : (s.setSup v w).uid = s.uid := rfl
@[simp] theorem State.setSup_freeNo (s : State) (v : SupId) (w : Sup) : (s.setSup v w).freeNo = s.freeNo := rfl
@[simp] theorem State.setSup_agenda (s : State) (v : SupId) (w : Sup) : (s.setSup v w).agenda = s.agenda := rfl
@[simp] theorem State.setSup_phase (s : State) (v : SupId) (w : Sup) : (s.setSup v w).phase = s.phase := rfl
@[simp] theorem State.setSup_turn (s : State) (v : SupId) (w : Sup) : (s.setSup v w).turn = s.turn := rfl
@[simp] theorem State.setSup_cur (s : State) (v : SupId) (w : Sup) : (s.setSup v w).cur = s.cur := rfl
@[simp] theorem State.setSup_iss (s : State) (v : SupId) (w : Sup) : (s.setSup v w).iss = s.iss := rfl
@[simp] theorem State.setSup_ctxs (s : State) (v : SupId) (w : Sup) : (s.setSup v w).ctxs = s.ctxs := rfl
@[simp] theorem State.setSup_slots (s : State) (v : SupId) (w : Sup) : (s.setSup v w).slots = s.slots := rfl
@[simp] theorem State.setSup_nexts (s : State) (v : SupId) (w : Sup) : (s.setSup v w).nexts = s.nexts := rfl
@[simp] theorem State.setSup_cores (s : State) (v : SupId) (w : Sup) : (s.setSup v w).cores = s.cores := rfl
@[simp] theorem State.setSup_clus (s : State) (v : SupId) (w : Sup) : (s.setSup v w).clus = s.clus := rfl
@[simp] theorem State.setSup_dies (s : State) (v : SupId) (w : Sup) : (s.setSup v w).dies = s.dies := rfl
@[simp] theorem State.setSup_pkgs (s : State) (v : SupId) (w : Sup) : (s.setSup v w).pkgs = s.pkgs := rfl
@[simp] theorem State.setSup_reqs (s : State) (v : SupId) (w : Sup) : (s.setSup v w).reqs = s.reqs := rfl
@[simp] theorem State.setSup_heldFlits (s : State) (v : SupId) (w : Sup) : (s.setSup v w).heldFlits = s.heldFlits := rfl
@[simp] theorem State.setSup_rates (s : State) (v : SupId) (w : Sup) : (s.setSup v w).rates = s.rates := rfl
@[simp] theorem State.setSup_arbs (s : State) (v : SupId) (w : Sup) : (s.setSup v w).arbs = s.arbs := rfl
@[simp] theorem State.modSup_cycle (s : State) (v : SupId) (f : Sup → Sup) : (s.modSup v f).cycle = s.cycle := rfl
@[simp] theorem State.modSup_uid (s : State) (v : SupId) (f : Sup → Sup) : (s.modSup v f).uid = s.uid := rfl
@[simp] theorem State.modSup_freeNo (s : State) (v : SupId) (f : Sup → Sup) : (s.modSup v f).freeNo = s.freeNo := rfl
@[simp] theorem State.modSup_agenda (s : State) (v : SupId) (f : Sup → Sup) : (s.modSup v f).agenda = s.agenda := rfl
@[simp] theorem State.modSup_phase (s : State) (v : SupId) (f : Sup → Sup) : (s.modSup v f).phase = s.phase := rfl
@[simp] theorem State.modSup_turn (s : State) (v : SupId) (f : Sup → Sup) : (s.modSup v f).turn = s.turn := rfl
@[simp] theorem State.modSup_cur (s : State) (v : SupId) (f : Sup → Sup) : (s.modSup v f).cur = s.cur := rfl
@[simp] theorem State.modSup_iss (s : State) (v : SupId) (f : Sup → Sup) : (s.modSup v f).iss = s.iss := rfl
@[simp] theorem State.modSup_ctxs (s : State) (v : SupId) (f : Sup → Sup) : (s.modSup v f).ctxs = s.ctxs := rfl
@[simp] theorem State.modSup_slots (s : State) (v : SupId) (f : Sup → Sup) : (s.modSup v f).slots = s.slots := rfl
@[simp] theorem State.modSup_nexts (s : State) (v : SupId) (f : Sup → Sup) : (s.modSup v f).nexts = s.nexts := rfl
@[simp] theorem State.modSup_cores (s : State) (v : SupId) (f : Sup → Sup) : (s.modSup v f).cores = s.cores := rfl
@[simp] theorem State.modSup_clus (s : State) (v : SupId) (f : Sup → Sup) : (s.modSup v f).clus = s.clus := rfl
@[simp] theorem State.modSup_dies (s : State) (v : SupId) (f : Sup → Sup) : (s.modSup v f).dies = s.dies := rfl
@[simp] theorem State.modSup_pkgs (s : State) (v : SupId) (f : Sup → Sup) : (s.modSup v f).pkgs = s.pkgs := rfl
@[simp] theorem State.modSup_reqs (s : State) (v : SupId) (f : Sup → Sup) : (s.modSup v f).reqs = s.reqs := rfl
@[simp] theorem State.modSup_heldFlits (s : State) (v : SupId) (f : Sup → Sup) : (s.modSup v f).heldFlits = s.heldFlits := rfl
@[simp] theorem State.modSup_rates (s : State) (v : SupId) (f : Sup → Sup) : (s.modSup v f).rates = s.rates := rfl
@[simp] theorem State.modSup_arbs (s : State) (v : SupId) (f : Sup → Sup) : (s.modSup v f).arbs = s.arbs := rfl

@[simp] theorem State.sup_setSup_same (s : State) (v : SupId) (w : Sup) : (s.setSup v w).sup v = w := tget_tset_same _ _ _ _
theorem State.sup_setSup (s : State) (v v' : SupId) (w : Sup) :
    (s.setSup v w).sup v' = if v' = v then w else s.sup v' := tget_tset _ _ _ _ _
@[simp] theorem State.sup_modSup_same (s : State) (v : SupId) (f : Sup → Sup) : (s.modSup v f).sup v = f (s.sup v) :=
  tget_tset_same _ _ _ _
theorem State.sup_modSup (s : State) (v v' : SupId) (f : Sup → Sup) :
    (s.modSup v f).sup v' = if v' = v then f (s.sup v) else s.sup v' := tget_tset _ _ _ _ _
@[simp] theorem State.ctx_setSup (s : State) (v : SupId) (w : Sup) (a : Agent) : (s.setSup v w).ctx a = s.ctx a := rfl
@[simp] theorem State.ctx_modSup (s : State) (v : SupId) (f : Sup → Sup) (a : Agent) : (s.modSup v f).ctx a = s.ctx a := rfl
@[simp] theorem State.slot_setSup (s : State) (v : SupId) (w : Sup) (i : SlotId) : (s.setSup v w).slot i = s.slot i := rfl
@[simp] theorem State.slot_modSup (s : State) (v : SupId) (f : Sup → Sup) (i : SlotId) : (s.modSup v f).slot i = s.slot i := rfl
@[simp] theorem State.core_setSup (s : State) (v : SupId) (w : Sup) (c : CoreId) : (s.setSup v w).core c = s.core c := rfl
@[simp] theorem State.core_modSup (s : State) (v : SupId) (f : Sup → Sup) (c : CoreId) : (s.modSup v f).core c = s.core c := rfl
@[simp] theorem State.clu_setSup (s : State) (v : SupId) (w : Sup) (k : CluId) : (s.setSup v w).clu k = s.clu k := rfl
@[simp] theorem State.clu_modSup (s : State) (v : SupId) (f : Sup → Sup) (k : CluId) : (s.modSup v f).clu k = s.clu k := rfl
@[simp] theorem State.die_setSup (s : State) (v : SupId) (w : Sup) (d : DieId) : (s.setSup v w).die d = s.die d := rfl
@[simp] theorem State.die_modSup (s : State) (v : SupId) (f : Sup → Sup) (d : DieId) : (s.modSup v f).die d = s.die d := rfl
@[simp] theorem State.pkg_setSup (s : State) (v : SupId) (w : Sup) (n : Nat) : (s.setSup v w).pkg n = s.pkg n := rfl
@[simp] theorem State.pkg_modSup (s : State) (v : SupId) (f : Sup → Sup) (n : Nat) : (s.modSup v f).pkg n = s.pkg n := rfl

@[simp] theorem State.setClu_cycle (s : State) (k : CluId) (w : Cluster) : (s.setClu k w).cycle = s.cycle := rfl
@[simp] theorem State.setClu_uid (s : State) (k : CluId) (w : Cluster) : (s.setClu k w).uid = s.uid := rfl
@[simp] theorem State.setClu_freeNo (s : State) (k : CluId) (w : Cluster) : (s.setClu k w).freeNo = s.freeNo := rfl
@[simp] theorem State.setClu_agenda (s : State) (k : CluId) (w : Cluster) : (s.setClu k w).agenda = s.agenda := rfl
@[simp] theorem State.setClu_phase (s : State) (k : CluId) (w : Cluster) : (s.setClu k w).phase = s.phase := rfl
@[simp] theorem State.setClu_turn (s : State) (k : CluId) (w : Cluster) : (s.setClu k w).turn = s.turn := rfl
@[simp] theorem State.setClu_cur (s : State) (k : CluId) (w : Cluster) : (s.setClu k w).cur = s.cur := rfl
@[simp] theorem State.setClu_iss (s : State) (k : CluId) (w : Cluster) : (s.setClu k w).iss = s.iss := rfl
@[simp] theorem State.setClu_ctxs (s : State) (k : CluId) (w : Cluster) : (s.setClu k w).ctxs = s.ctxs := rfl
@[simp] theorem State.setClu_slots (s : State) (k : CluId) (w : Cluster) : (s.setClu k w).slots = s.slots := rfl
@[simp] theorem State.setClu_nexts (s : State) (k : CluId) (w : Cluster) : (s.setClu k w).nexts = s.nexts := rfl
@[simp] theorem State.setClu_cores (s : State) (k : CluId) (w : Cluster) : (s.setClu k w).cores = s.cores := rfl
@[simp] theorem State.setClu_sups (s : State) (k : CluId) (w : Cluster) : (s.setClu k w).sups = s.sups := rfl
@[simp] theorem State.setClu_dies (s : State) (k : CluId) (w : Cluster) : (s.setClu k w).dies = s.dies := rfl
@[simp] theorem State.setClu_pkgs (s : State) (k : CluId) (w : Cluster) : (s.setClu k w).pkgs = s.pkgs := rfl
@[simp] theorem State.setClu_reqs (s : State) (k : CluId) (w : Cluster) : (s.setClu k w).reqs = s.reqs := rfl
@[simp] theorem State.setClu_heldFlits (s : State) (k : CluId) (w : Cluster) : (s.setClu k w).heldFlits = s.heldFlits := rfl
@[simp] theorem State.setClu_rates (s : State) (k : CluId) (w : Cluster) : (s.setClu k w).rates = s.rates := rfl
@[simp] theorem State.setClu_arbs (s : State) (k : CluId) (w : Cluster) : (s.setClu k w).arbs = s.arbs := rfl
@[simp] theorem State.modClu_cycle (s : State) (k : CluId) (f : Cluster → Cluster) : (s.modClu k f).cycle = s.cycle := rfl
@[simp] theorem State.modClu_uid (s : State) (k : CluId) (f : Cluster → Cluster) : (s.modClu k f).uid = s.uid := rfl
@[simp] theorem State.modClu_freeNo (s : State) (k : CluId) (f : Cluster → Cluster) : (s.modClu k f).freeNo = s.freeNo := rfl
@[simp] theorem State.modClu_agenda (s : State) (k : CluId) (f : Cluster → Cluster) : (s.modClu k f).agenda = s.agenda := rfl
@[simp] theorem State.modClu_phase (s : State) (k : CluId) (f : Cluster → Cluster) : (s.modClu k f).phase = s.phase := rfl
@[simp] theorem State.modClu_turn (s : State) (k : CluId) (f : Cluster → Cluster) : (s.modClu k f).turn = s.turn := rfl
@[simp] theorem State.modClu_cur (s : State) (k : CluId) (f : Cluster → Cluster) : (s.modClu k f).cur = s.cur := rfl
@[simp] theorem State.modClu_iss (s : State) (k : CluId) (f : Cluster → Cluster) : (s.modClu k f).iss = s.iss := rfl
@[simp] theorem State.modClu_ctxs (s : State) (k : CluId) (f : Cluster → Cluster) : (s.modClu k f).ctxs = s.ctxs := rfl
@[simp] theorem State.modClu_slots (s : State) (k : CluId) (f : Cluster → Cluster) : (s.modClu k f).slots = s.slots := rfl
@[simp] theorem State.modClu_nexts (s : State) (k : CluId) (f : Cluster → Cluster) : (s.modClu k f).nexts = s.nexts := rfl
@[simp] theorem State.modClu_cores (s : State) (k : CluId) (f : Cluster → Cluster) : (s.modClu k f).cores = s.cores := rfl
@[simp] theorem State.modClu_sups (s : State) (k : CluId) (f : Cluster → Cluster) : (s.modClu k f).sups = s.sups := rfl
@[simp] theorem State.modClu_dies (s : State) (k : CluId) (f : Cluster → Cluster) : (s.modClu k f).dies = s.dies := rfl
@[simp] theorem State.modClu_pkgs (s : State) (k : CluId) (f : Cluster → Cluster) : (s.modClu k f).pkgs = s.pkgs := rfl
@[simp] theorem State.modClu_reqs (s : State) (k : CluId) (f : Cluster → Cluster) : (s.modClu k f).reqs = s.reqs := rfl
@[simp] theorem State.modClu_heldFlits (s : State) (k : CluId) (f : Cluster → Cluster) : (s.modClu k f).heldFlits = s.heldFlits := rfl
@[simp] theorem State.modClu_rates (s : State) (k : CluId) (f : Cluster → Cluster) : (s.modClu k f).rates = s.rates := rfl
@[simp] theorem State.modClu_arbs (s : State) (k : CluId) (f : Cluster → Cluster) : (s.modClu k f).arbs = s.arbs := rfl

@[simp] theorem State.clu_setClu_same (s : State) (k : CluId) (w : Cluster) : (s.setClu k w).clu k = w := tget_tset_same _ _ _ _
theorem State.clu_setClu (s : State) (k k' : CluId) (w : Cluster) :
    (s.setClu k w).clu k' = if k' = k then w else s.clu k' := tget_tset _ _ _ _ _
@[simp] theorem State.clu_modClu_same (s : State) (k : CluId) (f : Cluster → Cluster) : (s.modClu k f).clu k = f (s.clu k) :=
  tget_tset_same _ _ _ _
theorem State.clu_modClu (s : State) (k k' : CluId) (f : Cluster → Cluster) :
    (s.modClu k f).clu k' = if k' = k then f (s.clu k) else s.clu k' := tget_tset _ _ _ _ _
@[simp] theorem State.ctx_setClu (s : State) (k : CluId) (w : Cluster) (a : Agent) : (s.setClu k w).ctx a = s.ctx a := rfl
@[simp] theorem State.ctx_modClu (s : State) (k : CluId) (f : Cluster → Cluster) (a : Agent) : (s.modClu k f).ctx a = s.ctx a := rfl
@[simp] theorem State.slot_setClu (s : State) (k : CluId) (w : Cluster) (i : SlotId) : (s.setClu k w).slot i = s.slot i := rfl
@[simp] theorem State.slot_modClu (s : State) (k : CluId) (f : Cluster → Cluster) (i : SlotId) : (s.modClu k f).slot i = s.slot i := rfl
@[simp] theorem State.core_setClu (s : State) (k : CluId) (w : Cluster) (c : CoreId) : (s.setClu k w).core c = s.core c := rfl
@[simp] theorem State.core_modClu (s : State) (k : CluId) (f : Cluster → Cluster) (c : CoreId) : (s.modClu k f).core c = s.core c := rfl
@[simp] theorem State.sup_setClu (s : State) (k : CluId) (w : Cluster) (v : SupId) : (s.setClu k w).sup v = s.sup v := rfl
@[simp] theorem State.sup_modClu (s : State) (k : CluId) (f : Cluster → Cluster) (v : SupId) : (s.modClu k f).sup v = s.sup v := rfl
@[simp] theorem State.die_setClu (s : State) (k : CluId) (w : Cluster) (d : DieId) : (s.setClu k w).die d = s.die d := rfl
@[simp] theorem State.die_modClu (s : State) (k : CluId) (f : Cluster → Cluster) (d : DieId) : (s.modClu k f).die d = s.die d := rfl
@[simp] theorem State.pkg_setClu (s : State) (k : CluId) (w : Cluster) (n : Nat) : (s.setClu k w).pkg n = s.pkg n := rfl
@[simp] theorem State.pkg_modClu (s : State) (k : CluId) (f : Cluster → Cluster) (n : Nat) : (s.modClu k f).pkg n = s.pkg n := rfl

@[simp] theorem State.setDie_cycle (s : State) (d : DieId) (w : Die) : (s.setDie d w).cycle = s.cycle := rfl
@[simp] theorem State.setDie_uid (s : State) (d : DieId) (w : Die) : (s.setDie d w).uid = s.uid := rfl
@[simp] theorem State.setDie_freeNo (s : State) (d : DieId) (w : Die) : (s.setDie d w).freeNo = s.freeNo := rfl
@[simp] theorem State.setDie_agenda (s : State) (d : DieId) (w : Die) : (s.setDie d w).agenda = s.agenda := rfl
@[simp] theorem State.setDie_phase (s : State) (d : DieId) (w : Die) : (s.setDie d w).phase = s.phase := rfl
@[simp] theorem State.setDie_turn (s : State) (d : DieId) (w : Die) : (s.setDie d w).turn = s.turn := rfl
@[simp] theorem State.setDie_cur (s : State) (d : DieId) (w : Die) : (s.setDie d w).cur = s.cur := rfl
@[simp] theorem State.setDie_iss (s : State) (d : DieId) (w : Die) : (s.setDie d w).iss = s.iss := rfl
@[simp] theorem State.setDie_ctxs (s : State) (d : DieId) (w : Die) : (s.setDie d w).ctxs = s.ctxs := rfl
@[simp] theorem State.setDie_slots (s : State) (d : DieId) (w : Die) : (s.setDie d w).slots = s.slots := rfl
@[simp] theorem State.setDie_nexts (s : State) (d : DieId) (w : Die) : (s.setDie d w).nexts = s.nexts := rfl
@[simp] theorem State.setDie_cores (s : State) (d : DieId) (w : Die) : (s.setDie d w).cores = s.cores := rfl
@[simp] theorem State.setDie_sups (s : State) (d : DieId) (w : Die) : (s.setDie d w).sups = s.sups := rfl
@[simp] theorem State.setDie_clus (s : State) (d : DieId) (w : Die) : (s.setDie d w).clus = s.clus := rfl
@[simp] theorem State.setDie_pkgs (s : State) (d : DieId) (w : Die) : (s.setDie d w).pkgs = s.pkgs := rfl
@[simp] theorem State.setDie_reqs (s : State) (d : DieId) (w : Die) : (s.setDie d w).reqs = s.reqs := rfl
@[simp] theorem State.setDie_heldFlits (s : State) (d : DieId) (w : Die) : (s.setDie d w).heldFlits = s.heldFlits := rfl
@[simp] theorem State.setDie_rates (s : State) (d : DieId) (w : Die) : (s.setDie d w).rates = s.rates := rfl
@[simp] theorem State.setDie_arbs (s : State) (d : DieId) (w : Die) : (s.setDie d w).arbs = s.arbs := rfl
@[simp] theorem State.modDie_cycle (s : State) (d : DieId) (f : Die → Die) : (s.modDie d f).cycle = s.cycle := rfl
@[simp] theorem State.modDie_uid (s : State) (d : DieId) (f : Die → Die) : (s.modDie d f).uid = s.uid := rfl
@[simp] theorem State.modDie_freeNo (s : State) (d : DieId) (f : Die → Die) : (s.modDie d f).freeNo = s.freeNo := rfl
@[simp] theorem State.modDie_agenda (s : State) (d : DieId) (f : Die → Die) : (s.modDie d f).agenda = s.agenda := rfl
@[simp] theorem State.modDie_phase (s : State) (d : DieId) (f : Die → Die) : (s.modDie d f).phase = s.phase := rfl
@[simp] theorem State.modDie_turn (s : State) (d : DieId) (f : Die → Die) : (s.modDie d f).turn = s.turn := rfl
@[simp] theorem State.modDie_cur (s : State) (d : DieId) (f : Die → Die) : (s.modDie d f).cur = s.cur := rfl
@[simp] theorem State.modDie_iss (s : State) (d : DieId) (f : Die → Die) : (s.modDie d f).iss = s.iss := rfl
@[simp] theorem State.modDie_ctxs (s : State) (d : DieId) (f : Die → Die) : (s.modDie d f).ctxs = s.ctxs := rfl
@[simp] theorem State.modDie_slots (s : State) (d : DieId) (f : Die → Die) : (s.modDie d f).slots = s.slots := rfl
@[simp] theorem State.modDie_nexts (s : State) (d : DieId) (f : Die → Die) : (s.modDie d f).nexts = s.nexts := rfl
@[simp] theorem State.modDie_cores (s : State) (d : DieId) (f : Die → Die) : (s.modDie d f).cores = s.cores := rfl
@[simp] theorem State.modDie_sups (s : State) (d : DieId) (f : Die → Die) : (s.modDie d f).sups = s.sups := rfl
@[simp] theorem State.modDie_clus (s : State) (d : DieId) (f : Die → Die) : (s.modDie d f).clus = s.clus := rfl
@[simp] theorem State.modDie_pkgs (s : State) (d : DieId) (f : Die → Die) : (s.modDie d f).pkgs = s.pkgs := rfl
@[simp] theorem State.modDie_reqs (s : State) (d : DieId) (f : Die → Die) : (s.modDie d f).reqs = s.reqs := rfl
@[simp] theorem State.modDie_heldFlits (s : State) (d : DieId) (f : Die → Die) : (s.modDie d f).heldFlits = s.heldFlits := rfl
@[simp] theorem State.modDie_rates (s : State) (d : DieId) (f : Die → Die) : (s.modDie d f).rates = s.rates := rfl
@[simp] theorem State.modDie_arbs (s : State) (d : DieId) (f : Die → Die) : (s.modDie d f).arbs = s.arbs := rfl

@[simp] theorem State.die_setDie_same (s : State) (d : DieId) (w : Die) : (s.setDie d w).die d = w := tget_tset_same _ _ _ _
theorem State.die_setDie (s : State) (d d' : DieId) (w : Die) :
    (s.setDie d w).die d' = if d' = d then w else s.die d' := tget_tset _ _ _ _ _
@[simp] theorem State.die_modDie_same (s : State) (d : DieId) (f : Die → Die) : (s.modDie d f).die d = f (s.die d) :=
  tget_tset_same _ _ _ _
theorem State.die_modDie (s : State) (d d' : DieId) (f : Die → Die) :
    (s.modDie d f).die d' = if d' = d then f (s.die d) else s.die d' := tget_tset _ _ _ _ _
@[simp] theorem State.ctx_setDie (s : State) (d : DieId) (w : Die) (a : Agent) : (s.setDie d w).ctx a = s.ctx a := rfl
@[simp] theorem State.ctx_modDie (s : State) (d : DieId) (f : Die → Die) (a : Agent) : (s.modDie d f).ctx a = s.ctx a := rfl
@[simp] theorem State.slot_setDie (s : State) (d : DieId) (w : Die) (i : SlotId) : (s.setDie d w).slot i = s.slot i := rfl
@[simp] theorem State.slot_modDie (s : State) (d : DieId) (f : Die → Die) (i : SlotId) : (s.modDie d f).slot i = s.slot i := rfl
@[simp] theorem State.core_setDie (s : State) (d : DieId) (w : Die) (c : CoreId) : (s.setDie d w).core c = s.core c := rfl
@[simp] theorem State.core_modDie (s : State) (d : DieId) (f : Die → Die) (c : CoreId) : (s.modDie d f).core c = s.core c := rfl
@[simp] theorem State.sup_setDie (s : State) (d : DieId) (w : Die) (v : SupId) : (s.setDie d w).sup v = s.sup v := rfl
@[simp] theorem State.sup_modDie (s : State) (d : DieId) (f : Die → Die) (v : SupId) : (s.modDie d f).sup v = s.sup v := rfl
@[simp] theorem State.clu_setDie (s : State) (d : DieId) (w : Die) (k : CluId) : (s.setDie d w).clu k = s.clu k := rfl
@[simp] theorem State.clu_modDie (s : State) (d : DieId) (f : Die → Die) (k : CluId) : (s.modDie d f).clu k = s.clu k := rfl
@[simp] theorem State.pkg_setDie (s : State) (d : DieId) (w : Die) (n : Nat) : (s.setDie d w).pkg n = s.pkg n := rfl
@[simp] theorem State.pkg_modDie (s : State) (d : DieId) (f : Die → Die) (n : Nat) : (s.modDie d f).pkg n = s.pkg n := rfl

@[simp] theorem State.setPkg_cycle (s : State) (n : Nat) (w : Pkg) : (s.setPkg n w).cycle = s.cycle := rfl
@[simp] theorem State.setPkg_uid (s : State) (n : Nat) (w : Pkg) : (s.setPkg n w).uid = s.uid := rfl
@[simp] theorem State.setPkg_freeNo (s : State) (n : Nat) (w : Pkg) : (s.setPkg n w).freeNo = s.freeNo := rfl
@[simp] theorem State.setPkg_agenda (s : State) (n : Nat) (w : Pkg) : (s.setPkg n w).agenda = s.agenda := rfl
@[simp] theorem State.setPkg_phase (s : State) (n : Nat) (w : Pkg) : (s.setPkg n w).phase = s.phase := rfl
@[simp] theorem State.setPkg_turn (s : State) (n : Nat) (w : Pkg) : (s.setPkg n w).turn = s.turn := rfl
@[simp] theorem State.setPkg_cur (s : State) (n : Nat) (w : Pkg) : (s.setPkg n w).cur = s.cur := rfl
@[simp] theorem State.setPkg_iss (s : State) (n : Nat) (w : Pkg) : (s.setPkg n w).iss = s.iss := rfl
@[simp] theorem State.setPkg_ctxs (s : State) (n : Nat) (w : Pkg) : (s.setPkg n w).ctxs = s.ctxs := rfl
@[simp] theorem State.setPkg_slots (s : State) (n : Nat) (w : Pkg) : (s.setPkg n w).slots = s.slots := rfl
@[simp] theorem State.setPkg_nexts (s : State) (n : Nat) (w : Pkg) : (s.setPkg n w).nexts = s.nexts := rfl
@[simp] theorem State.setPkg_cores (s : State) (n : Nat) (w : Pkg) : (s.setPkg n w).cores = s.cores := rfl
@[simp] theorem State.setPkg_sups (s : State) (n : Nat) (w : Pkg) : (s.setPkg n w).sups = s.sups := rfl
@[simp] theorem State.setPkg_clus (s : State) (n : Nat) (w : Pkg) : (s.setPkg n w).clus = s.clus := rfl
@[simp] theorem State.setPkg_dies (s : State) (n : Nat) (w : Pkg) : (s.setPkg n w).dies = s.dies := rfl
@[simp] theorem State.setPkg_reqs (s : State) (n : Nat) (w : Pkg) : (s.setPkg n w).reqs = s.reqs := rfl
@[simp] theorem State.setPkg_heldFlits (s : State) (n : Nat) (w : Pkg) : (s.setPkg n w).heldFlits = s.heldFlits := rfl
@[simp] theorem State.setPkg_rates (s : State) (n : Nat) (w : Pkg) : (s.setPkg n w).rates = s.rates := rfl
@[simp] theorem State.setPkg_arbs (s : State) (n : Nat) (w : Pkg) : (s.setPkg n w).arbs = s.arbs := rfl
@[simp] theorem State.modPkg_cycle (s : State) (n : Nat) (f : Pkg → Pkg) : (s.modPkg n f).cycle = s.cycle := rfl
@[simp] theorem State.modPkg_uid (s : State) (n : Nat) (f : Pkg → Pkg) : (s.modPkg n f).uid = s.uid := rfl
@[simp] theorem State.modPkg_freeNo (s : State) (n : Nat) (f : Pkg → Pkg) : (s.modPkg n f).freeNo = s.freeNo := rfl
@[simp] theorem State.modPkg_agenda (s : State) (n : Nat) (f : Pkg → Pkg) : (s.modPkg n f).agenda = s.agenda := rfl
@[simp] theorem State.modPkg_phase (s : State) (n : Nat) (f : Pkg → Pkg) : (s.modPkg n f).phase = s.phase := rfl
@[simp] theorem State.modPkg_turn (s : State) (n : Nat) (f : Pkg → Pkg) : (s.modPkg n f).turn = s.turn := rfl
@[simp] theorem State.modPkg_cur (s : State) (n : Nat) (f : Pkg → Pkg) : (s.modPkg n f).cur = s.cur := rfl
@[simp] theorem State.modPkg_iss (s : State) (n : Nat) (f : Pkg → Pkg) : (s.modPkg n f).iss = s.iss := rfl
@[simp] theorem State.modPkg_ctxs (s : State) (n : Nat) (f : Pkg → Pkg) : (s.modPkg n f).ctxs = s.ctxs := rfl
@[simp] theorem State.modPkg_slots (s : State) (n : Nat) (f : Pkg → Pkg) : (s.modPkg n f).slots = s.slots := rfl
@[simp] theorem State.modPkg_nexts (s : State) (n : Nat) (f : Pkg → Pkg) : (s.modPkg n f).nexts = s.nexts := rfl
@[simp] theorem State.modPkg_cores (s : State) (n : Nat) (f : Pkg → Pkg) : (s.modPkg n f).cores = s.cores := rfl
@[simp] theorem State.modPkg_sups (s : State) (n : Nat) (f : Pkg → Pkg) : (s.modPkg n f).sups = s.sups := rfl
@[simp] theorem State.modPkg_clus (s : State) (n : Nat) (f : Pkg → Pkg) : (s.modPkg n f).clus = s.clus := rfl
@[simp] theorem State.modPkg_dies (s : State) (n : Nat) (f : Pkg → Pkg) : (s.modPkg n f).dies = s.dies := rfl
@[simp] theorem State.modPkg_reqs (s : State) (n : Nat) (f : Pkg → Pkg) : (s.modPkg n f).reqs = s.reqs := rfl
@[simp] theorem State.modPkg_heldFlits (s : State) (n : Nat) (f : Pkg → Pkg) : (s.modPkg n f).heldFlits = s.heldFlits := rfl
@[simp] theorem State.modPkg_rates (s : State) (n : Nat) (f : Pkg → Pkg) : (s.modPkg n f).rates = s.rates := rfl
@[simp] theorem State.modPkg_arbs (s : State) (n : Nat) (f : Pkg → Pkg) : (s.modPkg n f).arbs = s.arbs := rfl

@[simp] theorem State.pkg_setPkg_same (s : State) (n : Nat) (w : Pkg) : (s.setPkg n w).pkg n = w := tget_tset_same _ _ _ _
theorem State.pkg_setPkg (s : State) (n n' : Nat) (w : Pkg) :
    (s.setPkg n w).pkg n' = if n' = n then w else s.pkg n' := tget_tset _ _ _ _ _
@[simp] theorem State.pkg_modPkg_same (s : State) (n : Nat) (f : Pkg → Pkg) : (s.modPkg n f).pkg n = f (s.pkg n) :=
  tget_tset_same _ _ _ _
theorem State.pkg_modPkg (s : State) (n n' : Nat) (f : Pkg → Pkg) :
    (s.modPkg n f).pkg n' = if n' = n then f (s.pkg n) else s.pkg n' := tget_tset _ _ _ _ _
@[simp] theorem State.ctx_setPkg (s : State) (n : Nat) (w : Pkg) (a : Agent) : (s.setPkg n w).ctx a = s.ctx a := rfl
@[simp] theorem State.ctx_modPkg (s : State) (n : Nat) (f : Pkg → Pkg) (a : Agent) : (s.modPkg n f).ctx a = s.ctx a := rfl
@[simp] theorem State.slot_setPkg (s : State) (n : Nat) (w : Pkg) (i : SlotId) : (s.setPkg n w).slot i = s.slot i := rfl
@[simp] theorem State.slot_modPkg (s : State) (n : Nat) (f : Pkg → Pkg) (i : SlotId) : (s.modPkg n f).slot i = s.slot i := rfl
@[simp] theorem State.core_setPkg (s : State) (n : Nat) (w : Pkg) (c : CoreId) : (s.setPkg n w).core c = s.core c := rfl
@[simp] theorem State.core_modPkg (s : State) (n : Nat) (f : Pkg → Pkg) (c : CoreId) : (s.modPkg n f).core c = s.core c := rfl
@[simp] theorem State.sup_setPkg (s : State) (n : Nat) (w : Pkg) (v : SupId) : (s.setPkg n w).sup v = s.sup v := rfl
@[simp] theorem State.sup_modPkg (s : State) (n : Nat) (f : Pkg → Pkg) (v : SupId) : (s.modPkg n f).sup v = s.sup v := rfl
@[simp] theorem State.clu_setPkg (s : State) (n : Nat) (w : Pkg) (k : CluId) : (s.setPkg n w).clu k = s.clu k := rfl
@[simp] theorem State.clu_modPkg (s : State) (n : Nat) (f : Pkg → Pkg) (k : CluId) : (s.modPkg n f).clu k = s.clu k := rfl
@[simp] theorem State.die_setPkg (s : State) (n : Nat) (w : Pkg) (d : DieId) : (s.setPkg n w).die d = s.die d := rfl
@[simp] theorem State.die_modPkg (s : State) (n : Nat) (f : Pkg → Pkg) (d : DieId) : (s.modPkg n f).die d = s.die d := rfl

@[simp] theorem State.setArb_cycle (s : State) (c : CoreId) (k : Arb) : (s.setArb c k).cycle = s.cycle := rfl
@[simp] theorem State.setArb_uid (s : State) (c : CoreId) (k : Arb) : (s.setArb c k).uid = s.uid := rfl
@[simp] theorem State.setArb_freeNo (s : State) (c : CoreId) (k : Arb) : (s.setArb c k).freeNo = s.freeNo := rfl
@[simp] theorem State.setArb_agenda (s : State) (c : CoreId) (k : Arb) : (s.setArb c k).agenda = s.agenda := rfl
@[simp] theorem State.setArb_phase (s : State) (c : CoreId) (k : Arb) : (s.setArb c k).phase = s.phase := rfl
@[simp] theorem State.setArb_turn (s : State) (c : CoreId) (k : Arb) : (s.setArb c k).turn = s.turn := rfl
@[simp] theorem State.setArb_cur (s : State) (c : CoreId) (k : Arb) : (s.setArb c k).cur = s.cur := rfl
@[simp] theorem State.setArb_iss (s : State) (c : CoreId) (k : Arb) : (s.setArb c k).iss = s.iss := rfl
@[simp] theorem State.setArb_ctxs (s : State) (c : CoreId) (k : Arb) : (s.setArb c k).ctxs = s.ctxs := rfl
@[simp] theorem State.setArb_slots (s : State) (c : CoreId) (k : Arb) : (s.setArb c k).slots = s.slots := rfl
@[simp] theorem State.setArb_nexts (s : State) (c : CoreId) (k : Arb) : (s.setArb c k).nexts = s.nexts := rfl
@[simp] theorem State.setArb_cores (s : State) (c : CoreId) (k : Arb) : (s.setArb c k).cores = s.cores := rfl
@[simp] theorem State.setArb_sups (s : State) (c : CoreId) (k : Arb) : (s.setArb c k).sups = s.sups := rfl
@[simp] theorem State.setArb_clus (s : State) (c : CoreId) (k : Arb) : (s.setArb c k).clus = s.clus := rfl
@[simp] theorem State.setArb_dies (s : State) (c : CoreId) (k : Arb) : (s.setArb c k).dies = s.dies := rfl
@[simp] theorem State.setArb_pkgs (s : State) (c : CoreId) (k : Arb) : (s.setArb c k).pkgs = s.pkgs := rfl
@[simp] theorem State.setArb_reqs (s : State) (c : CoreId) (k : Arb) : (s.setArb c k).reqs = s.reqs := rfl
@[simp] theorem State.setArb_heldFlits (s : State) (c : CoreId) (k : Arb) : (s.setArb c k).heldFlits = s.heldFlits := rfl
@[simp] theorem State.setArb_rates (s : State) (c : CoreId) (k : Arb) : (s.setArb c k).rates = s.rates := rfl
@[simp] theorem State.ctx_setArb (s : State) (c : CoreId) (k : Arb) (j : Agent) : (s.setArb c k).ctx j = s.ctx j := rfl
@[simp] theorem State.slot_setArb (s : State) (c : CoreId) (k : Arb) (j : SlotId) : (s.setArb c k).slot j = s.slot j := rfl
@[simp] theorem State.core_setArb (s : State) (c : CoreId) (k : Arb) (j : CoreId) : (s.setArb c k).core j = s.core j := rfl
@[simp] theorem State.sup_setArb (s : State) (c : CoreId) (k : Arb) (j : SupId) : (s.setArb c k).sup j = s.sup j := rfl
@[simp] theorem State.clu_setArb (s : State) (c : CoreId) (k : Arb) (j : CluId) : (s.setArb c k).clu j = s.clu j := rfl
@[simp] theorem State.die_setArb (s : State) (c : CoreId) (k : Arb) (j : DieId) : (s.setArb c k).die j = s.die j := rfl
@[simp] theorem State.pkg_setArb (s : State) (c : CoreId) (k : Arb) (j : Nat) : (s.setArb c k).pkg j = s.pkg j := rfl

/-- The arbitration as it was set counts for the cycle that it names. -/
theorem State.arb_setArb_same (s : State) (c : CoreId) (k : Arb) (h : k.cycle = s.cycle) : (s.setArb c k).arb c = k := by
  simp [State.arb, State.setArb, h]
theorem State.arb_setArb_ne (s : State) (c d : CoreId) (k : Arb) (h : d ≠ c) : (s.setArb c k).arb d = s.arb d := by
  simp [State.arb, State.setArb, tget_tset, h]

@[simp] theorem State.schedule_cycle (s : State) (x p : Nat) (e : Event) : (s.schedule x p e).cycle = s.cycle := rfl
@[simp] theorem State.schedule_uid (s : State) (x p : Nat) (e : Event) : (s.schedule x p e).uid = s.uid := rfl
@[simp] theorem State.schedule_freeNo (s : State) (x p : Nat) (e : Event) : (s.schedule x p e).freeNo = s.freeNo := rfl
@[simp] theorem State.schedule_phase (s : State) (x p : Nat) (e : Event) : (s.schedule x p e).phase = s.phase := rfl
@[simp] theorem State.schedule_turn (s : State) (x p : Nat) (e : Event) : (s.schedule x p e).turn = s.turn := rfl
@[simp] theorem State.schedule_cur (s : State) (x p : Nat) (e : Event) : (s.schedule x p e).cur = s.cur := rfl
@[simp] theorem State.schedule_iss (s : State) (x p : Nat) (e : Event) : (s.schedule x p e).iss = s.iss := rfl
@[simp] theorem State.schedule_ctxs (s : State) (x p : Nat) (e : Event) : (s.schedule x p e).ctxs = s.ctxs := rfl
@[simp] theorem State.schedule_slots (s : State) (x p : Nat) (e : Event) : (s.schedule x p e).slots = s.slots := rfl
@[simp] theorem State.schedule_nexts (s : State) (x p : Nat) (e : Event) : (s.schedule x p e).nexts = s.nexts := rfl
@[simp] theorem State.schedule_cores (s : State) (x p : Nat) (e : Event) : (s.schedule x p e).cores = s.cores := rfl
@[simp] theorem State.schedule_sups (s : State) (x p : Nat) (e : Event) : (s.schedule x p e).sups = s.sups := rfl
@[simp] theorem State.schedule_clus (s : State) (x p : Nat) (e : Event) : (s.schedule x p e).clus = s.clus := rfl
@[simp] theorem State.schedule_dies (s : State) (x p : Nat) (e : Event) : (s.schedule x p e).dies = s.dies := rfl
@[simp] theorem State.schedule_pkgs (s : State) (x p : Nat) (e : Event) : (s.schedule x p e).pkgs = s.pkgs := rfl
@[simp] theorem State.schedule_reqs (s : State) (x p : Nat) (e : Event) : (s.schedule x p e).reqs = s.reqs := rfl
@[simp] theorem State.schedule_heldFlits (s : State) (x p : Nat) (e : Event) : (s.schedule x p e).heldFlits = s.heldFlits := rfl
@[simp] theorem State.schedule_rates (s : State) (x p : Nat) (e : Event) : (s.schedule x p e).rates = s.rates := rfl
@[simp] theorem State.schedule_arbs (s : State) (x p : Nat) (e : Event) : (s.schedule x p e).arbs = s.arbs := rfl
@[simp] theorem State.schedule_ctx (s : State) (x p : Nat) (e : Event) (j : Agent) : (s.schedule x p e).ctx j = s.ctx j := rfl
@[simp] theorem State.schedule_slot (s : State) (x p : Nat) (e : Event) (j : SlotId) : (s.schedule x p e).slot j = s.slot j := rfl
@[simp] theorem State.schedule_core (s : State) (x p : Nat) (e : Event) (j : CoreId) : (s.schedule x p e).core j = s.core j := rfl
@[simp] theorem State.schedule_sup (s : State) (x p : Nat) (e : Event) (j : SupId) : (s.schedule x p e).sup j = s.sup j := rfl
@[simp] theorem State.schedule_clu (s : State) (x p : Nat) (e : Event) (j : CluId) : (s.schedule x p e).clu j = s.clu j := rfl
@[simp] theorem State.schedule_die (s : State) (x p : Nat) (e : Event) (j : DieId) : (s.schedule x p e).die j = s.die j := rfl
@[simp] theorem State.schedule_pkg (s : State) (x p : Nat) (e : Event) (j : Nat) : (s.schedule x p e).pkg j = s.pkg j := rfl

@[simp] theorem State.tick1_cycle (s : State) : (s.tick1).cycle = s.cycle := rfl
@[simp] theorem State.tick1_freeNo (s : State) : (s.tick1).freeNo = s.freeNo := rfl
@[simp] theorem State.tick1_agenda (s : State) : (s.tick1).agenda = s.agenda := rfl
@[simp] theorem State.tick1_phase (s : State) : (s.tick1).phase = s.phase := rfl
@[simp] theorem State.tick1_turn (s : State) : (s.tick1).turn = s.turn := rfl
@[simp] theorem State.tick1_cur (s : State) : (s.tick1).cur = s.cur := rfl
@[simp] theorem State.tick1_iss (s : State) : (s.tick1).iss = s.iss := rfl
@[simp] theorem State.tick1_ctxs (s : State) : (s.tick1).ctxs = s.ctxs := rfl
@[simp] theorem State.tick1_slots (s : State) : (s.tick1).slots = s.slots := rfl
@[simp] theorem State.tick1_nexts (s : State) : (s.tick1).nexts = s.nexts := rfl
@[simp] theorem State.tick1_cores (s : State) : (s.tick1).cores = s.cores := rfl
@[simp] theorem State.tick1_sups (s : State) : (s.tick1).sups = s.sups := rfl
@[simp] theorem State.tick1_clus (s : State) : (s.tick1).clus = s.clus := rfl
@[simp] theorem State.tick1_dies (s : State) : (s.tick1).dies = s.dies := rfl
@[simp] theorem State.tick1_pkgs (s : State) : (s.tick1).pkgs = s.pkgs := rfl
@[simp] theorem State.tick1_reqs (s : State) : (s.tick1).reqs = s.reqs := rfl
@[simp] theorem State.tick1_heldFlits (s : State) : (s.tick1).heldFlits = s.heldFlits := rfl
@[simp] theorem State.tick1_rates (s : State) : (s.tick1).rates = s.rates := rfl
@[simp] theorem State.tick1_arbs (s : State) : (s.tick1).arbs = s.arbs := rfl
@[simp] theorem State.tick1_ctx (s : State) (j : Agent) : (s.tick1).ctx j = s.ctx j := rfl
@[simp] theorem State.tick1_slot (s : State) (j : SlotId) : (s.tick1).slot j = s.slot j := rfl
@[simp] theorem State.tick1_core (s : State) (j : CoreId) : (s.tick1).core j = s.core j := rfl
@[simp] theorem State.tick1_sup (s : State) (j : SupId) : (s.tick1).sup j = s.sup j := rfl
@[simp] theorem State.tick1_clu (s : State) (j : CluId) : (s.tick1).clu j = s.clu j := rfl
@[simp] theorem State.tick1_die (s : State) (j : DieId) : (s.tick1).die j = s.die j := rfl
@[simp] theorem State.tick1_pkg (s : State) (j : Nat) : (s.tick1).pkg j = s.pkg j := rfl

@[simp] theorem State.nextFree_cycle (s : State) : (s.nextFree).cycle = s.cycle := rfl
@[simp] theorem State.nextFree_uid (s : State) : (s.nextFree).uid = s.uid := rfl
@[simp] theorem State.nextFree_agenda (s : State) : (s.nextFree).agenda = s.agenda := rfl
@[simp] theorem State.nextFree_phase (s : State) : (s.nextFree).phase = s.phase := rfl
@[simp] theorem State.nextFree_turn (s : State) : (s.nextFree).turn = s.turn := rfl
@[simp] theorem State.nextFree_cur (s : State) : (s.nextFree).cur = s.cur := rfl
@[simp] theorem State.nextFree_iss (s : State) : (s.nextFree).iss = s.iss := rfl
@[simp] theorem State.nextFree_ctxs (s : State) : (s.nextFree).ctxs = s.ctxs := rfl
@[simp] theorem State.nextFree_slots (s : State) : (s.nextFree).slots = s.slots := rfl
@[simp] theorem State.nextFree_nexts (s : State) : (s.nextFree).nexts = s.nexts := rfl
@[simp] theorem State.nextFree_cores (s : State) : (s.nextFree).cores = s.cores := rfl
@[simp] theorem State.nextFree_sups (s : State) : (s.nextFree).sups = s.sups := rfl
@[simp] theorem State.nextFree_clus (s : State) : (s.nextFree).clus = s.clus := rfl
@[simp] theorem State.nextFree_dies (s : State) : (s.nextFree).dies = s.dies := rfl
@[simp] theorem State.nextFree_pkgs (s : State) : (s.nextFree).pkgs = s.pkgs := rfl
@[simp] theorem State.nextFree_reqs (s : State) : (s.nextFree).reqs = s.reqs := rfl
@[simp] theorem State.nextFree_heldFlits (s : State) : (s.nextFree).heldFlits = s.heldFlits := rfl
@[simp] theorem State.nextFree_rates (s : State) : (s.nextFree).rates = s.rates := rfl
@[simp] theorem State.nextFree_arbs (s : State) : (s.nextFree).arbs = s.arbs := rfl
@[simp] theorem State.nextFree_ctx (s : State) (j : Agent) : (s.nextFree).ctx j = s.ctx j := rfl
@[simp] theorem State.nextFree_slot (s : State) (j : SlotId) : (s.nextFree).slot j = s.slot j := rfl
@[simp] theorem State.nextFree_core (s : State) (j : CoreId) : (s.nextFree).core j = s.core j := rfl
@[simp] theorem State.nextFree_sup (s : State) (j : SupId) : (s.nextFree).sup j = s.sup j := rfl
@[simp] theorem State.nextFree_clu (s : State) (j : CluId) : (s.nextFree).clu j = s.clu j := rfl
@[simp] theorem State.nextFree_die (s : State) (j : DieId) : (s.nextFree).die j = s.die j := rfl
@[simp] theorem State.nextFree_pkg (s : State) (j : Nat) : (s.nextFree).pkg j = s.pkg j := rfl

/-! ## The registers of a context -/

@[simp] theorem Ctx.wx_v (c : Ctx) (d : BitVec 6) (w : Word) : (c.wx d w).v = c.v := by unfold Ctx.wx; split <;> rfl
@[simp] theorem Ctx.wx_p (c : Ctx) (d : BitVec 6) (w : Word) : (c.wx d w).p = c.p := by unfold Ctx.wx; split <;> rfl
@[simp] theorem Ctx.wx_td (c : Ctx) (d : BitVec 6) (w : Word) : (c.wx d w).td = c.td := by unfold Ctx.wx; split <;> rfl
@[simp] theorem Ctx.wx_rte (c : Ctx) (d : BitVec 6) (w : Word) : (c.wx d w).rte = c.rte := by unfold Ctx.wx; split <;> rfl
@[simp] theorem Ctx.wx_rs (c : Ctx) (d : BitVec 6) (w : Word) : (c.wx d w).rs = c.rs := by unfold Ctx.wx; split <;> rfl
@[simp] theorem Ctx.wx_cr (c : Ctx) (d : BitVec 6) (w : Word) : (c.wx d w).cr = c.cr := by unfold Ctx.wx; split <;> rfl
@[simp] theorem Ctx.wx_tags (c : Ctx) (d : BitVec 6) (w : Word) : (c.wx d w).tags = c.tags := by unfold Ctx.wx; split <;> rfl
@[simp] theorem Ctx.wx_island (c : Ctx) (d : BitVec 6) (w : Word) : (c.wx d w).island = c.island := by unfold Ctx.wx; split <;> rfl
@[simp] theorem Ctx.wx_pc (c : Ctx) (d : BitVec 6) (w : Word) : (c.wx d w).pc = c.pc := by unfold Ctx.wx; split <;> rfl
@[simp] theorem Ctx.wx_stageId (c : Ctx) (d : BitVec 6) (w : Word) : (c.wx d w).stageId = c.stageId := by unfold Ctx.wx; split <;> rfl
@[simp] theorem Ctx.wx_firing (c : Ctx) (d : BitVec 6) (w : Word) : (c.wx d w).firing = c.firing := by unfold Ctx.wx; split <;> rfl
@[simp] theorem Ctx.wx_budget (c : Ctx) (d : BitVec 6) (w : Word) : (c.wx d w).budget = c.budget := by unfold Ctx.wx; split <;> rfl
@[simp] theorem Ctx.wx_bank0 (c : Ctx) (d : BitVec 6) (w : Word) : (c.wx d w).bank0 = c.bank0 := by unfold Ctx.wx; split <;> rfl
@[simp] theorem Ctx.wx_bank1 (c : Ctx) (d : BitVec 6) (w : Word) : (c.wx d w).bank1 = c.bank1 := by unfold Ctx.wx; split <;> rfl
@[simp] theorem Ctx.wx_cur (c : Ctx) (d : BitVec 6) (w : Word) : (c.wx d w).cur = c.cur := by unfold Ctx.wx; split <;> rfl
@[simp] theorem Ctx.wx_refs0 (c : Ctx) (d : BitVec 6) (w : Word) : (c.wx d w).refs0 = c.refs0 := by unfold Ctx.wx; split <;> rfl
@[simp] theorem Ctx.wx_refs1 (c : Ctx) (d : BitVec 6) (w : Word) : (c.wx d w).refs1 = c.refs1 := by unfold Ctx.wx; split <;> rfl
@[simp] theorem Ctx.wx_flights (c : Ctx) (d : BitVec 6) (w : Word) : (c.wx d w).flights = c.flights := by unfold Ctx.wx; split <;> rfl
@[simp] theorem Ctx.wx_xfm (c : Ctx) (d : BitVec 6) (w : Word) : (c.wx d w).xfm = c.xfm := by unfold Ctx.wx; split <;> rfl
@[simp] theorem Ctx.wx_vlanded (c : Ctx) (d : BitVec 6) (w : Word) : (c.wx d w).vlanded = c.vlanded := by unfold Ctx.wx; split <;> rfl
@[simp] theorem Ctx.wx_vecq (c : Ctx) (d : BitVec 6) (w : Word) : (c.wx d w).vecq = c.vecq := by unfold Ctx.wx; split <;> rfl
@[simp] theorem Ctx.wx_vecFree (c : Ctx) (d : BitVec 6) (w : Word) : (c.wx d w).vecFree = c.vecFree := by unfold Ctx.wx; split <;> rfl
@[simp] theorem Ctx.wx_matFree (c : Ctx) (d : BitVec 6) (w : Word) : (c.wx d w).matFree = c.matFree := by unfold Ctx.wx; split <;> rfl
@[simp] theorem Ctx.wx_matq (c : Ctx) (d : BitVec 6) (w : Word) : (c.wx d w).matq = c.matq := by unfold Ctx.wx; split <;> rfl
@[simp] theorem Ctx.wx_issued (c : Ctx) (d : BitVec 6) (w : Word) : (c.wx d w).issued = c.issued := by unfold Ctx.wx; split <;> rfl
@[simp] theorem Ctx.wx_late (c : Ctx) (d : BitVec 6) (w : Word) : (c.wx d w).late = c.late := by unfold Ctx.wx; split <;> rfl
@[simp] theorem Ctx.wx_waited (c : Ctx) (d : BitVec 6) (w : Word) : (c.wx d w).waited = c.waited := by unfold Ctx.wx; split <;> rfl
@[simp] theorem Ctx.wx_req (c : Ctx) (d : BitVec 6) (w : Word) : (c.wx d w).req = c.req := by unfold Ctx.wx; split <;> rfl
@[simp] theorem Ctx.wx_sync (c : Ctx) (d : BitVec 6) (w : Word) : (c.wx d w).sync = c.sync := by unfold Ctx.wx; split <;> rfl
@[simp] theorem Ctx.wx_notBefore (c : Ctx) (d : BitVec 6) (w : Word) : (c.wx d w).notBefore = c.notBefore := by unfold Ctx.wx; split <;> rfl
@[simp] theorem Ctx.wx_holding (c : Ctx) (d : BitVec 6) (w : Word) : (c.wx d w).holding = c.holding := by unfold Ctx.wx; split <;> rfl
@[simp] theorem Ctx.wx_after (c : Ctx) (d : BitVec 6) (w : Word) : (c.wx d w).after = c.after := by unfold Ctx.wx; split <;> rfl
@[simp] theorem Ctx.wx_mu (c : Ctx) (d : BitVec 6) (w : Word) : (c.wx d w).mu = c.mu := by unfold Ctx.wx; split <;> rfl
@[simp] theorem Ctx.wx_walk (c : Ctx) (d : BitVec 6) (w : Word) : (c.wx d w).walk = c.walk := by unfold Ctx.wx; split <;> rfl
@[simp] theorem Ctx.wv_x (c : Ctx) (d : BitVec 5) (w : Vec) : (c.wv d w).x = c.x := rfl
@[simp] theorem Ctx.wv_p (c : Ctx) (d : BitVec 5) (w : Vec) : (c.wv d w).p = c.p := rfl
@[simp] theorem Ctx.wv_td (c : Ctx) (d : BitVec 5) (w : Vec) : (c.wv d w).td = c.td := rfl
@[simp] theorem Ctx.wv_rte (c : Ctx) (d : BitVec 5) (w : Vec) : (c.wv d w).rte = c.rte := rfl
@[simp] theorem Ctx.wv_rs (c : Ctx) (d : BitVec 5) (w : Vec) : (c.wv d w).rs = c.rs := rfl
@[simp] theorem Ctx.wv_cr (c : Ctx) (d : BitVec 5) (w : Vec) : (c.wv d w).cr = c.cr := rfl
@[simp] theorem Ctx.wv_tags (c : Ctx) (d : BitVec 5) (w : Vec) : (c.wv d w).tags = c.tags := rfl
@[simp] theorem Ctx.wv_island (c : Ctx) (d : BitVec 5) (w : Vec) : (c.wv d w).island = c.island := rfl
@[simp] theorem Ctx.wv_pc (c : Ctx) (d : BitVec 5) (w : Vec) : (c.wv d w).pc = c.pc := rfl
@[simp] theorem Ctx.wv_stageId (c : Ctx) (d : BitVec 5) (w : Vec) : (c.wv d w).stageId = c.stageId := rfl
@[simp] theorem Ctx.wv_firing (c : Ctx) (d : BitVec 5) (w : Vec) : (c.wv d w).firing = c.firing := rfl
@[simp] theorem Ctx.wv_budget (c : Ctx) (d : BitVec 5) (w : Vec) : (c.wv d w).budget = c.budget := rfl
@[simp] theorem Ctx.wv_bank0 (c : Ctx) (d : BitVec 5) (w : Vec) : (c.wv d w).bank0 = c.bank0 := rfl
@[simp] theorem Ctx.wv_bank1 (c : Ctx) (d : BitVec 5) (w : Vec) : (c.wv d w).bank1 = c.bank1 := rfl
@[simp] theorem Ctx.wv_cur (c : Ctx) (d : BitVec 5) (w : Vec) : (c.wv d w).cur = c.cur := rfl
@[simp] theorem Ctx.wv_refs0 (c : Ctx) (d : BitVec 5) (w : Vec) : (c.wv d w).refs0 = c.refs0 := rfl
@[simp] theorem Ctx.wv_refs1 (c : Ctx) (d : BitVec 5) (w : Vec) : (c.wv d w).refs1 = c.refs1 := rfl
@[simp] theorem Ctx.wv_flights (c : Ctx) (d : BitVec 5) (w : Vec) : (c.wv d w).flights = c.flights := rfl
@[simp] theorem Ctx.wv_xfm (c : Ctx) (d : BitVec 5) (w : Vec) : (c.wv d w).xfm = c.xfm := rfl
@[simp] theorem Ctx.wv_vlanded (c : Ctx) (d : BitVec 5) (w : Vec) : (c.wv d w).vlanded = c.vlanded := rfl
@[simp] theorem Ctx.wv_vecq (c : Ctx) (d : BitVec 5) (w : Vec) : (c.wv d w).vecq = c.vecq := rfl
@[simp] theorem Ctx.wv_vecFree (c : Ctx) (d : BitVec 5) (w : Vec) : (c.wv d w).vecFree = c.vecFree := rfl
@[simp] theorem Ctx.wv_matFree (c : Ctx) (d : BitVec 5) (w : Vec) : (c.wv d w).matFree = c.matFree := rfl
@[simp] theorem Ctx.wv_matq (c : Ctx) (d : BitVec 5) (w : Vec) : (c.wv d w).matq = c.matq := rfl
@[simp] theorem Ctx.wv_issued (c : Ctx) (d : BitVec 5) (w : Vec) : (c.wv d w).issued = c.issued := rfl
@[simp] theorem Ctx.wv_late (c : Ctx) (d : BitVec 5) (w : Vec) : (c.wv d w).late = c.late := rfl
@[simp] theorem Ctx.wv_waited (c : Ctx) (d : BitVec 5) (w : Vec) : (c.wv d w).waited = c.waited := rfl
@[simp] theorem Ctx.wv_req (c : Ctx) (d : BitVec 5) (w : Vec) : (c.wv d w).req = c.req := rfl
@[simp] theorem Ctx.wv_sync (c : Ctx) (d : BitVec 5) (w : Vec) : (c.wv d w).sync = c.sync := rfl
@[simp] theorem Ctx.wv_notBefore (c : Ctx) (d : BitVec 5) (w : Vec) : (c.wv d w).notBefore = c.notBefore := rfl
@[simp] theorem Ctx.wv_holding (c : Ctx) (d : BitVec 5) (w : Vec) : (c.wv d w).holding = c.holding := rfl
@[simp] theorem Ctx.wv_after (c : Ctx) (d : BitVec 5) (w : Vec) : (c.wv d w).after = c.after := rfl
@[simp] theorem Ctx.wv_mu (c : Ctx) (d : BitVec 5) (w : Vec) : (c.wv d w).mu = c.mu := rfl
@[simp] theorem Ctx.wv_walk (c : Ctx) (d : BitVec 5) (w : Vec) : (c.wv d w).walk = c.walk := rfl
@[simp] theorem Ctx.wp_x (c : Ctx) (d : BitVec 4) (b : Bool) : (c.wp d b).x = c.x := by unfold Ctx.wp; split <;> rfl
@[simp] theorem Ctx.wp_v (c : Ctx) (d : BitVec 4) (b : Bool) : (c.wp d b).v = c.v := by unfold Ctx.wp; split <;> rfl
@[simp] theorem Ctx.wp_td (c : Ctx) (d : BitVec 4) (b : Bool) : (c.wp d b).td = c.td := by unfold Ctx.wp; split <;> rfl
@[simp] theorem Ctx.wp_rte (c : Ctx) (d : BitVec 4) (b : Bool) : (c.wp d b).rte = c.rte := by unfold Ctx.wp; split <;> rfl
@[simp] theorem Ctx.wp_rs (c : Ctx) (d : BitVec 4) (b : Bool) : (c.wp d b).rs = c.rs := by unfold Ctx.wp; split <;> rfl
@[simp] theorem Ctx.wp_cr (c : Ctx) (d : BitVec 4) (b : Bool) : (c.wp d b).cr = c.cr := by unfold Ctx.wp; split <;> rfl
@[simp] theorem Ctx.wp_tags (c : Ctx) (d : BitVec 4) (b : Bool) : (c.wp d b).tags = c.tags := by unfold Ctx.wp; split <;> rfl
@[simp] theorem Ctx.wp_island (c : Ctx) (d : BitVec 4) (b : Bool) : (c.wp d b).island = c.island := by unfold Ctx.wp; split <;> rfl
@[simp] theorem Ctx.wp_pc (c : Ctx) (d : BitVec 4) (b : Bool) : (c.wp d b).pc = c.pc := by unfold Ctx.wp; split <;> rfl
@[simp] theorem Ctx.wp_stageId (c : Ctx) (d : BitVec 4) (b : Bool) : (c.wp d b).stageId = c.stageId := by unfold Ctx.wp; split <;> rfl
@[simp] theorem Ctx.wp_firing (c : Ctx) (d : BitVec 4) (b : Bool) : (c.wp d b).firing = c.firing := by unfold Ctx.wp; split <;> rfl
@[simp] theorem Ctx.wp_budget (c : Ctx) (d : BitVec 4) (b : Bool) : (c.wp d b).budget = c.budget := by unfold Ctx.wp; split <;> rfl
@[simp] theorem Ctx.wp_bank0 (c : Ctx) (d : BitVec 4) (b : Bool) : (c.wp d b).bank0 = c.bank0 := by unfold Ctx.wp; split <;> rfl
@[simp] theorem Ctx.wp_bank1 (c : Ctx) (d : BitVec 4) (b : Bool) : (c.wp d b).bank1 = c.bank1 := by unfold Ctx.wp; split <;> rfl
@[simp] theorem Ctx.wp_cur (c : Ctx) (d : BitVec 4) (b : Bool) : (c.wp d b).cur = c.cur := by unfold Ctx.wp; split <;> rfl
@[simp] theorem Ctx.wp_refs0 (c : Ctx) (d : BitVec 4) (b : Bool) : (c.wp d b).refs0 = c.refs0 := by unfold Ctx.wp; split <;> rfl
@[simp] theorem Ctx.wp_refs1 (c : Ctx) (d : BitVec 4) (b : Bool) : (c.wp d b).refs1 = c.refs1 := by unfold Ctx.wp; split <;> rfl
@[simp] theorem Ctx.wp_flights (c : Ctx) (d : BitVec 4) (b : Bool) : (c.wp d b).flights = c.flights := by unfold Ctx.wp; split <;> rfl
@[simp] theorem Ctx.wp_xfm (c : Ctx) (d : BitVec 4) (b : Bool) : (c.wp d b).xfm = c.xfm := by unfold Ctx.wp; split <;> rfl
@[simp] theorem Ctx.wp_vlanded (c : Ctx) (d : BitVec 4) (b : Bool) : (c.wp d b).vlanded = c.vlanded := by unfold Ctx.wp; split <;> rfl
@[simp] theorem Ctx.wp_vecq (c : Ctx) (d : BitVec 4) (b : Bool) : (c.wp d b).vecq = c.vecq := by unfold Ctx.wp; split <;> rfl
@[simp] theorem Ctx.wp_vecFree (c : Ctx) (d : BitVec 4) (b : Bool) : (c.wp d b).vecFree = c.vecFree := by unfold Ctx.wp; split <;> rfl
@[simp] theorem Ctx.wp_matFree (c : Ctx) (d : BitVec 4) (b : Bool) : (c.wp d b).matFree = c.matFree := by unfold Ctx.wp; split <;> rfl
@[simp] theorem Ctx.wp_matq (c : Ctx) (d : BitVec 4) (b : Bool) : (c.wp d b).matq = c.matq := by unfold Ctx.wp; split <;> rfl
@[simp] theorem Ctx.wp_issued (c : Ctx) (d : BitVec 4) (b : Bool) : (c.wp d b).issued = c.issued := by unfold Ctx.wp; split <;> rfl
@[simp] theorem Ctx.wp_late (c : Ctx) (d : BitVec 4) (b : Bool) : (c.wp d b).late = c.late := by unfold Ctx.wp; split <;> rfl
@[simp] theorem Ctx.wp_waited (c : Ctx) (d : BitVec 4) (b : Bool) : (c.wp d b).waited = c.waited := by unfold Ctx.wp; split <;> rfl
@[simp] theorem Ctx.wp_req (c : Ctx) (d : BitVec 4) (b : Bool) : (c.wp d b).req = c.req := by unfold Ctx.wp; split <;> rfl
@[simp] theorem Ctx.wp_sync (c : Ctx) (d : BitVec 4) (b : Bool) : (c.wp d b).sync = c.sync := by unfold Ctx.wp; split <;> rfl
@[simp] theorem Ctx.wp_notBefore (c : Ctx) (d : BitVec 4) (b : Bool) : (c.wp d b).notBefore = c.notBefore := by unfold Ctx.wp; split <;> rfl
@[simp] theorem Ctx.wp_holding (c : Ctx) (d : BitVec 4) (b : Bool) : (c.wp d b).holding = c.holding := by unfold Ctx.wp; split <;> rfl
@[simp] theorem Ctx.wp_after (c : Ctx) (d : BitVec 4) (b : Bool) : (c.wp d b).after = c.after := by unfold Ctx.wp; split <;> rfl
@[simp] theorem Ctx.wp_mu (c : Ctx) (d : BitVec 4) (b : Bool) : (c.wp d b).mu = c.mu := by unfold Ctx.wp; split <;> rfl
@[simp] theorem Ctx.wp_walk (c : Ctx) (d : BitVec 4) (b : Bool) : (c.wp d b).walk = c.walk := by unfold Ctx.wp; split <;> rfl
@[simp] theorem Ctx.wp_regOnce (c : Ctx) (d : BitVec 4) (b : Bool) : (c.wp d b).regOnce = c.regOnce := by unfold Ctx.wp; split <;> rfl
@[simp] theorem Ctx.modCr_x (c : Ctx) (f : CtlRegs → CtlRegs) : (c.modCr f).x = c.x := rfl
@[simp] theorem Ctx.modCr_v (c : Ctx) (f : CtlRegs → CtlRegs) : (c.modCr f).v = c.v := rfl
@[simp] theorem Ctx.modCr_p (c : Ctx) (f : CtlRegs → CtlRegs) : (c.modCr f).p = c.p := rfl
@[simp] theorem Ctx.modCr_td (c : Ctx) (f : CtlRegs → CtlRegs) : (c.modCr f).td = c.td := rfl
@[simp] theorem Ctx.modCr_rte (c : Ctx) (f : CtlRegs → CtlRegs) : (c.modCr f).rte = c.rte := rfl
@[simp] theorem Ctx.modCr_rs (c : Ctx) (f : CtlRegs → CtlRegs) : (c.modCr f).rs = c.rs := rfl
@[simp] theorem Ctx.modCr_tags (c : Ctx) (f : CtlRegs → CtlRegs) : (c.modCr f).tags = c.tags := rfl
@[simp] theorem Ctx.modCr_island (c : Ctx) (f : CtlRegs → CtlRegs) : (c.modCr f).island = c.island := rfl
@[simp] theorem Ctx.modCr_pc (c : Ctx) (f : CtlRegs → CtlRegs) : (c.modCr f).pc = c.pc := rfl
@[simp] theorem Ctx.modCr_stageId (c : Ctx) (f : CtlRegs → CtlRegs) : (c.modCr f).stageId = c.stageId := rfl
@[simp] theorem Ctx.modCr_firing (c : Ctx) (f : CtlRegs → CtlRegs) : (c.modCr f).firing = c.firing := rfl
@[simp] theorem Ctx.modCr_budget (c : Ctx) (f : CtlRegs → CtlRegs) : (c.modCr f).budget = c.budget := rfl
@[simp] theorem Ctx.modCr_bank0 (c : Ctx) (f : CtlRegs → CtlRegs) : (c.modCr f).bank0 = c.bank0 := rfl
@[simp] theorem Ctx.modCr_bank1 (c : Ctx) (f : CtlRegs → CtlRegs) : (c.modCr f).bank1 = c.bank1 := rfl
@[simp] theorem Ctx.modCr_cur (c : Ctx) (f : CtlRegs → CtlRegs) : (c.modCr f).cur = c.cur := rfl
@[simp] theorem Ctx.modCr_refs0 (c : Ctx) (f : CtlRegs → CtlRegs) : (c.modCr f).refs0 = c.refs0 := rfl
@[simp] theorem Ctx.modCr_refs1 (c : Ctx) (f : CtlRegs → CtlRegs) : (c.modCr f).refs1 = c.refs1 := rfl
@[simp] theorem Ctx.modCr_flights (c : Ctx) (f : CtlRegs → CtlRegs) : (c.modCr f).flights = c.flights := rfl
@[simp] theorem Ctx.modCr_xfm (c : Ctx) (f : CtlRegs → CtlRegs) : (c.modCr f).xfm = c.xfm := rfl
@[simp] theorem Ctx.modCr_vlanded (c : Ctx) (f : CtlRegs → CtlRegs) : (c.modCr f).vlanded = c.vlanded := rfl
@[simp] theorem Ctx.modCr_vecq (c : Ctx) (f : CtlRegs → CtlRegs) : (c.modCr f).vecq = c.vecq := rfl
@[simp] theorem Ctx.modCr_vecFree (c : Ctx) (f : CtlRegs → CtlRegs) : (c.modCr f).vecFree = c.vecFree := rfl
@[simp] theorem Ctx.modCr_matFree (c : Ctx) (f : CtlRegs → CtlRegs) : (c.modCr f).matFree = c.matFree := rfl
@[simp] theorem Ctx.modCr_matq (c : Ctx) (f : CtlRegs → CtlRegs) : (c.modCr f).matq = c.matq := rfl
@[simp] theorem Ctx.modCr_issued (c : Ctx) (f : CtlRegs → CtlRegs) : (c.modCr f).issued = c.issued := rfl
@[simp] theorem Ctx.modCr_late (c : Ctx) (f : CtlRegs → CtlRegs) : (c.modCr f).late = c.late := rfl
@[simp] theorem Ctx.modCr_waited (c : Ctx) (f : CtlRegs → CtlRegs) : (c.modCr f).waited = c.waited := rfl
@[simp] theorem Ctx.modCr_req (c : Ctx) (f : CtlRegs → CtlRegs) : (c.modCr f).req = c.req := rfl
@[simp] theorem Ctx.modCr_sync (c : Ctx) (f : CtlRegs → CtlRegs) : (c.modCr f).sync = c.sync := rfl
@[simp] theorem Ctx.modCr_notBefore (c : Ctx) (f : CtlRegs → CtlRegs) : (c.modCr f).notBefore = c.notBefore := rfl
@[simp] theorem Ctx.modCr_holding (c : Ctx) (f : CtlRegs → CtlRegs) : (c.modCr f).holding = c.holding := rfl
@[simp] theorem Ctx.modCr_after (c : Ctx) (f : CtlRegs → CtlRegs) : (c.modCr f).after = c.after := rfl
@[simp] theorem Ctx.modCr_mu (c : Ctx) (f : CtlRegs → CtlRegs) : (c.modCr f).mu = c.mu := rfl
@[simp] theorem Ctx.modCr_walk (c : Ctx) (f : CtlRegs → CtlRegs) : (c.modCr f).walk = c.walk := rfl
@[simp] theorem Ctx.modCr_regOnce (c : Ctx) (f : CtlRegs → CtlRegs) : (c.modCr f).regOnce = c.regOnce := rfl
@[simp] theorem Ctx.modCr_cr (c : Ctx) (f : CtlRegs → CtlRegs) : (c.modCr f).cr = f c.cr := rfl
@[simp] theorem Ctx.rx_zero (c : Ctx) : c.rx 0 = 0 := rfl
@[simp] theorem Ctx.wx_zero (c : Ctx) (w : Word) : c.wx 0 w = c := rfl
/-- A scalar register reads as it was last written, and `x0` reads zero (R77). -/
theorem Ctx.rx_wx (c : Ctx) (d e : BitVec 6) (w : Word) : (c.wx d w).rx e = if e = d ∧ d ≠ 0 then w else c.rx e := by
  unfold Ctx.wx Ctx.rx
  by_cases hd : d = 0
  · simp [hd]
  · by_cases he : e = 0
    · rw [if_neg hd, he, if_pos rfl, if_pos rfl, if_neg (fun h => hd h.1.symm)]
    · simp only [hd, he, ↓reduceIte, not_false_eq_true, and_true, Vector.getElem_set, ne_eq, BitVec.toNat_inj]
      simp only [eq_comm]
theorem Ctx.rv_wv (c : Ctx) (d e : BitVec 5) (w : Vec) : (c.wv d w).rv e = if e = d then w else c.rv e := by
  unfold Ctx.wv Ctx.rv
  simp only [Vector.getElem_set, BitVec.toNat_inj]
  simp only [eq_comm]
/-- A register that is written whole holds no error that a read would correct (R367). -/
theorem Ctx.regOnce_wx (c : Ctx) (d : BitVec 6) (w : Word) (h : d ≠ 0) : d.toNat ∉ (c.wx d w).regOnce := by
  rw [Ctx.wx, if_neg h]; simp
theorem Ctx.regOnce_wv (c : Ctx) (d : BitVec 5) (w : Vec) : ∀ n ∈ vecWords d, n ∉ (c.wv d w).regOnce := by
  intro n hn
  simp [Ctx.wv, hn]

end Sys2Proof.Machine
end

