-- ==== Sys2Proof/Laws/Issue.lean ====
section
/-! SUPPORT. What `issue` answers, once for every encoded instruction; the results that fly; and what a syllable that writes
registers leaves as it was. -/

namespace Sys2Proof.Machine

/-! ## The outcomes of `issue` -/

/-- A syllable never stops the machine. -/
theorem issue_next (y : Syl) (s : State) : ∃ t, issue y s = .next t := by
  unfold issue
  repeat' first
    | exact ⟨_, rfl⟩
    | split

/-- The registers that a cause reads are free where all of the syllable's are. -/
theorem early_free {s : State} {cls : Nat} {r : Regs} (h : s.busy cls r = false) (l : List (BitVec 6)) :
    s.resultBusy (r.early l) = false ∧ s.heldBusy cls (r.early l) = false := by
  have hx : ∀ d, d ∈ (r.early l).xr → d ∈ r.xr := fun d hd => (List.mem_filter.mp hd).1
  have hw : ∀ w, RegWrite.hits (r.early l) w = true → RegWrite.hits r w = true := by
    intro w; cases w <;> simp [RegWrite.hits, Regs.early] <;> tauto
  have hd : ∀ w, Dest.hits (r.early l) w = true → Dest.hits r w = true := by
    intro w; cases w <;> simp [Dest.hits, Regs.early] <;> tauto
  have hc : ∀ k, heldConflict k (r.early l) = true → heldConflict k r = true := by
    intro k; simp [heldConflict, meets, Regs.early]
    intro d h1 h2 _; left; left; left; left; left; exact ⟨d, h1, .inl h2⟩
  simp only [State.busy, Bool.or_eq_false_iff] at h
  obtain ⟨⟨⟨h1, h2⟩, -⟩, -⟩ := h
  refine ⟨?_, ?_⟩
  · rw [Bool.eq_false_iff] at h1 ⊢
    intro h; apply h1; clear h1 h2
    simp only [State.resultBusy, Bool.or_eq_true, List.any_eq_true, Bool.and_eq_true] at h ⊢
    rcases h with ⟨f, h1, h2, ⟨w, h3, h4⟩ | h3⟩ | ⟨q, h1, h2, h3⟩
    · exact .inl ⟨f, h1, h2, .inl ⟨w, h3, hw w h4⟩⟩
    · refine .inl ⟨f, h1, h2, .inr ?_⟩
      cases hq : f.access with
      | none => rw [hq] at h3; cases h3
      | some q => rw [hq] at h3; exact hd q.dest h3
    · exact .inr ⟨q, h1, h2, hd _ h3⟩
  · rw [Bool.eq_false_iff] at h2 ⊢
    intro h; apply h2; clear h1 h2
    simp only [State.heldBusy, Bool.or_eq_true, List.any_eq_true, Bool.and_eq_true] at h ⊢
    rcases h with ⟨h0, f, h1, h2, h3⟩ | ⟨h0, f, h1, h2, h3⟩
    · exact .inl ⟨h0, f, h1, h2, hc _ h3⟩
    · exact .inr ⟨h0, f, h1, h2, hc _ h3⟩

/-- A syllable that is free to act acts, on the state that it enters. -/
theorem issue_act {y : Syl} {s : State} (hp : y.priv = false ∨ isSup s.cur = true) (ht : y.typeOk = true)
    (hf : s.free y.cls y.guard y.regs = true) (hc : y.cause s = none) (hw : y.wait s = .go) :
    issue y s = .next (y.act (s.enter y.guard y.regs)) := by
  have hp' : (y.priv && !isSup s.cur) = false := by rcases hp with h | h <;> simp [h]
  simp only [State.free, Bool.and_eq_true, Bool.not_eq_true', Bool.or_eq_true, decide_eq_true_eq] at hf
  obtain ⟨⟨⟨h1, h2⟩, h3⟩, h4⟩ := hf
  have h5 : (y.cls ≠ 3 && decide (s.me.pendingTags (y.regs.vr ++ y.regs.vw) ≠ [])) = false := by
    rcases h4 with h | h <;> simp [h]
  have h5' : (decide (y.cls ≠ 3) && decide (s.me.pendingTags (y.regs.vr ++ y.regs.vw) ≠ [])) = false := by simpa using h5
  obtain ⟨e1, e2⟩ := early_free h3 y.early
  simp [issue, hp', ht, h1, h2, h3, hc, hw, e1, e2]
  intro h6
  rcases h4 with h | h
  · exact absurd h h6
  · intro h7; exact absurd h h7

/-- A supervisor instruction on a stage raises privilege violation (R96, R218). -/
theorem issue_priv {y : Syl} {s : State} (hp : y.priv = true) (hs : isSup s.cur = false) :
    issue y s = .next (s.raise 0 0x0F s.sylValue) := by simp [issue, hp, hs]

/-- A syllable whose operand types are not admitted raises illegal operand type, whatever its guard (R14, R218). -/
theorem issue_type {y : Syl} {s : State} (hp : y.priv = false ∨ isSup s.cur = true) (ht : y.typeOk = false) :
    issue y s = .next (s.raise 1 0x02 s.sylValue) := by
  have hp' : (y.priv && !isSup s.cur) = false := by rcases hp with h | h <;> simp [h]
  simp [issue, hp', ht]

/-- A syllable whose guard is 0 does nothing (R14). -/
theorem issue_off {y : Syl} {s : State} (hp : y.priv = false ∨ isSup s.cur = true) (ht : y.typeOk = true)
    (hb : s.resultBusy { pr := [y.guard] } = false) (hg : s.rp y.guard = false) : issue y s = .next (s.meetRegs s.cur [576]) := by
  have hp' : (y.priv && !isSup s.cur) = false := by rcases hp with h | h <;> simp [h]
  simp [issue, hp', ht, hb, hg]

/-- A syllable that is free but meets a cause raises it (R218). -/
theorem issue_cause {y : Syl} {s : State} {t : Nat × Word} (hp : y.priv = false ∨ isSup s.cur = true) (ht : y.typeOk = true)
    (hf : s.free y.cls y.guard y.regs = true) (hc : y.cause s = some t) : issue y s = .next (s.raise 2 t.1 t.2) := by
  have hp' : (y.priv && !isSup s.cur) = false := by rcases hp with h | h <;> simp [h]
  simp only [State.free, Bool.and_eq_true, Bool.not_eq_true', Bool.or_eq_true, decide_eq_true_eq] at hf
  obtain ⟨⟨⟨h1, h2⟩, h3⟩, h4⟩ := hf
  obtain ⟨e1, e2⟩ := early_free h3 y.early
  simp [issue, hp', ht, h1, h2, hc, e1, e2]

/-! ## Consumed tags -/

theorem Ctx.consume_visible (c : Ctx) (t : Nat) : (c.consume t).visible = c.visible := rfl

@[simp] theorem State.consumeTag_cur (s : State) (a : Agent) (t : Nat) : (s.consumeTag a t).cur = s.cur := rfl

/-- What consuming tags leaves as it was. -/
structure TagsOnly (s t : State) : Prop where
  ctxSame : ∀ a, a ≠ s.cur → t.ctx a = s.ctx a
  mine : ∃ tags after waited once, t.me = { s.me with tags := tags, after := after, waited := waited, regOnce := once } ∧
    tags.ready = s.me.tags.ready ∧
    tags.bound = s.me.tags.bound ∧ tags.vreg = s.me.tags.vreg ∧ tags.filled = s.me.tags.filled
  dieSame : ∀ d, ∃ fills queries ecc, t.die d = { s.die d with fills := fills, queries := queries, ecccnt := ecc }
  rest : ∃ ctxs dies, t = { s with ctxs := ctxs, dies := dies }

theorem TagsOnly.refl (s : State) : TagsOnly s s :=
  ⟨fun _ _ => rfl, ⟨_, _, _, _, rfl, rfl, rfl, rfl, rfl⟩, fun _ => ⟨_, _, _, rfl⟩, ⟨_, _, rfl⟩⟩

theorem TagsOnly.cur {s t : State} (h : TagsOnly s t) : t.cur = s.cur := by
  obtain ⟨_, _, _, ⟨_, _, rfl⟩⟩ := h; rfl

theorem TagsOnly.trans {s t u : State} (h : TagsOnly s t) (g : TagsOnly t u) : TagsOnly s u := by
  have hcur := h.cur
  refine ⟨fun a ha => ?_, ?_, fun d => ?_, ?_⟩
  · rw [g.ctxSame a (by rw [hcur]; exact ha), h.ctxSame a ha]
  · obtain ⟨t1, a1, w1, o1, e1, r1, b1, v1, f1⟩ := h.mine
    obtain ⟨t2, a2, w2, o2, e2, r2, b2, v2, f2⟩ := g.mine
    exact ⟨t2, a2, w2, o2, by rw [e2, e1], by rw [r2, e1, r1], by rw [b2, e1, b1], by rw [v2, e1, v1], by rw [f2, e1, f1]⟩
  · obtain ⟨f1, q1, c1, e1⟩ := h.dieSame d
    obtain ⟨f2, q2, c2, e2⟩ := g.dieSame d
    exact ⟨f2, q2, c2, by rw [e2, e1]⟩
  · obtain ⟨c1, d1, rfl⟩ := h.rest
    obtain ⟨c2, d2, rfl⟩ := g.rest
    exact ⟨c2, d2, rfl⟩

theorem freeLast_same (a : Agent) (t : Nat) (k : Die) : ∃ fills queries, freeLast a t k = { k with fills := fills, queries := queries } := by
  unfold freeLast
  split
  · exact ⟨_, _, rfl⟩
  · split <;> exact ⟨_, _, rfl⟩

theorem consumeTag_tagsOnly (s : State) (t : Nat) : TagsOnly s (s.consumeTag s.cur t) := by
  refine ⟨fun a ha => ?_, ?_, fun d => ?_, ?_⟩
  · simp [State.consumeTag, State.ctx_modCtx, ha]
  · refine ⟨(s.me.consume t).tags, (s.me.consume t).after, s.me.waited, s.me.regOnce, ?_, rfl, rfl, rfl, rfl⟩
    simp [State.me, State.consumeTag, Ctx.consume]
  · simp only [State.consumeTag, State.die_modDie]
    split
    · next h =>
        subst h
        obtain ⟨f, q, e⟩ := freeLast_same s.cur t (s.die (dieOf s.cur))
        exact ⟨f, q, (s.die (dieOf s.cur)).ecccnt, by simpa using e⟩
    · exact ⟨_, _, _, rfl⟩
  · exact ⟨_, _, rfl⟩

theorem consumeList_tagsOnly (s : State) (l : List Nat) : TagsOnly s (l.foldl (fun s t => s.consumeTag s.cur t) s) := by
  induction l generalizing s with
  | nil => exact .refl s
  | cons t r ih => exact (consumeTag_tagsOnly s t).trans (ih _)

/-- The waited tags are consumed: nothing else changes. -/
theorem consumeWaited_tagsOnly (s : State) : TagsOnly s s.consumeWaited := by
  unfold State.consumeWaited
  simp only
  split
  · exact .refl s
  · have h := consumeList_tagsOnly s s.me.waited
    refine h.trans ⟨fun a ha => ?_, ?_, fun d => ⟨_, _, _, rfl⟩, ⟨_, _, rfl⟩⟩
    · simp [State.modMe, State.ctx_modCtx, ha]
    · refine ⟨_, (State.me (s.me.waited.foldl (fun s t => s.consumeTag s.cur t) s)).after, [],
        (State.me (s.me.waited.foldl (fun s t => s.consumeTag s.cur t) s)).regOnce, ?_, rfl, rfl, rfl, rfl⟩
      simp [State.modMe, State.me]

/-- Meeting words of the register files corrects and counts, and does nothing else. -/
theorem meetRegs_tagsOnly (s : State) (ws : List Nat) : TagsOnly s (s.meetRegs s.cur ws) := by
  unfold State.meetRegs
  simp only
  split
  · exact .refl s
  · refine ⟨fun a ha => ?_, ⟨s.me.tags, s.me.after, s.me.waited, s.me.regOnce.filter (· ∉ ws), ?_, rfl, rfl, rfl, rfl⟩, fun d => ?_, ⟨_, _, rfl⟩⟩
    · simp [State.countErrors, State.ctx_modCtx, ha]
    · simp [State.countErrors, State.me]
    · simp only [State.countErrors, State.die_modDie]
      split
      · next h => subst h; exact ⟨_, _, _, rfl⟩
      · exact ⟨_, _, _, rfl⟩

/-- What a syllable that begins to act changes: tags, errors of registers and their count. -/
theorem enter_tagsOnly (s : State) (g : BitVec 4) (r : Regs) : TagsOnly s (s.enter g r) :=
  (meetRegs_tagsOnly s _).trans (consumeWaited_tagsOnly _)

section
variable (s : State) (g : BitVec 4) (r : Regs)

@[simp] theorem State.enter_cur : (s.enter g r).cur = s.cur := (enter_tagsOnly s g r).cur
@[simp] theorem State.enter_cycle : (s.enter g r).cycle = s.cycle := by
  obtain ⟨_, _, h⟩ := (enter_tagsOnly s g r).rest; rw [h]
@[simp] theorem State.enter_iss : (s.enter g r).iss = s.iss := by
  obtain ⟨_, _, h⟩ := (enter_tagsOnly s g r).rest; rw [h]
@[simp] theorem State.enter_uid : (s.enter g r).uid = s.uid := by
  obtain ⟨_, _, h⟩ := (enter_tagsOnly s g r).rest; rw [h]
@[simp] theorem State.enter_slots : (s.enter g r).slots = s.slots := by
  obtain ⟨_, _, h⟩ := (enter_tagsOnly s g r).rest; rw [h]
@[simp] theorem State.enter_cores : (s.enter g r).cores = s.cores := by
  obtain ⟨_, _, h⟩ := (enter_tagsOnly s g r).rest; rw [h]
@[simp] theorem State.enter_sups : (s.enter g r).sups = s.sups := by
  obtain ⟨_, _, h⟩ := (enter_tagsOnly s g r).rest; rw [h]
@[simp] theorem State.enter_clus : (s.enter g r).clus = s.clus := by
  obtain ⟨_, _, h⟩ := (enter_tagsOnly s g r).rest; rw [h]
@[simp] theorem State.enter_pkgs : (s.enter g r).pkgs = s.pkgs := by
  obtain ⟨_, _, h⟩ := (enter_tagsOnly s g r).rest; rw [h]
@[simp] theorem State.enter_reqs : (s.enter g r).reqs = s.reqs := by
  obtain ⟨_, _, h⟩ := (enter_tagsOnly s g r).rest; rw [h]
@[simp] theorem State.enter_slot (i : SlotId) : (s.enter g r).slot i = s.slot i := by simp [State.slot]
@[simp] theorem State.enter_core (i : CoreId) : (s.enter g r).core i = s.core i := by simp [State.core]
@[simp] theorem State.enter_sup (i : SupId) : (s.enter g r).sup i = s.sup i := by simp [State.sup]
@[simp] theorem State.enter_clu (i : CluId) : (s.enter g r).clu i = s.clu i := by simp [State.clu]
@[simp] theorem State.enter_pkg (i : Nat) : (s.enter g r).pkg i = s.pkg i := by simp [State.pkg]
theorem State.enter_others (a : Agent) (h : a ≠ s.cur) : (s.enter g r).ctx a = s.ctx a :=
  (enter_tagsOnly s g r).ctxSame a h
@[simp] theorem State.enter_rx (d : BitVec 6) : (s.enter g r).rx d = s.rx d := by
  obtain ⟨_, _, _, _, h, _⟩ := (enter_tagsOnly s g r).mine; simp [State.rx, Ctx.rx, h]
@[simp] theorem State.enter_rp (d : BitVec 4) : (s.enter g r).rp d = s.rp d := by
  obtain ⟨_, _, _, _, h, _⟩ := (enter_tagsOnly s g r).mine; simp [State.rp, Ctx.rp, h]
@[simp] theorem State.enter_rv (d : BitVec 5) : (s.enter g r).rv d = s.rv d := by
  obtain ⟨_, _, _, _, h, _⟩ := (enter_tagsOnly s g r).mine; simp [State.rv, Ctx.rvn, Ctx.rv, h]
@[simp] theorem State.enter_cr : (s.enter g r).me.cr = s.me.cr := by
  obtain ⟨_, _, _, _, h, _⟩ := (enter_tagsOnly s g r).mine; rw [h]
@[simp] theorem State.enter_island : (s.enter g r).me.island = s.me.island := by
  obtain ⟨_, _, _, _, h, _⟩ := (enter_tagsOnly s g r).mine; rw [h]
@[simp] theorem State.enter_rs : (s.enter g r).me.rs = s.me.rs := by
  obtain ⟨_, _, _, _, h, _⟩ := (enter_tagsOnly s g r).mine; rw [h]
@[simp] theorem State.enter_matq : (s.enter g r).me.matq = s.me.matq := by
  obtain ⟨_, _, _, _, h, _⟩ := (enter_tagsOnly s g r).mine; rw [h]
@[simp] theorem State.enter_vecq : (s.enter g r).me.vecq = s.me.vecq := by
  obtain ⟨_, _, _, _, h, _⟩ := (enter_tagsOnly s g r).mine; rw [h]
@[simp] theorem State.enter_flights : (s.enter g r).me.flights = s.me.flights := by
  obtain ⟨_, _, _, _, h, _⟩ := (enter_tagsOnly s g r).mine; rw [h]
@[simp] theorem State.enter_firing : (s.enter g r).me.firing = s.me.firing := by
  obtain ⟨_, _, _, _, h, _⟩ := (enter_tagsOnly s g r).mine; rw [h]
@[simp] theorem State.enter_visible : (s.enter g r).me.visible = s.me.visible := by
  obtain ⟨_, _, _, _, h, hr, hb, hv, _⟩ := (enter_tagsOnly s g r).mine
  simp [Ctx.visible, h, Tags.word, hr, hb, hv]
@[simp] theorem State.enter_gallery (d : DieId) : ((s.enter g r).die d).gallery = (s.die d).gallery := by
  obtain ⟨_, _, _, h⟩ := (enter_tagsOnly s g r).dieSame d; rw [h]
@[simp] theorem State.enter_codeStore (d : DieId) : ((s.enter g r).die d).codeStore = (s.die d).codeStore := by
  obtain ⟨_, _, _, h⟩ := (enter_tagsOnly s g r).dieSame d; rw [h]
end

/-! ## Results in flight -/

/-- The visible part after a result lands depends on the visible part before it alone. -/
theorem Flight.land_visible {c c' : Ctx} (f : Flight) (h : c.visible = c'.visible) : (f.land c).visible = (f.land c').visible := by
  have key : ∀ (ws : List RegWrite) (c c' : Ctx), c.visible = c'.visible → (applyWrites ws c).visible = (applyWrites ws c').visible := by
    intro ws
    induction ws with
    | nil => intro c c' h; exact h
    | cons w r ih =>
      intro c c' h
      apply ih
      simp only [Ctx.visible, Visible.mk.injEq] at h ⊢
      cases w <;> simp only [RegWrite.on, Ctx.wx, Ctx.wp, Ctx.wv] <;> (try split) <;> simp_all
  unfold Flight.land
  have h2 := key f.writes c c' h
  simp only [Ctx.visible, Visible.mk.injEq, Ctx.flag, Ctx.modCr] at h2 ⊢
  simp_all

theorem landing_visible (l : List Flight) {c c' : Ctx} (h : c.visible = c'.visible) :
    (l.foldl (fun c f => f.land c) c).visible = (l.foldl (fun c f => f.land c) c').visible := by
  induction l generalizing c c' with
  | nil => exact h
  | cons f r ih => exact ih (f.land_visible h)

/-- The settled context of an agent in terms of its context. -/
theorem State.settled_eq (s : State) (a : Agent) :
    s.settled a = (s.ctx a).landing.foldl (fun c f => f.land c) { s.ctx a with flights := [] } := by
  simp [State.settled, State.landAll]

/-- Entering changes nothing visible, now or once results have landed. -/
@[simp] theorem State.enter_settled (s : State) (g : BitVec 4) (r : Regs) :
    ((s.enter g r).settled s.cur).visible = (s.settled s.cur).visible := by
  have h1 : (s.enter g r).ctx s.cur = (s.enter g r).me := by simp [State.me]
  have h3 : (s.ctx s.cur).landing = (s.enter g r).me.landing := by
    simp only [Ctx.landing]; rw [State.enter_flights]; rfl
  rw [State.settled_eq, State.settled_eq, h1, h3]
  have h2 : ({ (s.enter g r).me with flights := [] } : Ctx).visible = ({ s.ctx s.cur with flights := [] } : Ctx).visible :=
    s.enter_visible g r
  exact landing_visible _ h2

/-- One bit of a field of one bit. -/
theorem putBits_one (n d v i : Nat) (hv : v < 2) : (putBits n d 1 v).testBit i = if i = d then decide (v = 1) else n.testBit i := by
  have hp : 0 < 2 ^ d := by positivity
  obtain ⟨q, r, m, hr, hm, rfl⟩ : ∃ q r m, r < 2 ∧ m < 2 ^ d ∧ n = 2 ^ d * (2 * q + r) + m :=
    ⟨n / 2 ^ d / 2, n / 2 ^ d % 2, n % 2 ^ d, Nat.mod_lt _ (by omega), Nat.mod_lt _ hp, by
      rw [Nat.div_add_mod, Nat.div_add_mod]⟩
  have e : putBits (2 ^ d * (2 * q + r) + m) d 1 v = 2 ^ d * (2 * q + v) + m := by
    have h1 : (2 ^ d * (2 * q + r) + m) / 2 ^ d % 2 = r := by
      rw [Nat.mul_add_div hp, Nat.div_eq_of_lt hm]; omega
    have h2 : v % 2 = v := Nat.mod_eq_of_lt hv
    simp only [putBits, bitsAt, Nat.pow_one, h1, h2]
    have h3 : 2 ^ d * (2 * q + r) = 2 ^ d * (2 * q) + r * 2 ^ d := by ring
    have h4 : 2 ^ d * (2 * q + v) = 2 ^ d * (2 * q) + v * 2 ^ d := by ring
    omega
  rw [e, Nat.testBit_two_pow_mul_add _ hm, Nat.testBit_two_pow_mul_add _ hm]
  rcases Nat.lt_trichotomy i d with h | h | h
  · simp [h, Nat.ne_of_lt h]
  · subst h; simp [Nat.testBit_zero]; omega
  · obtain ⟨k, rfl⟩ : ∃ k, i = d + (k + 1) := ⟨i - d - 1, by omega⟩
    have h5 : (2 * q + v) / 2 = q := by omega
    have h6 : (2 * q + r) / 2 = q := by omega
    simp [Nat.testBit_succ, h5, h6]

theorem filter_swap (l : List Nat) (f g : Nat → Bool) : (l.filter f).filter g = (l.filter g).filter f := by
  simp [List.filter_filter, Bool.and_comm]

/-- Writes of different registers may be made in either order. -/
theorem RegWrite.on_comm {w u : RegWrite} (h : w.same u = false) (c : Ctx) : w.on (u.on c) = u.on (w.on c) := by
  cases w with
  | x d a => cases u with
    | x e b =>
      simp only [RegWrite.same, decide_eq_false_iff_not] at h
      have hn : d.toNat ≠ e.toNat := fun hh => h (BitVec.eq_of_toNat_eq hh)
      simp only [RegWrite.on, Ctx.wx]
      split <;> split <;> (try rfl)
      simp only [Ctx.mk.injEq, true_and]
      exact ⟨by rw [Vector.set_comm]; omega, filter_swap _ _ _⟩
    | p e b => simp only [RegWrite.on, Ctx.wx, Ctx.wp]; split <;> split <;> simp_all
    | v e b => simp only [RegWrite.on, Ctx.wx, Ctx.wv]; split <;> first | rfl | simp only [filter_swap _ (fun x => decide (x ≠ _))]
  | p d a => cases u with
    | x e b => simp only [RegWrite.on, Ctx.wx, Ctx.wp]; split <;> split <;> simp_all
    | p e b =>
      simp only [RegWrite.same, decide_eq_false_iff_not] at h
      have hn : d.toNat ≠ e.toNat := fun hh => h (BitVec.eq_of_toNat_eq hh)
      simp only [RegWrite.on, Ctx.wp]
      split <;> split <;> simp_all
      apply BitVec.eq_of_getLsbD_eq
      intro i hi
      have hb : ∀ b : Bool, bit b < 2 := by intro b; cases b <;> decide
      have h16 : (65536 : Nat) = 2 ^ 16 := rfl
      simp only [BitVec.getLsbD_ofNat, hi, decide_true, Bool.true_and]
      rw [putBits_one _ _ _ _ (hb _), putBits_one _ _ _ _ (hb _), h16, Nat.testBit_mod_two_pow, Nat.testBit_mod_two_pow,
        putBits_one _ _ _ _ (hb _), putBits_one _ _ _ _ (hb _)]
      simp only [hi, decide_true, Bool.true_and]
      split <;> split <;> simp_all
    | v e b => simp only [RegWrite.on, Ctx.wp, Ctx.wv]; split <;> simp_all
  | v d a => cases u with
    | x e b => simp only [RegWrite.on, Ctx.wx, Ctx.wv]; split <;> first | rfl | simp only [filter_swap _ (fun x => decide (x ≠ _))]
    | p e b => simp only [RegWrite.on, Ctx.wp, Ctx.wv]; split <;> simp_all
    | v e b =>
      simp only [RegWrite.same, decide_eq_false_iff_not] at h
      have hn : d.toNat ≠ e.toNat := fun hh => h (BitVec.eq_of_toNat_eq hh)
      simp only [RegWrite.on, Ctx.wv, Ctx.mk.injEq, true_and]
      exact ⟨by rw [Vector.set_comm]; omega, filter_swap _ _ _⟩

theorem RegWrite.on_flag (w : RegWrite) (c : Ctx) (f : BitVec 6) : w.on (c.flag f) = (w.on c).flag f := by
  cases w <;> simp only [RegWrite.on, Ctx.wx, Ctx.wp, Ctx.wv, Ctx.flag, Ctx.modCr] <;> (try split) <;> rfl

theorem applyWrites_flag (ws : List RegWrite) (c : Ctx) (f : BitVec 6) : applyWrites ws (c.flag f) = (applyWrites ws c).flag f := by
  induction ws generalizing c with
  | nil => rfl
  | cons w r ih => simp only [applyWrites, List.foldl_cons] at ih ⊢; rw [RegWrite.on_flag, ih]

theorem RegWrite.on_applyWrites {w : RegWrite} {ws : List RegWrite} (h : ws.all (fun u => !w.same u) = true) (c : Ctx) :
    w.on (applyWrites ws c) = applyWrites ws (w.on c) := by
  induction ws generalizing c with
  | nil => rfl
  | cons u r ih =>
    simp only [List.all_cons, Bool.and_eq_true, Bool.not_eq_true'] at h
    simp only [applyWrites, List.foldl_cons] at ih ⊢
    rw [ih h.2, RegWrite.on_comm h.1]

theorem applyWrites_comm {vs ws : List RegWrite} (h : vs.all (fun w => ws.all (fun u => !w.same u)) = true) (c : Ctx) :
    applyWrites vs (applyWrites ws c) = applyWrites ws (applyWrites vs c) := by
  induction vs generalizing c with
  | nil => rfl
  | cons w r ih =>
    simp only [List.all_cons, Bool.and_eq_true] at h
    have e : ∀ c, applyWrites (w :: r) c = applyWrites r (w.on c) := fun _ => rfl
    rw [e, e, RegWrite.on_applyWrites h.1, ih h.2]

/-- Results of different registers may land in either order. -/
theorem Flight.land_comm {f g : Flight} (h : g.writes.all (fun w => f.writes.all (fun u => !w.same u)) = true) (c : Ctx) :
    g.land (f.land c) = f.land (g.land c) := by
  have e : ∀ c : Ctx, (c.flag f.flags).flag g.flags = (c.flag g.flags).flag f.flags := by
    intro c
    simp only [Ctx.flag, Ctx.modCr, Ctx.mk.injEq, CtlRegs.mk.injEq, true_and, and_true]
    rw [BitVec.or_assoc, BitVec.or_assoc, BitVec.or_comm f.flags]
  unfold Flight.land
  rw [applyWrites_flag, applyWrites_flag, applyWrites_comm h, e]

theorem insertFlight_split (f : Flight) (l : List Flight) : ∃ a b, l = a ++ b ∧ insertFlight f l = a ++ f :: b := by
  induction l with
  | nil => exact ⟨[], [], rfl, rfl⟩
  | cons g r ih =>
    unfold insertFlight
    split
    · obtain ⟨a, b, h1, h2⟩ := ih
      exact ⟨g :: a, b, by rw [h1]; rfl, by rw [h2]; rfl⟩
    · exact ⟨[], g :: r, rfl, rfl⟩

theorem insertFlight_mem {f g : Flight} {l : List Flight} (h : g ∈ insertFlight f l) : g = f ∨ g ∈ l := by
  obtain ⟨a, b, rfl, h2⟩ := insertFlight_split f l
  rw [h2] at h; simp at h ⊢; tauto

theorem landing_mem {c : Ctx} {g : Flight} (h : g ∈ c.landing) : g ∈ c.flights := by
  have key : ∀ (l acc : List Flight), g ∈ l.foldl (fun l f => insertFlight f l) acc → g ∈ acc ∨ g ∈ l := by
    intro l
    induction l with
    | nil => intro acc h; exact .inl h
    | cons f r ih =>
      intro acc h
      rcases ih _ h with h | h
      · rcases insertFlight_mem h with rfl | h
        · exact .inr (by simp)
        · exact .inl h
      · exact .inr (by simp [h])
  simpa using key _ _ h

/-- A result put in flight lands whatever else is in flight for other registers. -/
theorem State.settled_fly {s : State} {src : Src} {lat : Nat} {ws : List RegWrite} {fl : BitVec 6} (h : s.clear ws = true) :
    (s.fly s.cur src lat ws fl none).settled s.cur = (applyWrites ws (s.settled s.cur)).flag fl := by
  let f : Flight := { id := s.uid, due := s.cycle + lat, src := src, writes := ws, flags := fl, access := none }
  have e : ((s.fly s.cur src lat ws fl none).ctx s.cur) = { s.ctx s.cur with flights := (s.ctx s.cur).flights ++ [f] } := by
    simp [State.fly, State.flyAs, f]
  have el : (Ctx.landing { s.ctx s.cur with flights := (s.ctx s.cur).flights ++ [f] }) = insertFlight f (s.ctx s.cur).landing := by
    simp [Ctx.landing]
  rw [State.settled_eq, State.settled_eq, e, el]
  obtain ⟨a, b, h1, h2⟩ := insertFlight_split f (s.ctx s.cur).landing
  have hb : ∀ g ∈ b, g.writes.all (fun w => f.writes.all (fun u => !w.same u)) = true := by
    intro g hg
    have hm : g ∈ (s.ctx s.cur).flights := landing_mem (by rw [h1]; simp [hg])
    simp only [State.clear, List.all_eq_true] at h ⊢
    exact h g hm
  have key : ∀ (b : List Flight), (∀ g ∈ b, g.writes.all (fun w => f.writes.all (fun u => !w.same u)) = true) → ∀ c : Ctx,
      b.foldl (fun c f => f.land c) (f.land c) = f.land (b.foldl (fun c f => f.land c) c) := by
    intro b
    induction b with
    | nil => intro _ c; rfl
    | cons g r ih =>
      intro hb c
      simp only [List.foldl_cons]
      rw [Flight.land_comm (hb g (by simp)), ih (fun g' hg' => hb g' (by simp [hg']))]
  rw [h2, List.foldl_append, List.foldl_cons, key b hb, h1, List.foldl_append]
  rfl

/-- The bytes that entering leaves. -/
theorem enter_bytes (s : State) (g : BitVec 4) (r : Regs) : SameBytes s (s.enter g r) where
  homes h a := by cases h <;> simp [State.homeMem]
  banks x a := by cases x <;> simp [State.banks]
  own x a := by cases x <;> simp [State.localMem, State.banks, State.pendingStores]
  windows c a := by simp
  supWindows v a := by simp
  codes d a := by simp
  hosts p a := by simp

/-- What entering keeps. -/
theorem enter_kept (s : State) (g : BitVec 4) (r : Regs) : Kept s (s.enter g r) where
  others a h := s.enter_others g r a h
  slots := by simp
  cores := by simp
  sups := by simp
  clus := by simp
  pkgs := by simp
  reqs := by simp
  bytes := enter_bytes s g r

/-- A state that differs in one agent's context, the agenda and the identities alone keeps everything else. -/
theorem kept_of_own {s t : State} (ho : ∀ a, a ≠ s.cur → t.ctx a = s.ctx a) (h1 : t.slots = s.slots) (h2 : t.cores = s.cores)
    (h3 : t.sups = s.sups) (h4 : t.clus = s.clus) (h5 : t.pkgs = s.pkgs) (h6 : t.reqs = s.reqs) (h7 : t.dies = s.dies) :
    Kept s t := by
  refine ⟨ho, h1, h2, h3, h4, h5, h6, ?_⟩
  refine ⟨fun h a => ?_, fun g a => ?_, fun g a => ?_, ?_, ?_, ?_, ?_⟩
  · cases h <;> simp [State.homeMem, State.core, State.die, h2, h7]
  · cases g <;> simp [State.banks, State.core, State.sup, h2, h3]
  · cases g <;> simp [State.localMem, State.banks, State.pendingStores, State.core, State.sup, h2, h3]
  · intro c a; simp [State.core, h2]
  · intro v a; simp [State.sup, h3]
  · intro d a; simp [State.die, h7]
  · intro p a; simp [State.pkg, h5]

theorem SameBytes.trans {s t u : State} (h : SameBytes s t) (g : SameBytes t u) : SameBytes s u where
  homes x a := (g.homes x a).trans (h.homes x a)
  banks x a := (g.banks x a).trans (h.banks x a)
  own x a := (g.own x a).trans (h.own x a)
  windows x a := (g.windows x a).trans (h.windows x a)
  supWindows x a := (g.supWindows x a).trans (h.supWindows x a)
  codes x a := (g.codes x a).trans (h.codes x a)
  hosts x a := (g.hosts x a).trans (h.hosts x a)

theorem Kept.trans {s t u : State} (h : Kept s t) (g : Kept t u) (hc : t.cur = s.cur) : Kept s u where
  others a ha := (g.others a (by rw [hc]; exact ha)).trans (h.others a ha)
  slots := g.slots.trans h.slots
  cores := g.cores.trans h.cores
  sups := g.sups.trans h.sups
  clus := g.clus.trans h.clus
  pkgs := g.pkgs.trans h.pkgs
  reqs := g.reqs.trans h.reqs
  bytes := h.bytes.trans g.bytes

theorem kept_fly (s : State) (src : Src) (lat : Nat) (ws : List RegWrite) (fl : BitVec 6) (ac : Option PortAccess) :
    Kept s (s.fly s.cur src lat ws fl ac) :=
  kept_of_own (fun a h => by simp [State.fly, State.flyAs, State.ctx_modCtx, h]) rfl rfl rfl rfl rfl rfl rfl

/-- A syllable that is free, meets no cause and no wait, and puts one result in flight, writes its registers and keeps all
else. -/
theorem writes_of_fly {i : Instr} {s : State} {y : Syl} {src : Src} {lat : Nat} {ws : List RegWrite} {fl : BitVec 6}
    (h : exec i s = issue y s) (hp : y.priv = false ∨ isSup s.cur = true) (ht : y.typeOk = true)
    (hf : s.free y.cls y.guard y.regs = true) (hc : y.cause s = none) (hw : y.wait s = .go)
    (ha : y.act (s.enter y.guard y.regs) = (s.enter y.guard y.regs).fly s.cur src lat ws fl none) : Writes i s ws fl := by
  refine ⟨_, by rw [h, issue_act hp ht hf hc hw, ha], ?_, ?_⟩
  · intro hcl
    have hcl' : (s.enter y.guard y.regs).clear ws = true := by simpa [State.clear] using hcl
    have e := State.settled_fly (src := src) (lat := lat) (fl := fl) hcl'
    rw [State.enter_cur] at e
    rw [e]
    have hv := s.enter_settled y.guard y.regs
    have := Flight.land_visible { id := 0, due := 0, src := src, writes := ws, flags := fl, access := none } hv
    simpa [Flight.land] using this
  · have k := kept_fly (s.enter y.guard y.regs) src lat ws fl none
    rw [State.enter_cur] at k
    exact (enter_kept s y.guard y.regs).trans k (by simp)

/-- A syllable that is free and changes nothing but where issue goes on. -/
theorem goes_plain {i : Instr} {s : State} {y : Syl} {n : Int} {k : Nat} (h : exec i s = issue y s) 
    (hp : y.priv = false ∨ isSup s.cur = true) (ht : y.typeOk = true) (hf : s.free y.cls y.guard y.regs = true) (hc : y.cause s = none) (hw : y.wait s = .go)
    (ha : y.act (s.enter y.guard y.regs) = { (s.enter y.guard y.regs) with iss := { s.iss with next := n, taken := k } }) : Goes i s n k id := by
  refine ⟨_, by rw [h, issue_act hp ht hf hc hw, ha], rfl, ?_, ?_, ?_⟩
  · have := s.enter_visible y.guard y.regs
    simpa [State.me, State.ctx] using this
  · have := s.enter_flights y.guard y.regs
    simpa [State.me, State.ctx] using this
  · have k0 := enter_kept s y.guard y.regs
    refine k0.trans (kept_of_own (fun _ _ => rfl) rfl rfl rfl rfl rfl rfl rfl) (by simp)

/-- A syllable that is free, changes its own context by `g`, and says where issue goes on. -/
theorem goes_mod {i : Instr} {s : State} {y : Syl} {n : Int} {k : Nat} {f g : Ctx → Ctx} (h : exec i s = issue y s) 
    (hp : y.priv = false ∨ isSup s.cur = true) (ht : y.typeOk = true) (hf : s.free y.cls y.guard y.regs = true) (hc : y.cause s = none) (hw : y.wait s = .go)
    (ha : y.act (s.enter y.guard y.regs) = { (s.enter y.guard y.regs).modMe g with iss := { s.iss with next := n, taken := k } })
    (hg : (g (s.enter y.guard y.regs).me).visible = (f s.me).visible) (hl : (g (s.enter y.guard y.regs).me).flights = (s.enter y.guard y.regs).me.flights) : Goes i s n k f := by
  refine ⟨_, by rw [h, issue_act hp ht hf hc hw, ha], rfl, ?_, ?_, ?_⟩
  · rw [← hg]; simp [State.ctx, State.modMe, State.modCtx, State.setCtx, State.me]
  · rw [← s.enter_flights y.guard y.regs, ← hl]; simp [State.ctx, State.modMe, State.modCtx, State.setCtx, State.me]
  · have k0 := enter_kept s y.guard y.regs
    refine k0.trans (kept_of_own (fun a h => ?_) rfl rfl rfl rfl rfl rfl rfl) (by simp)
    simp [State.ctx, State.modMe, State.modCtx, State.setCtx]; rw [tget_tset_ne]
    simpa using h

end Sys2Proof.Machine
end

