-- ==== Sys2Proof/Laws/PerInstr.lean ====
section
/-! SUPPORT. What the words of every instruction are, one lemma for each constructor: a syllable of an assigned class with its `S`
bit clear, then words that are EXT immediates (R10, R11, R27); a row without an encoding has none. -/

namespace Sys2Proof.Laws.Encoding

open Sys2Proof

/-- The first word of an instruction is a syllable of a class below 6 whose stop bit is clear, and each word behind it fits the 28
bits of an EXT immediate. -/
def Statement (i : Instr) : Prop :=
  (∀ w, i.fieldsOf.head? = some w → w / 2 ^ 28 < 6) ∧ ∀ e ∈ i.fieldsOf.tail, e < 2 ^ 28

theorem opnd_field {n : Nat} (o : Opnd n) : o.field < 2 ^ n := by
  cases o with
  | fld v => exact v.isLt
  | ext1 e => exact Nat.two_pow_pos n
  | ext2 e f => exact Nat.two_pow_pos n

theorem opnd_exts {n : Nat} (o : Opnd n) : ∀ e ∈ o.exts, e < 2 ^ 28 := by
  cases o with
  | fld v => simp [Opnd.exts]
  | ext1 e => simpa [Opnd.exts] using e.isLt
  | ext2 e f => simpa [Opnd.exts] using ⟨e.isLt, f.isLt⟩

theorem statement_of {i : Instr} {w : Nat} {es : List Nat} (h : i.fieldsOf = w :: es) (hw : w / 2 ^ 28 < 6)
    (he : ∀ e ∈ es, e < 2 ^ 28) : Statement i := by
  constructor
  · intro v hv; rw [h] at hv; simp at hv; omega
  · rw [h]; exact he

theorem statement_none {i : Instr} (h : i.fieldsOf = []) : Statement i := by
  constructor
  · intro v hv; rw [h] at hv; simp at hv
  · rw [h]; simp

theorem nop (p : BitVec 4) : Statement (.nop p) :=
  statement_of rfl (by simp only [syl]; have := p.isLt; omega) (by simp)
theorem endFiring (p : BitVec 4) : Statement (.endFiring p) :=
  statement_of rfl (by simp only [syl]; have := p.isLt; omega) (by simp)
theorem br (p : BitVec 4) (d : BitVec 18) : Statement (.br p d) :=
  statement_of rfl (by simp only [syl]; have := p.isLt; have := d.isLt; omega) (by simp)
theorem brR (p : BitVec 4) (a : BitVec 6) : Statement (.brR p a) :=
  statement_of rfl (by simp only [syl]; have := p.isLt; have := a.isLt; omega) (by simp)
theorem brT (p q1 q2 q3 q4 : BitVec 4) (n : BitVec 2) (t1 t2 t3 t4 : BitVec 14) : Statement (.brT p q1 q2 q3 q4 n t1 t2 t3 t4) :=
  statement_of rfl (by simp only [syl]; have := p.isLt; have := q1.isLt; have := q2.isLt; have := q3.isLt; have := q4.isLt; have := n.isLt; have := t1.isLt; have := t2.isLt; have := t3.isLt; have := t4.isLt; omega) (by intro e he; simp at he; have := t1.isLt; have := t2.isLt; have := t3.isLt; have := t4.isLt; omega)
theorem call (p : BitVec 4) (d : BitVec 18) : Statement (.call p d) :=
  statement_of rfl (by simp only [syl]; have := p.isLt; have := d.isLt; omega) (by simp)
theorem callR (p : BitVec 4) (a : BitVec 6) : Statement (.callR p a) :=
  statement_of rfl (by simp only [syl]; have := p.isLt; have := a.isLt; omega) (by simp)
theorem ret (p : BitVec 4) : Statement (.ret p) :=
  statement_of rfl (by simp only [syl]; have := p.isLt; omega) (by simp)
theorem loop (p : BitVec 4) (c : BitVec 6) (d : BitVec 12) : Statement (.loop p c d) :=
  statement_of rfl (by simp only [syl]; have := p.isLt; have := c.isLt; have := d.isLt; omega) (by simp)
theorem loopR (p : BitVec 4) (d : BitVec 18) : Statement (.loopR p d) :=
  statement_of rfl (by simp only [syl]; have := p.isLt; have := d.isLt; omega) (by simp)
theorem setlc (p : BitVec 4) (e a : BitVec 6) (i : Opnd 6) : Statement (.setlc p e a i) :=
  statement_of rfl (by simp only [syl]; have := p.isLt; have := e.isLt; have := a.isLt; have := opnd_field i; omega) (opnd_exts i)
theorem take (p : BitVec 4) (d h : BitVec 6) (n : BitVec 3) : Statement (.take p d h n) :=
  statement_of rfl (by simp only [syl]; have := p.isLt; have := d.isLt; have := h.isLt; have := n.isLt; omega) (by simp)
theorem emit (p : BitVec 4) (d a : BitVec 6) (n : BitVec 3) (k w : BitVec 1) : Statement (.emit p d a n k w) :=
  statement_of rfl (by simp only [syl]; have := p.isLt; have := d.isLt; have := a.isLt; have := n.isLt; have := k.isLt; have := w.isLt; omega) (by simp)
theorem mark (p : BitVec 4) (n : BitVec 3) (l e : BitVec 1) : Statement (.mark p n l e) :=
  statement_of rfl (by simp only [syl]; have := p.isLt; have := n.isLt; have := l.isLt; have := e.isLt; omega) (by simp)
theorem peek (p : BitVec 4) (d a : BitVec 6) (n m : BitVec 3) : Statement (.peek p d a n m) :=
  statement_of rfl (by simp only [syl]; have := p.isLt; have := d.isLt; have := a.isLt; have := n.isLt; have := m.isLt; omega) (by simp)
theorem wtag (p t : BitVec 4) : Statement (.wtag p t) :=
  statement_of rfl (by simp only [syl]; have := p.isLt; have := t.isLt; omega) (by simp)
theorem trap (p : BitVec 4) (i : Opnd 6) : Statement (.trap p i) :=
  statement_of rfl (by simp only [syl]; have := p.isLt; have := opnd_field i; omega) (opnd_exts i)
theorem mfcr (p : BitVec 4) (d x : BitVec 6) : Statement (.mfcr p d x) :=
  statement_of rfl (by simp only [syl]; have := p.isLt; have := d.isLt; have := x.isLt; omega) (by simp)
theorem mtcr (p : BitVec 4) (x a : BitVec 6) : Statement (.mtcr p x a) :=
  statement_of rfl (by simp only [syl]; have := p.isLt; have := x.isLt; have := a.isLt; omega) (by simp)
theorem rft (p : BitVec 4) : Statement (.rft p) :=
  statement_of rfl (by simp only [syl]; have := p.isLt; omega) (by simp)
theorem halt (p : BitVec 4) : Statement (.halt p) :=
  statement_of rfl (by simp only [syl]; have := p.isLt; omega) (by simp)
theorem cfgNext (p : BitVec 4) (a : BitVec 6) : Statement (.cfgNext p a) :=
  statement_of rfl (by simp only [syl]; have := p.isLt; have := a.isLt; omega) (by simp)
theorem add (p : BitVec 4) (d a b : BitVec 6) : Statement (.add p d a b) :=
  statement_of rfl (by simp only [syl]; have := p.isLt; have := d.isLt; have := a.isLt; have := b.isLt; omega) (by simp)
theorem sub (p : BitVec 4) (d a b : BitVec 6) : Statement (.sub p d a b) :=
  statement_of rfl (by simp only [syl]; have := p.isLt; have := d.isLt; have := a.isLt; have := b.isLt; omega) (by simp)
theorem mul (p : BitVec 4) (d a b : BitVec 6) : Statement (.mul p d a b) :=
  statement_of rfl (by simp only [syl]; have := p.isLt; have := d.isLt; have := a.isLt; have := b.isLt; omega) (by simp)
theorem mulh (p : BitVec 4) (d a b : BitVec 6) : Statement (.mulh p d a b) :=
  statement_of rfl (by simp only [syl]; have := p.isLt; have := d.isLt; have := a.isLt; have := b.isLt; omega) (by simp)
theorem div (p : BitVec 4) (d a b : BitVec 6) : Statement (.div p d a b) :=
  statement_of rfl (by simp only [syl]; have := p.isLt; have := d.isLt; have := a.isLt; have := b.isLt; omega) (by simp)
theorem divN (p : BitVec 4) (d a b : BitVec 6) : Statement (.divN p d a b) :=
  statement_of rfl (by simp only [syl]; have := p.isLt; have := d.isLt; have := a.isLt; have := b.isLt; omega) (by simp)
theorem rem (p : BitVec 4) (d a b : BitVec 6) : Statement (.rem p d a b) :=
  statement_of rfl (by simp only [syl]; have := p.isLt; have := d.isLt; have := a.isLt; have := b.isLt; omega) (by simp)
theorem and (p : BitVec 4) (d a b : BitVec 6) : Statement (.and p d a b) :=
  statement_of rfl (by simp only [syl]; have := p.isLt; have := d.isLt; have := a.isLt; have := b.isLt; omega) (by simp)
theorem or (p : BitVec 4) (d a b : BitVec 6) : Statement (.or p d a b) :=
  statement_of rfl (by simp only [syl]; have := p.isLt; have := d.isLt; have := a.isLt; have := b.isLt; omega) (by simp)
theorem xor (p : BitVec 4) (d a b : BitVec 6) : Statement (.xor p d a b) :=
  statement_of rfl (by simp only [syl]; have := p.isLt; have := d.isLt; have := a.isLt; have := b.isLt; omega) (by simp)
theorem andn (p : BitVec 4) (d a b : BitVec 6) : Statement (.andn p d a b) :=
  statement_of rfl (by simp only [syl]; have := p.isLt; have := d.isLt; have := a.isLt; have := b.isLt; omega) (by simp)
theorem shl (p : BitVec 4) (d a b : BitVec 6) : Statement (.shl p d a b) :=
  statement_of rfl (by simp only [syl]; have := p.isLt; have := d.isLt; have := a.isLt; have := b.isLt; omega) (by simp)
theorem shr (p : BitVec 4) (d a b : BitVec 6) : Statement (.shr p d a b) :=
  statement_of rfl (by simp only [syl]; have := p.isLt; have := d.isLt; have := a.isLt; have := b.isLt; omega) (by simp)
theorem sar (p : BitVec 4) (d a b : BitVec 6) : Statement (.sar p d a b) :=
  statement_of rfl (by simp only [syl]; have := p.isLt; have := d.isLt; have := a.isLt; have := b.isLt; omega) (by simp)
theorem min (p : BitVec 4) (d a b : BitVec 6) : Statement (.min p d a b) :=
  statement_of rfl (by simp only [syl]; have := p.isLt; have := d.isLt; have := a.isLt; have := b.isLt; omega) (by simp)
theorem max (p : BitVec 4) (d a b : BitVec 6) : Statement (.max p d a b) :=
  statement_of rfl (by simp only [syl]; have := p.isLt; have := d.isLt; have := a.isLt; have := b.isLt; omega) (by simp)
theorem minN (p : BitVec 4) (d a b : BitVec 6) : Statement (.minN p d a b) :=
  statement_of rfl (by simp only [syl]; have := p.isLt; have := d.isLt; have := a.isLt; have := b.isLt; omega) (by simp)
theorem maxN (p : BitVec 4) (d a b : BitVec 6) : Statement (.maxN p d a b) :=
  statement_of rfl (by simp only [syl]; have := p.isLt; have := d.isLt; have := a.isLt; have := b.isLt; omega) (by simp)
theorem addi (p : BitVec 4) (d a : BitVec 6) (i : Opnd 6) : Statement (.addi p d a i) :=
  statement_of rfl (by simp only [syl]; have := p.isLt; have := d.isLt; have := a.isLt; have := opnd_field i; omega) (opnd_exts i)
theorem andi (p : BitVec 4) (d a : BitVec 6) (i : Opnd 6) : Statement (.andi p d a i) :=
  statement_of rfl (by simp only [syl]; have := p.isLt; have := d.isLt; have := a.isLt; have := opnd_field i; omega) (opnd_exts i)
theorem ori (p : BitVec 4) (d a : BitVec 6) (i : Opnd 6) : Statement (.ori p d a i) :=
  statement_of rfl (by simp only [syl]; have := p.isLt; have := d.isLt; have := a.isLt; have := opnd_field i; omega) (opnd_exts i)
theorem xori (p : BitVec 4) (d a : BitVec 6) (i : Opnd 6) : Statement (.xori p d a i) :=
  statement_of rfl (by simp only [syl]; have := p.isLt; have := d.isLt; have := a.isLt; have := opnd_field i; omega) (opnd_exts i)
theorem shli (p : BitVec 4) (d a i : BitVec 6) : Statement (.shli p d a i) :=
  statement_of rfl (by simp only [syl]; have := p.isLt; have := d.isLt; have := a.isLt; have := i.isLt; omega) (by simp)
theorem shri (p : BitVec 4) (d a i : BitVec 6) : Statement (.shri p d a i) :=
  statement_of rfl (by simp only [syl]; have := p.isLt; have := d.isLt; have := a.isLt; have := i.isLt; omega) (by simp)
theorem sari (p : BitVec 4) (d a i : BitVec 6) : Statement (.sari p d a i) :=
  statement_of rfl (by simp only [syl]; have := p.isLt; have := d.isLt; have := a.isLt; have := i.isLt; omega) (by simp)
theorem li (p : BitVec 4) (d : BitVec 6) (i : Opnd 6) : Statement (.li p d i) :=
  statement_of rfl (by simp only [syl]; have := p.isLt; have := d.isLt; have := opnd_field i; omega) (opnd_exts i)
theorem sel (q : BitVec 4) (d a b : BitVec 6) : Statement (.sel q d a b) :=
  statement_of rfl (by simp only [syl]; have := q.isLt; have := d.isLt; have := a.isLt; have := b.isLt; omega) (by simp)
theorem clz (p : BitVec 4) (d a : BitVec 6) : Statement (.clz p d a) :=
  statement_of rfl (by simp only [syl]; have := p.isLt; have := d.isLt; have := a.isLt; omega) (by simp)
theorem ctz (p : BitVec 4) (d a : BitVec 6) : Statement (.ctz p d a) :=
  statement_of rfl (by simp only [syl]; have := p.isLt; have := d.isLt; have := a.isLt; omega) (by simp)
theorem popc (p : BitVec 4) (d a : BitVec 6) : Statement (.popc p d a) :=
  statement_of rfl (by simp only [syl]; have := p.isLt; have := d.isLt; have := a.isLt; omega) (by simp)
theorem extract (p : BitVec 4) (d a b : BitVec 6) : Statement (.extract p d a b) :=
  statement_of rfl (by simp only [syl]; have := p.isLt; have := d.isLt; have := a.isLt; have := b.isLt; omega) (by simp)
theorem extractN (p : BitVec 4) (d a b : BitVec 6) : Statement (.extractN p d a b) :=
  statement_of rfl (by simp only [syl]; have := p.isLt; have := d.isLt; have := a.isLt; have := b.isLt; omega) (by simp)
theorem insert (p : BitVec 4) (d a b : BitVec 6) : Statement (.insert p d a b) :=
  statement_of rfl (by simp only [syl]; have := p.isLt; have := d.isLt; have := a.isLt; have := b.isLt; omega) (by simp)
theorem unpk (p : BitVec 4) (d a b : BitVec 6) : Statement (.unpk p d a b) :=
  statement_of rfl (by simp only [syl]; have := p.isLt; have := d.isLt; have := a.isLt; have := b.isLt; omega) (by simp)
theorem packb (p : BitVec 4) (d a b : BitVec 6) : Statement (.packb p d a b) :=
  statement_of rfl (by simp only [syl]; have := p.isLt; have := d.isLt; have := a.isLt; have := b.isLt; omega) (by simp)
theorem lut (p : BitVec 4) (d a b : BitVec 6) : Statement (.lut p d a b) :=
  statement_of rfl (by simp only [syl]; have := p.isLt; have := d.isLt; have := a.isLt; have := b.isLt; omega) (by simp)
theorem cmpEq (p q : BitVec 4) (m : BitVec 2) (a b : BitVec 6) : Statement (.cmpEq p q m a b) :=
  statement_of rfl (by simp only [syl]; have := p.isLt; have := q.isLt; have := m.isLt; have := a.isLt; have := b.isLt; omega) (by simp)
theorem cmpNe (p q : BitVec 4) (m : BitVec 2) (a b : BitVec 6) : Statement (.cmpNe p q m a b) :=
  statement_of rfl (by simp only [syl]; have := p.isLt; have := q.isLt; have := m.isLt; have := a.isLt; have := b.isLt; omega) (by simp)
theorem cmpLt (p q : BitVec 4) (m : BitVec 2) (a b : BitVec 6) : Statement (.cmpLt p q m a b) :=
  statement_of rfl (by simp only [syl]; have := p.isLt; have := q.isLt; have := m.isLt; have := a.isLt; have := b.isLt; omega) (by simp)
theorem cmpGe (p q : BitVec 4) (m : BitVec 2) (a b : BitVec 6) : Statement (.cmpGe p q m a b) :=
  statement_of rfl (by simp only [syl]; have := p.isLt; have := q.isLt; have := m.isLt; have := a.isLt; have := b.isLt; omega) (by simp)
theorem cmpLtn (p q : BitVec 4) (m : BitVec 2) (a b : BitVec 6) : Statement (.cmpLtn p q m a b) :=
  statement_of rfl (by simp only [syl]; have := p.isLt; have := q.isLt; have := m.isLt; have := a.isLt; have := b.isLt; omega) (by simp)
theorem cmpGen (p q : BitVec 4) (m : BitVec 2) (a b : BitVec 6) : Statement (.cmpGen p q m a b) :=
  statement_of rfl (by simp only [syl]; have := p.isLt; have := q.isLt; have := m.isLt; have := a.isLt; have := b.isLt; omega) (by simp)
theorem cmpiEq (p q : BitVec 4) (m : BitVec 2) (a : BitVec 6) (i : Opnd 6) : Statement (.cmpiEq p q m a i) :=
  statement_of rfl (by simp only [syl]; have := p.isLt; have := q.isLt; have := m.isLt; have := a.isLt; have := opnd_field i; omega) (opnd_exts i)
theorem cmpiLt (p q : BitVec 4) (m : BitVec 2) (a : BitVec 6) (i : Opnd 6) : Statement (.cmpiLt p q m a i) :=
  statement_of rfl (by simp only [syl]; have := p.isLt; have := q.isLt; have := m.isLt; have := a.isLt; have := opnd_field i; omega) (opnd_exts i)
theorem cmpiGe (p q : BitVec 4) (m : BitVec 2) (a : BitVec 6) (i : Opnd 6) : Statement (.cmpiGe p q m a i) :=
  statement_of rfl (by simp only [syl]; have := p.isLt; have := q.isLt; have := m.isLt; have := a.isLt; have := opnd_field i; omega) (opnd_exts i)
theorem pand (p q : BitVec 4) (m : BitVec 2) (n : BitVec 1) (a : BitVec 4) (k : BitVec 1) (b : BitVec 4) : Statement (.pand p q m n a k b) :=
  statement_of rfl (by simp only [syl]; have := p.isLt; have := q.isLt; have := m.isLt; have := n.isLt; have := a.isLt; have := k.isLt; have := b.isLt; omega) (by simp)
theorem por (p q : BitVec 4) (m : BitVec 2) (n : BitVec 1) (a : BitVec 4) (k : BitVec 1) (b : BitVec 4) : Statement (.por p q m n a k b) :=
  statement_of rfl (by simp only [syl]; have := p.isLt; have := q.isLt; have := m.isLt; have := n.isLt; have := a.isLt; have := k.isLt; have := b.isLt; omega) (by simp)
theorem pxor (p q : BitVec 4) (m : BitVec 2) (n : BitVec 1) (a : BitVec 4) (k : BitVec 1) (b : BitVec 4) : Statement (.pxor p q m n a k b) :=
  statement_of rfl (by simp only [syl]; have := p.isLt; have := q.isLt; have := m.isLt; have := n.isLt; have := a.isLt; have := k.isLt; have := b.isLt; omega) (by simp)
theorem faddS (p : BitVec 4) (d a : BitVec 6) (b : Opnd 6) : Statement (.faddS p d a b) :=
  statement_of rfl (by simp only [syl]; have := p.isLt; have := d.isLt; have := a.isLt; have := opnd_field b; omega) (opnd_exts b)
theorem faddD (p : BitVec 4) (d a : BitVec 6) (b : Opnd 6) : Statement (.faddD p d a b) :=
  statement_of rfl (by simp only [syl]; have := p.isLt; have := d.isLt; have := a.isLt; have := opnd_field b; omega) (opnd_exts b)
theorem fmulS (p : BitVec 4) (d a : BitVec 6) (b : Opnd 6) : Statement (.fmulS p d a b) :=
  statement_of rfl (by simp only [syl]; have := p.isLt; have := d.isLt; have := a.isLt; have := opnd_field b; omega) (opnd_exts b)
theorem fmulD (p : BitVec 4) (d a : BitVec 6) (b : Opnd 6) : Statement (.fmulD p d a b) :=
  statement_of rfl (by simp only [syl]; have := p.isLt; have := d.isLt; have := a.isLt; have := opnd_field b; omega) (opnd_exts b)
theorem ffmaS (p : BitVec 4) (d a : BitVec 6) (b : Opnd 6) : Statement (.ffmaS p d a b) :=
  statement_of rfl (by simp only [syl]; have := p.isLt; have := d.isLt; have := a.isLt; have := opnd_field b; omega) (opnd_exts b)
theorem ffmaD (p : BitVec 4) (d a : BitVec 6) (b : Opnd 6) : Statement (.ffmaD p d a b) :=
  statement_of rfl (by simp only [syl]; have := p.isLt; have := d.isLt; have := a.isLt; have := opnd_field b; omega) (opnd_exts b)
theorem fminS (p : BitVec 4) (d a : BitVec 6) (b : Opnd 6) : Statement (.fminS p d a b) :=
  statement_of rfl (by simp only [syl]; have := p.isLt; have := d.isLt; have := a.isLt; have := opnd_field b; omega) (opnd_exts b)
theorem fmaxS (p : BitVec 4) (d a : BitVec 6) (b : Opnd 6) : Statement (.fmaxS p d a b) :=
  statement_of rfl (by simp only [syl]; have := p.isLt; have := d.isLt; have := a.isLt; have := opnd_field b; omega) (opnd_exts b)
theorem fcmpLt (p q : BitVec 4) (m : BitVec 2) (a : BitVec 6) (b : Opnd 6) : Statement (.fcmpLt p q m a b) :=
  statement_of rfl (by simp only [syl]; have := p.isLt; have := q.isLt; have := m.isLt; have := a.isLt; have := opnd_field b; omega) (opnd_exts b)
theorem fcmpEq (p q : BitVec 4) (m : BitVec 2) (a : BitVec 6) (b : Opnd 6) : Statement (.fcmpEq p q m a b) :=
  statement_of rfl (by simp only [syl]; have := p.isLt; have := q.isLt; have := m.isLt; have := a.isLt; have := opnd_field b; omega) (opnd_exts b)
theorem fcvt (p : BitVec 4) (d a c : BitVec 6) : Statement (.fcvt p d a c) :=
  statement_of rfl (by simp only [syl]; have := p.isLt; have := d.isLt; have := a.isLt; have := c.isLt; omega) (by simp)
theorem fdivS (p : BitVec 4) (d a b : BitVec 6) : Statement (.fdivS p d a b) :=
  statement_of rfl (by simp only [syl]; have := p.isLt; have := d.isLt; have := a.isLt; have := b.isLt; omega) (by simp)
theorem fsqrtS (p : BitVec 4) (d a : BitVec 6) : Statement (.fsqrtS p d a) :=
  statement_of rfl (by simp only [syl]; have := p.isLt; have := d.isLt; have := a.isLt; omega) (by simp)
theorem rng (p : BitVec 4) (d : BitVec 6) : Statement (.rng p d) :=
  statement_of rfl (by simp only [syl]; have := p.isLt; have := d.isLt; omega) (by simp)
theorem mulhN (p : BitVec 4) (d a b : BitVec 6) : Statement (.mulhN p d a b) :=
  statement_of rfl (by simp only [syl]; have := p.isLt; have := d.isLt; have := a.isLt; have := b.isLt; omega) (by simp)
theorem ldL (p : BitVec 4) (d a : BitVec 6) (z : BitVec 2) (i : Opnd 4) : Statement (.ldL p d a z i) :=
  statement_of rfl (by simp only [syl]; have := p.isLt; have := d.isLt; have := a.isLt; have := z.isLt; have := opnd_field i; omega) (opnd_exts i)
theorem ldsL (p : BitVec 4) (d a : BitVec 6) (z : BitVec 2) (i : Opnd 4) : Statement (.ldsL p d a z i) :=
  statement_of rfl (by simp only [syl]; have := p.isLt; have := d.isLt; have := a.isLt; have := z.isLt; have := opnd_field i; omega) (opnd_exts i)
theorem stL (p : BitVec 4) (d a : BitVec 6) (z : BitVec 2) (i : Opnd 4) : Statement (.stL p d a z i) :=
  statement_of rfl (by simp only [syl]; have := p.isLt; have := d.isLt; have := a.isLt; have := z.isLt; have := opnd_field i; omega) (opnd_exts i)
theorem vldL (p : BitVec 4) (v : BitVec 5) (a : BitVec 6) (i : Opnd 4) : Statement (.vldL p v a i) :=
  statement_of rfl (by simp only [syl]; have := p.isLt; have := v.isLt; have := a.isLt; have := opnd_field i; omega) (opnd_exts i)
theorem vstL (p : BitVec 4) (v : BitVec 5) (a : BitVec 6) (i : Opnd 4) : Statement (.vstL p v a i) :=
  statement_of rfl (by simp only [syl]; have := p.isLt; have := v.isLt; have := a.isLt; have := opnd_field i; omega) (opnd_exts i)
theorem ldLf (p : BitVec 4) (d a : BitVec 6) (z : BitVec 2) (i : Opnd 4) : Statement (.ldLf p d a z i) :=
  statement_of rfl (by simp only [syl]; have := p.isLt; have := d.isLt; have := a.isLt; have := z.isLt; have := opnd_field i; omega) (opnd_exts i)
theorem ldLfc (p : BitVec 4) (d a : BitVec 6) (z : BitVec 2) (i : Opnd 4) : Statement (.ldLfc p d a z i) :=
  statement_of rfl (by simp only [syl]; have := p.isLt; have := d.isLt; have := a.isLt; have := z.isLt; have := opnd_field i; omega) (opnd_exts i)
theorem stLf (p : BitVec 4) (d a : BitVec 6) (z : BitVec 2) (i : Opnd 4) : Statement (.stLf p d a z i) :=
  statement_of rfl (by simp only [syl]; have := p.isLt; have := d.isLt; have := a.isLt; have := z.isLt; have := opnd_field i; omega) (opnd_exts i)
theorem stLe (p : BitVec 4) (d a : BitVec 6) (z : BitVec 2) (i : Opnd 4) : Statement (.stLe p d a z i) :=
  statement_of rfl (by simp only [syl]; have := p.isLt; have := d.isLt; have := a.isLt; have := z.isLt; have := opnd_field i; omega) (opnd_exts i)
theorem amoL (p : BitVec 4) (d a : BitVec 6) (o : BitVec 4) (z : BitVec 2) : Statement (.amoL p d a o z) :=
  statement_of rfl (by simp only [syl]; have := p.isLt; have := d.isLt; have := a.isLt; have := o.isLt; have := z.isLt; omega) (by simp)
theorem ldC (p : BitVec 4) (d a : BitVec 6) (z : BitVec 2) (i : Opnd 4) : Statement (.ldC p d a z i) :=
  statement_of rfl (by simp only [syl]; have := p.isLt; have := d.isLt; have := a.isLt; have := z.isLt; have := opnd_field i; omega) (opnd_exts i)
theorem ldsC (p : BitVec 4) (d a : BitVec 6) (z : BitVec 2) (i : Opnd 4) : Statement (.ldsC p d a z i) :=
  statement_of rfl (by simp only [syl]; have := p.isLt; have := d.isLt; have := a.isLt; have := z.isLt; have := opnd_field i; omega) (opnd_exts i)
theorem stC (p : BitVec 4) (d a : BitVec 6) (z : BitVec 2) (i : Opnd 4) : Statement (.stC p d a z i) :=
  statement_of rfl (by simp only [syl]; have := p.isLt; have := d.isLt; have := a.isLt; have := z.isLt; have := opnd_field i; omega) (opnd_exts i)
theorem vldC (p : BitVec 4) (v : BitVec 5) (a : BitVec 6) (i : Opnd 4) : Statement (.vldC p v a i) :=
  statement_of rfl (by simp only [syl]; have := p.isLt; have := v.isLt; have := a.isLt; have := opnd_field i; omega) (opnd_exts i)
theorem vstC (p : BitVec 4) (v : BitVec 5) (a : BitVec 6) (i : Opnd 4) : Statement (.vstC p v a i) :=
  statement_of rfl (by simp only [syl]; have := p.isLt; have := v.isLt; have := a.isLt; have := opnd_field i; omega) (opnd_exts i)
theorem mcst (p : BitVec 4) (v : BitVec 5) (a : BitVec 6) (i : Opnd 4) : Statement (.mcst p v a i) :=
  statement_of rfl (by simp only [syl]; have := p.isLt; have := v.isLt; have := a.isLt; have := opnd_field i; omega) (opnd_exts i)
theorem ldG (p : BitVec 4) (d a : BitVec 6) (z : BitVec 2) (i : Opnd 4) : Statement (.ldG p d a z i) :=
  statement_of rfl (by simp only [syl]; have := p.isLt; have := d.isLt; have := a.isLt; have := z.isLt; have := opnd_field i; omega) (opnd_exts i)
theorem ldsG (p : BitVec 4) (d a : BitVec 6) (z : BitVec 2) (i : Opnd 4) : Statement (.ldsG p d a z i) :=
  statement_of rfl (by simp only [syl]; have := p.isLt; have := d.isLt; have := a.isLt; have := z.isLt; have := opnd_field i; omega) (opnd_exts i)
theorem stG (p : BitVec 4) (d a : BitVec 6) (z : BitVec 2) (i : Opnd 4) : Statement (.stG p d a z i) :=
  statement_of rfl (by simp only [syl]; have := p.isLt; have := d.isLt; have := a.isLt; have := z.isLt; have := opnd_field i; omega) (opnd_exts i)
theorem vldG (p : BitVec 4) (v : BitVec 5) (a : BitVec 6) (i : Opnd 4) : Statement (.vldG p v a i) :=
  statement_of rfl (by simp only [syl]; have := p.isLt; have := v.isLt; have := a.isLt; have := opnd_field i; omega) (opnd_exts i)
theorem vstG (p : BitVec 4) (v : BitVec 5) (a : BitVec 6) (i : Opnd 4) : Statement (.vstG p v a i) :=
  statement_of rfl (by simp only [syl]; have := p.isLt; have := v.isLt; have := a.isLt; have := opnd_field i; omega) (opnd_exts i)
theorem amoG (p : BitVec 4) (d a : BitVec 6) (o : BitVec 4) (z : BitVec 2) : Statement (.amoG p d a o z) :=
  statement_of rfl (by simp only [syl]; have := p.isLt; have := d.isLt; have := a.isLt; have := o.isLt; have := z.isLt; omega) (by simp)
theorem casG (p : BitVec 4) (d a b : BitVec 6) : Statement (.casG p d a b) :=
  statement_of rfl (by simp only [syl]; have := p.isLt; have := d.isLt; have := a.isLt; have := b.isLt; omega) (by simp)
theorem ldN (p : BitVec 4) (d a : BitVec 6) (z : BitVec 2) (i : Opnd 4) : Statement (.ldN p d a z i) :=
  statement_of rfl (by simp only [syl]; have := p.isLt; have := d.isLt; have := a.isLt; have := z.isLt; have := opnd_field i; omega) (opnd_exts i)
theorem ldsN (p : BitVec 4) (d a : BitVec 6) (z : BitVec 2) (i : Opnd 4) : Statement (.ldsN p d a z i) :=
  statement_of rfl (by simp only [syl]; have := p.isLt; have := d.isLt; have := a.isLt; have := z.isLt; have := opnd_field i; omega) (opnd_exts i)
theorem stN (p : BitVec 4) (d a : BitVec 6) (z : BitVec 2) (i : Opnd 4) : Statement (.stN p d a z i) :=
  statement_of rfl (by simp only [syl]; have := p.isLt; have := d.isLt; have := a.isLt; have := z.isLt; have := opnd_field i; omega) (opnd_exts i)
theorem vldN (p : BitVec 4) (v : BitVec 5) (a : BitVec 6) (i : Opnd 4) : Statement (.vldN p v a i) :=
  statement_of rfl (by simp only [syl]; have := p.isLt; have := v.isLt; have := a.isLt; have := opnd_field i; omega) (opnd_exts i)
theorem vstN (p : BitVec 4) (v : BitVec 5) (a : BitVec 6) (i : Opnd 4) : Statement (.vstN p v a i) :=
  statement_of rfl (by simp only [syl]; have := p.isLt; have := v.isLt; have := a.isLt; have := opnd_field i; omega) (opnd_exts i)
theorem amoN (p : BitVec 4) (d a : BitVec 6) (o : BitVec 4) (z : BitVec 2) : Statement (.amoN p d a o z) :=
  statement_of rfl (by simp only [syl]; have := p.isLt; have := d.isLt; have := a.isLt; have := o.isLt; have := z.isLt; omega) (by simp)
theorem casN (p : BitVec 4) (d a b : BitVec 6) : Statement (.casN p d a b) :=
  statement_of rfl (by simp only [syl]; have := p.isLt; have := d.isLt; have := a.isLt; have := b.isLt; omega) (by simp)
theorem gathVector (p : BitVec 4) (v d : BitVec 5) (t : BitVec 4) : Statement (.gathVector p v d t) :=
  statement_of rfl (by simp only [syl]; have := p.isLt; have := v.isLt; have := d.isLt; have := t.isLt; omega) (by simp)
theorem gathTile (p : BitVec 4) (k : BitVec 3) (d : BitVec 5) : Statement (.gathTile p k d) :=
  statement_of rfl (by simp only [syl]; have := p.isLt; have := k.isLt; have := d.isLt; omega) (by simp)
theorem sqNew (p : BitVec 4) (d a : BitVec 6) : Statement (.sqNew p d a) :=
  statement_of rfl (by simp only [syl]; have := p.isLt; have := d.isLt; have := a.isLt; omega) (by simp)
theorem sqRes (p : BitVec 4) (d h n : BitVec 6) : Statement (.sqRes p d h n) :=
  statement_of rfl (by simp only [syl]; have := p.isLt; have := d.isLt; have := h.isLt; have := n.isLt; omega) (by simp)
theorem sqCom (p : BitVec 4) (f h n : BitVec 6) : Statement (.sqCom p f h n) :=
  statement_of rfl (by simp only [syl]; have := p.isLt; have := f.isLt; have := h.isLt; have := n.isLt; omega) (by simp)
theorem sqLen (p : BitVec 4) (d h q : BitVec 6) : Statement (.sqLen p d h q) :=
  statement_of rfl (by simp only [syl]; have := p.isLt; have := d.isLt; have := h.isLt; have := q.isLt; omega) (by simp)
theorem sqFork (p : BitVec 4) (d h : BitVec 6) : Statement (.sqFork p d h) :=
  statement_of rfl (by simp only [syl]; have := p.isLt; have := d.isLt; have := h.isLt; omega) (by simp)
theorem sqDrop (p : BitVec 4) (h : BitVec 6) : Statement (.sqDrop p h) :=
  statement_of rfl (by simp only [syl]; have := p.isLt; have := h.isLt; omega) (by simp)
theorem sqGath (p : BitVec 4) (m : BitVec 2) (t : BitVec 3) (d : BitVec 5) (b : BitVec 6) : Statement (.sqGath p m t d b) :=
  statement_of rfl (by simp only [syl]; have := p.isLt; have := m.isLt; have := t.isLt; have := d.isLt; have := b.isLt; omega) (by simp)
theorem sqPre (p : BitVec 4) (r h b : BitVec 6) : Statement (.sqPre p r h b) :=
  statement_of rfl (by simp only [syl]; have := p.isLt; have := r.isLt; have := h.isLt; have := b.isLt; omega) (by simp)
theorem plReq (p : BitVec 4) (d a : BitVec 6) : Statement (.plReq p d a) :=
  statement_of rfl (by simp only [syl]; have := p.isLt; have := d.isLt; have := a.isLt; omega) (by simp)
theorem plRsp (p : BitVec 4) (v : BitVec 5) (q : BitVec 6) (t : BitVec 4) : Statement (.plRsp p v q t) :=
  statement_of rfl (by simp only [syl]; have := p.isLt; have := v.isLt; have := q.isLt; have := t.isLt; omega) (by simp)
theorem phReg (p : BitVec 4) (d : BitVec 6) (m : BitVec 2) (h : BitVec 4) : Statement (.phReg p d m h) :=
  statement_of rfl (by simp only [syl]; have := p.isLt; have := d.isLt; have := m.isLt; have := h.isLt; omega) (by simp)
theorem phDrop (p h : BitVec 4) : Statement (.phDrop p h) :=
  statement_of rfl (by simp only [syl]; have := p.isLt; have := h.isLt; omega) (by simp)
theorem phSig (p h : BitVec 4) : Statement (.phSig p h) :=
  statement_of rfl (by simp only [syl]; have := p.isLt; have := h.isLt; omega) (by simp)
theorem phWait (p : BitVec 4) (d : BitVec 6) (h : BitVec 4) : Statement (.phWait p d h) :=
  statement_of rfl (by simp only [syl]; have := p.isLt; have := d.isLt; have := h.isLt; omega) (by simp)
theorem phAdv (p : BitVec 4) (d : BitVec 6) (h : BitVec 4) : Statement (.phAdv p d h) :=
  statement_of rfl (by simp only [syl]; have := p.isLt; have := d.isLt; have := h.isLt; omega) (by simp)
theorem clBar (p : BitVec 4) (d : BitVec 6) : Statement (.clBar p d) :=
  statement_of rfl (by simp only [syl]; have := p.isLt; have := d.isLt; omega) (by simp)
theorem wcnt (p : BitVec 4) (c : BitVec 1) (b : BitVec 6) : Statement (.wcnt p c b) :=
  statement_of rfl (by simp only [syl]; have := p.isLt; have := c.isLt; have := b.isLt; omega) (by simp)
theorem fence (p : BitVec 4) (g : BitVec 3) (q r : BitVec 1) : Statement (.fence p g q r) :=
  statement_of rfl (by simp only [syl]; have := p.isLt; have := g.isLt; have := q.isLt; have := r.isLt; omega) (by simp)
theorem waita (p : BitVec 4) (d : BitVec 6) (f : BitVec 1) (a : BitVec 5) (b : BitVec 6) : Statement (.waita p d f a b) :=
  statement_of rfl (by simp only [syl]; have := p.isLt; have := d.isLt; have := f.isLt; have := a.isLt; have := b.isLt; omega) (by simp)
theorem ownAcq (p : BitVec 4) (d a : BitVec 6) (x : BitVec 1) : Statement (.ownAcq p d a x) :=
  statement_of rfl (by simp only [syl]; have := p.isLt; have := d.isLt; have := a.isLt; have := x.isLt; omega) (by simp)
theorem ownRel (p : BitVec 4) (a : BitVec 6) : Statement (.ownRel p a) :=
  statement_of rfl (by simp only [syl]; have := p.isLt; have := a.isLt; omega) (by simp)
theorem dig (p : BitVec 4) (d a : BitVec 6) : Statement (.dig p d a) :=
  statement_of rfl (by simp only [syl]; have := p.isLt; have := d.isLt; have := a.isLt; omega) (by simp)
theorem vadd (p : BitVec 4) (t : BitVec 3) (d a : BitVec 5) (b : Opnd 5) : Statement (.vadd p t d a b) :=
  statement_of rfl (by simp only [syl]; have := p.isLt; have := t.isLt; have := d.isLt; have := a.isLt; have := opnd_field b; omega) (opnd_exts b)
theorem vsub (p : BitVec 4) (t : BitVec 3) (d a : BitVec 5) (b : Opnd 5) : Statement (.vsub p t d a b) :=
  statement_of rfl (by simp only [syl]; have := p.isLt; have := t.isLt; have := d.isLt; have := a.isLt; have := opnd_field b; omega) (opnd_exts b)
theorem vmul (p : BitVec 4) (t : BitVec 3) (d a : BitVec 5) (b : Opnd 5) : Statement (.vmul p t d a b) :=
  statement_of rfl (by simp only [syl]; have := p.isLt; have := t.isLt; have := d.isLt; have := a.isLt; have := opnd_field b; omega) (opnd_exts b)
theorem vfma (p : BitVec 4) (t : BitVec 3) (d a : BitVec 5) (b : Opnd 5) : Statement (.vfma p t d a b) :=
  statement_of rfl (by simp only [syl]; have := p.isLt; have := t.isLt; have := d.isLt; have := a.isLt; have := opnd_field b; omega) (opnd_exts b)
theorem vmin (p : BitVec 4) (t : BitVec 3) (d a : BitVec 5) (b : Opnd 5) : Statement (.vmin p t d a b) :=
  statement_of rfl (by simp only [syl]; have := p.isLt; have := t.isLt; have := d.isLt; have := a.isLt; have := opnd_field b; omega) (opnd_exts b)
theorem vmax (p : BitVec 4) (t : BitVec 3) (d a : BitVec 5) (b : Opnd 5) : Statement (.vmax p t d a b) :=
  statement_of rfl (by simp only [syl]; have := p.isLt; have := t.isLt; have := d.isLt; have := a.isLt; have := opnd_field b; omega) (opnd_exts b)
theorem vand (p : BitVec 4) (t : BitVec 3) (d a : BitVec 5) (b : Opnd 5) : Statement (.vand p t d a b) :=
  statement_of rfl (by simp only [syl]; have := p.isLt; have := t.isLt; have := d.isLt; have := a.isLt; have := opnd_field b; omega) (opnd_exts b)
theorem vor (p : BitVec 4) (t : BitVec 3) (d a : BitVec 5) (b : Opnd 5) : Statement (.vor p t d a b) :=
  statement_of rfl (by simp only [syl]; have := p.isLt; have := t.isLt; have := d.isLt; have := a.isLt; have := opnd_field b; omega) (opnd_exts b)
theorem vxor (p : BitVec 4) (t : BitVec 3) (d a : BitVec 5) (b : Opnd 5) : Statement (.vxor p t d a b) :=
  statement_of rfl (by simp only [syl]; have := p.isLt; have := t.isLt; have := d.isLt; have := a.isLt; have := opnd_field b; omega) (opnd_exts b)
theorem vshl (p : BitVec 4) (t : BitVec 3) (d a : BitVec 5) (b : Opnd 5) : Statement (.vshl p t d a b) :=
  statement_of rfl (by simp only [syl]; have := p.isLt; have := t.isLt; have := d.isLt; have := a.isLt; have := opnd_field b; omega) (opnd_exts b)
theorem vshr (p : BitVec 4) (t : BitVec 3) (d a : BitVec 5) (b : Opnd 5) : Statement (.vshr p t d a b) :=
  statement_of rfl (by simp only [syl]; have := p.isLt; have := t.isLt; have := d.isLt; have := a.isLt; have := opnd_field b; omega) (opnd_exts b)
theorem vsar (p : BitVec 4) (t : BitVec 3) (d a : BitVec 5) (b : Opnd 5) : Statement (.vsar p t d a b) :=
  statement_of rfl (by simp only [syl]; have := p.isLt; have := t.isLt; have := d.isLt; have := a.isLt; have := opnd_field b; omega) (opnd_exts b)
theorem vabs (p : BitVec 4) (t : BitVec 3) (d a : BitVec 5) : Statement (.vabs p t d a) :=
  statement_of rfl (by simp only [syl]; have := p.isLt; have := t.isLt; have := d.isLt; have := a.isLt; omega) (by simp)
theorem vneg (p : BitVec 4) (t : BitVec 3) (d a : BitVec 5) : Statement (.vneg p t d a) :=
  statement_of rfl (by simp only [syl]; have := p.isLt; have := t.isLt; have := d.isLt; have := a.isLt; omega) (by simp)
theorem vcvt (p : BitVec 4) (t : BitVec 3) (d a : BitVec 5) (k : BitVec 2) (g : BitVec 3) : Statement (.vcvt p t d a k g) :=
  statement_of rfl (by simp only [syl]; have := p.isLt; have := t.isLt; have := d.isLt; have := a.isLt; have := k.isLt; have := g.isLt; omega) (by simp)
theorem vcmpEq (p : BitVec 4) (t : BitVec 3) (d a : BitVec 5) (b : Opnd 5) : Statement (.vcmpEq p t d a b) :=
  statement_of rfl (by simp only [syl]; have := p.isLt; have := t.isLt; have := d.isLt; have := a.isLt; have := opnd_field b; omega) (opnd_exts b)
theorem vcmpLt (p : BitVec 4) (t : BitVec 3) (d a : BitVec 5) (b : Opnd 5) : Statement (.vcmpLt p t d a b) :=
  statement_of rfl (by simp only [syl]; have := p.isLt; have := t.isLt; have := d.isLt; have := a.isLt; have := opnd_field b; omega) (opnd_exts b)
theorem vcmpLe (p : BitVec 4) (t : BitVec 3) (d a : BitVec 5) (b : Opnd 5) : Statement (.vcmpLe p t d a b) :=
  statement_of rfl (by simp only [syl]; have := p.isLt; have := t.isLt; have := d.isLt; have := a.isLt; have := opnd_field b; omega) (opnd_exts b)
theorem vsel (p : BitVec 4) (t : BitVec 3) (d a b : BitVec 5) : Statement (.vsel p t d a b) :=
  statement_of rfl (by simp only [syl]; have := p.isLt; have := t.isLt; have := d.isLt; have := a.isLt; have := b.isLt; omega) (by simp)
theorem vbcast (p : BitVec 4) (t : BitVec 3) (d a : BitVec 5) : Statement (.vbcast p t d a) :=
  statement_of rfl (by simp only [syl]; have := p.isLt; have := t.isLt; have := d.isLt; have := a.isLt; omega) (by simp)
theorem vperm (p : BitVec 4) (t : BitVec 3) (d a b : BitVec 5) : Statement (.vperm p t d a b) :=
  statement_of rfl (by simp only [syl]; have := p.isLt; have := t.isLt; have := d.isLt; have := a.isLt; have := b.isLt; omega) (by simp)
theorem vrot (p : BitVec 4) (t : BitVec 3) (d a b : BitVec 5) : Statement (.vrot p t d a b) :=
  statement_of rfl (by simp only [syl]; have := p.isLt; have := t.isLt; have := d.isLt; have := a.isLt; have := b.isLt; omega) (by simp)
theorem vrsum (p : BitVec 4) (t : BitVec 3) (d a : BitVec 5) : Statement (.vrsum p t d a) :=
  statement_of rfl (by simp only [syl]; have := p.isLt; have := t.isLt; have := d.isLt; have := a.isLt; omega) (by simp)
theorem vrmax (p : BitVec 4) (t : BitVec 3) (d a : BitVec 5) : Statement (.vrmax p t d a) :=
  statement_of rfl (by simp only [syl]; have := p.isLt; have := t.isLt; have := d.isLt; have := a.isLt; omega) (by simp)
theorem vrmin (p : BitVec 4) (t : BitVec 3) (d a : BitVec 5) : Statement (.vrmin p t d a) :=
  statement_of rfl (by simp only [syl]; have := p.isLt; have := t.isLt; have := d.isLt; have := a.isLt; omega) (by simp)
theorem vscan (p : BitVec 4) (t : BitVec 3) (d a : BitVec 5) : Statement (.vscan p t d a) :=
  statement_of rfl (by simp only [syl]; have := p.isLt; have := t.isLt; have := d.isLt; have := a.isLt; omega) (by simp)
theorem vexp2 (p : BitVec 4) (t : BitVec 3) (d a : BitVec 5) : Statement (.vexp2 p t d a) :=
  statement_of rfl (by simp only [syl]; have := p.isLt; have := t.isLt; have := d.isLt; have := a.isLt; omega) (by simp)
theorem vlog2 (p : BitVec 4) (t : BitVec 3) (d a : BitVec 5) : Statement (.vlog2 p t d a) :=
  statement_of rfl (by simp only [syl]; have := p.isLt; have := t.isLt; have := d.isLt; have := a.isLt; omega) (by simp)
theorem vrcp (p : BitVec 4) (t : BitVec 3) (d a : BitVec 5) : Statement (.vrcp p t d a) :=
  statement_of rfl (by simp only [syl]; have := p.isLt; have := t.isLt; have := d.isLt; have := a.isLt; omega) (by simp)
theorem vrsq (p : BitVec 4) (t : BitVec 3) (d a : BitVec 5) : Statement (.vrsq p t d a) :=
  statement_of rfl (by simp only [syl]; have := p.isLt; have := t.isLt; have := d.isLt; have := a.isLt; omega) (by simp)
theorem vtanh (p : BitVec 4) (t : BitVec 3) (d a : BitVec 5) : Statement (.vtanh p t d a) :=
  statement_of rfl (by simp only [syl]; have := p.isLt; have := t.isLt; have := d.isLt; have := a.isLt; omega) (by simp)
theorem vextr (p : BitVec 4) (t : BitVec 3) (d a b : BitVec 5) : Statement (.vextr p t d a b) :=
  statement_of rfl (by simp only [syl]; have := p.isLt; have := t.isLt; have := d.isLt; have := a.isLt; have := b.isLt; omega) (by simp)
theorem vinsr (p : BitVec 4) (t : BitVec 3) (d a b : BitVec 5) : Statement (.vinsr p t d a b) :=
  statement_of rfl (by simp only [syl]; have := p.isLt; have := t.isLt; have := d.isLt; have := a.isLt; have := b.isLt; omega) (by simp)
theorem vdot4 (p : BitVec 4) (t : BitVec 3) (d a b : BitVec 5) : Statement (.vdot4 p t d a b) :=
  statement_of rfl (by simp only [syl]; have := p.isLt; have := t.isLt; have := d.isLt; have := a.isLt; have := b.isLt; omega) (by simp)
theorem vmulh (p : BitVec 4) (t : BitVec 3) (d a : BitVec 5) (b : Opnd 5) : Statement (.vmulh p t d a b) :=
  statement_of rfl (by simp only [syl]; have := p.isLt; have := t.isLt; have := d.isLt; have := a.isLt; have := opnd_field b; omega) (opnd_exts b)
theorem vqsc (p : BitVec 4) (t : BitVec 3) (d a : BitVec 5) (g : BitVec 3) : Statement (.vqsc p t d a g) :=
  statement_of rfl (by simp only [syl]; have := p.isLt; have := t.isLt; have := d.isLt; have := a.isLt; have := g.isLt; omega) (by simp)
theorem vqnt (p : BitVec 4) (t : BitVec 3) (d a : BitVec 5) (k : BitVec 2) (g : BitVec 3) : Statement (.vqnt p t d a k g) :=
  statement_of rfl (by simp only [syl]; have := p.isLt; have := t.isLt; have := d.isLt; have := a.isLt; have := k.isLt; have := g.isLt; omega) (by simp)
theorem vrng (p : BitVec 4) (t : BitVec 3) (d : BitVec 5) : Statement (.vrng p t d) :=
  statement_of rfl (by simp only [syl]; have := p.isLt; have := t.isLt; have := d.isLt; omega) (by simp)
theorem vpopc (p : BitVec 4) (t : BitVec 3) (d a : BitVec 5) : Statement (.vpopc p t d a) :=
  statement_of rfl (by simp only [syl]; have := p.isLt; have := t.isLt; have := d.isLt; have := a.isLt; omega) (by simp)
theorem vcx (p : BitVec 4) (t : BitVec 3) (d a b : BitVec 5) : Statement (.vcx p t d a b) :=
  statement_of rfl (by simp only [syl]; have := p.isLt; have := t.isLt; have := d.isLt; have := a.isLt; have := b.isLt; omega) (by simp)
theorem vadds (p : BitVec 4) (t : BitVec 3) (d a : BitVec 5) (b : Opnd 5) : Statement (.vadds p t d a b) :=
  statement_of rfl (by simp only [syl]; have := p.isLt; have := t.isLt; have := d.isLt; have := a.isLt; have := opnd_field b; omega) (opnd_exts b)
theorem vsubs (p : BitVec 4) (t : BitVec 3) (d a : BitVec 5) (b : Opnd 5) : Statement (.vsubs p t d a b) :=
  statement_of rfl (by simp only [syl]; have := p.isLt; have := t.isLt; have := d.isLt; have := a.isLt; have := opnd_field b; omega) (opnd_exts b)
theorem vminN (p : BitVec 4) (t : BitVec 3) (d a : BitVec 5) (b : Opnd 5) : Statement (.vminN p t d a b) :=
  statement_of rfl (by simp only [syl]; have := p.isLt; have := t.isLt; have := d.isLt; have := a.isLt; have := opnd_field b; omega) (opnd_exts b)
theorem vmaxN (p : BitVec 4) (t : BitVec 3) (d a : BitVec 5) (b : Opnd 5) : Statement (.vmaxN p t d a b) :=
  statement_of rfl (by simp only [syl]; have := p.isLt; have := t.isLt; have := d.isLt; have := a.isLt; have := opnd_field b; omega) (opnd_exts b)
theorem vcmpLtn (p : BitVec 4) (t : BitVec 3) (d a : BitVec 5) (b : Opnd 5) : Statement (.vcmpLtn p t d a b) :=
  statement_of rfl (by simp only [syl]; have := p.isLt; have := t.isLt; have := d.isLt; have := a.isLt; have := opnd_field b; omega) (opnd_exts b)
theorem mm (p : BitVec 4) (a : BitVec 2) (t : BitVec 3) (d : BitVec 5) (c k : BitVec 1) (n : BitVec 6) : Statement (.mm p a t d c k n) :=
  statement_of rfl (by simp only [syl]; have := p.isLt; have := a.isLt; have := t.isLt; have := d.isLt; have := c.isLt; have := k.isLt; have := n.isLt; omega) (by simp)
theorem mmDRoute (p : BitVec 4) (a : BitVec 2) (d : BitVec 5) (e : BitVec 4) : Statement (.mmDRoute p a d e) :=
  statement_of rfl (by simp only [syl]; have := p.isLt; have := a.isLt; have := d.isLt; have := e.isLt; omega) (by simp)
theorem mmDSteer (p : BitVec 4) (a : BitVec 2) (g : BitVec 3) (d : BitVec 5) : Statement (.mmDSteer p a g d) :=
  statement_of rfl (by simp only [syl]; have := p.isLt; have := a.isLt; have := g.isLt; have := d.isLt; omega) (by simp)
theorem mmZ (p : BitVec 4) (a : BitVec 2) : Statement (.mmZ p a) :=
  statement_of rfl (by simp only [syl]; have := p.isLt; have := a.isLt; omega) (by simp)
theorem mmW (p : BitVec 4) (t : BitVec 3) (d : BitVec 5) (k : BitVec 1) : Statement (.mmW p t d k) :=
  statement_of rfl (by simp only [syl]; have := p.isLt; have := t.isLt; have := d.isLt; have := k.isLt; omega) (by simp)
theorem mmAr (p : BitVec 4) (a : BitVec 2) (d : BitVec 5) : Statement (.mmAr p a d) :=
  statement_of rfl (by simp only [syl]; have := p.isLt; have := a.isLt; have := d.isLt; omega) (by simp)
theorem mmAw (p : BitVec 4) (a : BitVec 2) (d : BitVec 5) : Statement (.mmAw p a d) :=
  statement_of rfl (by simp only [syl]; have := p.isLt; have := a.isLt; have := d.isLt; omega) (by simp)
theorem tdSet (p : BitVec 4) (x : Opnd 6) (d : BitVec 5) (w : BitVec 4) : Statement (.tdSet p x d w) :=
  statement_of rfl (by simp only [syl]; have := p.isLt; have := opnd_field x; have := d.isLt; have := w.isLt; omega) (opnd_exts x)
theorem tdGet (p : BitVec 4) (x : BitVec 6) (d : BitVec 5) (w : BitVec 4) : Statement (.tdGet p x d w) :=
  statement_of rfl (by simp only [syl]; have := p.isLt; have := x.isLt; have := d.isLt; have := w.isLt; omega) (by simp)
theorem tdStep (p : BitVec 4) (x : Opnd 6) (d : BitVec 5) (m : BitVec 2) : Statement (.tdStep p x d m) :=
  statement_of rfl (by simp only [syl]; have := p.isLt; have := opnd_field x; have := d.isLt; have := m.isLt; omega) (opnd_exts x)
theorem xpTbl (p : BitVec 4) (a : BitVec 5) (g : BitVec 2) (c : BitVec 1) : Statement (.xpTbl p a g c) :=
  statement_of rfl (by simp only [syl]; have := p.isLt; have := a.isLt; have := g.isLt; have := c.isLt; omega) (by simp)
theorem xpExp (p : BitVec 4) (d a : BitVec 5) (t : BitVec 4) (h : BitVec 1) : Statement (.xpExp p d a t h) :=
  statement_of rfl (by simp only [syl]; have := p.isLt; have := d.isLt; have := a.isLt; have := t.isLt; have := h.isLt; omega) (by simp)
theorem xpCvt (p : BitVec 4) (d a : BitVec 5) (q : BitVec 2) (k : BitVec 3) : Statement (.xpCvt p d a q k) :=
  statement_of rfl (by simp only [syl]; have := p.isLt; have := d.isLt; have := a.isLt; have := q.isLt; have := k.isLt; omega) (by simp)
theorem xpTrn (p : BitVec 4) (d a : BitVec 5) (w : BitVec 2) : Statement (.xpTrn p d a w) :=
  statement_of rfl (by simp only [syl]; have := p.isLt; have := d.isLt; have := a.isLt; have := w.isLt; omega) (by simp)
theorem xpPack (p : BitVec 4) (d a : BitVec 5) (h : BitVec 2) (w : BitVec 1) : Statement (.xpPack p d a h w) :=
  statement_of rfl (by simp only [syl]; have := p.isLt; have := d.isLt; have := a.isLt; have := h.isLt; have := w.isLt; omega) (by simp)
theorem xpPln (p : BitVec 4) (d a : BitVec 5) (n : BitVec 4) (r : BitVec 1) : Statement (.xpPln p d a n r) :=
  statement_of rfl (by simp only [syl]; have := p.isLt; have := d.isLt; have := a.isLt; have := n.isLt; have := r.isLt; omega) (by simp)
theorem xpUnp (p : BitVec 4) (d a e : BitVec 5) (w : BitVec 3) : Statement (.xpUnp p d a e w) :=
  statement_of rfl (by simp only [syl]; have := p.isLt; have := d.isLt; have := a.isLt; have := e.isLt; have := w.isLt; omega) (by simp)
theorem firingStart (c : CoreId) : Statement (.firingStart c) := statement_none rfl
theorem parkedFiringRestore (c : CoreId) : Statement (.parkedFiringRestore c) := statement_none rfl
theorem bundleWaitEnds (a : Agent) : Statement (.bundleWaitEnds a) := statement_none rfl
theorem endCompletion (s : SlotId) : Statement (.endCompletion s) := statement_none rfl
theorem checkpointWriteDone (s : SlotId) : Statement (.checkpointWriteDone s) := statement_none rfl
theorem budgetExhausted (s : SlotId) : Statement (.budgetExhausted s) := statement_none rfl
theorem parkComplete (s : SlotId) : Statement (.parkComplete s) := statement_none rfl
theorem heldSyllableExecutes (a : Agent) : Statement (.heldSyllableExecutes a) := statement_none rfl
theorem scalarResultLand (a : Agent) (id : Nat) : Statement (.scalarResultLand a id) := statement_none rfl
theorem vectorResultLand (a : Agent) (id : Nat) : Statement (.vectorResultLand a id) := statement_none rfl
theorem xfmResultLand (a : Agent) (id : Nat) : Statement (.xfmResultLand a id) := statement_none rfl
theorem localLoadLand (a : Agent) (id : Nat) : Statement (.localLoadLand a id) := statement_none rfl
theorem localStoreWritten (a : Agent) (id : Nat) : Statement (.localStoreWritten a id) := statement_none rfl
theorem emitCopyDone (s : SlotId) (id : Nat) : Statement (.emitCopyDone s id) := statement_none rfl
theorem packetArrival (dst : PortId) (pkt : Packet) : Statement (.packetArrival dst pkt) := statement_none rfl
theorem creditMessage (dst : PortId) (num : BitVec 32) : Statement (.creditMessage dst num) := statement_none rfl
theorem drainAction (s : SlotId) : Statement (.drainAction s) := statement_none rfl
theorem drainSend (s : SlotId) (port : Nat) : Statement (.drainSend s port) := statement_none rfl
theorem clusterLoadLand (id : Nat) : Statement (.clusterLoadLand id) := statement_none rfl
theorem clusterStorePerformed (id : Nat) : Statement (.clusterStorePerformed id) := statement_none rfl
theorem multicastLanding (id : Nat) : Statement (.multicastLanding id) := statement_none rfl
theorem galleryLoadLand (id : Nat) : Statement (.galleryLoadLand id) := statement_none rfl
theorem galleryStorePerformed (id : Nat) : Statement (.galleryStorePerformed id) := statement_none rfl
theorem homePortAtomic (id : Nat) : Statement (.homePortAtomic id) := statement_none rfl
theorem atomicOldValueLand (id : Nat) : Statement (.atomicOldValueLand id) := statement_none rfl
theorem fabricLoadLand (id : Nat) : Statement (.fabricLoadLand id) := statement_none rfl
theorem fabricStorePerformed (id : Nat) : Statement (.fabricStorePerformed id) := statement_none rfl
theorem fabricReject (id : Nat) : Statement (.fabricReject id) := statement_none rfl
theorem translationWalkDone (d : DieId) (vpn : Nat) : Statement (.translationWalkDone d vpn) := statement_none rfl
theorem matDispatch (s : SlotId) : Statement (.matDispatch s) := statement_none rfl
theorem accumulatorLanded (c : CoreId) (acc : Nat) : Statement (.accumulatorLanded c acc) := statement_none rfl
theorem tileFillDone (s : SlotId) (tile : Nat) : Statement (.tileFillDone s tile) := statement_none rfl
theorem mmDrainSend (s : SlotId) (id : Nat) : Statement (.mmDrainSend s id) := statement_none rfl
theorem mmArWriteDone (s : SlotId) (id : Nat) : Statement (.mmArWriteDone s id) := statement_none rfl
theorem seqRequestServe (d : DieId) : Statement (.seqRequestServe d) := statement_none rfl
theorem controlAnswerLand (a : Agent) : Statement (.controlAnswerLand a) := statement_none rfl
theorem mirrorForward (d : DieId) (m : MirrorMsg) : Statement (.mirrorForward d m) := statement_none rfl
theorem gatherFillDone (d : DieId) (id : Nat) : Statement (.gatherFillDone d id) := statement_none rfl
theorem farReadBucketRefill (d : DieId) : Statement (.farReadBucketRefill d) := statement_none rfl
theorem stageAheadCopyLand (d : DieId) (id : Nat) : Statement (.stageAheadCopyLand d id) := statement_none rfl
theorem plBlockDecode (d : DieId) : Statement (.plBlockDecode d) := statement_none rfl
theorem plChunkTagReady (d : DieId) (id : Nat) : Statement (.plChunkTagReady d id) := statement_none rfl
theorem phaserSignalArrival (s : SlotId) (ph : Nat) : Statement (.phaserSignalArrival s ph) := statement_none rfl
theorem phaserAdvanceDelivery (s : SlotId) (ph : Nat) : Statement (.phaserAdvanceDelivery s ph) := statement_none rfl
theorem barrierArrival (s : SlotId) : Statement (.barrierArrival s) := statement_none rfl
theorem closingBarrierComplete (c : CluId) : Statement (.closingBarrierComplete c) := statement_none rfl
theorem haltWake (v : SupId) : Statement (.haltWake v) := statement_none rfl
theorem evpopRead (reader : Option SupId) (v : SupId) (xd : Nat) : Statement (.evpopRead reader v xd) := statement_none rfl
theorem slotctlClearEvent (s : SlotId) : Statement (.slotctlClearEvent s) := statement_none rfl
theorem slotctlKillStage (s : SlotId) : Statement (.slotctlKillStage s) := statement_none rfl
theorem slotctlKillFiring (s : SlotId) : Statement (.slotctlKillFiring s) := statement_none rfl
theorem svfaultRestart (v : SupId) : Statement (.svfaultRestart v) := statement_none rfl
theorem switchNotice (d : DieId) (n : Nat) : Statement (.switchNotice d n) := statement_none rfl
theorem configDrainComplete (d : DieId) : Statement (.configDrainComplete d) := statement_none rfl
theorem activationComplete (d : DieId) : Statement (.activationComplete d) := statement_none rfl
theorem sqrmtInstall (d : DieId) (v : BitVec 64) : Statement (.sqrmtInstall d v) := statement_none rfl
theorem sqrmtRemove (d : DieId) (v : BitVec 64) : Statement (.sqrmtRemove d v) := statement_none rfl
theorem ftinvAll (d : DieId) : Statement (.ftinvAll d) := statement_none rfl
theorem ftinvPage (d : DieId) (vpn : Nat) : Statement (.ftinvPage d vpn) := statement_none rfl
theorem codemapMapPage (c : CoreId) (page : Nat) : Statement (.codemapMapPage c page) := statement_none rfl
theorem codemapUnmapPage (c : CoreId) (page : Nat) : Statement (.codemapUnmapPage c page) := statement_none rfl
theorem registerWrite (d : DieId) (addr : Nat) (v : BitVec 64) : Statement (.registerWrite d addr v) := statement_none rfl
theorem scrubRead (d : DieId) (core : Option CoreId) (addr : Nat) : Statement (.scrubRead d core addr) := statement_none rfl
theorem dieReset (d : DieId) : Statement (.dieReset d) := statement_none rfl
theorem coreReset (c : CoreId) : Statement (.coreReset c) := statement_none rfl
theorem ringFlitArrival (pkg : Nat) (f : RingFlit) : Statement (.ringFlitArrival pkg f) := statement_none rfl
theorem ringFlitReoffer (pkg : Nat) (f : RingFlit) : Statement (.ringFlitReoffer pkg f) := statement_none rfl
theorem ringSegmentFailed (pkg ring seg : Nat) : Statement (.ringSegmentFailed pkg ring seg) := statement_none rfl
theorem hlinkPmaskWrite (pkg : Nat) (mask : BitVec 8) : Statement (.hlinkPmaskWrite pkg mask) := statement_none rfl
theorem hostLinkTrained (pkg : Nat) : Statement (.hostLinkTrained pkg) := statement_none rfl
theorem hostLinkDown (pkg : Nat) : Statement (.hostLinkDown pkg) := statement_none rfl
theorem cxlIdentify (pkg : Nat) : Statement (.cxlIdentify pkg) := statement_none rfl
theorem getSupportedLogs (pkg : Nat) : Statement (.getSupportedLogs pkg) := statement_none rfl
theorem getLog (pkg log off len : Nat) : Statement (.getLog pkg log off len) := statement_none rfl
theorem getEventRecords (pkg : Nat) : Statement (.getEventRecords pkg) := statement_none rfl
theorem clearEventRecords (pkg n : Nat) : Statement (.clearEventRecords pkg n) := statement_none rfl
theorem attest (pkg : Nat) (nonce : BitVec 384) (mask : BitVec 16) : Statement (.attest pkg nonce mask) := statement_none rfl
theorem getcert (pkg idx : Nat) : Statement (.getcert pkg idx) := statement_none rfl
theorem mextend (pkg reg : Nat) (digest : BitVec 384) : Statement (.mextend pkg reg digest) := statement_none rfl
theorem ringSetup (pkg ring : Nat) (gen : BitVec 32) : Statement (.ringSetup pkg ring gen) := statement_none rfl
theorem ringTeardown (pkg ring : Nat) (gen : BitVec 32) : Statement (.ringTeardown pkg ring gen) := statement_none rfl
theorem orphanRead (pkg first count : Nat) : Statement (.orphanRead pkg first count) := statement_none rfl
theorem mgmtRead (pkg die addr : Nat) : Statement (.mgmtRead pkg die addr) := statement_none rfl
theorem mgmtWrite (pkg die addr : Nat) (v : BitVec 64) : Statement (.mgmtWrite pkg die addr v) := statement_none rfl
theorem fwLoadFirmware (pkg : Nat) (h : FwChunk) : Statement (.fwLoadFirmware pkg h) := statement_none rfl
theorem fwLoadBootStream (pkg : Nat) (h : FwChunk) : Statement (.fwLoadBootStream pkg h) := statement_none rfl
theorem mailboxUnsupported (pkg opcode : Nat) : Statement (.mailboxUnsupported pkg opcode) := statement_none rfl
theorem hostHdmRead (pkg off : Nat) : Statement (.hostHdmRead pkg off) := statement_none rfl
theorem hostHdmWrite (pkg off : Nat) (data : BitVec 512) (mask : BitVec 64) : Statement (.hostHdmWrite pkg off data mask) := statement_none rfl
theorem backInvalidationDone (pkg line : Nat) (dirty : Option (BitVec 512)) : Statement (.backInvalidationDone pkg line dirty) := statement_none rfl
theorem completionWriteCheck (id : Nat) : Statement (.completionWriteCheck id) := statement_none rfl
theorem hostGlobalObservation (id : Nat) : Statement (.hostGlobalObservation id) := statement_none rfl
theorem packageReset (pkg : Nat) : Statement (.packageReset pkg) := statement_none rfl
theorem thermalThrottle (d : DieId) : Statement (.thermalThrottle d) := statement_none rfl
theorem thermalClockRaise (d : DieId) : Statement (.thermalClockRaise d) := statement_none rfl
theorem thermalTrip (d : DieId) : Statement (.thermalTrip d) := statement_none rfl
theorem linkEnable (pkg port : Nat) : Statement (.linkEnable pkg port) := statement_none rfl
theorem linkTrainLock (pkg port : Nat) : Statement (.linkTrainLock pkg port) := statement_none rfl
theorem linkTrainTimeout (pkg port : Nat) : Statement (.linkTrainTimeout pkg port) := statement_none rfl
theorem negotiationMessage (pkg port : Nat) (m : NegMsg) : Statement (.negotiationMessage pkg port m) := statement_none rfl
theorem negotiateTimeout (pkg port : Nat) : Statement (.negotiateTimeout pkg port) := statement_none rfl
theorem linkReplayFailure (pkg port : Nat) : Statement (.linkReplayFailure pkg port) := statement_none rfl
theorem linkFailedTimer (pkg port : Nat) : Statement (.linkFailedTimer pkg port) := statement_none rfl
theorem flitReceive (pkg port : Nat) (f : BitVec 640) : Statement (.flitReceive pkg port f) := statement_none rfl
theorem routingFlip (pkg : Nat) : Statement (.routingFlip pkg) := statement_none rfl
theorem flipHoldRelease (pkg port : Nat) : Statement (.flipHoldRelease pkg port) := statement_none rfl
theorem failureNotice (pkg : Nat) (n : Notice) : Statement (.failureNotice pkg n) := statement_none rfl
theorem tokenRequest (home src : DieId) (page : Nat) (excl : Bool) : Statement (.tokenRequest home src page excl) := statement_none rfl
theorem ownershipRecall (d home : DieId) (page : Nat) : Statement (.ownershipRecall d home page) := statement_none rfl
theorem recallDone (home src : DieId) (page : Nat) : Statement (.recallDone home src page) := statement_none rfl
theorem tokenGrant (d home : DieId) (page : Nat) (excl : Bool) : Statement (.tokenGrant d home page excl) := statement_none rfl
theorem bootPacket (pkg : Nat) (pkt : Packet) : Statement (.bootPacket pkg pkt) := statement_none rfl
theorem heartbeat (ctl src : Nat) : Statement (.heartbeat ctl src) := statement_none rfl
theorem heartbeatTimeout (ctl src : Nat) : Statement (.heartbeatTimeout ctl src) := statement_none rfl
theorem freezeAcknowledged (ctl src : Nat) : Statement (.freezeAcknowledged ctl src) := statement_none rfl
theorem reductionLine (pkg die addr : Nat) (data : BitVec 512) : Statement (.reductionLine pkg die addr data) := statement_none rfl
theorem rebuildComplete (ctl : Nat) : Statement (.rebuildComplete ctl) := statement_none rfl
theorem remapComplete (ctl : Nat) : Statement (.remapComplete ctl) := statement_none rfl
theorem replayComplete (ctl : Nat) : Statement (.replayComplete ctl) := statement_none rfl
theorem waitaReread (a : Agent) : Statement (.waitaReread a) := statement_none rfl
theorem barrierCompletionDelivery (s : SlotId) : Statement (.barrierCompletionDelivery s) := statement_none rfl
theorem hostSnoop (pkg line : Nat) : Statement (.hostSnoop pkg line) := statement_none rfl
theorem mirrorAcknowledgement (d : DieId) (id : Nat) (ok : Bool) : Statement (.mirrorAcknowledgement d id ok) := statement_none rfl
theorem bootBlockRequest (pkg child block : Nat) : Statement (.bootBlockRequest pkg child block) := statement_none rfl
theorem supervisorFreesEntry (d : DieId) (h : Nat) : Statement (.supervisorFreesEntry d h) := statement_none rfl

end Sys2Proof.Laws.Encoding
end

