-- ==== Sys2Proof/Laws/Scalar.lean ====
section
/-! SUPPORT. What a scalar syllable does, for all of them at once. -/

namespace Sys2Proof.Machine

/-- A scalar syllable that is free, with its unit free where it has one of its own, writes its results and flags. -/
theorem writes_scalarSyl {i : Instr} {s : State} {p : BitVec 4} {r : Regs} {src : Src} {lat : Nat}
    {f : State → List RegWrite × BitVec 6} {ws : List RegWrite} {fl : BitVec 6}
    (h : exec i s = issue (scalarSyl p r src lat f) s) (hf : s.free 1 p r = true)
    (hq : src ≠ .scalar → ∀ g ∈ s.me.flights, g.src = src → s.iss.mark ≤ g.id) (hx : f (s.enter p r) = (ws, fl)) :
    Writes i s ws fl := by
  refine writes_of_fly (src := src) (lat := lat) h (.inl rfl) rfl hf rfl ?_ (by simp [scalarSyl, hx])
  by_cases hs : src = .scalar
  · simp [scalarSyl, hs]
  · simpa [scalarSyl, hs] using fun g hg hl hs' => absurd (hq hs g hg hs') (by omega)

end Sys2Proof.Machine
end

