-- ==== Sys2Proof/Tests/Slice0.lean ====
section
/-! SUPPORT. The model's own tests: an ill-formed instruction for each check of `Instr.wf`; a word of every row of the table that has
an encoding, written out field by field from spec/opcode_table.json; states that meet the hypotheses of the statements; and a few
results that the spec's own examples give. -/

namespace Sys2Proof.Tests

open Sys2Proof Sys2Proof.Machine

/-! ## Well-formed instructions -/

/-- Whether the check of R13 refuses every instruction of a list. -/
def refuses (is : List Instr) : Bool := is.all (fun i => !i.wf)

theorem test_illformed_control : refuses [.brT 0 1 2 0 0 0 1 1 0 0, .brT 0 1 2 3 0 1 1 1 1 0, .brT 0 1 2 3 4 2 1 1 1 1, .loop 0 0 5,
    .setlc 0 1 2 (.ext2 0 0), .mark 0 3 1 0, .peek 0 1 0 2 4, .peek 0 1 5 2 1, .trap 0 (.ext2 1 0), .mfcr 0 1 17, .mfcr 0 1 38,
    .mtcr 0 17 1, .mtcr 0 63 1] = true := by decide

theorem test_illformed_scalar : refuses [.cmpEq 0 15 1 0 0, .cmpNe 0 15 1 0 0, .cmpLt 0 15 1 0 0, .cmpGe 0 15 1 0 0,
    .cmpLtn 0 15 1 0 0, .cmpGen 0 15 1 0 0, .cmpiEq 0 15 1 0 (.fld 0), .cmpiLt 0 15 1 0 (.fld 0), .cmpiGe 0 15 1 0 (.fld 0),
    .pand 0 15 1 0 0 0 0, .por 0 15 1 0 0 0 0, .pxor 0 15 1 0 0 0 0, .faddS 0 0 0 (.ext1 0x20000), .faddD 0 0 0 (.ext1 0x10040),
    .fmulS 0 0 0 (.ext2 0 16), .fmulD 0 0 0 (.ext1 0x20000), .ffmaS 0 0 0 (.ext1 0x20000), .ffmaD 0 0 0 (.ext2 0 16),
    .fminS 0 0 0 (.ext1 0x20000), .fmaxS 0 0 0 (.ext1 0x20000), .fcmpLt 0 15 1 0 (.fld 0), .fcmpLt 0 0 0 0 (.ext1 0x20000),
    .fcmpEq 0 15 1 0 (.fld 0), .fcvt 0 1 1 14, .fcvt 0 1 1 31] = true := by decide

theorem test_illformed_memory : refuses [.ldL 0 0 0 0 (.ext2 0 0), .stL 0 0 0 0 (.ext2 0 0), .ldLf 0 0 0 0 (.ext2 0 0),
    .ldLfc 0 0 0 0 (.ext2 0 0), .stLf 0 0 0 0 (.ext2 0 0), .stLe 0 0 0 0 (.ext2 0 0), .ldC 0 0 0 0 (.ext2 0 0),
    .stC 0 0 0 0 (.ext2 0 0), .ldG 0 0 0 0 (.ext2 0 0), .stG 0 0 0 0 (.ext2 0 0), .ldN 0 0 0 0 (.ext2 0 0),
    .stN 0 0 0 0 (.ext2 0 0), .ldsL 0 0 0 3 (.fld 0), .ldsC 0 0 0 3 (.fld 0), .ldsG 0 0 0 3 (.fld 0), .ldsN 0 0 0 3 (.fld 0),
    .ldsL 0 0 0 0 (.ext2 0 0), .vldL 0 0 0 (.ext2 0 0), .vstL 0 0 0 (.ext2 0 0), .vldC 0 0 0 (.ext2 0 0), .vstC 0 0 0 (.ext2 0 0),
    .mcst 0 0 0 (.ext2 0 0), .vldG 0 0 0 (.ext2 0 0), .vstG 0 0 0 (.ext2 0 0), .vldN 0 0 0 (.ext2 0 0), .vstN 0 0 0 (.ext2 0 0),
    .amoL 0 0 0 0 1, .amoG 0 0 0 10 3, .amoN 0 0 0 9 3, .sqGath 0 3 0 0 0, .phReg 0 0 0 0, .fence 0 6 1 1, .fence 0 0 0 0] = true := by
  decide

theorem test_illformed_vector : refuses [.vadd 0 0 0 0 (.ext2 0 0), .vsub 0 1 0 0 (.ext2 0 0), .vmul 0 2 0 0 (.ext2 0 0),
    .vfma 0 3 0 0 (.ext1 0x20000), .vmin 0 4 0 0 (.ext1 0x20000), .vmax 0 5 0 0 (.ext2 0 16), .vand 0 0 0 0 (.ext2 0 0),
    .vor 0 0 0 0 (.ext2 0 0), .vxor 0 0 0 0 (.ext2 0 0), .vshl 0 0 0 0 (.ext2 0 0), .vshr 0 0 0 0 (.ext2 0 0),
    .vsar 0 0 0 0 (.ext2 0 0), .vcmpEq 0 0 0 0 (.ext2 0 0), .vcmpLt 0 3 0 0 (.ext1 0x20000), .vcmpLe 0 3 0 0 (.ext1 0x20000),
    .vmulh 0 0 0 0 (.ext2 0 0), .vadds 0 0 0 0 (.ext2 0 0), .vsubs 0 0 0 0 (.ext2 0 0), .vminN 0 0 0 0 (.ext2 0 0),
    .vmaxN 0 0 0 0 (.ext2 0 0), .vcmpLtn 0 0 0 0 (.ext2 0 0)] = true := by decide

theorem test_illformed_matrix_transform : refuses [.tdSet 0 (.fld 0) 0 8, .tdGet 0 0 0 8, .tdStep 0 (.ext2 0 0) 0 0,
    .xpTrn 0 0 0 3, .xpPln 0 0 0 1 0] = true := by decide

/-! ## Words of the table -/

/-- Whether a word decodes, as the last of its bundle, to an instruction, and nothing stands behind it. -/
def reads (e : Nat × Instr) : Bool :=
  match decode [e.1] with
  | .ok (i, stop, rest) => i = e.2 && stop && rest.isEmpty
  | .error _ => false


theorem test_decode_control : [
    (0b1_000_000000_0111_000000000000000000, .nop 7),
    (0b1_000_000001_0111_000000000000000000, .endFiring 7),
    (0b1_000_000010_0111_000000010110011011, .br 7 1435),
    (0b1_000_000011_0111_000000_011011_000000, .brR 7 27),
    (0b1_000_000101_0111_000000010110011011, .call 7 1435),
    (0b1_000_000110_0111_000000_011011_000000, .callR 7 27),
    (0b1_000_000111_0111_000000000000000000, .ret 7),
    (0b1_000_001000_0111_001001_001011001101, .loop 7 9 717),
    (0b1_000_001001_0111_000000010110011011, .loopR 7 1435),
    (0b1_000_001010_0111_011011_001101_100110, .setlc 7 27 13 (.fld 38)),
    (0b1_000_001011_0111_011011_001101_110_000, .take 7 27 13 6),
    (0b1_000_001100_0111_011011_001101_110_0_1_1, .emit 7 27 13 6 1 1),
    (0b1_000_001101_0111_000000000000_101_0_0_1, .mark 7 5 0 1),
    (0b1_000_001110_0111_011011_001101_110_000, .peek 7 27 13 6 0),
    (0b1_000_001111_0111_00000000000000_1011, .wtag 7 11),
    (0b1_000_010000_0111_000000000000_011011, .trap 7 (.fld 27)),
    (0b1_000_010001_0111_011011_100101_000000, .mfcr 7 27 37),
    (0b1_000_010010_0111_001011_001101_000000, .mtcr 7 11 13),
    (0b1_000_010011_0111_000000000000000000, .rft 7),
    (0b1_000_010100_0111_000000000000000000, .halt 7),
    (0b1_000_010101_0111_000000_011011_000000, .cfgNext 7 27)].all reads = true := by decide

theorem test_decode_scalar1 : [
    (0b1_001_000000_0111_011011_001101_100110, .add 7 27 13 38),
    (0b1_001_000001_0111_011011_001101_100110, .sub 7 27 13 38),
    (0b1_001_000010_0111_011011_001101_100110, .mul 7 27 13 38),
    (0b1_001_000011_0111_011011_001101_100110, .mulh 7 27 13 38),
    (0b1_001_000100_0111_011011_001101_100110, .div 7 27 13 38),
    (0b1_001_000101_0111_011011_001101_100110, .divN 7 27 13 38),
    (0b1_001_000110_0111_011011_001101_100110, .rem 7 27 13 38),
    (0b1_001_000111_0111_011011_001101_100110, .and 7 27 13 38),
    (0b1_001_001000_0111_011011_001101_100110, .or 7 27 13 38),
    (0b1_001_001001_0111_011011_001101_100110, .xor 7 27 13 38),
    (0b1_001_001010_0111_011011_001101_100110, .andn 7 27 13 38),
    (0b1_001_001011_0111_011011_001101_100110, .shl 7 27 13 38),
    (0b1_001_001100_0111_011011_001101_100110, .shr 7 27 13 38),
    (0b1_001_001101_0111_011011_001101_100110, .sar 7 27 13 38),
    (0b1_001_001110_0111_011011_001101_100110, .min 7 27 13 38),
    (0b1_001_001111_0111_011011_001101_100110, .max 7 27 13 38),
    (0b1_001_010000_0111_011011_001101_100110, .minN 7 27 13 38),
    (0b1_001_010001_0111_011011_001101_100110, .maxN 7 27 13 38),
    (0b1_001_010010_0111_011011_001101_100110, .addi 7 27 13 (.fld 38)),
    (0b1_001_010011_0111_011011_001101_100110, .andi 7 27 13 (.fld 38)),
    (0b1_001_010100_0111_011011_001101_100110, .ori 7 27 13 (.fld 38)),
    (0b1_001_010101_0111_011011_001101_100110, .xori 7 27 13 (.fld 38)),
    (0b1_001_010110_0111_011011_001101_100110, .shli 7 27 13 38)].all reads = true := by decide

theorem test_decode_scalar2 : [
    (0b1_001_010111_0111_011011_001101_100110, .shri 7 27 13 38),
    (0b1_001_011000_0111_011011_001101_100110, .sari 7 27 13 38),
    (0b1_001_011001_0111_011011_000000_001101, .li 7 27 (.fld 13)),
    (0b1_001_011010_0111_011011_001101_100110, .sel 7 27 13 38),
    (0b1_001_011011_0111_011011_001101_000000, .clz 7 27 13),
    (0b1_001_011100_0111_011011_001101_000000, .ctz 7 27 13),
    (0b1_001_011101_0111_011011_001101_000000, .popc 7 27 13),
    (0b1_001_011110_0111_011011_001101_100110, .extract 7 27 13 38),
    (0b1_001_011111_0111_011011_001101_100110, .extractN 7 27 13 38),
    (0b1_001_100000_0111_011011_001101_100110, .insert 7 27 13 38),
    (0b1_001_100001_0111_011011_001101_100110, .unpk 7 27 13 38),
    (0b1_001_100010_0111_011011_001101_100110, .packb 7 27 13 38),
    (0b1_001_100011_0111_011011_001101_100110, .lut 7 27 13 38),
    (0b1_001_100100_0111_0110_01_100110_110011, .cmpEq 7 6 1 38 51),
    (0b1_001_100101_0111_0110_01_100110_110011, .cmpNe 7 6 1 38 51),
    (0b1_001_100110_0111_0110_01_100110_110011, .cmpLt 7 6 1 38 51),
    (0b1_001_100111_0111_0110_01_100110_110011, .cmpGe 7 6 1 38 51),
    (0b1_001_101000_0111_0110_01_100110_110011, .cmpLtn 7 6 1 38 51),
    (0b1_001_101001_0111_0110_01_100110_110011, .cmpGen 7 6 1 38 51),
    (0b1_001_101010_0111_0110_01_100110_110011, .cmpiEq 7 6 1 38 (.fld 51)),
    (0b1_001_101011_0111_0110_01_100110_110011, .cmpiLt 7 6 1 38 (.fld 51)),
    (0b1_001_101100_0111_0110_01_100110_110011, .cmpiGe 7 6 1 38 (.fld 51)),
    (0b1_001_101101_0111_0110_01_0_1_0011_0_1_1100, .pand 7 6 1 1 3 1 12)].all reads = true := by decide

theorem test_decode_scalar3 : [
    (0b1_001_101110_0111_0110_01_0_1_0011_0_1_1100, .por 7 6 1 1 3 1 12),
    (0b1_001_101111_0111_0110_01_0_1_0011_0_1_1100, .pxor 7 6 1 1 3 1 12),
    (0b1_001_110000_0111_011011_001101_100110, .faddS 7 27 13 (.fld 38)),
    (0b1_001_110001_0111_011011_001101_100110, .faddD 7 27 13 (.fld 38)),
    (0b1_001_110010_0111_011011_001101_100110, .fmulS 7 27 13 (.fld 38)),
    (0b1_001_110011_0111_011011_001101_100110, .fmulD 7 27 13 (.fld 38)),
    (0b1_001_110100_0111_011011_001101_100110, .ffmaS 7 27 13 (.fld 38)),
    (0b1_001_110101_0111_011011_001101_100110, .ffmaD 7 27 13 (.fld 38)),
    (0b1_001_110110_0111_011011_001101_100110, .fminS 7 27 13 (.fld 38)),
    (0b1_001_110111_0111_011011_001101_100110, .fmaxS 7 27 13 (.fld 38)),
    (0b1_001_111000_0111_0110_01_100110_110011, .fcmpLt 7 6 1 38 (.fld 51)),
    (0b1_001_111001_0111_0110_01_100110_110011, .fcmpEq 7 6 1 38 (.fld 51)),
    (0b1_001_111010_0111_011011_001101_101101, .fcvt 7 27 13 45),
    (0b1_001_111011_0111_011011_001101_100110, .fdivS 7 27 13 38),
    (0b1_001_111100_0111_011011_001101_000000, .fsqrtS 7 27 13),
    (0b1_001_111101_0111_011011_000000000000, .rng 7 27),
    (0b1_001_111110_0111_011011_001101_100110, .mulhN 7 27 13 38)].all reads = true := by decide

theorem test_decode_memory1 : [
    (0b1_010_000000_0111_011011_001101_10_0011, .ldL 7 27 13 2 (.fld 3)),
    (0b1_010_000001_0111_011011_001101_01_0011, .ldsL 7 27 13 1 (.fld 3)),
    (0b1_010_000010_0111_011011_001101_10_0011, .stL 7 27 13 2 (.fld 3)),
    (0b1_010_000011_0111_0_11011_001101_11_0110, .vldL 7 27 13 (.fld 6)),
    (0b1_010_000100_0111_0_11011_001101_11_0110, .vstL 7 27 13 (.fld 6)),
    (0b1_010_000101_0111_011011_001101_10_0011, .ldLf 7 27 13 2 (.fld 3)),
    (0b1_010_000110_0111_011011_001101_10_0011, .ldLfc 7 27 13 2 (.fld 3)),
    (0b1_010_000111_0111_011011_001101_10_0011, .stLf 7 27 13 2 (.fld 3)),
    (0b1_010_001000_0111_011011_001101_10_0011, .stLe 7 27 13 2 (.fld 3)),
    (0b1_010_001001_0111_011011_001101_1000_11, .amoL 7 27 13 8 3),
    (0b1_010_001010_0111_011011_001101_10_0011, .ldC 7 27 13 2 (.fld 3)),
    (0b1_010_001011_0111_011011_001101_01_0011, .ldsC 7 27 13 1 (.fld 3)),
    (0b1_010_001100_0111_011011_001101_10_0011, .stC 7 27 13 2 (.fld 3)),
    (0b1_010_001101_0111_0_11011_001101_11_0110, .vldC 7 27 13 (.fld 6)),
    (0b1_010_001110_0111_0_11011_001101_11_0110, .vstC 7 27 13 (.fld 6)),
    (0b1_010_001111_0111_0_11011_001101_11_0110, .mcst 7 27 13 (.fld 6)),
    (0b1_010_010000_0111_011011_001101_10_0011, .ldG 7 27 13 2 (.fld 3)),
    (0b1_010_010001_0111_011011_001101_01_0011, .ldsG 7 27 13 1 (.fld 3)),
    (0b1_010_010010_0111_011011_001101_10_0011, .stG 7 27 13 2 (.fld 3)),
    (0b1_010_010011_0111_0_11011_001101_11_0110, .vldG 7 27 13 (.fld 6)),
    (0b1_010_010100_0111_0_11011_001101_11_0110, .vstG 7 27 13 (.fld 6)),
    (0b1_010_010101_0111_011011_001101_1000_11, .amoG 7 27 13 8 3),
    (0b1_010_010110_0111_011011_001101_100110, .casG 7 27 13 38)].all reads = true := by decide

theorem test_decode_memory2 : [
    (0b1_010_010111_0111_011011_001101_10_0011, .ldN 7 27 13 2 (.fld 3)),
    (0b1_010_011000_0111_011011_001101_01_0011, .ldsN 7 27 13 1 (.fld 3)),
    (0b1_010_011001_0111_011011_001101_10_0011, .stN 7 27 13 2 (.fld 3)),
    (0b1_010_011010_0111_0_11011_001101_11_0110, .vldN 7 27 13 (.fld 6)),
    (0b1_010_011011_0111_0_11011_001101_11_0110, .vstN 7 27 13 (.fld 6)),
    (0b1_010_011100_0111_011011_001101_1000_11, .amoN 7 27 13 8 3),
    (0b1_010_011101_0111_011011_001101_100110, .casN 7 27 13 38),
    (0b1_010_011110_0111_0_11011_0_01101_00_0110, .gathVector 7 27 13 6),
    (0b1_010_011110_0111_100_011_0_01101_000000, .gathTile 7 3 13),
    (0b1_010_011111_0111_011011_001101_000000, .sqNew 7 27 13),
    (0b1_010_100000_0111_011011_001101_100110, .sqRes 7 27 13 38),
    (0b1_010_100001_0111_011011_001101_100110, .sqCom 7 27 13 38),
    (0b1_010_100010_0111_011011_001101_100110, .sqLen 7 27 13 38),
    (0b1_010_100011_0111_011011_001101_000000, .sqFork 7 27 13),
    (0b1_010_100100_0111_000000_011011_000000, .sqDrop 7 27),
    (0b1_010_100101_0111_10_0_101_0_00110_110011, .sqGath 7 2 5 6 51),
    (0b1_010_100110_0111_011011_001101_100110, .sqPre 7 27 13 38),
    (0b1_010_100111_0111_011011_001101_000000, .plReq 7 27 13),
    (0b1_010_101000_0111_0_11011_001101_00_0110, .plRsp 7 27 13 6),
    (0b1_010_101001_0111_011011_0000_10_00_0110, .phReg 7 27 2 6),
    (0b1_010_101010_0111_00000000000000_1011, .phDrop 7 11),
    (0b1_010_101011_0111_00000000000000_1011, .phSig 7 11),
    (0b1_010_101100_0111_011011_00000000_1101, .phWait 7 27 13)].all reads = true := by decide

theorem test_decode_memory3 : [
    (0b1_010_101101_0111_011011_00000000_1101, .phAdv 7 27 13),
    (0b1_010_101110_0111_011011_000000000000, .clBar 7 27),
    (0b1_010_101111_0111_00000_1_000000_001101, .wcnt 7 1 13),
    (0b1_010_110000_0111_0000000000000_100_1_0, .fence 7 4 1 0),
    (0b1_010_110001_0111_011011_1_00110_110011, .waita 7 27 1 6 51),
    (0b1_010_110010_0111_011011_001101_00000_1, .ownAcq 7 27 13 1),
    (0b1_010_110011_0111_000000_011011_000000, .ownRel 7 27),
    (0b1_010_110100_0111_011011_001101_000000, .dig 7 27 13)].all reads = true := by decide

theorem test_decode_vector1 : [
    (0b1_011_000000_0111_011_01101_00110_10011, .vadd 7 3 13 6 (.fld 19)),
    (0b1_011_000001_0111_011_01101_00110_10011, .vsub 7 3 13 6 (.fld 19)),
    (0b1_011_000010_0111_011_01101_00110_10011, .vmul 7 3 13 6 (.fld 19)),
    (0b1_011_000011_0111_011_01101_00110_10011, .vfma 7 3 13 6 (.fld 19)),
    (0b1_011_000100_0111_011_01101_00110_10011, .vmin 7 3 13 6 (.fld 19)),
    (0b1_011_000101_0111_011_01101_00110_10011, .vmax 7 3 13 6 (.fld 19)),
    (0b1_011_000110_0111_011_01101_00110_10011, .vand 7 3 13 6 (.fld 19)),
    (0b1_011_000111_0111_011_01101_00110_10011, .vor 7 3 13 6 (.fld 19)),
    (0b1_011_001000_0111_011_01101_00110_10011, .vxor 7 3 13 6 (.fld 19)),
    (0b1_011_001001_0111_011_01101_00110_10011, .vshl 7 3 13 6 (.fld 19)),
    (0b1_011_001010_0111_011_01101_00110_10011, .vshr 7 3 13 6 (.fld 19)),
    (0b1_011_001011_0111_011_01101_00110_10011, .vsar 7 3 13 6 (.fld 19)),
    (0b1_011_001100_0111_011_01101_00110_00000, .vabs 7 3 13 6),
    (0b1_011_001101_0111_011_01101_00110_00000, .vneg 7 3 13 6),
    (0b1_011_001110_0111_011_01101_00110_11_001, .vcvt 7 3 13 6 3 1),
    (0b1_011_001111_0111_011_01101_00110_10011, .vcmpEq 7 3 13 6 (.fld 19)),
    (0b1_011_010000_0111_011_01101_00110_10011, .vcmpLt 7 3 13 6 (.fld 19)),
    (0b1_011_010001_0111_011_01101_00110_10011, .vcmpLe 7 3 13 6 (.fld 19)),
    (0b1_011_010010_0111_011_01101_00110_10011, .vsel 7 3 13 6 19),
    (0b1_011_010011_0111_011_01101_00110_00000, .vbcast 7 3 13 6),
    (0b1_011_010100_0111_011_01101_00110_10011, .vperm 7 3 13 6 19),
    (0b1_011_010101_0111_011_01101_00110_10011, .vrot 7 3 13 6 19),
    (0b1_011_010110_0111_011_01101_00110_00000, .vrsum 7 3 13 6)].all reads = true := by decide

theorem test_decode_vector2 : [
    (0b1_011_010111_0111_011_01101_00110_00000, .vrmax 7 3 13 6),
    (0b1_011_011000_0111_011_01101_00110_00000, .vrmin 7 3 13 6),
    (0b1_011_011001_0111_011_01101_00110_00000, .vscan 7 3 13 6),
    (0b1_011_011010_0111_011_01101_00110_00000, .vexp2 7 3 13 6),
    (0b1_011_011011_0111_011_01101_00110_00000, .vlog2 7 3 13 6),
    (0b1_011_011100_0111_011_01101_00110_00000, .vrcp 7 3 13 6),
    (0b1_011_011101_0111_011_01101_00110_00000, .vrsq 7 3 13 6),
    (0b1_011_011110_0111_011_01101_00110_00000, .vtanh 7 3 13 6),
    (0b1_011_011111_0111_011_01101_00110_10011, .vextr 7 3 13 6 19),
    (0b1_011_100000_0111_011_01101_00110_10011, .vinsr 7 3 13 6 19),
    (0b1_011_100001_0111_011_01101_00110_10011, .vdot4 7 3 13 6 19),
    (0b1_011_100010_0111_011_01101_00110_10011, .vmulh 7 3 13 6 (.fld 19)),
    (0b1_011_100011_0111_011_01101_00110_00_011, .vqsc 7 3 13 6 3),
    (0b1_011_100100_0111_011_01101_00110_11_001, .vqnt 7 3 13 6 3 1),
    (0b1_011_100101_0111_011_01101_0000000000, .vrng 7 3 13),
    (0b1_011_100110_0111_011_01101_00110_00000, .vpopc 7 3 13 6),
    (0b1_011_100111_0111_011_01101_00110_10011, .vcx 7 3 13 6 19),
    (0b1_011_101000_0111_011_01101_00110_10011, .vadds 7 3 13 6 (.fld 19)),
    (0b1_011_101001_0111_011_01101_00110_10011, .vsubs 7 3 13 6 (.fld 19)),
    (0b1_011_101010_0111_011_01101_00110_10011, .vminN 7 3 13 6 (.fld 19)),
    (0b1_011_101011_0111_011_01101_00110_10011, .vmaxN 7 3 13 6 (.fld 19)),
    (0b1_011_101100_0111_011_01101_00110_10011, .vcmpLtn 7 3 13 6 (.fld 19))].all reads = true := by decide

theorem test_decode_matrix : [
    (0b1_100_000000_0111_11_101_00110_1_1_101100, .mm 7 3 5 6 1 1 44),
    (0b1_100_000001_0111_11_000_01101_0000_0110, .mmDRoute 7 3 13 6),
    (0b1_100_000001_0111_11_101_00110_01000000, .mmDSteer 7 3 5 6),
    (0b1_100_000010_0111_11_0000000000000000, .mmZ 7 3),
    (0b1_100_000011_0111_00_011_01101_0_1_000000, .mmW 7 3 13 1),
    (0b1_100_000100_0111_11_000_01101_00000000, .mmAr 7 3 13),
    (0b1_100_000101_0111_11_000_01101_00000000, .mmAw 7 3 13),
    (0b1_100_000110_0111_011011_01101_0110_000, .tdSet 7 (.fld 27) 13 6),
    (0b1_100_000111_0111_011011_01101_0101_000, .tdGet 7 27 13 5),
    (0b1_100_001000_0111_011011_01101_00_10_000, .tdStep 7 (.fld 27) 13 2)].all reads = true := by decide

theorem test_decode_transform : [
    (0b1_101_000000_0111_00000_11011_000_01_00_1, .xpTbl 7 27 1 1),
    (0b1_101_000001_0111_11011_01101_0_0110_00_1, .xpExp 7 27 13 6 1),
    (0b1_101_000010_0111_11011_01101_000_10_011, .xpCvt 7 27 13 2 3),
    (0b1_101_000011_0111_11011_01101_000000_01, .xpTrn 7 27 13 1),
    (0b1_101_000100_0111_11011_01101_000_10_00_1, .xpPack 7 27 13 2 1),
    (0b1_101_000101_0111_11011_01101_0_0101_00_1, .xpPln 7 27 13 5 1),
    (0b1_101_000110_0111_11011_01101_00110_011, .xpUnp 7 27 13 6 3)].all reads = true := by decide

/-! ## States that meet the hypotheses of the statements

Each theorem below is named after the statement whose hypotheses it meets, clause by clause. -/

/-- Die 0 of the package at position 0, its first cluster and its first core. -/
def d0 : DieId := { pkg := 0, die := 0 }
@[inherit_doc d0] def k0 : CluId := { die := d0, clu := 0 }
@[inherit_doc d0] def c0 : CoreId := { die := d0, clu := 0, core := 0 }
/-- Another slot, another die, and the first supervisor core of die 0. -/
def slot1 : SlotId := { core := c0, slot := 1 }
@[inherit_doc slot1] def d1 : DieId := { pkg := 0, die := 1 }
@[inherit_doc slot1] def v0 : SupId := { die := d0, k := 0 }

/-- After reset, with the firing of slot 0 in issue. -/
def st : State := { State.reset with cur := .stage slot0 }
/-- After reset, with supervisor core 0 in issue. -/
def sv : State := { State.reset with cur := .sup v0 }
/-- `st` with scalar registers written; and `sv`. -/
def stx (l : List (BitVec 6 × Word)) : State := st.modMe (fun c => l.foldl (fun c e => c.wx e.1 e.2) c)
@[inherit_doc stx] def svx (l : List (BitVec 6 × Word)) : State := sv.modMe (fun c => l.foldl (fun c e => c.wx e.1 e.2) c)

theorem test_witness_AluResults : st.free 1 0 { xr := [63, 0], xw := [63] } = true ∧ st.free 1 0 { xr := [1, 2], xw := [0] } = true := by
  decide
theorem test_witness_ShiftResults : (stx [(2, 64)]).free 1 0 { xr := [63, 2], xw := [1] } = true := by decide
theorem test_witness_DivideResults :
    (∀ s ∈ [st, stx [(1, 7), (2, 3)], stx [(1, BitVec.intMin 64), (2, BitVec.allOnes 64)]],
      s.free 1 0 { xr := [1, 2], xw := [3] } = true ∧ ∀ f ∈ s.me.flights, f.src = .divide → s.iss.mark ≤ f.id) ∧
    st.rx 2 = 0 ∧ (stx [(1, 7), (2, 3)]).rx 2 ≠ 0 ∧ (stx [(1, BitVec.intMin 64), (2, BitVec.allOnes 64)]).rx 1 = BitVec.intMin 64 ∧
    (stx [(1, BitVec.intMin 64), (2, BitVec.allOnes 64)]).rx 2 = BitVec.allOnes 64 := by decide
theorem test_witness_ImmediateResults : st.free 1 0 { xr := [63], xw := [63] } = true ∧ st.free 1 0 { xw := [63] } = true := by decide
theorem test_witness_BitFieldResults : st.free 1 0 { xr := [1, 2], xw := [3], pr := [15] } = true ∧
    st.free 1 0 { xr := [63], xw := [0] } = true ∧ st.free 1 0 { xr := [1, 2], xw := [3] } = true ∧
    st.free 1 0 { xr := [1, 2, 3], xw := [3] } = true := by decide
theorem test_witness_PackResults : (62 : BitVec 6) ≠ 63 ∧ st.free 1 0 { xr := [62, 62 + 1, 0], xw := [1] } = true ∧
    st.free 1 0 { xr := [63, 0], xw := [1] } = true ∧ st.cur = .stage slot0 ∧ sv.cur = .sup v0 := by decide
theorem test_witness_CompareResults : (∀ m : BitVec 2, st.free 1 0 (predRegs 14 m [63, 0] []) = true ∧
    st.free 1 0 (predRegs 14 m [63] []) = true) := by decide
theorem test_witness_PredicateResults : ∀ m : BitVec 2, st.free 1 0 (predRegs 14 m [] [15, 0]) = true := by decide
theorem test_witness_FloatResults : st.free 1 0 { xr := 1 :: fpReg (.fld 63), xw := [3] } = true ∧
    st.free 1 0 { xr := 3 :: 1 :: fpReg (.ext1 0), xw := [3] } = true ∧ st.free 1 0 (predRegs 14 3 (1 :: fpReg (.fld 2)) []) = true ∧
    (∀ f ∈ st.me.flights, f.src = .fdivide → st.iss.mark ≤ f.id) ∧ st.free 1 0 { xr := [1, 2], xw := [3] } = true ∧
    st.free 1 0 { xr := [1], xw := [3] } = true := by decide
theorem test_witness_DrawResults : st.free 1 0 { xw := [63] } = true ∧ st.free 1 0 { xr := [63], xw := [0] } = true := by decide

/-! ### Control instructions -/

/-- `st` with the stage predicates `p8` and `p9` set. -/
def stp : State := st.modMe (fun c => { c with p := 0x0300 })
/-- `st` with return addresses held. -/
def strs (n : Nat) : State := st.modMe (fun c => { c with rs := List.replicate n 4 })

theorem test_witness_BranchResults : st.free 0 0 {} = true ∧ (stx [(1, 8)]).free 0 0 { xr := [1] } = true ∧
    ((stx [(1, 8)]).rx 1).toNat % 4 = 0 ∧ stp.free 0 0 { pr := [1, 8, 9, 10] } = true ∧ stp.rp 1 = false ∧ stp.rp 8 = true ∧
    st.free 0 0 { pr := [1, 2] } = true ∧ st.rp 1 = false ∧ st.rp 2 = false := by decide
theorem test_witness_CallResults : (strs 7).me.rs.length < 8 ∧ (strs 7).free 0 0 {} = true ∧ (strs 7).free 0 0 { xr := [0] } = true ∧
    ((strs 7).rx 0).toNat % 4 = 0 ∧ (strs 1).me.rs ≠ [] ∧ (strs 1).free 0 0 {} = true := by decide
theorem test_witness_LoopResults : (stx [(1, 2)]).free 0 0 { xr := [1], xw := [1] } = true ∧ (stx [(1, 2)]).rx 1 ≠ 1 ∧
    (stx [(1, 1)]).free 0 0 { xr := [1], xw := [1] } = true ∧ (stx [(1, 1)]).rx 1 = 1 ∧
    stp.free 0 0 { xr := [1], pw := stagePreds } = true ∧ stp.free 0 0 { pr := stagePreds, pw := stagePreds } = true ∧
    stp.me.cr.lc = 0 ∧ stp.me.cr.ec = 0 := by
  refine ⟨by decide, by decide, by decide, by decide, by decide, by decide, by decide, by decide⟩
/-- `stp` with the loop counters. -/
def looping (lc : Word) (ec : BitVec 6) : State := stp.modMe (fun c => { c with cr := { c.cr with lc := lc, ec := ec } })
theorem test_witness_LoopResults_counters : (looping 1 0).free 0 0 { pr := stagePreds, pw := stagePreds } = true ∧
    (looping 1 0).me.cr.lc ≠ 0 ∧ (looping 0 63).free 0 0 { pr := stagePreds, pw := stagePreds } = true ∧
    (looping 0 63).me.cr.lc = 0 ∧ (looping 0 63).me.cr.ec ≠ 0 := by
  refine ⟨by decide, by decide, by decide, by decide, by decide⟩
theorem test_witness_ControlTraps : (stx [(1, 2)]).free 0 0 { xr := [1] } = true ∧ ((stx [(1, 2)]).rx 1).toNat % 4 ≠ 0 ∧
    (stx [(1, 2)]).me.rs.length < 8 ∧ 8 ≤ (strs 8).me.rs.length ∧ (strs 8).free 0 0 {} = true ∧ (strs 8).free 0 0 { xr := [0] } = true ∧
    st.free 0 0 {} = true ∧ st.me.rs = [] ∧ st.resultBusy { pr := [15] } = false ∧ st.rp 15 = false := by decide
/-- A local load whose access has lost its banks. -/
def waitingLoad : Flight :=
  { id := 7, due := 0, src := .load, writes := [], flags := 0, access := some { addr := 0, len := 8, dest := .x 1 8 false, lat := 3, amo := none } }

theorem test_witness_TrapResults : st.free 0 0 {} = true ∧ st.cur = .stage slot0 ∧ st.canCapture slot0 = true ∧ sv.free 0 0 {} = true ∧
    sv.cur = .sup v0 ∧ (st.modMe (fun c => { c with flights := [waitingLoad] })).canCapture slot0 = false ∧
    (st.modMe (fun c => { c with flights := [waitingLoad] })).free 0 0 {} = true := by decide
theorem test_witness_TrapSaves : (0x1FFFC : Nat) < 2 ^ 17 ∧ st.pendingStores (.stage slot0) = [] ∧
    st.canCapture slot0 = true := by decide
theorem test_witness_ControlReads : st.free 0 0 { xw := [63] } = true ∧ sv.free 0 0 { xw := [63] } = true ∧ sv.cur = .sup v0 := by decide
theorem test_witness_ControlWrites : st.free 0 0 { xr := [63] } = true ∧ st.cur = .stage slot0 ∧ sv.free 0 0 { xr := [63] } = true ∧
    sv.cur = .sup v0 ∧ (sv.sup v0).trapc = 0 := by decide

/-- A trap record, and supervisor core 0 holding the trap of slot 0, with an action. -/
def tr : TrapRec :=
  { cause := 12, value := 0, addr := 0, waiting := false, oow := false, parked := false, lead := 0, resumable := true }
@[inherit_doc tr] def held (act : BitVec 2) : State :=
  (sv.modSup v0 (fun u => { u with trapc := 12, held := some slot0, act := act })).modSlot slot0 (fun v =>
    { v with sst := .active, fst := .trapped, trap := some tr })

theorem test_witness_SupervisorResults : isSup st.cur = false ∧ sv.free 0 0 {} = true ∧ (sv.sup v0).trapc = 0 ∧
    sv.free 0 0 { xr := [63] } = true ∧ (∀ a : BitVec 2, (held a).cur = .sup v0 ∧ (held a).free 0 0 {} = true ∧
      ((held a).sup v0).trapc ≠ 0 ∧ ((held a).sup v0).held = some slot0 ∧ ((held a).slot slot0).fst = .trapped ∧
      ((held a).sup v0).act = a ∧ ((held a).slot slot0).sst ≠ .empty) := by decide
/-- `held` with page 0 of the window mapped, and page 1 backed. -/
def paged : State := (held 0).modCore c0 (fun k => { k with mapped := 1, backing := [(1, 5)] })
theorem test_witness_ControlWrites_codemap : paged.cur = .sup v0 ∧ paged.free 0 0 { xr := [63] } = true ∧
    (paged.sup v0).held = some slot0 ∧ (paged.sup v0).trapc ≠ 0 ∧ (paged.core c0).mapped.getLsbD 0 = true ∧ (2 : Word).getLsbD 0 = false ∧
    (List.range 32).filter (fun n => !(paged.core c0).mapped.getLsbD n && (2 : Word).getLsbD n && (tfind (paged.core c0).backing n).isSome) =
      [1] := by decide
/-- `sv` with a `CFG.NEXT` that has begun a load, or none; and with a load of the die under way, or none. -/
def nexting (sync : Bool) (load : Bool) : State :=
  (sv.modMe (fun c => { c with sync := if sync then some { word := 0, since := 0, notified := none } else none })).modDie d0 (fun k =>
    { k with seqState := if load then .loading else .idle, loading := if load then some (none, true, 0) else none })

theorem test_witness_SupervisorResults_next : (∀ a b, (nexting a b).cur = .sup v0 ∧ (nexting a b).free 0 0 { xr := [63] } = true) ∧
    (nexting false false).me.sync = none ∧ ((nexting false false).die d0).switching = false ∧
    (∃ w l, (nexting true true).me.sync = some w ∧ ((nexting true true).die d0).loading = some l ∧ l.2.2 = w.since) ∧
    (∃ w, (nexting true false).me.sync = some w) ∧ ((nexting true false).die d0).loading = none ∧ (nexting false true).me.sync = none ∧
    ((nexting false true).die d0).switching = true := by
  refine ⟨by decide, by decide, by decide, ⟨_, _, rfl, rfl, by decide⟩, ⟨_, rfl⟩, by decide, by decide, by decide⟩

/-! ### Packets -/

/-- A channel from slot 1, an input port with it, a data packet in its ring, and an output port to slot 1. -/
def ch : Chan := { src := slot1, port := 0, expected := 0, next := 0, bad := 0, dup := 0, freed := none }
@[inherit_doc ch] def ip : InPort :=
  { rate := 1, bufs := 2, size := 4096, base := 0, merge := false, chans := [ch], ring := [], held := [] }
@[inherit_doc ch] def bufK (kind : BitVec 4) : Buf :=
  { kind := kind, round := 0, seq := 0, src := 0, sport := 0, chan := 0, addr := 0, word0 := 0, taken := false, also := [], at_ := 0 }
@[inherit_doc ch] def op : OutPort :=
  { rate := 1, dst := slot1, dport := 0, chan := 0, dstStage := 0, bufs := 2, size := 4096, credits := 2, nextSeq := 0, retained := [],
    credited := none, sentRound := false, sentEos := false, drainSent := false, lastArr := 0 }
/-- `st` with slot 0 as `f` gives it. -/
def stSlot (f : Slot → Slot) : State := st.modSlot slot0 f
/-- An active slot with an input port, at the highest number, that holds some packets, and an output port. -/
def ported (ring : List Buf) (o : OutPort) : State :=
  stSlot (fun v => { v with sst := .active, fst := .running, ins := [(7, { ip with ring := ring })], outs := [(7, o)] })

theorem test_witness_PacketReads : (ported [bufK 0] op).cur = .stage slot0 ∧
    tfind ((ported [bufK 0] op).slot slot0).ins 7 = some { ip with ring := [bufK 0] } ∧
    (ported [bufK 0] op).free 0 0 { xw := [1, 2] } = true ∧ ({ ip with ring := [bufK 0] } : InPort).untaken = [bufK 0] ∧
    ip.untaken = [] ∧ (ported [] op).free 0 0 { xw := [1, 2] } = true ∧ (ported [bufK 0] op).free 0 0 { xr := [1], xw := [2] } = true ∧
    (ported [] op).free 0 0 { xw := [1] } = true ∧ tfind ((ported [] op).slot slot0).outs 7 = some op ∧
    tfind ((ported [] op).slot slot0).ins 0 = none ∧ (ported [] op).free 0 0 {} = true ∧
    (ported [] op).me.tags.ready.getLsbD 15 = true ∧
    ((ported [] op).modMe (fun c => c.setReady 15 false)).me.tags.ready.getLsbD 15 = false ∧
    ((ported [] op).modMe (fun c => c.setReady 15 false)).free 0 0 {} = true := by decide
theorem test_witness_PacketSends_bounds : ∀ s, s = (ported [] op).modMe (fun c => c.wx 1 0x1FFFF0) →
    tfind (s.slot slot0).outs 7 = some op ∧ s.free 0 0 { xr := [1], xw := [2] } = true ∧ (s.rx 1).toNat % 16 = 0 ∧
    2 ^ 21 < (s.rx 1).toNat + 32 := by
  rintro s rfl; decide
theorem test_witness_PacketSends : tfind ((ported [] op).slot slot0).outs 7 = some op ∧
    (ported [] op).free 0 0 { xr := [1], xw := [2] } = true ∧ ((ported [] op).rx 1).toNat % 16 = 0 ∧
    bitsAt (memNat (ported [] op).bundleMem 0 8) 12 13 = 0 ∧ 1 ≤ op.credits ∧ (ported [] op).drainsOn slot0 7 = false ∧
    (ported [] op).portHeld 2 = false ∧
    ((ported [] op).modMe (fun c => c.wx 1 8)).free 0 0 { xr := [1], xw := [2] } = true ∧
    tfind ((ported [] { op with credits := 0 }).slot slot0).outs 7 = some { op with credits := 0 } ∧
    (ported [] { op with credits := 0 }).free 0 0 { xr := [1], xw := [2] } = true ∧ (ported [] op).free 0 0 {} = true ∧
    (tfind ((ported [] op).slot slot0).outs 7).isSome ∧
    (∀ m < 8, ∀ o, tfind ((ported [] op).slot slot0).outs m = some o → 1 ≤ o.credits ∧ (ported [] op).drainsOn slot0 m = false) := by
  refine ⟨by decide, by decide, by decide, by decide, by decide, by decide, by decide, by decide, by decide, by decide, by decide, by decide,
    ?_⟩
  intro m hm o ho
  have : (tfind ((ported [] op).slot slot0).outs m) = if m = 7 then some op else none := by
    interval_cases m <;> rfl
  rw [this] at ho
  split at ho
  · subst_vars; cases ho; decide
  · cases ho

/-! ### Memory -/

/-- The last 8 bytes of a scratchpad, a word of it in the middle, and an empty granule. -/
def hi8 : State := stx [(1, 0x1FFFF8)]
/-- `st` with granule 0 of its core empty. -/
def emptied : State := st.modCore c0 (fun k => { k with emptyBits := [0] })

/-- `st` with the banks of the first words served to another agent in this cycle. -/
def taken : State := st.setArb c0 { cycle := st.cycle, landed := [], taken := [0], ported := [], waits := [], runs := [] }

/-- A held syllable. -/
def heldSyl (word : BitVec 32) : Held :=
  { id := 7, instr := .vadd 0 0 1 2 (.fld 3), word := word, exts := [], vrb := 0, seed := 0, ctr := 0, cvrnd := 0, xval := 0,
    bundle := 0, bank := false, tags := [], tileTag := 0, accTag := 0 }
/-- A local store on its way. -/
def lst : LocalStore := { id := 7, by_ := .stage slot0, addr := 0x1FFFF8, data := List.replicate 8 1, setFull := true, due := 0 }
/-- `st` with a store of its core on its way. -/
def storing : State := st.modCore c0 (fun k => { k with stores := [lst] })

theorem test_witness_LocalLoads : hi8.free 2 0 { xr := [1], xw := [2] } = true ∧ addrOf (hi8.rx 1) 8 (.fld 0) = 0x1FFFF8 ∧
    (0x1FFFF8 : Nat) + 8 ≤ localSize hi8.cur ∧ hi8.portBusy = false ∧ hi8.arTouches 0x1FFFF8 8 = false ∧
    hi8.clean hi8.cur 0x1FFFF8 8 = true ∧ 0x1FFFF8 / 16 ∉ hi8.localEmpties hi8.cur ∧ portGoes hi8 0x1FFFF8 8 = true ∧
    portGoes taken 0 8 = false ∧ taken.free 2 0 { xr := [1], xw := [2] } = true ∧ taken.portBusy = false ∧
    taken.arTouches 0 8 = false ∧ portGoes emptied 0 8 = true ∧ 0 / 16 ∈ emptied.localEmpties emptied.cur ∧
    hi8.pendingStores hi8.cur = [] ∧ emptied.pendingStores emptied.cur = [] ∧
    portGoes { st.modMe (fun c => { c with flights := [waitingLoad] }) with uid := 8 } 0 8 = false ∧
    emptied.free 2 0 { xr := [1], xw := [2] } = true ∧ addrOf (emptied.rx 1) 8 (.fld 0) = 0 ∧
    emptied.clean emptied.cur 0 8 = true ∧ emptied.arTouches 0 8 = false ∧
    st.free 2 0 { xr := [1], vw := [physOf st.me.cr.vrb 31] } = true ∧ addrOf (st.rx 1) 128 (.fld 0) = 0 ∧
    portGoes st 0 128 = true ∧ st.clean st.cur 0 128 = true ∧ st.arTouches 0 128 = false ∧ sv.free 2 0 { xr := [1], xw := [2] } = true ∧
    sv.clean sv.cur 0 8 = true := by decide
theorem test_witness_LocalStores : hi8.free 2 0 { xr := [2, 1], localWrite := true } = true ∧ hi8.portBusy = false ∧
    emptied.free 2 0 { xr := [2, 1], localWrite := true } = true ∧ 0 / 16 ∈ emptied.empties emptied.cur ∧
    0x1FFFF8 / 16 ∉ hi8.empties hi8.cur ∧ portGoes hi8 0x1FFFF8 8 = true ∧ hi8.pendingStores hi8.cur = [] ∧ portGoes emptied 0 8 = true ∧
    emptied.pendingStores emptied.cur = [] ∧ storing.pendingStores storing.cur ≠ [] ∧ storing.portBusy = false ∧
    storing.free 2 0 { xr := [2, 1], localWrite := true } = true ∧ storing.arTouches 0 8 = false ∧ st.free 2 0 { xr := [1], vr := [physOf st.me.cr.vrb 31], localWrite := true } = true := by decide
theorem test_witness_LocalAtomics : hi8.free 2 0 { xr := [2, 1], xw := [2], localWrite := true } = true ∧ hi8.me.cr.det = false ∧
    (hi8.rx 1).toNat % 8 = 0 ∧ (hi8.rx 1).toNat + 8 ≤ localSize hi8.cur ∧ (hi8.rx 1).toNat % 4 = 0 ∧
    hi8.arTouches 0x1FFFF8 4 = false ∧ hi8.clean hi8.cur 0x1FFFF8 4 = true ∧ portGoes hi8 0x1FFFF8 4 = true ∧ hi8.pendingStores hi8.cur = [] ∧
    portGoes taken 0 8 = false ∧ (∃ x ∈ ({ storing with uid := 8 }).pendingStores storing.cur, x.id < 8) ∧
    ({ storing with uid := 8 }).free 2 0 { xr := [2, 1], xw := [2], localWrite := true } = true := by decide
/-- An address that is not aligned, those on both sides of the scratchpad, and one whose access leaves it. -/
def locals : List (State × Int) := [(stx [(1, 1)], 1), (stx [(1, 0x200000)], 0x200000), (stx [(1, 0x1FFFF0)], 0x1FFFF0)]

theorem test_witness_LocalTraps : (∀ c ∈ locals, addrOf (c.1.rx 1) 128 (.fld 0) = c.2 ∧ ((c.1.rx 1).toNat : Int) = c.2 ∧
      c.1.free 2 0 { xr := [1], xw := [2] } = true ∧ c.1.free 2 0 { xr := [2, 1], localWrite := true } = true ∧
      c.1.free 2 0 { xr := [1], vw := [physOf c.1.me.cr.vrb 31] } = true ∧
      c.1.free 2 0 { xr := [1], vr := [physOf c.1.me.cr.vrb 31], localWrite := true } = true ∧
      c.1.free 2 0 { xr := [2, 1], xw := [2], localWrite := true } = true ∧ localSize c.1.cur = 0x200000) ∧
    (1 : Int) % 2 ≠ 0 ∧ (1 : Int) % 16 ≠ 0 ∧ (0x1FFFF0 : Int) % 16 = 0 ∧ (0x200000 : Int) < 0x1FFFF0 + 128 ∧
    addrOf (sv.rx 1) 8 (.ext1 0xFFFFFF8) < 0 ∧ addrOf (sv.rx 1) 8 (.ext1 0xFFFFFF8) % 8 = 0 ∧
    (st.modMe (fun c => { c with cr := { c.cr with det := true } })).free 2 0 { xr := [2, 1], xw := [2], localWrite := true } = true := by
  decide
theorem test_witness_LocalTraps_forms : ∀ f ∈ [Instr.ldL 0 2 1 1 (.fld 0), .ldLfc 0 2 1 1 (.fld 0), .stLe 0 2 1 1 (.fld 0)],
    localForm (stx [(1, 1)]) 0 2 1 31 1 (.fld 0) 0 f 1 2 2 := by
  unfold localForm; decide

/-- A core whose reach set is all 96 cores, and the last word of the last core's scratchpad in `x1`. -/
def reaching : State := (stx [(1, 95 * 0x200000 + 0x1FFFF8), (2, 95 * 0x200000 + 0x1FFF80)]).modCore c0 (fun k => { k with reach := BitVec.allOnes 96 })

theorem test_witness_ClusterRequests : reaching.cur = .stage slot0 ∧ addrOf (reaching.rx 1) 8 (.fld 0) = 95 * 0x200000 + 0x1FFFF8 ∧
    addrOf (reaching.rx 2) 128 (.fld 0) = 95 * 0x200000 + 0x1FFF80 ∧ (reaching.core c0).reach.getLsbD 95 = true ∧
    reaching.free 2 0 { xr := [1], xw := [3] } = true ∧ reaching.free 2 0 { xr := [3, 1] } = true ∧
    reaching.free 2 0 { xr := [2], vw := [physOf reaching.me.cr.vrb 31] } = true ∧
    reaching.free 2 0 { xr := [2], vr := [physOf reaching.me.cr.vrb 31] } = true := by decide

/-- A valid window 15 of core 0: 16,384 lines of 128 bytes, to core 95; stopped or not. -/
def windowed (bad : List Nat) : State :=
  (stx [(1, 15 * 0x200000 + 0x1FFF80)]).modClu k0 (fun k => { k with
    windows := k.windows.set 15 { w0 := 0x8000000000000000 ||| (16384 : Word) <<< 21, w1 := 0, w2 := 0x80000000 }, windowsBad := bad })

theorem test_witness_MulticastStore : ∀ b ∈ [[], [15]], (windowed b).cur = .stage slot0 ∧
    (windowed b).free 2 0 { xr := [1], vr := [physOf (windowed b).me.cr.vrb 31] } = true ∧
    addrOf ((windowed b).rx 1) 128 (.fld 0) = 15 * 0x200000 + 0x1FFF80 ∧
    (∃ w, ((windowed b).clu (cluOf slot0.core)).windows[15]? = some w ∧ w.w0.getLsbD 63 = true ∧ wbits w.w0 48 7 = slot0.core.core ∧
      0x1FFF80 + 128 ≤ wbits w.w0 21 15 * 128) ∧ ((windowed b).clu (cluOf slot0.core)).windowsBad = b := by
  intro b hb
  simp only [List.mem_cons, List.not_mem_nil, or_false] at hb
  rcases hb with rfl | rfl <;>
    exact ⟨by decide, by decide, by decide, ⟨_, rfl, by decide, by decide, by decide⟩, by decide⟩

theorem test_witness_MulticastStore_waits : (windowed []).mcstWaits (15 * 0x200000 + 0x1FFF80) = false ∧
    (∀ s, s = (windowed []).modMe (fun c => { c with vecq := [{ heldSyl 0 with id := 0, acquire := true }] }) → ∀ t,
      t = { s with iss := { s.iss with mark := 1 } } → t.mcstWaits (15 * 0x200000 + 0x1FFF80) = true ∧
        t.free 2 0 { xr := [1], vr := [physOf t.me.cr.vrb 31] } = true) := by
  refine ⟨by decide, ?_⟩
  rintro s rfl t rfl; decide

/-- A stage window of the whole gallery, and its last bytes in `x1`. -/
def gal : State := (stx [(1, 0xFFFFFF8), (2, 0xFFFFF80)]).modDie d0 (fun k => { k with gwin := (4096 : Word) <<< 32 })

theorem test_witness_GalleryRequests : gal.window gal.cur = (0, 0x10000000) ∧ addrOf (gal.rx 1) 8 (.fld 0) = 0xFFFFFF8 ∧
    addrOf (gal.rx 2) 128 (.fld 0) = 0xFFFFF80 ∧ (0xFFFFFF8 : Nat) < ctlLo ∧ gal.free 2 0 { xr := [1], xw := [3] } = true ∧
    gal.free 2 0 { xr := [3, 1] } = true ∧ gal.free 2 0 { xr := [2], vw := [physOf gal.me.cr.vrb 31] } = true ∧
    gal.free 2 0 { xr := [2], vr := [physOf gal.me.cr.vrb 31] } = true ∧ gal.free 2 0 { xr := [3, 1], xw := [3] } = true ∧
    gal.me.cr.det = false ∧ gal.free 2 0 { xr := [3, 1, 4], xw := [3] } = true ∧
    (svx [(1, 0x10000000)]).cur = .sup v0 ∧ addrOf ((svx [(1, 0x10000000)]).rx 1) 8 (.fld 0) = ctlLo ∧ ctlLo < ctlHi ∧
    ((svx [(1, 0x10000000)]).ctlReg d0 ctlLo).isSome = true ∧ (svx [(1, 0x10000000)]).free 2 0 { xr := [1], xw := [3] } = true ∧
    (svx [(1, 0x10000000)]).free 2 0 { xr := [3, 1] } = true := by decide

/-- A die whose translation cache holds page 1 with the entry `e` (R362), in a package that names itself: number 0 is position 0. -/
def fab (e : Word) (x1 : Word) : State :=
  ((stx [(1, x1), (2, 0x3FFF80)]).modDie d0 (fun k => { k with ftroot := 1, tlb := [(1, (1, e))] })).modPkg 0 (fun p =>
    { p with posmap := [((false, 0), 0x8000000000000000)], pmemb := [(0, 1)] })
/-- An entry of gallery page 127 of die 0: valid, writable, with copies. -/
def pageE : Word := 0xE00000000000007F

theorem test_witness_FabricRequests : addrOf ((fab pageE 0x3FFFF8).rx 1) 8 (.fld 0) = 0x3FFFF8 ∧
    addrOf ((fab pageE 0x3FFFF8).rx 2) 128 (.fld 0) = 0x3FFF80 ∧ (fab pageE 0x3FFFF8).translate 0x3FFFF8 = some (.ok pageE) ∧
    ((fab pageE 0x3FFFF8).pkg (dieOf (fab pageE 0x3FFFF8).cur).pkg).member (wbits pageE 24 14) = true ∧
    (∀ u ∈ [PageUse.load, .store, .atomic], (fab pageE 0x3FFFF8).entryFault d0 pageE u = none) ∧
    (fab pageE 0x3FFFF8).free 2 0 { xr := [1], xw := [3] } = true ∧ (fab pageE 0x3FFFF8).free 2 0 { xr := [3, 1] } = true ∧
    (fab pageE 0x3FFFF8).free 2 0 { xr := [2], vw := [physOf st.me.cr.vrb 31] } = true ∧
    (fab pageE 0x3FFFF8).free 2 0 { xr := [2], vr := [physOf st.me.cr.vrb 31] } = true ∧
    (fab pageE 0x3FFFF8).free 2 0 { xr := [3, 1], xw := [3] } = true ∧
    (fab pageE 0x3FFFF8).free 2 0 { xr := [3, 1, 4], xw := [3] } = true ∧ (fab pageE 0).translate 0 = none ∧
    (fab pageE 0).free 2 0 { xr := [1], xw := [3] } = true := by decide
/-- An entry of a page of the gallery of die 0 of logical package 1; of a scratchpad; and one that admits no copies. -/
def pageP : Word := 0xE00000000100007F
@[inherit_doc pageP] def pageC : Word := 0xC00000000010005F
theorem test_witness_FabricRequests_ways :
    (fab pageE 0x3FFFF8).route d0 ((fab pageE 0x3FFFF8).homeDie ((fab pageE 0x3FFFF8).fabricPlace 0x3FFFF8 8).home) = .cost 0 ∧
    (fab pageE 0x3FFFF8).route d0 { pkg := 5, die := 0 } = .none ∧
    (∀ s, s = (fab pageE 0x3FFFF8).modPkg 0 (fun p => { p with frozen := some 1 }) → s.route d0 { pkg := 1, die := 0 } = .wait) ∧
    (fab pageE 0x3FFFF8).cacheHit d0 { home := .die d1, addr := 0, len := 8 } = false ∧
    ((fab pageE 0x3FFFF8).fabricPlace 0x3FFFF8 8).home.isCore = false ∧
    ((fab pageC 0x3FFFF8).fabricPlace 0x3FFFF8 8).home = .core { c0 with core := 95 } ∧ (fab pageC 0x3FFFF8).cacheable 0x3FFFF8 = false ∧
    (fab pageE 0x3FFFF8).cacheable 0x3FFFF8 = true ∧
    (∀ s, s = (st.modDie d0 (fun k => { k with tokens := [{ home := d1, page := 0, excl := false, recalled := false }], cachedLines := [(d1, 0)] })) →
      s.cacheHit d0 { home := .die d1, addr := 0, len := 8 } = true) := by
  refine ⟨by decide, by decide, ?_, by decide, by decide, by decide, by decide, by decide, ?_⟩ <;>
  · rintro s rfl; decide
/-- The forms are free in a state, and `x1` holds an address. -/
def FreeAt (s : State) (A : Int) : Prop :=
  addrOf (s.rx 1) 8 (.fld 0) = A ∧ addrOf (s.rx 1) 128 (.fld 0) = A ∧ ((s.rx 1).toNat : Int) = A ∧
  s.free 2 0 { xr := [1], xw := [2] } = true ∧ s.free 2 0 { xr := [2, 1] } = true ∧
  s.free 2 0 { xr := [1], vw := [physOf s.me.cr.vrb 31] } = true ∧ s.free 2 0 { xr := [1], vr := [physOf s.me.cr.vrb 31] } = true ∧
  s.free 2 0 { xr := [2, 1], xw := [2] } = true ∧ s.free 2 0 { xr := [2, 1, 3], xw := [2] } = true

theorem test_witness_AccessTraps : (∀ c ∈ [(stx [(1, 1)], (1 : Int)), (st, 0), (sv, 0), (stx [(1, 0x10000000)], 0x10000000),
      (reaching.modMe (fun c => c.wx 1 0xBFFFFF0), 0xBFFFFF0), (gal.modMe (fun c => c.wx 1 0xFFFFFF0), 0xFFFFFF0), (svx [(1, 0x10000000)], ctlLo),
      (svx [(1, 0x10000058)], 0x10000058), (svx [(1, 0x20000000)], 0x20000000), (svx [(1, 0xFFFFFF0)], 0xFFFFFF0), (fab pageE 0x1FFFF0, 0x1FFFF0), (stx [(1, 0x200000000000000)], 2 ^ 57), (fab pageE 0x200000, 0x200000),
      (fab pageP 0x200000, 0x200000), (fab 0x800000000000007F 0x200000, 0x200000)], FreeAt c.1 c.2) := by
  unfold FreeAt; decide
theorem test_witness_AccessTraps_forms :
    farForm (stx [(1, 1)]) 0 2 1 3 31 3 (.fld 0) 0 3 (.casN 0 2 1 3) 1 8 8 .atomic false ∧
    farForm (stx [(1, 1)]) 0 2 1 3 31 3 (.fld 0) 0 2 (.vstG 0 31 1 (.fld 0)) 1 128 16 .store false := by
  unfold farForm
  exact ⟨.inr (.inr (.inr (.inr (.inr (by decide))))), .inr (.inr (.inr (.inl (by decide))))⟩
theorem test_witness_AccessTraps_places : (st.core c0).reach.getLsbD 0 = false ∧ (0xBFFFFF0 : Nat) / 2 ^ 21 = 95 ∧
    (reaching.core c0).reach.getLsbD 95 = true ∧ (2 : Int) ^ 21 < 0xBFFFFF0 % 2 ^ 21 + 128 ∧ (0xBFFFFF0 : Int) % 16 = 0 ∧ (96 : Int) ≤ 0x10000000 / 2 ^ 21 ∧
    st.window st.cur = (0, 0) ∧ gal.window gal.cur = (0, 0x10000000) ∧ (0x10000000 : Int) < 0xFFFFFF0 + 128 ∧ ctlLo < ctlHi ∧ ctlHi ≤ 0x20000000 ∧ ctlLo < 0xFFFFFF0 + 128 ∧
    (sv.ctlReg d0 0x10000058).isSome = false ∧ (2 : Int) ^ 21 < 0x1FFFF0 % 2 ^ 21 + 128 ∧
    (st.die (dieOf st.cur)).ftroot.getLsbD 0 = false ∧
    (∀ s, s = ((fab pageE 0).modDie d0 (fun k => { k with bad := [0] })).modMe (fun c => { c with walk := some (0, true) }) →
      s.translate 0 = some (.check 0)) ∧
    (fab 0x800000000000007F 0x200000).translate 0x200000 = some (.ok 0x800000000000007F) ∧ (0x800000000000007F : Word).getLsbD 62 = false ∧
    (fab pageP 0x200000).translate 0x200000 = some (.ok pageP) ∧ (fab pageP 0x200000).entryFault d0 pageP .load = some 6 ∧
    (∀ s, s = (fab pageP 0x200000).modPkg 0 (fun p => { p with posmap := [((false, 1), 0x8000000000000000)] }) →
      s.translate 0x200000 = some (.ok pageP) ∧ s.entryFault d0 pageP .atomic = none ∧ (s.pkg 0).member (wbits pageP 24 14) = false) := by
  refine ⟨by decide, by decide, by decide, by decide, by decide, by decide, by decide, by decide, by decide, by decide, by decide, by decide,
    by decide, by decide, by decide, ?_, by decide, by decide, by decide, by decide, ?_⟩ <;>
  · rintro s rfl; decide
theorem test_witness_AccessTraps_windows : (∀ n ∈ [(1 : Word), 0x2000000, 0, 15 * 0x200000 + 0x1FFFF0], ∀ s, s = (windowed []).modMe (fun c => c.wx 1 n) →
      s.free 2 0 { xr := [1], vr := [physOf s.me.cr.vrb 31] } = true ∧ addrOf (s.rx 1) 128 (.fld 0) = n.toNat) ∧
    (∃ w, ((windowed []).clu k0).windows[0]? = some w ∧ w.w0.getLsbD 63 = false) ∧
    (∃ w, ((windowed []).clu k0).windows[15]? = some w ∧ w.w0.getLsbD 63 = true ∧ wbits w.w0 48 7 = c0.core ∧
      0x1FFFF0 < wbits w.w0 21 15 * 128 ∧ wbits w.w0 21 15 * 128 < 0x1FFFF0 + 128) := by
  refine ⟨?_, ⟨_, rfl, by decide⟩, ⟨_, rfl, by decide, by decide, by decide, by decide⟩⟩
  intro n hn s hs
  subst hs
  simp only [List.mem_cons, List.not_mem_nil, or_false] at hn
  rcases hn with rfl | rfl | rfl | rfl <;> exact ⟨by decide +kernel, by decide +kernel⟩
theorem test_witness_AccessTraps_fadd : ∀ s, s = (gal.modMe (fun c => { (c.wx 1 0xFFFFFFC) with cr := { c.cr with det := true } })) →
    (s.rx 1).toNat % 4 = 0 ∧ s.me.cr.det = true ∧ s.free 2 0 { xr := [2, 1], xw := [2] } = true ∧ (s.rx 1).toNat + 4 ≤ (s.window s.cur).2 := by
  rintro s rfl; decide

/-! ### Vectors and transforms -/

theorem test_witness_VecIntLanes : ∀ t ∈ [(0 : BitVec 3), 1, 2], ∀ i ∈ [Instr.vadd 0 t 31 0 (.fld 31), .vshl 0 t 31 0 (.ext1 1),
    .vmulh 0 t 0 31 (.fld 1), .vabs 0 t 31 31, .vcmpLtn 0 t 31 0 (.fld 2), .vpopc 0 t 31 0], vecNow st 0 i := by
  unfold vecNow; decide
theorem test_witness_VecFloatLanes : ∀ t ∈ [(3 : BitVec 3), 4, 5], ∀ i ∈ [Instr.vadd 0 t 31 0 (.fld 31), .vfma 0 t 31 0 (.ext1 1),
    .vcmpLe 0 t 31 0 (.fld 2), .vexp2 0 t 31 0, .vtanh 0 t 0 31], vecNow st 0 i := by unfold vecNow; decide
theorem test_witness_VecMoves : ∀ t ∈ [(0 : BitVec 3), 2, 5], ∀ i ∈ [Instr.vsel 0 t 31 0 1, .vbcast 0 t 31 31, .vextr 0 t 31 0 31,
    .vinsr 0 t 31 0 31, .vperm 0 t 31 0 1, .vrot 0 t 31 0 1, .vcx 0 t 31 0 1, .vdot4 0 2 31 0 1], vecNow st 0 i := by
  unfold vecNow; decide
theorem test_witness_VecReductions : ∀ t ∈ [((0 : BitVec 3), 5), (1, 6), (2, 7), (3, 5), (4, 6), (5, 6)],
    laneCount t.1.toNat = 2 ^ t.2 ∧ ∀ i ∈ [Instr.vrsum 0 t.1 31 0, .vrmax 0 t.1 0 31, .vrmin 0 t.1 31 31, .vscan 0 t.1 31 0],
      vecNow st 0 i := by unfold vecNow; decide
theorem test_witness_VecConversions : vecNow st 0 (.vcvt 0 0 28 31 0 3) ∧ vecNow st 0 (.vcvt 0 3 28 31 3 2) ∧
    vecNow st 0 (.vqsc 0 3 31 0 7) ∧ vecNow st 0 (.vqnt 0 5 31 0 3 0) ∧ (∀ t ∈ [(0 : BitVec 3), 1, 2, 3], vecNow st 0 (.vrng 0 t 31)) := by
  unfold vecNow; decide
theorem test_witness_VecHeld : (∃ y, vecSemOf (.vdot4 0 3 1 2 3) = some y ∧ y.typeOk = false) ∧
    ∃ y, vecSemOf (.vadd 0 0 1 2 (.fld 3)) = some y ∧ y.typeOk = true ∧
      ∀ s, s = st.modMe (fun c => c.takeTag 8 (some (physOf st.me.cr.vrb 1))) → s.free 3 0 (vecRegsOf s (.vadd 0 0 1 2 (.fld 3))) = true ∧
        s.me.pendingTags ((vecRegsOf s (.vadd 0 0 1 2 (.fld 3))).vr ++ (vecRegsOf s (.vadd 0 0 1 2 (.fld 3))).vw) ≠ [] ∧
        ∃ r ∈ (vecRegsOf s (.vadd 0 0 1 2 (.fld 3))).vr, s.me.pendingTags [r] = [] := by
  refine ⟨⟨_, rfl, by decide⟩, ⟨_, rfl, by decide, ?_⟩⟩
  rintro s rfl
  exact ⟨by decide, by decide, by decide⟩
theorem test_witness_TransformResults : st.cur = .stage slot0 ∧ st.free 5 0 { vr := [physOf st.me.cr.vrb 31] } = true ∧
    (if st.me.cur then st.me.refs0 else st.me.refs1) = 0 ∧ st.heldBusy 5 { vw := [physOf st.me.cr.vrb 0] } = false ∧
    st.free 5 0 { vr := [physOf st.me.cr.vrb 31, physOf st.me.cr.vrb 0] } = true ∧
    (st.modMe (fun c => { c with refs1 := 1 })).free 5 0 { vr := [physOf st.me.cr.vrb 31] } = true ∧
    (if (st.modMe (fun c => { c with refs1 := 1 })).me.cur then (st.modMe (fun c => { c with refs1 := 1 })).me.refs0
      else (st.modMe (fun c => { c with refs1 := 1 })).me.refs1) ≠ 0 := by decide

/-! ### The matrix unit and the engines -/

/-- `st` with descriptor 31 of a format and a space, dimensions of one element, and a size of two. -/
def desc (fmt space : Nat) : State :=
  st.modMe (fun c => { c with td := c.td.set 31 ((Vector.replicate 8 0).set 1 (BitVec.ofNat 64 (2 ^ 16 + fmt * 2 ^ 8 + space))) })
/-- The descriptor 31 of `desc`. -/
def descOf (fmt space : Nat) : Desc := (desc fmt space).desc 31

theorem test_witness_MatrixQueue : (desc 9 0).cur = .stage slot0 ∧ (desc 9 0).me.matq.length < 4 ∧ (desc 9 0).free 4 0 {} = true ∧
    (∃ fam, famOf (descOf 9 0).elemFmt = some fam ∧
      mmOk (descOf 9 0) ((desc 9 0).tileTag 7).toNat ((desc 9 0).accTag 3).toNat 1 true false = true ∧
      spansCause 4 (2 ^ 21) ((descOf 9 0).aSpans ((desc 9 0).localMem (desc 9 0).cur) (1 * fam.1) false) = none) ∧
    drainOk (descOf 9 0) = true ∧ (descOf 9 0).ok = true ∧ drainCause (descOf 9 0) 15 (desc 9 0) = none ∧
    accMemOk (descOf 8 0) [0x0B, 0x08, 0x09, 0x0A, 0x0C, 0x0D, 0x03, 0x02, 0x00] = true ∧
    accMemOk (descOf 8 0) [0x0B, 0x08, 0x09, 0x0A, 0x03, 0x00] = true ∧ spansCause 4 (2 ^ 21) (descOf 8 0).accSpans = none ∧
    mmwOk (descOf 9 0) false = true ∧ (desc 9 0).me.tags.ready.getLsbD 7 = true ∧
    spansCause 4 (2 ^ 21) ((descOf 9 0).fillSpans ((desc 9 0).localMem (desc 9 0).cur)) = none ∧
    (desc 9 0).free 4 0 { xr := [8 + (7 : BitVec 3).setWidth 6] } = true ∧ getPending [15] (desc 9 0) = false ∧
    (desc 9 0).free 4 0 { xr := opndReg (.fld 63) } = true ∧ (desc 9 0).free 4 0 { xw := [63] } = true := by
  refine ⟨by decide, by decide, by decide, ⟨_, rfl, by decide, by decide⟩, by decide, by decide, by decide, by decide, by decide,
    by decide, by decide, by decide, by decide, by decide, by decide, by decide⟩
/-- `desc` with an address, of two dimensions. -/
def descAt (fmt base : Nat) : State := (desc fmt 0).modMe (fun c => { c with td := c.td.set 31 (c.td[31].set 0 (BitVec.ofNat 64 base)) })
theorem test_witness_MatrixTraps : isSup sv.cur = true ∧ 4 < (descOf 9 5).space ∧ (descOf 9 5).ok = false ∧
    mmOk (descOf 9 1) ((desc 9 1).tileTag 0).toNat ((desc 9 1).accTag 0).toNat 1 true false = false ∧ mmwOk (descOf 9 1) false = false ∧
    isSup st.cur = false ∧ st.free 4 0 {} = true ∧
    (∀ s, s = st.modMe (fun c => { c with matq := List.replicate 4 (heldSyl 0) }) → s.free 4 0 {} = true ∧ 4 ≤ s.me.matq.length) ∧
    (∀ s, s = { ported [] { op with size := 1023 } with cur := .stage slot0 }.modMe (fun c => { c with rte := c.rte.set 15 (15 : BitVec 8) }) →
      s.free 4 0 {} = true ∧ (s.me.route 15).1 = true ∧ s.myOut (s.me.route 15).2 = some { op with size := 1023 } ∧
      1023 < drainLen (descOf 9 0)) := by
  refine ⟨by decide, by decide, by decide, by decide, by decide, by decide, by decide, ?_, ?_⟩ <;>
  · rintro s rfl; decide
theorem test_witness_MatrixTraps_spans :
    (∀ b ∈ [(1 : Nat), 0x200000], ∀ s, s = descAt 9 b → isSup s.cur = false ∧ s.free 4 0 {} = true ∧
      mmOk (s.desc 31) (s.tileTag 0).toNat (s.accTag 0).toNat 1 true false = true ∧ mmwOk (s.desc 31) false = true ∧
      ((s.desc 31).aSpans (s.localMem s.cur) 1 false).head?.map (fun x => (x.addr, x.al)) = some ((b : Int), 2) ∧
      ((s.desc 31).fillSpans (s.localMem s.cur)).head?.map (fun x => (x.addr, x.al)) = some ((b : Int), 2)) ∧
    (∀ b ∈ [(1 : Nat), 0x200000], ∀ s, s = descAt 8 b → accMemOk (s.desc 31) arFmts = true ∧ accMemOk (s.desc 31) awFmts = true ∧
      ((s.desc 31).accSpans).head?.map (fun x => (x.addr, x.al)) = some ((b : Int), 4)) ∧
    (∀ s, s = descAt 0x11 0x1FFFF0 → mmwOk (s.desc 31) false = true ∧
      ((s.desc 31).fillSpans (s.localMem s.cur)).map (fun x => (x.addr, x.len, x.al)) = [(0x1FFFF0, 512, 1)]) := by
  refine ⟨?_, ?_, ?_⟩
  · intro b hb s hs; subst hs; revert b; decide +kernel
  · intro b hb s hs; subst hs; revert b; decide +kernel
  · rintro s rfl; decide +kernel
theorem test_witness_MatrixTraps_full : ∀ s, s = (desc 9 0).modMe (fun c => { c with matq := List.replicate 4 (heldSyl 0) }) →
    isSup s.cur = false ∧ 4 ≤ s.me.matq.length ∧ matForm s 0 3 7 31 0 0 0 15 0 7 (.fld 63) 63 0 (.mmZ 0 3) ∧
    matForm s 0 3 7 31 0 0 0 15 0 7 (.fld 63) 63 0 (.mmDRoute 0 3 31 15) ∧
    matForm s 0 3 7 31 0 0 0 15 0 7 (.fld 63) 63 0 (.mmW 0 7 31 0) ∧
    matForm s 0 3 7 31 0 0 0 15 0 7 (.fld 63) 63 0 (.mmDSteer 0 3 7 31) ∧
    matForm s 0 3 7 31 0 0 0 15 0 7 (.fld 63) 63 0 (.tdSet 0 (.fld 63) 31 0) := by
  rintro s rfl
  refine ⟨by decide, by decide, ?_, ?_, ?_, ?_, ?_⟩
  · rintro td rfl; exact .inl ⟨by decide, .inr (.inr (.inl rfl))⟩
  · rintro td rfl; exact .inl ⟨by decide, .inr (.inl ⟨by decide, by decide, rfl⟩)⟩
  · rintro td rfl; exact .inl ⟨by decide, .inr (.inr (.inr (.inr (.inr ⟨by decide, by decide, by decide, rfl⟩))))⟩
  · rintro td rfl; exact .inr (.inl ⟨by decide, by decide, by decide, rfl⟩)
  · rintro td rfl; exact .inr (.inr (.inl ⟨by decide, .inl rfl⟩))
theorem test_witness_MatrixTraps_types : 4 < (descOf 9 5).space ∧ (descOf 0x18 0).fmt ∉ [0x0B, 0x08, 0x09, 0x0A, 0x0C, 0x0D, 0x03, 0x02, 0x00] ∧
    (∀ s, s = { ported [] { op with size := 1023 } with cur := .stage slot0 }.modMe (fun c => { c.wx 15 15 with rte := c.rte.set 15 (15 : BitVec 8) }) →
      s.free 4 0 { xr := [8 + (7 : BitVec 3).setWidth 6] } = true ∧ (s.rx (8 + (7 : BitVec 3).setWidth 6)).toNat % 16 = 15 ∧
      (s.me.route 15).1 = true ∧ s.myOut (s.me.route 15).2 = some { op with size := 1023 } ∧ drainOk (descOf 9 0) = true) := by
  refine ⟨by decide, by decide, ?_⟩
  rintro s rfl; decide
theorem test_witness_ControlRequests : st.free 2 0 { xr := [1, 2, 3], xw := [0] } = true ∧ st.me.req = none ∧ isSup st.cur = false ∧
    isSup sv.cur = true ∧ (∀ r ∈ [({ answer := none, trap := none, landed := false, token := none } : CtlReq),
      { answer := some 1, trap := none, landed := true, token := none }, { answer := some 0, trap := some (0x11, 0), landed := true, token := none }],
      (st.modMe (fun c => { c with req := some r })).me.req = some r ∧
      (st.modMe (fun c => { c with req := some r })).free 2 0 { xr := [1, 2], xw := [63] } = true) := by decide
theorem test_witness_GatherAsks : (descOf 9 2).ok = true ∧ (descOf 9 2).space = 2 ∧ (desc 9 2).tdPending 31 = false ∧ (15 : BitVec 4).toNat ∉ (desc 9 2).iss.took ∧
    ((desc 9 2).modMe (fun c => c.setReady 15 false)).me.tags.ready.getLsbD 15 = false ∧
    ((desc 9 2).modMe (fun c => c.setReady 15 false)).free 2 0 { vw := [physOf st.me.cr.vrb 31] } = true ∧
    (descOf 9 2).fmt = 9 ∧ (desc 9 2).free 2 0 { vw := [physOf st.me.cr.vrb 31] } = true ∧
    (∀ s, s = (desc 9 2).modDie d0 (fun k => { k with gwin := (4096 : Word) <<< 32 }) →
      gatherCause 2 (s.desc 31).gatherLanes s = none ∧ gatherCause 2 (s.desc 31).gatherRows s = none) ∧
    (desc 9 2).me.tags.ready.getLsbD 15 = true ∧ (desc 9 2).free 2 0 { tw := [7] } = true ∧ denseFmt (descOf 9 2).fmt = true ∧
    isSup (desc 9 2).cur = false ∧ (descOf 9 4).ok = true ∧ (descOf 9 4).space = 4 ∧ denseFmt (descOf 9 4).fmt = true ∧
    (descOf 0x18 4).ok = true ∧ (descOf 0x18 4).fmt = 0x18 ∧ (desc 9 4).free 2 0 { xr := [1], tw := [7] } = true ∧
    st.free 2 0 { xr := [1], vw := [physOf st.me.cr.vrb 31] } = true ∧ (7 : BitVec 4).toNat < 8 := by
  refine ⟨by decide, by decide, by decide, by decide, by decide, by decide, by decide, by decide, ?_, by decide, by decide, by decide,
    by decide, by decide, by decide, by decide, by decide, by decide, by decide, by decide, by decide⟩
  rintro s rfl
  exact ⟨by decide, by decide⟩

/-! ### Phasers, ordering and ownership -/

/-- A valid phaser 15 at the last phase, with slot 0 as a member of a mode whose signalled and waited phases are given; a wait that
began at cycle 0 and has been notified; the cycle is 7. -/
def phased (mode : BitVec 2) (sph wph phase : BitVec 32) (sync : Option SyncWait) : State :=
  { ((st.modClu k0 (fun k => { k with
      phasers := k.phasers.set 15 { valid := true, failed := false, phase := phase, npend := 0, arrn := 0, arr := 0, nsig := 1 },
      members := if mode = 0 then [] else
        [(511, { wph := wph, sph := sph, phn := 15, mode := mode, mst := 2, rsv := false, core := 0, slot := 0 })] })).modMe (fun c =>
    { c with sync := sync })).modSlot slot0 (fun v => { v with sst := .active }) with cycle := 7 }
/-- A wait that began at cycle 0 and has been notified, or not. -/
def told (n : Option Nat) : Option SyncWait := some { word := 0, since := 0, notified := n }

theorem test_witness_PhaserResults : ∀ s, s = phased 0 0 0 0xFFFFFFFF none → s.cur = .stage slot0 ∧
    ((s.clu k0).phaser 15).valid = true ∧ (s.clu k0).member slot0 15 = none ∧ s.free 2 0 { xw := [63] } = true ∧ s.me.sync = none ∧
    (∀ w, (phased 0 0 0 0xFFFFFFFF (told none)).me.sync = some w → w.since + 4 ≤ (phased 0 0 0 0xFFFFFFFF (told none)).cycle + 1) := by
  rintro s rfl
  refine ⟨by decide, by decide, by decide, by decide, by decide, ?_⟩
  intro w hw; cases hw; decide
theorem test_witness_PhaserResults_member : ((phased 3 0 0xFFFFFFFF 0 (told (some 4))).clu k0).member slot0 15 =
      some (511, { wph := 0xFFFFFFFF, sph := 0, phn := 15, mode := 3, mst := 2, rsv := false, core := 0, slot := 0 }) ∧
    ((phased 3 0 0xFFFFFFFF 0 (told (some 4))).clu k0).inFlight slot0 15 = 0 ∧
    (phased 3 0 0xFFFFFFFF 0 (told (some 4))).storesDone (.stage slot0) (phased 3 0 0xFFFFFFFF 0 (told (some 4))).iss.mark = true ∧
    (phased 3 0 0xFFFFFFFF 0 (told (some 4))).free 2 0 {} = true ∧ (phased 3 0 0xFFFFFFFF 0 (told (some 4))).free 2 0 { xw := [63] } = true ∧
    phaseBefore 0xFFFFFFFF 0 = true ∧
    (∀ m e, ((phased 3 0 0xFFFFFFFF 0 (told (some 4))).clu k0).member slot0 15 = some (e, m) →
      (phased 3 0 0xFFFFFFFF 0 (told (some 4))).nextSph m 15 = 0) ∧
    (∀ m e, ((phased 3 0 0 0 none).clu k0).member slot0 15 = some (e, m) → (phased 3 0 0 0 none).nextSph m 15 = m.wph ∧ m.wph = 0) ∧
    phaseBefore 0 0 = false ∧ (phased 3 0 0 0 none).me.sync = none := by
  refine ⟨by decide, by decide, by decide, by decide, by decide, by decide, ?_, ?_, by decide, by decide⟩ <;>
  · intro m e h
    cases h
    decide
theorem test_witness_PhaserResults_barrier : ∀ s, s = (phased 0 0 0 0 (told (some 4))).modSlot slot0 (fun v =>
      { v with barrierGen := 1, barrierWait := true }) →
    (s.slot slot0).sst = .active ∧ s.free 2 0 { xw := [63] } = true ∧ (s.slot slot0).barrierWait = true ∧
    (s.modClu k0 (fun k => { k with barrierG := 1 })).clu k0 = { s.clu k0 with barrierG := 1 } ∧ (s.slot slot0).barrierGen = 1 ∧
    (phased 0 0 0 0 none).me.sync = none ∧ ((phased 0 0 0 0 none).slot slot0).barrierWait = false ∧
    ((phased 0 0 0 0 none).clu k0).barrierG = ((phased 0 0 0 0 none).slot slot0).barrierGen := by
  rintro s rfl
  decide
theorem test_witness_PhaserTraps : isSup sv.cur = true ∧ st.cur = .stage slot0 ∧ st.free 2 0 {} = true ∧ st.free 2 0 { xw := [63] } = true ∧
    ((st.clu k0).phaser 15).valid = false ∧ ((phased 0 0 0 0 none).clu k0).member slot0 15 = none ∧
    (((phased 3 0 0 0 none).clu k0).member slot0 15).isSome = true ∧ (st.slot slot0).sst ≠ .active ∧ (st.slot slot0).sst ≠ .faulted ∧
    (∀ q, q ∈ [((2 : BitVec 2), (0 : BitVec 32)), (1, 0), (3, 5)] → ∀ e m,
      ((phased q.1 q.2 0 0 none).clu k0).member slot0 15 = some (e, m) → m.mode = q.1 ∧ (phased q.1 q.2 0 0 none).nextSph m 15 = q.2) ∧
    ((5 : BitVec 32) ≠ 0 ∧ (5 : BitVec 32) ≠ 0 + 1) ∧ phaseBefore 0 0 = false := by
  refine ⟨by decide, by decide, by decide, by decide, by decide, by decide, by decide, by decide, by decide, ?_, by decide, by decide⟩
  intro q hq e m h
  simp only [List.mem_cons, List.not_mem_nil, or_false] at hq
  rcases hq with rfl | rfl | rfl <;> · cases h; decide
theorem test_witness_PhaserTraps_adv : ∀ e q, ((phased 3 5 5 0 none).clu k0).member slot0 15 = some (e, q) → q.mode = 3 ∧
    (phased 3 5 5 0 none).me.sync = none ∧ (phased 3 5 5 0 none).nextSph q 15 = q.wph ∧ q.wph = 5 := by
  intro e q h
  cases h
  decide
theorem test_witness_OrderWaits : st.free 2 0 { xr := [63] } = true ∧ st.cntl st.cur = 0 ∧ st.storeCount st.cur st.iss.mark = 0 ∧ st.arStores st.cur st.iss.mark = 0 ∧ (5 : BitVec 3).toNat ≤ 5 ∧ st.free 2 0 {} = true ∧
    st.pendingStores st.cur = [] ∧ st.matReading = false ∧ st.reqs = [] ∧ st.me.flights = [] ∧
    gal.free 2 0 { xr := [(3 : BitVec 5).setWidth 6, 4], xw := [5] } = true ∧ waitaCause 0 3 gal = none ∧ gal.me.sync = none ∧
    waitaCause 1 1 (fab pageE 0x3FFFF8) = none ∧ ((fab pageE 0x3FFFF8).translate 0x3FFFF8).isSome = true ∧
    st.free 2 0 { xr := [1], xw := [2] } = true ∧ (st.rx 1).getLsbD 16 = false ∧ (stx [(1, 0x10000)]).free 2 0 { xr := [1], xw := [2] } = true ∧
    ((stx [(1, 0x10000)]).rx 1).getLsbD 16 = true ∧ wbits (st.die d0).dign 0 16 = wbits 0x10000 0 16 ∧
    (∀ e < 4, wbits (st.die d0).dign (16 * e) 16 ≠ wbits 0x1FFFF 0 16) := by decide
/-- A load on its way, of the firing of slot 0: `WCNT` and `FENCE` wait for it. -/
def req0 : MemReq :=
  { id := 1, own := .stage slot0, firing := 0, virt := 0, space := 2, place := { home := .die d0, addr := 0, len := 8 }, op := .load,
    dest := .x 1 8 false, scope := 2, performed := false, value := [], flags := 0, failed := none }
theorem test_witness_OrderWaits_waiting : ∀ s, s = { st with reqs := [req0] } → s.free 2 0 { xr := [2] } = true ∧ (s.rx 2).toNat < s.cntl s.cur ∧
    s.free 2 0 {} = true ∧ (∃ x ∈ s.reqs, x.own = s.cur ∧ x.scope ≤ (2 : BitVec 3).toNat ∧ x.op.isLoad = true ∧ x.performed = false) := by
  rintro s rfl; decide
theorem test_witness_OrderWaits_held : ∀ s, s = st.modMe (fun c => { c with vecq := [{ heldSyl 0 with id := 0, acquire := true }] }) → ∀ t,
    t = { s with iss := { s.iss with mark := 1 } } → t.behindAcquire t.cur t.iss.mark = true ∧ (t.rx 63).toNat = 0 ∧
      t.free 2 0 { xr := [63] } = true ∧ st.behindAcquire st.cur st.iss.mark = false := by
  rintro s rfl t rfl; decide
theorem test_witness_OwnershipResults : (fab pageE 0x3FFFF8).translate (((fab pageE 0x3FFFF8).rx 1).toNat : Int) = some (.ok pageE) ∧
    (fab pageE 0x3FFFF8).free 2 0 { xr := [1], xw := [2] } = true ∧ (∀ x ∈ [false, true], ownCause 0x3FFFF8 x (fab pageE 0x3FFFF8) = none) ∧
    (fab pageE 0x3FFFF8).me.req = none ∧ (fab pageE 0x3FFFF8).keyBad 0 0 = false ∧ ((fab pageE 0x3FFFF8).tokenPage 0x3FFFF8).1 = d0 ∧
    ((fab 0xE00000000020007F 0x3FFFF8).tokenPage 0x3FFFF8).1 ≠ d0 ∧ ((fab 0xE00000000020007F 0x3FFFF8).die d0).tokens.length +
      ((fab 0xE00000000020007F 0x3FFFF8).pagesAsked d0).length < 64 ∧ (fab 0xE00000000020007F 0x3FFFF8).route d0 d1 ≠ .none ∧
    (∀ d : DieId, d = { pkg := 5, die := 0 } → (fab pageE 0x3FFFF8).route d0 d = .none) ∧
    (∀ w : Option (Nat × Word), ∃ r : CtlReq, r.landed = true ∧ r.trap = w ∧
      ((fab pageE 0x3FFFF8).modMe (fun c => { c with req := some r })).me.req = some r) ∧
    (fab pageE 0x3FFFF8).free 2 0 { xr := [1] } = true ∧ transCause 0x3FFFF8 .load (fab pageE 0x3FFFF8) = none ∧
    (fab pageE 0x3FFFF8).me.sync = none := by
  refine ⟨by decide, by decide, by decide, by decide, by decide, by decide, by decide, by decide, by decide, ?_, ?_, by decide, by decide,
    by decide⟩
  · rintro d rfl; decide
  · exact fun w => ⟨{ answer := none, trap := w, landed := true, token := none }, rfl, rfl, rfl⟩
/-- A package of the same hall, behind the mesh link of port 63, whose key differs; what die 0 holds for its page 127. -/
def foreign (tokens : List Token) : State :=
  ((((fab pageP 0x3FFFF8).modPkg 0 (fun p => { p with
      posmap := [((false, 0), 0x8000000000000000), ((false, 1), posEntry 1)], hallrt := [((false, 1), 0x8000000000000000)],
      ports := [(0, { Port.reset with state := .up })], pmemb := [(0, 3)] })).modPkg 1 (fun p => { p with
      pkey := 0x1FFFF, fabid := 1 <<< 50, posmap := [((false, 1), posEntry 1)], ports := [(30, { Port.reset with state := .up })] })).modDie d0
    (fun k => { k with tokens := tokens }))
theorem test_witness_OwnershipResults_key : (foreign []).translate 0x3FFFF8 = some (.ok pageP) ∧
    ((foreign []).tokenPage 0x3FFFF8).1 = { pkg := 1, die := 0 } ∧ ownCause 0x3FFFF8 true (foreign []) = none ∧
    (foreign []).free 2 0 { xr := [1], xw := [2] } = true ∧ (foreign []).keyBad 0 1 = true ∧ (foreign []).me.req = none ∧
    (∃ n, (foreign []).route d0 { pkg := 1, die := 0 } = .cost n) := by
  refine ⟨by decide, by decide, by decide, by decide, by decide, by decide, ⟨192, by decide⟩⟩
theorem test_witness_OwnershipResults_full : ∀ page, page = (foreign []).tokenPage 0x3FFFF8 →
    (∀ s, s = foreign (List.replicate 64 { home := d0, page := 0, excl := false, recalled := false }) →
      s.tokenPage 0x3FFFF8 = page ∧ 64 ≤ (s.die d0).tokens.length + (s.pagesAsked d0).length ∧ page ∉ s.pagesAsked d0 ∧
      (∀ o ∈ (s.die d0).tokens, ¬ (o.home = page.1 ∧ o.page = page.2))) ∧
    (∀ s, s = foreign [{ home := page.1, page := page.2, excl := true, recalled := true }] →
      ∃ o ∈ (s.die d0).tokens, o.home = page.1 ∧ o.page = page.2) := by
  rintro page rfl
  refine ⟨?_, ?_⟩
  · rintro s rfl; decide
  · rintro s rfl; decide

/-! ### The whole machine -/

theorem test_witness_DecodeEncode : (Instr.add 7 27 13 63).wf = true ∧ (Instr.add 7 27 13 63).fieldsOf ≠ [] ∧
    (∀ w ∈ ([] : List Nat).head?, fld w 28 3 ≠ 6) ∧ ∀ w ∈ [0xE0000000].head?, fld w 28 3 ≠ 7 := by decide

/-- After reset, with `ADD` of `x13` and `x38` into `x27` at the start of the window of slot 0, whose turn has come. -/
def toRun : State := State.reset.withFetchWord 32 (0b1_001_000000_1111_011011_001101_100110)
/-- The bundle of `toRun` in issue, before and after its word is read. -/
def inIssue : State :=
  { ({ toRun with turn := [], cur := .stage slot0 }.meetCode (.stage slot0) 0 1).landed (.stage slot0) with iss := bundleRecord toRun 0 1 }
@[inherit_doc inIssue] def inIssue1 : State :=
  { inIssue with iss := { inIssue.iss with word := 0b1_001_000000_1111_011011_001101_100110 } }

/-- Whether an outcome is a next state, and what holds there. -/
def goesOn (o : Host.Outcome State Fault Refusal) (f : State → Bool) : Bool :=
  match o with
  | .next u => f u
  | .fault _ => false
  | .refused _ => false

theorem test_witness_StepRuns : toRun.phase = 1 ∧ toRun.turn = [.stage slot0] ∧ (toRun.ctx (.stage slot0)).pc = 0 ∧
    toRun.codeWord (.stage slot0) 0 = .word 0b1_001_000000_1111_011011_001101_100110 ∧
    fld 0b1_001_000000_1111_011011_001101_100110 31 1 = 1 ∧ fld 0b1_001_000000_1111_011011_001101_100110 28 3 < 6 ∧
    reads (0b1_001_000000_1111_011011_001101_100110, .add 15 27 13 38) = true ∧
    inIssue.probe inIssue.iss { pos := 0, word := 0b1_001_000000_1111_011011_001101_100110, exts := [], instr := .add 15 27 13 38 } = .ok ∧
    goesOn (exec (.add 15 27 13 38) inIssue1) (fun u => u.iss.stat = .ok && u.iss.taken = 0) = true := by
  refine ⟨by decide, by decide, by decide, by decide, by decide, by decide, by decide, by decide, by decide⟩
theorem test_witness_StepRuns_turn : InTurn toRun (.stage slot0) := by
  refine ⟨by decide, by decide, by decide, by decide, by decide, ?_, ?_⟩
  · intro i h; cases h; decide
  · intro v h; cases h
theorem test_witness_StepRuns_event :
    (∀ s, s = { State.reset with phase := 3, agenda := [{ cycle := 0, pri := priLate, ev := .hostSnoop 0 0 }] } →
      s.phase ≠ 1 ∧ s.phase ≠ 2 ∧ s.dueNow = some ({ cycle := 0, pri := priLate, ev := .hostSnoop 0 0 }, [])) ∧
    EventRow (.hostSnoop 0 0) (.hostSnoop 0 0) ∧
    ∃ f, exec (.hostSnoop 0 0) { State.reset with phase := 3, agenda := [] } = .fault f := by
  refine ⟨?_, rfl, ⟨_, rfl⟩⟩
  rintro s rfl
  decide
theorem test_witness_MemoryKept : State.reset.memWf = true ∧ step State.reset = .next (advance State.reset) ∧
    toRun.memWf = true := by
  refine ⟨by decide, rfl, by decide⟩

/-! ### Results, memory, the fabric -/

/-- A result of slot 0 in flight. -/
def flight : Flight := { id := 7, due := 0, src := .load, writes := [.x 1 5], flags := 0, access := none }
/-- `st` with results in flight, the later one with the identity 7. -/
def flying (l : List Flight) : State := st.modMe (fun c => { c with flights := l })
/-- A transform result whose count has run out, or has not. -/
def xres (rem : Nat) (target : XfmTarget) : XfmRes := { id := 7, rem := rem, target := target, value := 1, flags := 0 }
/-- A run of the matrix unit, and a drain. -/
def run (acc tile : Option Nat) : MatRun :=
  { id := 7, slot := slot0, acc := acc, tile := tile, due := 0, flags := 0, lm := false, bank := none }
@[inherit_doc run] def drn (port : Option Nat) : Drain :=
  { id := 7, acc := 0, port := port, pkt := { w0 := 0, w1 := 0, w2 := 0, w3 := 0, payload := [] }, store := [(0, [1])], flags := 0,
    readDone := 0 }

theorem test_witness_ResultEvents_results : (∀ k ∈ [flight, waitingLoad],
      ((flying [k]).ctx (.stage slot0)).flights.find? (fun f => f.id = 7) = some k ∧ (flying [k]).earlierLoad (.stage slot0) 7 = false) ∧
    (∀ s, s = (flying [waitingLoad]).setArb c0 { cycle := 0, landed := [], taken := [0], ported := [], waits := [], runs := [] } →
      ∀ p ∈ waitingLoad.access, s.accessTurn (.stage slot0) 7 p = false ∧ (flying [waitingLoad]).accessTurn (.stage slot0) 7 p = true ∧
        (flying [waitingLoad]).accessTurn (.stage slot0) 7 { p with amo := some (9, 1) } = true ∧
        (flying [{ waitingLoad with id := 6 }, waitingLoad]).accessTurn (.stage slot0) 7 p = false) ∧
    firstBad ((flying [waitingLoad]).badView (.stage slot0) 7) 0 8 = none ∧ (flying [waitingLoad]).localBad (.stage slot0) = [] ∧
    (flying [waitingLoad]).pendingStores (.stage slot0) = [] ∧
    firstBad (((flying [waitingLoad]).modCore c0 (fun k => { k with bad := [0] })).badView (.stage slot0) 7) 0 8 = some 0 ∧
    (flying [{ flight with id := 6 }, flight]).earlierLoad (.stage slot0) 7 = true ∧
    (∀ r ∈ [xres 1 (.v 31), xres 0 (.v 31), xres 0 (.bank true 3 true)],
      (((st.modMe (fun c => { c with xfm := [r] })).ctx (.stage slot0)).xfm.find? (fun r => r.id = 7)).map (fun q => (q.rem, q.target)) =
        some (r.rem, r.target)) ∧
    (∀ e ∈ ((st.modMe (fun c => { c with xfm := [xres 0 (.v 31)], vlanded := [(31, 8, 0)] })).ctx (.stage slot0)).vlanded,
      e.1 = 31 ∧ 7 < e.2.1 ∧ e.2.2 = st.cycle) := by
  refine ⟨by decide, ?_, by decide, by decide, by decide, by decide, by decide, by decide, by decide⟩
  rintro s rfl; decide
theorem test_witness_ResultEvents_stores : (((st.modCore c0 (fun k => { k with stores := [lst] })).core c0).stores.find?
      (fun s => s.id = 7) = some lst) ∧
    (st.modCore c0 (fun k => { k with stores := [lst] })).storeTurn (.stage slot0) lst = true ∧
    (st.modCore c0 (fun k => { k with stores := [{ lst with id := 6 }, lst] })).storeTurn (.stage slot0) lst = false ∧
    (st.modSup v0 (fun k => { k with stores := [lst] })).storeTurn (.sup v0) lst = true ∧
    (((st.modSup v0 (fun k => { k with stores := [lst] })).sup v0).stores.find? (fun s => s.id = 7) = some lst) ∧
    ((st.modMe (fun c => { c with vecq := [heldSyl 0] })).ctx (.stage slot0)).vecq = [heldSyl 0] ∧
    (vecSemOf (heldSyl 0).instr).isSome = true := by decide
theorem test_witness_ResultEvents_matrix : (∀ n ∈ [(0 : Nat), 1, 2, 3, 4, 5], ∀ s,
      s = st.modMe (fun c => { c with matq := [heldSyl (BitVec.ofNat 32 (n * 2 ^ 22 + 2 ^ 31))] }) →
      (s.ctx (.stage slot0)).matq = [heldSyl (BitVec.ofNat 32 (n * 2 ^ 22 + 2 ^ 31))] ∧ s.matReady slot0 = true ∧
      (s.modCore c0 (fun k => { k with weightFree := 9, drainFree := 9, accRead := Vector.replicate 4 9, macFree := 9 })).matReady slot0 =
        false) ∧
    ((st.modCore c0 (fun k => { k with mats := [run (some 3) none] })).core c0).mats.find? (fun r => r.acc = some 3) =
      some (run (some 3) none) ∧
    ((st.modCore c0 (fun k => { k with mats := [run none (some 7)] })).core c0).mats.find? (fun r => r.tile = some 7 && r.slot = slot0) =
      some (run none (some 7)) ∧
    (run (some 3) none).due ≤ st.cycle ∧ (drn none).readDone ≤ st.cycle ∧ st.cycle < ({ run (some 3) (some 7) with due := 9 } : MatRun).due ∧
    st.cycle < ({ drn none with readDone := 9 } : Drain).readDone ∧
    ((st.modCore c0 (fun k => { k with mats := [{ run (some 3) (some 7) with due := 9 }] })).core c0).mats.find? (fun r => r.acc = some 3) =
      some { run (some 3) (some 7) with due := 9 } ∧
    ((stSlot (fun v => { v with drains := [drn none] })).slot slot0).drains.find? (fun e => e.id = 7 && e.port.isNone) = some (drn none) ∧
    (∀ c ∈ [(0 : Nat), 1], ∀ s, s = (ported [] { op with credits := c }).modSlot slot0 (fun v => { v with drains := [drn (some 7)] }) →
      (s.slot slot0).drains.find? (fun e => e.id = 7 && e.port.isSome) = some (drn (some 7)) ∧
      tfind (s.slot slot0).outs 7 = some { op with credits := c } ∧ (s.slot slot0).emissions = []) := by
  refine ⟨?_, by decide, by decide, by decide, by decide, by decide, by decide, by decide, by decide, ?_⟩
  · intro n hn s hs
    subst hs
    revert n
    decide
  · intro c hc s hs
    subst hs
    revert c
    decide

/-- A request of slot 0 with the identity 7 on the last word of gallery 0, and `st` with it in flight. -/
def req (space : Nat) (home : Home) (addr : Nat) (o : ReqOp) (done : Bool) : MemReq :=
  { id := 7, own := .stage slot0, firing := 0, virt := 0, space := space, place := { home := home, addr := addr, len := 8 }, op := o,
    dest := .x 1 8 false, scope := 2, performed := done, value := [], flags := 0, failed := none }
@[inherit_doc req] def asked (q : MemReq) : State := { st with reqs := [q] }
/-- What keeps a load, a store and a performed load from landing is absent. -/
def Unkept (q : MemReq) : Prop :=
  (asked q).req 7 = some q ∧ (asked q).earlierLoad q.own 7 = false ∧ (asked q).mustWait q = false ∧ (asked q).before q = [] ∧
  firstBad ((asked q).homeBad q.place.home) q.place.addr q.place.len = none ∧ (asked q).rejects q = false ∧ (asked q).answerLost q = false ∧
  (writeAround ((asked q).homeBad q.place.home) ((asked q).homeMem q.place.home) q.place.addr (List.replicate 8 1)).2.2 = none

theorem test_witness_MemoryEvents_requests : ∀ h ∈ [Home.core c0, .die d0], ∀ o ∈ [ReqOp.load, .store (List.replicate 8 1),
    .amo 0 1, .cas 0 1], ∀ b, Unkept (req 2 h 0x1FFF8 o b) := by unfold Unkept; decide
theorem test_witness_MemoryEvents_turns : ∀ q, q = req 1 (.core c0) 0 .load false → ∀ s, s = (asked q).setArb c0
    { cycle := 0, landed := [], taken := [0], ported := [], waits := [], runs := [] } → s.req 7 = some q ∧ s.mustWait q = false ∧
      s.bankTurn c0 0 8 (.clusterLoadLand 7) = false ∧ s.turnOf q (.clusterLoadLand 7) = false ∧
      (asked q).bankTurn c0 0 8 (.clusterLoadLand 7) = true ∧ (asked q).turnOf q (.homePortAtomic 7) = true ∧
      ReqOp.writes (.cas 0 1) 0 = true ∧ ReqOp.writes (.cas 0 1) 1 = false := by
  rintro q rfl s rfl; decide
theorem test_witness_MemoryEvents_kept : (∀ s, s = { st with reqs := [{ req 2 (.die d0) 0 .load false with id := 6 },
      req 2 (.die d0) 0 .load false] } → s.earlierLoad (.stage slot0) 7 = true) ∧
    (∀ s, s = { st with reqs := [{ req 2 (.die d0) 0 (.store [1]) false with id := 6, dest := .none }, req 2 (.die d0) 0 .load false] } →
      s.earlierLoad (.stage slot0) 7 = false ∧ s.mustWait (req 2 (.die d0) 0 .load false) = true) ∧
    firstBad ((((asked (req 2 (.die d0) 0 .load false)).modDie d0 (fun k => { k with bad := [0] })).homeBad (.die d0))) 0 8 = some 0 ∧
    (∀ q, q = req 2 (.ctrl d0) 0x10000048 (.store (leBytes 8 (2 ^ 63))) false → ∀ s,
      s = { st with reqs := [q, { req 3 (.die d0) 0 .load false with id := 6 }] } → s.req 7 = some q ∧ s.ftinvWaits q = true) := by
  refine ⟨?_, ?_, by decide, ?_⟩
  · rintro s rfl; decide
  · rintro s rfl; decide
  · rintro q rfl s rfl; decide
theorem test_witness_MemoryEvents_others : (∀ l, l = ({ id := 7, sender := slot0, window := 15, cycle := 0, targets := [0, 95], addr := 0x1FFFF8, data := [1, 2] } : Landing) →
      ∀ s, s = st.modClu k0 (fun k => { k with landings := [l] }) →
      s.clus.findSome? (fun e => (e.2.landings.find? (fun l => l.id = 7)).map (fun l => (e.1, l))) = some (k0, l) ∧ l.targets.Nodup ∧
        (∀ q ∈ s.reqs, q.id < 7 → q.space = 1 → q.performed = true) ∧
        firstBad ((s.modCore c0 (fun k => { k with bad := [0x1FFFF8] })).core c0).bad l.addr l.data.length = some 0x1FFFF8) ∧
    (∀ w, w = ({ word := 0, since := 0, notified := some 0 } : SyncWait) → ∀ s,
      s = st.modMe (fun c => { c with sync := some w }) → w.notified = some s.cycle ∧ s.waitaSnooped false 0 = [] ∧
        s.waitaKept false 0 = false ∧ firstBad (s.die d0).bad 0 4 = none) := by
  refine ⟨?_, ?_⟩
  · rintro l rfl s rfl; decide
  · rintro w rfl s rfl; decide

/-- `st` with package 0 keyed, and a load of die 0 of that package by a core of package 1, unkeyed. -/
def keyed : State :=
  { st.modPkg 0 (fun p => { p with pkey := 0x1FFFF }) with reqs := [{ req 3 (.die d0) 0 .load false with
      own := .stage { core := { die := { pkg := 1, die := 0 }, clu := 0, core := 0 }, slot := 0 } }] }
/-- A store to the memory of the host, with a request number below it, and cache writes of it. -/
def toHost (check : Bool) (len : Nat) (writes : Bool) : State :=
  ({ st with reqs := [{ req 3 (.host 0 0) 0 (.store (List.replicate len 0)) false with dest := .none, place := { home := .host 0 0, addr := 0, len := len } }] }).modPkg 0
    (fun p => { p with hwin := [(0, if check then 0xC000000000000000 else 0x8000000000000000)], hring := [(0, 0x8000000000000000)],
                       cacheWrites := if writes then [{ id := 7, addr := 0, data := [1], completion := check }] else [], mailboxCode := none, mailboxWaits := [7] })

theorem test_witness_FabricEvents_requests : (∃ q, keyed.req 7 = some q ∧ keyed.rejects q = true) ∧
    (asked (req 3 (.die d1) 0 .load true)).req 7 = some (req 3 (.die d1) 0 .load true) ∧
    (asked (req 3 (.die d1) 0 .load true)).rejects (req 3 (.die d1) 0 .load true) = false ∧
    (asked (req 3 (.die d1) 0 .load true)).earlierLoad (.stage slot0) 7 = false ∧
    placePage (req 3 (.die d1) 0 .load true).place = some (d1, 0) ∧ d1 ≠ dieOf (req 3 (.die d1) 0 .load true).own ∧
    (((asked (req 3 (.die d1) 0 .load true)).modDie d0 (fun k => { k with tokens := [{ home := d1, page := 0, excl := false, recalled := false }] })).die
      d0).holds (d1, 0) false = true ∧ Unkept (req 3 (.die d1) 0x1FFF8 (.store (List.replicate 8 1)) false) ∧
    (st.slot slot0).idle = true ∧ ((ported [] op).slot slot0).idle = false ∧ ((ported [] op).ctx (.stage slot0)).firing = 0 := by
  unfold Unkept
  refine ⟨⟨_, rfl, by decide⟩, by decide, by decide, by decide, by decide, by decide, by decide, by decide, by decide, by decide,
    by decide⟩
theorem test_witness_FabricEvents_walk : (st.modMe (fun c => { c with walk := some (5, false) })).me.walk = some (5, false) ∧
    ((st.modDie d0 (fun k => { k with gallery := [(7, 0x80)] })).die d0).walk (0 * 2 ^ 21) = .ok 0x8000000000000000 ∧
    (st.die d0).walk (5 * 2 ^ 21) = .fault 2 ∧ st.walkLines d0 5 = [] ∧
    (st.modPkg 0 (fun p => { p with hostUp := true, hdmSize := 1, hdmmap := [(0, 0x8000000000000000)], snoop := [(0, true)] })).walkLines d0 5 ≠ [] :=
  by decide
theorem test_witness_FabricEvents_tokens :
    (∀ e ∈ [({ page := 0, shared := [d1], excl := none, recalling := [], waiting := [] } : DirEntry),
      { page := 0, shared := [], excl := none, recalling := [], waiting := [] },
      { page := 0, shared := [d1], excl := none, recalling := [d1], waiting := [] }], ∀ x,
      (((st.modDie d0 (fun k => { k with directory := [e] })).die d0).dir 0 = e) ∧
      (e.recalling ≠ [] ∨ (e.waiting = [] ∧ (e.conflicts d0 x = [] ∨ e.conflicts d0 x ≠ [])))) ∧
    (({ page := 0, shared := [d1], excl := none, recalling := [], waiting := [] } : DirEntry).conflicts d0 true ≠ []) ∧
    (({ page := 0, shared := [d1], excl := none, recalling := [], waiting := [] } : DirEntry).conflicts d0 false = []) ∧
    ((st.modMe (fun c => { c with req := some { answer := none, trap := none, landed := false, token := some (d1, 0, false) } })).ctx
      (.stage slot0)).req = some { answer := none, trap := none, landed := false, token := some (d1, 0, false) } := by decide
theorem test_witness_FabricEvents_host : ∀ b ∈ [false, true], (∃ q, (toHost b 128 true).req 7 = some q ∧ q.place.home = .host 0 0 ∧
      q.op = .store (List.replicate 128 0) ∧ (toHost b 128 true).before q = [] ∧
      (toHost b 128 true).cacheOf 7 = some 0 ∧ (toHost b 128 true).diverted 7 = none ∧ (toHost b 128 true).behindAcquire q.own 7 = false) ∧
    7 ∈ ((toHost b 128 true).pkg 0).mailboxWaits ∧
    (tget ((toHost b 128 true).pkg 0).hwin 0 0).getLsbD 62 = b ∧ (tget ((toHost b 128 true).pkg 0).hring 0 0).getLsbD 63 = true ∧
    leNat (((List.replicate 128 (0 : Byte)).drop 8).take 4) = wbits (tget ((toHost b 128 true).pkg 0).hring 0 0) 0 32 ∧
    (List.replicate 8 (0 : Byte)).length ≠ 128 ∧ ((toHost b 128 true).pkg 0).mailboxCode = none ∧
    ((toHost b 128 true).pkg 0).mailboxWaits.filter (· ≠ 7) = [] := by
  intro b hb
  simp only [List.mem_cons, List.not_mem_nil, or_false] at hb
  rcases hb with rfl | rfl <;> exact ⟨⟨_, rfl, by decide, by decide, by decide, by decide, by decide, by decide⟩, by decide, by decide, by decide, by decide, by decide, by decide, by decide⟩

/-- A fabric load that has been performed, whose answer the partition keys of packages 0 and 1 drop. -/
def lost : State :=
  { st.modPkg 0 (fun p => { p with pkey := 0x1FFFF }) with reqs := [req 3 (.die { pkg := 1, die := 0 }) 0 .load true] }
theorem test_witness_FabricEvents_lost : (∃ q, lost.req 7 = some q ∧ lost.rejects q = false ∧ lost.answerLost q = true ∧ q.performed = true) ∧
    (st.modPkg 0 (fun p => { p with hostUp := true, hdmSize := 1, hdmmap := [(0, 0x8400000000000000)], snoop := [(0, true)],
                                    landing := some 4, horph := 1 <<< 48 })).orphanLines 0 ≠ [] ∧
    (∀ e : Divert, e = { id := 7, ring := 0, reason := 1, addr := 0, data := [] } → ∀ s,
      s = st.modPkg 0 (fun p => { p with diverts := [e] }) → s.diverted 7 = some (0, e) ∧ s.orphanLines 0 = []) ∧
    (∀ s, s = (toHost false 128 false).modMe (fun c => { c with vecq := [{ heldSyl 0 with id := 0, acquire := true }] }) →
      s.behindAcquire (.stage slot0) 7 = true) ∧ st.orphanLines 0 = [] := by
  refine ⟨⟨_, rfl, by decide, by decide, by decide⟩, by decide, ?_, ?_, by decide⟩
  · rintro e rfl s rfl; decide
  · rintro s rfl; decide

/-! ### Firings, ports, engines -/

/-- An end that has begun. -/
def er (sent kill : Bool) : EndRec := { began := 0, markersSent := sent, kill := kill }
/-- `st` with slot 0 active and its firing so. -/
def firing (f : FiringState) (r : Option TrapRec) (e : Option EndRec) : State :=
  stSlot (fun v => { v with sst := .active, fst := f, trap := r, ending := e })

theorem test_witness_FiringEvents_start : (firing .ready none none).nextFiring c0 = some slot0 ∧
    ((firing .ready none none).slot slot0).fst = .ready ∧
    (firing .parked (some { tr with parked := true }) none).nextFiring c0 = some slot0 ∧
    ((firing .parked (some { tr with parked := true }) none).slot slot0).trap = some { tr with parked := true } ∧
    st.nextFiring c0 = none ∧ (∀ b : Bool, ((st.modMe (fun c => { c with holding := b })).ctx (.stage slot0)).holding = b) := by
  decide
theorem test_witness_FiringEvents_end :
    (∀ n : Fin 2, ((firing .running none (some (er true false))).slot slot0).ending = some (er true false) ∧
      (((firing .running none (some (er true false))).modMe (fun c => { c with notBefore := n.val })).ctx (.stage slot0)).notBefore =
        n.val) ∧
    ((firing .running none (some (er false false))).slot slot0).ending = some (er false false) ∧
    (firing .running none (some (er false false))).quiet slot0 = true ∧
    ((firing .running none (some (er false false))).modMe (fun c => { c with flights := [flight] })).quiet slot0 = false ∧
    ((firing .running none (some (er false false))).ctx (.stage slot0)).cr.mf = false ∧
    (∀ n : Fin 2, ∀ s, s = ((ported [] { op with credits := n.val }).modSlot slot0 (fun v => { v with ending := some (er false true) })).modMe
        (fun c => { c with cr := { c.cr with mf := true } }) → (s.slot slot0).ending = some (er false true) ∧ s.quiet slot0 = true ∧
      (s.ctx (.stage slot0)).markerKind = some 3 ∧ tfind (s.slot slot0).outs 7 = some { op with credits := n.val } ∧
      ({ op with credits := n.val } : OutPort).owes 3 = true ∧ ((s.slot slot0).ins.map (·.1)).Nodup) ∧
    ((stSlot (fun v => { v with ckpts := [{ spare := 3, addr := 0, image := [1], credits := [(ch, 0)] }] })).slot slot0).ckpts =
      [{ spare := 3, addr := 0, image := [1], credits := [(ch, 0)] }] := by
  refine ⟨by decide, by decide, by decide, by decide, by decide, ?_, by decide⟩
  rintro n s rfl
  revert n
  decide
theorem test_witness_FiringEvents_commands : (∀ f ∈ [FiringState.running, .waiting], ((firing f none none).slot slot0).fst = f ∧
      ((firing f none none).slot slot0).ending = none ∧ ((firing f none none).ctx (.stage slot0)).budget = 0 ∧
      ((firing f none none).slot slot0).commandWaits = true) ∧
    (∀ s, s = (firing .trapped (some tr) none).modSlot slot0 (fun v => { v with parkPending := true }) →
      (s.slot slot0).parkPending = true ∧ s.parkReady slot0 = true ∧ (s.slot slot0).trap = some tr) ∧
    ((firing .trapped (some tr) none).slot slot0).commandWaits = false ∧ ((firing .trapped (some tr) none).slot slot0).fst = .trapped ∧
    ((firing .trapped (some tr) none).slot slot0).saveAddr ∉ ((firing .trapped (some tr) none).die d0).bad ∧
    (∀ k < 4, ((firing .parked (some { tr with parked := true }) none).saveWord slot0 (0x888 + 16 * k)).testBit 32 = false) ∧
    ((firing .none none none).slot slot0).commandWaits = false ∧ ((firing .none none none).slot slot0).sst ≠ .empty ∧
    ((stSlot (fun v => { v with sst := .faulted })).slot slot0).sst = .faulted ∧
    ((stSlot (fun v => { v with sst := .faulted })).slot slot0).commandWaits = false := by
  refine ⟨by decide, ?_, by decide, by decide, by decide, by decide, by decide, by decide, by decide, by decide⟩
  rintro s rfl; decide

/-- A data packet of 16 bytes with a sequence number and a configuration, and where it goes. -/
def pk (seq cfg len : Nat) : Packet :=
  { w0 := BitVec.ofNat 64 (len * 2 ^ 12), w1 := BitVec.ofNat 64 (seq * 2 ^ 32), w2 := BitVec.ofNat 64 (cfg * 2 ^ 32), w3 := 0, payload := [1] }
@[inherit_doc pk] def toPort : PortId := { slot := slot0, port := 7, chan := 0 }

/-- `ported` with a merge port of some channels and buffers held; and with the slot of the next configuration loaded. -/
def merging (det : Bool) (chans : List Chan) (hs : List Buf) (bufs : Nat) : State :=
  stSlot (fun v => { v with sst := .active, fst := .running, det := det,
                            ins := [(7, { ip with merge := true, chans := chans, held := hs, bufs := bufs })], outs := [(7, op)] })
@[inherit_doc merging] def coming : State :=
  { ported [] op with nexts := [(slot0, { (ported [] op).slot slot0 with cfgNum := 1 })] }

theorem test_witness_PortEvents_packets : (∀ k, Reaches (ported [] op) toPort k { ip with ring := [] } ch) ∧
    ((ported [] op).slot slot0).killed = false ∧ (pk 0 0 16).cfg = ((ported [] op).slot slot0).cfgNum ∧ (pk 0 0 16).kind < 5 ∧
    (pk 0 0 16).seq = ch.expected ∧ (pk 0 0 16).len ≤ ip.size ∧ ip.merge = false ∧ ((ported [] op).core c0).bad = [] ∧
    ((pk 0xFFFFFFFF 0 16).seq - ch.expected).toInt < 0 ∧ (pk 0xFFFFFFFF 0 16).kind < 5 ∧ (pk 0 1 16).cfg ≠ ((ported [] op).slot slot0).cfgNum ∧
    0 < ((pk 1 0 16).seq - ch.expected).toInt ∧ ((ported [] op).pkg 0).frozen = none ∧ ip.size < (pk 0 0 4097).len ∧
    (pk 0 0 4097).kind < 5 ∧ (((ported [] op).modPkg 0 (fun p => { p with frozen := some 1 })).pkg 0).frozen ≠ none := by
  refine ⟨fun k => ⟨?_, by decide, by decide⟩, by decide, by decide, by decide, by decide, by decide, by decide, by decide, by decide,
    by decide, by decide, by decide, by decide, by decide, by decide, by decide⟩
  intro u h
  rw [show tfind (ported [] op).nexts toPort.slot = none from by decide] at h
  cases h
theorem test_witness_PortEvents_turns : (∀ w, w = ((ported [] op).arrivalSpan toPort (pk 0 0 16)).getD (0, 0) →
      (ported [] op).bankTurn c0 w.1 w.2 (.packetArrival toPort (pk 0 0 16)) = true ∧
      ((ported [] op).setArb c0 { cycle := 0, landed := [], taken := [0], ported := [], waits := [], runs := [] }).bankTurn c0 w.1 w.2
        (.packetArrival toPort (pk 0 0 16)) = false) ∧ ((ported [] op).core c0).badOnce = [] := by
  refine ⟨?_, by decide⟩
  rintro w rfl; decide
theorem test_witness_PortEvents_merge : (∀ det cs hs n k, Reaches (merging det [ch, cs] hs n) toPort k
      { ip with merge := true, chans := [ch, cs], held := hs, bufs := n } ch) ∧
    ((merging false [ch, ch] [] 2).slot slot0).det = false ∧ isData (pk 0 0 16).kind = true ∧
    ({ ip with merge := true, chans := [ch, ch] } : InPort).front 0 = none ∧
    ((merging true [ch, ch] [] 2).slot slot0).det = true ∧
    (∀ b, b = bufOf (pk 0 0 16) 0 0 0 → ({ ip with merge := true, chans := [ch, ch], held := [b] } : InPort).front 1 = none) ∧
    (∀ q, q = { ip with merge := true, chans := [ch, ch], held := [{ bufK 3 with round := 1 }, { bufK 3 with chan := 1 }] } →
      (q : InPort).mismatch = true) ∧
    (∀ b q, b = bufOf (pk 0 0 16) 0 0 0 → q = { ip with merge := true, chans := [ch, ch], held := [bufK 0, bufK 0, b] } →
      (q : InPort).mismatch = false ∧ q.overflow true 0 = true) ∧ ((merging true [ch, ch] [] 2).slot slot0).events = [] := by
  refine ⟨fun det cs hs n k => ⟨?_, rfl, rfl⟩, by decide, by decide, by decide, by decide, ?_, ?_, ?_, by decide⟩
  · intro u h
    rw [show tfind (merging det [ch, cs] hs n).nexts toPort.slot = none from rfl] at h
    cases h
  · rintro b rfl; decide
  · rintro q rfl; decide
  · rintro b q rfl rfl; decide
theorem test_witness_PortEvents_next : (∃ u q, tfind coming.nexts slot0 = some u ∧ u.cfgNum = (pk 0 1 16).cfg ∧
      (coming.slot slot0).cfgNum ≠ (pk 0 1 16).cfg ∧ tfind u.ins toPort.port = some q ∧ q.chans[toPort.chan]? = some ch ∧
      u.killed = false ∧ (pk 0 1 16).len ≤ q.size ∧ q.merge = false) ∧
    (∀ w, w = (coming.arrivalSpan toPort (pk 0 1 16)).getD (0, 0) → coming.bankTurn c0 w.1 w.2 (.packetArrival toPort (pk 0 1 16)) = true) ∧
    (pk 0 1 16).kind < 5 ∧ (pk 0 1 16).seq = ch.expected ∧ (coming.core c0).bad = [] ∧ (coming.core c0).badOnce = [] := by
  refine ⟨⟨_, _, rfl, by decide, by decide, rfl, by decide, by decide, by decide, by decide⟩, ?_, by decide, by decide, by decide,
    by decide⟩
  rintro w rfl; decide
theorem test_witness_PortEvents_killed : ∀ s, s = (ported [] op).modSlot slot0 (fun v => { v with killed := true }) →
    (∀ k, Reaches s toPort k { ip with ring := [] } ch) ∧ (s.slot slot0).killed = true ∧
    s.bankTurn c0 0 0 (.packetArrival toPort (pk 0 0 16)) = true := by
  rintro s rfl
  refine ⟨fun k => ⟨?_, by decide, by decide⟩, by decide, by decide⟩
  intro u h
  rw [show tfind ((ported [] op).modSlot slot0 (fun v => { v with killed := true })).nexts toPort.slot = none from by decide] at h
  cases h
theorem test_witness_PortEvents_sends : (∀ n : Fin 2, ∀ e,
      e = ({ id := 7, port := 7, pkt := pk 0 0 16, copy := true, addr := 0, start := 0, due := n.val } : Emission) →
      ∀ s, s = (ported [] op).modSlot slot0 (fun v => { v with emissions := [e] }) →
      ((s.slot slot0).emissions.map (·.id)).Nodup ∧ (s.slot slot0).emissions.find? (fun e => e.id = 7 && e.copy) = some e ∧
      tfind (s.slot slot0).outs e.port = some op ∧ (s.cycle < e.due ↔ n = 1) ∧
      s.heldBefore (.packetArrival { slot := slot1, port := 0, chan := 0 } e.pkt) = false) ∧
    tfind ((ported [] { op with credited := some 1 }).slot slot0).outs 7 = some { op with credited := some 1 } ∧ (0 < ((2 : BitVec 32) - 1).toInt ∧ ((1 : BitVec 32) - 1).toInt ≤ 0) ∧
    ((ported [] op).slot slot0).canDrain = false ∧
    (∀ s, s = (ported [bufK 4] op).modSlot slot0 (fun v => { v with fst := .none }) → (s.slot slot0).canDrain = true ∧
      ((s.slot slot0).ins.map (·.1)).Nodup ∧ tfind (s.slot slot0).ins 7 = some { ip with ring := [bufK 4] }) ∧
    ((ported [] op).slot slot0).canDrainPort 7 = false ∧
    (((ported [] op).modSlot slot0 (fun v => { v with draining := true })).slot slot0).canDrainPort 7 = true := by
  refine ⟨?_, by decide, by decide, by decide, ?_, by decide, by decide⟩
  · rintro n e rfl s rfl; revert n; decide
  · rintro s rfl; exact ⟨by decide, by decide, by decide⟩
/-- `phased` with a signal of slot 0 for its phaser 15 on its way, or an arrival at the barrier, and how many signals it wants. -/
def signalled (ph : Option Nat) (nsig npend : BitVec 10) (mst : BitVec 3) (word : BitVec 32) (other : Bool) : State :=
  let s := (phased 3 0 0xFFFFFFFF 0 (some { word := word, since := 0, notified := none })).modClu k0 (fun k => { k with
    signals := [{ slot := slot0, ph := ph, upto := 0 }],
    phasers := k.phasers.set 15 { valid := true, failed := false, phase := 0, npend := npend, arrn := 0, arr := 0, nsig := nsig },
    members := k.members.map (fun e => (e.1, { e.2 with mst := mst })) })
  if other then s.modSlot slot1 (fun v => { v with sst := .active }) else s

theorem test_witness_PortEvents_signals :
    (∀ n ∈ [((1 : BitVec 10), (0 : BitVec 10), (1 : BitVec 10)), (2, 0, 1), (1, 1, 1)], ∀ s, s = signalled (some 15) n.1 n.2.1 3 (0x2C <<< 22 + 15) false →
      ((s.clu k0).signals.find? (fun g => g.slot = slot0 && g.ph = some 15)).isSome = true ∧ s.storesDone (.stage slot0) 0 = true ∧
      ((s.clu k0).member slot0 15).isSome = true ∧ ((s.clu k0).phaser 15).phase = 0 ∧ s.waitsOn slot0 15 = true ∧
      phaseBefore 0xFFFFFFFF (0 + 1) = true) ∧
    (∀ b, ((signalled none 1 0 2 0 b).barrierNeeds k0).all (· ∈ ((signalled none 1 0 2 0 b).clu k0).arrived ++ [slot0]) = !b ∧
      ((signalled none 1 0 2 0 b).clu k0).stopped = false ∧
      ((signalled none 1 0 2 0 b).clu k0).signals.find? (fun g => g.slot = slot0 && g.ph = none) = some { slot := slot0, ph := none, upto := 0 }) ∧
    { signalled none 1 0 2 0 false with reqs := [{ req 2 (.die d0) 0 (.store [1]) false with id := 0, dest := .none }] }.storesDone (.stage slot0) 1 = false ∧
    st.closing k0 = false ∧
    ((st.modDie d0 (fun k => { k with seqState := .draining })).modClu k0 (fun k => { k with active := true })).closing k0 = true := by
  refine ⟨?_, by decide, by decide, by decide, by decide⟩
  intro n hn s hs
  simp only [List.mem_cons, List.not_mem_nil, or_false] at hn
  rcases hn with rfl | rfl | rfl <;> subst hs <;> exact ⟨by decide, by decide, by decide, by decide, by decide, by decide⟩

/-- An open sequence of two blocks, and die 0 with it and a request at the head of its queue. -/
def sq0 : SeqEntry := { SeqEntry.free with st := 1, size := 16, res := 17, c := 1, table := [0, 256], pages := [65536] }
@[inherit_doc sq0] def serving (o : EngOp) : State :=
  st.modDie d0 (fun k => { k with
    engine := [{ id := 7, own := .stage slot0, op := o, upto := 0, sent := some 0, live := true }], seqs := [(0, sq0)],
    frames := [(0, (256, 1)), (256, (256, 1))], sqpool := 1 <<< 32, sqtpool := 2 <<< 32 ||| 1 })
/-- Die 0 of `serving`. -/
def sdie : Die := (serving (.drop 0)).die d0

theorem test_witness_EngineEvents_head : ∀ o ∈ [EngOp.new 65536, .res 0 1, .com 0 0 1, .len 0 0, .fork 0, .drop 0, .pre 0 0 0,
    .gathV ((Vector.replicate 8 0).set 1 0x10902) 31 15, .sqGath (Vector.replicate 8 0) 7 0 0],
    ((serving o).seqServable d0).map (fun q => (q.op, q.live, slotOf q.own)) = some (o, true, some slot0) := by decide
theorem test_witness_EngineEvents_new : NewOk 65536 ∧ NewOk 0x1000050 ∧ ¬ NewOk 0 ∧ st.hasMirror sq0 = false ∧
    (st.die d0).freeHandle = some 0 ∧ EntrySound (serving (.drop 0)) d0 0 := by
  refine ⟨by unfold NewOk; decide, by unfold NewOk; decide, by unfold NewOk; decide, by decide, ?_, ⟨by decide, by decide, ?_⟩⟩
  on_goal 2 => (intro home hh h; cases h)
  unfold Die.freeHandle
  rw [List.range_eq_range', show (65536 : Nat) = 65535 + 1 from rfl, List.range'_succ, List.find?_cons_of_pos]
  decide
theorem tget_run (e d : SeqEntry) (h : Nat) : ∀ n a, a ≤ h → h < a + n → tget ((List.range' a n).map (fun j => (j, e))) h d = e
  | 0, a, h1, h2 => by omega
  | n + 1, a, h1, h2 => by
    rw [List.range'_succ, List.map_cons, tget]
    split
    · rfl
    · exact tget_run e d h n (a + 1) (by omega) (by omega)
theorem test_witness_EngineEvents_full : ∀ k, k = { Die.reset with seqs := (List.range' 0 65536).map (fun h => (h, sq0)) } →
    k.freeHandle = none := by
  rintro k rfl
  refine List.find?_eq_none.2 (fun h hh => ?_)
  rw [Die.seq, tget_run sq0 _ h 65536 0 (by omega) (by have := List.mem_range.1 hh; omega)]
  decide
theorem test_witness_EngineEvents_serve : sdie.seqWhy 0 false = none ∧ sdie.seqWhy 0 true = none ∧ sdie.seqWhy 1 false = some 1 ∧
    (∃ r, sdie.take false sq0 (17 + 16) = some r ∧ r.1.length = 1) ∧ Die.reset.take false sq0 (17 + 16) = none ∧
    (∃ e, sq0.commit 1 16 = some e ∧ e.c = 17) ∧ sq0.commit 1 17 = none ∧ sq0.home = none ∧
    (∃ r, sdie.forked false sq0 (some slot0) = some r ∧ r.1.c = 1) ∧ Plain (serving (.drop 0)) d0 ∧
    (serving (.drop 0)).hasMirror sq0 = false ∧ ((serving (.drop 0)).pkg 0).snoop = [] ∧ sdie.bad = [] ∧ sdie.ahead = [] ∧ Desc.space ((Vector.replicate 8 0).set 1 0x10902) = 2 ∧
    (∃ v, (serving (.drop 0)).gatherSeq d0 0 = .inl (d0, v, 0) ∧ coverOf 0 (ceilDiv 4096 v.size) v.c = (0, 1)) := by
  refine ⟨by decide, by decide, by decide, ⟨_, rfl, by decide⟩, by decide, ⟨_, rfl, by decide⟩, by decide, by decide,
    ⟨_, rfl, by decide⟩, by unfold Plain; decide, by decide, by decide, by decide, by decide, by decide, ⟨_, rfl, by decide⟩⟩
theorem test_witness_EngineEvents_errors : ∀ s, s = (serving (.res 0 1)).modDie d0 (fun k => { k with seqs := [(0, { sq0 with bad := true })] }) →
    ((s.seqServable d0).bind (fun q => q.op.handle)) = some 0 ∧ ((s.die d0).seq 0).bad = true ∧ ((s.die d0).seq 0).st = 1 ∧
    ((s.die d0).seq 0).home = none ∧ sdie.tableBad sq0 [0] = false ∧
    ({ sdie with bad := [sq0.tableWord 0] }).tableBad sq0 [0] = true ∧
    (∀ e at_, e = sq0.reserve 16 [512] [] → at_ = (fun j => e.tableWord (sq0.table.length + j)) → at_ 0 = 65536 + 16) := by
  rintro s rfl
  refine ⟨by decide, by decide, by decide, by decide, by decide, by decide, ?_⟩
  rintro e at_ rfl rfl
  decide
/-- A fill of a vector register, or of a tile. -/
def fill (v : Option (BitVec 5)) (k : Option (BitVec 3)) (fail : Option Word) : Fill :=
  { id := 7, own := .stage slot0, tag := 15, vreg := v, tile := k, data := [1], fail := fail, last := none, landed := false }

theorem test_witness_EngineEvents_land :
    (∀ r, r = ({ answer := some 1, trap := none, landed := false, token := none } : CtlReq) →
      ((st.modMe (fun c => { c with req := some r })).ctx (.stage slot0)).req = some r) ∧
    (∀ e, e = ({ home := d1, handle := 0, entry := sq0 } : Shadow) →
      ((st.modDie d0 (fun k => { k with shadows := [e] })).die d0).shadow d1 0 = some e ∧ (e.entry.commit 1 16).isSome = true) ∧
    (∀ s, s = (serving (.drop 0)).modDie d0 (fun k => { k with mirrorOut := [{ id := 7, own := .stage slot0 }] }) →
      (s.die d0).mirrorOut.find? (fun m => m.id = 7) = some { id := 7, own := .stage slot0 } ∧
      ((s.die d0).engine.find? (fun q => q.id = 7)).isSome = true) ∧
    ((st.modDie d0 (fun k => { k with mirrorOut := [{ id := 7, own := .stage slot0 }] })).die d0).engine.find? (fun q => q.id = 7) = none ∧
    (∀ f ∈ [fill (some 31) none (some 5), fill none (some 7) none],
      ((st.modDie d0 (fun k => { k with fills := [f] })).die d0).fills.find? (fun f => f.id = 7) = some f) ∧
    wbits ((st.modDie d0 (fun k => { k with farrate := 0x200010 })).die d0).farrate 0 16 ≠ 0 ∧ (st.die d0).bucketStamp + 1024 ≤ 1024 ∧
    (∀ b : Fin 2, ∀ c, c = ({ id := 7, slot := slot0, handle := 5, block := 0, frame := 4096, deadline := b.val - 1, landed := false } : AheadCopy) →
      ∀ s, s = (serving (.drop 0)).modDie d1 (fun k => { k with ahead := [c], seqs := [(5, { SeqEntry.free with st := 2, home := some (d0, 0) })] }) →
      (s.die d1).ahead.find? (fun c => c.id = 7) = some c ∧ ((s.die d1).seq 5).home = some (d0, 0) ∧
      s.copyLate c = (b.val = 0) ∧ ((s.die d0).seq 0).st = 1 ∧ (s.die d0).bad = [] ∧ (s.die d0).badOnce = []) ∧
    (∀ n ∈ [(0 : Nat), 1, 2, 3], ((st.modDie d0 (fun k => { k with seqs := [(9, { sq0 with st := n })] })).die d0).seq 9 = { sq0 with st := n }) := by
  refine ⟨?_, ?_, ?_, by decide, by decide, by decide, by decide, ?_, by decide⟩
  · rintro r rfl; decide
  · rintro e rfl; decide
  · rintro s rfl; decide
  · rintro b c rfl s rfl
    fin_cases b <;> exact ⟨by decide, by decide, by decide, by decide, by decide, by decide⟩
/-- A stage-ahead copy of die 1 whose block stands at die 0, where `f` changes that die and `p` package 0. -/
def aheadOf (f : Die → Die) (p : Pkg → Pkg) : State :=
  (((serving (.drop 0)).modDie d1 (fun k => { k with
      ahead := [{ id := 7, slot := slot0, handle := 5, block := 0, frame := 4096, deadline := 0, landed := false }],
      seqs := [(5, { SeqEntry.free with st := 2, home := some (d0, 0) })] })).modDie d0 f).modPkg 0 p
theorem test_witness_EngineEvents_ahead :
    (∀ s ∈ [aheadOf (fun k => k) (fun p => p), aheadOf (fun k => { k with bad := [sq0.tableWord 0] }) (fun p => p)],
      (s.die d1).ahead.length = 1 ∧ ((s.die d1).seq 5).bad = false ∧ 5 ∉ (s.die d1).seqOnce ∧ ((s.die d1).seq 5).home = some (d0, 0) ∧
      ((s.die d0).seq 0).bad = false ∧ 0 ∉ (s.die d0).seqOnce ∧ ((s.die d0).seq 0).st = 1 ∧ (s.pkg 0).snoop = [] ∧
      ∀ c ∈ (s.die d1).ahead, s.copyLate c = false) ∧
    ((aheadOf (fun k => { k with bad := [sq0.tableWord 0] }) (fun p => p)).die d0).tableBad sq0 [0] = true ∧
    (aheadOf (fun k => k) (fun p => { p with hostUp := true, hdmSize := 1, hdmmap := [(0, 0x8000000000000000)], snoop := [(0, true)] })).snooped
      d0 (sq0.table.getD 0 0) sq0.frameLen false ≠ [] ∧ (serving (.drop 0)).snooped d0 0 4096 true = [] := by
  refine ⟨by decide, by decide, by decide, by decide⟩
theorem test_witness_EngineEvents_gone : (∀ s, s = aheadOf (fun k => { k with seqs := [(0, { sq0 with gen := 9 })] }) (fun p => p) →
      (∀ c ∈ (s.die d1).ahead, s.copyLate c = false ∧ ((s.die d0).seq 0).gen ≠ c.gen) ∧ ((s.die d0).seq 0).bad = false) ∧
    (st.die d0).mirrorIn = [] ∧ (∀ m : MirrorMsg, ((st.modDie d0 (fun k => { k with mirrorIn := [m] })).die d0).mirrorIn ≠ []) := by
  refine ⟨?_, by decide, ?_⟩
  · rintro s rfl; decide
  · intro m h; cases h
theorem test_witness_EngineEvents_posting : ∀ q, q = { Query.reset with owner := some slot0, terms := [0], lens := [1], cursors := [{ next := 0, posts := [] }] } →
    ∀ s, s = (serving (.drop 0)).modDie d0 (fun k => { k with queries := k.queries.set 7 q }) →
    (s.die d0).nextContext = some 7 ∧ (s.die d0).plFree ≤ s.cycle ∧ ((s.die d0).query 7).need = some 0 ∧ q.handle 0 = 0 ∧
    (∃ v, s.gatherSeq d0 0 = .inl (d0, v, 0)) ∧ Plain s d0 ∧ decodeBlock (List.replicate 256 0) = none := by
  rintro q rfl s rfl
  exact ⟨by decide, by decide, by decide, by decide, ⟨_, rfl⟩, by unfold Plain; decide, by decide⟩

/-! ### Configuration, links, the host, migration -/

/-- `sv` with supervisor core 0 halted and a trap of slot 0, or an event, in its queue. -/
def halted (traps : List SlotId) (events : List Word) : State :=
  (sv.modSup v0 (fun u => { u with halted := true, stop := false, traps := traps, events := events })).modSlot slot0 (fun v =>
    { v with fst := .trapped, trap := some tr })
/-- `st` with a record at gallery address 0: its configuration number is 1, its length as given, its
window the 64 KiB from 0x10000, and it has no items. -/
def recorded (len : Byte) : State := st.modDie d0 (fun k => { k with gallery := [(0, 1), (8, len), (16, 1), (20, 2)] })

theorem test_witness_ConfigEvents_sup : ((halted [slot0] []).sup v0).halted = true ∧ ((halted [slot0] []).sup v0).stop = false ∧
    (halted [slot0] []).supPending v0 = true ∧
    (((halted [slot0] []).served v0).find? (fun q => ((halted [slot0] []).trapHead q).isSome)) = some v0 ∧ ((halted [slot0] []).sup v0).traps = [slot0] ∧
    ((halted [slot0] []).slot slot0).trap = some tr ∧ (halted [] [1]).supPending v0 = true ∧
    (((halted [] [1]).served v0).find? (fun q => ((halted [] [1]).trapHead q).isSome)) = none ∧
    ((halted [slot0] []).modSlot slot0 (fun v => { v with capture := some 5 })).trapHead v0 = none := by decide
theorem test_witness_ConfigEvents_switch : (st.die d0).switching = false ∧
    recAddr (st.die d0).gallery (wbits (st.die d0).cfgstair 0 28) (wbits (st.die d0).cfgstair 32 16) = none ∧
    (∀ n ∈ [(1 : Byte), 64], recAddr ((recorded n).die d0).gallery (wbits ((recorded n).die d0).cfgstair 0 28)
      (wbits ((recorded n).die d0).cfgstair 32 16) = some 0) ∧ readRec ((recorded 1).die d0).gallery 0 = none ∧
    (readRec ((recorded 64).die d0).gallery 0).map (fun r => (r.cfgn, r.items)) = some (1, []) ∧
    (readRec ((recorded 64).die d0).gallery 0).map (fun r => (recorded 64).recStatus d0 r) = some 0 ∧
    (∀ l, l = (some 1, false, 0) → ∀ s, s = { (recorded 64).modDie d0 (fun k => { k with seqState := .loading, loading := some l }) with cycle := 1 } →
      (s.die d0).loading = some l ∧ l.2.2 < s.cycle) ∧ (st.die d0).newRemote 0 = false ∧
    (readRec [(0, 1), (8, 64)] 0).map (fun r => (recorded 64).recStatus d0 r) = some 10 ∧ wordsIn [8] 0 64 ≠ 0 ∧
    (recorded 64).recLines d0 = [] ∧ ((recorded 64).modPkg 0 (fun p => { p with
      hostUp := true, hdmSize := 1, hdmmap := [(0, 0x8000000000000000)], snoop := [(0, true)] })).recLines d0 ≠ [] ∧
    ((recorded 64).die d0).bad = [] ∧ ((recorded 64).die d0).badOnce = [] ∧
    ((st.modDie d0 (fun k => { k with seqState := .draining })).die d0).switching = true ∧
    (st.modDie d0 (fun k => { k with seqState := .draining })).drained d0 = true ∧ st.drained d0 = false ∧
    ((st.modDie d0 (fun k => { k with seqState := .activating })).die d0).seqState = .activating := by
  refine ⟨by decide, by decide, by decide, by decide, by decide, by decide, ?_, by decide, by decide, by decide, by decide, by decide, by decide,
    by decide, by decide, by decide, by decide, by decide⟩
  rintro l rfl s rfl; decide
theorem test_witness_ConfigEvents_slots : ∀ r, r = { CfgRec.none with items := [(1, [0, 0, 0]), (1, [0, 0, 15])] } →
    (∀ f ∈ r.sec 1, fieldAt f 3 ≠ 1) ∧ ((r.sec 1).map (fun f => slotAt d0 f 0)).Nodup := by
  rintro r rfl; decide
theorem test_witness_ConfigEvents_pages : tfind (st.core c0).backing 31 = none ∧
    tfind ((st.modCore c0 (fun k => { k with backing := [(31, 5)] })).core c0).backing 31 = some 5 ∧
    (∃ i, ((held 0).sup v0).held = some i ∧ i.core = c0) ∧ 0 ∈ words8 0 64 ∧ 8 ∈ words8 0 16 ∧
    (st.pkg 0).landing = some ({ d0 with die := 4 } : DieId).die ∧ (st.pkg 0).landing ≠ some d0.die ∧
    (5 : BitVec 16).toNat ∉ (st.die d0).codeBad ∧ (5 : BitVec 16).toNat ∈ ((st.modDie d0 (fun k => { k with codeBad := [5] })).die d0).codeBad ∧
    firstBad ((st.modDie d0 (fun k => { k with bad := [8] })).die d0).bad 0 64 = some 8 ∧
    (∀ q, q = { req 1 (.core c0) 0 .load false with own := .stage { slot1 with core := { c0 with core := 95 } } } →
      q.space = 1 ∧ q.place.home = .core c0 ∧ q.performed = false ∧ q.dest ≠ .none ∧ ∀ i, q.own = .stage i → i.core ≠ c0) := by
  refine ⟨by decide, by decide, ⟨_, rfl, rfl⟩, by decide, by decide, by decide, by decide, by decide, by decide, by decide, ?_⟩
  rintro q rfl
  refine ⟨by decide, by decide, by decide, by decide, ?_⟩
  intro i h
  cases h
  decide

/-- Package 0 with its port 63 in a state. -/
def porting (e : PortState) (fails : Nat) (late : Bool) : State :=
  { st.modPkg 0 (fun p => { p with recovery := false, ports := [(63, { Port.reset with state := e, trainFails := fails })] }) with
    cycle := if late then 100 * 800000 else 0 }

theorem test_witness_LinkEvents_ports : (∀ e ∈ [PortState.down, .train, .negotiate, .up, .failed, .quarantined], ∀ n ∈ [(1 : Nat), 2], ∀ b,
      ((porting e n b).pkg 0).port 63 = { Port.reset with state := e, trainFails := n } ∧ ((porting e n b).pkg 0).recovery = false) ∧
    Port.reset.since + 100 * 800000 ≤ (porting .train 2 true).cycle ∧ (porting .train 2 false).cycle < Port.reset.since + 800000 := by
  decide
/-- Port 63 of package 0 in a state, disabled, in host mode, in a package in recovery, or asking for a replay. -/
def portAs (e : PortState) (en hm rec ask : Bool) : State :=
  st.modPkg 0 (fun p => { p with recovery := rec, ports := [(63, { Port.reset with state := e, en := en, hostMode := hm, askReplay := ask })] })
theorem test_witness_LinkEvents_down : ∀ e ∈ [PortState.down, .train, .negotiate, .failed, .quarantined], ∀ en hm rec ask, ∀ s, s = portAs e en hm rec ask →
    (s.pkg 0).port 63 = { Port.reset with state := e, en := en, hostMode := hm, askReplay := ask } ∧ (s.pkg 0).recovery = rec := by
  rintro e he en hm rec ask s rfl
  exact ⟨rfl, rfl⟩
theorem test_witness_LinkEvents_flits :
    (((porting .up 0 false).modPkg 0 (fun p => { p with posmap := [((false, 0), 0x8000000000000000)] })).pkg 0 |>.way 0 0).1 = .deliver ∧
    ((porting .up 0 false).pkg 0).pkey.getLsbD 16 = false ∧ wbits (Flit.trailer (0 : BitVec 640)) 32 32 ≠ Flit.crc (0 : BitVec 640) := by
  decide +kernel
theorem test_witness_LinkEvents_seals : (2048 ≤ ((4095 : BitVec 12) - 0).toNat ∧ ((1 : BitVec 12) - 0).toNat < 2048) ∧ ∀ n ∈ [(0 : BitVec 12), 1, 4095],
    wbits (Flit.trailer (Flit.seal 0 n 0)) 32 32 = Flit.crc (Flit.seal 0 n 0) ∧ wbits (Flit.trailer (Flit.seal 0 n 0)) 20 12 = n.toNat := by
  decide +kernel
theorem test_witness_LinkEvents_delivered : ∀ f, f = Flit.seal (BitVec.ofNat 640 (7 * 2 ^ 47)) 0 0 →
    (((porting .up 0 false).modPkg 0 (fun p => { p with posmap := [((false, 0), 0x8000000000000000)] })).pkg 0 |>.way 0 f).1 = .deliver ∧
    f.ddie = 63 / 8 ∧ f.cls ≠ 2 ∧ f.msgType ≠ 16 ∧ wbits f.trailer 32 32 = f.crc := by
  rintro f rfl; decide +kernel
theorem test_witness_LinkEvents_ways : ∀ s, s = (porting .up 0 false).modPkg 0 (fun p => { p with
      posmap := [((false, 0), 0x8000000000000000), ((false, 1), posEntry 1)], hallrt := [((false, 1), 0x800000000000003F)],
      holds := [(1, 5)] }) → ∀ f : Flit, f = BitVec.ofNat 640 (2 ^ 50 + 2 ^ 45) →
    ((s.pkg 0).way 0 f).1 = .out 63 1 ∧ Flit.vc f = 0 ∧ (s.pkg 0).heldNo = none ∧ 4 ≤ Flit.vc (f.put 42 3 4) ∧
    s.peerOf 0 63 = (0, 0) ∧ 1 ∈ (s.pkg 0).via 0 63 ∧ wiredTo 0 0 = (1, 30) ∧ ((s.pkg 0).port 63).hostMode = false ∧
    ((porting .down 0 false).pkg 0).holds = [] ∧ s.heldFlits = [] := by
  rintro s rfl f rfl
  refine ⟨by decide +kernel, by decide +kernel, by decide, by decide +kernel, by decide, by decide +kernel, by decide, by decide, by decide, by decide⟩
theorem test_witness_LinkEvents_flip : ∀ s, s = (porting .up 0 false).modPkg 0 (fun p => { p with
      hallrt := [((false, 1), 0x800000000000003F)] }) → 1 ∈ (s.pkg 0).moved 0 := by
  rintro s rfl; decide
theorem test_witness_LinkEvents_ring : ∀ f : RingFlit, f = { src := 1, dst := 0, ring := 0, cls := 1, data := 0, refused := 0 } →
    ((porting .up 0 false).pkg 0 |>.way 0 f.data).1 = .drop ∧ Flit.asks f.data = false ∧
    (((porting .up 0 false).modPkg 0 (fun p => { p with posmap := [((false, 0), 0x8000000000000000)] })).pkg 0 |>.way 0 f.data).1 = .deliver ∧
    Flit.cls f.data ≠ 2 ∧ Flit.msgType f.data ≠ 16 ∧ f ∉ ((porting .up 0 false).pkg 0).reserved := by
  rintro f rfl
  exact ⟨by decide +kernel, by decide +kernel, by decide +kernel, by decide +kernel, by decide +kernel, by decide⟩
theorem test_witness_LinkEvents_quarantined : ((porting .quarantined 0 false).pkg 0).port 63 = { Port.reset with state := .quarantined } ∧
    Flit.attests (0 : BitVec 640) = true ∧ (∃ f : BitVec 640, Flit.attests f = false) := by
  refine ⟨by decide, by decide +kernel, ⟨BitVec.ofNat 640 (2 ^ 45), by decide +kernel⟩⟩
theorem test_witness_LinkEvents_notices : (0, 1) ∉ ((porting .up 0 false).pkg 0).notices ∧
    (∀ s, s = (porting .up 0 false).modPkg 0 (fun p => { p with notices := [(0, 1)] }) → (0, 1) ∈ (s.pkg 0).notices) ∧
    (((porting .up 0 false).pkg 0).ports.any (fun e => e.2.state = .up)) = true := by
  refine ⟨by decide, ?_, by decide⟩
  rintro s rfl; decide

/-- A BOOT packet of a block, a manifest that names the block for package 0, and package 0 with it. -/
def bootPk : Packet := { w0 := 0x1000, w1 := 1 <<< 32, w2 := 0, w3 := 0, payload := [1] }
@[inherit_doc bootPk] def bootBlk (sha : BitVec 384) (len : Nat) : BootBlock := { num := 1, sha := sha, dst := 0, die := 0, core := none, addr := 0, len := len, image := false }
@[inherit_doc bootPk] def booting (b : BootBlock) : State :=
  st.modPkg 0 (fun p => { p with boot := { p.boot with manifest := some { blocks := [b], tree := [(1, 0)], actives := [] }, sent := [(1, [bootPk])] } })

/-- Package 0 with its host link up, or down with a mask of the table; in recovery or not. -/
def hosted (up rec : Bool) : State :=
  st.modPkg 0 (fun p => { p with hostUp := up, recovery := rec, pmask := 0xF0, hdmSize := 1, hdmmap := [(0, 0x8000000000000000)] })
/-- A chunk of 8 bytes. -/
def chunk (tgt first last off : Nat) : FwChunk :=
  { h0 := BitVec.ofNat 64 (tgt + first * 2 ^ 8 + last * 2 ^ 9), h1 := BitVec.ofNat 64 (off + 8 * 2 ^ 32), data := List.replicate 8 0 }

theorem test_witness_HostEvents_link : okMask 0xF0 = true ∧ okMask 0x05 = false ∧ ((hosted false false).pkg 0).landing = some 4 ∧
    ((hosted false false).pkg 0).hostUp = false ∧ ((hosted true false).pkg 0).hostUp = true ∧
    (∀ b, ((hosted true b).pkg 0).mailboxFree = true ∧ ((hosted true b).pkg 0).recovery = b) ∧
    ((hosted true false).pkg 0).hdmPlace 0 = some (0, 0) ∧ ((hosted true false).pkg 0).hdmPlace 0x200000 = none ∧
    Plain (hosted true false) d0 ∧ wbits ((hosted true false).pkg 0).horph 48 16 = 0 ∧
    wbits ((((hosted true false).modPkg 0 (fun p => { p with horph := 1 <<< 48 })).pkg 0)).horph 48 16 ≠ 0 := by
  unfold Plain; decide
theorem test_witness_HostEvents_regs : ((hosted true false).ctlReg d0 0x10000000).isSome = true ∧
    (hosted true false).ctlReg d0 0x10000058 = none ∧ (∃ n, (hosted true false).ctlReg d0 0x10000000 ≠ some (.evpop n)) := by
  refine ⟨by decide, by decide, ⟨0, by decide⟩⟩
theorem test_witness_HostEvents_chunks : ((hosted true false).pkg 0).transfer (chunk 0 0 0 0) = none ∧
    (∀ t ∈ [(0 : Nat), 1], ∃ x, ((hosted true false).pkg 0).transfer (chunk t 1 0 0) = some x ∧ chunkStatus false (some x) (chunk t 1 0 0) = 0 ∧
      (splitStream (x.data ++ (chunk t 1 0 0).data).length (x.data ++ (chunk t 1 0 0).data)).1 = []) ∧
    (∃ x, ((hosted true false).pkg 0).transfer (chunk 0 1 1 0) = some x ∧ chunkStatus false (some x) (chunk 0 1 1 0) = 0 ∧
      chunkStatus false (some x) (chunk 0 1 1 8) ≠ 0) := by
  refine ⟨by decide, ?_, ⟨_, rfl, by decide, by decide⟩⟩
  intro t ht
  simp only [List.mem_cons, List.not_mem_nil, or_false] at ht
  rcases ht with rfl | rfl <;> exact ⟨_, rfl, by decide, by decide⟩
theorem test_witness_HostEvents_lines : ∀ s, s = (hosted true false).modPkg 0 (fun p => { p with snoop := [(0, true)], backInval := [(0, true)] }) →
    (∃ e ∈ (s.pkg 0).snoop, e.1 = 0 / 64) ∧ (∃ e ∈ (s.pkg 0).backInval, e.1 = 0) ∧ ((0, true) ∈ (s.pkg 0).backInval) ∧
    (∀ e ∈ (s.pkg 0).snoop, e.1 ≠ 64 / 64) ∧ (s.pkg 0).snoop.length < 65536 ∧ (s.pkg 0).completions = [] ∧
    (s.pkg 0).landing.getD 0 ≠ 0 ∧ (s.pkg 0).hdmIn = [] ∧
    (∀ t, t = s.modPkg 0 (fun p => { p with landing := some 0, horph := 1 <<< 48 }) → (t.pkg 0).landing.getD 0 = 0 ∧ (t.pkg 0).mailboxFree = true ∧
      t.orphanReadLines 0 0 1 ≠ [] ∧ t.orphanReadLines 0 0 0 = [] ∧ (t.die d0).bad = [] ∧ (t.die d0).badOnce = []) := by
  rintro s rfl
  refine ⟨by decide, by decide, by decide, by decide, by decide, by decide, by decide, by decide, ?_⟩
  rintro t rfl; decide
theorem test_witness_HostEvents_writes : ((toHost true 128 true).pkg 0).completions = [7] ∧
    ((st.modPkg 0 (fun p => { p with mailboxCode := none })).pkg 0).mailboxFree = false ∧
    ((hosted false false).pkg 0).mailboxFree = false ∧ ((hosted false false).pkg 0).recovery = false ∧
    (∀ s, s = (hosted true false).modDie d0 (fun k => { k with bad := [8] }) → firstBad (s.die d0).bad 0 64 ≠ none ∧
      hostWriteBad (s.die d0).bad 0 0x100 = true) := by
  refine ⟨by decide, by decide, by decide, by decide, ?_⟩
  rintro s rfl; decide
/-- The last chunk of a boot stream of 32 bytes, its packet, the whole of block 1, without payload; and package 0 about to
take it. -/
def lastChunk : FwChunk :=
  { h0 := 1 + 2 ^ 9, h1 := 32 * 2 ^ 32, data := (List.replicate 12 0) ++ [1] ++ (List.replicate 19 0) }
@[inherit_doc lastChunk] def lasting : State :=
  (hosted true false).modPkg 0 (fun p => { p with
    fw := some { tgt := 1, cseq := 0, total := lastChunk.total, accepted := 0, data := [], opened := true },
    boot := { p.boot with manifest := some { blocks := [{ bootBlk (sha384 []) 0 with dst := 9 }], tree := [], actives := [] } } })
theorem test_witness_HostEvents_stream : (∀ b : Bool, (st.streamPackets 0 false (if b then [] else [bootPk])).2.1 = b) ∧
    ((lasting.modPkg 0 (fun p => { p with boot := { p.boot with sent := [(2 ^ 32 + 1, [])] } })).abandon 0 |>.pkg 0).boot.sent = [] ∧
    lastChunk.first = false ∧ lastChunk.last = true ∧ lastChunk.tgt = 1 ∧
    (∃ x, (lasting.pkg 0).transfer lastChunk = some x ∧ chunkStatus false (some x) lastChunk = 0 ∧ x.opened = true ∧
      ∀ r, r = splitStream (x.data ++ lastChunk.data).length (x.data ++ lastChunk.data) → r.2 = [] ∧
        (lasting.streamPackets 0 true r.1).2 = (true, true) ∧ (lasting.streamPackets 0 true r.1).1.bootHeld 0 = false ∧ r.1 ≠ [] ∧
        (({ lasting with heldFlits := [{ cls := 0, src := d0, dst := d1, base := 0, trips := 0, pri := 0, ev := .bootPacket 1 bootPk }] } :
          State).streamPackets 0 true r.1).1.bootHeld 0 = true ∧
        ((lasting.streamPackets 0 true r.1).1.pkg 0).allSent = true) := by
  refine ⟨by decide, by decide, by decide, by decide, by decide, ⟨_, rfl, by decide, by decide, ?_⟩⟩
  rintro r rfl
  refine ⟨by decide, by decide +kernel, by decide +kernel, by decide, by decide +kernel, by decide +kernel⟩
/-- A command of management in the inbox of a package whose mailbox is free. -/
theorem test_witness_HostEvents_fabric : ∀ p, p = { (hosted true false).pkg 0 with inbox := [(4, 0)] } →
    p.mailboxFree = true ∧ p.manageFlit ≠ none ∧ p.recovery = false ∧ ((hosted true false).pkg 0).manageFlit = none := by
  rintro p rfl; decide +kernel
/-- Port 33 of the landing, in fabric mode or in host mode; a mask that names it or does not. -/
theorem test_witness_HostEvents_modes : ∀ b : Bool, ∀ p, p = { (hosted false false).pkg 0 with ports := [(33, { Port.reset with hostMode := b })] } →
    (p.port (8 * 4 + 1)).hostMode = b ∧ (2 : BitVec 8).getLsbD 1 = true ∧ (0 : BitVec 8).getLsbD 1 = false := by
  rintro b p rfl; exact ⟨rfl, rfl, rfl⟩

/-- Packages 0 and 1 of a hall; package 0 is its spare and controller, with a migration of package 1 in a state. -/
def migrating (e : MigState) (waits : List Nat) (lines : Nat) : State :=
  { ((st.modPkg 0 (fun p => { p with fabid := 1 <<< 34, pmemb := [(0, 3)], redwin := [(0, 1 <<< 63 ||| 1 <<< 57 ||| 1 <<< 52)], mig := { state := e, failedPkg := 1, waits := waits, lastBeat := [(1, 0)], lines := lines } })).modPkg
      1 (fun p => { p with fabid := 1 <<< 50 })) with cycle := 64800 }

theorem test_witness_MigrationEvents_states : (∀ e ∈ [MigState.normal, .freeze, .rebuild, .remap, .replay], ∀ s, s = migrating e [2] 0 →
      (s.pkg 0).mig.state = e ∧ Calm s 0 ∧ (s.pkg 0).mig.failedPkg ≠ 0 ∧ tfind (s.pkg 0).mig.lastBeat 1 = some 0 ∧ 0 + 64800 ≤ s.cycle ∧
      (s.pkg 0).mig.waits.filter (· ≠ 2) = [] ∧ 2 ∈ (s.pkg 0).mig.waits ∧ (s.pkg 0).mig.lines = 0) ∧
    (migrating .freeze [2, 3] 0).controllerOf 1 = some 0 ∧ ((migrating .freeze [2, 3] 0).pkg 0).mig.waits.filter (· ≠ 2) ≠ [] ∧
    ((migrating .rebuild [] 1).pkg 0).lineWindow 0 0 = some (1 <<< 63 ||| 1 <<< 57 ||| 1 <<< 52) := by
  refine ⟨?_, by decide, by decide, by decide⟩
  intro e he s hs
  subst hs
  unfold Calm
  simp only [List.mem_cons, List.not_mem_nil, or_false] at he
  rcases he with rfl | rfl | rfl | rfl | rfl <;> exact ⟨by decide, by decide, by decide, by decide, by decide, by decide, by decide, by decide⟩

theorem test_witness_MigrationEvents_boot : bootPk.seq ≠ 0 ∧ (blockBytes [bootPk]).length = 1 ∧
    (∀ n ∈ [(1 : Nat), 2], ((booting (bootBlk 0 n)).pkg 0).duties 0 = [bootBlk 0 n] ∧ bootPk.seq.toNat = 1 ∧
      sameDst (bootBlk 0 n) bootPk 0 = true ∧ sameDst { bootBlk 0 n with die := 1 } bootPk 0 = false ∧
      1 ∉ ((booting (bootBlk 0 n)).pkg 0).boot.kept ∧ tget ((booting (bootBlk 0 n)).pkg 0).boot.parts 1 [] ++ [bootPk] = [bootPk]) ∧
    bootPk.bootCore d0 = none ∧ bootPk.bootDie = 0 ∧ ((booting (bootBlk 0 1)).pkg 0).wants (bootBlk 0 1) = true ∧
    tfind ((booting (bootBlk 0 1)).pkg 0).boot.sent 1 = some [bootPk] ∧ tfind ((booting (bootBlk 0 1)).pkg 0).boot.sent 2 = none ∧
    (st.pkg 0).boot.manifest = none := by decide
theorem test_witness_MigrationEvents_measured : ∀ b, b = bootBlk (sha384 (blockBytes [bootPk])) 1 →
    ((booting b).pkg 0).duties 0 = [b] ∧ sha384 (blockBytes [bootPk]) = b.sha ∧ (blockBytes [bootPk]).length = b.len := by
  rintro b rfl
  exact ⟨rfl, rfl, rfl⟩
/-- A spare of hall 0 at position 0, whose manifest names logical package 1, at position 1, active, and a block for it; ways to it. -/
def sparing (b : BootBlock) : State :=
  (st.modPkg 0 (fun p => { p with
    fabid := 1 <<< 34, posmap := [((false, 1), posEntry 1)], hallrt := [((false, 1), 0x8000000000000000)],
    ports := [(0, { Port.reset with state := .up })], boot := { p.boot with manifest := some { blocks := [b], tree := [], actives := [1] } } })).modPkg
      1 (fun p => { p with fabid := 1 <<< 50, posmap := [((false, 1), posEntry 1)] })
theorem test_witness_MigrationEvents_hall : ∀ b, b = { bootBlk 0 1 with dst := 1 } →
    ((sparing b).pkg 0).hallCopies 0 b = [1] ∧ ((sparing b).pkg 0).duties 0 = [b] ∧ ((sparing b).pkg 0).wants b = false ∧ b.image = false ∧
    ((sparing b).pkg 0).hallImages 0 b [1] = [] ∧ (∀ x ∈ ((sparing b).pkg 0).duties 0, x.num = b.num ∨ x.num ∈ ((sparing b).pkg 0).boot.kept) ∧
    ((sparing b).pkg 0).boot.done = false ∧ (∃ n, (sparing b).wayOf 0 d0 { pkg := 1, die := 0 } = .cost n) ∧
    (sparing b).keyBad 0 1 = false := by
  rintro b rfl
  refine ⟨by decide, by decide, by decide, by decide, by decide, by decide, by decide, ⟨_, rfl⟩, by decide⟩
theorem test_witness_MigrationEvents_manifest : (∀ k, k = { bootPk with w1 := 0 } → k.seq = 0) ∧ (st.pkg 0).boot.manifest = none ∧
    (∀ p, p = (booting (bootBlk 0 1)).pkg 0 → p.boot.manifest ≠ none ∧ p.boot.fresh ++ [bootPk] ≠ p.boot.raw ∧
      ({ p with boot := { p.boot with raw := [bootPk] } } : Pkg).boot.fresh ++ [bootPk] = [bootPk]) ∧
    ({ (booting (bootBlk 0 1)).pkg 0 with boot := { Pkg.reset.boot with manifest := some { blocks := [], tree := [], actives := [] } } } : Pkg).duties 0 = [] := by
  refine ⟨?_, by decide, ?_, by decide⟩
  · rintro k rfl; decide
  · rintro p rfl; decide
theorem test_witness_MigrationEvents_asked : (∀ n ∈ [(0 : Nat), 3], ∀ p, p = { st.pkg 0 with
      boot := { (st.pkg 0).boot with asked := [(1, n)], manifest := some { blocks := [], tree := [(1, 0)], actives := [] } },
      posmap := [((false, 1), posEntry 1)] } → tget p.boot.asked 1 0 = n ∧ p.parent = some 1) := by
  intro n hn p hp
  subst hp
  simp only [List.mem_cons, List.not_mem_nil, or_false] at hn
  rcases hn with rfl | rfl <;> decide

/-! ## The spec's worked examples -/

/-- The result of a syllable that the firing of slot 0 carries out: the register write that is scheduled last, and its flags. -/
def resultOf (i : Instr) (s : State) : Option (RegWrite × Nat) :=
  match exec i s with
  | .next t =>
    match t.me.flights.getLast? with
    | some f => f.writes.head?.map (fun w => (w, f.flags.toNat))
    | none => none
  | .fault _ => none
  | .refused _ => none
/-- The same result of a vector syllable, as its lanes of a width; the transform results too. -/
def lanesOf (w : Nat) (i : Instr) (s : State) : Option (List Nat × Nat) :=
  match resultOf i s with
  | some (.v _ v, f) => some (lanes w v, f)
  | some (.x _ _, _) => none
  | some (.p _ _, _) => none
  | none => none
/-- `st` with a vector register whose lanes are given; the rest are zero. -/
def stv (l : List (BitVec 5 × Nat × List Nat)) : State :=
  st.modMe (fun c => l.foldl (fun c e => c.wv e.1 (BitVec.ofNat 1024 (packLanes e.2.1 e.2.2))) c)

/-- The words of the examples of files 02, 04–06, 08, 10 and 11. -/
theorem test_example_words : [(0x82C04140, .take 0 4 5 0), (0x82801002, .setlc 0 1 0 (.fld 2)), (0xBA008C85, .vadds 0 1 3 4 (.fld 5)),
    (0xA1403262, .ldLf 0 3 9 2 (.fld 2)), (0xC00145BF, .mm 0 1 2 5 1 0 63), (0xC0410603, .mmDRoute 0 1 6 3),
    (0xC2007208, .tdStep 0 (.fld 7) 4 1), (0xD0408908, .xpExp 0 4 9 1 0), (0xA28051B2, .ldC 0 5 6 3 (.fld 2)),
    (0xA3C07270, .mcst 0 7 9 (.fld 0)), (0xAB403002, .phAdv 0 3 2), (0xA40051B2, .ldG 0 5 6 3 (.fld 2)),
    (0xA5405183, .amoG 0 5 6 0 3), (0xA5805187, .casG 0 5 6 7), (0xAC000009, .fence 0 2 0 1), (0xABC01000, .wcnt 0 1 0),
    (0xAC405187, .waita 0 5 0 6 7), (0xA8005187, .sqRes 0 5 6 7), (0xA840A18B, .sqCom 0 10 6 11), (0xA78040C8, .gathVector 0 4 3 8),
    (0xA9412109, .sqGath 0 1 2 4 9)].all reads = true := by decide

/-- The example of R150. -/
theorem test_example_faddS : resultOf (.faddS 0 3 4 (.ext2 0xDCCCCCD 3)) (stx [(4, 0x3F800000)]) = some (.x 3 0x3F8CCCCD, 8) := by
  decide +kernel
/-- The examples of R154. -/
theorem test_example_fcvt : resultOf (.fcvt 0 5 4 0x16) (stx [(4, 0xC1200000)]) = some (.x 5 0xFFFFFFFFFFFFFFF6, 0) ∧
    resultOf (.fcvt 0 5 4 0x16) (stx [(4, 0x4F32D05E)]) = some (.x 5 0x7FFFFFFF, 1) ∧
    resultOf (.fcvt 0 5 4 0x22) (stx [(4, 0x3DCCCCCD)]) = some (.x 5 0x3DCC, 8) := by decide +kernel
/-- The examples of R148 and R149. -/
theorem test_example_unpk : resultOf (.unpk 0 6 4 9) (stx [(4, 0x0000000BC0000000), (9, 0x721E)]) = some (.x 6 0x0507, 0) ∧
    resultOf (.packb 0 7 6 9) (stx [(6, 0x0507), (9, 0x721E)]) = some (.x 7 0x2F, 0) := by decide +kernel
/-- The example of R159. -/
theorem test_example_vadds : (lanesOf 16 (.vadds 0 1 3 4 (.fld 5)) (stv [(4, 16, [30000, 45536]), (5, 16, [5000, 50536])])).map (fun r =>
      (r.1.take 3, r.2)) = some ([32767, 32768, 0], 0) ∧
    (lanesOf 16 (.vadd 0 1 3 4 (.fld 5)) (stv [(4, 16, [30000, 45536]), (5, 16, [5000, 50536])])).map (fun r => r.1.take 3) =
      some [35000, 30536, 0] := by decide +kernel
/-- The example of R162. -/
theorem test_example_vrot : lanesOf 32 (.vrot 0 0 3 4 5) (stv [(4, 32, (List.range 32).map (· + 10)), (5, 32, [35])]) =
      some ((List.range 29).map (· + 13) ++ [10, 11, 12], 0) ∧
    (lanesOf 32 (.vcx 0 0 3 4 5) (stv [(4, 32, (List.range 32).map (· + 10)),
      (5, 32, (List.range 32).map (fun j => if j = 1 ∨ j = 4 ∨ j = 31 then 2 ^ 32 - 1 else 0))])).map (fun r => r.1.take 4) =
      some [11, 14, 41, 0] := by decide +kernel
/-- The examples of R163 and R164. -/
theorem test_example_vrsum :
    (lanesOf 32 (.vrsum 0 3 3 4) (stv [(4, 32, [0x4B800000, 0, 0x3F800000, 0x3F800000])])).map (fun r => (r.1.head?, r.2)) =
      some (some 0x4B800001, 0) ∧
    (lanesOf 32 (.vscan 0 3 3 4) (stv [(4, 32, [0x4B800000, 0, 0x3F800000, 0x3F800000])])).map (fun r => (r.1.take 4, r.2)) =
      some ([0x4B800000, 0x4B800000, 0x4B800000, 0x4B800000], 8) := by decide +kernel
/-- The examples of R166 and R167; the second names `NX`. -/
theorem test_example_vqsc :
    (lanesOf 8 (.vqsc 0 3 2 8 0) (stv [(8, 32, [0x41200000, 0x40A00000, 0x3F000000, 0xC0E00000])])).map (fun r => r.1.head?) =
      some (some 0x80) ∧
    (lanesOf 8 (.vqnt 0 3 2 8 1 0) (stv [(2, 8, [0x80]), (8, 32, [0x41200000, 0x40A00000, 0x3F000000, 0xC0E00000])])).map (fun r =>
      (r.1.take 3, r.2 / 8)) = some ([0x46, 0xE0, 0], 1) := by decide +kernel
/-- The examples of R168. -/
theorem test_example_vexp2 : (lanesOf 32 (.vexp2 0 3 3 4) (stv [(4, 32, [0xC0400000])])).map (fun r => r.1.head?) = some (some 0x3E000000) ∧
    (lanesOf 32 (.vexp2 0 3 3 4) (stv [(4, 32, [0x43480000])])).map (fun r => r.1.head?) = some (some 0x7F800000) ∧
    (lanesOf 32 (.vlog2 0 3 3 4) (stv [(4, 32, (List.range 32).map (fun _ => 0x41000000))])).map (fun r => (r.1.head?, r.2)) =
      some (some 0x40400000, 0) := by decide +kernel
/-- The example of R216. -/
theorem test_example_xpPack :
    (match exec (.xpPack 0 2 4 0 1) (stv [(4, 16, [7, 0, 0, 65535])]) with
      | .next t => t.me.xfm.map (fun r => (r.rem, (lanes 8 r.value).take 9))
      | .fault _ => []
      | .refused _ => []) = [(6, [9, 0, 0, 0, 7, 0, 0xFF, 0xFF, 0])] := by decide +kernel
/-- The example of R332. -/
theorem test_example_block : decodeBlock (([0xE8, 0x03, 0, 0, 3, 4, 2, 0, 0, 0, 0xC0, 0x3F, 0x94, 0x18] : List Byte) ++ List.replicate 242 0) =
    some [(1000, 1), (1005, 3), (1015, 2)] := by decide +kernel

end Sys2Proof.Tests
end

section
/-! PROOF. The scope statements: the state after reset (O49), and what one step runs (O48). -/

namespace Sys2Proof.Machine

/-! ## The elements at reset -/

/-- A memory space that lists no byte reads zero (R172, R273; log 7). -/
theorem memByte_nil (a : Nat) : memByte [] a = 0 := rfl

theorem Ctx.rx_reset (r : BitVec 6) : Ctx.reset.rx r = 0 := by simp [Ctx.rx, Ctx.reset]

theorem Ctx.rv_reset (r : BitVec 5) : Ctx.reset.rv r = 0 := by simp [Ctx.rv, Ctx.reset]

theorem Ctx.rp_reset {r : BitVec 4} (h : r ≠ 0) : Ctx.reset.rp r = false := by
  simpa [Ctx.rp, Ctx.reset] using h

theorem Cluster.phaser_reset (n : Nat) : Cluster.reset.phaser n =
    { valid := false, failed := false, phase := 0, npend := 0, arrn := 0, arr := 0, nsig := 0 } := by
  simp only [Cluster.phaser, Cluster.reset, Vector.toList_replicate, List.getD_eq_getElem?_getD,
    List.getElem?_getD_replicate_default_eq]

theorem Die.query_reset (n : Nat) : Die.reset.query n = Query.reset := by
  simp only [Die.query, Die.reset, Vector.toList_replicate, List.getD_eq_getElem?_getD,
    List.getElem?_getD_replicate_default_eq]

theorem zeroCtx_reset : ZeroCtx Ctx.reset := by
  refine ⟨Ctx.rx_reset, Ctx.rv_reset, fun _ => Ctx.rp_reset, ?_⟩
  simp [Ctx.reset, CtlRegs.reset, Tags.reset]

theorem emptySlot_reset : EmptySlot Slot.reset := by
  simp [EmptySlot, Slot.reset]

theorem zeroCore_reset : ZeroCore Core.reset := by
  refine ⟨memByte_nil, memByte_nil, ?_⟩
  simp [Core.reset]

theorem zeroCluster_reset : ZeroCluster Cluster.reset := by
  simp only [ZeroCluster, Cluster.phaser_reset]
  simp [Cluster.reset]

theorem zeroSup_reset : ZeroSup Sup.reset := by
  refine ⟨memByte_nil, memByte_nil, ?_⟩
  simp [Sup.reset]

theorem zeroDie_reset : ZeroDie Die.reset := by
  simp only [ZeroDie, Die.query_reset]
  simp [Die.reset, Die.seq, tget, Query.reset, memByte_nil]

theorem zeroPkg_reset : ZeroPkg Pkg.reset := by
  simp [ZeroPkg, Pkg.reset, Pkg.port, tget, Port.reset, memByte_nil]

/-! ## The machine at reset -/

theorem State.homeMem_reset (h : Home) : State.reset.homeMem h = [] := by cases h <;> rfl

theorem State.localMem_reset (g : Agent) : State.reset.localMem g = [] := by cases g <;> rfl

/-- Settles O49: no element has been touched, so each reads as its own reset value, and those are what the statement names. -/
theorem resetState : Obligations.ResetState := by
  refine ⟨fun _ => zeroCtx_reset, fun _ => emptySlot_reset, fun _ => zeroCore_reset, fun _ => zeroCluster_reset,
    fun _ => zeroSup_reset, fun _ => zeroDie_reset, fun _ => zeroPkg_reset, fun h a => ?_, fun g a => ?_,
    rfl, rfl, rfl, rfl, rfl, rfl, rfl⟩
  · rw [State.homeMem_reset, memByte_nil]
  · rw [State.localMem_reset, memByte_nil]

/-! ## A step with a single-bit error in the word of the tags -/

/-- Slot 0 of the machine after reset is about to issue `NOP`, and the word of its tags has a single-bit error. That word is read at
every issue (R85), so the issue corrects the error and `ECCCNT.COR` counts it (R366, R369). -/
def tagsUpset : State :=
  (State.reset.withFetchWord 32 (2 ^ 31)).modCtx (.stage slot0) (fun c => { c with regOnce := [835] })

/-- The bundle of `tagsUpset` in issue, before its word is read. -/
def tagsUpsetIssue : State :=
  { ({ tagsUpset with turn := [], cur := .stage slot0 }.meetCode (.stage slot0) (tagsUpset.ctx (.stage slot0)).pc 1).landed
      (.stage slot0) with iss := bundleRecord tagsUpset (tagsUpset.ctx (.stage slot0)).pc 1 }

/-- The same, once its word is read. -/
def tagsUpsetRead : State :=
  { tagsUpsetIssue with iss := { tagsUpsetIssue.iss with word := BitVec.ofNat 32 (2 ^ 31) } }

theorem inTurn_tagsUpset : InTurn tagsUpset (.stage slot0) := by
  refine ⟨by decide, by decide, by decide, by decide, by decide, ?_, fun v h => nomatch h⟩
  rintro i ⟨⟩
  decide

theorem decode_nop_word : decode [2 ^ 31] = .ok (.nop 0, true, []) := rfl

/-- The meaning of `NOP` names no word of the tags, and leaves the error as it is. -/
theorem exec_tagsUpsetRead : exec (.nop 0) tagsUpsetRead = .next (tagsUpsetRead.enter 0 {}) := by
  rw [exec_nop, execNop]
  exact issue_act (.inl rfl) rfl (by decide) rfl rfl

theorem ecccnt_exec_tagsUpsetRead :
    (((tagsUpsetRead.enter 0 {}).numberXfm (.stage slot0) tagsUpset.uid).die slot0.core.die).ecccnt = 0 := by decide

theorem ecccnt_advance_tagsUpset : ((advance tagsUpset).die slot0.core.die).ecccnt = 1 := by decide

/-- Refutes O48: it lets a step differ from the meaning of its instruction in the context of the agent alone, and leaves out what the
issue itself reads of the register files. At `tagsUpset` the step counts a corrected error in `ECCCNT`, a register of the die, which
the meaning of `NOP` leaves 0. -/
theorem not_stepRuns : ¬ Obligations.StepRuns := by
  rintro ⟨hissue, -⟩
  obtain ⟨t, _, hstep, -, -, -, -, -, -, -, -, -, -, -, -, -, hrest⟩ :=
    hissue tagsUpset (.stage slot0) [] (2 ^ 31) (.nop 0) tagsUpsetIssue tagsUpsetRead _ rfl rfl inTurn_tagsUpset
      (by decide) (by decide) (by decide) (by decide) decode_nop_word rfl (by decide) rfl exec_tagsUpsetRead (by decide)
  obtain rfl : advance tagsUpset = t := Host.Outcome.next.inj hstep
  have hdie := congrArg (fun s : State => (s.die slot0.core.die).ecccnt) hrest
  simp only [State.die_setCtx, ecccnt_exec_tagsUpsetRead, ecccnt_advance_tagsUpset] at hdie
  exact absurd hdie (by decide)

end Sys2Proof.Machine
end

section
/-! PROOF. What the decoder reads from the words that the encoder writes (O46): a syllable is its fields written one behind the
other (`inOrder`), so each is read where it stands; one lemma for each form of R18 to R31. -/

namespace Sys2Proof

/-! ## Reading a field of a word -/

/-- `x` with `g` more bits behind it, those of `v`. -/
def joinBits (x g v : Nat) : Nat := x * 2 ^ g + v

theorem joinBits_div {x g v : Nat} (hv : v < 2 ^ g) : joinBits x g v / 2 ^ g = x := by
  rw [joinBits, Nat.mul_comm, Nat.mul_add_div (Nat.two_pow_pos g), Nat.div_eq_of_lt hv, Nat.add_zero]

@[simp] theorem fld_joinBits_skip {x g v lo n : Nat} (hv : v < 2 ^ g) (h : g ≤ lo) :
    fld (joinBits x g v) lo n = fld x (lo - g) n := by
  obtain ⟨c, rfl⟩ := Nat.exists_eq_add_of_le h
  rw [fld, fld, Nat.pow_add, ← Nat.div_div_eq_div_mul, joinBits_div hv, Nat.add_sub_cancel_left]

@[simp] theorem fld_joinBits_low {x g v lo n : Nat} (h : lo + n ≤ g) : fld (joinBits x g v) lo n = fld v lo n := by
  obtain ⟨c, rfl⟩ := Nat.exists_eq_add_of_le h
  have e : joinBits x (lo + n + c) v = v + 2 ^ lo * (2 ^ n * (x * 2 ^ c)) := by rw [joinBits]; ring
  rw [fld, fld, e, Nat.add_mul_div_left _ _ (Nat.two_pow_pos lo), Nat.add_mul_mod_self_left]

@[simp] theorem fld_small {v n : Nat} (h : v < 2 ^ n) : fld v 0 n = v := by
  rw [fld, Nat.pow_zero, Nat.div_one, Nat.mod_eq_of_lt h]

theorem fld_past {v lo n : Nat} (h : v < 2 ^ lo) : fld v lo n = 0 := by
  rw [fld, Nat.div_eq_of_lt h, Nat.zero_mod]

section
variable {x g lo n w : Nat} {v : BitVec w}

@[simp] theorem fld_joinBits_bv_skip (hw : w ≤ g) (h : g ≤ lo) : fld (joinBits x g v.toNat) lo n = fld x (lo - g) n :=
  fld_joinBits_skip (BitVec.toNat_lt_twoPow_of_le hw) h

@[simp] theorem fld_bv : fld v.toNat 0 w = v.toNat := fld_small v.isLt

@[simp] theorem fld_bv_past (h : w ≤ lo) : fld v.toNat lo n = 0 := fld_past (BitVec.toNat_lt_twoPow_of_le h)
end

/-! ## A syllable, field by field -/

/-- The fields of a syllable below bit `j`, written one behind the other. -/
@[simp] def fieldsBelow (x j : Nat) : List (Nat × Nat) → Nat
  | [] => joinBits x j 0
  | (v, lo) :: fs => fieldsBelow (joinBits x (j - lo) v) lo fs

/-- The fields stand in falling order below bit `j`, each below the one before it. -/
@[simp] def Fits : Nat → List (Nat × Nat) → Prop
  | _, [] => True
  | j, (v, lo) :: fs => lo ≤ j ∧ v < 2 ^ (j - lo) ∧ Fits lo fs

/-- A syllable written field by field from bit 31 down: its `S` bit, its class, its opcode, its fields. -/
@[simp] def inOrder (stop m : Nat) (fs : List (Nat × Nat)) : Nat :=
  fieldsBelow (joinBits (joinBits stop 3 (m / 2 ^ 28 % 2 ^ 3)) 6 (m / 2 ^ 22 % 2 ^ 6)) 22 fs

theorem syl_joinBits {x j : Nat} {fs : List (Nat × Nat)} (h : Fits j fs) : syl (joinBits x j 0) fs = fieldsBelow x j fs := by
  induction fs generalizing x j with
  | nil => rfl
  | cons f fs ih =>
    obtain ⟨v, lo⟩ := f
    obtain ⟨hlo, -, hfs⟩ := h
    obtain ⟨c, rfl⟩ := Nat.exists_eq_add_of_le hlo
    rw [syl, fieldsBelow, Nat.add_sub_cancel_left, ← ih hfs]
    congr 1
    simp only [joinBits]; ring

/-- What stands at bit `j` and above is read as without the fields below it. -/
theorem fld_fieldsBelow {x j lo n : Nat} {fs : List (Nat × Nat)} (h : Fits j fs) (hj : j ≤ lo) :
    fld (fieldsBelow x j fs) lo n = fld x (lo - j) n := by
  induction fs generalizing x j with
  | nil => exact fld_joinBits_skip (Nat.two_pow_pos j) hj
  | cons f fs ih =>
    obtain ⟨v, l⟩ := f
    obtain ⟨hl, hv, hfs⟩ := h
    rw [fieldsBelow, ih hfs (hl.trans hj), fld_joinBits_skip hv (by omega)]
    congr 1
    omega

theorem syl_eq_add (m : Nat) (fs : List (Nat × Nat)) : syl m fs = m + syl 0 fs := by
  induction fs generalizing m with
  | nil => rfl
  | cons f fs ih =>
    obtain ⟨v, lo⟩ := f
    rw [syl, syl, ih, ih (0 + v * 2 ^ lo)]
    omega

theorem syl_eq_inOrder {m stop : Nat} {fs : List (Nat × Nat)} (hm : m % 2 ^ 22 = 0) (hm' : m < 2 ^ 31)
    (hfs : Fits 22 fs) : syl m fs + stop * 2 ^ 31 = inOrder stop m fs := by
  rw [inOrder, ← syl_joinBits hfs, syl_eq_add m, syl_eq_add (joinBits _ 22 0)]
  unfold joinBits
  omega

@[simp] theorem joinBits_zero {x v : Nat} : joinBits x 0 v = x + v := by simp [joinBits]

/-- The bits of an operand that its field holds: none of them where EXT syllables carry it (R27). -/
def Opnd.bits {n : Nat} : Opnd n → BitVec n
  | .fld v => v
  | .ext1 _ => 0
  | .ext2 _ _ => 0

@[simp] theorem Opnd.field_eq_bits {n : Nat} (o : Opnd n) : o.field = o.bits.toNat := by
  cases o <;> simp [Opnd.field, Opnd.bits]

@[simp] theorem opnd_bits {n : Nat} (o : Opnd n) : opnd n o.bits.toNat o.exts = o := by
  cases o <;> simp [opnd, Opnd.bits, Opnd.exts]

/-- The size of a vector's memory form is the constant 3 at bit 4 (R21); it is read as a field. -/
theorem syl_size3 {m p v a i : Nat} :
    syl (m + 0x30) [(p, 18), (v, 12), (a, 6), (i, 0)] =
      syl m [(p, 18), (v, 12), (a, 6), (3, 4), (i, 0)] := by
  simp only [syl]; omega

/-! ## The classes, and the operand of R27 -/

theorem decodeFields_ctl {w : Nat} {es : List Nat} (h : fld w 28 3 = 0) : decodeFields w es = decodeCtl w es := by
  simp [decodeFields, h]

theorem decodeFields_sca {w : Nat} {es : List Nat} (h : fld w 28 3 = 1) : decodeFields w es = decodeSca w es := by
  simp [decodeFields, h]

theorem decodeFields_mem {w : Nat} {es : List Nat} (h : fld w 28 3 = 2) : decodeFields w es = decodeMem w es := by
  simp [decodeFields, h]

theorem decodeFields_vec {w : Nat} {es : List Nat} (h : fld w 28 3 = 3) : decodeFields w es = decodeVec w es := by
  simp [decodeFields, h]

theorem decodeFields_mat {w : Nat} {es : List Nat} (h : fld w 28 3 = 4) : decodeFields w es = decodeMat w es := by
  simp [decodeFields, h]

theorem decodeFields_xfm {w : Nat} {es : List Nat} (h : fld w 28 3 = 5) : decodeFields w es = decodeXfm w es := by
  simp [decodeFields, h]

/-- The rule of R27, R29 and R32 for the EXT syllables behind a word, as `decodeSyl` checks it. -/
def extOk (w : Nat) (es : List Nat) : Bool :=
  match extRule w with
  | none => es.isEmpty
  | some (lo, n, least, most) => least ≤ es.length && es.length ≤ most && (es.isEmpty || fld w lo n == 0)

theorem Opnd.exts_or_field {n : Nat} (o : Opnd n) : o.exts = [] ∨ o.field = 0 := by
  cases o <;> simp [Opnd.exts, Opnd.field]

theorem extOk_opnd {n w lo k most : Nat} {o : Opnd n} (hr : extRule w = some (lo, k, 0, most)) (hf : fld w lo k = o.field)
    (hl : o.exts.length ≤ most) : extOk w o.exts = true := by
  rw [extOk, hr]
  simpa [hl, hf] using o.exts_or_field

theorem Opnd.exts_length_le {n : Nat} (o : Opnd n) : o.exts.length ≤ 2 := by
  cases o <;> simp [Opnd.exts]

theorem Opnd.exts_length_of_upto1 {n : Nat} {o : Opnd n} (h : o.upto1 = true) : o.exts.length ≤ 1 := by
  cases o <;> simp_all [Opnd.exts, Opnd.upto1]

theorem Opnd.exts_length_of_vecOk {n : Nat} {o : Opnd n} {t : BitVec 3} (h : o.vecOk t = true) :
    o.exts.length ≤ if t.toNat < 3 then 1 else 2 := by
  rw [Opnd.vecOk] at h
  split
  case isTrue ht => exact exts_length_of_upto1 (by simpa [ht] using h)
  case isFalse => exact o.exts_length_le

/-! ## Every instruction, from its own words -/

/-- The decoder reads the instruction from its own words, whether `S` is set on its syllable or not. -/
def ReadsBack (i : Instr) : Prop :=
  ∀ w es, i.fieldsOf = w :: es → fld w 31 1 = 0 ∧ (∀ e ∈ es, e < 2 ^ 28) ∧
    ∀ stop, decodeFields (w + stop * 2 ^ 31) es = some i ∧ (i.wf = true → extOk (w + stop * 2 ^ 31) es = true)

/-- The word `v` is the syllable of the constant bits `m` and the fields `fs`, whether its `S` bit is set or not. -/
structure IsSyl (m : Nat) (fs : List (Nat × Nat)) (v : Nat) : Prop where
  cls : fld v 28 3 = m / 2 ^ 28 % 2 ^ 3
  op : fld v 22 6 = m / 2 ^ 22 % 2 ^ 6
  eq : ∃ stop, v = inOrder stop m fs

section
variable {i : Instr} {w m : Nat} {fs : List (Nat × Nat)} {es : List Nat}

/-- The class and the opcode of a syllable stand above its fields (R10, R18). -/
theorem isSyl_inOrder (stop : Nat) (hfs : Fits 22 fs) : IsSyl m fs (inOrder stop m fs) where
  cls := by
    rw [inOrder, fld_fieldsBelow hfs (by decide)]
    simp only [fld, joinBits]
    omega
  op := by
    rw [inOrder, fld_fieldsBelow hfs (by decide)]
    simp only [fld, joinBits]
    omega
  eq := ⟨stop, rfl⟩

theorem ReadsBack.of (h : i.fieldsOf = w :: es) (hw : w = syl m fs) (hm : m % 2 ^ 22 = 0 ∧ m < 2 ^ 31) (hfs : Fits 22 fs)
    (hes : ∀ e ∈ es, e < 2 ^ 28) (he : ∀ v, IsSyl m fs v → i.wf = true → extOk v es = true)
    (hd : ∀ v, IsSyl m fs v → decodeFields v es = some i) : ReadsBack i := by
  intro w' es' h'
  obtain ⟨rfl, rfl⟩ := List.cons.inj (h.symm.trans h')
  have hin (stop : Nat) := hw ▸ syl_eq_inOrder (stop := stop) hm.1 hm.2 hfs
  refine ⟨?_, hes, fun stop => ?_⟩
  · rw [← Nat.add_zero w, ← Nat.zero_mul (2 ^ 31), hin, inOrder, fld_fieldsBelow hfs (by decide)]
    simp only [fld, joinBits]
    omega
  · rw [hin]
    exact ⟨hd _ (isSyl_inOrder stop hfs), he _ (isSyl_inOrder stop hfs)⟩

theorem extOk_nil (h : extRule w = none) : extOk w [] = true := by
  rw [extOk, h]; rfl

/-- A syllable whose opcode admits no EXT. -/
theorem ReadsBack.plain (h : i.fieldsOf = [syl m fs]) (hm : m % 2 ^ 22 = 0 ∧ m < 2 ^ 31) (hfs : Fits 22 fs)
    (hr : ∀ v, IsSyl m fs v → extRule v = none) (hd : ∀ v, IsSyl m fs v → decodeFields v [] = some i) : ReadsBack i :=
  .of h rfl hm hfs (by simp) (fun v hv _ => extOk_nil (hr v hv)) hd

/-- A syllable with an operand of R27 in its field of `k` bits at bit `lo`. -/
theorem ReadsBack.opnd {n : Nat} {o : Opnd n} (lo k most : Nat) (h : i.fieldsOf = w :: o.exts) (hw : w = syl m fs)
    (hm : m % 2 ^ 22 = 0 ∧ m < 2 ^ 31) (hfs : Fits 22 fs) (hl : i.wf = true → o.exts.length ≤ most)
    (hr : ∀ v, IsSyl m fs v → extRule v = some (lo, k, 0, most)) (hf : ∀ v, IsSyl m fs v → fld v lo k = o.field)
    (hd : ∀ v, IsSyl m fs v → decodeFields v o.exts = some i) : ReadsBack i :=
  .of h hw hm hfs (Laws.Encoding.opnd_exts o) (fun v hv hwf => extOk_opnd (hr v hv) (hf v hv) (hl hwf)) hd

end

theorem add_mul_eq_joinBits {g v x : Nat} : v + x * 2 ^ g = joinBits x g v := Nat.add_comm ..

@[simp] theorem readsBack_brT (p q1 q2 q3 q4 : BitVec 4) (n : BitVec 2) (t1 t2 t3 t4 : BitVec 14) :
    ReadsBack (.brT p q1 q2 q3 q4 n t1 t2 t3 t4) := by
  refine .of rfl rfl (by decide) (by simp; omega) (by simp; omega) (fun u hs _ => ?_) fun u hs => ?_
  · have hr : extRule u = some (0, 0, 2, 2) := by rw [extRule, hs.cls, hs.op]; rfl
    rw [extOk, hr]
    simp [fld, Nat.mod_one]
  · rw [decodeFields_ctl hs.cls, decodeCtl, hs.op, add_mul_eq_joinBits, add_mul_eq_joinBits]
    obtain ⟨-, -, stop, rfl⟩ := hs
    simp [bv]

/-- `GATH` of tiles: the constant bit 17 (R18) stands in a field of its own. -/
@[simp] theorem readsBack_gathTile (p : BitVec 4) (k : BitVec 3) (d : BitVec 5) : ReadsBack (.gathTile p k d) := by
  refine .of (fs := [(p.toNat, 18), (4, 15), (k.toNat, 12), (d.toNat, 6)]) (m := 0x27800000) rfl (by simp only [syl]; omega)
    (by decide) (by simp; omega) (by simp) (fun u hs _ => extOk_nil (by rw [extRule, hs.cls, hs.op]; rfl)) fun u hs => ?_
  rw [decodeFields_mem hs.cls, decodeMem, hs.op]
  obtain ⟨-, -, stop, rfl⟩ := hs
  simp [bv, show fld 4 2 1 = 1 from rfl]

/-- `MM.D` to a steered port: the constant bit 6 (R18) stands in a field of its own. -/
@[simp] theorem readsBack_mmDSteer (p : BitVec 4) (a : BitVec 2) (g : BitVec 3) (d : BitVec 5) :
    ReadsBack (.mmDSteer p a g d) := by
  refine .of (fs := [(p.toNat, 18), (a.toNat, 16), (g.toNat, 13), (d.toNat, 8), (64, 0)]) (m := 0x40400000) rfl
    (by simp only [syl]; omega) (by decide) (by simp; omega) (by simp)
    (fun u hs _ => extOk_nil (by rw [extRule, hs.cls, hs.op]; rfl)) fun u hs => ?_
  rw [decodeFields_mat hs.cls, decodeMat, hs.op]
  obtain ⟨-, -, stop, rfl⟩ := hs
  simp [bv, show fld 64 4 4 = 4 from rfl]

@[simp] theorem readsBack_nop (p : BitVec 4) : ReadsBack (.nop p) ∧ ReadsBack (.endFiring p) ∧ ReadsBack (.ret p) ∧
    ReadsBack (.rft p) ∧ ReadsBack (.halt p) := by
  have hfit : Fits 22 [(p.toNat, 18)] := by
    simp; omega
  have hv m₀ u (hs : IsSyl m₀ [(p.toNat, 18)] u) :
      bv 4 u 18 = p ∧ fld u 0 18 = 0 := by
    obtain ⟨-, -, stop, rfl⟩ := hs; simp [bv]
  and_intros <;> refine .plain rfl (by decide) hfit (fun u hs => by rw [extRule, hs.cls, hs.op]; rfl) fun u hs => ?_
  all_goals
    rw [decodeFields_ctl hs.cls, decodeCtl, hs.op]
    simp only [Nat.reduceMod, Nat.reduceDiv, Nat.reducePow]
    simp [hv _ u hs]

@[simp] theorem readsBack_setlc (p : BitVec 4) (e a : BitVec 6) (i : Opnd 6) : ReadsBack (.setlc p e a i) := by
  refine .opnd 0 6 1 rfl rfl (by decide) (by have := Laws.Encoding.opnd_field i; simp; omega)
    (fun h => Opnd.exts_length_of_upto1 h) (fun u hs => by rw [extRule, hs.cls, hs.op]; rfl)
    (fun u hs => by obtain ⟨-, -, stop, rfl⟩ := hs; simp) fun u hs => ?_
  rw [decodeFields_ctl hs.cls, decodeCtl, hs.op]
  simp only [Nat.reduceMod, Nat.reduceDiv, Nat.reducePow]
  obtain ⟨-, -, stop, rfl⟩ := hs
  simp [bv]

@[simp] theorem readsBack_trap (p : BitVec 4) (i : Opnd 6) : ReadsBack (.trap p i) := by
  refine .opnd 0 6 1 rfl rfl (by decide) (by have := Laws.Encoding.opnd_field i; simp; omega)
    (fun h => Opnd.exts_length_of_upto1 h) (fun u hs => by rw [extRule, hs.cls, hs.op]; rfl)
    (fun u hs => by obtain ⟨-, -, stop, rfl⟩ := hs; simp) fun u hs => ?_
  rw [decodeFields_ctl hs.cls, decodeCtl, hs.op]
  simp only [Nat.reduceMod, Nat.reduceDiv, Nat.reducePow]
  obtain ⟨-, -, stop, rfl⟩ := hs
  simp [bv]

@[simp] theorem readsBack_add (p : BitVec 4) (d a b : BitVec 6) : ReadsBack (.add p d a b) ∧ ReadsBack (.sub p d a b) ∧
    ReadsBack (.mul p d a b) ∧ ReadsBack (.mulh p d a b) ∧ ReadsBack (.div p d a b) ∧ ReadsBack (.divN p d a b) ∧
    ReadsBack (.rem p d a b) ∧ ReadsBack (.and p d a b) ∧ ReadsBack (.or p d a b) ∧ ReadsBack (.xor p d a b) ∧
    ReadsBack (.andn p d a b) ∧ ReadsBack (.shl p d a b) ∧ ReadsBack (.shr p d a b) ∧ ReadsBack (.sar p d a b) ∧
    ReadsBack (.min p d a b) ∧ ReadsBack (.max p d a b) := by
  have hfit : Fits 22 [(p.toNat, 18), (d.toNat, 12), (a.toNat, 6), (b.toNat, 0)] := by
    simp; omega
  have hv m₀ u (hs : IsSyl m₀ [(p.toNat, 18), (d.toNat, 12), (a.toNat, 6), (b.toNat, 0)] u) :
      bv 4 u 18 = p ∧ bv 6 u 12 = d ∧ bv 6 u 6 = a ∧ bv 6 u 0 = b := by
    obtain ⟨-, -, stop, rfl⟩ := hs; simp [bv]
  and_intros <;> refine .plain rfl (by decide) hfit (fun u hs => by rw [extRule, hs.cls, hs.op]; rfl) fun u hs => ?_
  all_goals
    rw [decodeFields_sca hs.cls, decodeSca, hs.op]
    simp only [Nat.reduceMod, Nat.reduceDiv, Nat.reducePow]
    simp [hv _ u hs]

@[simp] theorem readsBack_minN (p : BitVec 4) (d a b : BitVec 6) : ReadsBack (.minN p d a b) ∧ ReadsBack (.maxN p d a b) ∧
    ReadsBack (.shli p d a b) ∧ ReadsBack (.shri p d a b) ∧ ReadsBack (.sari p d a b) ∧ ReadsBack (.sel p d a b) ∧
    ReadsBack (.extract p d a b) ∧ ReadsBack (.extractN p d a b) ∧ ReadsBack (.insert p d a b) ∧ ReadsBack (.unpk p d a b) ∧
    ReadsBack (.packb p d a b) ∧ ReadsBack (.lut p d a b) ∧ ReadsBack (.fcvt p d a b) ∧ ReadsBack (.fdivS p d a b) ∧
    ReadsBack (.mulhN p d a b) := by
  have hfit : Fits 22 [(p.toNat, 18), (d.toNat, 12), (a.toNat, 6), (b.toNat, 0)] := by
    simp; omega
  have hv m₀ u (hs : IsSyl m₀ [(p.toNat, 18), (d.toNat, 12), (a.toNat, 6), (b.toNat, 0)] u) :
      bv 4 u 18 = p ∧ bv 6 u 12 = d ∧ bv 6 u 6 = a ∧ bv 6 u 0 = b := by
    obtain ⟨-, -, stop, rfl⟩ := hs; simp [bv]
  and_intros <;> refine .plain rfl (by decide) hfit (fun u hs => by rw [extRule, hs.cls, hs.op]; rfl) fun u hs => ?_
  all_goals
    rw [decodeFields_sca hs.cls, decodeSca, hs.op]
    simp only [Nat.reduceMod, Nat.reduceDiv, Nat.reducePow]
    simp [hv _ u hs]

@[simp] theorem readsBack_addi (p : BitVec 4) (d a : BitVec 6) (i : Opnd 6) : ReadsBack (.addi p d a i) ∧
    ReadsBack (.andi p d a i) ∧ ReadsBack (.ori p d a i) ∧ ReadsBack (.xori p d a i) ∧ ReadsBack (.faddS p d a i) ∧
    ReadsBack (.faddD p d a i) ∧ ReadsBack (.fmulS p d a i) ∧ ReadsBack (.fmulD p d a i) ∧ ReadsBack (.ffmaS p d a i) ∧
    ReadsBack (.ffmaD p d a i) ∧ ReadsBack (.fminS p d a i) ∧ ReadsBack (.fmaxS p d a i) := by
  have hfit : Fits 22 [(p.toNat, 18), (d.toNat, 12), (a.toNat, 6), (i.field, 0)] := by
    have := Laws.Encoding.opnd_field i
    simp; omega
  have hv m₀ u (hs : IsSyl m₀ [(p.toNat, 18), (d.toNat, 12), (a.toNat, 6), (i.field, 0)] u) :
      bv 4 u 18 = p ∧ bv 6 u 12 = d ∧ bv 6 u 6 = a ∧ fld u 0 6 = i.field := by
    obtain ⟨-, -, stop, rfl⟩ := hs; simp [bv]
  and_intros <;> refine .opnd 0 6 2 rfl rfl (by decide) hfit (fun _ => i.exts_length_le)
    (fun u hs => by rw [extRule, hs.cls, hs.op]; rfl) (fun u hs => by simp [hv _ u hs]) fun u hs => ?_
  all_goals
    rw [decodeFields_sca hs.cls, decodeSca, hs.op]
    simp only [Nat.reduceMod, Nat.reduceDiv, Nat.reducePow]
    simp [hv _ u hs]

@[simp] theorem readsBack_li (p : BitVec 4) (d : BitVec 6) (i : Opnd 6) : ReadsBack (.li p d i) := by
  refine .opnd 0 6 2 rfl rfl (by decide) (by have := Laws.Encoding.opnd_field i; simp; omega) (fun _ => i.exts_length_le)
    (fun u hs => by rw [extRule, hs.cls, hs.op]; rfl) (fun u hs => by obtain ⟨-, -, stop, rfl⟩ := hs; simp) fun u hs => ?_
  rw [decodeFields_sca hs.cls, decodeSca, hs.op]
  simp only [Nat.reduceMod, Nat.reduceDiv, Nat.reducePow]
  obtain ⟨-, -, stop, rfl⟩ := hs
  simp [bv]

@[simp] theorem readsBack_clz (p : BitVec 4) (d a : BitVec 6) : ReadsBack (.clz p d a) ∧ ReadsBack (.ctz p d a) ∧
    ReadsBack (.popc p d a) ∧ ReadsBack (.fsqrtS p d a) := by
  have hfit : Fits 22 [(p.toNat, 18), (d.toNat, 12), (a.toNat, 6)] := by
    simp; omega
  have hv m₀ u (hs : IsSyl m₀ [(p.toNat, 18), (d.toNat, 12), (a.toNat, 6)] u) :
      bv 4 u 18 = p ∧ bv 6 u 12 = d ∧ bv 6 u 6 = a ∧ fld u 0 6 = 0 := by
    obtain ⟨-, -, stop, rfl⟩ := hs; simp [bv]
  and_intros <;> refine .plain rfl (by decide) hfit (fun u hs => by rw [extRule, hs.cls, hs.op]; rfl) fun u hs => ?_
  all_goals
    rw [decodeFields_sca hs.cls, decodeSca, hs.op]
    simp only [Nat.reduceMod, Nat.reduceDiv, Nat.reducePow]
    simp [hv _ u hs]

@[simp] theorem readsBack_cmpEq (p q : BitVec 4) (m : BitVec 2) (a b : BitVec 6) : ReadsBack (.cmpEq p q m a b) ∧
    ReadsBack (.cmpNe p q m a b) ∧ ReadsBack (.cmpLt p q m a b) ∧ ReadsBack (.cmpGe p q m a b) ∧ ReadsBack (.cmpLtn p q m a b)
    ∧ ReadsBack (.cmpGen p q m a b) := by
  have hfit : Fits 22 [(p.toNat, 18), (q.toNat, 14), (m.toNat, 12), (a.toNat, 6), (b.toNat, 0)] := by
    simp; omega
  have hv m₀ u (hs : IsSyl m₀ [(p.toNat, 18), (q.toNat, 14), (m.toNat, 12), (a.toNat, 6), (b.toNat, 0)] u) :
      bv 4 u 18 = p ∧ bv 4 u 14 = q ∧ bv 2 u 12 = m ∧ bv 6 u 6 = a ∧ bv 6 u 0 = b := by
    obtain ⟨-, -, stop, rfl⟩ := hs; simp [bv]
  and_intros <;> refine .plain rfl (by decide) hfit (fun u hs => by rw [extRule, hs.cls, hs.op]; rfl) fun u hs => ?_
  all_goals
    rw [decodeFields_sca hs.cls, decodeSca, hs.op]
    simp only [Nat.reduceMod, Nat.reduceDiv, Nat.reducePow]
    simp [hv _ u hs]

@[simp] theorem readsBack_cmpiEq (p q : BitVec 4) (m : BitVec 2) (a : BitVec 6) (i : Opnd 6) : ReadsBack (.cmpiEq p q m a i) ∧
    ReadsBack (.cmpiLt p q m a i) ∧ ReadsBack (.cmpiGe p q m a i) ∧ ReadsBack (.fcmpLt p q m a i) ∧
    ReadsBack (.fcmpEq p q m a i) := by
  have hfit : Fits 22 [(p.toNat, 18), (q.toNat, 14), (m.toNat, 12), (a.toNat, 6), (i.field, 0)] := by
    have := Laws.Encoding.opnd_field i
    simp; omega
  have hv m₀ u (hs : IsSyl m₀ [(p.toNat, 18), (q.toNat, 14), (m.toNat, 12), (a.toNat, 6), (i.field, 0)] u) :
      bv 4 u 18 = p ∧ bv 4 u 14 = q ∧ bv 2 u 12 = m ∧ bv 6 u 6 = a ∧ fld u 0 6 = i.field := by
    obtain ⟨-, -, stop, rfl⟩ := hs; simp [bv]
  and_intros <;> refine .opnd 0 6 2 rfl rfl (by decide) hfit (fun _ => i.exts_length_le)
    (fun u hs => by rw [extRule, hs.cls, hs.op]; rfl) (fun u hs => by simp [hv _ u hs]) fun u hs => ?_
  all_goals
    rw [decodeFields_sca hs.cls, decodeSca, hs.op]
    simp only [Nat.reduceMod, Nat.reduceDiv, Nat.reducePow]
    simp [hv _ u hs]

@[simp] theorem readsBack_ldL (p : BitVec 4) (d a : BitVec 6) (z : BitVec 2) (i : Opnd 4) : ReadsBack (.ldL p d a z i) ∧
    ReadsBack (.stL p d a z i) ∧ ReadsBack (.ldLf p d a z i) ∧ ReadsBack (.ldLfc p d a z i) ∧ ReadsBack (.stLf p d a z i) ∧
    ReadsBack (.stLe p d a z i) ∧ ReadsBack (.ldC p d a z i) ∧ ReadsBack (.stC p d a z i) ∧ ReadsBack (.ldG p d a z i) ∧
    ReadsBack (.stG p d a z i) ∧ ReadsBack (.ldN p d a z i) ∧ ReadsBack (.stN p d a z i) := by
  have hfit : Fits 22 [(p.toNat, 18), (d.toNat, 12), (a.toNat, 6), (z.toNat, 4), (i.field, 0)] := by
    have := Laws.Encoding.opnd_field i
    simp; omega
  have hv m₀ u (hs : IsSyl m₀ [(p.toNat, 18), (d.toNat, 12), (a.toNat, 6), (z.toNat, 4), (i.field, 0)] u) :
      bv 4 u 18 = p ∧ bv 6 u 12 = d ∧ bv 6 u 6 = a ∧ bv 2 u 4 = z ∧ fld u 0 4 = i.field := by
    obtain ⟨-, -, stop, rfl⟩ := hs; simp [bv]
  and_intros <;> refine .opnd 0 4 1 rfl rfl (by decide) hfit (fun h => Opnd.exts_length_of_upto1 h)
    (fun u hs => by rw [extRule, hs.cls, hs.op]; rfl) (fun u hs => by simp [hv _ u hs]) fun u hs => ?_
  all_goals
    rw [decodeFields_mem hs.cls, decodeMem, hs.op]
    simp only [Nat.reduceMod, Nat.reduceDiv, Nat.reducePow]
    simp [hv _ u hs]

@[simp] theorem readsBack_ldsL (p : BitVec 4) (d a : BitVec 6) (z : BitVec 2) (i : Opnd 4) : ReadsBack (.ldsL p d a z i) ∧
    ReadsBack (.ldsC p d a z i) ∧ ReadsBack (.ldsG p d a z i) ∧ ReadsBack (.ldsN p d a z i) := by
  have hfit : Fits 22 [(p.toNat, 18), (d.toNat, 12), (a.toNat, 6), (z.toNat, 4), (i.field, 0)] := by
    have := Laws.Encoding.opnd_field i
    simp; omega
  have hv m₀ u (hs : IsSyl m₀ [(p.toNat, 18), (d.toNat, 12), (a.toNat, 6), (z.toNat, 4), (i.field, 0)] u) :
      bv 4 u 18 = p ∧ bv 6 u 12 = d ∧ bv 6 u 6 = a ∧ bv 2 u 4 = z ∧ fld u 0 4 = i.field := by
    obtain ⟨-, -, stop, rfl⟩ := hs; simp [bv]
  and_intros <;> refine .opnd 0 4 1 rfl rfl (by decide) hfit (fun h => Opnd.exts_length_of_upto1 (Bool.and_eq_true_iff.mp h).2)
    (fun u hs => by rw [extRule, hs.cls, hs.op]; rfl) (fun u hs => by simp [hv _ u hs]) fun u hs => ?_
  all_goals
    rw [decodeFields_mem hs.cls, decodeMem, hs.op]
    simp only [Nat.reduceMod, Nat.reduceDiv, Nat.reducePow]
    simp [hv _ u hs]

@[simp] theorem readsBack_vldL (p : BitVec 4) (v : BitVec 5) (a : BitVec 6) (i : Opnd 4) : ReadsBack (.vldL p v a i) ∧
    ReadsBack (.vstL p v a i) ∧ ReadsBack (.vldC p v a i) ∧ ReadsBack (.vstC p v a i) ∧ ReadsBack (.mcst p v a i) ∧
    ReadsBack (.vldG p v a i) ∧ ReadsBack (.vstG p v a i) ∧ ReadsBack (.vldN p v a i) ∧ ReadsBack (.vstN p v a i) := by
  have hfit : Fits 22 [(p.toNat, 18), (v.toNat, 12), (a.toNat, 6), (3, 4), (i.field, 0)] := by
    have := Laws.Encoding.opnd_field i
    simp; omega
  have hv m₀ u (hs : IsSyl m₀ [(p.toNat, 18), (v.toNat, 12), (a.toNat, 6), (3, 4), (i.field, 0)] u) :
      bv 4 u 18 = p ∧ bv 5 u 12 = v ∧ bv 6 u 6 = a ∧ fld u 0 4 = i.field ∧ fld u 4 2 = 3 ∧ fld u 17 1 = 0 := by
    obtain ⟨-, -, stop, rfl⟩ := hs; simp [bv]
  and_intros <;> refine .opnd 0 4 1 rfl syl_size3 (by decide) hfit (fun h => Opnd.exts_length_of_upto1 h)
    (fun u hs => by rw [extRule, hs.cls, hs.op]; rfl) (fun u hs => by simp [hv _ u hs]) fun u hs => ?_
  all_goals
    rw [decodeFields_mem hs.cls, decodeMem, hs.op]
    simp only [Nat.reduceMod, Nat.reduceDiv, Nat.reducePow]
    simp [hv _ u hs]

@[simp] theorem readsBack_casG (p : BitVec 4) (d a b : BitVec 6) : ReadsBack (.casG p d a b) ∧ ReadsBack (.casN p d a b) ∧
    ReadsBack (.sqRes p d a b) ∧ ReadsBack (.sqCom p d a b) ∧ ReadsBack (.sqLen p d a b) ∧ ReadsBack (.sqPre p d a b) := by
  have hfit : Fits 22 [(p.toNat, 18), (d.toNat, 12), (a.toNat, 6), (b.toNat, 0)] := by
    simp; omega
  have hv m₀ u (hs : IsSyl m₀ [(p.toNat, 18), (d.toNat, 12), (a.toNat, 6), (b.toNat, 0)] u) :
      bv 4 u 18 = p ∧ bv 6 u 12 = d ∧ bv 6 u 6 = a ∧ bv 6 u 0 = b := by
    obtain ⟨-, -, stop, rfl⟩ := hs; simp [bv]
  and_intros <;> refine .plain rfl (by decide) hfit (fun u hs => by rw [extRule, hs.cls, hs.op]; rfl) fun u hs => ?_
  all_goals
    rw [decodeFields_mem hs.cls, decodeMem, hs.op]
    simp only [Nat.reduceMod, Nat.reduceDiv, Nat.reducePow]
    simp [hv _ u hs]

@[simp] theorem readsBack_sqNew (p : BitVec 4) (d a : BitVec 6) : ReadsBack (.sqNew p d a) ∧ ReadsBack (.sqFork p d a) ∧
    ReadsBack (.plReq p d a) ∧ ReadsBack (.dig p d a) := by
  have hfit : Fits 22 [(p.toNat, 18), (d.toNat, 12), (a.toNat, 6)] := by
    simp; omega
  have hv m₀ u (hs : IsSyl m₀ [(p.toNat, 18), (d.toNat, 12), (a.toNat, 6)] u) :
      bv 4 u 18 = p ∧ bv 6 u 12 = d ∧ bv 6 u 6 = a ∧ fld u 0 6 = 0 := by
    obtain ⟨-, -, stop, rfl⟩ := hs; simp [bv]
  and_intros <;> refine .plain rfl (by decide) hfit (fun u hs => by rw [extRule, hs.cls, hs.op]; rfl) fun u hs => ?_
  all_goals
    rw [decodeFields_mem hs.cls, decodeMem, hs.op]
    simp only [Nat.reduceMod, Nat.reduceDiv, Nat.reducePow]
    simp [hv _ u hs]

@[simp] theorem readsBack_vadd (p : BitVec 4) (t : BitVec 3) (d a : BitVec 5) (b : Opnd 5) : ReadsBack (.vadd p t d a b) ∧
    ReadsBack (.vsub p t d a b) ∧ ReadsBack (.vmul p t d a b) ∧ ReadsBack (.vfma p t d a b) ∧ ReadsBack (.vmin p t d a b) ∧
    ReadsBack (.vmax p t d a b) ∧ ReadsBack (.vand p t d a b) ∧ ReadsBack (.vor p t d a b) ∧ ReadsBack (.vxor p t d a b) ∧
    ReadsBack (.vshl p t d a b) ∧ ReadsBack (.vshr p t d a b) := by
  have hfit : Fits 22 [(p.toNat, 18), (t.toNat, 15), (d.toNat, 10), (a.toNat, 5), (b.field, 0)] := by
    have := Laws.Encoding.opnd_field b
    simp; omega
  have hv m₀ u (hs : IsSyl m₀ [(p.toNat, 18), (t.toNat, 15), (d.toNat, 10), (a.toNat, 5), (b.field, 0)] u) :
      bv 4 u 18 = p ∧ fld u 15 3 = t.toNat ∧ bv 3 u 15 = t ∧ bv 5 u 10 = d ∧ bv 5 u 5 = a ∧ fld u 0 5 = b.field := by
    obtain ⟨-, -, stop, rfl⟩ := hs; simp [bv]
  and_intros <;> refine .opnd 0 5 (if t.toNat < 3 then 1 else 2) rfl rfl (by decide) hfit Opnd.exts_length_of_vecOk
    (fun u hs => by rw [extRule, hs.cls, hs.op, (hv _ u hs).2.1]; rfl) (fun u hs => by simp [hv _ u hs]) fun u hs => ?_
  all_goals
    rw [decodeFields_vec hs.cls, decodeVec, hs.op]
    simp only [Nat.reduceMod, Nat.reduceDiv, Nat.reducePow]
    simp [hv _ u hs]

@[simp] theorem readsBack_vsar (p : BitVec 4) (t : BitVec 3) (d a : BitVec 5) (b : Opnd 5) : ReadsBack (.vsar p t d a b) ∧
    ReadsBack (.vcmpEq p t d a b) ∧ ReadsBack (.vcmpLt p t d a b) ∧ ReadsBack (.vcmpLe p t d a b) ∧
    ReadsBack (.vmulh p t d a b) ∧ ReadsBack (.vadds p t d a b) ∧ ReadsBack (.vsubs p t d a b) ∧ ReadsBack (.vminN p t d a b)
    ∧ ReadsBack (.vmaxN p t d a b) ∧ ReadsBack (.vcmpLtn p t d a b) := by
  have hfit : Fits 22 [(p.toNat, 18), (t.toNat, 15), (d.toNat, 10), (a.toNat, 5), (b.field, 0)] := by
    have := Laws.Encoding.opnd_field b
    simp; omega
  have hv m₀ u (hs : IsSyl m₀ [(p.toNat, 18), (t.toNat, 15), (d.toNat, 10), (a.toNat, 5), (b.field, 0)] u) :
      bv 4 u 18 = p ∧ fld u 15 3 = t.toNat ∧ bv 3 u 15 = t ∧ bv 5 u 10 = d ∧ bv 5 u 5 = a ∧ fld u 0 5 = b.field := by
    obtain ⟨-, -, stop, rfl⟩ := hs; simp [bv]
  and_intros <;> refine .opnd 0 5 (if t.toNat < 3 then 1 else 2) rfl rfl (by decide) hfit Opnd.exts_length_of_vecOk
    (fun u hs => by rw [extRule, hs.cls, hs.op, (hv _ u hs).2.1]; rfl) (fun u hs => by simp [hv _ u hs]) fun u hs => ?_
  all_goals
    rw [decodeFields_vec hs.cls, decodeVec, hs.op]
    simp only [Nat.reduceMod, Nat.reduceDiv, Nat.reducePow]
    simp [hv _ u hs]

@[simp] theorem readsBack_vabs (p : BitVec 4) (t : BitVec 3) (d a : BitVec 5) : ReadsBack (.vabs p t d a) ∧
    ReadsBack (.vneg p t d a) ∧ ReadsBack (.vbcast p t d a) ∧ ReadsBack (.vrsum p t d a) ∧ ReadsBack (.vrmax p t d a) ∧
    ReadsBack (.vrmin p t d a) ∧ ReadsBack (.vscan p t d a) ∧ ReadsBack (.vexp2 p t d a) ∧ ReadsBack (.vlog2 p t d a) ∧
    ReadsBack (.vrcp p t d a) ∧ ReadsBack (.vrsq p t d a) ∧ ReadsBack (.vtanh p t d a) ∧ ReadsBack (.vpopc p t d a) := by
  have hfit : Fits 22 [(p.toNat, 18), (t.toNat, 15), (d.toNat, 10), (a.toNat, 5)] := by
    simp; omega
  have hv m₀ u (hs : IsSyl m₀ [(p.toNat, 18), (t.toNat, 15), (d.toNat, 10), (a.toNat, 5)] u) :
      bv 4 u 18 = p ∧ bv 3 u 15 = t ∧ bv 5 u 10 = d ∧ bv 5 u 5 = a ∧ fld u 0 5 = 0 := by
    obtain ⟨-, -, stop, rfl⟩ := hs; simp [bv]
  and_intros <;> refine .plain rfl (by decide) hfit (fun u hs => by rw [extRule, hs.cls, hs.op]; rfl) fun u hs => ?_
  all_goals
    rw [decodeFields_vec hs.cls, decodeVec, hs.op]
    simp only [Nat.reduceMod, Nat.reduceDiv, Nat.reducePow]
    simp [hv _ u hs]

@[simp] theorem readsBack_vsel (p : BitVec 4) (t : BitVec 3) (d a b : BitVec 5) : ReadsBack (.vsel p t d a b) ∧
    ReadsBack (.vperm p t d a b) ∧ ReadsBack (.vrot p t d a b) ∧ ReadsBack (.vextr p t d a b) ∧ ReadsBack (.vinsr p t d a b) ∧
    ReadsBack (.vdot4 p t d a b) ∧ ReadsBack (.vcx p t d a b) := by
  have hfit : Fits 22 [(p.toNat, 18), (t.toNat, 15), (d.toNat, 10), (a.toNat, 5), (b.toNat, 0)] := by
    simp; omega
  have hv m₀ u (hs : IsSyl m₀ [(p.toNat, 18), (t.toNat, 15), (d.toNat, 10), (a.toNat, 5), (b.toNat, 0)] u) :
      bv 4 u 18 = p ∧ bv 3 u 15 = t ∧ bv 5 u 10 = d ∧ bv 5 u 5 = a ∧ bv 5 u 0 = b := by
    obtain ⟨-, -, stop, rfl⟩ := hs; simp [bv]
  and_intros <;> refine .plain rfl (by decide) hfit (fun u hs => by rw [extRule, hs.cls, hs.op]; rfl) fun u hs => ?_
  all_goals
    rw [decodeFields_vec hs.cls, decodeVec, hs.op]
    simp only [Nat.reduceMod, Nat.reduceDiv, Nat.reducePow]
    simp [hv _ u hs]

@[simp] theorem readsBack_tdSet (p : BitVec 4) (x : Opnd 6) (d : BitVec 5) (w : BitVec 4) : ReadsBack (.tdSet p x d w) := by
  refine .opnd 12 6 2 rfl rfl (by decide) (by have := Laws.Encoding.opnd_field x; simp; omega) (fun _ => x.exts_length_le)
    (fun u hs => by rw [extRule, hs.cls, hs.op]; rfl) (fun u hs => by obtain ⟨-, -, stop, rfl⟩ := hs; simp) fun u hs => ?_
  rw [decodeFields_mat hs.cls, decodeMat, hs.op]
  simp only [Nat.reduceMod, Nat.reduceDiv, Nat.reducePow]
  obtain ⟨-, -, stop, rfl⟩ := hs
  simp [bv]

@[simp] theorem readsBack_tdStep (p : BitVec 4) (x : Opnd 6) (d : BitVec 5) (m : BitVec 2) : ReadsBack (.tdStep p x d m) := by
  refine .opnd 12 6 1 rfl rfl (by decide) (by have := Laws.Encoding.opnd_field x; simp; omega)
    (fun h => Opnd.exts_length_of_upto1 h) (fun u hs => by rw [extRule, hs.cls, hs.op]; rfl)
    (fun u hs => by obtain ⟨-, -, stop, rfl⟩ := hs; simp) fun u hs => ?_
  rw [decodeFields_mat hs.cls, decodeMat, hs.op]
  simp only [Nat.reduceMod, Nat.reduceDiv, Nat.reducePow]
  obtain ⟨-, -, stop, rfl⟩ := hs
  simp [bv]

@[simp] theorem readsBack_br_mtcr :
    (∀ p d, ReadsBack (.br p d)) ∧ (∀ p d, ReadsBack (.call p d)) ∧ (∀ p d, ReadsBack (.loopR p d)) ∧
    (∀ p a, ReadsBack (.brR p a)) ∧ (∀ p a, ReadsBack (.callR p a)) ∧ (∀ p a, ReadsBack (.cfgNext p a)) ∧
    (∀ p c d, ReadsBack (.loop p c d)) ∧ (∀ p d h n, ReadsBack (.take p d h n)) ∧
    (∀ p d a n k w, ReadsBack (.emit p d a n k w)) ∧ (∀ p n l e, ReadsBack (.mark p n l e)) ∧
    (∀ p d a n m, ReadsBack (.peek p d a n m)) ∧ (∀ p t, ReadsBack (.wtag p t)) ∧ (∀ p d x, ReadsBack (.mfcr p d x)) ∧
    (∀ p x a, ReadsBack (.mtcr p x a)) := by
  and_intros <;> intros <;> refine .plain rfl (by decide) (by simp; omega)
    (fun u hs => by rw [extRule, hs.cls, hs.op]; rfl) fun u hs => ?_
  all_goals
    rw [decodeFields_ctl hs.cls, decodeCtl, hs.op]
    simp only [Nat.reduceMod, Nat.reduceDiv, Nat.reducePow]
    obtain ⟨-, -, stop, rfl⟩ := hs
    simp [bv]

@[simp] theorem readsBack_pand_rng :
    (∀ p q m n a k b, ReadsBack (.pand p q m n a k b)) ∧ (∀ p q m n a k b, ReadsBack (.por p q m n a k b)) ∧
    (∀ p q m n a k b, ReadsBack (.pxor p q m n a k b)) ∧ (∀ p d, ReadsBack (.rng p d)) := by
  and_intros <;> intros <;> refine .plain rfl (by decide) (by simp; omega)
    (fun u hs => by rw [extRule, hs.cls, hs.op]; rfl) fun u hs => ?_
  all_goals
    rw [decodeFields_sca hs.cls, decodeSca, hs.op]
    simp only [Nat.reduceMod, Nat.reduceDiv, Nat.reducePow]
    obtain ⟨-, -, stop, rfl⟩ := hs
    simp [bv]

@[simp] theorem readsBack_amoL_phReg :
    (∀ p d a o z, ReadsBack (.amoL p d a o z)) ∧ (∀ p d a o z, ReadsBack (.amoG p d a o z)) ∧
    (∀ p d a o z, ReadsBack (.amoN p d a o z)) ∧ (∀ p v d t, ReadsBack (.gathVector p v d t)) ∧
    (∀ p h, ReadsBack (.sqDrop p h)) ∧ (∀ p a, ReadsBack (.ownRel p a)) ∧ (∀ p m t d b, ReadsBack (.sqGath p m t d b)) ∧
    (∀ p v q t, ReadsBack (.plRsp p v q t)) ∧ (∀ p d m h, ReadsBack (.phReg p d m h)) := by
  and_intros <;> intros <;> refine .plain rfl (by decide) (by simp; omega)
    (fun u hs => by rw [extRule, hs.cls, hs.op]; rfl) fun u hs => ?_
  all_goals
    rw [decodeFields_mem hs.cls, decodeMem, hs.op]
    simp only [Nat.reduceMod, Nat.reduceDiv, Nat.reducePow]
    obtain ⟨-, -, stop, rfl⟩ := hs
    simp [bv]

@[simp] theorem readsBack_phDrop_ownAcq :
    (∀ p h, ReadsBack (.phDrop p h)) ∧ (∀ p h, ReadsBack (.phSig p h)) ∧ (∀ p d h, ReadsBack (.phWait p d h)) ∧
    (∀ p d h, ReadsBack (.phAdv p d h)) ∧ (∀ p d, ReadsBack (.clBar p d)) ∧ (∀ p c b, ReadsBack (.wcnt p c b)) ∧
    (∀ p g q r, ReadsBack (.fence p g q r)) ∧ (∀ p d f a b, ReadsBack (.waita p d f a b)) ∧
    (∀ p d a x, ReadsBack (.ownAcq p d a x)) := by
  and_intros <;> intros <;> refine .plain rfl (by decide) (by simp; omega)
    (fun u hs => by rw [extRule, hs.cls, hs.op]; rfl) fun u hs => ?_
  all_goals
    rw [decodeFields_mem hs.cls, decodeMem, hs.op]
    simp only [Nat.reduceMod, Nat.reduceDiv, Nat.reducePow]
    obtain ⟨-, -, stop, rfl⟩ := hs
    simp [bv]

@[simp] theorem readsBack_vcvt_vrng :
    (∀ p t d a k g, ReadsBack (.vcvt p t d a k g)) ∧ (∀ p t d a k g, ReadsBack (.vqnt p t d a k g)) ∧
    (∀ p t d a g, ReadsBack (.vqsc p t d a g)) ∧ (∀ p t d, ReadsBack (.vrng p t d)) := by
  and_intros <;> intros <;> refine .plain rfl (by decide) (by simp; omega)
    (fun u hs => by rw [extRule, hs.cls, hs.op]; rfl) fun u hs => ?_
  all_goals
    rw [decodeFields_vec hs.cls, decodeVec, hs.op]
    simp only [Nat.reduceMod, Nat.reduceDiv, Nat.reducePow]
    obtain ⟨-, -, stop, rfl⟩ := hs
    simp [bv]

@[simp] theorem readsBack_mm_tdGet :
    (∀ p a t d c k n, ReadsBack (.mm p a t d c k n)) ∧ (∀ p a d e, ReadsBack (.mmDRoute p a d e)) ∧
    (∀ p a, ReadsBack (.mmZ p a)) ∧ (∀ p t d k, ReadsBack (.mmW p t d k)) ∧ (∀ p a d, ReadsBack (.mmAr p a d)) ∧
    (∀ p a d, ReadsBack (.mmAw p a d)) ∧ (∀ p x d w, ReadsBack (.tdGet p x d w)) := by
  and_intros <;> intros <;> refine .plain rfl (by decide) (by simp; omega)
    (fun u hs => by rw [extRule, hs.cls, hs.op]; rfl) fun u hs => ?_
  all_goals
    rw [decodeFields_mat hs.cls, decodeMat, hs.op]
    simp only [Nat.reduceMod, Nat.reduceDiv, Nat.reducePow]
    obtain ⟨-, -, stop, rfl⟩ := hs
    simp [bv]

@[simp] theorem readsBack_xpTbl_xpUnp :
    (∀ p a g c, ReadsBack (.xpTbl p a g c)) ∧ (∀ p d a t h, ReadsBack (.xpExp p d a t h)) ∧
    (∀ p d a n r, ReadsBack (.xpPln p d a n r)) ∧ (∀ p d a q k, ReadsBack (.xpCvt p d a q k)) ∧
    (∀ p d a w, ReadsBack (.xpTrn p d a w)) ∧ (∀ p d a h w, ReadsBack (.xpPack p d a h w)) ∧
    (∀ p d a e w, ReadsBack (.xpUnp p d a e w)) := by
  and_intros <;> intros <;> refine .plain rfl (by decide) (by simp; omega)
    (fun u hs => by rw [extRule, hs.cls, hs.op]; rfl) fun u hs => ?_
  all_goals
    rw [decodeFields_xfm hs.cls, decodeXfm, hs.op]
    simp only [Nat.reduceMod, Nat.reduceDiv, Nat.reducePow]
    obtain ⟨-, -, stop, rfl⟩ := hs
    simp [bv]

/-! ## O46 -/

/-- The decoder reads every instruction that has an encoding from its own words. -/
theorem readsBack (i : Instr) (h : i.fieldsOf ≠ []) : ReadsBack i := by
  cases i
  all_goals try exact absurd rfl h
  all_goals simp

theorem decodeSyl_eq {w : Nat} {es : List Nat} {i : Instr} (hd : decodeFields w es = some i) (he : extOk w es = true)
    (hi : i.wf = true) : decodeSyl w es = some i := by
  change (if extOk w es = true then _ else none) = some i
  rw [if_pos he, hd]
  exact if_pos hi

/-- No opcode admits more than two EXT syllables (R29, R32). -/
theorem length_le_two_of_extOk {w : Nat} {es : List Nat} (h : extOk w es = true) : es.length ≤ 2 := by
  have hmost {lo n least most : Nat} (hr : extRule w = some (lo, n, least, most)) : most ≤ 2 := by
    rw [extRule] at hr
    grind
  rw [extOk] at h
  split at h
  · simp_all
  · next hr =>
    have := hmost hr
    simp only [Bool.and_eq_true, decide_eq_true_eq] at h
    omega

section
variable {w : Nat} {ws : List Nat} {i : Instr}

theorem decode_stop (hs : fld w 31 1 = 1) (hd : decodeSyl w [] = some i) : decode (w :: ws) = .ok (i, true, ws) := by
  simp only [decode, hs, beq_self_eq_true, if_true, hd]

theorem decode_next {es rest : List Nat} {stop : Bool} (hs : fld w 31 1 = 0) (ht : takeExts ws = (es, stop, rest))
    (hd : decodeSyl w es = some i) : decode (w :: ws) = .ok (i, stop, rest) := by
  have h0 : (fld w 31 1 == 1) = false := by rw [hs]; rfl
  simp only [decode, h0, Bool.false_eq_true, if_false, ht, hd]

theorem takeExts_of_not_ext (h : ∀ v ∈ ws.head?, fld v 28 3 ≠ 6) : takeExts ws = ([], false, ws) := by
  cases ws with
  | nil => rfl
  | cons v vs =>
    have hv : fld v 28 3 ≠ 6 := h v (by simp)
    simp [takeExts, hv]

theorem takeExts_ext {e : Nat} (he : e < 2 ^ 28) :
    takeExts ((e + 6 * 2 ^ 28) :: ws) = (e :: (takeExts ws).1, (takeExts ws).2) := by
  have hc : fld (e + 6 * 2 ^ 28) 28 3 = 6 := by rw [fld]; omega
  have hs : fld (e + 6 * 2 ^ 28) 31 1 = 0 := by rw [fld]; omega
  have hi : fld (e + 6 * 2 ^ 28) 0 28 = e := by rw [fld]; omega
  rw [takeExts, hc, hs, hi]
  rfl

theorem takeExts_last {e : Nat} (he : e < 2 ^ 28) : takeExts ((e + 6 * 2 ^ 28 + 2 ^ 31) :: ws) = ([e], true, ws) := by
  have hc : fld (e + 6 * 2 ^ 28 + 2 ^ 31) 28 3 = 6 := by rw [fld]; omega
  have hs : fld (e + 6 * 2 ^ 28 + 2 ^ 31) 31 1 = 1 := by rw [fld]; omega
  have hi : fld (e + 6 * 2 ^ 28 + 2 ^ 31) 0 28 = e := by rw [fld]; omega
  rw [takeExts, hc, hs, hi]
  rfl

/-- The last EXT of an instruction: `S` ends the bundle, or the word behind it is no EXT. -/
theorem takeExts_end {e : Nat} {stop : Bool} (he : e < 2 ^ 28) (hws : stop = true ∨ ∀ v ∈ ws.head?, fld v 28 3 ≠ 6) :
    takeExts ((e + 6 * 2 ^ 28 + if stop then 2 ^ 31 else 0) :: ws) = ([e], stop, ws) := by
  cases stop with
  | true => exact takeExts_last he
  | false =>
    have hw := takeExts_of_not_ext (hws.resolve_left Bool.false_ne_true)
    rw [if_neg Bool.false_ne_true, Nat.add_zero, takeExts_ext he, hw]

end

/-- Settles O46: the encoder writes the class, the opcode and the fields of an instruction one behind the other, so each is read
back where the decoder looks for it (`readsBack`), and its EXT words carry their class and end where `S` or the next syllable
says. -/
theorem decodeEncode : Obligations.DecodeEncode := by
  intro i stop rest hi hne hrest
  obtain ⟨w, es, hf⟩ := List.exists_cons_of_ne_nil hne
  obtain ⟨hw, hes, hread⟩ := readsBack i hne w es hf
  have hsyl (s : Nat) : decodeSyl (w + s * 2 ^ 31) es = some i := decodeSyl_eq (hread s).1 ((hread s).2 hi) hi
  have hsyl0 : decodeSyl w es = some i := by simpa using hsyl 0
  have hlen := length_le_two_of_extOk ((hread 0).2 hi)
  match es with
  | [] =>
    rw [encode, hf]
    cases stop with
    | true =>
      have hw1 : fld (w + 2 ^ 31) 31 1 = 1 := by rw [fld] at hw ⊢; omega
      exact decode_stop hw1 (by simpa using hsyl 1)
    | false => exact decode_next hw (takeExts_of_not_ext (hrest.resolve_left Bool.false_ne_true)) hsyl0
  | [e] =>
    rw [encode, hf]
    exact decode_next hw (takeExts_end (hes e (by simp)) hrest) hsyl0
  | [e, f] =>
    rw [encode, hf]
    refine decode_next hw ?_ hsyl0
    change takeExts (_ :: _ :: rest) = _
    rw [takeExts_ext (hes e (by simp)), takeExts_end (hes f (by simp)) hrest]
  | _ :: _ :: _ :: _ => simp at hlen

end Sys2Proof
end

section
/-! PROOF. The stops of control and MAT instructions (O14, O39), and words written out (O47). -/

namespace Sys2Proof.Machine

/-! ## Words written out (O47) -/

/-- Settles O47: the decoder runs on each word. -/
theorem decodeWords : Obligations.DecodeWords := by
  unfold Obligations.DecodeWords
  and_intros <;> rfl

/-! ## A syllable that waits -/

/-- What a syllable that is free and has no cause answers, for what it waits for. -/
def Syl.answer (y : Syl) (s : State) : Wait → Out
  | .go => .next (y.act (s.enter y.guard y.regs))
  | .stall => .next s.stall
  | .tag ts => .next (s.stallOn ts)
  | .hold pre => .next (pre s).hold

theorem issue_answer {y : Syl} {s : State} (hp : y.priv = false ∨ isSup s.cur = true) (ht : y.typeOk = true)
    (hf : s.free y.cls y.guard y.regs = true) (hc : y.cause s = none) : issue y s = y.answer s (y.wait s) := by
  have hp' : (y.priv && !isSup s.cur) = false := by rcases hp with h | h <;> simp [h]
  simp only [State.free, Bool.and_eq_true, Bool.not_eq_true', Bool.or_eq_true, decide_eq_true_eq] at hf
  obtain ⟨⟨⟨h1, h2⟩, h3⟩, h4⟩ := hf
  have h5 : (y.cls ≠ 3 && decide (s.me.pendingTags (y.regs.vr ++ y.regs.vw) ≠ [])) = false := by
    rcases h4 with h | h <;> simp [h]
  obtain ⟨e1, e2⟩ := early_free h3 y.early
  rw [issue, hp', ht, h1, h2, e1, e2, hc, h3]
  cases hw : y.wait s <;> simp_all [Syl.answer]

/-! ## Where control instructions trap, and a guard of 0 (O14) -/

/-- The address of a register-held target reported with class 0 (R220). -/
theorem addrValue_zero (n : Nat) : addrValue 0 n = BitVec.ofNat 64 (n % 2 ^ 61) := by
  rw [addrValue, toWord]
  congr 1
  omega

theorem targetCause_of_misaligned {s : State} {a : BitVec 6} (h : (s.rx a).toNat % 4 ≠ 0) :
    targetCause a s = some (0x10, BitVec.ofNat 64 ((s.rx a).toNat % 2 ^ 61)) := by
  rw [targetCause, if_neg h, addrValue_zero]

section
variable {s : State} {p : BitVec 4} {d : BitVec 18} {a : BitVec 6}

theorem exec_brR_misaligned (hf : s.free 0 p { xr := [a] } = true) (h : (s.rx a).toNat % 4 ≠ 0) :
    exec (.brR p a) s = .next (s.raise 2 0x10 (BitVec.ofNat 64 ((s.rx a).toNat % 2 ^ 61))) := by
  rw [exec_brR, execBrR]
  exact issue_cause (t := (0x10, _)) (.inl rfl) rfl hf (targetCause_of_misaligned h)

theorem exec_callR_misaligned (hf : s.free 0 p { xr := [a] } = true) (h : (s.rx a).toNat % 4 ≠ 0) (hr : s.me.rs.length < 8) :
    exec (.callR p a) s = .next (s.raise 2 0x10 (BitVec.ofNat 64 ((s.rx a).toNat % 2 ^ 61))) := by
  rw [exec_callR, execCallR]
  exact issue_cause (t := (0x10, _)) (.inl rfl) rfl hf ((if_neg (Nat.not_le.mpr hr)).trans (targetCause_of_misaligned h))

theorem exec_call_overflow (hf : s.free 0 p {} = true) (hr : 8 ≤ s.me.rs.length) :
    exec (.call p d) s = .next (s.raise 2 0x09 (BitVec.ofInt 64 (s.iss.start + 4 * d.toInt))) := by
  rw [exec_call, execCall]
  exact issue_cause (t := (0x09, _)) (.inl rfl) rfl hf (if_pos hr)

theorem exec_callR_overflow (hf : s.free 0 p { xr := [a] } = true) (hr : 8 ≤ s.me.rs.length) :
    exec (.callR p a) s = .next (s.raise 2 0x09 (s.rx a)) := by
  rw [exec_callR, execCallR]
  exact issue_cause (t := (0x09, _)) (.inl rfl) rfl hf (if_pos hr)

theorem exec_ret_underflow (hf : s.free 0 p {} = true) (hr : s.me.rs = []) : exec (.ret p) s = .next (s.raise 2 0x0A 0) := by
  rw [exec_ret, execRet]
  exact issue_cause (t := (0x0A, _)) (.inl rfl) rfl hf (by simp [hr])

end

/-- Settles O14: each stop is the syllable's cause (R218), and a guard of 0 answers before operands and causes are looked at (R14). -/
theorem controlTraps : Obligations.ControlTraps := by
  intro s p d a x
  refine ⟨fun hf h => ⟨exec_brR_misaligned hf h, exec_callR_misaligned hf h⟩,
    fun hr => ⟨fun hf => exec_call_overflow hf hr, fun hf => exec_callR_overflow hf hr⟩, exec_ret_underflow, ?_⟩
  rintro hb hg t rfl
  refine ⟨exec_br p d s ▸ ?_, exec_callR p a s ▸ ?_, exec_add p x a a s ▸ ?_, exec_stL p x a 3 (.fld 0) s ▸ ?_,
    exec_amoN p x a 0 3 s ▸ ?_, exec_fence p 0 1 1 s ▸ ?_⟩ <;> exact issue_off (.inl rfl) rfl hb hg

/-! ## Where MAT instructions trap, and the full queue (O39) -/

/-- The form `f` issues as a MAT syllable of guard `p`, registers `r`, admitted types `ok` and cause `cause`, which waits where the
queue is full (R190), once none of the tags `late` keeps it. -/
def IsMat (f : Instr) (s : State) (p : BitVec 4) (r : Regs) (ok : Bool) (cause : Option (Nat × Word)) (late : List Nat) : Prop :=
  ∃ y : Syl, exec f s = issue y s ∧ (y.cls = 4 ∧ y.guard = p ∧ y.regs = r) ∧ y.priv = false ∧ y.typeOk = (ok && !isSup s.cur) ∧
    y.cause s = cause ∧ (late = [] → 4 ≤ s.me.matq.length → y.wait s = .stall)

section
variable {f : Instr} {s : State} {p : BitVec 4} {r : Regs} {ok : Bool} {cause : Option (Nat × Word)} {late : List Nat}

theorem IsMat.type (h : IsMat f s p r ok cause late) (hok : ok = false ∨ isSup s.cur = true) :
    exec f s = .next (s.raise 1 0x02 s.sylValue) := by
  obtain ⟨y, hy, -, hp, ht, -⟩ := h
  rw [hy, issue_type (.inl hp)]
  rcases hok with h | h <;> simp [ht, h]

theorem IsMat.trap (h : IsMat f s p r ok cause late) (hs : isSup s.cur = false) (hok : ok = true)
    (hf : s.free 4 p r = true) {c : Nat} {v : Word} (hc : cause = some (c, v)) : exec f s = .next (s.raise 2 c v) := by
  obtain ⟨y, hy, ⟨hcls, hg, hr⟩, hp, ht, hyc, -⟩ := h
  rw [hy]
  exact issue_cause (t := (c, v)) (.inl hp) (by simp [ht, hok, hs]) (by rw [hcls, hg, hr, hf]) (hyc.trans hc)

theorem IsMat.full (h : IsMat f s p r ok cause late) (hs : isSup s.cur = false) (hok : ok = true)
    (hf : s.free 4 p r = true) (hc : cause = none) (hl : late = []) (hq : 4 ≤ s.me.matq.length) : exec f s = .next s.stall := by
  obtain ⟨y, hy, ⟨hcls, hg, hr⟩, hp, ht, hyc, hw⟩ := h
  rw [hy, issue_answer (.inl hp) (by simp [ht, hok, hs]) (by rw [hcls, hg, hr, hf]) (hyc.trans hc), hw hl hq]
  rfl

end

theorem steerReg_eq (g : BitVec 3) : steerReg g = 8 + g.setWidth 6 := by
  revert g; decide

section
variable (s : State) (p : BitVec 4) (a : BitVec 2) (t : BitVec 3) (d : BitVec 5) (c k : BitVec 1) (n : BitVec 6) (e w : BitVec 4)
  (g : BitVec 3) (x : Opnd 6) (y : BitVec 6) (m : BitVec 2)

theorem isMat_mm : IsMat (.mm p a t d c k n) s p {}
    (mmOk (s.desc d) (s.tileTag t).toNat (s.accTag a).toNat (n.toNat + 1) (c = 1) (k = 1))
    (spansCause 4 (2 ^ 21) ((s.desc d).aSpans (s.localMem s.cur)
      ((n.toNat + 1) * ((famOf (s.desc d).elemFmt).getD (1, 1, 0)).1) (k = 1))) [] := by
  rw [IsMat, exec_mm, execMm]
  exact ⟨_, rfl, ⟨rfl, rfl, rfl⟩, rfl, rfl, rfl, fun _ hq => if_pos (.inl hq)⟩

theorem isMat_mmDRoute :
    IsMat (.mmDRoute p a d e) s p {} (drainOk (s.desc d)) (drainCause (s.desc d) e.toNat s) [] := by
  rw [IsMat, exec_mmDRoute, execMmDRoute]
  exact ⟨_, rfl, ⟨rfl, rfl, rfl⟩, rfl, rfl, rfl, fun _ hq => if_pos (.inl hq)⟩

theorem isMat_mmDSteer : IsMat (.mmDSteer p a g d) s p { xr := [8 + g.setWidth 6] } (drainOk (s.desc d))
    (drainCause (s.desc d) ((s.rx (8 + g.setWidth 6)).toNat % 16) s) [] := by
  rw [IsMat, exec_mmDSteer, execMmDSteer, ← steerReg_eq]
  exact ⟨_, rfl, ⟨rfl, rfl, rfl⟩, rfl, rfl, rfl, fun _ hq => if_pos (.inl hq)⟩

theorem isMat_mmZ : IsMat (.mmZ p a) s p {} true none [] := by
  rw [IsMat, exec_mmZ, execMmZ]
  exact ⟨_, rfl, ⟨rfl, rfl, rfl⟩, rfl, rfl, rfl, fun _ hq => if_pos (.inl hq)⟩

theorem isMat_mmW : IsMat (.mmW p t d k) s p {} (mmwOk (s.desc d) (k = 1))
    (spansCause 4 (2 ^ 21) ((s.desc d).fillSpans (s.localMem s.cur) ++
      if k = 1 then [{ addr := (s.desc d).scale, len := 256, al := 1 }] else [])) (s.tileWait t) := by
  rw [IsMat, exec_mmW, execMmW]
  exact ⟨_, rfl, ⟨rfl, rfl, rfl⟩, rfl, rfl, rfl, fun hl hq => (if_neg (not_not.mpr hl)).trans (if_pos (.inl hq))⟩

theorem isMat_mmAr : IsMat (.mmAr p a d) s p {} (accMemOk (s.desc d) arFmts) (spansCause 4 (2 ^ 21) (s.desc d).accSpans) [] := by
  rw [IsMat, exec_mmAr, execMmAr]
  exact ⟨_, rfl, ⟨rfl, rfl, rfl⟩, rfl, rfl, rfl, fun _ hq => if_pos (.inl hq)⟩

theorem isMat_mmAw : IsMat (.mmAw p a d) s p {} (accMemOk (s.desc d) awFmts) (spansCause 4 (2 ^ 21) (s.desc d).accSpans) [] := by
  rw [IsMat, exec_mmAw, execMmAw]
  exact ⟨_, rfl, ⟨rfl, rfl, rfl⟩, rfl, rfl, rfl, fun _ hq => if_pos (.inl hq)⟩

theorem isMat_tdSet : IsMat (.tdSet p x d w) s p { xr := opndReg x } true none [] := by
  rw [IsMat, exec_tdSet, execTdSet]
  exact ⟨_, rfl, ⟨rfl, rfl, rfl⟩, rfl, rfl, rfl, fun _ hq => if_pos (.inl hq)⟩

theorem isMat_tdStep : IsMat (.tdStep p x d m) s p { xr := opndReg x } true none [] := by
  rw [IsMat, exec_tdStep, execTdStep]
  exact ⟨_, rfl, ⟨rfl, rfl, rfl⟩, rfl, rfl, rfl, fun _ hq => if_pos (.inl hq)⟩

theorem isMat_tdGet : IsMat (.tdGet p y d w) s p { xw := [y] } (s.desc d).ok none [] := by
  rw [IsMat, exec_tdGet, execTdGet]
  exact ⟨_, rfl, ⟨rfl, rfl, rfl⟩, rfl, rfl, rfl, fun _ hq => if_pos (.inl hq)⟩

end

/-! ### The causes of spans (R185, R220) -/

section
variable {cls lim : Nat} {l r : List Span} {sp : Span}

theorem spansCause_misaligned (hl : ∀ x ∈ l, x.addr % (x.al : Int) = 0) (hsp : sp.addr % (sp.al : Int) ≠ 0) :
    spansCause cls lim (l ++ sp :: r) = some (0x10, addrValue cls sp.addr) := by
  have hnone : l.find? (fun sp => decide (sp.addr % (sp.al : Int) ≠ 0)) = none := by simpa using hl
  rw [spansCause, List.find?_append, hnone, Option.none_or, List.find?_cons_of_pos (by simpa using hsp)]

theorem boundsCause_none {a : Int} {n : Nat} (h : 0 ≤ a ∧ a < lim ∧ a + n ≤ lim) : boundsCause cls a n lim = none := by
  rw [boundsCause, if_neg (by omega), if_neg (by omega)]

theorem boundsCause_start {a : Int} {n : Nat} (h : a < 0 ∨ lim ≤ a) : boundsCause cls a n lim = some (0x04, addrValue cls a) :=
  if_pos h

theorem boundsCause_end {a : Int} {n : Nat} (h0 : 0 ≤ a) (h1 : a < lim) (h2 : lim < a + n) :
    boundsCause cls a n lim = some (0x04, addrValue cls lim) := by
  rw [boundsCause, if_neg (by omega), if_pos h2]

theorem spansCause_bounds {v : Nat × Word} (ha : ∀ x ∈ l ++ sp :: r, x.addr % (x.al : Int) = 0)
    (hl : ∀ x ∈ l, 0 ≤ x.addr ∧ x.addr < lim ∧ x.addr + (x.len : Int) ≤ lim) (hsp : boundsCause cls sp.addr sp.len lim = some v) :
    spansCause cls lim (l ++ sp :: r) = some v := by
  have haligned : (l ++ sp :: r).find? (fun sp => decide (sp.addr % (sp.al : Int) ≠ 0)) = none := by
    rw [List.find?_eq_none]
    intro x hx
    simpa using ha x hx
  have hinside : l.findSome? (fun sp => boundsCause cls sp.addr sp.len lim) = none := by
    rw [List.findSome?_eq_none_iff]
    exact fun x hx => boundsCause_none (hl x hx)
  rw [spansCause, haligned]
  simp only [List.findSome?_append, hinside, Option.none_or, List.findSome?_cons, hsp]

end

/-- A MAT form whose types are admitted raises the cause of its spans. -/
theorem IsMat.spanTraps {f : Instr} {s : State} {p : BitVec 4} {r : Regs} {ok : Bool} {late : List Nat} {ss : List Span}
    (h : IsMat f s p r ok (spansCause 4 (2 ^ 21) ss) late) (hs : isSup s.cur = false) (hok : ok = true) (hf : s.free 4 p r = true) :
    spanTraps s f ss := by
  rintro l sp r rfl
  refine ⟨fun hl hsp => h.trap hs hok hf (spansCause_misaligned hl hsp), fun ha hl => ⟨fun hsp => ?_, fun h0 h1 h2 => ?_⟩⟩
  · exact h.trap hs hok hf (spansCause_bounds ha hl (boundsCause_start hsp))
  · exact h.trap hs hok hf (spansCause_bounds ha hl (boundsCause_end h0 h1 h2))

/-! ### Types that are not admitted -/

theorem drainOk_eq_false {td : Desc} (h : drainOk td = false ∨ 4 < td.space ∨ wbits td[1] 24 40 ≠ 0 ∨ wbits td[1] 3 5 ≠ 0) :
    drainOk td = false := by
  rcases h with h | h | h | h
  · exact h
  all_goals simp [drainOk, Desc.word1Ok, h]

theorem accMemOk_eq_false {td : Desc} {fs : List Nat} (h : td.ok = false ∨ td.space ≠ 0 ∨ td.ndim = 0 ∨ td.fmt ∉ fs) :
    accMemOk td fs = false := by
  rcases h with h | h | h | h <;> simp [accMemOk, h]

theorem drainCause_eq {td : Desc} {token : Nat} {s : State} {o : OutPort} (hr : (s.me.route token).1 = true)
    (ho : s.myOut (s.me.route token).2 = some o) (hl : o.size < drainLen td) :
    drainCause td token s = some (0x04, addrValue 4 (drainLen td)) := by
  rw [drainCause, ← Prod.mk.eta (p := s.me.route token), hr, ho]
  exact if_pos hl

theorem tileWait_nil {s : State} {t : BitVec 3} (h : s.me.tags.ready.getLsbD t.toNat = true) : s.tileWait t = [] := by
  simp [State.tileWait, State.tagKept, h]

/-- Settles O39: each form is a MAT syllable (`IsMat`), whose types are checked first, then its cause, then the place in its queue. -/
theorem matrixTraps : Obligations.MatrixTraps := by
  rintro s p a t d c k n e w g x y m td rfl
  refine ⟨fun hs i hi => ?_, fun h => (isMat_mm ..).type (.inl h), fun h => (isMat_mmW ..).type (.inl h),
    fun h => ⟨(isMat_mmDRoute ..).type (.inl (drainOk_eq_false h)), (isMat_mmDSteer ..).type (.inl (drainOk_eq_false h))⟩,
    fun h => (isMat_mmAr ..).type (.inl (accMemOk_eq_false h)), fun h => (isMat_mmAw ..).type (.inl (accMemOk_eq_false h)),
    fun h => (isMat_tdGet ..).type (.inl h), fun hs hf => ⟨?_, ?_, ?_, ?_, ?_⟩, ?_, ?_⟩
  · simp only [List.mem_cons, List.not_mem_nil, or_false] at hi
    rcases hi with rfl | rfl | rfl | rfl | rfl | rfl | rfl | rfl | rfl | rfl
    exacts [(isMat_mm ..).type (.inr hs), (isMat_mmDRoute ..).type (.inr hs), (isMat_mmDSteer ..).type (.inr hs),
      (isMat_mmW ..).type (.inr hs), (isMat_mmZ ..).type (.inr hs), (isMat_mmAr ..).type (.inr hs),
      (isMat_mmAw ..).type (.inr hs), (isMat_tdGet ..).type (.inr hs), (isMat_tdSet ..).type (.inr hs),
      (isMat_tdStep ..).type (.inr hs)]
  · intro fam hfam hok
    have h := isMat_mm s p a t d c k n
    rw [hfam] at h
    exact h.spanTraps hs hok hf
  · exact fun hok => (isMat_mmW ..).spanTraps hs hok hf
  · exact fun hok => (isMat_mmAr ..).spanTraps hs hok hf
  · exact fun hok => (isMat_mmAw ..).spanTraps hs hok hf
  · exact fun o hok hr ho hl => (isMat_mmDRoute ..).trap hs hok hf (drainCause_eq hr ho hl)
  · rintro hs hf token rfl o hok hr ho hl
    exact (isMat_mmDSteer ..).trap hs hok hf (drainCause_eq hr ho hl)
  · intro hs hq f hform
    rcases hform _ rfl with ⟨hf, h⟩ | ⟨hf, hok, hc, rfl⟩ | ⟨hf, rfl | rfl⟩ | ⟨hok, hf, rfl⟩
    · rcases h with ⟨fam, hfam, hok, hc, rfl⟩ | ⟨hok, hc, rfl⟩ | rfl | ⟨hok, hc, rfl⟩ | ⟨hok, hc, rfl⟩ | ⟨hok, ht, hc, rfl⟩
      · have h := isMat_mm s p a t d c k n
        rw [hfam] at h
        exact h.full hs hok hf hc rfl hq
      · exact (isMat_mmDRoute ..).full hs hok hf hc rfl hq
      · exact (isMat_mmZ ..).full hs rfl hf rfl rfl hq
      · exact (isMat_mmAr ..).full hs hok hf hc rfl hq
      · exact (isMat_mmAw ..).full hs hok hf hc rfl hq
      · exact (isMat_mmW ..).full hs hok hf hc (tileWait_nil ht) hq
    · exact (isMat_mmDSteer ..).full hs hok hf hc rfl hq
    · exact (isMat_tdSet ..).full hs rfl hf rfl rfl hq
    · exact (isMat_tdStep ..).full hs rfl hf rfl rfl hq
    · exact (isMat_tdGet ..).full hs hok hf rfl rfl hq

end Sys2Proof.Machine
end

section
/-! PROOF. VEC instructions: the syllable that issues, and what one that is held leaves (O36). -/

namespace Sys2Proof.Machine

/-! ## A VEC instruction as the syllable that issues -/

/-- The guard that the word of an instruction names (R18). -/
def guardOf (i : Instr) : BitVec 4 := BitVec.ofNat 4 (bitsAt (wordOf i).toNat 18 4)

/-- The guard stands at bit 18, above the fields that follow it. -/
theorem guardOf_eq {i : Instr} {m : Nat} {p : BitVec 4} {fs : List (Nat × Nat)} {es : List Nat}
    (h : i.fieldsOf = syl m ((p.toNat, 18) :: fs) :: es) (hm : m % 2 ^ 22 = 0 ∧ m < 2 ^ 30) (hfs : Fits 18 fs) : guardOf i = p := by
  have hfits : Fits 22 ((p.toNat, 18) :: fs) := ⟨by decide, p.isLt, hfs⟩
  have hp : fld (syl m ((p.toNat, 18) :: fs)) 18 4 = p.toNat := by
    rw [← Nat.add_zero (syl _ _), ← Nat.zero_mul (2 ^ 31),
      syl_eq_inOrder hm.1 (hm.2.trans (by decide)) hfits, inOrder, fieldsBelow, fld_fieldsBelow hfs (by decide)]
    exact (fld_joinBits_low (by decide)).trans fld_bv
  have hmod (w : Nat) : bitsAt (BitVec.ofNat 32 w).toNat 18 4 = fld w 18 4 := by
    rw [BitVec.toNat_ofNat, bitsAt, fld]
    omega
  rw [guardOf, wordOf, h, List.headD_cons, hmod, hp, BitVec.ofNat_toNat, BitVec.setWidth_eq]

/-- Every VEC instruction issues as the VEC syllable of its meaning. -/
theorem exec_vec {i : Instr} {y : VecSem} (h : vecSemOf i = some y) (s : State) : exec i s = issue (vecSyl (guardOf i) i y s) s := by
  cases i with
  | vadd p t d a b | vsub p t d a b | vmul p t d a b | vfma p t d a b | vmin p t d a b | vmax p t d a b | vand p t d a b
  | vor p t d a b | vxor p t d a b | vshl p t d a b | vshr p t d a b | vsar p t d a b | vcmpEq p t d a b | vcmpLt p t d a b
  | vcmpLe p t d a b | vsel p t d a b | vperm p t d a b | vrot p t d a b | vextr p t d a b | vinsr p t d a b
  | vdot4 p t d a b | vmulh p t d a b | vcx p t d a b | vadds p t d a b | vsubs p t d a b | vminN p t d a b
  | vmaxN p t d a b | vcmpLtn p t d a b | vabs p t d a | vneg p t d a | vbcast p t d a | vrsum p t d a | vrmax p t d a
  | vrmin p t d a | vscan p t d a | vexp2 p t d a | vlog2 p t d a | vrcp p t d a | vrsq p t d a | vtanh p t d a
  | vpopc p t d a | vcvt p t d a k g | vqnt p t d a k g | vqsc p t d a g | vrng p t d =>
    obtain rfl := Option.some.inj h
    rw [guardOf_eq rfl (by decide) (by simp; omega)]
    rfl
  | _ => exact absurd h (by nofun)

/-! ## A VEC instruction that is held (O36) -/

/-- The stop bit of a fetched syllable lies above all of its fields. -/
theorem bitsAt_or_stop {v u : BitVec 32} {lo k : Nat} (h : lo + k ≤ 31) :
    bitsAt (v ||| (u &&& 0x80000000)).toNat lo k = bitsAt v.toNat lo k := by
  apply Nat.eq_of_testBit_eq
  intro j
  simp only [bitsAt, Nat.testBit_mod_two_pow, Nat.testBit_div_two_pow, BitVec.testBit_toNat, BitVec.getLsbD_or, BitVec.getLsbD_and]
  by_cases hj : j < k
  · have h31 : ∀ n < 31, (0x80000000#32).getLsbD n = false := by decide
    simp [h31 (j + lo) (by omega)]
  · simp [hj]

theorem vecNames_fetched (s : State) (i : Instr) (e : Bool) : vecNames (s.fetchedWord i).toNat e = vecNames (wordOf i).toNat e := by
  simp only [State.fetchedWord, vecNames, bitsAt_or_stop, Nat.reduceAdd, Nat.reduceLeDiff]

theorem fetchedExts_ne_nil (s : State) (i : Instr) : (s.fetchedExts i ≠ []) ↔ (extsOf i ≠ []) := by
  simp [State.fetchedExts]

/-- A captured VEC syllable names the registers of its instruction. -/
theorem vecRegs_capture (s : State) (i : Instr) (x : Word) (tags : List Nat) : (s.capture i x tags).vecRegs = vecRegsOf s i := by
  rw [Held.vecRegs, vecRegsOf, State.capture]
  simp only [vecNames_fetched, fetchedExts_ne_nil]

@[simp] theorem State.enter_pendingTag (s : State) (g : BitVec 4) (r : Regs) (v : BitVec 5) :
    (s.enter g r).me.pendingTag v = s.me.pendingTag v := by
  obtain ⟨tags, after, waited, once, h, hr, hb, hv, -⟩ := (enter_tagsOnly s g r).mine
  simp only [Ctx.pendingTag, h, hr, hb, hv]

@[simp] theorem State.enter_pendingTags (s : State) (g : BitVec 4) (r : Regs) (vs : List (BitVec 5)) :
    (s.enter g r).me.pendingTags vs = s.me.pendingTags vs := by
  simp only [Ctx.pendingTags]
  congr 1
  funext v
  simp

@[simp] theorem State.enter_physRv (s : State) (g : BitVec 4) (r : Regs) (v : BitVec 5) :
    (s.enter g r).me.rv v = s.me.rv v := by
  obtain ⟨_, _, _, _, h, -⟩ := (enter_tagsOnly s g r).mine
  simp only [Ctx.rv, h]

theorem visible_modCr (c : Ctx) (f : CtlRegs → CtlRegs) : (c.modCr f).visible = { c.visible with cr := f c.visible.cr } := rfl

@[simp] theorem vecRegsOf_enter (s : State) (g : BitVec 4) (r : Regs) (i : Instr) : vecRegsOf (s.enter g r) i = vecRegsOf s i := by
  rw [vecRegsOf, vecRegsOf, State.enter_cr]


/-- The held entry that a VEC syllable puts in its queue. -/
def heldVec (s : State) (i : Instr) : Held :=
  (s.capture i 0 (s.me.pendingTags ((vecRegsOf s i).vr ++ (vecRegsOf s i).vw))).latch s.me

/-- The state behind a VEC syllable that is held. -/
def State.holdVec (s : State) (i : Instr) (y : VecSem) : State :=
  ((s.modMe (fun c => { c with vecq := c.vecq ++ [heldVec s i] })).tick1).advanceCtr (y.draws s.me.cr.cvrnd)

theorem vecSyl_act_held {s u : State} {p : BitVec 4} {i : Instr} {y : VecSem}
    (h : u.me.pendingTags ((vecRegsOf u i).vr ++ (vecRegsOf u i).vw) ≠ [] ∨ u.me.vecq ≠ []) :
    (vecSyl p i y s).act u = u.holdVec i y := by
  change State.advanceCtr (State.tick1 (ite _ _ _)) _ = _
  rw [if_pos h]
  rfl

section
variable (s : State) (i : Instr) (y : VecSem)

theorem holdVec_me : (s.holdVec i y).ctx s.cur = ({ s.me with vecq := s.me.vecq ++ [heldVec s i] } : Ctx).modCr
    (fun r => { r with ctrbase := r.ctrbase + BitVec.ofNat 64 (y.draws s.me.cr.cvrnd) }) := by
  simp [State.holdVec, State.advanceCtr, State.modMe, State.me, toWord]

theorem holdVec_kept : Kept s (s.holdVec i y) := by
  refine kept_of_own (fun a ha => ?_) rfl rfl rfl rfl rfl rfl rfl
  simp [State.holdVec, State.advanceCtr, State.modMe, State.ctx_modCtx, ha]

@[simp] theorem heldVec_id : (heldVec s i).id = s.uid := rfl
@[simp] theorem heldVec_instr : (heldVec s i).instr = i := rfl
@[simp] theorem heldVec_tags :
    (heldVec s i).tags = s.me.pendingTags ((vecRegsOf s i).vr ++ (vecRegsOf s i).vw) := rfl
@[simp] theorem heldVec_vrb : (heldVec s i).vrb = s.me.cr.vrb := rfl
@[simp] theorem heldVec_seed : (heldVec s i).seed = s.me.cr.seed := rfl
@[simp] theorem heldVec_ctr : (heldVec s i).ctr = s.me.cr.ctrbase := rfl

@[simp] theorem heldVec_xs : (heldVec s i).xs = (vecRegsOf s i).xr.map (fun r => (r, s.rx r)) := by
  rw [heldVec, Held.latch, vecRegs_capture]
  rfl

theorem mem_heldVec_vs {r : BitVec 5} {x : Vec} : (r, x) ∈ (heldVec s i).vs ↔
    r ∈ (vecRegsOf s i).vr ∧ (s.me.pendingTag r = none ∧ ∀ g ∈ s.me.vecq, r ∉ g.vecRegs.vw) ∧ x = s.me.rv r := by
  simp only [heldVec, Held.latch, vecRegs_capture, List.mem_map, List.mem_filter]
  constructor
  · rintro ⟨v, ⟨hv, hfree⟩, heq⟩
    obtain ⟨rfl, rfl⟩ := Prod.mk.inj heq
    exact ⟨hv, by simpa using hfree, rfl⟩
  · rintro ⟨hv, hfree, rfl⟩
    exact ⟨r, ⟨hv, by simpa using hfree⟩, rfl⟩

end

/-- A VEC syllable that a tag or an earlier held one keeps is held, on the state that it enters. -/
theorem exec_vec_held {s u : State} {i : Instr} {y : VecSem} (hy : vecSemOf i = some y) (ht : y.typeOk = true)
    (hf : s.free 3 (guardOf i) (vecRegsOf s i) = true) (hu : s.enter (guardOf i) (vecRegsOf s i) = u)
    (hheld : s.me.pendingTags ((vecRegsOf s i).vr ++ (vecRegsOf s i).vw) ≠ [] ∨ s.me.vecq ≠ []) :
    exec i s = .next (u.holdVec i y) := by
  have hheld' : u.me.pendingTags ((vecRegsOf u i).vr ++ (vecRegsOf u i).vw) ≠ [] ∨ u.me.vecq ≠ [] := by
    rw [← hu, vecRegsOf_enter, State.enter_pendingTags, State.enter_vecq]
    exact hheld
  have hissue := issue_act (y := vecSyl (guardOf i) i y s) (.inl rfl) ht hf rfl rfl
  rw [exec_vec hy, hissue, ← vecSyl_act_held (s := s) (p := guardOf i) hheld', ← hu]
  rfl

/-- Settles O36: the types are checked at once (R14); a VEC syllable that a tag or an earlier one keeps joins the queue with what it
reads as it issues (`heldVec`), on the state that it enters. -/
theorem vecHeld : Obligations.VecHeld := by
  intro s i y hy
  refine ⟨fun ht => ?_, ?_⟩
  · rw [exec_vec hy]
    exact issue_type (.inl rfl) ht
  · rintro ht hf tags rfl hheld
    obtain ⟨g, hg⟩ : ∃ g, guardOf i = g := ⟨_, rfl⟩
    have hact := exec_vec_held hy ht hf rfl hheld
    rw [hg] at hact
    have hme := holdVec_me (s.enter g (vecRegsOf s i)) i y
    rw [State.enter_cur, State.enter_cr] at hme
    refine ⟨_, heldVec (s.enter g (vecRegsOf s i)) i, hact, ?_⟩
    rw [hme]
    refine ⟨by simp, by simp, by simp, by simp, by simp, by simp, by simp, by simp, by simp, ?_, ?_, ?_, ?_⟩
    · intro r x hx
      simpa using ((mem_heldVec_vs ..).mp hx).2.2
    · intro r hr hfree hlate
      rw [mem_heldVec_vs]
      simpa using ⟨hr, by simpa [Ctx.pendingTags] using hfree, hlate⟩
    · rw [visible_modCr, visible_modCr, ← s.enter_visible g (vecRegsOf s i)]
      rfl
    · exact (enter_kept ..).trans (holdVec_kept ..) (by simp)

end Sys2Proof.Machine
end

section
/-! PROOF. The lane-wise VEC instructions on integer lanes (O31). -/

namespace Sys2Proof.Machine

/-! ## A VEC instruction that executes as it issues -/

/-- What a VEC syllable reads that executes as it issues. -/
def State.vecEnv (s : State) : VecEnv :=
  { rv := s.rv, rx := s.rx, seed := s.me.cr.seed, ctr := s.me.cr.ctrbase, cvrnd := s.me.cr.cvrnd }

theorem capture_env (s : State) (i : Instr) (x : Word) (tags : List Nat) : (s.capture i x tags).env s.me = s.vecEnv := rfl

@[simp] theorem vecEnv_enter (s : State) (g : BitVec 4) (r : Regs) : (s.enter g r).vecEnv = s.vecEnv := by
  have hrv : (s.enter g r).rv = s.rv := funext (s.enter_rv g r)
  have hrx : (s.enter g r).rx = s.rx := funext (s.enter_rx g r)
  rw [State.vecEnv, State.enter_cr, hrv, hrx]
  rfl

/-- The counter that advances by no draw stays. -/
@[simp] theorem ctx_advanceCtr_zero (s : State) (a : Agent) : (s.advanceCtr 0).ctx a = s.ctx a := by
  rw [State.advanceCtr, State.modMe, State.ctx_modCtx]
  split
  case isTrue h => subst h; simp [Ctx.modCr, toWord]
  case isFalse => rfl

theorem settled_advanceCtr_zero (s : State) (a : Agent) : (s.advanceCtr 0).settled a = s.settled a := by
  rw [State.settled_eq, State.settled_eq, ctx_advanceCtr_zero]

theorem kept_advanceCtr_zero (s : State) : Kept s (s.advanceCtr 0) :=
  kept_of_own (fun a _ => ctx_advanceCtr_zero s a) rfl rfl rfl rfl rfl rfl rfl

@[simp] theorem State.enter_ctx_cur (s : State) (g : BitVec 4) (r : Regs) : (s.enter g r).ctx s.cur = (s.enter g r).me := by
  rw [State.me, State.enter_cur]

/-- A result put in flight behind what entering changes, the arbitration and memory apart, is the writes and the flags it holds. -/
theorem yields_fly {s v : State} {g : BitVec 4} {r : Regs} {src : Src} {lat : Nat} {ws : List RegWrite} {fl : BitVec 6}
    (hcur : v.cur = s.cur) (hctx : v.ctx s.cur = (s.enter g r).me) : Yields s (v.fly s.cur src lat ws fl none) ws fl := by
  intro hclear
  have hclear' : v.clear ws = true := by
    rw [State.clear, State.me, hcur, hctx, State.enter_flights]
    exact hclear
  have hfly := State.settled_fly (src := src) (lat := lat) (fl := fl) hclear'
  have hsettled : v.settled s.cur = (s.enter g r).settled s.cur := by
    rw [State.settled_eq, State.settled_eq, hctx, State.enter_ctx_cur]
  rw [hcur, hsettled] at hfly
  rw [hfly]
  exact Flight.land_visible { id := 0, due := 0, src := src, writes := ws, flags := fl, access := none } (s.enter_settled g r)

/-- The act of a VEC syllable that draws nothing and that nothing keeps: its result is in flight. -/
theorem vecSyl_act_now {s u : State} {p : BitVec 4} {i : Instr} {y : VecSem} (hd : ∀ cv, y.draws cv = 0)
    (ht : u.me.pendingTags ((vecRegsOf u i).vr ++ (vecRegsOf u i).vw) = []) (hq : u.me.vecq = []) :
    (vecSyl p i y s).act u = (u.fly u.cur .vector y.lat ((y.run u.vecEnv).1.map (RegWrite.phys u.me.cr.vrb))
      (y.run u.vecEnv).2 none).advanceCtr 0 := by
  change State.advanceCtr (State.tick1 (ite _ _ _)) _ = _
  rw [if_neg (by rw [ht, hq]; simp), hd]
  rfl

/-- A VEC instruction that executes as it issues, and draws nothing, writes the results of its meaning. -/
theorem writes_vec {s : State} {p : BitVec 4} {i : Instr} {y : VecSem} {ws : List RegWrite} {fl : BitVec 6}
    (h : exec i s = issue (vecSyl p i y s) s) (ht : y.typeOk = true) (hd : ∀ cv, y.draws cv = 0) (hn : vecNow s p i)
    (hr : y.run s.vecEnv = (ws, fl)) : Writes i s (ws.map (RegWrite.phys s.me.cr.vrb)) fl := by
  obtain ⟨hf, htags, hq⟩ := hn
  obtain ⟨u, hu⟩ : ∃ u, s.enter p (vecRegsOf s i) = u := ⟨_, rfl⟩
  have htags' : u.me.pendingTags ((vecRegsOf u i).vr ++ (vecRegsOf u i).vw) = [] := by
    rw [← hu, vecRegsOf_enter, State.enter_pendingTags, htags]
  have hq' : u.me.vecq = [] := by rw [← hu, State.enter_vecq, hq]
  have hact := vecSyl_act_now (s := s) (p := p) hd htags' hq'
  rw [← hu, vecEnv_enter, hr, State.enter_cr, State.enter_cur] at hact
  have hnext := issue_act (y := vecSyl p i y s) (.inl rfl) ht hf rfl rfl
  refine ⟨_, (h.trans hnext).trans (congrArg Host.Outcome.next hact), ?_, ?_⟩
  · intro hclear
    rw [settled_advanceCtr_zero]
    exact yields_fly (State.enter_cur ..) (State.enter_ctx_cur ..) hclear
  · have hfly := kept_fly (s.enter p (vecRegsOf s i)) .vector y.lat (ws.map (RegWrite.phys s.me.cr.vrb)) fl none
    rw [State.enter_cur] at hfly
    exact ((enter_kept ..).trans hfly (by simp)).trans (kept_advanceCtr_zero _) (by simp [State.fly, State.flyAs])

/-! ## The lanes of a lane-wise instruction -/

/-- A vector register is given by its lanes modulo the lane. -/
theorem vecOf_congr {w n : Nat} {f g : Nat → Nat} (h : ∀ k, f k ≡ g k [MOD 2 ^ w]) : vecOf w n f = vecOf w n g := by
  have hpack (l : List Nat) : packLanes w (l.map f) = packLanes w (l.map g) := by
    induction l with
    | nil => rfl
    | cons k l ih => rw [List.map_cons, List.map_cons, packLanes, packLanes, ih, h k]
  rw [vecOf, vecOf, ofLanes, ofLanes, hpack]

theorem gatherResults_noFlags (f : Nat → Nat) (l : List Nat) : gatherResults (l.map (fun k => (f k, 0))) = (l.map f, 0) := by
  have hflags : orFlags (l.map (fun _ => (0 : BitVec 6))) = 0 := by
    induction l with
    | nil => rfl
    | cons k l ih => simpa [orFlags] using ih
  simpa [gatherResults, Function.comp_def] using hflags

/-- Three lane widths are of integer types. -/
theorem laneWidth_int {t : Nat} (ht : t < 3) : laneWidth t = 32 ∨ laneWidth t = 16 ∨ laneWidth t = 8 := by
  obtain rfl | rfl | rfl : t = 0 ∨ t = 1 ∨ t = 2 := by omega
  · exact .inl rfl
  · exact .inr (.inl rfl)
  · exact .inr (.inr rfl)

/-- Narrowing an integer to a word first changes no lane. -/
theorem intWord_lane {w : Nat} (hw : w ≤ 64) (n : Int) : (intWord n).toNat % 2 ^ w = (n % 2 ^ w).toNat := by
  have hdvd : ((2 : Int) ^ w) ∣ 2 ^ 64 := pow_dvd_pow 2 hw
  zify
  rw [intWord, BitVec.toNat_ofInt, Int.toNat_of_nonneg (Int.emod_nonneg _ (by positivity)),
    Int.toNat_of_nonneg (Int.emod_nonneg _ (by positivity))]
  exact Int.emod_emod_of_dvd n hdvd

/-- Operand b of an integer lane. -/
theorem vopnd_int (s : State) {t : Nat} (ht : t < 3) {b : Opnd 5} (hb : ∀ e f, b ≠ .ext2 e f) (zext : Bool) (k : Nat) :
    vopnd s.vecEnv t zext b k = intOpnd s (laneWidth t) zext b k := by
  have hw : laneWidth t ≤ 64 := by have := laneWidth_int ht; omega
  cases b with
  | fld r => rfl
  | ext1 e => cases zext <;> simp [vopnd, intOpnd, isIntT, ht, intWord_lane hw]
  | ext2 e f => exact absurd rfl (hb e f)

/-- A lane-wise instruction on integer lanes that executes as it issues. -/
theorem writes_vecBin {s : State} {i : Instr} {p : BitVec 4} {t : BitVec 3} {d a : BitVec 5} {b : Opnd 5} {six zext : Bool}
    {li lf : Nat} {fi : Nat → Nat → Nat → Nat → Nat} {ff : Fmt → Nat → Nat → Nat → Nat × BitVec 6} {g : Nat → Nat}
    (ht : t.toNat < 3) (hb : ∀ e f, b ≠ .ext2 e f)
    (h : exec i s = issue (vecSyl p i (vecBin t d a b six zext li lf fi ff) s) s)
    (hg : ∀ k, fi (laneWidth t.toNat) (lane (laneWidth t.toNat) (s.rv d) k) (lane (laneWidth t.toNat) (s.rv a) k)
      (intOpnd s (laneWidth t.toNat) zext b k) ≡ g k [MOD 2 ^ laneWidth t.toNat]) (hn : vecNow s p i) :
    Writes i s [.v (physOf s.me.cr.vrb d) (vecOf (laneWidth t.toNat) (laneCount t.toNat) g)] 0 := by
  have hint : isIntT t.toNat = true := by simpa [isIntT] using ht
  have hsix : isSix t.toNat = true := by simp [isSix]; omega
  have hrun : lanewise t d a b zext fi ff s.vecEnv =
      ([.v d (vecOf (laneWidth t.toNat) (laneCount t.toNat) g)], 0) := by
    simp only [lanewise, hint, if_true, vopnd_int s ht hb, gatherResults_noFlags, outV]
    rw [← vecOf_congr hg]
    rfl
  exact writes_vec h (by cases six <;> simp [vecBin, hint, hsix]) (fun _ => rfl) hn hrun

/-! ## The functions of the lanes, modulo the lane -/

theorem lane_lt (w : Nat) (v : Vec) (k : Nat) : lane w v k < 2 ^ w := Nat.mod_lt _ (by positivity)

/-- Operand b of an integer lane is a lane, too. -/
theorem intOpnd_lt (s : State) (w : Nat) (zext : Bool) (b : Opnd 5) (k : Nat) : intOpnd s w zext b k < 2 ^ w := by
  have hpos : (0 : Int) < 2 ^ w := by positivity
  cases b with
  | fld r => exact lane_lt ..
  | ext1 e =>
    cases zext with
    | false =>
      have hlt := Int.emod_lt_of_pos (immSigned (.ext1 e : Opnd 5)) hpos
      have hnn := Int.emod_nonneg (immSigned (.ext1 e : Opnd 5)) hpos.ne'
      change (immSigned (.ext1 e : Opnd 5) % 2 ^ w).toNat < 2 ^ w
      zify
      omega
    | true => exact Nat.mod_lt _ (by positivity)
  | ext2 e f => exact Nat.two_pow_pos w

/-- A lane that is an integer modulo the lane. -/
theorem modEq_laneInt {w m : Nat} {n : Int} (h : (m : Int) ≡ n [ZMOD 2 ^ w]) : m ≡ laneInt w n [MOD 2 ^ w] := by
  rw [← Int.natCast_modEq_iff, laneInt, Int.toNat_of_nonneg (Int.emod_nonneg _ (by positivity))]
  simpa using h.trans (Int.mod_modEq n _).symm

/-- A lane and its signed value differ by a multiple of the lane. -/
theorem signedOf_modEq (w n : Nat) : signedOf w n ≡ n [ZMOD 2 ^ w] := by
  have hmod : ((n % 2 ^ w : Nat) : Int) ≡ n [ZMOD 2 ^ w] := by simpa using Int.mod_modEq (n : Int) (2 ^ w)
  rw [signedOf]
  split
  · exact hmod
  · exact (Int.ModEq.sub_right _ hmod).trans (by simp [Int.ModEq])

theorem laneSub_modEq {w y z : Nat} (hz : z < 2 ^ w) : y + 2 ^ w - z ≡ laneInt w ((y : Int) - z) [MOD 2 ^ w] := by
  refine modEq_laneInt ?_
  rw [Nat.cast_sub (by omega)]
  push_cast
  rw [show (y : Int) + 2 ^ w - z = y - z + 2 ^ w by ring]
  simp [Int.ModEq]

theorem laneNeg_modEq {w y : Nat} (hy : y < 2 ^ w) : 2 ^ w - y ≡ laneInt w (-signedOf w y) [MOD 2 ^ w] := by
  refine modEq_laneInt ?_
  rw [Nat.cast_sub hy.le]
  push_cast
  calc (2 : Int) ^ w - y ≡ -y [ZMOD 2 ^ w] := by simp [Int.ModEq, Int.sub_eq_add_neg]
    _ ≡ -signedOf w y [ZMOD 2 ^ w] := (signedOf_modEq w y).symm.neg

/-- Saturation clamps to the signed bounds (R159). -/
theorem clampInt_fst (w : Nat) (n : Int) : (clampInt w n).1 = max (-2 ^ (w - 1)) (min (2 ^ (w - 1) - 1) n) := by
  have hpos : (0 : Int) < 2 ^ (w - 1) := by positivity
  rw [clampInt, intMax, intMin]
  generalize (2 : Int) ^ (w - 1) = m at hpos ⊢
  split
  case isTrue h => simp only; omega
  case isFalse h =>
    split <;> simp only <;> omega

theorem popCount_eq_countP (w n : Nat) : popCount w n = (List.range w).countP (fun k => n.testBit k) := by
  induction w generalizing n with
  | zero => rfl
  | succ w ih =>
    rw [popCount, ih, List.range_succ_eq_map, List.countP_cons, List.countP_map]
    simp only [Function.comp_def, Nat.succ_eq_add_one, Nat.testBit_succ, Nat.testBit_zero]
    rw [Nat.add_comm]
    congr 1
    rcases Nat.mod_two_eq_zero_or_one n with h | h <;> simp [h]

theorem laneSar_eq (w z : Nat) (y : Int) : y / 2 ^ min z w = if z < w then y / 2 ^ z else y / 2 ^ w := by
  split
  case isTrue h => rw [min_eq_left h.le]
  case isFalse h => rw [min_eq_right (not_lt.mp h)]

theorem laneMin_eq (w y z : Nat) :
    (if signedOf w z < signedOf w y then z else y) = if signedOf w y ≤ signedOf w z then y else z := by
  by_cases h : signedOf w y ≤ signedOf w z
  · rw [if_neg (not_lt.mpr h), if_pos h]
  · rw [if_pos (not_le.mp h), if_neg h]

theorem laneMax_eq (w y z : Nat) :
    (if signedOf w y < signedOf w z then z else y) = if signedOf w z ≤ signedOf w y then y else z := by
  by_cases h : signedOf w z ≤ signedOf w y
  · rw [if_neg (not_lt.mpr h), if_pos h]
  · rw [if_pos (not_le.mp h), if_neg h]

/-- The mask of a comparison. -/
theorem maskOf_eq {w : Nat} {r : Bool} {c : Prop} [Decidable c] (h : r = true ↔ c) : maskOf w r = if c then 2 ^ w - 1 else 0 := by
  simp only [maskOf, h]

/-- Settles O31: each instruction is a lane-wise function of its operands; modulo the lane it is the one that the rules state. -/
theorem vecIntLanes : Obligations.VecIntLanes := by
  rintro s p t d a b ht hb w n hw rfl r rfl x y z u rfl rfl rfl rfl g rfl all rfl
  subst hw
  have ha : ∀ e f, (.fld a : Opnd 5) ≠ .ext2 e f := by nofun
  refine ⟨writes_vecBin ht hb (exec_vadd ..) fun k => rfl, writes_vecBin ht hb (exec_vsub ..) fun k => laneSub_modEq (intOpnd_lt ..),
    writes_vecBin ht hb (exec_vmul ..) fun k => rfl, writes_vecBin ht hb (exec_vfma ..) fun k => rfl,
    writes_vecBin ht hb (exec_vmin ..) fun k => congrArg (· % _) (laneMin_eq ..),
    writes_vecBin ht hb (exec_vmax ..) fun k => congrArg (· % _) (laneMax_eq ..),
    writes_vecBin ht hb (exec_vminN ..) fun k => rfl, writes_vecBin ht hb (exec_vmaxN ..) fun k => rfl,
    writes_vecBin ht hb (exec_vand ..) fun k => rfl, writes_vecBin ht hb (exec_vor ..) fun k => rfl,
    writes_vecBin ht hb (exec_vxor ..) fun k => rfl, writes_vecBin ht hb (exec_vshl ..) fun k => rfl,
    writes_vecBin ht hb (exec_vshr ..) fun k => rfl,
    writes_vecBin ht hb (exec_vsar ..) fun k => congrArg (laneInt _ · % _) (laneSar_eq ..),
    writes_vecBin ht hb (exec_vmulh ..) fun k => rfl,
    writes_vecBin ht hb (exec_vadds ..) fun k => congrArg (laneInt _ · % _) (clampInt_fst ..),
    writes_vecBin ht hb (exec_vsubs ..) fun k => congrArg (laneInt _ · % _) (clampInt_fst ..),
    writes_vecBin ht ha (exec_vabs ..) fun k => rfl,
    writes_vecBin ht ha (exec_vneg ..) fun k => laneNeg_modEq (lane_lt ..),
    writes_vecBin ht ha (exec_vpopc ..) fun k => congrArg (· % _) (popCount_eq_countP ..),
    writes_vecBin ht hb (exec_vcmpEq ..) fun k => congrArg (· % _) (maskOf_eq beq_iff_eq),
    writes_vecBin ht hb (exec_vcmpLt ..) fun k => congrArg (· % _) (maskOf_eq decide_eq_true_iff),
    writes_vecBin ht hb (exec_vcmpLe ..) fun k => congrArg (· % _) (maskOf_eq decide_eq_true_iff),
    writes_vecBin ht hb (exec_vcmpLtn ..) fun k => congrArg (· % _) (maskOf_eq decide_eq_true_iff)⟩

end Sys2Proof.Machine
end

section
/-! PROOF. The memory port and the local loads (O22). -/

namespace Sys2Proof.Machine

theorem mem_insertNat {n m : Nat} {l : List Nat} : m ∈ insertNat n l ↔ m = n ∨ m ∈ l := by
  induction l with
  | nil => simp [insertNat]
  | cons k l ih =>
    rw [insertNat]
    split
    case isTrue => simp
    case isFalse =>
      split
      case isTrue h => simp [h]
      case isFalse => simp only [List.mem_cons, ih, or_left_comm]

theorem mem_insertDue_self (e : Due) (l : List Due) : e ∈ insertDue e l := by
  induction l with
  | nil => simp [insertDue]
  | cons d l ih =>
    rw [insertDue]
    split
    case isTrue => exact List.mem_cons_of_mem _ ih
    case isFalse => exact List.mem_cons_self

/-! ## What an access meets -/

section
variable (s : State) (g : BitVec 4) (r : Regs)

@[simp] theorem State.enter_arb (c : CoreId) : (s.enter g r).arb c = s.arb c := by
  obtain ⟨_, _, h⟩ := (enter_tagsOnly s g r).rest
  rw [h]
  rfl

@[simp] theorem State.enter_portTurn (a : Agent) (addr n : Nat) : (s.enter g r).portTurn a addr n = s.portTurn a addr n := by
  simp [State.portTurn]

@[simp] theorem State.enter_pendingStores (a : Agent) : (s.enter g r).pendingStores a = s.pendingStores a := by
  cases a <;> simp [State.pendingStores]

@[simp] theorem State.enter_banks (a : Agent) : (s.enter g r).banks a = s.banks a := by
  cases a <;> simp [State.banks]

@[simp] theorem State.enter_empties (a : Agent) : (s.enter g r).empties a = s.empties a := by
  cases a <;> simp [State.empties]

@[simp] theorem State.enter_clean (a : Agent) (addr n : Nat) : (s.enter g r).clean a addr n = s.clean a addr n := by
  cases a <;> simp [State.clean]

@[simp] theorem State.enter_localView (a : Agent) (id : Nat) : (s.enter g r).localView a id = s.localView a id := by
  simp [State.localView]

@[simp] theorem State.enter_storesWritten (a : Agent) (id : Nat) : (s.enter g r).storesWritten a id = s.storesWritten a id := by
  simp [State.storesWritten]

@[simp] theorem State.enter_behindAcquire (id : Nat) : (s.enter g r).behindAcquire s.cur id = s.behindAcquire s.cur id := by
  simp only [State.behindAcquire, State.enter_ctx_cur, State.enter_vecq, State.enter_matq, State.enter_slot]
  rfl

@[simp] theorem State.enter_accessBefore (id : Nat) : (s.enter g r).accessBefore s.cur id = s.accessBefore s.cur id := by
  simp only [State.accessBefore, State.enter_ctx_cur, State.enter_flights]
  rfl

theorem accessTurn_enter (p : PortAccess) : (s.enter g r).accessTurn s.cur s.uid p =
    (portGoes s p.addr p.len && (p.amo.isNone || s.storesWritten s.cur s.uid)) := by
  simp [State.accessTurn, portGoes]

end

/-- No word with an error is met where none is. -/
theorem firstBad_of_wordsIn {l : List Nat} {addr n : Nat} (h : wordsIn l addr n = 0) {k : List Nat} (hk : k ⊆ l) :
    firstBad k addr n = none := by
  rw [wordsIn, List.length_eq_zero_iff, List.filter_eq_nil_iff] at h
  rw [firstBad, List.find?_eq_none]
  intro w hw hmem
  exact h w hw (by simpa using hk (by simpa using hmem))

/-- The erroneous words that an access meets are among those of the banks: stores on their way only replace them. -/
theorem foldl_filter_subset (f : LocalStore → Nat → Bool) (l : List LocalStore) (bad : List Nat) :
    l.foldl (fun bad st => bad.filter (f st)) bad ⊆ bad := by
  induction l generalizing bad with
  | nil => exact fun _ => id
  | cons st l ih => exact List.Subset.trans (ih _) (List.filter_subset_self _)

section
variable {s : State} {a : Agent} {addr n : Nat}

theorem firstBad_clean (h : s.clean a addr n = true) (id : Nat) : firstBad (s.badView a id) addr n = none := by
  cases a <;>
  · rw [State.clean, Bool.and_eq_true, decide_eq_true_eq] at h
    exact firstBad_of_wordsIn h.1 (foldl_filter_subset ..)

theorem meetLocal_clean (h : s.clean a addr n = true) : s.meetLocal a addr n = s := by
  cases a <;>
  · simp only [State.clean, Bool.and_eq_true, decide_eq_true_eq] at h
    exact if_pos h

/-- The memory port's turn changes the arbitration of the banks alone. -/
theorem servePort_clean (h : s.clean a addr n = true) : (s.servePort a addr n).clean a addr n = true := by
  cases a <;> exact h

theorem kept_servePort : Kept s (s.servePort a addr n) := kept_of_own (fun _ _ => rfl) rfl rfl rfl rfl rfl rfl rfl

end

/-- A load that has its banks, and meets no error, reads the bytes. -/
theorem portAccess_load {s : State} {a : Agent} {p : PortAccess} (hc : s.clean a p.addr p.len = true) (hp : p.amo = none) (id : Nat) :
    s.portAccess a id p =
      (s.servePort a p.addr p.len, some (p.dest.write (memRead (s.localView a id) p.addr p.len), 0)) := by
  have hc' := servePort_clean hc
  simp only [State.portAccess, meetLocal_clean hc', firstBad_clean hc', hp]
  cases a <;> rfl

/-! ## An access that issues -/

/-- The state behind an access that issues and tries again in the next cycle (R173). -/
def State.deferAccess (s : State) (p : PortAccess) : State :=
  let f : Flight := { id := s.uid, due := s.cycle + 1 + p.lat, src := .load, writes := [], flags := 0, access := some p }
  ((s.modCtx s.cur (fun c => { c with flights := c.flights ++ [f] })).schedule (s.cycle + 1) priPort
    (.localLoadLand s.cur s.uid)).tick1

theorem startAccess_deferred {s : State} {p : PortAccess} (h : s.accessTurn s.cur s.uid p = false) :
    s.startAccess p = s.deferAccess p := by
  simp only [State.startAccess, h]
  rfl

theorem kept_deferAccess (s : State) (p : PortAccess) : Kept s (s.deferAccess p) :=
  kept_of_own (fun a h => by simp [State.deferAccess, State.ctx_modCtx, h]) rfl rfl rfl rfl rfl rfl rfl

/-- What an instruction leaves whose access of the memory port tries again in the next cycle. -/
def Defers (i : Instr) (s : State) (p : PortAccess) : Prop :=
  ∃ t, exec i s = .next t ∧ (t.ctx s.cur).visible = s.me.visible ∧
    (∃ f, (t.ctx s.cur).flights = s.me.flights ++ [f] ∧ f.id = s.uid ∧ f.writes = [] ∧ f.access = some p) ∧
    { cycle := s.cycle + 1, pri := priPort, ev := .localLoadLand s.cur s.uid } ∈ t.agenda ∧ Kept s t

/-- What an access that has its banks keeps. -/
theorem kept_served (s : State) (g : BitVec 4) (r : Regs) (addr n lat : Nat) (ws : List RegWrite) (fl : BitVec 6) :
    Kept s (((s.enter g r).servePort s.cur addr n).fly s.cur .load lat ws fl none) := by
  have hserved := (enter_kept s g r).trans (kept_servePort (a := s.cur) (addr := addr) (n := n)) (by simp)
  have hcur : ((s.enter g r).servePort s.cur addr n).cur = s.cur := State.enter_cur ..
  have hfly := kept_fly ((s.enter g r).servePort s.cur addr n) .load lat ws fl none
  rw [hcur] at hfly
  exact hserved.trans hfly hcur

section
variable {i : Instr} {s : State} {g : BitVec 4} {r : Regs} {p : PortAccess}

theorem defers_of_startAccess (h : exec i s = .next ((s.enter g r).startAccess p))
    (ht : (portGoes s p.addr p.len && (p.amo.isNone || s.storesWritten s.cur s.uid)) = false) : Defers i s p := by
  have hturn : (s.enter g r).accessTurn (s.enter g r).cur (s.enter g r).uid p = false := by
    rw [State.enter_cur, State.enter_uid, accessTurn_enter, ht]
  rw [startAccess_deferred hturn] at h
  refine ⟨_, h, ?_, ?_, ?_, (enter_kept ..).trans (kept_deferAccess ..) (by simp)⟩
  · rw [← s.enter_visible g r]
    simp [State.deferAccess, Ctx.visible]
  · exact ⟨{ id := s.uid, due := s.cycle + 1 + p.lat, src := .load, writes := [], flags := 0, access := some p },
      by simp [State.deferAccess], rfl, rfl, rfl⟩
  · have hmem := mem_insertDue_self { cycle := s.cycle + 1, pri := priPort, ev := .localLoadLand s.cur s.uid } (s.enter g r).agenda
    simpa [State.deferAccess, State.schedule, State.tick1] using hmem

/-- The state behind a load that has its banks: its bytes are in flight. -/
def State.loaded (s : State) (p : PortAccess) : State :=
  (s.servePort s.cur p.addr p.len).fly s.cur .load p.lat (p.dest.write (memRead (s.localView s.cur s.uid) p.addr p.len)) 0 none

theorem startAccess_loaded (hgo : portGoes s p.addr p.len = true) (hc : s.clean s.cur p.addr p.len = true) (hp : p.amo = none) :
    (s.enter g r).startAccess p = (s.enter g r).loaded p := by
  have hturn : (s.enter g r).accessTurn s.cur s.uid p = true := by rw [accessTurn_enter, hgo, hp]; rfl
  have hload := portAccess_load (s := s.enter g r) (a := s.cur) (by simpa using hc) hp s.uid
  simp only [State.startAccess, State.enter_cur, State.enter_uid, hturn, hload, State.loaded]
  rfl

theorem yields_loaded : Yields s ((s.enter g r).loaded p) (p.dest.write (memRead (s.localView s.cur s.uid) p.addr p.len)) 0 := by
  rw [State.loaded, State.enter_cur, State.enter_uid, State.enter_localView]
  exact yields_fly (State.enter_cur ..) (State.enter_ctx_cur ..)

theorem kept_loaded : Kept s ((s.enter g r).loaded p) := by
  rw [State.loaded, State.enter_cur]
  exact kept_served ..

/-- A load that has its banks writes the bytes that its place holds. -/
theorem writes_of_startAccess (h : exec i s = .next ((s.enter g r).startAccess p)) (hgo : portGoes s p.addr p.len = true)
    (hc : s.clean s.cur p.addr p.len = true) (hp : p.amo = none) :
    Writes i s (p.dest.write (memRead (s.localView s.cur s.uid) p.addr p.len)) 0 := by
  rw [startAccess_loaded hgo hc hp] at h
  exact ⟨_, h, yields_loaded, kept_loaded⟩

end

/-! ## The checks and the waits of a local access -/

section
variable {s : State} {A : Int} {n : Nat}

theorem localCause_none {al : Nat} (hn : 0 < n) (hal : A % al = 0) (h0 : 0 ≤ A) (hl : A + n ≤ localSize s.cur) :
    localCause A n al s = none := by
  rw [localCause, if_neg (not_not.mpr hal), boundsCause_none ⟨h0, by omega, hl⟩]

theorem arWait_go {addr : State → Int} (hb : s.portBusy = false) (ha : s.arTouches (addr s) n = false) : arWait addr n s = .go := by
  rw [arWait, hb, ha]
  rfl

/-- A test for a full granule in a cycle in which the port has its banks waits for the bit alone. -/
theorem bitWait_full {addr : State → Int} {changes : Bool} (hb : s.portBusy = false) (ha : s.arTouches (addr s) n = false)
    (hgo : portGoes s (addr s).toNat n = true) (hch : changes = false ∨ s.pendingStores s.cur = []) :
    bitWait addr n true changes s = if (addr s).toNat / 16 ∈ s.localEmpties s.cur then .hold (fun s => s) else .go := by
  simp only [portGoes, Bool.and_eq_true, Bool.not_eq_true'] at hgo
  obtain ⟨⟨hturn, hacq⟩, hbefore⟩ := hgo
  have hstores : (changes && decide (s.pendingStores s.cur ≠ [])) = false := by rcases hch with h | h <;> simp [h]
  rw [bitWait, hb, ha, hturn, hacq, hbefore, hstores]
  simp [granuleOf]

/-- What a syllable that waits for a bit alone answers. -/
theorem issue_bit {y : Syl} {c : Prop} [Decidable c] (hp : y.priv = false) (ht : y.typeOk = true)
    (hf : s.free y.cls y.guard y.regs = true) (hc : y.cause s = none) (hw : y.wait s = if c then .hold (fun s => s) else .go) :
    issue y s = if c then .next s.hold else .next (y.act (s.enter y.guard y.regs)) := by
  rw [issue_answer (.inl hp) ht hf hc, hw]
  split <;> rfl

end

/-! ## The local loads (O22) -/

/-- What a load puts in a scalar register. -/
theorem write_x {bs : List Byte} {n : Nat} (h : bs.length = n) (d : BitVec 6) (signed : Bool) : (Dest.x d n signed).write bs =
    [.x d (if signed then BitVec.ofInt 64 (signedOf (8 * n) (leNat bs)) else BitVec.ofNat 64 (leNat bs))] := by
  subst h
  rw [Dest.write, List.take_length]
  rfl

section
variable {s : State} {p : BitVec 4} {d a : BitVec 6} {v : BitVec 5} {z : BitVec 2} {i : Opnd 4} {n : Nat} {A : Int}

/-- The access of a scalar load. -/
def scalarAccess (d : BitVec 6) (A : Int) (n : Nat) (signed : Bool) : PortAccess :=
  { addr := A.toNat, len := n, dest := .x d n signed, lat := 3, amo := none }

theorem writes_scalar {f : Instr} {g : BitVec 4} {r : Regs} {signed : Bool} {bs : List Byte}
    (h : exec f s = .next ((s.enter g r).startAccess (scalarAccess d A n signed))) (hgo : portGoes s A.toNat n = true)
    (hc : s.clean s.cur A.toNat n = true) (hbs : bs = memRead (s.localView s.cur s.uid) A.toNat n) :
    Writes f s [.x d (if signed then BitVec.ofInt 64 (signedOf (8 * n) (leNat bs)) else BitVec.ofNat 64 (leNat bs))] 0 := by
  have hwrites := writes_of_startAccess h hgo hc rfl
  rw [scalarAccess, write_x (length_memRead ..), ← hbs] at hwrites
  exact hwrites

/-- What the act of a scalar load does on a state that it enters. -/
theorem loadSyl_act (signed : Bool) (hn : n = 2 ^ z.toNat) (hA : A = addrOf (s.rx a) n i) :
    (loadSyl p d a z i signed).act (s.enter p { xr := [a], xw := [d] }) =
      (s.enter p { xr := [a], xw := [d] }).startAccess (scalarAccess d A n signed) := by
  subst hn hA
  change State.loadLocal _ (addrOf (State.rx _ a) _ i).toNat _ _ _ = _
  rw [State.enter_rx]
  rfl

variable (hf : s.free 2 p { xr := [a], xw := [d] } = true) (hn : n = 2 ^ z.toNat) (hA : A = addrOf (s.rx a) n i)
  (hcause : localCause A n n s = none) (hb : s.portBusy = false) (ha : s.arTouches A n = false)
include hf hn hA hcause hb ha

theorem loadSyl_starts (signed : Bool) : issue (loadSyl p d a z i signed) s =
    .next ((s.enter p { xr := [a], xw := [d] }).startAccess (scalarAccess d A n signed)) := by
  rw [← loadSyl_act signed hn hA]
  obtain rfl : n = sizeOf2 z := hn
  subst hA
  have hwait : arWait (fun s => addrOf (s.rx a) (sizeOf2 z) i) (sizeOf2 z) s = .go := arWait_go hb ha
  exact issue_act (.inl rfl) rfl hf hcause hwait

theorem ldLf_answer (hgo : portGoes s A.toNat n = true) : exec (.ldLf p d a z i) s =
    if A.toNat / 16 ∈ s.localEmpties s.cur then .next s.hold
    else .next ((s.enter p { xr := [a], xw := [d] }).startAccess (scalarAccess d A n false)) := by
  rw [← loadSyl_act false hn hA]
  obtain rfl : n = sizeOf2 z := hn
  subst hA
  exact issue_bit (y := { loadSyl p d a z i false with
    wait := bitWait (fun s => addrOf (s.rx a) (sizeOf2 z) i) (sizeOf2 z) true false }) rfl rfl hf hcause
    (bitWait_full (addr := fun s => addrOf (s.rx a) (sizeOf2 z) i) hb ha hgo (.inl rfl))

/-- The act of `LD.LFC` on the state `u` that it enters. -/
def State.loadClear (u : State) (d : BitVec 6) (A : Int) (n : Nat) : State :=
  (u.startAccess (scalarAccess d A n false)).setEmpties u.cur (insertNat (A.toNat / 16) (u.empties u.cur))

theorem ldLfc_answer (hgo : portGoes s A.toNat n = true) (hs : s.pendingStores s.cur = []) : exec (.ldLfc p d a z i) s =
    if A.toNat / 16 ∈ s.localEmpties s.cur then .next s.hold
    else .next ((s.enter p { xr := [a], xw := [d] }).loadClear d A n) := by
  have hact : (s.enter p { xr := [a], xw := [d] }).loadClear d (addrOf ((s.enter p { xr := [a], xw := [d] }).rx a) n i) n =
      (s.enter p { xr := [a], xw := [d] }).loadClear d A n := by rw [State.enter_rx, hA]
  rw [← hact]
  obtain rfl : n = sizeOf2 z := hn
  subst hA
  exact issue_bit (y := { loadSyl p d a z i false with
    wait := bitWait (fun s => addrOf (s.rx a) (sizeOf2 z) i) (sizeOf2 z) true true,
    act := fun s => s.loadClear d (addrOf (s.rx a) (sizeOf2 z) i) (sizeOf2 z) }) rfl rfl hf hcause
    (bitWait_full (addr := fun s => addrOf (s.rx a) (sizeOf2 z) i) hb ha hgo (.inr hs))

end

/-- The syllable of `VLD.L`. -/
def vldLSyl (p : BitVec 4) (v : BitVec 5) (a : BitVec 6) (i : Opnd 4) (r : BitVec 5) : Syl :=
  { memSyl p { xr := [a], vw := [r] } (fun s =>
      s.loadLocal (addrOf (s.rx a) 128 i).toNat 128 4 (.v (physOf s.me.cr.vrb v))) with
    early := [a],
    cause := fun s => localCause (addrOf (s.rx a) 128 i) 128 16 s,
    wait := arWait (fun s => addrOf (s.rx a) 128 i) 128 }

theorem vldL_starts {s : State} {p : BitVec 4} {a : BitVec 6} {v r : BitVec 5} {i : Opnd 4}
    (hf : s.free 2 p { xr := [a], vw := [r] } = true) (hr : r = physOf s.me.cr.vrb v)
    (hcause : localCause (addrOf (s.rx a) 128 i) 128 16 s = none) (hb : s.portBusy = false)
    (ha : s.arTouches (addrOf (s.rx a) 128 i) 128 = false) : exec (.vldL p v a i) s =
      .next ((s.enter p { xr := [a], vw := [r] }).startAccess
        { addr := (addrOf (s.rx a) 128 i).toNat, len := 128, dest := .v r, lat := 4, amo := none }) := by
  have hact : (vldLSyl p v a i r).act (s.enter p { xr := [a], vw := [r] }) = (s.enter p { xr := [a], vw := [r] }).startAccess
      { addr := (addrOf (s.rx a) 128 i).toNat, len := 128, dest := .v r, lat := 4, amo := none } := by
    change State.loadLocal _ (addrOf (State.rx _ a) _ i).toNat _ _ (.v (physOf (State.me _).cr.vrb v)) = _
    rw [State.enter_rx, State.enter_cr, ← hr]
    rfl
  have hwait : arWait (fun s => addrOf (s.rx a) 128 i) 128 s = .go := arWait_go hb ha
  rw [← hact]
  subst hr
  exact issue_act (y := vldLSyl p v a i (physOf s.me.cr.vrb v)) (.inl rfl) rfl hf hcause hwait

/-! ### The full bits replaced -/

section
variable (s : State) (a : Agent) (l : List Nat)

@[simp] theorem ctx_setEmpties (b : Agent) : (s.setEmpties a l).ctx b = s.ctx b := by cases a <;> rfl

@[simp] theorem empties_setEmpties : (s.setEmpties a l).empties a = l := by
  cases a <;> simp [State.setEmpties, State.empties]

theorem setEmpties_restored : { s.setEmpties a l with cores := s.cores, sups := s.sups } = s := by cases a <;> rfl

theorem core_setEmpties (c : CoreId) : ∃ l', (s.setEmpties a l).core c = { s.core c with emptyBits := l' } := by
  cases a with
  | stage i =>
    rw [State.setEmpties, State.core_modCore]
    split
    case isTrue h => exact ⟨l, by rw [h]⟩
    case isFalse => exact ⟨_, rfl⟩
  | sup v => exact ⟨_, rfl⟩

theorem sup_setEmpties (v : SupId) : ∃ l', (s.setEmpties a l).sup v = { s.sup v with emptyBits := l' } := by
  cases a with
  | stage i => exact ⟨_, rfl⟩
  | sup u =>
    rw [State.setEmpties, State.sup_modSup]
    split
    case isTrue h => exact ⟨l, by rw [h]⟩
    case isFalse => exact ⟨_, rfl⟩

theorem dies_setEmpties : (s.setEmpties a l).dies = s.dies ∧ (s.setEmpties a l).pkgs = s.pkgs := by cases a <;> exact ⟨rfl, rfl⟩

theorem setEmpties_bytes : SameBytes s (s.setEmpties a l) := by
  have hcore (c : CoreId) : ((s.setEmpties a l).core c).mem = (s.core c).mem ∧
      ((s.setEmpties a l).core c).stores = (s.core c).stores ∧ ((s.setEmpties a l).core c).window = (s.core c).window := by
    obtain ⟨_, h⟩ := core_setEmpties s a l c
    simp [h]
  have hsup (v : SupId) : ((s.setEmpties a l).sup v).mem = (s.sup v).mem ∧
      ((s.setEmpties a l).sup v).stores = (s.sup v).stores ∧ ((s.setEmpties a l).sup v).window = (s.sup v).window := by
    obtain ⟨_, h⟩ := sup_setEmpties s a l v
    simp [h]
  obtain ⟨hdies, hpkgs⟩ := dies_setEmpties s a l
  refine ⟨fun h x => ?_, fun g x => ?_, fun g x => ?_, fun c x => ?_, fun v x => ?_, fun d x => ?_, fun k x => ?_⟩
  · cases h <;> simp [State.homeMem, hcore, State.die, hdies]
  · cases g <;> simp [State.banks, hcore, hsup]
  · cases g <;> simp [State.localMem, State.banks, State.pendingStores, hcore, hsup]
  · simp [hcore]
  · simp [hsup]
  · simp [State.die, hdies]
  · simp [State.pkg, hpkgs]

end

/-- Where the cores' and supervisor cores' tables are put back, all else is as after the state that they were changed in. -/
theorem Kept.restored {s t u : State} (h : Kept s t) (hu : { u with cores := t.cores, sups := t.sups } = t) :
    Kept s { u with cores := s.cores, sups := s.sups } := by
  rw [← h.cores, ← h.sups, hu]
  exact h

/-- What `LD.LFC` leaves. -/
theorem loadClear_leaves {s : State} {g : BitVec 4} {r : Regs} {d : BitVec 6} {A : Int} {n : Nat}
    (hgo : portGoes s A.toNat n = true) (hc : s.clean s.cur A.toNat n = true) {t : State} (ht : t = (s.enter g r).loadClear d A n) :
    Yields s t [.x d (BitVec.ofNat 64 (leNat (memRead (s.localView s.cur s.uid) A.toNat n)))] 0 ∧
      (∀ k, k ∈ t.empties s.cur ↔ k = A.toNat / 16 ∨ k ∈ s.empties s.cur) ∧ SameBytes s t ∧
      Kept s { t with cores := s.cores, sups := s.sups } := by
  rw [State.loadClear, startAccess_loaded hgo hc rfl, State.enter_cur, State.enter_empties] at ht
  have hkept : Kept s ((s.enter g r).loaded (scalarAccess d A n false)) := kept_loaded
  subst ht
  refine ⟨fun hclear => ?_, fun k => by rw [empties_setEmpties, mem_insertNat], hkept.bytes.trans (setEmpties_bytes ..),
    hkept.restored (setEmpties_restored ..)⟩
  have hyields := yields_loaded (s := s) (g := g) (r := r) (p := scalarAccess d A n false)
  rw [scalarAccess, write_x (length_memRead ..)] at hyields
  rw [State.settled_eq, ctx_setEmpties, ← State.settled_eq]
  exact hyields hclear

/-- Settles O22: each load is one access of the memory port, made at once (`startAccess_loaded`) or deferred. -/
theorem localLoads : Obligations.LocalLoads := by
  intro s p d a v z i
  constructor
  · intro hf n A hn hA hal h0 hl hb ha
    have hcause : localCause A n n s = none := localCause_none (hn ▸ by positivity) hal h0 hl
    have hload (signed : Bool) := loadSyl_starts hf hn hA hcause hb ha signed
    refine ⟨fun hgo => ?_, fun hgo hc bs hbs =>
      ⟨?_, ?_, fun hfull => ⟨?_, fun hs => ?_⟩, fun hempty => ⟨?_, fun hs => ?_⟩⟩⟩
    · have hturn : (portGoes s A.toNat n && (true || s.storesWritten s.cur s.uid)) = false := by rw [hgo]; rfl
      exact defers_of_startAccess ((exec_ldL ..).trans (hload false)) hturn
    · exact writes_scalar ((exec_ldL ..).trans (hload false)) hgo hc hbs
    · exact writes_scalar ((exec_ldsL ..).trans (hload true)) hgo hc hbs
    · exact writes_scalar ((ldLf_answer hf hn hA hcause hb ha hgo).trans (if_neg hfull)) hgo hc hbs
    · subst hbs
      exact ⟨_, (ldLfc_answer hf hn hA hcause hb ha hgo hs).trans (if_neg hfull), loadClear_leaves hgo hc rfl⟩
    · exact (ldLf_answer hf hn hA hcause hb ha hgo).trans (if_pos hempty)
    · exact (ldLfc_answer hf hn hA hcause hb ha hgo hs).trans (if_pos hempty)
  · rintro r rfl hf A rfl hal h0 hl hb ha hgo hc
    exact writes_of_startAccess (vldL_starts hf rfl (localCause_none (by decide) hal h0 hl) hb ha) hgo hc rfl

end Sys2Proof.Machine
end

section
/-! PROOF. `AMO.L` (O24). -/

namespace Sys2Proof.Machine

/-! ## A write of words without an error -/

/-- A word that a write replaces or changes is none of those with an error, where there are none. -/
theorem filter_words_nil {l : List Nat} {addr n : Nat} (h : wordsIn l addr n = 0) (f : Nat → Bool) :
    ((words8 addr n).filter f).filter (· ∈ l) = [] := by
  rw [wordsIn, List.length_eq_zero_iff] at h
  rw [List.filter_comm, h, List.filter_nil]

theorem stuckWords_nil {l : List Nat} {addr n : Nat} (h : wordsIn l addr n = 0) : stuckWords l addr n = [] := by
  rw [stuckWords, ← List.filter_filter]
  exact filter_words_nil h _

theorem countPartial_clean (s : State) (d : DieId) {bad once : List Nat} {addr n : Nat} (hb : wordsIn bad addr n = 0)
    (ho : wordsIn once addr n = 0) : s.countPartial d bad once addr n = s := by
  simp only [State.countPartial, filter_words_nil hb, filter_words_nil ho]
  rfl

/-- The banks with bytes written in words that have no error. -/
def State.writeClean (s : State) (a : Agent) (addr : Nat) (data : List Byte) : State :=
  match a with
  | .stage i => s.modCore i.core (fun k => { k with
      mem := memWrite k.mem addr data, bad := k.bad.filter (fun w => !coversWord addr data.length w),
      badOnce := mendOnce k.badOnce addr data.length })
  | .sup v => s.modSup v (fun u => { u with
      mem := memWrite u.mem addr data, bad := u.bad.filter (fun w => !coversWord addr data.length w),
      badOnce := mendOnce u.badOnce addr data.length })

theorem writeBanks_clean {s : State} {a : Agent} {addr : Nat} {data : List Byte} (h : s.clean a addr data.length = true) :
    s.writeBanks a addr data false = s.writeClean a addr data := by
  cases a <;>
  · simp only [State.clean, Bool.and_eq_true, decide_eq_true_eq] at h
    obtain ⟨hbad, honce⟩ := h
    simp only [State.writeBanks, writeAround, stuckWords_nil hbad, countPartial_clean _ _ hbad honce]
    rfl

section
variable (s : State) (a : Agent) (addr : Nat) (data : List Byte)

theorem writeClean_restored : { s.writeClean a addr data with cores := s.cores, sups := s.sups } = s := by cases a <;> rfl

@[simp] theorem ctx_writeClean (b : Agent) : (s.writeClean a addr data).ctx b = s.ctx b := by cases a <;> rfl
@[simp] theorem cur_writeClean : (s.writeClean a addr data).cur = s.cur := by cases a <;> rfl
@[simp] theorem banks_writeClean : (s.writeClean a addr data).banks a = memWrite (s.banks a) addr data := by
  cases a <;> simp [State.writeClean, State.banks]
@[simp] theorem empties_writeClean : (s.writeClean a addr data).empties a = s.empties a := by
  cases a <;> simp [State.writeClean, State.empties]
@[simp] theorem pendingStores_writeClean : (s.writeClean a addr data).pendingStores a = s.pendingStores a := by
  cases a <;> simp [State.writeClean, State.pendingStores]
end

/-! ## What a result in flight leaves of a scratchpad -/

section
variable (s : State) (a b : Agent) (src : Src) (lat : Nat) (ws : List RegWrite) (fl : BitVec 6)

@[simp] theorem banks_fly : (s.fly a src lat ws fl none).banks b = s.banks b := by cases b <;> rfl
@[simp] theorem empties_fly : (s.fly a src lat ws fl none).empties b = s.empties b := by cases b <;> rfl
@[simp] theorem pendingStores_fly : (s.fly a src lat ws fl none).pendingStores b = s.pendingStores b := by cases b <;> rfl

/-- The same result in flight behind what the core's tables hold. -/
theorem fly_restored {v t : State} (h : { v with cores := s.cores, sups := s.sups } = s) (ht : t = s.fly a src lat ws fl none) :
    { v.fly a src lat ws fl none with cores := t.cores, sups := t.sups } = t := by
  rw [ht, ← h]
  rfl

end

section
variable (s : State) (a b : Agent) (addr n : Nat)

@[simp] theorem banks_servePort : (s.servePort a addr n).banks b = s.banks b := by cases b <;> rfl
@[simp] theorem empties_servePort : (s.servePort a addr n).empties b = s.empties b := by cases b <;> rfl
@[simp] theorem pendingStores_servePort : (s.servePort a addr n).pendingStores b = s.pendingStores b := by cases b <;> rfl

end

/-! ## The access of an atomic -/

/-- The new value of an atomic whose place holds `bs` (R21). -/
def PortAccess.amoResult (p : PortAccess) (o : BitVec 4) (w : Word) (bs : List Byte) : Nat :=
  amoNew o.toNat (8 * p.len) (leNat bs) (amoOperand (8 * p.len) w)

/-- An atomic that has its banks, and meets no error, reads the bytes and writes its result in their place. -/
theorem portAccess_amo {s : State} {a : Agent} {p : PortAccess} {o : BitVec 4} {w : Word} (hc : s.clean a p.addr p.len = true)
    (hp : p.amo = some (o, w)) (id : Nat) {bs : List Byte} (hbs : bs = memRead (s.localView a id) p.addr p.len) :
    s.portAccess a id p = ((s.servePort a p.addr p.len).writeClean a p.addr (leBytes p.len (p.amoResult o w bs)),
      some (p.dest.write bs, amoFlags o.toNat (leNat bs) (amoOperand (8 * p.len) w))) := by
  have hc' := servePort_clean hc
  have hbs' : memRead ((s.servePort a p.addr p.len).localView a id) p.addr p.len = bs := by rw [hbs]; cases a <;> rfl
  simp only [State.portAccess, meetLocal_clean hc', firstBad_clean hc', hp, hbs']
  rw [writeBanks_clean (by rw [length_leBytes]; exact hc')]
  rfl

/-- The state behind an atomic that has its banks. -/
def State.operated (s : State) (p : PortAccess) (o : BitVec 4) (w : Word) : State :=
  let bs := memRead (s.localView s.cur s.uid) p.addr p.len
  ((s.servePort s.cur p.addr p.len).writeClean s.cur p.addr (leBytes p.len (p.amoResult o w bs))).fly s.cur .load p.lat
    (p.dest.write bs) (amoFlags o.toNat (leNat bs) (amoOperand (8 * p.len) w)) none

section
variable {s : State} {g : BitVec 4} {r : Regs} {p : PortAccess} {o : BitVec 4} {w : Word}

theorem startAccess_operated (hgo : portGoes s p.addr p.len = true) (hs : s.storesWritten s.cur s.uid = true)
    (hc : s.clean s.cur p.addr p.len = true) (hp : p.amo = some (o, w)) :
    (s.enter g r).startAccess p = (s.enter g r).operated p o w := by
  have hturn : (s.enter g r).accessTurn s.cur s.uid p = true := by rw [accessTurn_enter, hgo, hs, Bool.or_true]; rfl
  have hamo := portAccess_amo (s := s.enter g r) (a := s.cur) (by simpa using hc) hp s.uid rfl
  simp only [State.startAccess, State.enter_cur, State.enter_uid, hturn, hamo, State.operated]
  rfl

/-- What an atomic that has its banks leaves, where no store of its core is on its way. -/
theorem operated_leaves {t : State} (hs : s.pendingStores s.cur = []) {bs : List Byte}
    (hbs : bs = memRead (s.banks s.cur) p.addr p.len) (ht : t = (s.enter g r).operated p o w) :
    Yields s t (p.dest.write bs) (amoFlags o.toNat (leNat bs) (amoOperand (8 * p.len) w)) ∧
      (∀ y, memByte (t.localMem s.cur) y = if p.addr ≤ y ∧ y < p.addr + p.len
        then (leBytes p.len (p.amoResult o w bs)).getD (y - p.addr) 0 else memByte (s.localMem s.cur) y) ∧
      t.empties s.cur = s.empties s.cur ∧ t.pendingStores s.cur = s.pendingStores s.cur ∧
      Kept s { t with cores := s.cores, sups := s.sups } := by
  have hview : memRead ((s.enter g r).localView s.cur s.uid) p.addr p.len = bs := by
    rw [hbs, State.enter_localView, State.localView, hs]
    rfl
  rw [State.operated, State.enter_cur, State.enter_uid, hview] at ht
  subst ht
  refine ⟨yields_fly (g := g) (r := r) ?_ ?_, fun y => ?_, by simp, by simp,
    (kept_served ..).restored (fly_restored _ _ _ _ _ _ (writeClean_restored ..) rfl)⟩
  · rw [cur_writeClean]
    exact State.enter_cur ..
  · rw [ctx_writeClean]
    exact State.enter_ctx_cur ..
  · simp [State.localMem, hs, memByte_memWrite]

end

/-! ## `AMO.L` (O24) -/

/-- The operations of R21 by their codes. -/
theorem amoNew_eq {o : BitVec 4} {k old x new : Nat} (ho : o.toNat ≤ 9) (h0 : o = 0 → new = (old + x) % 2 ^ k)
    (h1 : o = 1 → new = if signedOf k x < signedOf k old then x else old)
    (h2 : o = 2 → new = if signedOf k old < signedOf k x then x else old) (h3 : o = 3 → new = min old x)
    (h4 : o = 4 → new = max old x) (h5 : o = 5 → new = old &&& x) (h6 : o = 6 → new = old ||| x) (h7 : o = 7 → new = old ^^^ x)
    (h8 : o = 8 → new = x) (h9 : o = 9 → new = (fAdd fp32 old x).1) : amoNew o.toNat k old x = new := by
  have hcode {c : BitVec 4} (h : o.toNat = c.toNat) : o = c := BitVec.eq_of_toNat_eq h
  interval_cases h : o.toNat
  exacts [(h0 (hcode rfl)).symm, (h1 (hcode rfl)).symm, (h2 (hcode rfl)).symm, (h3 (hcode rfl)).symm, (h4 (hcode rfl)).symm,
    (h5 (hcode rfl)).symm, (h6 (hcode rfl)).symm, (h7 (hcode rfl)).symm, (h8 (hcode rfl)).symm, (h9 (hcode rfl)).symm]

theorem amoFlags_eq (o : BitVec 4) (old x : Nat) : amoFlags o.toNat old x = if o = 9 then (fAdd fp32 old x).2 else 0 := by
  have hcode : o.toNat = 9 ↔ o = 9 := ⟨fun h => BitVec.eq_of_toNat_eq h, fun h => by rw [h]; rfl⟩
  simp only [amoFlags, hcode]

/-- The access of `AMO.L`. -/
def amoAccess (d : BitVec 6) (o : BitVec 4) (n A : Nat) (w : Word) : PortAccess :=
  { addr := A, len := n, dest := amoDest d o n, lat := 4, amo := some (o, w) }

/-- The register write of the old value: a word is sign-extended, but for `FADD`. -/
theorem write_amoDest {bs : List Byte} {n : Nat} (h : bs.length = n) (d : BitVec 6) (o : BitVec 4) : (amoDest d o n).write bs =
    [.x d (if n = 4 ∧ o ≠ 9 then BitVec.ofInt 64 (signedOf 32 (leNat bs)) else BitVec.ofNat 64 (leNat bs))] := by
  rw [amoDest, write_x h]
  by_cases hn : n = 4 ∧ o ≠ 9
  · simp [hn]
  · rw [if_neg hn, if_neg (by simpa using hn)]

section
variable {s : State} {p : BitVec 4} {d a : BitVec 6} {o : BitVec 4} {z : BitVec 2} {n A : Nat}

/-- The syllable of `AMO.L`. -/
def amoLSyl (p : BitVec 4) (d a : BitVec 6) (o : BitVec 4) (z : BitVec 2) : Syl :=
  { memSyl p { xr := [d, a], xw := [d], localWrite := true } (fun s =>
      s.startAccess (amoAccess d o (sizeOf2 z) (s.rx a).toNat (s.rx d))) with
    early := [a],
    cause := fun s => orCause (localCause (s.rx a).toNat (sizeOf2 z) (sizeOf2 z) s) (faddCause o s),
    wait := arWait (fun s => ((s.rx a).toNat : Int)) (sizeOf2 z) }

theorem exec_amoL_syl : exec (.amoL p d a o z) s = issue (amoLSyl p d a o z) s := by
  rw [exec_amoL, execAmoL]
  rfl

theorem amoL_starts (hf : s.free 2 p { xr := [d, a], xw := [d], localWrite := true } = true) (hn : n = 2 ^ z.toNat)
    (hA : A = (s.rx a).toNat) (hcause : localCause A n n s = none) (hfadd : faddCause o s = none) (hb : s.portBusy = false)
    (ha : s.arTouches A n = false) : exec (.amoL p d a o z) s =
      .next ((s.enter p { xr := [d, a], xw := [d], localWrite := true }).startAccess (amoAccess d o n A (s.rx d))) := by
  obtain rfl : n = sizeOf2 z := hn
  subst hA
  have hact : (amoLSyl p d a o z).act (s.enter p { xr := [d, a], xw := [d], localWrite := true }) =
      (s.enter p { xr := [d, a], xw := [d], localWrite := true }).startAccess
        (amoAccess d o (sizeOf2 z) (s.rx a).toNat (s.rx d)) := by
    change State.startAccess _ (amoAccess d o _ (State.rx _ a).toNat (State.rx _ d)) = _
    rw [State.enter_rx, State.enter_rx]
  have hcauses : (amoLSyl p d a o z).cause s = none := by
    change orCause _ _ = none
    rw [hcause, hfadd]
    rfl
  have hwait : arWait (fun s => ((s.rx a).toNat : Int)) (sizeOf2 z) s = .go := arWait_go hb ha
  rw [exec_amoL_syl, ← hact]
  exact issue_act (y := amoLSyl p d a o z) (.inl rfl) rfl hf hcauses hwait

end

/-- Settles O24: `AMO.L` is one access of the memory port, deferred or made at once (`startAccess_operated`). -/
theorem localAtomics : Obligations.LocalAtomics := by
  intro s p d a o z hf hz ho hfadd n A hn hA hal hl hb ha
  have hcause : localCause A n n s = none :=
    localCause_none (hn ▸ by positivity) (by exact_mod_cast hal) (by positivity) (by exact_mod_cast hl)
  have hdet : faddCause o s = none := by
    rw [faddCause, if_neg]
    rintro ⟨h9, hd⟩
    rw [(hfadd h9).2] at hd
    exact absurd hd (by decide)
  have hstarts := amoL_starts hf hn hA hcause hdet hb ha
  constructor
  · intro hwaits
    refine defers_of_startAccess hstarts ?_
    rcases hwaits with hgo | ⟨st, hst, hid⟩
    · change (portGoes s A n && _) = false
      rw [hgo]
      rfl
    · have hs : s.storesWritten s.cur s.uid = false := by
        rw [State.storesWritten, Bool.not_eq_false', List.any_eq_true]
        exact ⟨st, hst, decide_eq_true hid⟩
      rw [hs]
      exact Bool.and_false _
  · intro hgo hs hc old x new hold hx h0 h1 h2 h3 h4 h5 h6 h7 h8 h9
    have hwritten : s.storesWritten s.cur s.uid = true := by rw [State.storesWritten, hs]; rfl
    rw [startAccess_operated hgo hwritten hc rfl] at hstarts
    obtain ⟨hyields, hrest⟩ := operated_leaves (p := amoAccess d o n A (s.rx d)) hs rfl rfl
    have hnew : (amoAccess d o n A (s.rx d)).amoResult o (s.rx d) (memRead (s.banks s.cur) A n) = new := by
      subst hold hx
      exact amoNew_eq ho h0 h1 h2 h3 h4 h5 h6 h7 h8 h9
    refine ⟨_, hstarts, ?_, ?_⟩
    · subst hold hx
      rw [← amoFlags_eq, memNat, ← write_amoDest (length_memRead ..)]
      exact hyields
    · rw [← hnew]
      exact hrest

end Sys2Proof.Machine
end

section
/-! PROOF. Credits that the ring keeps behind the host's accesses: the events of firings (O54) and of ports (O55). -/

namespace Sys2Proof.Machine

/-! ## The host's access before a credit message -/

/-- The host's access to the first die of the package at position 0, which is the landing too, arrives there in cycle 40; a later message
of ordered control from the landing to that die arrives behind it (R379, R380). -/
def State.hostAhead (s : State) : State :=
  s.modPkg 0 (fun p => { p with hostUp := true, landing := some 0, hdmIn := [{ off := 0, die := 0, write := none, due := 40 }] })

/-- A channel from the slot beside slot 0, in its core. -/
def nearChan : Chan :=
  { src := { slot0 with slot := 1 }, port := 0, expected := 0, next := 0, bad := 0, dup := 0, freed := none }

/-- The credit message that slot 0 returns on `nearChan`, for the packet of number 0. -/
def nearCredit : Event := .creditMessage { slot := nearChan.src, port := nearChan.port, chan := 0 } 0

/-- The agenda behind an instruction or an event. -/
def agendaAfter (i : Instr) (s : State) : List Due :=
  match exec i s with
  | .next t => t.agenda
  | _ => []

theorem agendaAfter_of_exec {i : Instr} {s t : State} (h : exec i s = .next t) : agendaAfter i s = t.agenda := by
  rw [agendaAfter, h]

/-- Where the agenda holds the credit message of cycle 40 alone, no state behind the event holds it two cycles from reset. -/
theorem nearCredit_late {i : Instr} {s t : State} (hexec : exec i s = .next t)
    (hagenda : agendaAfter i s = [{ cycle := 40, pri := priArrive, ev := nearCredit }]) :
    Due.mk 2 priArrive nearCredit ∉ t.agenda := by
  rw [← agendaAfter_of_exec hexec, hagenda]
  decide

/-! ## The checkpoint (O54) -/

/-- A checkpoint of slot 0 on the package at position 3, for which a credit waits (R433). -/
def nearCkpt : CkptOut := { spare := 3, addr := 0, image := [1], credits := [(nearChan, 0)] }

/-- Slot 0 has a checkpoint under way, and the host an access to its die. -/
def checkpointing : State := (State.reset.modSlot slot0 (fun v => { v with ckpts := [nearCkpt] })).hostAhead

theorem agenda_checkpointing : agendaAfter (.checkpointWriteDone slot0) checkpointing =
    [{ cycle := 40, pri := priArrive, ev := nearCredit }] := by decide

/-- Refutes O54: it lets the credits that waited for a checkpoint reach a producer of the same core two cycles later, whatever the ring
carries. At `checkpointing` the credit arrives behind the host's access, in cycle 40 (`State.hostBefore`). -/
theorem not_firingEvents : ¬ Obligations.FiringEvents := by
  intro h
  obtain ⟨-, -, -, -, -, -, -, -, -, -, -, -, hckpt, -⟩ := h checkpointing slot0.core (.stage slot0) slot0 _ rfl
  obtain ⟨t, hexec, -, -, -, hdue⟩ := hckpt nearCkpt [] _ rfl rfl
  exact nearCredit_late hexec agenda_checkpointing (hdue (nearChan, 0) List.mem_cons_self rfl)

/-! ## The killed stage (O55) -/

/-- An input port with `nearChan`. -/
def nearPort : InPort :=
  { rate := 1, bufs := 2, size := 4096, base := 0, merge := false, chans := [nearChan], ring := [], held := [] }

/-- The stage of slot 0 has been killed, and the host has an access to its die. -/
def killedStage : State :=
  (State.reset.modSlot slot0 (fun v => { v with killed := true, ins := [(0, nearPort)] })).hostAhead

/-- Where the packet arrives, and the packet: its number is 0. -/
def nearDst : PortId := { slot := slot0, port := 0, chan := 0 }
@[inherit_doc nearDst] def nearPacket : Packet := { w0 := 0, w1 := 0, w2 := 0, w3 := 0, payload := [] }

theorem reaches_killedStage : Reaches killedStage nearDst nearPacket nearPort nearChan :=
  ⟨fun _ h => (nomatch h), rfl, rfl⟩

theorem agenda_killedStage : agendaAfter (.packetArrival nearDst nearPacket) killedStage =
    [{ cycle := 40, pri := priArrive, ev := nearCredit }] := by decide

/-- Refutes O55: it lets the credit for a packet that a killed stage discards reach a producer of the same core two cycles later, whatever
the ring carries. At `killedStage` the credit arrives behind the host's access, in cycle 40 (`State.hostBefore`). -/
theorem not_portEvents : ¬ Obligations.PortEvents := by
  intro h
  obtain ⟨-, -, -, hkilled, -⟩ := h killedStage slot0 _ _ _ rfl rfl rfl
  obtain ⟨t, hexec, -, hdue⟩ := hkilled nearDst nearPacket nearPort nearChan rfl reaches_killedStage rfl (by decide)
  exact nearCredit_late hexec agenda_killedStage (hdue rfl)

end Sys2Proof.Machine
end

section
/-! PROOF. Results that land together, and the CTL instructions that read packets (O20). -/

namespace Sys2Proof.Machine

/-! ## Results that land together -/

@[simp] theorem Ctx.flag_zero (c : Ctx) : c.flag 0#6 = c := by
  simp [Ctx.flag, Ctx.modCr]

/-- Two results of one unit and cycle are put in their place side by side. -/
theorem insertFlight_pair {f g : Flight} (hdue : g.due = f.due) (hsrc : g.src = f.src) (l : List Flight) :
    ∃ a b, l = a ++ b ∧ insertFlight g (insertFlight f l) = a ++ [f, g] ++ b := by
  induction l with
  | nil => exact ⟨[], [], rfl, by simp [insertFlight, hdue, hsrc]⟩
  | cons x r ih =>
    by_cases hx : x.due < f.due ∨ (x.due = f.due ∧ landPri x.src ≤ landPri f.src)
    · obtain ⟨a, b, hr, hins⟩ := ih
      refine ⟨x :: a, b, by rw [hr]; rfl, ?_⟩
      rw [insertFlight, if_pos hx, insertFlight, hdue, hsrc, if_pos hx, hins]
      rfl
    · refine ⟨[], x :: r, rfl, ?_⟩
      rw [insertFlight, if_neg hx, insertFlight, hdue, hsrc, if_pos (.inr ⟨rfl, le_rfl⟩), insertFlight, hdue, hsrc, if_neg hx]
      rfl

/-- A result for other registers lands before or behind those of a list. -/
theorem foldl_land_comm {f : Flight} {l : List Flight}
    (h : ∀ g ∈ l, g.writes.all (fun w => f.writes.all (fun u => !w.same u)) = true) (c : Ctx) :
    l.foldl (fun c g => Flight.land g c) (f.land c) = f.land (l.foldl (fun c g => Flight.land g c) c) := by
  induction l generalizing c with
  | nil => rfl
  | cons g r ih =>
    rw [List.foldl_cons, List.foldl_cons, Flight.land_comm (h g List.mem_cons_self), ih fun x hx => h x (List.mem_cons_of_mem _ hx)]

/-- Results put among those in flight that land together as the one result `f` of writes and flags. -/
theorem yields_of_landing {s t : State} {f : Flight} {fs : List Flight} (hvisible : (t.ctx s.cur).visible = s.me.visible)
    (hland : ∃ a b, s.me.landing = a ++ b ∧ (t.ctx s.cur).landing = a ++ fs ++ b)
    (hfs : ∀ c : Ctx, fs.foldl (fun c g => Flight.land g c) c = f.land c) : Yields s t f.writes f.flags := by
  intro hclear
  obtain ⟨a, b, hs, ht⟩ := hland
  have hb : ∀ g ∈ b, g.writes.all (fun w => f.writes.all (fun u => !w.same u)) = true := by
    intro g hg
    rw [State.clear, List.all_eq_true] at hclear
    exact hclear g (landing_mem (hs ▸ List.mem_append_right a hg))
  have hs' : s.settled s.cur = (a ++ b).foldl (fun c g => Flight.land g c) { s.me with flights := [] } := by
    rw [State.settled_eq, ← hs]
    rfl
  have ht' : (t.settled s.cur).visible = ((a ++ fs ++ b).foldl (fun c g => Flight.land g c) { s.me with flights := [] }).visible := by
    rw [State.settled_eq, ht]
    exact landing_visible _ hvisible
  rw [ht', hs', List.foldl_append, List.foldl_append, hfs, foldl_land_comm hb, ← List.foldl_append]
  rfl

/-- One result put in flight. -/
theorem yields_one {s t : State} {f : Flight} (hvisible : (t.ctx s.cur).visible = s.me.visible)
    (hflights : (t.ctx s.cur).flights = s.me.flights ++ [f]) : Yields s t f.writes f.flags := by
  refine yields_of_landing (fs := [f]) hvisible ?_ fun _ => rfl
  obtain ⟨a, b, hl, hins⟩ := insertFlight_split f s.me.landing
  refine ⟨a, b, hl, ?_⟩
  rw [Ctx.landing, hflights, List.foldl_append, List.append_assoc]
  exact hins

/-- Two results of one unit and cycle put in flight, without flags. -/
theorem yields_two {s t : State} {f g : Flight} (hvisible : (t.ctx s.cur).visible = s.me.visible)
    (hflights : (t.ctx s.cur).flights = s.me.flights ++ [f, g]) (hdue : g.due = f.due) (hsrc : g.src = f.src)
    (hf : f.flags = 0) (hg : g.flags = 0) : Yields s t (f.writes ++ g.writes) 0 := by
  refine yields_of_landing (f := { f with writes := f.writes ++ g.writes, flags := 0 }) (fs := [f, g]) hvisible ?_ fun c => ?_
  · obtain ⟨a, b, hl, hins⟩ := insertFlight_pair hdue hsrc s.me.landing
    refine ⟨a, b, hl, ?_⟩
    rw [Ctx.landing, hflights, List.foldl_append]
    exact hins
  · simp [Flight.land, hf, hg, applyWrites]

/-! ## A CTL syllable of a stage -/

/-- The result that a CTL syllable puts in flight under an identity. -/
def State.ctlFlight (s : State) (id : Nat) (d : BitVec 6) (w : Word) : Flight :=
  { id := id, due := s.cycle + 1, src := .control, writes := [.x d w], flags := 0, access := none }

theorem nextX_flights (s : State) (d : BitVec 6) (w : Word) :
    ((s.nextX d w).ctx s.cur).flights = (s.ctx s.cur).flights ++ [s.ctlFlight s.uid d w] := by
  simp [State.nextX, State.fly, State.flyAs, State.ctlFlight]

@[simp] theorem nextX_visible (s : State) (d : BitVec 6) (w : Word) (a : Agent) :
    ((s.nextX d w).ctx a).visible = (s.ctx a).visible := by
  simp only [State.nextX, State.fly, State.flyAs, State.tick1_ctx, State.schedule_ctx, State.ctx_modCtx]
  split
  case isTrue h => rw [h]; rfl
  case isFalse => rfl

@[simp] theorem nextX_cur (s : State) (d : BitVec 6) (w : Word) : (s.nextX d w).cur = s.cur := rfl
@[simp] theorem nextX_slot (s : State) (d : BitVec 6) (w : Word) (i : SlotId) : (s.nextX d w).slot i = s.slot i := rfl

theorem nextX_nextX_flights (s : State) (d h : BitVec 6) (w x : Word) : (((s.nextX d w).nextX h x).ctx s.cur).flights =
    (s.ctx s.cur).flights ++ [s.ctlFlight s.uid d w, s.ctlFlight (s.uid + 1) h x] := by
  have hsecond := nextX_flights (s.nextX d w) h x
  rw [nextX_cur, nextX_flights, List.append_assoc] at hsecond
  exact hsecond

theorem kept_nextX (s : State) (d : BitVec 6) (w : Word) : Kept s (s.nextX d w) := kept_fly ..

theorem nextX_ctx_ne {s : State} {a : Agent} (h : a ≠ s.cur) (d : BitVec 6) (w : Word) : (s.nextX d w).ctx a = s.ctx a := by
  simp [State.nextX, State.fly, State.flyAs, State.ctx_modCtx, h]

/-- A syllable that is free and puts one word in flight for the next bundle writes it. -/
theorem writes_of_nextX {i : Instr} {s : State} {y : Syl} {d : BitVec 6} {w : Word} (h : exec i s = issue y s) (hp : y.priv = false)
    (ht : y.typeOk = true) (hf : s.free y.cls y.guard y.regs = true) (hc : y.cause s = none) (hw : y.wait s = .go)
    (ha : y.act (s.enter y.guard y.regs) = (s.enter y.guard y.regs).nextX d w) : Writes i s [.x d w] 0 := by
  refine writes_of_fly (src := .control) (lat := 1) h (.inl hp) ht hf hc hw ?_
  rw [ha, State.nextX, State.enter_cur]

section
variable {s : State} {i : SlotId}

theorem mySlot_of_stage (h : s.cur = .stage i) : s.mySlot = i := by rw [State.mySlot, h]

theorem modMySlot_of_stage (h : s.cur = .stage i) (f : Slot → Slot) : s.modMySlot f = s.modSlot i f := by rw [State.modMySlot, h]

theorem myIn_of_stage (h : s.cur = .stage i) (n : Nat) : s.myIn n = tfind (s.slot i).ins n := by
  rw [State.myIn, mySlot_of_stage h]

theorem hasIn_of_stage (h : s.cur = .stage i) (n : Nat) : s.hasIn n = (tfind (s.slot i).ins n).isSome := by
  rw [State.hasIn, mySlot_of_stage h, h]
  rfl

theorem hasOut_of_stage (h : s.cur = .stage i) (n : Nat) : s.hasOut n = (tfind (s.slot i).outs n).isSome := by
  rw [State.hasOut, mySlot_of_stage h, h]
  rfl

theorem enter_stage (h : s.cur = .stage i) (g : BitVec 4) (r : Regs) : (s.enter g r).cur = .stage i := by
  rw [State.enter_cur, h]

end

/-! ## `TAKE` (R71) -/

/-- The first packet of a ring that is not taken is taken where it is data, and stays else. -/
theorem untaken_takeFirst {l r : List Buf} {b : Buf} (h : l.filter (fun b => !b.taken) = b :: r) :
    (takeFirst l).filter (fun b => !b.taken) = if b.kind.toNat < 2 then r else b :: r := by
  induction l with
  | nil => exact absurd h (by simp)
  | cons x l ih =>
    by_cases hx : x.taken = true
    · rw [List.filter_cons_of_neg (by simp [hx])] at h
      rw [takeFirst, if_pos hx, List.filter_cons_of_neg (by simp [hx]), ih h]
    · rw [List.filter_cons_of_pos (by simp [hx])] at h
      obtain ⟨rfl, rfl⟩ := List.cons.inj h
      rw [takeFirst, if_neg hx]
      by_cases hdata : x.kind.toNat < 2 <;> simp [isData, hdata, hx]

section
variable {s : State} {p : BitVec 4} {d h : BitVec 6} {n : BitVec 3} {i : SlotId} {q : InPort}

/-- The syllable of `TAKE`. -/
def takeSyl (s : State) (p : BitVec 4) (d h : BitVec 6) (n : BitVec 3) : Syl :=
  let first := fun (s : State) => ((s.myIn n.toNat).map (fun q => q.untaken)).getD []
  { ctlSyl p { xw := [d, h] } (fun s =>
      match s.myIn n.toNat, first s with
      | some q, b :: _ =>
        ((s.modMySlot (fun v => { v with ins := tset v.ins n.toNat { q with ring := takeFirst q.ring } })).nextX
          d (toWord b.addr)).nextX h b.word0
      | _, _ => s) with
    typeOk := s.hasIn n.toNat,
    wait := fun s => if first s = [] then .hold (fun s => s) else .go }

theorem exec_take_syl : exec (.take p d h n) s = issue (takeSyl s p d h n) s := by
  rw [exec_take, execTake]
  rfl

/-- The state behind a `TAKE` that finds the packet `b`. -/
def State.taking (s : State) (i : SlotId) (d h : BitVec 6) (n : Nat) (q : InPort) (b : Buf) : State :=
  ((s.modSlot i (fun v => { v with ins := tset v.ins n { q with ring := takeFirst q.ring } })).nextX d (toWord b.addr)).nextX h b.word0

theorem takeSyl_act {u : State} {b : Buf} {r : List Buf} (hcur : u.cur = .stage i) (hq : tfind (u.slot i).ins n.toNat = some q)
    (hb : q.untaken = b :: r) : (takeSyl s p d h n).act u = u.taking i d h n.toNat q b := by
  have hin : u.myIn n.toNat = some q := (myIn_of_stage hcur _).trans hq
  simp only [takeSyl, ctlSyl, hin, Option.map_some, Option.getD_some, hb, modMySlot_of_stage hcur]
  rfl

theorem takeSyl_wait (hcur : s.cur = .stage i) (hq : tfind (s.slot i).ins n.toNat = some q) :
    (takeSyl s p d h n).wait s = if q.untaken = [] then .hold (fun s => s) else .go := by
  have hin : s.myIn n.toNat = some q := (myIn_of_stage hcur _).trans hq
  simp only [takeSyl, hin, Option.map_some, Option.getD_some]

theorem takeSyl_typeOk (hcur : s.cur = .stage i) : (takeSyl s p d h n).typeOk = (tfind (s.slot i).ins n.toNat).isSome :=
  hasIn_of_stage hcur _

theorem exec_take_found {b : Buf} {r : List Buf} (hcur : s.cur = .stage i) (hq : tfind (s.slot i).ins n.toNat = some q)
    (hf : s.free 0 p { xw := [d, h] } = true) (hb : q.untaken = b :: r) :
    exec (.take p d h n) s = .next ((s.enter p { xw := [d, h] }).taking i d h n.toNat q b) := by
  have hact := takeSyl_act (s := s) (p := p) (d := d) (h := h) (enter_stage hcur p { xw := [d, h] })
    (by rwa [State.enter_slot]) hb
  rw [exec_take_syl, ← hact]
  exact issue_act (y := takeSyl s p d h n) (.inl rfl) (by rw [takeSyl_typeOk hcur, hq]; rfl) hf rfl
    ((takeSyl_wait hcur hq).trans (if_neg (by simp [hb])))

theorem exec_take_empty (hcur : s.cur = .stage i) (hq : tfind (s.slot i).ins n.toNat = some q)
    (hf : s.free 0 p { xw := [d, h] } = true) (hb : q.untaken = []) : exec (.take p d h n) s = .next s.hold := by
  have hanswer := issue_answer (y := takeSyl s p d h n) (.inl rfl) (by rw [takeSyl_typeOk hcur, hq]; rfl) hf rfl
  rw [exec_take_syl, hanswer, takeSyl_wait hcur hq, if_pos hb]
  rfl

theorem exec_take_undeclared (hcur : s.cur = .stage i) (hq : tfind (s.slot i).ins n.toNat = none) :
    exec (.take p d h n) s = .next (s.raise 1 0x02 s.sylValue) := by
  rw [exec_take_syl]
  exact issue_type (.inl rfl) (by rw [takeSyl_typeOk hcur, hq]; rfl)

theorem slot_taking (u : State) (b : Buf) (j : SlotId) : (u.taking i d h n.toNat q b).slot j =
    if j = i then { u.slot i with ins := tset (u.slot i).ins n.toNat { q with ring := takeFirst q.ring } } else u.slot j := by
  rw [State.taking, nextX_slot, nextX_slot, State.slot_modSlot]

theorem taking_flights (u : State) (b : Buf) : ((u.taking i d h n.toNat q b).ctx u.cur).flights =
    u.me.flights ++ [u.ctlFlight u.uid d (toWord b.addr), u.ctlFlight (u.uid + 1) h b.word0] :=
  nextX_nextX_flights ..

theorem taking_visible (u : State) (b : Buf) (a : Agent) : ((u.taking i d h n.toNat q b).ctx a).visible = (u.ctx a).visible := by
  rw [State.taking, nextX_visible, nextX_visible, State.ctx_modSlot]

theorem taking_restored (u : State) (b : Buf) : { u.taking i d h n.toNat q b with slots := u.slots } =
    (u.nextX d (toWord b.addr)).nextX h b.word0 := rfl

theorem yields_taking {g : BitVec 4} {r : Regs} {b : Buf} :
    Yields s ((s.enter g r).taking i d h n.toNat q b) [.x d (toWord b.addr), .x h b.word0] 0 := by
  have hflights := taking_flights (i := i) (d := d) (h := h) (n := n) (q := q) (s.enter g r) b
  rw [State.enter_cur, State.enter_flights] at hflights
  refine yields_two ?_ hflights rfl rfl rfl rfl
  rw [taking_visible, State.enter_ctx_cur, State.enter_visible]

theorem kept_taking {g : BitVec 4} {r : Regs} {b : Buf} :
    Kept s { (s.enter g r).taking i d h n.toNat q b with slots := s.slots } := by
  rw [← State.enter_slots s g r, taking_restored]
  exact (enter_kept s g r).trans ((kept_nextX ..).trans (kept_nextX ..) (nextX_cur ..)) (State.enter_cur ..)

end

/-! ## `PEEK` (R74) -/

section
variable {s : State} {p : BitVec 4} {d a : BitVec 6} {n : BitVec 3} {i : SlotId} {q : InPort}

/-- The syllable of `PEEK`. -/
def peekSyl (s : State) (p : BitVec 4) (d a : BitVec 6) (n m : BitVec 3) : Syl :=
  { ctlSyl p { xr := if m = 0 then [a] else [], xw := [d] } (fun s => s.nextX d (s.peekValue m.toNat a n.toNat)) with
    typeOk := if m = 2 then s.hasOut n.toNat else s.hasIn n.toNat }

/-- `PEEK` of a declared port writes the value that it reads as it enters. -/
theorem writes_peek {m : BitVec 3} {r : Regs} {w : Word} (hr : r = { xr := if m = 0 then [a] else [], xw := [d] })
    (hf : s.free 0 p r = true) (ht : (if m = 2 then s.hasOut n.toNat else s.hasIn n.toNat) = true)
    (hw : (s.enter p r).peekValue m.toNat a n.toNat = w) : Writes (.peek p d a n m) s [.x d w] 0 := by
  subst hr hw
  exact writes_of_nextX (y := peekSyl s p d a n m) (exec_peek ..) rfl ht hf rfl rfl rfl

/-- What `PEEK` reads of a declared input port. -/
theorem peekValue_in (hcur : s.cur = .stage i) (hq : tfind (s.slot i).ins n.toNat = some q) (g : BitVec 4) (r : Regs) (m : Nat) :
    (s.enter g r).peekValue m a n.toNat =
      if m = 0 then ((q.untaken[(s.rx a).toNat]?).map (fun b => toWord b.addr)).getD (BitVec.allOnes 64)
      else if m = 1 then toWord q.pending.length
      else if m = 3 then q.status
      else ((tfind (s.slot i).outs n.toNat).map (fun o => toWord o.credits)).getD 0 := by
  have hcur' := enter_stage hcur g r
  rw [State.peekValue, myIn_of_stage hcur', mySlot_of_stage hcur', State.enter_slot, State.enter_rx, hq]

/-- What `PEEK` reads of a declared output port. -/
theorem peekValue_credits (hcur : s.cur = .stage i) {o : OutPort} (ho : tfind (s.slot i).outs n.toNat = some o) (g : BitVec 4)
    (r : Regs) : (s.enter g r).peekValue 2 a n.toNat = toWord o.credits := by
  have hcur' := enter_stage hcur g r
  rw [State.peekValue, myIn_of_stage hcur', mySlot_of_stage hcur', State.enter_slot, ho]
  cases tfind (s.slot i).ins n.toNat <;> rfl

theorem writes_peek_in (hcur : s.cur = .stage i) (hq : tfind (s.slot i).ins n.toNat = some q) :
    (s.free 0 p { xr := [a], xw := [d] } = true → Writes (.peek p d a n 0) s
      [.x d (((q.untaken[(s.rx a).toNat]?).map (fun b => BitVec.ofNat 64 b.addr)).getD (BitVec.allOnes 64))] 0) ∧
    (s.free 0 p { xw := [d] } = true → Writes (.peek p d a n 1) s [.x d (BitVec.ofNat 64 q.pending.length)] 0 ∧
      Writes (.peek p d a n 3) s [.x d q.status] 0) := by
  have hin : s.hasIn n.toNat = true := by rw [hasIn_of_stage hcur, hq]; rfl
  exact ⟨fun hf => writes_peek rfl hf hin (peekValue_in hcur hq ..),
    fun hf => ⟨writes_peek rfl hf hin (peekValue_in hcur hq ..), writes_peek rfl hf hin (peekValue_in hcur hq ..)⟩⟩

theorem writes_peek_out (hcur : s.cur = .stage i) {o : OutPort} (ho : tfind (s.slot i).outs n.toNat = some o)
    (hf : s.free 0 p { xw := [d] } = true) : Writes (.peek p d a n 2) s [.x d (BitVec.ofNat 64 o.credits)] 0 :=
  writes_peek rfl hf ((hasOut_of_stage hcur _).trans (by rw [ho]; rfl)) (peekValue_credits hcur ho ..)

end

/-! ## `WTAG` and `END` (R75, R76) -/

section
variable {s : State} {p tag : BitVec 4} (hf : s.free 0 p {} = true)
include hf

theorem exec_wtag_answer : exec (.wtag p tag) s = if s.me.tags.ready.getLsbD tag.toNat = true
    then .next ((s.enter p {}).consumeTag s.cur tag.toNat) else .next s.hold := by
  have hanswer := issue_answer (y := { ctlSyl p {} (fun s => s.consumeTag s.cur tag.toNat) with
    wait := fun s => if s.me.tags.ready.getLsbD tag.toNat then .go else .hold (fun s => s) }) (.inl rfl) rfl hf rfl
  rw [exec_wtag, execWtag, hanswer]
  by_cases hready : s.me.tags.ready.getLsbD tag.toNat = true
  · simp only [Syl.answer, ctlSyl, hready, if_true, State.enter_cur]
  · simp only [Syl.answer, hready, if_false, Bool.false_eq_true]

theorem exec_endFiring_begins {i : SlotId} (hcur : s.cur = .stage i) : exec (.endFiring p) s = .next ((s.enter p {}).modSlot i
    (fun v => { v with ending := some { began := s.cycle, markersSent := false, kill := false } })) := by
  have hact := issue_act (s := s) (y := { ctlSyl p {} (fun s => s.modMySlot
    (fun v => { v with ending := some { began := s.cycle, markersSent := false, kill := false } })) with
    typeOk := !isSup s.cur }) (.inl rfl) (by rw [hcur]; rfl) hf rfl rfl
  rw [exec_endFiring, execEndFiring, hact]
  simp only [ctlSyl, modMySlot_of_stage (enter_stage hcur ..), State.enter_cycle]

end

/-- Settles O20: each instruction issues as its CTL syllable; `TAKE` puts two results in flight that land together (`yields_two`). -/
theorem packetReads : Obligations.PacketReads := by
  intro s p tag d h a n i hcur
  refine ⟨fun q hq => ⟨fun hf => ⟨fun b r hb => ?_, exec_take_empty hcur hq hf⟩, writes_peek_in hcur hq⟩,
    fun o ho => writes_peek_out hcur ho, exec_take_undeclared hcur,
    fun hf => ⟨fun hready => ?_, fun hready => ?_, exec_endFiring_begins hf hcur⟩⟩
  · have hslot := slot_taking (i := i) (d := d) (h := h) (n := n) (q := q) (s.enter p { xw := [d, h] }) b
    simp only [State.enter_slot] at hslot
    refine ⟨_, { q with ring := takeFirst q.ring }, exec_take_found hcur hq hf hb, yields_taking, ?_, untaken_takeFirst hb, rfl, rfl,
      fun m hm => ?_, ?_, fun j hj => ?_, kept_taking⟩
    · rw [hslot, if_pos rfl]
      exact tfind_tset_same ..
    · rw [hslot, if_pos rfl]
      exact tfind_tset_ne _ _ hm
    · rw [hslot, if_pos rfl]
    · rw [hslot, if_neg hj]
  · rw [exec_wtag_answer hf, if_pos hready]
  · rw [exec_wtag_answer hf, if_neg (by simp [hready])]

end Sys2Proof.Machine
end

section
/-! PROOF. What the sending of a packet leaves as it was: the retention area, the other ports, and memory. -/

namespace Sys2Proof.Machine

/-! ## Tables under a map of their items -/

section
variable {κ α β : Type} [DecidableEq κ]

theorem tfind_map_snd (t : Tbl κ α) (f : α → β) (k : κ) : tfind (t.map (fun e => (e.1, f e.2))) k = (tfind t k).map f := by
  induction t with
  | nil => rfl
  | cons e r ih =>
    rw [List.map_cons, tfind, tfind, ih]
    split <;> rfl

theorem tget_map_snd (t : Tbl κ α) (f : α → β) (k : κ) (d : α) : tget (t.map (fun e => (e.1, f e.2))) k (f d) = f (tget t k d) := by
  induction t with
  | nil => rfl
  | cons e r ih =>
    rw [List.map_cons, tget, tget, ih]
    split <;> rfl

/-- A listed item that is replaced by one with the same image leaves the images of the table. -/
theorem map_tset_of_listed {t : Tbl κ α} {k : κ} {a b : α} (h : tfind t k = some b) {g : κ × α → β} (hg : g (k, a) = g (k, b)) :
    (tset t k a).map g = t.map g := by
  induction t with
  | nil => exact absurd h nofun
  | cons e r ih =>
    obtain ⟨k', x⟩ := e
    rw [tfind] at h
    rw [tset]
    by_cases hk : k' = k
    · rw [if_pos hk] at h ⊢
      obtain rfl := Option.some.inj h
      rw [List.map_cons, List.map_cons, hg, hk]
    · rw [if_neg hk] at h ⊢
      rw [List.map_cons, List.map_cons, ih h]

/-- The item of one key changed in every entry. -/
theorem tfind_map_at (t : Tbl κ α) (f : α → α) (n m : κ) :
    tfind (t.map (fun e => if e.1 = n then (e.1, f e.2) else e)) m = if m = n then (tfind t m).map f else tfind t m := by
  induction t with
  | nil => simp [tfind]
  | cons e r ih =>
    obtain ⟨k, x⟩ := e
    by_cases hn : k = n <;> by_cases hm : k = m <;> simp_all [tfind]

end

/-! ## The bytes of every memory but a run -/

section
variable {s t u : State} {d : DieId} {rs qs : List (Nat × Nat)}

theorem SameBut.mono (h : SameBut s t d rs) (hsub : ∀ r ∈ rs, r ∈ qs) : SameBut s t d qs :=
  { h with gallery := fun a ha => h.gallery a fun r hr => ha r (hsub r hr) }

theorem SameBut.trans (h : SameBut s t d rs) (g : SameBut t u d rs) : SameBut s u d rs where
  gallery a ha := (g.gallery a ha).trans (h.gallery a ha)
  homes x a hx := (g.homes x a hx).trans (h.homes x a hx)
  banks x a := (g.banks x a).trans (h.banks x a)
  own x a := (g.own x a).trans (h.own x a)
  windows x a := (g.windows x a).trans (h.windows x a)
  supWindows x a := (g.supWindows x a).trans (h.supWindows x a)
  codes x a := (g.codes x a).trans (h.codes x a)
  hosts x a := (g.hosts x a).trans (h.hosts x a)

theorem SameBytes.but (h : SameBytes s t) : SameBut s t d rs where
  gallery a _ := h.homes _ a
  homes x a _ := h.homes x a
  banks := h.banks
  own := h.own
  windows := h.windows
  supWindows := h.supWindows
  codes := h.codes
  hosts := h.hosts

/-- The memories of two states, by the fields that hold them: all alike, but for the bytes of `rs` in one gallery. -/
theorem sameBut_of_fields
    (hcore : ∀ c, (t.core c).mem = (s.core c).mem ∧ (t.core c).stores = (s.core c).stores ∧ (t.core c).window = (s.core c).window)
    (hsup : ∀ v, (t.sup v).mem = (s.sup v).mem ∧ (t.sup v).stores = (s.sup v).stores ∧ (t.sup v).window = (s.sup v).window)
    (hcode : ∀ e, (t.die e).codeStore = (s.die e).codeStore) (hgallery : ∀ e, e ≠ d → (t.die e).gallery = (s.die e).gallery)
    (hruns : ∀ a, (∀ r ∈ rs, a < r.1 ∨ r.1 + r.2 ≤ a) → memByte (t.die d).gallery a = memByte (s.die d).gallery a)
    (hpkg : ∀ p, (t.pkg p).hostMem = (s.pkg p).hostMem) : SameBut s t d rs where
  gallery := hruns
  homes x a hx := by
    cases x with
    | core c => simp [State.homeMem, hcore]
    | die e => simp [State.homeMem, hgallery e fun h => hx (h ▸ rfl)]
    | ctrl _ => rfl
    | host _ _ => rfl
  banks x a := by cases x <;> simp [State.banks, hcore, hsup]
  own x a := by cases x <;> simp [State.localMem, State.banks, State.pendingStores, hcore, hsup]
  windows c a := by simp [hcore]
  supWindows v a := by simp [hsup]
  codes e a := by simp [hcode]
  hosts p a := by simp [hpkg]

/-- States with the same cores, supervisor cores, dies and packages hold the same bytes. -/
theorem sameBut_of_tables (h1 : t.cores = s.cores) (h2 : t.sups = s.sups) (h3 : t.dies = s.dies) (h4 : t.pkgs = s.pkgs) :
    SameBut s t d rs := by
  apply sameBut_of_fields <;> simp [State.core, State.sup, State.die, State.pkg, h1, h2, h3, h4]

end

/-! ## The buffers of the retention area (R432) -/

/-- The numbers, the buffers and the sizes of a slot's output ports. -/
def Slot.layout (v : Slot) : Tbl Nat (Nat × Nat) := v.outs.map (fun o => (o.1, o.2.bufs, o.2.size))

/-- Those of every slot. -/
def State.portLayout (s : State) : Tbl SlotId (Tbl Nat (Nat × Nat)) := s.slots.map (fun e => (e.1, e.2.layout))

/-- The buffer of the retention area for a packet's number, by the layout of the ports. -/
def bufAt (l : Tbl SlotId (Tbl Nat (Nat × Nat))) (i : SlotId) (n : Nat) (seq : BitVec 32) : Nat :=
  let ports := (l.filter (fun e => e.1.core.die = i.core.die)).flatMap
    (fun e => e.2.map (fun o => (SlotId.order e.1 * 8 + o.1, o.2)))
  let before := (ports.filter (fun o => o.1 < SlotId.order i * 8 + n)).map (fun o => o.2.1 * (32 + o.2.2))
  let mine := match tfind (tget l i []) n with
    | some o => seq.toNat % o.1 * (32 + o.2)
    | none => 0
  0xF000000 + before.sum + mine

theorem tget_portLayout (s : State) (i : SlotId) : tget s.portLayout i [] = (s.slot i).layout :=
  tget_map_snd s.slots Slot.layout i Slot.reset

theorem tfind_layout (v : Slot) (n : Nat) : tfind v.layout n = (tfind v.outs n).map (fun o => (o.bufs, o.size)) :=
  tfind_map_snd v.outs (fun o => (o.bufs, o.size)) n

/-- The place of a buffer depends on the layout of the ports alone. -/
theorem retentionBuf_eq_bufAt (s : State) (i : SlotId) (n : Nat) (seq : BitVec 32) :
    s.retentionBuf i n seq = bufAt s.portLayout i n seq := by
  have hmine : (match tfind (s.slot i).outs n with | some o => seq.toNat % o.bufs * (32 + o.size) | none => 0) =
      match tfind (tget s.portLayout i []) n with | some o => seq.toNat % o.1 * (32 + o.2) | none => 0 := by
    rw [tget_portLayout, tfind_layout]
    cases tfind (s.slot i).outs n <;> rfl
  simp only [State.retentionBuf, bufAt, ← hmine]
  simp only [State.portLayout, Slot.layout, List.filter_map, List.flatMap_map, List.filter_flatMap, List.map_flatMap, List.map_map,
    Function.comp_def] <;>
  rfl

theorem retentionBuf_of_layout {s t : State} (h : t.portLayout = s.portLayout) (i : SlotId) (n : Nat) (seq : BitVec 32) :
    t.retentionBuf i n seq = s.retentionBuf i n seq := by
  rw [retentionBuf_eq_bufAt, retentionBuf_eq_bufAt, h]

/-- A slot that declares an output port is listed. -/
theorem slot_listed {s : State} {i : SlotId} {n : Nat} {o : OutPort} (h : tfind (s.slot i).outs n = some o) :
    tfind s.slots i = some (s.slot i) := by
  cases hv : tfind s.slots i with
  | none =>
    rw [State.slot, tfind_eq_tget, hv] at h
    exact absurd h nofun
  | some v => rw [State.slot, tfind_eq_tget, hv]; rfl

theorem portLayout_setSlot {s : State} {i : SlotId} {w : Slot} (hlisted : tfind s.slots i = some (s.slot i))
    (h : w.layout = (s.slot i).layout) : (s.setSlot i w).portLayout = s.portLayout :=
  map_tset_of_listed hlisted (g := fun e => (e.1, e.2.layout)) (by rw [h])

/-! ## Steps at the ports of one slot -/

/-- What a step at the output ports of a slot leaves: the contexts, the input ports, the other slots, the layout of the ports, and every
byte of memory but runs of the retention area. -/
structure PortStep (s t : State) (i : SlotId) (rs : List (Nat × Nat)) : Prop where
  cur : t.cur = s.cur
  ctxs : t.ctxs = s.ctxs
  ins : (t.slot i).ins = (s.slot i).ins
  others : ∀ j, j ≠ i → t.slot j = s.slot j
  layout : t.portLayout = s.portLayout
  bytes : SameBut s t i.core.die rs

section
variable {s t u : State} {i : SlotId} {rs qs : List (Nat × Nat)}

theorem PortStep.refl (s : State) : PortStep s s i rs :=
  ⟨rfl, rfl, rfl, fun _ _ => rfl, rfl, sameBut_of_tables rfl rfl rfl rfl⟩

theorem PortStep.trans (h : PortStep s t i rs) (g : PortStep t u i rs) : PortStep s u i rs where
  cur := g.cur.trans h.cur
  ctxs := g.ctxs.trans h.ctxs
  ins := g.ins.trans h.ins
  others j hj := (g.others j hj).trans (h.others j hj)
  layout := g.layout.trans h.layout
  bytes := h.bytes.trans g.bytes

theorem PortStep.mono (h : PortStep s t i rs) (hsub : ∀ r ∈ rs, r ∈ qs) : PortStep s t i qs :=
  { h with bytes := h.bytes.mono hsub }

theorem PortStep.ctx (h : PortStep s t i rs) (a : Agent) : t.ctx a = s.ctx a := by rw [State.ctx, h.ctxs]; rfl

/-- A slot's ports changed, with the input ports and the layout as they were. -/
theorem portStep_setSlot {w : Slot} (hlisted : tfind s.slots i = some (s.slot i)) (hins : w.ins = (s.slot i).ins)
    (hlayout : w.layout = (s.slot i).layout) : PortStep s (s.setSlot i w) i rs where
  cur := rfl
  ctxs := rfl
  ins := by rw [State.slot_setSlot_same, hins]
  others j hj := by rw [State.slot_setSlot, if_neg hj]
  layout := portLayout_setSlot hlisted hlayout
  bytes := sameBut_of_tables rfl rfl rfl rfl

/-- A step that leaves the slots is one at the ports where it leaves the contexts and the bytes. -/
theorem portStep_of_slots (hcur : t.cur = s.cur) (hctxs : t.ctxs = s.ctxs) (hslots : t.slots = s.slots)
    (hbytes : SameBut s t i.core.die rs) : PortStep s t i rs where
  cur := hcur
  ctxs := hctxs
  ins := by simp [State.slot, hslots]
  others j _ := by simp [State.slot, hslots]
  layout := by rw [State.portLayout, hslots]; rfl
  bytes := hbytes

end

end Sys2Proof.Machine
end

section
/-! PROOF. Packets made, launched and sent as markers; `MARK` (O21). -/

namespace Sys2Proof.Machine

/-! ## A packet made for a port (R46, R50) -/

/-- The packet that an output port makes. -/
def State.packetOf (s : State) (i : SlotId) (n kind : Nat) (packed : Bool) (round : BitVec 32) (user : Word) (payload : List Byte)
    (o : OutPort) : Packet :=
  { w0 := toWord ((s.ctx (.stage i)).stageId.toNat * 2 ^ 32 + n % 8 * 2 ^ 25 + payload.length % 2 ^ 13 * 2 ^ 12 + bit packed * 2 ^ 5
      + kind % 16),
    w1 := toWord (o.nextSeq.toNat * 2 ^ 32 + o.dport % 8 * 2 ^ 24 + o.dstStage.toNat),
    w2 := toWord ((s.slot i).cfgNum.toNat * 2 ^ 32 + round.toNat),
    w3 := user, payload := payload }

/-- The port behind a packet that it sends (R50). -/
def OutPort.sending (o : OutPort) (k : Packet) : OutPort :=
  { o with credits := o.credits - 1, nextSeq := o.nextSeq + 1, retained := o.retained ++ [k] }

section
variable {s : State} {i : SlotId} {n kind : Nat} {packed : Bool} {round : BitVec 32} {user : Word} {payload : List Byte} {o : OutPort}

theorem makePacket_declared (ho : tfind (s.slot i).outs n = some o) {k : Packet}
    (hk : k = s.packetOf i n kind packed round user payload o) : s.makePacket i n kind packed round user payload =
      ((s.setSlot i { s.slot i with outs := tset (s.slot i).outs n (o.sending k) }).retain i n k, k) := by
  simp only [State.makePacket, ho, hk]
  rfl

theorem bit_lt_two (b : Bool) : bit b < 2 := by cases b <;> decide

theorem packetOf_kind : (s.packetOf i n kind packed round user payload o).kind = kind % 16 := by
  have hpacked := bit_lt_two packed
  simp only [Packet.kind, State.packetOf, wbits, bitsAt, toWord, BitVec.toNat_ofNat]
  omega

theorem packetOf_len : (s.packetOf i n kind packed round user payload o).len = payload.length % 2 ^ 13 := by
  have hpacked := bit_lt_two packed
  simp only [Packet.len, State.packetOf, wbits, bitsAt, toWord, BitVec.toNat_ofNat]
  omega

theorem packetOf_seq : (s.packetOf i n kind packed round user payload o).seq = o.nextSeq := by
  have hseq := o.nextSeq.isLt
  have hstage := o.dstStage.isLt
  apply BitVec.eq_of_toNat_eq
  simp only [Packet.seq, State.packetOf, wbits, bitsAt, toWord, BitVec.toNat_ofNat]
  omega

theorem sent_sending {k : Packet} (h : k.seq = o.nextSeq) : Sent o (o.sending k) k := ⟨rfl, rfl, rfl, h, rfl, rfl, rfl⟩

end

/-! ## The retained packet (R50, R432) -/

theorem header_length (k : Packet) : k.header.length = 32 := by simp [Packet.header]

/-- A packet put in its buffer changes the bytes of the buffer alone. -/
theorem portStep_retain (s : State) (i : SlotId) (n : Nat) (k : Packet) :
    PortStep s (s.retain i n k) i [(s.retentionBuf i n k.seq, 32 + k.payload.length)] := by
  refine portStep_of_slots rfl rfl rfl (sameBut_of_fields (fun _ => ⟨rfl, rfl, rfl⟩) (fun _ => ⟨rfl, rfl, rfl⟩) (fun e => ?_)
    (fun e he => ?_) (fun a ha => ?_) fun _ => rfl)
  · rw [State.retain, State.putPieces, State.die_modDie]
    split
    case isTrue h => rw [h]
    case isFalse => rfl
  · rw [State.retain, State.putPieces, State.die_modDie, if_neg he]
  · have hout := ha _ List.mem_cons_self
    simp only [State.retain, State.putPieces, State.die_modDie_same, writePieces, List.foldl_cons, List.foldl_nil, Nat.add_zero]
    rw [memByte_memWrite, if_neg]
    rw [List.length_append, header_length]
    omega

theorem layout_tset_outs {v : Slot} {n : Nat} {o o' : OutPort} (ho : tfind v.outs n = some o) (hbufs : o'.bufs = o.bufs)
    (hsize : o'.size = o.size) : ({ v with outs := tset v.outs n o' } : Slot).layout = v.layout :=
  map_tset_of_listed ho (g := fun o => (o.1, o.2.bufs, o.2.size)) (by rw [hbufs, hsize])

/-! ## Messages (R413) -/

/-- A message put on its way: the agenda and the messages that wait, and at most a drop that is counted and reported. -/
structure Messaged (s t : State) : Prop where
  rest : ∃ agenda held pkgs sups, t = { s with agenda := agenda, heldFlits := held, pkgs := pkgs, sups := sups }
  sups : ∀ v, (t.sup v).mem = (s.sup v).mem ∧ (t.sup v).stores = (s.sup v).stores ∧ (t.sup v).window = (s.sup v).window
  hosts : ∀ p, (t.pkg p).hostMem = (s.pkg p).hostMem

section
variable {s t u : State}

theorem Messaged.trans (h : Messaged s t) (g : Messaged t u) : Messaged s u := by
  refine ⟨?_, fun v => ?_, fun p => (g.hosts p).trans (h.hosts p)⟩
  · obtain ⟨_, _, _, _, rfl⟩ := h.rest
    obtain ⟨_, _, _, _, rfl⟩ := g.rest
    exact ⟨_, _, _, _, rfl⟩
  · obtain ⟨h1, h2, h3⟩ := h.sups v
    obtain ⟨g1, g2, g3⟩ := g.sups v
    exact ⟨g1.trans h1, g2.trans h2, g3.trans h3⟩

theorem messaged_of_agenda {agenda : List Due} {held : List HeldFlit} :
    Messaged s { s with agenda := agenda, heldFlits := held } :=
  ⟨⟨_, _, _, _, rfl⟩, fun _ => ⟨rfl, rfl, rfl⟩, fun _ => rfl⟩

theorem messaged_modPkg {n : Nat} {f : Pkg → Pkg} (h : ∀ p, (f p).hostMem = p.hostMem) : Messaged s (s.modPkg n f) := by
  refine ⟨⟨_, _, _, _, rfl⟩, fun _ => ⟨rfl, rfl, rfl⟩, fun p => ?_⟩
  rw [State.pkg_modPkg]
  split
  case isTrue hp => rw [h, hp]
  case isFalse => rfl

theorem messaged_queueEvent (v : SupId) (e : Word) : Messaged s (s.queueEvent v e) := by
  refine ⟨⟨_, _, _, _, rfl⟩, fun u => ?_, fun _ => rfl⟩
  rw [State.queueEvent, State.sup_modSup]
  split
  case isTrue hu =>
    rw [hu]
    split <;> exact ⟨rfl, rfl, rfl⟩
  case isFalse => exact ⟨rfl, rfl, rfl⟩

theorem messaged_tellManagement (d : DieId) (e : Word) : Messaged s (s.tellManagement d e) := messaged_modPkg fun _ => rfl

theorem messaged_dieEvent (d : DieId) (code unit : Nat) (slot : Option SlotId) (aux addr : Nat) :
    Messaged s (s.dieEvent d code unit slot aux addr) :=
  (messaged_queueEvent ..).trans (messaged_tellManagement ..)

theorem messaged_dropAt (pkg port src : Nat) : Messaged s (s.dropAt pkg port src) := by
  obtain ⟨report, t, ht, hdrop⟩ : ∃ (report : Bool) (t : State), t = s.modPkg pkg (fun p => { p with
      rejects := p.rejects + 1, dropStamp := if report then tset p.dropStamp src s.cycle else p.dropStamp }) ∧
      s.dropAt pkg port src = if report then t.dieEvent { pkg := pkg, die := port / 8 } 0x42 0 none port src else t :=
    ⟨_, _, rfl, rfl⟩
  have hcount : Messaged s t := ht ▸ messaged_modPkg fun _ => rfl
  rw [hdrop]
  split
  · exact hcount.trans (messaged_dieEvent ..)
  · exact hcount

/-- A packet on its way is no request: where it finds no way it is lost. -/
theorem messaged_sendFlit_packet (src dst : DieId) (base pri : Nat) (port : PortId) (k : Packet) :
    Messaged s (s.sendFlit src dst base pri (.packetArrival port k)) := by
  simp only [State.sendFlit, State.sendTrips, State.sendClass]
  split
  case h_1 =>
    split
    · exact messaged_dropAt ..
    · split
      · exact messaged_of_agenda
      · exact messaged_of_agenda
  case h_2 => exact messaged_of_agenda
  case h_3 => exact messaged_of_agenda

theorem Messaged.portStep {i : SlotId} {rs : List (Nat × Nat)} (h : Messaged s t) : PortStep s t i rs := by
  have hsups := h.sups
  have hhosts := h.hosts
  obtain ⟨agenda, held, pkgs, sups, rfl⟩ := h.rest
  exact portStep_of_slots rfl rfl rfl (sameBut_of_fields (fun _ => ⟨rfl, rfl, rfl⟩) hsups (fun _ => rfl) (fun _ _ => rfl)
    (fun _ _ => rfl) hhosts)

theorem Messaged.slot (h : Messaged s t) (i : SlotId) : t.slot i = s.slot i := by
  obtain ⟨_, _, _, _, rfl⟩ := h.rest
  rfl

end

/-! ## One port of a slot (R50, R57, R73) -/

/-- A step at the ports of a slot that makes `o'` of its output port `o` of number `n`, and leaves the other ports. -/
structure SendsOn (s t : State) (i : SlotId) (n : Nat) (rs : List (Nat × Nat)) (o o' : OutPort) : Prop where
  step : PortStep s t i rs
  before : tfind (s.slot i).outs n = some o
  after : tfind (t.slot i).outs n = some o'
  rest : ∀ m, m ≠ n → tfind (t.slot i).outs m = tfind (s.slot i).outs m

section
variable {s t u : State} {i : SlotId} {n kind : Nat} {rs qs : List (Nat × Nat)} {o o' o'' : OutPort} {k : Packet}

theorem SendsOn.trans (h : SendsOn s t i n rs o o') (g : SendsOn t u i n rs o' o'') : SendsOn s u i n rs o o'' :=
  ⟨h.step.trans g.step, h.before, g.after, fun m hm => (g.rest m hm).trans (h.rest m hm)⟩

theorem SendsOn.mono (h : SendsOn s t i n rs o o') (hsub : ∀ r ∈ rs, r ∈ qs) : SendsOn s t i n qs o o' :=
  { h with step := h.step.mono hsub }

theorem sendsOn_of_tset (ho : tfind (s.slot i).outs n = some o) (hstep : PortStep s t i rs)
    (houts : (t.slot i).outs = tset (s.slot i).outs n o') : SendsOn s t i n rs o o' :=
  ⟨hstep, ho, by rw [houts]; exact tfind_tset_same .., fun m hm => by rw [houts]; exact tfind_tset_ne _ _ hm⟩

/-- The state behind a packet made for a port. -/
def State.made (s : State) (i : SlotId) (n : Nat) (o : OutPort) (k : Packet) : State :=
  (s.setSlot i { s.slot i with outs := tset (s.slot i).outs n (o.sending k) }).retain i n k

theorem slot_made : (s.made i n o k).slot i = { s.slot i with outs := tset (s.slot i).outs n (o.sending k) } :=
  State.slot_setSlot_same ..

/-- A packet made for a declared port is retained, and changes the bytes of its buffer alone. -/
theorem sendsOn_made (ho : tfind (s.slot i).outs n = some o) (hk : k.seq = o.nextSeq) :
    SendsOn s (s.made i n o k) i n [(s.retentionBuf i n o.nextSeq, 32 + k.payload.length)] o (o.sending k) := by
  have hset := portStep_setSlot (rs := [(s.retentionBuf i n o.nextSeq, 32 + k.payload.length)])
    (w := { s.slot i with outs := tset (s.slot i).outs n (o.sending k) }) (slot_listed ho) rfl (layout_tset_outs ho rfl rfl)
  have hretain := portStep_retain (s.setSlot i { s.slot i with outs := tset (s.slot i).outs n (o.sending k) }) i n k
  rw [retentionBuf_of_layout hset.layout, hk] at hretain
  exact sendsOn_of_tset ho (hset.trans hretain) (by rw [slot_made])

/-- A port behind the launch of a packet: when and how its packets go is all that changes (R448). -/
def OutPort.launching (o : OutPort) (due : Nat) (via : List Nat) : OutPort := { o with lastArr := due, via := via }

theorem sendsOn_launchPacket (ho : tfind (s.slot i).outs n = some o) (k : Packet) :
    ∃ due via, SendsOn s (s.launchPacket i n k) i n [] o (o.launching due via) := by
  obtain ⟨due, via, src, dst, base, hlaunch⟩ : ∃ due via src dst base, s.launchPacket i n k =
      (s.modSlot i (fun v => { v with outs := tset v.outs n (o.launching due via) })).sendFlit src dst base priLate
        (.packetArrival { slot := o.dst, port := o.dport, chan := o.chan } k) := by
    simp only [State.launchPacket, ho]
    exact ⟨_, _, _, _, _, rfl⟩
  have hport := portStep_setSlot (rs := []) (w := { s.slot i with outs := tset (s.slot i).outs n (o.launching due via) })
    (slot_listed ho) rfl (layout_tset_outs ho rfl rfl)
  have hsent := messaged_sendFlit_packet (s := s.modSlot i (fun v => { v with outs := tset v.outs n (o.launching due via) })) src dst
    base priLate { slot := o.dst, port := o.dport, chan := o.chan } k
  refine ⟨due, via, ?_⟩
  rw [hlaunch]
  exact sendsOn_of_tset ho (hport.trans hsent.portStep) (by rw [hsent.slot, State.slot_modSlot_same])

/-- A port behind a marker of a kind (R57). -/
def OutPort.mark (kind : Nat) (o : OutPort) : OutPort :=
  { o with sentRound := o.sentRound || kind = 3, sentEos := o.sentEos || kind = 2, drainSent := o.drainSent || kind = 4 }

/-- The state in which a port has sent a marker of a kind. -/
def State.markPort (s : State) (i : SlotId) (n kind : Nat) : State :=
  s.modSlot i (fun v => { v with outs := v.outs.map (fun o => if o.1 = n then (o.1, o.2.mark kind) else o) })

theorem sendsOn_markPort (ho : tfind (s.slot i).outs n = some o) (kind : Nat) :
    SendsOn s (s.markPort i n kind) i n rs o (o.mark kind) := by
  have houts (m : Nat) : tfind ((s.markPort i n kind).slot i).outs m =
      if m = n then (tfind (s.slot i).outs m).map (OutPort.mark kind) else tfind (s.slot i).outs m := by
    rw [State.markPort, State.slot_modSlot_same]
    exact tfind_map_at ..
  refine ⟨portStep_setSlot (slot_listed ho) rfl ?_, ho, by rw [houts, if_pos rfl, ho]; rfl, fun m hm => by rw [houts, if_neg hm]⟩
  rw [Slot.layout, Slot.layout, List.map_map]
  refine List.map_congr_left fun e _ => ?_
  simp only [Function.comp_apply]
  split <;> rfl

/-- A marker leaves behind the copies of its port that have not finished, and at once where there are none (R73). -/
def State.depart (s : State) (i : SlotId) (n : Nat) (k : Packet) : State :=
  if (s.slot i).emissions.any (fun e => e.port = n) then
    (s.modSlot i (fun v => { v with emissions := v.emissions ++ [{ id := s.uid, port := n, pkt := k, copy := false }] })).tick1
  else s.launchPacket i n k

theorem sendsOn_depart (ho : tfind (s.slot i).outs n = some o) (k : Packet) :
    ∃ due via, SendsOn s (s.depart i n k) i n [] o (o.launching due via) := by
  rw [State.depart]
  split
  · have hlist := portStep_setSlot (s := s) (rs := []) (w := { s.slot i with
      emissions := (s.slot i).emissions ++ [{ id := s.uid, port := n, pkt := k, copy := false }] }) (slot_listed ho) rfl rfl
    refine ⟨o.lastArr, o.via, hlist.trans (portStep_of_slots rfl rfl rfl (sameBut_of_tables rfl rfl rfl rfl)), ho, ?_, fun m _ => ?_⟩
    · rw [State.tick1_slot, State.slot_modSlot_same]
      exact ho
    · rw [State.tick1_slot, State.slot_modSlot_same]
  · exact sendsOn_launchPacket ho k

/-- What a marker does to its port: it is sent, without a payload, and the port has sent one of its kind. -/
def Marked (kind : Nat) (o o' : OutPort) : Prop :=
  ∃ k, Sent o o' k ∧ k.payload = [] ∧ k.kind = kind ∧ (kind = 2 → o'.sentEos = true) ∧ (kind = 3 → o'.sentRound = true)

theorem sendsOn_sendMarker (ho : tfind (s.slot i).outs n = some o) (hkind : kind < 16) :
    ∃ o', SendsOn s (s.sendMarker i n kind) i n [(s.retentionBuf i n o.nextSeq, 32)] o o' ∧ Marked kind o o' := by
  obtain ⟨k, hk⟩ : ∃ k, k = s.packetOf i n kind false (s.ctx (.stage i)).cr.rnd 0 [] o := ⟨_, rfl⟩
  have hseq : k.seq = o.nextSeq := by rw [hk, packetOf_seq]
  have hpayload : k.payload = [] := by rw [hk]; rfl
  have hsend : s.sendMarker i n kind = ((s.made i n o k).markPort i n kind).depart i n k := by
    simp only [State.sendMarker, makePacket_declared ho hk]
    rfl
  have hmade := sendsOn_made ho hseq
  rw [hpayload] at hmade
  have hmark := hmade.trans (sendsOn_markPort hmade.after kind)
  obtain ⟨due, via, hdepart⟩ := sendsOn_depart hmark.after k
  rw [hsend]
  refine ⟨_, hmark.trans (hdepart.mono nofun), k, sent_sending hseq, hpayload, ?_, ?_, ?_⟩
  · rw [hk, packetOf_kind, Nat.mod_eq_of_lt hkind]
  · rintro rfl
    exact Bool.or_true _
  · rintro rfl
    exact Bool.or_true _

end

/-! ## `MARK` (R73) -/

/-- Markers sent on several ports: each is marked, and the others are left. -/
theorem sendMarkers_leave {s : State} {i : SlotId} {kind : Nat} {l : List Nat} {rs : List (Nat × Nat)} (hkind : kind < 16)
    (hl : l.Nodup) (hport : ∀ n ∈ l, ∃ o, tfind (s.slot i).outs n = some o ∧ (s.retentionBuf i n o.nextSeq, 32) ∈ rs) {t : State}
    (ht : t = l.foldl (fun t n => t.sendMarker i n kind) s) :
    PortStep s t i rs ∧ ∀ m o, tfind (s.slot i).outs m = some o → (m ∈ l → ∃ o', tfind (t.slot i).outs m = some o' ∧ Marked kind o o') ∧
      (m ∉ l → tfind (t.slot i).outs m = some o) := by
  induction l generalizing s with
  | nil => exact ht ▸ ⟨.refl s, fun m o ho => ⟨nofun, fun _ => ho⟩⟩
  | cons n l ih =>
    obtain ⟨hn, hl⟩ := List.nodup_cons.mp hl
    obtain ⟨o, ho, hbuf⟩ := hport n List.mem_cons_self
    obtain ⟨o', hsends, hmarked⟩ := sendsOn_sendMarker ho hkind
    have hport' : ∀ m ∈ l, ∃ x, tfind ((s.sendMarker i n kind).slot i).outs m = some x ∧
        ((s.sendMarker i n kind).retentionBuf i m x.nextSeq, 32) ∈ rs := by
      intro m hm
      obtain ⟨x, hx, hxbuf⟩ := hport m (List.mem_cons_of_mem _ hm)
      exact ⟨x, (hsends.rest m fun h => hn (h ▸ hm)).trans hx, by rwa [retentionBuf_of_layout hsends.step.layout]⟩
    obtain ⟨hrest, hports⟩ := ih hl hport' ht
    refine ⟨(hsends.step.mono (by simpa using hbuf)).trans hrest, fun m x hx => ?_⟩
    by_cases hm : m = n
    · subst hm
      obtain rfl : o = x := Option.some.inj (ho.symm.trans hx)
      obtain ⟨-, hkept⟩ := hports m o' hsends.after
      exact ⟨fun _ => ⟨o', hkept hn, hmarked⟩, fun h => absurd List.mem_cons_self h⟩
    · obtain ⟨hin, hout⟩ := hports m x ((hsends.rest m hm).trans hx)
      exact ⟨fun h => hin (List.mem_of_ne_of_mem hm h), fun h => hout fun h' => h (List.mem_cons_of_mem _ h')⟩

end Sys2Proof.Machine
end

section
/-! PROOF. `MARK` and `EMIT` as they issue (O21). -/

namespace Sys2Proof.Machine

theorem mem_of_tfind {κ α : Type} [DecidableEq κ] {t : Tbl κ α} {k : κ} {a : α} (h : tfind t k = some a) : (k, a) ∈ t := by
  induction t with
  | nil => exact absurd h nofun
  | cons e r ih =>
    obtain ⟨k', x⟩ := e
    rw [tfind] at h
    split at h
    case isTrue hk =>
      obtain rfl := Option.some.inj h
      rw [hk]
      exact List.mem_cons_self
    case isFalse => exact List.mem_cons_of_mem _ (ih h)

theorem canSend_of_port {s : State} {i : SlotId} {n : Nat} {o : OutPort} (ho : tfind (s.slot i).outs n = some o) :
    s.canSend i n = (decide (1 ≤ o.credits) && !s.drainsOn i n) := by
  rw [State.canSend, ho]

@[simp] theorem State.enter_retentionBuf (s : State) (g : BitVec 4) (r : Regs) (i : SlotId) (n : Nat) (seq : BitVec 32) :
    (s.enter g r).retentionBuf i n seq = s.retentionBuf i n seq :=
  retentionBuf_of_layout (by rw [State.portLayout, State.enter_slots]; rfl) i n seq

/-! ## `MARK` (R73) -/

/-- The ports of a slot on which `MARK` sends. -/
def markPorts (v : Slot) (n : BitVec 3) (l : BitVec 1) : List Nat := if l = 1 then v.outPorts else [n.toNat]

/-- The kind of the marker: EOS or ROUND. -/
def markKind (e : BitVec 1) : Nat := if e = 1 then 2 else 3

section
variable {v : Slot} {n : BitVec 3} {l : BitVec 1}

theorem markPorts_nodup : (markPorts v n l).Nodup := by
  rw [markPorts]
  split
  · exact List.nodup_range.filter _
  · exact List.nodup_singleton _

/-- Where the named port is declared, `MARK` sends on declared ports. -/
theorem markPorts_declared (h : l = 0 → (tfind v.outs n.toNat).isSome) {m : Nat} (hm : m ∈ markPorts v n l) :
    m < 8 ∧ (l = 1 ∨ m = n.toNat) ∧ ∃ o, tfind v.outs m = some o := by
  rw [markPorts] at hm
  by_cases hl : l = 1
  · rw [if_pos hl, Slot.outPorts, List.mem_filter, List.mem_range] at hm
    exact ⟨hm.1, .inl hl, Option.isSome_iff_exists.mp hm.2⟩
  · rw [if_neg hl, List.mem_singleton] at hm
    subst hm
    exact ⟨n.isLt, .inr rfl, Option.isSome_iff_exists.mp (h ((BitVec.eq_zero_or_eq_one l).resolve_right hl))⟩

theorem mem_markPorts {m : Nat} {o : OutPort} (hm : m < 8) (ho : tfind v.outs m = some o) :
    m ∈ markPorts v n l ↔ l = 1 ∨ m = n.toNat := by
  rw [markPorts]
  by_cases hl : l = 1
  · simp [hl, Slot.outPorts, hm, ho]
  · rw [if_neg hl, List.mem_singleton]
    exact (or_iff_right hl).symm

end

section
variable {s : State} {p : BitVec 4} {n : BitVec 3} {l e : BitVec 1} {i : SlotId}

/-- The state behind the markers: a ROUND marker is remembered for the end of the firing (R53). -/
def State.marking (u : State) (i : SlotId) (ports : List Nat) (e : BitVec 1) : State :=
  let t := ports.foldl (fun t q => t.sendMarker i q (markKind e)) u
  if e = 0 ∧ ports ≠ [] then t.modMySlot (fun v => { v with sentRound := true }) else t

theorem exec_mark_sends (hcur : s.cur = .stage i) (hf : s.free 0 p {} = true) (hn : l = 0 → (tfind (s.slot i).outs n.toNat).isSome)
    (hsend : ∀ m ∈ markPorts (s.slot i) n l, s.canSend i m = true) :
    exec (.mark p n l e) s = .next ((s.enter p {}).marking i (markPorts (s.slot i) n l) e) := by
  have hact := issue_act (s := s) (y := { ctlSyl p {} (fun s =>
      let ports := if l = 1 then (s.slot s.mySlot).outPorts else [n.toNat]
      let t := ports.foldl (fun t q => t.sendMarker s.mySlot q (if e = 1 then 2 else 3)) s
      if e = 0 ∧ ports ≠ [] then t.modMySlot (fun v => { v with sentRound := true }) else t) with
    typeOk := !isSup s.cur && (l = 1 || s.hasOut n.toNat),
    wait := fun s => if (if l = 1 then (s.slot s.mySlot).outPorts else [n.toNat]).all (s.canSend s.mySlot) then .go
      else .hold (fun s => s) }) (.inl rfl) ?_ hf rfl ?_
  · rw [exec_mark, execMark, hact]
    simp only [ctlSyl, mySlot_of_stage (enter_stage hcur ..), State.enter_slot]
    rfl
  · rw [hasOut_of_stage hcur, hcur]
    simp only [isSup, Bool.not_false, Bool.true_and, Bool.or_eq_true, decide_eq_true_eq]
    exact (BitVec.eq_zero_or_eq_one l).symm.imp id hn
  · simp only [mySlot_of_stage hcur]
    exact if_pos (List.all_eq_true.mpr hsend)

theorem marking_leaves {u t : State} {ports : List Nat} {rs : List (Nat × Nat)} (hcur : u.cur = .stage i) (hports : ports.Nodup)
    (hport : ∀ n ∈ ports, ∃ o, tfind (u.slot i).outs n = some o ∧ (u.retentionBuf i n o.nextSeq, 32) ∈ rs)
    (ht : t = u.marking i ports e) : PortStep u t i rs ∧ ∀ m o, tfind (u.slot i).outs m = some o →
      (m ∈ ports → ∃ o', tfind (t.slot i).outs m = some o' ∧ Marked (markKind e) o o') ∧
      (m ∉ ports → tfind (t.slot i).outs m = some o) := by
  have hkind : markKind e < 16 := by rw [markKind]; split <;> decide
  obtain ⟨w, hw⟩ : ∃ w, w = ports.foldl (fun t q => t.sendMarker i q (markKind e)) u := ⟨_, rfl⟩
  obtain ⟨hstep, hsent⟩ := sendMarkers_leave hkind hports hport hw
  rw [State.marking, ← hw] at ht
  by_cases hround : e = 0 ∧ ports ≠ []
  · obtain ⟨m, hm⟩ := List.exists_mem_of_ne_nil _ hround.2
    obtain ⟨o, ho, -⟩ := hport m hm
    obtain ⟨o', ho', -⟩ := (hsent m o ho).1 hm
    rw [if_pos hround, modMySlot_of_stage (hstep.cur.trans hcur)] at ht
    have hslot : (t.slot i).outs = (w.slot i).outs := by rw [ht, State.slot_modSlot_same]
    rw [hslot]
    exact ⟨hstep.trans (ht ▸ portStep_setSlot (slot_listed ho') rfl rfl), hsent⟩
  · rw [if_neg hround] at ht
    rw [ht]
    exact ⟨hstep, hsent⟩

end

/-! ## What `EMIT` reads (R72, R366) -/

@[simp] theorem State.enter_bundleMem (s : State) (g : BitVec 4) (r : Regs) : (s.enter g r).bundleMem = s.bundleMem := by
  simp [State.bundleMem]

/-- What a step leaves that reads for the agent in issue: the slots, the other contexts, what is visible of its own and the results that
it has in flight, and every byte. -/
structure ReadStep (s t : State) : Prop where
  cur : t.cur = s.cur
  uid : t.uid = s.uid
  slots : t.slots = s.slots
  others : ∀ b, b ≠ s.cur → t.ctx b = s.ctx b
  visible : (t.ctx s.cur).visible = s.me.visible
  flights : (t.ctx s.cur).flights = s.me.flights
  bytes : ∀ d, SameBut s t d []

theorem ReadStep.trans {s t u : State} (h : ReadStep s t) (g : ReadStep t u) : ReadStep s u := by
  obtain ⟨cur, uid, slots, others, visible, flights, bytes⟩ := g
  rw [h.cur] at others visible flights
  rw [State.me, h.cur] at visible flights
  exact ⟨cur.trans h.cur, uid.trans h.uid, slots.trans h.slots, fun b hb => (others b hb).trans (h.others b hb),
    visible.trans h.visible, flights.trans h.flights, fun d => (h.bytes d).trans (bytes d)⟩

theorem readStep_enter (s : State) (g : BitVec 4) (r : Regs) : ReadStep s (s.enter g r) where
  cur := State.enter_cur ..
  uid := State.enter_uid ..
  slots := State.enter_slots ..
  others := State.enter_others s g r
  visible := by rw [State.enter_ctx_cur, State.enter_visible]
  flights := by rw [State.enter_ctx_cur, State.enter_flights]
  bytes _ := (enter_bytes s g r).but

/-- A read of a core's scratchpad corrects and counts errors, and leaves all else. -/
theorem readStep_meetCore (s : State) (c : CoreId) (addr n : Nat) : ReadStep s (s.meetCore c addr n) := by
  simp only [State.meetCore]
  split
  case isTrue => exact ⟨rfl, rfl, rfl, fun _ _ => rfl, rfl, rfl, fun _ => sameBut_of_tables rfl rfl rfl rfl⟩
  case isFalse =>
    refine ⟨rfl, rfl, rfl, fun _ _ => rfl, rfl, rfl, fun _ => sameBut_of_fields (fun k => ?_) (fun _ => ⟨rfl, rfl, rfl⟩) (fun e => ?_)
      (fun e _ => ?_) (fun a _ => ?_) fun _ => rfl⟩
    · rw [State.countErrors, State.core_modDie, State.core_setCore]
      split
      case isTrue h => exact h ▸ ⟨rfl, rfl, rfl⟩
      case isFalse => exact ⟨rfl, rfl, rfl⟩
    all_goals
      rw [State.countErrors, State.die_modDie]
      split
      case isTrue h => rw [h]; rfl
      case isFalse => rfl

/-- What `EMIT` reads of its scratchpad: errors are corrected and counted, and the first uncorrectable word is kept for the next bundle
boundary (R366, R367). -/
def State.emitRead (s : State) (xa n : Nat) : State :=
  let s := s.meetLocal s.cur xa n
  match firstBad (s.localBad s.cur) xa n with
  | some w => s.modMe (fun c => { c with after := c.after ++ [(0x0B, addrValue 0 w)] })
  | none => s

theorem readStep_modMe {s : State} {f : Ctx → Ctx} (hvisible : ∀ c, (f c).visible = c.visible) (hflights : ∀ c, (f c).flights = c.flights) :
    ReadStep s (s.modMe f) where
  cur := rfl
  uid := rfl
  slots := rfl
  others b hb := by rw [State.modMe, State.ctx_modCtx, if_neg hb]
  visible := by rw [State.modMe, State.ctx_modCtx_same, hvisible]; rfl
  flights := by rw [State.modMe, State.ctx_modCtx_same, hflights]; rfl
  bytes _ := sameBut_of_tables rfl rfl rfl rfl

theorem readStep_emitRead {s : State} {i : SlotId} (hcur : s.cur = .stage i) (xa n : Nat) : ReadStep s (s.emitRead xa n) := by
  have hmeet : ReadStep s (s.meetLocal s.cur xa n) := by
    rw [hcur]
    exact readStep_meetCore ..
  rw [State.emitRead]
  split
  · exact hmeet.trans (readStep_modMe (fun _ => rfl) fun _ => rfl)
  · exact hmeet

/-! ## The copy of an emission (R72, R173) -/

/-- What an emission is, its times apart. -/
def Emission.item (e : Emission) : Nat × Nat × Packet × Bool := (e.id, e.port, e.pkt, e.copy)

theorem map_item_stepCopy {f : Emission → Emission} (h : ∀ e, (f e).item = e.item) (l : List Emission) :
    (stepCopy f l).map Emission.item = l.map Emission.item := by
  induction l with
  | nil => rfl
  | cons e l ih =>
    rw [stepCopy]
    split
    · rw [List.map_cons, h, List.map_cons]
    · rw [List.map_cons, ih, List.map_cons]

/-- A step of a slot's copies: its ports stay, and so do its emissions, their times apart. -/
structure CopyStep (s t : State) (i : SlotId) : Prop where
  step : PortStep s t i []
  outs : (t.slot i).outs = (s.slot i).outs
  items : (t.slot i).emissions.map Emission.item = (s.slot i).emissions.map Emission.item

section
variable {s : State} {i : SlotId}

theorem CopyStep.trans {t u : State} (h : CopyStep s t i) (g : CopyStep t u i) : CopyStep s u i :=
  ⟨h.step.trans g.step, g.outs.trans h.outs, g.items.trans h.items⟩

theorem copyStep_refl (s : State) (i : SlotId) : CopyStep s s i := ⟨.refl s, rfl, rfl⟩

theorem copyStep_put (hlisted : tfind s.slots i = some (s.slot i)) (f : Emission → Emission) (h : ∀ e, (f e).item = e.item) :
    CopyStep s (s.modSlot i (fun v => { v with emissions := stepCopy f v.emissions })) i :=
  ⟨portStep_setSlot hlisted rfl rfl, by rw [State.slot_modSlot_same], by rw [State.slot_modSlot_same, map_item_stepCopy h]⟩

/-- A core whose port is free later is as it was else. -/
theorem copyStep_modCore (f : Core → Core) (h : ∀ k, (f k).mem = k.mem ∧ (f k).stores = k.stores ∧ (f k).window = k.window) :
    CopyStep s (s.modCore i.core f) i := by
  refine ⟨portStep_of_slots rfl rfl rfl (sameBut_of_fields (fun c => ?_) (fun _ => ⟨rfl, rfl, rfl⟩) (fun _ => rfl) (fun _ _ => rfl)
    (fun _ _ => rfl) fun _ => rfl), rfl, rfl⟩
  rw [State.core_modCore]
  split
  case isTrue hc => exact hc ▸ h _
  case isFalse => exact ⟨rfl, rfl, rfl⟩

theorem copyStep_copyTurn (hlisted : tfind s.slots i = some (s.slot i)) : CopyStep s (s.copyTurn i) i := by
  rw [State.copyTurn]
  split
  case h_1 => exact copyStep_refl s i
  case h_2 e _ =>
    simp only
    split
    · exact copyStep_refl s i
    · split
      · have hserve : CopyStep s (s.servePort (.stage i) e.chunk.1 e.chunk.2) i :=
          ⟨portStep_of_slots rfl rfl rfl (sameBut_of_tables rfl rfl rfl rfl), rfl, rfl⟩
        exact hserve.trans (copyStep_put (s := s.servePort ..) hlisted (fun e => { e with left := e.left - 1 }) fun _ => rfl)
      · refine (copyStep_put hlisted (fun e => { e with due := e.due + 1 }) fun _ => rfl).trans ?_
        exact copyStep_modCore _ fun _ => ⟨rfl, rfl, rfl⟩

/-- The emission that `EMIT` begins under an identity: its copy, read from `start` on. -/
def State.emitCopy (s : State) (i : SlotId) (n : Nat) (k : Packet) (id xa size start : Nat) : State :=
  let t := (s.modCore i.core (fun c => { c with portFree := start + ceilDiv size 128 })).modSlot i (fun v => { v with
    emissions := v.emissions ++ [{ id := id, port := n, pkt := k, addr := xa, start := start, copy := true,
                                   left := ceilDiv size 128, due := start + ceilDiv size 128 }] })
  if start = s.cycle then t.copyTurn i else t

theorem emitCopy_leaves (hlisted : tfind s.slots i = some (s.slot i)) {n : Nat} {k : Packet} {id xa size start : Nat} {t : State}
    (ht : t = s.emitCopy i n k id xa size start) : PortStep s t i [] ∧ (t.slot i).outs = (s.slot i).outs ∧
      (t.slot i).emissions.map Emission.item = (s.slot i).emissions.map Emission.item ++ [(id, n, k, true)] := by
  obtain ⟨u, hu⟩ : ∃ u, u = (s.modCore i.core (fun c => { c with portFree := start + ceilDiv size 128 })).modSlot i (fun v => { v with
    emissions := v.emissions ++ [{ id := id, port := n, pkt := k, addr := xa, start := start, copy := true,
                                   left := ceilDiv size 128, due := start + ceilDiv size 128 }] }) := ⟨_, rfl⟩
  have hcore : CopyStep s (s.modCore i.core (fun c => { c with portFree := start + ceilDiv size 128 })) i :=
    copyStep_modCore _ fun _ => ⟨rfl, rfl, rfl⟩
  have hstep : PortStep s u i [] := hcore.step.trans (hu ▸ portStep_setSlot hlisted rfl rfl)
  have houts : (u.slot i).outs = (s.slot i).outs := by rw [hu, State.slot_modSlot_same]; rfl
  have hitems : (u.slot i).emissions.map Emission.item = (s.slot i).emissions.map Emission.item ++ [(id, n, k, true)] := by
    rw [hu, State.slot_modSlot_same, List.map_append]
    rfl
  have hlisted' : tfind u.slots i = some (u.slot i) := by
    rw [hu, State.slot_modSlot_same]
    exact tfind_tset_same ..
  rw [State.emitCopy, ← hu] at ht
  split at ht
  · have hturn := copyStep_copyTurn hlisted'
    rw [← ht] at hturn
    exact ⟨hstep.trans hturn.step, hturn.outs.trans houts, hturn.items.trans hitems⟩
  · exact ht ▸ ⟨hstep, houts, hitems⟩

end

end Sys2Proof.Machine
end

section
/-! PROOF. `EMIT`, and the sending of packets settled (O21). -/

namespace Sys2Proof.Machine

/-! ## `EMIT` (R72) -/

section
variable {s : State} {p : BitVec 4} {d a : BitVec 6} {n : BitVec 3} {k w : BitVec 1} {i : SlotId} {o : OutPort}

/-- The syllable of `EMIT`. -/
def emitSyl (s : State) (p : BitVec 4) (d a : BitVec 6) (n : BitVec 3) (k w : BitVec 1) : Syl :=
  { ctlSyl p { xr := [a], xw := [d] } (fun s => s.doEmit d a n.toNat (k = 1) (w = 1)) with
    typeOk := s.hasOut n.toNat,
    early := [a],
    cause := emitCause a n.toNat,
    wait := fun s => if s.portHeld 2 then .stall else if s.canSend s.mySlot n.toNat then .go else .hold (fun s => s) }

theorem exec_emit_syl : exec (.emit p d a n k w) s = issue (emitSyl s p d a n k w) s := by
  rw [exec_emit, execEmit]
  rfl

theorem emitCause_of_port (hcur : s.cur = .stage i) (ho : tfind (s.slot i).outs n.toNat = some o) {xa len : Nat}
    (hxa : xa = (s.rx a).toNat) (hlen : len = bitsAt (memNat s.bundleMem xa 8) 12 13) : emitCause a n.toNat s =
      if xa % 16 ≠ 0 then some (0x10, BitVec.ofNat 64 (xa % 2 ^ 61))
      else if 2 ^ 21 < xa + 32 ∨ 4096 < len ∨ o.size < len ∨ 2 ^ 21 < xa + 32 + len then some (0x04, BitVec.ofNat 64 (xa % 2 ^ 61))
      else none := by
  have hemit : s.emitLen xa = len := hlen.symm
  simp only [emitCause, mySlot_of_stage hcur, ho, ← hxa, hemit, addrValue_zero, gt_iff_lt]
  split_ifs <;> first | rfl | omega

theorem emitSyl_typeOk (hcur : s.cur = .stage i) (ho : tfind (s.slot i).outs n.toNat = some o) :
    (emitSyl s p d a n k w).typeOk = true := by
  rw [emitSyl, hasOut_of_stage hcur, ho]
  rfl

theorem exec_emit_trap (hcur : s.cur = .stage i) (ho : tfind (s.slot i).outs n.toNat = some o)
    (hf : s.free 0 p { xr := [a], xw := [d] } = true) {c : Nat} {v : Word} (hc : emitCause a n.toNat s = some (c, v)) :
    exec (.emit p d a n k w) s = .next (s.raise 2 c v) := by
  rw [exec_emit_syl]
  exact issue_cause (y := emitSyl s p d a n k w) (t := (c, v)) (.inl rfl) (emitSyl_typeOk hcur ho) hf hc

theorem exec_emit_answer (hcur : s.cur = .stage i) (ho : tfind (s.slot i).outs n.toNat = some o)
    (hf : s.free 0 p { xr := [a], xw := [d] } = true) (hc : emitCause a n.toNat s = none) (hheld : s.portHeld 2 = false) :
    exec (.emit p d a n k w) s = if s.canSend i n.toNat = true
      then .next ((s.enter p { xr := [a], xw := [d] }).doEmit d a n.toNat (k = 1) (w = 1)) else .next s.hold := by
  have hanswer := issue_answer (y := emitSyl s p d a n k w) (.inl rfl) (emitSyl_typeOk hcur ho) hf hc
  have hwait : (emitSyl s p d a n k w).wait s = if s.canSend i n.toNat = true then .go else .hold (fun s => s) := by
    simp only [emitSyl, hheld, mySlot_of_stage hcur]
    rfl
  rw [exec_emit_syl, hanswer, hwait]
  split <;> rfl

/-- What `EMIT` does behind its packet `r`: the copy begins once the port is free, and the number of the packet is the result. -/
def State.emitTail (m : State) (r : State × Packet) (i : SlotId) (d : BitVec 6) (n xa size : Nat) : State :=
  let start := max m.cycle (m.core i.core).portFree
  let t := r.1.emitCopy i n r.2 m.uid xa size start
  ((t.schedule (start + ceilDiv size 128) priPort (.emitCopyDone i t.uid)).tick1).nextX d (toWord r.2.seq.toNat)

/-- The packet that `EMIT` makes of the image at `xa`, with the payload behind it, on the state `m` behind its read (R72). -/
def State.emitPacket (m : State) (mem : Mem) (i : SlotId) (n xa len : Nat) (packed row : Bool) (o : OutPort) : Packet :=
  m.packetOf i n (bit row) packed m.me.cr.rnd (toWord (memNat mem (xa + 24) 8)) (memRead mem (xa + 32) len) o

theorem doEmit_eq {u m : State} (hcur : u.cur = .stage i) {xa len n : Nat} (hxa : (u.rx a).toNat = xa) (hlen : u.emitLen xa = len)
    (hm : m = u.emitRead xa (32 + len)) (ho : tfind (m.slot i).outs n = some o) {packed row : Bool} {k : Packet}
    (hk : k = m.emitPacket u.bundleMem i n xa len packed row o) :
    u.doEmit d a n packed row = m.emitTail (m.made i n o k, k) i d n xa (32 + len) := by
  delta State.doEmit
  extract_lets j x l mem u₁ u₂ r start done t₁ t₂
  have hj : j = i := mySlot_of_stage hcur
  have hl : l = len := by rw [← hlen, ← hxa]
  have hread : u₂ = u.emitRead x (32 + l) := by
    cases hbad : firstBad (u₁.localBad u₁.cur) x (32 + l) <;> simp only [State.emitRead, u₂, u₁, hbad]
  have hu₂ : u₂ = m := hread.trans (hm.trans (hl ▸ hxa ▸ rfl)).symm
  have hr : r = (m.made i n o k, k) := by
    rw [← hxa, ← hl] at hk
    rw [State.made, ← makePacket_declared ho hk]
    simp only [r, hu₂, hj, mem, x]
  rw [State.emitTail, State.emitCopy, ← hl, ← hxa]
  simp only [t₂, t₁, start, done, hr, hu₂, hj, x]
  rfl

/-- What `EMIT` leaves. -/
structure Emitted (s t : State) (i : SlotId) (n : Nat) (o o' : OutPort) (k : Packet) (d : BitVec 6) : Prop where
  step : SameBut s t i.core.die [(s.retentionBuf i n o.nextSeq, 32 + k.payload.length)]
  ctxs : ∀ b, b ≠ s.cur → t.ctx b = s.ctx b
  slots : ∀ j, j ≠ i → t.slot j = s.slot j
  ins : (t.slot i).ins = (s.slot i).ins
  port : tfind (t.slot i).outs n = some o'
  rest : ∀ m, m ≠ n → tfind (t.slot i).outs m = tfind (s.slot i).outs m
  items : (t.slot i).emissions.map Emission.item = (s.slot i).emissions.map Emission.item ++ [(s.uid, n, k, true)]
  yields : Yields s t [.x d (k.seq.setWidth 64)] 0

theorem emitTail_leaves {m t : State} (hread : ReadStep s m) {n xa size : Nat} {k : Packet}
    (ho : tfind (s.slot i).outs n = some o) (hseq : k.seq = o.nextSeq)
    (ht : t = m.emitTail (m.made i n o k, k) i d n xa size) : Emitted s t i n o (o.sending k) k d := by
  have hslot (j : SlotId) : m.slot j = s.slot j := by simp only [State.slot, hread.slots]
  have hmade := sendsOn_made (s := m) (i := i) (n := n) (o := o) (k := k) (by rw [hslot]; exact ho) hseq
  have hbuf : m.retentionBuf i n o.nextSeq = s.retentionBuf i n o.nextSeq :=
    retentionBuf_of_layout (by rw [State.portLayout, hread.slots]; rfl) ..
  rw [hbuf] at hmade
  obtain ⟨w, hw⟩ : ∃ w, w = (m.made i n o k).emitCopy i n k m.uid xa size (max m.cycle (m.core i.core).portFree) := ⟨_, rfl⟩
  obtain ⟨hcopy, houts, hitems⟩ := emitCopy_leaves (slot_listed hmade.after) hw
  have hstep : PortStep m w i [(s.retentionBuf i n o.nextSeq, 32 + k.payload.length)] := hmade.step.trans (hcopy.mono nofun)
  have hwcur : w.cur = s.cur := hstep.cur.trans hread.cur
  obtain ⟨v, hv⟩ : ∃ v, v = (w.schedule (max m.cycle (m.core i.core).portFree + ceilDiv size 128) priPort (.emitCopyDone i w.uid)).tick1 :=
    ⟨_, rfl⟩
  have hvcur : v.cur = s.cur := by rw [hv]; exact hwcur
  have hvctx (b : Agent) : v.ctx b = m.ctx b := by rw [hv]; exact hstep.ctx b
  have hvslot (j : SlotId) : v.slot j = w.slot j := by rw [hv]; rfl
  have htail : t = v.nextX d (toWord k.seq.toNat) := by
    rw [ht, hv, hw]
    rfl
  have htslot (j : SlotId) : t.slot j = w.slot j := by rw [htail, nextX_slot, hvslot]
  have hbytes : SameBut w t i.core.die [(s.retentionBuf i n o.nextSeq, 32 + k.payload.length)] := by
    rw [htail, hv]
    exact sameBut_of_tables rfl rfl rfl rfl
  refine ⟨(((hread.bytes _).mono nofun).trans hstep.bytes).trans hbytes, fun b hb => ?_, fun j hj => ?_, ?_, ?_, fun x hx => ?_, ?_, ?_⟩
  · rw [htail, nextX_ctx_ne (hvcur ▸ hb), hvctx, hread.others b hb]
  · rw [htslot, hstep.others j hj, hslot]
  · rw [htslot, hstep.ins, hslot]
  · rw [htslot, houts, hmade.after]
  · rw [htslot, houts, hmade.rest x hx, hslot]
  · rw [htslot, hitems, slot_made, hread.uid, hslot]
  · have hflights : (t.ctx s.cur).flights = s.me.flights ++ [v.ctlFlight v.uid d (toWord k.seq.toNat)] := by
      rw [htail, ← hvcur, nextX_flights, hvcur, hvctx, hread.flights]
    have hvisible : (t.ctx s.cur).visible = s.me.visible := by rw [htail, nextX_visible, hvctx, hread.visible]
    have hword : toWord k.seq.toNat = k.seq.setWidth 64 := BitVec.ofNat_toNat ..
    rw [← hword]
    exact yields_one hvisible hflights

theorem exec_emit_sends (hcur : s.cur = .stage i) (ho : tfind (s.slot i).outs n.toNat = some o)
    (hf : s.free 0 p { xr := [a], xw := [d] } = true) {xa len : Nat} (hxa : xa = (s.rx a).toNat)
    (hlen : len = bitsAt (memNat s.bundleMem xa 8) 12 13) (hc : emitCause a n.toNat s = none) (hheld : s.portHeld 2 = false)
    (hsend : s.canSend i n.toNat = true) : ∃ t m, exec (.emit p d a n k w) s = .next t ∧
      Emitted s t i n.toNat o (o.sending (State.emitPacket m s.bundleMem i n.toNat xa len (k = 1) (w = 1) o))
        (State.emitPacket m s.bundleMem i n.toNat xa len (k = 1) (w = 1) o) d := by
  obtain ⟨u, hu⟩ : ∃ u, u = s.enter p { xr := [a], xw := [d] } := ⟨_, rfl⟩
  obtain ⟨m, hm⟩ : ∃ m, m = u.emitRead xa (32 + len) := ⟨_, rfl⟩
  have hucur : u.cur = .stage i := hu ▸ enter_stage hcur ..
  have hmem : u.bundleMem = s.bundleMem := hu ▸ State.enter_bundleMem ..
  have hread : ReadStep s m := (hu ▸ readStep_enter ..).trans (hm ▸ readStep_emitRead hucur ..)
  have hom : tfind (m.slot i).outs n.toNat = some o := by rw [State.slot, hread.slots]; exact ho
  have hdo := doEmit_eq (d := d) (packed := k = 1) (row := w = 1) hucur (by rw [hu, State.enter_rx, hxa])
    (by rw [State.emitLen, hmem, hlen]) hm hom rfl
  rw [hmem] at hdo
  have hexec := (exec_emit_answer (k := k) (w := w) hcur ho hf hc hheld).trans (if_pos hsend)
  rw [← hu, hdo] at hexec
  exact ⟨_, m, hexec, emitTail_leaves hread ho packetOf_seq rfl⟩

end

/-! ## The sending of packets (O21) -/

theorem bit_eq_one (w : BitVec 1) : bit (w = 1) % 16 = w.toNat := by
  revert w; decide

/-- Settles O21: `EMIT` traps by the causes of its header image, and waits or sends (`exec_emit_sends`); `MARK` sends on each of its ports
(`marking_leaves`). -/
theorem packetSends : Obligations.PacketSends := by
  intro s p d a n k w l e i hcur
  constructor
  · intro o ho hf xa len hxa hlen
    have hcause := emitCause_of_port hcur ho hxa hlen
    refine ⟨fun hal => ?_, fun hal hout => ?_, fun hal hend hmax hsize hheld => ?_⟩
    · exact exec_emit_trap hcur ho hf (hcause.trans (if_pos hal))
    · exact exec_emit_trap hcur ho hf (hcause.trans ((if_neg (not_not.mpr hal)).trans (if_pos hout)))
    · have hnone : emitCause a n.toNat s = none := by
        rw [hcause, if_neg (not_not.mpr hal), if_neg (by omega)]
      have hcan := canSend_of_port ho
      refine ⟨fun hcredit => ?_, fun hcredit hdrains => ?_⟩
      · rw [exec_emit_answer hcur ho hf hnone hheld, if_neg (by simp [hcan, hcredit])]
      · obtain ⟨t, m, hexec, hemitted⟩ := exec_emit_sends (k := k) (w := w) hcur ho hf hxa hlen hnone hheld (by simp [hcan, hcredit, hdrains])
        obtain ⟨hbytes, hctxs, hslots, hins, hport, hrest, hitems, hyields⟩ := hemitted
        rw [State.emitPacket, packetOf_seq] at hyields
        refine ⟨t, _, _, hexec, hport, sent_sending packetOf_seq, packetOf_kind.trans (bit_eq_one w), ?_, rfl, rfl, hitems, hrest, hins,
          hyields, ?_, hslots, hctxs⟩
        · rw [State.emitPacket, packetOf_len, length_memRead, Nat.mod_eq_of_lt (by omega)]
        · have hlength : (State.emitPacket m s.bundleMem i n.toNat xa len (k = 1) (w = 1) o).payload.length = len := length_memRead ..
          rwa [hlength] at hbytes
  · intro hf hdeclared hcan
    have hports {m : Nat} (hm : m ∈ markPorts (s.slot i) n l) := markPorts_declared hdeclared hm
    have hsend : ∀ m ∈ markPorts (s.slot i) n l, s.canSend i m = true := by
      intro m hm
      obtain ⟨hlt, hnamed, o, ho⟩ := hports hm
      obtain ⟨hcredit, hdrains⟩ := hcan m o hlt ho hnamed
      simp [canSend_of_port ho, hcredit, hdrains]
    obtain ⟨t, ht⟩ : ∃ t, t = (s.enter p {}).marking i (markPorts (s.slot i) n l) e := ⟨_, rfl⟩
    have hread := readStep_enter s p {}
    obtain ⟨hstep, hsent⟩ := marking_leaves (rs := (s.slot i).outs.map (fun o => (s.retentionBuf i o.1 o.2.nextSeq, 32)))
      (enter_stage hcur ..) markPorts_nodup (fun m hm => by
        obtain ⟨-, -, o, ho⟩ := hports hm
        refine ⟨o, by rwa [State.enter_slot], ?_⟩
        rw [State.enter_retentionBuf]
        exact List.mem_map_of_mem (f := fun o : Nat × OutPort => (s.retentionBuf i o.1 o.2.nextSeq, 32)) (mem_of_tfind ho)) ht
    rw [State.enter_slot] at hsent
    refine ⟨t, ht ▸ exec_mark_sends hcur hf hdeclared hsend, ?_, ((hread.bytes _).mono nofun).trans hstep.bytes, ?_, fun j hj => ?_,
      fun b hb => ?_, fun m o hm ho => ⟨fun hnamed => ?_, fun hnamed => ?_⟩⟩
    · rw [hstep.ctx, hread.visible]
    · rw [hstep.ins, State.enter_slot]
    · rw [hstep.others j hj, State.enter_slot]
    · rw [hstep.ctx, hread.others b hb]
    · obtain ⟨o', ho', pk, hsent', hpayload, hkind, heos, hround⟩ := (hsent m o ho).1 ((mem_markPorts hm ho).mpr hnamed)
      refine ⟨o', pk, ho', hsent', hpayload, hkind, ?_⟩
      split
      case isTrue he => exact heos (if_pos he)
      case isFalse he => exact hround (if_neg he)
    · exact (hsent m o ho).2 (mt (mem_markPorts hm ho).mp hnamed)

end Sys2Proof.Machine
end

section
/-! PROOF. Draws of the generator, and the scalar syllables that draw (O10). -/

namespace Sys2Proof.Machine

/-! ## Results that land behind draws (R116) -/

/-- The control registers behind `n` draws (R116). -/
def CtlRegs.drawn (n : Nat) (r : CtlRegs) : CtlRegs := { r with ctrbase := r.ctrbase + BitVec.ofNat 64 n }

theorem RegWrite.on_modCr (w : RegWrite) (c : Ctx) (f : CtlRegs → CtlRegs) : w.on (c.modCr f) = (w.on c).modCr f := by
  cases w with
  | v d w => rfl
  | x d w =>
    simp only [RegWrite.on, Ctx.wx]
    split <;> rfl
  | p d b =>
    simp only [RegWrite.on, Ctx.wp]
    split <;> rfl

theorem applyWrites_modCr (ws : List RegWrite) (c : Ctx) (f : CtlRegs → CtlRegs) :
    applyWrites ws (c.modCr f) = (applyWrites ws c).modCr f := by
  induction ws generalizing c with
  | nil => rfl
  | cons w r ih => rw [applyWrites, List.foldl_cons, RegWrite.on_modCr]; exact ih _

/-- A result lands in the same way behind draws. -/
theorem Flight.land_drawn (f : Flight) (c : Ctx) (n : Nat) : f.land (c.modCr (.drawn n)) = (f.land c).modCr (.drawn n) := by
  rw [Flight.land, applyWrites_modCr]
  rfl

theorem foldl_land_drawn (l : List Flight) (c : Ctx) (n : Nat) :
    l.foldl (fun c f => Flight.land f c) (c.modCr (.drawn n)) = (l.foldl (fun c f => Flight.land f c) c).modCr (.drawn n) := by
  induction l generalizing c with
  | nil => rfl
  | cons f r ih => rw [List.foldl_cons, Flight.land_drawn, ih, List.foldl_cons]

theorem ctx_advanceCtr (s : State) (n : Nat) : (s.advanceCtr n).ctx s.cur = (s.ctx s.cur).modCr (.drawn n) :=
  State.ctx_modCtx_same ..

theorem settled_advanceCtr (s : State) (n : Nat) : (s.advanceCtr n).settled s.cur = (s.settled s.cur).modCr (.drawn n) := by
  rw [State.settled_eq, State.settled_eq, ctx_advanceCtr, ← foldl_land_drawn]
  rfl

theorem kept_advanceCtr (s : State) (n : Nat) : Kept s (s.advanceCtr n) :=
  kept_of_own (fun a h => by simp [State.advanceCtr, State.modMe, State.ctx_modCtx, h]) rfl rfl rfl rfl rfl rfl rfl

/-- Results in flight, and draws: what lands is the writes and the flags, and the counter has advanced. -/
theorem draws_of_yields {i : Instr} {s t : State} {ws : List RegWrite} {fl : BitVec 6} {n : Nat}
    (hexec : exec i s = .next (t.advanceCtr n)) (hcur : t.cur = s.cur) (hyields : Yields s t ws fl) (hkept : Kept s t) :
    Draws i s ws fl n := by
  refine ⟨_, hexec, hkept.trans (kept_advanceCtr t n) hcur, fun hclear => ?_⟩
  rw [← hcur, settled_advanceCtr, visible_modCr, hcur, hyields hclear]
  rfl

theorem draws_zero_of_writes {i : Instr} {s : State} {ws : List RegWrite} {fl : BitVec 6} (h : Writes i s ws fl) :
    Draws i s ws fl 0 := by
  obtain ⟨t, hexec, hyields, hkept⟩ := h
  refine ⟨t, hexec, hkept, fun hclear => ?_⟩
  rw [hyields hclear]
  simp [Ctx.modCr]

/-- A syllable that is free, puts one result in flight and draws `n` values. -/
theorem draws_of_fly {i : Instr} {s : State} {y : Syl} {src : Src} {lat n : Nat} {ws : List RegWrite} {fl : BitVec 6}
    (h : exec i s = issue y s) (hp : y.priv = false) (ht : y.typeOk = true) (hf : s.free y.cls y.guard y.regs = true)
    (hc : y.cause s = none) (hw : y.wait s = .go)
    (ha : y.act (s.enter y.guard y.regs) = ((s.enter y.guard y.regs).fly s.cur src lat ws fl none).advanceCtr n) :
    Draws i s ws fl n := by
  have hkept := kept_fly (s.enter y.guard y.regs) src lat ws fl none
  rw [State.enter_cur] at hkept
  have hyields : Yields s ((s.enter y.guard y.regs).fly s.cur src lat ws fl none) ws fl :=
    yields_fly (s.enter_cur y.guard y.regs) (s.enter_ctx_cur y.guard y.regs)
  have hcur : ((s.enter y.guard y.regs).fly s.cur src lat ws fl none).cur = s.cur := by simp [State.fly, State.flyAs]
  have hexec : exec i s = .next (((s.enter y.guard y.regs).fly s.cur src lat ws fl none).advanceCtr n) := by
    rw [h, issue_act (.inl hp) ht hf hc hw, ha]
  exact draws_of_yields hexec hcur hyields ((enter_kept ..).trans hkept (by simp))

/-! ## `RNG` and `FCVT` (O10) -/

section
variable {s : State} {p : BitVec 4} {d a c : BitVec 6}

theorem draws_rng (hf : s.free 1 p { xw := [d] } = true) :
    Draws (.rng p d) s [.x d (genDraw s.me.cr.seed s.me.cr.ctrbase)] 0 1 := by
  have hissue := exec_rng p d s
  rw [execRng] at hissue
  refine draws_of_fly (src := .scalar) (lat := 2) hissue rfl rfl hf rfl rfl ?_
  simp only [State.enter_cr, State.enter_cur]

theorem draws_fcvt (hf : s.free 1 p { xr := [a], xw := [d] } = true) {code : Nat} {r : Word × BitVec 6}
    (hcode : code = rndCode s.me.cr.cvrnd (c.toNat / 16))
    (hr : r = fcvtResult (c.toNat % 16) (rndOf code (genDraw s.me.cr.seed s.me.cr.ctrbase)) (s.rx a)) :
    Draws (.fcvt p d a c) s [.x d r.1] r.2 (if code = 2 then 1 else 0) := by
  have hissue := exec_fcvt p d a c s
  rw [execFcvt] at hissue
  by_cases hsr : code = 2
  · rw [if_pos hsr]
    refine draws_of_fly (src := .scalar) (lat := 3) hissue rfl rfl hf rfl rfl ?_
    simp only [State.enter_cr, State.enter_cur, State.enter_rx, ← hcode, ← hr]
    exact if_pos hsr
  · rw [if_neg hsr]
    refine draws_zero_of_writes (writes_of_fly (src := .scalar) (lat := 3) hissue (.inl rfl) rfl hf rfl rfl ?_)
    simp only [State.enter_cr, State.enter_cur, State.enter_rx, ← hcode, ← hr]
    exact if_neg hsr

end

/-- Settles O10: each puts its result in flight, and the counter advances by what its rounding draws. -/
theorem drawResults : Obligations.DrawResults := by
  intro s p d a c
  exact ⟨draws_rng, fun hf _ _ => draws_fcvt hf⟩

end Sys2Proof.Machine
end

section
/-! PROOF. Calls, and the reads of control registers (O12, O17). -/

namespace Sys2Proof.Machine

/-! ## Calls (O12) -/

section
variable {s : State} {p : BitVec 4} {d : BitVec 18} {a : BitVec 6}

/-- A context with one address more on its return store (R91). -/
def Ctx.pushed (w : BitVec 17) (c : Ctx) : Ctx := { c with rs := c.rs ++ [w] }
/-- A context without its youngest return address. -/
def Ctx.popped (c : Ctx) : Ctx := { c with rs := c.rs.dropLast }

theorem pushed_enter (g : BitVec 4) (r : Regs) (w : BitVec 17) :
    (Ctx.pushed w (s.enter g r).me).visible = (Ctx.pushed w s.me).visible :=
  congrArg (fun v : Visible => { v with rs := v.rs ++ [w] }) (s.enter_visible g r)

theorem popped_enter (g : BitVec 4) (r : Regs) : (Ctx.popped (s.enter g r).me).visible = (Ctx.popped s.me).visible :=
  congrArg (fun v : Visible => { v with rs := v.rs.dropLast }) (s.enter_visible g r)

theorem goes_call (hroom : s.me.rs.length < 8) (hf : s.free 0 p {} = true) : Goes (.call p d) s (s.iss.start + 4 * d.toInt) 1
    (Ctx.pushed (BitVec.ofInt 17 (s.iss.start + s.iss.len))) := by
  have hissue := exec_call p d s
  rw [execCall] at hissue
  refine goes_mod (g := Ctx.pushed (BitVec.ofInt 17 (s.iss.start + s.iss.len))) hissue (.inl rfl) rfl hf
    (if_neg (Nat.not_le.mpr hroom)) rfl ?_ (pushed_enter ..) rfl
  simp only [ctlSyl, State.branch, State.push, State.relTarget, State.modMe, State.modCtx_iss, State.enter_iss]
  rfl

theorem goes_callR (hroom : s.me.rs.length < 8) (hf : s.free 0 p { xr := [a] } = true) (hal : (s.rx a).toNat % 4 = 0) :
    Goes (.callR p a) s (s.rx a).toNat 2 (Ctx.pushed (BitVec.ofInt 17 (s.iss.start + s.iss.len))) := by
  have hissue := exec_callR p a s
  rw [execCallR] at hissue
  refine goes_mod (g := Ctx.pushed (BitVec.ofInt 17 (s.iss.start + s.iss.len))) hissue (.inl rfl) rfl hf
    ((if_neg (Nat.not_le.mpr hroom)).trans (if_pos hal)) rfl ?_ (pushed_enter ..) rfl
  simp only [ctlSyl, State.branch, State.push, State.modMe, State.modCtx_iss, State.enter_iss, State.enter_rx]
  rfl

theorem goes_ret (h : s.me.rs ≠ []) (hf : s.free 0 p {} = true) :
    Goes (.ret p) s ((s.me.rs.getLast h).toNat : Int) 1 Ctx.popped := by
  have hissue := exec_ret p s
  rw [execRet] at hissue
  have hlast : s.me.rs.getLastD 0 = s.me.rs.getLast h := by
    rw [List.getLastD_eq_getLast?, List.getLast?_eq_getLast_of_ne_nil h, Option.getD_some]
  refine goes_mod (g := Ctx.popped) hissue (.inl rfl) rfl hf (if_neg h) rfl ?_ (popped_enter ..) rfl
  simp only [ctlSyl, State.branch, State.modMe, State.modCtx_iss, State.enter_iss, State.enter_rs, hlast]
  rfl

end

/-- Settles O12: a call that finds room pushes and branches (`goes_call`, `goes_callR`), and `RET` goes to the youngest address. -/
theorem callResults : Obligations.CallResults := by
  intro s p d a
  exact ⟨fun hroom => ⟨goes_call hroom, goes_callR hroom⟩, goes_ret⟩

/-! ## `MFCR` (O17) -/

section
variable (s : State) (g : BitVec 4) (r : Regs)

@[simp] theorem State.enter_cntl : (s.enter g r).cntl s.cur = s.cntl s.cur := by
  rw [State.cntl, State.enter_ctx_cur, State.enter_flights, State.enter_reqs]
  rfl

@[simp] theorem State.enter_cnts : (s.enter g r).cnts s.cur = s.cnts s.cur := by
  have harq (n : Nat) : (s.enter g r).arQueue s.cur n = s.arQueue s.cur n := by
    rw [State.arQueue, State.enter_ctx_cur, State.enter_matq]
    rfl
  simp only [State.cnts, State.storeCount, State.arStores, State.enter_uid, State.enter_pendingStores, State.enter_reqs,
    State.enter_slot, State.enter_clu, harq]

@[simp] theorem State.enter_slotWord (a : Agent) : (s.enter g r).slotWord a = s.slotWord a := by
  cases a <;> simp [State.slotWord]

/-- A control register reads as before where a syllable begins to act. -/
@[simp] theorem State.enter_readCr (x : Nat) : (s.enter g r).readCr x = s.readCr x := by
  have hvisible := s.enter_visible g r
  simp only [Ctx.visible, Visible.mk.injEq] at hvisible
  obtain ⟨-, -, -, -, -, hrs, hcr, -, -, -, -, hstage, hfiring, hbudget, htags⟩ := hvisible
  simp only [State.readCr, State.enter_cur, State.enter_sup, State.enter_cntl, State.enter_cnts, State.enter_slotWord, hrs, hcr,
    hstage, hfiring, hbudget, htags]

end

section
variable {s : State} {p : BitVec 4} {d x : BitVec 6} {w : Word}

theorem writes_mfcr (hf : s.free 0 p { xw := [d] } = true) (hx : x.toNat < 32 ∨ isSup s.cur = true) (hw : s.readCr x.toNat = w) :
    Writes (.mfcr p d x) s [.x d w] 0 := by
  have hissue := exec_mfcr p d x s
  rw [execMfcr] at hissue
  refine writes_of_fly (src := .control) (lat := 1) hissue (hx.imp_left fun h => decide_eq_false (Nat.not_le.mpr h)) rfl hf rfl rfl ?_
  simp only [ctlSyl, State.nextX, State.enter_readCr, State.enter_cur, hw]

end

/-- Settles O17: `MFCR` puts what its index names (`State.readCr`) in flight. -/
theorem controlReads : Obligations.ControlReads := by
  intro s p d hf
  have hstage {x : BitVec 6} {w : Word} (hx : x.toNat < 32) (hw : s.readCr x.toNat = w) : Writes (.mfcr p d x) s [.x d w] 0 :=
    writes_mfcr hf (.inl hx) hw
  refine ⟨hstage (by decide) (BitVec.ofNat_toNat ..), hstage (by decide) rfl, hstage (by decide) (BitVec.ofNat_toNat ..),
    hstage (by decide) (BitVec.ofNat_toNat ..), hstage (by decide) rfl, hstage (by decide) (BitVec.ofNat_toNat ..),
    hstage (by decide) (BitVec.ofNat_toNat ..), hstage (by decide) rfl, hstage (by decide) rfl,
    hstage (by decide) (BitVec.ofNat_toNat ..), hstage (by decide) rfl, hstage (by decide) rfl, hstage (by decide) rfl,
    hstage (by decide) rfl, hstage (by decide) rfl, hstage (by decide) rfl, hstage (by decide) rfl, fun v hv => ?_⟩
  have hsup {x : BitVec 6} {w : Word} (hw : s.readCr x.toNat = w) : Writes (.mfcr p d x) s [.x d w] 0 :=
    writes_mfcr hf (.inr (by rw [hv]; rfl)) hw
  refine ⟨hsup ?_, hsup ?_, hsup ?_, hsup ?_, hsup ?_, hsup ?_⟩ <;> simp [State.readCr, hv, toWord]

end Sys2Proof.Machine
end

section
/-! PROOF. The writes of control registers (O18). -/

namespace Sys2Proof.Machine

/-! ## `MTCR` (O18) -/

/-- The field of a word that a register of fewer bits takes. -/
theorem ofNat_toNat_word (n : Nat) (w : Word) : BitVec.ofNat n w.toNat = w.setWidth n := BitVec.ofNat_toNat ..

theorem wbits_eq_shift (w : Word) (lo k : Nat) : BitVec.ofNat k (wbits w lo k) = (w >>> lo).setWidth k := by
  apply BitVec.eq_of_toNat_eq
  simp [wbits, bitsAt, Nat.shiftRight_eq_div_pow]

/-- `MODE` takes a rounding that is assigned, and 0 for the other (R95). -/
theorem write_mode (r : CtlRegs) (sup : Bool) (w : Word) : r.write sup 14 w =
    { r with cvrnd := if (w >>> 1).setWidth 2 = (3 : BitVec 2) then 0 else (w >>> 1).setWidth 2 } := by
  have hthree : wbits w 1 2 = 3 ↔ (w >>> 1).setWidth 2 = (3 : BitVec 2) := by
    have hlt : wbits w 1 2 < 4 := Nat.mod_lt _ (by decide)
    rw [← wbits_eq_shift, ← BitVec.toNat_inj, BitVec.toNat_ofNat, Nat.mod_eq_of_lt hlt]
    rfl
  simp only [CtlRegs.write, hthree, wbits_eq_shift]

/-- `SAVEBASE` is a multiple of 4,096 (R96). -/
theorem pageBase_eq (w : Word) : toWord (w.toNat / 4096 * 4096) = w >>> 12 <<< 12 := by
  apply BitVec.eq_of_toNat_eq
  simp [toWord, Nat.shiftRight_eq_div_pow, Nat.shiftLeft_eq]

/-- The two fields of `SLOTSTATE` (R96). -/
theorem slotFields_eq (w : Word) : toWord (wbits w 4 3 * 16 + wbits w 0 3) = w &&& 0x77 := by
  have hsmall : ∀ m < 128, m &&& 119 = m / 16 * 16 + m % 8 := by decide
  apply BitVec.eq_of_toNat_eq
  have hlow : w.toNat &&& 119 = w.toNat % 2 ^ 7 &&& 119 := by
    have h := Nat.and_mod_two_pow (a := w.toNat) (b := 119) (n := 7)
    rwa [Nat.mod_eq_of_lt (Nat.lt_of_le_of_lt Nat.and_le_right (by decide))] at h
  have hfields := hsmall (w.toNat % 2 ^ 7) (Nat.mod_lt _ (by decide))
  simp only [toWord, wbits, bitsAt, BitVec.toNat_ofNat, BitVec.toNat_and]
  change _ = w.toNat &&& 119
  rw [hlow, hfields]
  omega

section
variable {s : State} {p : BitVec 4} {x a : BitVec 6}

/-- The syllable of `MTCR`. -/
def mtcrSyl (p : BitVec 4) (x a : BitVec 6) : Syl :=
  { ctlSyl p { xr := [a] } (fun s =>
      match s.cur with
      | .stage _ => s.modMe (fun c => c.modCr (fun r => r.write false x.toNat (s.rx a)))
      | .sup v =>
        if x.toNat < 32 then s.modMe (fun c => c.modCr (fun r => r.write true x.toNat (s.rx a)))
        else s.writeSupCr v x.toNat (s.rx a)) with
    priv := 32 ≤ x.toNat,
    cause := fun s =>
      match s.cur with
      | .stage _ => none
      | .sup v => if x = 0x25 ∧ (s.sup v).trapc = 0 then some (0x02, s.sylValue) else none }

theorem exec_mtcrSyl : exec (.mtcr p x a) s = issue (mtcrSyl p x a) s := rfl

/-- A stage control register written (R134). -/
def Ctx.writeCr (sup : Bool) (x : Nat) (w : Word) (c : Ctx) : Ctx := c.modCr (fun r => r.write sup x w)

theorem writeCr_enter (g : BitVec 4) (r : Regs) (sup : Bool) (n : Nat) (w : Word) :
    (Ctx.writeCr sup n w (s.enter g r).me).visible = (Ctx.writeCr sup n w s.me).visible :=
  congrArg (fun v : Visible => { v with cr := v.cr.write sup n w }) (s.enter_visible g r)

/-- What `MTCR` does to a register that every agent has. -/
theorem mtcrSyl_act {u : State} (hx : x.toNat < 32) :
    (mtcrSyl p x a).act u = u.modMe (Ctx.writeCr (isSup u.cur) x.toNat (u.rx a)) := by
  cases hcur : u.cur with
  | stage i =>
    simp only [mtcrSyl, ctlSyl, hcur]
    rfl
  | sup v =>
    simp only [mtcrSyl, ctlSyl, hcur, if_pos hx]
    rfl

/-- What it does to a register of a supervisor core. -/
theorem mtcrSyl_act_sup {u : State} {v : SupId} (hcur : u.cur = .sup v) (hx : 32 ≤ x.toNat) :
    (mtcrSyl p x a).act u = u.writeSupCr v x.toNat (u.rx a) := by
  simp only [mtcrSyl, ctlSyl, hcur, if_neg (Nat.not_lt.mpr hx)]

/-- `MTCR` has a cause where it writes `CODEMAP` with no trap held, and there alone (R231). -/
theorem mtcrSyl_cause {v : SupId} (hcur : s.cur = .sup v) :
    (mtcrSyl p x a).cause s = if x = 0x25 ∧ (s.sup v).trapc = 0 then some (0x02, s.sylValue) else none := by
  simp only [mtcrSyl, hcur]

theorem mtcrSyl_cause_none (hx : x.toNat < 32) : (mtcrSyl p x a).cause s = none := by
  cases hcur : s.cur with
  | stage i => simp only [mtcrSyl, hcur]
  | sup v => exact (mtcrSyl_cause hcur).trans (if_neg fun h => absurd (h.1 ▸ hx) (by decide))

theorem goes_mtcr (hf : s.free 0 p { xr := [a] } = true) (hx : x.toNat < 32) {f : Ctx → Ctx}
    (h : ∀ c, Ctx.writeCr (isSup s.cur) x.toNat (s.rx a) c = f c) : Goes (.mtcr p x a) s s.iss.next s.iss.taken f := by
  obtain rfl : Ctx.writeCr (isSup s.cur) x.toNat (s.rx a) = f := funext h
  refine goes_mod (y := mtcrSyl p x a) (g := Ctx.writeCr (isSup s.cur) x.toNat (s.rx a)) exec_mtcrSyl
    (.inl (decide_eq_false (Nat.not_le.mpr hx))) rfl hf (mtcrSyl_cause_none hx) rfl ?_ (writeCr_enter ..) rfl
  rw [mtcrSyl_act hx, State.enter_cur, State.enter_rx]
  rw [← State.enter_iss s (mtcrSyl p x a).guard (mtcrSyl p x a).regs]
  rfl

/-- A supervisor register written: what `State.writeSupCr` does, on the state that the syllable enters (R96). -/
theorem exec_mtcr_sup {v : SupId} (hcur : s.cur = .sup v) (hf : s.free 0 p { xr := [a] } = true) (hx : 32 ≤ x.toNat)
    (hheld : x = 0x25 → (s.sup v).trapc ≠ 0) :
    exec (.mtcr p x a) s = .next ((s.enter p { xr := [a] }).writeSupCr v x.toNat (s.rx a)) := by
  have hact := mtcrSyl_act_sup (p := p) (a := a) (u := s.enter p { xr := [a] }) ((s.enter_cur ..).trans hcur) hx
  rw [State.enter_rx] at hact
  rw [← hact, exec_mtcrSyl]
  exact issue_act (.inr (by rw [hcur]; rfl)) rfl hf ((mtcrSyl_cause hcur).trans (if_neg fun h => hheld h.1 h.2)) rfl

theorem exec_mtcr_codemap_unheld {v : SupId} (hcur : s.cur = .sup v) (hf : s.free 0 p { xr := [a] } = true)
    (h : (s.sup v).trapc = 0) : exec (.mtcr p 0x25 a) s = .next (s.raise 2 0x02 s.sylValue) :=
  issue_cause (t := (0x02, s.sylValue)) (.inr (by rw [hcur]; rfl)) rfl hf ((mtcrSyl_cause hcur).trans (if_pos ⟨rfl, h⟩))

end

/-! ### `CODEMAP` (R231) -/

/-- An entry put on the agenda is all that changes of it. -/
theorem mem_insertDue {e f : Due} {l : List Due} : f ∈ insertDue e l ↔ f = e ∨ f ∈ l := by
  induction l with
  | nil => simp [insertDue]
  | cons d l ih =>
    rw [insertDue]
    split
    case isTrue => simp only [List.mem_cons, ih, or_left_comm]
    case isFalse => simp only [List.mem_cons]

/-- Events scheduled one after another, each some cycles from now. -/
def State.scheduleAll {α : Type} (delay : α → Nat) (ev : α → Event) (s : State) (l : List α) : State :=
  l.foldl (fun s x => s.schedule (s.cycle + delay x) priPort (ev x)) s

section
variable {α : Type} (delay : α → Nat) (ev : α → Event)

theorem mem_scheduleAll {s : State} {l : List α} {e : Due} : e ∈ (s.scheduleAll delay ev l).agenda ↔
    e ∈ s.agenda ∨ ∃ x ∈ l, e = { cycle := s.cycle + delay x, pri := priPort, ev := ev x } := by
  induction l generalizing s with
  | nil => simp [State.scheduleAll]
  | cons x l ih =>
    rw [State.scheduleAll, List.foldl_cons]
    refine ih.trans ?_
    rw [State.schedule_cycle, State.schedule, mem_insertDue]
    simp only [List.mem_cons, exists_eq_or_imp]
    tauto

theorem scheduleAll_agenda (s : State) (l : List α) : ∃ agenda, s.scheduleAll delay ev l = { s with agenda := agenda } := by
  induction l generalizing s with
  | nil => exact ⟨_, rfl⟩
  | cons x l ih => exact ih _

@[simp] theorem scheduleAll_cycle (s : State) (l : List α) : (s.scheduleAll delay ev l).cycle = s.cycle := by
  obtain ⟨_, h⟩ := scheduleAll_agenda delay ev s l
  rw [h]

end

/-- The pages that a write of `CODEMAP` maps: those of the set bits that change and have backing. -/
theorem pageChanges_maps (old : BitVec 32) (w : Word) (backed : Nat → Bool) :
    (pageChanges old w).filter (fun q => q.2 && backed q.1) =
      ((List.range 32).filter (fun n => !old.getLsbD n && w.getLsbD n && backed n)).map (fun n => (n, true)) := by
  rw [pageChanges]
  induction List.range 32 with
  | nil => rfl
  | cons n l ih =>
    rw [List.filterMap_cons, List.filter_cons]
    cases hold : old.getLsbD n <;> cases hw : w.getLsbD n <;> cases hb : backed n <;> simp [ih, hb]

/-- The pages that it unmaps: those whose bit it clears. -/
theorem mem_pageChanges_unmapped {old : BitVec 32} {w : Word} {q : Nat × Bool} :
    q ∈ (pageChanges old w).filter (fun q => !q.2) ↔
      q.1 < 32 ∧ old.getLsbD q.1 = true ∧ w.getLsbD q.1 = false ∧ q.2 = false := by
  obtain ⟨n, b⟩ := q
  simp only [pageChanges, List.mem_filter, List.mem_filterMap, List.mem_range]
  constructor
  · rintro ⟨⟨m, hm, h⟩, hb⟩
    split at h
    · exact absurd h nofun
    · next hne =>
      obtain ⟨rfl, rfl⟩ := Prod.mk.inj (Option.some.inj h)
      simp only [Bool.not_eq_true'] at hb
      exact ⟨hm, by simpa [hb] using hne, hb, hb⟩
  · rintro ⟨hn, hold, hw, rfl⟩
    exact ⟨⟨n, hn, by simp [hold, hw]⟩, rfl⟩

@[simp] theorem enter_agenda (s : State) (g : BitVec 4) (r : Regs) : (s.enter g r).agenda = s.agenda := by
  obtain ⟨_, _, h⟩ := (enter_tagsOnly s g r).rest
  rw [h]

/-- The pages that a write of `CODEMAP` copies. -/
def State.mapsOf (s : State) (c : CoreId) (w : Word) : List Nat :=
  (List.range 32).filter (fun n => !(s.core c).mapped.getLsbD n && w.getLsbD n && (tfind (s.core c).backing n).isSome)

/-- What a write of `CODEMAP` schedules. -/
def State.remapping (s : State) (c : CoreId) (w : Word) : State :=
  (s.scheduleAll (fun _ => 1) (fun q => .codemapUnmapPage c q.1)
    ((pageChanges (s.core c).mapped w).filter (fun q => !q.2))).scheduleAll
    (fun q => 64 * (q.2 + 1)) (fun q => .codemapMapPage c q.1.1) ((s.mapsOf c w).map (fun n => (n, true))).zipIdx

/-- The core waits for the copies of its pages. -/
def State.awaitMaps (s : State) (a : Agent) (n : Nat) : State :=
  s.modCtx a (fun c => { c with notBefore := max c.notBefore (s.cycle + 1 + 64 * n) })

theorem writeCodemap_held {s : State} {v : SupId} {i : SlotId} (h : (s.sup v).held = some i) (w : Word) :
    s.writeCodemap v w = (s.remapping i.core w).awaitMaps (.sup v) (s.mapsOf i.core w).length := by
  have hmaps := pageChanges_maps (s.core i.core).mapped w (fun n => (tfind (s.core i.core).backing n).isSome)
  simp only [State.writeCodemap, h, hmaps, List.length_map]
  rfl

section
variable {s : State} {c : CoreId} {w : Word} {e : Due}

/-- What a write of `CODEMAP` puts on the agenda. -/
theorem mem_remapping : e ∈ (s.remapping c w).agenda ↔ e ∈ s.agenda ∨
    (∃ n < 32, (s.core c).mapped.getLsbD n = true ∧ w.getLsbD n = false ∧
      e = { cycle := s.cycle + 1, pri := priPort, ev := .codemapUnmapPage c n }) ∨
    (∃ k, ∃ h : k < (s.mapsOf c w).length,
      e = { cycle := s.cycle + 64 * (k + 1), pri := priPort, ev := .codemapMapPage c (s.mapsOf c w)[k] }) := by
  rw [State.remapping, mem_scheduleAll, mem_scheduleAll, scheduleAll_cycle, or_assoc]
  refine or_congr_right (or_congr ?_ ?_)
  · simp only [mem_pageChanges_unmapped]
    constructor
    · rintro ⟨⟨n, b⟩, ⟨hn, hold, hw, -⟩, rfl⟩
      exact ⟨n, hn, hold, hw, rfl⟩
    · rintro ⟨n, hn, hold, hw, rfl⟩
      exact ⟨(n, false), ⟨hn, hold, hw, rfl⟩, rfl⟩
  · simp only [List.mem_zipIdx_iff_getElem?, List.getElem?_map]
    constructor
    · rintro ⟨⟨⟨n, b⟩, k⟩, hk, rfl⟩
      obtain ⟨m, hm, hn⟩ := Option.map_eq_some_iff.mp hk
      obtain ⟨hlt, hm⟩ := List.getElem?_eq_some_iff.mp hm
      obtain ⟨rfl, -⟩ := Prod.mk.inj hn
      exact ⟨k, hlt, hm ▸ rfl⟩
    · rintro ⟨k, hk, rfl⟩
      exact ⟨(((s.mapsOf c w)[k], true), k), by simp [hk], rfl⟩

theorem remapping_agenda (s : State) (c : CoreId) (w : Word) : ∃ agenda, s.remapping c w = { s with agenda := agenda } := by
  obtain ⟨a, ha⟩ := scheduleAll_agenda (fun _ => 1) (fun q => .codemapUnmapPage c q.1) s
    ((pageChanges (s.core c).mapped w).filter (fun q => !q.2))
  rw [State.remapping, ha]
  exact scheduleAll_agenda ..

end

/-- A write of `CODEMAP` leaves the core as it was, but that it waits. -/
theorem remapping_leaves {s : State} {v : SupId} (hcur : s.cur = .sup v) (c : CoreId) (w : Word) (n : Nat) :
    ((((s.remapping c w).awaitMaps (.sup v) n).ctx s.cur).visible = s.me.visible ∧
      s.cycle + 64 * n < (((s.remapping c w).awaitMaps (.sup v) n).ctx s.cur).notBefore) ∧
    Kept s ((s.remapping c w).awaitMaps (.sup v) n) := by
  obtain ⟨agenda, hagenda⟩ := remapping_agenda s c w
  have hctx : ((s.remapping c w).awaitMaps (.sup v) n).ctx s.cur =
      { s.me with notBefore := max s.me.notBefore (s.cycle + 1 + 64 * n) } := by
    rw [hagenda, State.awaitMaps, hcur, State.ctx_modCtx_same, State.me, hcur]
    rfl
  refine ⟨⟨by rw [hctx]; rfl, ?_⟩, ?_⟩
  · rw [hctx]
    exact lt_of_lt_of_le (by omega) (Nat.le_max_right ..)
  · rw [hagenda]
    refine kept_of_own (fun a ha => ?_) rfl rfl rfl rfl rfl rfl rfl
    rw [State.awaitMaps, State.ctx_modCtx, if_neg (hcur ▸ ha)]
    rfl

/-- A write of `CODEMAP` with a trap held: its pages are on the agenda, and the core waits (R231). -/
theorem exec_mtcr_codemap {s : State} {p : BitVec 4} {a : BitVec 6} {v : SupId} {i : SlotId} (hcur : s.cur = .sup v)
    (hf : s.free 0 p { xr := [a] } = true) (hheld : (s.sup v).held = some i) (htrap : (s.sup v).trapc ≠ 0) :
    ∃ t, exec (.mtcr p 0x25 a) s = .next t ∧ (∀ e, e ∈ t.agenda ↔ e ∈ (s.remapping i.core (s.rx a)).agenda) ∧
      s.cycle + 64 * (s.mapsOf i.core (s.rx a)).length < (t.ctx s.cur).notBefore ∧ (t.ctx s.cur).visible = s.me.visible ∧
      Kept s t := by
  have hexec := exec_mtcr_sup hcur hf (x := 0x25) (by decide) fun _ => htrap
  have hcode : (s.enter p { xr := [a] }).writeSupCr v (0x25 : BitVec 6).toNat (s.rx a) =
      (s.enter p { xr := [a] }).writeCodemap v (s.rx a) := rfl
  have hmaps : (s.enter p { xr := [a] }).mapsOf i.core (s.rx a) = s.mapsOf i.core (s.rx a) := by simp [State.mapsOf]
  have hmem (e : Due) : e ∈ ((s.enter p { xr := [a] }).remapping i.core (s.rx a)).agenda ↔
      e ∈ (s.remapping i.core (s.rx a)).agenda := by simp only [mem_remapping, hmaps, State.enter_cycle, State.enter_core, enter_agenda]
  obtain ⟨⟨hvisible, hwait⟩, hkept⟩ := remapping_leaves (s := s.enter p { xr := [a] }) ((s.enter_cur ..).trans hcur) i.core (s.rx a)
    (s.mapsOf i.core (s.rx a)).length
  rw [hcode, writeCodemap_held ((congrArg Sup.held (s.enter_sup ..)).trans hheld), hmaps] at hexec
  rw [State.enter_cur, State.enter_visible] at hvisible
  rw [State.enter_cur, State.enter_cycle] at hwait
  exact ⟨_, hexec, hmem, hwait, hvisible, (enter_kept ..).trans hkept (by simp)⟩

/-- Settles O18: a register that every agent has is written field by field (`goes_mtcr`), a supervisor core's in its own record
(`exec_mtcr_sup`), and `CODEMAP` by the events of its pages (`mem_remapping`). -/
theorem controlWrites : Obligations.ControlWrites := by
  rintro s p a hf w rfl
  have hgoes {x : BitVec 6} {f : Ctx → Ctx} (hx : x.toNat < 32)
      (h : ∀ c, Ctx.writeCr (isSup s.cur) x.toNat (s.rx a) c = f c) : Goes (.mtcr p x a) s s.iss.next s.iss.taken f := goes_mtcr hf hx h
  refine ⟨hgoes (by decide) fun _ => rfl, hgoes (by decide) fun _ => ?_, hgoes (by decide) fun _ => ?_, hgoes (by decide) fun _ => rfl,
    hgoes (by decide) fun _ => rfl, hgoes (by decide) fun _ => ?_, hgoes (by decide) fun _ => ?_,
    hgoes (by decide) fun c => congrArg (fun r => { c with cr := r }) (write_mode ..),
    fun x hx => ?_, fun i hi => hgoes (by decide) fun _ => by rw [hi]; rfl, fun v hv => ?_⟩
  · rw [← ofNat_toNat_word]
    rfl
  · rw [← ofNat_toNat_word]
    rfl
  · rw [← ofNat_toNat_word]
    rfl
  · rw [← wbits_eq_shift]
    rfl
  · simp only [List.mem_cons, List.not_mem_nil, or_false] at hx
    rcases hx with rfl | rfl | rfl | rfl | rfl | rfl | rfl | rfl <;> exact hgoes (by decide) fun _ => rfl
  · have hsup {x : BitVec 6} (hx : 32 ≤ x.toNat) (hx' : x ≠ 0x25) :
        exec (.mtcr p x a) s = .next ((s.enter p { xr := [a] }).writeSupCr v x.toNat (s.rx a)) :=
      exec_mtcr_sup hv hf hx fun h => absurd h hx'
    refine ⟨hgoes (by decide) fun _ => ?_, (hsup (by decide) (by decide)).trans ?_, (hsup (by decide) (by decide)).trans ?_,
      hsup (by decide) (by decide), (hsup (by decide) (by decide)).trans ?_, (hsup (by decide) (by decide)).trans ?_,
      exec_mtcr_codemap_unheld hv hf, ?_⟩
    · rw [hv, ← ofNat_toNat_word]
      rfl
    · rw [← ofNat_toNat_word]
      rfl
    · rw [← ofNat_toNat_word]
      rfl
    · rw [← pageBase_eq]
      rfl
    · rw [← slotFields_eq]
      rfl
    · rintro i hheld htrap old maps rfl rfl
      obtain ⟨t, hexec, hmem, hwait, hvisible, hkept⟩ := exec_mtcr_codemap hv hf hheld htrap
      simp only [mem_remapping] at hmem
      refine ⟨t, hexec, hwait, fun k h => ?_, fun n hn hold hw => ?_, fun e he => ?_, hvisible, hkept⟩
      · exact (hmem _).mpr (.inr (.inr ⟨k, h, rfl⟩))
      · exact (hmem _).mpr (.inr (.inl ⟨n, hn, hold, hw, rfl⟩))
      · rcases (hmem e).mp he with he | ⟨n, hn, hold, hw, rfl⟩ | ⟨k, hk, rfl⟩
        · exact .inl he
        · exact .inr (.inr ⟨n, hn, hold, hw, rfl⟩)
        · exact .inr (.inl ⟨_, List.getElem_mem hk, rfl⟩)

end Sys2Proof.Machine
end

section
/-! PROOF. The gathers and the response of the posting engine ask for a fill (O41). -/

namespace Sys2Proof.Machine

/-! ## A tag taken (R84) -/

/-- A tag made not ready. -/
theorem setReady_false (c : Ctx) (tag n : Nat) (hn : n < 16) :
    (c.setReady tag false).tags.ready.getLsbD n = (decide (n ≠ tag) && c.tags.ready.getLsbD n) := by
  simp only [Ctx.setReady, BitVec.getLsbD_ofNat, hn, decide_true, Bool.true_and]
  rw [putBits_one _ _ _ _ (by decide)]
  by_cases h : n = tag
  · simp [h, bit]
  · rw [if_neg h, decide_eq_true h, Bool.true_and, BitVec.testBit_toNat]

section
variable (c : Ctx) (tag : Nat) (v : Option (BitVec 5))

theorem takeTag_ready {n : Nat} (hn : n < 16) :
    (c.takeTag tag v).tags.ready.getLsbD n = (decide (n ≠ tag) && c.tags.ready.getLsbD n) := by
  cases v <;> exact setReady_false c tag n hn

/-- A tag that is taken changes the tags alone. -/
theorem takeTag_visible : { (c.takeTag tag v).visible with tags := 0 } = { c.visible with tags := 0 } := by
  cases v <;> rfl

theorem takeTag_flights : (c.takeTag tag v).flights = c.flights := by cases v <;> rfl

end

/-- A tag taken for a vector register is bound to it. -/
theorem takeTag_bound (c : Ctx) {tag : Nat} (h8 : 8 ≤ tag) (h16 : tag < 16) (r : BitVec 5) :
    (c.takeTag tag (some r)).tags.bound.getLsbD (tag - 8) = true ∧
      (c.takeTag tag (some r)).tags.vreg.toList[tag - 8]? = some r := by
  have hlt : tag - 8 < 8 := by omega
  refine ⟨?_, ?_⟩
  · simp only [Ctx.takeTag, BitVec.getLsbD_ofNat, hlt, decide_true, Bool.true_and]
    rw [putBits_one _ _ _ _ (by decide)]
    simp
  · simp [Ctx.takeTag, Ctx.setReady, hlt]

/-! ## A fill asked for -/

section
variable (s : State) (op : EngOp)

theorem askEngine_die (d : DieId) : (s.askEngine op).die d =
    if d = dieOf s.cur then { s.die d with engine := (s.die d).engine ++ [asked s op] } else s.die d := by
  rw [State.askEngine, State.tick1_die, State.die_modDie]
  split
  case isTrue h => rw [h]; rfl
  case isFalse => rfl

theorem kept_askEngine : Kept s (s.askEngine op) := by
  have hdie (d : DieId) : ((s.askEngine op).die d).gallery = (s.die d).gallery ∧
      ((s.askEngine op).die d).codeStore = (s.die d).codeStore := by
    rw [askEngine_die]
    split <;> exact ⟨rfl, rfl⟩
  refine ⟨fun _ _ => rfl, rfl, rfl, rfl, rfl, rfl, rfl, ?_⟩
  refine ⟨fun h a => ?_, fun g _ => ?_, fun g _ => ?_, fun _ _ => rfl, fun _ _ => rfl, fun d a => ?_, fun _ _ => rfl⟩
  · cases h with
    | die d => simp [State.homeMem, hdie]
    | core _ | ctrl _ | host _ _ => rfl
  · cases g <;> rfl
  · cases g <;> rfl
  · simp [hdie]

end

@[simp] theorem enter_engine (s : State) (g : BitVec 4) (r : Regs) (d : DieId) : ((s.enter g r).die d).engine = (s.die d).engine := by
  obtain ⟨_, _, _, h⟩ := (enter_tagsOnly s g r).dieSame d
  rw [h]

theorem enter_ready (s : State) (g : BitVec 4) (r : Regs) : (s.enter g r).me.tags.ready = s.me.tags.ready := by
  obtain ⟨_, _, _, _, h, hready, -⟩ := (enter_tagsOnly s g r).mine
  rw [h, hready]

/-- What asking for a fill leaves of a state: the request is in the queue of the engine, the context takes the tag (and may note that the
matrix registers are used), the core changes by `f`, and the rest is kept. -/
structure AskedFill (s t : State) (op : EngOp) (tag : Nat) (v : Option (BitVec 5)) (f : Core → Core) : Prop where
  engine : (t.die (dieOf s.cur)).engine = (s.die (dieOf s.cur)).engine ++ [asked s op]
  mine : ∃ mu, t.ctx s.cur = ({ s.me with mu := mu } : Ctx).takeTag tag v
  core : ∀ j, s.cur = .stage j → ∀ c, t.core c = if c = j.core then f (s.core c) else s.core c
  kept : Kept s { t with cores := s.cores }

/-- An instruction that asks for a fill on the state that it enters. -/
theorem fills_of_asked {i : Instr} {s t : State} {g : BitVec 4} {r : Regs} {op : EngOp} {tag : Nat} {v : Option (BitVec 5)}
    {f : Core → Core} (hexec : exec i s = .next t) (hasked : AskedFill (s.enter g r) t op tag v f) (h16 : tag < 16)
    (hv : ∀ r, v = some r → 8 ≤ tag) : Fills i s op tag v f := by
  obtain ⟨hengine, ⟨mu, hmine⟩, hcore, hkept⟩ := hasked
  have hop : asked (s.enter g r) op = asked s op := by simp [asked]
  rw [State.enter_cur] at hmine hcore hengine
  refine ⟨t, hexec, ?_, fun n hn => ?_, fun r hr => ?_, ?_, ?_, fun j hj c => ?_, ?_⟩
  · rw [hengine, enter_engine, hop]
  · rw [hmine, takeTag_ready _ _ _ hn, ← enter_ready s g r]
  · rw [hmine, hr]
    exact takeTag_bound _ (hv r hr) h16 r
  · rw [hmine, takeTag_visible, ← s.enter_visible g r]
    rfl
  · rw [hmine, takeTag_flights, ← s.enter_flights g r]
  · rw [hcore j hj, State.enter_core]
  · exact (enter_kept s g r).trans (by simpa using hkept) (by simp)

theorem takeTag_me (s : State) (tag : Nat) (v : Option (BitVec 5)) : (s.takeTag tag v).ctx s.cur = s.me.takeTag tag v :=
  State.ctx_modCtx_same s s.cur (fun c => c.takeTag tag v)

theorem kept_modMe (s : State) (f : Ctx → Ctx) : Kept s (s.modMe f) :=
  kept_of_own (fun a h => by simp [State.modMe, State.ctx_modCtx, h]) rfl rfl rfl rfl rfl rfl rfl

theorem kept_takeTag (s : State) (tag : Nat) (v : Option (BitVec 5)) : Kept s (s.takeTag tag v) :=
  (kept_modMe s (fun c => c.takeTag tag v)).trans (kept_of_own (fun _ _ => rfl) rfl rfl rfl rfl rfl rfl rfl) rfl

theorem askedFill_vector (s : State) (op : EngOp) (tag : Nat) (r : BitVec 5) :
    AskedFill s ((s.askEngine op).takeTag tag (some r)) op tag (some r) id := by
  refine ⟨?_, ⟨s.me.mu, takeTag_me ..⟩, fun j _ c => (ite_self _).symm, (kept_askEngine s op).trans (kept_takeTag ..) rfl⟩
  exact (congrArg Die.engine (askEngine_die s op _)).trans (by rw [if_pos rfl])

theorem askedFill_tile {s : State} {j : SlotId} (hcur : s.cur = .stage j) (k : BitVec 3) (fmt : Nat) (op : EngOp) :
    AskedFill s (s.askTile k fmt op) op k.toNat none (tileTagged k fmt) := by
  obtain ⟨u, hu⟩ : ∃ u, u = s.askEngine op := ⟨_, rfl⟩
  have htag : s.askTile k fmt op = (((u.modCore j.core (tileTagged k fmt)).markUsed).takeTag k.toNat none) := by
    rw [hu, State.askTile, State.setTileTag, State.modMyCore, show (s.askEngine op).cur = .stage j from hcur]
    rfl
  subst hu
  rw [htag]
  refine ⟨?_, ⟨true, ?_⟩, fun i hi c => ?_, ?_⟩
  · exact (congrArg Die.engine (askEngine_die s op _)).trans (by rw [if_pos rfl])
  · refine (takeTag_me (((s.askEngine op).modCore j.core (tileTagged k fmt)).markUsed) k.toNat none).trans ?_
    exact congrArg (fun c : Ctx => c.takeTag k.toNat none) (State.ctx_modCtx_same ((s.askEngine op).modCore j.core (tileTagged k fmt))
      s.cur (fun c => { c with mu := true }))
  · obtain rfl := Agent.stage.inj (hcur.symm.trans hi)
    refine (State.core_modCore (s.askEngine op) j.core c (tileTagged k fmt)).trans ?_
    split
    case isTrue h => rw [h]; rfl
    case isFalse => rfl
  · exact ((kept_askEngine s op).trans (kept_modMe _ (fun c => { c with mu := true })) rfl).trans (kept_takeTag ..) rfl

/-! ## The gathers and the response (O41) -/

section
variable {s : State} {p t : BitVec 4} {v d : BitVec 5} {k : BitVec 3} {m : BitVec 2} {b : BitVec 6}

theorem tagKept_of_ready {tag : Nat} (h : s.me.tags.ready.getLsbD tag = true) : s.tagKept tag = false := by
  simp [State.tagKept, h]

theorem gatherWait_go {tag : Nat} (hd : s.tdPending d = false) (h : s.me.tags.ready.getLsbD tag = true) : s.gatherWait d tag = .go := by
  simp [State.gatherWait, hd, tagKept_of_ready h]

theorem gatherWait_tag {tag : Nat} (hd : s.tdPending d = false) (h : s.me.tags.ready.getLsbD tag = false) (ht : tag ∉ s.iss.took) :
    s.gatherWait d tag = .tag [tag] := by
  simp [State.gatherWait, hd, State.tagKept, h, ht]

theorem isSup_false (h : isSup s.cur = false) : ∃ j, s.cur = .stage j := by
  cases hcur : s.cur with
  | stage j => exact ⟨j, rfl⟩
  | sup v => rw [hcur] at h; exact absurd h nofun

/-- The syllable of the vector form of `GATH`. -/
def gathVectorSyl (s : State) (p : BitVec 4) (v d : BitVec 5) (t : BitVec 4) : Syl :=
  { memSyl p { vw := [physOf s.me.cr.vrb v] } (fun u =>
      (u.askEngine (.gathV (s.desc d) (physOf u.me.cr.vrb v) t)).takeTag t.toNat (some (physOf u.me.cr.vrb v))) with
    typeOk := (s.desc d).ok && ((s.desc d).space = 2 || (s.desc d).space = 3) &&
      (s.desc d).fmt ∈ [0x00, 0x02, 0x03, 0x04, 0x08, 0x09, 0x0A, 0x0B, 0x0C, 0x0D] && 8 ≤ t.toNat,
    cause := gatherCause (s.desc d).space (s.desc d).gatherLanes,
    wait := fun s => s.gatherWait d t.toNat }

theorem exec_gathVectorSyl : exec (.gathVector p v d t) s = issue (gathVectorSyl s p v d t) s := rfl

theorem gathVector_typeOk (hok : (s.desc d).ok = true) (hspace : (s.desc d).space = 2 ∨ (s.desc d).space = 3)
    (hfmt : (s.desc d).fmt ∈ [0, 2, 3, 4, 8, 9, 10, 11, 12, 13]) (ht : 8 ≤ t.toNat) : (gathVectorSyl s p v d t).typeOk = true := by
  simp only [gathVectorSyl, hok, Bool.true_and, Bool.and_eq_true, Bool.or_eq_true, decide_eq_true_eq]
  exact ⟨⟨hspace, hfmt⟩, ht⟩

theorem fills_gathVector (hok : (gathVectorSyl s p v d t).typeOk = true) (h8 : 8 ≤ t.toNat) (hd : s.tdPending d = false)
    (hf : s.free 2 p { vw := [physOf s.me.cr.vrb v] } = true) (hc : gatherCause (s.desc d).space (s.desc d).gatherLanes s = none)
    (hready : s.me.tags.ready.getLsbD t.toNat = true) :
    Fills (.gathVector p v d t) s (.gathV (s.desc d) (physOf s.me.cr.vrb v) t) t.toNat (some (physOf s.me.cr.vrb v)) id := by
  have hact := issue_act (y := gathVectorSyl s p v d t) (.inl rfl) hok hf hc (gatherWait_go hd hready)
  refine fills_of_asked (g := p) (r := { vw := [physOf s.me.cr.vrb v] }) (exec_gathVectorSyl.trans hact) ?_ t.isLt fun _ _ => h8
  rw [← State.enter_cr s p { vw := [physOf s.me.cr.vrb v] }]
  exact askedFill_vector ..

theorem exec_gathVector_waits (hok : (gathVectorSyl s p v d t).typeOk = true) (hd : s.tdPending d = false)
    (hf : s.free 2 p { vw := [physOf s.me.cr.vrb v] } = true) (hc : gatherCause (s.desc d).space (s.desc d).gatherLanes s = none)
    (hready : s.me.tags.ready.getLsbD t.toNat = false) (htook : t.toNat ∉ s.iss.took) :
    exec (.gathVector p v d t) s = .next (s.stallOn [t.toNat]) := by
  rw [exec_gathVectorSyl, issue_answer (.inl rfl) hok hf hc]
  exact congrArg (Syl.answer _ s) (gatherWait_tag hd hready htook)

/-- A form that fills a tile of a stage asks for it. -/
theorem fills_tile {i : Instr} {y : Syl} {r : Regs} {fmt : Nat} {op : EngOp} (h : exec i s = issue y s) (hs : isSup s.cur = false)
    (hy : y.cls = 2 ∧ y.guard = p ∧ y.regs = r) (hp : y.priv = false) (hok : y.typeOk = true) (hf : s.free 2 p r = true)
    (hc : y.cause s = none) (hw : y.wait s = .go) (ha : y.act (s.enter p r) = (s.enter p r).askTile k fmt op) :
    Fills i s op k.toNat none (tileTagged k fmt) := by
  obtain ⟨hcls, rfl, rfl⟩ := hy
  obtain ⟨j, hj⟩ := isSup_false hs
  have hact := issue_act (y := y) (.inl hp) hok (by rw [hcls]; exact hf) hc hw
  rw [ha] at hact
  exact fills_of_asked (h.trans hact) (askedFill_tile ((s.enter_cur ..).trans hj) k fmt op) (k.isLt.trans (by decide)) nofun

theorem fills_gathTile (hok : (s.desc d).ok = true) (hspace : (s.desc d).space = 2 ∨ (s.desc d).space = 3)
    (hfmt : denseFmt (s.desc d).fmt = true) (hs : isSup s.cur = false) (hd : s.tdPending d = false)
    (hf : s.free 2 p { tw := [k] } = true) (hc : gatherCause (s.desc d).space (s.desc d).gatherRows s = none)
    (hready : s.me.tags.ready.getLsbD k.toNat = true) :
    Fills (.gathTile p k d) s (.gathT (s.desc d) k) k.toNat none (tileTagged k (s.desc d).fmt) := by
  have hissue := exec_gathTile p k d s
  rw [execGathTile] at hissue
  refine fills_tile (p := p) (r := { tw := [k] }) hissue hs ⟨rfl, rfl, rfl⟩ rfl ?_ hf hc (gatherWait_go hd hready) rfl
  simpa only [hok, hfmt, hs, Bool.true_and, Bool.and_true, Bool.not_false, Bool.or_eq_true, decide_eq_true_eq] using hspace

theorem fills_sqGath (hok : (s.desc d).ok = true) (hspace : (s.desc d).space = 4)
    (hfmt : if m = 0 then denseFmt (s.desc d).fmt = true else (s.desc d).fmt = 0x18) (hs : isSup s.cur = false)
    (hd : s.tdPending d = false) (hf : s.free 2 p { xr := [b], tw := [k] } = true) (hready : s.me.tags.ready.getLsbD k.toNat = true) :
    Fills (.sqGath p m k d b) s (.sqGath (s.desc d) k m (s.rx b)) k.toNat none (tileTagged k (if m = 0 then (s.desc d).fmt else 9)) := by
  have hissue := exec_sqGath p m k d b s
  rw [execSqGath] at hissue
  refine fills_tile (p := p) (r := { xr := [b], tw := [k] }) hissue hs ⟨rfl, rfl, rfl⟩ rfl ?_ hf rfl (gatherWait_go hd hready) ?_
  · simp only [hok, hspace, hs, Bool.true_and, Bool.and_true, Bool.not_false, decide_true]
    split at hfmt
    case isTrue hm => rw [if_pos hm, hfmt]
    case isFalse hm => rw [if_neg hm]; exact decide_eq_true hfmt
  · simp only [memSyl, State.enter_rx]

theorem fills_plRsp (hs : isSup s.cur = false) (h8 : 8 ≤ t.toNat)
    (hf : s.free 2 p { xr := [b], vw := [physOf s.me.cr.vrb v] } = true) (hready : s.me.tags.ready.getLsbD t.toNat = true) :
    Fills (.plRsp p v b t) s (.rsp (s.rx b) (physOf s.me.cr.vrb v) t) t.toNat (some (physOf s.me.cr.vrb v)) id := by
  have hissue := exec_plRsp p v b t s
  rw [execPlRsp] at hissue
  have hact := hissue.trans (issue_act (.inl rfl) (by simp [hs, h8]) hf rfl (by simp [tagKept_of_ready hready]))
  refine fills_of_asked (g := p) (r := { xr := [b], vw := [physOf s.me.cr.vrb v] }) hact ?_ t.isLt fun _ _ => h8
  rw [← State.enter_cr s p { xr := [b], vw := [physOf s.me.cr.vrb v] }, ← State.enter_rx s p { xr := [b], vw := [physOf s.me.cr.vrb v] }]
  exact askedFill_vector ..

end

/-- Settles O41: each form is a MEM syllable that asks its engine and takes its tag (`askedFill_vector`, `askedFill_tile`). -/
theorem gatherAsks : Obligations.GatherAsks := by
  rintro s p v d k m t b td r rfl rfl
  refine ⟨fun hok hspace hd => ⟨fun hfmt h8 hf hc => ?_, fun hfmt hs hf hc hready => fills_gathTile hok hspace hfmt hs hd hf hc hready⟩,
    fun hok hspace hfmt hd hs hf hready => fills_sqGath hok hspace hfmt hs hd hf hready,
    fun hs h8 hf hready => fills_plRsp hs h8 hf hready, fun h8 => ⟨?_, ?_⟩⟩
  · have hty := gathVector_typeOk (p := p) (v := v) hok hspace hfmt h8
    exact ⟨fills_gathVector hty h8 hd hf hc, exec_gathVector_waits hty hd hf hc⟩
  · rw [exec_gathVectorSyl]
    exact issue_type (.inl rfl) (by simp [gathVectorSyl, h8])
  · rw [exec_plRsp, execPlRsp]
    exact issue_type (.inl rfl) (by simp [h8])

end Sys2Proof.Machine
end

section
/-! PROOF. The VEC instructions that convert, quantise and draw (O35). -/

namespace Sys2Proof.Machine

/-! ## A VEC instruction that draws -/

/-- The act of a VEC syllable that nothing keeps: its result is in flight, and its draws are made (R116). -/
theorem vecSyl_act_drawn {s u : State} {p : BitVec 4} {i : Instr} {y : VecSem}
    (ht : u.me.pendingTags ((vecRegsOf u i).vr ++ (vecRegsOf u i).vw) = []) (hq : u.me.vecq = []) :
    (vecSyl p i y s).act u = (u.fly u.cur .vector y.lat ((y.run u.vecEnv).1.map (RegWrite.phys u.me.cr.vrb))
      (y.run u.vecEnv).2 none).advanceCtr (y.draws u.me.cr.cvrnd) := by
  change State.advanceCtr (State.tick1 (ite _ _ _)) _ = _
  rw [if_neg (by rw [ht, hq]; simp)]
  rfl

/-- A VEC instruction that executes as it issues writes the results of its meaning, and draws. -/
theorem draws_vec {s : State} {p : BitVec 4} {i : Instr} {y : VecSem} {ws : List RegWrite} {fl : BitVec 6}
    (h : exec i s = issue (vecSyl p i y s) s) (ht : y.typeOk = true) (hn : vecNow s p i) (hr : y.run s.vecEnv = (ws, fl)) :
    Draws i s (ws.map (RegWrite.phys s.me.cr.vrb)) fl (y.draws s.me.cr.cvrnd) := by
  obtain ⟨hf, htags, hq⟩ := hn
  obtain ⟨u, hu⟩ : ∃ u, s.enter p (vecRegsOf s i) = u := ⟨_, rfl⟩
  have htags' : u.me.pendingTags ((vecRegsOf u i).vr ++ (vecRegsOf u i).vw) = [] := by
    rw [← hu, vecRegsOf_enter, State.enter_pendingTags, htags]
  have hact := vecSyl_act_drawn (s := s) (p := p) (y := y) htags' (by rw [← hu, State.enter_vecq, hq])
  rw [← hu, vecEnv_enter, hr, State.enter_cr, State.enter_cur] at hact
  have hnext := issue_act (y := vecSyl p i y s) (.inl rfl) ht hf rfl rfl
  have hkept := kept_fly (s.enter p (vecRegsOf s i)) .vector y.lat (ws.map (RegWrite.phys s.me.cr.vrb)) fl none
  rw [State.enter_cur] at hkept
  have hyields : Yields s ((s.enter p (vecRegsOf s i)).fly s.cur .vector y.lat (ws.map (RegWrite.phys s.me.cr.vrb)) fl none)
      (ws.map (RegWrite.phys s.me.cr.vrb)) fl := yields_fly (State.enter_cur ..) (State.enter_ctx_cur ..)
  exact draws_of_yields ((h.trans hnext).trans (congrArg Host.Outcome.next hact)) (by simp [State.fly, State.flyAs])
    hyields ((enter_kept s p (vecRegsOf s i)).trans hkept (by simp))

/-- The rounding that a two-bit field chooses (R165). -/
theorem rndCode_field (cvrnd k : BitVec 2) : rndCode cvrnd k.toNat = if k = 0 then cvrnd.toNat else k.toNat - 1 := by
  rw [rndCode]
  congr 1
  simp [← BitVec.toNat_inj]

/-! ## Blocks of lanes -/

/-- A block of a list of lanes. -/
theorem take_drop_range_map {α : Type} {f : Nat → α} {n a l : Nat} (h : a + l ≤ n) :
    (((List.range n).map f).drop a).take l = (List.range l).map (fun i => f (a + i)) := by
  apply List.ext_getElem
  · simp
    omega
  · intro i h1 h2
    simp

/-! ## `VCVT`, `VQNT` and `VRNG` (R165, R167, R171) -/

section
variable {s : State} {p : BitVec 4} {t g : BitVec 3} {d a : BitVec 5} {k : BitVec 2}

theorem draws_vcvt {code n : Nat} {c : Nat → Nat × BitVec 6} (hcode : code = if k = 0 then s.me.cr.cvrnd.toNat else k.toNat - 1)
    (ht : t ≠ g) (hn : n = max (laneCount g.toNat) (laneCount t.toNat)) (ha : a.toNat % (n / laneCount g.toNat) = 0)
    (hd : d.toNat % (n / laneCount t.toNat) = 0) (hnow : vecNow s p (.vcvt p t d a k g))
    (hc : c = fun i => vconvert g.toNat t.toNat (rndOf code (genDraw s.me.cr.seed (s.me.cr.ctrbase + BitVec.ofNat 64 i)))
      (lane (laneWidth g.toNat) (s.rv (a + BitVec.ofNat 5 (i / laneCount g.toNat))) (i % laneCount g.toNat))) :
    Draws (.vcvt p t d a k g) s ((List.range (n / laneCount t.toNat)).map (fun j =>
      .v (physOf s.me.cr.vrb (d + BitVec.ofNat 5 j)) (vecOf (laneWidth t.toNat) (laneCount t.toNat)
        (fun i => (c (j * laneCount t.toNat + i)).1)))) (lanesFlags n (fun i => (c i).2)) (if code = 2 then n else 0) := by
  rw [← rndCode_field] at hcode
  subst hcode hn
  have hok : (semVcvt t d a k g).typeOk = true := by
    simpa [semVcvt, ha, hd] using fun h => ht (BitVec.eq_of_toNat_eq h.symm)
  have hrun : (semVcvt t d a k g).run s.vecEnv = ((List.range (max (laneCount g.toNat) (laneCount t.toNat) / laneCount t.toNat)).map
      (fun j => .v (d + BitVec.ofNat 5 j) (vecOf (laneWidth t.toNat) (laneCount t.toNat)
        (fun i => (c (j * laneCount t.toNat + i)).1))), lanesFlags (max (laneCount g.toNat) (laneCount t.toNat)) (fun i => (c i).2)) := by
    have hblock (j : Nat) (hj : j < max (laneCount g.toNat) (laneCount t.toNat) / laneCount t.toNat) :
        j * laneCount t.toNat + laneCount t.toNat ≤ max (laneCount g.toNat) (laneCount t.toNat) := by
      rw [← Nat.succ_mul]
      exact (Nat.mul_le_mul_right _ hj).trans (Nat.div_mul_le_self ..)
    rw [semVcvt]
    simp only [gatherResults, List.map_map]
    refine Prod.ext ?_ ?_
    · refine List.map_congr_left fun j hj => ?_
      rw [take_drop_range_map (hblock j (List.mem_range.mp hj)), hc]
      rfl
    · rw [hc]
      rfl
  have hdraws := draws_vec (exec_vcvt ..) hok hnow hrun
  rwa [List.map_map] at hdraws

theorem draws_vqnt {code : Nat} {c : Nat → Nat × BitVec 6} (hcode : code = if k = 0 then s.me.cr.cvrnd.toNat else k.toNat - 1)
    (ht : 3 ≤ t.toNat) (hg : g.toNat ∈ [0, 2, 6, 7]) (hnow : vecNow s p (.vqnt p t d a k g))
    (hc : c = fun i =>
      let sc := lane 8 (s.rv d) (i / 32)
      let q := quantize g.toNat (rndOf code (genDraw s.me.cr.seed (s.me.cr.ctrbase + BitVec.ofNat 64 i)))
      if sc = 0xFF then ((q .nan).1, (q .nan).2 ||| flSN)
      else q (scaleVal (127 - (sc : Int)) (fval (fmtOfType t.toNat) (lane (laneWidth t.toNat) (s.rv a) i)))) :
    Draws (.vqnt p t d a k g) s [.v (physOf s.me.cr.vrb d) (vecOf (if g = 0 then 4 else 8) (laneCount t.toNat) (fun i => (c i).1))]
      (lanesFlags (laneCount t.toNat) (fun i => (c i).2)) (if code = 2 then laneCount t.toNat else 0) := by
  rw [← rndCode_field] at hcode
  subst hcode
  have hok : (semVqnt t d a k g).typeOk = true := by simpa [semVqnt, qSource, qTarget, ht, or_assoc] using hg
  have hrun : (semVqnt t d a k g).run s.vecEnv = ([.v d (vecOf (if g = 0 then 4 else 8) (laneCount t.toNat) (fun i => (c i).1))],
      lanesFlags (laneCount t.toNat) (fun i => (c i).2)) := by
    rw [semVqnt, hc]
    simp only [gatherResults, List.map_map]
    rfl
  exact draws_vec (exec_vqnt ..) hok hnow hrun

theorem draws_vrng (ht : t.toNat < 4) (hnow : vecNow s p (.vrng p t d)) {f : Nat → Nat}
    (hf : ∀ i, (if t = 3 then (roundTo fp32 .rne false
        ((genDraw s.me.cr.seed (s.me.cr.ctrbase + BitVec.ofNat 64 i)).toNat / 2 ^ 40) (-24)).1
      else (genDraw s.me.cr.seed (s.me.cr.ctrbase + BitVec.ofNat 64 i)).toNat / 2 ^ (64 - laneWidth t.toNat)) = f i) :
    Draws (.vrng p t d) s [.v (physOf s.me.cr.vrb d) (vecOf (laneWidth t.toNat) (laneCount t.toNat) f)] 0 (laneCount t.toNat) := by
  obtain rfl := funext hf
  exact draws_vec (y := semVrng t d) (exec_vrng ..) (decide_eq_true ht) hnow rfl

end

/-! ## `VQSC`: the scale of a block (R166) -/

/-- The exponents of the values of a block that are not zero. -/
def blockTops (xs : List FVal) : List Int :=
  xs.filterMap (fun x => match x with
    | .fin _ m e => if m = 0 then none else some ((Nat.log2 m : Int) + e)
    | _ => none)

section
variable {tgt : Nat} {xs : List FVal}

theorem mem_blockTops {k : Int} : k ∈ blockTops xs ↔ ∃ b m e, .fin b m e ∈ xs ∧ m ≠ 0 ∧ (Nat.log2 m : Int) + e = k := by
  rw [blockTops, List.mem_filterMap]
  constructor
  · rintro ⟨x, hmem, hx⟩
    cases x with
    | fin b m e =>
      obtain ⟨hm, hk⟩ := Option.ite_none_left_eq_some.mp hx
      exact ⟨b, m, e, hmem, hm, Option.some.inj hk⟩
    | nan => cases hx
    | inf b => cases hx
  · rintro ⟨b, m, e, hmem, hm, rfl⟩
    exact ⟨_, hmem, if_neg hm⟩

theorem blockScale_of_special (h : ∃ x ∈ xs, ∀ b m e, x ≠ .fin b m e) : blockScale tgt xs = 0xFF := by
  obtain ⟨x, hmem, hspecial⟩ := h
  refine if_pos (List.any_eq_true.mpr ⟨x, hmem, ?_⟩)
  cases x with
  | fin b m e => exact absurd rfl (hspecial b m e)
  | nan => rfl
  | inf b => rfl

/-- Without an infinity or a NaN the greatest exponent decides. -/
theorem blockScale_of_fin (h : ∀ x ∈ xs, ∃ b m e, x = .fin b m e) : blockScale tgt xs =
    (blockTops xs).max?.elim 0x7F (fun top => (min 254 (max 0 (top - qEmax tgt + 127))).toNat) := by
  rw [blockScale, if_neg]
  · change (match blockTops xs with | [] => _ | y :: ys => _) = _
    cases blockTops xs <;> rfl
  · intro hany
    obtain ⟨x, hmem, hx⟩ := List.any_eq_true.mp hany
    obtain ⟨b, m, e, rfl⟩ := h x hmem
    cases hx

theorem blockScale_of_zero (h : ∀ x ∈ xs, ∃ b e, x = .fin b 0 e) : blockScale tgt xs = 0x7F := by
  have hnil : blockTops xs = [] := by
    refine List.eq_nil_iff_forall_not_mem.mpr fun k hk => ?_
    obtain ⟨b, m, e, hmem, hm, -⟩ := mem_blockTops.mp hk
    obtain ⟨b', e', heq⟩ := h _ hmem
    exact hm (FVal.fin.inj heq).2.1
  rw [blockScale_of_fin fun x hx => (h x hx).imp fun b ⟨e, he⟩ => ⟨0, e, he⟩, hnil]
  rfl

theorem blockScale_of_top {top : Int} (hle : ∀ x ∈ xs, ∃ b m e, x = .fin b m e ∧ (m = 0 ∨ (Nat.log2 m : Int) + e ≤ top))
    (heq : ∃ b m e, .fin b m e ∈ xs ∧ m ≠ 0 ∧ (Nat.log2 m : Int) + e = top) :
    (blockScale tgt xs : Int) = max 0 (min 254 (top - qEmax tgt + 127)) := by
  have hmax : (blockTops xs).max? = some top := by
    refine List.max?_eq_some_iff.mpr ⟨mem_blockTops.mpr heq, fun k hk => ?_⟩
    obtain ⟨b, m, e, hmem, hm, rfl⟩ := mem_blockTops.mp hk
    obtain ⟨b', m', e', hx, hle⟩ := hle _ hmem
    cases hx
    exact hle.resolve_left hm
  rw [blockScale_of_fin fun x hx => (hle x hx).imp fun b ⟨m, e, h, _⟩ => ⟨m, e, h⟩, hmax]
  simp only [Option.elim]
  omega

end

theorem qEmax_toNat (g : BitVec 3) : qEmax g.toNat = if g = 0 then 2 else if g = 2 then 6 else if g = 6 then 8 else 15 := by
  revert g
  decide

/-- A lane type has as many lanes as a register holds. -/
theorem lanes_eq_range (t : BitVec 3) (v : Vec) :
    lanes (laneWidth t.toNat) v = (List.range (laneCount t.toNat)).map (lane (laneWidth t.toNat) v) := by
  have hcount : ∀ t : BitVec 3, 1024 / laneWidth t.toNat = laneCount t.toNat := by decide
  rw [lanes, hcount]

theorem writes_vqsc {s : State} {p : BitVec 4} {t g : BitVec 3} {d a : BitVec 5} {y : Nat → FVal} (ht : 3 ≤ t.toNat)
    (hg : g.toNat ∈ [0, 2, 6, 7]) (hnow : vecNow s p (.vqsc p t d a g))
    (hy : y = fun i => fval (fmtOfType t.toNat) (lane (laneWidth t.toNat) (s.rv a) i)) :
    Writes (.vqsc p t d a g) s [.v (physOf s.me.cr.vrb d) (vecOf 8 (laneCount t.toNat / 32)
      (fun j => blockScale g.toNat ((List.range 32).map (fun i => y (32 * j + i)))))] 0 := by
  have hok : (semVqsc t d a g).typeOk = true := by simpa [semVqsc, qSource, qTarget, ht, or_assoc] using hg
  refine writes_vec (ws := [.v d _]) (exec_vqsc ..) hok (fun _ => rfl) hnow ?_
  simp only [semVqsc, outV, lanes_eq_range, List.map_map]
  refine Prod.ext (congrArg (fun xs => [RegWrite.v d (ofLanes 8 xs)]) (List.map_congr_left fun j hj => ?_)) rfl
  rw [take_drop_range_map, hy]
  · rfl
  · have := Nat.div_mul_le_self (laneCount t.toNat) 32
    have := List.mem_range.mp hj
    omega

/-- Settles O35: conversions and quantised lanes are the results of the VEC rules; a block's scale is that of its greatest exponent. -/
theorem vecConversions : Obligations.VecConversions := by
  rintro s p t g d a k _ rfl _ rfl code hcode
  refine ⟨?_, ?_, ?_⟩
  · rintro hne _ _ n rfl rfl hn ha hd hnow c hc
    exact draws_vcvt hcode hne hn ha hd hnow hc
  · rintro ht hg _ _ _ rfl rfl rfl
    refine ⟨fun hnow => ⟨_, writes_vqsc ht hg hnow rfl, ?_⟩, fun hnow c hc => draws_vqnt hcode ht hg hnow hc⟩
    rintro j - y rfl
    refine ⟨fun hspecial => ?_, fun hzero => ?_, fun top hle htop => ?_⟩
    · exact blockScale_of_special (by simpa using hspecial)
    · exact blockScale_of_zero (by simpa using hzero)
    · rw [← qEmax_toNat]
      refine blockScale_of_top (by simpa using hle) ?_
      obtain ⟨i, hi, b, m, e, hx, hm⟩ := htop
      exact ⟨b, m, e, List.mem_map.mpr ⟨i, List.mem_range.mpr hi, hx⟩, hm⟩
  · rintro ht hnow _ _ rfl rfl
    exact ⟨fun hne => draws_vrng ht hnow fun i => if_neg hne, fun heq => draws_vrng ht hnow fun i => if_pos heq⟩

end Sys2Proof.Machine
end

section
/-! PROOF. The transform instructions (O37). -/

namespace Sys2Proof.Machine

/-! ## The bits of fields and of packed lanes -/

theorem testBit_bitsAt (n lo k b : Nat) : (bitsAt n lo k).testBit b = (decide (b < k) && n.testBit (lo + b)) := by
  rw [bitsAt, Nat.testBit_mod_two_pow, Nat.testBit_div_two_pow, Nat.add_comm]

/-- A number whose field is replaced has the field's bits there and its own everywhere else. -/
theorem testBit_putBits (n lo k v b : Nat) :
    (putBits n lo k v).testBit b = if lo ≤ b ∧ b < lo + k then v.testBit (b - lo) else n.testBit b := by
  have hform : putBits n lo k v = 2 ^ lo * (2 ^ k * (n / 2 ^ lo / 2 ^ k) + v % 2 ^ k) + n % 2 ^ lo := by
    have hrest : n = 2 ^ lo * (2 ^ k * (n / 2 ^ lo / 2 ^ k)) + n % 2 ^ lo + n / 2 ^ lo % 2 ^ k * 2 ^ lo := by
      conv_lhs => rw [← Nat.div_add_mod n (2 ^ lo), ← Nat.div_add_mod (n / 2 ^ lo) (2 ^ k)]
      ring
    rw [putBits, bitsAt, Nat.sub_eq_of_eq_add hrest]
    ring
  rw [hform, Nat.testBit_two_pow_mul_add _ (Nat.mod_lt _ (by positivity)), Nat.testBit_mod_two_pow]
  by_cases hlo : b < lo
  · simp [hlo, show ¬ lo ≤ b by omega]
  · rw [if_neg hlo, Nat.testBit_two_pow_mul_add _ (Nat.mod_lt _ (by positivity)), Nat.testBit_mod_two_pow,
      Nat.testBit_div_two_pow, Nat.testBit_div_two_pow]
    by_cases hk : b - lo < k
    · simp [hk, show lo ≤ b ∧ b < lo + k by omega]
    · rw [if_neg hk, if_neg (by omega), show b - lo - k + k + lo = b by omega]

theorem testBit_packLanes {w : Nat} (hw : 0 < w) (xs : List Nat) (b : Nat) :
    (packLanes w xs).testBit b = (xs.getD (b / w) 0).testBit (b % w) := by
  induction xs generalizing b with
  | nil => simp [packLanes]
  | cons x xs ih =>
    rw [packLanes, Nat.add_comm, Nat.testBit_two_pow_mul_add _ (Nat.mod_lt _ (by positivity)), Nat.testBit_mod_two_pow]
    by_cases hb : b < w
    · simp [hb, Nat.div_eq_of_lt hb, Nat.mod_eq_of_lt hb]
    · obtain ⟨c, rfl⟩ := Nat.exists_eq_add_of_le' (Nat.not_lt.mp hb)
      simp [ih, hw]

theorem packLanes_lt (w : Nat) (xs : List Nat) : packLanes w xs < 2 ^ (w * xs.length) := by
  induction xs with
  | nil => simp [packLanes]
  | cons x xs ih =>
    have hx : x % 2 ^ w < 2 ^ w := Nat.mod_lt _ (by positivity)
    calc packLanes w (x :: xs)
      _ < 2 ^ w + 2 ^ w * packLanes w xs := Nat.add_lt_add_right hx _
      _ = 2 ^ w * (packLanes w xs + 1) := by ring
      _ ≤ 2 ^ w * 2 ^ (w * xs.length) := Nat.mul_le_mul_left _ ih
      _ = 2 ^ (w * (x :: xs).length) := by rw [← Nat.pow_add, List.length_cons, Nat.mul_succ, Nat.add_comm]

theorem testBit_lane (w : Nat) (v : Vec) (i b : Nat) : (lane w v i).testBit b = (decide (b < w) && v.getLsbD (w * i + b)) := by
  rw [lane, testBit_bitsAt, BitVec.testBit_toNat]

/-- A lane that a register has room for. -/
theorem mul_add_lt_of_room {w i b n : Nat} (hroom : w * (i + 1) ≤ n) (hb : b < w) : w * i + b < n := by
  rw [Nat.mul_succ] at hroom
  omega

theorem getLsbD_ofLanes {w : Nat} (xs : List Nat) {i b : Nat} (hb : b < w) (hroom : w * (i + 1) ≤ 1024) :
    (ofLanes w xs).getLsbD (w * i + b) = (xs.getD i 0).testBit b := by
  rw [ofLanes, BitVec.getLsbD_ofNat, decide_eq_true (mul_add_lt_of_room hroom hb), Bool.true_and, testBit_packLanes (by omega),
    Nat.mul_add_div (by omega), Nat.div_eq_of_lt hb, Nat.add_zero, Nat.mul_add_mod, Nat.mod_eq_of_lt hb]

theorem lane_ofLanes {w : Nat} (xs : List Nat) {i : Nat} (hroom : w * (i + 1) ≤ 1024) :
    lane w (ofLanes w xs) i = xs.getD i 0 % 2 ^ w := by
  refine Nat.eq_of_testBit_eq fun b => ?_
  rw [testBit_lane, Nat.testBit_mod_two_pow]
  by_cases hb : b < w
  · rw [getLsbD_ofLanes xs hb hroom]
  · simp [hb]

theorem getD_range_map {f : Nat → Nat} {n i : Nat} (h : i < n) : ((List.range n).map f).getD i 0 = f i := by
  simp [h]

/-! ## A transform's result in flight -/

/-- A transform's result, as it enters its slot. -/
def State.result (s : State) (lat : Nat) (target : XfmTarget) (value : Vec) (fl : BitVec 6) : XfmRes :=
  { id := s.uid, rem := lat, target := target, value := value, flags := fl }

section
variable (s : State) (lat : Nat) (target : XfmTarget) (value : Vec) (fl : BitVec 6)

theorem launch_ctx : (s.launch lat target value fl).ctx s.cur = { s.me with xfm := s.me.xfm ++ [s.result lat target value fl] } := by
  rw [State.launch, State.tick1_ctx, State.modMe, State.ctx_modCtx_same]
  rfl

theorem kept_launch : Kept s (s.launch lat target value fl) :=
  kept_of_own (fun a h => by simp [State.launch, State.modMe, State.ctx_modCtx, h]) rfl rfl rfl rfl rfl rfl rfl

end

@[simp] theorem State.enter_xfm (s : State) (g : BitVec 4) (r : Regs) : (s.enter g r).me.xfm = s.me.xfm := by
  obtain ⟨_, _, _, _, h, _⟩ := (enter_tagsOnly s g r).mine; rw [h]

/-- The decode bank that expansions use is no tag. -/
@[simp] theorem enter_curBank (s : State) (g : BitVec 4) (r : Regs) : (s.enter g r).me.curBank = s.me.curBank := by
  obtain ⟨_, _, _, _, h, _⟩ := (enter_tagsOnly s g r).mine; rw [h]; rfl

section
variable {i : Instr} {s : State} {p : BitVec 4} {lat n : Nat} {target : XfmTarget} {value : Vec} {fl : BitVec 6}

/-- A syllable that puts one result in flight, and then changes only what no result is part of. -/
theorem launches_of_exec {r : Regs} {f : Ctx → Ctx} (h : exec i s = .next (((s.enter p r).launch lat target value fl).modMe f))
    (hxfm : ∀ c, (f c).xfm = c.xfm) (hflights : ∀ c, (f c).flights = c.flights)
    (hvisible : ∀ c, (f c).visible = (c.modCr (.drawn n)).visible) : Launches i s lat target value fl n := by
  obtain ⟨u, hu⟩ : ∃ u, u = (s.enter p r).launch lat target value fl := ⟨_, rfl⟩
  have hcur : u.cur = s.cur := by rw [hu]; exact s.enter_cur p r
  have hctx : u.ctx s.cur = { (s.enter p r).me with xfm := s.me.xfm ++ [s.result lat target value fl] } := by
    rw [hu, ← s.enter_cur p r, launch_ctx, State.enter_xfm, State.result, State.enter_uid]
    rfl
  have hmod : (u.modMe f).ctx s.cur = f (u.ctx s.cur) := by rw [State.modMe, hcur, State.ctx_modCtx_same]
  refine ⟨u.modMe f, hu ▸ h, ?_, ?_, ?_, ?_⟩
  · rw [hmod, hxfm, hctx]
    rfl
  · rw [hmod, hflights, hctx]
    exact s.enter_flights p r
  · rw [hmod, hvisible, hctx]
    exact congrArg (fun v : Visible => { v with cr := v.cr.drawn n }) (s.enter_visible p r)
  · have hlaunch : Kept s u := hu ▸ (enter_kept s p r).trans (kept_launch ..) (s.enter_cur p r)
    exact hlaunch.trans (kept_modMe u f) hcur

/-- A transform of a stage that is free, and whose vd no held syllable names, writes vd. -/
theorem launches_xfmSyl {d a : BitVec 5} {old ok : Bool} {draws : State → Nat} {f : State → Nat × BitVec 6} {j : SlotId} {x : Nat}
    (h : exec i s = issue (xfmSyl p d a old ok lat s draws f) s) (hcur : s.cur = .stage j) (hok : ok = true)
    (hf : s.free 5 p { vr := physOf s.me.cr.vrb a :: if old then [physOf s.me.cr.vrb d] else [] } = true)
    (hb : s.heldBusy 5 { vw := [physOf s.me.cr.vrb d] } = false)
    (hn : ∀ r, draws (s.enter p r) = n) (hx : ∀ r, f (s.enter p r) = (x, fl)) :
    Launches i s lat (.v (physOf s.me.cr.vrb d)) (BitVec.ofNat 1024 x) fl n := by
  have htype : (ok && !isSup s.cur) = true := by rw [hok, hcur]; rfl
  have hissue := issue_act (y := xfmSyl p d a old ok lat s draws f) (.inl rfl) htype hf rfl (by simp [xfmSyl, hb])
  simp only [xfmSyl, hn, hx] at hissue
  exact launches_of_exec (f := (·.modCr (.drawn n))) (h.trans hissue) (fun _ => rfl) (fun _ => rfl) (fun _ => rfl)

end

/-! ## Transposed, packed and plane-stored groups -/

/-- The transpose of a group of `8 × C` elements (R215). -/
def transposed (z : Nat) (v : Vec) : Vec :=
  ofLanes (8 * z) ((List.range (8 * (16 / z))).map (fun j => lane (8 * z) v (j % 8 * (16 / z) + j / 8)))

theorem lane_transposed {z row c : Nat} (hz : z ∈ [1, 2, 4]) (v : Vec) (hrow : row < 8) (hc : c < 16 / z) :
    lane (8 * z) (transposed z v) (c * 8 + row) = lane (8 * z) v (row * (16 / z) + c) := by
  have hindex : c * 8 + row < 8 * (16 / z) := by omega
  have hroom : 8 * z * (c * 8 + row + 1) ≤ 1024 := by
    have hfull : 8 * z * (8 * (16 / z)) = 1024 := by
      clear hc hindex
      revert z
      decide
    exact hfull ▸ Nat.mul_le_mul_left _ hindex
  rw [transposed, lane_ofLanes _ hroom, getD_range_map hindex, Nat.mod_eq_of_lt (lane_lt ..)]
  congr 1
  rw [show (c * 8 + row) % 8 = row by omega, show (c * 8 + row) / 8 = c by omega]

/-- Thirty-two elements packed: a bit for each that is not zero, and then those elements (R216). -/
def packed (b : Nat) (es : List Nat) : Vec :=
  BitVec.ofNat 1024 (packLanes 1 (es.map (fun e => bit (e ≠ 0))) + 2 ^ 32 * packLanes b (es.filter (· ≠ 0)))

section
variable {b : Nat} {es : List Nat} (hb : b ≤ 16) (hes : es.length = 32)
include hb hes

theorem toNat_packed : (packed b es).toNat = 2 ^ 32 * packLanes b (es.filter (· ≠ 0)) + packLanes 1 (es.map (fun e => bit (e ≠ 0))) := by
  have hlow := packLanes_lt 1 (es.map (fun e => bit (e ≠ 0)))
  have hhigh := packLanes_lt b (es.filter (· ≠ 0))
  have hlen := Nat.mul_le_mul hb ((List.length_filter_le (· ≠ 0) es).trans hes.le)
  rw [List.length_map, hes] at hlow
  rw [packed, BitVec.toNat_ofNat, Nat.add_comm, Nat.mod_eq_of_lt]
  calc 2 ^ 32 * packLanes b (es.filter (· ≠ 0)) + packLanes 1 (es.map (fun e => bit (e ≠ 0)))
    _ < 2 ^ 32 * (packLanes b (es.filter (· ≠ 0)) + 1) := by omega
    _ ≤ 2 ^ 32 * 2 ^ (b * (es.filter (· ≠ 0)).length) := Nat.mul_le_mul_left _ hhigh
    _ = 2 ^ (32 + b * (es.filter (· ≠ 0)).length) := (Nat.pow_add ..).symm
    _ ≤ 2 ^ 1024 := Nat.pow_le_pow_right (by decide) (by omega)

theorem getLsbD_packed {i : Nat} (hi : i < 32) : (packed b es).getLsbD i = decide (es.getD i 0 ≠ 0) := by
  have hlow := packLanes_lt 1 (es.map (fun e => bit (e ≠ 0)))
  rw [List.length_map, hes] at hlow
  rw [← BitVec.testBit_toNat, toNat_packed hb hes, Nat.testBit_two_pow_mul_add _ hlow, if_pos hi, testBit_packLanes (by decide)]
  simp only [Nat.div_one, Nat.mod_one, List.getD_eq_getElem?_getD, List.getElem?_map, List.getElem?_eq_getElem (hes ▸ hi : i < es.length),
    Option.map_some, Option.getD_some, bit]
  split <;> simp_all

theorem packed_high : (packed b es).toNat / 2 ^ 32 = packLanes b (es.filter (· ≠ 0)) := by
  have hlow := packLanes_lt 1 (es.map (fun e => bit (e ≠ 0)))
  rw [List.length_map, hes] at hlow
  rw [toNat_packed hb hes, Nat.mul_add_div (by decide), Nat.div_eq_of_lt hlow, Nat.add_zero]

end

theorem flatMap_range_map {α : Type} (g : Nat → Nat → α) (n m : Nat) : (List.range n).flatMap (fun a => (List.range m).map (g a)) =
    (List.range (n * m)).map (fun k => g (k / m) (k % m)) := by
  induction n with
  | zero => simp
  | succ n ih =>
    rw [List.range_succ, List.flatMap_append, ih, Nat.succ_mul, List.range_add, List.map_append, List.map_map, List.flatMap_singleton]
    refine congrArg _ (List.map_congr_left fun k hk => ?_)
    have hk := List.mem_range.mp hk
    rw [Function.comp, Nat.add_comm, Nat.add_mul_div_right _ _ (by omega), Nat.add_mul_mod_self_right, Nat.div_eq_of_lt hk,
      Nat.mod_eq_of_lt hk, Nat.zero_add]

/-- A group as plane-stored bytes, in the order of the bytes (R112). -/
theorem toPlanes_eq (v : Vec) : toPlanes v = (List.range 128).map (fun m =>
    packLanes 1 ((List.range 8).map (fun j => bitsAt (lane 8 v (8 * (m % 16) + j)) (7 - m / 16) 1))) :=
  flatMap_range_map (fun pl k => packLanes 1 ((List.range 8).map (fun j => bitsAt (lane 8 v (8 * k + j)) (7 - pl) 1))) 8 16

theorem getLsbD_toPlanes {pl i : Nat} (v : Vec) (hpl : pl < 8) (hi : i < 128) :
    (ofLanes 8 (toPlanes v)).getLsbD (8 * (16 * pl + i / 8) + i % 8) = v.getLsbD (8 * i + (7 - pl)) := by
  have hmod : i % 8 < 8 := Nat.mod_lt _ (by decide)
  have hbyte : 8 * ((16 * pl + i / 8) % 16) + i % 8 = i := by omega
  have hplane : (16 * pl + i / 8) / 16 = pl := by omega
  rw [getLsbD_ofLanes _ hmod (by omega), toPlanes_eq, getD_range_map (by omega), testBit_packLanes (by decide), Nat.div_one,
    getD_range_map hmod, testBit_bitsAt, testBit_lane, hbyte, hplane, Nat.mod_one]
  simp
  omega

/-- A number read from its bits, the highest first. -/
def fromBits (b : Nat → Nat) (n : Nat) : Nat := (List.range n).foldl (fun q pl => 2 * q + b pl) 0

theorem fromBits_succ (b : Nat → Nat) (n : Nat) : fromBits b (n + 1) = 2 * fromBits b n + b n := by
  rw [fromBits, List.range_succ, List.foldl_append]
  rfl

theorem fromBits_lt {b : Nat → Nat} (hb : ∀ i, b i < 2) (n : Nat) : fromBits b n < 2 ^ n := by
  induction n with
  | zero => exact Nat.one_pos
  | succ n ih =>
    have := hb n
    rw [fromBits_succ, Nat.pow_succ]
    omega

theorem testBit_fromBits {b : Nat → Nat} (hb : ∀ i, b i < 2) {n pl : Nat} (h : pl < n) :
    (fromBits b n).testBit (n - 1 - pl) = (b pl).testBit 0 := by
  induction n with
  | zero => exact absurd h (Nat.not_lt_zero _)
  | succ n ih =>
    rw [fromBits_succ, show 2 * fromBits b n = 2 ^ 1 * fromBits b n from rfl, Nat.testBit_two_pow_mul_add _ (hb n)]
    rcases Nat.lt_succ_iff_lt_or_eq.mp h with hlt | rfl
    · rw [if_neg (by omega), ← ih hlt]
      congr 1
      omega
    · simp

theorem laneInt_lt (w : Nat) (n : Int) : laneInt w n < 2 ^ w := by
  have hpos : (0 : Int) < 2 ^ w := by positivity
  rw [laneInt, Int.toNat_lt (Int.emod_nonneg _ hpos.ne')]
  exact_mod_cast Int.emod_lt_of_pos n hpos

/-- The number of an element is the one whose bits its planes hold (R112). -/
theorem lane_fromPlanes {n i q : Nat} (v : Vec) (hi : i < 128) (hn : n ≤ 8)
    (hbits : ∀ pl < n, q.testBit (n - 1 - pl) = v.getLsbD (8 * (16 * pl + i / 8) + i % 8)) (hq : q < 2 ^ n) :
    lane 8 (ofLanes 8 (fromPlanes v n)) i = laneInt 8 (signedOf n q * 2 ^ (8 - n) + (if n < 8 then 2 ^ (7 - n) else 0)) := by
  obtain ⟨b, hb⟩ : ∃ b, b = fun pl => bitsAt (lane 8 v (16 * pl + i / 8)) (i % 8) 1 := ⟨_, rfl⟩
  have hbit (pl : Nat) : b pl < 2 := hb ▸ Nat.mod_lt _ (by decide)
  have heq : q = fromBits b n := by
    refine Nat.eq_of_testBit_eq fun m => ?_
    by_cases hm : m < n
    · obtain ⟨pl, hpl, rfl⟩ : ∃ pl < n, m = n - 1 - pl := ⟨n - 1 - m, by omega, by omega⟩
      rw [hbits pl hpl, testBit_fromBits hbit hpl, hb, testBit_bitsAt, testBit_lane]
      simp [Nat.mod_lt]
    · have hpow : 2 ^ n ≤ 2 ^ m := Nat.pow_le_pow_right (by decide) (by omega)
      rw [Nat.testBit_lt_two_pow (hq.trans_le hpow), Nat.testBit_lt_two_pow ((fromBits_lt hbit n).trans_le hpow)]
  rw [lane_ofLanes _ (by omega), fromPlanes, getD_range_map hi, heq, hb, Nat.mod_eq_of_lt (laneInt_lt ..)]
  rfl

/-! ## The forms that read one register -/

section
variable {s : State} {p : BitVec 4} {d a : BitVec 5} {j : SlotId} (hcur : s.cur = .stage j)
  (hf : s.free 5 p { vr := [physOf s.me.cr.vrb a] } = true) (hb : s.heldBusy 5 { vw := [physOf s.me.cr.vrb d] } = false)
include hcur hf hb

theorem launches_xpExp (t : BitVec 4) (h : BitVec 1) : Launches (.xpExp p d a t h) s 6 (.v (physOf s.me.cr.vrb d))
    (vecOf 16 64 (fun i => bankEntry s.me.curBank t.toNat (lane 8 (s.rv a) (64 * h.toNat + i) % 16))) 0 0 :=
  launches_xfmSyl (exec_xpExp ..) hcur rfl hf hb (fun _ => rfl) (fun r => by simp only [State.enter_rv, enter_curBank])

theorem launches_xpUnp (e : BitVec 5) (w : BitVec 3) : Launches (.xpUnp p d a e w) s 4 (.v (physOf s.me.cr.vrb d))
    (vecOf 8 128 (fun i => bitsAt (s.rv a).toNat ((w.toNat + 1) * (16 * e.toNat + i)) (w.toNat + 1))) 0 0 :=
  launches_xfmSyl (exec_xpUnp ..) hcur rfl hf hb (fun _ => rfl) (fun r => by simp only [State.enter_rv])

theorem launches_xpTrn (w : BitVec 2) : Launches (.xpTrn p d a w) s 8 (.v (physOf s.me.cr.vrb d))
    (transposed (trnSize w.toNat) (s.rv a)) 0 0 :=
  launches_xfmSyl (exec_xpTrn ..) hcur rfl hf hb (fun _ => rfl) (fun r => by simp only [State.enter_rv])

theorem launches_xpPack {h : BitVec 2} {w : BitVec 1} (hh : w = 1 → h.toNat < 2) :
    Launches (.xpPack p d a h w) s 6 (.v (physOf s.me.cr.vrb d))
      (packed (if w = 1 then 16 else 8) ((List.range 32).map (fun i => lane (if w = 1 then 16 else 8) (s.rv a) (32 * h.toNat + i)))) 0 0 := by
  have hok : (w = 0 || h.toNat < 2) = true := by
    rcases (by decide : ∀ w : BitVec 1, w = 0 ∨ w = 1) w with hw | hw
    · simp [hw]
    · simp [hh hw]
  exact launches_xfmSyl (exec_xpPack ..) hcur hok hf hb (fun _ => rfl) (fun r => by simp only [State.enter_rv])

theorem launches_xpPln {n : BitVec 4} {r : BitVec 1} (hok : (r = 0 || (2 ≤ n.toNat && n.toNat ≤ 8)) = true) :
    Launches (.xpPln p d a n r) s 5 (.v (physOf s.me.cr.vrb d))
      (ofLanes 8 (if r = 0 then toPlanes (s.rv a) else fromPlanes (s.rv a) n.toNat)) 0 0 :=
  launches_xfmSyl (exec_xpPln ..) hcur hok hf hb (fun _ => rfl) (fun r => by simp only [State.enter_rv])

/-- A conversion to BF16 lanes (R212). -/
theorem launches_xpCvt_widens {q : BitVec 2} {k : BitVec 3} {f b : Nat} {g : Nat → FVal} (hk : cvtFmt k.toNat = (f, false))
    (hbits : fmtBits f = b) (hok : b = 4 ∨ q.toNat < 2)
    (hg : ∀ n, (if intCode f then ofInt (intElem f n) else fval (fmtOfCode f) n) = g n) :
    Launches (.xpCvt p d a q k) s 4 (.v (physOf s.me.cr.vrb d)) (vecOf 16 64 (fun i =>
      (toFloat bf16 .rne (g (bitsAt (s.rv a).toNat (b * (64 * q.toNat + i)) b))).1)) 0 (if s.me.cr.cvrnd = 2 then 64 else 0) := by
  have hexec := exec_xpCvt p d a q k s
  simp only [execXpCvt, hk, hbits, hg, Bool.false_eq_true, if_false] at hexec
  exact launches_xfmSyl hexec hcur (by simpa using hok) hf hb (fun r => by simp only [State.enter_cr])
    (fun r => by simp only [State.enter_rv])

theorem launches_xpCvt_float {q : BitVec 2} {k : BitVec 3} {f b : Nat}
    (hform : (k, f, b) ∈ [((0 : BitVec 3), (0x0E : Nat), (4 : Nat)), (2, 0x0C, 8), (3, 0x0D, 8)]) (hq : b = 8 → q.toNat < 2) :
    Launches (.xpCvt p d a q k) s 4 (.v (physOf s.me.cr.vrb d)) (vecOf 16 64 (fun i =>
      (toFloat bf16 .rne (fval (fmtOfCode f) (bitsAt (s.rv a).toNat (b * (64 * q.toNat + i)) b))).1)) 0
      (if s.me.cr.cvrnd = 2 then 64 else 0) := by
  have hrow : cvtFmt k.toNat = (f, false) ∧ fmtBits f = b ∧ intCode f = false ∧ (b = 4 ∨ b = 8) := by
    simp only [List.mem_cons, List.not_mem_nil, or_false, Prod.mk.injEq] at hform
    rcases hform with ⟨rfl, rfl, rfl⟩ | ⟨rfl, rfl, rfl⟩ | ⟨rfl, rfl, rfl⟩ <;> decide
  obtain ⟨hk, hbits, hint, hsize⟩ := hrow
  exact launches_xpCvt_widens hcur hf hb hk hbits (hsize.imp_right hq) (fun n => by rw [hint]; rfl)

theorem launches_xpCvt_int {q : BitVec 2} {k : BitVec 3} {b : Nat} (hform : (k, b) ∈ [((1 : BitVec 3), (4 : Nat)), (7, 8)])
    (hq : b = 8 → q.toNat < 2) :
    Launches (.xpCvt p d a q k) s 4 (.v (physOf s.me.cr.vrb d)) (vecOf 16 64 (fun i =>
      (toFloat bf16 .rne (ofInt (signedOf b (bitsAt (s.rv a).toNat (b * (64 * q.toNat + i)) b)))).1)) 0
      (if s.me.cr.cvrnd = 2 then 64 else 0) := by
  simp only [List.mem_cons, List.not_mem_nil, or_false, Prod.mk.injEq] at hform
  rcases hform with ⟨rfl, rfl⟩ | ⟨rfl, rfl⟩
  · exact launches_xpCvt_widens (f := 0x01) (g := fun n => ofInt (signedOf 4 n)) hcur hf hb rfl rfl (.inl rfl) (fun _ => rfl)
  · exact launches_xpCvt_widens (f := 0x00) (g := fun n => ofInt (signedOf 8 n)) hcur hf hb rfl rfl (.inr (hq rfl)) (fun _ => rfl)

end

/-! ## The conversions that keep the rest of vd (R212) -/

section
variable {s : State} {p : BitVec 4} {d a : BitVec 5} {j : SlotId} {q : BitVec 2} {k : BitVec 3} {f b : Nat}

/-- A conversion from BF16 lanes replaces a group of elements of vd. -/
theorem launches_xpCvt_narrows {c : Nat → Nat × BitVec 6} (hcur : s.cur = .stage j)
    (hf : s.free 5 p { vr := [physOf s.me.cr.vrb a, physOf s.me.cr.vrb d] } = true)
    (hbusy : s.heldBusy 5 { vw := [physOf s.me.cr.vrb d] } = false) (hk : cvtFmt k.toNat = (f, true)) (hb : fmtBits f = b)
    (hok : b = 4 ∨ q.toNat < 2) (hc : c = fun i => toFloat (fmtOfCode f)
      (rndOf s.me.cr.cvrnd.toNat (genDraw s.me.cr.seed (s.me.cr.ctrbase + BitVec.ofNat 64 i))) (fval bf16 (lane 16 (s.rv a) i))) :
    Launches (.xpCvt p d a q k) s 4 (.v (physOf s.me.cr.vrb d))
      (BitVec.ofNat 1024 (spliceElems (s.rv d) b q.toNat ((List.range 64).map (fun i => (c i).1))))
      (lanesFlags 64 (fun i => (c i).2)) (if s.me.cr.cvrnd = 2 then 64 else 0) := by
  have hexec := exec_xpCvt p d a q k s
  simp only [execXpCvt, hk, hb, if_true] at hexec
  refine launches_xfmSyl hexec hcur (by simpa using hok) hf hbusy (fun r => by simp only [State.enter_cr]) (fun r => ?_)
  simp only [State.enter_rv, State.enter_cr, gatherResults, List.map_map, hc]
  rfl

/-- A bit of lane `i` lies at or after lane `n` as `i` does. -/
theorem mul_le_mul_add_iff {w m : Nat} (hm : m < w) (n i : Nat) : w * n ≤ w * i + m ↔ n ≤ i := by
  rw [Nat.mul_comm w n, ← Nat.le_div_iff_mul_le (by omega), Nat.mul_add_div (by omega), Nat.div_eq_of_lt hm, Nat.add_zero]

theorem testBit_spliced (v : Vec) (es : List Nat) {q i m : Nat} (hm : m < b) (hroom : b * (i + 1) ≤ 1024) :
    (BitVec.ofNat 1024 (spliceElems v b q es)).getLsbD (b * i + m) =
      if 64 * q ≤ i ∧ i < 64 * q + 64 then (es.getD (i - 64 * q) 0).testBit m else v.getLsbD (b * i + m) := by
  have hfield : b * 64 * q ≤ b * i + m ∧ b * i + m < b * 64 * q + b * 64 ↔ 64 * q ≤ i ∧ i < 64 * q + 64 := by
    rw [Nat.mul_assoc, ← Nat.mul_add, mul_le_mul_add_iff hm, ← Nat.not_le, mul_le_mul_add_iff hm, Nat.not_le]
  rw [BitVec.getLsbD_ofNat, decide_eq_true (mul_add_lt_of_room hroom hm), Bool.true_and, spliceElems, testBit_putBits,
    BitVec.testBit_toNat]
  refine if_ctx_congr hfield (fun hin => ?_) (fun _ => rfl)
  obtain ⟨e, rfl⟩ := Nat.exists_eq_add_of_le hin.1
  rw [show b * (64 * q + e) + m - b * 64 * q = b * e + m by rw [Nat.mul_add, ← Nat.mul_assoc]; omega, Nat.add_sub_cancel_left,
    testBit_packLanes (by omega), Nat.mul_add_div (by omega), Nat.div_eq_of_lt hm, Nat.mul_add_mod, Nat.mod_eq_of_lt hm, Nat.add_zero]

theorem lane_spliced_inside (v : Vec) (g : Nat → Nat) {q i : Nat} (hi : i < 64) (hroom : b * (64 * q + 64) ≤ 1024) :
    lane b (BitVec.ofNat 1024 (spliceElems v b q ((List.range 64).map g))) (64 * q + i) = g i % 2 ^ b := by
  have hfit : b * (64 * q + i + 1) ≤ 1024 := (Nat.mul_le_mul_left b (by omega)).trans hroom
  refine Nat.eq_of_testBit_eq fun m => ?_
  rw [testBit_lane, Nat.testBit_mod_two_pow]
  by_cases hm : m < b
  · rw [testBit_spliced _ _ hm hfit, if_pos (by omega), Nat.add_sub_cancel_left, getD_range_map hi]
  · simp [hm]

theorem lane_spliced_outside (v : Vec) (es : List Nat) {q i : Nat} (hi : i < 1024 / b) (ho : i < 64 * q ∨ 64 * q + 64 ≤ i) :
    lane b (BitVec.ofNat 1024 (spliceElems v b q es)) i = lane b v i := by
  have hfit : b * (i + 1) ≤ 1024 := (Nat.mul_le_mul_left b hi).trans (Nat.mul_div_le ..)
  refine Nat.eq_of_testBit_eq fun m => ?_
  rw [testBit_lane, testBit_lane]
  by_cases hm : m < b
  · rw [testBit_spliced _ _ hm hfit, if_neg (by omega)]
  · simp [hm]

end

/-! ## The table load (R208, R210) -/

section
variable {s : State} {p : BitVec 4} {a : BitVec 5} {j : SlotId} {g : BitVec 2} {c : BitVec 1}

theorem pendingTags_of_free (hf : s.free 5 p { vr := [physOf s.me.cr.vrb a] } = true) :
    s.me.pendingTags [physOf s.me.cr.vrb a] = [] := by
  simp only [State.free, Bool.and_eq_true, Bool.or_eq_true, decide_eq_true_eq] at hf
  exact hf.2.resolve_left (by decide)

/-- The syllable of a table load. -/
def tblSyl (p : BitVec 4) (a : BitVec 5) (g : BitVec 2) (c : BitVec 1) (s : State) : Syl :=
  { cls := 5, guard := p, typeOk := !isSup s.cur, regs := { vr := [physOf s.me.cr.vrb a] },
    wait := fun s => if s.me.fillRefs ≠ 0 then .stall else .go,
    act := fun u => (u.launch 3 (.bank (!u.me.cur) g (c = 1)) (u.me.rv (physOf s.me.cr.vrb a)) 0).modMe (fun x => { x with late := false }) }

/-- A table load whose source is bound to no tag counts no lateness: it answers what its syllable answers. -/
theorem exec_xpTbl_of_untagged {t : State} (hp : s.me.pendingTags [physOf s.me.cr.vrb a] = [])
    (h : issue (tblSyl p a g c s) s = .next t) : exec (.xpTbl p a g c) s = .next t := by
  rw [tblSyl] at h
  rw [exec_xpTbl, execXpTbl, h]
  simp [hp]

theorem tbl_answer (hcur : s.cur = .stage j) (hf : s.free 5 p { vr := [physOf s.me.cr.vrb a] } = true) :
    issue (tblSyl p a g c s) s = (tblSyl p a g c s).answer s (if s.me.fillRefs ≠ 0 then .stall else .go) :=
  issue_answer (.inl rfl) (by rw [tblSyl, hcur]; rfl) hf rfl

theorem launches_xpTbl (hcur : s.cur = .stage j) (hf : s.free 5 p { vr := [physOf s.me.cr.vrb a] } = true)
    (hrefs : s.me.fillRefs = 0) : Launches (.xpTbl p a g c) s 3 (.bank (!s.me.cur) g (c = 1)) (s.rv a) 0 0 := by
  have hanswer := tbl_answer (g := g) (c := c) hcur hf
  rw [if_neg (not_not.mpr hrefs)] at hanswer
  have hexec := exec_xpTbl_of_untagged (pendingTags_of_free hf) hanswer
  have hbank : (s.enter p (tblSyl p a g c s).regs).me.cur = s.me.cur := congrArg Visible.cur (s.enter_visible _ _)
  simp only [tblSyl] at hexec hbank
  rw [hbank, State.enter_physRv] at hexec
  exact launches_of_exec (f := fun x => { x with late := false }) hexec (fun _ => rfl) (fun _ => rfl)
    (fun x => by simp [visible_modCr, CtlRegs.drawn]; rfl)

theorem xpTbl_stalls (hcur : s.cur = .stage j) (hf : s.free 5 p { vr := [physOf s.me.cr.vrb a] } = true)
    (hrefs : s.me.fillRefs ≠ 0) : exec (.xpTbl p a g c) s = .next s.stall := by
  have hanswer := tbl_answer (g := g) (c := c) hcur hf
  rw [if_pos hrefs] at hanswer
  exact exec_xpTbl_of_untagged (pendingTags_of_free hf) hanswer

end

theorem cvtFmt_narrows {k : BitVec 3} {f b : Nat}
    (hform : (k, f, b) ∈ [((4 : BitVec 3), (0x0C : Nat), (8 : Nat)), (5, 0x0D, 8), (6, 0x0E, 4)]) :
    cvtFmt k.toNat = (f, true) ∧ fmtBits f = b ∧ (b = 4 ∨ b = 8) := by
  simp only [List.mem_cons, List.not_mem_nil, or_false, Prod.mk.injEq] at hform
  rcases hform with ⟨rfl, rfl, rfl⟩ | ⟨rfl, rfl, rfl⟩ | ⟨rfl, rfl, rfl⟩ <;> decide

theorem trnSize_toNat {w : BitVec 2} (hw : w ≠ 3) : trnSize w.toNat = if w = 0 then 2 else if w = 1 then 1 else 4 := by
  revert w
  decide

/-- Settles O37: every form puts its result in flight; the bits of a result are those of its operands that the form names. -/
theorem transformResults : Obligations.TransformResults := by
  rintro s p d a j hcur _ _ rfl rfl _ rfl
  refine ⟨fun hf => ⟨fun g c hrefs => launches_xpTbl hcur hf hrefs, fun hb => ⟨?_, ?_, ?_, ?_, ?_, ?_, ?_, ?_⟩⟩, ?_,
    fun hf hrefs g c => xpTbl_stalls hcur hf hrefs⟩
  · exact launches_xpExp hcur hf hb
  · exact launches_xpUnp hcur hf hb
  · rintro w _ hw rfl
    rw [← trnSize_toNat hw]
    have hsize : trnSize w.toNat ∈ [1, 2, 4] := by
      revert w
      decide
    exact ⟨_, launches_xpTrn hcur hf hb w, fun row hrow c hc => lane_transposed hsize _ hrow hc⟩
  · rintro h w _ rfl hh
    have hwidth : (if w = 1 then 16 else 8) ≤ 16 := by split <;> decide
    have hlength (f : Nat → Nat) : ((List.range 32).map f).length = 32 := by simp
    refine ⟨_, launches_xpPack hcur hf hb hh, fun i hi => ?_, packed_high hwidth (hlength _)⟩
    rw [getLsbD_packed hwidth (hlength _) hi, getD_range_map hi]
  · exact ⟨_, launches_xpPln hcur hf hb rfl, fun pl hpl i hi => getLsbD_toPlanes _ hpl hi⟩
  · intro n hlow hhigh
    refine ⟨_, launches_xpPln hcur hf hb (by simp [hlow, hhigh]), fun i hi q hbits hq => ?_⟩
    exact lane_fromPlanes _ hi hhigh hbits hq
  · exact fun q k f b => launches_xpCvt_float hcur hf hb
  · exact fun q k b => launches_xpCvt_int hcur hf hb
  · intro hf hb q k f b hform hq c hc
    obtain ⟨hk, hbits, hsize⟩ := cvtFmt_narrows hform
    refine ⟨_, launches_xpCvt_narrows hcur hf hb hk hbits (hsize.imp_right hq) hc, fun i hi => lane_spliced_inside _ _ hi ?_,
      fun i hi ho => lane_spliced_outside _ _ hi ho⟩
    have hq4 := q.isLt
    rcases hsize with rfl | rfl
    · omega
    · have := hq rfl
      omega

end Sys2Proof.Machine
end

section
/-! PROOF. What an action of `RFT` leaves unchanged (O19). -/

namespace Sys2Proof.Machine

/-! ## Steps apart from the firings: no context and no slot changes -/

/-- A step that changes neither a context nor a slot, and takes no time. -/
structure Apart (s t : State) : Prop where
  cur : t.cur = s.cur
  cycle : t.cycle = s.cycle
  ctxs : t.ctxs = s.ctxs
  slots : t.slots = s.slots

theorem Apart.refl (s : State) : Apart s s := ⟨rfl, rfl, rfl, rfl⟩

section
variable {s t u : State}

theorem Apart.trans (h : Apart s t) (g : Apart t u) : Apart s u :=
  ⟨g.cur.trans h.cur, g.cycle.trans h.cycle, g.ctxs.trans h.ctxs, g.slots.trans h.slots⟩

theorem Apart.slot (h : Apart s t) (i : SlotId) : t.slot i = s.slot i := by rw [State.slot, h.slots, State.slot]

theorem Apart.foldl {α : Type} {f : State → α → State} (h : ∀ s x, Apart s (f s x)) (l : List α) (s : State) :
    Apart s (l.foldl f s) := by
  induction l generalizing s with
  | nil => exact .refl s
  | cons x l ih => exact (h s x).trans (ih _)

theorem Messaged.apart (h : Messaged s t) : Apart s t := by
  obtain ⟨_, _, _, _, rfl⟩ := h.rest
  exact ⟨rfl, rfl, rfl, rfl⟩

end

section
variable (s : State)

theorem apart_modDie (d : DieId) (f : Die → Die) : Apart s (s.modDie d f) := ⟨rfl, rfl, rfl, rfl⟩
theorem apart_modCore (c : CoreId) (f : Core → Core) : Apart s (s.modCore c f) := ⟨rfl, rfl, rfl, rfl⟩
theorem apart_setCore (c : CoreId) (k : Core) : Apart s (s.setCore c k) := ⟨rfl, rfl, rfl, rfl⟩
theorem apart_modSup (v : SupId) (f : Sup → Sup) : Apart s (s.modSup v f) := ⟨rfl, rfl, rfl, rfl⟩
theorem apart_setClu (c : CluId) (k : Cluster) : Apart s (s.setClu c k) := ⟨rfl, rfl, rfl, rfl⟩
theorem apart_schedule (cycle pri : Nat) (ev : Event) : Apart s (s.schedule cycle pri ev) := ⟨rfl, rfl, rfl, rfl⟩

theorem apart_advancePhaser (c : CluId) (n : Nat) : Apart s (s.advancePhaser c n) := by
  rw [State.advancePhaser]
  split
  · exact apart_setClu ..
  · exact (apart_setClu ..).trans (.foldl (fun s _ => apart_schedule s ..) ..)

theorem apart_dropMember (i : SlotId) (n : Nat) : Apart s (s.dropMember i n) := by
  rw [State.dropMember]
  split
  · exact .refl s
  · exact (apart_setClu ..).trans (apart_advancePhaser ..)

theorem apart_checkBarrier (c : CluId) : Apart s (s.checkBarrier c) := by
  rw [State.checkBarrier]
  split
  · exact (apart_setClu ..).trans (.foldl (fun s _ => apart_schedule s ..) ..)
  · exact .refl s

theorem apart_leaveActive (i : SlotId) : Apart s (s.leaveActive i) :=
  ((Apart.foldl (fun s n => apart_dropMember s i n) ..).trans (apart_checkBarrier ..)).trans (apart_modDie ..)

theorem apart_meetDie (d : DieId) (addr n : Nat) : Apart s (s.meetDie d addr n) := by
  rw [State.meetDie]
  split
  · exact .refl s
  · exact ⟨rfl, rfl, rfl, rfl⟩

theorem apart_countPartial (d : DieId) (bad once : List Nat) (addr n : Nat) : Apart s (s.countPartial d bad once addr n) := by
  rw [State.countPartial]
  split
  · exact .refl s
  · exact apart_modDie ..

theorem apart_storeLost (a : Agent) (code unit addr : Nat) : Apart s (s.storeLost a code unit addr) :=
  (messaged_dieEvent ..).apart

theorem apart_writeBanks (i : SlotId) (addr : Nat) (data : List Byte) (full : Bool) :
    Apart s (s.writeBanks (.stage i) addr data full) := by
  rw [State.writeBanks]
  split
  · exact ((apart_setCore ..).trans (apart_countPartial ..)).trans (apart_storeLost ..)
  · exact (apart_setCore ..).trans (apart_countPartial ..)

theorem apart_flushStores (i : SlotId) : Apart s (s.flushStores (.stage i)) := by
  have hwrites := Apart.foldl (f := fun s (st : LocalStore) => s.writeBanks (.stage i) st.addr st.data st.setFull)
    (fun s st => apart_writeBanks s i st.addr st.data st.setFull) (s.pendingStores (.stage i)) s
  exact hwrites.trans (apart_modCore _ i.core (fun k => { k with stores := [] }))

/-- A credit message that finds no way is only lost (R413). -/
theorem apart_sendCredit (i : SlotId) (ch : Chan) (num : BitVec 32) : Apart s (s.sendCredit i ch num) := by
  simp only [State.sendCredit, State.sendFlit, State.sendTrips, State.sendClass]
  split
  case h_1 =>
    split
    · exact (messaged_dropAt ..).apart
    · split
      · exact ⟨rfl, rfl, rfl, rfl⟩
      · exact apart_schedule ..
  case h_2 => exact ⟨rfl, rfl, rfl, rfl⟩
  case h_3 => exact .refl s

theorem apart_sendCredits (i : SlotId) (cs : List (Chan × BitVec 32)) : Apart s (s.sendCredits i cs) :=
  Apart.foldl (α := Chan × BitVec 32) (fun s c => apart_sendCredit s i c.1 c.2) cs s

end

/-! ## Steps of one stage: no other context changes -/

/-- A step that changes no context but that of a stage, and takes no time. -/
structure OnlyStage (i : SlotId) (s t : State) : Prop where
  cur : t.cur = s.cur
  cycle : t.cycle = s.cycle
  others : ∀ a, a ≠ .stage i → t.ctx a = s.ctx a

section
variable {i : SlotId} {s t u : State}

theorem OnlyStage.refl (i : SlotId) (s : State) : OnlyStage i s s := ⟨rfl, rfl, fun _ _ => rfl⟩

theorem OnlyStage.trans (h : OnlyStage i s t) (g : OnlyStage i t u) : OnlyStage i s u :=
  ⟨g.cur.trans h.cur, g.cycle.trans h.cycle, fun a ha => (g.others a ha).trans (h.others a ha)⟩

theorem Apart.onlyStage (h : Apart s t) : OnlyStage i s t := ⟨h.cur, h.cycle, fun a _ => by rw [State.ctx, h.ctxs, State.ctx]⟩

end

section
variable (s : State) (i : SlotId)

theorem onlyStage_modCtx (f : Ctx → Ctx) : OnlyStage i s (s.modCtx (.stage i) f) :=
  ⟨rfl, rfl, fun a ha => by rw [State.ctx_modCtx, if_neg ha]⟩

theorem onlyStage_modSlot (j : SlotId) (f : Slot → Slot) : OnlyStage i s (s.modSlot j f) := ⟨rfl, rfl, fun _ _ => rfl⟩

theorem onlyStage_dropWork : OnlyStage i s (s.dropWork i) := by
  obtain ⟨f, g, h, reqs, hdrop⟩ : ∃ f g h reqs, s.dropWork i =
      { ((s.modCtx (.stage i) f).modSlot i g).modDie i.core.die h with reqs := reqs } := ⟨_, _, _, _, rfl⟩
  have hstage := ((onlyStage_modCtx s i f).trans (onlyStage_modSlot _ i i g)).trans (apart_modDie _ i.core.die h).onlyStage
  rw [hdrop]
  exact hstage.trans ⟨rfl, rfl, fun _ _ => rfl⟩

/-- The trap of a firing leaves the queues of its die. -/
def State.untrap (s : State) (i : SlotId) : State :=
  (List.range 4).foldl (fun s k => s.modSup { die := i.core.die, k := k } (fun u => { u with traps := u.traps.filter (· ≠ i) })) s

theorem apart_untrap : Apart s (s.untrap i) := .foldl (fun _ _ => apart_modSup ..) ..

/-- A slot whose firing is gone. -/
def Slot.unfired (v : Slot) : Slot := { v with fst := .none, trap := none, ending := none, parkPending := false, capture := none }

theorem onlyStage_dropFiring : OnlyStage i s (s.dropFiring i) := by
  have hrest := ((apart_modDie s i.core.die (fun d => { d with fills := d.fills.filter (fun f => !(f.own = .stage i && f.landed)) })).trans
    (apart_modCore _ i.core (fun k => { k with running := if k.running = some i.slot then none else k.running }))).trans
    (apart_untrap _ i)
  exact hrest.onlyStage.trans (onlyStage_modSlot _ i i Slot.unfired)

variable {i} in
theorem OnlyStage.foldl_fst {α β : Type} {f : State × β → α → State × β} (h : ∀ acc x, OnlyStage i acc.1 (f acc x).1) (l : List α)
    (acc : State × β) : OnlyStage i acc.1 (l.foldl f acc).1 := by
  induction l generalizing acc with
  | nil => exact .refl i _
  | cons x l ih => exact (h acc x).trans (ih _)

theorem onlyStage_freeBufs (test : Buf → Bool) : OnlyStage i s (s.freeBufs i test).1 :=
  OnlyStage.foldl_fst (fun acc e => onlyStage_modSlot acc.1 i i (fun v => { v with ins := tset v.ins e.1 (e.2.free test).1 }))
    (s.slot i).ins (s, [])

end

end Sys2Proof.Machine
end

section
/-! PROOF. The supervisor instructions (O19). -/

namespace Sys2Proof.Machine

/-! ## The registers of a save area (R223, R224) -/

/-- A read of a firing's save area: no slot and no byte of a gallery changes. -/
structure SavedRead (i : SlotId) (s t : State) : Prop where
  stage : OnlyStage i s t
  slots : t.slots = s.slots
  gallery : ∀ d, (t.die d).gallery = (s.die d).gallery

section
variable {i : SlotId} {s t u : State}

theorem SavedRead.trans (h : SavedRead i s t) (g : SavedRead i t u) : SavedRead i s u :=
  ⟨h.stage.trans g.stage, g.slots.trans h.slots, fun d => (g.gallery d).trans (h.gallery d)⟩

theorem saveWord_of_same (hslot : t.slot i = s.slot i) (hgallery : ∀ d, (t.die d).gallery = (s.die d).gallery) (off : Nat) :
    t.saveWord i off = s.saveWord i off := by
  rw [State.saveWord, State.saveWord, hslot, hgallery]

theorem SavedRead.slot (h : SavedRead i s t) : t.slot i = s.slot i := by rw [State.slot, h.slots, State.slot]

end

section
variable (s : State) (i : SlotId)

theorem savedRead_modDie {f : Die → Die} (d : DieId) (h : ∀ k, (f k).gallery = k.gallery) : SavedRead i s (s.modDie d f) := by
  refine ⟨(apart_modDie ..).onlyStage, rfl, fun d' => ?_⟩
  rw [State.die_modDie]
  split
  case isTrue hd => rw [h, hd]
  case isFalse => rfl

theorem savedRead_meetDie (d : DieId) (addr n : Nat) : SavedRead i s (s.meetDie d addr n) := by
  rw [State.meetDie]
  split
  · exact ⟨.refl i s, rfl, fun _ => rfl⟩
  · exact (savedRead_modDie s i d (f := fun k => { k with badOnce := k.badOnce.filter (· ∉ words8 addr n) }) fun _ => rfl).trans
      (savedRead_modDie _ i d fun _ => rfl)

theorem savedRead_readSaved (addr n : Nat) : SavedRead i s (s.readSaved i addr n) := by
  rw [State.readSaved]
  split
  · exact savedRead_meetDie ..
  · exact (savedRead_meetDie ..).trans ⟨onlyStage_modCtx .., rfl, fun _ => rfl⟩

theorem savedRead_meetSaved (parts : List (Nat × Nat)) : SavedRead i s (s.meetSaved i parts) := by
  rw [State.meetSaved]
  induction parts generalizing s with
  | nil => exact ⟨.refl i s, rfl, fun _ => rfl⟩
  | cons e parts ih => exact (savedRead_readSaved ..).trans (ih _)

/-! ## The actions of `RFT` (R347) -/

theorem onlyStage_reload : OnlyStage i s (s.reload i) := by
  simp only [State.reload]
  exact (savedRead_meetSaved s i _).stage.trans (onlyStage_modCtx ..)

/-- What a context takes from its save area. -/
structure Reloaded (s : State) (i : SlotId) (c : Ctx) : Prop where
  budget : c.budget = BitVec.ofNat 24 (s.saveWord i 0x10)
  p : c.p = BitVec.ofNat 16 (s.saveWord i 0x68)
  x : ∀ k (h : k < 64), k ≠ 0 → c.x[k] = BitVec.ofNat 64 (s.saveWord i (0x100 + 8 * k))

theorem reloaded_reload : Reloaded s i ((s.reload i).ctx (.stage i)) := by
  have hread := savedRead_meetSaved s i [(0x0000, 0x300), (0x1000, 0x1000)]
  have hword := saveWord_of_same hread.slot hread.gallery
  simp only [State.reload, State.ctx_modCtx_same]
  refine ⟨?_, ?_, fun k hk hne => ?_⟩
  · exact congrArg (BitVec.ofNat 24) (hword 0x10)
  · exact congrArg (BitVec.ofNat 16) (hword 0x68)
  · rw [Vector.getElem_mapFinIdx, if_neg hne, hword]
    rfl

theorem onlyStage_resume : OnlyStage i s (s.resume i) := (onlyStage_modSlot s i i _).trans (onlyStage_modCtx ..)

theorem slot_resume : (s.resume i).slot i = { s.slot i with fst := .running, trap := none } := by
  rw [State.resume, State.slot_modCtx, State.slot_modSlot_same]

variable {i} in
theorem reloaded_resume {t : State} (h : Reloaded s i (t.ctx (.stage i))) : Reloaded s i ((t.resume i).ctx (.stage i)) := by
  have hctx : (t.resume i).ctx (.stage i) = { t.ctx (.stage i) with notBefore := t.cycle + 1, holding := false, sync := none } := by
    rw [State.resume, State.ctx_modCtx_same]
    rfl
  rw [hctx]
  exact ⟨h.budget, h.p, h.x⟩

/-- A firing that is on its core, or waits for it. -/
def Slot.lives (v : Slot) : Prop := ¬ (v.fst = .none ∨ v.fst = .ready ∨ v.fst = .done)

/-- A slot whose firing is killed in a cycle (R62). -/
def Slot.killedAt (cycle : Nat) (v : Slot) : Slot :=
  { v with fst := .waiting, trap := none, parkPending := false, capture := none, barrierWait := false,
           ending := some { began := cycle, markersSent := false, kill := true } }

theorem onlyStage_landAll : OnlyStage i s (s.landAll (.stage i)) := onlyStage_modCtx ..

/-- What a kill discards, before the firing begins to end. -/
theorem onlyStage_discard : OnlyStage i s (((s.landAll (.stage i)).flushStores (.stage i)).dropWork i) :=
  ((onlyStage_landAll ..).trans (apart_flushStores ..).onlyStage).trans (onlyStage_dropWork ..)

variable {s i} in
theorem killFiring_of_lives (h : (s.slot i).lives) : s.killFiring i =
    ((((s.landAll (.stage i)).flushStores (.stage i)).dropWork i).modSlot i (Slot.killedAt s.cycle)).untrap i := by
  rw [← (onlyStage_discard s i).cycle]
  exact if_neg h

theorem onlyStage_killFiring : OnlyStage i s (s.killFiring i) := by
  by_cases h : (s.slot i).lives
  · rw [killFiring_of_lives h]
    exact ((onlyStage_discard ..).trans (onlyStage_modSlot ..)).trans (apart_untrap ..).onlyStage
  · rw [State.killFiring, if_pos (not_not.mp h)]
    exact .refl i s

/-- A packet discarded unread is credited to its channel (R61). -/
def State.creditHeld (s : State) (i : SlotId) (h : InPort × Buf) : State :=
  match h.1.chans[h.2.chan]? with
  | some ch => s.sendCredit i ch h.2.seq
  | none => s

theorem apart_creditHeld (h : InPort × Buf) : Apart s (s.creditHeld i h) := by
  rw [State.creditHeld]
  split
  · exact apart_sendCredit ..
  · exact .refl s

/-- A slot whose stage is killed (R61). -/
def Slot.emptied (v : Slot) : Slot :=
  { v with sst := .empty, fst := .none, capture := none, killed := true, events := [], drains := [], draining := false,
           ins := v.ins.map (fun q => (q.1, { q.2 with held := [] })) }

/-- The stage's firing discarded, where it has one. -/
def State.unfire (s : State) (i : SlotId) : State :=
  if (s.slot i).fst = .none ∨ (s.slot i).fst = .ready ∨ (s.slot i).fst = .done then s else (s.dropWork i).dropFiring i

theorem onlyStage_unfire : OnlyStage i s (s.unfire i) := by
  rw [State.unfire]
  split
  · exact .refl i s
  · exact (onlyStage_dropWork ..).trans (onlyStage_dropFiring ..)

variable {s i} in
theorem killStage_of_loaded (h : (s.slot i).sst ≠ .empty) :
    ∃ t, OnlyStage i s t ∧ s.killStage i = (t.modSlot i Slot.emptied).leaveActive i := by
  obtain ⟨held, cs, hkill⟩ : ∃ (held : List (InPort × Buf)) (cs : List (Chan × BitVec 32)), s.killStage i =
      ((held.foldl (fun s q => s.creditHeld i q) ((((s.unfire i).freeBufs i (fun _ => true)).1).sendCredits i cs)).modSlot i
        Slot.emptied).leaveActive i := by
    rw [State.killStage, if_neg h]
    exact ⟨_, _, rfl⟩
  have hfreed := (onlyStage_unfire s i).trans (onlyStage_freeBufs _ i (fun _ => true))
  have hcredited := (apart_sendCredits ((s.unfire i).freeBufs i (fun _ => true)).1 i cs).trans
    (Apart.foldl (fun s q => apart_creditHeld s i q) held _)
  exact ⟨_, hfreed.trans hcredited.onlyStage, hkill⟩

theorem onlyStage_killStage : OnlyStage i s (s.killStage i) := by
  by_cases h : (s.slot i).sst = .empty
  · rw [State.killStage, if_pos h]
    exact .refl i s
  · obtain ⟨t, hstage, hkill⟩ := killStage_of_loaded h
    rw [hkill]
    exact (hstage.trans (onlyStage_modSlot ..)).trans (apart_leaveActive ..).onlyStage

variable {s i} in
/-- What each action does with a trap whose firing is still TRAPPED. -/
theorem applyAct_of_trapped (h : (s.slot i).fst = .trapped) : s.applyAct 0 i = (s.reload i).resume i ∧
    s.applyAct 1 i = s.modSlot i (fun v => { v with parkPending := true }) ∧ s.applyAct 2 i = s.killFiring i ∧
    ∀ n, s.applyAct (n + 3) i = s.killStage i :=
  ⟨if_neg (not_not.mpr h), if_neg (not_not.mpr h), if_neg (not_not.mpr h), fun _ => if_neg (not_not.mpr h)⟩

theorem onlyStage_applyAct (act : Nat) : OnlyStage i s (s.applyAct act i) := by
  by_cases h : (s.slot i).fst = .trapped
  · obtain ⟨hresume, hpark, hkillFiring, hkillStage⟩ := applyAct_of_trapped h
    match act with
    | 0 =>
      rw [hresume]
      exact (onlyStage_reload ..).trans (onlyStage_resume ..)
    | 1 =>
      rw [hpark]
      exact onlyStage_modSlot ..
    | 2 =>
      rw [hkillFiring]
      exact onlyStage_killFiring ..
    | n + 3 =>
      rw [hkillStage]
      exact onlyStage_killStage ..
  · have hact : s.applyAct act i = s := if_pos h
    rw [hact]
    exact .refl i s

end

/-! ## What each action makes of the slot -/

section
variable {s : State} {i : SlotId} (h : (s.slot i).fst = .trapped)
include h

theorem resumed_of_act : ((s.applyAct 0 i).slot i).fst = .running ∧ ((s.applyAct 0 i).slot i).trap = none ∧
    Reloaded s i ((s.applyAct 0 i).ctx (.stage i)) := by
  obtain ⟨hact, -⟩ := applyAct_of_trapped h
  rw [hact, slot_resume]
  exact ⟨rfl, rfl, reloaded_resume s (reloaded_reload s i)⟩

theorem parkPending_of_act : ((s.applyAct 1 i).slot i).fst = .trapped ∧ ((s.applyAct 1 i).slot i).parkPending = true := by
  obtain ⟨-, hact, -⟩ := applyAct_of_trapped h
  rw [hact, State.slot_modSlot_same]
  exact ⟨h, rfl⟩

theorem ending_of_act : ((s.applyAct 2 i).slot i).trap = none ∧
    ((s.applyAct 2 i).slot i).ending = some { began := s.cycle, markersSent := false, kill := true } := by
  obtain ⟨-, -, hact, -⟩ := applyAct_of_trapped h
  have hlives : (s.slot i).lives := by simp [Slot.lives, h]
  rw [hact, killFiring_of_lives hlives, (apart_untrap ..).slot, State.slot_modSlot_same]
  exact ⟨rfl, rfl⟩

theorem empty_of_act (hloaded : (s.slot i).sst ≠ .empty) :
    ((s.applyAct 3 i).slot i).sst = .empty ∧ ((s.applyAct 3 i).slot i).fst = .none := by
  obtain ⟨-, -, -, hact⟩ := applyAct_of_trapped h
  obtain ⟨t, -, hkill⟩ := killStage_of_loaded hloaded
  rw [hact 0, hkill, (apart_leaveActive ..).slot, State.slot_modSlot_same]
  exact ⟨rfl, rfl⟩

end

/-! ## `RFT` (R347) -/

/-- The trap that a supervisor core holds, with its action taken. -/
def State.actHeld (s : State) (v : SupId) : State :=
  match (s.sup v).held with
  | some i => s.applyAct (s.sup v).act.toNat i
  | none => s

/-- The trap held is over, and the core issues again eight cycles later. -/
def State.endTrap (s : State) (v : SupId) : State :=
  (s.modSup v (fun u => { u with trapc := 0, held := none })).modMe (fun c => { c with notBefore := max c.notBefore (s.cycle + 8) })

/-- The syllable of `RFT`. -/
def rftSyl (p : BitVec 4) : Syl :=
  { ctlSyl p {} (fun s =>
      match s.cur with
      | .stage _ => s
      | .sup v => (s.actHeld v).endTrap v) with
    priv := true,
    cause := fun s => match s.cur with
      | .stage _ => none
      | .sup v => if (s.sup v).trapc = 0 then some (0x02, s.sylValue) else none }

section
variable {s : State} {p : BitVec 4} {v : SupId}

theorem exec_rftSyl : exec (.rft p) s = issue (rftSyl p) s := rfl

theorem rftSyl_cause (hcur : s.cur = .sup v) :
    (rftSyl p).cause s = if (s.sup v).trapc = 0 then some (0x02, s.sylValue) else none := by
  simp only [rftSyl, hcur]

theorem rftSyl_act (hcur : s.cur = .sup v) : (rftSyl p).act s = (s.actHeld v).endTrap v := by
  simp only [rftSyl, ctlSyl, hcur]

theorem exec_rft_untrapped (hcur : s.cur = .sup v) (hf : s.free 0 p {} = true) (htrap : (s.sup v).trapc = 0) :
    exec (.rft p) s = .next (s.raise 2 0x02 s.sylValue) :=
  issue_cause (t := (0x02, s.sylValue)) (.inr (by rw [hcur]; rfl)) rfl hf ((rftSyl_cause (p := p) hcur).trans (if_pos htrap))

theorem exec_rft_trapped (hcur : s.cur = .sup v) (hf : s.free 0 p {} = true) (htrap : (s.sup v).trapc ≠ 0) :
    exec (.rft p) s = .next (((s.enter p {}).actHeld v).endTrap v) := by
  rw [← rftSyl_act (p := p) ((s.enter_cur ..).trans hcur), exec_rftSyl]
  exact issue_act (.inr (by rw [hcur]; rfl)) rfl hf ((rftSyl_cause hcur).trans (if_neg htrap)) rfl

theorem actHeld_of_held {i : SlotId} {act : BitVec 2} (hheld : (s.sup v).held = some i) (hact : (s.sup v).act = act) :
    s.actHeld v = s.applyAct act.toNat i := by
  rw [State.actHeld, hheld, hact]

/-- An action takes no time, and leaves the context of the supervisor core. -/
theorem actHeld_keeps (s : State) (v : SupId) :
    (s.actHeld v).cur = s.cur ∧ (s.actHeld v).cycle = s.cycle ∧ (s.actHeld v).ctx (.sup v) = s.ctx (.sup v) := by
  rw [State.actHeld]
  split
  · obtain ⟨hcur, hcycle, hothers⟩ := onlyStage_applyAct s _ (s.sup v).act.toNat
    exact ⟨hcur, hcycle, hothers _ nofun⟩
  · exact ⟨rfl, rfl, rfl⟩

theorem sup_endTrap (s : State) (v : SupId) : ((s.endTrap v).sup v) = { s.sup v with trapc := 0, held := none } := by
  rw [State.endTrap, State.modMe, State.sup_modCtx, State.sup_modSup_same]

theorem ctx_endTrap_self (hcur : s.cur = .sup v) :
    (s.endTrap v).ctx (.sup v) = { s.ctx (.sup v) with notBefore := max (s.ctx (.sup v)).notBefore (s.cycle + 8) } := by
  rw [State.endTrap, State.modMe, State.modSup_cur, hcur, State.ctx_modCtx_same]
  rfl

theorem ctx_endTrap_stage (hcur : s.cur = .sup v) (i : SlotId) : (s.endTrap v).ctx (.stage i) = s.ctx (.stage i) := by
  rw [State.endTrap, State.modMe, State.modSup_cur, hcur, State.ctx_modCtx, if_neg nofun]
  rfl

theorem slot_endTrap (s : State) (v : SupId) (i : SlotId) : (s.endTrap v).slot i = s.slot i := rfl

/-- What `RFT` does to the firing whose trap the core holds, by the action. -/
def Acted (s t : State) (act : BitVec 2) (i : SlotId) : Prop :=
  (act = 0 → (t.slot i).fst = .running ∧ (t.slot i).trap = none ∧ Reloaded s i (t.ctx (.stage i))) ∧
  (act = 1 → (t.slot i).fst = .trapped ∧ (t.slot i).parkPending = true) ∧
  (act = 2 → (t.slot i).trap = none ∧ (t.slot i).ending = some { began := s.cycle, markersSent := false, kill := true }) ∧
  (act = 3 → (s.slot i).sst ≠ .empty → (t.slot i).sst = .empty ∧ (t.slot i).fst = .none)

theorem acted_actHeld {i : SlotId} (hheld : (s.sup v).held = some i) (htrapped : (s.slot i).fst = .trapped) :
    Acted s (s.actHeld v) (s.sup v).act i := by
  refine ⟨fun h => ?_, fun h => ?_, fun h => ?_, fun h => ?_⟩
  · rw [actHeld_of_held hheld h]
    exact resumed_of_act htrapped
  · rw [actHeld_of_held hheld h]
    exact parkPending_of_act htrapped
  · rw [actHeld_of_held hheld h]
    exact ending_of_act htrapped
  · rw [actHeld_of_held hheld h]
    exact empty_of_act htrapped

theorem Reloaded.congr {t : State} {i : SlotId} {c : Ctx} (h : Reloaded s i c) (hword : ∀ off, t.saveWord i off = s.saveWord i off) :
    Reloaded t i c :=
  ⟨by rw [hword]; exact h.budget, by rw [hword]; exact h.p, fun k hk hne => by rw [hword]; exact h.x k hk hne⟩

theorem Acted.congr {s' t t' : State} {act : BitVec 2} {i : SlotId} (h : Acted s t act i) (hcycle : s'.cycle = s.cycle)
    (hslot : s'.slot i = s.slot i) (hword : ∀ off, s'.saveWord i off = s.saveWord i off) (hslot' : t'.slot i = t.slot i)
    (hctx' : t'.ctx (.stage i) = t.ctx (.stage i)) : Acted s' t' act i := by
  obtain ⟨hresumed, hrest⟩ := h
  rw [Acted, hcycle, hslot, hslot', hctx']
  exact ⟨fun h => (hresumed h).imp_right fun ⟨htrap, hreloaded⟩ => ⟨htrap, hreloaded.congr hword⟩, hrest⟩

/-- An `RFT` that issues while a trap is held. -/
theorem rft_acts (hcur : s.cur = .sup v) (hf : s.free 0 p {} = true) (htrap : (s.sup v).trapc ≠ 0) :
    ∃ t, exec (.rft p) s = .next t ∧ (t.sup v).trapc = 0 ∧ (t.sup v).held = none ∧ s.cycle + 8 ≤ (t.ctx s.cur).notBefore ∧
      (t.ctx s.cur).visible = s.me.visible ∧
      ∀ i, (s.sup v).held = some i → (s.slot i).fst = .trapped → Acted s t (s.sup v).act i := by
  obtain ⟨u, hu⟩ : ∃ u, u = s.enter p {} := ⟨_, rfl⟩
  have hcur' : u.cur = .sup v := hu ▸ (s.enter_cur ..).trans hcur
  obtain ⟨hactcur, hactcycle, hactctx⟩ := actHeld_keeps u v
  rw [hcur'] at hactcur
  refine ⟨(u.actHeld v).endTrap v, hu ▸ exec_rft_trapped hcur hf htrap, by rw [sup_endTrap], by rw [sup_endTrap], ?_, ?_, ?_⟩
  · rw [hcur, ctx_endTrap_self hactcur, hactcycle, hu, State.enter_cycle]
    exact le_max_right ..
  · rw [hcur, ctx_endTrap_self hactcur, hactctx, ← s.enter_visible p {}, State.me, State.enter_cur, hcur, hu]
    rfl
  · intro i hheld htrapped
    have hacted := acted_actHeld (s := u) (v := v) (i := i) (by rw [hu, State.enter_sup, hheld]) (by rw [hu, State.enter_slot, htrapped])
    have hslot : s.slot i = u.slot i := by rw [hu, State.enter_slot]
    have hword (off : Nat) : s.saveWord i off = u.saveWord i off :=
      saveWord_of_same hslot (fun d => by rw [hu, State.enter_gallery]) off
    have hact : (u.sup v).act = (s.sup v).act := by rw [hu, State.enter_sup]
    rw [hact] at hacted
    exact hacted.congr (by rw [hu, State.enter_cycle]) hslot hword (slot_endTrap ..) (ctx_endTrap_stage hactcur i)

end

/-! ## `HALT` (R131) -/

/-- The syllable of `HALT`. -/
def haltSyl (p : BitVec 4) : Syl :=
  { ctlSyl p {} (fun s =>
      match s.cur with
      | .sup v => s.modSup v (fun u => { u with halted := true })
      | .stage _ => s) with priv := true }

theorem haltSyl_act {s : State} {v : SupId} (p : BitVec 4) (hcur : s.cur = .sup v) :
    (haltSyl p).act s = s.modSup v (fun u => { u with halted := true }) := by
  simp only [haltSyl, ctlSyl, hcur]

theorem exec_halt_sup {s : State} {p : BitVec 4} {v : SupId} (hcur : s.cur = .sup v) (hf : s.free 0 p {} = true) :
    exec (.halt p) s = .next ((s.enter p {}).modSup v (fun u => { u with halted := true })) := by
  rw [← haltSyl_act p ((s.enter_cur ..).trans hcur)]
  exact issue_act (y := haltSyl p) (.inr (by rw [hcur]; rfl)) rfl hf rfl rfl

/-! ## `CFG.NEXT` (R358) -/

/-- The syllable of `CFG.NEXT`. -/
def cfgNextSyl (p : BitVec 4) (a : BitVec 6) : Syl :=
  { ctlSyl p { xr := [a] } (fun s => match s.me.sync with
      | some _ => s.endSync
      | none => s.modDie (dieOf s.cur) (fun dd => { dd with status := 0 })) with
    priv := true, wait := cfgNextWait a }

@[simp] theorem State.enter_sync (s : State) (g : BitVec 4) (r : Regs) : (s.enter g r).me.sync = s.me.sync := by
  obtain ⟨_, _, _, _, h, _⟩ := (enter_tagsOnly s g r).mine; rw [h]

section
variable {s : State} {p : BitVec 4} {a : BitVec 6} {v : SupId}

theorem cfgNextSyl_act_of_synced {w : SyncWait} (hsync : s.me.sync = some w) : (cfgNextSyl p a).act s = s.endSync := by
  simp only [cfgNextSyl, ctlSyl, hsync]

theorem cfgNextSyl_act_of_unsynced (hcur : s.cur = .sup v) (hsync : s.me.sync = none) :
    (cfgNextSyl p a).act s = s.modDie v.die (fun k => { k with status := 0 }) := by
  simp only [cfgNextSyl, ctlSyl, hsync, hcur]
  rfl

theorem cfgNextWait_of_synced {w : SyncWait} (hcur : s.cur = .sup v) (hsync : s.me.sync = some w) : cfgNextWait a s =
    if (s.die v.die).loading.isSome && w.since = (((s.die v.die).loading.map (·.2.2)).getD 0) then .hold (fun s => s) else .go := by
  simp only [cfgNextWait, hsync, hcur]
  rfl

theorem cfgNext_answer (hcur : s.cur = .sup v) (hf : s.free 0 p { xr := [a] } = true) :
    exec (.cfgNext p a) s = (cfgNextSyl p a).answer s (cfgNextWait a s) :=
  issue_answer (y := cfgNextSyl p a) (.inr (by rw [hcur]; rfl)) rfl hf rfl

/-- The state in which `CFG.NEXT` has begun its load, and waits. -/
def State.loadBegun (s : State) (d : DieId) (x : Word) : State :=
  (s.modDie d (fun k => { k with
    seqState := .loading,
    loading := some (if x.getLsbD 16 then none else some (x.toNat % 2 ^ 16), true, s.cycle) })).modMe (fun c =>
      { c with sync := some { word := s.iss.word, since := s.cycle, notified := none } })

theorem cfgNextWait_of_unsynced (hcur : s.cur = .sup v) (hsync : s.me.sync = none) : cfgNextWait a s =
    if (s.die v.die).switching then .go else .hold (fun s =>
      (s.beginLoad (dieOf s.cur) (if (s.rx a).getLsbD 16 then none else some (wbits (s.rx a) 0 16)) true).beginSync none) := by
  simp only [cfgNextWait, hsync, hcur]
  rfl

theorem beginSync_beginLoad (hcur : s.cur = .sup v) (hsync : s.me.sync = none) (x : Word) :
    (s.beginLoad (dieOf s.cur) (if x.getLsbD 16 then none else some (wbits x 0 16)) true).beginSync none = s.loadBegun v.die x := by
  have hfield : wbits x 0 16 = x.toNat % 2 ^ 16 := by rw [wbits, bitsAt, Nat.pow_zero, Nat.div_one]
  have hbegun (d : DieId) (want : Option Nat) : (s.beginLoad d want true).me.sync = none := hsync
  simp only [State.beginSync, hbegun, hcur, hfield]
  rfl

theorem cfgNext_begins (hcur : s.cur = .sup v) (hf : s.free 0 p { xr := [a] } = true) (hsync : s.me.sync = none)
    (hswitch : (s.die v.die).switching = false) : exec (.cfgNext p a) s = .next (s.loadBegun v.die (s.rx a)).hold := by
  rw [cfgNext_answer hcur hf, cfgNextWait_of_unsynced hcur hsync, if_neg (by simp [hswitch]), ← beginSync_beginLoad hcur hsync]
  rfl

theorem cfgNext_waits {w : SyncWait} {l : Option Nat × Bool × Nat} (hcur : s.cur = .sup v) (hf : s.free 0 p { xr := [a] } = true)
    (hsync : s.me.sync = some w) (hload : (s.die v.die).loading = some l) (hsince : l.2.2 = w.since) :
    exec (.cfgNext p a) s = .next s.hold := by
  rw [cfgNext_answer hcur hf, cfgNextWait_of_synced hcur hsync, if_pos (by simp [hload, hsince])]
  rfl

theorem cfgNext_issues {w : SyncWait} (hcur : s.cur = .sup v) (hf : s.free 0 p { xr := [a] } = true) (hsync : s.me.sync = some w)
    (hother : ∀ l, (s.die v.die).loading = some l → l.2.2 ≠ w.since) :
    exec (.cfgNext p a) s = .next ((s.enter p { xr := [a] }).modMe (fun c => { c with sync := none })) := by
  have hended : ¬ ((s.die v.die).loading.isSome && w.since = (((s.die v.die).loading.map (·.2.2)).getD 0)) = true := by
    cases hload : (s.die v.die).loading with
    | none => exact nofun
    | some l => simpa using (hother l hload).symm
  rw [cfgNext_answer hcur hf, cfgNextWait_of_synced hcur hsync, if_neg hended]
  exact congrArg Host.Outcome.next (cfgNextSyl_act_of_synced (p := p) (a := a) ((s.enter_sync ..).trans hsync))

theorem cfgNext_switching (hcur : s.cur = .sup v) (hf : s.free 0 p { xr := [a] } = true) (hsync : s.me.sync = none)
    (hswitch : (s.die v.die).switching = true) :
    exec (.cfgNext p a) s = .next ((s.enter p { xr := [a] }).modDie v.die (fun k => { k with status := 0 })) := by
  rw [cfgNext_answer hcur hf, cfgNextWait_of_unsynced hcur hsync, if_pos hswitch]
  exact congrArg Host.Outcome.next
    (cfgNextSyl_act_of_unsynced (p := p) (a := a) ((s.enter_cur ..).trans hcur) ((s.enter_sync ..).trans hsync))

end

/-! ## The obligation -/

/-- On a stage the supervisor instructions raise privilege violation (R96, R218). -/
theorem supervisor_traps {s : State} {p : BitVec 4} {d a : BitVec 6} (h : isSup s.cur = false) :
    exec (.rft p) s = .next (s.raise 0 0x0F s.sylValue) ∧ exec (.halt p) s = .next (s.raise 0 0x0F s.sylValue) ∧
      exec (.cfgNext p a) s = .next (s.raise 0 0x0F s.sylValue) ∧ ∀ x : BitVec 6, 32 ≤ x.toNat →
        exec (.mfcr p d x) s = .next (s.raise 0 0x0F s.sylValue) ∧ exec (.mtcr p x a) s = .next (s.raise 0 0x0F s.sylValue) :=
  ⟨issue_priv (y := rftSyl p) rfl h, issue_priv (y := haltSyl p) rfl h, issue_priv (y := cfgNextSyl p a) rfl h,
    fun _ hx => ⟨issue_priv (decide_eq_true hx) h, issue_priv (y := mtcrSyl p _ a) (decide_eq_true hx) h⟩⟩

/-- Settles O19: a stage may issue none of them; `RFT` takes its action apart from every context but the firing's own
(`onlyStage_applyAct`), and the wait of `CFG.NEXT` follows its load (`cfgNextWait_of_synced`). -/
theorem supervisorResults : Obligations.SupervisorResults := by
  intro s p d a
  refine ⟨supervisor_traps, fun v hcur => ⟨fun hf => ⟨exec_halt_sup hcur hf, exec_rft_untrapped hcur hf, fun htrap => ?_⟩, fun hf =>
    ⟨cfgNext_begins hcur hf, fun _ _ => cfgNext_waits hcur hf, fun _ => cfgNext_issues hcur hf, cfgNext_switching hcur hf⟩⟩⟩
  obtain ⟨t, hexec, htrapc, hheld, hwait, hvisible, hacts⟩ := rft_acts hcur hf htrap
  refine ⟨t, hexec, htrapc, hheld, hwait, hvisible, fun i hi htrapped => ?_⟩
  obtain ⟨hresumed, hparks, hkilled, hemptied⟩ := hacts i hi htrapped
  refine ⟨fun hact => ?_, hparks, hkilled, hemptied⟩
  obtain ⟨hrunning, hnotrap, hbudget, hp, hx⟩ := hresumed hact
  exact ⟨hrunning, hnotrap, hbudget, hp, hx⟩

end Sys2Proof.Machine
end

section
/-! PROOF. The scalar integer instructions (O1–O6). -/

namespace Sys2Proof.Machine

/-! ## Scalar syllables on the pipelined unit -/

section
variable {i : Instr} {s : State} {p : BitVec 4} {d a b : BitVec 6} {lat : Nat}

/-- A scalar syllable of the pipelined unit waits for no unit, so it writes what its function gives. -/
theorem writes_scalarNow {r : Regs} {f : State → List RegWrite × BitVec 6} {ws : List RegWrite} {fl : BitVec 6}
    (h : exec i s = issue (scalarSyl p r .scalar lat f) s) (hf : s.free 1 p r = true) (hx : f (s.enter p r) = (ws, fl)) :
    Writes i s ws fl :=
  writes_scalarSyl h hf (fun hne => absurd rfl hne) hx

theorem writes_alu {f : Word → Word → Word} {w : Word} (h : exec i s = issue (aluSyl p d a b lat f) s)
    (hf : s.free 1 p { xr := [a, b], xw := [d] } = true) (hw : f (s.rx a) (s.rx b) = w) : Writes i s [.x d w] 0 :=
  writes_scalarNow h hf (by rw [State.enter_rx, State.enter_rx, hw])

theorem writes_imm {f : Word → Word} {w : Word} (h : exec i s = issue (immSyl p d a f) s)
    (hf : s.free 1 p { xr := [a], xw := [d] } = true) (hw : f (s.rx a) = w) : Writes i s [.x d w] 0 :=
  writes_scalarNow h hf (by rw [State.enter_rx, hw])

/-- A division writes its result once the divider has none of an earlier bundle (R135). -/
theorem writes_div {f : Word → Word → Word × BitVec 6} {w : Word} {fl : BitVec 6} (h : exec i s = issue (divSyl p d a b f) s)
    (hf : s.free 1 p { xr := [a, b], xw := [d] } = true) (hunit : ∀ g ∈ s.me.flights, g.src = .divide → s.iss.mark ≤ g.id)
    (hw : f (s.rx a) (s.rx b) = (w, fl)) : Writes i s [.x d w] fl :=
  writes_scalarSyl h hf (fun _ => hunit) (by rw [State.enter_rx, State.enter_rx, hw])

end

/-! ## Three registers (O1) -/

theorem signedMin_eq (x y : Word) : (if x.toInt ≤ y.toInt then x else y) = if y.slt x then y else x := by
  rw [← ite_not]
  simp only [BitVec.slt_iff_toInt_lt, not_le]

theorem signedMax_eq (x y : Word) : (if x.toInt ≤ y.toInt then y else x) = if x.slt y then y else x := by
  rcases lt_trichotomy x.toInt y.toInt with h | h | h
  · rw [if_pos h.le, if_pos (BitVec.slt_iff_toInt_lt.mpr h)]
  · rw [BitVec.toInt_inj.mp h, ite_self, ite_self]
  · rw [if_neg h.not_ge, if_neg (mt BitVec.slt_iff_toInt_lt.mp h.not_gt)]

theorem unsignedMin_eq (x y : Word) : (if x.toNat ≤ y.toNat then x else y) = if y.ult x then y else x := by
  rw [← ite_not]
  simp only [BitVec.ult_iff_lt, BitVec.lt_def, not_le]

theorem unsignedMax_eq (x y : Word) : (if x.toNat ≤ y.toNat then y else x) = if x.ult y then y else x := by
  rcases lt_trichotomy x.toNat y.toNat with h | h | h
  · rw [if_pos h.le, if_pos (BitVec.ult_iff_lt.mpr h)]
  · rw [BitVec.eq_of_toNat_eq h, ite_self, ite_self]
  · rw [if_neg h.not_ge, if_neg (mt BitVec.ult_iff_lt.mp h.not_gt)]

/-- Settles O1: each is `aluSyl` of its function, and the minima and maxima compare the other way round. -/
theorem aluResults : Obligations.AluResults := by
  intro s p d a b hf
  refine ⟨writes_alu (exec_add ..) hf rfl, writes_alu (exec_sub ..) hf rfl, writes_alu (exec_mul ..) hf rfl,
    writes_alu (exec_mulh ..) hf ?_, writes_alu (exec_mulhN ..) hf rfl, writes_alu (exec_and ..) hf rfl,
    writes_alu (exec_or ..) hf rfl, writes_alu (exec_xor ..) hf rfl, writes_alu (exec_andn ..) hf rfl,
    writes_alu (exec_min ..) hf (signedMin_eq ..), writes_alu (exec_max ..) hf (signedMax_eq ..),
    writes_alu (exec_minN ..) hf (unsignedMin_eq ..), writes_alu (exec_maxN ..) hf (unsignedMax_eq ..)⟩
  rw [Int.fdiv_eq_ediv_of_nonneg _ (by norm_num), intWord]

/-! ## Shifts (O2) -/

theorem shl64_eq (x : Word) (n : Nat) : shl64 x n = x <<< n := by
  rw [shl64]
  split
  · rfl
  · next h => exact (BitVec.shiftLeft_eq_zero (Nat.le_of_not_lt h)).symm

theorem shr64_eq (x : Word) (n : Nat) : shr64 x n = x >>> n := by
  rw [shr64]
  split
  · rfl
  · next h => exact (BitVec.ushiftRight_eq_zero (Nat.le_of_not_lt h)).symm

/-- A count past 63 shifts in copies of the sign alone, as the count 63 does (R138). -/
theorem sar64_eq (x : Word) (n : Nat) : sar64 x n = x.sshiftRight n := by
  rw [sar64]
  rcases Nat.le_total n 63 with h | h
  · rw [Nat.min_eq_left h]
  · rw [Nat.min_eq_right h]
    have hsign {m k : Nat} (hm : 63 ≤ m) (hk : k < 64) : (x.sshiftRight m).getLsbD k = x.msb := by
      rw [BitVec.getLsbD_sshiftRight, decide_eq_false hk.not_ge, Bool.not_false, Bool.true_and]
      split
      · next hlow => rw [BitVec.msb_eq_getLsbD_last, show m + k = 64 - 1 by omega]
      · rfl
    exact BitVec.eq_of_getLsbD_eq fun k hk => (hsign le_rfl hk).trans (hsign h hk).symm

/-- Settles O2: the model's bounded counts are the shifts of `BitVec`. -/
theorem shiftResults : Obligations.ShiftResults := by
  intro s p d a b hf
  exact ⟨writes_alu (exec_shl ..) hf (shl64_eq ..), writes_alu (exec_shr ..) hf (shr64_eq ..),
    writes_alu (exec_sar ..) hf (sar64_eq ..)⟩

/-! ## Division (O3) -/

/-- The two words whose quotient has no representation (R139). -/
theorem toInt_overflows_iff (x y : Word) :
    (x.toInt = -(2 ^ 63) ∧ y.toInt = -1) ↔ x = BitVec.intMin 64 ∧ y = BitVec.allOnes 64 :=
  and_congr (BitVec.toInt_inj (y := BitVec.intMin 64)) (BitVec.toInt_inj (y := BitVec.allOnes 64))

section
variable {x y : Word}

theorem divS_zero (h : y = 0) : divS x y = (BitVec.allOnes 64, flDZ) := if_pos h
theorem divU_zero (h : y = 0) : divU x y = (BitVec.allOnes 64, flDZ) := if_pos h
theorem remS_zero (h : y = 0) : remS x y = (x, flDZ) := if_pos h

theorem divU_nonzero (h : y ≠ 0) : divU x y = (x / y, 0) := by
  rw [divU, if_neg h]
  exact congrArg (·, _) (BitVec.udiv_def ..).symm

theorem divS_overflow (hx : x = BitVec.intMin 64) (hy : y = BitVec.allOnes 64) : divS x y = (BitVec.intMin 64, flOF) := by
  subst hx hy; rfl

theorem remS_overflow (hx : x = BitVec.intMin 64) (hy : y = BitVec.allOnes 64) : remS x y = (0, 0) := by
  subst hx hy; rfl

theorem divS_nonzero (h0 : y ≠ 0) (h : ¬ (x = BitVec.intMin 64 ∧ y = BitVec.allOnes 64)) : divS x y = (x.sdiv y, 0) := by
  rw [divS, if_neg h0, if_neg (mt (toInt_overflows_iff x y).mp h)]
  exact congrArg (·, _) (BitVec.eq_of_toInt_eq (by rw [intWord, BitVec.toInt_ofInt, BitVec.toInt_sdiv]))

theorem remS_nonzero (h0 : y ≠ 0) (h : ¬ (x = BitVec.intMin 64 ∧ y = BitVec.allOnes 64)) : remS x y = (x.srem y, 0) := by
  rw [remS, if_neg h0, if_neg (mt (toInt_overflows_iff x y).mp h)]
  exact congrArg (·, _) (by rw [intWord, ← BitVec.toInt_srem, BitVec.ofInt_toInt])

end

/-- Settles O3: the cases of the divisor, and the one quotient that has no representation. -/
theorem divideResults : Obligations.DivideResults := by
  intro s p d a b hf hunit
  have hdiv {w : Word} {fl : BitVec 6} : divS (s.rx a) (s.rx b) = (w, fl) → Writes (.div p d a b) s [.x d w] fl :=
    writes_div (exec_div ..) hf hunit
  have hdivN {w : Word} {fl : BitVec 6} : divU (s.rx a) (s.rx b) = (w, fl) → Writes (.divN p d a b) s [.x d w] fl :=
    writes_div (exec_divN ..) hf hunit
  have hrem {w : Word} {fl : BitVec 6} : remS (s.rx a) (s.rx b) = (w, fl) → Writes (.rem p d a b) s [.x d w] fl :=
    writes_div (exec_rem ..) hf hunit
  exact ⟨fun h => ⟨hdiv (divS_zero h), hdivN (divU_zero h), hrem (remS_zero h)⟩, fun h => hdivN (divU_nonzero h),
    fun h0 h => ⟨hdiv (divS_nonzero h0 h), hrem (remS_nonzero h0 h)⟩,
    fun hx hy => ⟨hdiv (divS_overflow hx hy), hrem (remS_overflow hx hy)⟩⟩

/-! ## Immediates (O4) -/

/-- Settles O4: each is `immSyl` of its function; the counts are below 64. -/
theorem immediateResults : Obligations.ImmediateResults := by
  intro s p d a n i hf
  exact ⟨writes_imm (exec_addi ..) hf rfl, writes_imm (exec_andi ..) hf rfl, writes_imm (exec_ori ..) hf rfl,
    writes_imm (exec_xori ..) hf rfl, writes_imm (exec_shli ..) hf (shl64_eq ..), writes_imm (exec_shri ..) hf (shr64_eq ..),
    writes_imm (exec_sari ..) hf (sar64_eq ..), fun hli => writes_scalarNow (exec_li ..) hli rfl⟩

/-! ## Bit counts and fields (O5) -/

theorem log2_of_testBit {k n : Nat} (hn : n < 2 ^ (k + 1)) (h : n.testBit k = true) : n.log2 = k := by
  have hne : n ≠ 0 := fun h0 => by simp [h0] at h
  exact Nat.le_antisymm (Nat.lt_succ_iff.mp ((Nat.log2_lt hne).mpr hn)) ((Nat.le_log2 hne).mpr (Nat.ge_two_pow_of_testBit h))

theorem leadingZeros_eq {k n : Nat} (hn : n < 2 ^ k) : leadingZeros k n = if n = 0 then k else k - 1 - n.log2 := by
  induction k with
  | zero => rw [leadingZeros, Nat.lt_one_iff.mp hn, if_pos rfl]
  | succ k ih =>
    rw [leadingZeros]
    by_cases htop : n.testBit k = true
    · rw [if_pos htop, log2_of_testBit hn htop, if_neg (fun h0 => by simp [h0] at htop)]
      omega
    · have hlow : n < 2 ^ k := Nat.lt_of_not_le fun hle => htop (by
        rw [Nat.testBit_eq_decide_div_mod_eq, decide_eq_true_iff]
        have hq : n / 2 ^ k < 2 := Nat.div_lt_of_lt_mul (by rwa [← Nat.pow_succ])
        have hq' : 0 < n / 2 ^ k := Nat.div_pos hle (by positivity)
        omega)
      rw [if_neg htop, ih hlow]
      by_cases h0 : n = 0
      · rw [if_pos h0, if_pos h0]
      · have hlog := (Nat.log2_lt h0).mpr hlow
        rw [if_neg h0, if_neg h0]
        omega

/-- The count of trailing zeros ends at the lowest bit that is 1, or at the width. -/
theorem trailingZeros_spec (w n : Nat) : trailingZeros w n ≤ w ∧ (∀ k < trailingZeros w n, n.testBit k = false) ∧
    (trailingZeros w n < w → n.testBit (trailingZeros w n) = true) := by
  induction w generalizing n with
  | zero => exact ⟨le_rfl, fun k hk => absurd hk (Nat.not_lt_zero k), fun h => absurd h (lt_irrefl 0)⟩
  | succ w ih =>
    obtain ⟨hle, hzero, hone⟩ := ih (n / 2)
    rw [trailingZeros]
    split
    · next hodd => exact ⟨Nat.zero_le _, fun k hk => absurd hk (Nat.not_lt_zero k), fun _ => by simpa [Nat.testBit_zero] using hodd⟩
    · next heven =>
      refine ⟨Nat.succ_le_succ hle, fun k hk => ?_, fun h => ?_⟩
      · cases k with
        | zero => simpa [Nat.testBit_zero] using heven
        | succ k => rw [Nat.testBit_succ]; exact hzero k (Nat.succ_lt_succ_iff.mp hk)
      · rw [Nat.testBit_succ]; exact hone (Nat.succ_lt_succ_iff.mp h)

/-- The field of R143: position, and length cut off at bit 63. -/
theorem fieldOf_eq (y : Word) {pos len : Nat} (hpos : pos = y.toNat % 64)
    (hlen : len = min (y.toNat / 64 % 64 + 1) (64 - pos)) : fieldOf y = (pos, len) := by
  rw [hlen, hpos, fieldOf, wbits, wbits, bitsAt, bitsAt, Nat.pow_zero, Nat.div_one]
  rfl

theorem getLsbD_zeroField (x : Word) (pos len : Nat) {k : Nat} (hk : k < 64) :
    (toWord (wbits x pos len)).getLsbD k = (decide (k < len) && x.getLsbD (pos + k)) := by
  rw [toWord, BitVec.getLsbD_ofNat, decide_eq_true hk, Bool.true_and, wbits, testBit_bitsAt]
  rfl

theorem signedOf_eq_toInt {len : Nat} (hlen : 0 < len) (n : Nat) : signedOf len n = (BitVec.ofNat len n).toInt := by
  rw [BitVec.toInt_eq_toNat_cond, BitVec.toNat_ofNat, signedOf]
  have hpow : 2 ^ len = 2 * 2 ^ (len - 1) := by rw [← Nat.pow_succ', Nat.succ_eq_add_one, Nat.sub_add_cancel hlen]
  have hcond : n % 2 ^ len < 2 ^ (len - 1) ↔ 2 * (n % 2 ^ len) < 2 ^ len := by omega
  rw [if_congr hcond rfl rfl]
  push_cast
  rfl

/-- A field extended by its sign repeats its top bit (R143). -/
theorem getLsbD_signField (x : Word) (pos : Nat) {len k : Nat} (hlen : 0 < len) (hk : k < 64) :
    (intWord (signedOf len (x.toNat / 2 ^ pos))).getLsbD k = x.getLsbD (pos + min k (len - 1)) := by
  have hbit {m : Nat} (hm : m < len) : (BitVec.ofNat len (x.toNat / 2 ^ pos)).getLsbD m = x.getLsbD (pos + m) := by
    rw [BitVec.getLsbD_ofNat, decide_eq_true hm, Bool.true_and, Nat.testBit_div_two_pow, Nat.add_comm]
    rfl
  rw [signedOf_eq_toInt hlen, intWord, ← BitVec.signExtend, BitVec.getLsbD_signExtend, decide_eq_true hk, Bool.true_and]
  split
  · next hlow => rw [hbit hlow, Nat.min_eq_left (by omega)]
  · next hhigh => rw [BitVec.msb_eq_getLsbD_last, hbit (by omega), Nat.min_eq_right (by omega)]

theorem getLsbD_wput (x : Word) (pos len v : Nat) {k : Nat} (hk : k < 64) :
    (wput x pos len v).getLsbD k = if pos ≤ k ∧ k < pos + len then v.testBit (k - pos) else x.getLsbD k := by
  rw [wput, BitVec.getLsbD_ofNat, decide_eq_true hk, Bool.true_and, testBit_putBits]
  rfl

section
variable {s : State} {p : BitVec 4} {d a b : BitVec 6}

theorem writes_clz (hf : s.free 1 p { xr := [a], xw := [d] } = true) :
    Writes (.clz p d a) s [.x d (BitVec.ofNat 64 (if s.rx a = 0 then 64 else 63 - (s.rx a).toNat.log2))] 0 := by
  refine writes_imm (exec_clz ..) hf ?_
  rw [toWord, leadingZeros_eq (s.rx a).isLt]
  exact congrArg (BitVec.ofNat 64) (if_congr (BitVec.toNat_inj (y := 0)) rfl rfl)

theorem writes_extract (hf : s.free 1 p { xr := [a, b], xw := [d] } = true) {k pos len : Nat} (hk : k < 64)
    (hpos : pos = (s.rx b).toNat % 64) (hlen : len = min ((s.rx b).toNat / 64 % 64 + 1) (64 - pos)) :
    ∃ w, Writes (.extract p d a b) s [.x d w] 0 ∧ w.getLsbD k = (s.rx a).getLsbD (pos + min k (len - 1)) :=
  ⟨_, writes_alu (exec_extract ..) hf (by rw [fieldOf_eq _ hpos hlen]), getLsbD_signField _ _ (by omega) hk⟩

theorem writes_extractN (hf : s.free 1 p { xr := [a, b], xw := [d] } = true) {k pos len : Nat} (hk : k < 64)
    (hpos : pos = (s.rx b).toNat % 64) (hlen : len = min ((s.rx b).toNat / 64 % 64 + 1) (64 - pos)) :
    ∃ w, Writes (.extractN p d a b) s [.x d w] 0 ∧ w.getLsbD k = (decide (k < len) && (s.rx a).getLsbD (pos + k)) :=
  ⟨_, writes_alu (exec_extractN ..) hf (by rw [fieldOf_eq _ hpos hlen]), getLsbD_zeroField _ _ _ hk⟩

theorem writes_insert (hf : s.free 1 p { xr := [a, b, d], xw := [d] } = true) {k pos len : Nat} (hk : k < 64)
    (hpos : pos = (s.rx b).toNat % 64) (hlen : len = min ((s.rx b).toNat / 64 % 64 + 1) (64 - pos)) :
    ∃ w, Writes (.insert p d a b) s [.x d w] 0 ∧
      w.getLsbD k = if pos ≤ k ∧ k < pos + len then (s.rx a).getLsbD (k - pos) else (s.rx d).getLsbD k :=
  ⟨_, writes_scalarNow (exec_insert ..) hf (by simp only [State.enter_rx, fieldOf_eq _ hpos hlen]), getLsbD_wput _ _ _ _ hk⟩

end

/-- Settles O5: the counts by induction on the width (`leadingZeros_eq`, `trailingZeros_spec`), the fields bit by bit. -/
theorem bitFieldResults : Obligations.BitFieldResults := by
  intro s p q d a b
  refine ⟨fun hf => writes_scalarNow (exec_sel ..) hf (by simp only [State.enter_rx, State.enter_rp]), fun hf => ⟨writes_clz hf, ?_, ?_⟩,
    fun hf => ⟨fun k hk _ _ => writes_extractN hf hk, fun k hk _ _ => writes_extract hf hk⟩, fun hf k hk _ _ => writes_insert hf hk⟩
  · exact ⟨_, writes_imm (exec_ctz ..) hf rfl, trailingZeros_spec 64 (s.rx a).toNat⟩
  · exact writes_imm (exec_popc ..) hf (by rw [popCount_eq_countP]; rfl)

/-! ## Packing and the island (O6) -/

section
variable {s : State} {p : BitVec 4} {d a b : BitVec 6}

theorem writes_unpk (ha : a ≠ 63) (hf : s.free 1 p { xr := [a, a + 1, b], xw := [d] } = true) :
    Writes (.unpk p d a b) s [.x d (unpk (s.rx (a + 1)) (s.rx a) (s.rx b))] 0 := by
  have hissue := exec_unpk p d a b s
  rw [execUnpk, decide_eq_true ha] at hissue
  exact writes_scalarNow hissue hf (by simp only [State.enter_rx])

theorem writes_lut {i : SlotId} (hcur : s.cur = .stage i) (hf : s.free 1 p { xr := [a, b], xw := [d] } = true) :
    Writes (.lut p d a b) s [.x d (islandResult s.me.island.toList (s.rx a) (s.rx b))] 0 := by
  have hissue := exec_lut p d a b s
  rw [execLut, show (!isSup s.cur) = true by rw [hcur]; rfl] at hissue
  exact writes_scalarNow hissue hf (by simp only [State.enter_rx, State.enter_island])

end

/-- Settles O6: the functions of R147–R149 and, where register 64 or the island is missing, illegal operand type. -/
theorem packResults : Obligations.PackResults := by
  intro s p d a b
  refine ⟨writes_unpk, fun hf => ⟨writes_alu (exec_packb ..) hf rfl, fun _ hcur => writes_lut hcur hf⟩, ?_, fun v hcur => ?_⟩
  · exact (exec_unpk ..).trans (issue_type (.inl rfl) rfl)
  · exact (exec_lut ..).trans (issue_type (.inl rfl) (by rw [hcur]; rfl))

end Sys2Proof.Machine
end

section
/-! PROOF. Comparisons, predicates and scalar floating point (O7–O9). -/

namespace Sys2Proof.Machine

/-! ## The predicate writes of Form C (R19) -/

theorem cmpWrites_enter (s : State) (g : BitVec 4) (r : Regs) (q : BitVec 4) (m : BitVec 2) (c : Bool) :
    cmpWrites (s.enter g r) q m c = predWrites s q m c := by
  rw [cmpWrites, State.enter_rp, predWrites]
  obtain rfl | rfl | rfl | rfl : m = 0 ∨ m = 1 ∨ m = 2 ∨ m = 3 := by revert m; decide
  all_goals rfl

section
variable {i : Instr} {s : State} {p q : BitVec 4} {m : BitVec 2} {a b : BitVec 6} {c : Bool}

theorem writes_cmp {f : Word → Word → Bool} (h : exec i s = issue (cmpSyl p q m a b f) s)
    (hf : s.free 1 p (predRegs q m [a, b] []) = true) (hc : f (s.rx a) (s.rx b) = c) : Writes i s (predWrites s q m c) 0 :=
  writes_scalarNow h hf (by rw [cmpWrites_enter, State.enter_rx, State.enter_rx, hc])

theorem writes_cmpi {f : Word → Bool} (h : exec i s = issue (cmpiSyl p q m a f) s)
    (hf : s.free 1 p (predRegs q m [a] []) = true) (hc : f (s.rx a) = c) : Writes i s (predWrites s q m c) 0 :=
  writes_scalarNow h hf (by rw [cmpWrites_enter, State.enter_rx, hc])

theorem writes_pred {a b : BitVec 4} {na nb : BitVec 1} {f : Bool → Bool → Bool}
    (h : exec i s = issue (predSyl p q m na a nb b f) s) (hf : s.free 1 p (predRegs q m [] [a, b]) = true)
    (hc : f (s.rp a != (na == 1)) (s.rp b != (nb == 1)) = c) : Writes i s (predWrites s q m c) 0 := by
  refine writes_scalarNow h hf ?_
  rw [cmpWrites_enter, State.enter_rp, State.enter_rp, ← hc]
  rfl

end

/-! ## Comparisons and predicates (O7, O8) -/

theorem decide_toInt_eq (x y : Word) : decide (x.toInt = y.toInt) = (x == y) := by
  rw [beq_eq_decide]
  exact decide_eq_decide.mpr BitVec.toInt_inj

theorem decide_toInt_le (x y : Word) : decide (y.toInt ≤ x.toInt) = !x.slt y := by
  rw [BitVec.slt_eq_decide, ← decide_not]
  exact decide_eq_decide.mpr not_lt.symm

theorem decide_toNat_le (x y : Word) : decide (y.toNat ≤ x.toNat) = !x.ult y := by
  rw [BitVec.ult, ← decide_not]
  exact decide_eq_decide.mpr not_lt.symm

/-- Settles O7: each is the compare of its relation. -/
theorem compareResults : Obligations.CompareResults := by
  intro s p q m a b i
  refine ⟨fun hf => ?_, fun hf => ?_⟩
  · exact ⟨writes_cmp (exec_cmpEq ..) hf rfl, writes_cmp (exec_cmpNe ..) hf decide_not,
      writes_cmp (exec_cmpLt ..) hf rfl, writes_cmp (exec_cmpGe ..) hf (decide_toInt_le ..),
      writes_cmp (exec_cmpLtn ..) hf rfl, writes_cmp (exec_cmpGen ..) hf (decide_toNat_le ..)⟩
  · exact ⟨writes_cmpi (exec_cmpiEq ..) hf (decide_toInt_eq ..), writes_cmpi (exec_cmpiLt ..) hf rfl,
      writes_cmpi (exec_cmpiGe ..) hf (decide_toInt_le ..)⟩

/-- Settles O8: each is `predSyl` of its function. -/
theorem predicateResults : Obligations.PredicateResults := by
  intro s p q a b m na nb hf
  exact ⟨writes_pred (exec_pand ..) hf rfl, writes_pred (exec_por ..) hf rfl, writes_pred (exec_pxor ..) hf rfl⟩

/-! ## Scalar floating point (O9) -/

theorem fpOperand_enter (s : State) (g : BitVec 4) (r : Regs) (f : Fmt) (b : Opnd 6) :
    fpOperand (s.enter g r) f b = fpOpnd s f b := by
  cases b with
  | fld e => exact congrArg BitVec.toNat (s.enter_rx g r e)
  | ext1 | ext2 => rfl

section
variable {i : Instr} {s : State} {p : BitVec 4} {d a : BitVec 6} {b : Opnd 6} {f : Fmt} {lat : Nat}

theorem writes_fp {g : Nat → Nat → Nat × BitVec 6} (h : exec i s = issue (fpSyl f p d a b lat g) s)
    (hf : s.free 1 p { xr := a :: fpReg b, xw := [d] } = true) :
    Writes i s [.x d (BitVec.ofNat 64 (g (s.rx a).toNat (fpOpnd s f b)).1)] (g (s.rx a).toNat (fpOpnd s f b)).2 :=
  writes_scalarNow h hf (by rw [State.enter_rx, fpOperand_enter]; rfl)

theorem writes_fma (h : exec i s = issue (fmaSyl f p d a b lat) s) (hf : s.free 1 p { xr := d :: a :: fpReg b, xw := [d] } = true) :
    Writes i s [.x d (BitVec.ofNat 64 (fFma f (s.rx d).toNat (s.rx a).toNat (fpOpnd s f b)).1)]
      (fFma f (s.rx d).toNat (s.rx a).toNat (fpOpnd s f b)).2 :=
  writes_scalarNow h hf (by rw [State.enter_rx, State.enter_rx, fpOperand_enter]; rfl)

theorem writes_fcmp {q : BitVec 4} {m : BitVec 2} {g : FVal → FVal → Bool} (h : exec i s = issue (fcmpSyl p q m a b g) s)
    (hf : s.free 1 p (predRegs q m (a :: fpReg b) []) = true) :
    Writes i s (predWrites s q m (g (fval fp32 (s.rx a).toNat) (fval fp32 (fpOpnd s fp32 b)))) 0 :=
  writes_scalarNow h hf (by rw [cmpWrites_enter, State.enter_rx, fpOperand_enter])

end

/-- Settles O9: the operations of each format, the divider free of earlier work for the last two (R135). -/
theorem floatResults : Obligations.FloatResults := by
  intro s p q m d a b c
  refine ⟨fun hf => ?_, fun hf => ?_, fun hf => ?_, fun hunit => ⟨fun hf => ?_, fun hf => ?_⟩⟩
  · exact ⟨writes_fp (exec_faddS ..) hf, writes_fp (exec_faddD ..) hf, writes_fp (exec_fmulS ..) hf, writes_fp (exec_fmulD ..) hf,
      writes_fp (exec_fminS ..) hf, writes_fp (exec_fmaxS ..) hf⟩
  · exact ⟨writes_fma (exec_ffmaS ..) hf, writes_fma (exec_ffmaD ..) hf⟩
  · exact ⟨writes_fcmp (exec_fcmpLt ..) hf, writes_fcmp (exec_fcmpEq ..) hf⟩
  · exact writes_scalarSyl (exec_fdivS ..) hf (fun _ => hunit) (by simp only [State.enter_rx, toWord])
  · exact writes_scalarSyl (exec_fsqrtS ..) hf (fun _ => hunit) (by simp only [State.enter_rx, toWord])

end Sys2Proof.Machine
end

section
/-! PROOF. Branches and loops (O11, O13). -/

namespace Sys2Proof.Machine

/-! ## Where issue goes on (R119) -/

/-- A state whose issue goes on where it already does. -/
theorem issue_unmoved {s t : State} (h : t.iss = s.iss) :
    t = { t with iss := { s.iss with next := s.iss.next, taken := s.iss.taken } } := by rw [← h]

section
variable {i : Instr} {s : State} {p : BitVec 4} {r : Regs} {act : State → State} {n : Int} {k : Nat}

/-- A control syllable that changes nothing but where issue goes on. -/
theorem goes_ctl (h : exec i s = issue (ctlSyl p r act) s) (hf : s.free 0 p r = true)
    (ha : act (s.enter p r) = { s.enter p r with iss := { s.iss with next := n, taken := k } }) : Goes i s n k id :=
  goes_plain h (.inl rfl) rfl hf rfl rfl ha

theorem goes_on (h : exec i s = issue (ctlSyl p r act) s) (hf : s.free 0 p r = true) (ha : act (s.enter p r) = s.enter p r) :
    Goes i s s.iss.next s.iss.taken id :=
  goes_ctl h hf (ha.trans (issue_unmoved (s.enter_iss p r)))

theorem branch_enter (target : Int) (delay : Nat) :
    (s.enter p r).branch target delay = { s.enter p r with iss := { s.iss with next := target, taken := delay } } := by
  rw [State.branch, State.enter_iss]

theorem relTarget_enter (disp : Int) : (s.enter p r).relTarget disp = s.iss.start + 4 * disp := by
  rw [State.relTarget, State.enter_iss]

end

/-! ## Branches (O11) -/

section
variable {s : State} {p : BitVec 4}

theorem goes_brR {a : BitVec 6} (hf : s.free 0 p { xr := [a] } = true) (hal : (s.rx a).toNat % 4 = 0) :
    Goes (.brR p a) s (s.rx a).toNat 2 id := by
  refine goes_plain (exec_brR p a s) (.inl rfl) rfl hf (if_pos hal) rfl ?_
  exact (branch_enter ..).trans (by rw [State.enter_rx])

/-- The tree goes to its first target whose predicate is 1 (R122). -/
theorem treeTarget_first {rp : BitVec 4 → Bool} {tests : List (BitVec 4 × BitVec 14)} {k : Nat} (h : k < tests.length)
    (hone : rp tests[k].1 = true) (hzero : ∀ j (hj : j < k), rp (tests[j]).1 = false) : treeTarget rp tests = some tests[k].2.toInt := by
  induction tests generalizing k with
  | nil => exact absurd h (Nat.not_lt_zero k)
  | cons e tests ih =>
    cases k with
    | zero => exact if_pos hone
    | succ k =>
      have hhead : rp e.1 = false := hzero 0 (Nat.succ_pos k)
      rw [treeTarget, hhead, if_neg Bool.false_ne_true]
      exact ih (Nat.lt_of_succ_lt_succ h) hone fun j hj => hzero (j + 1) (Nat.succ_lt_succ hj)

theorem treeTarget_none {rp : BitVec 4 → Bool} {tests : List (BitVec 4 × BitVec 14)} (h : ∀ e ∈ tests, rp e.1 = false) :
    treeTarget rp tests = none := by
  induction tests with
  | nil => rfl
  | cons e tests ih =>
    rw [treeTarget, h e (List.mem_cons_self ..), if_neg Bool.false_ne_true, ih fun x hx => h x (List.mem_cons_of_mem _ hx)]

theorem rp_enter (g : BitVec 4) (r : Regs) : (s.enter g r).rp = s.rp := funext (s.enter_rp g r)

end

/-- Settles O11: each control syllable moves issue alone (`goes_ctl`), and the tree finds its first target (`treeTarget_first`). -/
theorem branchResults : Obligations.BranchResults := by
  intro s p q1 q2 q3 q4 d a n t1 t2 t3 t4
  refine ⟨fun hf => ⟨goes_on (exec_nop p s) hf rfl, goes_ctl (exec_br p d s) hf ?_⟩, goes_brR, ?_⟩
  · exact (branch_enter ..).trans (by rw [relTarget_enter])
  · rintro _ rfl hf
    have hbrT := exec_brT p q1 q2 q3 q4 n t1 t2 t3 t4 s
    rw [execBrT] at hbrT
    refine ⟨fun k hk hone hzero => goes_ctl hbrT hf ?_, fun hnone => goes_on hbrT hf ?_⟩
    · simp only [rp_enter, treeTarget_first hk hone hzero, branch_enter, relTarget_enter]
    · simp only [rp_enter, treeTarget_none hnone]

/-! ## A control syllable that changes its own context -/

section
variable {i : Instr} {s : State} {p : BitVec 4} {r : Regs} {act : State → State} {n : Int} {k : Nat} {f : Ctx → Ctx}

/-- What `f` makes of the visible part depends on the visible part alone, and it leaves the results in flight. -/
structure OnVisible (f : Ctx → Ctx) : Prop where
  visible : ∀ {c c' : Ctx}, c.visible = c'.visible → (f c).visible = (f c').visible
  flights : ∀ c, (f c).flights = c.flights

theorem goes_own (h : exec i s = issue (ctlSyl p r act) s) (hf : s.free 0 p r = true) (hv : OnVisible f)
    (ha : act (s.enter p r) = { (s.enter p r).modMe f with iss := { s.iss with next := n, taken := k } }) : Goes i s n k f :=
  goes_mod h (.inl rfl) rfl hf rfl rfl ha (hv.visible (s.enter_visible p r)) (hv.flights _)

theorem goes_own_on (h : exec i s = issue (ctlSyl p r act) s) (hf : s.free 0 p r = true) (hv : OnVisible f)
    (ha : act (s.enter p r) = (s.enter p r).modMe f) : Goes i s s.iss.next s.iss.taken f :=
  goes_own h hf hv (ha.trans (issue_unmoved (s.enter_iss p r)))

theorem modMe_congr {g : Ctx → Ctx} (h : f s.me = g s.me) : s.modMe f = s.modMe g := congrArg (s.setCtx s.cur) h

theorem branch_modMe (target : Int) (delay : Nat) : ((s.enter p r).modMe f).branch target delay =
    { (s.enter p r).modMe f with iss := { s.iss with next := target, taken := delay } } := by
  rw [State.branch, State.modMe, State.modCtx_iss, State.enter_iss]

theorem onVisible_wx (c : BitVec 6) (w : Word) : OnVisible (fun k => k.wx c w) where
  visible h := by
    have hland := Flight.land_visible { id := 0, due := 0, src := .control, writes := [.x c w], flags := 0, access := none } h
    simpa [Flight.land, applyWrites, RegWrite.on] using hland
  flights c := by simp

end

/-! ## The stage predicates (R126, R127) -/

theorem testBit_aboveByte (n hi : Nat) (i : Nat) :
    (n % 2 ^ 8 + hi * 2 ^ 8).testBit i = if i < 8 then n.testBit i else hi.testBit (i - 8) := by
  rw [Nat.add_comm, Nat.mul_comm, Nat.testBit_two_pow_mul_add _ (Nat.mod_lt _ (by decide)), Nat.testBit_mod_two_pow]
  split
  · next h => rw [decide_eq_true h, Bool.true_and]
  · rfl

theorem testBit_two_mul_add_bit (n : Nat) (b : Bool) (i : Nat) :
    (2 * n + bit b).testBit i = if i = 0 then b else n.testBit (i - 1) := by
  cases i with
  | zero => cases b <;> simp [bit]
  | succ i =>
    have hhalf : (2 * n + bit b) / 2 = n := by have := bit_lt_two b; omega
    rw [Nat.testBit_succ, hhalf]
    rfl

/-- The fixed predicates, the stage predicates that move up, and `p8`, as masks. -/
theorem getLsbD_fixedMask : ∀ i < 16, (0x00FF#16).getLsbD i = decide (i < 8) := by decide
@[inherit_doc getLsbD_fixedMask]
theorem getLsbD_movedMask : ∀ i < 16, (0x7F00#16).getLsbD i = decide (8 ≤ i ∧ i < 15) := by decide
@[inherit_doc getLsbD_fixedMask]
theorem getLsbD_firstMask : ∀ i < 16, (0x0100#16).getLsbD i = decide (i = 8) := by decide

/-- The fixed predicates are kept, and `p8` alone of the stage predicates is 1 (R126). -/
theorem startPreds_eq (p : BitVec 16) : BitVec.ofNat 16 (p.toNat % 2 ^ 8 + 2 ^ 8) = (p &&& 0x00FF#16) ||| 0x0100#16 := by
  refine BitVec.eq_of_getLsbD_eq fun i hi => ?_
  have hbits := testBit_aboveByte p.toNat (2 * 0 + bit true) i
  rw [testBit_two_mul_add_bit, Nat.zero_testBit] at hbits
  rw [BitVec.getLsbD_ofNat, decide_eq_true hi, Bool.true_and, BitVec.getLsbD_or, BitVec.getLsbD_and, getLsbD_fixedMask i hi,
    getLsbD_firstMask i hi]
  refine hbits.trans ?_
  rcases lt_trichotomy i 8 with h | rfl | h
  · simp [h, h.ne, BitVec.getLsbD]
  · simp
  · simp [h.not_gt, h.ne', Nat.sub_ne_zero_of_lt h]

/-- The stage predicates but `p15` move up one place behind the one that enters (R127). -/
theorem shiftPreds_eq (p : BitVec 16) (ins : Bool) :
    shiftPreds p ins = (p &&& 0x00FF#16) ||| ((p &&& 0x7F00#16) <<< 1) ||| if ins then 0x0100#16 else 0#16 := by
  refine BitVec.eq_of_getLsbD_eq fun i hi => ?_
  have hform : p.toNat % 2 ^ 8 + bit ins * 2 ^ 8 + bitsAt p.toNat 8 7 * 2 ^ 9 =
      p.toNat % 2 ^ 8 + (2 * bitsAt p.toNat 8 7 + bit ins) * 2 ^ 8 := by ring
  have hfirst : (if ins then 0x0100#16 else 0#16).getLsbD i = (ins && decide (i = 8)) := by
    cases ins
    · simp
    · exact (getLsbD_firstMask i hi).trans (Bool.true_and _).symm
  rw [shiftPreds, hform, BitVec.getLsbD_ofNat, decide_eq_true hi, Bool.true_and, testBit_aboveByte, testBit_two_mul_add_bit,
    testBit_bitsAt, BitVec.getLsbD_or, BitVec.getLsbD_or, BitVec.getLsbD_and, BitVec.getLsbD_shiftLeft, BitVec.getLsbD_and, hfirst,
    getLsbD_fixedMask i hi, getLsbD_movedMask (i - 1) (by omega)]
  rcases lt_trichotomy i 8 with h | rfl | h
  · have hmoved : ¬ 8 ≤ i - 1 := by omega
    simp [h, h.ne, hmoved, BitVec.getLsbD]
  · simp
  · have hplace : 8 + (i - 8 - 1) = i - 1 := by omega
    have hmoved : i - 8 - 1 < 7 ∧ 8 ≤ i - 1 ∧ i - 1 < 15 := by omega
    have hpos : ¬ i < 1 := by omega
    simp [h.not_gt, h.ne', Nat.sub_ne_zero_of_lt h, hplace, hmoved, hi, hpos, BitVec.getLsbD]

/-! ## Loops (O13) -/

section
variable {s : State} {p : BitVec 4}

theorem goes_loop {c : BitVec 6} {d : BitVec 12} (hf : s.free 0 p { xr := [c], xw := [c] } = true) (h : s.rx c ≠ 1) :
    Goes (.loop p c d) s (s.iss.start + 4 * d.toInt) 1 (fun k => k.wx c (s.rx c - 1)) := by
  refine goes_own (exec_loop p c d s) hf (onVisible_wx ..) ?_
  have hleft : s.rx c - 1 ≠ 0 := sub_ne_zero.mpr h
  simp only [State.enter_rx, if_pos hleft, relTarget_enter, branch_modMe]

theorem goes_loop_end {c : BitVec 6} {d : BitVec 12} (hf : s.free 0 p { xr := [c], xw := [c] } = true) (h : s.rx c = 1) :
    Goes (.loop p c d) s s.iss.next s.iss.taken (fun k => k.wx c 0) := by
  refine goes_own_on (exec_loop p c d s) hf (onVisible_wx ..) ?_
  have hleft : s.rx c - 1 = 0 := sub_eq_zero.mpr h
  simp only [State.enter_rx, hleft, ne_eq, not_true, if_false]

/-- A context whose counters and predicates are replaced, as the loops of R126 and R127 do. -/
def Ctx.loopRegs (cr : CtlRegs → CtlRegs) (pr : BitVec 16 → BitVec 16) (c : Ctx) : Ctx := { c with cr := cr c.cr, p := pr c.p }

theorem onVisible_loopRegs (cr : CtlRegs → CtlRegs) (pr : BitVec 16 → BitVec 16) : OnVisible (Ctx.loopRegs cr pr) where
  visible h := congrArg (fun v : Visible => { v with cr := cr v.cr, p := pr v.p }) h
  flights _ := rfl

theorem goes_setlc {e a : BitVec 6} {i : Opnd 6} (hf : s.free 0 p { xr := [a], pw := stagePreds } = true) :
    Goes (.setlc p e a i) s s.iss.next s.iss.taken
      (Ctx.loopRegs (fun r => { r with lc := s.rx a + BitVec.ofNat 64 (immUnsigned i), ec := e }) (fun p => (p &&& 0x00FF) ||| 0x0100)) := by
  refine goes_own_on (exec_setlc p e a i s) hf (onVisible_loopRegs ..) (modMe_congr ?_)
  have hx : (s.enter p { xr := [a], pw := stagePreds }).me.rx a = s.rx a := s.enter_rx ..
  rw [hx, startPreds_eq]
  rfl

theorem goes_loopR {d : BitVec 18} (hf : s.free 0 p { pr := stagePreds, pw := stagePreds } = true) {lc : Word} {ec : BitVec 6}
    {pr : BitVec 16 → BitVec 16} (hmore : ¬ (s.me.cr.lc = 0 ∧ s.me.cr.ec = 0))
    (hlc : (if s.me.cr.lc ≠ 0 then s.me.cr.lc - 1 else s.me.cr.lc) = lc)
    (hec : (if s.me.cr.lc ≠ 0 then s.me.cr.ec else s.me.cr.ec - 1) = ec) (hpr : ∀ q, shiftPreds q (decide (s.me.cr.lc ≠ 0)) = pr q) :
    Goes (.loopR p d) s (s.iss.start + 4 * d.toInt) 1
      (Ctx.loopRegs (fun r => { r with lc := lc, ec := ec, vrb := s.me.cr.vrb + 1 }) pr) := by
  refine goes_own (exec_loopR p d s) hf (onVisible_loopRegs ..) ?_
  simp only [State.enter_cr, if_neg hmore, relTarget_enter, hlc, hec, hpr, branch_modMe]
  rfl

end

/-- Settles O13: `LOOP` by whether its register is 1, `LOOP.R` by which of its counters is left. -/
theorem loopResults : Obligations.LoopResults := by
  intro s p c e a d d' i
  refine ⟨fun hf => ⟨goes_loop hf, goes_loop_end hf⟩, goes_setlc, fun hf => ⟨fun hlc => ?_, fun hlc hec => ?_, fun hlc hec => ?_⟩⟩
  · exact goes_loopR hf (fun h => hlc h.1) (if_pos hlc) (if_pos hlc) fun q => by rw [decide_eq_true hlc, shiftPreds_eq, if_pos rfl]
  · have hnot : ¬ s.me.cr.lc ≠ 0 := not_not.mpr hlc
    exact goes_loopR hf (fun h => hec h.2) (if_neg hnot) (if_neg hnot) fun q => by
      rw [decide_eq_false hnot, shiftPreds_eq, if_neg Bool.false_ne_true, BitVec.or_zero]
  · exact goes_on (exec_loopR p d' s) hf (by simp only [State.enter_cr, if_pos (And.intro hlc hec)])

end Sys2Proof.Machine
end

section
/-! PROOF. `TRAP` behind a store that meets an error (O15). -/

namespace Sys2Proof.Machine

/-- A store of one byte, on its way to a word of the scratchpad of slot 0's core. -/
def partialStore : LocalStore := { id := 0, by_ := .stage slot0, addr := 0, data := [1], due := 2, setFull := false }

/-- Slot 0 is in issue, the word that the store is to change in part has an uncorrectable error, and its supervisor core has no event. -/
def storeOnError : State := State.reset.modCore slot0.core (fun k => { k with bad := [0], stores := [partialStore] })

/-- The events of a supervisor core behind an instruction. -/
def supEventsAfter (i : Instr) (s : State) (v : SupId) : List Word :=
  match exec i s with
  | .next t => (t.sup v).events
  | _ => []

theorem supEventsAfter_of_exec {i : Instr} {s t : State} {v : SupId} (h : exec i s = .next t) : supEventsAfter i s v = (t.sup v).events := by
  rw [supEventsAfter, h]

/-- The trap writes the stores that wait (R219), and the one that the error stops is reported (R367). -/
theorem supEvents_storeOnError : supEventsAfter (.trap 0 (.fld 0)) storeOnError (serverOf slot0.core) =
    [eventRec 0x10 0 (some slot0) 0 0] := by decide

/-- Refutes O15: it lets a trap whose context can be captured at once change nothing of the supervisor cores but the trap queue. At
`storeOnError` the capture writes the core's store (`State.flushStores`), which meets an uncorrectable error, and event 0x10 joins the
queue of events (R219, R367). -/
theorem not_trapResults : ¬ Obligations.TrapResults := by
  intro h
  obtain ⟨hstage, -⟩ := h storeOnError 0 (.fld 0) rfl
  obtain ⟨t, hexec, -, -, -, -, -, -, -, hsup, -⟩ := hstage slot0 rfl
  have hevents : (t.sup (serverOf slot0.core)).events = [] := by
    rw [hsup]
    rfl
  rw [← supEventsAfter_of_exec hexec, supEvents_storeOnError] at hevents
  exact List.cons_ne_nil _ _ hevents

end Sys2Proof.Machine
end

section
/-! PROOF. Results in flight land, and accesses that have lost their banks are made (O51). -/

namespace Sys2Proof.Machine

/-! ## Steps of one context -/

theorem onlyCtx_modCtx (s : State) (a : Agent) (f : Ctx → Ctx) : OnlyCtx s (s.modCtx a f) a := by
  rw [OnlyCtx, State.ctx_modCtx_same]
  rfl

theorem ctx_modCtx_ne {a b : Agent} (h : b ≠ a) (s : State) (f : Ctx → Ctx) : (s.modCtx a f).ctx b = s.ctx b := by
  rw [State.ctx_modCtx, if_neg h]

/-! ## Landings (R135, R158) -/

theorem RegWrite.on_keeps (w : RegWrite) (c : Ctx) : (w.on c).flights = c.flights ∧ (w.on c).after = c.after := by
  cases w <;> simp [RegWrite.on]

theorem applyWrites_keeps (ws : List RegWrite) (c : Ctx) :
    (applyWrites ws c).flights = c.flights ∧ (applyWrites ws c).after = c.after := by
  induction ws generalizing c with
  | nil => exact ⟨rfl, rfl⟩
  | cons w ws ih =>
    obtain ⟨hflights, hafter⟩ := w.on_keeps c
    obtain ⟨ihflights, ihafter⟩ := ih (w.on c)
    exact ⟨ihflights.trans hflights, ihafter.trans hafter⟩

section
variable {s : State} {a : Agent} {id : Nat} {f : Flight}

theorem flight_id (hf : (s.ctx a).flights.find? (fun f => f.id = id) = some f) : f.id = id := by
  simpa using List.find?_some hf

theorem landFlight_lands (hf : (s.ctx a).flights.find? (fun f => f.id = id) = some f) :
    ∃ t, s.landFlight a id = .next t ∧ OnlyCtx s t a ∧ (t.ctx a).flights = (s.ctx a).flights.filter (fun g => g.id ≠ id) ∧
      (t.ctx a).visible = ((applyWrites f.writes (s.ctx a)).flag f.flags).visible ∧ (t.ctx a).after = (s.ctx a).after := by
  obtain ⟨hflights, hafter⟩ := applyWrites_keeps f.writes ((s.ctx a).dropFlight id)
  refine ⟨_, by rw [State.landFlight, hf], onlyCtx_modCtx .., ?_, ?_, ?_⟩
  · rw [State.ctx_modCtx_same]
    exact hflights
  · rw [State.ctx_modCtx_same]
    exact f.land_visible (c := (s.ctx a).dropFlight id) (c' := s.ctx a) rfl
  · rw [State.ctx_modCtx_same]
    exact hafter

theorem localLoadLand_lands (hf : (s.ctx a).flights.find? (fun f => f.id = id) = some f) (haccess : f.access = none) :
    exec (.localLoadLand a id) s = if s.earlierLoad a id then .next (s.schedule (s.cycle + 1) priMem (.localLoadLand a id))
      else s.landFlight a id := by
  rw [exec_localLoadLand, execLocalLoadLand, hf]
  simp only [haccess]

theorem localLoadLand_retries {p : PortAccess} (hf : (s.ctx a).flights.find? (fun f => f.id = id) = some f)
    (haccess : f.access = some p) : exec (.localLoadLand a id) s = .next (s.retryAccess a f p) := by
  rw [exec_localLoadLand, execLocalLoadLand, hf]
  simp only [haccess]

end

/-! ## Errors corrected and counted (R366, R369) -/

theorem sameBytes_of_but {s t : State} (h : ∀ d, SameBut s t d []) : SameBytes s t where
  homes x a := by
    cases x with
    | die d => exact (h d).gallery a nofun
    | core c => exact (h c.die).homes _ a nofun
    | ctrl d => exact (h ⟨0, 0⟩).homes _ a nofun
    | host p d => exact (h ⟨0, 0⟩).homes _ a nofun
  banks := (h ⟨0, 0⟩).banks
  own := (h ⟨0, 0⟩).own
  windows := (h ⟨0, 0⟩).windows
  supWindows := (h ⟨0, 0⟩).supWindows
  codes := (h ⟨0, 0⟩).codes
  hosts := (h ⟨0, 0⟩).hosts

/-- The words of an agent's scratchpad with an uncorrectable error. -/
def State.hardErrors (s : State) : Agent → List Nat
  | .stage i => (s.core i.core).bad
  | .sup v => (s.sup v).bad

theorem badView_eq (s : State) (a : Agent) (id : Nat) : s.badView a id = ((s.pendingStores a).filter (·.id < id)).foldl (fun bad st =>
    bad.filter (fun w => !coversWord st.addr st.data.length w)) (s.hardErrors a) := by
  cases a <;> rfl

/-- What the arbitration of banks and the reads of scratchpads change: errors of single bits, their counts and the served banks. -/
structure Corrects (s t : State) : Prop where
  rest : ∃ cores sups dies arbs, t = { s with cores := cores, sups := sups, dies := dies, arbs := arbs }
  core : ∀ c, ∃ once, t.core c = { s.core c with badOnce := once }
  sup : ∀ v, ∃ once, t.sup v = { s.sup v with badOnce := once }
  die : ∀ d, ∃ n, t.die d = { s.die d with ecccnt := n }

section
variable {s t u : State}

theorem Corrects.refl (s : State) : Corrects s s := ⟨⟨_, _, _, _, rfl⟩, fun _ => ⟨_, rfl⟩, fun _ => ⟨_, rfl⟩, fun _ => ⟨_, rfl⟩⟩

theorem Corrects.trans (h : Corrects s t) (g : Corrects t u) : Corrects s u := by
  refine ⟨?_, fun c => ?_, fun v => ?_, fun d => ?_⟩
  · obtain ⟨_, _, _, _, rfl⟩ := h.rest
    obtain ⟨_, _, _, _, rfl⟩ := g.rest
    exact ⟨_, _, _, _, rfl⟩
  · obtain ⟨_, hc⟩ := h.core c
    obtain ⟨n, gc⟩ := g.core c
    exact ⟨n, by rw [gc, hc]⟩
  · obtain ⟨_, hv⟩ := h.sup v
    obtain ⟨n, gv⟩ := g.sup v
    exact ⟨n, by rw [gv, hv]⟩
  · obtain ⟨_, hd⟩ := h.die d
    obtain ⟨n, gd⟩ := g.die d
    exact ⟨n, by rw [gd, hd]⟩

theorem Corrects.foldl {α : Type} {f : State → α → State} (h : ∀ s x, Corrects s (f s x)) (l : List α) (s : State) :
    Corrects s (l.foldl f s) := by
  induction l generalizing s with
  | nil => exact .refl s
  | cons x l ih => exact (h s x).trans (ih _)

theorem corrects_countErrors (s : State) (d : DieId) (cor unc : Nat) : Corrects s (s.countErrors d cor unc) := by
  refine ⟨⟨_, _, _, _, rfl⟩, fun _ => ⟨_, rfl⟩, fun _ => ⟨_, rfl⟩, fun e => ?_⟩
  rw [State.countErrors, State.die_modDie]
  split
  case isTrue h => exact h ▸ ⟨_, rfl⟩
  case isFalse => exact ⟨_, rfl⟩

theorem corrects_servePort (s : State) (a : Agent) (addr n : Nat) : Corrects s (s.servePort a addr n) :=
  ⟨⟨_, _, _, _, rfl⟩, fun _ => ⟨_, rfl⟩, fun _ => ⟨_, rfl⟩, fun _ => ⟨_, rfl⟩⟩

theorem corrects_setCore (s : State) (c : CoreId) (once : List Nat) : Corrects s (s.setCore c { s.core c with badOnce := once }) := by
  refine ⟨⟨_, _, _, _, rfl⟩, fun k => ?_, fun _ => ⟨_, rfl⟩, fun _ => ⟨_, rfl⟩⟩
  rw [State.core_setCore]
  split
  case isTrue h => exact h ▸ ⟨_, rfl⟩
  case isFalse => exact ⟨_, rfl⟩

theorem corrects_setSup (s : State) (v : SupId) (once : List Nat) : Corrects s (s.setSup v { s.sup v with badOnce := once }) := by
  refine ⟨⟨_, _, _, _, rfl⟩, fun _ => ⟨_, rfl⟩, fun u => ?_, fun _ => ⟨_, rfl⟩⟩
  rw [State.sup_setSup]
  split
  case isTrue h => exact h ▸ ⟨_, rfl⟩
  case isFalse => exact ⟨_, rfl⟩

theorem corrects_meetCore (s : State) (c : CoreId) (addr n : Nat) : Corrects s (s.meetCore c addr n) := by
  simp only [State.meetCore]
  split
  · exact .refl s
  · exact (corrects_setCore ..).trans (corrects_countErrors ..)

theorem corrects_meetLocal (s : State) (a : Agent) (addr n : Nat) : Corrects s (s.meetLocal a addr n) := by
  cases a with
  | stage i => exact corrects_meetCore ..
  | sup v =>
    simp only [State.meetLocal, State.meetSup]
    split
    · exact .refl s
    · exact (corrects_setSup ..).trans (corrects_countErrors ..)

theorem Corrects.ctxs (h : Corrects s t) : t.ctxs = s.ctxs := by
  obtain ⟨_, _, _, _, rfl⟩ := h.rest
  rfl

theorem Corrects.ctx (h : Corrects s t) (a : Agent) : t.ctx a = s.ctx a := by rw [State.ctx, h.ctxs, State.ctx]

theorem Corrects.banks (h : Corrects s t) (a : Agent) : t.banks a = s.banks a := by
  cases a with
  | stage i =>
    obtain ⟨_, hc⟩ := h.core i.core
    simp only [State.banks, hc]
  | sup v =>
    obtain ⟨_, hv⟩ := h.sup v
    simp only [State.banks, hv]

theorem Corrects.pendingStores (h : Corrects s t) (a : Agent) : t.pendingStores a = s.pendingStores a := by
  cases a with
  | stage i =>
    obtain ⟨_, hc⟩ := h.core i.core
    simp only [State.pendingStores, hc]
  | sup v =>
    obtain ⟨_, hv⟩ := h.sup v
    simp only [State.pendingStores, hv]

theorem Corrects.localView (h : Corrects s t) (a : Agent) (id : Nat) : t.localView a id = s.localView a id := by
  rw [State.localView, h.banks, h.pendingStores, State.localView]

theorem Corrects.hardErrors (h : Corrects s t) (a : Agent) : t.hardErrors a = s.hardErrors a := by
  cases a with
  | stage i =>
    obtain ⟨_, hc⟩ := h.core i.core
    simp only [State.hardErrors, hc]
  | sup v =>
    obtain ⟨_, hv⟩ := h.sup v
    simp only [State.hardErrors, hv]

theorem Corrects.badView (h : Corrects s t) (a : Agent) (id : Nat) : t.badView a id = s.badView a id := by
  rw [badView_eq, h.pendingStores, h.hardErrors, badView_eq]

theorem Corrects.gallery (h : Corrects s t) (d : DieId) : (t.die d).gallery = (s.die d).gallery := by
  obtain ⟨_, hd⟩ := h.die d
  rw [hd]

theorem Corrects.bytes (h : Corrects s t) : SameBytes s t := by
  refine sameBytes_of_but fun d => sameBut_of_fields (fun c => ?_) (fun v => ?_) (fun e => ?_) (fun e _ => h.gallery e)
    (fun a _ => by rw [h.gallery]) fun p => ?_
  · obtain ⟨_, hc⟩ := h.core c
    rw [hc]
    exact ⟨rfl, rfl, rfl⟩
  · obtain ⟨_, hv⟩ := h.sup v
    rw [hv]
    exact ⟨rfl, rfl, rfl⟩
  · obtain ⟨_, hd⟩ := h.die e
    rw [hd]
  · obtain ⟨_, _, _, _, rfl⟩ := h.rest
    rfl

end

/-! ## An access of the memory port (R173, R178) -/

/-- The state in which an access of the memory port reads: its banks are served, and the errors that it meets are corrected. -/
def State.portMet (s : State) (a : Agent) (p : PortAccess) : State := (s.servePort a p.addr p.len).meetLocal a p.addr p.len

section
variable {s u : State} {a : Agent} {id : Nat} {p : PortAccess}

theorem corrects_portMet (s : State) (a : Agent) (p : PortAccess) : Corrects s (s.portMet a p) :=
  (corrects_servePort ..).trans (corrects_meetLocal ..)

theorem portAccess_error {w : Nat} (hbad : firstBad (s.badView a id) p.addr p.len = some w) : s.portAccess a id p =
    ((s.portMet a p).modCtx a (fun c => { c with after := c.after ++ [(0x0B, addrValue 0 w)] }), none) := by
  rw [← (corrects_portMet s a p).badView] at hbad
  simp only [State.portMet] at hbad
  simp only [State.portAccess, hbad, State.portMet]

theorem portAccess_reads (hbad : firstBad (s.badView a id) p.addr p.len = none) (hamo : p.amo = none) :
    s.portAccess a id p = (s.portMet a p, some (p.dest.write (memRead (s.localView a id) p.addr p.len), 0)) := by
  rw [← (corrects_portMet s a p).badView] at hbad
  rw [← (corrects_portMet s a p).localView]
  simp only [State.portMet] at hbad
  simp only [State.portAccess, hbad, hamo, State.portMet]

theorem wordsIn_nil (addr n : Nat) : wordsIn [] addr n = 0 := by simp [wordsIn]

theorem wordsIn_mended (l : List Nat) (addr n : Nat) : wordsIn (l.filter (· ∉ words8 addr n)) addr n = 0 := by
  simp +contextual [wordsIn]

/-- Where no word that it reads has an uncorrectable error, a read of a scratchpad leaves no error there. -/
theorem clean_meetLocal {addr n : Nat} (hbad : wordsIn (s.hardErrors a) addr n = 0) : (s.meetLocal a addr n).clean a addr n = true := by
  cases a with
  | stage i =>
    simp only [State.meetLocal, State.meetCore]
    split
    case isTrue h => simpa [State.clean] using h
    case isFalse =>
      rw [State.clean, State.countErrors, State.core_modDie, State.core_setCore_same, Bool.and_eq_true, decide_eq_true_eq,
        decide_eq_true_eq]
      exact ⟨hbad, wordsIn_mended ..⟩
  | sup v =>
    simp only [State.meetLocal, State.meetSup]
    split
    case isTrue h => simpa [State.clean] using h
    case isFalse =>
      rw [State.clean, State.countErrors, State.sup_modDie, State.sup_setSup_same, Bool.and_eq_true, decide_eq_true_eq,
        decide_eq_true_eq]
      exact ⟨hbad, wordsIn_mended ..⟩

/-- Where no store is on its way, an access sees the banks and their errors. -/
theorem localView_of_still (hstores : s.pendingStores a = []) : s.localView a id = s.banks a := by
  rw [State.localView, hstores]
  rfl

theorem clean_portMet (hstores : s.pendingStores a = []) (hbad : s.badView a id = []) :
    (s.portMet a p).clean a p.addr p.len = true := by
  apply clean_meetLocal
  rw [badView_eq, hstores] at hbad
  rw [(corrects_servePort ..).hardErrors, show s.hardErrors a = [] from hbad]
  exact wordsIn_nil ..

theorem portAccess_updates {o : BitVec 4} {w : Word} (hamo : p.amo = some (o, w)) (hstores : s.pendingStores a = [])
    (hbad : s.badView a id = []) {bs : List Byte} (hbs : bs = memRead (s.banks a) p.addr p.len) : s.portAccess a id p =
      ((s.portMet a p).writeClean a p.addr (leBytes p.len (p.amoResult o w bs)),
        some (p.dest.write bs, amoFlags o.toNat (leNat bs) (amoOperand (8 * p.len) w))) := by
  have hread : memRead ((s.portMet a p).localView a id) p.addr p.len = bs := by
    rw [(corrects_portMet s a p).localView, localView_of_still hstores, hbs]
  have hfirst : firstBad ((s.portMet a p).badView a id) p.addr p.len = none := by
    rw [(corrects_portMet s a p).badView, hbad]
    simp [firstBad]
  have hclean : (s.portMet a p).clean a p.addr p.len = true := clean_portMet hstores hbad
  rw [PortAccess.amoResult, ← writeBanks_clean (by rwa [length_leBytes])]
  simp only [State.portMet] at hread hfirst
  simp only [State.portAccess, hfirst, hamo, hread, State.portMet]

/-! ## An access made again -/

/-- The result of an access that is made, in flight. -/
def Flight.answered (f : Flight) (ws : List RegWrite) (fl : BitVec 6) (due : Nat) : Flight :=
  { f with access := none, writes := ws, flags := fl, due := due }

variable {f : Flight}

theorem retryAccess_waits (h : s.accessTurn a f.id p = false) :
    s.retryAccess a f p = s.schedule (s.cycle + 1) priPort (.localLoadLand a f.id) := by
  rw [State.retryAccess, h]
  rfl

theorem retryAccess_answers {ws : List RegWrite} {fl : BitVec 6} (h : s.accessTurn a f.id p = true)
    (hport : s.portAccess a f.id p = (u, some (ws, fl))) : s.retryAccess a f p =
      (u.modCtx a (fun c => c.setFlight (f.answered ws fl (s.cycle + p.lat)))).schedule (s.cycle + p.lat) priMem
        (.localLoadLand a f.id) := by
  rw [State.retryAccess, h, hport]
  rfl

theorem retryAccess_fails (h : s.accessTurn a f.id p = true) (hport : s.portAccess a f.id p = (u, none)) :
    s.retryAccess a f p = u.modCtx a (fun c => c.dropFlight f.id) := by
  rw [State.retryAccess, h, hport]
  rfl

theorem mem_schedule (s : State) (cycle pri : Nat) (ev : Event) :
    { cycle := cycle, pri := pri, ev := ev } ∈ (s.schedule cycle pri ev).agenda := mem_insertDue_self ..

theorem retryAccess_loads (hturn : s.accessTurn a f.id p = true) (hamo : p.amo = none) {t : State}
    (ht : t = s.retryAccess a f p) :
    (t.ctx a).visible = (s.ctx a).visible ∧ SameBytes s t ∧ (∀ b, b ≠ a → t.ctx b = s.ctx b) ∧
      (firstBad (s.badView a f.id) p.addr p.len = none →
        (t.ctx a).flights = (s.ctx a).flights.map (fun g => if g.id = f.id then
          f.answered (p.dest.write (memRead (s.localView a f.id) p.addr p.len)) 0 (s.cycle + p.lat) else g) ∧
        (t.ctx a).after = (s.ctx a).after ∧
        { cycle := s.cycle + p.lat, pri := priMem, ev := .localLoadLand a f.id } ∈ t.agenda) ∧
      (∀ w, firstBad (s.badView a f.id) p.addr p.len = some w →
        (t.ctx a).flights = (s.ctx a).flights.filter (fun g => g.id ≠ f.id) ∧
        (t.ctx a).after = (s.ctx a).after ++ [(0x0B, addrValue 0 w)]) := by
  have hmet := corrects_portMet s a p
  cases hbad : firstBad (s.badView a f.id) p.addr p.len with
  | none =>
    rw [retryAccess_answers hturn (portAccess_reads hbad hamo)] at ht
    have hbytes : SameBytes (s.portMet a p) t := ht ▸ sameBytes_of_but fun _ => sameBut_of_tables rfl rfl rfl rfl
    subst ht
    refine ⟨?_, hmet.bytes.trans hbytes, fun b hb => ?_, fun _ => ⟨?_, ?_, mem_schedule ..⟩, nofun⟩
    · rw [State.schedule_ctx, State.ctx_modCtx_same, hmet.ctx]
      rfl
    · rw [State.schedule_ctx, ctx_modCtx_ne hb, hmet.ctx]
    · rw [State.schedule_ctx, State.ctx_modCtx_same, hmet.ctx]
      rfl
    · rw [State.schedule_ctx, State.ctx_modCtx_same, hmet.ctx]
      rfl
  | some w =>
    rw [retryAccess_fails hturn (portAccess_error hbad)] at ht
    have hbytes : SameBytes (s.portMet a p) t := ht ▸ sameBytes_of_but fun _ => sameBut_of_tables rfl rfl rfl rfl
    subst ht
    refine ⟨?_, hmet.bytes.trans hbytes, fun b hb => ?_, nofun, ?_⟩
    · rw [State.ctx_modCtx_same, State.ctx_modCtx_same, hmet.ctx]
      rfl
    · rw [ctx_modCtx_ne hb, ctx_modCtx_ne hb, hmet.ctx]
    · rintro _ ⟨⟩
      rw [State.ctx_modCtx_same, State.ctx_modCtx_same, hmet.ctx]
      exact ⟨rfl, rfl⟩

theorem retryAccess_updates {o : BitVec 4} {w : Word} (hturn : s.accessTurn a f.id p = true) (hamo : p.amo = some (o, w))
    (hstores : s.pendingStores a = []) (hbad : s.badView a f.id = []) {bs : List Byte}
    (hbs : bs = memRead (s.banks a) p.addr p.len) {t : State} (ht : t = s.retryAccess a f p) :
    t.banks a = memWrite (s.banks a) p.addr (leBytes p.len (p.amoResult o w bs)) ∧
      (t.ctx a).visible = (s.ctx a).visible ∧ (∀ b, b ≠ a → t.ctx b = s.ctx b) ∧
      (∀ d, (t.die d).gallery = (s.die d).gallery) ∧
      (t.ctx a).flights = (s.ctx a).flights.map (fun g => if g.id = f.id then
        f.answered (p.dest.write bs) (amoFlags o.toNat (leNat bs) (amoOperand (8 * p.len) w)) (s.cycle + p.lat) else g) ∧
      { cycle := s.cycle + p.lat, pri := priMem, ev := .localLoadLand a f.id } ∈ t.agenda := by
  have hmet := corrects_portMet s a p
  rw [retryAccess_answers hturn (portAccess_updates hamo hstores hbad hbs)] at ht
  subst ht
  refine ⟨?_, ?_, fun b hb => ?_, fun d => ?_, ?_, mem_schedule ..⟩
  · rw [← hmet.banks, ← banks_writeClean]
    cases a <;> rfl
  · rw [State.schedule_ctx, State.ctx_modCtx_same, ctx_writeClean, hmet.ctx]
    rfl
  · rw [State.schedule_ctx, ctx_modCtx_ne hb, ctx_writeClean, hmet.ctx]
  · rw [← hmet.gallery]
    cases a <;> rfl
  · rw [State.schedule_ctx, State.ctx_modCtx_same, ctx_writeClean, hmet.ctx]
    rfl

end

/-! ## Results of transforms (R204, R205, R210) -/

section
variable {s : State} {a : Agent} {id : Nat} {r : XfmRes}

theorem xfmResultLand_waits (hr : (s.ctx a).xfm.find? (fun r => r.id = id) = some r) (hrem : r.rem ≠ 0) :
    exec (.xfmResultLand a id) s = .next s := by
  rw [exec_xfmResultLand, execXfmResultLand, hr]
  exact if_pos hrem

/-- A result of a transform taken out of those in flight. -/
def Ctx.dropXfm (c : Ctx) (id : Nat) : Ctx := { c with xfm := c.xfm.filter (fun q => q.id ≠ id) }

theorem exec_xfmResultLand_lands (hr : (s.ctx a).xfm.find? (fun r => r.id = id) = some r) (hrem : r.rem = 0) :
    exec (.xfmResultLand a id) s = .next (s.modCtx a (fun c => r.land s.cycle (c.dropXfm id))) := by
  rw [exec_xfmResultLand, execXfmResultLand, hr]
  exact if_neg (not_not.mpr hrem)

/-- Whether a later-issued result has landed in a register in a cycle. -/
theorem vlanded_any {c : Ctx} {d : BitVec 5} {now : Nat} :
    (c.vlanded.any fun e => e.1 = d && id < e.2.1 && e.2.2 = now) = true ↔
      ∃ e ∈ c.vlanded, e.1 = d ∧ id < e.2.1 ∧ e.2.2 = now := by
  simp [and_assoc]

variable {c : Ctx} {now : Nat}

theorem XfmRes.land_keeps (r : XfmRes) (now : Nat) (c : Ctx) : (r.land now c).xfm = c.xfm ∧ (r.land now c).flights = c.flights := by
  rw [XfmRes.land]
  cases r.target with
  | v d =>
    dsimp only
    split <;> exact ⟨rfl, rfl⟩
  | bank b g m => cases b <;> cases m <;> exact ⟨rfl, rfl⟩

theorem XfmRes.land_written {d : BitVec 5} (htarget : r.target = .v d)
    (hlater : ∀ e ∈ c.vlanded, ¬ (e.1 = d ∧ r.id < e.2.1 ∧ e.2.2 = now)) : r.land now c = (c.flag r.flags).wv d r.value := by
  rw [XfmRes.land, htarget]
  exact if_neg fun h => by
    obtain ⟨e, he, hlanded⟩ := vlanded_any.mp h
    exact hlater e he hlanded

theorem XfmRes.land_overtaken {d : BitVec 5} (htarget : r.target = .v d)
    (hlater : ∃ e ∈ c.vlanded, e.1 = d ∧ r.id < e.2.1 ∧ e.2.2 = now) : r.land now c = c.flag r.flags := by
  rw [XfmRes.land, htarget]
  exact if_pos (vlanded_any.mpr hlater)

theorem XfmRes.land_bank {b m : Bool} {g : BitVec 2} (htarget : r.target = .bank b g m) :
    (r.land now c).cur = (if m then b else c.cur) ∧
      (r.land now c).bank1 = (if b then writeGroup c.bank1 g r.value else c.bank1) ∧
      (r.land now c).bank0 = (if b then c.bank0 else writeGroup c.bank0 g r.value) ∧
      (r.land now c).v = c.v ∧ (r.land now c).x = c.x ∧ (r.land now c).p = c.p := by
  rw [XfmRes.land, htarget]
  cases b <;> cases m <;> exact ⟨rfl, rfl, rfl, rfl, rfl, rfl⟩

theorem xfmResultLand_lands (hr : (s.ctx a).xfm.find? (fun r => r.id = id) = some r) (hrem : r.rem = 0) :
    ∃ t, exec (.xfmResultLand a id) s = .next t ∧ OnlyCtx s t a ∧
      (t.ctx a).xfm = (s.ctx a).xfm.filter (fun q => q.id ≠ id) ∧ (t.ctx a).flights = (s.ctx a).flights ∧
      (∀ d, r.target = .v d → (∀ e ∈ (s.ctx a).vlanded, ¬ (e.1 = d ∧ r.id < e.2.1 ∧ e.2.2 = s.cycle)) →
        (t.ctx a).visible = (((s.ctx a).flag r.flags).wv d r.value).visible) ∧
      (∀ d, r.target = .v d → (∃ e ∈ (s.ctx a).vlanded, e.1 = d ∧ r.id < e.2.1 ∧ e.2.2 = s.cycle) →
        (t.ctx a).visible = ((s.ctx a).flag r.flags).visible) ∧
      (∀ b g m, r.target = .bank b g m → (t.ctx a).cur = (if m then b else (s.ctx a).cur) ∧
        (t.ctx a).bank1 = (if b then writeGroup (s.ctx a).bank1 g r.value else (s.ctx a).bank1) ∧
        (t.ctx a).bank0 = (if b then (s.ctx a).bank0 else writeGroup (s.ctx a).bank0 g r.value) ∧
        (t.ctx a).v = (s.ctx a).v ∧ (t.ctx a).x = (s.ctx a).x ∧ (t.ctx a).p = (s.ctx a).p) := by
  obtain ⟨hxfm, hflights⟩ := r.land_keeps s.cycle ((s.ctx a).dropXfm id)
  refine ⟨_, exec_xfmResultLand_lands hr hrem, onlyCtx_modCtx .., ?_⟩
  rw [State.ctx_modCtx_same]
  refine ⟨hxfm, hflights, fun d htarget hlater => ?_, fun d htarget hlater => ?_, fun b g m htarget => XfmRes.land_bank htarget⟩
  · rw [XfmRes.land_written (c := (s.ctx a).dropXfm id) htarget hlater]
    rfl
  · rw [XfmRes.land_overtaken (c := (s.ctx a).dropXfm id) htarget hlater]
    rfl

end

end Sys2Proof.Machine
end

section
/-! PROOF. Local stores are written, and held vector syllables execute (O51). -/

namespace Sys2Proof.Machine

/-! ## Bytes written in the banks (R172, R174, R367) -/

theorem countPartial_counts (s : State) (d : DieId) (bad once : List Nat) (addr n : Nat) :
    (∃ dies, s.countPartial d bad once addr n = { s with dies := dies }) ∧
      ∀ e, ∃ count, (s.countPartial d bad once addr n).die e = { s.die e with ecccnt := count } := by
  simp only [State.countPartial]
  split
  · exact ⟨⟨_, rfl⟩, fun _ => ⟨_, rfl⟩⟩
  · exact ⟨⟨_, rfl⟩, (corrects_countErrors ..).die⟩

/-- A core with bytes written in its banks. -/
def Core.banked (k : Core) (addr : Nat) (data : List Byte) (full : Bool) : Core :=
  let w := writeAround k.bad k.mem addr data
  { k with mem := w.1, bad := w.2.1, badOnce := mendOnce k.badOnce addr data.length,
           emptyBits := if full then setFullBut k.bad k.emptyBits addr data.length else k.emptyBits }

/-- A supervisor core with bytes written in its banks. -/
def Sup.banked (u : Sup) (addr : Nat) (data : List Byte) (full : Bool) : Sup :=
  let w := writeAround u.bad u.mem addr data
  { u with mem := w.1, bad := w.2.1, badOnce := mendOnce u.badOnce addr data.length,
           emptyBits := if full then setFullBut u.bad u.emptyBits addr data.length else u.emptyBits }

section
variable (s : State) (i : SlotId) (v : SupId) (addr : Nat) (data : List Byte) (full : Bool)

/-- The state in which a stage's bytes have been written and the errors that they met have been counted. -/
def State.coreBanked : State :=
  (s.setCore i.core ((s.core i.core).banked addr data full)).countPartial i.core.die (s.core i.core).bad (s.core i.core).badOnce addr
    data.length

/-- The state in which a supervisor core's bytes have been written and the errors that they met have been counted. -/
def State.supBanked : State :=
  (s.setSup v ((s.sup v).banked addr data full)).countPartial v.die (s.sup v).bad (s.sup v).badOnce addr data.length

theorem writeBanks_stage : s.writeBanks (.stage i) addr data full =
    match (writeAround (s.core i.core).bad (s.core i.core).mem addr data).2.2 with
    | some b => (s.coreBanked i addr data full).storeLost (.stage i) 0x10 0 b
    | none => s.coreBanked i addr data full := rfl

theorem writeBanks_sup : s.writeBanks (.sup v) addr data full =
    match (writeAround (s.sup v).bad (s.sup v).mem addr data).2.2 with
    | some b => (s.supBanked v addr data full).storeLost (.sup v) 0x10 0 b
    | none => s.supBanked v addr data full := rfl

theorem coreBanked_rest : ∃ dies, s.coreBanked i addr data full =
    { s.setCore i.core ((s.core i.core).banked addr data full) with dies := dies } := (countPartial_counts ..).1

theorem supBanked_rest : ∃ dies, s.supBanked v addr data full =
    { s.setSup v ((s.sup v).banked addr data full) with dies := dies } := (countPartial_counts ..).1

end

section
variable {s t : State} {i : SlotId} {v : SupId} {addr : Nat} {data : List Byte} {full : Bool}

/-- The event of a lost store goes to the supervisor core of the stage's cluster, where its queue has room (R342). -/
theorem sup_storeLost {b : Nat} (h : (s.sup (serverOf i.core)).events.length < 64) :
    ((s.storeLost (.stage i) 0x10 0 b).sup (serverOf i.core)).events =
      (s.sup (serverOf i.core)).events ++ [eventRec 0x10 0 (some i) 0 (b % 2 ^ 28)] := by
  have hqueue : (s.storeLost (.stage i) 0x10 0 b).sup (serverOf i.core) =
      (s.queueEvent (serverOf i.core) (eventRec 0x10 0 (some i) 0 (b % 2 ^ 28))).sup (serverOf i.core) := rfl
  rw [hqueue, State.queueEvent, State.sup_modSup_same, if_pos h]

theorem core_storeLost (a : Agent) (b : Nat) (c : CoreId) : (s.storeLost a 0x10 0 b).core c = s.core c := rfl

theorem writeBanks_stage_leaves (ht : t = s.writeBanks (.stage i) addr data full) :
    t.ctxs = s.ctxs ∧ (∀ g, t.core g = if g = i.core then (s.core i.core).banked addr data full else s.core g) ∧
      ((writeAround (s.core i.core).bad (s.core i.core).mem addr data).2.2 = none → t.sups = s.sups) ∧
      ∀ b, (writeAround (s.core i.core).bad (s.core i.core).mem addr data).2.2 = some b →
        (s.sup (serverOf i.core)).events.length < 64 → (t.sup (serverOf i.core)).events =
          (s.sup (serverOf i.core)).events ++ [eventRec 0x10 0 (some i) 0 (b % 2 ^ 28)] := by
  obtain ⟨dies, hbanked⟩ := coreBanked_rest s i addr data full
  rw [writeBanks_stage, hbanked] at ht
  subst ht
  cases (writeAround (s.core i.core).bad (s.core i.core).mem addr data).2.2 with
  | none => exact ⟨rfl, fun g => State.core_setCore .., fun _ => rfl, nofun⟩
  | some b =>
    refine ⟨rfl, fun g => ?_, nofun, ?_⟩
    · rw [core_storeLost]
      exact State.core_setCore ..
    · rintro _ ⟨⟩ hroom
      exact sup_storeLost hroom

theorem writeBanks_sup_leaves (ht : t = s.writeBanks (.sup v) addr data full) :
    t.ctxs = s.ctxs ∧ t.cores = s.cores ∧ (t.sup v).mem = (writeAround (s.sup v).bad (s.sup v).mem addr data).1 ∧
      (t.sup v).stores = (s.sup v).stores ∧ ∀ d, ∃ n, t.die d = { s.die d with ecccnt := n } := by
  have hdies : ∀ d, ∃ n, (s.supBanked v addr data full).die d = { s.die d with ecccnt := n } := (countPartial_counts ..).2
  obtain ⟨dies, hbanked⟩ := supBanked_rest s v addr data full
  have hsup : (s.supBanked v addr data full).sup v = (s.sup v).banked addr data full := by
    rw [hbanked]
    exact State.sup_setSup_same ..
  have hctxs : (s.supBanked v addr data full).ctxs = s.ctxs := by rw [hbanked]; rfl
  have hcores : (s.supBanked v addr data full).cores = s.cores := by rw [hbanked]; rfl
  rw [writeBanks_sup] at ht
  subst ht
  cases (writeAround (s.sup v).bad (s.sup v).mem addr data).2.2 with
  | none => exact ⟨hctxs, hcores, by rw [hsup]; rfl, by rw [hsup]; rfl, hdies⟩
  | some b =>
    have hlost : Messaged (s.supBanked v addr data full) ((s.supBanked v addr data full).storeLost (.sup v) 0x10 0 b) :=
      messaged_dieEvent ..
    obtain ⟨hmem, hstores, _⟩ := hlost.sups v
    exact ⟨hctxs, hcores, by rw [hmem, hsup]; rfl, by rw [hstores, hsup]; rfl, hdies⟩

/-- In banks without an uncorrectable error every byte is written. -/
theorem writeAround_sound (m : Mem) (addr : Nat) (data : List Byte) : writeAround [] m addr data = (memWrite m addr data, [], none) := by
  simp only [writeAround, stuckWords_nil (wordsIn_nil ..)]
  rfl

theorem setFullBut_sound (empties : List Nat) (addr n : Nat) : setFullBut [] empties addr n = setFull empties addr n := by
  rw [setFullBut, stuckWords_nil (wordsIn_nil ..)]
  rfl

end

/-! ## A local store on its way is written (R173, R178) -/

section
variable {s : State} {a : Agent} {id : Nat} {st : LocalStore}

theorem localStoreWritten_waits (hst : (s.pendingStores a).find? (fun st => st.id = id) = some st) (hturn : s.storeTurn a st = false) :
    exec (.localStoreWritten a id) s = .next (s.schedule (s.cycle + 1) priPort (.localStoreWritten a id)) := by
  rw [exec_localStoreWritten, execLocalStoreWritten, hst]
  simp only [hturn]
  rfl

theorem localStoreWritten_writes (hst : (s.pendingStores a).find? (fun st => st.id = id) = some st) (hturn : s.storeTurn a st = true) :
    exec (.localStoreWritten a id) s =
      .next (((s.dropStore a id).servePort a st.addr st.data.length).writeBanks a st.addr st.data st.setFull) := by
  rw [exec_localStoreWritten, execLocalStoreWritten, hst]
  simp only [hturn]
  rfl

theorem stageStore_written {i : SlotId} {w : Mem × List Nat × Option Nat}
    (hst : (s.core i.core).stores.find? (fun st => st.id = id) = some st)
    (hw : w = writeAround (s.core i.core).bad (s.core i.core).mem st.addr st.data) (hturn : s.storeTurn (.stage i) st = true) :
    ∃ t, exec (.localStoreWritten (.stage i) id) s = .next t ∧
      (t.core i.core).mem = w.1 ∧ (t.core i.core).stores = (s.core i.core).stores.filter (fun g => g.id ≠ id) ∧
      ((s.core i.core).bad = [] → w.1 = memWrite (s.core i.core).mem st.addr st.data ∧
        (t.core i.core).emptyBits = (if st.setFull then setFull (s.core i.core).emptyBits st.addr st.data.length
          else (s.core i.core).emptyBits)) ∧
      t.ctxs = s.ctxs ∧ (∀ g, g ≠ i.core → t.core g = s.core g) ∧ (w.2.2 = none → t.sups = s.sups) ∧
      (∀ b v, w.2.2 = some b → v = serverOf i.core → (s.sup v).events.length < 64 →
        (t.sup v).events = (s.sup v).events ++ [eventRec 0x10 0 (some i) 0 (b % 2 ^ 28)]) := by
  obtain ⟨u, hu⟩ : ∃ u, u = (s.dropStore (.stage i) id).servePort (.stage i) st.addr st.data.length := ⟨_, rfl⟩
  have hcore (g : CoreId) : u.core g = if g = i.core then
      { s.core i.core with stores := (s.core i.core).stores.filter (fun st => st.id ≠ id) } else s.core g := by
    rw [hu]
    exact State.core_modCore s i.core g (fun k => { k with stores := k.stores.filter (fun st => st.id ≠ id) })
  have hsups : u.sups = s.sups := by rw [hu]; rfl
  have hctxs : u.ctxs = s.ctxs := by rw [hu]; rfl
  have hown := (hcore i.core).trans (if_pos rfl)
  refine ⟨_, localStoreWritten_writes (a := .stage i) hst hturn, ?_⟩
  rw [← hu]
  obtain ⟨hctx, hbank, hnone, hsome⟩ :=
    writeBanks_stage_leaves (s := u) (i := i) (addr := st.addr) (data := st.data) (full := st.setFull) rfl
  simp only [hown, ← hw] at hbank hnone hsome
  rw [hbank, if_pos rfl]
  subst hw
  refine ⟨rfl, rfl, fun hbad => ?_, hctx.trans hctxs, fun g hg => ?_, fun h => (hnone h).trans hsups, ?_⟩
  · simp only [hbad, writeAround_sound, Core.banked, setFullBut_sound, and_self]
  · rw [hbank, if_neg hg, hcore, if_neg hg]
  · rintro b v hb rfl hroom
    have hsup : u.sup (serverOf i.core) = s.sup (serverOf i.core) := by rw [State.sup, hsups, State.sup]
    rw [← hsup] at hroom ⊢
    exact hsome b hb hroom

theorem supStore_written {v : SupId} (hst : (s.sup v).stores.find? (fun st => st.id = id) = some st)
    (hturn : s.storeTurn (.sup v) st = true) :
    ∃ t, exec (.localStoreWritten (.sup v) id) s = .next t ∧
      (t.sup v).mem = (writeAround (s.sup v).bad (s.sup v).mem st.addr st.data).1 ∧
      (t.sup v).stores = (s.sup v).stores.filter (fun g => g.id ≠ id) ∧ t.ctxs = s.ctxs ∧ t.cores = s.cores ∧
      (∀ d, ∃ n, t.die d = { s.die d with ecccnt := n }) := by
  obtain ⟨u, hu⟩ : ∃ u, u = (s.dropStore (.sup v) id).servePort (.sup v) st.addr st.data.length := ⟨_, rfl⟩
  have hsup : u.sup v = { s.sup v with stores := (s.sup v).stores.filter (fun st => st.id ≠ id) } := by
    rw [hu]
    exact State.sup_modSup_same s v (fun k => { k with stores := k.stores.filter (fun st => st.id ≠ id) })
  have hrest : u.ctxs = s.ctxs ∧ u.cores = s.cores ∧ u.dies = s.dies := by
    rw [hu]
    exact ⟨rfl, rfl, rfl⟩
  obtain ⟨hctxs, hcores, hdies⟩ := hrest
  refine ⟨_, localStoreWritten_writes (a := .sup v) hst hturn, ?_⟩
  rw [← hu]
  obtain ⟨hctx, hcore, hmem, hstores, hdie⟩ :=
    writeBanks_sup_leaves (s := u) (v := v) (addr := st.addr) (data := st.data) (full := st.setFull) rfl
  rw [hmem, hstores, hsup]
  refine ⟨rfl, rfl, hctx.trans hctxs, hcore.trans hcores, fun d => ?_⟩
  have hd : u.die d = s.die d := by rw [State.die, hdies, State.die]
  exact hd ▸ hdie d

end

/-! ## The oldest held vector syllable executes (R85, R321) -/

section
variable {s : State} {a : Agent}

/-- Consumed tags leave the results in flight, the queues, the agenda, the cores and all that is visible. -/
structure Consumes (s t : State) (a : Agent) : Prop where
  agenda : t.agenda = s.agenda
  cores : t.cores = s.cores
  mine : ∃ tags after, t.ctx a = { s.ctx a with tags := tags, after := after } ∧ tags.word = (s.ctx a).tags.word

theorem consumes_consumeTag (s : State) (a : Agent) (n : Nat) : Consumes s (s.consumeTag a n) a := by
  refine ⟨rfl, rfl, ((s.ctx a).consume n).tags, ((s.ctx a).consume n).after, ?_, rfl⟩
  rw [State.consumeTag, State.ctx_modDie, State.ctx_modCtx_same]
  rfl

theorem consumes_consumeTags (s : State) (a : Agent) (l : List Nat) : Consumes s (l.foldl (fun s t => s.consumeTag a t) s) a := by
  induction l generalizing s with
  | nil => exact ⟨rfl, rfl, _, _, rfl, rfl⟩
  | cons n l ih =>
    have hfirst := consumes_consumeTag s a n
    have hrest := ih (s.consumeTag a n)
    obtain ⟨tags, after, hctx, hword⟩ := hfirst.mine
    obtain ⟨tags', after', hctx', hword'⟩ := hrest.mine
    refine ⟨hrest.agenda, hrest.cores, tags', after', ?_, ?_⟩
    · rw [List.foldl_cons, hctx', hctx]
    · rw [hword', hctx, hword]

theorem heldSyllable_executes {h : Held} {r : List Held} {y : VecSem} (hq : (s.ctx a).vecq = h :: r) (hy : vecSemOf h.instr = some y) :
    ∃ t w, exec (.heldSyllableExecutes a) s = .next t ∧
      w = y.run (h.env (s.ctx a)) ∧ (t.ctx a).vecq = r ∧ (t.ctx a).vecFree = s.cycle + 1 ∧
      (t.ctx a).visible = (s.ctx a).visible ∧ (t.ctx a).flights = (s.ctx a).flights ++
        [{ id := h.id, due := s.cycle + y.lat, src := .vector, writes := w.1.map (RegWrite.phys h.vrb), flags := w.2,
           access := none }] ∧
      { cycle := s.cycle + y.lat, pri := priVec, ev := .vectorResultLand a h.id } ∈ t.agenda := by
  obtain ⟨u, hu⟩ : ∃ u, u = (s.modCtx a (fun c => { c with vecq := r, vecFree := s.cycle + 1 })).vecExecute a h y := ⟨_, rfl⟩
  have hexec : exec (.heldSyllableExecutes a) s = .next (h.tags.foldl (fun s t => s.consumeTag a t) u) := by
    rw [exec_heldSyllableExecutes, execHeldSyllableExecutes, hq]
    simp only [hy, hu]
  have hctx : u.ctx a = { s.ctx a with vecq := r, vecFree := s.cycle + 1, flights := (s.ctx a).flights ++
      [{ id := h.id, due := s.cycle + y.lat, src := .vector, writes := (y.run (h.env (s.ctx a))).1.map (RegWrite.phys h.vrb),
         flags := (y.run (h.env (s.ctx a))).2, access := none }] } := by
    rw [hu, State.vecExecute, State.flyAs, State.schedule_ctx, State.ctx_modCtx_same, State.ctx_modCtx_same]
    rfl
  have hconsumed := consumes_consumeTags u a h.tags
  obtain ⟨tags, after, hmine, hword⟩ := hconsumed.mine
  refine ⟨_, _, hexec, rfl, ?_, ?_, ?_, ?_, ?_⟩
  · rw [hmine, hctx]
  · rw [hmine, hctx]
  · rw [hmine, Ctx.visible, hword, hctx]
    rfl
  · rw [hmine, hctx]
  · rw [hconsumed.agenda, hu]
    exact mem_schedule ..

end

end Sys2Proof.Machine
end

section
/-! PROOF. Runs, fills and drains of the matrix unit end (O51). -/

namespace Sys2Proof.Machine

theorem tset_tset {κ α : Type} [DecidableEq κ] (t : Tbl κ α) (k : κ) (a b : α) : tset (tset t k a) k b = tset t k b := by
  induction t with
  | nil => simp [tset]
  | cons e r ih =>
    obtain ⟨k', x⟩ := e
    by_cases h : k' = k <;> simp [tset, h, ih]

/-- Of two changes of one context the first is no matter of the state beside it. -/
theorem setCtx_setCtx (s : State) (a : Agent) (c c' : Ctx) : (s.setCtx a c).setCtx a c' = s.setCtx a c' := by
  rw [State.setCtx, State.setCtx, State.setCtx, tset_tset]

/-! ## A run ends (R190, R192) -/

/-- The context of a slot whose run has ended. -/
def MatRun.ended (r : MatRun) (x : Ctx) : Ctx := (x.flag r.flags).modCr (fun cr => if r.lm then { cr with lm := true } else cr)

theorem MatRun.ended_cr (r : MatRun) (x : Ctx) :
    (r.ended x).cr = { x.cr with fstat := x.cr.fstat ||| r.flags, lm := x.cr.lm || r.lm } := by
  rw [MatRun.ended, Ctx.modCr_cr]
  cases r.lm
  · rw [Bool.or_false]
    rfl
  · rw [Bool.or_true]
    rfl

/-- The core of a run that has ended. -/
def Core.without (k : Core) (r : MatRun) : Core := { k with mats := k.mats.filter (fun q => q.id ≠ r.id) }

section
variable {s : State} {c : CoreId} {i : SlotId} {acc tile id : Nat} {r : MatRun}

theorem endRun_eq (s : State) (c : CoreId) (r : MatRun) : s.endRun c r =
    (s.setCore c ((s.core c).without r)).setCtx (.stage r.slot) (r.ended (s.ctx (.stage r.slot))) := rfl

theorem accumulatorLanded_later (hr : (s.core c).mats.find? (fun r => r.acc = some acc) = some r) (hdue : s.cycle < r.due) :
    exec (.accumulatorLanded c acc) s = .next (s.schedule r.due priMatrix (.accumulatorLanded c acc)) := by
  rw [exec_accumulatorLanded, execAccumulatorLanded, hr]
  exact if_pos hdue

theorem accumulatorLanded_ends (hr : (s.core c).mats.find? (fun r => r.acc = some acc) = some r) (hdue : r.due ≤ s.cycle) :
    ∃ t, exec (.accumulatorLanded c acc) s = .next t ∧
      t.core c = { s.core c with mats := (s.core c).mats.filter (fun q => q.id ≠ r.id) } ∧
      (t.ctx (.stage r.slot)).cr = { (s.ctx (.stage r.slot)).cr with
        fstat := (s.ctx (.stage r.slot)).cr.fstat ||| r.flags, lm := (s.ctx (.stage r.slot)).cr.lm || r.lm } ∧
      t = (s.setCore c (t.core c)).setCtx (.stage r.slot) (t.ctx (.stage r.slot)) := by
  have hexec : exec (.accumulatorLanded c acc) s = .next (s.endRun c r) := by
    rw [exec_accumulatorLanded, execAccumulatorLanded, hr]
    exact if_neg (Nat.not_lt.mpr hdue)
  have hcore : (s.endRun c r).core c = (s.core c).without r := by rw [endRun_eq, State.core_setCtx, State.core_setCore_same]
  have hctx : (s.endRun c r).ctx (.stage r.slot) = r.ended (s.ctx (.stage r.slot)) := by rw [endRun_eq, State.ctx_setCtx_same]
  refine ⟨_, hexec, hcore, ?_, ?_⟩
  · rw [hctx, MatRun.ended_cr]
  · rw [hcore, hctx, endRun_eq]

/-! ## A fill of a tile ends (R197) -/

theorem tileFillDone_later (hr : (s.core i.core).mats.find? (fun r => r.tile = some tile && r.slot = i) = some r)
    (hdue : s.cycle < r.due) :
    exec (.tileFillDone i tile) s = .next (s.schedule r.due priMatrix (.tileFillDone i tile)) := by
  rw [exec_tileFillDone, execTileFillDone, hr]
  exact if_pos hdue

/-- The context of a slot whose fill has ended, where no other fill of the tile is under way: its tag is ready and the bank is free. -/
def MatRun.filled (r : MatRun) (tile : Nat) (x : Ctx) : Ctx :=
  let c := x.endFill tile false
  match r.bank with
  | some true => { c with refs1 := c.refs1 - 1 }
  | some false => { c with refs0 := c.refs0 - 1 }
  | none => c

theorem getLsbD_setReady {x : Ctx} (htile : tile < 8) : ((x.setReady tile true).tags.ready).getLsbD tile = true := by
  rw [Ctx.setReady, BitVec.getLsbD_ofNat, testBit_putBits, if_pos (by omega), Nat.sub_self, Bool.and_eq_true, decide_eq_true_eq]
  exact ⟨by omega, rfl⟩

theorem MatRun.filled_leaves {x : Ctx} (r : MatRun) (htile : tile < 8) (hqueue : ∀ h ∈ x.matq, h.fills tile = false) :
    (r.filled tile x).tags.ready.getLsbD tile = true ∧
      (r.filled tile x).refs1 = (if r.bank = some true then x.refs1 - 1 else x.refs1) ∧
      (r.filled tile x).refs0 = (if r.bank = some false then x.refs0 - 1 else x.refs0) := by
  have hnone : x.matq.any (fun h => h.fills tile) = false := by simpa using hqueue
  have hready : (x.endFill tile false).tags.ready.getLsbD tile = true := by
    rw [Ctx.endFill, hnone]
    exact getLsbD_setReady (x := { x with matq := releaseTile tile x.matq }) htile
  rw [MatRun.filled]
  cases hbank : r.bank with
  | none => exact ⟨hready, rfl, rfl⟩
  | some b => cases b <;> exact ⟨hready, rfl, rfl⟩

theorem tileFillDone_ends (htile : tile < 8) (hr : (s.core i.core).mats.find? (fun r => r.tile = some tile && r.slot = i) = some r)
    (hdue : r.due ≤ s.cycle) (hsole : ∀ q ∈ (s.core i.core).mats, q.tile = some tile → q.slot = i → q.id = r.id)
    (hqueue : ∀ h ∈ (s.ctx (.stage i)).matq, h.fills tile = false) : ∃ t, exec (.tileFillDone i tile) s = .next t ∧
      (t.ctx (.stage i)).tags.ready.getLsbD tile = true ∧
      (t.ctx (.stage i)).refs1 = (if r.bank = some true then (s.ctx (.stage i)).refs1 - 1 else (s.ctx (.stage i)).refs1) ∧
      (t.ctx (.stage i)).refs0 = (if r.bank = some false then (s.ctx (.stage i)).refs0 - 1 else (s.ctx (.stage i)).refs0) ∧
      (t.core i.core).mats = (s.core i.core).mats.filter (fun q => q.id ≠ r.id) ∧
      t = (s.setCore i.core (t.core i.core)).setCtx (.stage i) (t.ctx (.stage i)) := by
  obtain ⟨_, hslot⟩ : r.tile = some tile ∧ r.slot = i := by simpa using List.find?_some hr
  have hcore : (s.endRun i.core r).core i.core = (s.core i.core).without r := by
    rw [endRun_eq, State.core_setCtx, State.core_setCore_same]
  have hanother : ((s.endRun i.core r).core i.core).mats.any (fun q => q.tile = some tile && q.slot = i) = false := by
    rw [hcore, List.any_eq_false]
    intro q hq hfill
    obtain ⟨hq, hid⟩ := List.mem_filter.mp hq
    obtain ⟨hqtile, hqslot⟩ : q.tile = some tile ∧ q.slot = i := by simpa using hfill
    exact absurd (hsole q hq hqtile hqslot) (by simpa using hid)
  have hexec : exec (.tileFillDone i tile) s = .next ((s.endRun i.core r).modCtx (.stage i) (r.filled tile)) := by
    rw [exec_tileFillDone, execTileFillDone, hr]
    refine (if_neg (Nat.not_lt.mpr hdue)).trans ?_
    simp only [hanother]
    rfl
  have hctx : (s.endRun i.core r).ctx (.stage i) = r.ended (s.ctx (.stage i)) := by rw [endRun_eq, hslot, State.ctx_setCtx_same]
  obtain ⟨hready, hrefs1, hrefs0⟩ := r.filled_leaves (x := r.ended (s.ctx (.stage i))) htile hqueue
  refine ⟨_, hexec, ?_, ?_, ?_, ?_, ?_⟩
  · rw [State.ctx_modCtx_same, hctx]
    exact hready
  · rw [State.ctx_modCtx_same, hctx]
    exact hrefs1
  · rw [State.ctx_modCtx_same, hctx]
    exact hrefs0
  · rw [State.core_modCtx, hcore]
    rfl
  · rw [State.core_modCtx, hcore, State.ctx_modCtx_same, State.modCtx, endRun_eq, hslot, setCtx_setCtx]

end

/-! ## The elements of `MM.AR` are written (R191, R201) -/

section
variable {s : State} {i : SlotId} {id : Nat} {e : Drain}

theorem Core.banked_sound {k : Core} (hbad : k.bad = []) (honce : k.badOnce = []) (addr : Nat) (data : List Byte) (full : Bool) :
    (k.banked addr data full).mem = memWrite k.mem addr data ∧ (k.banked addr data full).bad = [] ∧
      (k.banked addr data full).badOnce = [] := by
  simp [Core.banked, hbad, honce, writeAround_sound, mendOnce]

/-- Bytes written in banks without an error change their core alone. -/
theorem writeBanks_sound (hbad : (s.core i.core).bad = []) (honce : (s.core i.core).badOnce = []) (addr : Nat) (data : List Byte)
    (full : Bool) : s.writeBanks (.stage i) addr data full = s.modCore i.core (fun k => k.banked addr data full) := by
  rw [writeBanks_stage, State.coreBanked, hbad, honce, writeAround_sound, countPartial_clean _ _ (wordsIn_nil ..) (wordsIn_nil ..)]
  rfl

theorem writeAll_sound (l : List (Nat × List Byte)) {s : State} (hbad : (s.core i.core).bad = [])
    (honce : (s.core i.core).badOnce = []) {t : State} (ht : t = l.foldl (fun s p => s.writeBanks (.stage i) p.1 p.2 true) s) :
    (t.core i.core).mem = l.foldl (fun m p => memWrite m p.1 p.2) (s.core i.core).mem ∧ t.ctxs = s.ctxs ∧ t.slots = s.slots ∧
      t.dies = s.dies ∧ ∀ c, c ≠ i.core → t.core c = s.core c := by
  induction l generalizing s with
  | nil => exact ht ▸ ⟨rfl, rfl, rfl, rfl, fun _ _ => rfl⟩
  | cons p l ih =>
    obtain ⟨u, hu⟩ : ∃ u, u = s.modCore i.core (fun k => k.banked p.1 p.2 true) := ⟨_, rfl⟩
    have hcore (c : CoreId) : u.core c = if c = i.core then (s.core i.core).banked p.1 p.2 true else s.core c :=
      hu ▸ State.core_modCore ..
    have hown := (hcore i.core).trans (if_pos rfl)
    obtain ⟨hmemBanked, hbadBanked, honceBanked⟩ := Core.banked_sound hbad honce p.1 p.2 true
    rw [← hown] at hmemBanked hbadBanked honceBanked
    rw [List.foldl_cons, writeBanks_sound hbad honce, ← hu] at ht
    obtain ⟨hmem, hctxs, hslots, hdies, hothers⟩ := ih hbadBanked honceBanked ht
    rw [hmemBanked] at hmem
    subst hu
    exact ⟨hmem, hctxs, hslots, hdies, fun c hc => by rw [hothers c hc, hcore, if_neg hc]⟩

theorem mmArWriteDone_later (he : (s.slot i).drains.find? (fun e => e.id = id && e.port.isNone) = some e)
    (hread : s.cycle < e.readDone) :
    exec (.mmArWriteDone i id) s = .next (s.schedule e.readDone priWaited (.mmArWriteDone i id)) := by
  rw [exec_mmArWriteDone, execMmArWriteDone, he]
  exact if_pos hread

theorem mmArWriteDone_writes (he : (s.slot i).drains.find? (fun e => e.id = id && e.port.isNone) = some e)
    (hread : e.readDone ≤ s.cycle) (hbad : (s.core i.core).bad = []) (honce : (s.core i.core).badOnce = []) :
    ∃ t, exec (.mmArWriteDone i id) s = .next t ∧
      (t.core i.core).mem = e.store.foldl (fun m p => memWrite m p.1 p.2) (s.core i.core).mem ∧
      (t.slot i).drains = (s.slot i).drains.filter (fun g => g.id ≠ id) ∧
      (t.ctx (.stage i)).cr.fstat = (s.ctx (.stage i)).cr.fstat ||| e.flags ∧
      (∀ c', c' ≠ i.core → t.core c' = s.core c') ∧ (∀ b, b ≠ .stage i → t.ctx b = s.ctx b) ∧ t.dies = s.dies := by
  obtain ⟨u, hu⟩ : ∃ u, u = e.store.foldl (fun s p => s.writeBanks (.stage i) p.1 p.2 true) s := ⟨_, rfl⟩
  have hexec : exec (.mmArWriteDone i id) s = .next ((u.modSlot i (fun v => { v with
      drains := v.drains.filter (fun g => g.id ≠ id) })).modCtx (.stage i) (fun c => c.flag e.flags)) := by
    rw [exec_mmArWriteDone, execMmArWriteDone, he, hu]
    exact if_neg (Nat.not_lt.mpr hread)
  obtain ⟨hmem, hctxs, hslots, hdies, hothers⟩ := writeAll_sound e.store hbad honce hu
  have hctx (b : Agent) : u.ctx b = s.ctx b := by rw [State.ctx, hctxs, State.ctx]
  refine ⟨_, hexec, ?_, ?_, ?_, ?_, fun b hb => ?_, hdies⟩
  · rw [State.core_modCtx, State.core_modSlot, hmem]
  · rw [State.slot_modCtx, State.slot_modSlot_same, State.slot, hslots, State.slot]
  · rw [State.ctx_modCtx_same, State.ctx_modSlot, hctx]
    rfl
  · exact hothers
  · rw [ctx_modCtx_ne hb, State.ctx_modSlot, hctx]

end

/-! ## The packet of a drain leaves (R200) -/

section
variable {s : State} {i : SlotId} {id n : Nat} {e : Drain} {o : OutPort}

theorem drains_launchPacket (s : State) (i : SlotId) (n : Nat) (k : Packet) :
    ((s.launchPacket i n k).slot i).drains = (s.slot i).drains := by
  rw [State.launchPacket]
  split
  case h_1 => rfl
  case h_2 => rw [(messaged_sendFlit_packet ..).slot, State.slot_modSlot_same]

theorem mmDrainSend_later (he : (s.slot i).drains.find? (fun e => e.id = id && e.port.isSome) = some e)
    (hread : s.cycle < e.readDone) : exec (.mmDrainSend i id) s = .next (s.schedule e.readDone priMatrix (.mmDrainSend i id)) := by
  rw [exec_mmDrainSend, execMmDrainSend, he]
  exact if_pos hread

/-- The state behind a drain's packet. -/
def State.drainSent (s : State) (i : SlotId) (n : Nat) (o : OutPort) (id : Nat) (flags : BitVec 6) (k : Packet) : State :=
  (((s.made i n o k).modSlot i (fun v => { v with drains := v.drains.filter (fun x => x.id ≠ id) })).modCtx (.stage i)
    (fun c => c.flag flags)).launchPacket i n k

variable (he : (s.slot i).drains.find? (fun e => e.id = id && e.port.isSome) = some e) (hport : e.port = some n)
  (ho : tfind (s.slot i).outs n = some o) (hread : e.readDone ≤ s.cycle)
include he hport ho hread

theorem mmDrainSend_waits (h : o.credits = 0 ∨ ∃ x ∈ (s.slot i).emissions, x.port = n) :
    exec (.mmDrainSend i id) s = .next (s.schedule (s.cycle + 1) priMatrix (.mmDrainSend i id)) := by
  rw [exec_mmDrainSend, execMmDrainSend, he]
  refine (if_neg (Nat.not_lt.mpr hread)).trans ?_
  simp only [hport, Option.getD_some, ho]
  refine if_pos ?_
  rcases h with h | h
  · simp [h]
  · simp [h]

theorem exec_mmDrainSend_sends (hcredit : 1 ≤ o.credits) (hfree : ∀ x ∈ (s.slot i).emissions, x.port ≠ n) {k : Packet}
    (hk : k = s.packetOf i n 0 (e.pkt.w0 = 1) (BitVec.ofNat 32 e.pkt.w2.toNat) e.pkt.w3 e.pkt.payload o) :
    exec (.mmDrainSend i id) s = .next (s.drainSent i n o id e.flags k) := by
  rw [exec_mmDrainSend, execMmDrainSend, he]
  refine (if_neg (Nat.not_lt.mpr hread)).trans ?_
  simp only [hport, Option.getD_some, ho, makePacket_declared ho hk]
  refine if_neg ?_
  simpa [hcredit] using hfree

omit he hport hread in
theorem drainSent_leaves {flags : BitVec 6} {k : Packet} (hseq : k.seq = o.nextSeq) {t : State}
    (ht : t = s.drainSent i n o id flags k) :
    ∃ o', tfind (t.slot i).outs n = some o' ∧ Sent o o' k ∧
      (t.slot i).drains = (s.slot i).drains.filter (fun x => x.id ≠ id) ∧
      (t.ctx (.stage i)).cr.fstat = (s.ctx (.stage i)).cr.fstat ||| flags ∧
      SameBut s t i.core.die [(s.retentionBuf i n o.nextSeq, 32 + k.payload.length)] := by
  have hmade := sendsOn_made ho hseq
  obtain ⟨m, hm⟩ : ∃ m, m = (s.made i n o k).modSlot i (fun v => { v with drains := v.drains.filter (fun x => x.id ≠ id) }) := ⟨_, rfl⟩
  have hdropped : PortStep (s.made i n o k) m i [] := hm ▸ portStep_setSlot (slot_listed hmade.after) rfl rfl
  have hmSlot : m.slot i = { (s.made i n o k).slot i with
      drains := ((s.made i n o k).slot i).drains.filter (fun x => x.id ≠ id) } := hm ▸ State.slot_modSlot_same ..
  obtain ⟨u, hu⟩ : ∃ u, u = m.modCtx (.stage i) (fun c => c.flag flags) := ⟨_, rfl⟩
  have huSlot : u.slot i = m.slot i := hu ▸ rfl
  have hflagged : SameBut m u i.core.die [] := hu ▸ sameBut_of_tables rfl rfl rfl rfl
  have hctx : u.ctx (.stage i) = (s.ctx (.stage i)).flag flags := by
    rw [hu, State.ctx_modCtx_same, hdropped.ctx, hmade.step.ctx]
  obtain ⟨due, via, hlaunch⟩ := sendsOn_launchPacket (s := u) (i := i) (n := n) (o := o.sending k)
    (by rw [huSlot, hmSlot]; exact hmade.after) k
  obtain rfl : t = u.launchPacket i n k := by rw [ht, State.drainSent, hu, hm]
  refine ⟨_, hlaunch.after, ⟨rfl, rfl, rfl, hseq, rfl, rfl, rfl⟩, ?_, ?_, ?_⟩
  · rw [drains_launchPacket, huSlot, hmSlot, slot_made]
  · rw [hlaunch.step.ctx, hctx]
    rfl
  · exact ((hmade.step.bytes.trans (hdropped.bytes.mono nofun)).trans (hflagged.mono nofun)).trans (hlaunch.step.bytes.mono nofun)

theorem mmDrainSend_sends (hcredit : 1 ≤ o.credits) (hfree : ∀ x ∈ (s.slot i).emissions, x.port ≠ n) :
    ∃ t o' k, exec (.mmDrainSend i id) s = .next t ∧
      tfind (t.slot i).outs n = some o' ∧ Sent o o' k ∧ k.payload = e.pkt.payload ∧
      (t.slot i).drains = (s.slot i).drains.filter (fun x => x.id ≠ id) ∧
      (t.ctx (.stage i)).cr.fstat = (s.ctx (.stage i)).cr.fstat ||| e.flags ∧
      SameBut s t i.core.die [(s.retentionBuf i n o.nextSeq, 32 + e.pkt.payload.length)] := by
  obtain ⟨k, hk⟩ : ∃ k, k = s.packetOf i n 0 (e.pkt.w0 = 1) (BitVec.ofNat 32 e.pkt.w2.toNat) e.pkt.w3 e.pkt.payload o := ⟨_, rfl⟩
  have hpayload : k.payload = e.pkt.payload := by rw [hk, State.packetOf]
  obtain ⟨o', hafter, hsent, hdrains, hflags, hbytes⟩ := drainSent_leaves (id := id) (flags := e.flags) (k := k) ho (by rw [hk, packetOf_seq]) rfl
  exact ⟨_, o', k, exec_mmDrainSend_sends he hport ho hread hcredit hfree hk, hafter, hsent, hpayload, hdrains, hflags,
    hpayload ▸ hbytes⟩

end

end Sys2Proof.Machine
end

section
/-! PROOF. The head of the MAT queue dispatches (O51). -/

namespace Sys2Proof.Machine

/-! ## Steps that leave the MAT queue of a stage -/

/-- The MAT queue of a stage is as it was. -/
def SameMatq (i : SlotId) (s t : State) : Prop := (t.ctx (.stage i)).matq = (s.ctx (.stage i)).matq

section
variable {s t u : State} {i : SlotId}

theorem SameMatq.trans (h : SameMatq i s t) (g : SameMatq i t u) : SameMatq i s u := Eq.trans g h

theorem sameMatq_modCtx {f : Ctx → Ctx} (h : ∀ c, (f c).matq = c.matq) : SameMatq i s (s.modCtx (.stage i) f) := by
  rw [SameMatq, State.ctx_modCtx_same, h]

theorem Corrects.sameMatq (h : Corrects s t) : SameMatq i s t := by rw [SameMatq, h.ctx]

theorem Apart.sameMatq (h : Apart s t) : SameMatq i s t := by rw [SameMatq, State.ctx, h.ctxs, State.ctx]

theorem sameMatq_meetRegs (ws : List Nat) : SameMatq i s (s.meetRegs (.stage i) ws) := by
  rw [State.meetRegs]
  split
  · rfl
  · exact SameMatq.trans (t := s.modCtx (.stage i) (fun c => { c with regOnce := c.regOnce.filter (· ∉ ws) }))
      (sameMatq_modCtx fun _ => rfl) (corrects_countErrors ..).sameMatq

theorem sameMatq_meetDesc (h : Held) : SameMatq i s (s.meetDesc i h) := by
  rw [State.meetDesc]
  split
  · exact sameMatq_meetRegs ..
  · exact (sameMatq_meetRegs ..).trans (sameMatq_modCtx fun _ => rfl)

theorem sameMatq_meetMat (ws : List Nat) : SameMatq i s (s.meetMat i ws).1 := by
  simp only [State.meetMat]
  split
  · rfl
  · split
    · exact ((apart_setCore ..).trans (apart_modDie ..)).sameMatq.trans (sameMatq_modCtx fun _ => rfl)
    · exact ((apart_setCore ..).trans (apart_modDie ..)).sameMatq

theorem sameMatq_meetSpans (ss : List Span) : SameMatq i s (s.meetSpans i.core ss) := by
  rw [State.meetSpans]
  split
  · rfl
  · exact (Corrects.foldl (fun s sp => corrects_meetCore s i.core sp.addr.toNat sp.len) ss s).sameMatq

theorem sameMatq_matCheck (bad : Option Nat) : SameMatq i s (s.matCheck i bad) := by
  cases bad with
  | none => rfl
  | some w => exact sameMatq_modCtx fun _ => rfl

theorem sameMatq_fly (src : Src) (lat : Nat) (ws : List RegWrite) (fl : BitVec 6) (ac : Option PortAccess) :
    SameMatq i s (s.fly (.stage i) src lat ws fl ac) := by
  rw [SameMatq, State.fly, State.tick1_ctx, State.flyAs, State.schedule_ctx, State.ctx_modCtx_same]

theorem Consumes.sameMatq (h : Consumes s t (.stage i)) : SameMatq i s t := by
  obtain ⟨tags, after, hctx, _⟩ := h.mine
  rw [SameMatq, hctx]

end

/-! ## A run that begins is recorded (R190) -/

/-- The state in which a run of the matrix unit has begun behind its checks. -/
def State.begun (s : State) (i : SlotId) (bad : Option Nat) (acc tile : Option Nat) (due : Nat) (flags : BitVec 6) (lm : Bool)
    (bank : Option Bool) (m : MatSteps) : State :=
  ((s.matCheck i bad).startRun i acc tile due flags lm bank).startSteps i.core m

section
variable (acc tile : Option Nat) (due : Nat) (flags : BitVec 6) (lm : Bool) (bank : Option Bool)

theorem mats_startRun (s : State) (i : SlotId) :
    ((s.startRun i acc tile due flags lm bank).core i.core).mats = (s.core i.core).mats ++
      [{ id := s.uid, slot := i, acc := acc, tile := tile, due := due, flags := flags, lm := lm, bank := bank }] := by
  cases acc <;> cases tile <;> simp [State.startRun]

theorem ctxs_startRun (s : State) (i : SlotId) : (s.startRun i acc tile due flags lm bank).ctxs = s.ctxs := by
  cases acc <;> cases tile <;> rfl

theorem begun_leaves {s v t : State} {i : SlotId} {bad : Option Nat} {m : MatSteps} (hv : SameMatq i s v)
    (ht : t = v.begun i bad acc tile due flags lm bank m) :
    SameMatq i s t ∧ ∃ u ∈ (t.core i.core).mats, u.slot = i ∧ u.acc = acc ∧ u.tile = tile := by
  subst ht
  constructor
  · have hrun : SameMatq i (v.matCheck i bad) (v.begun i bad acc tile due flags lm bank m) := by
      rw [SameMatq, State.begun, State.startSteps, State.ctx_modCore, State.ctx, ctxs_startRun, State.ctx]
    exact (hv.trans (sameMatq_matCheck bad)).trans hrun
  · rw [State.begun, State.startSteps, State.core_modCore, if_pos rfl, mats_startRun]
    exact ⟨_, List.mem_append_right _ (List.mem_singleton.mpr rfl), rfl, rfl, rfl⟩

end

section
variable {s t : State} {i : SlotId} {h : Held} {d : Desc}

theorem runMm_leaves (ht : t = s.runMm i h d) : SameMatq i s t ∧
    ∃ u ∈ (t.core i.core).mats, u.slot = i ∧ u.acc = some (BitVec.ofNat 2 (bitsAt h.word.toNat 16 2)).toNat := by
  obtain ⟨u, hu, v, bad, due, flags, lm, m, hv, hrun⟩ : ∃ u, SameMatq i s u ∧ ∃ v bad due flags lm m, SameMatq i u v ∧ s.runMm i h d =
      h.tags.foldl (fun s t => s.consumeTag (.stage i) t)
        (v.begun i bad (some (BitVec.ofNat 2 (bitsAt h.word.toNat 16 2)).toNat) none due flags lm none m) := by
    dsimp only [State.runMm]
    generalize hmet : State.meetMat _ i _ = met
    refine ⟨met.1, ?_, _, _, _, _, _, _, ?_, rfl⟩
    · rw [← hmet]
      exact (sameMatq_meetSpans ..).trans (sameMatq_meetMat ..)
    · exact (apart_setCore ..).sameMatq
  obtain ⟨hqueue, q, hq, hslot, hacc, -⟩ := begun_leaves _ _ _ _ _ _ (hu.trans hv) rfl
  have hconsumed := consumes_consumeTags
    (v.begun i bad (some (BitVec.ofNat 2 (bitsAt h.word.toNat 16 2)).toNat) none due flags lm none m) (.stage i) h.tags
  rw [ht, hrun]
  refine ⟨hqueue.trans hconsumed.sameMatq, q, ?_, hslot, hacc⟩
  rw [State.core, hconsumed.cores]
  exact hq

theorem runMmW_leaves (ht : t = s.runMmW i h d) : SameMatq i s t ∧
    ∃ u ∈ (t.core i.core).mats, u.slot = i ∧ u.tile = some (BitVec.ofNat 3 (bitsAt h.word.toNat 13 3)).toNat := by
  obtain ⟨v, bad, due, flags, lm, bank, m, hv, hrun⟩ : ∃ v bad due flags lm bank m, SameMatq i s v ∧ s.runMmW i h d =
      v.begun i bad none (some (BitVec.ofNat 3 (bitsAt h.word.toNat 13 3)).toNat) due flags lm bank m :=
    ⟨_, _, _, _, _, _, _, (sameMatq_meetSpans ..).trans (apart_setCore ..).sameMatq, rfl⟩
  obtain ⟨hqueue, q, hq, hslot, -, htile⟩ := begun_leaves _ _ _ _ _ _ hv (ht.trans hrun)
  exact ⟨hqueue, q, hq, hslot, htile⟩

theorem runMmAw_leaves (ht : t = s.runMmAw i h d) : SameMatq i s t ∧
    ∃ u ∈ (t.core i.core).mats, u.slot = i ∧ u.acc = some (BitVec.ofNat 2 (bitsAt h.word.toNat 16 2)).toNat := by
  obtain ⟨v, bad, due, flags, lm, m, hv, hrun⟩ : ∃ v bad due flags lm m, SameMatq i s v ∧ s.runMmAw i h d =
      v.begun i bad (some (BitVec.ofNat 2 (bitsAt h.word.toNat 16 2)).toNat) none due flags lm none m :=
    ⟨_, _, _, _, _, _, (sameMatq_meetSpans ..).trans (apart_setCore ..).sameMatq, rfl⟩
  obtain ⟨hqueue, q, hq, hslot, hacc, -⟩ := begun_leaves _ _ _ _ _ _ hv (ht.trans hrun)
  exact ⟨hqueue, q, hq, hslot, hacc⟩

theorem startDrain_leaves (s : State) (i : SlotId) (e : Drain) : SameMatq i s (s.startDrain i e) ∧
    ((s.startDrain i e).slot i).drains = (s.slot i).drains ++ [e] := by
  refine ⟨rfl, ?_⟩
  rw [State.startDrain, State.tick1_slot, State.slot_modSlot_same]

theorem runMmAr_leaves (ht : t = s.runMmAr i h d) : SameMatq i s t ∧
    ∃ u ∈ (t.slot i).drains, u.acc = (BitVec.ofNat 2 (bitsAt h.word.toNat 16 2)).toNat ∧ u.port = none := by
  obtain ⟨u, hu, v, e, due, pri, ev, m, hv, hrun, hacc, hport⟩ : ∃ u, SameMatq i s u ∧ ∃ v e due pri ev m, SameMatq i u v ∧
      s.runMmAr i h d = ((v.startDrain i e).schedule due pri ev).startSteps i.core m ∧
      e.acc = (BitVec.ofNat 2 (bitsAt h.word.toNat 16 2)).toNat ∧ e.port = none := by
    dsimp only [State.runMmAr]
    generalize hmet : State.meetMat _ i _ = met
    refine ⟨met.1, ?_, _, _, _, _, _, _, ?_, rfl, rfl, rfl⟩
    · rw [← hmet]
      exact sameMatq_meetMat ..
    · exact (apart_setCore ..).sameMatq
  obtain ⟨hqueue, hdrains⟩ := startDrain_leaves v i e
  rw [ht, hrun]
  refine ⟨(hu.trans hv).trans hqueue, e, ?_, hacc, hport⟩
  rw [State.startSteps, State.slot_modCore, State.schedule_slot, hdrains]
  exact List.mem_append_right _ (List.mem_singleton.mpr rfl)

theorem runMmD_sameMatq : SameMatq i s (s.runMmD i h d) := by
  dsimp only [State.runMmD]
  generalize hmet : State.meetMat s i _ = met
  have hu : SameMatq i s met.1 := hmet ▸ sameMatq_meetMat ..
  split
  · exact hu
  · exact hu

/-! ## The dispatch (R190, R195) -/

/-- The descriptor that a MAT syllable names. -/
def State.descOf (s : State) (i : SlotId) (h : Held) : Desc := (s.ctx (.stage i)).td[(BitVec.ofNat 5 (bitsAt h.word.toNat 8 5)).toNat]

theorem dispatchMat_sameMatq (s : State) (i : SlotId) (h : Held) : SameMatq i s (s.dispatchMat i h) := by
  refine (sameMatq_meetDesc h).trans ?_
  rw [State.dispatchMat]
  split
  · exact (runMm_leaves rfl).1
  · exact runMmD_sameMatq
  · rfl
  · exact (runMmW_leaves rfl).1
  · exact (runMmAr_leaves rfl).1
  · exact (runMmAw_leaves rfl).1
  · exact sameMatq_fly ..
  · exact sameMatq_modCtx fun _ => rfl

/-- `MM.Z` reads no descriptor. -/
theorem meetDesc_of_zeroing (hop : bitsAt h.word.toNat 22 6 = 2) : s.meetDesc i h = s := by
  simp [State.meetDesc, Held.tdWords, hop, State.meetRegs]

theorem toNat_accOf (h : Held) : (BitVec.ofNat 2 (bitsAt h.word.toNat 16 2)).toNat = bitsAt h.word.toNat 16 2 := by
  rw [BitVec.toNat_ofNat, Nat.mod_eq_of_lt]
  exact Nat.mod_lt _ (by decide)

theorem toNat_tileOf (h : Held) : (BitVec.ofNat 3 (bitsAt h.word.toNat 13 3)).toNat = bitsAt h.word.toNat 13 3 := by
  rw [BitVec.toNat_ofNat, Nat.mod_eq_of_lt]
  exact Nat.mod_lt _ (by decide)

/-- A core with an accumulator's bytes zeroed (R198). -/
def Core.zeroed (k : Core) (a : BitVec 2) : Core :=
  { k.mendMat (accWords a.toNat) with accs := k.accs.set a.toNat { k.accs[a.toNat] with bytes := 0 } }

theorem dispatchMat_zeroes (hop : bitsAt h.word.toNat 22 6 = 2) : s.dispatchMat i h =
    s.modCore i.core (fun k => k.zeroed (BitVec.ofNat 2 (bitsAt h.word.toNat 16 2))) := by
  rw [State.dispatchMat, meetDesc_of_zeroing hop]
  simp only [hop]
  rfl

theorem Core.accs_zeroed (k : Core) (h : Held) :
    ((k.zeroed (BitVec.ofNat 2 (bitsAt h.word.toNat 16 2))).accs[bitsAt h.word.toNat 16 2]?).map (·.bytes) = some 0 := by
  have hacc := toNat_accOf h
  simp [Core.zeroed, hacc]

theorem dispatchMat_fills (hop : bitsAt h.word.toNat 22 6 = 3) (ht : t = s.dispatchMat i h) :
    ∃ u ∈ (t.core i.core).mats, u.slot = i ∧ u.tile = some (bitsAt h.word.toNat 13 3) := by
  have hrun : t = (s.meetDesc i h).runMmW i h ((s.meetDesc i h).descOf i h) := by
    rw [ht, State.dispatchMat]
    simp only [hop]
    rfl
  rw [← toNat_tileOf]
  exact (runMmW_leaves hrun).2

theorem dispatchMat_runs (hop : bitsAt h.word.toNat 22 6 = 0 ∨ bitsAt h.word.toNat 22 6 = 5) (ht : t = s.dispatchMat i h) :
    ∃ u ∈ (t.core i.core).mats, u.slot = i ∧ u.acc = some (bitsAt h.word.toNat 16 2) := by
  rw [← toNat_accOf]
  rcases hop with hop | hop
  · have hrun : t = (s.meetDesc i h).runMm i h ((s.meetDesc i h).descOf i h) := by
      rw [ht, State.dispatchMat]
      simp only [hop]
      rfl
    exact (runMm_leaves hrun).2
  · have hrun : t = (s.meetDesc i h).runMmAw i h ((s.meetDesc i h).descOf i h) := by
      rw [ht, State.dispatchMat]
      simp only [hop]
      rfl
    exact (runMmAw_leaves hrun).2

theorem dispatchMat_drains (hop : bitsAt h.word.toNat 22 6 = 4) (ht : t = s.dispatchMat i h) :
    ∃ u ∈ (t.slot i).drains, u.acc = bitsAt h.word.toNat 16 2 ∧ u.port = none := by
  have hrun : t = (s.meetDesc i h).runMmAr i h ((s.meetDesc i h).descOf i h) := by
    rw [ht, State.dispatchMat]
    simp only [hop]
    rfl
  rw [← toNat_accOf]
  exact (runMmAr_leaves hrun).2

variable {r : List Held}

theorem matDispatch_waits (hq : (s.ctx (.stage i)).matq = h :: r) (hready : s.matReady i = false) :
    exec (.matDispatch i) s = .next s := by
  rw [exec_matDispatch, execMatDispatch, hq]
  simp only [hready]
  rfl

theorem matDispatch_dispatches (hq : (s.ctx (.stage i)).matq = h :: r) (hready : s.matReady i = true) :
    ∃ t, exec (.matDispatch i) s = .next t ∧ (t.ctx (.stage i)).matq = r ∧
      (bitsAt h.word.toNat 22 6 = 2 →
        t = (s.setCore i.core (t.core i.core)).setCtx (.stage i) { s.ctx (.stage i) with matq := r, matFree := s.cycle + 1 } ∧
        ((t.core i.core).accs[bitsAt h.word.toNat 16 2]?).map (·.bytes) = some 0) ∧
      (bitsAt h.word.toNat 22 6 = 3 → ∃ u ∈ (t.core i.core).mats, u.slot = i ∧ u.tile = some (bitsAt h.word.toNat 13 3)) ∧
      (bitsAt h.word.toNat 22 6 = 0 ∨ bitsAt h.word.toNat 22 6 = 5 →
        ∃ u ∈ (t.core i.core).mats, u.slot = i ∧ u.acc = some (bitsAt h.word.toNat 16 2)) ∧
      (bitsAt h.word.toNat 22 6 = 4 → ∃ u ∈ (t.slot i).drains, u.acc = bitsAt h.word.toNat 16 2 ∧ u.port = none) := by
  obtain ⟨u, hu⟩ : ∃ u, u = s.modCtx (.stage i) (fun c => { c with matq := r, matFree := s.cycle + 1 }) := ⟨_, rfl⟩
  have hexec : exec (.matDispatch i) s = .next (u.dispatchMat i h) := by
    rw [exec_matDispatch, execMatDispatch, hq, hu]
    simp only [hready]
    rfl
  refine ⟨_, hexec, ?_, fun hop => ?_, (dispatchMat_fills · rfl), (dispatchMat_runs · rfl), (dispatchMat_drains · rfl)⟩
  · rw [dispatchMat_sameMatq u i h, hu, State.ctx_modCtx_same]
  · rw [dispatchMat_zeroes hop, State.core_modCore, if_pos rfl]
    refine ⟨?_, Core.accs_zeroed ..⟩
    subst hu
    rfl

end

end Sys2Proof.Machine
end

section
/-! PROOF. What becomes of results, stores, and held syllables (O51). -/

namespace Sys2Proof.Machine

/-- Settles O51: one lemma for each outcome of each event, assembled in the order of the statement. -/
theorem resultEvents : Obligations.ResultEvents := by
  intro s a id i c
  refine ⟨fun f hf => ⟨?_, ?_, fun p hp => ⟨?_, ?_, ?_⟩⟩, fun r hr => ⟨xfmResultLand_waits hr, xfmResultLand_lands hr⟩,
    fun st w hst hw => ⟨localStoreWritten_waits (a := .stage i) hst, stageStore_written hst hw⟩,
    fun v st hst => ⟨localStoreWritten_waits (a := .sup v) hst, supStore_written hst⟩,
    fun h r y hq hy => heldSyllable_executes hq hy,
    fun h r hq => ⟨matDispatch_waits hq, matDispatch_dispatches hq⟩,
    fun acc r hr => ⟨accumulatorLanded_later hr, accumulatorLanded_ends hr⟩,
    fun tile htile r hr => ⟨tileFillDone_later hr, tileFillDone_ends htile hr⟩,
    fun e he => ⟨mmArWriteDone_later he, mmArWriteDone_writes he⟩,
    fun e n o he hport ho => ⟨mmDrainSend_later he, mmDrainSend_waits he hport ho, mmDrainSend_sends he hport ho⟩⟩
  · rintro e (rfl | rfl | ⟨rfl, hearlier, haccess⟩)
    · exact landFlight_lands hf
    · exact landFlight_lands hf
    · rw [localLoadLand_lands hf haccess, hearlier]
      exact landFlight_lands hf
  · intro haccess hearlier
    rw [localLoadLand_lands hf haccess, hearlier]
    rfl
  · intro hturn
    obtain rfl := flight_id hf
    rw [localLoadLand_retries hf hp, retryAccess_waits hturn]
  · intro hturn hamo
    obtain rfl := flight_id hf
    exact ⟨_, localLoadLand_retries hf hp, retryAccess_loads hturn hamo rfl⟩
  · rintro o w old x hamo hturn - hbad hstores hold rfl
    obtain rfl := flight_id hf
    subst hold
    exact ⟨_, localLoadLand_retries hf hp, retryAccess_updates hturn hamo hstores hbad rfl rfl⟩

end Sys2Proof.Machine
end

section
/-! PROOF. The canonical form of the memory spaces: what a step may do to a state (O50). -/

namespace Sys2Proof.Machine

-- One declaration after the other: elaborated side by side, these many proofs hold more stacks than the check has memory for.
set_option Elab.async false

/-- Every memory space of the machine is in canonical form. -/
def State.MemOk (s : State) : Prop := s.memWf = true

/-- An outcome in which every memory space is in canonical form. -/
def OutOk : Out → Prop
  | .next t => t.MemOk
  | _ => True

/-- A wait whose effect, where it has one, keeps the canonical form. -/
def Wait.MemOk : Wait → Prop
  | .hold pre => ∀ s : State, s.MemOk → (pre s).MemOk
  | _ => True

/-- A syllable that keeps the canonical form where it acts and where it waits. -/
structure Syl.MemOk (y : Syl) : Prop where
  act : ∀ s : State, s.MemOk → (y.act s).MemOk
  wait : ∀ s : State, (y.wait s).MemOk := by exact fun _ => trivial

theorem State.memOk_iff {s : State} : s.MemOk ↔ (∀ e ∈ s.cores, e.2.memWf = true) ∧ (∀ e ∈ s.sups, e.2.memWf = true) ∧
    (∀ e ∈ s.dies, e.2.memWf = true) ∧ ∀ e ∈ s.pkgs, e.2.memWf = true := by
  simp only [State.MemOk, State.memWf, Bool.and_eq_true, List.all_eq_true, and_assoc]

/-! ## Writes keep the canonical form -/

theorem memWf_foldl {α : Type} {f : Mem → α → Mem} (hf : ∀ m x, memWf m = true → memWf (f m x) = true) {m : Mem}
    (h : memWf m = true) (l : List α) : memWf (l.foldl f m) = true := by
  induction l generalizing m with
  | nil => exact h
  | cons x l ih => exact ih (hf m x h)

theorem memWf_memPut_but {p : Prop} [Decidable p] {m : Mem} {a : Nat} {b : Byte} (h : memWf m = true) :
    memWf (if p then m else memPut m a b) = true := by
  split
  · exact h
  · exact memWf_memPut a b h

theorem memWf_writeAround {bad : List Nat} {m : Mem} {addr : Nat} {data : List Byte} (h : memWf m = true) :
    memWf (writeAround bad m addr data).1 = true := by
  simp only [writeAround]
  split
  · exact memWf_memWrite addr data h
  · exact memWf_foldl (fun _ _ h => memWf_memPut_but h) h _

theorem memWf_writeSound {bad : List Nat} {m : Mem} {addr : Nat} {data : List Byte} (h : memWf m = true) :
    memWf (writeSound bad m addr data) = true := by
  rw [writeSound]
  split
  · exact memWf_memWrite addr data h
  · exact memWf_foldl (fun _ _ h => memWf_memPut_but h) h _

theorem memWf_writePieces {m : Mem} {base : Nat} {ps : List (Nat × List Byte)} (h : memWf m = true) :
    memWf (writePieces m base ps) = true :=
  memWf_foldl (fun _ p h => memWf_memWrite (base + p.1) p.2 h) h ps

theorem memWfFrom_filter {p : Host.Cell → Bool} {lo : Nat} {m : Mem} (h : memWfFrom lo m = true) :
    memWfFrom lo (m.filter p) = true := by
  induction m generalizing lo with
  | nil => exact h
  | cons e r ih =>
    obtain ⟨a, b⟩ := e
    simp only [memWfFrom, Bool.and_eq_true, decide_eq_true_eq] at h
    obtain ⟨⟨hlo, hb⟩, hr⟩ := h
    rw [List.filter_cons]
    split
    · simp only [memWfFrom, Bool.and_eq_true, decide_eq_true_eq]
      exact ⟨⟨hlo, hb⟩, ih hr⟩
    · exact memWfFrom_mono (by omega) (ih hr)

theorem memWf_memClear {m : Mem} {a n : Nat} (h : memWf m = true) : memWf (memClear m a n) = true := memWfFrom_filter h

variable {s t : State}

theorem State.MemOk.core (h : s.MemOk) (c : CoreId) : (s.core c).memWf = true :=
  tget_all (P := fun k : Core => k.memWf = true) c rfl (State.memOk_iff.1 h).1

theorem State.MemOk.sup (h : s.MemOk) (v : SupId) : (s.sup v).memWf = true :=
  tget_all (P := fun k : Sup => k.memWf = true) v rfl (State.memOk_iff.1 h).2.1

theorem State.MemOk.die (h : s.MemOk) (c : DieId) : (s.die c).memWf = true :=
  tget_all (P := fun k : Die => k.memWf = true) c rfl (State.memOk_iff.1 h).2.2.1

theorem State.MemOk.pkg (h : s.MemOk) (p : Nat) : (s.pkg p).memWf = true :=
  tget_all (P := fun k : Pkg => k.memWf = true) p rfl (State.memOk_iff.1 h).2.2.2

theorem State.MemOk.mem (h : s.MemOk) (c : CoreId) : Machine.memWf (s.core c).mem = true := (Bool.and_eq_true_iff.1 (h.core c)).1

theorem State.MemOk.window (h : s.MemOk) (c : CoreId) : Machine.memWf (s.core c).window = true := (Bool.and_eq_true_iff.1 (h.core c)).2

theorem State.MemOk.supMem (h : s.MemOk) (v : SupId) : Machine.memWf (s.sup v).mem = true := (Bool.and_eq_true_iff.1 (h.sup v)).1

theorem State.MemOk.supWindow (h : s.MemOk) (v : SupId) : Machine.memWf (s.sup v).window = true := (Bool.and_eq_true_iff.1 (h.sup v)).2

theorem State.MemOk.gallery (h : s.MemOk) (d : DieId) : Machine.memWf (s.die d).gallery = true := (Bool.and_eq_true_iff.1 (h.die d)).1

theorem State.MemOk.codeStore (h : s.MemOk) (d : DieId) : Machine.memWf (s.die d).codeStore = true := (Bool.and_eq_true_iff.1 (h.die d)).2

theorem State.MemOk.putCore (h : s.MemOk) {c : CoreId} {k : Core} (hk : k.memWf = true) : (s.setCore c k).MemOk := by
  obtain ⟨hc, hs, hd, hp⟩ := State.memOk_iff.1 h
  refine State.memOk_iff.2 ⟨fun e he => ?_, hs, hd, hp⟩
  obtain rfl | he := mem_tset he
  exacts [hk, hc e he]

theorem State.MemOk.putSup (h : s.MemOk) {v : SupId} {k : Sup} (hk : k.memWf = true) : (s.setSup v k).MemOk := by
  obtain ⟨hc, hs, hd, hp⟩ := State.memOk_iff.1 h
  refine State.memOk_iff.2 ⟨hc, fun e he => ?_, hd, hp⟩
  obtain rfl | he := mem_tset he
  exacts [hk, hs e he]

theorem State.MemOk.putDie (h : s.MemOk) {d : DieId} {k : Die} (hk : k.memWf = true) : (s.setDie d k).MemOk := by
  obtain ⟨hc, hs, hd, hp⟩ := State.memOk_iff.1 h
  refine State.memOk_iff.2 ⟨hc, hs, fun e he => ?_, hp⟩
  obtain rfl | he := mem_tset he
  exacts [hk, hd e he]

theorem State.MemOk.putPkg (h : s.MemOk) {p : Nat} {k : Pkg} (hk : k.memWf = true) : (s.setPkg p k).MemOk := by
  obtain ⟨hc, hs, hd, hp⟩ := State.memOk_iff.1 h
  refine State.memOk_iff.2 ⟨hc, hs, hd, fun e he => ?_⟩
  obtain rfl | he := mem_tset he
  exacts [hk, hp e he]

theorem State.MemOk.putBanks (h : s.MemOk) {c : CoreId} {k : Core} (hm : Machine.memWf k.mem = true) (hw : k.window = (s.core c).window :=
  by rfl) :
    (s.setCore c k).MemOk := h.putCore (by rw [Core.memWf, hm, hw, h.window]; rfl)

theorem State.MemOk.putWindow (h : s.MemOk) {c : CoreId} {k : Core} (hw : Machine.memWf k.window = true) (hm : k.mem = (s.core c).mem :=
  by rfl) :
    (s.setCore c k).MemOk := h.putCore (by rw [Core.memWf, hm, hw, h.mem]; rfl)

theorem State.MemOk.putSupBanks (h : s.MemOk) {v : SupId} {k : Sup} (hm : Machine.memWf k.mem = true) (hw : k.window = (s.sup v).window :=
  by rfl) :
    (s.setSup v k).MemOk := h.putSup (by rw [Sup.memWf, hm, hw, h.supWindow]; rfl)

theorem State.MemOk.putSupWindow (h : s.MemOk) {v : SupId} {k : Sup} (hw : Machine.memWf k.window = true) (hm : k.mem = (s.sup v).mem :=
  by rfl) :
    (s.setSup v k).MemOk := h.putSup (by rw [Sup.memWf, hm, hw, h.supMem]; rfl)

theorem State.MemOk.putGallery (h : s.MemOk) {d : DieId} {k : Die} (hg : Machine.memWf k.gallery = true)
    (hc : k.codeStore = (s.die d).codeStore := by rfl) : (s.setDie d k).MemOk :=
  h.putDie (by rw [Die.memWf, hg, hc, h.codeStore]; rfl)

theorem State.MemOk.setCore (h : s.MemOk) {c : CoreId} {k : Core} (hm : k.mem = (s.core c).mem := by rfl)
    (hw : k.window = (s.core c).window := by rfl) : (s.setCore c k).MemOk :=
  h.putCore (by rw [Core.memWf, hm, hw]; exact h.core c)

theorem State.MemOk.modCore (h : s.MemOk) {c : CoreId} {f : Core → Core} (hm : ∀ k, (f k).mem = k.mem := by intro _; rfl)
    (hw : ∀ k, (f k).window = k.window := by intro _; rfl) : (s.modCore c f).MemOk := h.setCore (hm _) (hw _)

theorem State.MemOk.setSup (h : s.MemOk) {v : SupId} {k : Sup} (hm : k.mem = (s.sup v).mem := by rfl)
    (hw : k.window = (s.sup v).window := by rfl) : (s.setSup v k).MemOk :=
  h.putSup (by rw [Sup.memWf, hm, hw]; exact h.sup v)

theorem State.MemOk.modSup (h : s.MemOk) {v : SupId} {f : Sup → Sup} (hm : ∀ k, (f k).mem = k.mem := by intro _; rfl)
    (hw : ∀ k, (f k).window = k.window := by intro _; rfl) : (s.modSup v f).MemOk := h.setSup (hm _) (hw _)

theorem State.MemOk.setDie (h : s.MemOk) {d : DieId} {k : Die} (hg : k.gallery = (s.die d).gallery := by rfl)
    (hc : k.codeStore = (s.die d).codeStore := by rfl) : (s.setDie d k).MemOk :=
  h.putDie (by rw [Die.memWf, hg, hc]; exact h.die d)

theorem State.MemOk.modDie (h : s.MemOk) {d : DieId} {f : Die → Die} (hg : ∀ k, (f k).gallery = k.gallery := by intro _; rfl)
    (hc : ∀ k, (f k).codeStore = k.codeStore := by intro _; rfl) : (s.modDie d f).MemOk := h.setDie (hg _) (hc _)

theorem State.MemOk.setPkg (h : s.MemOk) {p : Nat} {k : Pkg} (hm : k.hostMem = (s.pkg p).hostMem := by rfl) : (s.setPkg p k).MemOk :=
  h.putPkg (by rw [Pkg.memWf, hm]; exact h.pkg p)

theorem State.MemOk.modPkg (h : s.MemOk) {p : Nat} {f : Pkg → Pkg} (hm : ∀ k, (f k).hostMem = k.hostMem := by intro _; rfl) :
    (s.modPkg p f).MemOk := h.setPkg (hm _)

/-- Every field but the tables of cores, supervisor cores, dies and packages replaced. -/

theorem State.MemOk.others (h : s.MemOk) {cycle uid freeNo phase : Nat} {agenda : List Due} {turn : List Agent} {cur : Agent} {iss : Issue}
    {ctxs : Tbl Agent Ctx} {slots nexts : Tbl SlotId Slot} {arbs : Tbl CoreId Arb} {clus : Tbl CluId Cluster} {reqs : List MemReq}
    {held : List HeldFlit} {rates : List PortRate} :
    State.MemOk {
      cycle := cycle, uid := uid, freeNo := freeNo, agenda := agenda, phase := phase, turn := turn, cur := cur, iss := iss,
      ctxs := ctxs, slots := slots, nexts := nexts, cores := s.cores, arbs := arbs, sups := s.sups, clus := clus,
      dies := s.dies, pkgs := s.pkgs, reqs := reqs, heldFlits := held, rates := rates } := h

theorem State.MemOk.ite {c : Prop} [Decidable c] (hs : s.MemOk) (ht : t.MemOk) : (if c then s else t).MemOk := by split <;> assumption

theorem State.MemOk.foldl {α : Type} {f : State → α → State} (h : s.MemOk) {l : List α} (hf : ∀ s x, s.MemOk → (f s x).MemOk) :
    (l.foldl f s).MemOk := by
  induction l generalizing s with
  | nil => exact h
  | cons x l ih => exact ih (hf s x h)

theorem outOk_ite {c : Prop} [Decidable c] {x y : Out} (hx : OutOk x) (hy : OutOk y) : OutOk (if c then x else y) := by
  split <;> assumption

/-- A fold that builds a list beside the state. -/

theorem State.MemOk.foldlFst {α β : Type} {f : State × β → α → State × β} {acc : State × β} (h : acc.1.MemOk) {l : List α}
    (hf : ∀ acc x, acc.1.MemOk → (f acc x).1.MemOk) : (l.foldl f acc).1.MemOk := by
  induction l generalizing acc with
  | nil => exact h
  | cons x l ih => exact ih (hf acc x h)

theorem State.MemOk.mapCores (h : s.MemOk) {f : CoreId × Core → CoreId × Core} (hf : ∀ e, e.2.memWf = true → (f e).2.memWf = true) :
    State.MemOk { s with cores := s.cores.map f } := by
  obtain ⟨hc, hs, hd, hp⟩ := State.memOk_iff.1 h
  refine State.memOk_iff.2 ⟨fun e he => ?_, hs, hd, hp⟩
  obtain ⟨x, hx, rfl⟩ := List.mem_map.1 he
  exact hf x (hc x hx)

theorem State.MemOk.mapDies (h : s.MemOk) {f : DieId × Die → DieId × Die} (hf : ∀ e, e.2.memWf = true → (f e).2.memWf = true) :
    State.MemOk { s with dies := s.dies.map f } := by
  obtain ⟨hc, hs, hd, hp⟩ := State.memOk_iff.1 h
  refine State.memOk_iff.2 ⟨hc, hs, fun e he => ?_, hp⟩
  obtain ⟨x, hx, rfl⟩ := List.mem_map.1 he
  exact hf x (hd x hx)

end Sys2Proof.Machine
end

section
/-! PROOF. Shared operations and syllables keep the canonical form of memory (O50). -/

namespace Sys2Proof.Machine

-- One declaration after the other: elaborated side by side, these many proofs hold more stacks than the check has memory for.
set_option Elab.async false

variable {s t : State}

/-! ## Results in flight, errors met, events, accesses to other cores, traps -/

theorem State.MemOk.setCtx (hs : s.MemOk) {a : Agent} {c : Ctx} : (s.setCtx a c).MemOk := hs.others

theorem State.MemOk.modCtx (hs : s.MemOk) {a : Agent} {f : Ctx → Ctx} : (s.modCtx a f).MemOk := hs.setCtx

theorem State.MemOk.modMe (hs : s.MemOk) {f : Ctx → Ctx} : (s.modMe f).MemOk := hs.modCtx

theorem State.MemOk.setSlot (hs : s.MemOk) {i : SlotId} {v : Slot} : (s.setSlot i v).MemOk := hs.others

theorem State.MemOk.modSlot (hs : s.MemOk) {i : SlotId} {f : Slot → Slot} : (s.modSlot i f).MemOk := hs.setSlot

theorem State.MemOk.setClu (hs : s.MemOk) {i : CluId} {v : Cluster} : (s.setClu i v).MemOk := hs.others

theorem State.MemOk.modClu (hs : s.MemOk) {i : CluId} {f : Cluster → Cluster} : (s.modClu i f).MemOk := hs.setClu

theorem State.MemOk.schedule (hs : s.MemOk) {cycle pri : Nat} {ev : Event} : (s.schedule cycle pri ev).MemOk := hs.others

theorem State.MemOk.tick1 (hs : s.MemOk) : s.tick1.MemOk := hs.others

theorem State.MemOk.nextFree (hs : s.MemOk) : s.nextFree.MemOk := hs.others

theorem State.MemOk.flyAs (hs : s.MemOk) {id : Nat} {a : Agent} {src : Src} {lat : Nat} {ws : List RegWrite} {flags : BitVec 6}
    {access : Option PortAccess} :
    (s.flyAs id a src lat ws flags access).MemOk :=
  hs.modCtx.schedule

theorem State.MemOk.fly (hs : s.MemOk) {a : Agent} {src : Src} {lat : Nat} {ws : List RegWrite} {flags : BitVec 6}
    {access : Option PortAccess} :
    (s.fly a src lat ws flags access).MemOk :=
  hs.flyAs.tick1

theorem State.MemOk.landAll (hs : s.MemOk) {a : Agent} : (s.landAll a).MemOk := hs.modCtx

theorem State.MemOk.countErrors (hs : s.MemOk) {d : DieId} {cor unc : Nat} : (s.countErrors d cor unc).MemOk := hs.modDie

theorem State.MemOk.countPartial (hs : s.MemOk) {d : DieId} {bad once : List Nat} {addr n : Nat} :
    (s.countPartial d bad once addr n).MemOk := by
  rw [State.countPartial]
  split
  · exact hs
  · exact hs.countErrors

theorem State.MemOk.meetCore (hs : s.MemOk) {c : CoreId} {addr n : Nat} : (s.meetCore c addr n).MemOk := by
  rw [State.meetCore]
  split
  · exact hs
  · exact hs.setCore.countErrors

theorem State.MemOk.meetDie (hs : s.MemOk) {d : DieId} {addr n : Nat} : (s.meetDie d addr n).MemOk := by
  rw [State.meetDie]
  split
  · exact hs
  · exact hs.setDie.countErrors

theorem State.MemOk.meetSup (hs : s.MemOk) {v : SupId} {addr n : Nat} : (s.meetSup v addr n).MemOk := by
  rw [State.meetSup]
  split
  · exact hs
  · exact hs.setSup.countErrors

theorem State.MemOk.meetLocal (hs : s.MemOk) {a : Agent} {addr n : Nat} : (s.meetLocal a addr n).MemOk := by
  unfold State.meetLocal
  split
  · exact hs.meetCore
  · exact hs.meetSup

theorem State.MemOk.meetRegs (hs : s.MemOk) {a : Agent} {ws : List Nat} : (s.meetRegs a ws).MemOk := by
  rw [State.meetRegs]
  split
  · exact hs
  · exact hs.modCtx.countErrors

theorem State.MemOk.readSaved (hs : s.MemOk) {i : SlotId} {addr n : Nat} : (s.readSaved i addr n).MemOk := by
  rw [State.readSaved]
  split
  · exact hs.meetDie
  · exact hs.meetDie.modCtx

theorem State.MemOk.setArb (hs : s.MemOk) {c : CoreId} {k : Arb} : (s.setArb c k).MemOk := hs.others

theorem State.MemOk.servePort (hs : s.MemOk) {a : Agent} {addr n : Nat} : (s.servePort a addr n).MemOk := hs.setArb

theorem State.MemOk.serveOther (hs : s.MemOk) {c : CoreId} {addr n : Nat} : (s.serveOther c addr n).MemOk := hs.setArb

theorem State.MemOk.serveLanding (hs : s.MemOk) {c : CoreId} {addr n : Nat} : (s.serveLanding c addr n).MemOk := hs.setArb

theorem State.MemOk.leaveWaits (hs : s.MemOk) {c : CoreId} {ev : Event} : (s.leaveWaits c ev).MemOk := by
  rw [State.leaveWaits]
  split
  · exact hs.setArb
  · exact hs

theorem State.MemOk.takeTurn (hs : s.MemOk) {c : CoreId} {addr n : Nat} {ev : Event} : (s.takeTurn c addr n ev).MemOk :=
  hs.serveOther.leaveWaits

theorem State.MemOk.loseTurn (hs : s.MemOk) {c : CoreId} {ev : Event} : (s.loseTurn c ev).MemOk := hs.setArb.schedule

theorem State.MemOk.queueEvent (hs : s.MemOk) {v : SupId} {e : Word} : (s.queueEvent v e).MemOk :=
  hs.modSup (fun _ => by split <;> rfl) (fun _ => by split <;> rfl)

theorem State.MemOk.tellManagement (hs : s.MemOk) {d : DieId} {e : Word} : (s.tellManagement d e).MemOk := hs.modPkg

theorem State.MemOk.dieEvent (hs : s.MemOk) {d : DieId} {code unit : Nat} {slot : Option SlotId} {aux addr : Nat} :
    (s.dieEvent d code unit slot aux addr).MemOk :=
  hs.queueEvent.tellManagement

theorem State.MemOk.packageEvent (hs : s.MemOk) {pkg code aux addr : Nat} : (s.packageEvent pkg code aux addr).MemOk :=
  hs.foldl fun _ _ hs => hs.dieEvent

theorem State.MemOk.meetOther (hs : s.MemOk) {d : DieId} {core : Option CoreId} {addr n : Nat} : (s.meetOther d core addr n).MemOk := by
  unfold State.meetOther
  split
  · exact hs.meetDie.foldl fun _ _ hs => hs.dieEvent
  · exact hs.meetCore.foldl fun _ _ hs => hs.dieEvent

theorem State.MemOk.putOther (hs : s.MemOk) {d : DieId} {core : Option CoreId} {addr : Nat} {data : List Byte} :
    (s.putOther d core addr data).MemOk := by
  cases core with
  | none =>
    rw [State.putOther]
    split
    · exact (hs.putGallery (by exact memWf_writeAround (hs.gallery d))).countPartial.dieEvent
    · exact (hs.putGallery (by exact memWf_writeAround (hs.gallery d))).countPartial
  | some c =>
    rw [State.putOther]
    split
    · exact (hs.putBanks (by exact memWf_writeAround (hs.mem c))).countPartial.dieEvent
    · exact (hs.putBanks (by exact memWf_writeAround (hs.mem c))).countPartial

theorem State.MemOk.xorOther (hs : s.MemOk) {d : DieId} {core : Option CoreId} {addr : Nat} {data : List Byte} :
    (s.xorOther d core addr data).MemOk := by
  have hmet := hs.meetOther (d := d) (core := core) (addr := addr) (n := data.length)
  cases core with
  | none => exact hmet.putGallery (by exact memWf_writeSound (hmet.gallery d))
  | some c => exact hmet.putBanks (by exact memWf_writeSound (hmet.mem c))

theorem State.MemOk.putPieces (hs : s.MemOk) {d : DieId} {base : Nat} {ps : List (Nat × List Byte)} : (s.putPieces d base ps).MemOk :=
  hs.putGallery (by exact memWf_writePieces (hs.gallery d))

theorem State.MemOk.storeLost (hs : s.MemOk) {a : Agent} {code unit addr : Nat} : (s.storeLost a code unit addr).MemOk := hs.dieEvent

theorem State.MemOk.writeBanks (hs : s.MemOk) {a : Agent} {addr : Nat} {data : List Byte} {full : Bool} :
    (s.writeBanks a addr data full).MemOk := by
  cases a with
  | stage i =>
    rw [State.writeBanks]
    split
    · exact (hs.putBanks (by exact memWf_writeAround (hs.mem i.core))).countPartial.storeLost
    · exact (hs.putBanks (by exact memWf_writeAround (hs.mem i.core))).countPartial
  | sup v =>
    rw [State.writeBanks]
    split
    · exact (hs.putSupBanks (by exact memWf_writeAround (hs.supMem v))).countPartial.storeLost
    · exact (hs.putSupBanks (by exact memWf_writeAround (hs.supMem v))).countPartial

theorem State.MemOk.flushStores (hs : s.MemOk) {a : Agent} : (s.flushStores a).MemOk := by
  have hwritten := hs.foldl (l := s.pendingStores a) (fun _ st hs => hs.writeBanks (a := a) (addr := st.addr) (data := st.data)
    (full := st.setFull))
  cases a with
  | stage i => exact hwritten.modCore
  | sup v => exact hwritten.modSup

theorem State.MemOk.backInvalidate (hs : s.MemOk) {pkg : Nat} {lines : List Nat} {write : Bool} :
    (s.backInvalidate pkg lines write).MemOk :=
  hs.modPkg

theorem State.MemOk.captureNow (hs : s.MemOk) {i : SlotId} {t : TrapRec} {pc : Nat} : (s.captureNow i t pc).MemOk :=
  hs.landAll.flushStores.meetRegs.putPieces.modSlot

theorem State.MemOk.tryCapture (hs : s.MemOk) {i : SlotId} : (s.tryCapture i).MemOk := by
  unfold State.tryCapture
  split
  · split
    · exact hs.captureNow
    · split
      · exact hs
      · exact hs.backInvalidate
  · exact hs

theorem State.MemOk.withdraw (hs : s.MemOk) {a : Agent} : (s.withdraw a).MemOk := by
  rw [State.withdraw]
  split
  · exact hs.modDie
  · exact hs

theorem State.MemOk.trapStage (hs : s.MemOk) {i : SlotId} {cause : Nat} {value : Word} {addr pc : Nat} {waiting oow : Bool} :
    (s.trapStage i cause value addr pc waiting oow).MemOk :=
  hs.modSlot.modSup.modClu.withdraw.modCtx.tryCapture

theorem State.MemOk.supFault (hs : s.MemOk) {v : SupId} {cause addr : Nat} : (s.supFault v cause addr).MemOk :=
  hs.landAll.flushStores.withdraw.modSup.modSup.queueEvent.tellManagement

theorem State.MemOk.landed (hs : s.MemOk) {a : Agent} : (s.landed a).MemOk := hs.modCtx

theorem State.MemOk.trapBefore (hs : s.MemOk) {a : Agent} {cause : Nat} {value : Word} : (s.trapBefore a cause value).MemOk := by
  cases a with
  | stage i => exact hs.landed.trapStage
  | sup v => exact hs.landed.supFault

theorem State.MemOk.trapAt (hs : s.MemOk) {rank cause : Nat} {value : Word} {pc : Nat} {waiting : Bool} :
    (s.trapAt rank cause value pc waiting).MemOk :=
  State.MemOk.others (by split; exacts [hs.trapStage, hs.supFault])

theorem State.MemOk.raise (hs : s.MemOk) {rank cause : Nat} {value : Word} : (s.raise rank cause value).MemOk := hs.trapAt

/-! ## Issue -/

theorem State.MemOk.nextX (hs : s.MemOk) {d : BitVec 6} {w : Word} : (s.nextX d w).MemOk := hs.fly

theorem State.MemOk.nextM (hs : s.MemOk) {d : BitVec 6} {w : Word} : (s.nextM d w).MemOk := hs.fly

theorem State.MemOk.stall (hs : s.MemOk) : s.stall.MemOk := hs.others

theorem State.MemOk.unjudged (hs : s.MemOk) : s.unjudged.MemOk := hs.others

theorem State.MemOk.hold (hs : s.MemOk) : s.hold.MemOk := by
  rw [State.hold]
  split
  · exact hs.modSlot.modMe.others
  · exact hs.modMe.others

theorem freeLast_gallery (own : Agent) (tag : Nat) (k : Die) : (freeLast own tag k).gallery = k.gallery := by
  rw [freeLast]
  split
  · rfl
  · split <;> rfl

theorem freeLast_codeStore (own : Agent) (tag : Nat) (k : Die) : (freeLast own tag k).codeStore = k.codeStore := by
  rw [freeLast]
  split
  · rfl
  · split <;> rfl

theorem State.MemOk.consumeTag (hs : s.MemOk) {a : Agent} {tag : Nat} : (s.consumeTag a tag).MemOk :=
  hs.modCtx.modDie (freeLast_gallery a tag) (freeLast_codeStore a tag)

theorem State.MemOk.consumeWaited (hs : s.MemOk) : s.consumeWaited.MemOk := by
  rw [State.consumeWaited]
  split
  · exact hs
  · exact (hs.foldl (fun _ _ hs => hs.consumeTag)).modMe

theorem State.MemOk.enter (hs : s.MemOk) {g : BitVec 4} {r : Regs} : (s.enter g r).MemOk := hs.meetRegs.consumeWaited

theorem State.MemOk.stallOn (hs : s.MemOk) {tags : List Nat} : (s.stallOn tags).MemOk := hs.modMe.stall

theorem State.MemOk.takeTag (hs : s.MemOk) {tag : Nat} {v : Option (BitVec 5)} : (s.takeTag tag v).MemOk := hs.modMe.others

theorem outOk_issue {y : Syl} (hy : y.MemOk) (hs : s.MemOk) : OutOk (issue y s) := by
  rw [issue]
  split
  · exact hs.raise
  split
  · exact hs.raise
  split
  · exact hs.unjudged
  split
  · exact hs.meetRegs
  split
  · exact hs.unjudged
  split
  · exact hs.raise
  split
  · exact hs.stall
  split
  · exact hs.stallOn
  have hwait := hy.wait s
  split
  case h_1 => exact hy.act _ hs.enter
  case h_2 => exact hs.stall
  case h_3 => exact hs.stallOn
  case h_4 pre hpre =>
    rw [hpre] at hwait
    exact (hwait s hs).hold

/-! ## Scalar syllables -/

theorem sylOk_scalar {p : BitVec 4} {r : Regs} {src : Src} {lat : Nat} {f : State → List RegWrite × BitVec 6} :
    (scalarSyl p r src lat f).MemOk where
  act _ hs := hs.fly
  wait s := by
    simp only [scalarSyl]
    split <;> trivial

theorem State.MemOk.advanceCtr (hs : s.MemOk) {n : Nat} : (s.advanceCtr n).MemOk := hs.modMe

/-! ## Vector syllables -/

theorem State.MemOk.vecExecute (hs : s.MemOk) {a : Agent} {h : Held} {y : VecSem} : (s.vecExecute a h y).MemOk := hs.flyAs

theorem sylOk_vec {p : BitVec 4} {i : Instr} {y : VecSem} {s : State} : (vecSyl p i y s).MemOk where
  act u hu := by
    refine State.MemOk.advanceCtr (State.MemOk.tick1 ?_)
    split
    · exact hu.modMe
    · exact hu.vecExecute

theorem outOk_execHeldSyllableExecutes (hs : s.MemOk) {a : Agent} : OutOk (execHeldSyllableExecutes a s) := by
  unfold execHeldSyllableExecutes
  split
  · trivial
  · split
    · trivial
    · exact hs.modCtx.vecExecute.foldl fun _ _ hs => hs.consumeTag

/-! ## The matrix unit -/

theorem State.MemOk.modMyCore (hs : s.MemOk) {f : Core → Core} (hm : ∀ k, (f k).mem = k.mem := by intro _; rfl)
    (hw : ∀ k, (f k).window = k.window := by intro _; rfl) : (s.modMyCore f).MemOk := by
  unfold State.modMyCore
  split
  · exact hs.modCore hm hw
  · exact hs

theorem sylOk_mat {p : BitVec 4} {i : Instr} {r : Regs} {ok : Bool} {xval : State → Word} {after : State → Held → State}
    (hafter : ∀ u h, u.MemOk → (after u h).MemOk) : (matSyl p i r ok xval s after).MemOk where
  act _ hu := hafter _ _ hu.tick1
  wait u := by
    simp only [matSyl]
    split <;> trivial

theorem State.MemOk.enqueueMat (hs : s.MemOk) {h : Held} : (s.enqueueMat h).MemOk := hs.modMe

theorem State.MemOk.markUsed (hs : s.MemOk) : s.markUsed.MemOk := hs.modMe

theorem State.MemOk.setAccTag (hs : s.MemOk) {a : BitVec 2} {n : Nat} : (s.setAccTag a n).MemOk := hs.modMyCore

theorem State.MemOk.setTileTag (hs : s.MemOk) {t : BitVec 3} {n : Nat} : (s.setTileTag t n).MemOk := hs.modMyCore

theorem State.MemOk.startRun (hs : s.MemOk) {i : SlotId} {acc tile : Option Nat} {due : Nat} {flags : BitVec 6} {lm : Bool}
    {bank : Option Bool} : (s.startRun i acc tile due flags lm bank).MemOk := by
  cases acc <;> cases tile
  · exact hs.modCore.tick1
  · exact hs.modCore.tick1.schedule
  · exact hs.modCore.tick1.schedule
  · exact hs.modCore.tick1.schedule.schedule

theorem State.MemOk.matCheck (hs : s.MemOk) {i : SlotId} {bad : Option Nat} : (s.matCheck i bad).MemOk := by
  unfold State.matCheck
  split
  · exact hs
  · exact hs.modCtx

theorem State.MemOk.meetMat (hs : s.MemOk) {i : SlotId} {ws : List Nat} : (s.meetMat i ws).1.MemOk := by
  simp only [State.meetMat]
  split
  · exact hs
  · split
    · exact hs.setCore.countErrors.modCtx
    · exact hs.setCore.countErrors

theorem State.MemOk.meetSpans (hs : s.MemOk) {c : CoreId} {ss : List Span} : (s.meetSpans c ss).MemOk := by
  rw [State.meetSpans]
  split
  · exact hs
  · exact hs.foldl fun _ _ hs => hs.meetCore

/-- A fold over one core that keeps its memories. -/
theorem foldl_sameMem {α : Type} {f : Core → α → Core} (hm : ∀ k x, (f k x).mem = k.mem) (hw : ∀ k x, (f k x).window = k.window)
    (l : List α) (k : Core) : (l.foldl f k).mem = k.mem ∧ (l.foldl f k).window = k.window := by
  induction l generalizing k with
  | nil => exact ⟨rfl, rfl⟩
  | cons x l ih => exact ⟨(ih _).1.trans (hm k x), (ih _).2.trans (hw k x)⟩

theorem slip_sameMem (k : Core) (m : MatSteps) : (k.slip m).mem = k.mem ∧ (k.slip m).window = k.window := by
  rw [Core.slip]
  repeat' split
  all_goals exact ⟨rfl, rfl⟩

theorem State.MemOk.slipMat (hs : s.MemOk) {c : CoreId} {m : MatSteps} : (s.slipMat c m).MemOk := by
  have hdrain := foldl_sameMem (f := Core.slipDrain) (fun _ _ => rfl) (fun _ _ => rfl)
  have hread := foldl_sameMem (f := fun k (e : Drain) => k.slipRead e.acc) (fun _ _ => rfl) (fun _ _ => rfl)
  obtain ⟨hmem, hwindow⟩ := slip_sameMem (s.core c) m
  exact (hs.setCore (by exact (hread ..).1.trans ((hdrain ..).1.trans hmem))
    (by exact (hread ..).2.trans ((hdrain ..).2.trans hwindow))).others

theorem State.MemOk.stepWrite (hs : s.MemOk) {c : CoreId} {m : MatSteps} : (s.stepWrite c m).MemOk := by
  unfold State.stepWrite
  split
  · exact (hs.foldl (fun _ _ hs => hs.writeBanks)).modSlot
  · exact hs

theorem State.MemOk.stepMat (hs : s.MemOk) {c : CoreId} {id : Nat} : (s.stepMat c id).MemOk := by
  unfold State.stepMat
  split
  · exact hs
  · split
    · exact hs.modCore
    · split
      · exact hs
      · split
        · exact hs.slipMat
        · exact hs.setArb.stepWrite.modCore

theorem State.MemOk.stepCore (hs : s.MemOk) {c : CoreId} {from_ : Nat} : (s.stepCore c from_).MemOk :=
  hs.foldl (fun _ _ hs => hs.foldl (fun _ _ hs => hs.stepMat))

theorem State.MemOk.startSteps (hs : s.MemOk) {c : CoreId} {m : MatSteps} : (s.startSteps c m).MemOk := hs.modCore

theorem mendMat_mem (k : Core) (ws : List Nat) : (k.mendMat ws).mem = k.mem := by
  rw [Core.mendMat]
  split <;> rfl

theorem mendMat_window (k : Core) (ws : List Nat) : (k.mendMat ws).window = k.window := by
  rw [Core.mendMat]
  split <;> rfl

theorem mend_mem {p : Prop} [Decidable p] (k : Core) (ws : List Nat) : (if p then k else k.mendMat ws).mem = k.mem := by
  split
  · rfl
  · exact mendMat_mem k ws

theorem mend_window {p : Prop} [Decidable p] (k : Core) (ws : List Nat) : (if p then k else k.mendMat ws).window = k.window := by
  split
  · rfl
  · exact mendMat_window k ws

theorem State.MemOk.runMm (hs : s.MemOk) {i : SlotId} {h : Held} {d : Desc} : (s.runMm i h d).MemOk :=
  (hs.meetSpans.meetMat.setCore (by exact mend_mem ..) (by exact mend_window ..)).matCheck.startRun.startSteps.foldl
    (fun _ _ hs => hs.consumeTag)

theorem State.MemOk.runMmW (hs : s.MemOk) {i : SlotId} {h : Held} {d : Desc} : (s.runMmW i h d).MemOk :=
  (hs.meetSpans.setCore (by exact mend_mem ..) (by exact mend_window ..)).matCheck.startRun.startSteps

theorem State.MemOk.startDrain (hs : s.MemOk) {i : SlotId} {e : Drain} : (s.startDrain i e).MemOk := hs.modSlot.tick1

theorem State.MemOk.runMmD (hs : s.MemOk) {i : SlotId} {h : Held} {d : Desc} : (s.runMmD i h d).MemOk :=
  .ite hs.meetMat.setCore.startDrain.schedule hs.meetMat.setCore.startDrain.schedule

theorem State.MemOk.runMmAr (hs : s.MemOk) {i : SlotId} {h : Held} {d : Desc} : (s.runMmAr i h d).MemOk :=
  hs.meetMat.setCore.startDrain.schedule.startSteps

theorem State.MemOk.runMmAw (hs : s.MemOk) {i : SlotId} {h : Held} {d : Desc} : (s.runMmAw i h d).MemOk :=
  (hs.meetSpans.setCore (by exact mend_mem ..) (by exact mend_window ..)).matCheck.startRun.startSteps

theorem State.MemOk.meetDesc (hs : s.MemOk) {i : SlotId} {h : Held} : (s.meetDesc i h).MemOk := by
  rw [State.meetDesc]
  split
  · exact hs.meetRegs
  · exact hs.meetRegs.modCtx

theorem State.MemOk.dispatchMat (hs : s.MemOk) {i : SlotId} {h : Held} : (s.dispatchMat i h).MemOk := by
  simp only [State.dispatchMat]
  split
  · exact hs.meetDesc.runMm
  · exact hs.meetDesc.runMmD
  · exact hs.meetDesc.modCore (by exact fun _ => mendMat_mem ..) (by exact fun _ => mendMat_window ..)
  · exact hs.meetDesc.runMmW
  · exact hs.meetDesc.runMmAr
  · exact hs.meetDesc.runMmAw
  · exact hs.meetDesc.fly
  · exact hs.meetDesc.modCtx

theorem outOk_execMatDispatch (hs : s.MemOk) {i : SlotId} : OutOk (execMatDispatch i s) := by
  unfold execMatDispatch
  split
  · trivial
  · split
    · exact hs.modCtx.dispatchMat
    · exact hs

theorem State.MemOk.endRun (hs : s.MemOk) {c : CoreId} {r : MatRun} : (s.endRun c r).MemOk := hs.modCore.modCtx

theorem outOk_execAccumulatorLanded (hs : s.MemOk) {c : CoreId} {acc : Nat} : OutOk (execAccumulatorLanded c acc s) := by
  unfold execAccumulatorLanded
  split
  · split
    · exact hs.schedule
    · exact hs.endRun
  · trivial

theorem outOk_execTileFillDone (hs : s.MemOk) {i : SlotId} {tile : Nat} : OutOk (execTileFillDone i tile s) := by
  unfold execTileFillDone
  split
  · split
    · exact hs.schedule
    · exact hs.endRun.modCtx
  · trivial

theorem outOk_execMmArWriteDone (hs : s.MemOk) {i : SlotId} {id : Nat} : OutOk (execMmArWriteDone i id s) := by
  unfold execMmArWriteDone
  split
  · split
    · exact hs.schedule
    · exact (hs.foldl (fun _ _ hs => hs.writeBanks)).modSlot.modCtx
  · trivial

/-! ## Control syllables -/

theorem State.MemOk.branch (hs : s.MemOk) {target : ℤ} {delay : Nat} : (s.branch target delay).MemOk := hs.others

theorem State.MemOk.push (hs : s.MemOk) : s.push.MemOk := hs.modMe

theorem State.MemOk.unmapPage (hs : s.MemOk) {c : CoreId} {page : Nat} : (s.unmapPage c page).MemOk := hs.modCore

theorem State.MemOk.meetStore (hs : s.MemOk) {d : DieId} {addr : Nat} : (s.meetStore d addr).MemOk := by
  rw [State.meetStore]
  split
  · exact hs
  · exact hs.modDie.countErrors

theorem State.MemOk.mapPage (hs : s.MemOk) {c : CoreId} {page : Nat} : (s.mapPage c page).MemOk := by
  unfold State.mapPage
  split
  · exact hs
  · split
    · exact hs.countErrors.dieEvent
    · refine State.MemOk.putWindow hs.meetStore ?_ rfl
      dsimp only
      exact memWf_memWrite _ _ (hs.meetStore.window c)

theorem State.MemOk.showMap (hs : s.MemOk) {c : CoreId} : (s.showMap c).MemOk :=
  hs.foldl (fun _ _ hs => hs.modSup (fun _ => by split <;> [split; skip] <;> rfl) (fun _ => by split <;> [split; skip] <;> rfl))

theorem outOk_execCodemapMapPage (hs : s.MemOk) {c : CoreId} {page : Nat} : OutOk (execCodemapMapPage c page s) := hs.mapPage.showMap

theorem outOk_execCodemapUnmapPage (hs : s.MemOk) {c : CoreId} {page : Nat} : OutOk (execCodemapUnmapPage c page s) :=
  hs.unmapPage.showMap

theorem State.MemOk.writeCodemap (hs : s.MemOk) {v : SupId} {w : Word} : (s.writeCodemap v w).MemOk := by
  unfold State.writeCodemap
  split
  · exact hs
  · exact ((hs.foldl (fun _ _ hs => hs.schedule)).foldl (fun _ _ hs => hs.schedule)).modCtx

theorem State.MemOk.writeSupCr (hs : s.MemOk) {v : SupId} {x : Nat} {w : Word} : (s.writeSupCr v x w).MemOk := by
  unfold State.writeSupCr
  split
  · exact hs.modSup
  · exact hs.modSup
  · exact hs.modSup
  · exact hs.modSup
  · exact hs.modSup
  · exact hs.writeCodemap

/-! ## The memory port and local memory -/

theorem State.MemOk.setEmpties (hs : s.MemOk) {a : Agent} {l : List Nat} : (s.setEmpties a l).MemOk := by
  unfold State.setEmpties
  split
  · exact hs.modCore
  · exact hs.modSup

theorem State.MemOk.sendStore (hs : s.MemOk) {a : Agent} {addr : Nat} {data : List Byte} {full : Bool} :
    (s.sendStore a addr data full).MemOk :=
  State.MemOk.tick1 (State.MemOk.schedule (by split; exacts [hs.modCore, hs.modSup]))

theorem memOk_arWait {a : State → Int} {n : Nat} : (arWait a n s).MemOk := by
  rw [arWait]
  split <;> trivial

theorem State.MemOk.portAccess (hs : s.MemOk) {a : Agent} {id : Nat} {p : PortAccess} : (s.portAccess a id p).1.MemOk := by
  rw [State.portAccess]
  split
  · exact hs.servePort.meetLocal.modCtx
  · split
    · exact hs.servePort.meetLocal
    · exact hs.servePort.meetLocal.writeBanks

theorem State.MemOk.startAccess (hs : s.MemOk) {p : PortAccess} : (s.startAccess p).MemOk := by
  have haccess := hs.portAccess (a := s.cur) (id := s.uid) (p := p)
  rw [State.startAccess]
  split
  · split <;> rename_i heq <;> rw [heq] at haccess
    · exact haccess.fly
    · exact haccess
  · exact hs.modCtx.schedule.tick1

theorem State.MemOk.loadLocal (hs : s.MemOk) {addr n lat : Nat} {d : Dest} : (s.loadLocal addr n lat d).MemOk := hs.startAccess

theorem sylOk_load {p : BitVec 4} {d a : BitVec 6} {z : BitVec 2} {i : Opnd 4} {signed : Bool} :
    (loadSyl p d a z i signed).MemOk where
  act _ hs := hs.loadLocal
  wait _ := by
    simp only [loadSyl]
    exact memOk_arWait

theorem memOk_bitWait {a : State → Int} {n : Nat} {full changes : Bool} : (bitWait a n full changes s).MemOk := by
  rw [bitWait]
  split
  · trivial
  · split
    · exact fun _ hu => hu
    · trivial

theorem outOk_landFlight (hs : s.MemOk) {a : Agent} {id : Nat} : OutOk (s.landFlight a id) := by
  unfold State.landFlight
  split
  · exact hs.modCtx
  · trivial

theorem outOk_execScalarResultLand (hs : s.MemOk) {a : Agent} {id : Nat} : OutOk (execScalarResultLand a id s) := outOk_landFlight hs

theorem outOk_execVectorResultLand (hs : s.MemOk) {a : Agent} {id : Nat} : OutOk (execVectorResultLand a id s) := outOk_landFlight hs

theorem State.MemOk.retryAccess (hs : s.MemOk) {a : Agent} {f : Flight} {p : PortAccess} : (s.retryAccess a f p).MemOk := by
  have haccess := hs.portAccess (a := a) (id := f.id) (p := p)
  rw [State.retryAccess]
  split
  · split <;> rename_i heq <;> rw [heq] at haccess
    · exact haccess.modCtx.schedule
    · exact haccess.modCtx
  · exact hs.schedule

theorem outOk_execLocalLoadLand (hs : s.MemOk) {a : Agent} {id : Nat} : OutOk (execLocalLoadLand a id s) := by
  unfold execLocalLoadLand
  split
  · trivial
  · split
    · exact hs.retryAccess
    · split
      · exact hs.schedule
      · exact outOk_landFlight hs

theorem State.MemOk.dropStore (hs : s.MemOk) {a : Agent} {id : Nat} : (s.dropStore a id).MemOk := by
  unfold State.dropStore
  split
  · exact hs.modCore
  · exact hs.modSup

theorem outOk_execLocalStoreWritten (hs : s.MemOk) {a : Agent} {id : Nat} : OutOk (execLocalStoreWritten a id s) := by
  unfold execLocalStoreWritten
  split
  · split
    · exact hs.dropStore.servePort.writeBanks
    · exact hs.schedule
  · trivial

end Sys2Proof.Machine
end

section
/-! PROOF. Firings, packets, routes and phasers keep the canonical form of memory (O50). -/

namespace Sys2Proof.Machine

-- One declaration after the other: elaborated side by side, these many proofs hold more stacks than the check has memory for.
set_option Elab.async false

variable {s t : State}

/-! ## Phasers and barriers -/

theorem State.MemOk.advancePhaser (hs : s.MemOk) {c : CluId} {n : Nat} : (s.advancePhaser c n).MemOk := by
  rw [State.advancePhaser]
  split
  · exact hs.setClu
  · exact hs.setClu.foldl fun _ _ hs => hs.schedule

theorem State.MemOk.takeSignal (hs : s.MemOk) {i : SlotId} {n : Nat} : (s.takeSignal i n).MemOk := by
  rw [State.takeSignal]
  split
  · exact hs
  · exact hs.setClu.advancePhaser

theorem State.MemOk.dropMember (hs : s.MemOk) {i : SlotId} {n : Nat} : (s.dropMember i n).MemOk := by
  rw [State.dropMember]
  split
  · exact hs
  · exact hs.setClu.advancePhaser

theorem State.MemOk.checkBarrier (hs : s.MemOk) {c : CluId} : (s.checkBarrier c).MemOk := by
  rw [State.checkBarrier]
  split
  · exact hs.setClu.foldl fun _ _ hs => hs.schedule
  · exact hs

theorem State.MemOk.leaveSync (hs : s.MemOk) {i : SlotId} : (s.leaveSync i).MemOk := (hs.foldl (fun _ _ hs => hs.dropMember)).checkBarrier

theorem State.MemOk.meetEngine (hs : s.MemOk) {c : CluId} : (s.meetEngine c).MemOk := by
  rw [State.meetEngine]
  split
  · exact hs
  · exact hs.setClu.countErrors.foldl fun _ _ hs => hs.dieEvent

theorem State.MemOk.beginSync (hs : s.MemOk) {notified : Option Nat} : (s.beginSync notified).MemOk := by
  unfold State.beginSync
  split
  · exact hs
  · exact hs.modMe

theorem State.MemOk.endSync (hs : s.MemOk) : s.endSync.MemOk := hs.modMe

theorem State.MemOk.sendSignal (hs : s.MemOk) {ph : Option Nat} : (s.sendSignal ph).MemOk := hs.modClu.schedule

theorem State.MemOk.enterWait (hs : s.MemOk) {n : Nat} : (s.enterWait n).MemOk := by
  rw [State.enterWait]
  split
  · exact hs.beginSync
  · split
    · exact hs.modClu.beginSync
    · exact hs

theorem State.MemOk.endWait (hs : s.MemOk) {d : BitVec 6} {n : Nat} : (s.endWait d n).MemOk := by
  unfold State.endWait
  split
  · exact hs.modClu.endSync.nextM
  · exact hs

theorem memOk_phWaitFor {n : Nat} {pre : State → State} (hpre : ∀ u, u.MemOk → (pre u).MemOk) : (phWaitFor n pre s).MemOk := by
  rw [phWaitFor]
  split
  · trivial
  · exact fun u hu => .ite hu (hpre u hu).enterWait

theorem State.MemOk.modMySlot (hs : s.MemOk) {f : Slot → Slot} : (s.modMySlot f).MemOk := by
  unfold State.modMySlot
  split
  · exact hs.modSlot
  · exact hs

theorem State.MemOk.leaveBarrier (hs : s.MemOk) {a : Agent} : (s.leaveBarrier a).MemOk := by
  unfold State.leaveBarrier
  split
  · split
    · exact hs.modSlot
    · exact hs
  · exact hs

theorem State.MemOk.arrive (hs : s.MemOk) : s.arrive.MemOk := by
  rw [State.arrive]
  split
  · exact hs.modMySlot.sendSignal.beginSync
  · exact hs.modMySlot.beginSync

theorem outOk_engineTakes (hs : s.MemOk) {i : SlotId} {ph : Option Nat} {again : Event} {take : State → State}
    (htake : ∀ u, u.MemOk → (take u).MemOk) : OutOk (s.engineTakes i ph again take) := by
  simp only [State.engineTakes]
  split
  · trivial
  · split
    · exact htake _ hs.modClu
    · exact hs.schedule

theorem outOk_execPhaserSignalArrival (hs : s.MemOk) {i : SlotId} {n : Nat} : OutOk (execPhaserSignalArrival i n s) :=
  outOk_engineTakes hs (fun _ hu => hu.takeSignal)

theorem outOk_execBarrierArrival (hs : s.MemOk) {i : SlotId} : OutOk (execBarrierArrival i s) :=
  outOk_engineTakes hs (fun _ hu => hu.modClu.checkBarrier)

theorem outOk_notify (hs : s.MemOk) {i : SlotId} : OutOk (s.notify i) := by
  unfold State.notify
  split
  · trivial
  · exact hs.modCtx

theorem outOk_execPhaserAdvanceDelivery (hs : s.MemOk) {i : SlotId} {n : Nat} : OutOk (execPhaserAdvanceDelivery i n s) := by
  rw [execPhaserAdvanceDelivery]
  split
  · exact outOk_notify hs
  · trivial

theorem outOk_execBarrierCompletionDelivery (hs : s.MemOk) {i : SlotId} : OutOk (execBarrierCompletionDelivery i s) := by
  rw [execBarrierCompletionDelivery]
  split
  · exact outOk_notify hs
  · trivial

/-! ## Messages between dies -/

theorem State.MemOk.dropAt (hs : s.MemOk) {pkg port src : Nat} : (s.dropAt pkg port src).MemOk := .ite hs.modPkg.dieEvent hs.modPkg

theorem State.MemOk.dropMsg (hs : s.MemOk) {src dst : Nat} : (s.dropMsg src dst).MemOk := hs.dropAt

theorem State.MemOk.answer (hs : s.MemOk) {a : Agent} {n : Nat} {w : Word} {trap : Option (Nat × Word)} : (s.answer a n w trap).MemOk :=
  hs.modCtx.schedule

theorem State.MemOk.rejectToken (hs : s.MemOk) {ev : Event} {n cause reason : Nat} : (s.rejectToken ev n cause reason).MemOk := by
  unfold State.rejectToken
  split
  · exact hs.foldl (fun _ _ hs => by split; exacts [(State.MemOk.ite hs.answer hs), hs])
  · exact hs

theorem State.MemOk.noWay (hs : s.MemOk) {base pri : Nat} {ev : Event} : (s.noWay base pri ev).MemOk := by
  unfold State.noWay
  split
  · exact hs.rejectToken
  · exact hs.others.schedule

theorem State.MemOk.sendClass (hs : s.MemOk) {cls : Nat} {src dst : DieId} {base trips pri : Nat} {ev : Event} :
    (s.sendClass cls src dst base trips pri ev).MemOk := by
  rw [State.sendClass]
  split
  · split
    · exact hs.dropMsg.rejectToken
    · split
      · exact hs.others
      · exact hs.schedule
  · exact hs.others
  · exact hs.noWay

theorem State.MemOk.sendTrips (hs : s.MemOk) {src dst : DieId} {base trips pri : Nat} {ev : Event} :
    (s.sendTrips src dst base trips pri ev).MemOk :=
  hs.sendClass

theorem State.MemOk.sendManage (hs : s.MemOk) {src dst : DieId} {ev : Event} : (s.sendManage src dst ev).MemOk := hs.sendClass

theorem State.MemOk.sendFlit (hs : s.MemOk) {src dst : DieId} {base pri : Nat} {ev : Event} : (s.sendFlit src dst base pri ev).MemOk :=
  hs.sendTrips

theorem State.MemOk.retryFlits (hs : s.MemOk) : s.retryFlits.MemOk := hs.others.foldl fun _ _ hs => hs.sendClass

theorem State.MemOk.sendFree (hs : s.MemOk) {cls a b : Nat} {ev : Event} : (s.sendFree cls a b ev).MemOk := by
  unfold State.sendFree
  split
  · split
    · exact hs.dropMsg
    · exact hs.schedule
  · exact hs
  · exact hs

/-! ## Packets and credits -/

theorem State.MemOk.launchPacket (hs : s.MemOk) {i : SlotId} {n : Nat} {k : Packet} : (s.launchPacket i n k).MemOk := by
  unfold State.launchPacket
  split
  · exact hs
  · exact hs.modSlot.sendFlit

theorem State.MemOk.sendCredit (hs : s.MemOk) {i : SlotId} {ch : Chan} {num : BitVec 32} : (s.sendCredit i ch num).MemOk := hs.sendFlit

theorem State.MemOk.retain (hs : s.MemOk) {i : SlotId} {n : Nat} {k : Packet} : (s.retain i n k).MemOk := hs.putPieces

theorem State.MemOk.makePacket (hs : s.MemOk) {i : SlotId} {n kind : Nat} {packed : Bool} {round : BitVec 32} {user : Word}
    {payload : List Byte} :
    (s.makePacket i n kind packed round user payload).1.MemOk := by
  unfold State.makePacket
  split
  · exact hs
  · exact hs.setSlot.retain

theorem State.MemOk.sendMarker (hs : s.MemOk) {i : SlotId} {n kind : Nat} : (s.sendMarker i n kind).MemOk := by
  rw [State.sendMarker]
  split
  · exact hs.makePacket.modSlot.modSlot.tick1
  · exact hs.makePacket.modSlot.launchPacket

theorem State.MemOk.copyTurn (hs : s.MemOk) {i : SlotId} : (s.copyTurn i).MemOk := by
  unfold State.copyTurn
  split
  · exact hs
  · split
    · exact hs
    · split
      · exact hs.servePort.modSlot
      · exact hs.modSlot.modCore

theorem State.MemOk.copyTurns (hs : s.MemOk) : s.copyTurns.MemOk := hs.foldl fun _ _ hs => hs.copyTurn

theorem outOk_execEmitCopyDone (hs : s.MemOk) {i : SlotId} {id : Nat} : OutOk (execEmitCopyDone i id s) := by
  unfold execEmitCopyDone
  split
  · trivial
  · split
    · exact hs.schedule
    · exact hs.modSlot.foldl fun _ _ hs => hs.launchPacket

theorem State.MemOk.doEmit (hs : s.MemOk) {d a : BitVec 6} {n : Nat} {packed row : Bool} : (s.doEmit d a n packed row).MemOk := by
  unfold State.doEmit
  extract_lets i xa len m s₁ s₂ r start done s₃ s₄
  have h₁ : s₁.MemOk := hs.meetLocal
  have h₂ : s₂.MemOk := by
    dsimp only [s₂]
    split
    · exact h₁.modMe
    · exact h₁
  have h₃ : s₃.MemOk := h₂.makePacket.modCore.modSlot
  have h₄ : s₄.MemOk := .ite h₃.copyTurn h₃
  exact h₄.schedule.tick1.nextX

theorem State.MemOk.leaveActive (hs : s.MemOk) {i : SlotId} : (s.leaveActive i).MemOk := hs.leaveSync.modDie

theorem State.MemOk.settleFaults (hs : s.MemOk) {i : SlotId} : (s.settleFaults i).MemOk := by
  rw [State.settleFaults]
  split
  · exact hs.setSlot.leaveActive
  · exact hs

theorem State.MemOk.stageEvent (hs : s.MemOk) {i : SlotId} {e : StageEvent} {port : Nat} : (s.stageEvent i e port).MemOk :=
  hs.dieEvent.modSlot.settleFaults

theorem State.MemOk.receive (hs : s.MemOk) {dst : PortId} {k : Packet} : (s.receive dst k).MemOk := by
  simp only [State.receive]
  split
  · exact hs.stageEvent
  split
  · exact hs.stageEvent
  split
  · exact hs.sendCredit
  split <;> [refine State.MemOk.stageEvent ?_; skip]
  all_goals
    split <;> [refine State.MemOk.sendCredit ?_; skip]
    all_goals
      split <;> [refine State.MemOk.writeBanks ?_; skip]
      all_goals exact .ite hs.others hs.setSlot

theorem outOk_execPacketArrival (hs : s.MemOk) {dst : PortId} {pkt : Packet} : OutOk (execPacketArrival dst pkt s) := by
  rw [execPacketArrival]
  split
  · exact State.MemOk.receive (State.MemOk.ite hs.leaveWaits hs.takeTurn)
  · exact hs.loseTurn

theorem outOk_execCreditMessage (hs : s.MemOk) {dst : PortId} {num : BitVec 32} : OutOk (execCreditMessage dst num s) := by
  unfold execCreditMessage
  split
  · trivial
  · exact hs.modSlot

theorem State.MemOk.freeBufs (hs : s.MemOk) {i : SlotId} {test : Buf → Bool} : (s.freeBufs i test).1.MemOk :=
  State.MemOk.foldlFst (acc := (s, [])) hs (fun _ _ h => h.modSlot)

theorem State.MemOk.sendCredits (hs : s.MemOk) {i : SlotId} {cs : List (Chan × BitVec 32)} : (s.sendCredits i cs).MemOk :=
  hs.foldl fun _ _ hs => hs.sendCredit

theorem State.MemOk.settleDrain (hs : s.MemOk) {i : SlotId} : (s.settleDrain i).MemOk := by
  rw [State.settleDrain]
  split
  · exact hs.setSlot.leaveActive
  · exact hs

theorem outOk_execDrainAction (hs : s.MemOk) {i : SlotId} : OutOk (execDrainAction i s) := by
  rw [execDrainAction]
  split
  · exact hs.freeBufs.sendCredits.modSlot.settleDrain
  · exact hs

theorem outOk_execDrainSend (hs : s.MemOk) {i : SlotId} {port : Nat} : OutOk (execDrainSend i port s) := by
  rw [execDrainSend]
  split
  · exact hs.sendMarker.settleDrain
  · exact hs

theorem outOk_execMmDrainSend (hs : s.MemOk) {i : SlotId} {id : Nat} : OutOk (execMmDrainSend i id s) := by
  unfold execMmDrainSend
  split
  · trivial
  · exact outOk_ite hs.schedule (outOk_ite hs.schedule hs.makePacket.modSlot.modCtx.launchPacket)

/-! ## Firings -/

theorem State.MemOk.refreshSlot (hs : s.MemOk) {i : SlotId} : (s.refreshSlot i).MemOk := by
  rw [State.refreshSlot]
  split
  · exact hs
  · split
    · split
      · exact hs.stageEvent
      · exact hs
    · split
      · exact hs.setSlot
      · exact hs

theorem State.MemOk.refreshReady (hs : s.MemOk) : s.refreshReady.MemOk := hs.foldl fun _ _ hs => hs.refreshSlot

theorem State.MemOk.clearMatrix (hs : s.MemOk) {c : CoreId} : (s.clearMatrix c).MemOk := hs.modCore

theorem State.MemOk.startFiring (hs : s.MemOk) {i : SlotId} : (s.startFiring i).MemOk := hs.modCtx.clearMatrix.modCore.setSlot

theorem outOk_execFiringStart (hs : s.MemOk) {c : CoreId} : OutOk (execFiringStart c s) := by
  unfold execFiringStart
  split
  · split
    · exact hs.startFiring
    · exact hs
  · exact hs

theorem outOk_execBundleWaitEnds (hs : s.MemOk) {a : Agent} : OutOk (execBundleWaitEnds a s) := by
  rw [execBundleWaitEnds]
  split
  · exact (by split; exacts [hs.modCtx.modSlot, hs.modCtx])
  · exact hs

theorem outOk_execBudgetExhausted (hs : s.MemOk) {i : SlotId} : OutOk (execBudgetExhausted i s) := by
  rw [execBudgetExhausted]
  split
  · exact hs.trapBefore
  · exact hs

theorem State.MemOk.releaseCredits (hs : s.MemOk) {i : SlotId} {cs : List (Chan × BitVec 32)} : (s.releaseCredits i cs).MemOk := by
  simp only [State.releaseCredits]
  split
  · exact hs.sendCredits
  · split
    · exact hs.modPkg.modSlot.dieEvent.sendCredits
    · exact hs.modSlot.sendFlit

theorem outOk_execCheckpointWriteDone (hs : s.MemOk) {i : SlotId} : OutOk (execCheckpointWriteDone i s) := by
  unfold execCheckpointWriteDone
  split
  · trivial
  · exact hs.modSlot.modPkg.putPieces.sendCredits

theorem State.MemOk.sendOwed (hs : s.MemOk) {i : SlotId} : (s.sendOwed i).MemOk := by
  unfold State.sendOwed
  split
  · exact hs
  · exact hs.foldl (fun _ _ hs => (by split; exacts [(State.MemOk.ite (State.MemOk.ite hs.sendMarker.modSlot hs.sendMarker) hs), hs]))

theorem State.MemOk.reportLate (hs : s.MemOk) {i : SlotId} {t : Nat × Word} : (s.reportLate i t).MemOk := by
  rw [State.reportLate]
  split
  · exact hs.dieEvent
  · split
    · exact hs.dieEvent
    · exact hs.dieEvent

theorem State.MemOk.dropFiring (hs : s.MemOk) {i : SlotId} : (s.dropFiring i).MemOk :=
  (hs.modDie.modCore.foldl (fun _ _ hs => hs.modSup)).modSlot

theorem State.MemOk.dropWork (hs : s.MemOk) {i : SlotId} : (s.dropWork i).MemOk := hs.modCtx.modSlot.modDie.others

theorem State.MemOk.closeFiring (hs : s.MemOk) {i : SlotId} {kill : Bool} : (s.closeFiring i kill).MemOk := by
  unfold State.closeFiring
  extract_lets a marker heads r c s₁ s₂
  have hr : r.1.MemOk := hs.freeBufs
  have h₁ : s₁.MemOk := .ite hr hr.meetRegs.modSlot
  have h₂ : s₂.MemOk := .ite h₁.modCtx h₁
  exact h₂.releaseCredits

theorem State.MemOk.sinkDone (hs : s.MemOk) {i : SlotId} : (s.sinkDone i).MemOk := by
  rw [State.sinkDone]
  split
  · exact hs.dieEvent.modDie
  · exact hs

theorem State.MemOk.finishFiring (hs : s.MemOk) {i : SlotId} : (s.finishFiring i).MemOk := by
  unfold State.finishFiring
  extract_lets a c late s₁ s₂ done s₃ s₄ s₅ s₆
  have h₁ : s₁.MemOk := hs.foldl fun _ _ hs => hs.reportLate
  have h₅ : s₅.MemOk := h₁.sinkDone.modDie.modCtx.dropFiring
  have h₆ : s₆.MemOk := .ite h₅.modSlot h₅
  exact h₆.settleFaults.checkBarrier

theorem State.MemOk.endState (hs : s.MemOk) {i : SlotId} {f : FiringState} : (s.endState i f).MemOk := hs.modSlot

theorem outOk_execEndCompletion (hs : s.MemOk) {i : SlotId} : OutOk (execEndCompletion i s) := by
  unfold execEndCompletion
  split
  case h_1 => trivial
  case h_2 e he =>
    have hclosed : ((s.sendOwed i).closeFiring i e.kill).MemOk := hs.sendOwed.closeFiring
    exact outOk_ite (outOk_ite hs.finishFiring hs) (outOk_ite hs.endState (outOk_ite hs.sendOwed.endState
      (outOk_ite hclosed.finishFiring hclosed.modSlot.endState.modCtx)))

theorem State.MemOk.killFiring (hs : s.MemOk) {i : SlotId} : (s.killFiring i).MemOk := by
  rw [State.killFiring]
  split
  · exact hs
  · exact hs.landAll.flushStores.dropWork.modSlot.foldl fun _ _ hs => hs.modSup

theorem State.MemOk.killStage (hs : s.MemOk) {i : SlotId} : (s.killStage i).MemOk := by
  unfold State.killStage
  extract_lets v s₁ held r s₂ s₃ s₄
  have h₁ : s₁.MemOk := .ite hs hs.dropWork.dropFiring
  have h₂ : s₂.MemOk := h₁.freeBufs.sendCredits
  have h₃ : s₃.MemOk := h₂.foldl fun _ _ hs => by split; exacts [hs.sendCredit, hs]
  exact .ite hs h₃.modSlot.leaveActive

theorem State.MemOk.slotCommand (hs : s.MemOk) {i : SlotId} {cmd : Nat} : (s.slotCommand i cmd).MemOk := by
  simp only [State.slotCommand]
  split
  · split
    · exact hs.setSlot
    · exact hs
  · exact hs.killStage
  · split
    · exact hs.killFiring
    · exact hs
  · exact hs

theorem State.MemOk.giveCommand (hs : s.MemOk) {i : SlotId} {cmd : Nat} : (s.giveCommand i cmd).MemOk := by
  rw [State.giveCommand]
  split
  · exact hs.modSlot
  · exact hs.slotCommand

theorem State.MemOk.runSlotCommands (hs : s.MemOk) {i : SlotId} {fuel : Nat} : (s.runSlotCommands i fuel).MemOk := by
  induction fuel generalizing s with
  | zero => exact hs
  | succ fuel ih =>
    rw [State.runSlotCommands]
    split
    · exact hs
    · split
      · exact hs
      · exact ih hs.modSlot.slotCommand

theorem State.MemOk.runCommands (hs : s.MemOk) : s.runCommands.MemOk := hs.foldl fun _ _ hs => State.MemOk.ite hs hs.runSlotCommands

theorem outOk_execSlotctlClearEvent (hs : s.MemOk) {i : SlotId} : OutOk (execSlotctlClearEvent i s) := hs.giveCommand

theorem outOk_execSlotctlKillStage (hs : s.MemOk) {i : SlotId} : OutOk (execSlotctlKillStage i s) := hs.giveCommand

theorem outOk_execSlotctlKillFiring (hs : s.MemOk) {i : SlotId} : OutOk (execSlotctlKillFiring i s) := hs.giveCommand

theorem State.MemOk.meetSaved (hs : s.MemOk) {i : SlotId} {parts : List (Nat × Nat)} : (s.meetSaved i parts).MemOk :=
  hs.foldl fun _ _ hs => hs.readSaved

theorem State.MemOk.reload (hs : s.MemOk) {i : SlotId} : (s.reload i).MemOk := hs.meetSaved.modCtx

theorem State.MemOk.resume (hs : s.MemOk) {i : SlotId} : (s.resume i).MemOk := hs.modSlot.modCtx

theorem State.MemOk.park (hs : s.MemOk) {i : SlotId} : (s.park i).MemOk := by
  unfold State.park
  extract_lets s₁ c v
  have h₁ : s₁.MemOk := .ite hs.meetMat hs
  split
  · exact h₁
  · exact h₁.readSaved.putPieces.modCore.modCtx.setSlot

theorem outOk_execParkComplete (hs : s.MemOk) {i : SlotId} : OutOk (execParkComplete i s) := by
  rw [execParkComplete]
  split
  · exact hs.park
  · exact hs

theorem State.MemOk.putTags (hs : s.MemOk) {i : SlotId} {q : Queued} : (s.putTags i q).MemOk := hs.modCore

theorem State.MemOk.restoreMatrix (hs : s.MemOk) {i : SlotId} : (s.restoreMatrix i).MemOk :=
  hs.meetSaved.modCore (by exact fun _ => mendMat_mem ..) (by exact fun _ => mendMat_window ..)

theorem State.MemOk.restore (hs : s.MemOk) {i : SlotId} : (s.restore i).MemOk := by
  unfold State.restore
  extract_lets c s₁ mu lead round s₂ vq mq xfm s₃ s₄ s₅ s₆
  have h₂ : s₂.MemOk := .ite hs.reload.meetSaved.restoreMatrix hs.reload.meetSaved
  have h₃ : s₃.MemOk := .ite h₂ h₂.putTags
  have h₆ : s₆.MemOk := h₃.modCtx.modCtx.others
  exact h₆.modCore.resume.modCtx

theorem outOk_execParkedFiringRestore (hs : s.MemOk) {c : CoreId} : OutOk (execParkedFiringRestore c s) := by
  unfold execParkedFiringRestore
  split
  · split
    · exact hs.restore
    · exact hs
  · exact hs

theorem State.MemOk.applyAct (hs : s.MemOk) {act : Nat} {i : SlotId} : (s.applyAct act i).MemOk := by
  simp only [State.applyAct]
  split
  · exact hs
  · split
    · exact hs.reload.resume
    · exact hs.modSlot
    · exact hs.killFiring
    · exact hs.killStage

theorem State.MemOk.takeTrap (hs : s.MemOk) {v q : SupId} {i : SlotId} : (s.takeTrap v q i).MemOk := by
  rw [State.takeTrap]
  split
  · exact hs.modSup
  · exact hs.modSup.modSup

theorem outOk_execHaltWake (hs : s.MemOk) {v : SupId} : OutOk (execHaltWake v s) := by
  simp only [execHaltWake]
  split
  · exact hs
  · split
    · split
      · exact hs.modSup.takeTrap
      · exact hs.modSup
    · exact hs.modSup.modSup

theorem outOk_execEvpopRead (hs : s.MemOk) {reader : Option SupId} {v : SupId} {xd : Nat} :
    OutOk (execEvpopRead reader v xd s) := by
  cases reader with
  | none => exact hs.modSup
  | some r => exact hs.modSup.modCtx

theorem outOk_execSvfaultRestart (hs : s.MemOk) {v : SupId} : OutOk (execSvfaultRestart v s) :=
  hs.modSup.modCtx.foldl fun _ _ hs => hs.modSup

end Sys2Proof.Machine
end

section
/-! PROOF. Configurations, engines of sequences, links and registers keep the canonical form of memory (O50). -/

namespace Sys2Proof.Machine

-- One declaration after the other: elaborated side by side, these many proofs hold more stacks than the check has memory for.
set_option Elab.async false

variable {s t : State}

/-! ## The sequencer -/

theorem State.MemOk.installRemote (hs : s.MemOk) {d : DieId} {w : Nat} : (s.installRemote d w).MemOk := hs.modDie

theorem State.MemOk.applyUnused (hs : s.MemOk) {d : DieId} {r : CfgRec} : (s.applyUnused d r).MemOk :=
  ((hs.foldl (fun _ _ hs => State.MemOk.ite hs.modClu hs)).foldl (fun _ _ hs => .ite hs hs.modCore)).foldl fun _ _ hs => .ite hs hs.modCore

theorem State.MemOk.loadRec (hs : s.MemOk) {d : DieId} {want : Option Nat} : (s.loadRec d want).1.MemOk := by
  rw [State.loadRec]
  cases hrun : (s.die d).recRun with
  | none => exact hs.modDie.dieEvent
  | some run =>
    dsimp only
    split
    · exact hs.meetDie.modDie.dieEvent
    split
    · exact hs.meetDie.modDie.dieEvent
    split
    · exact hs.meetDie.modDie.dieEvent
    · refine State.MemOk.foldl (State.MemOk.applyUnused (State.MemOk.foldl hs.meetDie.modDie fun _ _ h => ?_)) fun _ _ h =>
        h.installRemote
      exact .ite h.others h.setSlot

theorem State.MemOk.drainSources (hs : s.MemOk) {d : DieId} : (s.drainSources d).MemOk :=
  hs.foldl (fun _ _ hs => State.MemOk.ite hs.setSlot (State.MemOk.ite hs.setSlot hs))

theorem State.MemOk.beginActivation (hs : s.MemOk) {d : DieId} : (s.beginActivation d).MemOk := hs.modDie.schedule

theorem State.MemOk.beginSwitch (hs : s.MemOk) {d : DieId} : (s.beginSwitch d).MemOk := by
  rw [State.beginSwitch]
  split
  · exact hs.modDie.drainSources
  · exact hs.beginActivation

theorem State.MemOk.tellPeers (hs : s.MemOk) {d : DieId} : (s.tellPeers d).MemOk := hs.foldl fun _ _ hs => hs.sendManage

theorem State.MemOk.beginLoad (hs : s.MemOk) {d : DieId} {want : Option Nat} {own : Bool} : (s.beginLoad d want own).MemOk := hs.modDie

theorem State.MemOk.endLoad (hs : s.MemOk) {d : DieId} {want : Option Nat} {own : Bool} : (s.endLoad d want own).MemOk := by
  rw [State.endLoad]
  split
  · exact hs.modDie.loadRec
  · exact State.MemOk.beginSwitch (State.MemOk.ite hs.modDie.loadRec.tellPeers hs.modDie.loadRec)

theorem State.MemOk.settleLoad (hs : s.MemOk) {d : DieId} : (s.settleLoad d).MemOk := by
  unfold State.settleLoad
  split
  · split
    · exact hs
    · split
      · exact hs.backInvalidate
      · exact hs.endLoad
  · exact hs

theorem memOk_cfgNextWait {a : BitVec 6} : (cfgNextWait a s).MemOk := by
  simp only [cfgNextWait]
  split
  · split
    · exact fun _ h => h
    · trivial
  · split
    · trivial
    · exact fun _ h => h.beginLoad.beginSync

theorem outOk_execSwitchNotice (hs : s.MemOk) {d : DieId} {n : Nat} : OutOk (execSwitchNotice d n s) := by
  rw [execSwitchNotice]
  split
  · exact hs
  · exact hs.beginLoad

theorem State.MemOk.autoSwitch (hs : s.MemOk) {d : DieId} : (s.autoSwitch d).MemOk := .ite hs (.ite hs.modDie.beginLoad hs.modDie)

theorem outOk_execClosingBarrierComplete (hs : s.MemOk) {c : CluId} : OutOk (execClosingBarrierComplete c s) := by
  rw [execClosingBarrierComplete]
  split
  · exact hs.modClu
  · exact hs

theorem State.MemOk.retire (hs : s.MemOk) {d : DieId} : (s.retire d).MemOk := by
  rw [State.retire]
  split
  · exact hs.modDie.dieEvent.dieEvent
  · exact hs.modDie.dieEvent

theorem outOk_execConfigDrainComplete (hs : s.MemOk) {d : DieId} : OutOk (execConfigDrainComplete d s) := by
  rw [execConfigDrainComplete]
  split
  · exact hs.retire.beginActivation
  · exact hs

theorem State.MemOk.activateSlot (hs : s.MemOk) {d : DieId} {r : CfgRec} {f : List Nat} : (s.activateSlot d r f).MemOk := by
  rw [State.activateSlot]
  split
  · split
    · exact hs.others.setSlot
    · exact hs.others.setSlot
  · exact hs.others.setSlot.setCtx.modCore

theorem State.MemOk.mapEntry (hs : s.MemOk) {i : SlotId} {entry : Nat} : (s.mapEntry i entry).MemOk := by
  rw [State.mapEntry]
  split
  · exact hs.mapPage
  · exact hs.mapPage.mapPage

theorem State.MemOk.activate (hs : s.MemOk) {d : DieId} : (s.activate d).MemOk := by
  refine State.MemOk.dieEvent (State.MemOk.modDie (State.MemOk.foldl (State.MemOk.foldl (State.MemOk.others (State.MemOk.foldl
    (State.MemOk.foldl (State.MemOk.mapCores (State.MemOk.foldl (State.MemOk.foldl (State.MemOk.foldl hs
      ?left) ?emptied) ?clusters) ?unmapped) ?mapped) ?reach)) ?slots) ?entries))
  case left => exact fun _ _ h => .ite h h.leaveActive
  case emptied => exact fun _ _ h => .ite h h.others
  case clusters => exact fun _ _ h => h.setClu
  case unmapped =>
    intro e he
    split <;> exact he
  case mapped => exact fun _ _ h => h.modCore
  case reach => exact fun _ _ h => h.modCore
  case slots => exact fun _ _ h => h.activateSlot
  case entries => exact fun _ _ h => h.mapEntry

theorem outOk_execActivationComplete (hs : s.MemOk) {d : DieId} : OutOk (execActivationComplete d s) := by
  rw [execActivationComplete]
  split
  · exact hs.activate
  · trivial

theorem State.MemOk.sqrmtDone (hs : s.MemOk) {d : DieId} {v : BitVec 64} {ok : Bool} : (s.sqrmtDone d v ok).MemOk := hs.modDie

theorem outOk_execSqrmtInstall (hs : s.MemOk) {d : DieId} {v : BitVec 64} : OutOk (execSqrmtInstall d v s) := by
  rw [execSqrmtInstall]
  split
  · exact hs.installRemote.sqrmtDone
  · exact hs.sqrmtDone

theorem outOk_execSqrmtRemove (hs : s.MemOk) {d : DieId} {v : BitVec 64} : OutOk (execSqrmtRemove d v s) := by
  rw [execSqrmtRemove]
  split
  · exact hs.modDie.sqrmtDone
  · exact hs.sqrmtDone

/-! ## Mirrors -/

theorem State.MemOk.forward (hs : s.MemOk) {d : DieId} {m : MirrorOp} : (s.forward d m).MemOk := hs.sendFlit

theorem State.MemOk.mirrorStore (hs : s.MemOk) {d : DieId} {addr : Nat} {data : List Byte} : (s.mirrorStore d addr data).MemOk :=
  hs.foldl (fun _ _ hs => hs.foldl (fun _ _ hs => by split; exacts [hs.forward, hs]))

/-! ## Links and rings -/

theorem State.MemOk.modPort (hs : s.MemOk) {pkg n : Nat} {f : Port → Port} : (s.modPort pkg n f).MemOk := hs.modPkg

theorem State.MemOk.countLost (hs : s.MemOk) {pkg n : Nat} : (s.countLost pkg n).MemOk := hs.modPort

theorem State.MemOk.portTo (hs : s.MemOk) {pkg n : Nat} {st : PortState} : (s.portTo pkg n st).MemOk := hs.modPort

theorem State.MemOk.freeInput (hs : s.MemOk) {pkg : Nat} {b : Option InBuf} : (s.freeInput pkg b).MemOk := by
  unfold State.freeInput
  split
  · exact hs
  · exact hs.modPort

theorem State.MemOk.leftOld (hs : s.MemOk) {pkg : Nat} {f : Flit} : (s.leftOld pkg f).MemOk := by
  simp only [State.leftOld]
  split
  · exact hs
  · split
    · split
      · exact hs.modPkg.schedule
      · exact hs.modPkg
    · exact hs

theorem State.MemOk.linkSlot (hs : s.MemOk) {pkg n slot : Nat} : (s.linkSlot pkg n slot).MemOk := by
  rw [State.linkSlot]
  split
  · exact hs
  · exact hs.modPort.schedule.freeInput.leftOld

theorem State.MemOk.sendPort (hs : s.MemOk) {pkg n : Nat} : (s.sendPort pkg n).MemOk :=
  State.MemOk.foldl (State.MemOk.ite (hs.modPort.foldl (fun _ _ hs => hs.schedule)) hs) (fun _ _ hs => hs.linkSlot)

theorem State.MemOk.injectRing (hs : s.MemOk) {pkg : Nat} {w : RingFlit × Option InBuf} : (s.injectRing pkg w).MemOk := by
  rw [State.injectRing]
  split
  · exact hs.modPkg
  · exact State.MemOk.freeInput (State.MemOk.schedule (State.MemOk.ite hs.modPkg hs))

theorem State.MemOk.pumpRing (hs : s.MemOk) {pkg : Nat} : (s.pumpRing pkg).MemOk := hs.modPkg.foldl fun _ _ hs => hs.injectRing

theorem State.MemOk.ringSend (hs : s.MemOk) {pkg a b : Nat} {f : Flit} {buf : Option InBuf} : (s.ringSend pkg a b f buf).MemOk :=
  hs.modPkg.pumpRing

theorem State.MemOk.pumpLinks (hs : s.MemOk) : s.pumpLinks.MemOk :=
  hs.foldl (fun _ _ hs => State.MemOk.foldl (State.MemOk.ite hs hs.pumpRing) (fun _ _ hs => hs.sendPort))

theorem State.MemOk.streamFlit (hs : s.MemOk) {pkg die : Nat} {f : Flit} : (s.streamFlit pkg die f).MemOk := by
  simp only [State.streamFlit]
  split
  · exact hs.modPkg
  · split
    · exact hs.modPkg.schedule
    · exact hs.modPkg

theorem State.MemOk.deliver (hs : s.MemOk) {pkg die : Nat} {f : Flit} : (s.deliver pkg die f).MemOk := by
  rw [State.deliver]
  split
  · exact hs.streamFlit
  · split
    · exact hs.modPkg
    · split
      · exact hs.schedule
      · exact hs.modPkg

theorem State.MemOk.holdFlit (hs : s.MemOk) {pkg n : Nat} {x : QFlit} : (s.holdFlit pkg n x).MemOk := hs.modPort

theorem State.MemOk.goFlit (hs : s.MemOk) {pkg die : Nat} {x : QFlit} : (s.goFlit pkg die x).MemOk := by
  rw [State.goFlit]
  split
  · split
    · exact hs.deliver.freeInput
    · exact hs.ringSend
  · exact hs.freeInput
  · split
    · split
      · exact hs.holdFlit
      · exact hs.countLost.freeInput
    · split
      · exact hs.holdFlit
      · split
        · exact hs.modPort
        · exact hs.ringSend

theorem State.MemOk.moveFlit (hs : s.MemOk) {pkg die : Nat} {x : QFlit} : (s.moveFlit pkg die x).MemOk := by
  rw [State.moveFlit]
  split
  · exact hs.goFlit.goFlit
  · exact hs.goFlit

theorem State.MemOk.pullRing (hs : s.MemOk) {pkg : Nat} {sel : Flit → Bool} : (s.pullRing pkg sel).MemOk :=
  (hs.others.modPkg.foldl (fun _ _ hs => hs.moveFlit)).foldl fun _ _ hs => hs.moveFlit

theorem State.MemOk.routeFlit (hs : s.MemOk) {pkg die : Nat} {f : Flit} : (s.routeFlit pkg die f).MemOk := hs.moveFlit

theorem State.MemOk.releasePort (hs : s.MemOk) {pkg n : Nat} : (s.releasePort pkg n).MemOk := hs.modPort.foldl fun _ _ hs => hs.moveFlit

theorem State.MemOk.reroute (hs : s.MemOk) {pkg : Nat} : (s.reroute pkg).MemOk :=
  hs.foldl (fun _ _ hs => (State.MemOk.ite hs.releasePort (hs.releasePort.modPort.foldl (fun _ _ hs => hs.moveFlit))))

theorem State.MemOk.flip (hs : s.MemOk) {pkg : Nat} : (s.flip pkg).MemOk :=
  (((hs.modPkg.packageEvent.foldl (fun _ _ hs => by split; exacts [hs.schedule, hs])).pullRing).reroute).retryFlits

theorem outOk_execRoutingFlip (hs : s.MemOk) {pkg : Nat} : OutOk (execRoutingFlip pkg s) := hs.flip

theorem outOk_execFlipHoldRelease (hs : s.MemOk) {pkg port : Nat} : OutOk (execFlipHoldRelease pkg port s) :=
  hs.modPkg.releasePort.retryFlits

theorem State.MemOk.notice (hs : s.MemOk) {pkg : Nat} {n : Notice} {own : Bool} : (s.notice pkg n own).MemOk := by
  rw [State.notice]
  split
  · exact hs
  · split
    · exact hs.modPkg.foldl fun _ _ hs => hs.schedule
    · exact (hs.modPkg.foldl (fun _ _ hs => hs.schedule)).packageEvent

theorem outOk_execFailureNotice (hs : s.MemOk) {pkg : Nat} {n : Notice} : OutOk (execFailureNotice pkg n s) := hs.notice

theorem State.MemOk.flood (hs : s.MemOk) {pkg failed port peer : Nat} : (s.flood pkg failed port peer).MemOk := hs.modPkg.notice

theorem State.MemOk.train (hs : s.MemOk) {pkg port : Nat} : (s.train pkg port).MemOk := by
  rw [State.train]
  split
  · exact hs.portTo.schedule
  · exact hs

theorem State.MemOk.portDown (hs : s.MemOk) {pkg port : Nat} : (s.portDown pkg port).MemOk := hs.portTo.train

theorem outOk_execLinkEnable (hs : s.MemOk) {pkg port : Nat} : OutOk (execLinkEnable pkg port s) :=
  (State.MemOk.ite hs.modPort.portDown hs.modPort.train)

theorem State.MemOk.sendNeg (hs : s.MemOk) {pkg port : Nat} : (s.sendNeg pkg port).MemOk := hs.schedule

theorem outOk_execLinkTrainLock (hs : s.MemOk) {pkg port : Nat} : OutOk (execLinkTrainLock pkg port s) := by
  rw [execLinkTrainLock]
  split
  · trivial
  · exact State.MemOk.ite hs.portTo.modPort.schedule.nextFree.sendNeg.sendNeg hs.portTo.modPort.schedule.nextFree

theorem outOk_execLinkTrainTimeout (hs : s.MemOk) {pkg port : Nat} : OutOk (execLinkTrainTimeout pkg port s) := by
  rw [execLinkTrainTimeout]
  split
  · exact hs
  · split
    · exact hs.portTo.modPort.schedule
    · exact hs.modPort.portDown

theorem outOk_execNegotiationMessage (hs : s.MemOk) {pkg port : Nat} {m : NegMsg} : OutOk (execNegotiationMessage pkg port m s) := by
  rw [execNegotiationMessage]
  split
  · trivial
  · split
    · exact hs.portTo.modPort.packageEvent.retryFlits
    · exact hs.portTo.modPort.packageEvent

theorem outOk_execNegotiateTimeout (hs : s.MemOk) {pkg port : Nat} : OutOk (execNegotiateTimeout pkg port s) := by
  rw [execNegotiateTimeout]
  split
  · exact hs.portDown
  · exact hs

theorem State.MemOk.cutLink (hs : s.MemOk) {pkg port : Nat} : (s.cutLink pkg port).MemOk := hs.others

theorem State.MemOk.linkFails (hs : s.MemOk) {pkg port : Nat} : (s.linkFails pkg port).MemOk :=
  (((hs.portTo.modPort.cutLink.packageEvent.flood.modPkg.foldl (fun _ _ hs => hs.moveFlit)).pullRing).schedule).schedule

theorem outOk_execLinkFailedTimer (hs : s.MemOk) {pkg port : Nat} : OutOk (execLinkFailedTimer pkg port s) := by
  rw [execLinkFailedTimer]
  split
  · exact hs.portDown
  · exact hs

theorem State.MemOk.keyDrop (hs : s.MemOk) {pkg port : Nat} {f : Flit} : (s.keyDrop pkg port f).MemOk := by
  rw [State.keyDrop]
  split
  · exact hs.dropAt.routeFlit
  · exact hs.dropAt

theorem State.MemOk.takeFlit (hs : s.MemOk) {pkg port : Nat} {f : Flit} : (s.takeFlit pkg port f).MemOk := by
  rw [State.takeFlit]
  split
  · split
    · exact hs.keyDrop.freeInput
    · exact hs.moveFlit
  · exact hs.moveFlit
  · split
    · exact hs.countLost.freeInput
    · exact hs.moveFlit

theorem State.MemOk.askAgain (hs : s.MemOk) {pkg port : Nat} : (s.askAgain pkg port).MemOk := hs.modPort.modPort

theorem State.MemOk.outOfTurn (hs : s.MemOk) {pkg port : Nat} {sq : BitVec 12} : (s.outOfTurn pkg port sq).MemOk := by
  rw [State.outOfTurn]
  split
  · exact hs
  · exact hs.askAgain

theorem outOk_execFlitReceive (hs : s.MemOk) {pkg port : Nat} {f : BitVec 640} : OutOk (execFlitReceive pkg port f s) := by
  rw [execFlitReceive]
  split
  · trivial
  · split
    · exact hs.countLost.askAgain
    · split
      · exact hs.outOfTurn
      · exact hs.modPort.modPort.takeFlit

theorem State.MemOk.ringTake (hs : s.MemOk) {pkg : Nat} {f : RingFlit} : (s.ringTake pkg f).MemOk := by
  rw [State.ringTake]
  split
  · exact hs.modPkg.deliver
  · exact hs.modPkg.moveFlit
  · exact hs.modPkg.moveFlit

theorem outOk_execRingFlitArrival (hs : s.MemOk) {pkg : Nat} {f : RingFlit} : OutOk (execRingFlitArrival pkg f s) := by
  rw [execRingFlitArrival]
  split
  · exact hs.ringTake
  · split
    · exact hs.nextFree.ringTake
    · exact State.MemOk.schedule (State.MemOk.ite hs.nextFree.modPkg hs.nextFree)

theorem outOk_execRingFlitReoffer (hs : s.MemOk) {pkg : Nat} {f : RingFlit} : OutOk (execRingFlitReoffer pkg f s) :=
  outOk_execRingFlitArrival hs

theorem State.MemOk.replayRing (hs : s.MemOk) {pkg ring seg : Nat} : (s.replayRing pkg ring seg).MemOk :=
  hs.others.modPkg.foldl fun _ _ hs => hs.schedule

theorem outOk_execRingSegmentFailed (hs : s.MemOk) {pkg ring seg : Nat} : OutOk (execRingSegmentFailed pkg ring seg s) :=
  hs.modPkg.packageEvent.modPkg.replayRing

/-! ## Control registers -/

theorem State.MemOk.orStay (hs : s.MemOk) {o : Out} (ho : OutOk o) : (orStay s o).MemOk := by
  cases o with
  | next t => exact ho
  | fault _ => exact hs
  | refused _ => exact hs

theorem State.MemOk.putCluster (hs : s.MemOk) {d : DieId} {c : Nat} {f : Cluster → Cluster} : (s.putCluster d c f).MemOk := by
  rw [State.putCluster]
  split
  · exact hs
  · exact hs.modClu

theorem State.MemOk.hostModes (hs : s.MemOk) {pkg : Nat} {m : BitVec 8} : (s.hostModes pkg m).MemOk := by
  unfold State.hostModes
  split
  · exact hs
  · exact hs.foldl fun _ _ hs => hs.modPort.train

theorem State.MemOk.writePmask (hs : s.MemOk) {pkg : Nat} {m : BitVec 8} : (s.writePmask pkg m).MemOk := by
  rw [State.writePmask]
  split
  · exact hs
  · split
    · exact hs.modPkg.hostModes.schedule
    · exact hs.modPkg.hostModes

theorem outOk_execHlinkPmaskWrite (hs : s.MemOk) {pkg : Nat} {mask : BitVec 8} : OutOk (execHlinkPmaskWrite pkg mask s) := hs.writePmask

theorem State.MemOk.writeSqrmt (hs : s.MemOk) {d : DieId} {v : Word} : (s.writeSqrmt d v).MemOk :=
  hs.orStay (outOk_ite (outOk_execSqrmtInstall hs) (outOk_execSqrmtRemove hs))

theorem outOk_execFtinvAll (hs : s.MemOk) {d : DieId} : OutOk (execFtinvAll d s) := hs.modDie

theorem outOk_execFtinvPage (hs : s.MemOk) {d : DieId} {vpn : Nat} : OutOk (execFtinvPage d vpn s) := hs.modDie

theorem State.MemOk.writeLinkst (hs : s.MemOk) {pkg n : Nat} {v : Word} : (s.writeLinkst pkg n v).MemOk := by
  rw [State.writeLinkst]
  split
  · exact hs.modPort.orStay (outOk_execLinkEnable hs.modPort)
  · exact hs.modPort.modPort

theorem State.MemOk.writeReg (hs : s.MemOk) {d : DieId} {r : CtlReg} {v : Word} : (s.writeReg d r v).MemOk := by
  cases r
  case sqfree | sqopen | cfgstat | dign | digh | evpop => exact hs
  case gwin | sqpool | farrate | sqlate | sqtpool | ftroot | ftmiss | cfgstair | ecccnt | scrub => exact hs.modDie
  case horph | horpn | hring | hwin | fabid | pkey | hallrt | strt | adapt | pmemb | redwin | posmap => exact hs.modPkg
  case hdmmap => exact hs.modPkg (fun _ => by split <;> rfl)
  case window | phaser | member => exact hs.putCluster
  case svact => exact hs.modSup
  case sqrmt => exact hs.writeSqrmt
  case ftinv => exact hs.orStay (outOk_ite (outOk_execFtinvAll hs) (outOk_execFtinvPage hs))
  case svfault => exact .ite (hs.modSup.orStay (outOk_execSvfaultRestart hs.modSup)) hs.modSup
  case slotctl => exact .ite hs.giveCommand hs
  case hlink => exact hs.modPkg.writePmask
  case rtctl => exact .ite hs.flip hs
  case linkst => exact hs.writeLinkst

theorem outOk_execRegisterWrite (hs : s.MemOk) {d : DieId} {addr : Nat} {v : BitVec 64} : OutOk (execRegisterWrite d addr v s) := by
  unfold execRegisterWrite
  split
  · exact hs.writeReg
  · trivial

theorem State.MemOk.hostPorts (hs : s.MemOk) {pkg : Nat} {on : Bool} : (s.hostPorts pkg on).MemOk := by
  rw [State.hostPorts]
  split
  · exact hs
  · exact hs.foldl fun _ _ hs => hs.modPort

theorem outOk_execHostLinkTrained (hs : s.MemOk) {pkg : Nat} : OutOk (execHostLinkTrained pkg s) := by
  rw [execHostLinkTrained]
  split
  · exact hs
  · exact hs.modPkg.hostPorts

theorem outOk_execHostLinkDown (hs : s.MemOk) {pkg : Nat} : OutOk (execHostLinkDown pkg s) := hs.modPkg.hostPorts.schedule

end Sys2Proof.Machine
end

section
/-! PROOF. Cluster, gallery and fabric accesses keep the canonical form of memory (O50). -/

namespace Sys2Proof.Machine

-- One declaration after the other: elaborated side by side, these many proofs hold more stacks than the check has memory for.
set_option Elab.async false

variable {s t : State}

/-! ## Homes and requests -/

theorem State.MemOk.meetHome (hs : s.MemOk) {h : Home} {addr n : Nat} : (s.meetHome h addr n).MemOk := by
  unfold State.meetHome
  split
  · exact hs.meetCore
  · exact hs.meetDie
  · exact hs
  · exact hs

theorem Die.count_memories {k : Die} {h : Home} {l : Nat} {before after : Mem} :
    (k.count h l before after).gallery = k.gallery ∧ (k.count h l before after).codeStore = k.codeStore := by
  rw [Die.count]
  split
  · exact ⟨rfl, rfl⟩
  · split <;> exact ⟨rfl, rfl⟩

theorem Die.countRun_memories {k : Die} {h : Home} {addr n : Nat} {before after : Mem} :
    (k.countRun h addr n before after).gallery = k.gallery ∧ (k.countRun h addr n before after).codeStore = k.codeStore := by
  rw [Die.countRun]
  induction linesOf addr n generalizing k with
  | nil => exact ⟨rfl, rfl⟩
  | cons l ls ih =>
    rw [List.foldl_cons, ih.1, ih.2]
    exact Die.count_memories

theorem State.MemOk.countRun (hs : s.MemOk) {d : DieId} {h : Home} {addr n : Nat} {before after : Mem} :
    (s.modDie d (fun k => k.countRun h addr n before after)).MemOk :=
  hs.modDie (fun _ => Die.countRun_memories.1) (fun _ => Die.countRun_memories.2)

theorem State.MemOk.countWrite (hs : s.MemOk) {own : Agent} {fabric : Bool} {h : Home} {addr n : Nat} {before after : Mem} :
    (s.countWrite own fabric h addr n before after).MemOk := by
  refine State.MemOk.ite hs ?_
  cases h with
  | die d => exact hs.countRun
  | core c => exact State.MemOk.ite hs.countRun hs
  | ctrl d => exact hs
  | host p v => exact hs

theorem State.MemOk.homeMem (hs : s.MemOk) {h : Home} : Machine.memWf (s.homeMem h) = true := by
  cases h with
  | core c => exact hs.mem c
  | die d => exact hs.gallery d
  | ctrl d => rfl
  | host p v => rfl

theorem State.MemOk.putHome (hs : s.MemOk) {h : Home} {m : Mem} {bad : List Nat} {addr n : Nat} {full : Bool}
    (hm : Machine.memWf m = true) :
    
    (s.putHome h m bad addr n full).MemOk := by
  cases h with
  | core c => exact hs.putBanks (by exact hm)
  | die d => exact hs.putGallery (by exact hm)
  | ctrl d => exact hs
  | host p v => exact hs

theorem State.MemOk.dropCopies (hs : s.MemOk) {own : Agent} {h : Home} {addr n : Nat} : (s.dropCopies own h addr n).MemOk := by
  rw [State.dropCopies]
  split
  · exact hs.mapDies fun e he => by split <;> exact he
  · exact hs

theorem State.MemOk.noteWrite (hs : s.MemOk) {own : Agent} {h : Home} {addr : Nat} {data : List Byte} :
    (s.noteWrite own h addr data).MemOk := by
  cases h with
  | core c => exact hs.dropCopies
  | die d => exact hs.dropCopies.mirrorStore
  | ctrl d => exact hs.dropCopies
  | host p v => exact hs.dropCopies

theorem State.MemOk.meetPartial (hs : s.MemOk) {h : Home} {addr n : Nat} : (s.meetPartial h addr n).MemOk := by
  unfold State.meetPartial
  split
  · exact hs.countPartial
  · exact hs.countPartial
  · exact hs
  · exact hs

theorem State.MemOk.storeHome (hs : s.MemOk) {own : Agent} {fabric : Bool} {h : Home} {addr : Nat} {data : List Byte} {full : Bool} :
    (s.storeHome own fabric h addr data full).MemOk := by
  have hm : Machine.memWf (writeAround (s.homeBad h) (s.homeMem h) addr data).1 = true := memWf_writeAround hs.homeMem
  rw [State.storeHome]
  split
  · exact (hs.meetPartial.putHome hm).storeLost
  · exact (hs.meetPartial.putHome hm).countWrite.noteWrite

theorem State.MemOk.setReq (hs : s.MemOk) {q : MemReq} : (s.setReq q).MemOk := hs.others

theorem State.MemOk.dropReq (hs : s.MemOk) {id : Nat} : (s.dropReq id).MemOk := hs.others

theorem State.MemOk.readHome (hs : s.MemOk) {q : MemReq} : (s.readHome q).1.MemOk := by
  rw [State.readHome]
  split
  · exact hs.meetHome
  · exact hs.meetHome

theorem State.MemOk.perform (hs : s.MemOk) {q : MemReq} : (s.perform q).MemOk := by
  have hread := hs.readHome (q := q)
  unfold State.perform
  dsimp only
  split
  · split
    · exact State.MemOk.setReq (by split; exacts [hs.modSup, hs])
    · exact hs.setReq
  · split
    · exact hs.writeReg.setReq
    · exact hs.setReq
  · exact hread.setReq
  · exact hs.storeHome.setReq
  · split
    · exact hread.setReq
    · exact State.MemOk.setReq (State.MemOk.ite hread.storeHome hread)

theorem State.MemOk.askHost (hs : s.MemOk) {q : MemReq} : (s.askHost q).MemOk := by
  unfold State.askHost
  split
  · exact hs.backInvalidate
  · exact hs
  · exact hs
  · exact hs

theorem State.MemOk.useTurn (hs : s.MemOk) {q : MemReq} {ev : Event} : (s.useTurn q ev).MemOk := by
  unfold State.useTurn
  split
  · exact hs.takeTurn
  · exact hs
  · exact hs
  · exact hs

theorem State.MemOk.missTurn (hs : s.MemOk) {q : MemReq} {ev : Event} : (s.missTurn q ev).MemOk := by
  unfold State.missTurn
  split
  · exact hs.loseTurn
  · exact hs
  · exact hs
  · exact hs

theorem State.MemOk.tryPerform (hs : s.MemOk) {q : MemReq} {pri : Nat} {ev : Event} : (s.tryPerform q pri ev).MemOk := by
  rw [State.tryPerform]
  split
  · exact hs
  · split
    · exact hs.askHost.schedule
    · split
      · exact hs.missTurn
      · exact (hs.useTurn.foldl (fun _ _ hs => hs.perform)).perform

theorem State.MemOk.landReq (hs : s.MemOk) {q : MemReq} : (s.landReq q).MemOk := by
  rw [State.landReq]
  split
  · exact hs.dropReq.modCtx
  · exact hs.dropReq.modCtx

theorem State.MemOk.loadLands (hs : s.MemOk) {q : MemReq} {ev : Event} : (s.loadLands q ev).MemOk := by
  have htry (pri : Nat) := hs.tryPerform (q := q) (pri := pri) (ev := ev)
  unfold State.loadLands
  exact .ite (.ite hs.schedule hs.landReq) (.ite (.ite (htry _).schedule (htry _)) (.ite hs.schedule (.ite (htry _).landReq (htry _))))

theorem State.MemOk.storeDone (hs : s.MemOk) {q : MemReq} {ev : Event} : (s.storeDone q ev).MemOk := by
  rw [State.storeDone]
  split
  · exact hs.tryPerform.dropReq
  · exact hs.tryPerform

theorem State.MemOk.request (hs : s.MemOk) {space virt : Nat} {place : Piece} {op : ReqOp} {dest : Dest} {scope : Nat} :
    (s.request space virt place op dest scope).MemOk :=
  hs.others.tick1

/-! ## Cluster memory -/

theorem State.MemOk.loadCluster (hs : s.MemOk) {a : ℤ} {n lat : Nat} {dest : Dest} : (s.loadCluster a n lat dest).MemOk :=
  hs.request.schedule

theorem State.MemOk.storeCluster (hs : s.MemOk) {a : ℤ} {data : List Byte} : (s.storeCluster a data).MemOk := hs.request.schedule

theorem sylOk_ldc {p : BitVec 4} {d a : BitVec 6} {z : BitVec 2} {i : Opnd 4} {signed : Bool} : (ldcSyl p d a z i signed).MemOk where
  act _ hs := hs.loadCluster

theorem outOk_execClusterLoadLand (hs : s.MemOk) {id : Nat} : OutOk (execClusterLoadLand id s) := by
  unfold execClusterLoadLand
  split
  · exact hs.loadLands
  · trivial

theorem outOk_execClusterStorePerformed (hs : s.MemOk) {id : Nat} : OutOk (execClusterStorePerformed id s) := by
  unfold execClusterStorePerformed
  split
  · exact hs.storeDone
  · trivial

theorem State.MemOk.sendMcst (hs : s.MemOk) {a : ℤ} {data : List Byte} : (s.sendMcst a data).MemOk := hs.modClu.schedule.tick1

theorem State.MemOk.landAt (hs : s.MemOk) {c : CoreId} {l : Landing} : (s.landAt c l).MemOk := by
  unfold State.landAt
  dsimp only
  split
  · exact hs.serveLanding.countErrors.dieEvent
  · refine State.MemOk.putBanks hs.serveLanding ?_ rfl
    exact memWf_memWrite _ _ (hs.serveLanding.mem c)

theorem State.MemOk.performFirst (hs : s.MemOk) {c : CoreId} {l : Landing} : (s.performFirst c l).MemOk :=
  hs.foldl fun _ _ hs => hs.perform

theorem outOk_execMulticastLanding (hs : s.MemOk) {id : Nat} : OutOk (execMulticastLanding id s) := by
  unfold execMulticastLanding
  split
  · trivial
  · exact hs.modClu.foldl fun _ _ hs => hs.performFirst.landAt

/-! ## The gallery -/

theorem State.MemOk.loadGallery (hs : s.MemOk) {a n lat : Nat} {dest : Dest} : (s.loadGallery a n lat dest).MemOk := hs.request.schedule

theorem State.MemOk.storeGallery (hs : s.MemOk) {a : Nat} {data : List Byte} : (s.storeGallery a data).MemOk := hs.request.schedule

theorem sylOk_ldg {p : BitVec 4} {d a : BitVec 6} {z : BitVec 2} {i : Opnd 4} {signed : Bool} : (ldgSyl p d a z i signed).MemOk where
  act _ hs := hs.loadGallery

theorem State.MemOk.atomicGallery (hs : s.MemOk) {a n : Nat} {op : ReqOp} {dest : Dest} : (s.atomicGallery a n op dest).MemOk :=
  hs.request.schedule

theorem outOk_execGalleryLoadLand (hs : s.MemOk) {id : Nat} : OutOk (execGalleryLoadLand id s) := by
  unfold execGalleryLoadLand
  split
  · exact hs.loadLands
  · trivial

theorem outOk_execGalleryStorePerformed (hs : s.MemOk) {id : Nat} : OutOk (execGalleryStorePerformed id s) := by
  unfold execGalleryStorePerformed
  split
  · split
    · exact hs.schedule
    · exact hs.storeDone
  · trivial

theorem outOk_execAtomicOldValueLand (hs : s.MemOk) {id : Nat} : OutOk (execAtomicOldValueLand id s) := by
  unfold execAtomicOldValueLand
  split
  · trivial
  · split
    · exact hs.schedule
    · exact hs.landReq

/-! ## The fabric -/

theorem State.MemOk.meetWalk (hs : s.MemOk) {d : DieId} {a : Nat} : (s.meetWalk d a).MemOk := hs.foldl fun _ _ hs => hs.meetDie

theorem State.MemOk.beginWalk (hs : s.MemOk) {a : ℤ} : (s.beginWalk a).MemOk := by
  unfold State.beginWalk
  exact .ite hs (.ite hs.modMe hs.modMe.modDie.schedule)

theorem memOk_walkWait {a : State → ℤ} : (walkWait a s).MemOk := by
  rw [walkWait]
  split
  · trivial
  · exact fun _ ht => ht.beginWalk

theorem outOk_execTranslationWalkDone (hs : s.MemOk) {d : DieId} {vpn : Nat} : OutOk (execTranslationWalkDone d vpn s) := by
  rw [execTranslationWalkDone]
  split
  · exact hs.backInvalidate.schedule
  · exact hs.meetWalk.setDie.others

theorem State.MemOk.endWalk (hs : s.MemOk) : s.endWalk.MemOk := hs.modMe

theorem State.MemOk.loadFabric (hs : s.MemOk) {a : ℤ} {n : Nat} {dest : Dest} : (s.loadFabric a n dest).MemOk := by
  rw [State.loadFabric]
  split
  · exact hs.request.endWalk.schedule
  · exact hs.request.endWalk.sendTrips

theorem State.MemOk.storeFabric (hs : s.MemOk) {a : ℤ} {data : List Byte} : (s.storeFabric a data).MemOk := hs.request.endWalk.sendFlit

theorem State.MemOk.atomicFabric (hs : s.MemOk) {a : ℤ} {n : Nat} {op : ReqOp} {dest : Dest} : (s.atomicFabric a n op dest).MemOk :=
  hs.request.endWalk.sendFlit

theorem sylOk_ldn {p : BitVec 4} {d a : BitVec 6} {z : BitVec 2} {i : Opnd 4} {signed : Bool} : (ldnSyl p d a z i signed).MemOk where
  act _ hs := hs.loadFabric
  wait _ := by
    simp only [ldnSyl]
    exact memOk_walkWait

theorem State.MemOk.dropped (hs : s.MemOk) {q : MemReq} : (s.dropped q).MemOk := hs.dropMsg

theorem outOk_execFabricReject (hs : s.MemOk) {id : Nat} : OutOk (execFabricReject id s) := by
  unfold execFabricReject
  dsimp only
  split
  · trivial
  · split
    · exact hs.dropReq.modCtx
    · exact outOk_ite hs.dropReq.dieEvent hs.dropReq.modCtx

theorem State.MemOk.loseAnswer (hs : s.MemOk) {q : MemReq} : (s.loseAnswer q).MemOk := hs.dropMsg

theorem State.MemOk.loadLost (hs : s.MemOk) {q : MemReq} {ev : Event} : (s.loadLost q ev).MemOk := by
  rw [State.loadLost]
  split
  · exact hs.tryPerform.loseAnswer
  · exact hs.tryPerform

theorem outOk_execFabricLoadLand (hs : s.MemOk) {id : Nat} : OutOk (execFabricLoadLand id s) := by
  unfold execFabricLoadLand
  split
  · trivial
  · split
    · exact outOk_execFabricReject hs.dropped
    · split
      · exact hs.loadLost
      · exact State.MemOk.ite hs.loadLands.modDie hs.loadLands

theorem State.MemOk.toHost (hs : s.MemOk) {q : MemReq} : (s.toHost q).MemOk := hs.schedule

theorem State.MemOk.fabricStored (hs : s.MemOk) {q : MemReq} : (s.fabricStored q).MemOk := by
  rw [State.fabricStored]
  split
  · exact hs.storeDone.loseAnswer
  · exact hs.storeDone

theorem outOk_execFabricStorePerformed (hs : s.MemOk) {id : Nat} : OutOk (execFabricStorePerformed id s) := by
  unfold execFabricStorePerformed
  split
  · trivial
  · split
    · exact hs.dropped.schedule
    · split
      · exact hs.toHost
      · exact hs.fabricStored
      · exact hs.fabricStored
      · exact hs.fabricStored

theorem outOk_execHomePortAtomic (hs : s.MemOk) {id : Nat} : OutOk (execHomePortAtomic id s) := by
  unfold execHomePortAtomic
  split
  · trivial
  · split
    · exact hs.dropped.schedule
    · exact State.MemOk.ite hs.tryPerform.loseAnswer (State.MemOk.ite hs.tryPerform.schedule hs.tryPerform)

theorem State.MemOk.beginReq (hs : s.MemOk) {token : Option (DieId × Nat × Bool)} : (s.beginReq token).MemOk := hs.modMe

theorem outOk_execControlAnswerLand (hs : s.MemOk) {a : Agent} : OutOk (execControlAnswerLand a s) := by
  unfold execControlAnswerLand
  split
  · split
    · exact hs.modCtx
    · trivial
  · trivial

theorem memOk_answerWait {send : State → State} (hsend : ∀ t : State, t.MemOk → (send t).MemOk) : (answerWait send s).MemOk := by
  unfold answerWait
  split
  · exact hsend
  · split
    · trivial
    · exact fun _ ht => ht

theorem State.MemOk.takeAnswer (hs : s.MemOk) {d : BitVec 6} : (s.takeAnswer d).MemOk := hs.modMe.nextM

theorem State.MemOk.askToken (hs : s.MemOk) {a : ℤ} {x : Bool} : (s.askToken a x).MemOk := by
  rw [State.askToken]
  split
  · exact hs.beginReq.answer
  · split
    · exact hs.beginReq.answer
    · split
      · exact hs.beginReq.answer
      · exact hs.beginReq.modMe.sendFlit

theorem State.MemOk.serveDir (hs : s.MemOk) {home : DieId} {page fuel : Nat} : (s.serveDir home page fuel).MemOk := by
  induction fuel generalizing s with
  | zero => exact hs
  | succ n ih =>
    simp only [State.serveDir]
    split
    · exact hs
    · refine .ite hs (.ite (ih hs.modDie.sendFlit) ?_)
      exact State.MemOk.foldl hs.modDie (fun _ _ h => h.sendFlit)

theorem outOk_execTokenRequest (hs : s.MemOk) {home src : DieId} {page : Nat} {excl : Bool} :
    OutOk (execTokenRequest home src page excl s) :=
  hs.modDie.serveDir

theorem outOk_execOwnershipRecall (hs : s.MemOk) {d home : DieId} {page : Nat} : OutOk (execOwnershipRecall d home page s) :=
  hs.modDie.sendFlit

theorem outOk_execRecallDone (hs : s.MemOk) {home src : DieId} {page : Nat} : OutOk (execRecallDone home src page s) :=
  hs.modDie.modDie.serveDir

theorem outOk_execTokenGrant (hs : s.MemOk) {d home : DieId} {page : Nat} {excl : Bool} :
    OutOk (execTokenGrant d home page excl s) := by
  refine State.MemOk.foldl hs.modDie fun _ _ hs => ?_
  split
  · split
    · exact .ite hs.answer hs
    · exact hs
  · exact hs

/-! ## Ordering -/

theorem State.MemOk.beginWaita (hs : s.MemOk) {f : Bool} {addr : ℤ} : (s.beginWaita f addr).MemOk := by
  unfold State.beginWaita
  split
  · exact hs
  · exact hs.modMe.schedule

theorem State.MemOk.waitaRead (hs : s.MemOk) {f : Bool} {addr : ℤ} : (s.waitaRead f addr).MemOk :=
  State.MemOk.schedule (State.MemOk.modMe (State.MemOk.ite hs.dropped hs.readHome))

theorem outOk_execWaitaReread (hs : s.MemOk) {a : Agent} : OutOk (execWaitaReread a s) := by
  have ht : State.MemOk { s with cur := a } := hs
  unfold execWaitaReread
  dsimp only
  split
  · refine outOk_ite trivial (outOk_ite ?snooped (outOk_ite ?kept ?read))
    case snooped => exact ht.backInvalidate.modMe.schedule.others
    case kept => exact ht.modMe.schedule.others
    case read => exact ht.waitaRead.others
  · trivial

end Sys2Proof.Machine
end

section
/-! PROOF. The engines and boot keep the canonical form of memory (O50). -/

namespace Sys2Proof.Machine

-- One declaration after the other: elaborated side by side, these many proofs hold more stacks than the check has memory for.
set_option Elab.async false

variable {s t : State}

/-! ## Sequences and gathers -/

/-- A service of an engine that leaves every memory space in canonical form. -/
def Serve.MemOk : Serve → Prop
  | .wait t => t.MemOk
  | .done t _ _ _ => t.MemOk

/-- A gather that leaves every memory space in canonical form. -/
def GatherOut.MemOk : GatherOut → Prop
  | .fails t _ => t.MemOk
  | .waits t => t.MemOk
  | .snoops _ => True
  | .done g => g.st.MemOk

theorem serveOk_ite {c : Prop} [Decidable c] {x y : Serve} (hx : x.MemOk) (hy : y.MemOk) : Serve.MemOk (if c then x else y) := by
  split <;> assumption

theorem gatherOk_ite {c : Prop} [Decidable c] {x y : GatherOut} (hx : x.MemOk) (hy : y.MemOk) : GatherOut.MemOk (if c then x else y) := by
  split <;> assumption

theorem State.MemOk.askEngine (hs : s.MemOk) {op : EngOp} : (s.askEngine op).MemOk := hs.modDie.tick1

theorem sylOk_control {p : BitVec 4} {d : BitVec 6} {rd : List (BitVec 6)} {op : State → EngOp} : (controlSyl p d rd op).MemOk where
  act _ hs := hs.takeAnswer
  wait _ := by
    simp only [controlSyl]
    exact memOk_answerWait fun _ hs => hs.askEngine.beginReq

theorem memOk_gatherWait {d : BitVec 5} {tag : Nat} : (s.gatherWait d tag).MemOk := by
  rw [State.gatherWait]
  split
  · trivial
  · split <;> trivial

theorem State.MemOk.askTile (hs : s.MemOk) {t : BitVec 3} {fmt : Nat} {op : EngOp} : (s.askTile t fmt op).MemOk :=
  hs.askEngine.setTileTag.markUsed.takeTag

theorem State.MemOk.sendRequests (hs : s.MemOk) {d : DieId} : (s.sendRequests d).MemOk :=
  hs.foldl fun _ _ hs => State.MemOk.ite hs.modDie hs

theorem State.MemOk.leaveEngine (hs : s.MemOk) {d : DieId} {q : EngReq} {cost : Nat} : (s.leaveEngine d q cost).MemOk := hs.modDie

theorem State.MemOk.reply (hs : s.MemOk) {q : EngReq} {cost : Nat} {w : Word} {trap : Option (Nat × Word)} :
    (s.reply q cost w trap).MemOk := by
  rw [State.reply]
  split
  · exact hs.answer
  · exact hs

theorem State.MemOk.keyLost (hs : s.MemOk) {d home : DieId} : (s.keyLost d home).MemOk := by
  rw [State.keyLost]
  split
  · exact hs
  · split
    · exact hs.dropMsg
    · split
      · exact hs.dropMsg
      · exact hs

theorem State.MemOk.failEntry (hs : s.MemOk) {d : DieId} {h : Nat} {own : Agent} : (s.failEntry d h own).MemOk := hs.modDie.dieEvent

theorem State.MemOk.meetOwnEntry (hs : s.MemOk) {d : DieId} {h : Nat} {own : Agent} : (s.meetOwnEntry d h own).MemOk := by
  rw [State.meetOwnEntry]
  split
  · exact hs.failEntry.countErrors
  · split
    · exact hs.modDie.countErrors
    · exact hs

theorem State.MemOk.meetEntry (hs : s.MemOk) {d : DieId} {h : Nat} {own : Agent} : (s.meetEntry d h own).MemOk := by
  rw [State.meetEntry]
  split
  · exact hs.meetOwnEntry
  · split
    · split
      · exact hs.meetOwnEntry.meetOwnEntry
      · exact hs.meetOwnEntry
    · exact hs.meetOwnEntry
    · split
      · exact hs.meetOwnEntry.keyLost
      · exact hs.meetOwnEntry

theorem State.MemOk.meetTable (hs : s.MemOk) {d : DieId} {h : Nat} {e : SeqEntry} {blocks : List Nat} {own : Agent} :
    (s.meetTable d h e blocks own).MemOk := by
  rw [State.meetTable]
  split
  · exact (hs.foldl (fun _ _ hs => hs.meetDie)).failEntry
  · exact hs.foldl fun _ _ hs => hs.meetDie

theorem Die.countRun_memWf {k : Die} {h : Home} {addr n : Nat} {before after : Mem} (hk : k.memWf = true) :
    (k.countRun h addr n before after).memWf = true := by
  rw [Die.memWf, Die.countRun_memories.1, Die.countRun_memories.2]
  exact hk

theorem Die.memWf_ite {c : Prop} [Decidable c] {k l : Die} (hk : k.memWf = true) (hl : l.memWf = true) :
    (if c then k else l).memWf = true := by
  split <;> assumption

theorem Die.memWf_gallery {k : Die} (hg : Machine.memWf k.gallery = true) (hc : Machine.memWf k.codeStore = true) : k.memWf = true := by
  rw [Die.memWf, hg, hc]
  rfl

theorem State.MemOk.engineWrite (hs : s.MemOk) {d : DieId} {own : Agent} {addr : Nat} {data : List Byte} {count : Bool} :
    (s.engineWrite d own addr data count).MemOk := by
  have hk : Die.memWf { s.die d with
      gallery := memWrite (s.die d).gallery addr data
      bad := (s.die d).bad.filter (fun w => !(addr ≤ w && w + 8 ≤ addr + data.length))
      badOnce := mendOnce (s.die d).badOnce addr data.length } = true :=
    Die.memWf_gallery (memWf_memWrite _ _ (hs.gallery d)) (hs.codeStore d)
  exact State.MemOk.dropCopies (hs.putDie (Die.memWf_ite (Die.countRun_memWf hk) hk))

theorem State.MemOk.zeroFrame (hs : s.MemOk) {d : DieId} {own : Agent} {addr n : Nat} {count : Bool} :
    (s.zeroFrame d own addr n count).MemOk := by
  have hk : Die.memWf { s.die d with
      gallery := memClear (s.die d).gallery addr n
      bad := (s.die d).bad.filter (fun w => !(addr ≤ w && w + 8 ≤ addr + n))
      badOnce := mendOnce (s.die d).badOnce addr n } = true :=
    Die.memWf_gallery (memWf_memClear (hs.gallery d)) (hs.codeStore d)
  exact State.MemOk.dropCopies (hs.putDie (Die.memWf_ite (Die.countRun_memWf hk) hk))

theorem State.MemOk.writeTable (hs : s.MemOk) {d : DieId} {own : Agent} {e : SeqEntry} {b : Nat} : (s.writeTable d own e b).MemOk :=
  hs.foldl fun _ _ hs => hs.engineWrite

theorem State.MemOk.copyTail (hs : s.MemOk) {d : DieId} {own : Agent} {e : SeqEntry} {new : Nat} {count : Bool} :
    (s.copyTail d own e new count).MemOk :=
  hs.meetDie.engineWrite.modDie

theorem serveOk_serveNew (hs : s.MemOk) {d : DieId} {q : EngReq} {a : Word} : (s.serveNew d q a).MemOk := by
  rw [State.serveNew]
  split
  · exact hs
  · split
    · exact hs
    · exact State.MemOk.ite hs.modDie.forward hs.modDie

theorem State.MemOk.askMirror (hs : s.MemOk) {d : DieId} {q : EngReq} {m : MirrorOp} : (s.askMirror d q m).MemOk := hs.forward.modDie

theorem serveOk_serveRes (hs : s.MemOk) {d : DieId} {q : EngReq} {hw nw : Word} {asked : Bool} : (s.serveRes d q hw nw asked).MemOk := by
  unfold State.serveRes
  dsimp only
  split
  · exact hs
  · refine serveOk_ite hs (serveOk_ite hs (serveOk_ite hs ?_))
    split
    · exact hs
    · refine serveOk_ite ?snooped (serveOk_ite ?mirror ?done)
      case snooped => exact hs.backInvalidate
      case mirror => exact hs.askMirror
      case done => exact State.MemOk.writeTable (State.MemOk.foldl hs.setDie fun _ _ hs => hs.zeroFrame)

theorem serveOk_serveCom (hs : s.MemOk) {d : DieId} {q : EngReq} {fw hw nw : Word} : (s.serveCom d q fw hw nw).MemOk := by
  rw [State.serveCom]
  split
  · exact hs
  · split
    · exact hs
    · exact State.MemOk.ite hs.setDie.askMirror hs.setDie

theorem serveOk_serveLen (hs : s.MemOk) {d : DieId} {q : EngReq} {hw qw : Word} : (s.serveLen d q hw qw).MemOk := by
  unfold State.serveLen
  extract_lets k e i t give
  have hgive (v : SeqEntry) (hops : Nat) : (give v hops).MemOk := by
    dsimp only [give]
    split
    · exact hs
    · exact hs
    · exact serveOk_ite (serveOk_ite hs.backInvalidate (serveOk_ite hs.meetTable hs.meetTable)) hs
    · exact hs
    · exact hs
  split
  · exact hs
  · split
    · exact hgive _ _
    · split
      · exact hs
      · exact hs
      · exact serveOk_ite hs (serveOk_ite hs (hgive _ _))

theorem serveOk_serveFork (hs : s.MemOk) {d : DieId} {q : EngReq} {hw : Word} {asked : Bool} : (s.serveFork d q hw asked).MemOk := by
  unfold State.serveFork
  dsimp only
  split
  · exact hs
  · refine serveOk_ite hs.backInvalidate (serveOk_ite hs.meetTable ?_)
    split
    · refine serveOk_ite hs.meetTable.backInvalidate.backInvalidate (serveOk_ite hs.meetTable.askMirror ?_)
      dsimp only [Serve.MemOk]
      split
      · exact hs.meetTable.setDie.writeTable.copyTail
      · exact hs.meetTable.setDie.writeTable
    · exact hs.meetTable

theorem serveOk_serveDrop (hs : s.MemOk) {d : DieId} {q : EngReq} {hw : Word} : (s.serveDrop d q hw).MemOk := by
  unfold State.serveDrop
  dsimp only
  split
  · exact hs
  · exact serveOk_ite hs.backInvalidate (serveOk_ite hs.meetTable (State.MemOk.ite hs.meetTable.modDie.forward hs.meetTable.modDie))

theorem State.MemOk.drawLines (hs : s.MemOk) {d : DieId} {n : Nat} : (s.drawLines d n).1.MemOk := by
  rw [State.drawLines]
  split
  · exact hs
  · split
    · exact hs.modDie
    · exact hs

theorem outOk_execFarReadBucketRefill (hs : s.MemOk) {d : DieId} : OutOk (execFarReadBucketRefill d s) := by
  rw [execFarReadBucketRefill]
  split
  · trivial
  · exact hs.setDie

theorem State.MemOk.beginCopies (hs : s.MemOk) {d : DieId} {i : SlotId} {h : Nat} {v : SeqEntry} {hops : Nat} {deadline : BitVec 32}
    {blocks : List Nat} : (s.beginCopies d i h v hops deadline blocks).MemOk := by
  refine State.MemOk.foldlFst hs fun acc b hacc => ?_
  dsimp only
  split
  · exact hacc
  · exact hacc.drawLines.modDie.schedule.tick1

theorem serveOk_servePre (hs : s.MemOk) {d : DieId} {q : EngReq} {rw hw bw : Word} : (s.servePre d q rw hw bw).MemOk := by
  unfold State.servePre
  dsimp only
  split
  · exact hs
  · split
    · split
      · exact hs
      · exact hs
      · refine serveOk_ite hs (serveOk_ite hs (serveOk_ite hs (serveOk_ite ?snooped (serveOk_ite ?bad (serveOk_ite hs ?copies)))))
        case snooped => exact hs.backInvalidate
        case bad => exact hs.meetTable
        case copies => exact hs.meetTable.beginCopies
    · exact hs

theorem outOk_execStageAheadCopyLand (hs : s.MemOk) {d : DieId} {id : Nat} : OutOk (execStageAheadCopyLand d id s) := by
  unfold execStageAheadCopyLand
  dsimp only
  split
  · trivial
  · split
    · exact hs.setDie
    · refine outOk_ite ?late (outOk_ite ?gone (outOk_ite ?snooped (outOk_ite ?table (outOk_ite ?bad ?landed))))
      case late => exact hs.setDie
      case gone => exact hs.meetEntry.modDie
      case snooped => exact hs.meetEntry.backInvalidate.backInvalidate.schedule
      case table => exact hs.meetEntry.meetTable.modDie
      case bad => exact hs.meetEntry.meetTable.meetDie.modDie.dieEvent
      case landed => exact hs.meetEntry.meetTable.meetDie.engineWrite.modDie

theorem State.MemOk.expireCopies (hs : s.MemOk) {d : DieId} : (s.expireCopies d).MemOk := hs.foldl fun _ _ hs => hs.modDie

theorem Die.markFrame_memories {k : Die} {w : Nat} : (k.markFrame w).gallery = k.gallery ∧ (k.markFrame w).codeStore = k.codeStore := by
  unfold Die.markFrame
  split
  · split <;> exact ⟨rfl, rfl⟩
  · exact ⟨rfl, rfl⟩

theorem State.MemOk.markFrame (hs : s.MemOk) {h : Home} {w : Nat} : (s.markFrame h w).MemOk := by
  cases h with
  | die d => exact hs.modDie (fun _ => Die.markFrame_memories.1) (fun _ => Die.markFrame_memories.2)
  | core c => exact hs
  | ctrl d => exact hs
  | host p v => exact hs

theorem State.MemOk.meetReads (hs : s.MemOk) {own : Agent} {rs : List GRead} : (s.meetReads own rs).MemOk :=
  hs.foldl (fun _ _ hs => hs.meetHome.foldl (fun _ _ hs => hs.markFrame.dieEvent))

theorem State.MemOk.walkPages (hs : s.MemOk) {d : DieId} {vpns : List Nat} : (s.walkPages d vpns).MemOk :=
  hs.foldl fun _ _ hs => hs.meetWalk.modDie

theorem gatherOk_gatherRuns (hs : s.MemOk) {d : DieId} {own : Agent} {space : Nat} {runs : List Span} {base : Nat} :
    (s.gatherRuns d own space runs base).MemOk := by
  unfold State.gatherRuns
  exact gatherOk_ite hs (gatherOk_ite trivial (State.MemOk.foldl hs.walkPages.meetReads fun _ _ hs => hs.keyLost))

theorem gatherOk_gatherSlots (hs : s.MemOk) {d : DieId} {own : Agent} {td : Desc} {mode : BitVec 2} {bw : Word} :
    (s.gatherSlots d own td mode bw).MemOk := by
  unfold State.gatherSlots
  extract_lets h s'
  have hs' : s'.MemOk := hs.meetEntry
  split
  · exact hs'
  · exact hs'
  · exact gatherOk_ite hs' (gatherOk_ite trivial (gatherOk_ite hs' hs'.drawLines.modDie.meetTable.meetReads))

theorem State.MemOk.startFill (hs : s.MemOk) {d : DieId} {q : EngReq} {tag : BitVec 4} {v : Option (BitVec 5)} {t : Option (BitVec 3)}
    {data : List Byte} {fail : Option (Nat × Nat)} {h cost : Nat} :
    (s.startFill d q tag v t data fail h cost).MemOk := by
  rw [State.startFill]
  split
  · exact hs
  · exact hs.modDie.schedule

theorem State.MemOk.serveGather (hs : s.MemOk) {d : DieId} {q : EngReq} {tag : BitVec 4} {v : Option (BitVec 5)} {t : Option (BitVec 3)}
    {n h : Nat} {g : GatherOut} (hg : g.MemOk) : (s.serveGather d q tag v t n h g).MemOk := by
  cases g with
  | fails t why => exact State.MemOk.leaveEngine (State.MemOk.startFill hg)
  | waits t => exact hg
  | snoops ls => exact hs.foldl fun _ _ hs => hs.backInvalidate
  | done g => exact State.MemOk.leaveEngine (State.MemOk.startFill hg)

theorem memOk_finishServe {d : DieId} {q : EngReq} {v : Serve} (hv : v.MemOk) : (finishServe d q v).MemOk := by
  cases v with
  | wait t => exact hv
  | done t cost w trap => exact State.MemOk.leaveEngine (State.MemOk.ite hv (State.MemOk.reply hv))

theorem State.MemOk.serveSeq (hs : s.MemOk) {d : DieId} {q : EngReq} {asked : Bool} : (s.serveSeq d q asked).MemOk := by
  unfold State.serveSeq
  extract_lets s'
  have hs' : s'.MemOk := by
    dsimp only [s']
    split
    · exact .ite hs (.ite hs.meetEntry hs.meetOwnEntry)
    · exact hs
  split
  · exact memOk_finishServe (serveOk_serveNew hs')
  · exact memOk_finishServe (serveOk_serveRes hs')
  · exact memOk_finishServe (serveOk_serveCom hs')
  · exact memOk_finishServe (serveOk_serveLen hs')
  · exact memOk_finishServe (serveOk_serveFork hs')
  · exact memOk_finishServe (serveOk_serveDrop hs')
  · exact memOk_finishServe (serveOk_servePre hs')
  · exact hs'.serveGather (gatherOk_gatherRuns hs')
  · exact hs'.serveGather (gatherOk_gatherRuns hs')
  · exact hs'.serveGather (gatherOk_gatherSlots hs')
  · exact hs'
  · exact hs'

theorem outOk_execSeqRequestServe (hs : s.MemOk) {d : DieId} : OutOk (execSeqRequestServe d s) := by
  unfold execSeqRequestServe
  split
  · exact hs.serveSeq
  · trivial

theorem outOk_execGatherFillDone (hs : s.MemOk) {d : DieId} {id : Nat} : OutOk (execGatherFillDone d id s) := by
  unfold execGatherFillDone
  split
  · trivial
  · rename_i f _
    extract_lets s' t u
    have hs' : s'.MemOk := hs.modDie
    have ht : t.MemOk := by
      dsimp only [t]
      split
      · exact hs'.modCtx
      · exact hs'
    have hu : u.MemOk := by
      dsimp only [u]
      split
      · exact ht.modCore (by exact fun _ => mendMat_mem ..) (by exact fun _ => mendMat_window ..)
      · exact ht
    exact hu.modCtx

theorem Die.dropShadow_memories {k : Die} {home : DieId} {h : Nat} :
    (k.dropShadow home h).gallery = k.gallery ∧ (k.dropShadow home h).codeStore = k.codeStore := by
  unfold Die.dropShadow
  split <;> exact ⟨rfl, rfl⟩

theorem State.MemOk.applyReserve (hs : s.MemOk) {d home : DieId} {h n id : Nat} : (s.applyMirror d home (.reserve h n id)).1.MemOk := by
  rw [State.applyMirror]
  split
  · exact hs
  · split
    · exact hs
    · exact State.MemOk.writeTable (State.MemOk.foldl hs.setDie fun _ _ hs => hs.zeroFrame)

theorem State.MemOk.applyCommit (hs : s.MemOk) {d home : DieId} {h f n id : Nat} : (s.applyMirror d home (.commit h f n id)).1.MemOk := by
  rw [State.applyMirror]
  split
  · exact hs
  · split
    · exact hs
    · exact hs.setDie

theorem State.MemOk.applyFork (hs : s.MemOk) {d home : DieId} {h child id : Nat} :
    (s.applyMirror d home (.fork h child id)).1.MemOk := by
  have hdrop := Die.dropShadow_memories (k := s.die d) (home := home) (h := child)
  rw [State.applyMirror]
  split
  · exact hs
  · split
    · exact hs
    · rename_i e _ r ce tail frames _
      have hmade : (s.setDie d ({ ((s.die d).dropShadow home child) with frames := frames }.setShadow
          { home := home, handle := child, entry := ce })).MemOk := hs.setDie hdrop.1 hdrop.2
      generalize s.setDie d _ = t at hmade ⊢
      cases tail with
      | some f => exact hmade.writeTable.copyTail
      | none => exact hmade.writeTable

theorem State.MemOk.applyStore (hs : s.MemOk) {d home : DieId} {h i off : Nat} {data : List Byte} :
    (s.applyMirror d home (.store h i off data)).1.MemOk := by
  rw [State.applyMirror]
  split
  · exact hs
  · split
    · exact hs
    · exact hs.putGallery (by exact memWf_writeAround (hs.gallery d))

theorem State.MemOk.applyMirror (hs : s.MemOk) {d home : DieId} {m : MirrorOp} : (s.applyMirror d home m).1.MemOk := by
  have hdrop (h : Nat) := Die.dropShadow_memories (k := s.die d) (home := home) (h := h)
  cases m with
  | create h size kv id => exact hs.setDie (hdrop h).1 (hdrop h).2
  | reserve h n id => exact hs.applyReserve
  | commit h f n id => exact hs.applyCommit
  | fork h child id => exact hs.applyFork
  | drop h id => exact hs.setDie (hdrop h).1 (hdrop h).2
  | store h i off data => exact hs.applyStore

theorem State.MemOk.doMirror (hs : s.MemOk) {d : DieId} {m : MirrorMsg} : (s.doMirror d m).MemOk := by
  rw [State.doMirror]
  split
  · exact hs.applyMirror.sendFlit
  · exact hs.applyMirror

theorem State.MemOk.settleMirror (hs : s.MemOk) {d : DieId} {fuel : Nat} : (s.settleMirror d fuel).MemOk := by
  induction fuel generalizing s with
  | zero => exact hs
  | succ n ih =>
    simp only [State.settleMirror]
    split
    · exact hs
    · exact .ite (ih hs.modDie.doMirror) hs.backInvalidate.backInvalidate

theorem outOk_execMirrorForward (hs : s.MemOk) {d : DieId} {m : MirrorMsg} : OutOk (execMirrorForward d m s) := by
  rw [execMirrorForward]
  split
  · exact hs.doMirror
  · exact hs.modDie

theorem outOk_execMirrorAcknowledgement (hs : s.MemOk) {d : DieId} {id : Nat} {ok : Bool} :
    OutOk (execMirrorAcknowledgement d id ok s) := by
  unfold execMirrorAcknowledgement
  dsimp only
  split
  · trivial
  · split
    · exact State.MemOk.ite hs.setDie.serveSeq (memOk_finishServe (by exact hs.setDie))
    · exact hs.setDie.answer

theorem outOk_execSupervisorFreesEntry (hs : s.MemOk) {d : DieId} {h : Nat} : OutOk (execSupervisorFreesEntry d h s) := by
  rw [execSupervisorFreesEntry]
  split
  · exact hs.setDie
  · trivial

/-! ## The posting engine -/

theorem State.MemOk.loseBlock (hs : s.MemOk) {d : DieId} {h blk : Nat} {own : Agent} : (s.loseBlock d h blk own).MemOk := by
  rw [State.loseBlock]
  split
  · exact hs.meetEntry.meetTable
  · exact hs.meetEntry

theorem State.MemOk.loseList (hs : s.MemOk) {d : DieId} {h : Nat} : (s.loseList d h).MemOk := by
  unfold State.loseList
  split
  · exact hs.keyLost
  · exact hs

theorem State.MemOk.runContext (hs : s.MemOk) {d : DieId} {n : Nat} {q : Query} : (s.runContext d n q).MemOk := by
  unfold State.runContext
  extract_lets r far w s₁ s₂ own s₃
  have h₂ : s₂.MemOk := State.MemOk.foldl hs.drawLines.modDie fun _ _ hs => hs.meetDie
  have h₃ : s₃.MemOk := by
    dsimp only [s₃]
    split
    · exact .ite h₂ (.ite h₂.loseBlock (.ite h₂.loseList h₂))
    · exact h₂
  split
  · exact h₃.backInvalidate
  · exact h₃

theorem State.MemOk.answerChunk (hs : s.MemOk) {d : DieId} {r : ChunkReq} {at_ : Nat} {data : List Byte}
    {fail : Option (Nat × Nat × Nat)} {last : Option Nat} :
    (s.answerChunk d r at_ data fail last).MemOk :=
  hs.modDie.schedule

theorem State.MemOk.settleChunk (hs : s.MemOk) {d : DieId} {r : ChunkReq} : (s.settleChunk d r).MemOk := by
  unfold State.settleChunk
  dsimp only
  split
  · exact hs.modDie.answer
  · refine .ite hs.answerChunk ?_
    split
    · exact hs
    · exact .ite hs.answerChunk hs.answerChunk

theorem State.MemOk.settleChunks (hs : s.MemOk) {d : DieId} : (s.settleChunks d).MemOk :=
  hs.foldl fun _ _ hs => State.MemOk.ite hs hs.settleChunk

theorem outOk_execPlChunkTagReady (hs : s.MemOk) {d : DieId} {id : Nat} : OutOk (execPlChunkTagReady d id s) := by
  unfold execPlChunkTagReady
  split
  · trivial
  · exact State.MemOk.modCtx (by split; exacts [hs.modDie.modCtx, hs.modDie])

theorem State.MemOk.plReply (hs : s.MemOk) {d : DieId} {r : EngReq} {w : Word} : (s.plReply d r w).MemOk := by
  rw [State.plReply]
  split
  · exact hs.modDie
  · exact hs.reply

theorem State.MemOk.serveQuery (hs : s.MemOk) {d : DieId} {r : EngReq} {xa : Word} (h : s.serveQuery d r xa = some t) : t.MemOk := by
  unfold State.serveQuery at h
  extract_lets k met at h
  have hmet {u : State} (hu : u.MemOk) : (met u).MemOk := hu.foldl fun _ _ hs => hs.meetDie
  split at h
  · cases h
    exact hs.plReply
  · extract_lets gen begin_ at h
    have hbegin (q : Query) : (begin_ q).MemOk := State.MemOk.plReply (.ite hs.modDie hs.modDie.runContext)
    split at h
    · cases h
    · split at h
      · cases h
      · cases h
        exact .ite (hmet (hbegin _)).loseList (.ite (hmet (hbegin _)).meetEntry (hmet (hbegin _)))
      · cases h
        exact hmet (hbegin _)

theorem State.MemOk.serveRsp (hs : s.MemOk) {d : DieId} {r : EngReq} {qw : Word} {v : BitVec 5} {tag : BitVec 4} :
    (s.serveRsp d r qw v tag).MemOk := by
  rw [State.serveRsp]
  split
  · exact hs
  · split
    · exact hs.setDie
    · exact hs.setDie

theorem State.MemOk.servePosting (hs : s.MemOk) {d : DieId} {fuel : Nat} : (s.servePosting d fuel).MemOk := by
  induction fuel generalizing s with
  | zero => exact hs
  | succ n ih =>
    simp only [State.servePosting]
    split
    · exact hs
    · split
      · split
        · rename_i hquery
          exact ih (hs.serveQuery hquery).modDie
        · exact hs.backInvalidate
      · exact ih hs.serveRsp.modDie
      · exact hs

theorem State.MemOk.decodeFor (hs : s.MemOk) {d : DieId} {n t : Nat} : (s.decodeFor d n t).MemOk := by
  unfold State.decodeFor
  extract_lets q h c fails
  have hfails {u : State} (hu : u.MemOk) (st : Nat) : (fails u st).MemOk := hu.modDie
  split
  · exact hs
  · exact hfails (.ite hs.loseList hs) _
  · extract_lets a snoops w s₁ s₂
    have h₂ : s₂.MemOk := State.MemOk.meetDie (State.MemOk.meetDie (State.MemOk.modDie hs.drawLines))
    refine .ite hs.backInvalidate (.ite (hfails hs.loseBlock _) (.ite hs (.ite (hfails h₂ _) ?_)))
    split
    · exact hfails h₂ _
    · exact h₂.runContext

theorem outOk_execPlBlockDecode (hs : s.MemOk) {d : DieId} : OutOk (execPlBlockDecode d s) := by
  rw [execPlBlockDecode]
  split
  · trivial
  · split
    · trivial
    · split
      · exact hs.decodeFor
      · exact hs.runContext

/-! ## Scrubbing and resets -/

theorem Die.frameScrubbed_memories {k : Die} {addr : Nat} :
    (k.frameScrubbed addr).gallery = k.gallery ∧ (k.frameScrubbed addr).codeStore = k.codeStore := by
  rw [Die.frameScrubbed]
  split <;> exact ⟨rfl, rfl⟩

theorem outOk_execScrubRead (hs : s.MemOk) {d : DieId} {core : Option CoreId} {addr : Nat} : OutOk (execScrubRead d core addr s) := by
  unfold execScrubRead
  split
  · exact hs.meetOther.modDie (fun _ => Die.frameScrubbed_memories.1) (fun _ => Die.frameScrubbed_memories.2)
  · exact hs.meetOther

theorem State.MemOk.scrubSup (hs : s.MemOk) {v : SupId} {addr : Nat} : (s.scrubSup v addr).MemOk :=
  hs.meetSup.foldl fun _ _ hs => hs.dieEvent

theorem State.MemOk.scrubTurns (hs : s.MemOk) : s.scrubTurns.MemOk := hs.foldl fun _ _ hs => State.MemOk.ite hs hs.setArb

theorem State.MemOk.scrub (hs : s.MemOk) {d : DieId} : (s.scrub d).MemOk := by
  unfold State.scrub
  extract_lets k s₁ s₂ s₃ s₄
  have h₁ : s₁.MemOk := hs.modDie
  have h₂ : s₂.MemOk := .ite (.ite h₁ (h₁.foldl fun _ _ hs => hs.orStay (outOk_execScrubRead hs))) hs
  have h₃ : s₃.MemOk := h₂.modDie
  have h₄ : s₄.MemOk := h₃.foldl fun _ _ hs => hs.foldl fun _ _ hs => hs.orStay (outOk_execScrubRead hs)
  exact .ite hs (.ite (h₄.foldl fun _ _ hs => hs.foldl fun _ _ hs => hs.scrubSup) h₂)

theorem State.MemOk.loseRequests (hs : s.MemOk) {c : CoreId} : (s.loseRequests c).MemOk :=
  hs.foldl fun _ _ hs => State.MemOk.ite hs.dropReq hs.dropReq.modCtx

theorem State.MemOk.emptySlots (hs : s.MemOk) {c : CoreId} : (s.emptySlots c).MemOk :=
  ((hs.foldl (fun _ _ hs => hs.modSlot)).foldl (fun _ _ hs => hs.leaveActive.dropWork.dropFiring)).others

theorem outOk_execCoreReset (hs : s.MemOk) {c : CoreId} : OutOk (execCoreReset c s) :=
  State.MemOk.modClu (hs.loseRequests.emptySlots.putCore rfl)

theorem State.MemOk.resetLanding (hs : s.MemOk) {d : DieId} : (s.resetLanding d).MemOk := by
  rw [State.resetLanding]
  split
  · exact hs
  · exact State.MemOk.modPkg (State.MemOk.ite hs.hostPorts hs)

theorem State.MemOk.sublists (hs : s.MemOk) (hc : t.cores ⊆ s.cores) (hv : t.sups ⊆ s.sups) (hd : t.dies ⊆ s.dies)
    (hp : t.pkgs ⊆ s.pkgs) :
    
    t.MemOk := by
  obtain ⟨cores, sups, dies, pkgs⟩ := State.memOk_iff.1 hs
  exact State.memOk_iff.2
    ⟨fun e he => cores e (hc he), fun e he => sups e (hv he), fun e he => dies e (hd he), fun e he => pkgs e (hp he)⟩

theorem outOk_execDieReset (hs : s.MemOk) {d : DieId} : OutOk (execDieReset d s) :=
  State.MemOk.sublists (hs.resetLanding (d := d)) (List.filter_subset_self _) (List.filter_subset_self _)
    (by exact List.filter_subset_self _) (List.Subset.refl _)

theorem outOk_execThermalThrottle (hs : s.MemOk) {d : DieId} : OutOk (execThermalThrottle d s) := hs.modDie

theorem outOk_execThermalClockRaise (hs : s.MemOk) {d : DieId} : OutOk (execThermalClockRaise d s) := hs.modDie

theorem outOk_execThermalTrip (hs : s.MemOk) {d : DieId} : OutOk (execThermalTrip d s) :=
  State.MemOk.modPkg (hs.orStay (outOk_execDieReset hs))

/-! ## Boot -/

theorem State.MemOk.modBoot (hs : s.MemOk) {pkg : Nat} {f : Boot → Boot} : (s.modBoot pkg f).MemOk := hs.modPkg

theorem State.MemOk.manage (hs : s.MemOk) {a b : Nat} {ev : Event} : (s.manage a b ev).MemOk := hs.sendManage

theorem State.MemOk.toChildren (hs : s.MemOk) {pkg : Nat} {k : Packet} : (s.toChildren pkg k).MemOk := hs.foldl fun _ _ hs => hs.manage

theorem State.MemOk.placeBoot (hs : s.MemOk) {pkg : Nat} {parity : Bool} {k : Packet} : (s.placeBoot pkg parity k).MemOk := by
  rw [State.placeBoot]
  split
  · exact State.MemOk.xorOther (State.MemOk.ite hs.modBoot hs)
  · exact State.MemOk.putOther (State.MemOk.ite hs.modBoot hs)

theorem State.MemOk.measure (hs : s.MemOk) {pkg n : Nat} {data : List Byte} : (s.measure pkg n data).MemOk := hs.modPkg

theorem Die.loadCode_memWf {k : Die} {page : Nat} {data : List Byte} (hk : k.memWf = true) : (k.loadCode page data).memWf = true := by
  obtain ⟨hg, hc⟩ := Bool.and_eq_true_iff.1 hk
  exact Die.memWf_gallery (by exact hg) (memWf_memWrite _ _ hc)

theorem State.MemOk.loadCode (hs : s.MemOk) {d : DieId} {page : Nat} {data : List Byte} :
    (s.modDie d (fun k => k.loadCode page data)).MemOk := hs.putDie (Die.loadCode_memWf (hs.die d))

theorem State.MemOk.applyMove (hs : s.MemOk) {pkg : Nat} {m : BootMove} : (s.applyMove pkg m).MemOk := by
  cases m with
  | code die page data => exact hs.measure.loadCode
  | sup die k page data => exact hs.measure.loadCode.modBoot
  | stair die addr data => exact hs.putOther

theorem State.MemOk.moveImages (hs : s.MemOk) {pkg : Nat} {b : BootBlock} {bytes : List Byte} : (s.moveImages pkg b bytes).MemOk := by
  unfold State.moveImages
  extract_lets p s₁ s₂ others s₃
  have h₁ : s₁.MemOk := hs.foldl fun _ _ hs => hs.applyMove
  have h₂ : s₂.MemOk := .ite (h₁.foldl fun _ _ hs => hs.applyMove) h₁
  have h₃ : s₃.MemOk := h₂.foldl fun _ _ hs => hs.modBoot
  exact .ite hs (h₃.foldl fun _ _ hs => hs.modBoot)

theorem State.MemOk.startSup (hs : s.MemOk) {pkg : Nat} {e : Nat × Nat × Nat × Nat} : (s.startSup pkg e).MemOk := by
  refine State.MemOk.modSup (hs.foldl fun u p hu => ?_)
  refine .ite hu.countErrors.dieEvent.modSup (hu.meetStore.putSupWindow ?_ rfl)
  exact memWf_memWrite _ _ (hu.meetStore.supWindow _)

theorem State.MemOk.measureStair (hs : s.MemOk) {pkg : Nat} : (s.measureStair pkg).MemOk :=
  hs.foldl (fun _ _ hs => (State.MemOk.ite hs (hs.foldl (fun _ _ hs => hs.meetOther.measure))))

theorem State.MemOk.bootDone (hs : s.MemOk) {pkg : Nat} : (s.bootDone pkg).MemOk := by
  rw [State.bootDone]
  split
  · exact hs
  · exact (hs.modBoot.packageEvent.measureStair.foldl (fun _ _ hs => hs.startSup)).foldl fun _ _ hs => State.MemOk.ite hs.beginLoad hs

theorem State.MemOk.rejectBlock (hs : s.MemOk) {pkg : Nat} {b : BootBlock} : (s.rejectBlock pkg b).MemOk := by
  rw [State.rejectBlock]
  split
  · split
    · exact hs.modBoot.packageEvent.modBoot.manage
    · split
      · exact hs.modBoot.packageEvent.modPkg
      · exact hs.modBoot.packageEvent
  · split
    · exact hs.modBoot.packageEvent.modPkg
    · exact hs.modBoot.packageEvent

theorem State.MemOk.keepBlock (hs : s.MemOk) {pkg : Nat} {b : BootBlock} {k : Packet} : (s.keepBlock pkg b k).MemOk := by
  rw [State.keepBlock]
  split
  · exact hs.rejectBlock
  · split
    · exact hs.modBoot
    · split
      · exact State.MemOk.bootDone (State.MemOk.moveImages (State.MemOk.modBoot (.ite (hs.foldl fun _ _ hs => hs.placeBoot) hs)))
      · exact hs.rejectBlock

theorem State.MemOk.beginBoot (hs : s.MemOk) {pkg : Nat} {raw : List Packet} : (s.beginBoot pkg raw).MemOk :=
  (hs.modPkg.foldl (fun _ _ hs => hs.toChildren)).bootDone

theorem State.MemOk.takeAgain (hs : s.MemOk) {pkg : Nat} {k : Packet} : (s.takeAgain pkg k).MemOk := by
  rw [State.takeAgain]
  split
  · exact hs.modBoot
  · split
    · exact hs.modBoot
    · split
      · exact hs.modBoot.packageEvent
      · exact hs.beginBoot

theorem State.MemOk.takeManifest (hs : s.MemOk) {pkg : Nat} {k : Packet} : (s.takeManifest pkg k).MemOk := by
  unfold State.takeManifest
  exact .ite hs.takeAgain (.ite hs.modBoot (.ite hs.modBoot.packageEvent hs.beginBoot))

theorem State.MemOk.bootPacket (hs : s.MemOk) {pkg : Nat} {k : Packet} : (s.bootPacket pkg k).MemOk := by
  unfold State.bootPacket
  dsimp only
  refine .ite hs.takeManifest ?_
  split
  · exact hs.toChildren
  · exact .ite hs.toChildren hs.toChildren.keepBlock

theorem outOk_execBootPacket (hs : s.MemOk) {pkg : Nat} {pkt : Packet} : OutOk (execBootPacket pkg pkt s) := hs.bootPacket

theorem outOk_execBootBlockRequest (hs : s.MemOk) {pkg child block : Nat} : OutOk (execBootBlockRequest pkg child block s) := by
  rw [execBootBlockRequest]
  split
  · exact hs.foldl fun _ _ hs => hs.manage
  · split
    · exact hs.manage
    · trivial

theorem State.MemOk.runFirmware (hs : s.MemOk) {pkg : Nat} {image : List Byte} : (s.runFirmware pkg image).MemOk :=
  hs.modPkg.foldl fun _ _ hs => hs.train

theorem State.MemOk.clearPackage (hs : s.MemOk) {pkg : Nat} : (s.clearPackage pkg).MemOk :=
  State.MemOk.putPkg (hs.foldl fun _ _ hs => hs.orStay (outOk_execDieReset hs)) (by exact hs.pkg pkg)

theorem outOk_execPackageReset (hs : s.MemOk) {pkg : Nat} : OutOk (execPackageReset pkg s) :=
  (State.MemOk.ite hs.clearPackage.runFirmware (State.MemOk.ite hs.clearPackage.writePmask hs.clearPackage))

end Sys2Proof.Machine
end

section
/-! PROOF. The host and migration keep the canonical form of memory (O50). -/

namespace Sys2Proof.Machine

-- One declaration after the other: elaborated side by side, these many proofs hold more stacks than the check has memory for.
set_option Elab.async false

variable {s t : State}

/-! ## Mailboxes and host memory -/

theorem State.MemOk.complete (hs : s.MemOk) {pkg code : Nat} {out : List Byte} : (s.complete pkg code out).MemOk := hs.modPkg

theorem outOk_mailboxCmd (hs : s.MemOk) {pkg : Nat} {inRecovery : Bool} {run : State → State}
    (hrun : ∀ u : State, u.MemOk → (run u).MemOk) : OutOk (mailboxCmd pkg inRecovery s run) :=
  outOk_ite trivial (outOk_ite hs.complete (hrun s hs))

theorem outOk_execCxlIdentify (hs : s.MemOk) {pkg : Nat} : OutOk (execCxlIdentify pkg s) :=
  outOk_mailboxCmd hs fun _ hs => hs.complete

theorem outOk_execGetSupportedLogs (hs : s.MemOk) {pkg : Nat} : OutOk (execGetSupportedLogs pkg s) :=
  outOk_mailboxCmd hs fun _ hs => hs.complete

theorem outOk_execGetLog (hs : s.MemOk) {pkg log off len : Nat} : OutOk (execGetLog pkg log off len s) :=
  outOk_mailboxCmd hs fun _ hs => hs.complete

theorem outOk_execGetEventRecords (hs : s.MemOk) {pkg : Nat} : OutOk (execGetEventRecords pkg s) :=
  outOk_mailboxCmd hs fun _ hs => hs.complete

theorem outOk_execClearEventRecords (hs : s.MemOk) {pkg n : Nat} : OutOk (execClearEventRecords pkg n s) :=
  outOk_mailboxCmd hs fun _ hs => hs.modPkg.complete

theorem outOk_manageCmd (hs : s.MemOk) {pkg : Nat} {inRecovery : Bool} {run : State → State} {send : State → State × List Byte}
    (hrun : ∀ u : State, u.MemOk → (run u).MemOk) (hsend : ∀ u : State, u.MemOk → (send u).1.MemOk) :
    OutOk (manageCmd pkg inRecovery s run send) :=
  outOk_ite (outOk_mailboxCmd hs hrun) (outOk_ite trivial (hsend s hs).modPkg)

theorem outOk_execAttest (hs : s.MemOk) {pkg : Nat} {nonce : BitVec 384} {mask : BitVec 16} : OutOk (execAttest pkg nonce mask s) := by
  unfold execAttest
  exact outOk_manageCmd hs (fun _ hs => hs.complete) fun _ hs => hs

theorem outOk_execGetcert (hs : s.MemOk) {pkg idx : Nat} : OutOk (execGetcert pkg idx s) :=
  outOk_mailboxCmd hs fun _ hs => hs.complete

theorem outOk_execMextend (hs : s.MemOk) {pkg reg : Nat} {digest : BitVec 384} : OutOk (execMextend pkg reg digest s) := by
  unfold execMextend
  extract_lets ok run
  have hrun {u : State} (hu : u.MemOk) : (run u).MemOk := .ite hu.modPkg hu
  exact outOk_manageCmd hs (fun _ hu => (hrun hu).complete) fun _ hu => hrun hu

theorem outOk_execRingSetup (hs : s.MemOk) {pkg ring : Nat} {gen : BitVec 32} : OutOk (execRingSetup pkg ring gen s) :=
  outOk_mailboxCmd hs fun _ hs => .ite hs.modPkg.complete hs.complete

theorem State.MemOk.settleMailbox (hs : s.MemOk) {pkg id : Nat} : (s.settleMailbox pkg id).MemOk := by
  unfold State.settleMailbox
  exact .ite hs (.ite hs.modPkg.complete hs.modPkg)

theorem outOk_execRingTeardown (hs : s.MemOk) {pkg ring : Nat} {gen : BitVec 32} : OutOk (execRingTeardown pkg ring gen s) :=
  outOk_mailboxCmd hs fun _ hs => .ite (.ite hs.modPkg.complete hs.modPkg.modPkg) hs.complete

theorem State.MemOk.readOrphans (hs : s.MemOk) {pkg first count : Nat} : (s.readOrphans pkg first count).MemOk :=
  (hs.foldl (fun _ _ hs => hs.meetOther)).complete

theorem outOk_execOrphanRead (hs : s.MemOk) {pkg first count : Nat} : OutOk (execOrphanRead pkg first count s) :=
  outOk_mailboxCmd hs fun _ hs => .ite hs.complete (.ite hs.complete (.ite hs.readOrphans hs.modPkg))

theorem State.MemOk.settleOrphan (hs : s.MemOk) {pkg : Nat} : (s.settleOrphan pkg).MemOk := by
  unfold State.settleOrphan
  split
  · exact hs
  · exact .ite hs.backInvalidate hs.modPkg.readOrphans

theorem outOk_execMgmtRead (hs : s.MemOk) {pkg die addr : Nat} : OutOk (execMgmtRead pkg die addr s) := by
  refine outOk_mailboxCmd hs fun u hu => ?_
  dsimp only
  split
  · exact hu.complete
  · split
    · exact hu.modSup.complete
    · exact hu.complete

theorem outOk_execMgmtWrite (hs : s.MemOk) {pkg die addr : Nat} {v : BitVec 64} : OutOk (execMgmtWrite pkg die addr v s) := by
  refine outOk_mailboxCmd hs fun u hu => ?_
  dsimp only
  split
  · exact hu.complete
  · exact hu.writeReg.complete

theorem outOk_execMailboxUnsupported (hs : s.MemOk) {pkg opcode : Nat} : OutOk (execMailboxUnsupported pkg opcode s) :=
  outOk_ite trivial (outOk_mailboxCmd hs fun _ hs => hs.complete)

theorem State.MemOk.chunkDone (hs : s.MemOk) {pkg status accepted : Nat} : (s.chunkDone pkg status accepted).MemOk := hs.complete

theorem State.MemOk.setTransfer (hs : s.MemOk) {pkg : Nat} {t : Option FwTransfer} : (s.setTransfer pkg t).MemOk := hs.modPkg

theorem State.MemOk.streamPacket (hs : s.MemOk) {pkg : Nat} {k : Packet} {opened : Bool} (h : s.streamPacket pkg k opened = some t) :
    t.MemOk := by
  unfold State.streamPacket at h
  dsimp only at h
  split at h
  · split at h
    · cases h
    · cases h
      exact hs.bootPacket.modBoot
  · split at h
    · cases h
    · split at h
      · cases h
      · split at h
        · cases h
        · split at h
          · cases h
            exact hs.modBoot
          · split at h
            · cases h
              exact hs.modBoot.foldl fun _ _ hs => hs.bootPacket
            · cases h

theorem State.MemOk.streamPackets (hs : s.MemOk) {pkg : Nat} {opened : Bool} {ks : List Packet} :
    (s.streamPackets pkg opened ks).1.MemOk := by
  induction ks generalizing s opened with
  | nil => exact hs
  | cons k r ih =>
    simp only [State.streamPackets]
    split
    · rename_i t ht
      exact ih (hs.streamPacket ht)
    · exact hs

theorem State.MemOk.abandon (hs : s.MemOk) {pkg : Nat} : (s.abandon pkg).MemOk := by
  rw [State.abandon]
  split
  · exact hs.setTransfer
  · exact hs.setTransfer.modBoot

theorem State.MemOk.firmwareChunk (hs : s.MemOk) {pkg : Nat} {last : Bool} {next : FwTransfer} :
    (s.firmwareChunk pkg last next).MemOk := by
  rw [State.firmwareChunk]
  split
  · exact hs.setTransfer.chunkDone
  · split
    · exact hs.abandon.chunkDone
    · split
      · exact hs.setTransfer.chunkDone.runFirmware
      · exact hs.setTransfer.chunkDone.modPkg

theorem State.MemOk.settleChunkWait (hs : s.MemOk) {pkg : Nat} : (s.settleChunkWait pkg).MemOk := by
  unfold State.settleChunkWait
  split
  · exact hs
  · split
    · exact hs
    · exact hs.modPkg.complete

theorem State.MemOk.bootChunk (hs : s.MemOk) {pkg : Nat} {last : Bool} {next : FwTransfer} : (s.bootChunk pkg last next).MemOk := by
  unfold State.bootChunk
  extract_lets r u t
  have hu : u.1.MemOk := hs.streamPackets
  have ht : t.MemOk := hu.setTransfer
  exact .ite hu.setTransfer.abandon.chunkDone (.ite ht.chunkDone ht.modPkg)

theorem State.MemOk.fwLoad (hs : s.MemOk) {pkg : Nat} {h : FwChunk} : (s.fwLoad pkg h).MemOk := by
  unfold State.fwLoad
  extract_lets u p t st
  have hu : u.MemOk := .ite hs.abandon hs
  refine .ite hu.chunkDone ?_
  cases t with
  | none => exact hu
  | some t => exact .ite hu.firmwareChunk hu.bootChunk

theorem outOk_execFwLoadFirmware (hs : s.MemOk) {pkg : Nat} {h : FwChunk} : OutOk (execFwLoadFirmware pkg h s) :=
  outOk_ite trivial (outOk_mailboxCmd hs fun _ hs => hs.fwLoad)

theorem outOk_execFwLoadBootStream (hs : s.MemOk) {pkg : Nat} {h : FwChunk} : OutOk (execFwLoadBootStream pkg h s) :=
  outOk_ite (outOk_mailboxCmd hs fun _ hs => hs.fwLoad) trivial

theorem State.MemOk.hostError (hs : s.MemOk) {pkg off : Nat} : (s.hostError pkg off).MemOk := hs.modPkg

theorem State.MemOk.hdmRead (hs : s.MemOk) {pkg off die addr : Nat} : (s.hdmRead pkg off die addr).MemOk := by
  rw [State.hdmRead]
  split
  · exact hs.meetDie.hostError
  · split
    · exact hs.meetDie
    · split
      · exact hs.backInvalidate
      · exact hs.meetDie.modPkg

theorem State.MemOk.hostWrite (hs : s.MemOk) {d : DieId} {addr : Nat} {data : BitVec 512} {mask : BitVec 64} :
    (s.hostWrite d addr data mask).MemOk := by
  rw [State.hostWrite]
  split
  · exact hs.storeHome
  · exact hs.foldl (fun _ _ hs => (State.MemOk.ite hs.storeHome (hs.foldl (fun _ _ hs => hs.storeHome))))

theorem State.MemOk.hdmWrite (hs : s.MemOk) {pkg off die addr : Nat} {data : BitVec 512} {mask : BitVec 64} :
    (s.hdmWrite pkg off die addr data mask).MemOk := by
  rw [State.hdmWrite]
  split
  · exact hs.countErrors.hostError
  · exact hs.hostWrite

theorem State.MemOk.hdmDo (hs : s.MemOk) {pkg off die addr : Nat} {write : Option (BitVec 512 × BitVec 64)} :
    (s.hdmDo pkg off die addr write).MemOk := by
  unfold State.hdmDo
  split
  · exact hs.hdmRead
  · exact hs.hdmWrite

theorem outOk_hdmAccess (hs : s.MemOk) {pkg off : Nat} {write : Option (BitVec 512 × BitVec 64)} : OutOk (s.hdmAccess pkg off write) := by
  unfold State.hdmAccess
  refine outOk_ite trivial ?_
  split
  · exact hs.hostError
  · exact outOk_ite hs.hdmDo hs.modPkg

theorem State.MemOk.settleHdm (hs : s.MemOk) {pkg fuel : Nat} : (s.settleHdm pkg fuel).MemOk := by
  induction fuel generalizing s with
  | zero => exact hs
  | succ n ih =>
    simp only [State.settleHdm]
    split
    · exact hs
    · refine .ite hs (ih ?_)
      split
      · exact hs.modPkg.hdmDo
      · exact hs.modPkg.hostError

theorem outOk_execHostHdmRead (hs : s.MemOk) {pkg off : Nat} : OutOk (execHostHdmRead pkg off s) := outOk_hdmAccess hs

theorem outOk_execHostHdmWrite (hs : s.MemOk) {pkg off : Nat} {data : BitVec 512} {mask : BitVec 64} :
    OutOk (execHostHdmWrite pkg off data mask s) :=
  outOk_hdmAccess hs

theorem outOk_execBackInvalidationDone (hs : s.MemOk) {pkg line : Nat} {dirty : Option (BitVec 512)} :
    OutOk (execBackInvalidationDone pkg line dirty s) := by
  refine outOk_ite trivial (State.MemOk.modPkg ?_)
  cases dirty with
  | some w => exact hs.hostWrite
  | none => exact hs

theorem outOk_execHostSnoop (hs : s.MemOk) {pkg line : Nat} : OutOk (execHostSnoop pkg line s) := by
  rw [execHostSnoop]
  split
  · exact hs
  · trivial

theorem State.MemOk.toCache (hs : s.MemOk) {pkg id addr : Nat} {data : List Byte} {completion : Bool} :
    (s.toCache pkg id addr data completion).MemOk :=
  hs.modPkg

theorem State.MemOk.divert (hs : s.MemOk) {pkg : Nat} {e : Divert} : (s.divert pkg e).MemOk :=
  State.MemOk.settleMailbox (State.MemOk.dropReq (State.MemOk.modPkg (State.MemOk.ite hs hs.engineWrite)))

theorem State.MemOk.tryDivert (hs : s.MemOk) {pkg : Nat} {e : Divert} : (s.tryDivert pkg e).MemOk := by
  rw [State.tryDivert]
  split
  · exact hs.divert
  · exact hs.modPkg.backInvalidate.schedule

theorem outOk_execCompletionWriteCheck (hs : s.MemOk) {id : Nat} : OutOk (execCompletionWriteCheck id s) := by
  unfold execCompletionWriteCheck
  split
  · exact hs.tryDivert
  · split
    · trivial
    · split
      · exact outOk_ite hs.schedule (outOk_ite hs.toCache (outOk_ite hs.tryDivert (outOk_ite hs.tryDivert hs.toCache)))
      · trivial

theorem State.MemOk.hostMem (hs : s.MemOk) (p : Nat) : Machine.memWf (s.pkg p).hostMem = true := hs.pkg p

theorem outOk_execHostGlobalObservation (hs : s.MemOk) {id : Nat} : OutOk (execHostGlobalObservation id s) := by
  unfold execHostGlobalObservation
  split
  · trivial
  · rename_i pkg _
    refine outOk_ite trivial (State.MemOk.settleMailbox (State.MemOk.dropReq (hs.putPkg ?_)))
    exact memWf_foldl (fun _ _ hm => memWf_memWrite _ _ hm) (hs.hostMem pkg) _

/-! ## Migration -/

theorem State.MemOk.modMig (hs : s.MemOk) {ctl : Nat} {f : Migration → Migration} : (s.modMig ctl f).MemOk := hs.modPkg

theorem State.MemOk.toMig (hs : s.MemOk) {ctl : Nat} {st : MigState} : (s.toMig ctl st).MemOk := hs.modMig.packageEvent

theorem State.MemOk.freezeAll (hs : s.MemOk) {ctl : Nat} {at_ no : Option Nat} : (s.freezeAll ctl at_ no).MemOk :=
  hs.foldl (fun _ _ hs => State.MemOk.modPkg (by split; exacts [hs.pullRing, hs]))

theorem State.MemOk.declareFailed (hs : s.MemOk) {ctl pos : Nat} : (s.declareFailed ctl pos).MemOk := by
  rw [State.declareFailed]
  split
  · exact hs.toMig.modMig.flood.freezeAll.toMig.modMig.foldl fun _ _ hs => hs.sendFree
  · split
    · exact hs
    · exact hs.toMig

theorem State.MemOk.checkHall (hs : s.MemOk) {ctl : Nat} : (s.checkHall ctl).MemOk :=
  hs.foldl fun _ _ hs => State.MemOk.ite hs.declareFailed hs

theorem State.MemOk.heartbeats (hs : s.MemOk) : s.heartbeats.MemOk := by
  rw [State.heartbeats]
  split
  · exact hs
  · exact hs.foldl (fun _ _ hs => (State.MemOk.ite hs (by split; exacts [(State.MemOk.ite hs hs.sendFree), hs])))

theorem outOk_execLinkReplayFailure (hs : s.MemOk) {pkg port : Nat} : OutOk (execLinkReplayFailure pkg port s) := by
  unfold execLinkReplayFailure
  refine outOk_ite trivial ?_
  dsimp only [OutOk]
  split
  · exact hs.linkFails.checkHall
  · exact hs.linkFails

theorem State.MemOk.noteConfs (hs : s.MemOk) {ctl src : Nat} : (s.noteConfs ctl src).MemOk := hs.foldl fun _ _ hs => hs.modMig

theorem outOk_execHeartbeat (hs : s.MemOk) {ctl src : Nat} : OutOk (execHeartbeat ctl src s) := by
  rw [execHeartbeat]
  split
  · trivial
  · exact hs.modMig.noteConfs.schedule.checkHall

theorem outOk_execHeartbeatTimeout (hs : s.MemOk) {ctl src : Nat} : OutOk (execHeartbeatTimeout ctl src s) := by
  unfold execHeartbeatTimeout
  split
  · trivial
  · split
    · exact hs.declareFailed
    · exact hs

theorem State.MemOk.xorLine (hs : s.MemOk) {d : DieId} {addr : Nat} {data : BitVec 512} : (s.xorLine d addr data).MemOk := hs.xorOther

theorem State.MemOk.streamDie (hs : s.MemOk) {ctl die : Nat} : (s.streamDie ctl die).MemOk := by
  refine .ite hs (State.MemOk.foldl (State.MemOk.modMig ?_) fun _ _ hs => hs.foldl fun _ _ hs => hs.meetOther.schedule)
  exact hs.modPkg.foldl fun _ _ hs => hs.modPkg

theorem State.MemOk.beginRebuild (hs : s.MemOk) {ctl : Nat} : (s.beginRebuild ctl).MemOk := by
  rw [State.beginRebuild]
  split
  · exact (hs.toMig.modMig.foldl (fun _ _ hs => hs.streamDie)).schedule
  · exact hs.toMig.modMig.foldl fun _ _ hs => hs.streamDie

theorem outOk_execFreezeAcknowledged (hs : s.MemOk) {ctl src : Nat} : OutOk (execFreezeAcknowledged ctl src s) := by
  rw [execFreezeAcknowledged]
  split
  · trivial
  · exact State.MemOk.ite hs.modMig.checkHall.beginRebuild hs.modMig.checkHall

theorem outOk_execReductionLine (hs : s.MemOk) {pkg die addr : Nat} {data : BitVec 512} :
    OutOk (execReductionLine pkg die addr data s) := by
  unfold execReductionLine
  dsimp only
  split
  · trivial
  · refine outOk_ite hs.setPkg (outOk_ite ?rebuild ?passed)
    case rebuild => exact State.MemOk.ite hs.setPkg.xorLine.modMig.schedule hs.setPkg.xorLine.modMig
    case passed => exact hs.setPkg.sendFree

theorem State.MemOk.renamePos (hs : s.MemOk) {a b : Nat} : (s.renamePos a b).MemOk :=
  State.MemOk.others (hs.mapDies (f := fun e => (e.1, { e.2 with
    seqs := e.2.seqs.map (fun q => (q.1, { q.2 with home := q.2.home.map (fun h => (DieId.moved a b h.1, h.2)) }))
    tokens := e.2.tokens.map (fun t => { t with home := DieId.moved a b t.home }) })) fun _ he => he)

theorem State.MemOk.remapPkg (hs : s.MemOk) {pkg failedNo formerNo spare : Nat} : (s.remapPkg pkg failedNo formerNo spare).MemOk :=
  hs.modPkg.flip

theorem State.MemOk.tellHosts (hs : s.MemOk) {ctl : Nat} {e : Word} : (s.tellHosts ctl e).MemOk :=
  hs.foldl fun _ _ hs => State.MemOk.ite hs.modPkg hs

theorem State.MemOk.restoreSlot (hs : s.MemOk) {d fd : DieId} {r : CfgRec} {f : List Nat} : (s.restoreSlot d fd r f).MemOk := by
  rw [State.restoreSlot]
  split
  · exact hs.setSlot.dieEvent.tellHosts
  · exact State.MemOk.mapEntry (by split; exacts [hs.meetOther.setSlot.setCtx, hs.setSlot.setCtx])

theorem State.MemOk.copyFrame {d m : DieId} {len f : Nat} {acc : State × List (Nat × Nat) × List Nat} (hacc : acc.1.MemOk) :
    (State.copyFrame d m len acc f).1.MemOk := by
  obtain ⟨u, map, table⟩ := acc
  have hu : u.MemOk := hacc
  unfold State.copyFrame
  dsimp only
  split
  · exact hu.modDie
  · split
    · exact hu.modDie.meetOther.engineWrite.modDie
    · exact hu

theorem State.MemOk.copyShadows (hs : s.MemOk) {d fd : DieId} : (s.copyShadows d fd).MemOk :=
  State.MemOk.foldlFst hs fun acc e hacc =>
    State.MemOk.modDie (State.MemOk.foldlFst (acc := (acc.1, acc.2, [])) hacc fun _ _ h => State.MemOk.copyFrame h)

theorem State.MemOk.putHall (hs : s.MemOk) {d : DieId} {ms : List BootMove} {die : Nat} : (s.putHall d ms die).MemOk := by
  refine hs.foldl fun u m hu => ?_
  cases m with
  | stair n addr data => exact .ite hu.putOther hu
  | code n page data => exact .ite hu.loadCode hu
  | sup n k page data => exact hu

theorem State.MemOk.restoreDie (hs : s.MemOk) {no : Nat} {d fd : DieId} : (s.restoreDie no d fd).MemOk := by
  unfold State.restoreDie
  extract_lets ms
  split
  · exact hs
  · split
    · exact hs
    · extract_lets s₁ s₂ s₃ s₄ s₅ s₆ s₇
      have h₁ : s₁.MemOk := hs.putHall.modDie
      have h₂ : s₂.MemOk := h₁.foldl fun _ _ hs => hs.setClu
      have h₄ : s₄.MemOk := (h₂.foldl fun _ _ hs => hs.modCore).foldl fun _ _ hs => hs.modCore
      have h₆ : s₆.MemOk := (h₄.foldl fun _ _ hs => hs.installRemote).foldl fun _ _ hs => hs.restoreSlot
      have h₇ : s₇.MemOk := h₆.foldl fun _ _ hs => hs.foldl fun _ _ hs => hs.foldl fun _ _ hs => hs.retain
      exact h₇.copyShadows

theorem State.MemOk.remapAll (hs : s.MemOk) {ctl a b : Nat} {ms : List Nat} :
    (ms.foldl (fun s q => s.remapPkg q a b ctl) (s.toMig ctl .remap)).MemOk := hs.toMig.foldl fun _ _ hs => hs.remapPkg

theorem outOk_execRebuildComplete (hs : s.MemOk) {ctl : Nat} : OutOk (execRebuildComplete ctl s) := by
  unfold execRebuildComplete
  extract_lets g s₁ failedNo formerNo s₂ s₃ s₄ s₅
  have h₁ : s₁.MemOk := hs.checkHall
  have h₂ : s₂.MemOk := h₁.remapAll
  have h₃ : s₃.MemOk := h₂.freezeAll.modPkg
  have h₅ : s₅.MemOk := h₃.renamePos.foldl fun _ _ hs => hs.restoreDie
  clear_value s₅ s₄ s₃ s₂ s₁
  split
  · trivial
  · split
    · exact h₁
    · exact h₅.schedule

theorem State.MemOk.sendReplay (hs : s.MemOk) {a b : DieId} {base pri : Nat} {ev : Event} : (s.sendReplay a b base pri ev).MemOk := by
  unfold State.sendReplay
  split
  · exact hs.schedule
  · exact hs.others

theorem State.MemOk.joinProducers (hs : s.MemOk) {i : SlotId} : (s.joinProducers i).MemOk := hs.modSlot

theorem State.MemOk.joinConsumers (hs : s.MemOk) {i : SlotId} : (s.joinConsumers i).MemOk := hs.modSlot

theorem State.MemOk.replayPacket (hs : s.MemOk) {i : SlotId} {n : Nat} {k : Packet} : (s.replayPacket i n k).MemOk := by
  unfold State.replayPacket
  split
  · exact hs
  · exact hs.modSlot.sendReplay

theorem State.MemOk.replaySlot (hs : s.MemOk) {ctl : Nat} {i : SlotId} : (s.replaySlot ctl i).MemOk :=
  hs.foldl (fun _ _ hs => (State.MemOk.ite (hs.foldl (fun _ _ hs => hs.replayPacket)) hs))

theorem State.MemOk.recredit (hs : s.MemOk) {ctl : Nat} {i : SlotId} : (s.recredit ctl i).MemOk := by
  refine hs.foldl fun _ _ hs => hs.foldl fun _ _ hs => .ite hs ?_
  split
  · exact hs.sendReplay
  · exact hs

theorem State.MemOk.activateFresh (hs : s.MemOk) {i : SlotId} : (s.activateFresh i).MemOk := hs.modSlot

theorem State.MemOk.joinFresh (hs : s.MemOk) {fresh : List SlotId} :
    (fresh.foldl (fun s i => s.activateFresh i) (fresh.foldl (fun s i => s.joinConsumers i)
      (fresh.foldl (fun s i => s.joinProducers i) s))).MemOk :=
  ((hs.foldl fun _ _ hs => hs.joinProducers).foldl fun _ _ hs => hs.joinConsumers).foldl fun _ _ hs => hs.activateFresh

theorem outOk_execRemapComplete (hs : s.MemOk) {ctl : Nat} : OutOk (execRemapComplete ctl s) := by
  unfold execRemapComplete
  extract_lets s₁ pos s₂ fresh s₃ s₄ s₅ s₆ live s₇ s₈
  have h₁ : s₁.MemOk := hs.checkHall
  have h₂ : s₂.MemOk := h₁.toMig
  have h₅ : s₅.MemOk := h₂.joinFresh
  have h₆ : s₆.MemOk := h₅.others
  have h₈ : s₈.MemOk := (h₆.foldl fun _ _ hs => hs.recredit).foldl fun _ _ hs => hs.replaySlot
  clear_value s₈ s₁
  split
  · trivial
  · split
    · exact h₁
    · exact h₈.schedule

theorem outOk_execReplayComplete (hs : s.MemOk) {ctl : Nat} : OutOk (execReplayComplete ctl s) := by
  unfold execReplayComplete
  extract_lets s₁
  have h₁ : s₁.MemOk := hs.checkHall
  clear_value s₁
  split
  · trivial
  · split
    · exact h₁
    · exact h₁.toMig.packageEvent.freezeAll.retryFlits

/-! ## The transform unit -/

theorem State.MemOk.launch (hs : s.MemOk) {lat : Nat} {target : XfmTarget} {value : Vec} {flags : BitVec 6} :
    (s.launch lat target value flags).MemOk :=
  hs.modMe.tick1

theorem sylOk_xfm {p : BitVec 4} {d a : BitVec 5} {old ok : Bool} {lat : Nat} {draws : State → Nat} {f : State → Nat × BitVec 6} :
    (xfmSyl p d a old ok lat s draws f).MemOk where
  act _ hs := hs.launch.advanceCtr
  wait _ := by
    simp only [xfmSyl]
    split <;> trivial

theorem State.MemOk.countLate (hs : s.MemOk) : s.countLate.MemOk := hs.modMe

theorem outOk_launchTable (hs : s.MemOk) {p : BitVec 4} {a : BitVec 5} {g : BitVec 2} {c : Bool} {ok : Bool} :
    OutOk (issue {
      cls := 5, guard := p, typeOk := ok, regs := { vr := [a] },
      wait := fun s => if s.me.fillRefs ≠ 0 then .stall else .go,
      act := fun s => (s.launch 3 (.bank (!s.me.cur) g c) (s.me.rv a) 0).modMe (fun x => { x with late := false }) } s) := by
  refine outOk_issue ⟨fun _ hs => hs.launch.modMe, fun _ => ?_⟩ hs
  dsimp only
  split <;> trivial

theorem outOk_execXpTbl (hs : s.MemOk) {p : BitVec 4} {a : BitVec 5} {g : BitVec 2} {c : BitVec 1} : OutOk (execXpTbl p a g c s) := by
  have hr := outOk_launchTable hs (p := p) (a := physOf s.me.cr.vrb a) (g := g) (c := c = 1) (ok := !isSup s.cur)
  unfold execXpTbl
  dsimp only
  generalize issue _ s = r at hr ⊢
  cases r with
  | next t => exact outOk_ite (State.MemOk.countLate hr) hr
  | fault e => trivial
  | refused e => trivial

theorem outOk_execXfmResultLand (hs : s.MemOk) {a : Agent} {id : Nat} : OutOk (execXfmResultLand a id s) := by
  unfold execXfmResultLand
  split
  · trivial
  · split
    · exact hs
    · exact hs.modCtx

end Sys2Proof.Machine
end

section
/-! PROOF. Instructions, events and the step keep the canonical form of memory (O50). -/

namespace Sys2Proof.Machine

-- One declaration after the other: elaborated side by side, these many proofs hold more stacks than the check has memory for.
set_option Elab.async false

variable {s t : State}

/-! ## Instructions -/

theorem memOk_hold_id : (Wait.hold fun s => s).MemOk := fun _ h => h

theorem memOk_wait_ite {c : Prop} [Decidable c] {x y : Wait} (hx : x.MemOk) (hy : y.MemOk) : Wait.MemOk (if c then x else y) := by
  split <;> assumption

/-- A control syllable whose wait has no effect of its own. -/
theorem sylOk_ctl {p : BitVec 4} {r : Regs} {act : State → State} (hact : ∀ u : State, u.MemOk → (act u).MemOk) :
    (ctlSyl p r act).MemOk where
  act := hact

/-- A memory syllable with the default wait. -/
theorem sylOk_mem {p : BitVec 4} {r : Regs} {act : State → State} {early : List (BitVec 6)} {cause : State → Option (Nat × Word)}
    (hact : ∀ u : State, u.MemOk → (act u).MemOk) : Syl.MemOk { memSyl p r act with early := early, cause := cause } where
  act := hact

theorem sylOk_ar {p : BitVec 4} {r : Regs} {act : State → State} {early : List (BitVec 6)} {cause : State → Option (Nat × Word)}
    {a : State → Int} {n : Nat} (hact : ∀ u : State, u.MemOk → (act u).MemOk) :
    Syl.MemOk { memSyl p r act with early := early, cause := cause, wait := arWait a n } where
  act := hact
  wait _ := by
    dsimp only
    exact memOk_arWait

theorem sylOk_bit {p : BitVec 4} {r : Regs} {act : State → State} {early : List (BitVec 6)} {cause : State → Option (Nat × Word)}
    {a : State → Int} {n : Nat} {full changes : Bool} (hact : ∀ u : State, u.MemOk → (act u).MemOk) :
    Syl.MemOk { memSyl p r act with early := early, cause := cause, wait := bitWait a n full changes } where
  act := hact
  wait _ := by
    dsimp only
    exact memOk_bitWait

theorem sylOk_walk {p : BitVec 4} {r : Regs} {act : State → State} {early : List (BitVec 6)} {cause : State → Option (Nat × Word)}
    {a : State → Int} (hact : ∀ u : State, u.MemOk → (act u).MemOk) :
    Syl.MemOk { memSyl p r act with early := early, cause := cause, wait := walkWait a } where
  act := hact
  wait _ := by
    dsimp only
    exact memOk_walkWait

theorem outOk_execLdLf (hs : s.MemOk) {p : BitVec 4} {d a : BitVec 6} {z : BitVec 2} {i : Opnd 4} : OutOk (execLdLf p d a z i s) :=
  outOk_issue (sylOk_bit fun _ hu => hu.loadLocal) hs

theorem outOk_execLdLfc (hs : s.MemOk) {p : BitVec 4} {d a : BitVec 6} {z : BitVec 2} {i : Opnd 4} : OutOk (execLdLfc p d a z i s) :=
  outOk_issue (sylOk_bit fun _ hu => hu.loadLocal.setEmpties) hs

theorem outOk_execBrT (hs : s.MemOk) {p q1 q2 q3 q4 : BitVec 4} {n : BitVec 2} {t1 t2 t3 t4 : BitVec 14} :
    OutOk (execBrT p q1 q2 q3 q4 n t1 t2 t3 t4 s) := by
  refine outOk_issue (sylOk_ctl fun u hu => ?_) hs
  split
  · exact hu.branch
  · exact hu

theorem outOk_execLoopR (hs : s.MemOk) {p : BitVec 4} {d : BitVec 18} : OutOk (execLoopR p d s) :=
  outOk_issue (sylOk_ctl fun _ hu => .ite hu hu.modMe.branch) hs

theorem outOk_execTrap (hs : s.MemOk) {p : BitVec 4} {i : Opnd 6} : OutOk (execTrap p i s) := by
  refine outOk_issue (sylOk_ctl fun u hu => ?_) hs
  split
  · exact hu.trapAt
  · exact hu.dieEvent

theorem outOk_execTake (hs : s.MemOk) {p : BitVec 4} {d h : BitVec 6} {n : BitVec 3} : OutOk (execTake p d h n s) := by
  refine outOk_issue ⟨fun u hu => ?_, fun u => memOk_wait_ite memOk_hold_id trivial⟩ hs
  dsimp only [ctlSyl]
  split
  · exact hu.modMySlot.nextX.nextX
  · exact hu

theorem outOk_execEmit (hs : s.MemOk) {p : BitVec 4} {d a : BitVec 6} {n : BitVec 3} {k w : BitVec 1} :
    OutOk (execEmit p d a n k w s) :=
  outOk_issue ⟨fun _ hu => hu.doEmit, fun _ => memOk_wait_ite trivial (memOk_wait_ite trivial memOk_hold_id)⟩ hs

theorem outOk_execMark (hs : s.MemOk) {p : BitVec 4} {n : BitVec 3} {l e : BitVec 1} : OutOk (execMark p n l e s) := by
  refine outOk_issue ⟨fun u hu => ?_, fun u => memOk_wait_ite trivial memOk_hold_id⟩ hs
  have hsent {ports : List Nat} {kind : Nat} : (ports.foldl (fun t q => t.sendMarker u.mySlot q kind) u).MemOk :=
    hu.foldl fun _ _ hs => hs.sendMarker
  exact .ite hsent.modMySlot hsent

theorem outOk_execMtcr (hs : s.MemOk) {p : BitVec 4} {x a : BitVec 6} : OutOk (execMtcr p x a s) := by
  refine outOk_issue ⟨fun u hu => ?_, fun _ => trivial⟩ hs
  dsimp only [ctlSyl]
  split
  · exact hu.modMe
  · exact .ite hu.modMe hu.writeSupCr

theorem outOk_execRft (hs : s.MemOk) {p : BitVec 4} : OutOk (execRft p s) := by
  refine outOk_issue ⟨fun u hu => ?_, fun _ => trivial⟩ hs
  dsimp only [ctlSyl]
  split
  · exact hu
  · refine State.MemOk.modMe (State.MemOk.modSup ?_)
    split
    · exact hu.applyAct
    · exact hu

theorem outOk_execHalt (hs : s.MemOk) {p : BitVec 4} : OutOk (execHalt p s) := by
  refine outOk_issue ⟨fun u hu => ?_, fun _ => trivial⟩ hs
  dsimp only [ctlSyl]
  split
  · exact hu.modSup
  · exact hu

theorem outOk_execCfgNext (hs : s.MemOk) {p : BitVec 4} {a : BitVec 6} : OutOk (execCfgNext p a s) := by
  refine outOk_issue ⟨fun u hu => ?_, fun _ => memOk_cfgNextWait⟩ hs
  dsimp only [ctlSyl]
  split
  · exact hu.endSync
  · exact hu.modDie

theorem outOk_execStLe (hs : s.MemOk) {p : BitVec 4} {d a : BitVec 6} {z : BitVec 2} {i : Opnd 4} : OutOk (execStLe p d a z i s) :=
  outOk_issue (sylOk_bit fun _ hu => hu.servePort.writeBanks) hs

theorem outOk_execMcst (hs : s.MemOk) {p : BitVec 4} {v : BitVec 5} {a : BitVec 6} {i : Opnd 4} : OutOk (execMcst p v a i s) :=
  outOk_issue ⟨fun _ hu => hu.sendMcst, fun _ => memOk_wait_ite memOk_hold_id (memOk_wait_ite trivial trivial)⟩ hs

theorem outOk_execWaita (hs : s.MemOk) {p : BitVec 4} {d : BitVec 6} {f : BitVec 1} {a : BitVec 5} {b : BitVec 6} :
    OutOk (execWaita p d f a b s) := by
  have hbegin : (Wait.hold fun s => s.beginWaita (f = 1) (s.waitaAddr a)).MemOk := fun _ hu => hu.beginWaita
  refine outOk_issue ⟨fun u hu => hu.endSync.endWalk.nextM, fun u => ?_⟩ hs
  have hwalk : Wait.MemOk (if f = 1 then walkWait (fun s => s.waitaAddr a) u else .go) := memOk_wait_ite memOk_walkWait trivial
  dsimp only
  generalize (if f = 1 then walkWait (fun s => s.waitaAddr a) u else .go) = w at hwalk ⊢
  split
  · split
    · exact memOk_wait_ite trivial hbegin
    · exact hbegin
  · exact hwalk

theorem outOk_execOwnAcq (hs : s.MemOk) {p : BitVec 4} {d a : BitVec 6} {x : BitVec 1} : OutOk (execOwnAcq p d a x s) := by
  refine outOk_issue ⟨fun u hu => hu.takeAnswer.endWalk, fun u => ?_⟩ hs
  have hwalk := memOk_walkWait (s := u) (a := fun s => ((s.rx a).toNat : Int))
  dsimp only
  generalize walkWait (fun s => ((s.rx a).toNat : Int)) u = w at hwalk ⊢
  split
  · exact memOk_answerWait fun _ hu => hu.askToken
  · exact hwalk

theorem outOk_execOwnRel (hs : s.MemOk) {p : BitVec 4} {a : BitVec 6} : OutOk (execOwnRel p a s) := by
  refine outOk_issue ⟨fun u hu => hu.modDie.endSync.endWalk, fun u => ?_⟩ hs
  have hwalk := memOk_walkWait (s := u) (a := fun s => ((s.rx a).toNat : Int))
  dsimp only
  generalize walkWait (fun s => ((s.rx a).toNat : Int)) u = w at hwalk ⊢
  split
  · exact memOk_wait_ite trivial fun _ hu => hu.beginSync
  · exact hwalk

theorem outOk_execPhAdv (hs : s.MemOk) {p : BitVec 4} {d : BitVec 6} {h : BitVec 4} : OutOk (execPhAdv p d h s) :=
  outOk_issue ⟨fun _ hu => hu.endWait, fun _ => memOk_phWaitFor fun _ hu => .ite hu.sendSignal hu⟩ hs

theorem outOk_execClBar (hs : s.MemOk) {p : BitVec 4} {d : BitVec 6} : OutOk (execClBar p d s) :=
  outOk_issue ⟨fun _ hu => hu.modMySlot.endSync.nextM, fun _ => memOk_wait_ite trivial fun _ hu => .ite hu hu.arrive⟩ hs

theorem Syl.MemOk.withOk {y : Syl} (hy : y.MemOk) {b : Bool} : Syl.MemOk { y with typeOk := b } := ⟨hy.act, hy.wait⟩

theorem Syl.MemOk.withCause {y : Syl} (hy : y.MemOk) {cause : State → Option (Nat × Word)} : Syl.MemOk { y with cause := cause } :=
  ⟨hy.act, hy.wait⟩

theorem Syl.MemOk.withEarly {y : Syl} (hy : y.MemOk) {early : List (BitVec 6)} {cause : State → Option (Nat × Word)} :
    Syl.MemOk { y with early := early, cause := cause } := ⟨hy.act, hy.wait⟩

theorem outOk_execMmW (hs : s.MemOk) {p : BitVec 4} {t : BitVec 3} {d : BitVec 5} {k : BitVec 1} : OutOk (execMmW p t d k s) := by
  unfold execMmW
  extract_lets td y
  have hy : y.MemOk := sylOk_mat fun u h hu =>
    .ite hu.enqueueMat.markUsed.setTileTag.takeTag.modMe hu.enqueueMat.markUsed.setTileTag.takeTag
  exact outOk_issue ⟨hy.act, fun u => memOk_wait_ite trivial (hy.wait u)⟩ hs

theorem outOk_execMm (hs : s.MemOk) {p : BitVec 4} {a : BitVec 2} {t : BitVec 3} {d : BitVec 5} {c k : BitVec 1} {n : BitVec 6} :
    OutOk (execMm p a t d c k n s) :=
  outOk_issue (sylOk_mat fun _ _ hu => hu.enqueueMat.markUsed.setAccTag).withCause hs

theorem outOk_execMmAw (hs : s.MemOk) {p : BitVec 4} {a : BitVec 2} {d : BitVec 5} : OutOk (execMmAw p a d s) :=
  outOk_issue (sylOk_mat fun _ _ hu => hu.enqueueMat.markUsed.setAccTag).withCause hs

theorem outOk_execMmAr (hs : s.MemOk) {p : BitVec 4} {a : BitVec 2} {d : BitVec 5} : OutOk (execMmAr p a d s) :=
  outOk_issue (sylOk_mat fun _ _ hu => .ite hu.enqueueMat.markUsed.advanceCtr hu.enqueueMat.markUsed).withCause hs

theorem outOk_execMmDRoute (hs : s.MemOk) {p : BitVec 4} {a : BitVec 2} {d : BitVec 5} {e : BitVec 4} :
    OutOk (execMmDRoute p a d e s) :=
  outOk_issue (sylOk_mat fun _ _ hu => .ite hu.enqueueMat.markUsed.advanceCtr hu.enqueueMat.markUsed).withCause hs

theorem outOk_execMmDSteer (hs : s.MemOk) {p : BitVec 4} {a : BitVec 2} {g : BitVec 3} {d : BitVec 5} :
    OutOk (execMmDSteer p a g d s) :=
  outOk_issue (sylOk_mat fun _ _ hu => .ite hu.enqueueMat.markUsed.advanceCtr hu.enqueueMat.markUsed).withEarly hs

theorem outOk_exec (hs : s.MemOk) {i : Instr} : OutOk (exec i s) := by
  unfold exec
  cases i
  case nop => exact outOk_issue (sylOk_ctl fun _ hu => hu) hs
  case br => exact outOk_issue (sylOk_ctl fun _ hu => hu.branch) hs
  case brT => exact outOk_execBrT hs
  case loop => exact outOk_issue (sylOk_ctl fun _ hu => .ite hu.modMe.branch hu.modMe) hs
  case loopR => exact outOk_execLoopR hs
  case setlc => exact outOk_issue (sylOk_ctl fun _ hu => hu.modMe) hs
  case trap => exact outOk_execTrap hs
  case take => exact outOk_execTake hs
  case emit => exact outOk_execEmit hs
  case mark => exact outOk_execMark hs
  case mtcr => exact outOk_execMtcr hs
  case rft => exact outOk_execRft hs
  case halt => exact outOk_execHalt hs
  case cfgNext => exact outOk_execCfgNext hs
  case endFiring => exact outOk_issue ⟨fun _ hu => hu.modMySlot, fun _ => trivial⟩ hs
  case brR => exact outOk_issue ⟨fun _ hu => hu.branch, fun _ => trivial⟩ hs
  case call | callR => exact outOk_issue ⟨fun _ hu => hu.push.branch, fun _ => trivial⟩ hs
  case ret => exact outOk_issue ⟨fun _ hu => hu.modMe.branch, fun _ => trivial⟩ hs
  case peek | mfcr => exact outOk_issue ⟨fun _ hu => hu.nextX, fun _ => trivial⟩ hs
  case wtag => exact outOk_issue ⟨fun _ hu => hu.consumeTag, fun _ => memOk_wait_ite trivial memOk_hold_id⟩ hs
  case add | sub | mul | mulh | and | or | xor | andn | shl | shr | sar | min | max | minN | maxN | extract | extractN | packb | mulhN |
      div | divN | rem | addi | andi | ori | xori | shli | shri | sari | clz | ctz | popc | li | sel | insert | fdivS | fsqrtS | cmpEq |
      cmpNe | cmpLt | cmpGe | cmpLtn | cmpGen | cmpiEq | cmpiLt | cmpiGe | pand | por | pxor | faddS | faddD | fmulS | fmulD | fminS |
      fmaxS | ffmaS | ffmaD | fcmpLt | fcmpEq =>
    exact outOk_issue sylOk_scalar hs
  case unpk | lut => exact outOk_issue sylOk_scalar.withOk hs
  case fcvt => exact outOk_issue ⟨fun _ hu => .ite hu.fly.advanceCtr hu.fly, fun _ => trivial⟩ hs
  case rng => exact outOk_issue ⟨fun _ hu => hu.fly.advanceCtr, fun _ => trivial⟩ hs
  case ldL | ldsL => exact outOk_issue sylOk_load hs
  case ldLf => exact outOk_execLdLf hs
  case ldLfc => exact outOk_execLdLfc hs
  case stL | vstL | stLf => exact outOk_issue (sylOk_ar fun _ hu => hu.sendStore) hs
  case vldL => exact outOk_issue (sylOk_ar fun _ hu => hu.loadLocal) hs
  case stLe => exact outOk_execStLe hs
  case amoL => exact outOk_issue (sylOk_ar fun _ hu => hu.startAccess) hs
  case ldC | ldsC => exact outOk_issue sylOk_ldc hs
  case ldG | ldsG => exact outOk_issue sylOk_ldg hs
  case ldN | ldsN => exact outOk_issue sylOk_ldn hs
  case stC | vstC => exact outOk_issue (sylOk_mem fun _ hu => hu.storeCluster) hs
  case vldC => exact outOk_issue (sylOk_mem fun _ hu => hu.loadCluster) hs
  case mcst => exact outOk_execMcst hs
  case stG | vstG => exact outOk_issue (sylOk_mem fun _ hu => hu.storeGallery) hs
  case vldG => exact outOk_issue (sylOk_mem fun _ hu => hu.loadGallery) hs
  case amoG | casG => exact outOk_issue (sylOk_mem fun _ hu => hu.atomicGallery) hs
  case stN | vstN => exact outOk_issue (sylOk_walk fun _ hu => hu.storeFabric) hs
  case vldN => exact outOk_issue (sylOk_walk fun _ hu => hu.loadFabric) hs
  case amoN | casN => exact outOk_issue (sylOk_walk fun _ hu => hu.atomicFabric) hs
  case gathVector => exact outOk_issue ⟨fun _ hu => hu.askEngine.takeTag, fun _ => memOk_gatherWait⟩ hs
  case gathTile | sqGath => exact outOk_issue ⟨fun _ hu => hu.askTile, fun _ => memOk_gatherWait⟩ hs
  case plRsp => exact outOk_issue ⟨fun _ hu => hu.askEngine.takeTag, fun _ => memOk_wait_ite trivial trivial⟩ hs
  case wcnt | fence => exact outOk_issue ⟨fun _ hu => hu, fun _ => memOk_wait_ite trivial memOk_hold_id⟩ hs
  case waita => exact outOk_execWaita hs
  case ownAcq => exact outOk_execOwnAcq hs
  case ownRel => exact outOk_execOwnRel hs
  case dig => exact outOk_issue ⟨fun _ hu => hu.fly, fun _ => memOk_wait_ite memOk_hold_id trivial⟩ hs
  case sqNew | sqRes | sqCom | sqLen | sqFork | sqDrop => exact outOk_issue sylOk_control hs
  case sqPre | plReq => exact outOk_issue sylOk_control.withOk hs
  case phReg => exact outOk_issue ⟨fun _ hu => hu.setClu.endSync.nextM, fun _ => memOk_wait_ite trivial fun _ hu => hu.beginSync⟩ hs
  case phDrop => exact outOk_issue ⟨fun _ hu => hu.dropMember.endSync, fun _ => memOk_wait_ite trivial fun _ hu => hu.beginSync⟩ hs
  case phSig => exact outOk_issue ⟨fun _ hu => hu.sendSignal, fun _ => trivial⟩ hs
  case phWait => exact outOk_issue ⟨fun _ hu => hu.endWait, fun _ => memOk_phWaitFor fun _ hu => hu⟩ hs
  case phAdv => exact outOk_execPhAdv hs
  case clBar => exact outOk_execClBar hs
  case vadd | vsub | vmul | vfma | vmin | vmax | vand | vor | vxor | vshl | vshr | vsar | vabs | vneg | vcvt | vcmpEq | vcmpLt | vcmpLe
      | vsel | vbcast | vperm | vrot | vrsum | vrmax | vrmin | vscan | vexp2 | vlog2 | vrcp | vrsq | vtanh | vextr | vinsr | vdot4 |
      vmulh | vqsc | vqnt | vrng | vpopc | vcx | vadds | vsubs | vminN | vmaxN | vcmpLtn =>
    exact outOk_issue sylOk_vec hs
  case mm => exact outOk_execMm hs
  case mmAw => exact outOk_execMmAw hs
  case mmDRoute => exact outOk_execMmDRoute hs
  case mmDSteer => exact outOk_execMmDSteer hs
  case mmAr => exact outOk_execMmAr hs
  case mmW => exact outOk_execMmW hs
  case mmZ => exact outOk_issue (sylOk_mat fun _ _ hu => hu.enqueueMat.markUsed.setAccTag) hs
  case tdSet | tdGet | tdStep => exact outOk_issue (sylOk_mat fun _ _ hu => hu.enqueueMat) hs
  case xpTbl => exact outOk_execXpTbl hs
  case xpExp | xpCvt | xpTrn | xpPack | xpPln | xpUnp => exact outOk_issue sylOk_xfm hs
  case firingStart => exact outOk_execFiringStart hs
  case parkedFiringRestore => exact outOk_execParkedFiringRestore hs
  case bundleWaitEnds => exact outOk_execBundleWaitEnds hs
  case endCompletion => exact outOk_execEndCompletion hs
  case checkpointWriteDone => exact outOk_execCheckpointWriteDone hs
  case budgetExhausted => exact outOk_execBudgetExhausted hs
  case parkComplete => exact outOk_execParkComplete hs
  case heldSyllableExecutes => exact outOk_execHeldSyllableExecutes hs
  case scalarResultLand => exact outOk_execScalarResultLand hs
  case vectorResultLand => exact outOk_execVectorResultLand hs
  case xfmResultLand => exact outOk_execXfmResultLand hs
  case localLoadLand => exact outOk_execLocalLoadLand hs
  case localStoreWritten => exact outOk_execLocalStoreWritten hs
  case emitCopyDone => exact outOk_execEmitCopyDone hs
  case packetArrival => exact outOk_execPacketArrival hs
  case creditMessage => exact outOk_execCreditMessage hs
  case drainAction => exact outOk_execDrainAction hs
  case drainSend => exact outOk_execDrainSend hs
  case clusterLoadLand => exact outOk_execClusterLoadLand hs
  case clusterStorePerformed => exact outOk_execClusterStorePerformed hs
  case multicastLanding => exact outOk_execMulticastLanding hs
  case galleryLoadLand => exact outOk_execGalleryLoadLand hs
  case galleryStorePerformed => exact outOk_execGalleryStorePerformed hs
  case homePortAtomic => exact outOk_execHomePortAtomic hs
  case atomicOldValueLand => exact outOk_execAtomicOldValueLand hs
  case fabricLoadLand => exact outOk_execFabricLoadLand hs
  case fabricStorePerformed => exact outOk_execFabricStorePerformed hs
  case fabricReject => exact outOk_execFabricReject hs
  case translationWalkDone => exact outOk_execTranslationWalkDone hs
  case matDispatch => exact outOk_execMatDispatch hs
  case accumulatorLanded => exact outOk_execAccumulatorLanded hs
  case tileFillDone => exact outOk_execTileFillDone hs
  case mmDrainSend => exact outOk_execMmDrainSend hs
  case mmArWriteDone => exact outOk_execMmArWriteDone hs
  case seqRequestServe => exact outOk_execSeqRequestServe hs
  case controlAnswerLand => exact outOk_execControlAnswerLand hs
  case mirrorForward => exact outOk_execMirrorForward hs
  case gatherFillDone => exact outOk_execGatherFillDone hs
  case farReadBucketRefill => exact outOk_execFarReadBucketRefill hs
  case stageAheadCopyLand => exact outOk_execStageAheadCopyLand hs
  case plBlockDecode => exact outOk_execPlBlockDecode hs
  case plChunkTagReady => exact outOk_execPlChunkTagReady hs
  case phaserSignalArrival => exact outOk_execPhaserSignalArrival hs
  case phaserAdvanceDelivery => exact outOk_execPhaserAdvanceDelivery hs
  case barrierArrival => exact outOk_execBarrierArrival hs
  case closingBarrierComplete => exact outOk_execClosingBarrierComplete hs
  case haltWake => exact outOk_execHaltWake hs
  case evpopRead => exact outOk_execEvpopRead hs
  case slotctlClearEvent => exact outOk_execSlotctlClearEvent hs
  case slotctlKillStage => exact outOk_execSlotctlKillStage hs
  case slotctlKillFiring => exact outOk_execSlotctlKillFiring hs
  case svfaultRestart => exact outOk_execSvfaultRestart hs
  case switchNotice => exact outOk_execSwitchNotice hs
  case configDrainComplete => exact outOk_execConfigDrainComplete hs
  case activationComplete => exact outOk_execActivationComplete hs
  case sqrmtInstall => exact outOk_execSqrmtInstall hs
  case sqrmtRemove => exact outOk_execSqrmtRemove hs
  case ftinvAll => exact outOk_execFtinvAll hs
  case ftinvPage => exact outOk_execFtinvPage hs
  case codemapMapPage => exact outOk_execCodemapMapPage hs
  case codemapUnmapPage => exact outOk_execCodemapUnmapPage hs
  case registerWrite => exact outOk_execRegisterWrite hs
  case scrubRead => exact outOk_execScrubRead hs
  case dieReset => exact outOk_execDieReset hs
  case coreReset => exact outOk_execCoreReset hs
  case ringFlitArrival => exact outOk_execRingFlitArrival hs
  case ringFlitReoffer => exact outOk_execRingFlitReoffer hs
  case ringSegmentFailed => exact outOk_execRingSegmentFailed hs
  case hlinkPmaskWrite => exact outOk_execHlinkPmaskWrite hs
  case hostLinkTrained => exact outOk_execHostLinkTrained hs
  case hostLinkDown => exact outOk_execHostLinkDown hs
  case cxlIdentify => exact outOk_execCxlIdentify hs
  case getSupportedLogs => exact outOk_execGetSupportedLogs hs
  case getLog => exact outOk_execGetLog hs
  case getEventRecords => exact outOk_execGetEventRecords hs
  case clearEventRecords => exact outOk_execClearEventRecords hs
  case attest => exact outOk_execAttest hs
  case getcert => exact outOk_execGetcert hs
  case mextend => exact outOk_execMextend hs
  case ringSetup => exact outOk_execRingSetup hs
  case ringTeardown => exact outOk_execRingTeardown hs
  case orphanRead => exact outOk_execOrphanRead hs
  case mgmtRead => exact outOk_execMgmtRead hs
  case mgmtWrite => exact outOk_execMgmtWrite hs
  case fwLoadFirmware => exact outOk_execFwLoadFirmware hs
  case fwLoadBootStream => exact outOk_execFwLoadBootStream hs
  case mailboxUnsupported => exact outOk_execMailboxUnsupported hs
  case hostHdmRead => exact outOk_execHostHdmRead hs
  case hostHdmWrite => exact outOk_execHostHdmWrite hs
  case backInvalidationDone => exact outOk_execBackInvalidationDone hs
  case completionWriteCheck => exact outOk_execCompletionWriteCheck hs
  case hostGlobalObservation => exact outOk_execHostGlobalObservation hs
  case packageReset => exact outOk_execPackageReset hs
  case thermalThrottle => exact outOk_execThermalThrottle hs
  case thermalClockRaise => exact outOk_execThermalClockRaise hs
  case thermalTrip => exact outOk_execThermalTrip hs
  case linkEnable => exact outOk_execLinkEnable hs
  case linkTrainLock => exact outOk_execLinkTrainLock hs
  case linkTrainTimeout => exact outOk_execLinkTrainTimeout hs
  case negotiationMessage => exact outOk_execNegotiationMessage hs
  case negotiateTimeout => exact outOk_execNegotiateTimeout hs
  case linkReplayFailure => exact outOk_execLinkReplayFailure hs
  case linkFailedTimer => exact outOk_execLinkFailedTimer hs
  case flitReceive => exact outOk_execFlitReceive hs
  case routingFlip => exact outOk_execRoutingFlip hs
  case flipHoldRelease => exact outOk_execFlipHoldRelease hs
  case failureNotice => exact outOk_execFailureNotice hs
  case tokenRequest => exact outOk_execTokenRequest hs
  case ownershipRecall => exact outOk_execOwnershipRecall hs
  case recallDone => exact outOk_execRecallDone hs
  case tokenGrant => exact outOk_execTokenGrant hs
  case bootPacket => exact outOk_execBootPacket hs
  case heartbeat => exact outOk_execHeartbeat hs
  case heartbeatTimeout => exact outOk_execHeartbeatTimeout hs
  case freezeAcknowledged => exact outOk_execFreezeAcknowledged hs
  case reductionLine => exact outOk_execReductionLine hs
  case rebuildComplete => exact outOk_execRebuildComplete hs
  case remapComplete => exact outOk_execRemapComplete hs
  case replayComplete => exact outOk_execReplayComplete hs
  case waitaReread => exact outOk_execWaitaReread hs
  case barrierCompletionDelivery => exact outOk_execBarrierCompletionDelivery hs
  case hostSnoop => exact outOk_execHostSnoop hs
  case mirrorAcknowledgement => exact outOk_execMirrorAcknowledgement hs
  case bootBlockRequest => exact outOk_execBootBlockRequest hs
  case supervisorFreesEntry => exact outOk_execSupervisorFreesEntry hs

/-! ## Events -/

theorem outOk_runEvent (hs : s.MemOk) {e : Event} : OutOk (runEvent e s) := by
  unfold runEvent
  cases e
  case firingStart => exact outOk_execFiringStart hs
  case parkedFiringRestore => exact outOk_execParkedFiringRestore hs
  case bundleWaitEnds => exact outOk_execBundleWaitEnds hs
  case endCompletion => exact outOk_execEndCompletion hs
  case checkpointWriteDone => exact outOk_execCheckpointWriteDone hs
  case budgetExhausted => exact outOk_execBudgetExhausted hs
  case parkComplete => exact outOk_execParkComplete hs
  case heldSyllableExecutes => exact outOk_execHeldSyllableExecutes hs
  case scalarResultLand => exact outOk_execScalarResultLand hs
  case vectorResultLand => exact outOk_execVectorResultLand hs
  case xfmResultLand => exact outOk_execXfmResultLand hs
  case localLoadLand => exact outOk_execLocalLoadLand hs
  case localStoreWritten => exact outOk_execLocalStoreWritten hs
  case emitCopyDone => exact outOk_execEmitCopyDone hs
  case packetArrival => exact outOk_execPacketArrival hs
  case creditMessage => exact outOk_execCreditMessage hs
  case drainAction => exact outOk_execDrainAction hs
  case drainSend => exact outOk_execDrainSend hs
  case clusterLoadLand => exact outOk_execClusterLoadLand hs
  case clusterStorePerformed => exact outOk_execClusterStorePerformed hs
  case multicastLanding => exact outOk_execMulticastLanding hs
  case galleryLoadLand => exact outOk_execGalleryLoadLand hs
  case galleryStorePerformed => exact outOk_execGalleryStorePerformed hs
  case homePortAtomic => exact outOk_execHomePortAtomic hs
  case atomicOldValueLand => exact outOk_execAtomicOldValueLand hs
  case fabricLoadLand => exact outOk_execFabricLoadLand hs
  case fabricStorePerformed => exact outOk_execFabricStorePerformed hs
  case fabricReject => exact outOk_execFabricReject hs
  case translationWalkDone => exact outOk_execTranslationWalkDone hs
  case matDispatch => exact outOk_execMatDispatch hs
  case accumulatorLanded => exact outOk_execAccumulatorLanded hs
  case tileFillDone => exact outOk_execTileFillDone hs
  case mmDrainSend => exact outOk_execMmDrainSend hs
  case mmArWriteDone => exact outOk_execMmArWriteDone hs
  case seqRequestServe => exact outOk_execSeqRequestServe hs
  case controlAnswerLand => exact outOk_execControlAnswerLand hs
  case mirrorForward => exact outOk_execMirrorForward hs
  case gatherFillDone => exact outOk_execGatherFillDone hs
  case farReadBucketRefill => exact outOk_execFarReadBucketRefill hs
  case stageAheadCopyLand => exact outOk_execStageAheadCopyLand hs
  case plBlockDecode => exact outOk_execPlBlockDecode hs
  case plChunkTagReady => exact outOk_execPlChunkTagReady hs
  case phaserSignalArrival => exact outOk_execPhaserSignalArrival hs
  case phaserAdvanceDelivery => exact outOk_execPhaserAdvanceDelivery hs
  case barrierArrival => exact outOk_execBarrierArrival hs
  case closingBarrierComplete => exact outOk_execClosingBarrierComplete hs
  case haltWake => exact outOk_execHaltWake hs
  case evpopRead => exact outOk_execEvpopRead hs
  case slotctlClearEvent => exact outOk_execSlotctlClearEvent hs
  case slotctlKillStage => exact outOk_execSlotctlKillStage hs
  case slotctlKillFiring => exact outOk_execSlotctlKillFiring hs
  case svfaultRestart => exact outOk_execSvfaultRestart hs
  case switchNotice => exact outOk_execSwitchNotice hs
  case configDrainComplete => exact outOk_execConfigDrainComplete hs
  case activationComplete => exact outOk_execActivationComplete hs
  case sqrmtInstall => exact outOk_execSqrmtInstall hs
  case sqrmtRemove => exact outOk_execSqrmtRemove hs
  case ftinvAll => exact outOk_execFtinvAll hs
  case ftinvPage => exact outOk_execFtinvPage hs
  case codemapMapPage => exact outOk_execCodemapMapPage hs
  case codemapUnmapPage => exact outOk_execCodemapUnmapPage hs
  case registerWrite => exact outOk_execRegisterWrite hs
  case scrubRead => exact outOk_execScrubRead hs
  case dieReset => exact outOk_execDieReset hs
  case coreReset => exact outOk_execCoreReset hs
  case ringFlitArrival => exact outOk_execRingFlitArrival hs
  case ringFlitReoffer => exact outOk_execRingFlitReoffer hs
  case ringSegmentFailed => exact outOk_execRingSegmentFailed hs
  case hlinkPmaskWrite => exact outOk_execHlinkPmaskWrite hs
  case hostLinkTrained => exact outOk_execHostLinkTrained hs
  case hostLinkDown => exact outOk_execHostLinkDown hs
  case cxlIdentify => exact outOk_execCxlIdentify hs
  case getSupportedLogs => exact outOk_execGetSupportedLogs hs
  case getLog => exact outOk_execGetLog hs
  case getEventRecords => exact outOk_execGetEventRecords hs
  case clearEventRecords => exact outOk_execClearEventRecords hs
  case attest => exact outOk_execAttest hs
  case getcert => exact outOk_execGetcert hs
  case mextend => exact outOk_execMextend hs
  case ringSetup => exact outOk_execRingSetup hs
  case ringTeardown => exact outOk_execRingTeardown hs
  case orphanRead => exact outOk_execOrphanRead hs
  case mgmtRead => exact outOk_execMgmtRead hs
  case mgmtWrite => exact outOk_execMgmtWrite hs
  case fwLoadFirmware => exact outOk_execFwLoadFirmware hs
  case fwLoadBootStream => exact outOk_execFwLoadBootStream hs
  case mailboxUnsupported => exact outOk_execMailboxUnsupported hs
  case hostHdmRead => exact outOk_execHostHdmRead hs
  case hostHdmWrite => exact outOk_execHostHdmWrite hs
  case backInvalidationDone => exact outOk_execBackInvalidationDone hs
  case completionWriteCheck => exact outOk_execCompletionWriteCheck hs
  case hostGlobalObservation => exact outOk_execHostGlobalObservation hs
  case packageReset => exact outOk_execPackageReset hs
  case thermalThrottle => exact outOk_execThermalThrottle hs
  case thermalClockRaise => exact outOk_execThermalClockRaise hs
  case thermalTrip => exact outOk_execThermalTrip hs
  case linkEnable => exact outOk_execLinkEnable hs
  case linkTrainLock => exact outOk_execLinkTrainLock hs
  case linkTrainTimeout => exact outOk_execLinkTrainTimeout hs
  case negotiationMessage => exact outOk_execNegotiationMessage hs
  case negotiateTimeout => exact outOk_execNegotiateTimeout hs
  case linkReplayFailure => exact outOk_execLinkReplayFailure hs
  case linkFailedTimer => exact outOk_execLinkFailedTimer hs
  case flitReceive => exact outOk_execFlitReceive hs
  case routingFlip => exact outOk_execRoutingFlip hs
  case flipHoldRelease => exact outOk_execFlipHoldRelease hs
  case failureNotice => exact outOk_execFailureNotice hs
  case tokenRequest => exact outOk_execTokenRequest hs
  case ownershipRecall => exact outOk_execOwnershipRecall hs
  case recallDone => exact outOk_execRecallDone hs
  case tokenGrant => exact outOk_execTokenGrant hs
  case bootPacket => exact outOk_execBootPacket hs
  case heartbeat => exact outOk_execHeartbeat hs
  case heartbeatTimeout => exact outOk_execHeartbeatTimeout hs
  case freezeAcknowledged => exact outOk_execFreezeAcknowledged hs
  case reductionLine => exact outOk_execReductionLine hs
  case rebuildComplete => exact outOk_execRebuildComplete hs
  case remapComplete => exact outOk_execRemapComplete hs
  case replayComplete => exact outOk_execReplayComplete hs
  case waitaReread => exact outOk_execWaitaReread hs
  case barrierCompletionDelivery => exact outOk_execBarrierCompletionDelivery hs
  case hostSnoop => exact outOk_execHostSnoop hs
  case mirrorAcknowledgement => exact outOk_execMirrorAcknowledgement hs
  case bootBlockRequest => exact outOk_execBootBlockRequest hs
  case supervisorFreesEntry => exact outOk_execSupervisorFreesEntry hs

theorem State.MemOk.fire (hs : s.MemOk) {e : Event} : (s.fire e).MemOk := hs.orStay (outOk_runEvent hs)

/-! ## Bundles -/

theorem State.MemOk.meetCode (hs : s.MemOk) {a : Agent} {pc : ℤ} {len : Nat} : (s.meetCode a pc len).MemOk := by
  cases a with
  | stage i => exact .ite hs hs.setCore.countErrors
  | sup v => exact .ite hs hs.setSup.countErrors

theorem State.MemOk.atSyl (hs : s.MemOk) {base : Issue} {x : Scanned} : (s.atSyl base x).MemOk := hs.others

theorem State.MemOk.runSyl (hs : s.MemOk) {base : Issue} {x : Scanned} : (s.runSyl base x).MemOk :=
  hs.atSyl.orStay (outOk_exec hs.atSyl)

theorem State.MemOk.charge (hs : s.MemOk) {i : SlotId} : (s.charge i).MemOk := hs.modCtx

theorem State.MemOk.numberXfm (hs : s.MemOk) {a : Agent} {mark : Nat} : (s.numberXfm a mark).MemOk := by
  rw [State.numberXfm]
  split
  · exact hs.modCtx.tick1
  · exact hs

theorem State.MemOk.meetFiles (hs : s.MemOk) {a : Agent} {items : List Scanned} : (s.meetFiles a items).MemOk := by
  rw [State.meetFiles]
  split
  · exact hs.meetRegs.modCtx
  · exact hs.meetRegs

theorem State.MemOk.issueBundle (hs : s.MemOk) {a : Agent} {base : Issue} {items : List Scanned} :
    (s.issueBundle a base items).MemOk := by
  rw [State.issueBundle]
  split
  · exact (((hs.landed.meetFiles.others.foldl (fun _ _ hs => hs.runSyl)).numberXfm).leaveBarrier).modCtx
  · exact hs.landed.meetFiles.others.foldl fun _ _ hs => hs.runSyl

theorem State.MemOk.beginWait (hs : s.MemOk) {base : Issue} {stat : IssStat} {x : Scanned} : (s.beginWait base stat x).MemOk := by
  rw [State.beginWait]
  split
  · exact hs.runSyl
  · exact hs

theorem State.MemOk.waitBundle (hs : s.MemOk) {base : Issue} {items : List Scanned} {stats : List IssStat} :
    (s.waitBundle base items stats).MemOk :=
  hs.foldl fun _ _ hs => State.MemOk.ite hs.beginWait hs

theorem State.MemOk.tryBundle (hs : s.MemOk) {a : Agent} {starved : Bool} : (s.tryBundle a starved).1.MemOk := by
  unfold State.tryBundle
  dsimp only
  split
  · exact State.MemOk.trapBefore (.ite hs.meetCode hs)
  · split
    · exact hs.meetCode.others.landed.runSyl
    · exact hs.meetCode.others.landed.runSyl
    · split
      · exact hs.meetCode.others.trapBefore
      · split
        · exact hs.meetCode.others.landed.runSyl
        · split
          · exact hs.meetCode.others.waitBundle
          · split
            · exact hs.meetCode.others
            · split
              · exact hs.meetCode.others.fire
              · exact hs.meetCode.others.issueBundle

theorem State.MemOk.runStage (hs : s.MemOk) {i : SlotId} : (s.runStage i).MemOk := by
  unfold State.runStage
  extract_lets a v c sent starved r
  have hr : r.1.MemOk := hs.tryBundle
  refine .ite hs (.ite hs.charge ?_)
  split
  · exact hs.modCtx.trapBefore
  · exact .ite (.ite hs.fire hs.charge) (.ite hr.charge hr)

theorem State.MemOk.runSup (hs : s.MemOk) {v : SupId} : (s.runSup v).MemOk := by
  rw [State.runSup]
  split
  · exact hs
  · split
    · exact hs.modCtx.trapBefore
    · exact hs.tryBundle

theorem State.MemOk.runAgent (hs : s.MemOk) {a : Agent} : (s.runAgent a).MemOk := by
  cases a with
  | stage i => exact State.MemOk.runStage hs.others
  | sup v => exact State.MemOk.runSup hs.others

theorem State.MemOk.fireAll (hs : s.MemOk) {es : List Event} : (s.fireAll es).MemOk := hs.foldl fun _ _ hs => hs.fire

theorem State.MemOk.openEnd (hs : s.MemOk) {i : SlotId} : (s.openEnd i).MemOk := by
  unfold State.openEnd
  split
  · exact hs
  · exact .ite hs (.ite hs.modCtx.fire.modCtx hs.modCtx.fire)

theorem State.MemOk.openSlot (hs : s.MemOk) {i : SlotId} : (s.openSlot i).MemOk := by
  unfold State.openSlot
  extract_lets s₁ s₂ live s₃ s₄ s₅
  have h₂ : s₂.MemOk := hs.fireAll.openEnd
  have h₃ : s₃.MemOk := .ite h₂.fire h₂
  have h₄ : s₄.MemOk := h₃.tryCapture
  have h₅ : s₅.MemOk := .ite h₄ h₄.backInvalidate
  exact .ite h₅.fire h₄

theorem State.MemOk.openCycle (hs : s.MemOk) : s.openCycle.MemOk := by
  unfold State.openCycle
  extract_lets s₁ s₂ s₃ s₄ s₅ s₆
  have h₂ : s₂.MemOk := (hs.foldl fun _ _ hs => hs.meetEngine).foldl fun _ _ hs => hs.openSlot
  have h₄ : s₄.MemOk := h₂.refreshReady.foldl fun _ _ hs => hs.fireAll
  have h₅ : s₅.MemOk := h₄.foldl fun _ _ hs => .ite hs.fire.fire hs.fire
  exact (h₅.foldl fun _ _ hs => hs.fire).foldl fun _ _ hs => hs.fire

theorem State.MemOk.fireMat (hs : s.MemOk) {i : SlotId} : (s.fireMat i).MemOk := by
  rw [State.fireMat]
  split
  · exact hs.fire
  · exact hs

theorem State.MemOk.matTurns (hs : s.MemOk) : s.matTurns.MemOk := (hs.foldl (fun _ _ hs => hs.fireMat)).foldl fun _ _ hs => hs.stepCore

theorem State.MemOk.lateMat (hs : s.MemOk) {i : SlotId} : (s.lateMat i).MemOk := hs.fireMat.stepCore

theorem State.MemOk.closeSlot (hs : s.MemOk) {i : SlotId} : (s.closeSlot i).MemOk := hs.lateMat

theorem State.MemOk.closeDie (hs : s.MemOk) {d : DieId} : (s.closeDie d).MemOk := by
  unfold State.closeDie
  extract_lets s₁ s₂ s₃ s₄ s₅ s₆ s₇ s₈
  have h₁ : s₁.MemOk := hs.settleLoad.autoSwitch
  have h₂ : s₂.MemOk := .ite h₁.drainSources h₁
  have h₃ : s₃.MemOk := h₂.settleMirror.sendRequests
  have h₄ : s₄.MemOk := .ite h₃.fire h₃
  have h₅ : s₅.MemOk := h₄.servePosting
  have h₆ : s₆.MemOk := .ite h₅.fire h₅
  exact h₆.settleChunks.expireCopies.fire.scrub

theorem State.MemOk.judgeParked (hs : s.MemOk) : s.judgeParked.MemOk :=
  hs.foldl (fun _ _ hs => by split; exacts [(State.MemOk.ite hs.modSlot hs), hs])

theorem State.MemOk.endWaits (hs : s.MemOk) : s.endWaits.MemOk := hs.foldl fun _ _ hs => State.MemOk.ite hs.fire hs

theorem State.MemOk.closeCycle (hs : s.MemOk) : s.closeCycle.MemOk := by
  unfold State.closeCycle
  extract_lets s₁ s₂ s₃ s₄
  have h₂ : s₂.MemOk := (hs.foldl fun _ _ hs => hs.closeSlot).runCommands
  have h₃ : s₃.MemOk := h₂.foldl fun _ _ hs => hs.closeDie
  have h₄ : s₄.MemOk := h₃.foldl fun _ _ hs => hs.settleHdm.settleOrphan.settleChunkWait
  exact h₄.judgeParked.heartbeats.pumpLinks

/-! ## The step -/

theorem memOk_advance (hs : s.MemOk) : (Machine.advance s).MemOk := by
  unfold Machine.advance
  split
  · split
    · exact State.MemOk.fire hs.others
    · exact hs.scrubTurns.matTurns.others
  · split
    · exact State.MemOk.fire hs.others
    · exact hs.copyTurns.others
  · split
    · exact State.MemOk.fire hs.others
    · exact hs.openCycle.others
  · split
    · exact State.MemOk.runAgent hs.others
    · exact hs.others
  · exact hs.closeCycle.others
  · split
    · exact State.MemOk.fire hs.others
    · exact hs.endWaits.others

/-- Settles O50: each function of the model that a step runs keeps the canonical form. -/
theorem memoryKept : Obligations.MemoryKept := by
  unfold Obligations.MemoryKept
  rintro s t hs ⟨⟩
  exact memOk_advance hs

end Sys2Proof.Machine
end

section
/-! PROOF. The local stores and the traps of local accesses (O23, O25). -/

namespace Sys2Proof.Machine

/-! ## The syllables of the stores -/

section
variable {s : State} {p : BitVec 4} {d a : BitVec 6} {v : BitVec 5} {z : BitVec 2} {i : Opnd 4}

/-- The syllable of `ST.L`, and with `full` that of `ST.LF`. -/
def stLSyl (p : BitVec 4) (d a : BitVec 6) (z : BitVec 2) (i : Opnd 4) (full : Bool) : Syl :=
  { memSyl p { xr := [d, a], localWrite := true } (fun s =>
      s.sendStore s.cur (addrOf (s.rx a) (sizeOf2 z) i).toNat (leBytes (sizeOf2 z) (s.rx d).toNat) full) with
    early := [a],
    cause := fun s => localCause (addrOf (s.rx a) (sizeOf2 z) i) (sizeOf2 z) (sizeOf2 z) s,
    wait := arWait (fun s => addrOf (s.rx a) (sizeOf2 z) i) (sizeOf2 z) }

/-- The syllable of `ST.LE`. -/
def stLeSyl (p : BitVec 4) (d a : BitVec 6) (z : BitVec 2) (i : Opnd 4) : Syl :=
  { memSyl p { xr := [d, a], localWrite := true } (fun s =>
      (s.servePort s.cur (addrOf (s.rx a) (sizeOf2 z) i).toNat (sizeOf2 z)).writeBanks s.cur (addrOf (s.rx a) (sizeOf2 z) i).toNat
        (leBytes (sizeOf2 z) (s.rx d).toNat) true) with
    early := [a],
    cause := fun s => localCause (addrOf (s.rx a) (sizeOf2 z) i) (sizeOf2 z) (sizeOf2 z) s,
    wait := bitWait (fun s => addrOf (s.rx a) (sizeOf2 z) i) (sizeOf2 z) false true }

/-- The syllable of `VST.L`. -/
def vstLSyl (p : BitVec 4) (v : BitVec 5) (a : BitVec 6) (i : Opnd 4) (r : BitVec 5) : Syl :=
  { memSyl p { xr := [a], vr := [r], localWrite := true } (fun s =>
      s.sendStore s.cur (addrOf (s.rx a) 128 i).toNat (vecBytes (s.rv v)) false) with
    early := [a],
    cause := fun s => localCause (addrOf (s.rx a) 128 i) 128 16 s,
    wait := arWait (fun s => addrOf (s.rx a) 128 i) 128 }

theorem exec_stL_syl : exec (.stL p d a z i) s = issue (stLSyl p d a z i false) s := by
  rw [exec_stL, execStL]
  rfl

theorem exec_stLf_syl : exec (.stLf p d a z i) s = issue (stLSyl p d a z i true) s := by
  rw [exec_stLf, execStLf]
  rfl

theorem exec_stLe_syl : exec (.stLe p d a z i) s = issue (stLeSyl p d a z i) s := by
  rw [exec_stLe, execStLe]
  rfl

theorem exec_vstL_syl : exec (.vstL p v a i) s = issue (vstLSyl p v a i (physOf s.me.cr.vrb v)) s := by
  rw [exec_vstL, execVstL]
  rfl

end

/-! ## A store on its way -/

section
variable (s : State) (a : Agent) (addr : Nat) (data : List Byte) (full : Bool)

/-- A store that the core has sent and that the banks do not hold yet. -/
def sentStore (id cycle : Nat) (a : Agent) (addr : Nat) (data : List Byte) (full : Bool) : LocalStore :=
  { id := id, by_ := a, addr := addr, data := data, due := cycle + 2, setFull := full }

theorem sendStore_core (c : CoreId) : ∃ l, (s.sendStore a addr data full).core c = { s.core c with stores := l } ∧
    ∀ i, a = .stage i → c = i.core → l = (s.core c).stores ++ [sentStore s.uid s.cycle a addr data full] := by
  cases a with
  | sup v => exact ⟨_, rfl, nofun⟩
  | stage i =>
    have hcore : (s.sendStore (.stage i) addr data full).core c = _ :=
      State.core_modCore s i.core c (fun k => { k with stores := k.stores ++ [sentStore s.uid s.cycle (.stage i) addr data full] })
    rw [hcore]
    split
    case isTrue h =>
      subst h
      exact ⟨_, rfl, fun _ _ _ => rfl⟩
    case isFalse h => exact ⟨_, rfl, by rintro _ ⟨⟩ rfl; exact absurd rfl h⟩

theorem sendStore_sup (v : SupId) : ∃ l, (s.sendStore a addr data full).sup v = { s.sup v with stores := l } ∧
    (a = .sup v → l = (s.sup v).stores ++ [sentStore s.uid s.cycle a addr data full]) := by
  cases a with
  | stage i => exact ⟨_, rfl, nofun⟩
  | sup u =>
    have hsup : (s.sendStore (.sup u) addr data full).sup v = _ :=
      State.sup_modSup s u v (fun k => { k with stores := k.stores ++ [sentStore s.uid s.cycle (.sup u) addr data full] })
    rw [hsup]
    split
    case isTrue h =>
      subst h
      exact ⟨_, rfl, fun _ => rfl⟩
    case isFalse h => exact ⟨_, rfl, by rintro ⟨⟩; exact absurd rfl h⟩

@[simp] theorem banks_sendStore (b : Agent) : (s.sendStore a addr data full).banks b = s.banks b := by
  cases b with
  | stage i =>
    obtain ⟨_, h, -⟩ := sendStore_core s a addr data full i.core
    rw [State.banks, h, State.banks]
  | sup v =>
    obtain ⟨_, h, -⟩ := sendStore_sup s a addr data full v
    rw [State.banks, h, State.banks]

@[simp] theorem pendingStores_sendStore :
    (s.sendStore a addr data full).pendingStores a = s.pendingStores a ++ [sentStore s.uid s.cycle a addr data full] := by
  cases a with
  | stage i =>
    obtain ⟨_, h, hl⟩ := sendStore_core s (.stage i) addr data full i.core
    rw [State.pendingStores, h, hl i rfl rfl, State.pendingStores]
  | sup v =>
    obtain ⟨_, h, hl⟩ := sendStore_sup s (.sup v) addr data full v
    rw [State.pendingStores, h, hl rfl, State.pendingStores]

@[simp] theorem ctx_sendStore (b : Agent) : (s.sendStore a addr data full).ctx b = s.ctx b := by cases a <;> rfl

theorem sendStore_scheduled :
    { cycle := s.cycle + 2, pri := priPort, ev := .localStoreWritten a s.uid } ∈ (s.sendStore a addr data full).agenda := by
  cases a <;> exact mem_insertDue_self _ _

theorem localMem_sendStore : (s.sendStore a addr data full).localMem a = memWrite (s.localMem a) addr data := by
  rw [State.localMem, pendingStores_sendStore, banks_sendStore, List.foldl_append]
  rfl

theorem kept_sendStore : Kept s { s.sendStore a addr data full with cores := s.cores, sups := s.sups } := by
  cases a <;> exact kept_of_own (fun _ _ => rfl) rfl rfl rfl rfl rfl rfl rfl

end

/-- A store on its way is read by its core at once, and changes nothing else. -/
theorem stores_of_sendStore {f : Instr} {s : State} {g : BitVec 4} {r : Regs} {addr : Nat} {data : List Byte} {full : Bool}
    (h : exec f s = .next ((s.enter g r).sendStore s.cur addr data full)) : Stores f s addr data full := by
  have hpending := pendingStores_sendStore (s.enter g r) s.cur addr data full
  have hscheduled := sendStore_scheduled (s.enter g r) s.cur addr data full
  have hkept := (enter_kept s g r).trans (kept_sendStore (s.enter g r) s.cur addr data full) (State.enter_cur ..)
  simp only [State.enter_cores, State.enter_sups] at hkept
  simp only [State.enter_uid, State.enter_cycle, State.enter_pendingStores] at hpending hscheduled
  refine ⟨_, h, by simp, by simp, fun x => ?_, hpending, hscheduled, fun b => by simp, fun c => ?_, fun v => ?_, hkept⟩
  · rw [localMem_sendStore, memByte_memWrite, State.localMem, State.enter_pendingStores, State.enter_banks, State.localMem]
  · obtain ⟨l, hc, -⟩ := sendStore_core (s.enter g r) s.cur addr data full c
    rw [hc, State.enter_core]
  · obtain ⟨l, hv, -⟩ := sendStore_sup (s.enter g r) s.cur addr data full v
    rw [hv, State.enter_sup]

section
variable {s : State} {p : BitVec 4} {d a : BitVec 6} {z : BitVec 2} {i : Opnd 4} {n : Nat} {A : Int}
  (hf : s.free 2 p { xr := [d, a], localWrite := true } = true) (hn : n = 2 ^ z.toNat) (hA : A = addrOf (s.rx a) n i)
  (hcause : localCause A n n s = none) (hb : s.portBusy = false) (ha : s.arTouches A n = false)
include hf hn hA hcause hb ha

theorem stLSyl_sends (full : Bool) : issue (stLSyl p d a z i full) s =
    .next ((s.enter p { xr := [d, a], localWrite := true }).sendStore s.cur A.toNat (leBytes n (s.rx d).toNat) full) := by
  obtain rfl : n = sizeOf2 z := hn
  subst hA
  have hact : (stLSyl p d a z i full).act (s.enter p { xr := [d, a], localWrite := true }) =
      (s.enter p { xr := [d, a], localWrite := true }).sendStore s.cur (addrOf (s.rx a) (sizeOf2 z) i).toNat
        (leBytes (sizeOf2 z) (s.rx d).toNat) full := by
    change State.sendStore _ (State.cur _) (addrOf (State.rx _ a) _ i).toNat (leBytes _ (State.rx _ d).toNat) _ = _
    rw [State.enter_rx, State.enter_rx, State.enter_cur]
  have hwait : arWait (fun s => addrOf (s.rx a) (sizeOf2 z) i) (sizeOf2 z) s = .go := arWait_go hb ha
  rw [← hact]
  exact issue_act (y := stLSyl p d a z i full) (.inl rfl) rfl hf hcause hwait

end

/-! ## `ST.LE` -/

/-- A test for an empty granule, of a syllable that waits for its core's earlier stores. -/
theorem bitWait_stores {s : State} {addr : State → Int} {n : Nat} {full : Bool} (h : s.pendingStores s.cur ≠ []) :
    bitWait addr n full true s = .stall := by
  rw [bitWait, if_pos]
  simp [h]

theorem bitWait_empty {s : State} {addr : State → Int} {n : Nat} (hb : s.portBusy = false) (ha : s.arTouches (addr s) n = false)
    (hgo : portGoes s (addr s).toNat n = true) (hs : s.pendingStores s.cur = []) :
    bitWait addr n false true s = if (addr s).toNat / 16 ∉ s.empties s.cur then .hold (fun s => s) else .go := by
  simp only [portGoes, Bool.and_eq_true, Bool.not_eq_true'] at hgo
  obtain ⟨⟨hturn, hacq⟩, hbefore⟩ := hgo
  rw [bitWait, hb, ha, hturn, hacq, hbefore, State.localEmpties, hs]
  simp [granuleOf]

theorem modCore_modCore (s : State) (c : CoreId) (f g : Core → Core) : (s.modCore c f).modCore c g = s.modCore c (g ∘ f) := by
  rw [State.modCore, State.core_modCore_same, State.modCore, State.setCore, State.setCore, tset_tset]
  rfl

theorem modSup_modSup (s : State) (v : SupId) (f g : Sup → Sup) : (s.modSup v f).modSup v g = s.modSup v (g ∘ f) := by
  rw [State.modSup, State.sup_modSup_same, State.modSup, State.setSup, State.setSup, tset_tset]
  rfl

/-- A write that sets its granules full, in words that have no error. -/
theorem writeBanks_full {s : State} {a : Agent} {addr : Nat} {data : List Byte} (h : s.clean a addr data.length = true) :
    s.writeBanks a addr data true = (s.writeClean a addr data).setEmpties a (setFull (s.empties a) addr data.length) := by
  cases a <;>
  · simp only [State.clean, Bool.and_eq_true, decide_eq_true_eq] at h
    obtain ⟨hbad, honce⟩ := h
    simp only [State.writeBanks, writeAround, stuckWords_nil hbad, countPartial_clean _ _ hbad honce, setFullBut, State.setEmpties,
      State.writeClean, modCore_modCore, modSup_modSup]
    rfl

/-- The one granule of an aligned word. -/
theorem mem_granules_aligned {addr n g : Nat} (hn : n ∣ 16) (hal : addr % n = 0) : g ∈ granules addr n ↔ g = addr / 16 := by
  have hpos : 0 < n := Nat.pos_of_dvd_of_pos hn (by decide)
  have hlast : (addr + n - 1) / 16 = addr / 16 := by
    obtain ⟨k, hk⟩ := hn
    obtain ⟨m, rfl⟩ := Nat.dvd_of_mod_eq_zero hal
    have hk0 : 0 < k := Nat.pos_of_mul_pos_left (hk ▸ by decide : 0 < n * k)
    rw [hk, ← Nat.div_div_eq_div_mul, ← Nat.div_div_eq_div_mul, Nat.mul_div_cancel_left _ hpos]
    congr 1
    rw [Nat.add_sub_assoc hpos, Nat.mul_add_div hpos, Nat.div_eq_of_lt (by omega), Nat.add_zero]
  rw [granules, if_neg hpos.ne', hlast, Nat.add_sub_cancel_left]
  simp

section
variable (s : State) (a b : Agent) (l : List Nat)

@[simp] theorem banks_setEmpties : (s.setEmpties a l).banks b = s.banks b := by
  cases b with
  | stage i =>
    obtain ⟨_, h⟩ := core_setEmpties s a l i.core
    rw [State.banks, h, State.banks]
  | sup v =>
    obtain ⟨_, h⟩ := sup_setEmpties s a l v
    rw [State.banks, h, State.banks]

@[simp] theorem pendingStores_setEmpties : (s.setEmpties a l).pendingStores b = s.pendingStores b := by
  cases b with
  | stage i =>
    obtain ⟨_, h⟩ := core_setEmpties s a l i.core
    rw [State.pendingStores, h, State.pendingStores]
  | sup v =>
    obtain ⟨_, h⟩ := sup_setEmpties s a l v
    rw [State.pendingStores, h, State.pendingStores]

end

theorem writeClean_setEmpties_restored (s : State) (a : Agent) (addr : Nat) (data : List Byte) (l : List Nat) :
    { (s.writeClean a addr data).setEmpties a l with cores := s.cores, sups := s.sups } = s := by cases a <;> rfl

/-- The state behind an `ST.LE` that the state `u` enters. -/
def State.storeEmpty (u : State) (addr : Nat) (data : List Byte) : State :=
  (u.servePort u.cur addr data.length).writeBanks u.cur addr data true

theorem storeEmpty_clean {u : State} {addr : Nat} {data : List Byte} (h : u.clean u.cur addr data.length = true) :
    u.storeEmpty addr data = ((u.servePort u.cur addr data.length).writeClean u.cur addr data).setEmpties u.cur
      (setFull (u.empties u.cur) addr data.length) := by
  rw [State.storeEmpty, writeBanks_full (servePort_clean h), empties_servePort]

/-- What `ST.LE` leaves. -/
theorem storeEmpty_leaves {s t : State} {g : BitVec 4} {r : Regs} {addr n : Nat} {data : List Byte} (hlen : data.length = n)
    (hn : n ∣ 16) (hal : addr % n = 0) (hc : s.clean s.cur addr n = true) (ht : t = (s.enter g r).storeEmpty addr data) :
    (t.ctx s.cur).visible = s.me.visible ∧
      (∀ x, memByte (t.banks s.cur) x =
        if addr ≤ x ∧ x < addr + n then data.getD (x - addr) 0 else memByte (s.banks s.cur) x) ∧
      (∀ k, k ∈ t.empties s.cur ↔ k ≠ addr / 16 ∧ k ∈ s.empties s.cur) ∧
      t.pendingStores s.cur = s.pendingStores s.cur ∧ Kept s { t with cores := s.cores, sups := s.sups } := by
  subst hlen
  rw [storeEmpty_clean (by simpa using hc), State.enter_cur, State.enter_empties] at ht
  subst ht
  refine ⟨?_, fun x => ?_, fun k => ?_, by simp, ?_⟩
  · rw [ctx_setEmpties, ctx_writeClean, ← s.enter_visible g r]
    exact congrArg Ctx.visible (State.enter_ctx_cur s g r)
  · simp [memByte_memWrite]
  · simp [setFull, mem_granules_aligned hn hal, and_comm]
  · have hserved : Kept s ((s.enter g r).servePort s.cur addr data.length) :=
      (enter_kept s g r).trans kept_servePort (State.enter_cur ..)
    exact hserved.restored (writeClean_setEmpties_restored ..)

section
variable {s : State} {p : BitVec 4} {d a : BitVec 6} {z : BitVec 2} {i : Opnd 4} {n : Nat} {A : Int}
  (hf : s.free 2 p { xr := [d, a], localWrite := true } = true) (hn : n = 2 ^ z.toNat) (hA : A = addrOf (s.rx a) n i)
  (hcause : localCause A n n s = none)
include hf hn hA hcause

theorem stLe_stalls (hs : s.pendingStores s.cur ≠ []) : exec (.stLe p d a z i) s = .next s.stall := by
  obtain rfl : n = sizeOf2 z := hn
  subst hA
  have hwait : bitWait (fun s => addrOf (s.rx a) (sizeOf2 z) i) (sizeOf2 z) false true s = .stall := bitWait_stores hs
  rw [exec_stLe_syl, issue_answer (y := stLeSyl p d a z i) (.inl rfl) rfl hf hcause]
  exact congrArg (Syl.answer (stLeSyl p d a z i) s) hwait

theorem stLe_answer (hb : s.portBusy = false) (ha : s.arTouches A n = false) (hgo : portGoes s A.toNat n = true)
    (hs : s.pendingStores s.cur = []) : exec (.stLe p d a z i) s =
    if A.toNat / 16 ∉ s.empties s.cur then .next s.hold
    else .next ((s.enter p { xr := [d, a], localWrite := true }).storeEmpty A.toNat (leBytes n (s.rx d).toNat)) := by
  obtain rfl : n = sizeOf2 z := hn
  subst hA
  have hact : (stLeSyl p d a z i).act (s.enter p { xr := [d, a], localWrite := true }) =
      (s.enter p { xr := [d, a], localWrite := true }).storeEmpty (addrOf (s.rx a) (sizeOf2 z) i).toNat
        (leBytes (sizeOf2 z) (s.rx d).toNat) := by
    change (State.servePort _ (State.cur _) (addrOf (State.rx _ a) _ i).toNat _).writeBanks _ _ (leBytes _ (State.rx _ d).toNat) _ = _
    rw [State.enter_rx, State.enter_rx, State.storeEmpty, length_leBytes]
  rw [exec_stLe_syl, ← hact]
  exact issue_bit rfl rfl hf hcause (bitWait_empty (addr := fun s => addrOf (s.rx a) (sizeOf2 z) i) hb ha hgo hs)

end

theorem vstL_sends {s : State} {p : BitVec 4} {a : BitVec 6} {v r : BitVec 5} {i : Opnd 4}
    (hf : s.free 2 p { xr := [a], vr := [r], localWrite := true } = true) (hr : r = physOf s.me.cr.vrb v)
    (hcause : localCause (addrOf (s.rx a) 128 i) 128 16 s = none) (hb : s.portBusy = false)
    (ha : s.arTouches (addrOf (s.rx a) 128 i) 128 = false) : exec (.vstL p v a i) s =
      .next ((s.enter p { xr := [a], vr := [r], localWrite := true }).sendStore s.cur (addrOf (s.rx a) 128 i).toNat
        (vecBytes (s.rv v)) false) := by
  have hact : (vstLSyl p v a i r).act (s.enter p { xr := [a], vr := [r], localWrite := true }) =
      (s.enter p { xr := [a], vr := [r], localWrite := true }).sendStore s.cur (addrOf (s.rx a) 128 i).toNat
        (vecBytes (s.rv v)) false := by
    change State.sendStore _ (State.cur _) (addrOf (State.rx _ a) _ i).toNat (vecBytes (State.rv _ v)) _ = _
    rw [State.enter_rx, State.enter_rv, State.enter_cur]
  have hwait : arWait (fun s => addrOf (s.rx a) 128 i) 128 s = .go := arWait_go hb ha
  rw [exec_vstL_syl, ← hr, ← hact]
  exact issue_act (y := vstLSyl p v a i r) (.inl rfl) rfl hf hcause hwait

/-- Settles O23: a store is sent (`stores_of_sendStore`), and `ST.LE` writes the banks at once (`storeEmpty_leaves`). -/
theorem localStores : Obligations.LocalStores := by
  intro s p d a v z i
  constructor
  · rintro hf n A hn hA hal h0 hl hb ha _ rfl
    have hcause : localCause A n n s = none := localCause_none (hn ▸ by positivity) hal h0 hl
    have hstore (full : Bool) := stLSyl_sends hf hn hA hcause hb ha full
    refine ⟨stores_of_sendStore (exec_stL_syl.trans (hstore false)), stores_of_sendStore (exec_stLf_syl.trans (hstore true)),
      stLe_stalls hf hn hA hcause, fun hgo hs hempty => ?_, fun hgo hs hempty hc => ?_⟩
    · rw [stLe_answer hf hn hA hcause hb ha hgo hs, if_pos hempty]
    · have hanswer := stLe_answer hf hn hA hcause hb ha hgo hs
      rw [if_neg (not_not.2 hempty)] at hanswer
      have hdvd : n ∣ 16 := hn ▸ pow_dvd_pow 2 (by omega : z.toNat ≤ 4)
      have hrest : A.toNat % n = 0 := by
        lift A to Nat using h0
        exact_mod_cast hal
      exact ⟨_, hanswer, storeEmpty_leaves (length_leBytes ..) hdvd hrest hc rfl⟩
  · rintro r rfl hf A rfl hal h0 hl hb ha
    exact stores_of_sendStore (vstL_sends hf rfl (localCause_none (by decide) hal h0 hl) hb ha)

/-! ## What an access outside its place raises -/

theorem localCause_misaligned {s : State} {A : Int} {n al : Nat} (h : A % al ≠ 0) : localCause A n al s = some (0x10, addrValue 2 A) :=
  if_pos h

theorem localCause_aligned {s : State} {A : Int} {n al : Nat} (h : A % al = 0) :
    localCause A n al s = boundsCause 2 A n (localSize s.cur) := if_neg (not_not.2 h)

theorem amoLSyl_cause {s : State} {p : BitVec 4} {d a : BitVec 6} {o : BitVec 4} {z : BitVec 2} : (amoLSyl p d a o z).cause s =
    orCause (localCause (s.rx a).toNat (sizeOf2 z) (sizeOf2 z) s) (faddCause o s) := rfl

/-- A form of a local access raises the cause that its address has. -/
theorem localForm_raises {s : State} {p : BitVec 4} {d a : BitVec 6} {v : BitVec 5} {z : BitVec 2} {i : Opnd 4} {o : BitVec 4} {f : Instr}
    {A : Int} {n al : Nat} (h : localForm s p d a v z i o f A n al) {t : Nat × Word} (ht : localCause A n al s = some t) :
    exec f s = .next (s.raise 2 t.1 t.2) := by
  obtain ⟨rfl, rfl, rfl, ⟨hf, hi⟩ | ⟨hf, hi⟩⟩ | ⟨rfl, rfl, rfl, ⟨hf, rfl⟩ | ⟨hf, rfl⟩⟩ | ⟨rfl, rfl, rfl, hf, rfl⟩ := h
  · simp only [List.mem_cons, List.not_mem_nil, or_false] at hi
    obtain rfl | rfl | rfl | rfl := hi
    · exact issue_cause (y := loadSyl p d a z i false) (.inl rfl) rfl hf ht
    · exact issue_cause (y := loadSyl p d a z i true) (.inl rfl) rfl hf ht
    · exact issue_cause (y := { loadSyl p d a z i false with
        wait := bitWait (fun s => addrOf (s.rx a) (sizeOf2 z) i) (sizeOf2 z) true false }) (.inl rfl) rfl hf ht
    · exact issue_cause (y := { loadSyl p d a z i false with
        wait := bitWait (fun s => addrOf (s.rx a) (sizeOf2 z) i) (sizeOf2 z) true true,
        act := fun s => s.loadClear d (addrOf (s.rx a) (sizeOf2 z) i) (sizeOf2 z) }) (.inl rfl) rfl hf ht
  · simp only [List.mem_cons, List.not_mem_nil, or_false] at hi
    obtain rfl | rfl | rfl := hi
    · exact exec_stL_syl.trans (issue_cause (y := stLSyl p d a z i false) (.inl rfl) rfl hf ht)
    · exact exec_stLf_syl.trans (issue_cause (y := stLSyl p d a z i true) (.inl rfl) rfl hf ht)
    · exact exec_stLe_syl.trans (issue_cause (y := stLeSyl p d a z i) (.inl rfl) rfl hf ht)
  · exact issue_cause (y := vldLSyl p v a i (physOf s.me.cr.vrb v)) (.inl rfl) rfl hf ht
  · exact exec_vstL_syl.trans (issue_cause (y := vstLSyl p v a i (physOf s.me.cr.vrb v)) (.inl rfl) rfl hf ht)
  · have hcause : (amoLSyl p d a o z).cause s = some t := by
      replace ht : localCause (s.rx a).toNat (sizeOf2 z) (sizeOf2 z) s = some t := ht
      rw [amoLSyl_cause, ht]
      rfl
    rw [exec_amoL_syl]
    exact issue_cause (.inl rfl) rfl hf hcause

theorem amoL_deterministic {s : State} {p : BitVec 4} {d a : BitVec 6}
    (hf : s.free 2 p { xr := [d, a], xw := [d], localWrite := true } = true) (hal : (s.rx a).toNat % 4 = 0)
    (hl : (s.rx a).toNat + 4 ≤ localSize s.cur) (hdet : s.me.cr.det = true) :
    exec (.amoL p d a 9 2) s = .next (s.raise 2 0x12 s.sylValue) := by
  have hinside : localCause (s.rx a).toNat 4 4 s = none := localCause_none (by decide) (by omega) (by omega) (by omega)
  have hsize : sizeOf2 2 = 4 := rfl
  have hcause : (amoLSyl p d a 9 2).cause s = some (0x12, s.sylValue) := by
    rw [amoLSyl_cause, hsize, hinside, orCause, faddCause, if_pos ⟨rfl, hdet⟩]
  rw [exec_amoL_syl]
  exact issue_cause (y := amoLSyl p d a 9 2) (t := (0x12, s.sylValue)) (.inl rfl) rfl hf hcause

/-- Settles O25: a form raises the cause of its address (`localForm_raises`), which is `localCause_misaligned` or `localCause_aligned`. -/
theorem localTraps : Obligations.LocalTraps := by
  refine fun s p d a v z i o => ⟨fun f A n al hform => ⟨fun hal => ?_, fun hal hout => ?_, fun hal h0 hlt hend => ?_⟩, amoL_deterministic⟩
  · exact localForm_raises (t := (0x10, addrValue 2 A)) hform (localCause_misaligned hal)
  · exact localForm_raises (t := (0x04, addrValue 2 A)) hform ((localCause_aligned hal).trans (boundsCause_start hout))
  · exact localForm_raises (t := (0x04, addrValue 2 (localSize s.cur))) hform ((localCause_aligned hal).trans (boundsCause_end h0 hlt hend))

end Sys2Proof.Machine
end

section
/-! PROOF. The lane-wise VEC instructions on floating lanes (O32). -/

namespace Sys2Proof.Machine

/-! ## Floating lanes -/

theorem not_isIntT {t : Nat} (ht : 3 ≤ t) : isIntT t = false := by simpa [isIntT] using ht

/-- A lane of a floating type is as wide as its format. -/
theorem fmtOfType_width {t : Nat} (h3 : 3 ≤ t) (h6 : t < 6) : (fmtOfType t).width = laneWidth t := by
  obtain rfl | rfl | rfl : t = 3 ∨ t = 4 ∨ t = 5 := by omega
  all_goals rfl

theorem laneCount_cases (t : Nat) : laneCount t = 32 ∨ laneCount t = 64 ∨ laneCount t = 128 := by
  unfold laneCount
  split <;> simp

theorem div_laneWidth (t : Nat) : 1024 / laneWidth t = laneCount t := by
  rw [laneWidth]
  rcases laneCount_cases t with h | h | h <;> rw [h]

/-- The lanes of a register, of a type. -/
theorem lanes_laneWidth (t : Nat) (v : Vec) : lanes (laneWidth t) v = (List.range (laneCount t)).map (lane (laneWidth t) v) := by
  rw [lanes, div_laneWidth]

/-- What a list of results with flags puts in a register. -/
theorem outV_gatherResults (d : BitVec 5) (w n : Nat) (o : Nat → Nat × BitVec 6) :
    outV d w (gatherResults ((List.range n).map o)).1 (gatherResults ((List.range n).map o)).2 =
      ([.v d (vecOf w n (fun k => (o k).1))], lanesFlags n (fun k => (o k).2)) := by
  simp [outV, gatherResults, vecOf, lanesFlags, Function.comp_def]

/-- Operand b of a floating lane. -/
theorem vopnd_float (s : State) {t : Nat} (ht : 3 ≤ t) (b : Opnd 5) (zext : Bool) (k : Nat) :
    vopnd s.vecEnv t zext b k = floatOpnd s t (laneWidth t) b k := by
  cases b with
  | fld r => rfl
  | ext1 e => simp [vopnd, floatOpnd, not_isIntT ht]
  | ext2 e f => rfl

section
variable {s : State} {i : Instr} {p : BitVec 4} {t : BitVec 3} {d a : BitVec 5} {o : Nat → Nat × BitVec 6} (h3 : 3 ≤ t.toNat)
  (h6 : t.toNat < 6) (hn : vecNow s p i)
include h3 h6 hn

/-- A lane-wise instruction on floating lanes that executes as it issues. -/
theorem writes_vecFloat {b : Opnd 5} {zext : Bool} {li lf : Nat} {fi : Nat → Nat → Nat → Nat → Nat}
    {ff : Fmt → Nat → Nat → Nat → Nat × BitVec 6} (h : exec i s = issue (vecSyl p i (vecBin t d a b true zext li lf fi ff) s) s)
    (ho : ∀ k, ff (fmtOfType t.toNat) (lane (laneWidth t.toNat) (s.rv d) k) (lane (laneWidth t.toNat) (s.rv a) k)
      (floatOpnd s t.toNat (laneWidth t.toNat) b k) = o k) :
    Writes i s [.v (physOf s.me.cr.vrb d) (vecOf (laneWidth t.toNat) (laneCount t.toNat) (fun k => (o k).1))]
      (lanesFlags (laneCount t.toNat) (fun k => (o k).2)) := by
  have hrun : lanewise t d a b zext fi ff s.vecEnv =
      ([.v d (vecOf (laneWidth t.toNat) (laneCount t.toNat) (fun k => (o k).1))],
        lanesFlags (laneCount t.toNat) (fun k => (o k).2)) := by
    obtain rfl : _ = o := funext ho
    rw [← outV_gatherResults]
    simp only [lanewise, not_isIntT h3, vopnd_float s h3]
    rfl
  exact writes_vec h (by simpa [vecBin, isSix] using h6) (fun _ => rfl) hn hrun

/-- A special function that executes as it issues. -/
theorem writes_special {g : Fmt → Nat → Nat × BitVec 6} (h : exec i s = issue (vecSyl p i (semSpecial t d a g) s) s) :
    Writes i s [.v (physOf s.me.cr.vrb d) (vecOf (laneWidth t.toNat) (laneCount t.toNat)
        (fun k => (g (fmtOfType t.toNat) (lane (laneWidth t.toNat) (s.rv a) k)).1))]
      (lanesFlags (laneCount t.toNat) (fun k => (g (fmtOfType t.toNat) (lane (laneWidth t.toNat) (s.rv a) k)).2)) := by
  have hrun : (semSpecial t d a g).run s.vecEnv = ([.v d (vecOf (laneWidth t.toNat) (laneCount t.toNat)
        (fun k => (g (fmtOfType t.toNat) (lane (laneWidth t.toNat) (s.rv a) k)).1))],
      lanesFlags (laneCount t.toNat) (fun k => (g (fmtOfType t.toNat) (lane (laneWidth t.toNat) (s.rv a) k)).2)) := by
    rw [← outV_gatherResults, semSpecial]
    simp only [lanes_laneWidth, List.map_map]
    rfl
  exact writes_vec h (by simp [semSpecial]; omega) (fun _ => rfl) hn hrun

end

/-- Settles O32: each instruction is a function of the lanes' format in every lane (`writes_vecFloat`), or a special one
(`writes_special`). -/
theorem vecFloatLanes : Obligations.VecFloatLanes := by
  rintro s p t d a b h3 h6 w n rfl rfl r rfl f rfl x y z rfl rfl rfl i o hio hn
  have hw := fmtOfType_width h3 h6
  simp only [List.mem_cons, Prod.mk.injEq, List.not_mem_nil, or_false] at hio
  obtain ⟨rfl, rfl⟩ | ⟨rfl, rfl⟩ | ⟨rfl, rfl⟩ | ⟨rfl, rfl⟩ | ⟨rfl, rfl⟩ | ⟨rfl, rfl⟩ | ⟨rfl, rfl⟩ | ⟨rfl, rfl⟩ | ⟨rfl, rfl⟩ | ⟨rfl, rfl⟩ |
    ⟨rfl, rfl⟩ | ⟨rfl, rfl⟩ | ⟨rfl, rfl⟩ | ⟨rfl, rfl⟩ | ⟨rfl, rfl⟩ | ⟨rfl, rfl⟩ := hio
  · exact writes_vecFloat h3 h6 hn (exec_vadd ..) fun k => rfl
  · exact writes_vecFloat h3 h6 hn (exec_vsub ..) fun k => rfl
  · exact writes_vecFloat h3 h6 hn (exec_vmul ..) fun k => rfl
  · exact writes_vecFloat h3 h6 hn (exec_vfma ..) fun k => rfl
  · exact writes_vecFloat h3 h6 hn (exec_vmin ..) fun k => rfl
  · exact writes_vecFloat h3 h6 hn (exec_vmax ..) fun k => rfl
  · exact writes_vecFloat h3 h6 hn (exec_vabs ..) fun k => rfl
  · exact writes_vecFloat h3 h6 hn (exec_vneg ..) fun k => rfl
  · exact writes_vecFloat h3 h6 hn (exec_vcmpEq ..) fun k => by rw [hw]; rfl
  · exact writes_vecFloat h3 h6 hn (exec_vcmpLt ..) fun k => by rw [hw]; rfl
  · exact writes_vecFloat h3 h6 hn (exec_vcmpLe ..) fun k => by rw [hw]; rfl
  · exact writes_special h3 h6 hn (exec_vexp2 ..)
  · exact writes_special h3 h6 hn (exec_vlog2 ..)
  · exact writes_special h3 h6 hn (exec_vrcp ..)
  · exact writes_special h3 h6 hn (exec_vrsq ..)
  · exact writes_special h3 h6 hn (exec_vtanh ..)

end Sys2Proof.Machine
end

section
/-! PROOF. The VEC instructions that move and rearrange lanes (O33). -/

namespace Sys2Proof.Machine

/-! ## The select, the moves and the rearrangements -/

theorem laneCount_pos (t : Nat) : 0 < laneCount t := by
  have h := laneCount_cases t
  omega

theorem isSix_of_lt {t : Nat} (ht : t < 6) : isSix t = true := by simpa [isSix] using ht

theorem length_lanes (t : Nat) (v : Vec) : (lanes (laneWidth t) v).length = laneCount t := by simp [lanes_laneWidth]

theorem getElem_lanes {t : Nat} {v : Vec} {k : Nat} (h : k < (lanes (laneWidth t) v).length) :
    (lanes (laneWidth t) v)[k] = lane (laneWidth t) v k := by simp [lanes]

/-- A list of lanes, as a register given lane by lane. -/
theorem ofLanes_vecOf {w n : Nat} {xs : List Nat} {g : Nat → Nat} (hlen : xs.length = n) (hget : ∀ k (h : k < xs.length), xs[k] = g k) :
    ofLanes w xs = vecOf w n g := by
  rw [vecOf]
  congr 1
  apply List.ext_getElem
  · simpa using hlen
  · intro k h1 h2
    simpa using hget k h1

theorem lanesFlags_zero (n : Nat) : lanesFlags n (fun _ => 0) = 0 := by
  have hflags := congrArg Prod.snd (gatherResults_noFlags id (List.range n))
  simpa [gatherResults, lanesFlags, Function.comp_def] using hflags

theorem outV_vecOf {w n : Nat} {xs : List Nat} {g : Nat → Nat} (d : BitVec 5) (hlen : xs.length = n)
    (hget : ∀ k (h : k < xs.length), xs[k] = g k) : outV d w xs 0 = ([.v d (vecOf w n g)], 0) := by
  rw [outV, ofLanes_vecOf hlen hget]

/-- The select is lane-wise on every type. -/
theorem semVsel_eq (t : BitVec 3) (d a b : BitVec 5) : semVsel t d a b = vecBin t d a (.fld b) true false 1 1
    (fun w x y z => if x.testBit (w - 1) then y else z) (fun f x y z => (if x.testBit (f.width - 1) then y else z, 0)) := by
  simp [semVsel, vecBin]

section
variable {s : State} {p : BitVec 4} {t : BitVec 3} {d a b : BitVec 5}

theorem semVbcast_run : (semVbcast t d a).run s.vecEnv =
    ([.v d (vecOf (laneWidth t.toNat) (laneCount t.toNat) (fun _ => (s.rx (a.setWidth 6)).toNat))], 0) :=
  outV_vecOf d (by simp [State.vecEnv]) (by simp [State.vecEnv])

theorem semVinsr_run : (semVinsr t d a b).run s.vecEnv = ([.v d (vecOf (laneWidth t.toNat) (laneCount t.toNat) (fun i =>
    if i = (s.rx (b.setWidth 6)).toNat % laneCount t.toNat then (s.rx (a.setWidth 6)).toNat
    else lane (laneWidth t.toNat) (s.rv d) i))], 0) := by
  refine outV_vecOf d ((List.length_set ..).trans (length_lanes ..)) fun k h => ?_
  rw [List.getElem_set, getElem_lanes]
  simp only [State.vecEnv, eq_comm]

theorem semVperm_run : (semVperm t d a b).run s.vecEnv = ([.v d (vecOf (laneWidth t.toNat) (laneCount t.toNat) (fun i =>
    lane (laneWidth t.toNat) (s.rv a) (lane (laneWidth t.toNat) (s.rv b) i % laneCount t.toNat)))], 0) := by
  refine outV_vecOf d ((List.length_map ..).trans (length_lanes ..)) fun k h => ?_
  have hlt (i : Nat) : i % laneCount t.toNat < (lanes (laneWidth t.toNat) (s.rv a)).length := by
    rw [length_lanes]
    exact Nat.mod_lt _ (laneCount_pos _)
  rw [List.getElem_map, getElem_lanes, length_lanes]
  exact (List.getD_eq_getElem _ _ (hlt _)).trans (getElem_lanes _)

theorem semVrot_run : (semVrot t d a b).run s.vecEnv = ([.v d (vecOf (laneWidth t.toNat) (laneCount t.toNat) (fun i =>
    lane (laneWidth t.toNat) (s.rv a) ((i + lane (laneWidth t.toNat) (s.rv b) 0) % laneCount t.toNat)))], 0) := by
  have hpos := laneCount_pos t.toNat
  have hhead : (lanes (laneWidth t.toNat) (s.rv b)).headD 0 = lane (laneWidth t.toNat) (s.rv b) 0 := by
    rw [List.headD_eq_head?_getD, List.head?_eq_getElem?, List.getElem?_eq_getElem (by rwa [length_lanes]), getElem_lanes]
    rfl
  refine outV_vecOf d ((List.length_rotate ..).trans (length_lanes ..)) fun k h => ?_
  rw [List.getElem_rotate, getElem_lanes]
  simp only [length_lanes, Nat.add_mod_mod]
  exact congrArg (fun i => lane _ (s.rv a) ((k + i) % laneCount t.toNat)) hhead

theorem semVcx_run : (semVcx t d a b).run s.vecEnv = ([.v d (ofLanes (laneWidth t.toNat) (((List.range (laneCount t.toNat)).filter
    (fun i => (lane (laneWidth t.toNat) (s.rv b) i).testBit (laneWidth t.toNat - 1))).map (lane (laneWidth t.toNat) (s.rv a))))], 0) := by
  change outV d _ (((lanes _ (s.rv a)).zip (lanes _ (s.rv b))).filter _ |>.map _) 0 = _
  rw [lanes_laneWidth, lanes_laneWidth, List.zip_map', List.filter_map, List.map_map]
  rfl

theorem semVdot4_run {sum : Nat → Int} (hsum : sum = fun i => signedOf 32 (lane 32 (s.rv d) i) +
      signedOf 8 (lane 8 (s.rv a) (4 * i)) * signedOf 8 (lane 8 (s.rv b) (4 * i)) +
      signedOf 8 (lane 8 (s.rv a) (4 * i + 1)) * signedOf 8 (lane 8 (s.rv b) (4 * i + 1)) +
      signedOf 8 (lane 8 (s.rv a) (4 * i + 2)) * signedOf 8 (lane 8 (s.rv b) (4 * i + 2)) +
      signedOf 8 (lane 8 (s.rv a) (4 * i + 3)) * signedOf 8 (lane 8 (s.rv b) (4 * i + 3))) :
    (semVdot4 t d a b).run s.vecEnv = ([.v d (vecOf 32 32 (fun i => laneInt 32 (sum i)))],
      lanesFlags 32 (fun i => if 2 ^ 31 ≤ sum i ∨ sum i < -2 ^ 31 then flOF else 0)) := by
  have hrange (n : Int) : (n > intMax 32 ∨ n < intMin 32) ↔ (2 ^ 31 ≤ n ∨ n < -2 ^ 31) := by
    rw [intMax, intMin]
    omega
  have hfour : List.range 4 = [0, 1, 2, 3] := rfl
  have hout := outV_gatherResults d 32 32 (fun i => (laneInt 32 (sum i), if 2 ^ 31 ≤ sum i ∨ sum i < -2 ^ 31 then flOF else 0))
  rw [← hout, semVdot4, hsum]
  simp only [hrange, hfour, List.foldl_cons, List.foldl_nil, Nat.add_zero]
  rfl

end

/-- Settles O33: what each instruction means on the lanes it reads, as a register given lane by lane. -/
theorem vecMoves : Obligations.VecMoves := by
  rintro s p t d a b ht w n rfl rfl r rfl x y z rfl rfl rfl xa xb rfl rfl
  have hok := isSix_of_lt ht
  refine ⟨fun hn => ?_, fun hn => writes_vec (exec_vbcast ..) hok (fun _ => rfl) hn semVbcast_run, fun hn => ?_,
    fun hn => writes_vec (exec_vinsr ..) hok (fun _ => rfl) hn semVinsr_run,
    fun hn => writes_vec (exec_vperm ..) hok (fun _ => rfl) hn semVperm_run,
    fun hn => writes_vec (exec_vrot ..) hok (fun _ => rfl) hn semVrot_run,
    fun hn => writes_vec (exec_vcx ..) hok (fun _ => rfl) hn semVcx_run,
    fun h2 hn sum hsum => ?_⟩
  · have hexec := (exec_vsel p t d a b s).trans (congrArg (fun y => issue (vecSyl p _ y s) s) (semVsel_eq t d a b))
    have hb : ∀ e f, (.fld b : Opnd 5) ≠ .ext2 e f := by nofun
    rcases Nat.lt_or_ge t.toNat 3 with h3 | h3
    · exact writes_vecBin h3 hb hexec (fun k => rfl) hn
    · have hwrites := writes_vecFloat h3 ht hn hexec (o := fun k => (_, 0)) fun k => by rw [fmtOfType_width h3 ht]
      rwa [lanesFlags_zero] at hwrites
  · have hwrites := writes_vec (exec_vextr ..) hok (fun _ => rfl) hn rfl
    simp only [isIntT, decide_eq_true_eq] at hwrites
    exact hwrites
  · subst h2
    exact writes_vec (exec_vdot4 ..) rfl (fun _ => rfl) hn (semVdot4_run hsum)

end Sys2Proof.Machine
end

section
/-! PROOF. The VEC reductions and `VSCAN` (O34). -/

namespace Sys2Proof.Machine

/-! ## The pairwise tree (R163) -/

section
variable {α : Type} {op : α → α → α} {g : Nat → α}

theorem treeFold_singleton (n : Nat) (x : α) : treeFold op n [x] = [x] := by
  induction n with
  | zero => rfl
  | succ n ih => exact ih

theorem pairUp_range (g : Nat → α) (m : Nat) :
    pairUp op ((List.range (2 * m)).map g) = (List.range m).map (fun i => op (g (2 * i)) (g (2 * i + 1))) := by
  induction m generalizing g with
  | zero => rfl
  | succ m ih =>
    rw [Nat.mul_succ, List.range_succ_eq_map, List.range_succ_eq_map (n := m)]
    rw [List.range_succ_eq_map (n := 2 * m)]
    simp only [List.map_cons, List.map_map, pairUp]
    exact congrArg _ (ih (fun i => g (i + 2)))

theorem pairTree_pairs (k lo : Nat) :
    pairTree op (fun i => op (g (2 * i)) (g (2 * i + 1))) k lo = pairTree op g (k + 1) (2 * lo) := by
  induction k generalizing lo with
  | zero => rfl
  | succ k ih =>
    rw [pairTree, ih, ih, Nat.mul_add, ← pow_succ']
    rfl

theorem treeFold_range (g : Nat → α) (k j : Nat) : treeFold op (k + j) ((List.range (2 ^ k)).map g) = [pairTree op g k 0] := by
  induction k generalizing g with
  | zero => exact treeFold_singleton ..
  | succ k ih =>
    rw [Nat.add_right_comm, treeFold, pow_succ', pairUp_range, ih, pairTree_pairs]

end

/-- A tree that keeps the better of two items keeps the best of all. -/
theorem pairTree_best {r : Nat → Nat → Bool} (htotal : ∀ x y, r x y = true ∨ r y x = true)
    (htrans : ∀ x y z, r x y = true → r y z = true → r x z = true) (g : Nat → Nat) (k lo : Nat) :
    ∃ j < lo + 2 ^ k, (∀ i, lo ≤ i → i < lo + 2 ^ k → r (g j) (g i) = true) ∧
      pairTree (fun x y => if r x y then x else y) g k lo = g j := by
  induction k generalizing lo with
  | zero =>
    refine ⟨lo, by omega, fun i h1 h2 => ?_, rfl⟩
    obtain rfl : i = lo := by omega
    exact (htotal _ _).elim id id
  | succ k ih =>
    obtain ⟨a, ha, hbest, hleft⟩ := ih lo
    obtain ⟨b, hb, hbest', hright⟩ := ih (lo + 2 ^ k)
    have hpos := Nat.two_pow_pos k
    have hpow : 2 ^ (k + 1) = 2 ^ k + 2 ^ k := by ring
    rw [pairTree, hleft, hright, hpow]
    by_cases h : r (g a) (g b) = true
    · refine ⟨a, by omega, fun i h1 h2 => ?_, if_pos h⟩
      rcases Nat.lt_or_ge i (lo + 2 ^ k) with hi | hi
      · exact hbest i h1 hi
      · exact htrans _ _ _ h (hbest' i hi (by omega))
    · refine ⟨b, by omega, fun i h1 h2 => ?_, if_neg h⟩
      rcases Nat.lt_or_ge i (lo + 2 ^ k) with hi | hi
      · exact htrans _ _ _ ((htotal (g a) (g b)).resolve_left h) (hbest i h1 hi)
      · exact hbest' i hi (by omega)

/-! ## The running results (R164) -/

theorem scanFrom_range (op : Nat → Nat → Nat × BitVec 6) (g : Nat → Nat) (i m : Nat) :
    scanFrom op (prefixes op g i).1 ((List.range' (i + 1) m).map g) = (List.range' (i + 1) m).map (prefixes op g) := by
  induction m generalizing i with
  | zero => rfl
  | succ m ih => exact congrArg _ (ih (i + 1))

/-- The running sums of integer lanes. -/
theorem prefixes_int (w : Nat) (g : Nat → Nat) (i : Nat) :
    (prefixes (fun x y => ((x + y) % 2 ^ w, 0)) g i).1 ≡ ((List.range (i + 1)).map g).sum [MOD 2 ^ w] ∧
      (prefixes (fun x y => ((x + y) % 2 ^ w, 0)) g i).2 = 0 := by
  induction i with
  | zero => exact ⟨by rw [List.range_one]; rfl, rfl⟩
  | succ i ih =>
    refine ⟨?_, rfl⟩
    rw [List.range_succ, List.map_append, List.sum_append]
    exact (Nat.mod_modEq _ _).trans (ih.1.add_right _)

/-! ## The reductions -/

section
variable {s : State} {p : BitVec 4} {t : BitVec 3} {d a : BitVec 5} {k : Nat}

section
variable (hk : laneCount t.toNat = 2 ^ k)
include hk

/-- The tree over the lanes of a register. -/
theorem treeFold_lanes {α : Type} {op : α → α → α} (g : Nat → α) (x : α) :
    (treeFold op 7 ((List.range (laneCount t.toNat)).map g)).headD x = pairTree op g k 0 := by
  have hle : 2 ^ k ≤ 2 ^ 7 := by
    rw [← hk]
    have h := laneCount_cases t.toNat
    omega
  obtain ⟨j, hj⟩ := Nat.exists_eq_add_of_le ((Nat.pow_le_pow_iff_right (by decide)).1 hle)
  rw [hk, hj, treeFold_range]
  rfl

theorem semVredux_run (fi : Int → Int → Bool) (ff : Fmt → Nat → Nat → Nat) : (semVredux t d a fi ff).run s.vecEnv =
    ([.v d (vecOf (laneWidth t.toNat) 1 (fun _ => pairTree (fun x y => if isIntT t.toNat = true then
        (if fi (signedOf (laneWidth t.toNat) x) (signedOf (laneWidth t.toNat) y) = true then x else y)
      else ff (fmtOfType t.toNat) x y) (lane (laneWidth t.toNat) (s.rv a)) k 0))], 0) := by
  rw [← treeFold_lanes hk _ 0, ← lanes_laneWidth]
  rfl

theorem semVrsum_run (h3 : 3 ≤ t.toNat) {q : Nat × BitVec 6}
    (hq : q = pairTree (withFlags (fAdd fp32))
      (fun i => ((toFloat fp32 .rne (fval (fmtOfType t.toNat) (lane (laneWidth t.toNat) (s.rv a) i))).1, (0 : BitVec 6))) k 0) :
    (semVrsum t d a).run s.vecEnv = ([.v d (vecOf 32 1 (fun _ => q.1))], q.2) := by
  rw [hq, ← treeFold_lanes hk _ (0, 0), semVrsum]
  simp only [not_isIntT h3, lanes_laneWidth, List.map_map]
  rfl

end

theorem semVrsum_run_int (h3 : t.toNat < 3) {sum : Int}
    (hsum : sum = ((List.range (laneCount t.toNat)).map (fun i =>
      signedOf (laneWidth t.toNat) (lane (laneWidth t.toNat) (s.rv a) i))).sum) :
    (semVrsum t d a).run s.vecEnv =
      ([.v d (vecOf 32 1 (fun _ => laneInt 32 sum))], if 2 ^ 31 ≤ sum ∨ sum < -2 ^ 31 then flOF else 0) := by
  have hint : isIntT t.toNat = true := by simpa [isIntT] using h3
  have hfold : ((lanes (laneWidth t.toNat) (s.rv a)).map (signedOf (laneWidth t.toNat))).foldl (· + ·) 0 = sum := by
    rw [hsum, lanes_laneWidth, List.map_map, ← List.sum_eq_foldl]
    rfl
  rw [semVrsum]
  simp only [hint, if_true, ← hfold]
  rfl

/-- The results and flags of the running operations. -/
theorem semVscan_run {op : Nat → Nat → Nat × BitVec 6} (hop : (fun x y => if isIntT t.toNat = true then
      ((x + y) % 2 ^ laneWidth t.toNat, (0 : BitVec 6)) else fAdd (fmtOfType t.toNat) x y) = op) :
    (semVscan t d a).run s.vecEnv =
      ([.v d (vecOf (laneWidth t.toNat) (laneCount t.toNat) (fun i => (prefixes op (lane (laneWidth t.toNat) (s.rv a)) i).1))],
        lanesFlags (laneCount t.toNat) (fun i => (prefixes op (lane (laneWidth t.toNat) (s.rv a)) i).2)) := by
  obtain ⟨m, hm⟩ := Nat.exists_eq_add_of_lt (laneCount_pos t.toNat)
  rw [Nat.zero_add] at hm
  have hlanes : lanes (laneWidth t.toNat) (s.rv a) =
      lane (laneWidth t.toNat) (s.rv a) 0 :: (List.range' 1 m).map (lane (laneWidth t.toNat) (s.rv a)) := by
    rw [lanes_laneWidth, hm, List.range_eq_range', List.range'_succ, List.map_cons]
  have hscan := scanFrom_range op (lane (laneWidth t.toNat) (s.rv a)) 0 m
  have hall : (List.range (laneCount t.toNat)).map (prefixes op (lane (laneWidth t.toNat) (s.rv a))) =
      (lane (laneWidth t.toNat) (s.rv a) 0, 0) :: scanFrom op (lane (laneWidth t.toNat) (s.rv a) 0)
        ((List.range' 1 m).map (lane (laneWidth t.toNat) (s.rv a))) := by
    rw [hm, List.range_eq_range', List.range'_succ, List.map_cons]
    exact congrArg _ hscan.symm
  rw [← outV_gatherResults, hall, semVscan]
  simp only [hop]
  change (match lanes (laneWidth t.toNat) (s.rv a) with | [] => _ | x :: xs => _) = _
  rw [hlanes]

/-- The greatest integer lane, or by the other order the least. -/
theorem writes_vredux_int {i : Instr} {fi : Int → Int → Bool} {ff : Fmt → Nat → Nat → Nat} (h3 : t.toNat < 3)
    (hk : laneCount t.toNat = 2 ^ k) (hexec : exec i s = issue (vecSyl p i (semVredux t d a fi ff) s) s) (hn : vecNow s p i)
    (htotal : ∀ x y, fi x y = true ∨ fi y x = true) (htrans : ∀ x y z, fi x y = true → fi y z = true → fi x z = true) :
    ∃ j < laneCount t.toNat, (∀ m < laneCount t.toNat, fi (signedOf (laneWidth t.toNat) (lane (laneWidth t.toNat) (s.rv a) j))
        (signedOf (laneWidth t.toNat) (lane (laneWidth t.toNat) (s.rv a) m)) = true) ∧
      Writes i s [.v (physOf s.me.cr.vrb d) (vecOf (laneWidth t.toNat) 1 (fun _ => lane (laneWidth t.toNat) (s.rv a) j))] 0 := by
  have hint : isIntT t.toNat = true := by simpa [isIntT] using h3
  obtain ⟨j, hj, hbest, htree⟩ := pairTree_best (fun _ _ => htotal _ _) (fun _ _ _ => htrans _ _ _)
    (r := fun x y => fi (signedOf (laneWidth t.toNat) x) (signedOf (laneWidth t.toNat) y)) (lane (laneWidth t.toNat) (s.rv a)) k 0
  rw [Nat.zero_add, ← hk] at hj hbest
  have hrun := semVredux_run (s := s) (d := d) (a := a) hk fi ff
  simp only [hint, if_true, htree] at hrun
  exact ⟨j, hj, fun m hm => hbest m (Nat.zero_le _) hm, writes_vec hexec (isSix_of_lt (by omega)) (fun _ => rfl) hn hrun⟩

theorem writes_vredux_float {i : Instr} {fi : Int → Int → Bool} {ff : Fmt → Nat → Nat → Nat} (h3 : 3 ≤ t.toNat) (h6 : t.toNat < 6)
    (hk : laneCount t.toNat = 2 ^ k) (hexec : exec i s = issue (vecSyl p i (semVredux t d a fi ff) s) s) (hn : vecNow s p i) :
    Writes i s [.v (physOf s.me.cr.vrb d)
      (vecOf (laneWidth t.toNat) 1 (fun _ => pairTree (ff (fmtOfType t.toNat)) (lane (laneWidth t.toNat) (s.rv a)) k 0))] 0 := by
  have hrun := semVredux_run (s := s) (d := d) (a := a) hk fi ff
  simp only [not_isIntT h3] at hrun
  exact writes_vec hexec (isSix_of_lt h6) (fun _ => rfl) hn hrun

theorem vscan_writes_int (h3 : t.toNat < 3) (hn : vecNow s p (.vscan p t d a)) : Writes (.vscan p t d a) s
    [.v (physOf s.me.cr.vrb d) (vecOf (laneWidth t.toNat) (laneCount t.toNat)
      (fun i => ((List.range (i + 1)).map (lane (laneWidth t.toNat) (s.rv a))).sum))] 0 := by
  have hint : isIntT t.toNat = true := by simpa [isIntT] using h3
  have hrun := semVscan_run (s := s) (d := d) (a := a) (t := t) (op := fun x y => ((x + y) % 2 ^ laneWidth t.toNat, 0)) (by simp [hint])
  rw [vecOf_congr fun i => (prefixes_int _ _ i).1, funext fun i => (prefixes_int _ _ i).2, lanesFlags_zero] at hrun
  exact writes_vec (exec_vscan ..) (isSix_of_lt (by omega)) (fun _ => rfl) hn hrun

end

/-- Settles O34: the tree over the lanes is `pairTree` (`treeFold_lanes`), and of integer lanes the best one (`pairTree_best`);
the scan is `prefixes` (`scanFrom_range`). -/
theorem vecReductions : Obligations.VecReductions := by
  rintro s p t d a h6 w n k rfl rfl hk r rfl f rfl y rfl
  have hok := isSix_of_lt h6
  refine ⟨fun h3 => ⟨fun hn sum hsum => ?_, fun hn => ?_, fun hn => ?_, vscan_writes_int h3⟩,
    fun h3 => ⟨fun hn q hq => ?_, fun hn => ?_, fun hn => ?_, fun hn => ?_⟩⟩
  · exact writes_vec (exec_vrsum ..) hok (fun _ => rfl) hn (semVrsum_run_int h3 hsum)
  · simpa using writes_vredux_int h3 hk (exec_vrmax p t d a s) hn (by simpa using fun x y => le_total y x)
      (by simpa using fun x y z h h' => le_trans h' h)
  · simpa using writes_vredux_int h3 hk (exec_vrmin p t d a s) hn (by simpa using le_total) (by simpa using fun x y z => le_trans)
  · exact writes_vec (exec_vrsum ..) hok (fun _ => rfl) hn (semVrsum_run hk h3 hq)
  · exact writes_vredux_float h3 h6 hk (exec_vrmax ..) hn
  · exact writes_vredux_float h3 h6 hk (exec_vrmin ..) hn
  · exact writes_vec (exec_vscan ..) hok (fun _ => rfl) hn (semVscan_run (by simp [not_isIntT h3]))

end Sys2Proof.Machine
end

section
/-! PROOF. The landings of cluster and gallery accesses, multicast, and the reads of `WAITA` (O52). -/

namespace Sys2Proof.Machine

/-! ## Requests replaced and taken away -/

section
variable {s t u : State} {q r : MemReq} {id : Nat}

theorem State.req_id (h : s.req id = some q) : q.id = id := by simpa using List.find?_some h

theorem State.req_congr (h : t.reqs = s.reqs) (id : Nat) : t.req id = s.req id := by rw [State.req, h, State.req]

/-- The request put in the place of another is found there. -/
theorem State.req_setReq (h : s.req id = some q) (hr : r.id = id) : (s.setReq r).req id = some r := by
  subst hr
  have hsome : ∃ l₁ l₂, s.reqs = l₁ ++ q :: l₂ ∧ ∀ a ∈ l₁, a.id ≠ r.id := by
    obtain ⟨_, l₁, l₂, hl, hl₁⟩ := List.find?_eq_some_iff_append.1 h
    exact ⟨l₁, l₂, hl, fun a ha => by simpa using hl₁ a ha⟩
  obtain ⟨l₁, l₂, hl, hl₁⟩ := hsome
  have hkeep : l₁.map (fun a => if a.id = r.id then r else a) = l₁ := by
    conv_rhs => rw [← List.map_id l₁]
    exact List.map_congr_left fun a ha => if_neg (hl₁ a ha)
  have hnone : l₁.find? (fun a => decide (a.id = r.id)) = none := by simpa using hl₁
  have hlist : (s.setReq r).reqs = l₁ ++ r :: l₂.map (fun a => if a.id = r.id then r else a) := by
    rw [State.setReq, hl, List.map_append, hkeep, List.map_cons, if_pos (s.req_id h)]
  rw [State.req, hlist, List.find?_append, hnone, Option.none_or, List.find?_cons_of_pos (by simp)]

theorem State.reqNow_of_req (h : t.req q.id = some r) : t.reqNow q = r := by rw [State.reqNow, h]; rfl

/-- A request replaced and taken away leaves the others. -/
theorem filter_setReq (hid : r.id = id) : ((s.setReq r).reqs.filter (fun a => a.id ≠ id)) = s.reqs.filter (fun a => a.id ≠ id) := by
  subst hid
  rw [State.setReq]
  induction s.reqs with
  | nil => rfl
  | cons a l ih =>
    by_cases h : a.id = r.id <;> simp_all

end

/-! ## Landing (R229, R236, R279) -/

section
variable {s u : State} {q : MemReq}

theorem visible_noteLanded (c : Ctx) (id now : Nat) (ws : List RegWrite) : (c.noteLanded id now ws).visible = c.visible := rfl

/-- A result that lands where the requests apart from its own are those of `s`, and the contexts too. -/
theorem lands_landReq (hctxs : u.ctxs = s.ctxs) (hreqs : u.reqs.filter (fun r => r.id ≠ q.id) = s.reqs.filter (fun r => r.id ≠ q.id)) :
    Lands s (u.landReq q) q := by
  have hctx (a : Agent) : u.ctx a = s.ctx a := by rw [State.ctx, hctxs, State.ctx]
  cases hf : q.failed with
  | none =>
    have hland : u.landReq q = (u.dropReq q.id).modCtx q.own (fun c =>
        ((applyWrites (q.dest.write q.value) c).flag q.flags).noteLanded q.id u.cycle (q.dest.write q.value)) := by
      simp only [State.landReq, hf]
      rfl
    rw [hland]
    refine ⟨hreqs, fun _ => ?_, fun f h => absurd (h.symm.trans hf) nofun, fun b hb => ?_⟩
    · rw [State.ctx_modCtx_same, visible_noteLanded]
      have hown : (u.dropReq q.id).ctx q.own = s.ctx q.own := hctx _
      rw [hown]
      exact ⟨rfl, (applyWrites_keeps _ _).2⟩
    · exact (ctx_modCtx_ne hb ..).trans (hctx b)
  | some f =>
    have hland : u.landReq q = (u.dropReq q.id).modCtx q.own (fun c => { c with after := c.after ++ [f] }) := by
      simp only [State.landReq, hf]
    rw [hland]
    refine ⟨hreqs, fun h => absurd (h.symm.trans hf) nofun, fun g h => ?_, fun b hb => ?_⟩
    · obtain rfl := Option.some.inj (hf.symm.trans h)
      rw [State.ctx_modCtx_same]
      have hown : (u.dropReq q.id).ctx q.own = s.ctx q.own := hctx _
      rw [hown]
      exact ⟨rfl, rfl⟩
    · exact (ctx_modCtx_ne hb ..).trans (hctx b)

theorem landReq_only (s : State) (q : MemReq) :
    s.landReq q = { s with reqs := (s.landReq q).reqs }.setCtx q.own ((s.landReq q).ctx q.own) := by
  cases hf : q.failed with
  | none =>
    simp only [State.landReq, hf, State.ctx_modCtx_same]
    rfl
  | some f =>
    simp only [State.landReq, hf, State.ctx_modCtx_same]
    rfl

theorem sameBytes_landReq (s : State) (q : MemReq) : SameBytes s (s.landReq q) := by
  refine sameBytes_of_but fun _ => ?_
  rw [landReq_only]
  exact sameBut_of_tables rfl rfl rfl rfl

end

/-! ## A request that is tried (R283, R284) -/

section
variable {s : State} {q : MemReq} {pri : Nat} {ev : Event}

theorem tryPerform_done (h : q.performed = true) : s.tryPerform q pri ev = s := by rw [State.tryPerform, if_pos h]

theorem tryPerform_waits (h : q.performed = false) (hw : s.mustWait q = true) :
    s.tryPerform q pri ev = (s.askHost q).schedule (s.cycle + 1) pri ev := by
  rw [State.tryPerform, if_neg (by simp [h]), if_pos hw]

theorem tryPerform_misses (h : q.performed = false) (hw : s.mustWait q = false) (ht : s.turnOf q ev = false) :
    s.tryPerform q pri ev = s.missTurn q ev := by
  rw [State.tryPerform, if_neg (by simp [h]), if_neg (by simp [hw]), if_pos (by simp [ht])]

theorem tryPerform_performs (h : q.performed = false) (hw : s.mustWait q = false) (ht : s.turnOf q ev = true) (hb : s.before q = []) :
    s.tryPerform q pri ev = (s.useTurn q ev).perform q := by
  rw [State.tryPerform, if_neg (by simp [h]), if_neg (by simp [hw]), if_neg (by simp [ht]), hb]
  rfl

theorem askHost_reqs (s : State) (q : MemReq) : (s.askHost q).reqs = s.reqs := by
  rw [State.askHost]
  split <;> rfl

theorem missTurn_reqs (s : State) (q : MemReq) (ev : Event) : (s.missTurn q ev).reqs = s.reqs := by
  rw [State.missTurn]
  split <;> rfl

/-- Banks that serve a request change the arbitration alone. -/
theorem useTurn_rest (s : State) (q : MemReq) (ev : Event) : ∃ arbs, s.useTurn q ev = { s with arbs := arbs } := by
  rw [State.useTurn]
  split
  case h_1 c _ =>
    rw [State.takeTurn, State.leaveWaits]
    split <;> exact ⟨_, rfl⟩
  case h_2 | h_3 | h_4 => exact ⟨_, rfl⟩

end

/-! ## What leaves the memories, the requests and the contexts -/

/-- An image of the items that a change of each keeps is that of the item found. -/
theorem tget_map_image {κ α β : Type} [DecidableEq κ] {F : κ × α → κ × α} {φ : α → β} (hkey : ∀ e, (F e).1 = e.1)
    (himage : ∀ e, φ (F e).2 = φ e.2) (l : Tbl κ α) (k : κ) (d : α) : φ (tget (l.map F) k d) = φ (tget l k d) := by
  induction l with
  | nil => rfl
  | cons e l ih =>
    rw [List.map_cons, tget, tget, hkey]
    split
    · exact himage e
    · exact ih

/-- A step that leaves the contexts, the requests, every memory, and the words with an uncorrectable error. -/
structure HomesKept (s t : State) : Prop where
  ctxs : t.ctxs = s.ctxs
  reqs : t.reqs = s.reqs
  core : ∀ c, (t.core c).mem = (s.core c).mem ∧ (t.core c).stores = (s.core c).stores ∧ (t.core c).window = (s.core c).window
  coreBad : ∀ c, (t.core c).bad = (s.core c).bad
  sup : ∀ v, (t.sup v).mem = (s.sup v).mem ∧ (t.sup v).stores = (s.sup v).stores ∧ (t.sup v).window = (s.sup v).window
  die : ∀ d, (t.die d).gallery = (s.die d).gallery ∧ (t.die d).codeStore = (s.die d).codeStore
  dieBad : ∀ d, (t.die d).bad = (s.die d).bad
  pkg : ∀ p, (t.pkg p).hostMem = (s.pkg p).hostMem

section
variable {s t u : State}

theorem HomesKept.refl (s : State) : HomesKept s s :=
  ⟨rfl, rfl, fun _ => ⟨rfl, rfl, rfl⟩, fun _ => rfl, fun _ => ⟨rfl, rfl, rfl⟩, fun _ => ⟨rfl, rfl⟩, fun _ => rfl, fun _ => rfl⟩

theorem HomesKept.trans (h : HomesKept s t) (g : HomesKept t u) : HomesKept s u where
  ctxs := g.ctxs.trans h.ctxs
  reqs := g.reqs.trans h.reqs
  core c := by simpa only [(g.core c).1, (g.core c).2.1, (g.core c).2.2] using h.core c
  coreBad c := (g.coreBad c).trans (h.coreBad c)
  sup v := by simpa only [(g.sup v).1, (g.sup v).2.1, (g.sup v).2.2] using h.sup v
  die d := by simpa only [(g.die d).1, (g.die d).2] using h.die d
  dieBad d := (g.dieBad d).trans (h.dieBad d)
  pkg p := (g.pkg p).trans (h.pkg p)

theorem HomesKept.foldl {α : Type} {f : State → α → State} (h : ∀ s x, HomesKept s (f s x)) (l : List α) (s : State) :
    HomesKept s (l.foldl f s) := by
  induction l generalizing s with
  | nil => exact .refl s
  | cons x l ih => exact (h s x).trans (ih _)

theorem HomesKept.homeMem (h : HomesKept s t) (x : Home) : t.homeMem x = s.homeMem x := by
  cases x with
  | core c => exact (h.core c).1
  | die d => exact (h.die d).1
  | ctrl _ => rfl
  | host _ _ => rfl

theorem HomesKept.homeBad (h : HomesKept s t) (x : Home) : t.homeBad x = s.homeBad x := by
  cases x with
  | core c => exact h.coreBad c
  | die d => exact h.dieBad d
  | ctrl _ => rfl
  | host _ _ => rfl

theorem HomesKept.bytes (h : HomesKept s t) : SameBytes s t :=
  sameBytes_of_but fun _ => sameBut_of_fields h.core h.sup (fun d => (h.die d).2) (fun d _ => (h.die d).1)
    (fun _ _ => by rw [(h.die _).1]) h.pkg

theorem HomesKept.ctx (h : HomesKept s t) (a : Agent) : t.ctx a = s.ctx a := by rw [State.ctx, h.ctxs, State.ctx]

theorem Messaged.homesKept (h : Messaged s t) : HomesKept s t := by
  have hsups := h.sups
  have hhosts := h.hosts
  obtain ⟨_, _, _, _, rfl⟩ := h.rest
  exact ⟨rfl, rfl, fun _ => ⟨rfl, rfl, rfl⟩, fun _ => rfl, hsups, fun _ => ⟨rfl, rfl⟩, fun _ => rfl, hhosts⟩

/-- States with the same memories in each table. -/
theorem homesKept_of_dies {dies : Tbl DieId Die} (h : ∀ d, (tget dies d Die.reset).gallery = (s.die d).gallery ∧
      (tget dies d Die.reset).codeStore = (s.die d).codeStore) (hbad : ∀ d, (tget dies d Die.reset).bad = (s.die d).bad) :
    HomesKept s { s with dies := dies } :=
  ⟨rfl, rfl, fun _ => ⟨rfl, rfl, rfl⟩, fun _ => rfl, fun _ => ⟨rfl, rfl, rfl⟩, h, hbad, fun _ => rfl⟩

theorem homesKept_modDie (d : DieId) {f : Die → Die} (hg : ∀ k, (f k).gallery = k.gallery) (hc : ∀ k, (f k).codeStore = k.codeStore)
    (hb : ∀ k, (f k).bad = k.bad) : HomesKept s (s.modDie d f) := by
  have hdie (e : DieId) : (s.modDie d f).die e = if e = d then f (s.die d) else s.die e := State.die_modDie ..
  refine homesKept_of_dies (fun e => ?_) fun e => ?_
  · change ((s.modDie d f).die e).gallery = _ ∧ ((s.modDie d f).die e).codeStore = _
    rw [hdie]
    split
    case isTrue h => exact h ▸ ⟨hg _, hc _⟩
    case isFalse => exact ⟨rfl, rfl⟩
  · change ((s.modDie d f).die e).bad = _
    rw [hdie]
    split
    case isTrue h => exact h ▸ hb _
    case isFalse => rfl

theorem homesKept_countErrors (s : State) (d : DieId) (cor unc : Nat) : HomesKept s (s.countErrors d cor unc) :=
  homesKept_modDie d (fun _ => rfl) (fun _ => rfl) fun _ => rfl

theorem homesKept_meetCore (s : State) (c : CoreId) (addr n : Nat) : HomesKept s (s.meetCore c addr n) := by
  simp only [State.meetCore]
  split
  · exact .refl s
  · refine .trans ?_ (homesKept_countErrors ..)
    refine ⟨rfl, rfl, fun g => ?_, fun g => ?_, fun _ => ⟨rfl, rfl, rfl⟩, fun _ => ⟨rfl, rfl⟩, fun _ => rfl, fun _ => rfl⟩
    · rw [State.core_setCore]
      split
      case isTrue h => exact h ▸ ⟨rfl, rfl, rfl⟩
      case isFalse => exact ⟨rfl, rfl, rfl⟩
    · rw [State.core_setCore]
      split
      case isTrue h => exact h ▸ rfl
      case isFalse => rfl

theorem homesKept_meetDie (s : State) (d : DieId) (addr n : Nat) : HomesKept s (s.meetDie d addr n) := by
  simp only [State.meetDie]
  split
  · exact .refl s
  · exact .trans (homesKept_modDie d (f := fun k => { k with badOnce := k.badOnce.filter (· ∉ words8 addr n) })
      (fun _ => rfl) (fun _ => rfl) fun _ => rfl) (homesKept_countErrors ..)

theorem homesKept_meetHome (s : State) (h : Home) (addr n : Nat) : HomesKept s (s.meetHome h addr n) := by
  cases h with
  | core c => exact homesKept_meetCore ..
  | die d => exact homesKept_meetDie ..
  | ctrl _ => exact .refl s
  | host _ _ => exact .refl s

theorem homesKept_countPartial (s : State) (d : DieId) (bad once : List Nat) (addr n : Nat) :
    HomesKept s (s.countPartial d bad once addr n) := by
  simp only [State.countPartial]
  split
  · exact .refl s
  · exact homesKept_countErrors ..

theorem homesKept_meetPartial (s : State) (h : Home) (addr n : Nat) : HomesKept s (s.meetPartial h addr n) := by
  cases h with
  | core c => exact homesKept_countPartial ..
  | die d => exact homesKept_countPartial ..
  | ctrl _ => exact .refl s
  | host _ _ => exact .refl s

theorem countRun_bad (k : Die) (h : Home) (addr n : Nat) (before after : Mem) : (k.countRun h addr n before after).bad = k.bad := by
  have hcount (k : Die) (l : Nat) : (k.count h l before after).bad = k.bad := by
    simp only [Die.count]
    split <;> rfl
  rw [Die.countRun]
  induction linesOf addr n generalizing k with
  | nil => rfl
  | cons l ls ih => exact (ih _).trans (hcount k l)

theorem homesKept_countRun (s : State) (d : DieId) (h : Home) (addr n : Nat) (before after : Mem) :
    HomesKept s (s.modDie d (fun k => k.countRun h addr n before after)) :=
  homesKept_modDie d (fun _ => Die.countRun_memories.1) (fun _ => Die.countRun_memories.2) fun _ => countRun_bad ..

theorem homesKept_countWrite (s : State) (own : Agent) (fabric : Bool) (h : Home) (addr n : Nat) (before after : Mem) :
    HomesKept s (s.countWrite own fabric h addr n before after) := by
  unfold State.countWrite
  split
  · exact .refl s
  · cases h with
    | core c =>
      cases fabric with
      | true => exact homesKept_countRun ..
      | false => exact .refl s
    | die d => exact homesKept_countRun ..
    | ctrl _ => exact .refl s
    | host _ _ => exact .refl s

theorem homesKept_dropCopies (s : State) (own : Agent) (h : Home) (addr n : Nat) : HomesKept s (s.dropCopies own h addr n) := by
  simp only [State.dropCopies]
  split
  · refine homesKept_of_dies (fun d => ⟨?_, ?_⟩) fun d => ?_
    · exact tget_map_image (φ := Die.gallery) (by intro e; split <;> rfl) (by intro e; split <;> rfl) ..
    · exact tget_map_image (φ := Die.codeStore) (by intro e; split <;> rfl) (by intro e; split <;> rfl) ..
    · exact tget_map_image (φ := Die.bad) (by intro e; split <;> rfl) (by intro e; split <;> rfl) ..
  · exact .refl s

/-- What a die forwards to its mirror is no request (R433): where it finds no way it is lost. -/
theorem messaged_forward (s : State) (d : DieId) (m : MirrorOp) : Messaged s (s.forward d m) := by
  simp only [State.forward, State.sendFlit, State.sendTrips, State.sendClass]
  split
  case h_1 =>
    split
    · exact messaged_dropAt ..
    · split
      · exact messaged_of_agenda
      · exact messaged_of_agenda
  case h_2 => exact messaged_of_agenda
  case h_3 => exact messaged_of_agenda

theorem homesKept_mirrorStore (s : State) (d : DieId) (addr : Nat) (data : List Byte) : HomesKept s (s.mirrorStore d addr data) := by
  refine .foldl (fun s e => .foldl (fun s b => ?_) ..) ..
  split
  · exact (messaged_forward ..).homesKept
  · exact .refl s

theorem homesKept_noteWrite (s : State) (own : Agent) (h : Home) (addr : Nat) (data : List Byte) :
    HomesKept s (s.noteWrite own h addr data) := by
  have hdrop := homesKept_dropCopies s own h addr data.length
  cases h with
  | die d => exact hdrop.trans (homesKept_mirrorStore ..)
  | core _ => exact hdrop
  | ctrl _ => exact hdrop
  | host _ _ => exact hdrop

end

/-! ## Accesses performed at a home (R283–R285) -/

/-- Where no word keeps a partial write out, every byte is written. -/
theorem writeAround_stored {bad : List Nat} {m : Mem} {addr : Nat} {data : List Byte} (h : (writeAround bad m addr data).2.2 = none) :
    (writeAround bad m addr data).1 = memWrite m addr data := by
  simp only [writeAround, List.head?_eq_none_iff] at h ⊢
  exact if_pos h

/-- Where no word that it writes has an uncorrectable error, nothing keeps a write out. -/
theorem writeAround_none {bad : List Nat} {m : Mem} {addr : Nat} {data : List Byte} (h : firstBad bad addr data.length = none) :
    (writeAround bad m addr data).2.2 = none := by
  simp only [firstBad, List.find?_eq_none, decide_eq_true_eq] at h
  simp only [writeAround, stuckWords, List.head?_eq_none_iff, List.filter_eq_nil_iff, Bool.and_eq_true, decide_eq_true_eq]
  exact fun w hw hbad => h w hw hbad.1

section
variable {s t u : State} {q r : MemReq} {h : Home} {addr : Nat} {data : List Byte}

theorem homeMem_putHome (hram : IsRam h) (s : State) (m : Mem) (bad : List Nat) (addr n : Nat) (full : Bool) (x : Home) :
    (s.putHome h m bad addr n full).homeMem x = if x = h then m else s.homeMem x := by
  obtain ⟨c, rfl⟩ | ⟨d, rfl⟩ := hram
  · cases x with
    | core g =>
      simp only [State.putHome, State.homeMem, State.core_modCore, Home.core.injEq]
      split <;> rfl
    | die _ => rfl
    | ctrl _ => rfl
    | host _ _ => rfl
  · cases x with
    | die g =>
      simp only [State.putHome, State.homeMem, State.die_modDie, Home.die.injEq]
      split <;> rfl
    | core _ => rfl
    | ctrl _ => rfl
    | host _ _ => rfl

theorem putHome_rest (s : State) (h : Home) (m : Mem) (bad : List Nat) (addr n : Nat) (full : Bool) :
    (s.putHome h m bad addr n full).ctxs = s.ctxs ∧ (s.putHome h m bad addr n full).reqs = s.reqs := by
  cases h <;> exact ⟨rfl, rfl⟩

theorem storedAt_of_homeMem (hmem : ∀ x, t.homeMem x = if x = h then memWrite (s.homeMem h) addr data else s.homeMem x) :
    StoredAt s t h addr data := ⟨(hmem h).trans (if_pos rfl), fun x hx => (hmem x).trans (if_neg hx)⟩

/-- A store at a home whose bytes are all written. -/
theorem storeHome_stores (hram : IsRam h) (hsound : (writeAround (s.homeBad h) (s.homeMem h) addr data).2.2 = none) (own : Agent)
    (fabric full : Bool) : (s.storeHome own fabric h addr data full).ctxs = s.ctxs ∧
      (s.storeHome own fabric h addr data full).reqs = s.reqs ∧ StoredAt s (s.storeHome own fabric h addr data full) h addr data := by
  obtain ⟨u, hu⟩ : ∃ u, u = (s.meetPartial h addr data.length).putHome h (writeAround (s.homeBad h) (s.homeMem h) addr data).1
      (writeAround (s.homeBad h) (s.homeMem h) addr data).2.1 addr data.length full := ⟨_, rfl⟩
  have hstore : s.storeHome own fabric h addr data full = (u.countWrite own fabric h addr data.length (s.homeMem h)
      (writeAround (s.homeBad h) (s.homeMem h) addr data).1).noteWrite own h addr data := by
    simp only [State.storeHome, hsound, hu]
  have hmet := homesKept_meetPartial s h addr data.length
  have hafter := (homesKept_countWrite u own fabric h addr data.length (s.homeMem h)
    (writeAround (s.homeBad h) (s.homeMem h) addr data).1).trans (homesKept_noteWrite _ own h addr data)
  have hput := putHome_rest (s.meetPartial h addr data.length) h (writeAround (s.homeBad h) (s.homeMem h) addr data).1
    (writeAround (s.homeBad h) (s.homeMem h) addr data).2.1 addr data.length full
  rw [← hu, hmet.ctxs, hmet.reqs] at hput
  rw [hstore]
  refine ⟨hafter.ctxs.trans hput.1, hafter.reqs.trans hput.2, storedAt_of_homeMem fun x => ?_⟩
  rw [hafter.homeMem, hu, homeMem_putHome hram, writeAround_stored hsound, hmet.homeMem]

theorem readHome_eq (s : State) (q : MemReq) : s.readHome q = (s.meetHome q.place.home q.place.addr q.place.len,
    memRead (s.homeMem q.place.home) q.place.addr q.place.len,
    (firstBad (s.homeBad q.place.home) q.place.addr q.place.len).map (fun w => (0x0B, checkValue q.place.home w))) := by
  simp only [State.readHome]
  cases firstBad (s.homeBad q.place.home) q.place.addr q.place.len <;> rfl

theorem perform_load (hram : IsRam q.place.home) (hop : q.op = .load) : s.perform q =
    (s.meetHome q.place.home q.place.addr q.place.len).setReq { q with
      performed := true, value := memRead (s.homeMem q.place.home) q.place.addr q.place.len,
      failed := (firstBad (s.homeBad q.place.home) q.place.addr q.place.len).map (fun w => (0x0B, checkValue q.place.home w)) } := by
  obtain ⟨c, hc⟩ | ⟨d, hd⟩ := hram
  · simp only [State.perform, hc, hop, readHome_eq]
  · simp only [State.perform, hd, hop, readHome_eq]

theorem perform_store (hram : IsRam q.place.home) (hop : q.op = .store data) : s.perform q =
    (s.storeHome q.own (q.space = 3) q.place.home q.place.addr data true).setReq { q with performed := true } := by
  obtain ⟨c, hc⟩ | ⟨d, hd⟩ := hram
  · simp only [State.perform, hc, hop]
  · simp only [State.perform, hd, hop]

/-- What an atomic that meets no error does. -/
theorem perform_atomic {old : List Byte} {w : Nat × BitVec 6} (hram : IsRam q.place.home) (hload : q.op.isLoad = true) (hop : q.op ≠ .load)
    (hsound : firstBad (s.homeBad q.place.home) q.place.addr q.place.len = none)
    (hold : old = memRead (s.homeMem q.place.home) q.place.addr q.place.len) (hw : w = q.op.apply (8 * q.place.len) (leNat old)) :
    s.perform q = (if q.op.writes (leNat old) then (s.meetHome q.place.home q.place.addr q.place.len).storeHome q.own (q.space = 3)
        q.place.home q.place.addr (leBytes q.place.len w.1) false
      else s.meetHome q.place.home q.place.addr q.place.len).setReq { q with performed := true, value := old, flags := w.2 } := by
  subst hold hw
  have hread := readHome_eq s q
  rw [hsound] at hread
  have hops : (∃ o x, q.op = .amo o x) ∨ ∃ cmp new, q.op = .cas cmp new := by
    cases ho : q.op with
    | load => exact absurd ho hop
    | store data => rw [ho] at hload; exact absurd hload nofun
    | amo o x => exact .inl ⟨o, x, rfl⟩
    | cas cmp new => exact .inr ⟨cmp, new, rfl⟩
  obtain ⟨c, hc⟩ | ⟨d, hd⟩ := hram <;> obtain ⟨o, x, ho⟩ | ⟨cmp, new, ho⟩ := hops
  · simp only [hc, ho] at hread ⊢
    simp only [State.perform, hc, ho, hread, Option.map_none]
  · simp only [hc, ho] at hread ⊢
    simp only [State.perform, hc, ho, hread, Option.map_none]
  · simp only [hd, ho] at hread ⊢
    simp only [State.perform, hd, ho, hread, Option.map_none]
  · simp only [hd, ho] at hread ⊢
    simp only [State.perform, hd, ho, hread, Option.map_none]

end

/-! ## Loads that land (R236, R279) -/

section
variable {s t : State} {q r : MemReq} {id : Nat} {ev : Event} {pri : Nat}

theorem reqNow_same (hq : s.req id = some q) (ht : t.reqs = s.reqs) : t.reqNow q = q :=
  State.reqNow_of_req (by rw [State.req_congr ht, s.req_id hq, hq])

theorem loadLands_performed (h : q.performed = true) : s.loadLands q ev =
    if s.earlierLoad q.own q.id then s.schedule (s.cycle + 1) priMem ev else s.landReq q := by
  rw [State.loadLands, if_pos h]

/-- The request of a load that has been performed. -/
def MemReq.read (q : MemReq) (s : State) : MemReq :=
  { q with
    performed := true, value := memRead (s.homeMem q.place.home) q.place.addr q.place.len,
    failed := (firstBad (s.homeBad q.place.home) q.place.addr q.place.len).map (fun w => (0x0B, checkValue q.place.home w)) }

theorem MemReq.read_performed (q : MemReq) (s : State) : (q.read s).performed = true := rfl

theorem sameBytes_setReq (s : State) (r : MemReq) : SameBytes s (s.setReq r) :=
  sameBytes_of_but fun _ => sameBut_of_tables rfl rfl rfl rfl

section
variable (h : q.performed = false)
include h

/-- A load of a gallery behind an earlier one waits. -/
theorem loadLands_die_behind (hcore : q.place.home.isCore = false) (he : s.earlierLoad q.own q.id = true) :
    s.loadLands q ev = s.schedule (s.cycle + 1) priMem ev := by
  rw [State.loadLands, if_neg (by simp [h]), if_neg (by simp [hcore]), if_pos he]

theorem loadLands_die (hcore : q.place.home.isCore = false) (he : s.earlierLoad q.own q.id = false) :
    s.loadLands q ev = if ((s.tryPerform q priMem ev).reqNow q).performed then
      (s.tryPerform q priMem ev).landReq ((s.tryPerform q priMem ev).reqNow q) else s.tryPerform q priMem ev := by
  rw [State.loadLands, if_neg (by simp [h]), if_neg (by simp [hcore]), if_neg (by simp [he])]

theorem loadLands_core (hcore : q.place.home.isCore = true) :
    s.loadLands q ev = if ((s.tryPerform q priLate ev).reqNow q).performed then
      (s.tryPerform q priLate ev).schedule (s.cycle + 1) priMem ev else s.tryPerform q priLate ev := by
  rw [State.loadLands, if_neg (by simp [h]), if_pos hcore]

/-- A load that nothing keeps from being performed. -/
theorem tryPerform_reads (hram : IsRam q.place.home) (hw : s.mustWait q = false) (ht : s.turnOf q ev = true) (hb : s.before q = [])
    (hop : q.op = .load) : ∃ u, HomesKept s u ∧ s.tryPerform q pri ev = u.setReq (q.read s) := by
  obtain ⟨arbs, huse⟩ := useTurn_rest s q ev
  have hkept : HomesKept s (s.useTurn q ev) := by
    rw [huse]
    exact ⟨rfl, rfl, fun _ => ⟨rfl, rfl, rfl⟩, fun _ => rfl, fun _ => ⟨rfl, rfl, rfl⟩, fun _ => ⟨rfl, rfl⟩, fun _ => rfl, fun _ => rfl⟩
  refine ⟨_, hkept.trans (homesKept_meetHome _ q.place.home q.place.addr q.place.len), ?_⟩
  rw [tryPerform_performs h hw ht hb, perform_load hram hop, hkept.homeMem, hkept.homeBad]
  rfl

end

section
variable (hq : s.req id = some q) (h : q.performed = false)
include hq h

/-- A request that its try leaves is not performed then. -/
theorem reqNow_tried (htry : (s.tryPerform q pri ev).reqs = s.reqs) : ((s.tryPerform q pri ev).reqNow q).performed = false := by
  rw [reqNow_same hq htry, h]

theorem loadLands_die_waits {d : DieId} (hd : q.place.home = .die d) (he : s.earlierLoad q.own q.id = false) (hw : s.mustWait q = true) :
    s.loadLands q ev = (s.askHost q).schedule (s.cycle + 1) priMem ev := by
  have htry := tryPerform_waits (pri := priMem) (ev := ev) h hw
  have hreqs : (s.tryPerform q priMem ev).reqs = s.reqs := by
    rw [htry]
    exact askHost_reqs ..
  rw [loadLands_die h (by rw [hd]; rfl) he, if_neg (by simp [reqNow_tried hq h hreqs]), htry]

theorem loadLands_core_waits {c : CoreId} (hc : q.place.home = .core c) (hw : s.mustWait q = true) :
    s.loadLands q ev = s.schedule (s.cycle + 1) priLate ev := by
  have htry := tryPerform_waits (pri := priLate) (ev := ev) h hw
  have hask : s.askHost q = s := by simp only [State.askHost, hc]
  rw [hask] at htry
  have hreqs : (s.tryPerform q priLate ev).reqs = s.reqs := by
    rw [htry]
    rfl
  rw [loadLands_core h (by rw [hc]; rfl), if_neg (by simp [reqNow_tried hq h hreqs]), htry]

theorem loadLands_core_misses {c : CoreId} (hc : q.place.home = .core c) (hw : s.mustWait q = false)
    (ht : s.bankTurn c q.place.addr q.place.len ev = false) : s.loadLands q ev = s.loseTurn c ev := by
  have hturn : s.turnOf q ev = false := by simpa only [State.turnOf, hc] using ht
  have hmiss : s.missTurn q ev = s.loseTurn c ev := by simp only [State.missTurn, hc]
  have htry := tryPerform_misses (pri := priLate) h hw hturn
  have hreqs : (s.tryPerform q priLate ev).reqs = s.reqs := by
    rw [htry]
    exact missTurn_reqs ..
  rw [loadLands_core h (by rw [hc]; rfl), if_neg (by simp [reqNow_tried hq h hreqs]), htry, hmiss]

/-- A load of a gallery reads it as it lands. -/
theorem loadLands_die_reads {d : DieId} (hd : q.place.home = .die d) (he : s.earlierLoad q.own q.id = false) (hw : s.mustWait q = false)
    (hb : s.before q = []) (hop : q.op = .load) : Lands s (s.loadLands q ev) (q.read s) ∧ SameBytes s (s.loadLands q ev) := by
  have hid := s.req_id hq
  obtain ⟨u, hkept, htry⟩ := tryPerform_reads (pri := priMem) (ev := ev) h (.inr ⟨d, hd⟩) hw (by simp only [State.turnOf, hd]) hb hop
  have hnow : (s.tryPerform q priMem ev).reqNow q = q.read s := by
    apply State.reqNow_of_req
    rw [htry]
    exact State.req_setReq (id := q.id) (by rw [State.req_congr hkept.reqs, hid, hq]) rfl
  have hland : s.loadLands q ev = (u.setReq (q.read s)).landReq (q.read s) := by
    rw [loadLands_die h (by rw [hd]; rfl) he, hnow, if_pos (MemReq.read_performed ..), htry]
  rw [hland]
  refine ⟨lands_landReq hkept.ctxs ?_, hkept.bytes.trans ((sameBytes_setReq ..).trans (sameBytes_landReq ..))⟩
  rw [filter_setReq (r := q.read s) rfl, hkept.reqs]

/-- A load of a scratchpad reads it where the banks serve it, and lands from the next cycle on. -/
theorem loadLands_core_reads {c : CoreId} (hc : q.place.home = .core c) (hw : s.mustWait q = false)
    (ht : s.bankTurn c q.place.addr q.place.len ev = true) (hb : s.before q = []) (hop : q.op = .load) (ht' : t = s.loadLands q ev) :
    t.req id = some (q.read s) ∧ { cycle := s.cycle + 1, pri := priMem, ev := ev } ∈ t.agenda ∧ t.ctxs = s.ctxs ∧ SameBytes s t := by
  have hid := s.req_id hq
  have hturn : s.turnOf q ev = true := by simpa only [State.turnOf, hc] using ht
  obtain ⟨u, hkept, htry⟩ := tryPerform_reads (pri := priLate) (ev := ev) h (.inl ⟨c, hc⟩) hw hturn hb hop
  have hreq : (u.setReq (q.read s)).req id = some (q.read s) := State.req_setReq (by rw [State.req_congr hkept.reqs, hq]) hid
  have hnow : (s.tryPerform q priLate ev).reqNow q = q.read s := by
    apply State.reqNow_of_req
    rw [htry, hid, hreq]
  have hland : s.loadLands q ev = (u.setReq (q.read s)).schedule (s.cycle + 1) priMem ev := by
    rw [loadLands_core h (by rw [hc]; rfl), hnow, if_pos (MemReq.read_performed ..), htry]
  rw [ht', hland]
  exact ⟨hreq, mem_schedule .., hkept.ctxs, hkept.bytes.trans (sameBytes_of_but fun _ => sameBut_of_tables rfl rfl rfl rfl)⟩

end

/-! ## Stores that are performed (R236, R284) -/

theorem storeDone_eq : s.storeDone q ev = if ((s.tryPerform q priLate ev).reqNow q).performed then
    (s.tryPerform q priLate ev).dropReq q.id else s.tryPerform q priLate ev := rfl

theorem storeDone_performed (h : q.performed = true) (hq : s.req id = some q) : s.storeDone q ev = s.dropReq id := by
  have hid := s.req_id hq
  rw [storeDone_eq, tryPerform_done h, reqNow_same hq rfl, if_pos h, hid]

section
variable {data : List Byte} (hq : s.req id = some q) (h : q.performed = false)
include hq h

theorem storeDone_waits (hw : s.mustWait q = true) : s.storeDone q ev = (s.askHost q).schedule (s.cycle + 1) priLate ev := by
  have htry := tryPerform_waits (pri := priLate) (ev := ev) h hw
  have hnow := reqNow_tried (pri := priLate) (ev := ev) hq h (by rw [htry]; exact askHost_reqs ..)
  rw [storeDone_eq, if_neg (by simp [hnow]), htry]

theorem storeDone_misses (hw : s.mustWait q = false) {c : CoreId} (hc : q.place.home = .core c)
    (ht : s.bankTurn c q.place.addr q.place.len ev = false) : s.storeDone q ev = s.loseTurn c ev := by
  have hturn : s.turnOf q ev = false := by simpa only [State.turnOf, hc] using ht
  have hmiss : s.missTurn q ev = s.loseTurn c ev := by simp only [State.missTurn, hc]
  have htry := tryPerform_misses (pri := priLate) h hw hturn
  have hnow := reqNow_tried (pri := priLate) (ev := ev) hq h (by rw [htry]; exact missTurn_reqs ..)
  rw [storeDone_eq, if_neg (by simp [hnow]), htry, hmiss]

theorem storeDone_stores (hop : q.op = .store data) (hram : IsRam q.place.home) (hw : s.mustWait q = false) (ht : s.turnOf q ev = true)
    (hb : s.before q = []) (hsound : (writeAround (s.homeBad q.place.home) (s.homeMem q.place.home) q.place.addr data).2.2 = none)
    (ht' : t = s.storeDone q ev) :
    t.reqs = s.reqs.filter (fun r => r.id ≠ id) ∧ t.ctxs = s.ctxs ∧ StoredAt s t q.place.home q.place.addr data := by
  have hid := s.req_id hq
  obtain ⟨arbs, huse⟩ := useTurn_rest s q ev
  have htry := tryPerform_performs (pri := priLate) h hw ht hb
  rw [huse, perform_store hram hop] at htry
  obtain ⟨hctxs, hreqs, hstored⟩ := storeHome_stores (s := { s with arbs := arbs }) hram hsound q.own (q.space = 3) true
  obtain ⟨u, hu⟩ : ∃ u, u = ({ s with arbs := arbs } : State).storeHome q.own (q.space = 3) q.place.home q.place.addr data true := ⟨_, rfl⟩
  rw [← hu] at htry hctxs hreqs hstored
  have hnow : (s.tryPerform q priLate ev).reqNow q = { q with performed := true } := by
    apply State.reqNow_of_req
    rw [htry]
    exact State.req_setReq (id := q.id) (by rw [State.req_congr hreqs, hid]; exact hq) rfl
  have hdone : s.storeDone q ev = (u.setReq { q with performed := true }).dropReq id := by
    rw [storeDone_eq, hnow, if_pos rfl, htry, hid]
  rw [ht', hdone]
  refine ⟨?_, hctxs, hstored⟩
  have hfilter := filter_setReq (s := u) (r := { q with performed := true }) hid
  rw [hreqs] at hfilter
  exact hfilter

end

end

/-! ## Multicast landings (R241, R242, R268) -/

section
variable {s t : State} {l : Landing} {c : CoreId}

/-- What a landing in one target leaves, and the banks of the target where nothing keeps it out. -/
structure LandsIn (s t : State) (c : CoreId) (l : Landing) : Prop where
  ctxs : t.ctxs = s.ctxs
  reqs : t.reqs = s.reqs
  clus : t.clus = s.clus
  dies : ∀ d, ∃ n, t.die d = { s.die d with ecccnt := n }
  others : ∀ g, g ≠ c → t.core g = s.core g
  own : (s.core c).bad = [] → (t.core c).mem = memWrite (s.core c).mem l.addr l.data ∧
    (t.core c).emptyBits = setFull (s.core c).emptyBits l.addr l.data.length

theorem landAt_error {w : Nat} (h : firstBad (s.core c).bad l.addr l.data.length = some w) : s.landAt c l =
    ((s.serveLanding c l.addr l.data.length).countErrors c.die 0 (wordsIn (s.core c).bad l.addr l.data.length)).dieEvent c.die 0x11 1 none
      l.window (c.core * 2 ^ 21 + w) := by
  have hcore : (s.serveLanding c l.addr l.data.length).core c = s.core c := rfl
  simp only [State.landAt, hcore, h]

theorem landAt_sound (h : firstBad (s.core c).bad l.addr l.data.length = none) : s.landAt c l =
    (s.serveLanding c l.addr l.data.length).setCore c { s.core c with
      mem := memWrite (s.core c).mem l.addr l.data, badOnce := mendOnce (s.core c).badOnce l.addr l.data.length,
      emptyBits := setFull (s.core c).emptyBits l.addr l.data.length } := by
  have hcore : (s.serveLanding c l.addr l.data.length).core c = s.core c := rfl
  simp only [State.landAt, hcore, h]

theorem landsIn_landAt (s : State) (c : CoreId) (l : Landing) : LandsIn s (s.landAt c l) c l := by
  cases h : firstBad (s.core c).bad l.addr l.data.length with
  | none =>
    rw [landAt_sound h]
    refine ⟨rfl, rfl, rfl, fun _ => ⟨_, rfl⟩, fun g hg => ?_, fun _ => ?_⟩
    · rw [State.core_setCore, if_neg hg]
      rfl
    · rw [State.core_setCore_same]
      exact ⟨rfl, rfl⟩
  | some w =>
    rw [landAt_error h]
    refine ⟨rfl, rfl, rfl, (corrects_countErrors ..).die, fun _ _ => rfl, fun hbad => ?_⟩
    rw [hbad, firstBad, List.find?_eq_none.2 (by simp)] at h
    exact absurd h nofun

/-- The event of a landing that was kept out (R268, R343). -/
theorem landAt_reports {w : Nat} {v : SupId} (h : firstBad (s.core c).bad l.addr l.data.length = some w) (hv : v = { die := c.die, k := 0 })
    (hroom : (s.sup v).events.length < 64) :
    ((s.landAt c l).sup v).events = (s.sup v).events ++ [eventRec 0x11 1 none l.window (c.core * 2 ^ 21 + w)] := by
  subst hv
  obtain ⟨u, hu⟩ : ∃ u, u = (s.serveLanding c l.addr l.data.length).countErrors c.die 0
      (wordsIn (s.core c).bad l.addr l.data.length) := ⟨_, rfl⟩
  have hsup : u.sup { die := c.die, k := 0 } = s.sup { die := c.die, k := 0 } := by rw [hu]; rfl
  have hevent : (s.landAt c l).sup { die := c.die, k := 0 } =
      (u.queueEvent { die := c.die, k := 0 } (eventRec 0x11 1 none l.window (c.core * 2 ^ 21 + w))).sup { die := c.die, k := 0 } := by
    rw [landAt_error h, ← hu]
    rfl
  rw [hevent, State.queueEvent, State.sup_modSup_same, hsup, if_pos hroom]

/-- Where every earlier access to cluster space has been performed, none is performed before a landing. -/
theorem performFirst_nothing (h : ∀ q ∈ s.reqs, q.id < l.id → q.space = 1 → q.performed = true) (c : CoreId) : s.performFirst c l = s := by
  have hnone : s.reqs.filter (fun q => q.id < l.id && !q.performed && q.space = 1 && q.place.home = .core c && match q.own with
      | .stage j => j.core = l.sender.core
      | .sup _ => false) = [] := by
    rw [List.filter_eq_nil_iff]
    intro q hq htest
    simp only [Bool.and_eq_true, decide_eq_true_eq, Bool.not_eq_true'] at htest
    obtain ⟨⟨⟨⟨hid, hp⟩, hspace⟩, _⟩, _⟩ := htest
    exact absurd (h q hq hid hspace) (by simp [hp])
  exact congrArg (fun l => l.foldl (fun s q => s.perform q) s) hnone

/-- The core of a cluster. -/
def coreIn (c : CluId) (n : Nat) : CoreId := { die := c.die, clu := c.clu, core := n }

theorem coreIn_injective (c : CluId) : Function.Injective (coreIn c) := fun _ _ h => (CoreId.mk.inj h).2.2

/-- The landing in each of a list of targets. -/
def State.landsAll (s : State) (c : CluId) (l : Landing) (ns : List Nat) : State :=
  ns.foldl (fun s n => (s.performFirst (coreIn c n) l).landAt (coreIn c n) l) s

theorem landsAll_leaves {c : CluId} {ns : List Nat} (hnodup : ns.Nodup)
    (h : ∀ q ∈ s.reqs, q.id < l.id → q.space = 1 → q.performed = true) (ht : t = s.landsAll c l ns) :
    t.ctxs = s.ctxs ∧ t.clus = s.clus ∧ (∀ d, ∃ n, t.die d = { s.die d with ecccnt := n }) ∧
      (∀ n ∈ ns, (s.core (coreIn c n)).bad = [] → (t.core (coreIn c n)).mem = memWrite (s.core (coreIn c n)).mem l.addr l.data ∧
        (t.core (coreIn c n)).emptyBits = setFull (s.core (coreIn c n)).emptyBits l.addr l.data.length) ∧
      ∀ g, (∀ n ∈ ns, g ≠ coreIn c n) → t.core g = s.core g := by
  induction ns generalizing s with
  | nil => exact ht ▸ ⟨rfl, rfl, fun _ => ⟨_, rfl⟩, nofun, fun _ _ => rfl⟩
  | cons m ns ih =>
    obtain ⟨hm, hns⟩ := List.nodup_cons.1 hnodup
    obtain ⟨u, hu⟩ : ∃ u, u = s.landAt (coreIn c m) l := ⟨_, rfl⟩
    have hstep : LandsIn s u (coreIn c m) l := hu ▸ landsIn_landAt ..
    have hrest : t = u.landsAll c l ns := by
      rw [ht, State.landsAll, List.foldl_cons, performFirst_nothing h, ← hu]
      rfl
    obtain ⟨hctxs, hclus, hdies, htargets, hothers⟩ := ih hns (fun q hq => h q (hstep.reqs ▸ hq)) hrest
    have hapart (n : Nat) (hn : n ∈ ns) : coreIn c n ≠ coreIn c m := fun heq => hm (coreIn_injective c heq ▸ hn)
    refine ⟨hctxs.trans hstep.ctxs, hclus.trans hstep.clus, fun d => ?_, fun n hn hbad => ?_, fun g hg => ?_⟩
    · obtain ⟨n, hn⟩ := hdies d
      obtain ⟨k, hk⟩ := hstep.dies d
      exact ⟨n, by rw [hn, hk]⟩
    · rcases List.mem_cons.1 hn with rfl | hn
      · rw [hothers _ fun k hk => (hapart k hk).symm]
        exact hstep.own hbad
      · have hsame := hstep.others _ (hapart n hn)
        rw [← hsame] at hbad ⊢
        exact htargets n hn hbad
    · rw [hothers g fun n hn => hg n (List.mem_cons_of_mem _ hn), hstep.others g (hg m List.mem_cons_self)]

theorem multicastLanding_lands {c : CluId} {id : Nat}
    (hl : s.clus.findSome? (fun e => (e.2.landings.find? (fun l => l.id = id)).map (fun l => (e.1, l))) = some (c, l)) :
    exec (.multicastLanding id) s = .next ((s.modClu c (fun k => { k with
      landings := k.landings.filter (fun x => x.id ≠ id) })).landsAll c l l.targets) := by
  rw [exec_multicastLanding, execMulticastLanding, hl]
  rfl

theorem landing_id {c : CluId} {id : Nat}
    (hl : s.clus.findSome? (fun e => (e.2.landings.find? (fun l => l.id = id)).map (fun l => (e.1, l))) = some (c, l)) : l.id = id := by
  obtain ⟨e, _, he⟩ := List.exists_of_findSome?_eq_some hl
  obtain ⟨l', hl', heq⟩ := Option.map_eq_some_iff.1 he
  obtain ⟨_, rfl⟩ := Prod.mk.inj heq
  simpa using List.find?_some hl'

end

/-! ## Atomics at a home (R280, R282, R283) -/

section
variable {s t : State} {q : MemReq} {id : Nat}

/-- The request of an atomic that has been performed. -/
def MemReq.done (q : MemReq) (old : List Byte) (flags : BitVec 6) : MemReq := { q with performed := true, value := old, flags := flags }

/-- An atomic that nothing keeps from being performed. -/
theorem tryPerform_atomic {old : List Byte} {w : Nat × BitVec 6} {ev : Event} {pri : Nat} (hq : s.req id = some q)
    (hp : q.performed = false) (hw : s.mustWait q = false) (hb : s.before q = []) (hram : IsRam q.place.home) (ht : s.turnOf q ev = true)
    (hload : q.op.isLoad = true) (hop : q.op ≠ .load) (hsound : firstBad (s.homeBad q.place.home) q.place.addr q.place.len = none)
    (hold : old = memRead (s.homeMem q.place.home) q.place.addr q.place.len) (hres : w = q.op.apply (8 * q.place.len) (leNat old)) :
    (s.tryPerform q pri ev).ctxs = s.ctxs ∧ (s.tryPerform q pri ev).req id = some (q.done old w.2) ∧
      (q.op.writes (leNat old) = true →
        StoredAt s (s.tryPerform q pri ev) q.place.home q.place.addr (leBytes q.place.len w.1)) ∧
      (q.op.writes (leNat old) = false → ∀ h, (s.tryPerform q pri ev).homeMem h = s.homeMem h) := by
  obtain ⟨arbs, huse⟩ := useTurn_rest s q ev
  have htry := tryPerform_performs (pri := pri) hp hw ht hb
  rw [huse, perform_atomic (s := { s with arbs := arbs }) hram hload hop hsound hold hres] at htry
  obtain ⟨u, hu⟩ : ∃ u, u = ({ s with arbs := arbs } : State).meetHome q.place.home q.place.addr q.place.len := ⟨_, rfl⟩
  have hmet : HomesKept { s with arbs := arbs } u := hu ▸ homesKept_meetHome ..
  have hreq {v : State} (hv : v.reqs = s.reqs) : (v.setReq (q.done old w.2)).req id = some (q.done old w.2) :=
    State.req_setReq (q := q) ((State.req_congr hv id).trans hq) (State.req_id (q := q) hq)
  rw [← hu] at htry
  rw [htry]
  cases hwrites : q.op.writes (leNat old) with
  | false =>
    exact ⟨hmet.ctxs, hreq hmet.reqs, nofun, fun _ => hmet.homeMem⟩
  | true =>
    have hbad : u.homeBad q.place.home = s.homeBad q.place.home := hmet.homeBad _
    have hmem (x : Home) : u.homeMem x = s.homeMem x := hmet.homeMem x
    have hstored : (writeAround (u.homeBad q.place.home) (u.homeMem q.place.home) q.place.addr (leBytes q.place.len w.1)).2.2 = none :=
      writeAround_none (by rw [hbad, length_leBytes, hsound])
    obtain ⟨hctxs, hreqs, hhome, hothers⟩ := storeHome_stores hram hstored q.own (q.space = 3) false
    refine ⟨hctxs.trans hmet.ctxs, hreq (hreqs.trans hmet.reqs), fun _ => ⟨?_, fun x hx => ?_⟩, nofun⟩
    · exact hhome.trans (by rw [hmem])
    · exact (hothers x hx).trans (hmem x)

theorem homePortAtomic_answers {r : MemReq} (hq : s.req id = some q) (hrejects : s.rejects q = false) (hlost : s.answerLost q = false)
    (hr : (s.tryPerform q priLate (.homePortAtomic id)).req id = some r) (hp : r.performed = true) :
    exec (.homePortAtomic id) s = .next ((s.tryPerform q priLate (.homePortAtomic id)).schedule
      (s.cycle + if q.space = 3 then 16 + s.hopsTo q else 10) priMem (.atomicOldValueLand id)) := by
  have hnow : (s.tryPerform q priLate (.homePortAtomic id)).reqNow q = r := State.reqNow_of_req (by rw [s.req_id hq, hr])
  rw [exec_homePortAtomic, execHomePortAtomic, hq]
  simp only [hrejects, hlost, hnow, hp, Bool.false_eq_true, if_false, Bool.and_false, if_true]

theorem atomicOldValueLand_eq (hq : s.req id = some q) : exec (.atomicOldValueLand id) s =
    if s.earlierLoad q.own id || !q.performed then .next (s.schedule (s.cycle + 1) priMem (.atomicOldValueLand id))
    else .next (s.landReq q) := by
  rw [exec_atomicOldValueLand, execAtomicOldValueLand, hq]

end

/-! ## The reads of `WAITA` (R297) -/

section
variable {s : State} {a : Agent} {x : BitVec 5} {w : SyncWait} {u : State} {addr : Nat}

theorem cur_meetDie (s : State) (d : DieId) (addr n : Nat) : (s.meetDie d addr n).cur = s.cur := by
  simp only [State.meetDie]
  split <;> rfl

/-- What one read of a `WAITA` in the gallery leaves. -/
theorem waitaRead_gallery (hcur : u.cur = a) (hsync : (u.ctx a).sync = some w)
    (hsound : firstBad (u.die (dieOf a)).bad addr 4 = none) : ∃ n v, u.cycle < n ∧ v.cur = u.cur ∧ HomesKept u v ∧
      u.waitaRead false (addr : Int) = (v.modMe (fun c => { c with sync := some { w with
        value := some (toWord (memNat (u.die (dieOf a)).gallery addr 4)), fail := none, notified := some n } })).schedule n priArrive
          (.waitaReread a) := by
  have hplace : u.waitaPlace false (addr : Int) = { home := .die (dieOf a), addr := addr, len := 4 } := by
    simp [State.waitaPlace, hcur]
  obtain ⟨q, hq, hqp⟩ : ∃ q, q = u.waitaReq false (addr : Int) (u.waitaPlace false (addr : Int)) ∧
      q.place = { home := .die (dieOf a), addr := addr, len := 4 } := ⟨_, rfl, hplace⟩
  have hrejects : u.rejects q = false := by simp [hq, State.rejects, State.waitaReq]
  have hread : u.readHome q = (u.meetDie (dieOf a) addr 4, memRead (u.die (dieOf a)).gallery addr 4, none) := by
    rw [readHome_eq, hqp]
    exact congrArg (fun o => (u.meetDie (dieOf a) addr 4, memRead (u.die (dieOf a)).gallery addr 4, Option.map _ o)) hsound
  have hkept := homesKept_meetDie u (dieOf a) addr 4
  refine ⟨u.cycle + if u.waitaPolls false (addr : Int) then 512 + u.waitaTime false (addr : Int) else 28, u.meetDie (dieOf a) addr 4,
    by split <;> omega, cur_meetDie .., hkept, ?_⟩
  simp only [State.waitaRead, ← hq, hrejects, hread, Bool.false_and, Bool.false_eq_true, if_false, hcur]
  have hsync' : ((u.meetDie (dieOf a) addr 4).ctx (u.meetDie (dieOf a) addr 4).cur).sync = some w := by
    rw [cur_meetDie, hcur, hkept.ctx, hsync]
  rw [State.modMe, State.modCtx, hsync']
  rfl

/-- A read that is kept back completes a cycle later. -/
theorem waitaReread_kept (hw : (s.ctx a).waita = some (false, x)) (hsync : (s.ctx a).sync = some w) (hnow : w.notified = some s.cycle)
    (hu : u = { s with cur := a }) (haddr : addr = ((s.ctx a).rx (x.zeroExtend 6)).toNat) (hfree : u.waitaSnooped false (addr : Int) = [])
    (hkept : u.waitaKept false (addr : Int) = true) : exec (.waitaReread a) s = .next { (u.modMe (fun c => { c with
      sync := some { w with notified := some (s.cycle + 1) } })).schedule (s.cycle + 1) priArrive (.waitaReread a) with cur := s.cur } := by
  subst haddr hu
  replace hfree : State.waitaSnooped { s with cur := a } false (State.waitaAddr { s with cur := a } x) = [] := hfree
  replace hkept : State.waitaKept { s with cur := a } false (State.waitaAddr { s with cur := a } x) = true := hkept
  rw [exec_waitaReread, execWaitaReread, hw, hsync]
  simp only [hnow, hfree, hkept, ne_eq, not_true_eq_false, if_false, if_true]

theorem waitaReread_reads (hw : (s.ctx a).waita = some (false, x)) (hsync : (s.ctx a).sync = some w) (hnow : w.notified = some s.cycle)
    (hu : u = { s with cur := a }) (haddr : addr = ((s.ctx a).rx (x.zeroExtend 6)).toNat) (hfree : u.waitaSnooped false (addr : Int) = [])
    (hkept : u.waitaKept false (addr : Int) = false) :
    exec (.waitaReread a) s = .next { u.waitaRead false (addr : Int) with cur := s.cur } := by
  subst haddr hu
  replace hfree : State.waitaSnooped { s with cur := a } false (State.waitaAddr { s with cur := a } x) = [] := hfree
  replace hkept : State.waitaKept { s with cur := a } false (State.waitaAddr { s with cur := a } x) = false := hkept
  rw [exec_waitaReread, execWaitaReread, hw, hsync]
  simp only [hnow, hfree, hkept, ne_eq, not_true_eq_false, if_false, Bool.false_eq_true]
  rfl

end

/-! ## The events of memory accesses -/

section
variable {s t : State} {q : MemReq} {id : Nat} {ev : Event}

theorem clusterLoadLand_lands (hq : s.req id = some q) : exec (.clusterLoadLand id) s = .next (s.loadLands q (.clusterLoadLand id)) := by
  rw [exec_clusterLoadLand, execClusterLoadLand, hq]

theorem galleryLoadLand_lands (hq : s.req id = some q) : exec (.galleryLoadLand id) s = .next (s.loadLands q (.galleryLoadLand id)) := by
  rw [exec_galleryLoadLand, execGalleryLoadLand, hq]

theorem clusterStorePerformed_stores (hq : s.req id = some q) :
    exec (.clusterStorePerformed id) s = .next (s.storeDone q (.clusterStorePerformed id)) := by
  rw [exec_clusterStorePerformed, execClusterStorePerformed, hq]

theorem galleryStorePerformed_eq (hq : s.req id = some q) : exec (.galleryStorePerformed id) s =
    if s.ftinvWaits q then .next (s.schedule (s.cycle + 1) priLate (.galleryStorePerformed id))
    else .next (s.storeDone q (.galleryStorePerformed id)) := by
  rw [exec_galleryStorePerformed, execGalleryStorePerformed, hq]

/-- No store to a memory is one to `FTINV`. -/
theorem ftinvWaits_ram (hram : IsRam q.place.home) : s.ftinvWaits q = false := by
  obtain ⟨c, h⟩ | ⟨d, h⟩ := hram <;> simp only [State.ftinvWaits, h]

theorem loadLands_landed (hq : s.req id = some q) (h : q.performed = true) (he : s.earlierLoad q.own id = false) :
    s.loadLands q ev = s.landReq q := by
  rw [loadLands_performed h, s.req_id hq, if_neg (by simp [he])]

theorem loadLands_behind (hq : s.req id = some q) (h : q.performed = true) (he : s.earlierLoad q.own id = true) :
    s.loadLands q ev = s.schedule (s.cycle + 1) priMem ev := by
  rw [loadLands_performed h, s.req_id hq, if_pos he]

theorem loads_land {row : Instr} (hq : s.req id = some q)
    (hrow : (ev = .clusterLoadLand id ∧ row = .clusterLoadLand id) ∨ (ev = .galleryLoadLand id ∧ row = .galleryLoadLand id)) :
    exec row s = .next (s.loadLands q ev) := by
  obtain ⟨rfl, rfl⟩ | ⟨rfl, rfl⟩ := hrow
  · exact clusterLoadLand_lands hq
  · exact galleryLoadLand_lands hq

theorem stores_perform {row : Instr} (hq : s.req id = some q) (hram : IsRam q.place.home)
    (hrow : (ev = .clusterStorePerformed id ∧ row = .clusterStorePerformed id) ∨
      (ev = .galleryStorePerformed id ∧ row = .galleryStorePerformed id)) : exec row s = .next (s.storeDone q ev) := by
  obtain ⟨rfl, rfl⟩ | ⟨rfl, rfl⟩ := hrow
  · exact clusterStorePerformed_stores hq
  · rw [galleryStorePerformed_eq hq, ftinvWaits_ram hram, if_neg nofun]

/-- What the read of a gallery makes of a load. -/
theorem read_die {d : DieId} (hd : q.place.home = .die d) : q.read s = { q with
    performed := true, value := memRead (s.die d).gallery q.place.addr q.place.len,
    failed := (firstBad (s.die d).bad q.place.addr q.place.len).map (fun w => (0x0B, checkValue q.place.home w)) } := by
  simp only [MemReq.read, hd]
  rfl

end

/-- A state apart from the agent in issue. -/
theorem sameBytes_cur (s : State) (a : Agent) : SameBytes s { s with cur := a } :=
  sameBytes_of_but fun _ => sameBut_of_tables rfl rfl rfl rfl

/-- The context of a `WAITA` whose next read has been scheduled, and the memories. -/
theorem waita_synced {u : State} {a c : Agent} {w : SyncWait} {n : Nat} {t : State} (hcur : u.cur = a)
    (ht : t = { (u.modMe (fun c => { c with sync := some w })).schedule n priArrive (.waitaReread a) with cur := c }) :
    t.ctx a = { u.ctx a with sync := some w } ∧ SameBytes u t := by
  subst ht hcur
  exact ⟨State.ctx_modCtx_same u u.cur (fun c => { c with sync := some w }), sameBytes_of_but fun _ => sameBut_of_tables rfl rfl rfl rfl⟩

theorem multicast_events {s : State} {id : Nat} {c : CluId} {l : Landing}
    (hl : s.clus.findSome? (fun e => (e.2.landings.find? (fun l => l.id = id)).map (fun l => (e.1, l))) = some (c, l))
    (hnodup : l.targets.Nodup) (hreqs : ∀ q ∈ s.reqs, q.id < id → q.space = 1 → q.performed = true) :
    ∃ t, exec (.multicastLanding id) s = .next t ∧
        (t.clu c).landings = (s.clu c).landings.filter (fun x => x.id ≠ id) ∧ t.ctxs = s.ctxs ∧
        (∀ d, ∃ n, t.die d = { s.die d with ecccnt := n }) ∧
        (∀ n ∈ l.targets, ∀ g : CoreId, g = { die := c.die, clu := c.clu, core := n } → (s.core g).bad = [] →
          (t.core g).mem = memWrite (s.core g).mem l.addr l.data ∧
          (t.core g).emptyBits = setFull (s.core g).emptyBits l.addr l.data.length) ∧
        (∀ n w, l.targets = [n] → ∀ g : CoreId, g = { die := c.die, clu := c.clu, core := n } →
          firstBad (s.core g).bad l.addr l.data.length = some w → ∀ v : SupId, v = { die := c.die, k := 0 } →
          t.core g = s.core g ∧ ((s.sup v).events.length < 64 →
          (t.sup v).events = (s.sup v).events ++ [eventRec 0x11 1 none l.window (n * 2 ^ 21 + w)])) ∧
        (∀ g : CoreId, (cluOf g ≠ c ∨ g.core ∉ l.targets) → t.core g = s.core g) := by
  obtain ⟨u, hu⟩ : ∃ u, u = s.modClu c (fun k => { k with landings := k.landings.filter (fun x => x.id ≠ id) }) := ⟨_, rfl⟩
  have hid := landing_id hl
  have hureqs : ∀ q ∈ u.reqs, q.id < l.id → q.space = 1 → q.performed = true := by
    rw [hu, hid]
    exact hreqs
  have hlanded : (u.clu c).landings = (s.clu c).landings.filter (fun x => x.id ≠ id) := by rw [hu, State.clu_modClu_same]
  have hsame : u.ctxs = s.ctxs ∧ (∀ g, u.core g = s.core g) ∧ (∀ d, u.die d = s.die d) ∧ ∀ v, u.sup v = s.sup v := by
    rw [hu]
    exact ⟨rfl, fun _ => rfl, fun _ => rfl, fun _ => rfl⟩
  obtain ⟨huctxs, hucore, hudie, husup⟩ := hsame
  obtain ⟨hctxs, hclus, hdies, htargets, hothers⟩ := landsAll_leaves (c := c) hnodup hureqs rfl
  refine ⟨u.landsAll c l l.targets, hu ▸ multicastLanding_lands hl, ?_, hctxs.trans huctxs, fun d => hudie d ▸ hdies d, ?_, ?_,
    fun g hg => ?_⟩
  · rw [State.clu, hclus]
    exact hlanded
  · rintro n hn _ rfl hbad
    rw [← hucore] at hbad ⊢
    exact htargets n hn hbad
  · rintro n w hone _ rfl hbad v hv
    have hfirst : u.landsAll c l l.targets = u.landAt (coreIn c n) l := by
      rw [hone, State.landsAll, List.foldl_cons, performFirst_nothing hureqs]
      rfl
    have hbad' : firstBad (u.core (coreIn c n)).bad l.addr l.data.length = some w := by rw [hucore]; exact hbad
    rw [hfirst, ← hucore, ← husup]
    refine ⟨?_, fun hroom => landAt_reports hbad' hv hroom⟩
    rw [landAt_error hbad']
    rfl
  · rw [hothers g fun n hn heq => ?_, hucore]
    subst heq
    exact hg.elim (fun h => h rfl) fun h => h hn

/-- Settles O52: what each event of an access does, by what lands, is performed at a home, or is kept back. -/
theorem memoryEvents : Obligations.MemoryEvents := by
  intro s id
  refine ⟨?_, ?_, ?_, ?_, ?_, ?_, ?_⟩
  · intro q ev row hq hrow
    have hexec := loads_land hq hrow
    have hid := s.req_id hq
    refine ⟨fun h => ⟨fun he => ?_, fun he => ?_⟩, fun d hd h => ⟨fun he => ?_, fun he => ⟨fun hw => ?_, fun hw hb hop hf => ?_⟩⟩,
      fun c hc h => ⟨fun hw => ?_, fun hw ht => ?_, fun hw ht hb hop => ?_⟩⟩
    · rw [hexec, loadLands_behind hq h he]
    · exact ⟨_, hexec.trans (congrArg _ (loadLands_landed hq h he)), lands_landReq rfl rfl, landReq_only ..⟩
    · rw [hexec, loadLands_die_behind h (by rw [hd]; rfl) (by rw [hid, he])]
    · rw [hexec, loadLands_die_waits hq h hd (by rw [hid, he]) hw]
    · obtain ⟨hlands, hbytes⟩ := loadLands_die_reads (ev := ev) hq h hd (by rw [hid, he]) hw hb hop
      rw [read_die hd] at hlands
      refine ⟨fun hsound => ⟨_, hexec, ?_, hbytes⟩, fun w hbad => ⟨_, hexec, ?_, hbytes⟩⟩
      · rw [hsound] at hlands
        exact hf ▸ hlands
      · rw [hbad] at hlands
        obtain ⟨hreqs, _, hfails, hothers⟩ := hlands
        exact ⟨hreqs, nofun, hfails, hothers⟩
    · rw [hexec, loadLands_core_waits hq h hc hw]
    · rw [hexec, loadLands_core_misses hq h hc hw ht]
    · obtain ⟨hreq, hagenda, hctxs, hbytes⟩ := loadLands_core_reads hq h hc hw ht hb hop rfl
      refine ⟨_, _, hexec, hreq, rfl, rfl, rfl, ?_, ?_, hagenda, hctxs, hbytes⟩
      · simp only [MemReq.read, hc]
        rfl
      · simp only [MemReq.read, hc]
        rfl
  · intro q ev row data hq hop hrow hram
    have hexec := stores_perform hq hram hrow
    refine ⟨fun h => ?_, fun h hw => ?_, fun c h hw hc ht => ?_, fun h hw ht hb hsound => ?_⟩
    · rw [hexec, storeDone_performed h hq]
      rfl
    · rw [hexec, storeDone_waits hq h hw]
    · rw [hexec, storeDone_misses hq h hw hc ht]
    · exact ⟨_, hexec, storeDone_stores hq h hop hram hw ht hb hsound rfl⟩
  · intro q hq hw
    rw [galleryStorePerformed_eq hq, if_pos hw]
  · exact fun c l hl hnodup hreqs => multicast_events hl hnodup hreqs
  · intro q old w hq hrejects hlost h hw hb hram ht hload hop hf hsound hold hres
    obtain ⟨hctxs, hreq, hstored, hsame⟩ := tryPerform_atomic (pri := priLate) hq h hw hb hram ht hload hop hsound hold hres
    refine ⟨_, homePortAtomic_answers hq hrejects hlost hreq rfl, hctxs, hstored, hsame, hreq, fun hs => ?_, fun hs => ?_⟩
    · rw [if_neg hs]
      exact mem_schedule ..
    · rw [if_pos hs]
      exact mem_schedule ..
  · intro q hq
    refine ⟨fun h => ?_, fun he h => ⟨_, ?_, lands_landReq rfl rfl⟩⟩
    · rw [atomicOldValueLand_eq hq, if_pos (by simpa using h)]
    · rw [atomicOldValueLand_eq hq, if_neg (by simp [he, h])]
  · intro a x w hwaita hsync hnow u d addr hu hd haddr hfree
    refine ⟨fun hkept => ⟨_, waitaReread_kept hwaita hsync hnow hu haddr hfree hkept, ?_⟩, fun hkept hsound => ?_⟩
    · obtain ⟨hctx, hbytes⟩ := waita_synced (n := s.cycle + 1) (u := u) (a := a) (c := s.cur)
        (w := { w with notified := some (s.cycle + 1) })
        (by rw [hu]) rfl
      have hsame : u.ctx a = s.ctx a := by rw [hu]; rfl
      rw [hsame] at hctx
      exact ⟨by rw [hctx]; rfl, by rw [hctx], mem_schedule .., .trans (hu ▸ sameBytes_cur s a) hbytes⟩
    · obtain ⟨n, v, hlater, hvcur, hkeeps, hread⟩ := waitaRead_gallery (u := u) (a := a) (w := w) (by rw [hu]) (by rw [hu]; exact hsync)
        (by rw [hu, ← hd]; exact hsound)
      have hcur : v.cur = a := hvcur.trans (by rw [hu])
      obtain ⟨hctx, hbytes⟩ := waita_synced (n := n) (c := s.cur) hcur rfl
      have hsame : v.ctx a = s.ctx a := (hkeeps.ctx a).trans (by rw [hu]; rfl)
      rw [hsame] at hctx
      have hexec := waitaReread_reads hwaita hsync hnow hu haddr hfree hkept
      rw [hread] at hexec
      have hdie : u.die (dieOf a) = s.die d := by rw [hu, hd]; rfl
      refine ⟨_, n, hexec, by rw [hctx]; rfl, by rw [hctx, hdie], mem_schedule .., ?_, ?_⟩
      · exact lt_of_eq_of_lt (by rw [hu]) hlater
      · exact .trans (hu ▸ sameBytes_cur s a) (hkeeps.bytes.trans hbytes)

end Sys2Proof.Machine
end

section
/-! PROOF. The landings of fabric accesses, walks, tokens, and stores to host memory (O53). -/

namespace Sys2Proof.Machine

/-! ## Messages that carry no request (R413) -/

/-- A package with other counts and records of drops. -/
def Pkg.logged (p : Pkg) (rejects : Nat) (stamp : Tbl Nat Nat) (events : List (Nat × Word)) : Pkg :=
  { p with rejects := rejects, dropStamp := stamp, events := events }

/-- Two states in which ways and keys are found alike. -/
structure SameWays (s t : State) : Prop where
  cycle : t.cycle = s.cycle
  pkg : ∀ p, ∃ rejects stamp events, t.pkg p = (s.pkg p).logged rejects stamp events

/-- What the sending of a message that carries no request leaves: it adds to the agenda, and where it is dropped, to the counts and
records of drops. -/
structure SendsOnly (s t : State) : Prop extends SameWays s t where
  dies : t.dies = s.dies
  agenda : ∀ e ∈ s.agenda, e ∈ t.agenda

section
variable {s t u : State}

theorem SendsOnly.refl (s : State) : SendsOnly s s := ⟨⟨rfl, fun _ => ⟨_, _, _, rfl⟩⟩, rfl, fun _ he => he⟩

theorem SendsOnly.trans (h : SendsOnly s t) (g : SendsOnly t u) : SendsOnly s u where
  cycle := g.cycle.trans h.cycle
  dies := g.dies.trans h.dies
  pkg p := by
    obtain ⟨_, _, _, hp⟩ := h.pkg p
    obtain ⟨r, d, e, gp⟩ := g.pkg p
    exact ⟨r, d, e, by rw [gp, hp]; rfl⟩
  agenda e he := g.agenda e (h.agenda e he)

theorem SendsOnly.foldl {α : Type} {f : State → α → State} (h : ∀ s x, SendsOnly s (f s x)) (l : List α) (s : State) :
    SendsOnly s (l.foldl f s) := by
  induction l generalizing s with
  | nil => exact .refl s
  | cons x l ih => exact (h s x).trans (ih _)

theorem SendsOnly.die (h : SendsOnly s t) (d : DieId) : t.die d = s.die d := by rw [State.die, h.dies, State.die]

theorem sendsOnly_modPkg {n : Nat} {f : Pkg → Pkg}
    (h : ∀ p, ∃ rejects stamp events, f p = p.logged rejects stamp events) :
    SendsOnly s (s.modPkg n f) := by
  refine ⟨⟨rfl, fun p => ?_⟩, rfl, fun _ he => he⟩
  rw [State.pkg_modPkg]
  split
  case isTrue hp => exact hp ▸ h _
  case isFalse => exact ⟨_, _, _, rfl⟩

theorem sendsOnly_dieEvent (s : State) (d : DieId) (code unit : Nat) (slot : Option SlotId) (aux addr : Nat) :
    SendsOnly s (s.dieEvent d code unit slot aux addr) := by
  refine .trans (t := s.queueEvent _ _) ?_ (sendsOnly_modPkg fun _ => ⟨_, _, _, rfl⟩)
  exact ⟨⟨rfl, fun _ => ⟨_, _, _, rfl⟩⟩, rfl, fun _ he => he⟩

/-- A drop is counted, and it may be reported. -/
theorem dropAt_counts (s : State) (pkg port src : Nat) : ∃ (report : Bool) (u : State), u = s.modPkg pkg (fun p => { p with
      rejects := p.rejects + 1, dropStamp := if report then tset p.dropStamp src s.cycle else p.dropStamp }) ∧
    s.dropAt pkg port src = if report then u.dieEvent { pkg := pkg, die := port / 8 } 0x42 0 none port src else u := ⟨_, _, rfl, rfl⟩

theorem sendsOnly_dropAt (s : State) (pkg port src : Nat) : SendsOnly s (s.dropAt pkg port src) := by
  obtain ⟨report, u, hu, hdrop⟩ := dropAt_counts s pkg port src
  have hcount : SendsOnly s u := hu ▸ sendsOnly_modPkg fun _ => ⟨_, _, _, rfl⟩
  rw [hdrop]
  split
  · exact hcount.trans (sendsOnly_dieEvent ..)
  · exact hcount

theorem rejects_dropAt (s : State) (pkg port src : Nat) : ((s.dropAt pkg port src).pkg pkg).rejects = (s.pkg pkg).rejects + 1 := by
  obtain ⟨report, u, hu, hdrop⟩ := dropAt_counts s pkg port src
  have hcount : (u.pkg pkg).rejects = (s.pkg pkg).rejects + 1 := by rw [hu, State.pkg_modPkg_same]
  rw [hdrop]
  split
  · obtain ⟨v, hv⟩ : ∃ v, v = u.queueEvent { die := { pkg := pkg, die := port / 8 }, k := 0 }
        (eventRec 0x42 0 none port src) := ⟨_, rfl⟩
    have hqueue : v.pkg pkg = u.pkg pkg := by rw [hv]; rfl
    have hevent : u.dieEvent { pkg := pkg, die := port / 8 } 0x42 0 none port src = v.modPkg pkg (fun p => { p with
        events := p.events ++ [(port / 8, eventRec 0x42 0 none port src)] }) := by rw [hv]; rfl
    rw [hevent, State.pkg_modPkg_same, hqueue]
    exact hcount
  · exact hcount

/-! ### Ways are found without the counts and records of drops -/

section
variable (p : Pkg) (rejects : Nat) (stamp : Tbl Nat Nat) (events : List (Nat × Word))

theorem Pkg.freest_logged (l : List Nat) : (p.logged rejects stamp events).freest l = p.freest l := by
  induction l with
  | nil => rfl
  | cons n l ih =>
    rw [Pkg.freest, Pkg.freest, ih]
    rfl

theorem Pkg.outPortOf_logged (cls here dst : Nat) : (p.logged rejects stamp events).outPortOf cls here dst = p.outPortOf cls here dst := by
  simp only [Pkg.outPortOf, Pkg.entryPort, Pkg.freest_logged]
  rfl

theorem Pkg.resolve_logged (n : Nat) : (p.logged rejects stamp events).resolve n = p.resolve n := rfl

theorem Pkg.ringHops_logged (x y : Nat) : (p.logged rejects stamp events).ringHops x y = p.ringHops x y := rfl

theorem Pkg.port_logged (n : Nat) : (p.logged rejects stamp events).port n = p.port n := rfl

theorem Pkg.holdFor_logged (now dst : Nat) : (p.logged rejects stamp events).holdFor now dst = p.holdFor now dst := rfl

theorem Pkg.numberOf_logged (pos other : Nat) : (p.logged rejects stamp events).numberOf pos other = p.numberOf pos other := rfl

theorem Pkg.lpkg_logged : (p.logged rejects stamp events).lpkg = p.lpkg := rfl

end

section
variable (h : SameWays s t)
include h

theorem SameWays.peerOf (here port : Nat) : t.peerOf here port = s.peerOf here port := by
  obtain ⟨_, _, _, hp⟩ := h.pkg here
  rw [State.peerOf, hp]
  rfl

theorem SameWays.routeFrom (cls no : Nat) (dst : DieId) (fuel here die acc : Nat) :
    t.routeFrom cls no dst fuel here die acc = s.routeFrom cls no dst fuel here die acc := by
  induction fuel generalizing here die acc with
  | zero => rfl
  | succ fuel ih =>
    obtain ⟨_, _, _, hp⟩ := h.pkg here
    simp only [State.routeFrom, hp, ih, h.peerOf, h.cycle, Pkg.resolve_logged, Pkg.ringHops_logged, Pkg.outPortOf_logged,
      Pkg.port_logged, Pkg.holdFor_logged]

theorem SameWays.route (src dst : DieId) : t.route src dst = s.route src dst := by
  obtain ⟨_, _, _, hs⟩ := h.pkg src.pkg
  obtain ⟨_, _, _, hd⟩ := h.pkg dst.pkg
  simp only [State.route, State.wayOf, h.routeFrom, hs, hd, Pkg.ringHops_logged, Pkg.numberOf_logged, Pkg.lpkg_logged]
  rfl

theorem SameWays.keyBad (src dst : Nat) : t.keyBad src dst = s.keyBad src dst := by
  obtain ⟨_, _, _, hs⟩ := h.pkg src
  obtain ⟨_, _, _, hd⟩ := h.pkg dst
  rw [State.keyBad, hs, hd]
  rfl

theorem SameWays.hostBefore (cls : Nat) (src dst : DieId) : t.hostBefore cls src dst = s.hostBefore cls src dst := by
  obtain ⟨_, _, _, hs⟩ := h.pkg src.pkg
  rw [State.hostBefore, hs]
  rfl

end

/-- An event of a message between the dies that asks for nothing, whose reject nobody waits for, and whose channel keeps no order. -/
structure Event.Plain (ev : Event) : Prop where
  asks : ev.asks = none
  reject : ∀ (s : State) n cause reason, s.rejectToken ev n cause reason = s
  way : ∀ e, sameWay e ev = false

theorem sendsOnly_schedule (s : State) (cycle pri : Nat) (ev : Event) : SendsOnly s (s.schedule cycle pri ev) :=
  ⟨⟨rfl, fun _ => ⟨_, _, _, rfl⟩⟩, rfl, fun _ he => mem_insertDue.2 (.inr he)⟩

section
variable {ev : Event} (hev : ev.Plain)
include hev

theorem sendsOnly_sendFlit (s : State) (src dst : DieId) (base pri : Nat) : SendsOnly s (s.sendFlit src dst base pri ev) := by
  have hnoWay : s.noWay base pri ev = s := by
    simp only [State.noWay, hev.asks]
    exact hev.reject ..
  simp only [State.sendFlit, State.sendTrips, State.sendClass, hnoWay]
  split
  case h_1 =>
    split
    · rw [hev.reject]
      exact sendsOnly_dropAt ..
    · split
      · exact ⟨⟨rfl, fun _ => ⟨_, _, _, rfl⟩⟩, rfl, fun _ he => he⟩
      · exact sendsOnly_schedule ..
  case h_2 => exact ⟨⟨rfl, fun _ => ⟨_, _, _, rfl⟩⟩, rfl, fun _ he => he⟩
  case h_3 => exact .refl s

theorem sendFlit_arrives {s : State} {src dst : DieId} {n : Nat} (hroute : s.route src dst = .cost n)
    (hkey : s.keyBad src.pkg dst.pkg = false) (base pri : Nat) :
    { cycle := max (s.cycle + base + n) (s.hostBefore 1 src dst), pri := pri, ev := ev } ∈ (s.sendFlit src dst base pri ev).agenda := by
  have hheld : s.heldBefore ev = false := by simp [State.heldBefore, hev.way]
  have hbehind (due : Nat) : s.behind ev due = due := by simp [State.behind, hev.way]
  have hway : (if 1 = 1 ∨ 1 = 2 then s.route src dst else s.wayOf 1 src dst) = .cost n := hroute
  simp only [State.sendFlit, State.sendTrips, State.sendClass, hroute, hkey, hheld, hbehind, Bool.and_false, Bool.false_eq_true,
    if_false, true_or, if_true, Nat.one_mul]
  exact mem_schedule ..

end

/-- A message to each of some dies: each that finds its way is on the agenda. -/
theorem sendFlits_arrive {home d : DieId} {n base pri : Nat} {dest : DieId → Event} (hdest : ∀ d, (dest d).Plain) (s : State)
    (hroute : s.route home d = .cost n) (hkey : s.keyBad home.pkg d.pkg = false) {l : List DieId} (hd : d ∈ l) :
    { cycle := max (s.cycle + base + n) (s.hostBefore 1 home d), pri := pri, ev := dest d } ∈
      (l.foldl (fun s d => s.sendFlit home d base pri (dest d)) s).agenda := by
  induction l generalizing s with
  | nil => exact absurd hd nofun
  | cons x l ih =>
    have hsent := sendsOnly_sendFlit (hdest x) s home x base pri
    have hrest := SendsOnly.foldl (fun s d => sendsOnly_sendFlit (hdest d) s home d base pri) l (s.sendFlit home x base pri (dest x))
    rcases List.mem_cons.1 hd with rfl | hd
    · exact hrest.agenda _ (sendFlit_arrives (hdest d) hroute hkey ..)
    · have hlater := ih (s.sendFlit home x base pri (dest x)) (by rw [hsent.route, hroute]) (by rw [hsent.keyBad, hkey]) hd
      rwa [hsent.cycle, hsent.hostBefore] at hlater

theorem tokenGrant_plain (d home : DieId) (page : Nat) (excl : Bool) : (Event.tokenGrant d home page excl).Plain :=
  ⟨rfl, fun _ _ _ _ => rfl, fun e => by cases e <;> rfl⟩

theorem ownershipRecall_plain (d home : DieId) (page : Nat) : (Event.ownershipRecall d home page).Plain :=
  ⟨rfl, fun _ _ _ _ => rfl, fun e => by cases e <;> rfl⟩

end

/-! ## The landings of fabric accesses (R416, R423) -/

section
variable {s t : State} {q : MemReq} {id : Nat} {ev : Event}

/-- What is taken away is found no more. -/
theorem State.req_of_dropped (h : t.reqs = s.reqs.filter (fun r => r.id ≠ id)) : t.req id = none := by
  rw [State.req, h, List.find?_eq_none]
  intro r hr
  simpa using (List.mem_filter.1 hr).2

/-- A landing is about the requests and the contexts alone. -/
theorem lands_congr {u : State} (h : Lands s t q) (hreqs : u.reqs = t.reqs) (hctxs : u.ctxs = t.ctxs) : Lands s u q := by
  have hctx (a : Agent) : u.ctx a = t.ctx a := by rw [State.ctx, hctxs, State.ctx]
  simpa only [Lands, hreqs, hctx] using h

theorem fabricLoadLand_rejects (hq : s.req id = some q) (h : s.rejects q = true) :
    exec (.fabricLoadLand id) s = exec (.fabricReject id) (s.dropped q) := by
  rw [exec_fabricLoadLand, exec_fabricReject, execFabricLoadLand, hq]
  exact if_pos h

theorem fabricStorePerformed_rejects (hq : s.req id = some q) (h : s.rejects q = true) : exec (.fabricStorePerformed id) s =
    .next ((s.dropped q).schedule (s.cycle + s.hopsTo q) priLate (.fabricReject id)) := by
  rw [exec_fabricStorePerformed, execFabricStorePerformed, hq]
  exact if_pos h

theorem fabricLoadLand_lost (hq : s.req id = some q) (h : s.rejects q = false) (hlost : s.answerLost q = true) :
    exec (.fabricLoadLand id) s = .next (s.loadLost q (.fabricLoadLand id)) := by
  simp only [exec_fabricLoadLand, execFabricLoadLand, hq, h, hlost, if_true, Bool.false_eq_true, if_false]

theorem loadLost_performed (h : q.performed = true) : s.loadLost q ev = s := by
  simp only [State.loadLost, tryPerform_done h, h, Bool.not_true, Bool.false_and, Bool.false_eq_true, if_false]

/-- The lines of a load that its issuer's die keeps. -/
def State.keepLines (s : State) (d : DieId) (p : Piece) : State :=
  s.modDie d (fun k => { k with cachedLines := (placeKeys p).foldl cacheLine k.cachedLines })

/-- A load lands, and its issuer's die keeps its lines where it holds a token for their page. -/
theorem fabricLoadLand_lands (hq : s.req id = some q) (h : s.rejects q = false) (hlost : s.answerLost q = false)
    (ht : t = s.loadLands q (.fabricLoadLand id)) : ∃ keep : Bool,
    exec (.fabricLoadLand id) s = .next (if keep && (t.req id).isNone then t.keepLines (dieOf q.own) q.place else t) ∧
    ∀ page, placePage q.place = some page → page.1 ≠ dieOf q.own → (s.pkg (dieOf q.own).pkg).caches = true →
      keep = (s.die (dieOf q.own)).holds page false := by
  subst ht
  simp only [exec_fabricLoadLand, execFabricLoadLand, hq, h, hlost, Bool.false_eq_true, if_false]
  refine ⟨_, rfl, fun page hpage hne hcaches => ?_⟩
  simp only [hpage, hne, hcaches, ne_eq, not_false_eq_true, decide_true, Bool.true_and]

theorem sameBytes_keepLines (s : State) (d : DieId) (p : Piece) : SameBytes s (s.keepLines d p) :=
  (homesKept_modDie d (f := fun k => { k with cachedLines := (placeKeys p).foldl cacheLine k.cachedLines })
    (fun _ => rfl) (fun _ => rfl) fun _ => rfl).bytes

/-- A load that has been performed lands, and its lines are kept where a token is held for them. -/
theorem fabricLoadLand_landed (hq : s.req id = some q) (h : s.rejects q = false) (hlost : s.answerLost q = false)
    (he : s.earlierLoad q.own id = false) (hperf : q.performed = true) :
    ∃ t, exec (.fabricLoadLand id) s = .next t ∧ Lands s t q ∧
      ∀ page d, d = dieOf q.own → placePage q.place = some page → page.1 ≠ d → (s.pkg d.pkg).caches = true →
        ((s.die d).holds page false = true → (t.die d).cachedLines = (placeKeys q.place).foldl cacheLine (s.die d).cachedLines) ∧
        ((s.die d).holds page false = false → (t.die d).cachedLines = (s.die d).cachedLines) := by
  obtain ⟨u, hu⟩ : ∃ u, u = s.landReq q := ⟨_, rfl⟩
  have hlands : Lands s u q := hu ▸ lands_landReq rfl rfl
  have hgone : (u.req id).isNone = true := by
    rw [State.req_of_dropped (s := s) (by rw [hlands.1, s.req_id hq])]
    rfl
  have hdie (d : DieId) : u.die d = s.die d := by
    rw [hu, landReq_only]
    rfl
  obtain ⟨keep, hexec, hkeep⟩ := fabricLoadLand_lands hq h hlost (hu.trans (loadLands_landed hq hperf he).symm)
  rw [hgone, Bool.and_true] at hexec
  cases keep with
  | true =>
    refine ⟨_, hexec, lands_congr hlands rfl rfl, ?_⟩
    rintro page _ rfl hpage hne hcaches
    refine ⟨fun _ => ?_, fun hno => absurd ((hkeep page hpage hne hcaches).trans hno) nofun⟩
    rw [← hdie, if_pos rfl, State.keepLines, State.die_modDie_same]
  | false =>
    refine ⟨_, hexec, hlands, ?_⟩
    rintro page _ rfl hpage hne hcaches
    refine ⟨fun hyes => absurd ((hkeep page hpage hne hcaches).trans hyes) nofun, fun _ => ?_⟩
    rw [← hdie, if_neg nofun]

/-- What a load lands, whether its lines are kept or not. -/
theorem fabricLoadLand_keeps {r : MemReq} (hq : s.req id = some q) (h : s.rejects q = false) (hlost : s.answerLost q = false)
    (hlands : Lands s (s.loadLands q (.fabricLoadLand id)) r) (hbytes : SameBytes s (s.loadLands q (.fabricLoadLand id))) :
    ∃ t, exec (.fabricLoadLand id) s = .next t ∧ Lands s t r ∧ SameBytes s t := by
  obtain ⟨keep, hexec, _⟩ := fabricLoadLand_lands hq h hlost rfl
  refine ⟨_, hexec, ?_⟩
  split
  · exact ⟨lands_congr hlands rfl rfl, hbytes.trans (sameBytes_keepLines ..)⟩
  · exact ⟨hlands, hbytes⟩

/-- A load whose request stays keeps no lines. -/
theorem fabricLoadLand_stays {r : MemReq} (hq : s.req id = some q) (h : s.rejects q = false) (hlost : s.answerLost q = false)
    (hreq : (s.loadLands q (.fabricLoadLand id)).req id = some r) :
    exec (.fabricLoadLand id) s = .next (s.loadLands q (.fabricLoadLand id)) := by
  obtain ⟨keep, hexec, _⟩ := fabricLoadLand_lands hq h hlost rfl
  rw [hexec, hreq, Option.isNone_some, Bool.and_false, if_neg nofun]

theorem loseTurn_reqs (s : State) (c : CoreId) (ev : Event) : (s.loseTurn c ev).reqs = s.reqs := rfl

/-- A load that is to be performed: what it does where its home serves it. -/
theorem fabricLoadLand_reads (hq : s.req id = some q) (h : s.rejects q = false) (hlost : s.answerLost q = false)
    (hperf : q.performed = false) (hw : s.mustWait q = false) (hb : s.before q = []) (hop : q.op = .load) (hf : q.failed = none) :
    (∀ d, q.place.home = .die d → s.earlierLoad q.own id = false → firstBad (s.die d).bad q.place.addr q.place.len = none →
      ∃ t, exec (.fabricLoadLand id) s = .next t ∧
        Lands s t { q with value := memRead (s.die d).gallery q.place.addr q.place.len } ∧ SameBytes s t) ∧
    (∀ c, q.place.home = .core c →
      (s.bankTurn c q.place.addr q.place.len (.fabricLoadLand id) = false →
        exec (.fabricLoadLand id) s = .next (s.loseTurn c (.fabricLoadLand id))) ∧
      (s.bankTurn c q.place.addr q.place.len (.fabricLoadLand id) = true → ∃ t r, exec (.fabricLoadLand id) s = .next t ∧
        t.req id = some r ∧ r.performed = true ∧ r.value = memRead (s.core c).mem q.place.addr q.place.len ∧
        { cycle := s.cycle + 1, pri := priMem, ev := .fabricLoadLand id } ∈ t.agenda ∧ t.ctxs = s.ctxs ∧ SameBytes s t)) := by
  refine ⟨fun d hd he hsound => ?_, fun c hc => ⟨fun ht => ?_, fun ht => ?_⟩⟩
  · obtain ⟨hlands, hbytes⟩ := loadLands_die_reads (ev := .fabricLoadLand id) hq hperf hd (by rw [s.req_id hq, he]) hw hb hop
    rw [read_die hd, hsound] at hlands
    exact fabricLoadLand_keeps hq h hlost (hf ▸ hlands) hbytes
  · have hmiss := loadLands_core_misses hq hperf hc hw ht
    rw [← hmiss]
    exact fabricLoadLand_stays hq h hlost (by rw [hmiss, State.req_congr (loseTurn_reqs ..), hq])
  · obtain ⟨hreq, hagenda, hctxs, hbytes⟩ := loadLands_core_reads hq hperf hc hw ht hb hop rfl
    refine ⟨_, _, fabricLoadLand_stays hq h hlost hreq, hreq, ?_, ?_, hagenda, hctxs, hbytes⟩
    · simp only [MemReq.read, hc]
    · simp only [MemReq.read, hc]
      rfl

/-- A store whose acknowledgement is not dropped. -/
theorem fabricStored_eq (hlost : s.answerLost q = false) : s.fabricStored q = s.storeDone q (.fabricStorePerformed q.id) := by
  simp only [State.fabricStored, hlost, Bool.and_false, Bool.false_eq_true, if_false]

theorem fabricStorePerformed_stores (hq : s.req id = some q) (h : s.rejects q = false) (hlost : s.answerLost q = false)
    (hram : IsRam q.place.home) : exec (.fabricStorePerformed id) s = .next (s.storeDone q (.fabricStorePerformed id)) := by
  rw [exec_fabricStorePerformed, execFabricStorePerformed, hq]
  obtain ⟨c, hhome⟩ | ⟨d, hhome⟩ := hram <;>
    simp only [h, hhome, fabricStored_eq hlost, s.req_id hq, Bool.false_eq_true, if_false]

theorem fabricStorePerformed_host {p n : Nat} (hq : s.req id = some q) (h : s.rejects q = false) (hhome : q.place.home = .host p n) :
    exec (.fabricStorePerformed id) s = .next (s.schedule s.cycle priLate (.completionWriteCheck q.id)) := by
  simp only [exec_fabricStorePerformed, execFabricStorePerformed, hq, h, hhome, Bool.false_eq_true, if_false]
  rfl

/-! ## Rejects (R413, R416) -/

theorem rejects_dropped (s : State) (q : MemReq) :
    ((s.dropped q).pkg (s.homeDie q.place.home).pkg).rejects = (s.pkg (s.homeDie q.place.home).pkg).rejects + 1 := rejects_dropAt ..

/-- The cause of a reject waits for the issuer's next bundle boundary. -/
def State.waitsCause (s : State) (q : MemReq) : State :=
  (s.dropReq q.id).modCtx q.own (fun c => { c with after := c.after ++ [q.failed.getD (0x07, fabricValue 2 q.virt)] })

theorem waitsCause_leaves (s : State) (q : MemReq) : (s.waitsCause q).reqs = s.reqs.filter (fun r => r.id ≠ q.id) ∧
    ((s.waitsCause q).ctx q.own).after = (s.ctx q.own).after ++ [q.failed.getD (0x07, fabricValue 2 q.virt)] ∧
    ((s.waitsCause q).ctx q.own).visible = (s.ctx q.own).visible := by
  rw [State.waitsCause, State.ctx_modCtx_same]
  exact ⟨rfl, rfl, rfl⟩

theorem fabricReject_sup {v : SupId} (hq : s.req id = some q) (hown : q.own = .sup v) :
    exec (.fabricReject id) s = .next (s.waitsCause q) := by
  simp only [exec_fabricReject, execFabricReject, hq, State.waitsCause, s.req_id hq, hown]

theorem fabricReject_stage {i : SlotId} (hq : s.req id = some q) (hown : q.own = .stage i) :
    exec (.fabricReject id) s = if (s.slot i).idle || (s.ctx q.own).firing ≠ q.firing then
      .next ((s.dropReq id).dieEvent i.core.die 0x47 0 (some i) (wbits (q.failed.getD (0x07, fabricValue 2 q.virt)).2 60 4)
        (q.virt % 2 ^ 28)) else .next (s.waitsCause q) := by
  simp only [exec_fabricReject, execFabricReject, hq, State.waitsCause, s.req_id hq, hown]
  rfl

end

/-! ## Walks and invalidation (R363–R365) -/

/-- What an error that a read meets leaves: the words whose errors are corrected, and the count, may change. -/
structure ErrorsMet (s t : State) : Prop where
  ctxs : t.ctxs = s.ctxs
  die : ∀ d, ∃ once count, t.die d = { s.die d with badOnce := once, ecccnt := count }

section
variable {s t u : State}

theorem ErrorsMet.refl (s : State) : ErrorsMet s s := ⟨rfl, fun _ => ⟨_, _, rfl⟩⟩

theorem ErrorsMet.trans (h : ErrorsMet s t) (g : ErrorsMet t u) : ErrorsMet s u where
  ctxs := g.ctxs.trans h.ctxs
  die d := by
    obtain ⟨_, _, ht⟩ := h.die d
    obtain ⟨once, count, hu⟩ := g.die d
    exact ⟨once, count, by rw [hu, ht]⟩

theorem errorsMet_modDie (s : State) (d : DieId) {f : Die → Die}
    (h : ∀ k, ∃ once count, f k = { k with badOnce := once, ecccnt := count }) :
    ErrorsMet s (s.modDie d f) := by
  refine ⟨rfl, fun e => ?_⟩
  rw [State.die_modDie]
  split
  case isTrue he => exact he ▸ h _
  case isFalse => exact ⟨_, _, rfl⟩

theorem errorsMet_meetDie (s : State) (d : DieId) (addr n : Nat) : ErrorsMet s (s.meetDie d addr n) := by
  simp only [State.meetDie]
  split
  · exact .refl s
  · exact (errorsMet_modDie s d (f := fun k => { k with badOnce := k.badOnce.filter (· ∉ words8 addr n) }) fun _ => ⟨_, _, rfl⟩).trans
      (errorsMet_modDie _ d fun _ => ⟨_, _, rfl⟩)

theorem errorsMet_meetWalk (s : State) (d : DieId) (a : Nat) : ErrorsMet s (s.meetWalk d a) := by
  rw [State.meetWalk]
  generalize (s.die d).walkWords a = words
  induction words generalizing s with
  | nil => exact .refl s
  | cons w words ih => exact (errorsMet_meetDie s d w 8).trans (ih _)

theorem Die.walk_met (k : Die) (once : List Nat) (count : BitVec 64) (a : Nat) :
    { k with badOnce := once, ecccnt := count }.walk a = k.walk a := rfl

/-- A die whose walk for a page is done: it is counted, and a valid entry is installed. -/
def Die.walked (k : Die) (vpn : Nat) : Die :=
  { k with
    walks := k.walks.filter (· ≠ vpn), ftmiss := k.ftmiss + 1,
    tlb := match k.walk (vpn * 2 ^ 21) with
      | .ok e => tset k.tlb (vpn % 262144) (vpn, e)
      | .fault _ => k.tlb
      | .check _ => k.tlb }

theorem Die.cached_walked {k : Die} {vpn : Nat} {e : Word} (h : k.walk (vpn * 2 ^ 21) = .ok e) : (k.walked vpn).cached vpn = some e := by
  have htlb : (k.walked vpn).tlb = tset k.tlb (vpn % 262144) (vpn, e) := by
    rw [Die.walked, h]
  rw [Die.cached, htlb, tfind_tset_same]
  exact if_pos rfl

theorem Die.tlb_walked {k : Die} {vpn : Nat} (h : ∀ e, k.walk (vpn * 2 ^ 21) ≠ .ok e) : (k.walked vpn).tlb = k.tlb := by
  rw [Die.walked]
  cases hwalk : k.walk (vpn * 2 ^ 21) with
  | ok e => exact absurd hwalk (h e)
  | fault _ => rfl
  | check _ => rfl

/-- A context whose bundle waits for a walk finds it done. -/
def Ctx.walkDone (d : DieId) (vpn : Nat) (a : Agent) (c : Ctx) : Ctx :=
  if dieOf a = d ∧ c.walk = some (vpn, false) then { c with walk := some (vpn, true) } else c

/-- A table whose items change by their keys. -/
theorem tget_map_keyed {κ α : Type} [DecidableEq κ] {F : κ × α → κ × α} {G : κ → α → α} (hF : ∀ e, F e = (e.1, G e.1 e.2))
    (l : Tbl κ α) {k : κ} {d : α} (hd : G k d = d) : tget (l.map F) k d = G k (tget l k d) := by
  induction l with
  | nil => exact hd.symm
  | cons e l ih =>
    rw [List.map_cons, hF, tget, tget]
    split
    case isTrue h => rw [h]
    case isFalse => exact ih

theorem translationWalkDone_waits {d : DieId} {vpn : Nat} (h : s.walkLines d vpn ≠ []) : exec (.translationWalkDone d vpn) s =
    .next ((s.backInvalidate d.pkg (s.walkLines d vpn) false).schedule (s.cycle + 1) priLate (.translationWalkDone d vpn)) := by
  rw [exec_translationWalkDone, execTranslationWalkDone, if_pos h]

/-- A walk that ends. -/
theorem translationWalkDone_ends {d : DieId} {vpn : Nat} (h : s.walkLines d vpn = []) : ∃ t, exec (.translationWalkDone d vpn) s = .next t ∧
    t.die d = ((s.meetWalk d (vpn * 2 ^ 21)).die d).walked vpn ∧ ∀ a, t.ctx a = (s.ctx a).walkDone d vpn a := by
  rw [exec_translationWalkDone, execTranslationWalkDone, if_neg (by simp [h])]
  refine ⟨_, rfl, State.die_setDie_same .., fun a => ?_⟩
  have hctxs := (errorsMet_meetWalk s d (vpn * 2 ^ 21)).ctxs
  have hwaits : (Ctx.reset.walkDone d vpn a) = Ctx.reset := if_neg fun h => nomatch h.2
  have hmap := tget_map_keyed (F := fun e => if dieOf e.1 = d ∧ e.2.walk = some (vpn, false) then
    (e.1, { e.2 with walk := some (vpn, true) }) else e) (G := fun a c => c.walkDone d vpn a)
    (fun e => by rw [Ctx.walkDone]; split <;> rfl) s.ctxs hwaits
  rw [← hctxs] at hmap
  exact hmap.trans (by rw [hctxs, State.ctx])

theorem translationWalkDone_installs {d : DieId} {vpn : Nat} (h : s.walkLines d vpn = []) :
    ∃ t, exec (.translationWalkDone d vpn) s = .next t ∧ (t.die d).ftmiss = (s.die d).ftmiss + 1 ∧
      vpn ∉ (t.die d).walks ∧ (∀ e, (s.die d).walk (vpn * 2 ^ 21) = .ok e → (t.die d).cached vpn = some e) ∧
      ((∀ e, (s.die d).walk (vpn * 2 ^ 21) ≠ .ok e) → (t.die d).tlb = (s.die d).tlb) ∧
      (∀ a, dieOf a = d → (s.ctx a).walk = some (vpn, false) → (t.ctx a).walk = some (vpn, true)) ∧
      (∀ a, dieOf a ≠ d → t.ctx a = s.ctx a) := by
  obtain ⟨t, hexec, hdie, hctx⟩ := translationWalkDone_ends h
  obtain ⟨once, count, hmet⟩ := (errorsMet_meetWalk s d (vpn * 2 ^ 21)).die d
  obtain ⟨k, hk⟩ : ∃ k, k = (s.meetWalk d (vpn * 2 ^ 21)).die d := ⟨_, rfl⟩
  have hfields : k.ftmiss = (s.die d).ftmiss ∧ k.tlb = (s.die d).tlb ∧ k.walk (vpn * 2 ^ 21) = (s.die d).walk (vpn * 2 ^ 21) := by
    rw [hk, hmet]
    exact ⟨rfl, rfl, Die.walk_met ..⟩
  obtain ⟨hmiss, htlb, hwalk⟩ := hfields
  rw [← hk] at hdie
  refine ⟨t, hexec, ?_, ?_, fun e he => ?_, fun he => ?_, fun a ha hw => ?_, fun a ha => ?_⟩
  · rw [hdie, ← hmiss]
    rfl
  · rw [hdie]
    simp [Die.walked]
  · rw [hdie, Die.cached_walked (hwalk.trans he)]
  · rw [hdie, Die.tlb_walked fun e h => he e (hwalk.symm.trans h), htlb]
  · rw [hctx, Ctx.walkDone, if_pos ⟨ha, hw⟩]
  · rw [hctx, Ctx.walkDone, if_neg fun h => ha h.1]

theorem onlyDie_modDie (s : State) (d : DieId) (f : Die → Die) : OnlyDie s (s.modDie d f) d := by
  rw [OnlyDie, State.die_modDie_same, State.modDie]

theorem ftinvPage_takes (s : State) (d : DieId) (vpn : Nat) : ∃ t, exec (.ftinvPage d vpn) s = .next t ∧ OnlyDie s t d ∧
    ∀ e, e ∈ (t.die d).tlb ↔ e ∈ (s.die d).tlb ∧ e.2.1 ≠ vpn := by
  refine ⟨_, exec_ftinvPage .., onlyDie_modDie .., fun e => ?_⟩
  rw [State.die_modDie_same, List.mem_filter, decide_eq_true_iff]

theorem ftinvAll_empties (s : State) (d : DieId) : ∃ t, exec (.ftinvAll d) s = .next t ∧ OnlyDie s t d ∧ (t.die d).tlb = [] :=
  ⟨_, exec_ftinvAll .., onlyDie_modDie .., by rw [State.die_modDie_same]⟩

end

/-! ## Ownership tokens (R424–R426) -/

/-! ### The directory -/

section
variable (k : Die) (page : Nat)

theorem Die.dir_page : (k.dir page).page = page := by
  rw [Die.dir]
  cases h : k.directory.find? (fun e => e.page = page) with
  | none => rfl
  | some e => simpa using List.find?_some h

theorem Die.dir_setDir (e : DirEntry) (h : e.page = page) : (k.setDir e).dir page = e := by
  rw [Die.dir, Die.setDir, List.find?_cons_of_pos (by simpa using h)]
  rfl

end

/-- A directory with one page's record replaced. -/
def State.putDir (s : State) (home : DieId) (e : DirEntry) : State := s.modDie home (fun k => k.setDir e)

section
variable {s t u : State} {home src d : DieId} {page : Nat} {excl : Bool} {e : DirEntry}

theorem dir_putDir (s : State) (home : DieId) (h : e.page = page) : ((s.putDir home e).die home).dir page = e := by
  rw [State.putDir, State.die_modDie_same, Die.dir_setDir _ _ _ h]

theorem putDir_putDir (s : State) (home : DieId) (e f : DirEntry) : OnlyDie s ((s.putDir home e).putDir home f) home := by
  rw [OnlyDie, State.putDir, State.die_modDie_same, State.modDie, State.putDir, State.modDie, State.die_setDie_same]
  rw [State.setDie, State.setDie, State.setDie, tset_tset]

theorem sameWays_putDir (s : State) (home : DieId) (e : DirEntry) : SameWays s (s.putDir home e) := ⟨rfl, fun _ => ⟨_, _, _, rfl⟩⟩

theorem SameWays.trans (h : SameWays s t) (g : SameWays t u) : SameWays s u where
  cycle := g.cycle.trans h.cycle
  pkg p := by
    obtain ⟨_, _, _, hp⟩ := h.pkg p
    obtain ⟨r, d, e, gp⟩ := g.pkg p
    exact ⟨r, d, e, by rw [gp, hp]; rfl⟩

/-- Where nothing waits the directory serves nothing. -/
theorem serveDir_idle (h : ((s.die home).dir page).waiting = []) (n : Nat) : s.serveDir home page n = s := by
  cases n with
  | zero => rfl
  | succ n => simp only [State.serveDir, h]

/-- While a recall is under way the requests wait. -/
theorem serveDir_recalling (h : ((s.die home).dir page).recalling ≠ []) (n : Nat) : s.serveDir home page n = s := by
  cases n with
  | zero => rfl
  | succ n =>
    rw [State.serveDir]
    split
    · rfl
    · rw [if_pos h]

section
variable {rest : List (DieId × Bool)} (he : (s.die home).dir page = e) (hwait : e.waiting = (src, excl) :: rest)
  (hidle : e.recalling = [])
include he hwait hidle

theorem serveDir_grants (hc : e.conflicts src excl = []) (n : Nat) : s.serveDir home page (n + 1) =
    ((s.putDir home { (e.grant src excl) with waiting := rest }).sendFlit home src 30 priLate
      (.tokenGrant src home page excl)).serveDir home page n := by
  simp only [State.serveDir, he, hwait, hidle, hc, ne_eq, not_true_eq_false, if_false, if_true]
  rfl

theorem serveDir_recalls (hc : e.conflicts src excl ≠ []) (n : Nat) : s.serveDir home page (n + 1) =
    (e.conflicts src excl).foldl (fun s d => s.sendFlit home d 30 priLate (.ownershipRecall d home page))
      (s.putDir home { e with recalling := e.conflicts src excl }) := by
  simp only [State.serveDir, he, hwait, hidle, hc, ne_eq, not_true_eq_false, if_false]
  rfl

end

/-! ### Requests -/

/-- A request joins those that wait, and they are served. -/
theorem tokenRequest_joins {f : DirEntry} (he : e = (s.die home).dir page) (hf : f = { e with waiting := e.waiting ++ [(src, excl)] }) :
    exec (.tokenRequest home src page excl) s = .next ((s.putDir home f).serveDir home page (e.waiting.length + 1 + 1)) := by
  have hlength : (((s.putDir home f).die home).dir page).waiting.length = e.waiting.length + 1 := by
    rw [dir_putDir _ _ (by rw [hf, he, Die.dir_page]), hf, List.length_append, List.length_singleton]
  rw [exec_tokenRequest, ← hlength, hf, he]
  rfl

/-- A request that is the only one. -/
theorem tokenRequest_alone {f : DirEntry} (he : e = (s.die home).dir page) (hwait : e.waiting = [])
    (hf : f = { e with waiting := e.waiting ++ [(src, excl)] }) :
    exec (.tokenRequest home src page excl) s = .next ((s.putDir home f).serveDir home page (1 + 1)) := by
  rw [tokenRequest_joins he hf, hwait]
  rfl

theorem tokenRequest_waits (src : DieId) (excl : Bool) (he : e = (s.die home).dir page) (h : e.recalling ≠ []) :
    ∃ t, exec (.tokenRequest home src page excl) s = .next t ∧ OnlyDie s t home ∧
      (t.die home).dir page = { e with waiting := e.waiting ++ [(src, excl)] } := by
  have hdir := dir_putDir (e := { e with waiting := e.waiting ++ [(src, excl)] }) s home (he ▸ Die.dir_page ..)
  refine ⟨_, tokenRequest_joins he rfl, ?_⟩
  rw [serveDir_recalling (by rwa [hdir])]
  exact ⟨onlyDie_modDie .., hdir⟩

theorem tokenRequest_grants (he : e = (s.die home).dir page) (hidle : e.recalling = []) (hwait : e.waiting = [])
    (hc : e.conflicts src excl = []) : ∃ t u, exec (.tokenRequest home src page excl) s = .next t ∧ OnlyDie s u home ∧
      t = u.sendFlit home src 30 priLate (.tokenGrant src home page excl) ∧
      (u.die home).dir page = (if excl then { e with shared := [], excl := some src }
        else { e with excl := none, shared := e.shared.filter (· ≠ src) ++ [src] }) := by
  have hpage : e.page = page := he ▸ Die.dir_page ..
  obtain ⟨f, hf⟩ : ∃ f, f = { e with waiting := e.waiting ++ [(src, excl)] } := ⟨_, rfl⟩
  have hgrant : { (f.grant src excl) with waiting := [] } = if excl then { e with shared := [], excl := some src }
      else { e with excl := none, shared := e.shared.filter (· ≠ src) ++ [src] } := by
    rw [DirEntry.grant, hf]
    cases excl <;> simp [← hwait]
  obtain ⟨v, hv⟩ : ∃ v, v = s.putDir home f := ⟨_, rfl⟩
  have hdirv : (v.die home).dir page = f := by
    rw [hv]
    exact dir_putDir s home (by rw [hf, hpage])
  obtain ⟨u, hu⟩ : ∃ u, u = v.putDir home { (f.grant src excl) with waiting := [] } := ⟨_, rfl⟩
  have hdir : (u.die home).dir page = { (f.grant src excl) with waiting := [] } := by
    rw [hu]
    refine dir_putDir v home ?_
    rw [hgrant]
    split <;> exact hpage
  have hsent := sendsOnly_sendFlit (tokenGrant_plain src home page excl) u home src 30 priLate
  have hexec := tokenRequest_alone he hwait hf
  rw [← hv,
    serveDir_grants (rest := []) hdirv (by rw [hf, hwait]; rfl) (by rw [hf, hidle]) (by rw [hf]; exact hc), ← hu,
    serveDir_idle (by rw [hsent.die, hdir])] at hexec
  refine ⟨_, u, hexec, ?_, rfl, hdir.trans hgrant⟩
  rw [hu, hv]
  exact putDir_putDir ..

theorem tokenRequest_recalls (he : e = (s.die home).dir page) (hidle : e.recalling = []) (hwait : e.waiting = [])
    (hc : e.conflicts src excl ≠ []) : ∃ t, exec (.tokenRequest home src page excl) s = .next t ∧
      (t.die home).dir page = { e with waiting := [(src, excl)], recalling := e.conflicts src excl } ∧
      ∀ d ∈ e.conflicts src excl, ∀ n, s.route home d = .cost n → s.keyBad home.pkg d.pkg = false →
        { cycle := max (s.cycle + 30 + n) (s.hostBefore 1 home d), pri := priLate,
          ev := .ownershipRecall d home page } ∈ t.agenda := by
  have hpage : e.page = page := he ▸ Die.dir_page ..
  obtain ⟨f, hf⟩ : ∃ f, f = { e with waiting := e.waiting ++ [(src, excl)] } := ⟨_, rfl⟩
  obtain ⟨v, hv⟩ : ∃ v, v = s.putDir home f := ⟨_, rfl⟩
  have hdirv : (v.die home).dir page = f := by
    rw [hv]
    exact dir_putDir s home (by rw [hf, hpage])
  have hcf : f.conflicts src excl = e.conflicts src excl := by rw [hf]; rfl
  obtain ⟨u, hu⟩ : ∃ u, u = v.putDir home { f with recalling := e.conflicts src excl } := ⟨_, rfl⟩
  have hways : SameWays s u := by
    rw [hu, hv]
    exact (sameWays_putDir ..).trans (sameWays_putDir ..)
  have hexec := tokenRequest_alone he hwait hf
  rw [← hv,
    serveDir_recalls (rest := []) hdirv (by rw [hf, hwait]; rfl) (by rw [hf, hidle]) (by rwa [hcf]), hcf,
    ← hu] at hexec
  have hsent := SendsOnly.foldl (fun s d => sendsOnly_sendFlit (ownershipRecall_plain d home page) s home d 30 priLate)
    (e.conflicts src excl) u
  refine ⟨_, hexec, ?_, fun d hd n hroute hkey => ?_⟩
  · rw [hsent.die, hu, dir_putDir v home (by rw [hf, hpage]), hf, hwait]
    rfl
  · have harrives := sendFlits_arrive (base := 30) (pri := priLate) (dest := fun d => .ownershipRecall d home page)
      (fun d => ownershipRecall_plain d home page) u (hways.route home d ▸ hroute) (hways.keyBad .. ▸ hkey) hd
    rwa [hways.cycle, hways.hostBefore] at harrives

/-! ### Recalls -/

/-- A die whose token for a page is recalled. -/
def Die.recalled (k : Die) (home : DieId) (page : Nat) : Die :=
  { k with
    tokens := k.tokens.map (fun t => if t.home = home ∧ t.page = page then { t with recalled := true } else t),
    cachedLines := k.cachedLines.filter (fun l => !(l.1 = home && l.2 / 2 ^ 15 = page)) }

theorem Die.tokens_recalled (k : Die) (home : DieId) (page : Nat) : (k.recalled home page).tokens = k.tokens.map (fun o => { o with
    recalled := o.recalled || decide (o.home = home ∧ o.page = page) }) := by
  refine List.map_congr_left fun o _ => ?_
  by_cases h : o.home = home ∧ o.page = page
  · rw [if_pos h, decide_eq_true h, Bool.or_true]
  · rw [if_neg h, decide_eq_false h, Bool.or_false]

theorem Die.holds_recalled (k : Die) (home : DieId) (page : Nat) (x : Bool) : (k.recalled home page).holds (home, page) x = false := by
  rw [Die.holds, Die.tokens_recalled, List.any_map, List.any_eq_false]
  intro o _
  by_cases hhome : o.home = home <;> by_cases hpage : o.page = page <;> simp [hhome, hpage]

theorem ownershipRecall_takes (s : State) (d home : DieId) (page : Nat) : ∃ t u, exec (.ownershipRecall d home page) s = .next t ∧
    OnlyDie s u d ∧ t = u.sendFlit d home 58 priLate (.recallDone home d page) ∧
    (u.die d).tokens = (s.die d).tokens.map (fun o => { o with
      recalled := o.recalled || decide (o.home = home ∧ o.page = page) }) ∧
    (∀ x, (u.die d).holds (home, page) x = false) ∧
    (∀ l, l ∈ (u.die d).cachedLines ↔ l ∈ (s.die d).cachedLines ∧ ¬ (l.1 = home ∧ l.2 / 2 ^ 15 = page)) := by
  have hdie : (s.modDie d (fun k => k.recalled home page)).die d = (s.die d).recalled home page := State.die_modDie_same ..
  refine ⟨_, s.modDie d (fun k => k.recalled home page), exec_ownershipRecall .., onlyDie_modDie .., rfl, ?_, fun x => ?_, fun l => ?_⟩
  · rw [hdie, Die.tokens_recalled]
  · rw [hdie, Die.holds_recalled]
  · rw [hdie, Die.recalled, List.mem_filter]
    simp only [Bool.not_eq_true', ← Bool.not_eq_true, Bool.and_eq_true, decide_eq_true_eq]

theorem recallDone_gives (home src : DieId) (he : e = (s.die home).dir page) (hwait : e.waiting = []) : ∃ t,
    exec (.recallDone home src page) s = .next t ∧ t = { s with dies := t.dies } ∧
    (∀ d, d ≠ home → d ≠ src → t.die d = s.die d) ∧
    (t.die src).tokens = (s.die src).tokens.filter (fun o => !(o.home = home && o.page = page && o.recalled)) ∧
    (t.die home).dir page = { e with recalling := e.recalling.filter (· ≠ src), shared := e.shared.filter (· ≠ src),
                                     excl := if e.excl = some src then none else e.excl } := by
  obtain ⟨v, hv⟩ : ∃ v, v = s.modDie src (fun k => { k with
    tokens := k.tokens.filter (fun t => !(t.home = home && t.page = page && t.recalled)) }) := ⟨_, rfl⟩
  have hdir : (v.die home).dir page = e := by
    rw [hv, State.die_modDie]
    split
    case isTrue h => rw [he, h]; rfl
    case isFalse => exact he.symm
  obtain ⟨f, hf⟩ : ∃ f, f = { e with recalling := e.recalling.filter (· ≠ src), shared := e.shared.filter (· ≠ src),
                                     excl := if e.excl = some src then none else e.excl } := ⟨_, rfl⟩
  have hputs : (v.putDir home f).die home = (v.die home).setDir f := State.die_modDie_same ..
  have hput := dir_putDir (e := f) v home (page := page) (by rw [hf, he]; exact Die.dir_page ..)
  have hexec : exec (.recallDone home src page) s = .next ((v.putDir home f).serveDir home page
      (((((v.putDir home f).die home).dir page).waiting.length + 1))) := by
    rw [exec_recallDone, hf, ← hdir, hv]
    rfl
  rw [serveDir_idle (by rw [hput, hf, hwait])] at hexec
  refine ⟨_, hexec, hv ▸ rfl, fun d hhome hsrc => ?_, ?_, hput.trans hf⟩
  · rw [State.putDir, State.die_modDie, if_neg hhome, hv, State.die_modDie, if_neg hsrc]
  · have htokens : ((v.putDir home f).die src).tokens = (v.die src).tokens := by
      rw [State.putDir, State.die_modDie]
      split
      case isTrue h => rw [h]; rfl
      case isFalse => rfl
    rw [htokens, hv, State.die_modDie_same]

end

/-! ### Grants (R426) -/

/-- The request of a context, answered. -/
def CtlReq.granted (r : CtlReq) : CtlReq := { r with answer := some 0, trap := none }

/-- What answers with success leave: the dies and the agenda's events stay, and each request is as it was, or answered. -/
structure Answering (s t : State) : Prop where
  cycle : t.cycle = s.cycle
  dies : t.dies = s.dies
  agenda : ∀ e ∈ s.agenda, e ∈ t.agenda
  req : ∀ a, (t.ctx a).req = (s.ctx a).req ∨ (t.ctx a).req = (s.ctx a).req.map CtlReq.granted

section
variable {s t u : State}

theorem Answering.refl (s : State) : Answering s s := ⟨rfl, rfl, fun _ he => he, fun _ => .inl rfl⟩

theorem Answering.trans (h : Answering s t) (g : Answering t u) : Answering s u where
  cycle := g.cycle.trans h.cycle
  dies := g.dies.trans h.dies
  agenda e he := g.agenda e (h.agenda e he)
  req a := by
    rcases h.req a with ht | ht <;> rcases g.req a with hu | hu <;> rw [hu, ht]
    · exact .inl rfl
    · exact .inr rfl
    · exact .inr rfl
    · rw [Option.map_map]
      exact .inr rfl

/-- A request that has been answered, and is answered again or not, is the answered one. -/
theorem Answering.granted {a : Agent} {r : CtlReq} (h : Answering s t) (hr : (s.ctx a).req = some r.granted) :
    (t.ctx a).req = some r.granted := by
  rcases h.req a with ht | ht <;> rw [ht, hr]
  rfl

theorem req_answer (s : State) (a : Agent) : ((s.answer a 40 0 none).ctx a).req = (s.ctx a).req.map CtlReq.granted :=
  congrArg Ctx.req (State.ctx_modCtx_same s a fun c => { c with req := c.req.map CtlReq.granted })

theorem answering_answer (s : State) (a : Agent) : Answering s (s.answer a 40 0 none) := by
  refine ⟨rfl, rfl, fun e he => mem_insertDue.2 (.inr he), fun b => ?_⟩
  by_cases hb : b = a
  · rw [hb, req_answer]
    exact .inr rfl
  · exact .inl (congrArg Ctx.req (ctx_modCtx_ne hb s fun c => { c with req := c.req.map CtlReq.granted }))

section
variable {F : State → Agent × Ctx → State} (hF : ∀ s e, F s e = s ∨ F s e = s.answer e.1 40 0 none)
include hF

theorem answering_foldl (l : List (Agent × Ctx)) (s : State) : Answering s (l.foldl F s) := by
  induction l generalizing s with
  | nil => exact .refl s
  | cons e l ih =>
    rcases hF s e with h | h <;> rw [List.foldl_cons, h]
    · exact ih s
    · exact (answering_answer ..).trans (ih _)

/-- Each that is to be answered is, and its answer lands later. -/
theorem foldl_answers {e : Agent × Ctx} {r : CtlReq} (hanswer : ∀ s, F s e = s.answer e.1 40 0 none) (s : State)
    (hr : (s.ctx e.1).req = some r) {l : List (Agent × Ctx)} (he : e ∈ l) :
    ((l.foldl F s).ctx e.1).req = some r.granted ∧
    { cycle := s.cycle + 40, pri := priArrive, ev := .controlAnswerLand e.1 } ∈ (l.foldl F s).agenda := by
  obtain ⟨l₁, l₂, rfl⟩ := List.append_of_mem he
  rw [List.foldl_append, List.foldl_cons, hanswer]
  obtain ⟨u, hu⟩ : ∃ u, u = l₁.foldl F s := ⟨_, rfl⟩
  have hbefore : Answering s u := hu ▸ answering_foldl hF l₁ s
  have hafter := answering_foldl hF l₂ (u.answer e.1 40 0 none)
  rw [← hu, ← hbefore.cycle]
  refine ⟨hafter.granted ?_, hafter.agenda _ (mem_schedule ..)⟩
  rw [req_answer]
  rcases hbefore.req e.1 with h | h <;> rw [h, hr] <;> rfl

end

/-- A context that has a request is listed. -/
theorem ctx_listed {a : Agent} {r : CtlReq} (h : (s.ctx a).req = some r) : (a, s.ctx a) ∈ s.ctxs := by
  rw [State.ctx, tfind_eq_tget] at h ⊢
  cases hfind : tfind s.ctxs a with
  | none =>
    rw [hfind] at h
    exact nomatch h
  | some c => exact mem_of_tfind hfind

/-- A context that waits for a token is answered as the token is granted. -/
def State.grantTo (d home : DieId) (page : Nat) (excl : Bool) (s : State) (e : Agent × Ctx) : State :=
  match e.2.req with
  | some r => (match r.token with
    | some t => if dieOf e.1 = d ∧ t.1 = home ∧ t.2.1 = page ∧ (excl ∨ !t.2.2) ∧ r.answer.isNone then s.answer e.1 40 0 none else s
    | none => s)
  | none => s

section
variable {d home : DieId} {page : Nat} {excl : Bool}

theorem grantTo_cases (s : State) (e : Agent × Ctx) :
    s.grantTo d home page excl e = s ∨ s.grantTo d home page excl e = s.answer e.1 40 0 none := by
  rw [State.grantTo]
  split
  · split
    · split
      · exact .inr rfl
      · exact .inl rfl
    · exact .inl rfl
  · exact .inl rfl

theorem grantTo_waiting {e : Agent × Ctx} {r : CtlReq} {x : Bool} (hd : dieOf e.1 = d) (hreq : e.2.req = some r)
    (htoken : r.token = some (home, page, x)) (hanswer : r.answer = none) (hexcl : excl = true ∨ x = false) (s : State) :
    s.grantTo d home page excl e = s.answer e.1 40 0 none := by
  simp only [State.grantTo, hreq, htoken, hd, hanswer, true_and, Option.isNone_none, and_true]
  exact if_pos (by simpa using hexcl)

end

/-- A die that holds a token for a page from now on. -/
def Die.given (k : Die) (home : DieId) (page : Nat) (excl : Bool) : Die :=
  { k with tokens := k.tokens.filter (fun t => !(t.home = home && t.page = page)) ++
      [{ home := home, page := page, excl := excl, recalled := false }] }

theorem tokenGrant_gives (s : State) (d home : DieId) (page : Nat) (excl : Bool) : exec (.tokenGrant d home page excl) s =
    .next (s.ctxs.foldl (State.grantTo d home page excl) (s.modDie d (fun k => k.given home page excl))) := rfl

theorem tokenGrant_holds (s : State) (d home : DieId) (page : Nat) (excl : Bool) : ∃ t,
    exec (.tokenGrant d home page excl) s = .next t ∧
    (t.die d).tokens = (s.die d).tokens.filter (fun o => !(o.home = home && o.page = page)) ++
      [{ home := home, page := page, excl := excl, recalled := false }] ∧
    ∀ a r x, dieOf a = d → (s.ctx a).req = some r → r.token = some (home, page, x) → r.answer = none →
      (excl = true ∨ x = false) → (t.ctx a).req = some { r with answer := some 0, trap := none } ∧
      { cycle := s.cycle + 40, pri := priArrive, ev := .controlAnswerLand a } ∈ t.agenda := by
  refine ⟨_, tokenGrant_gives .., ?_, fun a r x hd hreq htoken hanswer hexcl => ?_⟩
  · rw [State.die, (answering_foldl grantTo_cases _ _).dies, ← State.die, State.die_modDie_same, Die.given]
  · exact foldl_answers grantTo_cases (e := (a, s.ctx a)) (grantTo_waiting hd hreq htoken hanswer hexcl) (s.modDie d _) hreq
      (ctx_listed hreq)

end

/-! ## Stores to the memory of a host (R392, R393, R397, R398) -/

section
variable {s : State} {p id : Nat} {e : Divert}

/-- A mailbox command that completes leaves the requests, and of its package all but the mailbox. -/
theorem settleMailbox_leaves (s : State) (p id : Nat) : (s.settleMailbox p id).reqs = s.reqs ∧ ∃ box code waits,
    (s.settleMailbox p id).pkg p = { s.pkg p with mailbox := box, mailboxCode := code, mailboxWaits := waits } := by
  simp only [State.settleMailbox, State.complete]
  split
  · exact ⟨rfl, _, _, _, rfl⟩
  · split <;> simp only [State.pkg_modPkg_same] <;> exact ⟨rfl, _, _, _, rfl⟩

/-- The last of the stores that a mailbox command waits for completes it. -/
theorem settleMailbox_completes (hcode : (s.pkg p).mailboxCode = none) (hid : id ∈ (s.pkg p).mailboxWaits)
    (hlast : (s.pkg p).mailboxWaits.filter (· ≠ id) = []) : ((s.settleMailbox p id).pkg p).mailboxCode = some 0 := by
  simp only [State.settleMailbox, hid, not_true_eq_false, if_false, State.pkg_modPkg_same, hcode, hlast, Option.isNone_none, true_and,
    if_true, State.complete]
  rfl

/-- Copies that go change dies alone. -/
theorem dropCopies_rest (s : State) (own : Agent) (h : Home) (addr n : Nat) : ∃ dies, s.dropCopies own h addr n = { s with dies := dies } := by
  rw [State.dropCopies]
  split
  · exact ⟨_, rfl⟩
  · exact ⟨_, rfl⟩

/-- What an engine writes to a gallery changes dies alone. -/
theorem engineWrite_rest (s : State) (d : DieId) (own : Agent) (addr : Nat) (data : List Byte) (count : Bool) :
    ∃ dies, s.engineWrite d own addr data count = { s with dies := dies } := by
  rw [State.engineWrite]
  obtain ⟨dies, h⟩ := dropCopies_rest (s.setDie d _) own (.die d) addr data.length
  exact ⟨dies, h⟩

/-! ### Diverted writes -/

/-- A package whose orphan log has taken an entry. -/
def Pkg.orphaned (k : Pkg) (id : Nat) : Pkg := { k with horpn := k.horpn + 1, diverts := k.diverts.filter (fun x => x.id ≠ id) }

theorem divert_eq (s : State) (p : Nat) (e : Divert) : ∃ dies,
    s.divert p e = ((({ s with dies := dies } : State).modPkg p (fun k => k.orphaned e.id)).dropReq e.id).settleMailbox p e.id := by
  simp only [State.divert]
  split
  · exact ⟨s.dies, rfl⟩
  · obtain ⟨dies, h⟩ := engineWrite_rest s { pkg := p, die := (s.pkg p).landing.getD 0 }
      (landingAgent { pkg := p, die := (s.pkg p).landing.getD 0 }) ((s.pkg p).orphanAddr (s.pkg p).horpn.toNat)
      (padTo 128 e.data ++ leBytes 8 e.addr ++ leBytes 1 e.reason ++ leBytes 1 e.ring ++ List.replicate 118 0) false
    rw [h]
    exact ⟨dies, rfl⟩

/-- A store whose entry the orphan log takes is performed. -/
theorem divert_performs (s : State) (p : Nat) (e : Divert) : ((s.divert p e).pkg p).horpn = (s.pkg p).horpn + 1 ∧
    (s.divert p e).req e.id = none ∧ ((s.divert p e).pkg p).hostMem = (s.pkg p).hostMem := by
  obtain ⟨dies, h⟩ := divert_eq s p e
  obtain ⟨u, hu⟩ : ∃ u, u = (({ s with dies := dies } : State).modPkg p (fun k => k.orphaned e.id)).dropReq e.id := ⟨_, rfl⟩
  obtain ⟨hreqs, box, code, waits, hpkg⟩ := settleMailbox_leaves u p e.id
  have hupkg : u.pkg p = (s.pkg p).orphaned e.id := by
    rw [hu]
    exact State.pkg_modPkg_same ({ s with dies := dies } : State) p fun k => k.orphaned e.id
  rw [h, ← hu, hpkg, hupkg]
  refine ⟨rfl, State.req_of_dropped (s := s) ?_, rfl⟩
  rw [hreqs, hu]
  rfl

theorem tryDivert_free (h : s.orphanLines p = []) : s.tryDivert p e = s.divert p e := by rw [State.tryDivert, if_pos h]

/-- A write kept from the orphan log by the host's copies stays checked, and is tried again. -/
theorem tryDivert_waits (h : s.orphanLines p ≠ []) :
    { cycle := s.cycle + 1, pri := priLate, ev := .completionWriteCheck e.id } ∈ (s.tryDivert p e).agenda ∧
    (s.tryDivert p e).reqs = s.reqs ∧ ((s.tryDivert p e).pkg p).horpn = (s.pkg p).horpn ∧
    e.id ∈ ((s.tryDivert p e).pkg p).diverts.map (·.id) := by
  obtain ⟨u, hu⟩ : ∃ u, u = s.modPkg p (fun k => { k with diverts := k.diverts.filter (fun x => x.id ≠ e.id) ++ [e] }) := ⟨_, rfl⟩
  have htry : s.tryDivert p e = (u.backInvalidate p (s.orphanLines p) true).schedule (s.cycle + 1) priLate (.completionWriteCheck e.id) := by
    rw [State.tryDivert, if_neg h, hu]
  have hkept : ((s.tryDivert p e).pkg p).horpn = (u.pkg p).horpn ∧ ((s.tryDivert p e).pkg p).diverts = (u.pkg p).diverts := by
    have hpkg : (s.tryDivert p e).pkg p = (u.backInvalidate p (s.orphanLines p) true).pkg p := by rw [htry]; rfl
    rw [hpkg, State.backInvalidate, State.pkg_modPkg_same]
    exact ⟨rfl, rfl⟩
  obtain ⟨hcount, hdiverts⟩ := hkept
  refine ⟨?_, ?_, ?_, ?_⟩
  · rw [htry]
    exact mem_schedule ..
  · rw [htry, hu]
    rfl
  · rw [hcount, hu, State.pkg_modPkg_same]
  · rw [hdiverts, hu, State.pkg_modPkg_same]
    exact List.mem_map_of_mem (List.mem_append_right _ (List.mem_singleton_self e))

theorem diverted_id (h : s.diverted id = some (p, e)) : e.id = id := by
  obtain ⟨x, _, hx⟩ := List.exists_of_findSome?_eq_some h
  obtain ⟨y, hy, heq⟩ := Option.map_eq_some_iff.1 hx
  obtain ⟨_, rfl⟩ := Prod.mk.inj heq
  simpa using List.find?_some hy

theorem completionWriteCheck_diverts (h : s.diverted id = some (p, e)) :
    exec (.completionWriteCheck id) s = .next (s.tryDivert p e) := by
  rw [exec_completionWriteCheck, execCompletionWriteCheck, h]

/-- A diverted write whose entry nothing keeps back. -/
theorem diverted_performs (h : s.diverted id = some (p, e)) (hfree : s.orphanLines p = []) : ∃ t,
    exec (.completionWriteCheck id) s = .next t ∧ (t.pkg p).horpn = (s.pkg p).horpn + 1 ∧ t.req id = none ∧
    (t.pkg p).hostMem = (s.pkg p).hostMem := by
  refine ⟨_, completionWriteCheck_diverts h, ?_⟩
  rw [tryDivert_free hfree, ← diverted_id h]
  exact divert_performs ..

/-! ### The check -/

section
variable {q : MemReq} {n : Nat} {data : List Byte} {w hr : Word} (hq : s.req id = some q) (hhome : q.place.home = .host p n)
  (hop : q.op = .store data) (hdiv : s.diverted id = none)
include hq hhome hop hdiv

theorem completionWriteCheck_behind (h : s.behindAcquire q.own id = true) : exec (.completionWriteCheck id) s =
    .next (s.schedule (s.cycle + 1) priLate (.completionWriteCheck id)) := by
  simp only [exec_completionWriteCheck, execCompletionWriteCheck, hdiv, hq, hhome, hop, h, if_true]

section
variable (hw : w = tget (s.pkg p).hwin n 0) (hhr : hr = tget (s.pkg p).hring (wbits w 59 3) 0)
  (hfree : s.behindAcquire q.own id = false)
include hw hhr hfree

/-- What a write that is checked becomes. -/
theorem completionWriteCheck_checks : ∃ e : Nat → Divert, (∀ r, (e r).id = id) ∧ exec (.completionWriteCheck id) s =
    if w.getLsbD 62 = false then .next (s.toCache p id q.place.addr data false)
    else if data.length ≠ 128 ∨ q.place.addr % 128 ≠ 0 then .next (s.tryDivert p (e 2))
    else if hr.getLsbD 63 = false ∨ leNat ((data.drop 8).take 4) ≠ wbits hr 0 32 then .next (s.tryDivert p (e 1))
    else .next (s.toCache p id q.place.addr data true) := by
  refine ⟨fun r => { id := id, ring := wbits w 59 3, reason := r, addr := q.place.addr, data := data }, fun _ => rfl, ?_⟩
  subst hw hhr
  simp only [exec_completionWriteCheck, execCompletionWriteCheck, hdiv, hq, hhome, hop, hfree, Bool.false_eq_true, if_false,
    Bool.not_eq_true']

/-- A write that its check passes goes to the host. -/
theorem completionWriteCheck_passes (h : w.getLsbD 62 = false ∨ (data.length = 128 ∧ q.place.addr % 128 = 0 ∧ hr.getLsbD 63 = true ∧
      leNat ((data.drop 8).take 4) = wbits hr 0 32)) : ∃ t, exec (.completionWriteCheck id) s = .next t ∧ OnlyPkg s t p ∧
    (t.pkg p).cacheWrites = (s.pkg p).cacheWrites ++ (hostLines q.place.addr data).map (fun l =>
      { id := id, addr := l.1, data := l.2, completion := w.getLsbD 62 }) := by
  refine ⟨s.toCache p id q.place.addr data (w.getLsbD 62), ?_, ?_, ?_⟩
  · obtain ⟨e, _, hexec⟩ := completionWriteCheck_checks hq hhome hop hdiv hw hhr hfree
    rw [hexec]
    cases h62 : w.getLsbD 62 with
    | false => exact if_pos rfl
    | true =>
      obtain h | ⟨hlength, halign, hvalid, hgen⟩ := h
      · exact absurd (h62.symm.trans h) nofun
      · simp [hlength, halign, hvalid, hgen]
  · rw [OnlyPkg, State.toCache, State.pkg_modPkg_same, State.modPkg]
  · rw [State.toCache, State.pkg_modPkg_same]

/-- A completion write that its check does not pass is diverted. -/
theorem completionWriteCheck_fails (h62 : w.getLsbD 62 = true) (h : data.length ≠ 128 ∨ q.place.addr % 128 ≠ 0 ∨ hr.getLsbD 63 = false ∨
      leNat ((data.drop 8).take 4) ≠ wbits hr 0 32) :
    ∃ e : Divert, e.id = id ∧ exec (.completionWriteCheck id) s = .next (s.tryDivert p e) := by
  obtain ⟨e, hid, hexec⟩ := completionWriteCheck_checks hq hhome hop hdiv hw hhr hfree
  rw [hexec, if_neg (by simp [h62])]
  by_cases hshape : data.length ≠ 128 ∨ q.place.addr % 128 ≠ 0
  · exact ⟨e 2, hid 2, if_pos hshape⟩
  · rw [if_neg hshape, if_pos ((or_assoc.2 h).resolve_left hshape)]
    exact ⟨e 1, hid 1, rfl⟩

end

end

/-! ### Observation -/

/-- The memory of a host in which a store's writes have been performed. -/
def Pkg.observed (k : Pkg) (id : Nat) : Pkg :=
  { k with
    cacheWrites := k.cacheWrites.filter (fun w => w.id ≠ id),
    hostMem := (k.cacheWrites.filter (fun w => w.id = id)).foldl (fun m w => memWrite m w.addr w.data) k.hostMem }

theorem hostGlobalObservation_performs (h : s.cacheOf id = some p) (hloads : ∀ q, s.req id = some q → ∀ r ∈ s.before q, r.op = .load) :
    exec (.hostGlobalObservation id) s = .next (((s.modPkg p (fun k => k.observed id)).dropReq id).settleMailbox p id) := by
  simp only [exec_hostGlobalObservation, execHostGlobalObservation, h]
  refine if_neg fun hearly => ?_
  cases hq : s.req id with
  | none => simp [hq] at hearly
  | some q =>
    simp only [hq, List.any_eq_true, decide_eq_true_iff] at hearly
    obtain ⟨r, hr, hop⟩ := hearly
    exact hop (hloads q hq r hr)

theorem hostGlobalObservation_leaves (h : s.cacheOf id = some p)
    (hloads : ∀ q, s.req id = some q → ∀ r ∈ s.before q, r.op = .load) : ∃ t, exec (.hostGlobalObservation id) s = .next t ∧
    (t.pkg p).hostMem = ((s.pkg p).observed id).hostMem ∧ (t.pkg p).cacheWrites = ((s.pkg p).observed id).cacheWrites ∧
    t.reqs = s.reqs.filter (fun r => r.id ≠ id) ∧
    ((s.pkg p).mailboxCode = none → id ∈ (s.pkg p).mailboxWaits → (s.pkg p).mailboxWaits.filter (· ≠ id) = [] →
      (t.pkg p).mailboxCode = some 0) := by
  obtain ⟨u, hu⟩ : ∃ u, u = (s.modPkg p (fun k => k.observed id)).dropReq id := ⟨_, rfl⟩
  obtain ⟨hreqs, box, code, waits, hpkg⟩ := settleMailbox_leaves u p id
  have hupkg : u.pkg p = (s.pkg p).observed id := by
    rw [hu]
    exact State.pkg_modPkg_same s p fun k => k.observed id
  refine ⟨_, hu ▸ hostGlobalObservation_performs h hloads, ?_, ?_, ?_, fun hcode hid hlast => ?_⟩
  · rw [hpkg, hupkg]
  · rw [hpkg, hupkg]
  · rw [hreqs, hu]
    rfl
  · apply settleMailbox_completes <;> rw [hupkg]
    · exact hcode
    · exact hid
    · exact hlast

end

/-- Settles O53: what each event of a fabric access, a walk, a token or a store to a host does, clause by clause. -/
theorem fabricEvents : Obligations.FabricEvents := by
  intro s id
  refine ⟨fun q hq h => ?_, fun q hq h hlost hperf => ?_, fun q hq h hlost he hperf => ?_, fun q hq h hlost hperf hw hb hop hf => ?_,
    fun q data hq h hlost hperf hop => ?_, fun q w hq hw => ?_, fun d vpn h => ?_, fun d vpn h => ?_, fun d vpn => ?_, fun d => ?_,
    fun home src page excl e he => ?_, fun d home page => ?_, fun home src page e he hwait => ?_, fun d home page excl => ?_,
    fun q p n data w hr hq hhome hop hw hhr hdiv => ?_, fun p e h hfree => ?_, fun p mine h hmine hloads => ?_⟩
  · exact ⟨fabricLoadLand_rejects hq h, fabricStorePerformed_rejects hq h, rejects_dropped ..⟩
  · rw [fabricLoadLand_lost hq h hlost, loadLost_performed hperf]
  · exact fabricLoadLand_landed hq h hlost he hperf
  · exact fabricLoadLand_reads hq h hlost hperf hw hb hop hf
  · refine ⟨fun hram hw hb ht hsound => ?_, fun p n hhome => fabricStorePerformed_host hq h hhome⟩
    obtain ⟨hreqs, _, hstored⟩ := storeDone_stores hq hperf hop hram hw ht hb hsound rfl
    exact ⟨_, fabricStorePerformed_stores hq h hlost hram, hreqs, hstored⟩
  · obtain ⟨hreqs, hafter, hvisible⟩ := waitsCause_leaves s q
    rw [s.req_id hq] at hreqs
    subst hw
    refine ⟨fun v hv => ⟨_, fabricReject_sup hq hv, hreqs, hafter⟩, fun i hi hidle hfiring => ⟨_, ?_, hreqs, hafter, hvisible⟩,
      fun i hi hgone => ?_⟩
    · rw [fabricReject_stage hq hi, if_neg (by simp [hidle, hfiring])]
    · rw [fabricReject_stage hq hi, if_pos (by simpa using hgone)]
  · exact translationWalkDone_waits h
  · exact translationWalkDone_installs h
  · exact ftinvPage_takes ..
  · exact ftinvAll_empties ..
  · exact ⟨tokenRequest_waits src excl he, tokenRequest_grants he, tokenRequest_recalls he⟩
  · exact ownershipRecall_takes ..
  · exact recallDone_gives home src he hwait
  · exact tokenGrant_holds ..
  · refine ⟨completionWriteCheck_behind hq hhome hop hdiv, completionWriteCheck_passes hq hhome hop hdiv hw hhr, fun hfree h62 h => ?_⟩
    obtain ⟨e, rfl, hexec⟩ := completionWriteCheck_fails hq hhome hop hdiv hw hhr hfree h62 h
    refine ⟨_, hexec, fun hlines => ?_, tryDivert_waits⟩
    rw [tryDivert_free hlines]
    obtain ⟨hcount, hgone, _⟩ := divert_performs s p e
    exact ⟨hcount, hgone⟩
  · exact diverted_performs h hfree
  · exact hmine ▸ hostGlobalObservation_leaves h hloads

end Sys2Proof.Machine
end
